-- ==== Sys2Proof/Word.lean ====
section
/-! DEFINITION. Word.lean: the words of the C9 and their plainest arithmetic. -/

namespace Sys2Proof

/-- One byte. -/
abbrev Byte := BitVec 8
/-- A 16-bit word. -/
abbrev W16 := BitVec 16
/-- A 32-bit word: a 32-bit register, an FP32 value, one word of a dispatch-list entry. -/
abbrev W32 := BitVec 32
/-- A 64-bit word: a 64-bit register. -/
abbrev W64 := BitVec 64

end Sys2Proof
end

