-- ==== Sys2Proof/Syntax.lean ====
section
/-! DEFINITION. Syntax.lean: the commands of the C9, one constructor per row of spec/opcode_table.json, with the
row's operands. A register write carries the word written; an event of a unit names what it happens to, and carries
what the outside world (a memory cell, a wire, a sensor, a host, another package) contributes to it. -/

namespace Sys2Proof

/-- Names one entry of the dispatch lists of the step in progress of a context (R108): context, phase of the shape,
index of the entry in the phase's list. -/
structure EntryRef where
  ctx : BitVec 6
  phase : BitVec 8
  idx : Nat
  deriving DecidableEq, Repr

/-- What the hardware met while a unit worked: package addresses of staples whose CRC failed at this read (R76, R77),
corrected lagoon errors (R71), lagoon words that read uncorrectable (R71), symbol errors that an atoll or the shoal
corrected at its reads (memory unit, count; R128), staples that met an error it could not correct (R129), elements of a
result that a silent error changed (index, value read), and cycles or nanoseconds of unit time spent. -/
structure UnitEnv where
  badStaples : List Nat := []
  lagoonCe : Nat := 0
  lagoonUe : List Nat := []
  memCe : List (Nat × Nat) := []
  memUe : List Nat := []
  silent : List (Nat × W32) := []
  busyNs : Nat := 0
  deriving DecidableEq, Repr

/-- The combined vote of one edge (R116, R352, R374), and the skeins whose record writes to host memory fail at the commits of
that edge (R227). -/
structure Vote where
  flag : Bool
  causes : BitVec 16
  want : W64
  hold : W64
  replay : W64
  lostRings : List (BitVec 18) := []
  deriving DecidableEq, Repr

/-- What the units found unfinished at a beat edge (R115): per report, the cause code, the contexts the reporting unit
serves, for MEM_STALL the stall cause of R146, and the logical spindle that reports, when the unit is a spindle. -/
structure Overrun where
  cause : BitVec 4
  ctx : Option (BitVec 6)
  stall : Option (BitVec 4) := none
  spindle : Option Nat := none
  deriving DecidableEq, Repr

/-- A memory access of a thread (R68): package address, bytes, for a store the bytes stored, and whether it is a read of KV
through the KV unit (R131, R206). -/
structure Access where
  addr : BitVec 48
  len : Nat
  store : Option (List Byte) := none
  kv : Bool := false
  deriving DecidableEq, Repr

/-- What a tile program that runs past a beat edge did in the beat that ends: the VECTOR entry it runs for, the bytes it
wrote (R113), and the access to memory for which its thread waits (R68, R70). -/
structure ProgReport where
  e : EntryRef
  writes : List (Nat × Byte) := []
  pending : Option Access := none
  deriving DecidableEq, Repr

/-- A merge that a tile program computes on its vector unit (R170 to R172, R176): package addresses of the records, head
dimension, SHARD of the result, address of the result record, address at which the row's lse is stored, and whether the
records are partial query gradients, which are summed. -/
structure MergeOp where
  records : List Nat
  dim : Nat
  shard : Nat
  out : Nat
  lse : Option Nat := none
  grad : Bool := false
  deriving DecidableEq, Repr

/-- The consumer classes whose energy the governor integrates (R401): each spindle, each reef engine, the carding unit and the
rest of the package. -/
inductive EnergyClass where
  | spindle (n : BitVec 9)
  | reef (engine : BitVec 3)
  | carding
  | rest
  deriving DecidableEq, Repr

/-- Whom the units served in a beat (R364): for how long each spindle, reef engine and the carding unit served a context, in any
one unit of time, and what spills and restores took of the rest of the package for the incoming context, in µJ. -/
structure BeatEnergy where
  served : List (EnergyClass × BitVec 6 × Nat) := []
  spill : List (BitVec 6 × Nat) := []
  deriving DecidableEq, Repr

/-- One command of a queue's ring in host memory (R217): its sixteen words. -/
abbrev CmdWords := List W32

/-- The fields of a packet's request header (R293). -/
structure ReqHeader where
  opcode : BitVec 5
  tc : BitVec 2
  order : BitVec 2
  retx : Bool
  fenced : Bool
  dest : BitVec 10
  src : BitVec 10
  window : BitVec 12
  tag : BitVec 16
  dir : BitVec 3
  offset : BitVec 40
  length : W32
  pktOff : W32
  key : W32
  subop : BitVec 4
  sigOp : BitVec 2
  msgCtx : BitVec 6
  srcCtx : BitVec 6
  group : BitVec 6
  sigOffset : BitVec 40
  valueA : W64
  valueB : W64
  deriving DecidableEq, Repr

/-- A request packet on the wire: header, payload, and the CRC word it carries (R293). -/
structure Packet where
  hdr : ReqHeader
  payload : List Byte
  crc : W32
  deriving DecidableEq, Repr

/-- A response packet (R294). -/
structure RespPacket where
  opcode : BitVec 5
  tc : BitVec 2
  status : BitVec 4
  dest : BitVec 10
  src : BitVec 10
  tag : BitVec 16
  nakReason : BitVec 4
  pktOff : W32
  value : W64
  data : List Byte
  crc : W32
  deriving DecidableEq, Repr

/-- The fields of an ID frame (R280). -/
structure IdFrame where
  identity : W64
  kind : BitVec 2
  code : BitVec 2
  port : BitVec 3
  node : BitVec 10
  role : BitVec 3
  lock : BitVec 2
  deriving DecidableEq, Repr

/-- What the self-test found (R434): failing spindles as (die, physical), atolls, shoal modules, the harbour die. -/
structure SelfTest where
  spindles : List (Nat × Nat) := []
  atolls : List Nat := []
  shoals : List Nat := []
  harbour : Bool := false
  deriving DecidableEq, Repr

/-- How an access of a thread ends, as MEMORY_ACCESS_COMPLETE reports it (R68): with data, with a status of R311, with a
staple at a package address that fails its check (R77), or with a lagoon word or staple at a package address that cannot be
corrected (R71, R129). -/
inductive AccessEnd where
  | ok
  | badCrc (addr : BitVec 48)
  | badStatus (status : BitVec 4)
  | uncorrectable (addr : BitVec 48)
  deriving DecidableEq, Repr

/-- How a local replay, a swap copy, a host read or another environment-timed activity ended. -/
inductive CopyEnd where
  | ok | sourceUe | failed
  deriving DecidableEq, Repr

/-- Result of a buddy replay (R371). -/
inductive BuddyAnswer where
  | digest (d : BitVec 384)
  | refused
  deriving DecidableEq, Repr

/-- A buddy request as it arrives (R371): the step number and the patched descriptor, SLOT in it, of its header with the
widenings to the committed format, the FP32 source, and what the replay's reads find here. -/
structure BuddyRequest where
  step : W64
  words : List W32
  widen : Nat := 0
  source : List W32
  env : UnitEnv := {}
  deriving DecidableEq, Repr

/-- A pass digest of a buddy (R379): its node and context, the digest, and whether it answers one of this package. -/
structure PassDigest where
  src : BitVec 10
  srcCtx : BitVec 6
  d : BitVec 384
  answer : Bool := false
  deriving DecidableEq, Repr

/-- Who of a participant arrives or waits at a barrier (R317): the participant itself (a pilot core), thread t of its
spindle with what the thread wrote before and no earlier command reported (R318), or a SYNC entry of its list (R320). -/
inductive Arriver where
  | self
  | thread (t : BitVec 3) (writes : List (Nat × Byte))
  | entry (e : EntryRef)
  deriving DecidableEq, Repr

/-- A barrier unit as its context names it (R315). -/
structure BarrierRef where
  ctx : BitVec 6
  barrier : Byte
  deriving DecidableEq, Repr

/-- A hardware thread: spindle and thread number (R67). -/
structure ThreadRef where
  spindle : Nat
  thread : BitVec 3
  deriving DecidableEq, Repr

/-- What MEMORY_ACCESS_COMPLETE reports of an access of a thread: how it ended, and the access where it is named (R68). -/
structure AccessReport where
  how : AccessEnd
  acc : Option Access := none
  deriving DecidableEq, Repr

/-- What a tile program that ends has computed: the merges of its vector unit (R170 to R172, R176), and the bytes that it
wrote and no earlier command reported. -/
structure ProgOut where
  merges : List MergeOp := []
  writes : List (Nat × Byte) := []
  deriving DecidableEq, Repr

/-- What the units report at a beat edge: what they found unfinished (R115), and what tile programs that run past the edge
did in the beat that ends (R113). -/
structure EdgeReports where
  late : List Overrun := []
  progs : List ProgReport := []
  deriving DecidableEq, Repr

/-- A queue doorbell: the word written, and whether the C9 can read the command ring that it announces (R229). -/
structure Doorbell where
  word : W32
  ringOk : Bool := true
  deriving DecidableEq, Repr

/-- A SEND that arrives: a message packet (R306), one of a causeway transfer, shown as the packet it carries (R308), or the last
one of the SPDM exchange of a pair session with a node, with its result (R421). -/
inductive SendPacket where
  | message (p : Packet)
  | causeway (p : Packet)
  | pairSpdm (node : BitVec 10) (ok : Bool)
  deriving DecidableEq, Repr

/-- The peer's certificate chain in a link session: whether its signatures hold, and the digest of the root public key at its
end (R419). -/
structure PeerChain where
  valid : Bool
  root : BitVec 384
  deriving DecidableEq, Repr

/-- The peer's measurements 2 and 5 (R408, R419). -/
structure PeerMeas where
  firmware : BitVec 384
  slots : BitVec 384
  deriving DecidableEq, Repr

/-- Condition of a watch (R327). -/
inductive WatchCond where
  | eq | ge | ne
  deriving DecidableEq, Repr

/-- A one-sided operation as a thread or unit issues it (R292): the header's fields, the payload, and whether the thread
asks for the completion (R68). -/
structure FabricOp where
  spindle : Option Nat
  thread : BitVec 3
  ctx : BitVec 6
  hdr : ReqHeader
  payload : List Byte
  wait : Bool := false
  deriving DecidableEq, Repr

/-- One sample of the power governor (R386, R387, R391, R392, R401): package and spindle-die power and the package's average
over the last 1 ms, in W; of each held leave, by its place, its power now and over the last 1 ms, in W; the energy of each
class since the sample before, in µJ; and the time since then in ns. -/
structure PowerIn where
  instW : Nat
  spinW : Nat
  avgMsW : Nat
  leaveW : List (Nat × Nat × Nat) := []
  classUj : List (EnergyClass × Nat) := []
  elapsedNs : Nat := 1000
  deriving DecidableEq, Repr

/-- Package energy of a sample, in µJ. -/
def PowerIn.energyUj (m : PowerIn) : Nat := m.classUj.foldl (fun t c => t + c.2) 0

/-- Readings of one thermal sample (R397), in 1/16 °C: junction maxima of die 0, die 1 and the harbour die, the
hottest base die, coolant inlet and outlet; and the time since the previous step of the throttle, in µs. -/
structure ThermIn where
  die0 : Int
  die1 : Int
  harbour : Int
  base : Int
  inlet : Int
  outlet : Int
  deriving DecidableEq, Repr

/-- Lanes of a port: adapted coefficients after a training (R436): (lane, register word). -/
structure TrainEnd where
  ok : Bool
  coeffs : List (Nat × W32) := []
  deriving DecidableEq, Repr

/-- The commands. One constructor per row of spec/opcode_table.json, in the table's order. -/
inductive Instr where
  -- the register interface
  | registerWrite (off : BitVec 26) (size : Nat) (v : W64)
  | illegalSizeAccess (wr : Bool) (off : BitVec 26) (size : Nat) (v : W64)
  | unmappedAccess (wr : Bool) (off : BitVec 26) (size : Nat) (v : W64)
  | lowWordRead (off : BitVec 26)
  | highWordRead (off : BitVec 26)
  | lowWordWrite (off : BitVec 26) (v : W32)
  | highWordWrite (off : BitVec 26) (v : W32)
  | rcCounterRead (off : BitVec 26) (size : Nat)
  | vfInvalidAccess (fn : BitVec 4) (wr : Bool) (off : BitVec 20) (size : Nat) (v : W64)
  | cairnWrite (off : BitVec 26) (size : Nat) (v : W64)
  -- fallback
  | traceClr (v : W32)
  | gauCntClr (v : W32)
  | fbEn (v : W32)
  | tensorEntry (e : EntryRef) (env : UnitEnv)
  | repeatComplete (e : EntryRef) (env : UnitEnv)
  | adapterPass (e : EntryRef) (env : UnitEnv)
  | tileComplete (e : EntryRef) (env : UnitEnv)
  | retainWindowClose (e : EntryRef)
  | vectorEntry (e : EntryRef) (env : UnitEnv)
  | vectorProgramEnd (e : EntryRef) (out : ProgOut) (env : UnitEnv)
  | nopEntry (e : EntryRef)
  | memoryAccessComplete (spindle : Nat) (thread : BitVec 3) (rep : AccessReport)
  | packageFence (who : ThreadRef) (writes : List (Nat × Byte))
  | packageFenceComplete (spindle : Nat) (thread : BitVec 3)
  | spnCntClr (spindle : Nat) (v : W32)
  | spnCaptureClr (spindle : Nat) (v : W32)
  -- weaves and beats
  | wvLoadStart (v : W32)
  | weaveLoadDone
  | beatEdge (reports : EdgeReports) (energy : BeatEnergy) (vote : Option Vote)
  | patchStep (ctx : BitVec 6) (phase : BitVec 8)
  | slipVoteResult (v : Vote)
  | voteTimeout
  | voteLossTimeout
  | tallyFrame (offsetPs : Int) (beat : W64) (rootNode : BitVec 10) (hops : BitVec 8)
  | holdoverExpired
  | btCtrlWrite (v : W32)
  | beatLenWrite (v : W32)
  | pinExpiry (ctx : BitVec 6) (layer : Nat)
  | primingComplete (ctx : BitVec 6)
  | spill (r : BitVec 6) (c : BitVec 6) (spindle : Nat)
  | restore (c : BitVec 6) (spindle : Nat)
  -- memory
  | memRgnWrite (off : BitVec 26) (size : Nat) (v : W64)
  | memBindWrite (ctx : BitVec 6) (w : BitVec 5) (v : W32)
  | swapListStart (v : W32)
  | swapPairCopied (how : CopyEnd)
  | memCntClr (v : W32)
  | stapleRestore (addr : BitVec 48) (homeOk : Bool)
  | scrubStaple (addr : BitVec 48) (corrected : Nat) (uncorrectable : Bool)
  | digestPassStart
  | digestPassEnd
  | passDigestReceive (ctx : BitVec 6) (w : BitVec 5) (d : PassDigest)
  | atollFailure (a : BitVec 3)
  | shoalFailure (m : BitVec 2)
  | atollRetrain (a : BitVec 3)
  | atollRetrainDone (ok : Bool)
  -- reef
  | reefFwd (e : EntryRef) (a : BitVec 3) (env : UnitEnv)
  | reefBwd (e : EntryRef) (a : BitVec 3) (env : UnitEnv)
  | reefRowStart (e : EntryRef) (a : BitVec 3) (row : Nat) (env : UnitEnv)
  | reefCntClr (a : BitVec 3) (v : W32)
  | reefCaptureClr (a : BitVec 3) (v : W32)
  -- KV
  | build (v : W32)
  | kvBuildComplete
  | kvCntClr (v : W32)
  | kvCaptureClr (v : W32)
  | shardCreate (v : W64)
  | flushComplete (head : BitVec 18)
  | carryLanded (head : BitVec 18)
  | prefillPageWrite (skein : BitVec 18) (page : Nat) (data : List Byte)
  | shardPageLanding (head : BitVec 18) (page : Nat) (data : List Byte)
  | shardRelease (skein : BitVec 18) (gen : W16) (node : BitVec 10)
  | directoryRepair (head : BitVec 18) (a : BitVec 3) (leaf : Option Nat)
  -- skeins
  | qDoorbell (q : BitVec 12) (bell : Doorbell)
  | nop (q : BitVec 12) (cmd : CmdWords)
  | admitSkein (q : BitVec 12) (cmd : CmdWords)
  | cancel (q : BitVec 12) (cmd : CmdWords)
  | retire (q : BitVec 12) (cmd : CmdWords)
  | reprioritise (q : BitVec 12) (cmd : CmdWords)
  | stopLoad (q : BitVec 12) (cmd : CmdWords) (image : List W32)
  | qRingTail (q : BitVec 12) (v : W64)
  | directCancel (v : W64)
  | sknHankAdd (v : W64)
  | queueEnable (q : BitVec 12) (v : W64)
  | queueDisable (q : BitVec 12) (v : W64)
  | ctxRangeWrite (ctx : BitVec 6) (v : W64)
  | promptSliceStaged (skein : BitVec 18) (chunks : Nat) (buffer : Option (List Byte))
  | completionRecordWrite (skein : BitVec 18) (hostOk : Bool)
  -- sampling
  | sampleEntry (e : EntryRef) (env : UnitEnv)
  | commitProfile (v : W32)
  | profileCheckDone
  | smpCntClr (v : W32)
  | smpCaptureClr (v : W32)
  -- carding
  | route (e : EntryRef) (env : UnitEnv)
  | gather (e : EntryRef) (env : UnitEnv)
  | ret (e : EntryRef) (env : UnitEnv)
  | combine (e : EntryRef) (env : UnitEnv)
  | crdCntClr (v : W32)
  | crdCaptureClr (v : W32)
  -- fabric
  | fabricOperationIssue (op : FabricOp)
  | put (p : Packet)
  | putSignal (p : Packet)
  | get (p : Packet)
  | reduce (p : Packet)
  | mcastPut (p : Packet)
  | atomic (p : Packet) (hold : Bool)
  | signal (p : Packet)
  | send (p : SendPacket)
  | ack (r : RespPacket)
  | data (r : RespPacket)
  | nak (r : RespPacket)
  | retransmitTimeout (tag : W16) (pktOff : W32)
  | operationTimeout (tag : W16) (responded : Bool)
  | fence (spindle : Nat) (thread : BitVec 3)
  | recv (spindle : Nat) (thread : BitVec 3)
  | codewordReceive (port : BitVec 3) (seq : BitVec 9) (ackSeq : BitVec 9) (nakBit : Bool) (idle : Bool)
      (corrected : Nat) (good : Bool) (tagFail : Bool)
  | laneRepair (port : BitVec 3) (lane : BitVec 5)
  | signalLoss (port : BitVec 3)
  | retrainInterval (port : BitVec 3)
  | portTrainingDone (port : BitVec 3) (how : TrainEnd)
  | portRetrainDone (port : BitVec 3) (ok : Bool)
  | idFrame (port : BitVec 3) (f : IdFrame)
  | linkSpdmFrame (port : BitVec 3) (done : Bool) (chain : PeerChain) (meas : PeerMeas)
  | linkKeyUpdate (port : BitVec 3) (ok : Bool)
  | portDownNotice (pos : BitVec 7) (dir : BitVec 3)
  | portUp (pos : BitVec 7) (dir : BitVec 3)
  | prsntMate (port : BitVec 3)
  | prsntRelease (port : BitVec 3)
  | winCfgWrite (off : BitVec 26) (size : Nat) (v : W64)
  | windowDrainDone (w : BitVec 12)
  | gldNodeWrite (v : W32)
  | causewayWrite (v : W32)
  | msgRingWrite (ctx : BitVec 6) (v : W64)
  -- synchronisation
  | arrive (bar : BarrierRef) (participant : Nat) (who : Arriver)
  | wait (bar : BarrierRef) (participant : Nat) (who : Arriver)
  | arriveWait (bar : BarrierRef) (participant : Nat) (who : Arriver)
  | arriveMessage (ctx : BitVec 6) (barrier : Byte) (gen : Bool) (src : BitVec 7) (mask : BitVec 128)
  | releaseMessage (ctx : BitVec 6) (barrier : Byte) (gen : Bool) (mask : BitVec 128)
  | watch (spindle : Nat) (thread : BitVec 3) (addr : BitVec 48) (cond : WatchCond) (operand : W64)
  | synCntClr (v : W32)
  | synCaptureClr (v : W32)
  -- ferry
  | ferryEntry (e : EntryRef)
  | load (ch : BitVec 6) (v : W32)
  | resume (ch : BitVec 6) (v : W32) (ok : Bool)
  | abort (ch : BitVec 6) (v : W32)
  | timerTrigger (ch : BitVec 6)
  | transferComplete (ch : BitVec 6) (hostData : List Byte) (busyNs : Nat) (env : UnitEnv)
  | busError (ch : BitVec 6) (k0 : Nat) (k1 : Nat) (k2 : Nat)
  | fryCntClr (v : W32)
  | fryCaptureClr (v : W32)
  -- contexts
  | teardown (ctx : BitVec 6) (v : W32)
  | teardownComplete (ctx : BitVec 6)
  | ctxSpillWrite (ctx : BitVec 6) (k : BitVec 3) (v : W32)
  | ctxCaptureClr (v : W32)
  -- integrity
  | witnessReplay (e : EntryRef)
  | witnessComplete (e : EntryRef) (result : List W32) (flagged : Bool) (env : UnitEnv)
  | strikeExpiry (p : Nat)
  | buddyRequest (src : BitVec 10) (tag : W16) (ctx : BitVec 6) (weaveId : W64) (req : BuddyRequest)
  | buddyAnswer (e : EntryRef) (a : BuddyAnswer)
  | buddyTimeout (e : EntryRef)
  | hangTimeout (spindle : Nat)
  | intFence (v : W32)
  | sounding (v : W32)
  | soundingComplete (pass : Bool) (block : BitVec 4)
  | intCntClr (v : W32)
  | intCaptureClr (v : W32)
  -- power
  | powerSample (m : PowerIn)
  | vfStepDone
  | droopAlarm (die : Bool) (deficitMv : Nat) (active : Bool)
  | thermalSample (t : ThermIn)
  | thermalLimitTimeout
  | floorTimeout
  | havenEnter (v : W32)
  | havenExit (v : W32)
  | capHostWrite (v : W32)
  | bmcCapSet (watts : W16)
  | pwrCntClr (v : W32)
  -- security
  | slotWrite (v : W32)
  | keyLoad (v : W32)
  | keyClear (v : W32)
  | unsealWrite (v : W32)
  | svnAdvance (v : W32)
  | getVersion
  | getCertificate (slot : BitVec 4)
  | challenge (nonce : BitVec 256)
  | getMeasurements (index : Byte)
  | keyExchange (nonce : BitVec 256)
  | keyUpdate (session : BitVec 2)
  | heartbeat (session : BitVec 2)
  | ideKm (stream : BitVec 3) (secure : Bool)
  -- bring-up
  | standbyPowerUp
  | mainEnAssert
  | mainEnDeassert
  | enShortOpen
  | inputUndervoltage
  | powerGood
  | railTimeout (group : BitVec 3)
  | stageComplete (us : Nat)
  | cold (v : W32)
  | warm (v : W32)
  | warmRejoinDone (us : Nat) (selfTest : SelfTest) (retainLost : List Nat) (beat : W64)
  | fwGo (v : W32)
  | fwFetchDone (readOk : Bool) (sigOk : Bool) (svn : W16) (digest : BitVec 384)
  | bootOffer (port : BitVec 3) (digest : BitVec 384) (svn : W16)
  | selftestDone (t : SelfTest)
  | retrainRequest (v : W32)
  | perstAssert
  | perstDeassert (refclk : Bool)
  | hostLinkDown (fns : BitVec 16)
  | hostLinkUp (fns : BitVec 16)
  | hostLossTimeout
  | mctpControl (cmd : Byte)
  | irqMaskWrite (v : W32)
  | hotReset
  | enShortClose
  deriving DecidableEq, Repr

end Sys2Proof
end

