-- ==== Sys2Proof/Config.lean ====
section
/-! DEFINITION. Config.lean: what the manual leaves open. Every constant below is opaque: no proof can see its value,
so a statement about it holds for every value. Each is named in an entry of the assumption log. -/

namespace Sys2Proof.Config

/-- Sign and payload of the quiet NaN an FP32 operation returns (IEEE 754 leaves both open; log 2). -/
opaque nanBits : W32 → W32 → W32 → BitVec 23
/-- min and max of an operand pair that holds a NaN: the manual does not say which of the IEEE 754 operations it means
(log 2). -/
opaque maxWithNan : W32 → W32 → W32
opaque minWithNan : W32 → W32 → W32
/-- The 32-bit integer to which an FP32 value converts that is NaN or beyond the integer's range (R63; log 2). -/
opaque intOutOfRange : W32 → W32
/-- sin of an argument of magnitude above 2^24 (R63: a fixed function that the manual does not specify; log 2). -/
opaque sinBig : W32 → W32
/-- cos of an argument of magnitude above 2^24 (R63; log 2). -/
opaque cosBig : W32 → W32
/-- A fresh free value: applied to the counter `free` of State (log 1). -/
opaque freeValue : Nat → W64

/-- First page of the home range of a sharded sequence: the manual gives no command that states it (R209; log 12).
Arguments: MAXLEN, PROMPT_LEN, SHARDS_M1. -/
opaque homeFirstPage : Nat → Nat → Nat → Nat

/-! ### Cryptographic functions: fixed standards that this model does not compute (log 3) -/

/-- SHA-384 of a byte string. -/
opaque sha384 : List Byte → BitVec 384
/-- SHA-384 of `n` bytes given by the listed (offset, byte) pairs, every other byte being what unlisted memory reads. -/
opaque sha384Range : List (Nat × Byte) → Nat → BitVec 384
/-- SHA-384 of a list of digests (R134). -/
opaque sha384Digests : List (BitVec 384) → BitVec 384
/-- ECDSA P-384 verification: public key (97 bytes), message digest, signature (96 bytes). -/
opaque ecdsaOk : List Byte → BitVec 384 → List Byte → Bool
/-- ECDH on P-384: private key, public key of 97 bytes; the shared secret Z (R413). -/
opaque ecdh : BitVec 384 → List Byte → List Byte
/-- HKDF-SHA-384: salt, input key material, info; the first 48 bytes of output (R413, R417). -/
opaque hkdf384 : List Byte → List Byte → List Byte → List Byte
/-- AES-256-GCM decryption: key, nonce, additional data, ciphertext, tag; none on a failed tag. -/
opaque gcmOpen : BitVec 256 → BitVec 96 → List Byte → List Byte → List Byte → Option (List Byte)
/-- AES-256-GCM encryption: key, nonce, additional data, plaintext; ciphertext and 16-byte tag. -/
opaque gcmSeal : BitVec 256 → BitVec 96 → List Byte → List Byte → List Byte × List Byte
/-- The certificate chain of slot 0 (R405). -/
opaque certChain : List Byte
/-- ECDSA P-384 signature: private key, digest (R409). -/
opaque ecdsaSign : BitVec 384 → BitVec 384 → List Byte
/-- Measurement 1: the digest of the boot ROM (R408). -/
opaque romDigest : BitVec 384

/-- AES-256-GCM under the pair session with a node (R421): node, request header, payload. -/
opaque pairSeal : Nat → List Byte → List Byte → List Byte
/-- Its inverse at the receiving node; none when the payload or the request header, its additional data, is not the one that
was sealed (R421). -/
opaque pairOpen : Nat → List Byte → List Byte → Option (List Byte)

/-! ### Sections whose encoding is internal to Ilugrax (R67, R72, R103; log 33); each is named by its SHA-384 digest -/

/-- Logical spindles that a PHASE_CFG section names. -/
opaque phaseSpindles : BitVec 384 → List Nat
/-- Logical spindles that a TILE_PROG section names, and its number of tile programs. -/
opaque progSpindles : BitVec 384 → List Nat
opaque progCount : BitVec 384 → Nat
/-- Whether the lagoon regions of every phase meet R72: digests of PHASE_CFG, BEAT_PLAN and TEMPLATES. -/
opaque lagoonRegionsOk : BitVec 384 → BitVec 384 → BitVec 384 → Bool

/-- Headers of the REDUCE and MCAST_PUT operations that the program of a VECTOR entry would issue: digest of the weave's
section table, words of the entry (R265; log 33). -/
opaque programSends : BitVec 384 → List W32 → List ReqHeader

/-- First lagoon byte after the adapter region of a spindle in a phase (R62, R72): digest of PHASE_CFG, the phase's CONFIG,
the spindle. -/
opaque adapterEnd : BitVec 384 → Nat → Nat → Nat

/-- Link units that a port's virtual channels of a traffic class hold between them (R285, R286; log 45). -/
opaque classCredit : Nat → Nat

/-! ### Layouts that the manual does not give -/

/-- Index within a weight shard of the block of contraction block kb and output column n, for a shard of a number of
blocks and a tile of a number of contraction blocks (R34: "block order" is not defined; log 16). -/
opaque weightBlock : Nat → Nat → Nat → Nat → Nat
/-- Byte i of a block-scaled output: format code, FP32 elements (R109, R66: neither tensor scale nor layout is given; log
14). -/
opaque packedOutput : Nat → List W32 → Nat → Byte
/-- Which of a context's shard directories a row of a REEF entry uses on a package that is not the home package, modulo
their number (R173 names none; log 34). -/
opaque shardRow : Nat → Nat
/-- The L of R162 that a shard package uses for a sequence, by its home skein and step number: the manual names no place from
which it takes it (R173, R209; log 34). -/
opaque shardLength : Nat → Nat → Nat

end Sys2Proof.Config
end

