-- ==== Sys2Proof/Machine/Fp.lean ====
section
/-! DEFINITION. Machine/Fp.lean: IEEE 754 binary32 as R63 uses it: exact values, one rounding (to nearest, ties to
even, subnormals kept), the arithmetic and the correctly rounded functions, BF16, and the reductions of R63 and R64. -/

namespace Sys2Proof.Machine

/-- The value of a binary32 word: NaN, an infinity, or the exact dyadic number ±m · 2^e. -/
inductive FpVal where
  | nan
  | inf (neg : Bool)
  | fin (neg : Bool) (m : Nat) (e : Int)
  deriving DecidableEq, Repr

def fpNeg (w : W32) : Bool := w.msb
def fpExp (w : W32) : Nat := (w.toNat >>> 23) % 256
def fpMan (w : W32) : Nat := w.toNat % 2 ^ 23

/-- Decodes binary32 (R21). -/
def fpVal (w : W32) : FpVal :=
  if fpExp w = 255 then (if fpMan w = 0 then .inf (fpNeg w) else .nan)
  else if fpExp w = 0 then .fin (fpNeg w) (fpMan w) (-149)
  else .fin (fpNeg w) (fpMan w + 2 ^ 23) (fpExp w - 150)

def fpIsNan (w : W32) : Bool := fpExp w == 255 && fpMan w != 0
def fpIsInf (w : W32) : Bool := fpExp w == 255 && fpMan w == 0
/-- Neither NaN nor infinite. -/
def fpIsFinite (w : W32) : Bool := fpExp w != 255
/-- A positive, finite and normal value (R36). -/
def fpPosNormal (w : W32) : Bool := !fpNeg w && fpExp w != 0 && fpExp w != 255

/-- A quiet NaN whose sign and payload the manual leaves open. -/
def fpQnan (a b c : W32) : W32 :=
  let p := Config.nanBits a b c
  (BitVec.ofBool p.msb) ++ (0x1FF : BitVec 9) ++ (p.setWidth 22)

def fpInf (neg : Bool) : W32 := if neg then 0xFF800000 else 0x7F800000
def fpZero (neg : Bool) : W32 := if neg then 0x80000000 else 0
/-- The quiet NaN that R63 names for exp2 and log2. -/
def fpQnanStd : W32 := 0x7FC00000

/-- Shift right with rounding to nearest, ties to even. -/
def rneShift (n sh : Nat) : Nat :=
  if sh = 0 then n
  else
    let q := n >>> sh
    let r := n % 2 ^ sh
    let half := 2 ^ (sh - 1)
    if r > half || (r == half && q % 2 == 1) then q + 1 else q

/-- Rounds ±m · 2^e to binary32: to nearest even, overflow to infinity, subnormals kept. -/
def fpRound (neg : Bool) (m : Nat) (e : Int) : W32 :=
  if m = 0 then fpZero neg
  else
    let q : Int := max ((Nat.log2 m : Int) + e - 23) (-149)
    let n : Nat := if q ≤ e then m <<< (e - q).toNat else rneShift m (q - e).toNat
    let bits : Nat := (q + 149).toNat * 2 ^ 23 + n
    if bits ≥ 0x7F800000 then fpInf neg
    else BitVec.ofNat 32 bits ||| fpZero neg

/-- As `fpRound`, for a value strictly between ±m · 2^e and ±(m+1) · 2^e when `rest` is true; m must carry more bits
than the result. -/
def fpRoundRest (neg : Bool) (m : Nat) (e : Int) (rest : Bool) : W32 :=
  fpRound neg (2 * m + (if rest then 1 else 0)) (e - 1)

/-- Exact sum of two dyadic numbers as a signed integer times a power of two. -/
def dyAdd (n1 : Bool) (m1 : Nat) (e1 : Int) (n2 : Bool) (m2 : Nat) (e2 : Int) : Int × Int :=
  let e := min e1 e2
  let a : Int := (m1 <<< (e1 - e).toNat : Nat)
  let b : Int := (m2 <<< (e2 - e).toNat : Nat)
  ((if n1 then -a else a) + (if n2 then -b else b), e)

/-- Adds two exact values and rounds once. An exact zero sum of operands of unlike sign is +0. -/
def fpAddVal (a b : W32) : FpVal → FpVal → W32
  | .nan, _ => fpQnan a b 0
  | _, .nan => fpQnan a b 0
  | .inf x, .inf y => if x = y then fpInf x else fpQnan a b 0
  | .inf x, _ => fpInf x
  | _, .inf y => fpInf y
  | .fin n1 m1 e1, .fin n2 m2 e2 =>
    let (s, e) := dyAdd n1 m1 e1 n2 m2 e2
    if s = 0 then fpZero (n1 && n2) else fpRound (s < 0) s.natAbs e

def fpAdd (a b : W32) : W32 := fpAddVal a b (fpVal a) (fpVal b)
def fpFlip (a : W32) : W32 := a ^^^ 0x80000000
def fpAbs (a : W32) : W32 := a &&& 0x7FFFFFFF
def fpSub (a b : W32) : W32 := fpAdd a (fpFlip b)

/-- The exact product, before rounding. -/
def mulVal : FpVal → FpVal → FpVal
  | .nan, _ => .nan
  | _, .nan => .nan
  | .inf x, .inf y => .inf (x != y)
  | .inf x, .fin y m _ => if m = 0 then .nan else .inf (x != y)
  | .fin x m _, .inf y => if m = 0 then .nan else .inf (x != y)
  | .fin x m e, .fin y n f => .fin (x != y) (m * n) (e + f)

def fpMul (a b : W32) : W32 :=
  match mulVal (fpVal a) (fpVal b) with
  | .nan => fpQnan a b 0
  | .inf n => fpInf n
  | .fin n m e => fpRound n m e

/-- a · b + c with one rounding. -/
def fpFma (a b c : W32) : W32 := fpAddVal a c (mulVal (fpVal a) (fpVal b)) (fpVal c)

/-- Exact quotient, rounded once. -/
def fpDiv (a b : W32) : W32 :=
  match fpVal a, fpVal b with
  | .nan, _ => fpQnan a b 0
  | _, .nan => fpQnan a b 0
  | .inf _, .inf _ => fpQnan a b 0
  | .inf x, .fin y _ _ => fpInf (x != y)
  | .fin x _ _, .inf y => fpZero (x != y)
  | .fin x m e, .fin y n f =>
    if n = 0 then (if m = 0 then fpQnan a b 0 else fpInf (x != y))
    else
      let sh := 60 + Nat.log2 n
      let q := (m <<< sh) / n
      fpRoundRest (x != y) q (e - f - sh) ((m <<< sh) % n != 0)

/-- The correctly rounded reciprocal (R63). -/
def fpRcp (a : W32) : W32 := fpDiv 0x3F800000 a

/-- Integer square root, one result bit per unit of fuel. -/
def isqrt : Nat → Nat → Nat → Nat
  | 0, _, r => r
  | k + 1, n, r => let t := r + 2 ^ k; if t * t ≤ n then isqrt k n t else isqrt k n r

/-- The correctly rounded square root (R63). -/
def fpSqrt (a : W32) : W32 :=
  match fpVal a with
  | .nan => fpQnan a 0 0
  | .inf n => if n then fpQnan a 0 0 else fpInf false
  | .fin n m e =>
    if m = 0 then a
    else if n then fpQnan a 0 0
    else
      let odd : Nat := (e % 2).toNat
      let v := m <<< (64 + odd)
      let r := isqrt 48 v 0
      fpRoundRest false r ((e - odd) / 2 - 32) (r * r != v)

/-- The correctly rounded 1/√x (R63). -/
def fpRsqrt (a : W32) : W32 :=
  match fpVal a with
  | .nan => fpQnan a 0 0
  | .inf n => if n then fpQnan a 0 0 else 0
  | .fin n m e =>
    if m = 0 then fpInf n
    else if n then fpQnan a 0 0
    else
      let odd : Nat := (e % 2).toNat
      let v := m <<< odd
      let r := isqrt 72 (2 ^ 144 / v) 0
      fpRoundRest false r (-(e - odd) / 2 - 72) (r * r * v != 2 ^ 144)

/-! ### Comparison -/

/-- Order of two values that are not NaN. -/
def valLt : FpVal → FpVal → Bool
  | .nan, _ => false
  | _, .nan => false
  | .inf x, .inf y => x && !y
  | .inf x, _ => x
  | _, .inf y => !y
  | .fin n1 m1 e1, .fin n2 m2 e2 => (dyAdd n1 m1 e1 (!n2) m2 e2).1 < 0

def fpLt (a b : W32) : Bool := valLt (fpVal a) (fpVal b)
def fpEq (a b : W32) : Bool := !fpIsNan a && !fpIsNan b && !fpLt a b && !fpLt b a
def fpLe (a b : W32) : Bool := fpLt a b || fpEq a b
/-- max of R63; of two equal operands (the zeros), +0 counts as the larger. -/
def fpMax (a b : W32) : W32 :=
  if fpIsNan a || fpIsNan b then Config.maxWithNan a b
  else if fpLt a b then b else if fpLt b a then a else if fpNeg a then b else a

/-! ### The correctly rounded functions of R63 -/

/-- Working precision, in fractional bits, of the fixed-point evaluations. -/
def fxP : Nat := 256
/-- ln 2 with 256 fractional bits. -/
def fxLn2 : Nat := 0xb17217f7d1cf79abc9e3b39803f2f6af40f343267298b62d8a0d175b8baafa2b
/-- π with 320 fractional bits. -/
def fxPi : Nat := 0x3243f6a8885a308d313198a2e03707344a4093822299f31d0082efa98ec4e6c89452821e638d01377

/-- Σ t^k/k! by Horner from the highest term, all in 256-bit fixed point. -/
def fxExp : Nat → Nat → Nat → Nat
  | 0, _, acc => acc
  | k + 1, t, acc => fxExp k t (2 ^ fxP + ((t * acc) >>> fxP) / (k + 1))

/-- 2^f for 0 ≤ f < 1 in 256-bit fixed point. -/
def fxExp2 (f : Nat) : Nat := fxExp 64 ((f * fxLn2) >>> fxP) (2 ^ fxP)

/-- The correctly rounded exp2 (R63). -/
def fpExp2 (a : W32) : W32 :=
  match fpVal a with
  | .nan => fpQnanStd
  | .inf n => if n then 0 else fpInf false
  | .fin n m e =>
    let x : Int := if n then -(m : Int) else m
    if e ≥ 0 then
      let v := x * 2 ^ e.toNat
      if v > 200 then fpInf false else if v < -200 then 0 else fpRound false 1 v
    else
      let k := (-e).toNat
      let i := x >>> k
      let f := (x - i * 2 ^ k).toNat
      if i > 200 then fpInf false
      else if i < -200 then 0
      else if f = 0 then fpRound false 1 i
      else fpRoundRest false (fxExp2 (if k ≤ fxP then f <<< (fxP - k) else f >>> (k - fxP))) (i - fxP) true

/-- atanh series z + z³/3 + …, `k` terms, by Horner in `z2 = z²`. -/
def fxAtanh : Nat → Nat → Nat → Nat
  | 0, _, acc => acc
  | k + 1, z2, acc => fxAtanh k z2 (2 ^ fxP / (2 * k + 1) + ((z2 * acc) >>> fxP))

/-- The correctly rounded log2 (R63). -/
def fpLog2 (a : W32) : W32 :=
  match fpVal a with
  | .nan => fpQnanStd
  | .inf n => if n then fpQnanStd else fpInf false
  | .fin n m e =>
    if m = 0 then fpInf true
    else if n then fpQnanStd
    else
      let l := Nat.log2 m
      let i : Int := e + l
      if m = 2 ^ l then (if i < 0 then fpRound true i.natAbs 0 else fpRound false i.natAbs 0)
      else
        let z := ((m - 2 ^ l) <<< fxP) / (m + 2 ^ l)
        let ln := 2 * ((z * fxAtanh 90 ((z * z) >>> fxP) 0) >>> fxP)
        let v : Int := i * 2 ^ fxP + ((ln <<< fxP) / fxLn2 : Nat)
        fpRoundRest (v < 0) v.natAbs (-(fxP : Int)) true

/-- Alternating series of cos (`odd = 0`) or of sin x / x (`odd = 1`), by Horner in x². -/
def fxTrig (odd : Nat) : Nat → Nat → Nat → Nat
  | 0, _, acc => acc
  | k + 1, x2, acc =>
    fxTrig odd k x2 (2 ^ fxP - ((x2 * acc) >>> fxP) / ((2 * k + 1 + odd) * (2 * k + 2 + odd)))

/-- sin (`quarter = 0`) or cos (`quarter = 1`) of |x| = m · 2^e for 2^-40 ≤ |x| ≤ 2^24: reduction by π/2, then a
series. The result is the sign and the magnitude in 256-bit fixed point. -/
def fxSinCos (quarter m : Nat) (e : Int) : Bool × Nat :=
  let big := if e ≥ 0 then m <<< (e.toNat + 312) else (m <<< 312) >>> (-e).toNat
  let half := fxPi >>> 9
  let k := big / half
  let r := (big % half) >>> 56
  let j := (k + quarter) % 4
  let r2 := (r * r) >>> fxP
  let v := if j % 2 = 0 then (r * fxTrig 1 45 r2 (2 ^ fxP)) >>> fxP else fxTrig 0 45 r2 (2 ^ fxP)
  (j ≥ 2, v)

/-- |x| above 2^24. -/
def fpAbove24 (a : W32) : Bool := fpLt 0x4B800000 (fpAbs a)

/-- The correctly rounded sin (R63). -/
def fpSin (a : W32) : W32 :=
  match fpVal a with
  | .nan => fpQnan a 0 0
  | .inf _ => fpQnan a 0 0
  | .fin n m e =>
    if fpAbove24 a then Config.sinBig a
    else if m = 0 || Nat.log2 m + e < -40 then a
    else let (s, v) := fxSinCos 0 m e; fpRoundRest (s != n) v (-(fxP : Int)) true

/-- The correctly rounded cos (R63). -/
def fpCos (a : W32) : W32 :=
  match fpVal a with
  | .nan => fpQnan a 0 0
  | .inf _ => fpQnan a 0 0
  | .fin _ m e =>
    if fpAbove24 a then Config.cosBig a
    else if m = 0 || Nat.log2 m + e < -40 then 0x3F800000
    else let (s, v) := fxSinCos 1 m e; fpRoundRest s v (-(fxP : Int)) true

/-- min of R63; of two equal operands (the zeros), −0 counts as the smaller. -/
def fpMin (a b : W32) : W32 :=
  if fpIsNan a || fpIsNan b then Config.minWithNan a b
  else if fpLt a b then a else if fpLt b a then b else if fpNeg a then a else b

/-- select and clamp of R63: exact choices between their operands. A NaN is neither below nor above a bound. -/
def fpSelect (c : Bool) (a b : W32) : W32 := if c then a else b
def fpClamp (lo hi x : W32) : W32 := fpSelect (fpLt x lo) lo (fpSelect (fpLt hi x) hi x)

/-! ### BF16 and integers -/

/-- FP32 to BF16 (R27). A NaN becomes a quiet NaN. -/
def fpToBf16 (a : W32) : W16 :=
  if fpIsNan a then ((fpQnan a 0 1).toNat >>> 16 ||| 0x40 : Nat)
  else BitVec.ofNat 16 (rneShift a.toNat 16)

/-- BF16 to FP32: as binary32 with the low 16 bits zero (R21). -/
def bf16ToFp (h : W16) : W32 := BitVec.ofNat 32 (h.toNat <<< 16)

/-- An integer as FP32, rounded once. -/
def fpOfInt (i : Int) : W32 := fpRound (i < 0) i.natAbs 0

/-- FP32 as a 32-bit two's complement integer, rounded to nearest even (R63; log 2). -/
def fpToInt (a : W32) : W32 :=
  match fpVal a with
  | .fin neg m e =>
    let n : Int := if 0 ≤ e then (m <<< e.toNat : Nat) else (rneShift m (-e).toNat : Nat)
    let i : Int := if neg then -n else n
    if -(2 ^ 31) ≤ i && i < 2 ^ 31 then BitVec.ofInt 32 i else Config.intOutOfRange a
  | _ => Config.intOutOfRange a

/-! ### Reductions (R63, R64) -/

/-- One level of the fixed pairwise tree; a last element without a partner is paired with the neutral element. -/
def pairUp (op : W32 → W32 → W32) (unit : W32) : List W32 → List W32
  | [] => []
  | [a] => [op a unit]
  | a :: b :: rest => op a b :: pairUp op unit rest

/-- The fixed pairwise tree over 2^levels elements. -/
def treeReduce (op : W32 → W32 → W32) (unit : W32) : Nat → List W32 → W32
  | 0, l => l.headD unit
  | k + 1, l => treeReduce op unit k (pairUp op unit l)

/-- Splits a list into chunks of `n`; the fuel bounds their number. -/
def chunks {α : Type} (n : Nat) : Nat → List α → List (List α)
  | 0, _ => []
  | _, [] => []
  | f + 1, l => l.take n :: chunks n f (l.drop n)

/-- A reduction of any length (R64): each chunk of 512, padded with the neutral element, through the tree; the chunk
results in ascending order. -/
def reduce512 (op : W32 → W32 → W32) (unit : W32) (l : List W32) : W32 :=
  match (chunks 512 l.length l).map fun c =>
      treeReduce op unit 9 (c ++ List.replicate (512 - c.length) unit) with
  | [] => unit
  | c :: rest => rest.foldl op c

/-- Sum of squares of a row (R63, R64). -/
def sumSquares (l : List W32) : W32 := reduce512 fpAdd 0 (l.map fun x => fpMul x x)

end Sys2Proof.Machine
end

