-- ==== Sys2Proof/Machine/Narrow.lean ====
section
/-! DEFINITION. Machine/Narrow.lean: the narrow formats of chapter 01: element and block-scale codes, the quantiser,
gauge counts and verdicts, the fallback chain, weight plies; the Philox generator and CRC-32C. -/

namespace Sys2Proof.Machine

/-! ### Generators and checks -/

/-- One Philox-4×32 round on counter words and key words. -/
def philoxRound (c : W32 × W32 × W32 × W32) (k0 k1 : W32) : W32 × W32 × W32 × W32 :=
  let p0 := 0xD2511F53 * c.1.toNat
  let p1 := 0xCD9E8D57 * c.2.2.1.toNat
  (BitVec.ofNat 32 (p1 >>> 32) ^^^ c.2.1 ^^^ k0, BitVec.ofNat 32 p1,
   BitVec.ofNat 32 (p0 >>> 32) ^^^ c.2.2.2 ^^^ k1, BitVec.ofNat 32 p0)

def philoxRounds : Nat → W32 × W32 × W32 × W32 → W32 → W32 → W32 × W32 × W32 × W32
  | 0, c, _, _ => c
  | n + 1, c, k0, k1 => philoxRounds n (philoxRound c k0 k1) (k0 + 0x9E3779B9) (k1 + 0xBB67AE85)

/-- Output word 0 of Philox-4×32 with 10 rounds (R25, R237). -/
def philox (key : W64) (c0 c1 c2 c3 : W32) : W32 :=
  (philoxRounds 10 (c0, c1, c2, c3) (key.setWidth 32) ((key >>> 32).setWidth 32)).1

/-- One bit of the reflected CRC-32C register. -/
def crcBit (r : W32) : W32 := if r.getLsbD 0 then (r >>> 1) ^^^ 0x82F63B78 else r >>> 1

def crcByte (r : W32) (b : Byte) : W32 :=
  crcBit (crcBit (crcBit (crcBit (crcBit (crcBit (crcBit (crcBit (r ^^^ b.setWidth 32))))))))

/-- CRC-32C (R76): reflected, initial value and final XOR all ones. -/
def crc32c (bs : List Byte) : W32 := (bs.foldl crcByte 0xFFFFFFFF) ^^^ 0xFFFFFFFF

/-! ### Formats (R19, R21) -/

/-- The formats of R19. -/
inductive Fmt where
  | q2t | q3 | q4 | q4i | q6 | q8 | q8i | bf16 | fp32
  deriving DecidableEq, Repr

/-- Decodes a format code; the reserved codes give none (R19, R20). -/
def fmtOfCode : Nat → Option Fmt
  | 0 => some .q2t | 1 => some .q3 | 2 => some .q4 | 3 => some .q4i | 4 => some .q6
  | 5 => some .q8 | 6 => some .q8i | 8 => some .bf16 | 9 => some .fp32 | _ => none

def fmtCode : Fmt → Nat
  | .q2t => 0 | .q3 => 1 | .q4 => 2 | .q4i => 3 | .q6 => 4 | .q8 => 5 | .q8i => 6 | .bf16 => 8 | .fp32 => 9

/-- Bits per element. -/
def fmtWidth : Fmt → Nat
  | .q2t => 2 | .q3 => 3 | .q4 => 4 | .q4i => 4 | .q6 => 6 | .q8 => 8 | .q8i => 8 | .bf16 => 16 | .fp32 => 32

/-- Whether the format carries block scales. -/
def fmtScaled : Fmt → Bool
  | .bf16 => false | .fp32 => false | _ => true

/-- Magnitude of an E·M· float code without its sign, in units of 2^-9. -/
def floatMag (mbits : Nat) (bias : Nat) (c : Nat) : Nat :=
  let e := c >>> mbits
  let m := c % 2 ^ mbits
  if e = 0 then m * 2 ^ (9 + 1 - bias - mbits) else (2 ^ mbits + m) * 2 ^ (9 + e - bias - mbits)

/-- Largest code of a non-negative value that the quantiser writes. -/
def fmtTop : Fmt → Nat
  | .q2t => 1 | .q3 => 3 | .q4 => 7 | .q4i => 7 | .q6 => 31 | .q8 => 0x7E | .q8i => 127 | _ => 0

/-- Magnitude of non-negative code `c`, in units of 2^-9 (R21). -/
def fmtMag (f : Fmt) (c : Nat) : Nat :=
  match f with
  | .q4 => floatMag 1 1 c
  | .q6 => floatMag 2 3 c
  | .q8 => floatMag 3 7 c
  | _ => c * 512

/-- Value of an element code in units of 2^-9; none for a poison element code (R21, R23). -/
def elemVal (f : Fmt) (c : Nat) : Option Int :=
  match f with
  | .q2t => if c = 2 then none else if c = 3 then some (-512) else some (c * 512 : Nat)
  | .q4i => some ((if c ≥ 8 then (c : Int) - 16 else c) * 512)
  | .q8i => some ((if c ≥ 128 then (c : Int) - 256 else c) * 512)
  | .q3 => some (if c ≥ 4 then -((c - 4) * 512 : Nat) else (c * 512 : Nat))
  | .q4 => some (if c ≥ 8 then -(fmtMag .q4 (c - 8) : Int) else fmtMag .q4 c)
  | .q6 => some (if c ≥ 32 then -(fmtMag .q6 (c - 32) : Int) else fmtMag .q6 c)
  | .q8 => if c = 0x7F || c = 0xFF then none
           else some (if c ≥ 128 then -(fmtMag .q8 (c - 128) : Int) else fmtMag .q8 c)
  | _ => some 0

/-- The code of ± the value with non-negative code `c`; never a negative-zero code (R22). -/
def signedCode (f : Fmt) (neg : Bool) (c : Nat) : Nat :=
  if neg && c != 0 then
    match f with
    | .q2t => 3
    | .q4i => 16 - c
    | .q8i => 256 - c
    | f => c + 2 ^ (fmtWidth f - 1)
  else c

/-- Value of a block scale code 0x01 to 0xFE in units of 2^-17 (R29). -/
def scaleVal (c : Nat) : Nat := if c < 8 then c else (8 + c % 8) * 2 ^ (c / 8 - 1)

/-! ### The quantiser (R24 to R32) -/

/-- One quantised block: scale byte and element codes, with its four gauge counts (R41), and whether the quantiser
wrote a null or a poisoned block. -/
structure QBlock where
  scale : Nat
  codes : List Nat
  elements : Nat := 0
  nonzero : Nat := 0
  sat : Nat := 0
  zero : Nat := 0
  null : Bool := false
  poison : Bool := false
  deriving DecidableEq, Repr

/-- |x| as a multiple of 2^-149 (a finite x). -/
def absUnits (x : W32) : Nat :=
  match fpVal x with
  | .fin _ m e => m <<< (e + 149).toNat
  | _ => 0

/-- The smallest scale code whose value is not below d (R30), compared exactly; 0xFE where there is none. -/
def chooseScale (f : Fmt) (st amax : Nat) : Nat :=
  ((List.range 254).map (· + 1)).find? (fun c => st * fmtMag f (fmtTop f) * scaleVal c ≥ amax * 2 ^ 26) |>.getD 0xFE

/-- Highest non-negative code whose magnitude times `d` does not exceed `x`. -/
def floorCode (f : Fmt) (d x : Nat) : Nat → Nat
  | 0 => 0
  | c + 1 => if fmtMag f (c + 1) * d ≤ x then c + 1 else floorCode f d x c

/-- Rounds one element (R24, R25, R26). `x` is |x| and `d` the combined scale, in a common unit divided by 2^-9 for the
magnitudes; `u` is the stochastic 16-bit value when stochastic rounding is selected. Answers code and saturation. -/
def roundElem (f : Fmt) (d x : Nat) (u : Option Nat) : Nat × Bool :=
  let top := fmtTop f
  if x > fmtMag f top * d then (top, true)
  else
    let lo := floorCode f d x top
    if fmtMag f lo * d = x then (lo, false)
    else
      let a := fmtMag f lo * d
      let b := fmtMag f (lo + 1) * d
      match u with
      | some u => (if u < (x - a) * 65536 / (b - a) then lo + 1 else lo, false)
      | none =>
        let t := a + b
        (if 2 * x < t then lo else if 2 * x > t then lo + 1 else if lo % 2 = 0 then lo else lo + 1, false)

/-- Quantises one block of 16 FP32 elements (R30). `rnd i` is the stochastic value of element i of the block. -/
def quantBlock (f : Fmt) (st : W32) (xs : List W32) (rnd : Option (List Nat)) : QBlock :=
  if xs.any (fun x => !fpIsFinite x) then
    { scale := 0xFF, codes := List.replicate xs.length 0, poison := true }
  else
    let mags := xs.map absUnits
    let nz := (mags.filter (· != 0)).length
    let amax := mags.foldl max 0
    let nullB : QBlock :=
      { scale := 0, codes := List.replicate xs.length 0, elements := xs.length, nonzero := nz, zero := nz, null := true }
    if amax = 0 then nullB
    else
      let stU := absUnits st
      let sc := chooseScale f stU amax
      let d := stU * scaleVal sc
      let rs := (List.range xs.length).map fun i =>
        (roundElem f d (mags.getD i 0 * 2 ^ 26) (rnd.map fun l => l.getD i 0))
      if rs.all (·.1 == 0) then nullB
      else
        { scale := sc
          codes := (List.range xs.length).map fun i => signedCode f (fpNeg (xs.getD i 0)) (rs.getD i (0, false)).1
          elements := xs.length
          nonzero := nz
          sat := (rs.filter (·.2)).length
          zero := ((List.range xs.length).filter fun i =>
            mags.getD i 0 != 0 && (rs.getD i (0, false)).1 == 0).length }

/-- Gauge aggregates of a tile (R41), with the null and poisoned blocks its quantisation wrote. -/
structure Gauge where
  elements : Nat := 0
  nonzero : Nat := 0
  sat : Nat := 0
  zero : Nat := 0
  nulls : Nat := 0
  poisons : Nat := 0
  deriving DecidableEq, Repr

def gaugeAdd (g : Gauge) (b : QBlock) : Gauge :=
  { elements := g.elements + b.elements, nonzero := g.nonzero + b.nonzero, sat := g.sat + b.sat,
    zero := g.zero + b.zero, nulls := g.nulls + b.null.toNat, poisons := g.poisons + b.poison.toNat }

/-- The verdict of R42 under a threshold word (ZERO in bits 31:16, SAT in bits 15:0). -/
def gaugeFlagged (thr : Nat) (g : Gauge) : Bool :=
  let ts := thr % 65536
  let tz := thr / 65536 % 65536
  (ts != 0xFFFF && g.sat * 65536 > ts * g.elements) || (tz != 0xFFFF && g.zero * 65536 > tz * g.nonzero)

/-- GAU_TRACE_FRAC of an event (R53). -/
def gaugeFrac (g : Gauge) : Nat :=
  let fr (a b : Nat) : Nat := if b = 0 then 0 else min (a * 65536 / b) 0xFFFF
  fr g.zero g.nonzero * 65536 + fr g.sat g.elements

/-! ### Rates, chain, plies (R39, R40, R44) -/

/-- Eighths of the Q4 rate at which the array runs a format (R40, R54). -/
def fmtRate : Fmt → Nat
  | .q2t => 16 | .q3 => 8 | .q4 => 8 | .q4i => 8 | .q6 => 4 | .q8 => 4 | .q8i => 4 | .bf16 => 1 | .fp32 => 1

/-- The compiled format of a tile (R44): the slower of the two; the activation's on equal rates. -/
def compiledFmt (act wgt : Fmt) : Fmt := if fmtRate wgt < fmtRate act then wgt else act

/-- The widenings of a compiled format, with their costs in slots (R44). -/
def chain : Fmt → List (Fmt × Nat)
  | .q2t => [(.q4, 2), (.q6, 4)]
  | .q3 => [(.q4, 1), (.q6, 2)]
  | .q4 => [(.q6, 2), (.q8, 2)]
  | .q4i => [(.q8i, 2), (.bf16, 8)]
  | .q6 => [(.q8, 1), (.bf16, 4)]
  | .q8 => [(.bf16, 4)]
  | .q8i => [(.bf16, 4)]
  | .bf16 => []
  | .fp32 => []

/-- The refinement plies a repeat at `rep` reads (R39), of those stored. A weight not stored as plies has none. -/
def pliesUsed (base rep : Fmt) (stored : Nat) : Nat :=
  let want := match base, rep with
    | .q2t, .q4 => 1
    | .q2t, .q6 => 2
    | .q4, .q6 => 1
    | .q2t, .q8 => 2 | .q2t, .q8i => 2 | .q2t, .bf16 => 2
    | .q4, .q8 => 2 | .q4, .q8i => 2 | .q4, .bf16 => 2
    | _, _ => 0
  min want stored

/-- The value of a decoded block scale as an exact number. -/
def scaleFp (c : Nat) : FpVal := .fin false (scaleVal c) (-17)

/-- An element value in units of 2^-9 as an exact number. -/
def intFp (v : Int) (e : Int) : FpVal := .fin (v < 0) v.natAbs e

/-- Rounds an exact value (R63). -/
def roundVal : FpVal → W32
  | .nan => fpQnan 0 0 0
  | .inf n => fpInf n
  | .fin n m e => fpRound n m e

/-- Exact addition of two values; no rounding. -/
def addVal : FpVal → FpVal → FpVal
  | .nan, _ => .nan
  | _, .nan => .nan
  | .inf x, .inf y => if x = y then .inf x else .nan
  | .inf x, _ => .inf x
  | _, .inf y => .inf y
  | .fin n1 m1 e1, .fin n2 m2 e2 =>
    let (s, e) := dyAdd n1 m1 e1 n2 m2 e2
    if s = 0 then .fin (n1 && n2) 0 e else .fin (s < 0) s.natAbs e

/-- w' of R38: exact products, added in the order written, each sum rounded. -/
def plyWeight (sb : Nat) (q : Int) (p1 : Option (Nat × Int)) (p2 : Option (Nat × Int)) : W32 :=
  let t0 := roundVal (mulVal (scaleFp sb) (intFp q (-9)))
  let add (w : W32) (p : Option (Nat × Int)) : W32 :=
    match p with
    | none => w
    | some (s, r) => if s = 0 then w else fpAdd w (roundVal (mulVal (scaleFp s) (intFp r 0)))
  add (add t0 p1) p2

/-- Residual of a 2-bit refinement code (R37). -/
def residual (c : Nat) : Int := if c ≥ 2 then (c : Int) - 4 else c

/-! ### Blocks in memory (R34) -/

/-- Bytes of element bits of one block. -/
def blockBytes (f : Fmt) : Nat := 2 * fmtWidth f

/-- The bit string of a block as a number, bit 0 of the first byte lowest. -/
def bytesToNat : List Byte → Nat
  | [] => 0
  | b :: rest => b.toNat + 256 * bytesToNat rest

/-- The lowest `n` bytes of a number, least significant first. -/
def natToBytes : Nat → Nat → List Byte
  | 0, _ => []
  | n + 1, v => BitVec.ofNat 8 v :: natToBytes n (v / 256)

/-- Element codes of a block's bytes (R34). -/
def unpackCodes (w : Nat) (bs : List Byte) (n : Nat) : List Nat :=
  let v := bytesToNat bs
  (List.range n).map fun j => (v >>> (j * w)) % 2 ^ w

/-- Packs element codes (R34). -/
def packCodes (w : Nat) (cs : List Nat) : List Byte :=
  natToBytes ((cs.length * w + 7) / 8) (cs.foldr (fun c acc => c % 2 ^ w + acc * 2 ^ w) 0)

end Sys2Proof.Machine
end

