-- ==== Sys2Proof/Machine/RegMap.lean ====
section
/-! DEFINITION. Machine/RegMap.lean: the BAR0 register map. Every register of R471 with its offset, width and index
ranges, and every field of the block chapters' field tables with its bits, access type (R12), reset value and
reserved codes (R13). The names are the manual's. -/

namespace Sys2Proof.Machine

/-- The access types of R12. -/
inductive Acc where
  | ro | rw | wo | w1c | w1s | rc | wp
  deriving DecidableEq, Repr

/-- One field of a register: its bits, its access type, its reset value, and the closed ranges of values that the
manual calls reserved (R13). -/
structure Fld where
  hi : Nat
  lo : Nat
  acc : Acc
  rst : Nat
  bad : List (Nat × Nat) := []
  deriving DecidableEq, Repr

/-- One row of the register map (R471): BAR0 offset of the first instance, whether it is 64 bits wide, and for each
index its stride and its number of values. -/
structure RegD where
  base : Nat
  wide : Bool
  dims : List (Nat × Nat)
  flds : List Fld
  deriving DecidableEq, Repr

/-- A field of one register instance, named by the register's BAR0 offset and the field's bits. -/
structure FRef where
  off : Nat
  hi : Nat
  lo : Nat
  deriving DecidableEq, Repr

/-! ## Register offsets and fields (R15, R471 and the chapters' field tables) -/

def TOP_ID : Nat := 0x0
def TOP_ID_DEVICE : FRef := ⟨TOP_ID, 31, 16⟩
def TOP_ID_STEP_MAJOR : FRef := ⟨TOP_ID, 15, 12⟩
def TOP_ID_STEP_MINOR : FRef := ⟨TOP_ID, 11, 8⟩
def TOP_VARIANT : Nat := 0x4
def TOP_VARIANT_CODE : FRef := ⟨TOP_VARIANT, 28, 27⟩
def TOP_VARIANT_OFFING : FRef := ⟨TOP_VARIANT, 26, 26⟩
def TOP_VARIANT_STRAITS : FRef := ⟨TOP_VARIANT, 25, 23⟩
def TOP_VARIANT_ATOLLS : FRef := ⟨TOP_VARIANT, 22, 19⟩
def TOP_VARIANT_SPINDLES : FRef := ⟨TOP_VARIANT, 18, 10⟩
def TOP_VARIANT_ATOLL_MASK : FRef := ⟨TOP_VARIANT, 9, 2⟩
def TOP_ERR : Nat := 0x10
def TOP_ERR_SIZE : FRef := ⟨TOP_ERR, 2, 2⟩
def TOP_ERR_RSV_ENC : FRef := ⟨TOP_ERR, 1, 1⟩
def TOP_ERR_UNMAPPED : FRef := ⟨TOP_ERR, 0, 0⟩
def TOP_ERR_ADDR : Nat := 0x14
def TOP_ERR_ADDR_OFFSET : FRef := ⟨TOP_ERR_ADDR, 25, 0⟩
def TOP_IRQ_STATUS : Nat := 0x20
def TOP_IRQ_STATUS_REEF_MAP : FRef := ⟨TOP_IRQ_STATUS, 31, 24⟩
def TOP_IRQ_STATUS_SOUND : FRef := ⟨TOP_IRQ_STATUS, 23, 23⟩
def TOP_IRQ_STATUS_KV_SHARD : FRef := ⟨TOP_IRQ_STATUS, 22, 22⟩
def TOP_IRQ_STATUS_KV_BUILD : FRef := ⟨TOP_IRQ_STATUS, 21, 21⟩
def TOP_IRQ_STATUS_MEM_SWAP : FRef := ⟨TOP_IRQ_STATUS, 20, 20⟩
def TOP_IRQ_STATUS_SEC_CMD : FRef := ⟨TOP_IRQ_STATUS, 19, 19⟩
def TOP_IRQ_STATUS_WV_LOAD : FRef := ⟨TOP_IRQ_STATUS, 18, 18⟩
def TOP_IRQ_STATUS_BLOCK_ERR : FRef := ⟨TOP_IRQ_STATUS, 16, 0⟩
def TOP_IRQ_MASK : Nat := 0x24
def TOP_IRQ_MASK_HIGH : FRef := ⟨TOP_IRQ_MASK, 31, 18⟩
def TOP_IRQ_MASK_LOW : FRef := ⟨TOP_IRQ_MASK, 16, 0⟩
def TOP_IRQ_SPN (j : Nat) : Nat := 0x40 + 0x4 * j
def TOP_IRQ_SPN_BITS (j : Nat) : FRef := ⟨TOP_IRQ_SPN j, 31, 0⟩
def BRG_STATUS : Nat := 0x10000
def BRG_STATUS_STAGE : FRef := ⟨BRG_STATUS, 31, 28⟩
def BRG_STATUS_COLD : FRef := ⟨BRG_STATUS, 27, 27⟩
def BRG_STATUS_SOURCE : FRef := ⟨BRG_STATUS, 26, 26⟩
def BRG_STATUS_FW_WAIT : FRef := ⟨BRG_STATUS, 25, 25⟩
def BRG_STATUS_NODE_WAIT : FRef := ⟨BRG_STATUS, 24, 24⟩
def BRG_CTRL : Nat := 0x10004
def BRG_CTRL_COLD : FRef := ⟨BRG_CTRL, 2, 2⟩
def BRG_CTRL_WARM : FRef := ⟨BRG_CTRL, 1, 1⟩
def BRG_CTRL_FW_GO : FRef := ⟨BRG_CTRL, 0, 0⟩
def BRG_ERR : Nat := 0x10008
def BRG_ERR_TRAIN : FRef := ⟨BRG_ERR, 5, 5⟩
def BRG_ERR_HOST_LOST : FRef := ⟨BRG_ERR, 4, 4⟩
def BRG_ERR_RETAIN_LOST : FRef := ⟨BRG_ERR, 3, 3⟩
def BRG_ERR_SELFTEST : FRef := ⟨BRG_ERR, 2, 2⟩
def BRG_ERR_FW_FETCH : FRef := ⟨BRG_ERR, 1, 1⟩
def BRG_ERR_FW_AUTH : FRef := ⟨BRG_ERR, 0, 0⟩
def BRG_FW_ADDR : Nat := 0x10010
def BRG_FW_ADDR_ADDR : FRef := ⟨BRG_FW_ADDR, 63, 12⟩
def BRG_FW_LEN : Nat := 0x10018
def BRG_FW_LEN_BYTES : FRef := ⟨BRG_FW_LEN, 31, 0⟩
def BRG_SELFTEST : Nat := 0x10020
def BRG_SELFTEST_FAIL_DIE1 : FRef := ⟨BRG_SELFTEST, 31, 24⟩
def BRG_SELFTEST_FAIL_DIE0 : FRef := ⟨BRG_SELFTEST, 23, 16⟩
def BRG_SELFTEST_ATOLL_FAIL : FRef := ⟨BRG_SELFTEST, 15, 8⟩
def BRG_SELFTEST_SHOAL_FAIL : FRef := ⟨BRG_SELFTEST, 3, 0⟩
def BRG_RETRAIN : Nat := 0x10024
def BRG_RETRAIN_GO : FRef := ⟨BRG_RETRAIN, 31, 31⟩
def BRG_RETRAIN_KIND : FRef := ⟨BRG_RETRAIN, 24, 24⟩
def BRG_RETRAIN_INDEX : FRef := ⟨BRG_RETRAIN, 2, 0⟩
def BRG_RETRAIN_STATUS : Nat := 0x10028
def BRG_RETRAIN_STATUS_PORT_BUSY : FRef := ⟨BRG_RETRAIN_STATUS, 31, 31⟩
def BRG_RETRAIN_STATUS_PORT : FRef := ⟨BRG_RETRAIN_STATUS, 30, 28⟩
def BRG_RETRAIN_STATUS_ATOLL_BUSY : FRef := ⟨BRG_RETRAIN_STATUS, 27, 27⟩
def BRG_RETRAIN_STATUS_ATOLL : FRef := ⟨BRG_RETRAIN_STATUS, 26, 24⟩
def BRG_RETRAIN_STATUS_QUEUED : FRef := ⟨BRG_RETRAIN_STATUS, 7, 0⟩
def BRG_HOST_LOSS : Nat := 0x1002c
def BRG_HOST_LOSS_MS : FRef := ⟨BRG_HOST_LOSS, 15, 0⟩
def BRG_STAGE_US (k : Nat) : Nat := 0x10040 + 0x4 * k
def BRG_STAGE_US_US (k : Nat) : FRef := ⟨BRG_STAGE_US k, 31, 0⟩
def BRG_CNT (i : Nat) : Nat := 0x10100 + 0x8 * i
def BRG_CNT_COUNT (i : Nat) : FRef := ⟨BRG_CNT i, 63, 0⟩
def CRN_STATUS : Nat := 0x20000
def CRN_STATUS_RETIRE_USED : FRef := ⟨CRN_STATUS, 21, 16⟩
def CRN_STATUS_WORN : FRef := ⟨CRN_STATUS, 15, 0⟩
def CRN_ERR : Nat := 0x20004
def CRN_ERR_ACCESS : FRef := ⟨CRN_ERR, 2, 2⟩
def CRN_ERR_RETIRE_FULL : FRef := ⟨CRN_ERR, 1, 1⟩
def CRN_ERR_WORN : FRef := ⟨CRN_ERR, 0, 0⟩
def CRN_ERR_ADDR : Nat := 0x20008
def CRN_ERR_ADDR_KEY : FRef := ⟨CRN_ERR_ADDR, 16, 16⟩
def CRN_ERR_ADDR_OFFSET : FRef := ⟨CRN_ERR_ADDR, 15, 0⟩
def CRN_BOOT_CFG : Nat := 0x20010
def CRN_BOOT_CFG_SOURCE : FRef := ⟨CRN_BOOT_CFG, 0, 0⟩
def CRN_CAP_DEFAULT : Nat := 0x20014
def CRN_CAP_DEFAULT_WATTS : FRef := ⟨CRN_CAP_DEFAULT, 15, 0⟩
def CRN_PORT_ROLE (p : Nat) : Nat := 0x20100 + 0x4 * p
def CRN_PORT_ROLE_VALID (p : Nat) : FRef := ⟨CRN_PORT_ROLE p, 31, 31⟩
def CRN_PORT_ROLE_ROLE (p : Nat) : FRef := ⟨CRN_PORT_ROLE p, 2, 0⟩
def CRN_LANE_MAP (p : Nat) : Nat := 0x20200 + 0x4 * p
def CRN_LANE_MAP_REPAIRED (p : Nat) : FRef := ⟨CRN_LANE_MAP p, 15, 15⟩
def CRN_LANE_MAP_LANE (p : Nat) : FRef := ⟨CRN_LANE_MAP p, 4, 0⟩
def CRN_EQ (p : Nat) (l : Nat) : Nat := 0x21000 + 0x80 * p + 0x4 * l
def CRN_EQ_VALID (p : Nat) (l : Nat) : FRef := ⟨CRN_EQ p l, 31, 31⟩
def CRN_EQ_CTLE (p : Nat) (l : Nat) : FRef := ⟨CRN_EQ p l, 27, 24⟩
def CRN_EQ_PRE2 (p : Nat) (l : Nat) : FRef := ⟨CRN_EQ p l, 23, 18⟩
def CRN_EQ_PRE1 (p : Nat) (l : Nat) : FRef := ⟨CRN_EQ p l, 17, 12⟩
def CRN_EQ_POST1 (p : Nat) (l : Nat) : FRef := ⟨CRN_EQ p l, 11, 6⟩
def CRN_RETIRE (r : Nat) : Nat := 0x22000 + 0x8 * r
def CRN_RETIRE_VALID (r : Nat) : FRef := ⟨CRN_RETIRE r, 63, 63⟩
def CRN_RETIRE_DIE (r : Nat) : FRef := ⟨CRN_RETIRE r, 62, 62⟩
def CRN_RETIRE_PHYS (r : Nat) : FRef := ⟨CRN_RETIRE r, 61, 54⟩
def CRN_RETIRE_CAUSE (r : Nat) : FRef := ⟨CRN_RETIRE r, 53, 50⟩
def CRN_RETIRE_BEAT (r : Nat) : FRef := ⟨CRN_RETIRE r, 31, 0⟩
def CRN_WEAR_KEY (s : Nat) : Nat := 0x27000 + 0x4 * s
def CRN_WEAR_KEY_COUNT (s : Nat) : FRef := ⟨CRN_WEAR_KEY s, 16, 0⟩
def CRN_WEAR (o : Nat) : Nat := 0x28000 + o
def SEC_CTRL : Nat := 0x30000
def SEC_CTRL_PEER_MATCH : FRef := ⟨SEC_CTRL, 1, 1⟩
def SEC_CTRL_REQUIRE_IDE : FRef := ⟨SEC_CTRL, 0, 0⟩
def SEC_STATUS : Nat := 0x30004
def SEC_STATUS_IDE_SECURE : FRef := ⟨SEC_STATUS, 31, 31⟩
def SEC_STATUS_OWNED : FRef := ⟨SEC_STATUS, 30, 30⟩
def SEC_STATUS_ADVANCES_LEFT : FRef := ⟨SEC_STATUS, 29, 23⟩
def SEC_STATUS_SESSIONS : FRef := ⟨SEC_STATUS, 2, 0⟩
def SEC_ERR : Nat := 0x30008
def SEC_ERR_STREAM_AUTH : FRef := ⟨SEC_ERR, 5, 5⟩
def SEC_ERR_LINK_AUTH : FRef := ⟨SEC_ERR, 4, 4⟩
def SEC_ERR_UNSEAL : FRef := ⟨SEC_ERR, 3, 3⟩
def SEC_ERR_UNWRAP : FRef := ⟨SEC_ERR, 2, 2⟩
def SEC_ERR_SLOT : FRef := ⟨SEC_ERR, 1, 1⟩
def SEC_ERR_IDE : FRef := ⟨SEC_ERR, 0, 0⟩
def SEC_SVN : Nat := 0x3000c
def SEC_SVN_MIN : FRef := ⟨SEC_SVN, 31, 16⟩
def SEC_SVN_FW : FRef := ⟨SEC_SVN, 15, 0⟩
def SEC_CMD_ADDR : Nat := 0x30010
def SEC_CMD_ADDR_ADDR : FRef := ⟨SEC_CMD_ADDR, 47, 12⟩
def SEC_CMD : Nat := 0x30018
def SEC_CMD_START : FRef := ⟨SEC_CMD, 31, 31⟩
def SEC_CMD_OP : FRef := ⟨SEC_CMD, 27, 24⟩
def SEC_CMD_ARG : FRef := ⟨SEC_CMD, 23, 0⟩
def SEC_CMD_STATUS : Nat := 0x3001c
def SEC_CMD_STATUS_BUSY : FRef := ⟨SEC_CMD_STATUS, 31, 31⟩
def SEC_CMD_STATUS_CODE : FRef := ⟨SEC_CMD_STATUS, 7, 0⟩
def SEC_SLOT_SEQ : Nat := 0x30020
def SEC_SLOT_SEQ_SEQ : FRef := ⟨SEC_SLOT_SEQ, 31, 0⟩
def SEC_SLOT (s : Nat) : Nat := 0x30100 + 0x10 * s
def SEC_SLOT_VALID (s : Nat) : FRef := ⟨SEC_SLOT s, 31, 31⟩
def SEC_SLOT_ROLE (s : Nat) : FRef := ⟨SEC_SLOT s, 30, 29⟩
def SEC_SLOT_ID (s : Nat) : Nat := 0x30108 + 0x10 * s
def SEC_SLOT_ID_ID (s : Nat) : FRef := ⟨SEC_SLOT_ID s, 63, 0⟩
def SEC_LINK (p : Nat) : Nat := 0x30200 + 0x10 * p
def SEC_LINK_STATE (p : Nat) : FRef := ⟨SEC_LINK p, 31, 29⟩
def SEC_LINK_UPDATES (p : Nat) : FRef := ⟨SEC_LINK p, 15, 0⟩
def SEC_OFFING_PAIRS : Nat := 0x30300
def SEC_OFFING_PAIRS_PAIRS : FRef := ⟨SEC_OFFING_PAIRS, 7, 0⟩
def SEC_CNT (i : Nat) : Nat := 0x30400 + 0x8 * i
def SEC_CNT_COUNT (i : Nat) : FRef := ⟨SEC_CNT i, 63, 0⟩
def SEC_MODEL_KEY (m : Nat) : Nat := 0x31000 + 0x4 * m
def SEC_MODEL_KEY_VALID (m : Nat) : FRef := ⟨SEC_MODEL_KEY m, 31, 31⟩
def SEC_MODEL_KEY_IN_USE (m : Nat) : FRef := ⟨SEC_MODEL_KEY m, 30, 30⟩
def SEC_TENANT_KEY (t : Nat) : Nat := 0x32000 + 0x4 * t
def SEC_TENANT_KEY_VALID (t : Nat) : FRef := ⟨SEC_TENANT_KEY t, 31, 31⟩
def PWR_CTRL : Nat := 0x40000
def PWR_CTRL_POINT_MAX : FRef := ⟨PWR_CTRL, 12, 8⟩
def PWR_CTRL_CNT_CLR : FRef := ⟨PWR_CTRL, 0, 0⟩
def PWR_STATUS : Nat := 0x40004
def PWR_STATUS_POINT : FRef := ⟨PWR_STATUS, 31, 27⟩
def PWR_STATUS_TARGET : FRef := ⟨PWR_STATUS, 26, 22⟩
def PWR_STATUS_STEPPING : FRef := ⟨PWR_STATUS, 21, 21⟩
def PWR_STATUS_BUBBLES : FRef := ⟨PWR_STATUS, 20, 15⟩
def PWR_STATUS_DROOP : FRef := ⟨PWR_STATUS, 14, 14⟩
def PWR_STATUS_THROTTLE : FRef := ⟨PWR_STATUS, 13, 13⟩
def PWR_STATUS_HAVEN : FRef := ⟨PWR_STATUS, 12, 12⟩
def PWR_STATUS_BELOW_FLOOR : FRef := ⟨PWR_STATUS, 11, 11⟩
def PWR_ERR : Nat := 0x40008
def PWR_ERR_EXIT_REFUSED : FRef := ⟨PWR_ERR, 5, 5⟩
def PWR_ERR_COOLANT : FRef := ⟨PWR_ERR, 4, 4⟩
def PWR_ERR_THERM_LIMIT : FRef := ⟨PWR_ERR, 3, 3⟩
def PWR_ERR_HAVEN : FRef := ⟨PWR_ERR, 2, 2⟩
def PWR_ERR_CAP_CLAMP : FRef := ⟨PWR_ERR, 1, 1⟩
def PWR_ERR_LEAVE_REFUSED : FRef := ⟨PWR_ERR, 0, 0⟩
def PWR_CAP_HOST : Nat := 0x4000c
def PWR_CAP_HOST_WATTS : FRef := ⟨PWR_CAP_HOST, 15, 0⟩
def PWR_CAP_BMC : Nat := 0x40010
def PWR_CAP_BMC_WATTS : FRef := ⟨PWR_CAP_BMC, 15, 0⟩
def PWR_CAP_EFF : Nat := 0x40014
def PWR_CAP_EFF_SOURCE : FRef := ⟨PWR_CAP_EFF, 17, 16⟩
def PWR_CAP_EFF_WATTS : FRef := ⟨PWR_CAP_EFF, 15, 0⟩
def PWR_LIMITS : Nat := 0x40018
def PWR_LIMITS_FLOOR_W : FRef := ⟨PWR_LIMITS, 31, 16⟩
def PWR_LIMITS_BASE_W : FRef := ⟨PWR_LIMITS, 15, 0⟩
def PWR_GUARD : Nat := 0x4001c
def PWR_GUARD_WATTS : FRef := ⟨PWR_GUARD, 9, 0⟩
def PWR_THERM_CFG : Nat := 0x40020
def PWR_THERM_CFG_ATOLL_THROTTLE_C : FRef := ⟨PWR_THERM_CFG, 15, 8⟩
def PWR_THERM_CFG_THROTTLE_C : FRef := ⟨PWR_THERM_CFG, 7, 0⟩
def PWR_TEMP (k : Nat) : Nat := 0x40040 + 0x4 * k
def PWR_TEMP_VALID (k : Nat) : FRef := ⟨PWR_TEMP k, 31, 31⟩
def PWR_TEMP_DEG (k : Nat) : FRef := ⟨PWR_TEMP k, 15, 0⟩
def PWR_MEAS : Nat := 0x40060
def PWR_MEAS_INST_W : FRef := ⟨PWR_MEAS, 31, 16⟩
def PWR_MEAS_BEAT_W : FRef := ⟨PWR_MEAS, 15, 0⟩
def PWR_ENERGY : Nat := 0x40068
def PWR_ENERGY_MJ : FRef := ⟨PWR_ENERGY, 63, 0⟩
def PWR_LEAVE : Nat := 0x40070
def PWR_LEAVE_COMMITTED_W : FRef := ⟨PWR_LEAVE, 31, 16⟩
def PWR_LEAVE_WAITING : FRef := ⟨PWR_LEAVE, 7, 0⟩
def PWR_HAVEN : Nat := 0x40074
def PWR_HAVEN_ACTIVE : FRef := ⟨PWR_HAVEN, 31, 31⟩
def PWR_HAVEN_CAUSE : FRef := ⟨PWR_HAVEN, 30, 29⟩
def PWR_HAVEN_ENTER : FRef := ⟨PWR_HAVEN, 1, 1⟩
def PWR_HAVEN_EXIT : FRef := ⟨PWR_HAVEN, 0, 0⟩
def PWR_CNT (i : Nat) : Nat := 0x40100 + 0x8 * i
def PWR_CNT_COUNT (i : Nat) : FRef := ⟨PWR_CNT i, 63, 0⟩
def PWR_VF (v : Nat) : Nat := 0x40200 + 0x4 * v
def PWR_VF_FREQ_MHZ (v : Nat) : FRef := ⟨PWR_VF v, 31, 20⟩
def PWR_VF_VOLT_MV (v : Nat) : FRef := ⟨PWR_VF v, 19, 9⟩
def PWR_VF_PCOEF (v : Nat) : FRef := ⟨PWR_VF v, 7, 0⟩
def BT_CTRL : Nat := 0x50000
def BT_CTRL_ROOT : FRef := ⟨BT_CTRL, 1, 1⟩
def BT_CTRL_EN : FRef := ⟨BT_CTRL, 0, 0⟩
def BT_BEAT_LEN : Nat := 0x50004
def BT_BEAT_LEN_LEN_US : FRef := ⟨BT_BEAT_LEN, 10, 0⟩
def BT_EDGE_WIN : Nat := 0x50008
def BT_EDGE_WIN_WIN_NS : FRef := ⟨BT_EDGE_WIN, 15, 0⟩
def BT_STATUS : Nat := 0x5000c
def BT_STATUS_LOCK : FRef := ⟨BT_STATUS, 31, 30⟩
def BT_STATUS_HELD : FRef := ⟨BT_STATUS, 29, 29⟩
def BT_STATUS_ROOT_NODE : FRef := ⟨BT_STATUS, 19, 10⟩
def BT_STATUS_HOPS : FRef := ⟨BT_STATUS, 7, 0⟩
def BT_TALLY : Nat := 0x50010
def BT_TALLY_BEAT : FRef := ⟨BT_TALLY, 63, 0⟩
def BT_PHASE : Nat := 0x50018
def BT_PHASE_PHASE : FRef := ⟨BT_PHASE, 31, 0⟩
def BT_OFFSET : Nat := 0x5001c
def BT_OFFSET_PS : FRef := ⟨BT_OFFSET, 31, 0⟩
def BT_SLIP_LIMIT : Nat := 0x50020
def BT_SLIP_LIMIT_LIMIT : FRef := ⟨BT_SLIP_LIMIT, 7, 0⟩
def BT_ERR : Nat := 0x50024
def BT_ERR_SLIP_LIMIT : FRef := ⟨BT_ERR, 3, 3⟩
def BT_ERR_LEN_LOCKED : FRef := ⟨BT_ERR, 2, 2⟩
def BT_ERR_HOLDOVER_EXPIRED : FRef := ⟨BT_ERR, 1, 1⟩
def BT_ERR_VOTE_TIMEOUT : FRef := ⟨BT_ERR, 0, 0⟩
def BT_SLIP_CNT (k : Nat) : Nat := 0x50100 + 0x8 * k
def BT_SLIP_CNT_COUNT (k : Nat) : FRef := ⟨BT_SLIP_CNT k, 63, 0⟩
def BT_SLIP_LOCAL (k : Nat) : Nat := 0x50200 + 0x8 * k
def BT_SLIP_LOCAL_COUNT (k : Nat) : FRef := ⟨BT_SLIP_LOCAL k, 63, 0⟩
def WV_LOAD_ADDR : Nat := 0x60000
def WV_LOAD_ADDR_ADDR : FRef := ⟨WV_LOAD_ADDR, 47, 12⟩
def WV_LOAD_LEN : Nat := 0x60008
def WV_LOAD_LEN_BYTES : FRef := ⟨WV_LOAD_LEN, 31, 0⟩
def WV_LOAD_CTRL : Nat := 0x6000c
def WV_LOAD_CTRL_CONTEXT : FRef := ⟨WV_LOAD_CTRL, 6, 1⟩
def WV_LOAD_CTRL_START : FRef := ⟨WV_LOAD_CTRL, 0, 0⟩
def WV_LOAD_STATUS : Nat := 0x60010
def WV_LOAD_STATUS_BUSY : FRef := ⟨WV_LOAD_STATUS, 31, 31⟩
def WV_LOAD_STATUS_SECTION : FRef := ⟨WV_LOAD_STATUS, 23, 16⟩
def WV_LOAD_STATUS_CODE : FRef := ⟨WV_LOAD_STATUS, 7, 0⟩
def WV_PATCH_SAT : Nat := 0x60014
def WV_PATCH_SAT_COUNT : FRef := ⟨WV_PATCH_SAT, 31, 0⟩
def WV_ID (c : Nat) : Nat := 0x61000 + 0x10 * c
def WV_ID_ID (c : Nat) : FRef := ⟨WV_ID c, 63, 0⟩
def WV_STEP (c : Nat) : Nat := 0x61008 + 0x10 * c
def WV_STEP_STEPS (c : Nat) : FRef := ⟨WV_STEP c, 63, 0⟩
def GAU_CTRL : Nat := 0x70000
def GAU_CTRL_TRACE_CLR : FRef := ⟨GAU_CTRL, 2, 2⟩
def GAU_CTRL_CNT_CLR : FRef := ⟨GAU_CTRL, 1, 1⟩
def GAU_CTRL_FB_EN : FRef := ⟨GAU_CTRL, 0, 0⟩
def GAU_THR_DEFAULT : Nat := 0x70004
def GAU_THR_DEFAULT_ZERO : FRef := ⟨GAU_THR_DEFAULT, 31, 16⟩
def GAU_THR_DEFAULT_SAT : FRef := ⟨GAU_THR_DEFAULT, 15, 0⟩
def GAU_CNT_FLAGGED : Nat := 0x70010
def GAU_CNT_FLAGGED_COUNT : FRef := ⟨GAU_CNT_FLAGGED, 63, 0⟩
def GAU_CNT_WIDENED : Nat := 0x70018
def GAU_CNT_WIDENED_COUNT : FRef := ⟨GAU_CNT_WIDENED, 63, 0⟩
def GAU_CNT_OVERRUN : Nat := 0x70020
def GAU_CNT_OVERRUN_COUNT : FRef := ⟨GAU_CNT_OVERRUN, 63, 0⟩
def GAU_CNT_LIMIT : Nat := 0x70028
def GAU_CNT_LIMIT_COUNT : FRef := ⟨GAU_CNT_LIMIT, 63, 0⟩
def GAU_CNT_NULL : Nat := 0x70030
def GAU_CNT_NULL_COUNT : FRef := ⟨GAU_CNT_NULL, 63, 0⟩
def GAU_CNT_POISON : Nat := 0x70038
def GAU_CNT_POISON_COUNT : FRef := ⟨GAU_CNT_POISON, 63, 0⟩
def GAU_TRACE_ID : Nat := 0x70040
def GAU_TRACE_ID_CONTEXT : FRef := ⟨GAU_TRACE_ID, 31, 26⟩
def GAU_TRACE_ID_OUTCOME : FRef := ⟨GAU_TRACE_ID, 25, 24⟩
def GAU_TRACE_ID_SLOT : FRef := ⟨GAU_TRACE_ID, 23, 0⟩
def GAU_TRACE_FRAC : Nat := 0x70044
def GAU_TRACE_FRAC_ZERO_FRAC : FRef := ⟨GAU_TRACE_FRAC, 31, 16⟩
def GAU_TRACE_FRAC_SAT_FRAC : FRef := ⟨GAU_TRACE_FRAC, 15, 0⟩
def GAU_THR_SET (c : Nat) (s : Nat) : Nat := 0x71000 + 0x40 * c + 0x4 * s
def GAU_THR_SET_ZERO (c : Nat) (s : Nat) : FRef := ⟨GAU_THR_SET c s, 31, 16⟩
def GAU_THR_SET_SAT (c : Nat) (s : Nat) : FRef := ⟨GAU_THR_SET c s, 15, 0⟩
def GAU_BUD_CFG (c : Nat) : Nat := 0x72000 + 0x10 * c
def GAU_BUD_CFG_FRAC (c : Nat) : FRef := ⟨GAU_BUD_CFG c, 7, 0⟩
def GAU_BUD_GRANT (c : Nat) : Nat := 0x72004 + 0x10 * c
def GAU_BUD_GRANT_SLOTS (c : Nat) : FRef := ⟨GAU_BUD_GRANT c, 31, 0⟩
def GAU_BUD_USED (c : Nat) : Nat := 0x72008 + 0x10 * c
def GAU_BUD_USED_SLOTS (c : Nat) : FRef := ⟨GAU_BUD_USED c, 31, 0⟩
def GAU_PIN (c : Nat) : Nat := 0x7200c + 0x10 * c
def GAU_PIN_LAYERS (c : Nat) : FRef := ⟨GAU_PIN c, 15, 0⟩
def INT_CTRL : Nat := 0x80000
def INT_CTRL_CAPTURE_CLR : FRef := ⟨INT_CTRL, 1, 1⟩
def INT_CTRL_CNT_CLR : FRef := ⟨INT_CTRL, 0, 0⟩
def INT_STATUS : Nat := 0x80004
def INT_STATUS_SOUND_BUSY : FRef := ⟨INT_STATUS, 31, 31⟩
def INT_STATUS_UNSERVED : FRef := ⟨INT_STATUS, 24, 16⟩
def INT_STATUS_SPARES1 : FRef := ⟨INT_STATUS, 15, 12⟩
def INT_STATUS_SPARES0 : FRef := ⟨INT_STATUS, 11, 8⟩
def INT_STATUS_WITNESSES : FRef := ⟨INT_STATUS, 4, 0⟩
def INT_ERR : Nat := 0x80008
def INT_ERR_EVT_OVERFLOW : FRef := ⟨INT_ERR, 6, 6⟩
def INT_ERR_UNSERVED : FRef := ⟨INT_ERR, 5, 5⟩
def INT_ERR_BUDDY_FAIL : FRef := ⟨INT_ERR, 4, 4⟩
def INT_ERR_INTEGRITY : FRef := ⟨INT_ERR, 3, 3⟩
def INT_ERR_SUSPECT_FAIL : FRef := ⟨INT_ERR, 2, 2⟩
def INT_ERR_DIGEST_PEER : FRef := ⟨INT_ERR, 1, 1⟩
def INT_ERR_DIGEST : FRef := ⟨INT_ERR, 0, 0⟩
def INT_ERR_INFO : Nat := 0x8000c
def INT_ERR_INFO_CONTEXT : FRef := ⟨INT_ERR_INFO, 31, 26⟩
def INT_ERR_INFO_SLOT : FRef := ⟨INT_ERR_INFO, 23, 0⟩
def INT_STRIKE_CFG : Nat := 0x80010
def INT_STRIKE_CFG_LIMIT : FRef := ⟨INT_STRIKE_CFG, 31, 28⟩
def INT_STRIKE_CFG_WIN_BEATS : FRef := ⟨INT_STRIKE_CFG, 23, 0⟩
def INT_DIGEST_CFG : Nat := 0x80014
def INT_DIGEST_CFG_INTERVAL_MS : FRef := ⟨INT_DIGEST_CFG, 15, 0⟩
def INT_BUDDY_CFG : Nat := 0x80018
def INT_BUDDY_CFG_TIMEOUT_US : FRef := ⟨INT_BUDDY_CFG, 15, 0⟩
def INT_FENCE : Nat := 0x8001c
def INT_FENCE_GO : FRef := ⟨INT_FENCE, 31, 31⟩
def INT_FENCE_SPINDLE : FRef := ⟨INT_FENCE, 8, 0⟩
def INT_SOUND_CMD : Nat := 0x80020
def INT_SOUND_CMD_GO : FRef := ⟨INT_SOUND_CMD, 31, 31⟩
def INT_SOUND_CMD_KIND : FRef := ⟨INT_SOUND_CMD, 26, 24⟩
def INT_SOUND_CMD_DIE : FRef := ⟨INT_SOUND_CMD, 16, 16⟩
def INT_SOUND_CMD_UNIT : FRef := ⟨INT_SOUND_CMD, 7, 0⟩
def INT_SOUND_STATUS : Nat := 0x80024
def INT_SOUND_STATUS_BUSY : FRef := ⟨INT_SOUND_STATUS, 31, 31⟩
def INT_SOUND_STATUS_RESULT : FRef := ⟨INT_SOUND_STATUS, 25, 24⟩
def INT_SOUND_STATUS_BLOCK : FRef := ⟨INT_SOUND_STATUS, 3, 0⟩
def INT_TAINT_STATUS : Nat := 0x80028
def INT_TAINT_STATUS_WRAPS : FRef := ⟨INT_TAINT_STATUS, 63, 32⟩
def INT_TAINT_STATUS_HEAD : FRef := ⟨INT_TAINT_STATUS, 22, 0⟩
def INT_CNT (i : Nat) : Nat := 0x80100 + 0x8 * i
def INT_CNT_COUNT (i : Nat) : FRef := ⟨INT_CNT i, 63, 0⟩
def INT_BUDDY (c : Nat) : Nat := 0x81000 + 0x8 * c
def INT_BUDDY_VALID (c : Nat) : FRef := ⟨INT_BUDDY c, 63, 63⟩
def INT_BUDDY_NODE (c : Nat) : FRef := ⟨INT_BUDDY c, 57, 48⟩
def INT_BUDDY_CONTEXT (c : Nat) : FRef := ⟨INT_BUDDY c, 45, 40⟩
def INT_STRIKES (p : Nat) : Nat := 0x82000 + 0x4 * p
def INT_STRIKES_STATE (p : Nat) : FRef := ⟨INT_STRIKES p, 31, 29⟩
def INT_STRIKES_LOGICAL (p : Nat) : FRef := ⟨INT_STRIKES p, 24, 16⟩
def INT_STRIKES_COUNT (p : Nat) : FRef := ⟨INT_STRIKES p, 3, 0⟩
def INT_TAINT_EVT (e : Nat) : Nat := 0x83000 + 0x10 * e
def INT_TAINT_EVT_LAST_STEP (e : Nat) : FRef := ⟨INT_TAINT_EVT e, 63, 32⟩
def INT_TAINT_EVT_FIRST_STEP (e : Nat) : FRef := ⟨INT_TAINT_EVT e, 31, 0⟩
def INT_TAINT_INFO (e : Nat) : Nat := 0x83008 + 0x10 * e
def INT_TAINT_INFO_VALID (e : Nat) : FRef := ⟨INT_TAINT_INFO e, 31, 31⟩
def INT_TAINT_INFO_CAUSE (e : Nat) : FRef := ⟨INT_TAINT_INFO e, 30, 28⟩
def INT_TAINT_INFO_LOSS (e : Nat) : FRef := ⟨INT_TAINT_INFO e, 27, 27⟩
def INT_TAINT_INFO_CONTEXT (e : Nat) : FRef := ⟨INT_TAINT_INFO e, 25, 20⟩
def INT_TAINT_INFO_SOURCE (e : Nat) : FRef := ⟨INT_TAINT_INFO e, 8, 0⟩
def INT_DIGEST_STAT (r : Nat) : Nat := 0x84000 + 0x4 * r
def INT_DIGEST_STAT_RESULT (r : Nat) : FRef := ⟨INT_DIGEST_STAT r, 31, 30⟩
def INT_DIGEST_STAT_PASSES (r : Nat) : FRef := ⟨INT_DIGEST_STAT r, 15, 0⟩
def MEM_STATUS : Nat := 0x100000
def MEM_STATUS_SHOAL : FRef := ⟨MEM_STATUS, 31, 24⟩
def MEM_STATUS_ATOLL : FRef := ⟨MEM_STATUS, 15, 0⟩
def MEM_CTRL : Nat := 0x100004
def MEM_CTRL_CNT_CLR : FRef := ⟨MEM_CTRL, 2, 2⟩
def MEM_CTRL_SHOAL_SCRUB : FRef := ⟨MEM_CTRL, 1, 1⟩
def MEM_CTRL_ATOLL_SCRUB : FRef := ⟨MEM_CTRL, 0, 0⟩
def MEM_ERR : Nat := 0x100008
def MEM_ERR_RGN : FRef := ⟨MEM_ERR, 9, 9⟩
def MEM_ERR_BIND : FRef := ⟨MEM_ERR, 8, 8⟩
def MEM_ERR_RO_WRITE : FRef := ⟨MEM_ERR, 7, 7⟩
def MEM_ERR_BAD_ADDR : FRef := ⟨MEM_ERR, 6, 6⟩
def MEM_ERR_SHOAL_FAIL : FRef := ⟨MEM_ERR, 5, 5⟩
def MEM_ERR_ATOLL_FAIL : FRef := ⟨MEM_ERR, 4, 4⟩
def MEM_ERR_RESTORE_FAIL : FRef := ⟨MEM_ERR, 3, 3⟩
def MEM_ERR_SHOAL_UE : FRef := ⟨MEM_ERR, 2, 2⟩
def MEM_ERR_ATOLL_UE : FRef := ⟨MEM_ERR, 1, 1⟩
def MEM_ERR_ADDR : Nat := 0x100010
def MEM_ERR_ADDR_STAPLE : FRef := ⟨MEM_ERR_ADDR, 47, 12⟩
def MEM_SCRUB_RATE : Nat := 0x100018
def MEM_SCRUB_RATE_ATOLL_GBPS : FRef := ⟨MEM_SCRUB_RATE, 31, 16⟩
def MEM_SCRUB_RATE_SHOAL_GBPS : FRef := ⟨MEM_SCRUB_RATE, 15, 0⟩
def MEM_SWAP_CTRL : Nat := 0x100020
def MEM_SWAP_CTRL_COUNT : FRef := ⟨MEM_SWAP_CTRL, 13, 8⟩
def MEM_SWAP_CTRL_START : FRef := ⟨MEM_SWAP_CTRL, 0, 0⟩
def MEM_SWAP_STATUS : Nat := 0x100024
def MEM_SWAP_STATUS_BUSY : FRef := ⟨MEM_SWAP_STATUS, 31, 31⟩
def MEM_SWAP_STATUS_LEAVE_WAIT : FRef := ⟨MEM_SWAP_STATUS, 30, 30⟩
def MEM_SWAP_STATUS_PAIR : FRef := ⟨MEM_SWAP_STATUS, 20, 16⟩
def MEM_SWAP_STATUS_CODE : FRef := ⟨MEM_SWAP_STATUS, 7, 0⟩
def MEM_SWAP_PAIR (i : Nat) : Nat := 0x100100 + 0x4 * i
def MEM_SWAP_PAIR_DST (i : Nat) : FRef := ⟨MEM_SWAP_PAIR i, 15, 8⟩
def MEM_SWAP_PAIR_SRC (i : Nat) : FRef := ⟨MEM_SWAP_PAIR i, 7, 0⟩
def MEM_RGN_BASE (r : Nat) : Nat := 0x101000 + 0x20 * r
def MEM_RGN_BASE_BASE (r : Nat) : FRef := ⟨MEM_RGN_BASE r, 47, 12⟩
def MEM_RGN_SIZE (r : Nat) : Nat := 0x101008 + 0x20 * r
def MEM_RGN_SIZE_SIZE (r : Nat) : FRef := ⟨MEM_RGN_SIZE r, 39, 12⟩
def MEM_RGN_CFG (r : Nat) : Nat := 0x101010 + 0x20 * r
def MEM_RGN_CFG_VALID (r : Nat) : FRef := ⟨MEM_RGN_CFG r, 31, 31⟩
def MEM_RGN_CFG_KIND (r : Nat) : FRef := ⟨MEM_RGN_CFG r, 30, 28⟩
def MEM_RGN_CFG_HOME (r : Nat) : FRef := ⟨MEM_RGN_CFG r, 27, 20⟩
def MEM_RGN_CFG_SEALED (r : Nat) : FRef := ⟨MEM_RGN_CFG r, 19, 19⟩
def MEM_RGN_CFG_OWNER (r : Nat) : FRef := ⟨MEM_RGN_CFG r, 18, 13⟩
def MEM_RGN_CFG_BINDS (r : Nat) : FRef := ⟨MEM_RGN_CFG r, 12, 6⟩
def MEM_BIND (c : Nat) (w : Nat) : Nat := 0x104000 + 0x80 * c + 0x4 * w
def MEM_BIND_VALID (c : Nat) (w : Nat) : FRef := ⟨MEM_BIND c w, 31, 31⟩
def MEM_BIND_REGION (c : Nat) (w : Nat) : FRef := ⟨MEM_BIND c w, 7, 0⟩
def MEM_STALL_CAUSE (k : Nat) : Nat := 0x106000 + 0x8 * k
def MEM_STALL_CAUSE_COUNT (k : Nat) : FRef := ⟨MEM_STALL_CAUSE k, 63, 0⟩
def MEM_CNT_CE (u : Nat) : Nat := 0x106100 + 0x8 * u
def MEM_CNT_CE_COUNT (u : Nat) : FRef := ⟨MEM_CNT_CE u, 63, 0⟩
def MEM_CNT_UE (u : Nat) : Nat := 0x106180 + 0x8 * u
def MEM_CNT_UE_COUNT (u : Nat) : FRef := ⟨MEM_CNT_UE u, 63, 0⟩
def MEM_CNT_RESTORE : Nat := 0x106200
def MEM_CNT_RESTORE_COUNT : FRef := ⟨MEM_CNT_RESTORE, 63, 0⟩
def REEF_STATUS (n : Nat) : Nat := 0x200000 + 0x20000 * n
def REEF_STATUS_STATE (n : Nat) : FRef := ⟨REEF_STATUS n, 31, 30⟩
def REEF_STATUS_CONTEXT (n : Nat) : FRef := ⟨REEF_STATUS n, 29, 24⟩
def REEF_STATUS_CTX_VALID (n : Nat) : FRef := ⟨REEF_STATUS n, 23, 23⟩
def REEF_STATUS_QUEUED (n : Nat) : FRef := ⟨REEF_STATUS n, 15, 8⟩
def REEF_CTRL (n : Nat) : Nat := 0x200004 + 0x20000 * n
def REEF_CTRL_CAPTURE_CLR (n : Nat) : FRef := ⟨REEF_CTRL n, 1, 1⟩
def REEF_CTRL_CNT_CLR (n : Nat) : FRef := ⟨REEF_CTRL n, 0, 0⟩
def REEF_ERR (n : Nat) : Nat := 0x200008 + 0x20000 * n
def REEF_ERR_GRAD_RANGE (n : Nat) : FRef := ⟨REEF_ERR n, 6, 6⟩
def REEF_ERR_KV_FMT (n : Nat) : FRef := ⟨REEF_ERR n, 5, 5⟩
def REEF_ERR_NONFINITE_Q (n : Nat) : FRef := ⟨REEF_ERR n, 4, 4⟩
def REEF_ERR_Q_POISON (n : Nat) : FRef := ⟨REEF_ERR n, 3, 3⟩
def REEF_ERR_DIR_FAULT (n : Nat) : FRef := ⟨REEF_ERR n, 2, 2⟩
def REEF_ERR_OVERRUN (n : Nat) : FRef := ⟨REEF_ERR n, 1, 1⟩
def REEF_ERR_STAPLE_CRC (n : Nat) : FRef := ⟨REEF_ERR n, 0, 0⟩
def REEF_ERR_INFO (n : Nat) : Nat := 0x20000c + 0x20000 * n
def REEF_ERR_INFO_CONTEXT (n : Nat) : FRef := ⟨REEF_ERR_INFO n, 31, 26⟩
def REEF_ERR_INFO_SLOT (n : Nat) : FRef := ⟨REEF_ERR_INFO n, 23, 0⟩
def REEF_STAPLE_ADDR (n : Nat) : Nat := 0x200010 + 0x20000 * n
def REEF_STAPLE_ADDR_STAPLE (n : Nat) : FRef := ⟨REEF_STAPLE_ADDR n, 47, 12⟩
def REEF_STAPLE_ADDR_DIR (n : Nat) : FRef := ⟨REEF_STAPLE_ADDR n, 1, 1⟩
def REEF_STAPLE_ADDR_VALID (n : Nat) : FRef := ⟨REEF_STAPLE_ADDR n, 0, 0⟩
def REEF_CNT_OPS (n : Nat) : Nat := 0x200020 + 0x20000 * n
def REEF_CNT_OPS_COUNT (n : Nat) : FRef := ⟨REEF_CNT_OPS n, 63, 0⟩
def REEF_CNT_KEYS (n : Nat) : Nat := 0x200028 + 0x20000 * n
def REEF_CNT_KEYS_COUNT (n : Nat) : FRef := ⟨REEF_CNT_KEYS n, 63, 0⟩
def REEF_CNT_BYTES (n : Nat) : Nat := 0x200030 + 0x20000 * n
def REEF_CNT_BYTES_COUNT (n : Nat) : FRef := ⟨REEF_CNT_BYTES n, 63, 0⟩
def REEF_CNT_BUSY_NS (n : Nat) : Nat := 0x200038 + 0x20000 * n
def REEF_CNT_BUSY_NS_COUNT (n : Nat) : FRef := ⟨REEF_CNT_BUSY_NS n, 63, 0⟩
def REEF_CNT_STAPLE (n : Nat) : Nat := 0x200040 + 0x20000 * n
def REEF_CNT_STAPLE_COUNT (n : Nat) : FRef := ⟨REEF_CNT_STAPLE n, 31, 0⟩
def REEF_CNT_EMPTY (n : Nat) : Nat := 0x200044 + 0x20000 * n
def REEF_CNT_EMPTY_COUNT (n : Nat) : FRef := ⟨REEF_CNT_EMPTY n, 31, 0⟩
def REEF_CNT_OVERRUN (n : Nat) : Nat := 0x200048 + 0x20000 * n
def REEF_CNT_OVERRUN_COUNT (n : Nat) : FRef := ⟨REEF_CNT_OVERRUN n, 31, 0⟩
def KV_CTRL : Nat := 0x300000
def KV_CTRL_CAPTURE_CLR : FRef := ⟨KV_CTRL, 2, 2⟩
def KV_CTRL_CNT_CLR : FRef := ⟨KV_CTRL, 1, 1⟩
def KV_CTRL_BUILD : FRef := ⟨KV_CTRL, 0, 0⟩
def KV_STATUS : Nat := 0x300004
def KV_STATUS_READY : FRef := ⟨KV_STATUS, 31, 31⟩
def KV_STATUS_LOCKED : FRef := ⟨KV_STATUS, 30, 30⟩
def KV_STATUS_HEADS_FREE : FRef := ⟨KV_STATUS, 18, 0⟩
def KV_ERR : Nat := 0x300008
def KV_ERR_SHARD : FRef := ⟨KV_ERR, 4, 4⟩
def KV_ERR_DIR_CRC : FRef := ⟨KV_ERR, 3, 3⟩
def KV_ERR_DESC : FRef := ⟨KV_ERR, 2, 2⟩
def KV_ERR_CFG_LOCKED : FRef := ⟨KV_ERR, 1, 1⟩
def KV_ERR_POOL_SIZE : FRef := ⟨KV_ERR, 0, 0⟩
def KV_ERR_ADDR : Nat := 0x300010
def KV_ERR_ADDR_STAPLE : FRef := ⟨KV_ERR_ADDR, 47, 12⟩
def KV_LEAVES : Nat := 0x300018
def KV_LEAVES_COUNT : FRef := ⟨KV_LEAVES, 19, 0⟩
def KV_EPOCH : Nat := 0x300020
def KV_EPOCH_EPOCH : FRef := ⟨KV_EPOCH, 63, 0⟩
def KV_OLDEST : Nat := 0x300028
def KV_OLDEST_EPOCH : FRef := ⟨KV_OLDEST, 63, 0⟩
def KV_SHARD_CMD0 : Nat := 0x300040
def KV_SHARD_CMD0_FIRST_PAGE : FRef := ⟨KV_SHARD_CMD0, 63, 48⟩
def KV_SHARD_CMD0_PAGES : FRef := ⟨KV_SHARD_CMD0, 47, 32⟩
def KV_SHARD_CMD0_SHARD : FRef := ⟨KV_SHARD_CMD0, 31, 27⟩
def KV_SHARD_CMD0_SHARDS_M1 : FRef := ⟨KV_SHARD_CMD0, 26, 22⟩
def KV_SHARD_CMD0_CONTEXT : FRef := ⟨KV_SHARD_CMD0, 21, 16⟩
def KV_SHARD_CMD1 : Nat := 0x300048
def KV_SHARD_CMD1_SKEIN : FRef := ⟨KV_SHARD_CMD1, 63, 46⟩
def KV_SHARD_CMD1_SKEIN_GEN : FRef := ⟨KV_SHARD_CMD1, 45, 30⟩
def KV_SHARD_CMD1_HOME_NODE : FRef := ⟨KV_SHARD_CMD1, 29, 20⟩
def KV_SHARD_CMD2 : Nat := 0x300050
def KV_SHARD_CMD2_START : FRef := ⟨KV_SHARD_CMD2, 0, 0⟩
def KV_SHARD_CMD3 : Nat := 0x300058
def KV_SHARD_CMD3_STATUS : FRef := ⟨KV_SHARD_CMD3, 63, 62⟩
def KV_SHARD_CMD3_HEAD : FRef := ⟨KV_SHARD_CMD3, 17, 0⟩
def KV_CLASS (k : Nat) : Nat := 0x300100 + 0x4 * k
def KV_CLASS_BOBBIN_STAPLES (k : Nat) : FRef := ⟨KV_CLASS k, 31, 16⟩
def KV_CLASS_PAGE_STAPLES (k : Nat) : FRef := ⟨KV_CLASS k, 15, 0⟩
def KV_POOL (a : Nat) (k : Nat) : Nat := 0x300200 + 0x40 * a + 0x10 * k
def KV_POOL_PAGES (a : Nat) (k : Nat) : FRef := ⟨KV_POOL a k, 39, 16⟩
def KV_POOL_BOBBINS (a : Nat) (k : Nat) : FRef := ⟨KV_POOL a k, 15, 0⟩
def KV_FREE (a : Nat) (k : Nat) : Nat := 0x300208 + 0x40 * a + 0x10 * k
def KV_FREE_FREE_PAGES (a : Nat) (k : Nat) : FRef := ⟨KV_FREE a k, 63, 40⟩
def KV_FREE_FREE_BOBBINS (a : Nat) (k : Nat) : FRef := ⟨KV_FREE a k, 39, 24⟩
def KV_FREE_HELD (a : Nat) (k : Nat) : FRef := ⟨KV_FREE a k, 23, 0⟩
def KV_CTX (c : Nat) : Nat := 0x301000 + 0x8 * c
def KV_CTX_PAGES (c : Nat) : FRef := ⟨KV_CTX c, 63, 40⟩
def KV_CTX_BOBBINS (c : Nat) : FRef := ⟨KV_CTX c, 39, 24⟩
def KV_CTX_SEQUENCES (c : Nat) : FRef := ⟨KV_CTX c, 23, 0⟩
def KV_CNT (i : Nat) : Nat := 0x302000 + 0x8 * i
def KV_CNT_COUNT (i : Nat) : FRef := ⟨KV_CNT i, 63, 0⟩
def SKN_CTRL : Nat := 0x400000
def SKN_CTRL_CANCEL : FRef := ⟨SKN_CTRL, 63, 63⟩
def SKN_CTRL_GEN : FRef := ⟨SKN_CTRL, 47, 32⟩
def SKN_CTRL_SKEIN : FRef := ⟨SKN_CTRL, 17, 0⟩
def SKN_CANCEL_STATUS : Nat := 0x400008
def SKN_CANCEL_STATUS_BUSY : FRef := ⟨SKN_CANCEL_STATUS, 31, 31⟩
def SKN_CANCEL_STATUS_CODE : FRef := ⟨SKN_CANCEL_STATUS, 7, 0⟩
def SKN_ERR : Nat := 0x40000c
def SKN_ERR_COMPLETION_LOST : FRef := ⟨SKN_ERR, 3, 3⟩
def SKN_ERR_RING_FAULT : FRef := ⟨SKN_ERR, 2, 2⟩
def SKN_ERR_PROMPT_FAULT : FRef := ⟨SKN_ERR, 1, 1⟩
def SKN_ERR_TABLE_CRC : FRef := ⟨SKN_ERR, 0, 0⟩
def SKN_HANK_ADD : Nat := 0x400010
def SKN_HANK_ADD_TENANT : FRef := ⟨SKN_HANK_ADD, 63, 52⟩
def SKN_HANK_ADD_AMOUNT : FRef := ⟨SKN_HANK_ADD, 47, 0⟩
def SKN_VIEW_SEL : Nat := 0x400020
def SKN_VIEW_SEL_SKEIN : FRef := ⟨SKN_VIEW_SEL, 17, 0⟩
def SKN_VIEW (w : Nat) : Nat := 0x400040 + 0x4 * w
def SKN_VIEW_WORD (w : Nat) : FRef := ⟨SKN_VIEW w, 31, 0⟩
def SKN_STATE_CNT (s : Nat) : Nat := 0x400080 + 0x4 * s
def SKN_STATE_CNT_COUNT (s : Nat) : FRef := ⟨SKN_STATE_CNT s, 18, 0⟩
def SKN_CNT (i : Nat) : Nat := 0x400100 + 0x8 * i
def SKN_CNT_COUNT (i : Nat) : FRef := ⟨SKN_CNT i, 63, 0⟩
def SKN_CTX_RANGE (c : Nat) : Nat := 0x401000 + 0x8 * c
def SKN_CTX_RANGE_DRAFTS (c : Nat) : FRef := ⟨SKN_CTX_RANGE c, 54, 48⟩
def SKN_CTX_RANGE_COUNT (c : Nat) : FRef := ⟨SKN_CTX_RANGE c, 40, 22⟩
def SKN_CTX_RANGE_BASE (c : Nat) : FRef := ⟨SKN_CTX_RANGE c, 17, 0⟩
def SKN_QCFG_ADDR (q : Nat) : Nat := 0x408000 + 0x10 * q
def SKN_QCFG_ADDR_ADDR (q : Nat) : FRef := ⟨SKN_QCFG_ADDR q, 63, 12⟩
def SKN_QCFG_CTL (q : Nat) : Nat := 0x408008 + 0x10 * q
def SKN_QCFG_CTL_EN (q : Nat) : FRef := ⟨SKN_QCFG_CTL q, 63, 63⟩
def SKN_QCFG_CTL_ORDER (q : Nat) : FRef := ⟨SKN_QCFG_CTL q, 35, 32⟩
def SKN_QCFG_CTL_FUNCTION (q : Nat) : FRef := ⟨SKN_QCFG_CTL q, 27, 24⟩
def SKN_QCFG_CTL_CONTEXT (q : Nat) : FRef := ⟨SKN_QCFG_CTL q, 21, 16⟩
def SKN_QCFG_CTL_TENANT (q : Nat) : FRef := ⟨SKN_QCFG_CTL q, 11, 0⟩
def SKN_HANK (t : Nat) : Nat := 0x420000 + 0x10 * t
def SKN_HANK_BALANCE (t : Nat) : FRef := ⟨SKN_HANK t, 47, 0⟩
def SKN_HANK_RATE (t : Nat) : Nat := 0x420008 + 0x10 * t
def SKN_HANK_RATE_RATE (t : Nat) : FRef := ⟨SKN_HANK_RATE t, 31, 0⟩
def SKN_HANK_CAP (t : Nat) : Nat := 0x42000c + 0x10 * t
def SKN_HANK_CAP_CAP (t : Nat) : FRef := ⟨SKN_HANK_CAP t, 31, 0⟩
def SKN_Q_DOORBELL (q : Nat) : Nat := 0x440000 + 0x40 * q
def SKN_Q_DOORBELL_TAIL (q : Nat) : FRef := ⟨SKN_Q_DOORBELL q, 15, 0⟩
def SKN_Q_HEAD (q : Nat) : Nat := 0x440004 + 0x40 * q
def SKN_Q_HEAD_HEAD (q : Nat) : FRef := ⟨SKN_Q_HEAD q, 15, 0⟩
def SKN_Q_RING_TAIL (q : Nat) : Nat := 0x440008 + 0x40 * q
def SKN_Q_RING_TAIL_SKEIN (q : Nat) : FRef := ⟨SKN_Q_RING_TAIL q, 63, 46⟩
def SKN_Q_RING_TAIL_GEN (q : Nat) : FRef := ⟨SKN_Q_RING_TAIL q, 45, 30⟩
def SKN_Q_RING_TAIL_TAIL (q : Nat) : FRef := ⟨SKN_Q_RING_TAIL q, 15, 0⟩
def SKN_Q_STATUS (q : Nat) : Nat := 0x440010 + 0x40 * q
def SKN_Q_STATUS_EN (q : Nat) : FRef := ⟨SKN_Q_STATUS q, 31, 31⟩
def SKN_Q_STATUS_FAULT (q : Nat) : FRef := ⟨SKN_Q_STATUS q, 30, 30⟩
def SKN_Q_STATUS_BAD_TAIL (q : Nat) : FRef := ⟨SKN_Q_STATUS q, 29, 29⟩
def SKN_Q_STATUS_CODE (q : Nat) : FRef := ⟨SKN_Q_STATUS q, 7, 0⟩
def SMP_CTRL : Nat := 0x500000
def SMP_CTRL_CAPTURE_CLR : FRef := ⟨SMP_CTRL, 1, 1⟩
def SMP_CTRL_CNT_CLR : FRef := ⟨SMP_CTRL, 0, 0⟩
def SMP_STATUS : Nat := 0x500004
def SMP_STATUS_PROF_BUSY : FRef := ⟨SMP_STATUS, 31, 31⟩
def SMP_STATUS_LANES_BUSY : FRef := ⟨SMP_STATUS, 7, 0⟩
def SMP_ERR : Nat := 0x500008
def SMP_ERR_NONFINITE : FRef := ⟨SMP_ERR, 5, 5⟩
def SMP_ERR_MASK_EMPTY : FRef := ⟨SMP_ERR, 4, 4⟩
def SMP_ERR_AREA : FRef := ⟨SMP_ERR, 3, 3⟩
def SMP_ERR_AUTOMATON : FRef := ⟨SMP_ERR, 2, 2⟩
def SMP_ERR_CFG : FRef := ⟨SMP_ERR, 1, 1⟩
def SMP_ERR_PROFILE : FRef := ⟨SMP_ERR, 0, 0⟩
def SMP_ERR_INFO : Nat := 0x50000c
def SMP_ERR_INFO_CONTEXT : FRef := ⟨SMP_ERR_INFO, 31, 26⟩
def SMP_ERR_INFO_SKEIN_VALID : FRef := ⟨SMP_ERR_INFO, 24, 24⟩
def SMP_ERR_INFO_SKEIN : FRef := ⟨SMP_ERR_INFO, 17, 0⟩
def SMP_PROF_SEL : Nat := 0x500010
def SMP_PROF_SEL_INDEX : FRef := ⟨SMP_PROF_SEL, 11, 0⟩
def SMP_PROF_CTRL : Nat := 0x500014
def SMP_PROF_CTRL_COMMIT : FRef := ⟨SMP_PROF_CTRL, 0, 0⟩
def SMP_PROF_DATA (w : Nat) : Nat := 0x500020 + 0x4 * w
def SMP_PROF_DATA_DATA (w : Nat) : FRef := ⟨SMP_PROF_DATA w, 31, 0⟩
def SMP_PROF_READ (w : Nat) : Nat := 0x500040 + 0x4 * w
def SMP_PROF_READ_DATA (w : Nat) : FRef := ⟨SMP_PROF_READ w, 31, 0⟩
def SMP_CNT (i : Nat) : Nat := 0x500100 + 0x8 * i
def SMP_CNT_COUNT (i : Nat) : FRef := ⟨SMP_CNT i, 63, 0⟩
def CRD_STATUS : Nat := 0x580000
def CRD_STATUS_H0_BUSY : FRef := ⟨CRD_STATUS, 31, 31⟩
def CRD_STATUS_H1_BUSY : FRef := ⟨CRD_STATUS, 30, 30⟩
def CRD_STATUS_H0_WAIT : FRef := ⟨CRD_STATUS, 29, 29⟩
def CRD_STATUS_H1_WAIT : FRef := ⟨CRD_STATUS, 28, 28⟩
def CRD_STATUS_CONTEXT : FRef := ⟨CRD_STATUS, 27, 22⟩
def CRD_STATUS_CTX_VALID : FRef := ⟨CRD_STATUS, 21, 21⟩
def CRD_CTRL : Nat := 0x580004
def CRD_CTRL_CAPTURE_CLR : FRef := ⟨CRD_CTRL, 1, 1⟩
def CRD_CTRL_CNT_CLR : FRef := ⟨CRD_CTRL, 0, 0⟩
def CRD_ERR : Nat := 0x580008
def CRD_ERR_OVERRUN : FRef := ⟨CRD_ERR, 5, 5⟩
def CRD_ERR_NONFINITE_SCORE : FRef := ⟨CRD_ERR, 4, 4⟩
def CRD_ERR_SLOT_OVERFLOW : FRef := ⟨CRD_ERR, 3, 3⟩
def CRD_ERR_EXP_OVERFLOW : FRef := ⟨CRD_ERR, 2, 2⟩
def CRD_ERR_MAP_MISMATCH : FRef := ⟨CRD_ERR, 1, 1⟩
def CRD_ERR_MAP : FRef := ⟨CRD_ERR, 0, 0⟩
def CRD_ERR_INFO : Nat := 0x58000c
def CRD_ERR_INFO_CONTEXT : FRef := ⟨CRD_ERR_INFO, 31, 26⟩
def CRD_ERR_INFO_SLOT : FRef := ⟨CRD_ERR_INFO, 23, 0⟩
def CRD_CNT (i : Nat) : Nat := 0x580100 + 0x8 * i
def CRD_CNT_COUNT (i : Nat) : FRef := ⟨CRD_CNT i, 63, 0⟩
def CRD_CTX_DROP (c : Nat) : Nat := 0x581000 + 0x8 * c
def CRD_CTX_DROP_COUNT (c : Nat) : FRef := ⟨CRD_CTX_DROP c, 63, 0⟩
def GLD_CTRL : Nat := 0x600000
def GLD_CTRL_CAUSEWAY : FRef := ⟨GLD_CTRL, 1, 1⟩
def GLD_CTRL_EN : FRef := ⟨GLD_CTRL, 0, 0⟩
def GLD_NODE : Nat := 0x600004
def GLD_NODE_VALID : FRef := ⟨GLD_NODE, 31, 31⟩
def GLD_NODE_DX_M1 : FRef := ⟨GLD_NODE, 27, 24⟩
def GLD_NODE_DY_M1 : FRef := ⟨GLD_NODE, 23, 20⟩
def GLD_NODE_DZ_M1 : FRef := ⟨GLD_NODE, 19, 16⟩
def GLD_NODE_NODE : FRef := ⟨GLD_NODE, 9, 0⟩
def GLD_STATUS : Nat := 0x600008
def GLD_STATUS_OUTSTANDING : FRef := ⟨GLD_STATUS, 28, 16⟩
def GLD_STATUS_LANDING : FRef := ⟨GLD_STATUS, 11, 0⟩
def GLD_ERR : Nat := 0x60000c
def GLD_ERR_PORT_DOWN : FRef := ⟨GLD_ERR, 9, 9⟩
def GLD_ERR_WINDOW_CFG : FRef := ⟨GLD_ERR, 8, 8⟩
def GLD_ERR_CFG_LOCKED : FRef := ⟨GLD_ERR, 7, 7⟩
def GLD_ERR_CAUSEWAY : FRef := ⟨GLD_ERR, 6, 6⟩
def GLD_ERR_DOMAIN : FRef := ⟨GLD_ERR, 5, 5⟩
def GLD_ERR_POISON : FRef := ⟨GLD_ERR, 4, 4⟩
def GLD_ERR_WINDOW_REJECT : FRef := ⟨GLD_ERR, 3, 3⟩
def GLD_ERR_WINDOW_FAULT : FRef := ⟨GLD_ERR, 2, 2⟩
def GLD_ERR_RETRY_EXHAUSTED : FRef := ⟨GLD_ERR, 1, 1⟩
def GLD_ERR_TARGET_DEAD : FRef := ⟨GLD_ERR, 0, 0⟩
def GLD_ERR_INFO : Nat := 0x600010
def GLD_ERR_INFO_CONTEXT : FRef := ⟨GLD_ERR_INFO, 31, 26⟩
def GLD_ERR_INFO_STATUS : FRef := ⟨GLD_ERR_INFO, 23, 20⟩
def GLD_ERR_INFO_NODE : FRef := ⟨GLD_ERR_INFO, 9, 0⟩
def GLD_TIMEOUT : Nat := 0x600014
def GLD_TIMEOUT_E2E_RETRY : FRef := ⟨GLD_TIMEOUT, 23, 20⟩
def GLD_TIMEOUT_LINK_RETRY : FRef := ⟨GLD_TIMEOUT, 19, 16⟩
def GLD_TIMEOUT_OP_US : FRef := ⟨GLD_TIMEOUT, 15, 0⟩
def GLD_TC_WEIGHT : Nat := 0x600018
def GLD_TC_WEIGHT_TC1 : FRef := ⟨GLD_TC_WEIGHT, 23, 16⟩
def GLD_TC_WEIGHT_TC2 : FRef := ⟨GLD_TC_WEIGHT, 15, 8⟩
def GLD_TC_WEIGHT_TC3 : FRef := ⟨GLD_TC_WEIGHT, 7, 0⟩
def GLD_REACH (k : Nat) : Nat := 0x600020 + 0x8 * k
def GLD_REACH_POS (k : Nat) : FRef := ⟨GLD_REACH k, 63, 0⟩
def GLD_CNT (i : Nat) : Nat := 0x600100 + 0x8 * i
def GLD_CNT_COUNT (i : Nat) : FRef := ⟨GLD_CNT i, 63, 0⟩
def GLD_MCAST (g : Nat) (h : Nat) : Nat := 0x601000 + 0x10 * g + 0x8 * h
def GLD_MCAST_MASK (g : Nat) (h : Nat) : FRef := ⟨GLD_MCAST g h, 63, 0⟩
def GLD_PORT_STATUS (p : Nat) : Nat := 0x602000 + 0x40 * p
def GLD_PORT_STATUS_STATE (p : Nat) : FRef := ⟨GLD_PORT_STATUS p, 31, 29⟩
def GLD_PORT_STATUS_CAUSE (p : Nat) : FRef := ⟨GLD_PORT_STATUS p, 28, 25⟩
def GLD_PORT_STATUS_ROLE (p : Nat) : FRef := ⟨GLD_PORT_STATUS p, 24, 22⟩
def GLD_PORT_ROLE (p : Nat) : Nat := 0x602004 + 0x40 * p
def GLD_PORT_ROLE_VALID (p : Nat) : FRef := ⟨GLD_PORT_ROLE p, 31, 31⟩
def GLD_PORT_ROLE_ROLE (p : Nat) : FRef := ⟨GLD_PORT_ROLE p, 2, 0⟩
def GLD_PORT_PEER (p : Nat) : Nat := 0x602008 + 0x40 * p
def GLD_PORT_PEER_IDENTITY (p : Nat) : FRef := ⟨GLD_PORT_PEER p, 63, 0⟩
def GLD_PORT_PEER_INFO (p : Nat) : Nat := 0x602010 + 0x40 * p
def GLD_PORT_PEER_INFO_KIND (p : Nat) : FRef := ⟨GLD_PORT_PEER_INFO p, 31, 30⟩
def GLD_PORT_PEER_INFO_CODE (p : Nat) : FRef := ⟨GLD_PORT_PEER_INFO p, 29, 28⟩
def GLD_PORT_PEER_INFO_PORT (p : Nat) : FRef := ⟨GLD_PORT_PEER_INFO p, 27, 25⟩
def GLD_PORT_PEER_INFO_ROLE (p : Nat) : FRef := ⟨GLD_PORT_PEER_INFO p, 24, 22⟩
def GLD_PORT_PEER_INFO_LOCK (p : Nat) : FRef := ⟨GLD_PORT_PEER_INFO p, 21, 20⟩
def GLD_PORT_PEER_INFO_NODE (p : Nat) : FRef := ⟨GLD_PORT_PEER_INFO p, 9, 0⟩
def GLD_PORT_LANES (p : Nat) : Nat := 0x602014 + 0x40 * p
def GLD_PORT_LANES_REPAIRED (p : Nat) : FRef := ⟨GLD_PORT_LANES p, 15, 15⟩
def GLD_PORT_LANES_LANE (p : Nat) : FRef := ⟨GLD_PORT_LANES p, 4, 0⟩
def GLD_PORT_CNT (p : Nat) (j : Nat) : Nat := 0x602020 + 0x40 * p + 0x8 * j
def GLD_PORT_CNT_COUNT (p : Nat) (j : Nat) : FRef := ⟨GLD_PORT_CNT p j, 63, 0⟩
def GLD_MSG_RING (c : Nat) : Nat := 0x603000 + 0x10 * c
def GLD_MSG_RING_ORDER (c : Nat) : FRef := ⟨GLD_MSG_RING c, 63, 60⟩
def GLD_MSG_RING_SLOT (c : Nat) : FRef := ⟨GLD_MSG_RING c, 59, 56⟩
def GLD_MSG_RING_ADDR (c : Nat) : FRef := ⟨GLD_MSG_RING c, 47, 12⟩
def GLD_MSG_RING_VALID (c : Nat) : FRef := ⟨GLD_MSG_RING c, 0, 0⟩
def GLD_MSG_STATUS (c : Nat) : Nat := 0x603008 + 0x10 * c
def GLD_MSG_STATUS_HEAD (c : Nat) : FRef := ⟨GLD_MSG_STATUS c, 31, 16⟩
def GLD_MSG_STATUS_CONSUMER (c : Nat) : FRef := ⟨GLD_MSG_STATUS c, 15, 0⟩
def GLD_WIN_BASE (w : Nat) : Nat := 0x610000 + 0x20 * w
def GLD_WIN_BASE_BASE (w : Nat) : FRef := ⟨GLD_WIN_BASE w, 47, 12⟩
def GLD_WIN_SIZE (w : Nat) : Nat := 0x610008 + 0x20 * w
def GLD_WIN_SIZE_SIZE (w : Nat) : FRef := ⟨GLD_WIN_SIZE w, 39, 12⟩
def GLD_WIN_CFG (w : Nat) : Nat := 0x610010 + 0x20 * w
def GLD_WIN_CFG_VALID (w : Nat) : FRef := ⟨GLD_WIN_CFG w, 31, 31⟩
def GLD_WIN_CFG_CONTEXT (w : Nat) : FRef := ⟨GLD_WIN_CFG w, 30, 25⟩
def GLD_WIN_CFG_PERM (w : Nat) : FRef := ⟨GLD_WIN_CFG w, 24, 20⟩
def GLD_WIN_KEY (w : Nat) : Nat := 0x610014 + 0x20 * w
def GLD_WIN_KEY_KEY (w : Nat) : FRef := ⟨GLD_WIN_KEY w, 31, 0⟩
def SYN_CTRL : Nat := 0x700000
def SYN_CTRL_CAPTURE_CLR : FRef := ⟨SYN_CTRL, 1, 1⟩
def SYN_CTRL_CNT_CLR : FRef := ⟨SYN_CTRL, 0, 0⟩
def SYN_STATUS : Nat := 0x700004
def SYN_STATUS_UNITS_FREE : FRef := ⟨SYN_STATUS, 8, 0⟩
def SYN_ERR : Nat := 0x700008
def SYN_ERR_MASK_MISMATCH : FRef := ⟨SYN_ERR, 3, 3⟩
def SYN_ERR_NOT_MEMBER : FRef := ⟨SYN_ERR, 2, 2⟩
def SYN_ERR_NO_UNIT : FRef := ⟨SYN_ERR, 1, 1⟩
def SYN_ERR_BARRIER_OVERRUN : FRef := ⟨SYN_ERR, 0, 0⟩
def SYN_ERR_INFO : Nat := 0x70000c
def SYN_ERR_INFO_CONTEXT : FRef := ⟨SYN_ERR_INFO, 31, 26⟩
def SYN_ERR_INFO_UNIT : FRef := ⟨SYN_ERR_INFO, 23, 16⟩
def SYN_ERR_INFO_PARTICIPANT : FRef := ⟨SYN_ERR_INFO, 8, 0⟩
def SYN_CNT (i : Nat) : Nat := 0x700100 + 0x8 * i
def SYN_CNT_COUNT (i : Nat) : FRef := ⟨SYN_CNT i, 63, 0⟩
def SYN_BAR_CFG (b : Nat) : Nat := 0x701000 + 0x80 * b
def SYN_BAR_CFG_VALID (b : Nat) : FRef := ⟨SYN_BAR_CFG b, 31, 31⟩
def SYN_BAR_CFG_CONTEXT (b : Nat) : FRef := ⟨SYN_BAR_CFG b, 30, 25⟩
def SYN_BAR_CFG_INDEX (b : Nat) : FRef := ⟨SYN_BAR_CFG b, 23, 16⟩
def SYN_BAR_CFG_CROSS (b : Nat) : FRef := ⟨SYN_BAR_CFG b, 15, 15⟩
def SYN_BAR_CFG_ROOT (b : Nat) : FRef := ⟨SYN_BAR_CFG b, 6, 0⟩
def SYN_BAR_STATE (b : Nat) : Nat := 0x701004 + 0x80 * b
def SYN_BAR_STATE_GEN (b : Nat) : FRef := ⟨SYN_BAR_STATE b, 31, 31⟩
def SYN_BAR_STATE_REMOTE (b : Nat) : FRef := ⟨SYN_BAR_STATE b, 30, 30⟩
def SYN_BAR_STATE_EARLY (b : Nat) : FRef := ⟨SYN_BAR_STATE b, 29, 20⟩
def SYN_BAR_STATE_ARRIVED (b : Nat) : FRef := ⟨SYN_BAR_STATE b, 19, 10⟩
def SYN_BAR_STATE_WAITERS (b : Nat) : FRef := ⟨SYN_BAR_STATE b, 9, 0⟩
def SYN_BAR_NODES (b : Nat) (k : Nat) : Nat := 0x701008 + 0x80 * b + 0x8 * k
def SYN_BAR_NODES_POS (b : Nat) (k : Nat) : FRef := ⟨SYN_BAR_NODES b k, 63, 0⟩
def SYN_BAR_MASK (b : Nat) (j : Nat) : Nat := 0x701020 + 0x80 * b + 0x4 * j
def SYN_BAR_MASK_BITS (b : Nat) (j : Nat) : FRef := ⟨SYN_BAR_MASK b j, 31, 0⟩
def SYN_BAR_ARR (b : Nat) (j : Nat) : Nat := 0x701050 + 0x80 * b + 0x4 * j
def SYN_BAR_ARR_BITS (b : Nat) (j : Nat) : FRef := ⟨SYN_BAR_ARR b j, 31, 0⟩
def FRY_CTRL : Nat := 0x780000
def FRY_CTRL_CAPTURE_CLR : FRef := ⟨FRY_CTRL, 1, 1⟩
def FRY_CTRL_CNT_CLR : FRef := ⟨FRY_CTRL, 0, 0⟩
def FRY_STATUS : Nat := 0x780004
def FRY_STATUS_FREE : FRef := ⟨FRY_STATUS, 30, 24⟩
def FRY_STATUS_BUF_KIB : FRef := ⟨FRY_STATUS, 10, 0⟩
def FRY_ERR : Nat := 0x780008
def FRY_ERR_NO_CHANNEL : FRef := ⟨FRY_ERR, 6, 6⟩
def FRY_ERR_OVERRUN : FRef := ⟨FRY_ERR, 5, 5⟩
def FRY_ERR_SHADOW_BUSY : FRef := ⟨FRY_ERR, 4, 4⟩
def FRY_ERR_REMOTE : FRef := ⟨FRY_ERR, 3, 3⟩
def FRY_ERR_ADDR : FRef := ⟨FRY_ERR, 2, 2⟩
def FRY_ERR_STAPLE_CRC : FRef := ⟨FRY_ERR, 1, 1⟩
def FRY_ERR_BUS_HALT : FRef := ⟨FRY_ERR, 0, 0⟩
def FRY_ERR_INFO : Nat := 0x78000c
def FRY_ERR_INFO_CONTEXT : FRef := ⟨FRY_ERR_INFO, 31, 26⟩
def FRY_ERR_INFO_DRIVER : FRef := ⟨FRY_ERR_INFO, 25, 25⟩
def FRY_ERR_INFO_CHANNEL : FRef := ⟨FRY_ERR_INFO, 21, 16⟩
def FRY_ERR_INFO_CAUSE : FRef := ⟨FRY_ERR_INFO, 2, 0⟩
def FRY_CNT (i : Nat) : Nat := 0x780100 + 0x8 * i
def FRY_CNT_COUNT (i : Nat) : FRef := ⟨FRY_CNT i, 63, 0⟩
def FRY_KEY (c : Nat) : Nat := 0x780200 + 0x4 * c
def FRY_KEY_KEY (c : Nat) : FRef := ⟨FRY_KEY c, 31, 0⟩
def FRY_CH_CFG (n : Nat) : Nat := 0x781000 + 0x80 * n
def FRY_CH_CFG_DRIVER (n : Nat) : FRef := ⟨FRY_CH_CFG n, 31, 31⟩
def FRY_CH_CFG_QUOTA (n : Nat) : FRef := ⟨FRY_CH_CFG n, 15, 8⟩
def FRY_CH_CFG_PRIO (n : Nat) : FRef := ⟨FRY_CH_CFG n, 5, 4⟩
def FRY_CH_CFG_RETRY (n : Nat) : FRef := ⟨FRY_CH_CFG n, 3, 0⟩
def FRY_CH_STATUS (n : Nat) : Nat := 0x781004 + 0x80 * n
def FRY_CH_STATUS_STATE (n : Nat) : FRef := ⟨FRY_CH_STATUS n, 31, 29⟩
def FRY_CH_STATUS_PENDING (n : Nat) : FRef := ⟨FRY_CH_STATUS n, 28, 28⟩
def FRY_CH_STATUS_CTX_VALID (n : Nat) : FRef := ⟨FRY_CH_STATUS n, 27, 27⟩
def FRY_CH_STATUS_CONTEXT (n : Nat) : FRef := ⟨FRY_CH_STATUS n, 26, 21⟩
def FRY_CH_STATUS_INDEX (n : Nat) : FRef := ⟨FRY_CH_STATUS n, 20, 15⟩
def FRY_CH_CMD (n : Nat) : Nat := 0x781008 + 0x80 * n
def FRY_CH_CMD_ABORT (n : Nat) : FRef := ⟨FRY_CH_CMD n, 2, 2⟩
def FRY_CH_CMD_RESUME (n : Nat) : FRef := ⟨FRY_CH_CMD n, 1, 1⟩
def FRY_CH_CMD_LOAD (n : Nat) : FRef := ⟨FRY_CH_CMD n, 0, 0⟩
def FRY_CH_DONE (n : Nat) : Nat := 0x78100c + 0x80 * n
def FRY_CH_DONE_COUNT (n : Nat) : FRef := ⟨FRY_CH_DONE n, 31, 0⟩
def FRY_CH_POS (n : Nat) : Nat := 0x781010 + 0x80 * n
def FRY_CH_POS_K1 (n : Nat) : FRef := ⟨FRY_CH_POS n, 47, 24⟩
def FRY_CH_POS_K0 (n : Nat) : FRef := ⟨FRY_CH_POS n, 23, 0⟩
def FRY_CH_POS2 (n : Nat) : Nat := 0x781018 + 0x80 * n
def FRY_CH_POS2_K2 (n : Nat) : FRef := ⟨FRY_CH_POS2 n, 23, 0⟩
def FRY_CH_SHADOW (n : Nat) (w : Nat) : Nat := 0x781040 + 0x80 * n + 0x4 * w
def FRY_CH_SHADOW_WORD (n : Nat) (w : Nat) : FRef := ⟨FRY_CH_SHADOW n w, 31, 0⟩
def CTX_CTRL : Nat := 0x800000
def CTX_CTRL_CAPTURE_CLR : FRef := ⟨CTX_CTRL, 0, 0⟩
def CTX_STATUS : Nat := 0x800004
def CTX_STATUS_MOVING : FRef := ⟨CTX_STATUS, 24, 16⟩
def CTX_STATUS_IN_USE : FRef := ⟨CTX_STATUS, 6, 0⟩
def CTX_ERR : Nat := 0x800008
def CTX_ERR_FAULT : FRef := ⟨CTX_ERR, 3, 3⟩
def CTX_ERR_CFG_LOCKED : FRef := ⟨CTX_ERR, 2, 2⟩
def CTX_ERR_STATE : FRef := ⟨CTX_ERR, 1, 1⟩
def CTX_ERR_SPILL_LOST : FRef := ⟨CTX_ERR, 0, 0⟩
def CTX_ERR_INFO : Nat := 0x80000c
def CTX_ERR_INFO_CONTEXT : FRef := ⟨CTX_ERR_INFO, 31, 26⟩
def CTX_HOLD : Nat := 0x800010
def CTX_HOLD_MASK : FRef := ⟨CTX_HOLD, 63, 0⟩
def CTX_WANT : Nat := 0x800018
def CTX_WANT_MASK : FRef := ⟨CTX_WANT, 63, 0⟩
def CTX_IDLE_MJ : Nat := 0x800020
def CTX_IDLE_MJ_COUNT : FRef := ⟨CTX_IDLE_MJ, 63, 0⟩
def CTX_CFG (c : Nat) : Nat := 0x801000 + 0x80 * c
def CTX_CFG_MIN_BEATS (c : Nat) : FRef := ⟨CTX_CFG c, 15, 8⟩
def CTX_CFG_PRIO (c : Nat) : FRef := ⟨CTX_CFG c, 2, 0⟩
def CTX_STATE (c : Nat) : Nat := 0x801004 + 0x80 * c
def CTX_STATE_STATE (c : Nat) : FRef := ⟨CTX_STATE c, 31, 29⟩
def CTX_STATE_RESIDENT (c : Nat) : FRef := ⟨CTX_STATE c, 28, 20⟩
def CTX_STATE_SPILLED (c : Nat) : FRef := ⟨CTX_STATE c, 19, 11⟩
def CTX_STATE_NEVER_RAN (c : Nat) : FRef := ⟨CTX_STATE c, 10, 10⟩
def CTX_CMD (c : Nat) : Nat := 0x801008 + 0x80 * c
def CTX_CMD_TEARDOWN (c : Nat) : FRef := ⟨CTX_CMD c, 0, 0⟩
def CTX_FAULT (c : Nat) : Nat := 0x80100c + 0x80 * c
def CTX_FAULT_SPINDLE (c : Nat) : FRef := ⟨CTX_FAULT c, 24, 16⟩
def CTX_FAULT_CAUSE (c : Nat) : FRef := ⟨CTX_FAULT c, 7, 0⟩
def CTX_SET (c : Nat) (j : Nat) : Nat := 0x801010 + 0x80 * c + 0x4 * j
def CTX_SET_BITS (c : Nat) (j : Nat) : FRef := ⟨CTX_SET c j, 31, 0⟩
def CTX_SPILL (c : Nat) (k : Nat) : Nat := 0x801040 + 0x80 * c + 0x4 * k
def CTX_SPILL_VALID (c : Nat) (k : Nat) : FRef := ⟨CTX_SPILL c k, 31, 31⟩
def CTX_SPILL_REGION (c : Nat) (k : Nat) : FRef := ⟨CTX_SPILL c k, 7, 0⟩
def CTX_ACC (c : Nat) (i : Nat) : Nat := 0x804000 + 0x40 * c + 0x8 * i
def CTX_ACC_COUNT (c : Nat) (i : Nat) : FRef := ⟨CTX_ACC c i, 63, 0⟩
def SPN_STATUS (n : Nat) : Nat := 0x1000000 + 0x10000 * n
def SPN_STATUS_STATE (n : Nat) : FRef := ⟨SPN_STATUS n, 31, 30⟩
def SPN_STATUS_SPARES_LEFT (n : Nat) : FRef := ⟨SPN_STATUS n, 29, 26⟩
def SPN_STATUS_DIE (n : Nat) : FRef := ⟨SPN_STATUS n, 25, 25⟩
def SPN_STATUS_PHYS (n : Nat) : FRef := ⟨SPN_STATUS n, 24, 17⟩
def SPN_STATUS_CTX_VALID (n : Nat) : FRef := ⟨SPN_STATUS n, 16, 16⟩
def SPN_STATUS_CONTEXT (n : Nat) : FRef := ⟨SPN_STATUS n, 15, 10⟩
def SPN_STATUS_THR_READY (n : Nat) : FRef := ⟨SPN_STATUS n, 9, 2⟩
def SPN_CTRL (n : Nat) : Nat := 0x1000004 + 0x10000 * n
def SPN_CTRL_CAPTURE_CLR (n : Nat) : FRef := ⟨SPN_CTRL n, 1, 1⟩
def SPN_CTRL_CNT_CLR (n : Nat) : FRef := ⟨SPN_CTRL n, 0, 0⟩
def SPN_ERR (n : Nat) : Nat := 0x1000008 + 0x10000 * n
def SPN_ERR_RETAIN_WRITE (n : Nat) : FRef := ⟨SPN_ERR n, 7, 7⟩
def SPN_ERR_THREAD_FAULT (n : Nat) : FRef := ⟨SPN_ERR n, 6, 6⟩
def SPN_ERR_LAGOON_UE (n : Nat) : FRef := ⟨SPN_ERR n, 5, 5⟩
def SPN_ERR_STAPLE_CRC (n : Nat) : FRef := ⟨SPN_ERR n, 4, 4⟩
def SPN_ERR_GAUGE_SMAX (n : Nat) : FRef := ⟨SPN_ERR n, 3, 3⟩
def SPN_ERR_GAUGE_NORM (n : Nat) : FRef := ⟨SPN_ERR n, 2, 2⟩
def SPN_ERR_GAUGE_MAG (n : Nat) : FRef := ⟨SPN_ERR n, 1, 1⟩
def SPN_ERR_GAUGE_NAN (n : Nat) : FRef := ⟨SPN_ERR n, 0, 0⟩
def SPN_ERR_INFO (n : Nat) : Nat := 0x100000c + 0x10000 * n
def SPN_ERR_INFO_CONTEXT (n : Nat) : FRef := ⟨SPN_ERR_INFO n, 31, 26⟩
def SPN_ERR_INFO_SLOT (n : Nat) : FRef := ⟨SPN_ERR_INFO n, 23, 0⟩
def SPN_STAPLE_ADDR (n : Nat) : Nat := 0x1000010 + 0x10000 * n
def SPN_STAPLE_ADDR_STAPLE (n : Nat) : FRef := ⟨SPN_STAPLE_ADDR n, 47, 12⟩
def SPN_STAPLE_ADDR_KIND (n : Nat) : FRef := ⟨SPN_STAPLE_ADDR n, 2, 1⟩
def SPN_STAPLE_ADDR_VALID (n : Nat) : FRef := ⟨SPN_STAPLE_ADDR n, 0, 0⟩
def SPN_CNT_TILES (n : Nat) : Nat := 0x1000020 + 0x10000 * n
def SPN_CNT_TILES_COUNT (n : Nat) : FRef := ⟨SPN_CNT_TILES n, 63, 0⟩
def SPN_CNT_STAPLE (n : Nat) : Nat := 0x1000028 + 0x10000 * n
def SPN_CNT_STAPLE_COUNT (n : Nat) : FRef := ⟨SPN_CNT_STAPLE n, 31, 0⟩
def SPN_CNT_GAUGE (n : Nat) : Nat := 0x100002c + 0x10000 * n
def SPN_CNT_GAUGE_SMAX (n : Nat) : FRef := ⟨SPN_CNT_GAUGE n, 31, 24⟩
def SPN_CNT_GAUGE_NORM (n : Nat) : FRef := ⟨SPN_CNT_GAUGE n, 23, 16⟩
def SPN_CNT_GAUGE_MAG (n : Nat) : FRef := ⟨SPN_CNT_GAUGE n, 15, 8⟩
def SPN_CNT_GAUGE_NAN (n : Nat) : FRef := ⟨SPN_CNT_GAUGE n, 7, 0⟩
def SPN_CNT_LAGOON_CE (n : Nat) : Nat := 0x1000030 + 0x10000 * n
def SPN_CNT_LAGOON_CE_COUNT (n : Nat) : FRef := ⟨SPN_CNT_LAGOON_CE n, 31, 0⟩
def SPN_CNT_SWITCH (n : Nat) : Nat := 0x1000038 + 0x10000 * n
def SPN_CNT_SWITCH_COUNT (n : Nat) : FRef := ⟨SPN_CNT_SWITCH n, 63, 0⟩
def SPN_CNT_ARRAY_CYC (n : Nat) : Nat := 0x1000040 + 0x10000 * n
def SPN_CNT_ARRAY_CYC_COUNT (n : Nat) : FRef := ⟨SPN_CNT_ARRAY_CYC n, 63, 0⟩

/-! ## The map itself (R471) -/

/-- The registers of block TOP. -/
def topRegs : List RegD := [
  ⟨0x0, false, [], [⟨31, 16, .ro, 0xc900, []⟩, ⟨15, 12, .ro, 0, []⟩, ⟨11, 8, .ro, 0, []⟩]⟩,
  ⟨0x4, false, [], [⟨28, 27, .ro, 0, []⟩, ⟨26, 26, .ro, 0, []⟩, ⟨25, 23, .ro, 0, []⟩, ⟨22, 19, .ro, 0, []⟩, ⟨18, 10, .ro, 0, []⟩, ⟨9, 2, .ro, 0, []⟩]⟩,
  ⟨0x10, false, [], [⟨2, 2, .w1c, 0, []⟩, ⟨1, 1, .w1c, 0, []⟩, ⟨0, 0, .w1c, 0, []⟩]⟩,
  ⟨0x14, false, [], [⟨25, 0, .ro, 0, []⟩]⟩,
  ⟨0x20, false, [], [⟨31, 24, .ro, 0, []⟩, ⟨23, 23, .w1c, 0, []⟩, ⟨22, 22, .w1c, 0, []⟩, ⟨21, 21, .w1c, 0, []⟩, ⟨20, 20, .w1c, 0, []⟩, ⟨19, 19, .w1c, 0, []⟩, ⟨18, 18, .w1c, 0, []⟩, ⟨16, 0, .ro, 0, []⟩]⟩,
  ⟨0x24, false, [], [⟨31, 18, .rw, 0, []⟩, ⟨16, 0, .rw, 0, []⟩]⟩,
  ⟨0x40, false, [(0x4, 9)], [⟨31, 0, .ro, 0, []⟩]⟩]

/-- The registers of block BRG. -/
def brgRegs : List RegD := [
  ⟨0x10000, false, [], [⟨31, 28, .ro, 0, []⟩, ⟨27, 27, .ro, 1, []⟩, ⟨26, 26, .ro, 0, []⟩, ⟨25, 25, .ro, 0, []⟩, ⟨24, 24, .ro, 0, []⟩]⟩,
  ⟨0x10004, false, [], [⟨2, 2, .w1s, 0, []⟩, ⟨1, 1, .w1s, 0, []⟩, ⟨0, 0, .w1s, 0, []⟩]⟩,
  ⟨0x10008, false, [], [⟨5, 5, .w1c, 0, []⟩, ⟨4, 4, .w1c, 0, []⟩, ⟨3, 3, .w1c, 0, []⟩, ⟨2, 2, .w1c, 0, []⟩, ⟨1, 1, .w1c, 0, []⟩, ⟨0, 0, .w1c, 0, []⟩]⟩,
  ⟨0x10010, true, [], [⟨63, 12, .rw, 0, []⟩]⟩,
  ⟨0x10018, false, [], [⟨31, 0, .rw, 0, []⟩]⟩,
  ⟨0x10020, false, [], [⟨31, 24, .ro, 0, []⟩, ⟨23, 16, .ro, 0, []⟩, ⟨15, 8, .ro, 0, []⟩, ⟨3, 0, .ro, 0, []⟩]⟩,
  ⟨0x10024, false, [], [⟨31, 31, .w1s, 0, []⟩, ⟨24, 24, .rw, 0, []⟩, ⟨2, 0, .rw, 0, []⟩]⟩,
  ⟨0x10028, false, [], [⟨31, 31, .ro, 0, []⟩, ⟨30, 28, .ro, 0, []⟩, ⟨27, 27, .ro, 0, []⟩, ⟨26, 24, .ro, 0, []⟩, ⟨7, 0, .ro, 0, []⟩]⟩,
  ⟨0x1002c, false, [], [⟨15, 0, .rw, 0x3e8, [(0, 9), (60001, 65535)]⟩]⟩,
  ⟨0x10040, false, [(0x4, 10)], [⟨31, 0, .ro, 0, []⟩]⟩,
  ⟨0x10100, true, [(0x8, 4)], [⟨63, 0, .rc, 0, []⟩]⟩]

/-- The registers of block CRN. -/
def crnRegs : List RegD := [
  ⟨0x20000, false, [], [⟨21, 16, .ro, 0, []⟩, ⟨15, 0, .ro, 0, []⟩]⟩,
  ⟨0x20004, false, [], [⟨2, 2, .w1c, 0, []⟩, ⟨1, 1, .w1c, 0, []⟩, ⟨0, 0, .w1c, 0, []⟩]⟩,
  ⟨0x20008, false, [], [⟨16, 16, .ro, 0, []⟩, ⟨15, 0, .ro, 0, []⟩]⟩,
  ⟨0x20010, false, [], [⟨0, 0, .wp, 0, []⟩]⟩,
  ⟨0x20014, false, [], [⟨15, 0, .wp, 0, []⟩]⟩,
  ⟨0x20100, false, [(0x4, 7)], [⟨31, 31, .wp, 0, []⟩, ⟨2, 0, .wp, 7, []⟩]⟩,
  ⟨0x20200, false, [(0x4, 7)], [⟨15, 15, .wp, 0, []⟩, ⟨4, 0, .wp, 0, [(17, 31)]⟩]⟩,
  ⟨0x21000, false, [(0x80, 7), (0x4, 17)], [⟨31, 31, .wp, 0, []⟩, ⟨27, 24, .wp, 0, []⟩, ⟨23, 18, .wp, 0, []⟩, ⟨17, 12, .wp, 0, []⟩, ⟨11, 6, .wp, 0, []⟩]⟩,
  ⟨0x22000, true, [(0x8, 32)], [⟨63, 63, .wp, 0, []⟩, ⟨62, 62, .wp, 0, []⟩, ⟨61, 54, .wp, 0, [(152, 255)]⟩, ⟨53, 50, .wp, 0, [(0, 0), (4, 7), (10, 15)]⟩, ⟨31, 0, .wp, 0, []⟩]⟩,
  ⟨0x27000, false, [(0x4, 16)], [⟨16, 0, .ro, 0, []⟩]⟩,
  ⟨0x28000, false, [(0x4, 8192)], [⟨16, 0, .ro, 0, []⟩]⟩]

/-- The registers of block SEC. -/
def secRegs : List RegD := [
  ⟨0x30000, false, [], [⟨1, 1, .rw, 0, []⟩, ⟨0, 0, .rw, 0, []⟩]⟩,
  ⟨0x30004, false, [], [⟨31, 31, .ro, 0, []⟩, ⟨30, 30, .ro, 0, []⟩, ⟨29, 23, .ro, 0, []⟩, ⟨2, 0, .ro, 0, []⟩]⟩,
  ⟨0x30008, false, [], [⟨5, 5, .w1c, 0, []⟩, ⟨4, 4, .w1c, 0, []⟩, ⟨3, 3, .w1c, 0, []⟩, ⟨2, 2, .w1c, 0, []⟩, ⟨1, 1, .w1c, 0, []⟩, ⟨0, 0, .w1c, 0, []⟩]⟩,
  ⟨0x3000c, false, [], [⟨31, 16, .ro, 0, []⟩, ⟨15, 0, .ro, 0, []⟩]⟩,
  ⟨0x30010, true, [], [⟨47, 12, .rw, 0, []⟩]⟩,
  ⟨0x30018, false, [], [⟨31, 31, .w1s, 0, []⟩, ⟨27, 24, .rw, 0, [(0, 0), (6, 15)]⟩, ⟨23, 0, .rw, 0, []⟩]⟩,
  ⟨0x3001c, false, [], [⟨31, 31, .ro, 0, []⟩, ⟨7, 0, .ro, 0, []⟩]⟩,
  ⟨0x30020, false, [], [⟨31, 0, .ro, 0, []⟩]⟩,
  ⟨0x30100, false, [(0x10, 16)], [⟨31, 31, .ro, 0, []⟩, ⟨30, 29, .ro, 0, []⟩]⟩,
  ⟨0x30108, true, [(0x10, 16)], [⟨63, 0, .ro, 0, []⟩]⟩,
  ⟨0x30200, false, [(0x10, 7)], [⟨31, 29, .ro, 0, []⟩, ⟨15, 0, .ro, 0, []⟩]⟩,
  ⟨0x30300, false, [], [⟨7, 0, .ro, 0, []⟩]⟩,
  ⟨0x30400, true, [(0x8, 6)], [⟨63, 0, .rc, 0, []⟩]⟩,
  ⟨0x31000, false, [(0x4, 64)], [⟨31, 31, .ro, 0, []⟩, ⟨30, 30, .ro, 0, []⟩]⟩,
  ⟨0x32000, false, [(0x4, 4096)], [⟨31, 31, .ro, 0, []⟩]⟩]

/-- The registers of block PWR. -/
def pwrRegs : List RegD := [
  ⟨0x40000, false, [], [⟨12, 8, .rw, 0x17, [(24, 31)]⟩, ⟨0, 0, .wo, 0, []⟩]⟩,
  ⟨0x40004, false, [], [⟨31, 27, .ro, 0, []⟩, ⟨26, 22, .ro, 0, []⟩, ⟨21, 21, .ro, 0, []⟩, ⟨20, 15, .ro, 0, []⟩, ⟨14, 14, .ro, 0, []⟩, ⟨13, 13, .ro, 0, []⟩, ⟨12, 12, .ro, 0, []⟩, ⟨11, 11, .ro, 0, []⟩]⟩,
  ⟨0x40008, false, [], [⟨5, 5, .w1c, 0, []⟩, ⟨4, 4, .w1c, 0, []⟩, ⟨3, 3, .w1c, 0, []⟩, ⟨2, 2, .w1c, 0, []⟩, ⟨1, 1, .w1c, 0, []⟩, ⟨0, 0, .w1c, 0, []⟩]⟩,
  ⟨0x4000c, false, [], [⟨15, 0, .rw, 0, []⟩]⟩,
  ⟨0x40010, false, [], [⟨15, 0, .ro, 0, []⟩]⟩,
  ⟨0x40014, false, [], [⟨17, 16, .ro, 0, []⟩, ⟨15, 0, .ro, 0, []⟩]⟩,
  ⟨0x40018, false, [], [⟨31, 16, .ro, 0, []⟩, ⟨15, 0, .ro, 0, []⟩]⟩,
  ⟨0x4001c, false, [], [⟨9, 0, .rw, 0x32, [(501, 1023)]⟩]⟩,
  ⟨0x40020, false, [], [⟨15, 8, .rw, 0x5a, [(0, 79), (95, 255)]⟩, ⟨7, 0, .rw, 0x62, [(0, 84), (104, 255)]⟩]⟩,
  ⟨0x40040, false, [(0x4, 6)], [⟨31, 31, .ro, 0, []⟩, ⟨15, 0, .ro, 0, []⟩]⟩,
  ⟨0x40060, false, [], [⟨31, 16, .ro, 0, []⟩, ⟨15, 0, .ro, 0, []⟩]⟩,
  ⟨0x40068, true, [], [⟨63, 0, .ro, 0, []⟩]⟩,
  ⟨0x40070, false, [], [⟨31, 16, .ro, 0, []⟩, ⟨7, 0, .ro, 0, []⟩]⟩,
  ⟨0x40074, false, [], [⟨31, 31, .ro, 0, []⟩, ⟨30, 29, .ro, 0, []⟩, ⟨1, 1, .w1s, 0, []⟩, ⟨0, 0, .w1s, 0, []⟩]⟩,
  ⟨0x40100, true, [(0x8, 8)], [⟨63, 0, .rc, 0, []⟩]⟩,
  ⟨0x40200, false, [(0x4, 24)], [⟨31, 20, .ro, 0, []⟩, ⟨19, 9, .ro, 0, []⟩, ⟨7, 0, .ro, 0, []⟩]⟩]

/-- The registers of block BT. -/
def btRegs : List RegD := [
  ⟨0x50000, false, [], [⟨1, 1, .rw, 0, []⟩, ⟨0, 0, .rw, 0, []⟩]⟩,
  ⟨0x50004, false, [], [⟨10, 0, .rw, 0xfa, [(0, 63), (1025, 2047)]⟩]⟩,
  ⟨0x50008, false, [], [⟨15, 0, .rw, 0x7d0, [(0, 499), (20001, 65535)]⟩]⟩,
  ⟨0x5000c, false, [], [⟨31, 30, .ro, 0, []⟩, ⟨29, 29, .ro, 0, []⟩, ⟨19, 10, .ro, 0, []⟩, ⟨7, 0, .ro, 0, []⟩]⟩,
  ⟨0x50010, true, [], [⟨63, 0, .ro, 0, []⟩]⟩,
  ⟨0x50018, false, [], [⟨31, 0, .ro, 0, []⟩]⟩,
  ⟨0x5001c, false, [], [⟨31, 0, .ro, 0, []⟩]⟩,
  ⟨0x50020, false, [], [⟨7, 0, .rw, 0x40, []⟩]⟩,
  ⟨0x50024, false, [], [⟨3, 3, .w1c, 0, []⟩, ⟨2, 2, .w1c, 0, []⟩, ⟨1, 1, .w1c, 0, []⟩, ⟨0, 0, .w1c, 0, []⟩]⟩,
  ⟨0x50100, true, [(0x8, 16)], [⟨63, 0, .rc, 0, []⟩]⟩,
  ⟨0x50200, true, [(0x8, 16)], [⟨63, 0, .rc, 0, []⟩]⟩]

/-- The registers of block WV. -/
def wvRegs : List RegD := [
  ⟨0x60000, true, [], [⟨47, 12, .rw, 0, []⟩]⟩,
  ⟨0x60008, false, [], [⟨31, 0, .rw, 0, []⟩]⟩,
  ⟨0x6000c, false, [], [⟨6, 1, .rw, 0, []⟩, ⟨0, 0, .w1s, 0, []⟩]⟩,
  ⟨0x60010, false, [], [⟨31, 31, .ro, 0, []⟩, ⟨23, 16, .ro, 0, []⟩, ⟨7, 0, .ro, 0, []⟩]⟩,
  ⟨0x60014, false, [], [⟨31, 0, .rc, 0, []⟩]⟩,
  ⟨0x61000, true, [(0x10, 64)], [⟨63, 0, .ro, 0, []⟩]⟩,
  ⟨0x61008, true, [(0x10, 64)], [⟨63, 0, .ro, 0, []⟩]⟩]

/-- The registers of block GAU. -/
def gauRegs : List RegD := [
  ⟨0x70000, false, [], [⟨2, 2, .wo, 0, []⟩, ⟨1, 1, .wo, 0, []⟩, ⟨0, 0, .rw, 1, []⟩]⟩,
  ⟨0x70004, false, [], [⟨31, 16, .rw, 0x2000, []⟩, ⟨15, 0, .rw, 0x100, []⟩]⟩,
  ⟨0x70010, true, [], [⟨63, 0, .rc, 0, []⟩]⟩,
  ⟨0x70018, true, [], [⟨63, 0, .rc, 0, []⟩]⟩,
  ⟨0x70020, true, [], [⟨63, 0, .rc, 0, []⟩]⟩,
  ⟨0x70028, true, [], [⟨63, 0, .rc, 0, []⟩]⟩,
  ⟨0x70030, true, [], [⟨63, 0, .rc, 0, []⟩]⟩,
  ⟨0x70038, true, [], [⟨63, 0, .rc, 0, []⟩]⟩,
  ⟨0x70040, false, [], [⟨31, 26, .ro, 0, []⟩, ⟨25, 24, .ro, 0, []⟩, ⟨23, 0, .ro, 0, []⟩]⟩,
  ⟨0x70044, false, [], [⟨31, 16, .ro, 0, []⟩, ⟨15, 0, .ro, 0, []⟩]⟩,
  ⟨0x71000, false, [(0x40, 64), (0x4, 16)], [⟨31, 16, .ro, 0, []⟩, ⟨15, 0, .ro, 0, []⟩]⟩,
  ⟨0x72000, false, [(0x10, 64)], [⟨7, 0, .ro, 0, []⟩]⟩,
  ⟨0x72004, false, [(0x10, 64)], [⟨31, 0, .ro, 0, []⟩]⟩,
  ⟨0x72008, false, [(0x10, 64)], [⟨31, 0, .ro, 0, []⟩]⟩,
  ⟨0x7200c, false, [(0x10, 64)], [⟨15, 0, .ro, 0, []⟩]⟩]

/-- The registers of block INT. -/
def intRegs : List RegD := [
  ⟨0x80000, false, [], [⟨1, 1, .wo, 0, []⟩, ⟨0, 0, .wo, 0, []⟩]⟩,
  ⟨0x80004, false, [], [⟨31, 31, .ro, 0, []⟩, ⟨24, 16, .ro, 0, []⟩, ⟨15, 12, .ro, 0, []⟩, ⟨11, 8, .ro, 0, []⟩, ⟨4, 0, .ro, 0, []⟩]⟩,
  ⟨0x80008, false, [], [⟨6, 6, .w1c, 0, []⟩, ⟨5, 5, .w1c, 0, []⟩, ⟨4, 4, .w1c, 0, []⟩, ⟨3, 3, .w1c, 0, []⟩, ⟨2, 2, .w1c, 0, []⟩, ⟨1, 1, .w1c, 0, []⟩, ⟨0, 0, .w1c, 0, []⟩]⟩,
  ⟨0x8000c, false, [], [⟨31, 26, .ro, 0, []⟩, ⟨23, 0, .ro, 0, []⟩]⟩,
  ⟨0x80010, false, [], [⟨31, 28, .rw, 3, [(0, 0)]⟩, ⟨23, 0, .rw, 0x9c40, [(0, 0)]⟩]⟩,
  ⟨0x80014, false, [], [⟨15, 0, .rw, 0x3e8, [(0, 9), (60001, 65535)]⟩]⟩,
  ⟨0x80018, false, [], [⟨15, 0, .rw, 0x1f4, [(0, 49), (10001, 65535)]⟩]⟩,
  ⟨0x8001c, false, [], [⟨31, 31, .w1s, 0, []⟩, ⟨8, 0, .rw, 0, []⟩]⟩,
  ⟨0x80020, false, [], [⟨31, 31, .w1s, 0, []⟩, ⟨26, 24, .rw, 0, [(4, 7)]⟩, ⟨16, 16, .rw, 0, []⟩, ⟨7, 0, .rw, 0, []⟩]⟩,
  ⟨0x80024, false, [], [⟨31, 31, .ro, 0, []⟩, ⟨25, 24, .ro, 0, []⟩, ⟨3, 0, .ro, 0, []⟩]⟩,
  ⟨0x80028, true, [], [⟨63, 32, .ro, 0, []⟩, ⟨22, 0, .ro, 0, []⟩]⟩,
  ⟨0x80100, true, [(0x8, 12)], [⟨63, 0, .rc, 0, []⟩]⟩,
  ⟨0x81000, true, [(0x8, 64)], [⟨63, 63, .rw, 0, []⟩, ⟨57, 48, .rw, 0x3ff, []⟩, ⟨45, 40, .rw, 0, []⟩]⟩,
  ⟨0x82000, false, [(0x4, 304)], [⟨31, 29, .ro, 0, []⟩, ⟨24, 16, .ro, 0x1ff, []⟩, ⟨3, 0, .ro, 0, []⟩]⟩,
  ⟨0x83000, true, [(0x10, 16)], [⟨63, 32, .ro, 0, []⟩, ⟨31, 0, .ro, 0, []⟩]⟩,
  ⟨0x83008, false, [(0x10, 16)], [⟨31, 31, .w1c, 0, []⟩, ⟨30, 28, .ro, 0, []⟩, ⟨27, 27, .ro, 0, []⟩, ⟨25, 20, .ro, 0, []⟩, ⟨8, 0, .ro, 0, []⟩]⟩,
  ⟨0x84000, false, [(0x4, 256)], [⟨31, 30, .ro, 0, []⟩, ⟨15, 0, .ro, 0, []⟩]⟩]

/-- The registers of block MEM. -/
def memRegs : List RegD := [
  ⟨0x100000, false, [], [⟨31, 24, .ro, 0, []⟩, ⟨15, 0, .ro, 0, []⟩]⟩,
  ⟨0x100004, false, [], [⟨2, 2, .wo, 0, []⟩, ⟨1, 1, .rw, 1, []⟩, ⟨0, 0, .rw, 1, []⟩]⟩,
  ⟨0x100008, false, [], [⟨9, 9, .w1c, 0, []⟩, ⟨8, 8, .w1c, 0, []⟩, ⟨7, 7, .w1c, 0, []⟩, ⟨6, 6, .w1c, 0, []⟩, ⟨5, 5, .w1c, 0, []⟩, ⟨4, 4, .w1c, 0, []⟩, ⟨3, 3, .w1c, 0, []⟩, ⟨2, 2, .w1c, 0, []⟩, ⟨1, 1, .w1c, 0, []⟩]⟩,
  ⟨0x100010, true, [], [⟨47, 12, .ro, 0, []⟩]⟩,
  ⟨0x100018, false, [], [⟨31, 16, .rw, 0x20, [(0, 0), (513, 65535)]⟩, ⟨15, 0, .rw, 0x10, [(0, 0), (257, 65535)]⟩]⟩,
  ⟨0x100020, false, [], [⟨13, 8, .rw, 0, [(0, 0), (33, 63)]⟩, ⟨0, 0, .w1s, 0, []⟩]⟩,
  ⟨0x100024, false, [], [⟨31, 31, .ro, 0, []⟩, ⟨30, 30, .ro, 0, []⟩, ⟨20, 16, .ro, 0, []⟩, ⟨7, 0, .ro, 0, []⟩]⟩,
  ⟨0x100100, false, [(0x4, 32)], [⟨15, 8, .rw, 0, []⟩, ⟨7, 0, .rw, 0, []⟩]⟩,
  ⟨0x101000, true, [(0x20, 256)], [⟨47, 12, .rw, 0, []⟩]⟩,
  ⟨0x101008, true, [(0x20, 256)], [⟨39, 12, .rw, 0, []⟩]⟩,
  ⟨0x101010, false, [(0x20, 256)], [⟨31, 31, .rw, 0, []⟩, ⟨30, 28, .rw, 0, [(7, 7)]⟩, ⟨27, 20, .rw, 0, []⟩, ⟨19, 19, .ro, 0, []⟩, ⟨18, 13, .rw, 0, []⟩, ⟨12, 6, .ro, 0, []⟩]⟩,
  ⟨0x104000, false, [(0x80, 64), (0x4, 32)], [⟨31, 31, .rw, 0, []⟩, ⟨7, 0, .rw, 0, []⟩]⟩,
  ⟨0x106000, true, [(0x8, 10)], [⟨63, 0, .rc, 0, []⟩]⟩,
  ⟨0x106100, true, [(0x8, 12)], [⟨63, 0, .rc, 0, []⟩]⟩,
  ⟨0x106180, true, [(0x8, 12)], [⟨63, 0, .rc, 0, []⟩]⟩,
  ⟨0x106200, true, [], [⟨63, 0, .rc, 0, []⟩]⟩]

/-- The registers of block REEF. -/
def reefRegs : List RegD := [
  ⟨0x200000, false, [(0x20000, 8)], [⟨31, 30, .ro, 0, []⟩, ⟨29, 24, .ro, 0, []⟩, ⟨23, 23, .ro, 0, []⟩, ⟨15, 8, .ro, 0, []⟩]⟩,
  ⟨0x200004, false, [(0x20000, 8)], [⟨1, 1, .wo, 0, []⟩, ⟨0, 0, .wo, 0, []⟩]⟩,
  ⟨0x200008, false, [(0x20000, 8)], [⟨6, 6, .w1c, 0, []⟩, ⟨5, 5, .w1c, 0, []⟩, ⟨4, 4, .w1c, 0, []⟩, ⟨3, 3, .w1c, 0, []⟩, ⟨2, 2, .w1c, 0, []⟩, ⟨1, 1, .w1c, 0, []⟩, ⟨0, 0, .w1c, 0, []⟩]⟩,
  ⟨0x20000c, false, [(0x20000, 8)], [⟨31, 26, .ro, 0, []⟩, ⟨23, 0, .ro, 0, []⟩]⟩,
  ⟨0x200010, true, [(0x20000, 8)], [⟨47, 12, .ro, 0, []⟩, ⟨1, 1, .ro, 0, []⟩, ⟨0, 0, .ro, 0, []⟩]⟩,
  ⟨0x200020, true, [(0x20000, 8)], [⟨63, 0, .rc, 0, []⟩]⟩,
  ⟨0x200028, true, [(0x20000, 8)], [⟨63, 0, .rc, 0, []⟩]⟩,
  ⟨0x200030, true, [(0x20000, 8)], [⟨63, 0, .rc, 0, []⟩]⟩,
  ⟨0x200038, true, [(0x20000, 8)], [⟨63, 0, .rc, 0, []⟩]⟩,
  ⟨0x200040, false, [(0x20000, 8)], [⟨31, 0, .rc, 0, []⟩]⟩,
  ⟨0x200044, false, [(0x20000, 8)], [⟨31, 0, .rc, 0, []⟩]⟩,
  ⟨0x200048, false, [(0x20000, 8)], [⟨31, 0, .rc, 0, []⟩]⟩]

/-- The registers of block KV. -/
def kvRegs : List RegD := [
  ⟨0x300000, false, [], [⟨2, 2, .wo, 0, []⟩, ⟨1, 1, .wo, 0, []⟩, ⟨0, 0, .w1s, 0, []⟩]⟩,
  ⟨0x300004, false, [], [⟨31, 31, .ro, 0, []⟩, ⟨30, 30, .ro, 0, []⟩, ⟨18, 0, .ro, 0, []⟩]⟩,
  ⟨0x300008, false, [], [⟨4, 4, .w1c, 0, []⟩, ⟨3, 3, .w1c, 0, []⟩, ⟨2, 2, .w1c, 0, []⟩, ⟨1, 1, .w1c, 0, []⟩, ⟨0, 0, .w1c, 0, []⟩]⟩,
  ⟨0x300010, true, [], [⟨47, 12, .ro, 0, []⟩]⟩,
  ⟨0x300018, false, [], [⟨19, 0, .rw, 0, []⟩]⟩,
  ⟨0x300020, true, [], [⟨63, 0, .ro, 0, []⟩]⟩,
  ⟨0x300028, true, [], [⟨63, 0, .ro, 0xffffffffffffffff, []⟩]⟩,
  ⟨0x300040, true, [], [⟨63, 48, .rw, 0, []⟩, ⟨47, 32, .rw, 0, []⟩, ⟨31, 27, .rw, 0, []⟩, ⟨26, 22, .rw, 0, []⟩, ⟨21, 16, .rw, 0, []⟩]⟩,
  ⟨0x300048, true, [], [⟨63, 46, .rw, 0, []⟩, ⟨45, 30, .rw, 0, []⟩, ⟨29, 20, .rw, 0, []⟩]⟩,
  ⟨0x300050, true, [], [⟨0, 0, .w1s, 0, []⟩]⟩,
  ⟨0x300058, true, [], [⟨63, 62, .ro, 0, []⟩, ⟨17, 0, .ro, 0, []⟩]⟩,
  ⟨0x300100, false, [(0x4, 4)], [⟨31, 16, .rw, 0, []⟩, ⟨15, 0, .rw, 0, []⟩]⟩,
  ⟨0x300200, true, [(0x40, 8), (0x10, 4)], [⟨39, 16, .rw, 0, []⟩, ⟨15, 0, .rw, 0, []⟩]⟩,
  ⟨0x300208, true, [(0x40, 8), (0x10, 4)], [⟨63, 40, .ro, 0, []⟩, ⟨39, 24, .ro, 0, []⟩, ⟨23, 0, .ro, 0, []⟩]⟩,
  ⟨0x301000, true, [(0x8, 64)], [⟨63, 40, .ro, 0, []⟩, ⟨39, 24, .ro, 0, []⟩, ⟨23, 0, .ro, 0, []⟩]⟩,
  ⟨0x302000, true, [(0x8, 8)], [⟨63, 0, .rc, 0, []⟩]⟩]

/-- The registers of block SKN. -/
def sknRegs : List RegD := [
  ⟨0x400000, true, [], [⟨63, 63, .w1s, 0, []⟩, ⟨47, 32, .rw, 0, []⟩, ⟨17, 0, .rw, 0, []⟩]⟩,
  ⟨0x400008, false, [], [⟨31, 31, .ro, 0, []⟩, ⟨7, 0, .ro, 0, []⟩]⟩,
  ⟨0x40000c, false, [], [⟨3, 3, .w1c, 0, []⟩, ⟨2, 2, .w1c, 0, []⟩, ⟨1, 1, .w1c, 0, []⟩, ⟨0, 0, .w1c, 0, []⟩]⟩,
  ⟨0x400010, true, [], [⟨63, 52, .wo, 0, []⟩, ⟨47, 0, .wo, 0, []⟩]⟩,
  ⟨0x400020, false, [], [⟨17, 0, .rw, 0, []⟩]⟩,
  ⟨0x400040, false, [(0x4, 16)], [⟨31, 0, .ro, 0, []⟩]⟩,
  ⟨0x400080, false, [(0x4, 8)], [⟨18, 0, .ro, 0, []⟩]⟩,
  ⟨0x400100, true, [(0x8, 8)], [⟨63, 0, .rc, 0, []⟩]⟩,
  ⟨0x401000, true, [(0x8, 64)], [⟨54, 48, .rw, 0, [(65, 127)]⟩, ⟨40, 22, .rw, 0, [(262145, 524287)]⟩, ⟨17, 0, .rw, 0, []⟩]⟩,
  ⟨0x408000, true, [(0x10, 4096)], [⟨63, 12, .rw, 0, []⟩]⟩,
  ⟨0x408008, true, [(0x10, 4096)], [⟨63, 63, .rw, 0, []⟩, ⟨35, 32, .rw, 0, [(13, 15)]⟩, ⟨27, 24, .rw, 0, []⟩, ⟨21, 16, .rw, 0, []⟩, ⟨11, 0, .rw, 0, []⟩]⟩,
  ⟨0x420000, true, [(0x10, 4096)], [⟨63, 0, .ro, 0, []⟩]⟩,
  ⟨0x420008, false, [(0x10, 4096)], [⟨31, 0, .rw, 0, []⟩]⟩,
  ⟨0x42000c, false, [(0x10, 4096)], [⟨31, 0, .rw, 0, []⟩]⟩,
  ⟨0x440000, false, [(0x40, 4096)], [⟨15, 0, .rw, 0, []⟩]⟩,
  ⟨0x440004, false, [(0x40, 4096)], [⟨15, 0, .ro, 0, []⟩]⟩,
  ⟨0x440008, true, [(0x40, 4096)], [⟨63, 46, .wo, 0, []⟩, ⟨45, 30, .wo, 0, []⟩, ⟨15, 0, .wo, 0, []⟩]⟩,
  ⟨0x440010, false, [(0x40, 4096)], [⟨31, 31, .ro, 0, []⟩, ⟨30, 30, .ro, 0, []⟩, ⟨29, 29, .ro, 0, []⟩, ⟨7, 0, .ro, 0, []⟩]⟩]

/-- The registers of block SMP. -/
def smpRegs : List RegD := [
  ⟨0x500000, false, [], [⟨1, 1, .wo, 0, []⟩, ⟨0, 0, .wo, 0, []⟩]⟩,
  ⟨0x500004, false, [], [⟨31, 31, .ro, 0, []⟩, ⟨7, 0, .ro, 0, []⟩]⟩,
  ⟨0x500008, false, [], [⟨5, 5, .w1c, 0, []⟩, ⟨4, 4, .w1c, 0, []⟩, ⟨3, 3, .w1c, 0, []⟩, ⟨2, 2, .w1c, 0, []⟩, ⟨1, 1, .w1c, 0, []⟩, ⟨0, 0, .w1c, 0, []⟩]⟩,
  ⟨0x50000c, false, [], [⟨31, 26, .ro, 0, []⟩, ⟨24, 24, .ro, 0, []⟩, ⟨17, 0, .ro, 0, []⟩]⟩,
  ⟨0x500010, false, [], [⟨11, 0, .rw, 0, []⟩]⟩,
  ⟨0x500014, false, [], [⟨0, 0, .w1s, 0, []⟩]⟩,
  ⟨0x500020, false, [(0x4, 8)], [⟨31, 0, .rw, 0, []⟩]⟩,
  ⟨0x500040, false, [(0x4, 8)], [⟨31, 0, .ro, 0, []⟩]⟩,
  ⟨0x500100, true, [(0x8, 8)], [⟨63, 0, .rc, 0, []⟩]⟩]

/-- The registers of block CRD. -/
def crdRegs : List RegD := [
  ⟨0x580000, false, [], [⟨31, 31, .ro, 0, []⟩, ⟨30, 30, .ro, 0, []⟩, ⟨29, 29, .ro, 0, []⟩, ⟨28, 28, .ro, 0, []⟩, ⟨27, 22, .ro, 0, []⟩, ⟨21, 21, .ro, 0, []⟩]⟩,
  ⟨0x580004, false, [], [⟨1, 1, .wo, 0, []⟩, ⟨0, 0, .wo, 0, []⟩]⟩,
  ⟨0x580008, false, [], [⟨5, 5, .w1c, 0, []⟩, ⟨4, 4, .w1c, 0, []⟩, ⟨3, 3, .w1c, 0, []⟩, ⟨2, 2, .w1c, 0, []⟩, ⟨1, 1, .w1c, 0, []⟩, ⟨0, 0, .w1c, 0, []⟩]⟩,
  ⟨0x58000c, false, [], [⟨31, 26, .ro, 0, []⟩, ⟨23, 0, .ro, 0, []⟩]⟩,
  ⟨0x580100, true, [(0x8, 10)], [⟨63, 0, .rc, 0, []⟩]⟩,
  ⟨0x581000, true, [(0x8, 64)], [⟨63, 0, .rc, 0, []⟩]⟩]

/-- The registers of block GLD. -/
def gldRegs : List RegD := [
  ⟨0x600000, false, [], [⟨1, 1, .rw, 0, []⟩, ⟨0, 0, .rw, 1, []⟩]⟩,
  ⟨0x600004, false, [], [⟨31, 31, .rw, 0, []⟩, ⟨27, 24, .rw, 0, []⟩, ⟨23, 20, .rw, 0, []⟩, ⟨19, 16, .rw, 0, []⟩, ⟨9, 0, .rw, 0x3ff, []⟩]⟩,
  ⟨0x600008, false, [], [⟨28, 16, .ro, 0, []⟩, ⟨11, 0, .ro, 0, []⟩]⟩,
  ⟨0x60000c, false, [], [⟨9, 9, .w1c, 0, []⟩, ⟨8, 8, .w1c, 0, []⟩, ⟨7, 7, .w1c, 0, []⟩, ⟨6, 6, .w1c, 0, []⟩, ⟨5, 5, .w1c, 0, []⟩, ⟨4, 4, .w1c, 0, []⟩, ⟨3, 3, .w1c, 0, []⟩, ⟨2, 2, .w1c, 0, []⟩, ⟨1, 1, .w1c, 0, []⟩, ⟨0, 0, .w1c, 0, []⟩]⟩,
  ⟨0x600010, false, [], [⟨31, 26, .ro, 0, []⟩, ⟨23, 20, .ro, 0, []⟩, ⟨9, 0, .ro, 0, []⟩]⟩,
  ⟨0x600014, false, [], [⟨23, 20, .rw, 3, []⟩, ⟨19, 16, .rw, 8, [(0, 0)]⟩, ⟨15, 0, .rw, 0x32, [(0, 9), (10001, 65535)]⟩]⟩,
  ⟨0x600018, false, [], [⟨23, 16, .rw, 8, [(0, 0)]⟩, ⟨15, 8, .rw, 4, [(0, 0)]⟩, ⟨7, 0, .rw, 1, [(0, 0)]⟩]⟩,
  ⟨0x600020, true, [(0x8, 2)], [⟨63, 0, .ro, 0, []⟩]⟩,
  ⟨0x600100, true, [(0x8, 10)], [⟨63, 0, .rc, 0, []⟩]⟩,
  ⟨0x601000, true, [(0x10, 64), (0x8, 2)], [⟨63, 0, .rw, 0, []⟩]⟩,
  ⟨0x602000, false, [(0x40, 7)], [⟨31, 29, .ro, 0, []⟩, ⟨28, 25, .ro, 0, []⟩, ⟨24, 22, .ro, 7, []⟩]⟩,
  ⟨0x602004, false, [(0x40, 7)], [⟨31, 31, .rw, 0, []⟩, ⟨2, 0, .rw, 7, []⟩]⟩,
  ⟨0x602008, true, [(0x40, 7)], [⟨63, 0, .ro, 0, []⟩]⟩,
  ⟨0x602010, false, [(0x40, 7)], [⟨31, 30, .ro, 0, []⟩, ⟨29, 28, .ro, 0, []⟩, ⟨27, 25, .ro, 0, []⟩, ⟨24, 22, .ro, 0, []⟩, ⟨21, 20, .ro, 0, []⟩, ⟨9, 0, .ro, 0x3ff, []⟩]⟩,
  ⟨0x602014, false, [(0x40, 7)], [⟨15, 15, .ro, 0, []⟩, ⟨4, 0, .ro, 0, []⟩]⟩,
  ⟨0x602020, true, [(0x40, 7), (0x8, 4)], [⟨63, 0, .rc, 0, []⟩]⟩,
  ⟨0x603000, true, [(0x10, 64)], [⟨63, 60, .rw, 0, [(13, 15)]⟩, ⟨59, 56, .rw, 0, [(9, 15)]⟩, ⟨47, 12, .rw, 0, []⟩, ⟨0, 0, .rw, 0, []⟩]⟩,
  ⟨0x603008, false, [(0x10, 64)], [⟨31, 16, .ro, 0, []⟩, ⟨15, 0, .ro, 0, []⟩]⟩,
  ⟨0x610000, true, [(0x20, 4096)], [⟨47, 12, .rw, 0, []⟩]⟩,
  ⟨0x610008, true, [(0x20, 4096)], [⟨39, 12, .rw, 0, []⟩]⟩,
  ⟨0x610010, false, [(0x20, 4096)], [⟨31, 31, .rw, 0, []⟩, ⟨30, 25, .rw, 0, []⟩, ⟨24, 20, .rw, 0, []⟩]⟩,
  ⟨0x610014, false, [(0x20, 4096)], [⟨31, 0, .wo, 0, []⟩]⟩]

/-- The registers of block SYN. -/
def synRegs : List RegD := [
  ⟨0x700000, false, [], [⟨1, 1, .wo, 0, []⟩, ⟨0, 0, .wo, 0, []⟩]⟩,
  ⟨0x700004, false, [], [⟨8, 0, .ro, 0x100, []⟩]⟩,
  ⟨0x700008, false, [], [⟨3, 3, .w1c, 0, []⟩, ⟨2, 2, .w1c, 0, []⟩, ⟨1, 1, .w1c, 0, []⟩, ⟨0, 0, .w1c, 0, []⟩]⟩,
  ⟨0x70000c, false, [], [⟨31, 26, .ro, 0, []⟩, ⟨23, 16, .ro, 0, []⟩, ⟨8, 0, .ro, 0, []⟩]⟩,
  ⟨0x700100, true, [(0x8, 4)], [⟨63, 0, .rc, 0, []⟩]⟩,
  ⟨0x701000, false, [(0x80, 256)], [⟨31, 31, .ro, 0, []⟩, ⟨30, 25, .ro, 0, []⟩, ⟨23, 16, .ro, 0, []⟩, ⟨15, 15, .ro, 0, []⟩, ⟨6, 0, .ro, 0, []⟩]⟩,
  ⟨0x701004, false, [(0x80, 256)], [⟨31, 31, .ro, 0, []⟩, ⟨30, 30, .ro, 0, []⟩, ⟨29, 20, .ro, 0, []⟩, ⟨19, 10, .ro, 0, []⟩, ⟨9, 0, .ro, 0, []⟩]⟩,
  ⟨0x701008, true, [(0x80, 256), (0x8, 2)], [⟨63, 0, .ro, 0, []⟩]⟩,
  ⟨0x701020, false, [(0x80, 256), (0x4, 12)], [⟨31, 0, .ro, 0, []⟩]⟩,
  ⟨0x701050, false, [(0x80, 256), (0x4, 12)], [⟨31, 0, .ro, 0, []⟩]⟩]

/-- The registers of block FRY. -/
def fryRegs : List RegD := [
  ⟨0x780000, false, [], [⟨1, 1, .wo, 0, []⟩, ⟨0, 0, .wo, 0, []⟩]⟩,
  ⟨0x780004, false, [], [⟨30, 24, .ro, 0x40, []⟩, ⟨10, 0, .ro, 0, []⟩]⟩,
  ⟨0x780008, false, [], [⟨6, 6, .w1c, 0, []⟩, ⟨5, 5, .w1c, 0, []⟩, ⟨4, 4, .w1c, 0, []⟩, ⟨3, 3, .w1c, 0, []⟩, ⟨2, 2, .w1c, 0, []⟩, ⟨1, 1, .w1c, 0, []⟩, ⟨0, 0, .w1c, 0, []⟩]⟩,
  ⟨0x78000c, false, [], [⟨31, 26, .ro, 0, []⟩, ⟨25, 25, .ro, 0, []⟩, ⟨21, 16, .ro, 0, []⟩, ⟨2, 0, .ro, 0, []⟩]⟩,
  ⟨0x780100, true, [(0x8, 8)], [⟨63, 0, .rc, 0, []⟩]⟩,
  ⟨0x780200, false, [(0x4, 65)], [⟨31, 0, .wo, 0, []⟩]⟩,
  ⟨0x781000, false, [(0x80, 64)], [⟨31, 31, .rw, 0, []⟩, ⟨15, 8, .rw, 0x10, [(0, 0)]⟩, ⟨5, 4, .rw, 0, []⟩, ⟨3, 0, .rw, 3, []⟩]⟩,
  ⟨0x781004, false, [(0x80, 64)], [⟨31, 29, .ro, 0, []⟩, ⟨28, 28, .ro, 0, []⟩, ⟨27, 27, .ro, 0, []⟩, ⟨26, 21, .ro, 0, []⟩, ⟨20, 15, .ro, 0, []⟩]⟩,
  ⟨0x781008, false, [(0x80, 64)], [⟨2, 2, .w1s, 0, []⟩, ⟨1, 1, .w1s, 0, []⟩, ⟨0, 0, .w1s, 0, []⟩]⟩,
  ⟨0x78100c, false, [(0x80, 64)], [⟨31, 0, .ro, 0, []⟩]⟩,
  ⟨0x781010, true, [(0x80, 64)], [⟨47, 24, .ro, 0, []⟩, ⟨23, 0, .ro, 0, []⟩]⟩,
  ⟨0x781018, false, [(0x80, 64)], [⟨23, 0, .ro, 0, []⟩]⟩,
  ⟨0x781044, false, [(0x80, 64), (0x4, 15)], [⟨31, 0, .rw, 0, []⟩]⟩]

/-- The registers of block CTX. -/
def ctxRegs : List RegD := [
  ⟨0x800000, false, [], [⟨0, 0, .wo, 0, []⟩]⟩,
  ⟨0x800004, false, [], [⟨24, 16, .ro, 0, []⟩, ⟨6, 0, .ro, 0, []⟩]⟩,
  ⟨0x800008, false, [], [⟨3, 3, .w1c, 0, []⟩, ⟨2, 2, .w1c, 0, []⟩, ⟨1, 1, .w1c, 0, []⟩, ⟨0, 0, .w1c, 0, []⟩]⟩,
  ⟨0x80000c, false, [], [⟨31, 26, .ro, 0, []⟩]⟩,
  ⟨0x800010, true, [], [⟨63, 0, .ro, 0, []⟩]⟩,
  ⟨0x800018, true, [], [⟨63, 0, .ro, 0, []⟩]⟩,
  ⟨0x800020, true, [], [⟨63, 0, .ro, 0, []⟩]⟩,
  ⟨0x801000, false, [(0x80, 64)], [⟨15, 8, .rw, 4, []⟩, ⟨2, 0, .rw, 0, []⟩]⟩,
  ⟨0x801004, false, [(0x80, 64)], [⟨31, 29, .ro, 0, []⟩, ⟨28, 20, .ro, 0, []⟩, ⟨19, 11, .ro, 0, []⟩, ⟨10, 10, .ro, 0, []⟩]⟩,
  ⟨0x801008, false, [(0x80, 64)], [⟨0, 0, .w1s, 0, []⟩]⟩,
  ⟨0x80100c, false, [(0x80, 64)], [⟨24, 16, .ro, 0x1ff, []⟩, ⟨7, 0, .ro, 0, []⟩]⟩,
  ⟨0x801010, false, [(0x80, 64), (0x4, 9)], [⟨31, 0, .ro, 0, []⟩]⟩,
  ⟨0x801040, false, [(0x80, 64), (0x4, 8)], [⟨31, 31, .rw, 0, []⟩, ⟨7, 0, .rw, 0, []⟩]⟩,
  ⟨0x804000, true, [(0x40, 64), (0x8, 7)], [⟨63, 0, .ro, 0, []⟩]⟩]

/-- The registers of block SPN. -/
def spnRegs : List RegD := [
  ⟨0x1000000, false, [(0x10000, 288)], [⟨31, 30, .ro, 0, []⟩, ⟨29, 26, .ro, 0, []⟩, ⟨25, 25, .ro, 0, []⟩, ⟨24, 17, .ro, 0, []⟩, ⟨16, 16, .ro, 0, []⟩, ⟨15, 10, .ro, 0, []⟩, ⟨9, 2, .ro, 0, []⟩]⟩,
  ⟨0x1000004, false, [(0x10000, 288)], [⟨1, 1, .wo, 0, []⟩, ⟨0, 0, .wo, 0, []⟩]⟩,
  ⟨0x1000008, false, [(0x10000, 288)], [⟨7, 7, .w1c, 0, []⟩, ⟨6, 6, .w1c, 0, []⟩, ⟨5, 5, .w1c, 0, []⟩, ⟨4, 4, .w1c, 0, []⟩, ⟨3, 3, .w1c, 0, []⟩, ⟨2, 2, .w1c, 0, []⟩, ⟨1, 1, .w1c, 0, []⟩, ⟨0, 0, .w1c, 0, []⟩]⟩,
  ⟨0x100000c, false, [(0x10000, 288)], [⟨31, 26, .ro, 0, []⟩, ⟨23, 0, .ro, 0, []⟩]⟩,
  ⟨0x1000010, true, [(0x10000, 288)], [⟨47, 12, .ro, 0, []⟩, ⟨2, 1, .ro, 0, []⟩, ⟨0, 0, .ro, 0, []⟩]⟩,
  ⟨0x1000020, true, [(0x10000, 288)], [⟨63, 0, .rc, 0, []⟩]⟩,
  ⟨0x1000028, false, [(0x10000, 288)], [⟨31, 0, .rc, 0, []⟩]⟩,
  ⟨0x100002c, false, [(0x10000, 288)], [⟨31, 24, .rc, 0, []⟩, ⟨23, 16, .rc, 0, []⟩, ⟨15, 8, .rc, 0, []⟩, ⟨7, 0, .rc, 0, []⟩]⟩,
  ⟨0x1000030, false, [(0x10000, 288)], [⟨31, 0, .rc, 0, []⟩]⟩,
  ⟨0x1000038, true, [(0x10000, 288)], [⟨63, 0, .rc, 0, []⟩]⟩,
  ⟨0x1000040, true, [(0x10000, 288)], [⟨63, 0, .rc, 0, []⟩]⟩]

/-- The whole register map of R471. -/
def regTab : List RegD :=
  topRegs ++ brgRegs ++ crnRegs ++ secRegs ++ pwrRegs ++ btRegs ++ wvRegs ++ gauRegs ++ intRegs ++ memRegs ++ reefRegs ++ kvRegs ++ sknRegs ++ smpRegs ++ crdRegs ++ gldRegs ++ synRegs ++ fryRegs ++ ctxRegs ++ spnRegs

/-- The registers of the block that offset `off` lies in (R15). -/
def blockTab (off : Nat) : List RegD :=
  if off < 0x80000 then
    if off < 0x10000 then topRegs else if off < 0x20000 then brgRegs else if off < 0x30000 then crnRegs
    else if off < 0x40000 then secRegs else if off < 0x50000 then pwrRegs else if off < 0x60000 then btRegs
    else if off < 0x70000 then wvRegs else gauRegs
  else if off < 0x500000 then
    if off < 0x100000 then intRegs else if off < 0x200000 then memRegs else if off < 0x300000 then reefRegs
    else if off < 0x400000 then kvRegs else sknRegs
  else if off < 0x700000 then
    if off < 0x580000 then smpRegs else if off < 0x600000 then crdRegs else gldRegs
  else if off < 0x780000 then synRegs else if off < 0x800000 then fryRegs else if off < 0x1000000 then ctxRegs
  else spnRegs

/-- Whether `off` is an instance of a register that starts at `base` with index ranges `dims`. -/
def inDims : Nat → List (Nat × Nat) → Bool
  | d, [] => d == 0
  | d, (st, n) :: rest => let i := d / st; if i < n then inDims (d - i * st) rest else false

/-- Reset value of the registers whose reset value is not 0 (field tables); 0 for every other offset. -/
def rstVal (off : Nat) : BitVec 64 :=
  if off = 0x0 then 0xc9000000
  else if off = 0x10000 then 0x8000000
  else if off = 0x1002c then 0x3e8
  else if 0x20100 ≤ off && inDims (off - 0x20100) [(0x4, 7)] then 0x7
  else if off = 0x40000 then 0x1700
  else if off = 0x4001c then 0x32
  else if off = 0x40020 then 0x5a62
  else if off = 0x50004 then 0xfa
  else if off = 0x50008 then 0x7d0
  else if off = 0x50020 then 0x40
  else if off = 0x70000 then 0x1
  else if off = 0x70004 then 0x20000100
  else if off = 0x80010 then 0x30009c40
  else if off = 0x80014 then 0x3e8
  else if off = 0x80018 then 0x1f4
  else if 0x81000 ≤ off && inDims (off - 0x81000) [(0x8, 64)] then 0x3ff000000000000
  else if 0x82000 ≤ off && inDims (off - 0x82000) [(0x4, 304)] then 0x1ff0000
  else if off = 0x100004 then 0x3
  else if off = 0x100018 then 0x200010
  else if off = 0x300028 then 0xffffffffffffffff
  else if off = 0x600000 then 0x1
  else if off = 0x600004 then 0x3ff
  else if off = 0x600014 then 0x380032
  else if off = 0x600018 then 0x80401
  else if 0x602000 ≤ off && inDims (off - 0x602000) [(0x40, 7)] then 0x1c00000
  else if 0x602004 ≤ off && inDims (off - 0x602004) [(0x40, 7)] then 0x7
  else if 0x602010 ≤ off && inDims (off - 0x602010) [(0x40, 7)] then 0x3ff
  else if off = 0x700004 then 0x100
  else if off = 0x780004 then 0x40000000
  else if 0x781000 ≤ off && inDims (off - 0x781000) [(0x80, 64)] then 0x1003
  else if 0x801000 ≤ off && inDims (off - 0x801000) [(0x80, 64)] then 0x400
  else if 0x80100c ≤ off && inDims (off - 0x80100c) [(0x80, 64)] then 0x1ff0000
  else 0

end Sys2Proof.Machine
end

