-- ==== Sys2Proof/Machine/Store.lean ====
section
/-! DEFINITION. Machine/Store.lean: finite maps kept as lists of key and value in one canonical form: keys strictly
rising, and no entry equal to what an unlisted key reads as. -/

namespace Sys2Proof.Machine

variable {α : Type}

/-- The value at key `k`; `d` is what an unlisted key reads as. -/
def lookup (m : List (Nat × α)) (d : α) (k : Nat) : α :=
  match m with
  | [] => d
  | (j, v) :: rest => if j = k then v else lookup rest d k

/-- Removes key `k`. -/
def del (m : List (Nat × α)) (k : Nat) : List (Nat × α) :=
  match m with
  | [] => []
  | (j, v) :: rest => if j = k then del rest k else (j, v) :: del rest k

/-- Inserts key `k` in rising order, replacing an entry of the same key. -/
def ins (m : List (Nat × α)) (k : Nat) (v : α) : List (Nat × α) :=
  match m with
  | [] => [(k, v)]
  | (j, w) :: rest =>
    if k < j then (k, v) :: (j, w) :: rest
    else if k = j then (k, v) :: rest
    else (j, w) :: ins rest k v

/-- Writes `v` at key `k`; writing what an unlisted key reads as removes the entry. -/
def put [DecidableEq α] (m : List (Nat × α)) (d : α) (k : Nat) (v : α) : List (Nat × α) :=
  if v = d then del m k else ins m k v

/-- Keys strictly rising, all of them at or above `lo`, and no value equal to what its key reads as when unlisted. -/
def canonFrom [DecidableEq α] (d : Nat → α) : Nat → List (Nat × α) → Bool
  | _, [] => true
  | lo, (k, v) :: rest => decide (lo ≤ k) && decide (v ≠ d k) && canonFrom d (k + 1) rest

/-- The canonical form of a map whose unlisted key `k` reads as `d k`. -/
def canon [DecidableEq α] (d : Nat → α) (m : List (Nat × α)) : Bool := canonFrom d 0 m

/-- The canonical map that reads alike at every key; a map in canonical form is left as it is. -/
def tidyMap [DecidableEq α] (d : Nat → α) (m : List (Nat × α)) : List (Nat × α) :=
  if canon d m then m else m.foldr (fun e r => put r (d e.1) e.1 e.2) []

/-- The value at key `k`, or none. -/
def find? (m : List (Nat × α)) (k : Nat) : Option α :=
  match m with
  | [] => none
  | (j, v) :: rest => if j = k then some v else find? rest k

/-- Replaces the element at index `i` of a list. -/
def setAt (l : List α) (i : Nat) (v : α) : List α :=
  match l, i with
  | [], _ => []
  | _ :: rest, 0 => v :: rest
  | a :: rest, i + 1 => a :: setAt rest i v

/-- Adds `a` to a list without repeats. -/
def addOnce [DecidableEq α] (l : List α) (a : α) : List α := if a ∈ l then l else l ++ [a]

end Sys2Proof.Machine
end

