-- ==== Sys2Proof/Machine/State.lean ====
section
/-! DEFINITION. Machine/State.lean: the state of one C9 package as plain data, the reasons a step can stop, and the
state after reset. -/

namespace Sys2Proof.Machine

/-- Reasons a step stops with a fault. -/
inductive Fault where
  /-- Raised by REDUCE and ATOMIC: an arriving packet carries a SUBOP that R293 reserves, for which the manual gives no
  effect. Safe: the model stops where the manual is silent. -/
  | reservedSubop
  deriving DecidableEq, Repr

/-- Reasons a command has no meaning. -/
inductive Refusal where
  /-- Raised by an arm of `exec` whose command has no meaning yet. Safe: nothing is claimed of it. -/
  | notModelled (mnemonic : String)
  deriving DecidableEq, Repr

/-! ### The part -/

/-- What the fuses of one part hold (R2, R85, R390, R405 to R407, R470; values in log 4). -/
structure Fuse where
  /-- Ordering code: 0 F, 1 P, 2 S (R2). -/
  code : BitVec 2 := 0
  stepMajor : BitVec 4 := 0
  stepMinor : BitVec 4 := 0
  /-- Physical spindles fused off at test, as die × 152 + physical number (R85). -/
  spindlesOff : List Nat := []
  /-- The voltage and frequency table: one PWR_VF word per operating point, lowest first (R390). -/
  vf : List W32 := []
  /-- FLOOR_W (R470, R394). -/
  floorW : Nat := 0
  /-- Fused minimum SVN and advances left (R407). -/
  minSvn : W16 := 0
  advances : Nat := 64
  /-- The two private keys (R405). -/
  identityKey : BitVec 384 := 0
  sealKey : BitVec 384 := 0
  /-- SHA-384 digest of the identity public key (R405). -/
  identityDigest : BitVec 384 := 0
  /-- SHA-384 digests of Quenko's firmware key (slot 0, R410) and of its root CA public key (R405). -/
  fwKeyDigest : BitVec 384 := 0
  rootCaDigest : BitVec 384 := 0
  deriving DecidableEq, Repr

/-! ### Outputs (the model's own record of what leaves the package) -/

/-- MCTP events the manual names (R312, R379, R397, R465, and others). -/
inductive MctpEvent where
  | targetDead (ctx : Nat)
  | digestPeer (region : Nat)
  | railFail (group : Nat)
  | thermal (code : Nat)
  | other (code : Nat)
  deriving DecidableEq, Repr

/-- One thing that left the package. -/
inductive Sent where
  /-- An MSI-X message of a function's vector (R474). -/
  | msi (fn vec : Nat)
  /-- Bytes written to host memory on behalf of a function. -/
  | hostWrite (fn addr : Nat) (bytes : List Byte)
  /-- A request packet on the fabric (R293). -/
  | packet (p : Packet)
  /-- A packet of a causeway operation, carried in TC3 SEND packets through port 6 (R308). -/
  | carrier (p : Packet)
  /-- A response packet (R294). -/
  | resp (r : RespPacket)
  /-- The package's slip vote (R116, R352, R374). -/
  | vote (v : Vote)
  /-- An ID frame (R280). -/
  | id (port : Nat) (f : IdFrame)
  /-- A PORT_DOWN (up = false) or PORT_UP notice flooded in TC0 (R310): position and direction. -/
  | portNotice (pos port : Nat) (up : Bool)
  /-- A barrier message (R325) from a position, on its way to another one: arrive or release. -/
  | barrier (src dest : Nat) (release : Bool) (ctx bar : Nat) (gen : Bool) (mask : List Nat)
  /-- A BOOT_OFFER (request = false) or an image request on a strait (R433). -/
  | boot (port : Nat) (request : Bool) (digest : BitVec 384) (svn : W16)
  /-- An MCTP event. -/
  | mctp (e : MctpEvent)
  /-- An SPDM frame of a link session in TC0 CTRL: port, and whether this end is the requester (R419). -/
  | spdm (port : Nat) (requester : Bool)
  /-- The tag unit after a group of 63 link units, with the group's nonce (R420). -/
  | linkTag (port : Nat) (nonce : BitVec 96)
  /-- The start of KEY_UPDATE on a link (R420). -/
  | linkRekey (port : Nat)
  /-- SPDM in a SEND packet for a pair session with a remote node (R421). -/
  | pairSpdm (node : Nat)
  /-- An MCTP control answer over I3C: the package's static address, the command (R460). -/
  | i3cAnswer (addr cmd : Nat)
  /-- An answer of the SPDM responder: response code and payload bytes. -/
  | answer (code : Nat) (bytes : List Byte)
  /-- An IDLE codeword with ACK and NAK: port, sequence number, NAK bit (R277). -/
  | linkAck (port seq : Nat) (nak : Bool)
  /-- Codewords of the replay buffer sent again: port and SEQs (R277). -/
  | replay (port : Nat) (seqs : List Nat)
  /-- A digest sent to a buddy (R379): its node and context, the sender's context, the weave region, the digest, and whether it
  answers a digest that differed. -/
  | passDigest (node ctx srcCtx w : Nat) (d : BitVec 384) (answer : Bool)
  /-- A shard release over TC0 (R209): skein and generation. -/
  | shardRelease (skein : Nat) (gen : W16)
  /-- A prefill page forwarded to its shard over the straits in TC3 (R209): skein, generation, virtual page, bytes. -/
  | prefillPage (skein : Nat) (gen : W16) (page : Nat) (bytes : List Byte)
  /-- The answer to a buddy request (R371). -/
  | buddyAnswer (node : Nat) (tag : W16) (d : Option (BitVec 384))
  deriving DecidableEq, Repr

/-- One entry of an MSI-X table (R474). -/
structure MsixEntry where
  addr : W64 := 0
  data : W32 := 0
  masked : Bool := true
  pend : Bool := false
  deriving DecidableEq, Repr

/-! ### Supplies, pins and bring-up (chapters 17 and 18) -/

/-- The connectors' signals. -/
structure Pins where
  /-- 48 V above the lockout (R465). -/
  v48 : Bool := false
  /-- MAIN_EN as driven, and EN_SHORT closed (R462). -/
  mainEn : Bool := false
  enShort : Bool := true
  /-- PERST# asserted (R459). -/
  perst : Bool := false
  /-- Common reference clock selected at the deassertion of PERST# (R458). -/
  commonClock : Bool := false
  /-- PRSNT low (mated), per port (R457). -/
  mated : BitVec 7 := 0x7F
  /-- ADDR straps: the I3C static address is 0x30 + their value (R460). -/
  i3cStraps : BitVec 3 := 0
  /-- Outputs: PWRGD released high, THERMTRIP asserted, HAVEN low (R460, R461). -/
  pwrgd : Bool := false
  thermTrip : Bool := false
  havenLow : Bool := false
  deriving DecidableEq, Repr

/-- The rail groups, in the order in which they come up (R465). -/
inductive Rail where
  | harbour | atolls | shoal | serdes | spindles
  deriving DecidableEq, Repr

/-- Progress of a bring-up that no register holds. -/
structure Boot where
  /-- Main rails on: from the start of POWER (R428, R465). -/
  on : Bool := false
  /-- Rail groups in regulation, oldest first. -/
  rails : List Rail := []
  /-- A deassertion of MAIN_EN is needed before the next cold boot (R461, R465). -/
  needReassert : Bool := false
  /-- The firmware runs, with its SVN and digest (R407, R431). -/
  fwRuns : Bool := false
  /-- SELFTEST has run (R434). -/
  tested : Bool := false
  /-- Port on which the boot ROM has asked for the broadcast image (R433). -/
  asked : Option Nat := none
  fwDigest : BitVec 384 := 0
  /-- Step of a warm rejoin in progress, 1 to 5; 0: none (R444). -/
  rejoin : Nat := 0
  /-- The rejoin follows haven mode (R443, R444). -/
  fromHaven : Bool := false
  /-- Ports whose first successful training of this bring-up has happened (R436). -/
  trained : List Nat := []
  /-- Ports whose next training uses defaults (R436). -/
  useDefaults : List Nat := []
  /-- Retrain requests waiting: (0 port, 1 atoll), index (R440). -/
  retrainQ : List (Nat × Nat) := []
  /-- The atoll retrain in progress is the retry from default settings (R440). -/
  atollRetry : Bool := false
  /-- BOOT_OFFERs seen: port, digest, SVN (R433). -/
  offers : List (Nat × BitVec 384 × W16) := []
  /-- Functions whose host link is down (R448), as a mask. -/
  hostDown : W16 := 0
  /-- The tally has locked since the cold boot (R121, R479). -/
  everLocked : Bool := false
  deriving DecidableEq, Repr

/-! ### Security (chapter 16) -/

/-- The key store and sessions (R405 to R424). -/
structure Sec where
  /-- Public keys of slots 1 to 15, 97 bytes each (R410). -/
  slots : List (Nat × List Byte) := []
  /-- SEC_SLOT_SEQ (R411). -/
  slotSeq : W32 := 0
  modelKeys : List (Nat × BitVec 256) := []
  tenantKeys : List (Nat × BitVec 256) := []
  /-- Memory keys (R152, R406): unit 0 to 7 an atoll, whose base die holds it, 8 the shoal. -/
  memKeys : List (Nat × BitVec 256) := []
  /-- A SEC_CMD waiting for a weave load to end (R412). -/
  waiting : Option W32 := none
  /-- Host SPDM sessions in use, 0 to 3 (R409). -/
  sessions : List Nat := []
  /-- IDE streams that are secure: 0 link, 1 to 4 selective (R422). -/
  ide : List Nat := []
  /-- Remote nodes with a pair session (R421). -/
  pairs : List Nat := []
  /-- Measurements 3 and 4 as ATTEST recorded them (R408): SVNs; TOP_ID, TOP_VARIANT and SEC_CTRL. -/
  meas3 : List Byte := []
  meas4 : List Byte := []
  deriving DecidableEq, Repr

/-! ### Memory (chapter 04) -/

/-- Metadata of one staple (R128, R129): whether its stored CRC matches its payload, POISON, and whether its restore from
the home copy is in progress (R130). -/
structure Meta where
  crcBad : Bool := false
  poison : Bool := false
  restoring : Bool := false
  deriving DecidableEq, Repr

/-- Where the scrub of a memory unit stands (R150, R151): the part of the pass (0 the first pass after power-up, in address
order; 1 the WEIGHT regions; 2 the rest) and the package offset of the staple it reads next, from the unit's base. -/
structure ScrubPos where
  part : Nat := 0
  off : Nat := 0
  deriving DecidableEq, Repr

/-- A swap list in progress (R142 to R144): pairs left, first pair in progress. -/
structure Swap where
  active : Bool := false
  pairs : List (Nat × Nat) := []
  next : Nat := 0
  /-- A pair's checks passed and its copy started. -/
  copying : Bool := false
  deriving DecidableEq, Repr

/-- A digest pass over WEIGHT regions (R379). -/
structure DigestPass where
  active : Bool := false
  /-- Regions that the pass in progress covers from its start (R151). -/
  covered : List Nat := []
  /-- Per region: the first step of each context that started after the start of the last matching pass (R382). -/
  since : List (Nat × List (Nat × Nat)) := []
  /-- The same for the pass in progress. -/
  starts : List (Nat × Nat) := []
  deriving DecidableEq, Repr


/-! ### Weaves (chapter 03) -/

/-- A phase entry (R95, R104). -/
structure Phase where
  firstBeat : Nat
  beats : Nat
  config : Nat
  powerClass : Nat
  template : Nat
  reserve : Nat
  slotCyc : Nat
  deriving DecidableEq, Repr

/-- A step shape (R95, R104). -/
structure Shape where
  len : Nat
  maxRows : Nat
  maxPtok : Nat
  phases : List Phase
  deriving DecidableEq, Repr

/-- A barrier record: participant indices and node positions (R95, R315). -/
structure BarRec where
  parts : List Nat
  nodes : List Nat
  deriving DecidableEq, Repr

/-- A dispatch-list template: entries of sixteen words, and patch records (R97). -/
structure Template where
  entries : List (List W32)
  patches : List W64
  deriving DecidableEq, Repr

/-- A weave region declaration (R96). -/
structure WRegion where
  kind : Nat
  hint : Nat
  size : Nat
  deriving DecidableEq, Repr

/-- A weight placement entry (R136). -/
structure PlaceEntry where
  base : Nat
  ply1 : Option Nat
  ply2 : Option Nat
  scale : W32
  fmt : Nat
  wreg : Nat
  blocks : Nat
  deriving DecidableEq, Repr

/-- An adapter table entry (R62). -/
structure Adapter where
  rank : Nat
  wreg : Nat
  alpha : W32
  aLagoon : Nat
  bLagoon : Nat
  aOff : Nat
  bOff : Nat
  /-- Reserved bits that are not 0: byte 0x03 and bits 7:5 of byte 0x02. -/
  rsv : Nat := 0
  deriving DecidableEq, Repr

/-- A KV descriptor (R188). -/
structure KvDesc where
  fmt : Nat
  headDim : Nat
  heads : Nat
  cls : Nat
  layers : Nat
  atolls : List Nat
  window : Nat
  sink : Nat
  deriving DecidableEq, Repr

/-- A prefetch record (R138). -/
structure Prefetch where
  plies : Nat
  entry : Nat
  shape : Nat
  issue : Nat
  need : Nat
  channel : Nat
  first : Nat
  count : Nat
  spindle : Nat
  lagoon : Nat
  deriving DecidableEq, Repr

/-- A weave as the C9 parsed it at load (R91 to R98). -/
structure Weave where
  id : W64 := 0
  flags : W16 := 0
  seed : W64 := 0
  baseDigest : BitVec 384 := 0
  headNs : Nat := 0
  /-- Digest of header and section table (measurement 0x10 + c, R408). -/
  tableDigest : BitVec 384 := 0
  light : Nat := 0
  shapes : List Shape := []
  bars : List BarRec := []
  channels : Nat := 0
  templates : List Template := []
  wregs : List WRegion := []
  places : List PlaceEntry := []
  adapters : List Adapter := []
  kv : Option KvDesc := none
  maps : List Byte := []
  prefetch : List Prefetch := []
  /-- Threshold sets 1 to 15 (R42). -/
  thr : List W32 := []
  frac : Nat := 32
  masks : List Byte := []
  /-- The image has a MASK_TABLES section (R94, R243). -/
  maskSec : Bool := false
  /-- The spindle set (R351). -/
  set : List Nat := []
  deriving DecidableEq, Repr

/-! ### Skeins and KV (chapters 06 and 07) -/

/-- Skein states (R213). -/
inductive SkState where
  | free | admitted | prefill | decode | paused | cancelling | done | faulted
  deriving DecidableEq, Repr

/-- A completion record that is due (R216): status, cause, stop index. -/
structure Completion where
  status : Nat
  cause : Nat
  stopIndex : Nat := 0
  deriving DecidableEq, Repr

/-- One skein entry (R213), with what the harbour die keeps beside it. -/
structure Skein where
  state : SkState := .free
  tenant : Nat := 0
  prio : Nat := 0
  ctx : Nat := 0
  narrow : Bool := false
  ringPhase : Bool := false
  gen : W16 := 0
  profile : Nat := 0
  deadline : Nat := 0
  length : Nat := 0
  maxlen : Nat := 0
  stopSet : Nat := 0
  dir : Nat := 0
  shards1 : Nat := 0
  dirGen : W16 := 0
  mask : Nat := 0
  promptLen : Nat := 0
  narrowSteps : Nat := 0
  admitBeat : Nat := 0
  outTokens : Nat := 0
  ringAddr : Nat := 0
  ringHead : W16 := 0
  ringTail : W16 := 0
  ringOrder : Nat := 0
  fn : Nat := 0
  promptPos : Nat := 0
  seed : W64 := 0
  /-- Host address of the prompt buffer (R219). -/
  promptAddr : W64 := 0
  /-- REQ_ID of the prompt buffer (R417). -/
  reqId : List Byte := []
  /-- Prompt tokens staged and not yet consumed (R219). -/
  staged : List W32 := []
  /-- Profile, mask and area passed the checks of the first sampling (R239, R240). -/
  sampled : Bool := false
  /-- Completion record due and not yet written (R216). -/
  due : Option Completion := none
  /-- The completion record has been written or dropped (R216, R218). -/
  recorded : Bool := false
  /-- Fault cause code of R220 while FAULTED. -/
  cause : Nat := 0
  /-- The skein has left service (R215). -/
  left : Bool := false
  /-- Its completion record was dropped at the teardown of its context: it holds its index until RETIRE (R216). -/
  lost : Bool := false
  /-- Records written whose PHASE bits are not yet set (R221): host address and bytes. -/
  unset : List (Nat × List Byte) := []
  /-- BEAT of the last accepted cancel (R224). -/
  cancelled : Option Nat := none
  deriving DecidableEq, Repr

/-- Bobbin states (R198). -/
inductive BobState where
  | opened | fullWait | flushing
  deriving DecidableEq, Repr

/-- A bobbin slot (R191, R198), with the page frame that goes with it (R195, R196). -/
structure Bobbin where
  atoll : Nat
  frame : Nat
  page : Nat
  state : BobState := .opened
  basePage : Nat
  fill : Nat := 0
  spec : Nat := 0
  addGen : W16 := 0
  dropGen : W16 := 0
  dropped : Bool := false
  /-- A carry from the old bobbin has not landed (R200): old atoll, old frame, tokens. -/
  carry : Option (Nat × Nat × Nat) := none
  /-- The flush of this bobbin has completed (R201). -/
  flushed : Bool := false
  deriving DecidableEq, Repr

/-- A directory entry (R192). -/
structure PageEnt where
  atoll : Nat
  frame : Nat
  addGen : W16 := 0
  dropGen : W16 := 0
  dropped : Bool := false
  deriving DecidableEq, Repr

/-- A page directory (R190, R191). -/
structure Dir where
  gen : W16 := 0
  pend : Bool := false
  leaves : List Nat := []
  ctx : Nat := 0
  cls : Nat := 0
  start : Nat := 0
  atolls : List Nat := []
  shard : Nat := 0
  shards1 : Nat := 0
  firstPage : Nat := 0
  pages : Nat := 0
  length : Nat := 0
  maxlen : Nat := 0
  skein : Nat := 0
  skeinGen : W16 := 0
  home : Nat := 0
  bobbins : List Bobbin := []
  /-- Entries by local page. -/
  ents : List (Nat × PageEnt) := []
  /-- Frames of a shard's range reserved at creation and not landed, by local page (R209). -/
  reserved : List (Nat × (Nat × Nat)) := []
  /-- The directory was dropped and awaits release. -/
  dropped : Bool := false
  deriving DecidableEq, Repr

/-- A free list: first the ascending range from `next` to `limit`, then the released items in order (R185). -/
structure Pool where
  next : Nat := 0
  limit : Nat := 0
  back : List Nat := []
  deriving DecidableEq, Repr

/-- Something the KV unit allocates (R185, R195): a page or bobbin frame of context, atoll, class; a leaf; a head. -/
inductive KvItem where
  | page (ctx atoll cls frame : Nat)
  | bobbin (ctx atoll cls frame : Nat)
  | leaf (i : Nat)
  | head (i : Nat)
  deriving DecidableEq, Repr

/-- The KV unit (chapter 06). -/
structure Kv where
  heads : Pool := {}
  leaves : Pool := {}
  /-- Page pools and bobbin pools by atoll × 4 + class. -/
  pages : List (Nat × Pool) := []
  bobs : List (Nat × Pool) := []
  /-- Atolls for which the last build set POOL_SIZE (R184). -/
  bad : List Nat := []
  /-- Items dropped, with the epoch of R206, in the order dropped. -/
  held : List (Nat × KvItem) := []
  /-- Epochs registered by walks in progress (R206). -/
  walkers : List Nat := []
  /-- Directories by head granule. -/
  dirs : List (Nat × Dir) := []
  /-- A build is in progress (R185). -/
  building : Bool := false
  /-- KV_LEAVES, KV_CLASS and KV_POOL as the last build took them (R185), by register offset. -/
  cfg : List (Nat × W64) := []
  deriving DecidableEq, Repr

/-- What an engine holds while its atoll's interface retrains (R180): bytes of its output area or of a gradient, or the end
of its entry. -/
inductive HeldOut where
  | bytes (addr : Nat) (bs : List Byte)
  | fin (e : EntryRef)
  deriving DecidableEq, Repr

/-- One held item: atoll, context. -/
structure ReefHeld where
  atoll : Nat
  ctx : Nat
  out : HeldOut
  deriving DecidableEq, Repr

/-- A stop set (R222): sixteen stop tokens, eight sequences. -/
structure StopSet where
  tokens : List W32 := []
  seqs : List (List W32) := []
  /-- The image as it was loaded, written to both copies when it takes effect. -/
  image : List W32 := []
  deriving DecidableEq, Repr

/-! ### Barriers, ferry, fabric (chapters 10 to 12) -/

/-- Who waits at a barrier for its participant (R317): a thread of the spindle, a SYNC entry of its list, or the
participant itself. -/
inductive Waiter where
  | self
  | thread (t : Nat)
  | entry (e : EntryRef)
  deriving DecidableEq, Repr

/-- A barrier unit held by a context (R315 to R325). -/
structure BarUnit where
  ctx : Nat
  index : Nat
  parts : List Nat
  nodes : List Nat := []
  /-- Rounds released since the allocation or the last reset; GEN is its lowest bit. -/
  round : Nat := 0
  cur : List Nat := []
  early : List Nat := []
  /-- Round of the latest arrival of each agent of a participant, by participant × 16 + agent: 1 + t for thread t, 0 for
  the participant's dispatch list, pilot or channel (R317). -/
  last : List (Nat × Nat) := []
  /-- Waits: participant, the round waited for, and who waits. -/
  waiters : List (Nat × Nat × Waiter) := []
  /-- Local round complete, awaiting RELEASE (R324). -/
  remote : Bool := false
  /-- At the root: positions arrived, per generation parity. -/
  nodes0 : List Nat := []
  nodes1 : List Nat := []
  deriving DecidableEq, Repr

/-- States of a ferry channel (R337). -/
inductive ChState where
  | idle | armed | running | halted | aborted
  deriving DecidableEq, Repr

/-- Who placed a transfer in a channel. -/
inductive ChSrc where
  | driver
  | entry (e : EntryRef)
  | prefetch (rec : Nat)
  deriving DecidableEq, Repr

/-- A transfer descriptor: words 1 to 15 of R334, or a prefetch record's transfer; with the reference points of R338. -/
structure FryDesc where
  words : List W32
  src : ChSrc
  /-- Completions of the chained channel, or the round of the barrier, when the descriptor entered the shadow. -/
  mark : Nat := 0
  /-- Step number at which a FERRY entry placed it (R343). -/
  step : Nat := 0
  deriving DecidableEq, Repr

/-- A ferry channel (R333, R337). -/
structure Channel where
  state : ChState := .idle
  /-- Owning context and context-relative index (R333). -/
  owner : Option (Nat × Nat) := none
  active : Option FryDesc := none
  shadow : Option FryDesc := none
  /-- The running transfer: the next piece to issue of a REMOTE one, or the first run of another that is not in place; and
  pieces to issue again (R340, R342). -/
  next : Nat := 0
  redo : List Nat := []
  /-- The access that got error responses (R342): its run and the retries made. -/
  tries : Option (Nat × Nat) := none
  /-- Shadow words as the driver wrote them, w = 1 to 15. -/
  words : List (Nat × W32) := []
  deriving DecidableEq, Repr

/-- What an operation's completion wakes or ends. -/
inductive OpOwner where
  | thread (spindle thread : Nat)
  | ferry (channel piece : Nat)
  | unit
  /-- The integrity unit's request to a buddy (R371), and an operation whose response is discarded (R374). -/
  | buddy
  | dropped
  deriving DecidableEq, Repr

/-- An operation outstanding at its source (R295 to R311). -/
structure FabOp where
  hdr : ReqHeader
  payload : List Byte
  owner : OpOwner
  ctx : Nat
  /-- Retransmissions per packet offset (R309). -/
  retries : List (Nat × Nat) := []
  /-- Bytes of DATA received, by packet offset; ACKs received: node and packet offset. -/
  got : List (Nat × List Byte) := []
  acks : List (Nat × Nat) := []
  worst : Nat := 0
  value : W64 := 0
  /-- The issuing thread waits for the completion (R68). -/
  wait : Bool := false
  /-- A causeway transfer (R308); `sent` is false while it waits for leave. -/
  way : Bool := false
  sent : Bool := true
  deriving DecidableEq, Repr

/-- An operation that has begun to land (R291); one with a signal takes a landing counter (R297). -/
structure Landing where
  src : Nat
  tag : Nat
  window : Nat
  counter : Bool := false
  /-- Packets that have landed: payload offset and length. -/
  pieces : List (Nat × Nat) := []
  deriving DecidableEq, Repr

/-- An open entry of a router's combining table (R300, R301). -/
structure Combine where
  hdr : ReqHeader
  closed : Bool := false
  /-- The packet has been forwarded; a FETCH_ADD that the router still holds gathers addends. -/
  sent : Bool := true
  /-- Attached operations: source node, tag, addend. -/
  attached : List (Nat × Nat × W64) := []
  deriving DecidableEq, Repr

/-- A tag of the duplicate history (R309): source node, tag, recorded value. -/
structure DoneTag where
  src : Nat
  tag : Nat
  value : W64
  deriving DecidableEq, Repr

/-- A packet or control frame that waits at a port for codewords (R276, R286): what it carries, its virtual channel as
TC × 4 + dateline × 2 + order set, and its 64-byte link units. -/
structure Queued where
  msg : Sent
  vc : Nat
  units : Nat
  deriving DecidableEq, Repr

/-- A sequenced codeword in the replay buffer (R277): SEQ, the packet or frame it carries link units of, and whether it
carries the last of them. -/
structure Codeword where
  seq : Nat
  vc : Nat
  msg : Sent
  final : Bool
  deriving DecidableEq, Repr

/-- Link-layer state of a port (R276 to R282). -/
structure Port where
  /-- SEQ expected next from the peer, and the discard state after a bad codeword. -/
  rxNext : Nat := 0
  discarding : Bool := false
  /-- Codewords sent and not acknowledged, oldest first; next SEQ to send. -/
  replay : List Codeword := []
  txNext : Nat := 0
  /-- Packets and frames that wait for room in the replay buffer, in order of arrival. -/
  queue : List Queued := []
  /-- Weighted round robin (R287): packets that TC1, TC2 and TC3 may still send in this round. -/
  turns : List (Nat × Nat) := []
  /-- Consecutive failures of the codeword at the head of the replay buffer, and of the codeword expected. -/
  fails : Nat := 0
  rxFails : Nat := 0
  /-- The peer's last ID frame. -/
  peer : Option IdFrame := none
  /-- IDENTITY with which the link session was opened (R419). -/
  sessionPeer : Option W64 := none
  /-- Link units sent in the open group of 63, and the counter of that group (R420). -/
  txFill : Nat := 0
  txGroup : Nat := 0
  /-- A strait trained in FW_FETCH, whose link layer runs without role or session up to LINK_TRAIN (R433). -/
  linked : Bool := false
  /-- A retrain is in progress on an UP port (R440). -/
  retraining : Bool := false
  deriving DecidableEq, Repr

/-- The fabric unit (chapter 10). -/
structure Gld where
  ports : List (Nat × Port) := []
  ops : List (Nat × FabOp) := []
  nextTag : Nat := 0
  landings : List Landing := []
  combine : List Combine := []
  history : List DoneTag := []
  /-- Links known DOWN in the domain: position and direction, by role code (R281, R310). -/
  downLinks : List (Nat × Nat) := []
  /-- Window keys (R289), by window. -/
  keys : List (Nat × W32) := []
  /-- Windows that drain before VALID reads 0 (R291). -/
  draining : List Nat := []
  /-- Slots returned by RECV and not yet freed, by context (R307). -/
  recvHeld : List (Nat × Nat) := []
  /-- Threads that wait because 4,096 operations are outstanding (R295): spindle × 8 + thread. -/
  stalled : List Nat := []
  /-- Operations of units that wait because 4,096 operations are outstanding (R295), oldest first. -/
  waiting : List FabricOp := []
  /-- Headers, without PKT_OFF and RETX, of the operation last refused from each source node and tag (R290). -/
  rejects : List ReqHeader := []
  /-- Microseconds since the trained ports last sent their periodic ID frames (R280). -/
  idUs : Nat := 0
  /-- Causeway transfers whose leave was refused (R396). -/
  refused : List Nat := []
  /-- Bytes of a SEND landed so far, keyed by context × 2^26 + source × 2^16 + tag: ring slot taken. -/
  sends : List (Nat × Nat) := []
  deriving DecidableEq, Repr

/-! ### Spindles (chapters 02 and 14) -/

/-- Wait states of a thread (R68). -/
inductive ThrState where
  | idle | ready | waitMem | waitRemote | waitSync
  deriving DecidableEq, Repr

/-- A hardware thread (R67, R68): 64 general registers, program counter, state. -/
structure Thread where
  state : ThrState := .idle
  regs : List (Nat × W64) := []
  pc : W64 := 0
  /-- The VECTOR entry whose program it runs. -/
  entry : Option EntryRef := none
  ctx : Nat := 0
  /-- Operations issued and not completed (R298). -/
  ops : List Nat := []
  /-- Waiting for a FENCE (R298), for a package fence (R114), or for a RECV (R307). -/
  fence : Bool := false
  /-- A FENCE stands before its next operation, which carries FENCED (R298). -/
  fenced : Bool := false
  pkgFence : Bool := false
  recv : Bool := false
  /-- Data of the last completion delivered to the thread. -/
  result : List Byte := []
  /-- Watch slot (R327): address, condition, operand. -/
  watch : Option (Nat × WatchCond × W64) := none
  /-- An arrival that waits for the thread's operations (R318): context, barrier, participant, and whether a wait follows. -/
  arriving : Option (Nat × Nat × Nat × Bool) := none
  /-- The access to memory it waits for, where it was reported, and the epoch a read of KV registered (R68, R206). -/
  access : Option Access := none
  walk : Option Nat := none
  deriving DecidableEq, Repr

/-- A staple of weights that a prefetch landed in a lagoon (R139): context, package address of the staple it copies, staple
index in the lagoon. -/
structure Staged where
  ctx : Nat
  src : Nat
  lag : Nat
  deriving DecidableEq, Repr

/-- An operand buffer (R57): the tile that filled it, the format code of its content, and its blocks, each as scale byte
and element codes; an unscaled block has the scale 1. -/
structure OpBuf where
  entry : EntryRef
  fmt : Nat
  blocks : List (Nat × List Nat)
  deriving DecidableEq, Repr

/-- Thread state, retain windows, output locks and staged weights of a spilled context (R349): the state block of its
slot. -/
structure Saved where
  ctx : Nat
  stage : List Staged := []
  threads : List (Nat × Thread) := []
  windows : List (EntryRef × Nat × Nat) := []
  locks : List (EntryRef × Nat × Nat) := []
  deriving DecidableEq, Repr

/-- A logical spindle's own state. -/
structure Spn where
  threads : List (Nat × Thread) := []
  /-- Open retain windows: entry, first and last lagoon byte of the source (R73). -/
  windows : List (EntryRef × Nat × Nat) := []
  /-- Output ranges locked against reads (R368): entry, first lagoon byte, length. -/
  locks : List (EntryRef × Nat × Nat) := []
  /-- Fence cause pending for the next edge (R373). -/
  fence : Option Nat := none
  /-- State blocks of contexts spilled from the spindle (R356). -/
  saved : List Saved := []
  /-- Weights that prefetches landed in the lagoon and nothing has written over (R139). -/
  stage : List Staged := []
  /-- The two activation operand buffers, the two weight operand buffers and the accumulator store (R57), the newer buffer
  last. -/
  actBufs : List OpBuf := []
  wgtBufs : List OpBuf := []
  accum : List W32 := []
  deriving DecidableEq, Repr

/-! ### Steps and contexts (chapters 03 and 13) -/

/-- Progress of a dispatch-list entry. -/
inductive DispSt where
  /-- Not started; quantised and waiting for its turn of the verdict; repeating; final verdict taken, result
  committing; suspect; complete. -/
  | waiting | quantised | repeating | committing | suspect | done
  deriving DecidableEq, Repr

/-- A suspect (R367 to R371). -/
structure Suspect where
  /-- A gauge check flagged it, a staple fed it, a lagoon error fed it, a reef record fed it. -/
  gauge : Bool := false
  staple : Bool := false
  lagoon : Bool := false
  reef : Bool := false
  /-- Physical spindle that produced the result, and the witness. -/
  producer : Nat := 0
  witness : Option Nat := none
  /-- Result of a local replay that ran and was not accepted. -/
  local_ : Option (List W32) := none
  /-- A buddy request is outstanding. -/
  buddy : Bool := false
  deriving DecidableEq, Repr

/-- A dispatch-list entry of the step in progress. -/
structure Disp where
  words : List W32
  st : DispSt := .waiting
  /-- K_BLOCKS was patched to 0 (R109). -/
  kZero : Bool := false
  /-- Patch records applied, as indices into the template's records. -/
  patched : List Nat := []
  /-- Current format code and widenings (R46). -/
  fmt : Nat := 0
  widen : Nat := 0
  flaggedFirst : Bool := false
  gauge : Gauge := {}
  /-- Rows poisoned, by row of the tile. -/
  poisoned : List Nat := []
  /-- FP32 result rows (R58), before output conversion, concatenated. -/
  result : List W32 := []
  /-- The merges that a VECTOR entry's program computed (R170). -/
  merges : List MergeOp := []
  susp : Option Suspect := none
  /-- Atolls whose engine has finished a REEF entry; the epoch each registered (R206). -/
  reefDone : List Nat := []
  epochs : List (Nat × Nat) := []
  /-- Rows an atoll's engine has processed, and engines that have written a poisoned record (R161). -/
  reefRows : List (Nat × Nat) := []
  reefPoison : List Nat := []
  /-- Progress of the entry: the adapter pass has run; a CARD entry's exchanges. -/
  count : Nat := 0
  deriving DecidableEq, Repr

/-- A skein's part of a batch (R225, R202). -/
structure BatchSk where
  skein : Nat
  prefill : Bool
  /-- First batch row and number of rows. -/
  row : Nat
  rows : Nat
  drafts : Nat := 0
  /-- Frames reserved for prefill pages: local page, atoll, frame; and the bobbin for the remaining tokens. -/
  frames : List (Nat × Nat × Nat) := []
  bobbin : Option (Nat × Nat × Nat) := none
  /-- Sequence length when the batch was formed. -/
  base : Nat := 0
  /-- Prompt tokens of the slice, or draft tokens. -/
  tokens : List W32 := []
  deriving DecidableEq, Repr

/-- What the sampling unit determined for one batch row (chapter 08). -/
structure RowSample where
  token : W32 := 0
  /-- Input token of the row (R231). -/
  input : W32 := 0
  /-- The row's token would be released: every earlier draft is accepted (R241). -/
  live : Bool := false
  /-- Poisoned or non-finite (R238). -/
  bad : Bool := false
  /-- Automaton state after the token (R242). -/
  mask : Nat := 0
  /-- Fault cause of R220 found at the row (mask empty, configuration). -/
  fault : Nat := 0
  deriving DecidableEq, Repr

/-- A step in progress (R104 to R110). -/
structure Step where
  shape : Nat := 0
  /-- Schedule beat. -/
  beat : Nat := 0
  /-- Tally BEAT of the edge at which the step began. -/
  began : Nat := 0
  batch : List BatchSk := []
  rows : Nat := 0
  /-- Dispatch lists by phase. -/
  lists : List (Nat × List Disp) := []
  budget : Nat := 0
  spent : Nat := 0
  /-- Reserve spent, by phase × 512 + spindle (R107). -/
  reserve : List (Nat × Nat) := []
  /-- Skeins whose NARROW_OVERRUN the step sets, and layers it pins (R47). -/
  narrow : List Nat := []
  newPins : List Nat := []
  /-- GAU counts that the commit adds: flagged, widened, overrun, limit, null, poison (R53). -/
  gau : List Nat := [0, 0, 0, 0, 0, 0]
  /-- Batch rows that hold NaN or poison, and whether the cause is a KV or directory staple (R378, step 3b). -/
  badRows : List (Nat × Bool) := []
  /-- Batch rows with a record poisoned by a KV or directory staple (R178). -/
  kvPoison : List Nat := []
  /-- Prefetch records issued. -/
  issued : List Nat := []
  samples : List (Nat × RowSample) := []
  deriving DecidableEq, Repr

/-- A context (R347). -/
structure Ctx where
  weave : Weave := {}
  /-- Bindings that passed, weave region to region (R133), and spill regions (R348). -/
  bound : List (Nat × Nat) := []
  spills : List Nat := []
  /-- Spindles resident, spilled; moves not complete: (spindle, context to spill), spindles to restore. -/
  resident : List Nat := []
  spilled : List Nat := []
  spillWait : List (Nat × Nat) := []
  restoreWait : List Nat := []
  /-- Contexts whose spill of this one PREEMPTS has counted (R356), and the channels of its context block. -/
  spillers : List Nat := []
  chanBlock : List (Nat × Channel) := []
  /-- Ran at the last edge; beats run since the grant began; BEAT of the last edge at which it ran (R353). -/
  ran : Bool := false
  quantum : Nat := 0
  last : Nat := 0
  /-- Combined HOLD bit at the last edge's grant (R353). -/
  granted : Bool := false
  /-- Own HOLD of this package. -/
  hold : Bool := false
  /-- Priming transfers not landed: records to go; none when no priming runs (R141). -/
  priming : Option (List Nat) := none
  /-- The priming belongs to a step replay (R374). -/
  replaying : Bool := false
  step : Option Step := none
  /-- The batch formed for the next step (R378, step 7), and the BEAT of the step boundary that formed it. -/
  next : List BatchSk := []
  formed : Option Nat := none
  /-- Interconnect configurations in the active and the shadow store (R103). -/
  config : Option Nat := none
  shadow : Option Nat := none
  slipRun : Nat := 0
  /-- Atolls whose retrain the writes of its last commit wait for (R378). -/
  commitWait : List Nat := []
  /-- Pinned layers with the step number after which the pin expires (R47). -/
  pins : List (Nat × Nat) := []
  /-- FB_EN and GAU_THR_DEFAULT as of the last step boundary (R43, R51). -/
  fbEn : Bool := true
  thr0 : W32 := 0x20000100
  /-- Expert maps and automata copied at the first grant (R243, R250). -/
  maps : List Byte := []
  masks : List Byte := []
  /-- Words that profiles held before commits that take effect at the next step boundary (R233). -/
  oldProfiles : List (Nat × List W32) := []
  /-- Step starts since the load: step number and BEAT (R382). -/
  starts : List (Nat × Nat) := []
  /-- STEP records of the taint log: step number and record number since power-up (R381). -/
  logged : List (Nat × Nat) := []
  deriving DecidableEq, Repr

/-- A sounding that runs or waits (R372, R373, R376): what is sounded, the fence cause (8: no logical number was served),
the logical number served, and whether the spindle has left service. -/
structure Sound where
  /-- 0 spindle, 1 REEF, 2 sampling unit, 3 carding unit. -/
  kind : Nat
  unit : Nat
  cause : Nat
  logical : Option Nat := none
  ready : Bool := true
  /-- The steps that a failure taints, as they stood at the fence edge: context, first and last step (R382). -/
  taint : List (Nat × Nat × Nat) := []
  deriving DecidableEq, Repr

/-- A weave load in progress (R100, R101, R412): whether it found its target context in use, whether it waits for a
SEC command to end, and the address, length and context that its START took (log 98). -/
structure Load where
  active : Bool := false
  inUse : Bool := false
  waiting : Bool := false
  addr : Nat := 0
  len : Nat := 0
  ctx : Nat := 0
  deriving DecidableEq, Repr

/-! ### Power (chapter 15) -/

/-- What asks for leave (R385). A phase is named by context and shape × 256 + phase. -/
inductive LeaveKind where
  | phase (ctx p : Nat)
  | causeway (tag : Nat)
  | swap
  | scrub
  deriving DecidableEq, Repr

/-- A leave held or requested; powers in mW. -/
structure Leave where
  kind : LeaveKind
  peak : Nat
  charge : Nat := 0
  /-- Time waited, in µs, and whether it was counted (R389). -/
  waited : Nat := 0
  counted : Bool := false
  paused : Bool := false
  /-- Power over the last 1 ms, and the highest of the execution with the point at which it was measured, in mW. -/
  avg : Nat := 0
  high : Nat := 0
  highPoint : Nat := 0
  deriving DecidableEq, Repr

/-- The power governor (R385 to R402). -/
structure Pwr where
  held : List Leave := []
  queue : List Leave := []
  /-- Refused tensor phases, which are requested again when CAP_EFF recovers (R396). -/
  refused : List Leave := []
  /-- Per context × 2^12 + shape × 256 + phase: the last 16 executions, newest first: mW and point (R387). -/
  hist : List (Nat × List (Nat × Nat)) := []
  /-- Package power over the last 1 ms, in mW, once it exists (R386). -/
  avg : Option Nat := none
  /-- Time for which a higher target has held, in µs (R391). -/
  higherUs : Nat := 0
  /-- Highest point the thermal rules allow, and µs since its last change (R397). -/
  allowed : Nat := 23
  thermUs : Nat := 0
  throttling : Bool := false
  /-- A base die keeps the allowed point falling. -/
  throttlingBase : Bool := false
  /-- The bubble levels of R392, and what is left of the droop hold, in µs (R393). -/
  capB : Nat := 0
  droopB : Nat := 0
  droopHold : Nat := 0
  droopDies : List Bool := []
  thermB : Nat := 0
  /-- PWR_GUARD.WATTS as the last sample took it (R404). -/
  guardW : Nat := 50
  /-- PWR_THERM_CFG as the last sample took it (R404). -/
  throttleC : Nat := 98
  atollC : Nat := 90
  /-- A PWR_CTRL.CNT_CLR of haven mode, which takes effect after exit (R404). -/
  clrDue : Bool := false
  /-- Energy of each class since the last beat edge, in µJ (R401). -/
  classUj : List (EnergyClass × Nat) := []
  /-- What PWR_ENERGY, each context's figure and that of no context (64) hold below one mJ, in µJ. -/
  restUj : Nat := 0
  ctxUj : List (Nat × Nat) := []
  /-- Target latched by a step in progress. -/
  stepTo : Nat := 0
  /-- Junctions of the last thermal sample, in 1/16 °C (R400). -/
  hottest : Int := 0
  /-- The atolls refresh at the doubled rate (R149, R397). -/
  doubleRefresh : Bool := false
  deriving DecidableEq, Repr

/-- The state of one C9 package. -/
structure State where
  /-- Fuses (log 4). -/
  fuse : Fuse := {}
  pins : Pins := {}
  boot : Boot := {}
  /-- BAR0 registers by offset; an unlisted register holds its reset value. -/
  regs : List (Nat × W64) := []
  /-- Offsets of the ERR_INFO and ERR_ADDR registers that hold a capture (R89 and alike). -/
  caps : List Nat := []
  /-- High words latched by low-word reads, by register offset (R10, R124). -/
  latches : List (Nat × W32) := []
  /-- Low-word writes held for the high word, by register offset (R10). -/
  heldLow : List (Nat × W32) := []
  /-- Data returned by the last register read (the model's own). -/
  rdata : W64 := 0
  /-- MSI-X tables: function × 2 + vector (R474). -/
  msix : List (Nat × MsixEntry) := []
  /-- What has left the package, oldest first (the model's own). -/
  sent : List Sent := []
  /-- Counter of free values drawn (the model's own, log 1). -/
  free : Nat := 0
  sec : Sec := {}
  /-- Package memory by package address (R126). -/
  mem : List Host.Cell := []
  /-- Staple metadata by package address / 4096 (R128). -/
  staples : List (Nat × Meta) := []
  /-- Lagoon words (package address / 8) that read uncorrectable (R71). -/
  lagoonBad : List Nat := []
  /-- Scrub positions by memory unit: atolls 0 to 7, then shoal modules (R150, R151). -/
  scrubPos : List (Nat × ScrubPos) := []
  /-- Established digests of SEALED regions (R134). -/
  digests : List (Nat × BitVec 384) := []
  swap : Swap := {}
  digestPass : DigestPass := {}
  /-- BAR0 offset of the register access in progress (the model's own). -/
  acc : Nat := 0
  /-- The skein table (R212). -/
  skeins : List (Nat × Skein) := []
  /-- Tenant balances in units of 1/256 token (R226). -/
  hank : List (Nat × Int) := []
  /-- Stop sets loaded, by context × 256 + set (R218, R222), and those that wait for the next step boundary. -/
  stops : List (Nat × StopSet) := []
  stopsNext : List (Nat × StopSet) := []
  /-- Skeins whose records of this edge set PHASE bits, by function (R474). -/
  ringFns : W16 := 0
  kv : Kv := {}
  /-- Output that the reef engines hold, oldest first (R180). -/
  reefHeld : List ReefHeld := []
  /-- Barrier units held by contexts, by unit (R315). -/
  bars : List (Nat × BarUnit) := []
  /-- Ferry channels, by physical channel (R333). -/
  chans : List (Nat × Channel) := []
  /-- Access keys of FRY_KEY, 64 the driver's (R345). -/
  fryKeys : List (Nat × W32) := []
  /-- The channel that the read engine served last at each priority (R339). -/
  fryTurn : List (Nat × Nat) := []
  gld : Gld := {}
  /-- Logical spindles (R67, R73). -/
  spns : List (Nat × Spn) := []
  /-- Contexts by number; the state of each is in CTX_STATE (R347). -/
  ctxs : List (Nat × Ctx) := []
  load : Load := {}
  /-- Overrun reports and spindle causes of the edge whose vote is outstanding (R116). -/
  edge : List Overrun := []
  /-- An edge's combined vote has not been delivered (R118). -/
  voteDue : Bool := false
  /-- WANT and HOLD masks are registers; REPLAY bits this package asks for (R374). -/
  replayAsk : W64 := 0
  /-- Root that the last tally frame named (R121): a tally source is reachable while that package is. -/
  tallyRoot : Option Nat := none
  /-- Consecutive offset measurements within ±4 ns (R122). -/
  goodOffsets : Nat := 0
  /-- The logical number of the last write of INT_FENCE.GO, until it is remapped (R383). -/
  fenceGo : Option Nat := none
  /-- Contexts torn down: number, spindle set, and the starts of their steps (R382). -/
  gone : List (Nat × List Nat × List (Nat × Nat)) := []
  /-- The taint record of the first step of an open event, by event (R382). -/
  taintAt : List (Nat × Nat) := []
  /-- Beats at which unexpired strikes were given, by physical spindle, oldest first (R372). -/
  strikes : List (Nat × List Nat) := []
  /-- Soundings, the one that runs first (R376). -/
  sounds : List Sound := []
  /-- Accepted sampler profiles 1 to 4,095 (R233), and the commit being checked. -/
  profiles : List (Nat × List W32) := []
  profCommit : Option (Nat × List W32) := none
  /-- Host writes held while a function's link is down (R448): function, skein, address, bytes. -/
  hostHeld : List (Nat × Nat × Nat × List Byte) := []
  /-- Skeins whose record writes to host memory fail at the commits of the edge in progress (R227). -/
  lostRings : List Nat := []
  pwr : Pwr := {}
  /-- Wear counters of the cairn bank, by block offset of the register, or 0x7000 + 4s for key store index s (R449). -/
  wear : List (Nat × Nat) := []
  /-- Commands waiting, first in, first out (the model's own). -/
  pending : List Instr := []
  deriving DecidableEq, Repr

/-- Operating point `v` as a PWR_VF word (log 4): 800 MHz and 600 mV at point 0, 2,100 MHz and 830 mV at point 23, with
PCOEF proportional to frequency and square of voltage. -/
def fusedPoint (v : Nat) : W32 :=
  let f := 800 + 1300 * v / 23
  let u := 600 + 10 * v
  BitVec.ofNat 32 (f * 2 ^ 20 + u * 512 + 255 * f * (u * u) / (2100 * (830 * 830)))

/-- The fuses of the part this model resets to: an F part (log 4). -/
def fusedPart : Fuse := { vf := (List.range 24).map fusedPoint, floorW := 1240 }

/-- The machine right after reset: a package without supplies, every register at its reset value, nothing in memory,
no command waiting (log 20). -/
def State.reset : State := { fuse := fusedPart }

end Sys2Proof.Machine
end

