-- ==== Sys2Proof/Machine/Ops.lean ====
section
/-! DEFINITION. Machine/Ops.lean: the named operations over registers, counters and memory that every meaning uses. -/

namespace Sys2Proof.Machine

/-! ### Registers (R8, R12) -/

/-- The stored value of the register at BAR0 offset `off`. -/
def rd (off : Nat) (s : State) : W64 := lookup s.regs (rstVal off) off

/-- Stores a register's value. -/
def wr (off : Nat) (v : W64) (s : State) : State := { s with regs := put s.regs (rstVal off) off v }

/-- The bits of a field in a register value. -/
def fldOf (f : FRef) (v : W64) : Nat := (v.toNat >>> f.lo) % 2 ^ (f.hi + 1 - f.lo)

/-- A register value with a field replaced. -/
def setFldOf (f : FRef) (x : Nat) (v : W64) : W64 :=
  let m : Nat := (2 ^ (f.hi + 1 - f.lo) - 1) <<< f.lo
  (v &&& ~~~(BitVec.ofNat 64 m)) ||| BitVec.ofNat 64 ((x % 2 ^ (f.hi + 1 - f.lo)) <<< f.lo)

def fld (f : FRef) (s : State) : Nat := fldOf f (rd f.off s)
def setFld (f : FRef) (x : Nat) (s : State) : State := wr f.off (setFldOf f x (rd f.off s)) s
/-- Whether a one-bit field reads 1. -/
def bit (f : FRef) (s : State) : Bool := fld f s != 0

/-- Writes several fields in order. -/
def setFlds (l : List (FRef × Nat)) (s : State) : State := l.foldl (fun s p => setFld p.1 p.2 s) s

/-- Adds to a 64-bit counter, which holds at 2^64 − 1 (R53). -/
def bump64 (off n : Nat) (s : State) : State :=
  wr off (BitVec.ofNat 64 (min ((rd off s).toNat + n) (2 ^ 64 - 1))) s

/-- Adds to a 32-bit counter, which holds at 2^32 − 1. -/
def bump32 (off n : Nat) (s : State) : State :=
  wr off (BitVec.ofNat 64 (min ((rd off s).toNat + n) (2 ^ 32 - 1))) s

/-- Adds to a counting field, which holds at its maximum. -/
def bumpFld (f : FRef) (n : Nat) (s : State) : State :=
  setFld f (min (fld f s + n) (2 ^ (f.hi + 1 - f.lo) - 1)) s

/-- Adds to a counting field that wraps. -/
def wrapFld (f : FRef) (n : Nat) (s : State) : State := setFld f (fld f s + n) s

/-- Removes every stored register whose offset satisfies `p`, so that it reads its reset value. -/
def resetRegs (p : Nat → Bool) (s : State) : State := { s with regs := s.regs.filter fun e => !p e.1 }

/-- Puts the registers at the listed offsets to 0. -/
def zeroRegs (l : List Nat) (s : State) : State := l.foldl (fun s o => wr o 0 s) s

/-- A fresh free value (log 1). -/
def freeVal (s : State) : W64 × State := (Config.freeValue s.free, { s with free := s.free + 1 })

/-- Records an output. -/
def send (x : Sent) (s : State) : State := { s with sent := s.sent ++ [x] }

/-- IDENTITY: the low 64 bits of the digest of the identity public key (R405). -/
def Fuse.identity (f : Fuse) : W64 := f.identityDigest.setWidth 64

/-! ### Facts of the part (R2, R14) -/

def isS (s : State) : Bool := s.fuse.code == 2
/-- Enabled logical spindles. -/
def numSpindles (s : State) : Nat := if isS s then 240 else 288
/-- Whether atoll `a` is present. -/
def atollHere (s : State) (a : Nat) : Bool := a < 8 && !(isS s && (a == 3 || a == 7))
/-- Whether port `p` exists: straits 0 to 5 and the offing 6. -/
def portHere (s : State) (p : Nat) : Bool := p < 7 && !(isS s && p ≥ 4)
/-- The spindle die of a logical spindle (R6). -/
def dieOf (s : State) (n : Nat) : Nat := if n < numSpindles s / 2 then 0 else 1

/-! ### Memory (R126, R128) -/

/-- What a byte of package memory that nothing has written reads as (log 6). -/
def memDefault : Byte := 0

def rdByte (a : Nat) (s : State) : Byte := lookup s.mem memDefault a
def wrByte (a : Nat) (b : Byte) (s : State) : State := { s with mem := put s.mem memDefault a b }

/-- The `n` bytes from package address `a`. -/
def rdBytes (a n : Nat) (s : State) : List Byte := (List.range n).map fun i => rdByte (a + i) s

/-- Stores bytes from package address `a` on. -/
def wrBytes (a : Nat) : List Byte → State → State
  | [], s => s
  | b :: rest, s => wrBytes (a + 1) rest (wrByte a b s)

/-- A little-endian number of `n` bytes. -/
def rdNat (a n : Nat) (s : State) : Nat := bytesToNat (rdBytes a n s)
def wrNat (a n v : Nat) (s : State) : State := wrBytes a (natToBytes n v) s
/-- An FP32 or 32-bit word. -/
def rdWord (a : Nat) (s : State) : W32 := BitVec.ofNat 32 (rdNat a 4 s)
def wrWord (a : Nat) (v : W32) (s : State) : State := wrNat a 4 v.toNat s

def lagoonBase (n : Nat) : Nat := 0x020000000000 + n * 0x200000
def atollBase (a : Nat) : Nat := a * 0x001000000000
def shoalBase (m : Nat) : Nat := 0x010000000000 + m * 0x004000000000
def atollSize : Nat := 0x001000000000
def shoalSize : Nat := 0x004000000000
/-- The top 512 MiB of an atoll (R127). -/
def sysArea (a : Nat) : Nat := atollBase a + atollSize - 0x20000000

/-- The atoll that holds a package address. -/
def atollAt (a : Nat) : Option Nat := if a < 8 * atollSize then some (a / atollSize) else none
/-- The shoal module that holds a package address. -/
def shoalAt (a : Nat) : Option Nat :=
  if 0x010000000000 ≤ a && a < 0x020000000000 then some ((a - 0x010000000000) / shoalSize) else none
/-- The logical spindle whose lagoon holds a package address. -/
def lagoonAt (a : Nat) : Option Nat :=
  if 0x020000000000 ≤ a && a < lagoonBase 288 then some ((a - 0x020000000000) / 0x200000) else none

/-- Whether a package address is mapped (R126). -/
def mapped (s : State) (a : Nat) : Bool :=
  match atollAt a with
  | some n => atollHere s n
  | none => (shoalAt a).isSome || (match lagoonAt a with | some n => decide (n < numSpindles s) | none => false)

def stapleOf (a : Nat) : Nat := a / 4096
def metaAt (a : Nat) (s : State) : Meta := lookup s.staples {} (stapleOf a)
def setMeta (a : Nat) (m : Meta) (s : State) : State := { s with staples := put s.staples {} (stapleOf a) m }

/-- Whether the staple at `a` passes its check (R76, R129). -/
def stapleOk (a : Nat) (s : State) : Bool := let m := metaAt a s; !m.crcBad && !m.poison

/-- The staple addresses that hold the `n` bytes from `a`. -/
def staplesOf (a n : Nat) : List Nat :=
  if n = 0 then [] else (List.range ((a + n - 1) / 4096 - a / 4096 + 1)).map fun i => (a / 4096 + i) * 4096

/-- A write by a unit that computes a fresh CRC over whole staples (R79, R128, R129): the bytes land and every staple
they lie in is sound. -/
def wrSound (a : Nat) (bs : List Byte) (s : State) : State :=
  (staplesOf a bs.length).foldl (fun s p => setMeta p {} s) (wrBytes a bs s)

/-- Marks a staple so that its CRC fails at every read. -/
def failStaple (a : Nat) (s : State) : State := setMeta a { metaAt a s with crcBad := true } s

/-- Zero bytes with sound metadata over a range (R435), without walking it. -/
def wipe (a n : Nat) (s : State) : State :=
  { s with mem := s.mem.filter (fun c => !(a ≤ c.1 && c.1 < a + n))
           staples := s.staples.filter (fun c => !(a ≤ c.1 * 4096 && c.1 * 4096 < a + n))
           lagoonBad := s.lagoonBad.filter (fun w => !(a ≤ w * 8 && w * 8 < a + n)) }

/-- Copies the listed bytes of a range to another address, without walking the range: unlisted bytes read alike. -/
def copyRange (src dst n : Nat) (s : State) : State :=
  let cells := s.mem.filter (fun c => src ≤ c.1 && c.1 < src + n)
  let s := { s with mem := s.mem.filter (fun c => !(dst ≤ c.1 && c.1 < dst + n)) }
  cells.foldl (fun s c => wrByte (c.1 - src + dst) c.2 s) s

/-- SHA-384 of a range of memory. -/
def digestRange (a n : Nat) (s : State) : BitVec 384 :=
  Config.sha384Range (s.mem.filterMap fun c => if a ≤ c.1 && c.1 < a + n then some (c.1 - a, c.2) else none) n

end Sys2Proof.Machine
end

