-- ==== Sys2Proof/Machine/Flags.lean ====
section
/-! DEFINITION. Machine/Flags.lean: error flags and their captures, TOP_IRQ_STATUS, and the MSI-X messages
(R18, R89, R472 to R476). -/

namespace Sys2Proof.Machine

/-! ### Error flags -/

/-- Sets an error flag. -/
def setErr (f : FRef) (s : State) : State := setFld f 1 s

/-- Sets an error flag and captures where it arose: the capture happens only while the error register reads 0 and the
capture register has been cleared since its last capture (R89, R154, R366, R384 and alike). -/
def raiseErr (f : FRef) (info : Nat) (flds : List (FRef × Nat)) (s : State) : State :=
  if rd f.off s = 0 && !(s.caps.contains info) then
    setErr f { setFlds flds s with caps := s.caps ++ [info] }
  else setErr f s

/-- Sets an error flag and latches its address or number only while the error register reads 0 (R18, R154, R452). -/
def raiseLatch (f : FRef) (flds : List (FRef × Nat)) (s : State) : State :=
  if rd f.off s = 0 then setErr f (setFlds flds s) else setErr f s

/-- Clears a capture register (CAPTURE_CLR). -/
def clearCapture (info : Nat) (s : State) : State :=
  { wr info 0 s with caps := s.caps.filter (· != info) }

/-- A TOP_ERR bit with the offset of the access (R18). -/
def topErr (f : FRef) (off : Nat) (s : State) : State := raiseLatch f [(TOP_ERR_ADDR_OFFSET, off)] s

/-! ### Field writes (R12, R13) -/

/-- The fields of the register at offset `off`; none for an offset that is the start of no register. -/
def regDesc (off : Nat) : Option RegD := (blockTab off).find? fun d => d.base ≤ off && inDims (off - d.base) d.dims

/-- Applies a written word to one field: the register's new value, and whether a reserved encoding was written. -/
def writeField (f : Fld) (v : W64) (r : W64 × Bool) : W64 × Bool :=
  let fr : FRef := ⟨0, f.hi, f.lo⟩
  let x := fldOf fr v
  match f.acc with
  | .rw | .wp =>
    if f.bad.any fun b => b.1 ≤ x && x ≤ b.2 then (r.1, true) else (setFldOf fr x r.1, r.2)
  | .w1c => (setFldOf fr (fldOf fr r.1 &&& ((2 ^ (f.hi + 1 - f.lo) - 1) ^^^ x)) r.1, r.2)
  | .w1s => (setFldOf fr (fldOf fr r.1 ||| x) r.1, r.2)
  | .ro | .wo | .rc => r

/-- Applies a written word to every field of a register. -/
def applyFields (fs : List Fld) (old v : W64) : W64 × Bool := fs.foldl (fun r f => writeField f v r) (old, false)

/-- The value a write leaves in the register at `off`, and whether a field was written with a reserved encoding. -/
def written (off : Nat) (v : W64) (s : State) : W64 × Bool :=
  match regDesc off with
  | none => (rd off s, false)
  | some d => applyFields d.flds (rd off s) v

/-- Reserved encodings set TOP_ERR.RSV_ENC (R13). -/
def rsvEnc (bad : Bool) (s : State) : State := if bad then topErr TOP_ERR_RSV_ENC s.acc s else s

/-- The plain effect of a register write: each field by its access type (R12, R13). -/
def store (off : Nat) (v : W64) (s : State) : State :=
  let r := written off v s
  rsvEnc r.2 (wr off r.1 s)

/-- A write that has no other effect still reports a reserved encoding (R13). -/
def discarded (off : Nat) (v : W64) (s : State) : State := rsvEnc (written off v s).2 s

/-- Whether bit `n` of a written word is 1. -/
def wbit (v : W64) (n : Nat) : Bool := v.getLsbD n

/-! ### Die power (R476) -/

/-- STAGE codes of R429 and R453. -/
def stPower : Nat := 0
def stRom : Nat := 1
def stIdentity : Nat := 2
def stFwFetch : Nat := 3
def stSelftest : Nat := 4
def stLinkTrain : Nat := 5
def stDiscover : Nat := 6
def stTally : Nat := 7
def stAttest : Nat := 8
def stReady : Nat := 9
def stWarm : Nat := 10
def stHaven : Nat := 11
def stFailed : Nat := 12

def stage (s : State) : Nat := fld BRG_STATUS_STAGE s

/-- The spindle dies and base dies are down: in haven mode, and in a warm rejoin until its step 2 ends (R476). -/
def diesDown (s : State) : Bool := stage s == stHaven || (stage s == stWarm && s.boot.rejoin ≤ 2)

/-! ### TOP_IRQ_STATUS (R472) -/

/-- The error registers of the blocks 0 to 15, in the order of BLOCK_ERR. -/
def blockErrs : List Nat :=
  [TOP_ERR, BRG_ERR, CRN_ERR, SEC_ERR, PWR_ERR, BT_ERR, INT_ERR, MEM_ERR, KV_ERR, SKN_ERR, SMP_ERR, CRD_ERR, GLD_ERR,
   SYN_ERR, FRY_ERR, CTX_ERR]

/-- Bits set in a list of booleans, the first lowest. -/
def bitsOf : List Bool → Nat
  | [] => 0
  | b :: rest => b.toNat + 2 * bitsOf rest

/-- Whether SPN_ERR of some instance reads non-zero. -/
def anySpnErr (s : State) : Bool :=
  s.regs.any fun e => e.1 ≥ 0x1000000 && e.1 % 0x10000 == 8 && e.2 != 0

/-- BLOCK_ERR. -/
def blockErr (s : State) : Nat :=
  bitsOf (blockErrs.map (fun o => rd o s != 0) ++ [!diesDown s && anySpnErr s])

/-- REEF_MAP: instances whose REEF_ERR reads non-zero. -/
def reefMap (s : State) : Nat :=
  if diesDown s then 0
  else bitsOf ((List.range 8).map fun a => atollHere s a && rd (REEF_ERR a) s != 0)

/-- TOP_IRQ_STATUS as a read returns it: event bits 23:18 are stored, the rest is computed. -/
def irqStatus (s : State) : Nat :=
  reefMap s * 2 ^ 24 + (rd TOP_IRQ_STATUS s).toNat / 2 ^ 18 % 64 * 2 ^ 18 + blockErr s

/-- Enabled bits of TOP_IRQ_STATUS. -/
def irqEnabled (s : State) : Nat := irqStatus s &&& (rd TOP_IRQ_MASK s).toNat

/-- Sends an MSI-X message of a function's vector, or marks it pending while the vector is masked (R474). -/
def sendMsi (fn vec : Nat) (s : State) : State :=
  let k := fn * 2 + vec
  let e := lookup s.msix {} k
  if e.masked then { s with msix := put s.msix {} k { e with pend := true } }
  else send (.msi fn vec) s

/-- After a command: vector 0 is sent when an enabled bit of TOP_IRQ_STATUS became 1, or an enable met a status bit that
reads 1 (R474, R475). -/
def irqSettle (before after : State) : State :=
  let b := irqEnabled before
  if (irqEnabled after &&& (b ^^^ 0xFFFFFFFF)) != 0 then sendMsi 0 0 after else after

/-! ### The form of a command's effect -/

/-- Memory is in its canonical form: addresses strictly rising, no byte listed that an unlisted address reads as. -/
def Memory.wf (m : List Host.Cell) : Bool := canon (fun _ => memDefault) m

/-- Registers, memory, staple metadata and wear counters in canonical form; every key keeps its value. -/
def tidy (s : State) : State :=
  { s with
    regs := tidyMap rstVal s.regs
    mem := tidyMap (fun _ => memDefault) s.mem
    staples := tidyMap (fun _ => {}) s.staples
    wear := tidyMap (fun _ => 0) s.wear }

/-- A command whose effect is `f`: the effect, then the interrupt messages it causes. The effect leaves the queue of
commands alone. -/
def run (f : State → State) (s : State) : Host.Outcome State Fault Refusal :=
  .next { tidy (irqSettle s (f s)) with pending := s.pending }

end Sys2Proof.Machine
end

