-- ==== Sys2Proof/Machine/Route.lean ====
section
/-! DEFINITION. Machine/Route.lean: the router and the link layer on its way out: positions, paths and trees (R283 to R285,
R303), virtual channels, arbitration and codewords (R276, R277, R286, R287). -/

namespace Sys2Proof.Machine

def modGld (f : Gld → Gld) (s : State) : State := { s with gld := f s.gld }

/-! ### Positions (R283, R284) -/

def nodeValid (s : State) : Bool := bit GLD_NODE_VALID s
def myNode (s : State) : Nat := fld GLD_NODE_NODE s
/-- The package's own position in its domain (R284). -/
def ownPos (s : State) : Nat := myNode s % 128
def dimSize (k : Nat) (s : State) : Nat :=
  1 + (if k = 0 then fld GLD_NODE_DX_M1 s else if k = 1 then fld GLD_NODE_DY_M1 s else fld GLD_NODE_DZ_M1 s)

/-- Packages of the domain. -/
def domainSize (s : State) : Nat := dimSize 0 s * dimSize 1 s * dimSize 2 s

/-- Product of the dimensions before k. -/
def stride (k : Nat) (s : State) : Nat := if k = 0 then 1 else if k = 1 then dimSize 0 s else dimSize 0 s * dimSize 1 s
def coord (pos k : Nat) (s : State) : Nat := pos / stride k s % dimSize k s

/-- The neighbour of a position in the direction of a role code (R281): bit 0 set means minus. -/
def stepPos (pos role : Nat) (s : State) : Nat :=
  let k := role / 2
  let d := dimSize k s
  let x := coord pos k s
  pos - x * stride k s + (if role % 2 = 0 then (x + 1) % d else (x + d - 1) % d) * stride k s

/-- Whether a number can name a package: bits 8:7 are zero, which 0x3FF, the unassigned number, has set (R284). -/
def isNode (node : Nat) : Bool := node / 128 % 4 == 0
/-- Whether a node number lies in the own domain, and its position. -/
def sameDomain (node : Nat) (s : State) : Bool := node / 512 == myNode s / 512
def posOf (node : Nat) : Nat := node % 128

/-! ### Ports as the router sees them (R282) -/

def pDown : Nat := 0
def pTraining : Nat := 1
def pIdentify : Nat := 2
def pHeld : Nat := 3
def pUp : Nat := 4

def portState (p : Nat) (s : State) : Nat := fld (GLD_PORT_STATUS_STATE p) s
def portUpNow (p : Nat) (s : State) : Bool := portState p s == pUp
def port (p : Nat) (s : State) : Port := lookup s.gld.ports {} p
def setPort (p : Nat) (x : Port) (s : State) : State := modGld (fun g => { g with ports := put g.ports {} p x }) s
def modPort (p : Nat) (f : Port → Port) (s : State) : State := setPort p (f (port p s)) s

/-- The strait that serves a direction. -/
def portOfRole (role : Nat) (s : State) : Option Nat :=
  (List.range 6).find? fun p => portUpNow p s && fld (GLD_PORT_STATUS_ROLE p) s == role

/-! ### Leaving: virtual channels, arbitration, codewords (R276, R277, R286, R287) -/

/-- Link units of a packet or frame (R276); those of a control frame in log 45. -/
def linkUnits (m : Sent) : Nat :=
  match m with
  | .packet p => (64 + p.payload.length + 63) / 64
  | .carrier p => 1 + (64 + p.payload.length + 63) / 64
  | .resp r => (32 + r.data.length + 63) / 64
  | .prefillPage _ _ _ bs => (bs.length + 4095) / 4096 + (bs.length + 63) / 64
  | _ => 1

/-- GLD_TC_WEIGHT of a class. -/
def weightOf (tc : Nat) (s : State) : Nat :=
  if tc = 1 then fld GLD_TC_WEIGHT_TC1 s else if tc = 2 then fld GLD_TC_WEIGHT_TC2 s else fld GLD_TC_WEIGHT_TC3 s

/-- Whether a port has something of a class waiting. -/
def waits (x : Port) (tc : Nat) : Bool := x.queue.any fun q => q.vc / 4 == tc

/-- The class that sends the next codeword, and the turns left (R287): TC0 first, then each class by its weight. -/
def arbitrate (w : Nat → Nat) (x : Port) : Option (Nat × List (Nat × Nat)) :=
  let pick (l : List (Nat × Nat)) : Option (Nat × List (Nat × Nat)) :=
    ([1, 2, 3].find? fun k => waits x k && lookup l 0 k > 0).map fun k => (k, put l 0 k (lookup l 0 k - 1))
  if waits x 0 then some (0, x.turns)
  else match pick x.turns with
    | some a => some a
    | none => pick [(1, w 1), (2, w 2), (3, w 3)]

/-- The link layer of R277 runs: on a trained port, and before LINK_TRAIN on a strait trained in FW_FETCH (R433). -/
def linkRuns (p : Nat) (s : State) : Bool :=
  portState p s ≥ pIdentify || ((port p s).linked && !(port p s).retraining)

/-- Whether a port lets a packet or frame pass: ID and SPDM frames from IDENTIFY on, everything else only UP (R282), and of that in
haven mode only control frames (R399). -/
def passes (p : Nat) (s : State) (m : Sent) : Bool :=
  match m with
  | .id _ _ | .spdm _ _ => portState p s ≥ pIdentify
  | .boot _ _ _ _ => linkRuns p s
  -- a paused causeway transfer sends nothing on (R395)
  | .carrier q => portUpNow p s && !bit PWR_HAVEN_ACTIVE s && !(q.hdr.src.toNat == fld GLD_NODE_NODE s &&
      s.pwr.held.any fun l => l.kind == .causeway q.hdr.tag.toNat && l.paused)
  | .packet _ | .resp _ | .prefillPage _ _ _ _ | .pairSpdm _ => portUpNow p s && !bit PWR_HAVEN_ACTIVE s
  | _ => portUpNow p s

/-- The nonce of a group: the direction bit, 0 from the requester, the end with the lower IDENTITY, and the group counter (R420;
DESIGN CHOICE, log 146: the manual does not say which direction has which bit). -/
def groupNonce (p group : Nat) (s : State) : BitVec 96 :=
  let low : Bool := match (port p s).sessionPeer with
    | some i => decide (s.fuse.identity.toNat < i.toNat)
    | none => false
  BitVec.ofNat 96 ((!low).toNat * 2 ^ 95 + group)

/-- Encrypts n link units that leave on an established link, in groups of 63, each followed by a tag unit; KEY_UPDATE starts
every 2^32 groups (R420). -/
def groupUnits (p n : Nat) (s : State) : State :=
  if p ≥ 6 || fld (SEC_LINK_STATE p) s != 2 then s
  else
    let x := port p s
    if x.txFill + n < 63 then setPort p { x with txFill := x.txFill + n } s
    else
      let s := send (.linkTag p (groupNonce p x.txGroup s)) s
      let s := setPort p { x with txFill := x.txFill + n - 63, txGroup := x.txGroup + 1 } s
      if (x.txGroup + 1) % 2 ^ 32 = 0 then send (.linkRekey p) s else s

/-- Forms codewords of ten link units, of what the port lets pass, while the replay buffer of 256 has room (R276, R277,
R282). A packet or frame has left with the codeword that holds its last unit. -/
def drainPort : Nat → Nat → State → State
  | 0, _, s => s
  | f + 1, p, s =>
    let x := port p s
    if x.replay.length ≥ 256 then s
    else match arbitrate (weightOf · s) { x with queue := x.queue.filter fun q => passes p s q.msg } with
      | none => s
      | some (tc, turns) =>
        let i := x.queue.findIdx fun q => q.vc / 4 == tc && passes p s q.msg
        match x.queue[i]? with
        | none => s
        | some q =>
          let final : Bool := q.units ≤ 10
          let rest := if final then x.queue.eraseIdx i else x.queue.set i { q with units := q.units - 10 }
          let cw : Codeword := { seq := x.txNext, vc := q.vc, msg := q.msg, final := final }
          let s := setPort p { x with queue := rest, turns := turns, replay := x.replay ++ [cw]
                                      txNext := (x.txNext + 1) % 512 } s
          drainPort f p (groupUnits p (min 10 q.units) (if final then send q.msg s else s))

/-- A packet or frame enters a virtual channel of a port. -/
def post (p vc : Nat) (m : Sent) (s : State) : State :=
  drainPort 256 p (modPort p (fun x => { x with queue := x.queue ++ [{ msg := m, vc := vc, units := linkUnits m }] }) s)

/-- Free credit of a port in a traffic class, in link units (R285). -/
def freeCredit (p tc : Nat) (s : State) : Nat :=
  Config.classCredit tc - ((port p s).queue.filter fun q => q.vc / 4 == tc).foldl (fun n q => n + q.units) 0

/-- The virtual channel of a packet that set out from position `src` and leaves in direction `role` (R286): the upper
dateline channel where its ring wraps and beyond, and the second order set for YZX and ZXY. -/
def channelOf (tc order src role : Nat) (s : State) : Nat :=
  let k := role / 2
  let from_ := coord src k s
  let next := coord (stepPos (ownPos s) role s) k s
  let upper : Bool := if role % 2 = 0 then next < from_ else next > from_
  tc * 4 + upper.toNat * 2 + (order != 0).toNat

/-- A packet or frame leaves by the port and virtual channel given; without a port it is discarded and counted (R310). -/
def leaveBy (hop : Option (Nat × Nat)) (m : Sent) (s : State) : State :=
  match hop with
  | some (p, v) => post p v m s
  | none => bump64 (GLD_CNT 6) 1 s

/-- A control frame goes out on every strait that is UP. -/
def flood (m : Sent) (s : State) : State :=
  (List.range 6).foldl (fun s p => if portUpNow p s then post p 0 m s else s) s

/-! ### Paths (R285) -/

/-- Whether the link from a position in a direction carries traffic: an own link by its port, another by the notices. -/
def linkUp (pos role : Nat) (s : State) : Bool :=
  let far := stepPos pos role s
  let back := role ^^^ 1
  if pos = ownPos s then (portOfRole role s).isSome
  else if far = ownPos s then (portOfRole back s).isSome
  else !(s.gld.downLinks.contains (pos, role) || s.gld.downLinks.contains (far, back))

/-- Whether n hops from a position in a direction are free of DOWN ports. -/
def pathClear (s : State) (role : Nat) : Nat → Nat → Bool
  | 0, _ => true
  | n + 1, pos => linkUp pos role s && pathClear s role n (stepPos pos role s)

/-- The direction of dimension k from `pos` to coordinate t: the shorter one, at a tie the one of `tie`; the other one
when its path crosses a DOWN port. Answers the direction bit. -/
def pickDir (pos k t : Nat) (tie : Bool) (s : State) : Option Nat :=
  let x := coord pos k s
  let d := dimSize k s
  let plus := (t + d - x) % d
  let minus := (x + d - t) % d
  if x = t then some 0
  else
    let go (b : Nat) : Bool := pathClear s (2 * k + b) (if b = 0 then plus else minus) pos
    let b := if plus < minus then 0 else if minus < plus then 1 else tie.toNat
    if go b then some b else if go (1 - b) then some (1 - b) else none

/-- The dimensions of an ORDER code. -/
def orderDims (o : Nat) : List Nat := if o = 0 then [0, 1, 2] else if o = 1 then [1, 2, 0] else [2, 0, 1]

/-- DIR for a path through the listed dimensions. -/
def pathDims (dst : Nat) (tie : Nat) (s : State) : List Nat → Nat → Option Nat
  | [], _ => some 0
  | k :: rest, pos =>
    let t := coord dst k s
    match pickDir pos k t (tie / 2 ^ k % 2 == 1) s with
    | none => none
    | some b =>
      match pathDims dst tie s rest (pos - coord pos k s * stride k s + t * stride k s) with
      | none => none
      | some d => some (d + b * 2 ^ k)

/-- ORDER and DIR of the path from one position to another: XYZ, else YZX, else ZXY. -/
def pathOf (src dst tie : Nat) (s : State) : Option (Nat × Nat) :=
  [0, 1, 2].findSome? fun o => (pathDims dst tie s (orderDims o) src).map fun d => (o, d)

/-- The direction bits that decide between equally long directions (R285): of the own ports the one with more free credit
in the class; with equal credit a free value (log 45). -/
def tieBits (tc : Nat) (s : State) : Nat × State :=
  let (r, s) := freeVal s
  let side (k : Nat) : Nat :=
    match portOfRole (2 * k) s, portOfRole (2 * k + 1) s with
    | some p, some m =>
      if freeCredit m tc s < freeCredit p tc s then 0 else if freeCredit p tc s < freeCredit m tc s then 1
      else r.toNat / 2 ^ k % 2
    | _, _ => r.toNat / 2 ^ k % 2
  (side 0 + side 1 * 2 + side 2 * 4, s)

/-- Whether a node can be reached (R285, R304, R310). -/
def reachable (node : Nat) (s : State) : Bool :=
  nodeValid s && isNode node &&
  (if sameDomain node s then
    let n := posOf node
    node == myNode s || bit ⟨GLD_REACH (n / 64), n % 64, n % 64⟩ s
   else portUpNow 6 s)

/-- The port and virtual channel by which a packet from node `src` to `node` leaves. -/
def outHop (src node order dir tc : Nat) (s : State) : Option (Nat × Nat) :=
  if !sameDomain node s then (if portUpNow 6 s then some (6, tc * 4) else none)
  else
    match (orderDims order).find? fun k => coord (ownPos s) k s != coord (posOf node) k s with
    | none => none
    | some k =>
      let r := 2 * k + dir / 2 ^ k % 2
      (portOfRole r s).map fun p => (p, channelOf tc order (if sameDomain src s then posOf src else ownPos s) r s)

/-- A packet or frame of node `src` whose header names no path goes on towards `node` by R285. The dateline channel is that
of a packet that set out from `src` (R286). -/
def routeFrom (src node tc : Nat) (m : Sent) (s : State) : State :=
  let (tie, s) := tieBits tc s
  match pathOf (ownPos s) (posOf node) tie s with
  | some (o, d) => leaveBy (outHop src node o d tc s) m s
  | none => leaveBy (if sameDomain node s then none else outHop src node 0 0 tc s) m s

/-! ### Trees (R303) -/

/-- The positions that a path passes, with the direction in which it leaves each (R285). -/
def hops (s : State) : Nat → Nat → Nat → List (Nat × Nat)
  | 0, _, _ => []
  | n + 1, pos, role => (pos, role) :: hops s n (stepPos pos role s) role

def treePath (src dst order dir : Nat) (s : State) : List (Nat × Nat) :=
  ((orderDims order).foldl (fun (acc : List (Nat × Nat) × Nat) k =>
    let pos := acc.2
    let x := coord pos k s
    let t := coord dst k s
    let d := dimSize k s
    let b := dir / 2 ^ k % 2
    let n := if b = 0 then (t + d - x) % d else (x + d - t) % d
    (acc.1 ++ hops s n pos (2 * k + b), pos - x * stride k s + t * stride k s)) ([], src)).1

/-- The ORDER and the direction by which the path of R285 from `src` to a member goes on from this package; equally long
directions by the bits of `dir`. -/
def treeHop (src dir m : Nat) (s : State) : Option (Nat × Nat) :=
  match pathOf src m dir s with
  | none => none
  | some (o, d) => ((treePath src m o d s).find? fun x => x.1 == ownPos s).map fun x => (o, x.2)

/-- The directions in which a multicast from `src` goes on from this package in one ORDER (R303): each member is reached by
its own path of R285, so that a DOWN link takes no member out that another path reaches (log 136). -/
def treeNext (src order dir : Nat) (members : List Nat) (s : State) : List Nat :=
  members.foldl (fun l m => match treeHop src dir m s with
    | some (o, r) => if o = order then addOnce l r else l
    | none => l) []

/-- The ORDERs and directions in which a barrier's RELEASE from `src` goes on; equally long directions go plus (log 45). -/
def treeDirs (src : Nat) (members : List Nat) (s : State) : List (Nat × Nat) :=
  members.foldl (fun l m => match treeHop src 0 m s with
    | some x => addOnce l x
    | none => l) []

/-- Members of a multicast whose copy leaves this package in direction `role`. -/
def membersBehind (src dir role : Nat) (members : List Nat) (s : State) : List Nat :=
  members.filter fun m => (treeHop src dir m s).map (·.2) == some role

end Sys2Proof.Machine
end

