-- ==== Sys2Proof/Machine/Kv.lean ====
section
/-! DEFINITION. Machine/Kv.lean: the KV unit of chapter 06: pools, frames, directories, epochs, the KV part of a
commit. -/

namespace Sys2Proof.Machine

/-! ### Contexts and skeins as the other units see them -/

def ctx (c : Nat) (s : State) : Ctx := lookup s.ctxs {} c
def setCtx (c : Nat) (x : Ctx) (s : State) : State := { s with ctxs := put s.ctxs {} c x }
def modCtx (c : Nat) (f : Ctx → Ctx) (s : State) : State := setCtx c (f (ctx c s)) s

/-- STATE codes of R347. -/
def cxFree : Nat := 0
def cxLoading : Nat := 1
def cxStarting : Nat := 2
def cxRunning : Nat := 3
def cxHeld : Nat := 4
def cxIdle : Nat := 5
def cxFaulted : Nat := 6
def cxTeardown : Nat := 7

def ctxState (c : Nat) (s : State) : Nat := fld (CTX_STATE_STATE c) s
/-- A context exists in every state except FREE (R480). -/
def ctxExists (c : Nat) (s : State) : Bool := ctxState c s != cxFree
def anyCtx (s : State) : Bool := (List.range 64).any fun c => ctxExists c s
/-- STARTING, RUNNING, HELD or IDLE: loaded and neither faulted nor being torn down. -/
def ctxLive (c : Nat) (s : State) : Bool := 2 ≤ ctxState c s && ctxState c s ≤ 5

/-- BEAT of the tally. -/
def beat (s : State) : Nat := (rd BT_TALLY s).toNat

def sk (i : Nat) (s : State) : Skein := lookup s.skeins {} i
def setSk (i : Nat) (x : Skein) (s : State) : State := { s with skeins := put s.skeins {} i x }
def modSk (i : Nat) (f : Skein → Skein) (s : State) : State := setSk i (f (sk i s)) s

/-! ### Regions (R131, R132) -/

/-- A region as MEM_RGN describes it. -/
structure Region where
  valid : Bool
  kind : Nat
  base : Nat
  size : Nat
  owner : Nat
  sealedBit : Bool
  binds : Nat
  home : Nat
  deriving DecidableEq, Repr

def kWeight : Nat := 0
def kHome : Nat := 1
def kAdapter : Nat := 2
def kScratch : Nat := 3
def kSpill : Nat := 4
def kKv : Nat := 5
def kStage : Nat := 6

def region (r : Nat) (s : State) : Region :=
  { valid := bit (MEM_RGN_CFG_VALID r) s, kind := fld (MEM_RGN_CFG_KIND r) s
    base := fld (MEM_RGN_BASE_BASE r) s * 4096, size := fld (MEM_RGN_SIZE_SIZE r) s * 4096
    owner := fld (MEM_RGN_CFG_OWNER r) s, sealedBit := bit (MEM_RGN_CFG_SEALED r) s
    binds := fld (MEM_RGN_CFG_BINDS r) s, home := fld (MEM_RGN_CFG_HOME r) s }

/-- The valid region that holds a package address. -/
def regionAt (a : Nat) (s : State) : Option Nat :=
  (List.range 256).find? fun r =>
    let g := region r s; g.valid && g.base ≤ a && a < g.base + g.size

/-- The valid KV region of an atoll. -/
def kvRegion (a : Nat) (s : State) : Option Region :=
  ((List.range 256).map fun r => region r s).find? fun g => g.valid && g.kind == kKv && atollAt g.base == some a

/-! ### Pools (R184, R185) -/

def poolTake (p : Pool) : Option (Nat × Pool) :=
  if p.next < p.limit then some (p.next, { p with next := p.next + 1 })
  else match p.back with
    | [] => none
    | i :: rest => some (i, { p with back := rest })

def poolGive (p : Pool) (i : Nat) : Pool := { p with back := p.back ++ [i] }
def poolCount (p : Pool) : Nat := p.limit - p.next + p.back.length

def modKv (f : Kv → Kv) (s : State) : State := { s with kv := f s.kv }

def pagePool (a k : Nat) (s : State) : Pool := lookup s.kv.pages {} (a * 4 + k)
def bobPool (a k : Nat) (s : State) : Pool := lookup s.kv.bobs {} (a * 4 + k)

/-- The registers of the pool configuration. -/
def poolRegs : List Nat :=
  KV_LEAVES :: (List.range 4).map KV_CLASS ++ (List.range 8).flatMap fun a => (List.range 4).map fun k => KV_POOL a k

/-- A field of the pool configuration, as the last build took it (R185). -/
def kvCfg (f : FRef) (s : State) : Nat := fldOf f (lookup s.kv.cfg 0 f.off)

/-- Staples of a page frame and of a bobbin frame of class k. -/
def pageStaples (k : Nat) (s : State) : Nat := kvCfg (KV_CLASS_PAGE_STAPLES k) s
def bobStaples (k : Nat) (s : State) : Nat := kvCfg (KV_CLASS_BOBBIN_STAPLES k) s
def poolPages (a k : Nat) (s : State) : Nat := kvCfg (KV_POOL_PAGES a k) s
def poolBobbins (a k : Nat) (s : State) : Nat := kvCfg (KV_POOL_BOBBINS a k) s

/-- Staples that class k takes of atoll a. A class whose PAGE_STAPLES is 0 has no frames (R184). -/
def classStaples (a k : Nat) (s : State) : Nat :=
  if pageStaples k s = 0 then 0
  else poolPages a k s * pageStaples k s + poolBobbins a k s * bobStaples k s

/-- Staple offset in the KV region at which class k starts. -/
def classStart (a k : Nat) (s : State) : Nat :=
  kvCfg KV_LEAVES_COUNT s + (List.range k).foldl (fun t j => t + classStaples a j s) 0

/-- Package address of page frame f (R184). -/
def pageAddr (a k f : Nat) (s : State) : Nat :=
  match kvRegion a s with
  | some g => g.base + (classStart a k s + f * pageStaples k s) * 4096
  | none => 0

def bobAddr (a k f : Nat) (s : State) : Nat :=
  match kvRegion a s with
  | some g => g.base + (classStart a k s + poolPages a k s * pageStaples k s + f * bobStaples k s) * 4096
  | none => 0

/-- The build of R184 and R185: one atoll's verdict (none: skipped or refused). -/
def buildAtoll (a : Nat) (s : State) : Bool × Bool :=
  let zero := (List.range 4).all fun k => poolPages a k s == 0 && poolBobbins a k s == 0
  match kvRegion a s with
  | none => (false, !zero)
  | some g => if classStart a 4 s * 4096 > g.size then (false, true) else (true, false)

/-- Puts every frame of an atoll on its lists. -/
def buildPools (a : Nat) (s : State) : State :=
  (List.range 4).foldl (fun s k =>
    if pageStaples k s = 0 then s
    else modKv (fun v => { v with
      pages := put v.pages {} (a * 4 + k) { next := 0, limit := poolPages a k s }
      bobs := put v.bobs {} (a * 4 + k) { next := 0, limit := poolBobbins a k s } }) s) s

/-- The configuration takes effect, every list is emptied, and every frame, leaf and head granule is entered in ascending
order (R185, steps 1 and 2). What R185 leaves unsaid of held frames, directories and counts goes too (log 131). -/
def kvEnter (s : State) : State :=
  let s := modKv (fun v => { v with cfg := poolRegs.foldl (fun m o => put m 0 o (rd o s)) [] }) s
  let s := modKv (fun v => { v with pages := [], bobs := [], bad := [], held := [], dirs := []
                                    leaves := { next := 0, limit := kvCfg KV_LEAVES_COUNT s }
                                    heads := { next := 0, limit := 262144 } }) (zeroRegs ((List.range 64).map KV_CTX) s)
  (List.range 8).foldl (fun s a =>
    if !atollHere s a then s
    else
      let (ok, err) := buildAtoll a s
      let s := if err then
        modKv (fun v => { v with bad := v.bad ++ [a] })
          (raiseLatch KV_ERR_POOL_SIZE [(KV_ERR_ADDR_STAPLE, ((kvRegion a s).map (·.base / 4096)).getD 0)] s) else s
      if ok then buildPools a s else s) s

/-! ### Allocation and release (R195, R206) -/

def allocPage (c a k : Nat) (s : State) : Option (Nat × State) :=
  match poolTake (pagePool a k s) with
  | none => none
  | some (f, p) =>
    some (f, bumpFld (KV_CTX_PAGES c) 1 (modKv (fun v => { v with pages := put v.pages {} (a * 4 + k) p }) s))

def allocBobbin (c a k : Nat) (s : State) : Option (Nat × State) :=
  match poolTake (bobPool a k s) with
  | none => none
  | some (f, p) =>
    some (f, bumpFld (KV_CTX_BOBBINS c) 1 (modKv (fun v => { v with bobs := put v.bobs {} (a * 4 + k) p }) s))

def allocHead (s : State) : Option (Nat × State) :=
  match poolTake s.kv.heads with
  | none => none
  | some (f, p) => some (f, modKv (fun v => { v with heads := p }) s)

def allocLeaves : Nat → State → Option (List Nat × State)
  | 0, s => some ([], s)
  | n + 1, s =>
    match poolTake s.kv.leaves with
    | none => none
    | some (f, p) =>
      match allocLeaves n (modKv (fun v => { v with leaves := p }) s) with
      | none => none
      | some (l, s) => some (f :: l, s)

/-- Lowers a field of a count by one. -/
def dropFld (f : FRef) (s : State) : State := setFld f (fld f s - 1) s

/-- Returns an item to the tail of its free list (R185). -/
def giveItem (i : KvItem) (s : State) : State :=
  match i with
  | .page c a k f =>
    dropFld (KV_CTX_PAGES c) (modKv (fun v =>
      { v with pages := put v.pages {} (a * 4 + k) (poolGive (pagePool a k s) f) }) s)
  | .bobbin c a k f =>
    dropFld (KV_CTX_BOBBINS c) (modKv (fun v =>
      { v with bobs := put v.bobs {} (a * 4 + k) (poolGive (bobPool a k s) f) }) s)
  | .leaf i => modKv (fun v => { v with leaves := poolGive v.leaves i }) s
  | .head i =>
    dropFld (KV_CTX_SEQUENCES ((lookup s.kv.dirs {} i).ctx))
      (modKv (fun v => { v with heads := poolGive v.heads i, dirs := del v.dirs i }) s)

/-- KV_OLDEST (R206). -/
def kvOldest (s : State) : Nat := s.kv.walkers.foldl min (2 ^ 64 - 1)

def kvEpoch (s : State) : Nat := (rd KV_EPOCH s).toNat

/-- Clears the entries of a released page or bobbin frame of a class (R206). -/
def clearEnt (i : KvItem) (d : Dir) : Dir :=
  match i with
  | .page _ a k f =>
    { d with ents := d.ents.filter fun e => !(d.cls == k && e.2.dropped && e.2.atoll == a && e.2.frame == f) }
  | .bobbin _ a k f =>
    { d with bobbins := d.bobbins.filter fun b => !(d.cls == k && b.dropped && b.atoll == a && b.frame == f) }
  | _ => d

/-- Releases every held item whose epoch KV_OLDEST has reached (R206); run at every beat edge. -/
def kvRelease (s : State) : State :=
  let old := kvOldest s
  let due := s.kv.held.filter fun h => h.1 ≤ old
  let s := modKv (fun v => { v with
    held := v.held.filter fun h => !(h.1 ≤ old)
    dirs := v.dirs.map fun d => (d.1, due.foldl (fun d h => clearEnt h.2 d) d.2) }) s
  due.foldl (fun s h => giveItem h.2 s) s

/-- Holds an item until its epoch (R206). -/
def holdItem (e : Nat) (i : KvItem) (s : State) : State := modKv (fun v => { v with held := v.held ++ [(e, i)] }) s

/-! ### Directories (R190 to R194, R204, R205) -/

def dir (h : Nat) (s : State) : Dir := lookup s.kv.dirs {} h
def setDir (h : Nat) (d : Dir) (s : State) : State := modKv (fun v => { v with dirs := put v.dirs {} h d }) s
def modDir (h : Nat) (f : Dir → Dir) (s : State) : State := setDir h (f (dir h s)) s

/-- Staple address of the head granule's copy in atoll a (R190). -/
def headStaple (a h : Nat) : Nat := (sysArea a + 0x10000000 + h * 0x400) / 4096 * 4096
/-- Address of leaf staple j in atoll a. -/
def leafStaple (a j : Nat) (s : State) : Nat := ((kvRegion a s).map (·.base)).getD 0 + j * 4096

/-- Atoll of local page u (R194). -/
def placeAtoll (d : Dir) (u : Nat) : Nat := d.atolls.getD ((d.start + u) % d.atolls.length) 0

/-- Visibility under a walker's snapshot (R205). -/
def visible (addGen dropGen : W16) (dropped : Bool) (g : W16) : Bool :=
  (g - addGen).toNat < 0x8000 && !(dropped && (g - dropGen).toNat < 0x8000)

/-- Epoch of an item dropped between edges in directory h, until the publication that makes the drop visible gives it one
(R206): above every value of KV_OLDEST. -/
def unpublished (h : Nat) : Nat := 2 ^ 64 + h

/-- Items of directory h that await their publication are held with epoch e. -/
def giveEpoch (h e : Nat) (s : State) : State :=
  modKv (fun v => { v with held := v.held.map fun x => if x.1 = unpublished h then (e, x.2) else x }) s

/-- Publishes a directory whose PEND is set (R204). -/
def publish (h : Nat) (s : State) : State :=
  let d := dir h s
  if d.pend then
    let s := giveEpoch h (kvEpoch s) s
    let s := bump64 (KV_CNT 6) 1 (setDir h { d with gen := d.gen + 1, pend := false } s)
    if d.shard == d.shards1 then modSk d.skein (fun k => if k.dir = h then { k with dirGen := d.gen + 1 } else k) s
    else s
  else s

/-- Directories of a context, by head granule. -/
def dirsOf (c : Nat) (s : State) : List Nat := (s.kv.dirs.filter fun d => d.2.ctx == c).map (·.1)

/-- Drops one page of a directory in the coming generation, held with epoch e. -/
def dropPage (h u e : Nat) (s : State) : State :=
  let d := dir h s
  match find? d.ents u with
  | none => s
  | some x =>
    if x.dropped then s
    else
      bump64 (KV_CNT 4) 1
        (holdItem e (.page d.ctx x.atoll d.cls x.frame)
          (setDir h { d with pend := true, ents := ins d.ents u { x with dropped := true, dropGen := d.gen + 1 } } s))

/-- Drops every page, bobbin, leaf and the head granule of a directory (R208), held with epoch e. -/
def dropDir (h e : Nat) (s : State) : State :=
  let d := dir h s
  if d.dropped then (if e < unpublished h then giveEpoch h e s else s)
  else
    let s := if e < unpublished h then giveEpoch h e s else s
    let s := d.ents.foldl (fun s x => dropPage h x.1 e s) s
    let d := dir h s
    let s := d.bobbins.foldl (fun s b =>
      let s := if b.dropped then s else bump64 (KV_CNT 4) 1 (holdItem e (.bobbin d.ctx b.atoll d.cls b.frame) s)
      -- the page frame of a bobbin whose flush has not completed is released like any other
      if b.flushed then s else holdItem e (.page d.ctx b.atoll d.cls b.page) s) s
    let s := d.reserved.foldl (fun s r => holdItem e (.page d.ctx r.2.1 d.cls r.2.2) s) s
    let s := d.leaves.foldl (fun s l => bump64 (KV_CNT 4) 1 (holdItem e (.leaf l) s)) s
    let s := bump64 (KV_CNT 4) 1 (holdItem e (.head h) s)
    modDir h (fun d => { d with
      pend := true, dropped := true, reserved := []
      bobbins := d.bobbins.map fun b => if b.dropped then b else { b with dropped := true, dropGen := d.gen + 1 } }) s

/-- Number of leaves a directory of `pages` pages needs (R191, R195). -/
def leavesNeeded (pages : Nat) : Nat := if pages ≤ 120 then 0 else (pages + 511) / 512

/-- The admission request of R195: head, leaves, a page frame and a bobbin frame in A[START]. On a failure nothing is
allocated and the result is the code of R218: 9 NO_HEAD, 10 NO_LEAF, 11 NO_FRAME, 12 NO_BOBBIN. -/
def admitDir (c : Nat) (kd : KvDesc) (skein : Nat) (gen : W16) (first pages maxlen shard shards1 home : Nat) (s : State) :
    Nat × Nat × State :=
  match allocHead s with
  | none => (9, 0, s)
  | some (h, s1) =>
    match allocLeaves (leavesNeeded pages) s1 with
    | none => (10, 0, s)
    | some (ls, s2) =>
      let n := kd.atolls.length
      let a := kd.atolls.getD (h % n) 0
      match allocPage c a kd.cls s2 with
      | none => (11, 0, s)
      | some (f, s3) =>
        match allocBobbin c a kd.cls s3 with
        | none => (12, 0, s)
        | some (b, s4) =>
          let d : Dir := { leaves := ls, ctx := c, cls := kd.cls, start := h % n, atolls := kd.atolls, shard := shard
                           shards1 := shards1, firstPage := first, pages := pages, maxlen := maxlen, skein := skein
                           skeinGen := gen, home := home
                           bobbins := [{ atoll := a, frame := b, page := f, basePage := first }] }
          (0, h, bumpFld (KV_CTX_SEQUENCES c) 1 (setDir h d s4))

/-- The open bobbin (or the one in FULL_WAIT) of a directory. -/
def openBob (d : Dir) : Option Bobbin := d.bobbins.find? fun b => !b.dropped && b.state != .flushing
def flushingBob (d : Dir) : Option Bobbin := d.bobbins.find? fun b => !b.dropped && b.state == .flushing

/-- Replaces the bobbin with the same base page. -/
def setBob (b : Bobbin) (d : Dir) : Dir :=
  { d with bobbins := d.bobbins.map fun x => if x.basePage = b.basePage && !x.dropped then b else x }

/-- Whether the bobbin holds the last page of the directory or the page of position MAXLEN − 1 (R196). -/
def lastPage (d : Dir) (page : Nat) : Bool := page + 1 ≥ d.firstPage + d.pages || page == (d.maxlen - 1) / 256

/-- Allocates a successor page and bobbin frame for page v (R196). -/
def allocNext (h v : Nat) (s : State) : Option (Nat × Nat × Nat × State) :=
  let d := dir h s
  let a := placeAtoll d (v - d.firstPage)
  match allocPage d.ctx a d.cls s with
  | none => none
  | some (f, s1) =>
    match allocBobbin d.ctx a d.cls s1 with
    | none => none
    | some (b, s2) => some (a, f, b, s2)

/-- Whether a bobbin slot of a directory is free (R191): a dropped bobbin holds its slot until its release (R206; log
111). -/
def slotFree (d : Dir) : Bool := d.bobbins.length < 2

/-- Opens the successor of a full bobbin: the carry starts and the full bobbin becomes FLUSHING (R199 to R201). -/
def openNext (h : Nat) (b : Bobbin) (s : State) : Option State :=
  if !slotFree (dir h s) then none
  else match allocNext h (b.basePage + 1) s with
  | none => none
  | some (a, f, fr, s) =>
    let d := dir h s
    let extra := b.fill - 256
    let nb : Bobbin := { atoll := a, frame := fr, page := f, basePage := b.basePage + 1, fill := extra
                         addGen := d.gen + 1
                         carry := if extra = 0 then none else some (b.atoll, b.frame, extra) }
    let d := setBob { b with state := .flushing, fill := 256 } d
    some (bump64 (KV_CNT 3) (if extra = 0 then 0 else 1) (setDir h { d with bobbins := d.bobbins ++ [nb], pend := true } s))

/-- The full bobbin after a commit (R199): FLUSHING at the last page, a successor, or FULL_WAIT. A bobbin fills into
FULL_WAIT also while another still flushes (R201). -/
def settleFull (h : Nat) (s : State) : State :=
  let d := dir h s
  match openBob d with
  | none => s
  | some b =>
    if b.fill < 256 then s
    else if lastPage d b.basePage then setDir h (setBob { b with state := .flushing } d) s
    else if (flushingBob d).isSome then setDir h (setBob { b with state := .fullWait } d) s
    else match openNext h b s with
      | some s => s
      | none => setDir h (setBob { b with state := .fullWait } d) s

/-- The tokens of a slice that fall into pages of this package (R209). -/
def sliceLocal (d : Dir) (b : BatchSk) : Nat := (d.length + b.rows) - max d.length (256 * d.firstPage)

/-- The bobbin that a slice reserved for its remaining tokens (R202), with the page it covers: `ob` is the open one. -/
def sliceBob (d : Dir) (ob : Bobbin) (b : BatchSk) : Option (Nat × Nat × Nat × Nat) :=
  b.bobbin.map fun x => (x.1, x.2.1, x.2.2, ob.basePage + 1 + (sliceLocal d b - (256 - ob.fill)) / 256)

/-- The KV part of a commit (R199) for a skein whose results are kept: `acc` accepted drafts of `b.drafts`. -/
def kvCommit (h : Nat) (b : BatchSk) (acc : Nat) (s : State) : State :=
  let d := dir h s
  match openBob d with
  | none => s
  | some ob =>
    if b.prefill then
      let n := sliceLocal d b
      let next := sliceBob d ob b
      let s :=
        if ob.fill + n < 256 then setDir h (setBob { ob with fill := ob.fill + n, spec := 0 } d) s
        else
          let rest := n - (256 - ob.fill)
          let d := setBob { ob with fill := 256, spec := 0, state := .flushing } d
          -- pages between the two bobbins were written straight and take ADD_GEN now (R202)
          let d := b.frames.foldl (fun d f =>
            { d with ents := ins d.ents f.1 { atoll := f.2.1, frame := f.2.2, addGen := d.gen + 1 }, pend := true }) d
          let d := match next with
            | some (a, fr, pg, base) =>
              { d with bobbins := d.bobbins ++ [{ atoll := a, frame := fr, page := pg
                                                  basePage := base, fill := rest % 256
                                                  addGen := d.gen + 1 }], pend := true }
            | none => d
          setDir h d s
      modDir h (fun d => { d with length := d.length + b.rows }) s
    else
      let d := setBob { ob with fill := ob.fill + 1 + acc, spec := 0 } d
      settleFull h (bump64 (KV_CNT 2) (b.drafts - acc) (setDir h { d with length := d.length + 1 + acc } s))

/-- A skein's step results are discarded: its bobbin keeps the SPEC it had before the step, 0 (R199), and the frames
reserved for a slice are held with epoch e (R202). -/
def kvDiscard (h : Nat) (b : BatchSk) (e : Nat) (s : State) : State :=
  let d := dir h s
  let s := match openBob d with
    | some ob => if ob.spec = 0 then s else setDir h (setBob { ob with spec := 0 } d) s
    | none => s
  let s := b.frames.foldl (fun s f => holdItem e (.page d.ctx f.2.1 d.cls f.2.2) s) s
  match b.bobbin with
  | some (a, fr, pg) => holdItem e (.bobbin d.ctx a d.cls fr) (holdItem e (.page d.ctx a d.cls pg) s)
  | none => s

/-- Window drops of R207 at a commit. -/
def windowDrop (h : Nat) (kd : KvDesc) (e : Nat) (s : State) : State :=
  if kd.window = 0 then s
  else
    let d := dir h s
    (d.ents.filter fun x =>
        let v := x.1 + d.firstPage
        !x.2.dropped && (d.gen - x.2.addGen).toNat < 0x8000 &&
        256 * v ≥ kd.sink && 256 * v + 256 + kd.window ≤ d.length).foldl
      (fun s x => dropPage h x.1 e s) s

/-- A retry of R196 for a FULL_WAIT bobbin: whether it succeeded. -/
def retryFull (h : Nat) (s : State) : Bool × State :=
  let d := dir h s
  match openBob d with
  | some b =>
    if b.state == .fullWait && (flushingBob d).isNone then
      match openNext h b s with
      | some s => (true, s)
      | none => (false, s)
    else (false, s)
  | none => (false, s)

/-- Whether a sequence's bobbin waits (R196). -/
def fullWaits (h : Nat) (s : State) : Bool :=
  match openBob (dir h s) with
  | some b => b.state == .fullWait
  | none => false

end Sys2Proof.Machine
end

