-- ==== Sys2Proof/Machine/Skein.lean ====
section
/-! DEFINITION. Machine/Skein.lean: the skein table, output rings, stop tests, faults and completions of skeins, the
command tests, batch formation (chapter 07). -/

namespace Sys2Proof.Machine

/-- STATE codes of R213. -/
def skCode : SkState → Nat
  | .free => 0 | .admitted => 1 | .prefill => 2 | .decode => 3 | .paused => 4 | .cancelling => 5 | .done => 6 | .faulted => 7

def noDeadline : Nat := 0xFFFFFFFFFF

/-- The sixteen words of an entry (R213). -/
def skWords (k : Skein) : List W32 :=
  let w (n : Nat) : W32 := BitVec.ofNat 32 n
  [ w (skCode k.state * 2 ^ 29 + k.tenant * 2 ^ 17 + k.prio * 2 ^ 14 + k.ctx * 2 ^ 8 + k.narrow.toNat * 128 +
      k.ringPhase.toNat * 64),
    w (k.gen.toNat * 65536 + k.profile), w k.deadline, w (k.length * 256 + k.deadline / 2 ^ 32),
    w (k.maxlen * 256 + k.stopSet), w (k.dir * 2 ^ 14 + k.shards1 * 2 ^ 9), w (k.dirGen.toNat * 65536 + k.mask),
    w (k.promptLen * 256 + k.narrowSteps), w k.admitBeat, w (k.outTokens * 256 + k.admitBeat / 2 ^ 32 % 256),
    w k.ringAddr, w (k.ringAddr / 2 ^ 32), w (k.ringHead.toNat * 65536 + k.ringTail.toNat),
    w (k.ringOrder * 2 ^ 28 + k.fn * 2 ^ 24 + k.promptPos), k.seed.setWidth 32, (k.seed >>> 32).setWidth 32 ]

/-- Skeins in a state (SKN_STATE_CNT). -/
def stateCount (c : Nat) (s : State) : Nat :=
  if c = 0 then 262144 - (s.skeins.filter fun k => k.2.state != .free).length
  else (s.skeins.filter fun k => skCode k.2.state == c).length

/-- Skeins of a context in any state except FREE, in ascending index. -/
def skeinsOf (c : Nat) (s : State) : List Nat :=
  (s.skeins.filter fun k => k.2.ctx == c && k.2.state != .free).map (·.1)

/-! ### Copies of the table (R212) -/

def skStaple (a i : Nat) : Nat := (sysArea a + 0x04000000 + i * 64) / 4096 * 4096

/-! ### Output rings (R220, R221) -/

def ringSize (k : Skein) : Nat := 2 ^ (k.ringOrder + 4)
def ringFree (k : Skein) : Nat := ringSize k - (k.ringHead - k.ringTail).toNat

/-- Whether host-memory accesses of a function succeed (R422): REQUIRE_IDE needs a secure stream. -/
def hostAllowed (s : State) : Bool := !bit SEC_CTRL_REQUIRE_IDE s || !s.sec.ide.isEmpty

/-- Whether the host link of a function is up (R448). -/
def fnUp (fn : Nat) (s : State) : Bool := !s.boot.hostDown.getLsbD fn

/-- A write to host memory for a skein; held while the function's link is down (R448). -/
def hostWrite (i fn addr : Nat) (bs : List Byte) (s : State) : State :=
  if fnUp fn s then send (.hostWrite fn addr bs) s
  else { s with hostHeld := s.hostHeld ++ [(fn, i, addr, bs)] }

def wordsBytes (ws : List W32) : List Byte := ws.flatMap fun w => natToBytes 4 w.toNat

/-- The words of a record with PHASE as given (R220). -/
def withPhase (ph : Bool) : List W32 → List W32
  | [] => []
  | w :: rest => (if ph then w ||| 0x80000000 else w &&& 0x7FFFFFFF) :: rest

/-! ### Faults (R215, R220) -/

/-- Skein fault causes of R220. -/
def fcMaskEmpty : Nat := 1
def fcContext : Nat := 2
def fcIntegrity : Nat := 3
def fcKv : Nat := 4
def fcTeardown : Nat := 5
def fcSampler : Nat := 6
def fcDead : Nat := 7

/-- A skein that its own fault moves to FAULTED: any state except FREE (R215). -/
def skLive (k : Skein) : Bool := !(k.state == .free || k.state == .faulted)

/-- Faults a skein (R215). It leaves service later, or at once when its context faults. A DONE skein has left service; a
completion record of it that still waits becomes the FAULTED one (R216; log 112). -/
def faultSkein (i cause : Nat) (s : State) : State :=
  let k := sk i s
  if skLive k then
    bump64 (SKN_CNT 4) 1 (setSk i { k with
      state := .faulted, cause := cause
      due := if k.due.isSome then some { status := 3, cause := cause } else none } s)
  else s

/-- A record write to host memory failed: the skein faults (R227, SKN_ERR.RING_FAULT). -/
def ringFault (i : Nat) (s : State) : State := faultSkein i fcContext (setErr SKN_ERR_RING_FAULT s)

/-- Whether a record write for the skein fails at once: the host reports it (R227), or the host may not be accessed while the
function's link is up (R422); a write of a lost function is held (R448). -/
def ringFails (i : Nat) (s : State) : Bool := s.lostRings.contains i || (fnUp (sk i s).fn s && !hostAllowed s)

/-- A record write failed: SEC_ERR.IDE too where R422 is the reason. -/
def ringLost (i : Nat) (s : State) : State :=
  ringFault i (if fnUp (sk i s).fn s && !hostAllowed s then setErr SEC_ERR_IDE s else s)

/-- Writes one record at the ring's head. Its PHASE bit is written later, in ring order (R221, R378 step 5). -/
def putRecord (i : Nat) (ws : List W32) (s : State) : State :=
  let k := sk i s
  let n := k.ringHead.toNat % ringSize k
  let addr := k.ringAddr + n * 64
  if ringFails i s then ringLost i s
  else
  let s := hostWrite i k.fn addr (wordsBytes (withPhase (!k.ringPhase) ws)) s
  setSk i { k with
    ringHead := k.ringHead + 1
    ringPhase := if n + 1 = ringSize k then !k.ringPhase else k.ringPhase
    unset := k.unset ++ [(addr, wordsBytes ((withPhase k.ringPhase ws).take 1))] } s

/-- Sets the PHASE bits of a skein's records, in ring order. -/
def setPhases (i : Nat) (s : State) : State :=
  let k := sk i s
  if k.unset.isEmpty then s
  else if ringFails i s then ringLost i (setSk i { k with unset := [] } s)
  else
    let s := k.unset.foldl (fun s u => hostWrite i k.fn u.1 u.2 s) s
    { setSk i { k with unset := [] } s with ringFns := s.ringFns ||| BitVec.ofNat 16 (2 ^ k.fn) }

/-- Ring vectors, at most once per function per edge (R474). -/
def ringVectors (s : State) : State :=
  let fns := s.ringFns
  (List.range 16).foldl (fun s f => if fns.getLsbD f then sendMsi f (if f = 0 then 1 else 0) s else s)
    { s with ringFns := 0 }

/-- Word 0 of a record without PHASE. -/
def recWord0 (k : Skein) (kind count : Nat) (stopped narrow : Bool) : W32 :=
  BitVec.ofNat 32 (kind * 2 ^ 28 + count * 2 ^ 24 + k.gen.toNat * 256 + stopped.toNat * 2 + narrow.toNat)

def ascii (t : String) : List Byte := t.toList.map fun c => BitVec.ofNat 8 c.toNat

/-- The first 256 bits of a byte string as an AES key. -/
def keyOf (bs : List Byte) : BitVec 256 := BitVec.ofNat 256 (bytesToNat (bs.take 32))

/-- The request key K_r (R417). -/
def requestKey (tenant : BitVec 256) (req : List Byte) : BitVec 256 :=
  keyOf (Config.hkdf384 [] (natToBytes 32 tenant.toNat) (ascii "QK-C9 req" ++ req))

/-- Encrypts words 4 to 13 of a TOKENS record; words 0 to 3 as the record holds them, PHASE included, are the additional data
(R418). -/
def sealRecord (i : Nat) (ws : List W32) (pos : Nat) (s : State) : List W32 :=
  let k := sk i s
  match find? s.sec.tenantKeys k.tenant with
  | none => ws
  | some key =>
    let kr := requestKey key (k.reqId)
    let nonce : BitVec 96 := BitVec.ofNat 96 (1 + pos % 2 ^ 24 * 256)
    let (ct, tag) := Config.gcmSeal kr nonce (wordsBytes ((withPhase k.ringPhase ws).take 4)) (wordsBytes ((ws.drop 4).take 10))
    let word (bs : List Byte) (j : Nat) : W32 := BitVec.ofNat 32 (bytesToNat ((bs.drop (4 * j)).take 4))
    ws.take 4 ++ (List.range 10).map (word ct) ++ (List.range 2).map (word tag)

/-- The token records of a commit (R220): up to ten tokens each, the last one STOPPED when the skein stopped. -/
def tokenRecords (i : Nat) (step : W32) (narrow stopped : Bool) : Nat → Nat → List W32 → State → State
  | 0, _, _, s => s
  | _, _, [], s => s
  | f + 1, pos, ts, s =>
    let now := ts.take 10
    let rest := ts.drop 10
    let k := sk i s
    let ws := [recWord0 k 0 now.length (stopped && rest.isEmpty) narrow, BitVec.ofNat 32 (i * 2 ^ 14),
               BitVec.ofNat 32 pos, step] ++ now.map (· &&& 0x3FFFF) ++ List.replicate (12 - now.length) 0
    tokenRecords i step narrow stopped f (pos + now.length) rest (putRecord i (sealRecord i ws pos s) s)

/-- Writes the completion record when one is due and the ring has a free record (R216). -/
def writeCompletion (i : Nat) (s : State) : State :=
  let k := sk i s
  match k.due with
  | none => s
  | some c =>
    if ringFree k = 0 then s
    else
      let ws : List W32 :=
        [recWord0 k 1 0 false k.narrow, BitVec.ofNat 32 (i * 2 ^ 14), 0, (rd (WV_STEP k.ctx) s).setWidth 32,
         BitVec.ofNat 32 (c.status + c.cause * 256), BitVec.ofNat 32 k.length, BitVec.ofNat 32 k.outTokens,
         BitVec.ofNat 32 (k.narrowSteps + c.stopIndex * 256), 0, 0, 0, 0, 0, 0, 0, 0]
      modSk i (fun k => { k with due := none, recorded := true }) (putRecord i ws s)

/-! ### Leaving service (R215, R216, R360) -/

/-- The completion record of a FAULTED skein becomes due when the skein leaves service (R216). -/
def leaveFaulted (i : Nat) (s : State) : State :=
  let k := sk i s
  if k.state == .faulted && !k.left then
    writeCompletion i (setSk i { k with left := true, due := some { status := 3, cause := k.cause } } s)
  else s

/-- Releases shard directories on other packages (R209): a release to every shard over TC0. -/
def releaseShards (i : Nat) (s : State) : State :=
  let k := sk i s
  if k.shards1 = 0 then s
  else send (.shardRelease i k.gen) s

/-- A FAULTED skein leaves service at the fault of its context (R209, R215, R216): its shards are released, and its record
is whole at once. -/
def leaveInFault (i : Nat) (s : State) : State :=
  let k := sk i s
  if k.state == .faulted && !k.left then setPhases i (releaseShards i (leaveFaulted i s)) else s

/-- A skein leaves service at an edge of epoch e (R208, R209, R215). -/
def leaveAtEdge (i e : Nat) (s : State) : State :=
  let k := sk i s
  releaseShards i (if (find? s.kv.dirs k.dir).isSome && (dir k.dir s).skein == i then dropDir k.dir e s else s)

/-- A skein enters DONE at an edge of epoch e: completion record, then its KV is dropped (R215, R216). -/
def finishSkein (i e : Nat) (c : Completion) (s : State) : State :=
  let s := modSk i (fun k => { k with state := .done, left := true, due := some c }) s
  leaveAtEdge i e (writeCompletion i s)

/-- A CANCELLING skein completes (R223, R224). -/
def finishCancel (i e : Nat) (s : State) : State :=
  bump64 (SKN_CNT 3) 1 (finishSkein i e { status := 2, cause := 0 } s)

/-- A skein returns to FREE with its next generation (R214). -/
def freeSkein (i : Nat) (s : State) : State := setSk i { gen := (sk i s).gen + 1 } s

/-! ### Stop conditions (R222) -/

/-- Whether the last tokens of `hist` (newest last) equal `q`. -/
def endsWith (hist q : List W32) : Bool := q.length ≤ hist.length && hist.drop (hist.length - q.length) == q

/-- The first stop condition at a token: cause and stop index. `hist` holds the generated tokens up to this one. -/
def stopAt (st : StopSet) (hist : List W32) (tok : W32) (pos maxlen : Nat) : Option (Nat × Nat) :=
  match (List.range 16).find? fun j => let w := st.tokens.getD j 0xFFFFFFFF; w != 0xFFFFFFFF && w == tok with
  | some j => some (1, j)
  | none =>
    match (List.range 8).find? fun j => let q := st.seqs.getD j []; !q.isEmpty && endsWith hist q with
    | some j => some (2, 16 + j)
    | none => if pos + 1 = maxlen then some (3, 0) else none

/-- Tests tokens in order; the tokens kept and the condition met, if any. -/
def stopCut (st : StopSet) (maxlen : Nat) : List W32 → Nat → List W32 → List W32 × Option (Nat × Nat)
  | _, _, [] => ([], none)
  | hist, pos, t :: rest =>
    match stopAt st (hist ++ [t]) t pos maxlen with
    | some c => ([t], some c)
    | none => let (l, c) := stopCut st maxlen (hist ++ [t]) (pos + 1) rest; (t :: l, c)

/-- A stop set from its 1 KiB image (R222). -/
def parseStops (img : List W32) : StopSet :=
  { image := img
    tokens := img.take 16
    seqs := (List.range 8).map fun j =>
      let b := 16 + j * 17
      (img.drop (b + 1)).take (img.getD b 0).toNat }

/-! ### Hank budgets (R226) -/

def balance (t : Nat) (s : State) : Int := lookup s.hank 0 t

/-- A sum as BALANCE and its fraction hold it: 48 signed bits of tokens, 8 bits of fraction (log 113). -/
def hankWrap (x : Int) : Int := (BitVec.ofInt 56 x).toInt

/-- Adds 1/256 tokens to a tenant's balance, limited to CAP. -/
def hankAdd (t : Nat) (d : Int) (s : State) : State :=
  let cap : Int := fld (SKN_HANK_CAP_CAP t) s * 256
  { s with hank := put s.hank 0 t (hankWrap (min (balance t s + d) cap)) }

/-- Charges tokens at a commit. -/
def hankCharge (t n : Nat) (s : State) : State := { s with hank := put s.hank 0 t (hankWrap (balance t s - n * 256)) }

/-- Tenants with a rate or a balance. -/
def hankTenants (s : State) : List Nat :=
  let base := SKN_HANK_RATE 0
  ((s.regs.filter fun e => base ≤ e.1 && e.1 < base + 4096 * 16 && (e.1 - base) % 16 == 0).map fun e => (e.1 - base) / 16)
  ++ ((s.hank.map (·.1)).filter fun t => fld (SKN_HANK_RATE_RATE t) s == 0)

/-- The refill of one beat edge (R226). -/
def hankRefill (s : State) : State :=
  (hankTenants s).foldl (fun s t => hankAdd t (fld (SKN_HANK_RATE_RATE t) s) s) s

/-- The two copies of a mirrored structure are checked: one that fails is rewritten from the other (R145). Whether one was
rewritten, whether both fail, and the state. -/
def mirrorCheck (a b : Nat) (s : State) : Bool × Bool × State :=
  let fix (src dst : Nat) (s : State) : State :=
    setMeta dst {} (copyRange (src / 4096 * 4096) (dst / 4096 * 4096) 4096 s)
  match stapleOk a s, stapleOk b s with
  | true, true => (false, false, s)
  | true, false => (true, false, fix a b s)
  | false, true => (true, false, fix b a s)
  | false, false => (false, true, s)

/-- An access to a skein's entry finds its copies as they are (R212): a copy that fails is rewritten from the other; with
both failing the skein faults. -/
def tableRead (i : Nat) (s : State) : State :=
  let (fixed, lost, s) := mirrorCheck (skStaple 0 i) (skStaple 4 i) s
  if lost then faultSkein i fcKv s else if fixed then setErr SKN_ERR_TABLE_CRC s else s

/-- Address of stop set n, context × 256 + set, in a copy (R222). -/
def stopAddr (a n : Nat) : Nat := sysArea a + 0x05000000 + n * 1024

/-- The stop test of skein i reads its set: a copy that fails is rewritten from the other; with both failing the skein
faults, as for its table entry (R145, R212). -/
def readStops (i : Nat) (s : State) : State :=
  let k := sk i s
  if k.stopSet = 0 || !(k.state == .prefill || k.state == .decode) then s
  else
    let n := k.ctx * 256 + k.stopSet
    let (_, lost, s) := mirrorCheck (stopAddr 0 n) (stopAddr 4 n) s
    if lost then faultSkein i fcKv s else s

/-- Pausing and resuming at a context's step boundary (R226). -/
def pauseResume (c : Nat) (s : State) : State :=
  (skeinsOf c s).foldl (fun s i =>
    let s := tableRead i s
    let k := sk i s
    let low := balance k.tenant s ≤ 0
    match k.state with
    | .admitted | .prefill | .decode =>
      if low then bump64 (SKN_CNT 5) 1 (setSk i { k with state := .paused } s) else s
    | .paused =>
      if low then bump64 (SKN_CNT 5) 1 s
      else setSk i { k with state :=
        if k.promptPos = 0 then .admitted else if k.promptPos < k.promptLen then .prefill else .decode } s
    | _ => s) s

/-! ### Batch formation (R225, R202, R203) -/

/-- (deadline − beat) mod 2^40 read as signed; none for a skein without a deadline. -/
def deadlineKey (k : Skein) (s : State) : Option Int :=
  if k.deadline = noDeadline then none
  else
    let d : Int := (((k.deadline : Int) - beat s) % 2 ^ 40 + 2 ^ 40) % 2 ^ 40
    some (if d ≥ 2 ^ 39 then d - 2 ^ 40 else d)

/-- The order of candidates: priority descending, deadline key ascending (none last), ADMIT ascending, index. -/
def candBefore (s : State) (i j : Nat) : Bool :=
  let a := sk i s
  let b := sk j s
  if a.prio != b.prio then a.prio > b.prio
  else
    let dk (x y : Option Int) : Int := match x, y with
      | none, none => 0
      | none, some _ => 1
      | some _, none => -1
      | some x, some y => x - y
    let d := dk (deadlineKey a s) (deadlineKey b s)
    if d != 0 then d < 0
    else if a.admitBeat != b.admitBeat then a.admitBeat < b.admitBeat
    else i < j

/-- Inserts by an order. -/
def insertBy {α : Type} (lt : α → α → Bool) (a : α) : List α → List α
  | [] => [a]
  | b :: rest => if lt a b then a :: b :: rest else b :: insertBy lt a rest

/-- Stable insertion sort. -/
def sortBy {α : Type} (lt : α → α → Bool) : List α → List α
  | [] => []
  | a :: rest => insertBy lt a (sortBy lt rest)

/-- Whether the batch former may take the skein (R219, R221, R225, R448). -/
def candidate (c i : Nat) (s : State) : Bool :=
  let k := sk i s
  k.ctx == c && (k.state == .admitted || k.state == .prefill || k.state == .decode) &&
  !fullWaits k.dir s && fnUp k.fn s && (k.state == .decode || !k.staged.isEmpty)

/-- Held back by R221: fewer than 8 free records. -/
def ringHeld (i : Nat) (s : State) : Bool := ringFree (sk i s) < 8

def candidates (c : Nat) (s : State) : List Nat :=
  sortBy (candBefore s) ((skeinsOf c s).filter fun i => candidate c i s && !ringHeld i s)

/-- Drafts of a decode skein: SKN_CTX_RANGE.DRAFTS cut by R203. -/
def draftsOf (c i : Nat) (s : State) : Nat :=
  let k := sk i s
  let fill := ((openBob (dir k.dir s)).map (·.fill)).getD 0
  min (min (fld (SKN_CTX_RANGE_DRAFTS c) s) 64) (min (k.maxlen - k.length - 1) (319 - fill))

/-- Tokens of a slice that fall into pages of this package (R209). -/
def localTokens (d : Dir) (length n : Nat) : Nat := (length + n) - max length (256 * d.firstPage)

/-- Takes page frames for local pages u .. u+n−1 until one is missing. -/
def takePages (h : Nat) : Nat → Nat → State → List (Nat × Nat × Nat) × State
  | 0, _, s => ([], s)
  | n + 1, u, s =>
    let d := dir h s
    match allocPage d.ctx (placeAtoll d u) d.cls s with
    | none => ([], s)
    | some (f, s) => let (l, s) := takePages h n (u + 1) s; ((u, placeAtoll d u, f) :: l, s)

/-- Fits a prefill slice of at most n local tokens to the open bobbin and the frames (R202): tokens, page frames, the
bobbin for the remaining tokens. A slice is shortened before frames are reserved. A sequence without a KV descriptor
holds no frames (log 35). -/
def fitSlice (h n : Nat) (s : State) : Nat × List (Nat × Nat × Nat) × Option (Nat × Nat × Nat) × State :=
  let d := dir h s
  if d.atolls.isEmpty then (n, [], none, s)
  else match openBob d with
  | none => (0, [], none, s)
  | some b =>
    if b.fill + n < 256 then (n, [], none, s)
    else if !slotFree d then (min n (255 - b.fill), [], none, s)
    else
      let whole := (n - (256 - b.fill)) / 256
      let u := b.basePage + 1 - d.firstPage
      -- the largest number of whole pages whose frames, and the successor's two frames, exist
      let fits (w : Nat) : Option (List (Nat × Nat × Nat) × (Nat × Nat × Nat) × State) :=
        let (l, s1) := takePages h w u s
        if l.length < w then none
        else
          let a := placeAtoll d (u + w)
          match allocPage d.ctx a d.cls s1 with
          | none => none
          | some (pg, s2) =>
            match allocBobbin d.ctx a d.cls s2 with
            | none => none
            | some (fr, s3) => some (l, (a, fr, pg), s3)
      let rec tryDown : Nat → Option (Nat × List (Nat × Nat × Nat) × (Nat × Nat × Nat) × State)
        | 0 => (fits 0).map fun x => (0, x)
        | w + 1 => match fits (w + 1) with
          | some x => some (w + 1, x)
          | none => tryDown w
      match tryDown whole with
      | some (w, l, b', s) =>
        (if w = whole then n else 256 - b.fill + w * 256 + 255, l, some b', s)
      | none => (255 - b.fill, [], none, s)

/-- Accumulates the batch in candidate order (R225): rows and prefill tokens so far, the picks, the state. -/
def pickBatch (c maxRows maxPtok : Nat) : List Nat → Nat → Nat → List BatchSk → State → List BatchSk × State
  | [], _, _, acc, s => (acc, s)
  | i :: rest, rows, ptok, acc, s =>
    let k := sk i s
    if k.state == .decode then
      let dr := draftsOf c i s
      if rows + 1 + dr > maxRows then pickBatch c maxRows maxPtok rest rows ptok acc s
      else
        pickBatch c maxRows maxPtok rest (rows + 1 + dr) ptok
          (acc ++ [{ skein := i, prefill := false, row := 0, rows := 1 + dr, drafts := dr, base := k.length }]) s
    else
      let d := dir k.dir s
      let want := min (min (k.promptLen - k.promptPos) (maxPtok - ptok)) (min k.staged.length (k.maxlen - k.length))
      let loc := localTokens d k.length want
      let (n, fr, bb, s) := fitSlice k.dir loc s
      let slice := want - (loc - n)
      if slice = 0 then pickBatch c maxRows maxPtok rest rows ptok acc s
      else
        let s := setSk i { k with state := .prefill } s
        pickBatch c maxRows maxPtok rest rows (ptok + slice)
          (acc ++ [{ skein := i, prefill := true, row := 0, rows := slice, frames := fr, bobbin := bb, base := k.length,
                     tokens := k.staged.take slice }]) s

/-- Atoll that holds a skein's open bobbin. -/
def bobAtoll (i : Nat) (s : State) : Nat := ((openBob (dir (sk i s).dir s)).map (·.atoll)).getD 0

/-- Numbers the rows in order. -/
def numberRows : Nat → List BatchSk → List BatchSk
  | _, [] => []
  | r, b :: rest => { b with row := r } :: numberRows (r + b.rows) rest

/-- Orders a batch (R225): decode rows by atoll of the open bobbin, then prefill slices. -/
def orderBatch (s : State) (l : List BatchSk) : List BatchSk :=
  let dec := l.filter fun b => !b.prefill
  let byAtoll := (List.range 8).flatMap fun a => dec.filter fun b => bobAtoll b.skein s == a
  numberRows 0 (byAtoll ++ l.filter (·.prefill))

/-- Largest shape: the highest-numbered one (R105). -/
def largestShape (w : Weave) : Option Shape := w.shapes.getLast?

/-- Forms the next batch of a context (R225). -/
def formBatch (c : Nat) (s : State) : List BatchSk × State :=
  match largestShape (ctx c s).weave with
  | none => ([], s)
  | some sh =>
    let held := ((skeinsOf c s).filter fun i => candidate c i s && ringHeld i s).length
    let s := bump64 (SKN_CNT 6) held s
    let (l, s) := pickBatch c sh.maxRows sh.maxPtok (candidates c s) 0 0 [] s
    (orderBatch s l, s)

/-- The lowest-numbered shape that admits a batch (R105). -/
def selectShape (w : Weave) (l : List BatchSk) : Nat :=
  let rows := (l.filter fun b => !b.prefill).foldl (fun t b => t + b.rows) 0
  let ptok := (l.filter (·.prefill)).foldl (fun t b => t + b.rows) 0
  ((List.range w.shapes.length).find? fun i =>
    match w.shapes[i]? with
    | some sh => rows ≤ sh.maxRows && ptok ≤ sh.maxPtok
    | none => false).getD (w.shapes.length - 1)

end Sys2Proof.Machine
end

