-- ==== Sys2Proof/Machine/Ctx.lean ====
section
/-! DEFINITION. Machine/Ctx.lean: faulting and freeing a context (R347, R360 to R363). -/

namespace Sys2Proof.Machine

/-- Context fault causes (R361). -/
def cfThread : Nat := 1
def cfDead : Nat := 2
def cfMemory : Nat := 3
def cfBind : Nat := 4
def cfResource : Nat := 5
def cfSync : Nat := 6
def cfCard : Nat := 7
def cfReef : Nat := 8
def cfSampler : Nat := 9
def cfLagoon : Nat := 10
def cfSlip : Nat := 11
def cfTally : Nat := 12
def cfFerry : Nat := 13
def cfIntegrity : Nat := 14
def cfHaven : Nat := 15
def cfTeardown : Nat := 16

def setState (c st : Nat) (s : State) : State := setFld (CTX_STATE_STATE c) st s

def spn (n : Nat) (s : State) : Spn := lookup s.spns {} n
def setSpn (n : Nat) (x : Spn) (s : State) : State := { s with spns := put s.spns {} n x }
def modSpn (n : Nat) (f : Spn → Spn) (s : State) : State := setSpn n (f (spn n s)) s
def thread (n t : Nat) (s : State) : Thread := lookup (spn n s).threads {} t
def setThread (n t : Nat) (x : Thread) (s : State) : State :=
  modSpn n (fun p => { p with threads := put p.threads {} t x }) s

def chan (n : Nat) (s : State) : Channel := lookup s.chans {} n
def setChan (n : Nat) (x : Channel) (s : State) : State := { s with chans := put s.chans {} n x }
def modChan (n : Nat) (f : Channel → Channel) (s : State) : State := setChan n (f (chan n s)) s

/-- Physical channels a context owns. -/
def chansOf (c : Nat) (s : State) : List Nat :=
  (s.chans.filter fun x => match x.2.owner with | some (k, _) => k == c | none => false).map (·.1)

/-- The physical channel of a context-relative index (R333). -/
def chanAt (c i : Nat) (s : State) : Option Nat := (s.chans.find? fun x => x.2.owner == some (c, i)).map (·.1)

/-- The error capture of the CTX block (R366). -/
def ctxErr (f : FRef) (c : Nat) (s : State) : State := raiseErr f CTX_ERR_INFO [(CTX_ERR_INFO_CONTEXT, c)] s

/-- Removes a value once from a list. -/
def removeOnce (l : List Nat) (a : Nat) : List Nat :=
  match l with
  | [] => []
  | b :: rest => if b = a then rest else b :: removeOnce rest a

/-- Deregisters walks of a dispatch entry (R206). -/
def unwalk (d : Disp) (s : State) : State :=
  d.epochs.foldl (fun s e => modKv (fun v => { v with walkers := removeOnce v.walkers e.2 }) s) s

/-- Epochs that reads of KV by the threads of a context have registered (R206). -/
def walksOf (c : Nat) (s : State) : List Nat :=
  let of (l : List (Nat × Thread)) : List Nat := l.filterMap fun t => if t.2.ctx = c then t.2.walk else none
  s.spns.flatMap fun p => of p.2.threads ++ p.2.saved.flatMap fun b => of b.threads

/-- Threads, windows and locks of a context on the spindles, its reads of KV, and its waits at barriers: all cleared. -/
def clearSpindles (c : Nat) (s : State) : State :=
  let s := (walksOf c s).foldl (fun s e => modKv (fun v => { v with walkers := removeOnce v.walkers e }) s) s
  { s with
    bars := s.bars.map fun b => if b.2.ctx = c then (b.1, { b.2 with waiters := [] }) else b
    gld := { s.gld with
      stalled := s.gld.stalled.filter fun k => (thread (k / 8) (k % 8) s).ctx != c
      waiting := s.gld.waiting.filter fun o => o.ctx.toNat != c }
    spns := (s.spns.map fun p =>
      (p.1, { p.2 with
        threads := p.2.threads.filter fun t => t.2.ctx != c
        windows := p.2.windows.filter fun w => w.1.ctx.toNat != c
        locks := p.2.locks.filter fun w => w.1.ctx.toNat != c
        saved := p.2.saved.filter fun x => x.ctx != c
        stage := p.2.stage.filter fun x => x.ctx != c })).filter fun p => p.2 != {} }

/-- STATE codes of INT_STRIKES. -/
def phServing : Nat := 0

def phSpare : Nat := 1

def phWitness : Nat := 2

def phSounding : Nat := 3

def phWithheld : Nat := 4

def phRetired : Nat := 5

def phFused : Nat := 6

def phState (p : Nat) (s : State) : Nat := fld (INT_STRIKES_STATE p) s

def setPh (p st logical : Nat) (s : State) : State :=
  setFlds [(INT_STRIKES_STATE p, st), (INT_STRIKES_LOGICAL p, logical)] s

/-- The witness is free again. -/
def freeWitness (p : Nat) (s : State) : State :=
  if phState p s == phWitness then setFld (INT_STRIKES_STATE p) phSpare s else s

/-- The witnesses that replay suspects of a step which is abandoned are free again (R369). -/
def freeWitnesses (st : Step) (s : State) : State :=
  (st.lists.flatMap (·.2)).foldl (fun s d => match d.st, d.susp with
    | .suspect, some x => match x.witness, x.local_ with
      | some p, none => freeWitness p s
      | _, _ => s
    | _, _ => s) s

/-- Abandons the dispatch lists and results of the step in progress (R360, R374). Frames reserved for prefill slices
are held with epoch e. -/
def dropStep (c e : Nat) (s : State) : State :=
  let x := ctx c s
  let s := match x.step with
    | none => s
    | some st =>
      let s := freeWitnesses st s
      let s := st.lists.foldl (fun s l => l.2.foldl (fun s d => unwalk d s) s) s
      st.batch.foldl (fun s b => kvDiscard (sk b.skein s).dir b e s) s
  let s := x.next.foldl (fun s b => kvDiscard (sk b.skein s).dir b e s) s
  clearSpindles c (modCtx c (fun x => { x with step := none, next := [], priming := none })
    { s with reefHeld := s.reefHeld.filter fun h => h.ctx != c })

/-- The skein cause of a context cause (R360, step 4). -/
def skeinCause (cause : Nat) : Nat :=
  if cause = cfDead then fcDead else if cause = cfIntegrity then fcIntegrity
  else if cause = cfTeardown then fcTeardown else fcContext

/-- Room for n operations: threads that wait for it may issue again, in the order in which they came (R295). -/
def wakeStalled : Nat → State → State
  | 0, s => s
  | n + 1, s =>
    match s.gld.stalled with
    | [] => s
    | k :: rest =>
      let s := modGld (fun g => { g with stalled := rest }) s
      let th := thread (k / 8) (k % 8) s
      wakeStalled n (if th.state == .waitRemote && !th.recv && !th.fence then
        setThread (k / 8) (k % 8) { th with state := .ready } s else s)

/-- Completes a context's operations in flight with CANCELLED (R311, R360 step 3). Threads of other contexts that wait for
room to issue are ready again (R295). -/
def cancelOps (c : Nat) (s : State) : State :=
  let gone (l : Leave) : Bool := match l.kind with
    | .causeway t => s.gld.ops.any fun o => o.1 == t && o.2.ctx == c
    | _ => false
  let kept := s.gld.ops.filter fun o => o.2.ctx != c
  let s := { s with gld := { s.gld with ops := kept }
                    pwr := { s.pwr with held := s.pwr.held.filter fun l => !gone l
                                        queue := s.pwr.queue.filter fun l => !gone l } }
  wakeStalled (4096 - kept.length) s

/-- A context's operations in flight go on, and their responses are discarded (R374). -/
def dropOps (c : Nat) (s : State) : State :=
  modGld (fun g => { g with ops := g.ops.map fun o => if o.2.ctx = c then (o.1, { o.2 with owner := .dropped }) else o }) s

/-- Moves a context's channels to ABORTED (R344, R360 step 3). -/
def abortChans (c : Nat) (s : State) : State :=
  (chansOf c s).foldl (fun s n => modChan n (fun x =>
    { x with state := .aborted, active := none, shadow := none }) s) s

/-- The lagoons that context r leaves go to the contexts that wait for them: what was spilled there is to be restored, and the
others are resident at once (R356, R357, R359). -/
def lagoonsFreed (r : Nat) (ns : List Nat) (s : State) : State :=
  { s with ctxs := s.ctxs.map fun k =>
      let mine := (k.2.spillWait.filter fun p => p.2 == r && ns.contains p.1).map (·.1)
      let y := { k.2 with spillWait := k.2.spillWait.filter fun p => !(p.2 == r && ns.contains p.1) }
      if mine.isEmpty then k
      else if !(ctxLive k.1 s && y.granted) then (k.1, y)
      else (k.1, { y with restoreWait := y.restoreWait ++ mine.filter y.spilled.contains
                          resident := y.resident ++ mine.filter fun n => !y.spilled.contains n }) }

/-- Faults context c (R360). `spindle` is the logical spindle that raised the fault, if one did. -/
def faultCtx (c cause : Nat) (spindle : Option Nat) (s : State) : State :=
  if ctxLive c s then
    let s := dropStep c (kvEpoch s + 1) s
    let s := abortChans c (cancelOps c s)
    let s := (skeinsOf c s).foldl (fun s i =>
      leaveInFault i (if (sk i s).state == .done then s else faultSkein i (skeinCause cause) s)) s
    let s := lagoonsFreed c (ctx c s).resident s
    let s := modCtx c (fun x => { x with resident := [], spilled := [], restoreWait := [], spillers := [], chanBlock := []
                                         ran := false, granted := false, hold := false, replaying := false }) s
    let s := setFlds [(CTX_FAULT_SPINDLE c, spindle.getD 0x1FF), (CTX_FAULT_CAUSE c, cause)] s
    ctxErr CTX_ERR_FAULT c (setState c cxFaulted s)
  else s

/-- A memory access outside what is mapped or bound (R126, R132, R137): the issuing context faults. -/
def badAddr (c : Nat) (addr : Nat) (spindle : Option Nat) (s : State) : State :=
  faultCtx c cfMemory spindle (raiseLatch MEM_ERR_BAD_ADDR [(MEM_ERR_ADDR_STAPLE, addr / 4096)] s)

/-- The same for an access whose staple cannot be named, its region being unbound or too small: which staple MEM_ERR_ADDR
latches is open (log 40). -/
def badAddrOpen (c : Nat) (spindle : Option Nat) (s : State) : State :=
  let (v, s) := freeVal s
  badAddr c (v.toNat % 2 ^ 48) spindle s

/-- Lowers the BINDS count of a region (R133, R348). -/
def unbind (r : Nat) (s : State) : State := dropFld (MEM_RGN_CFG_BINDS r) s

/-- Clears a window's registration (R289). -/
def withdrawWindow (w : Nat) (s : State) : State :=
  setFld (GLD_WIN_CFG_VALID w) 0 { s with gld := { s.gld with draining := s.gld.draining.filter (· != w) } }

/-- Registered windows that satisfy a test. -/
def windowsWhere (p : Nat → Bool) (s : State) : List Nat :=
  let base := GLD_WIN_CFG 0
  ((s.regs.filter fun e => base ≤ e.1 && e.1 < base + 4096 * 0x20 && (e.1 - base) % 0x20 == 0).map
      fun e => (e.1 - base) / 0x20).filter
    fun w => bit (GLD_WIN_CFG_VALID w) s && p w

/-- Windows registered for a context. -/
def windowsOf (c : Nat) (s : State) : List Nat := windowsWhere (fun w => fld (GLD_WIN_CFG_CONTEXT w) s == c) s

/-- The steps of a teardown and its end in FREE (R362). -/
def finishTeardown (c : Nat) (s : State) : State :=
  let x := ctx c s
  let e := kvEpoch s + 1
  -- completion records, then KV; a skein whose record is dropped here waits for RETIRE (R216), the others are freed (R215)
  let mine := (skeinsOf c s).filter fun i => !(sk i s).lost
  let s := mine.foldl (fun s i =>
    let s := writeCompletion i (leaveInFault i s)
    let s := if (sk i s).due.isSome then
      modSk i (fun k => { k with due := none, lost := true }) (setErr SKN_ERR_COMPLETION_LOST s) else s
    setPhases i s) s
  let s := (dirsOf c s).foldl (fun s h => dropDir h e s) s
  let s := mine.foldl (fun s i => if (sk i s).lost then s else freeSkein i s) s
  let s := { s with bars := s.bars.filter fun b => b.2.ctx != c }
  let s := (chansOf c s).foldl (fun s n => setChan n {} s) s
  let s := (windowsOf c s).foldl (fun s w => withdrawWindow w s) s
  let s := setFld (GLD_MSG_RING_VALID c) 0 s
  let s := x.bound.foldl (fun s b => unbind b.2 s) s
  let s := x.spills.foldl (fun s r => unbind r s) s
  let s := zeroRegs ([WV_ID c, WV_STEP c, GAU_BUD_CFG c, GAU_BUD_GRANT c, GAU_BUD_USED c, GAU_PIN c, CTX_CMD c,
      CTX_STATE c] ++ (List.range 9).map (CTX_SET c) ++ (List.range 16).map (GAU_THR_SET c)) s
  let s := { s with
    gone := if x.starts.isEmpty then s.gone else s.gone ++ [(c, x.weave.set, x.starts)]
    digestPass := { s.digestPass with
    since := s.digestPass.since.map fun r => (r.1, r.2.filter fun x => x.1 != c)
    starts := s.digestPass.starts.filter fun x => x.1 != c } }
  setCtx c {} (wr (CTX_FAULT c) (rstVal (CTX_FAULT c)) s)

/-- A weave load is abandoned: its context returns to FREE, and its code is one the manual does not name (log 37). -/
def abandonLoad (s : State) : State :=
  if !s.load.active then s
  else
    let c := s.load.ctx
    let s := if !s.load.inUse && ctxState c s = cxLoading then setState c cxFree s else s
    let (v, s) := freeVal s
    setFlds [(WV_LOAD_STATUS_BUSY, 0), (WV_LOAD_STATUS_CODE, v.toNat % 256), (WV_LOAD_STATUS_SECTION, v.toNat / 256 % 256),
             (WV_LOAD_CTRL_START, 0), (TOP_IRQ_STATUS_WV_LOAD, 1)] { s with load := {} }

/-- Contexts that exist. -/
def existing (s : State) : List Nat := (List.range 64).filter fun c => ctxExists c s

/-- Faults every context that has a bound or spill region among `rs`, or satisfies `also`. -/
def faultUsers (rs : List Nat) (cause : Nat) (also : Nat → State → Bool) (s : State) : State :=
  (existing s).foldl (fun s c =>
    let x := ctx c s
    if (x.bound.any fun b => rs.contains b.2) || (x.spills.any fun r => rs.contains r) || also c s
    then faultCtx c cause none s else s) s

end Sys2Proof.Machine
end

