-- ==== Sys2Proof/Machine/Cairn.lean ====
section
/-! DEFINITION. Machine/Cairn.lean: the cairn bank (R449 to R452). -/

namespace Sys2Proof.Machine

/-- Block offset of a CRN register. -/
def crnOff (o : Nat) : Nat := o - 0x20000

/-- Writes performed on the register with wear key `k`. -/
def wearOf (k : Nat) (s : State) : Nat := lookup s.wear 0 k

def wearLimit : Nat := 100000

/-- Counts a write of wear key `k`; refuses it when the register is worn (R449). `key` names a key store index. -/
def wearWrite (k : Nat) (key : Bool) (f : State → State) (s : State) : State :=
  if wearOf k s ≥ wearLimit then
    raiseLatch CRN_ERR_WORN [(CRN_ERR_ADDR_KEY, key.toNat), (CRN_ERR_ADDR_OFFSET, if key then (k - 0x7000) / 4 else k)] s
  else f { s with wear := put s.wear 0 k (wearOf k s + 1) }

/-- Writes a cairn register: a write equal to the current value is not performed (R449). -/
def crnPut (o : Nat) (v : W64) (s : State) : State :=
  if rd o s = v then s else wearWrite (crnOff o) false (wr o v) s

/-- CRN_STATUS (R452). -/
def crnStatus (s : State) : Nat :=
  let used := ((List.range 32).filter fun r => bit (CRN_RETIRE_VALID r) s).length
  let worn := (s.wear.filter fun w => w.2 ≥ wearLimit).length
  used * 2 ^ 16 + min worn 65535

/-- Fields of a cairn register that the driver may only clear: the VALID bit of CRN_EQ and CRN_RETIRE (R450). -/
def crnClearOnly (o : Nat) : Option Nat :=
  if 0x21000 ≤ o && o < 0x22000 then some 31 else if 0x22000 ≤ o && o < 0x22100 then some 63 else none

/-- The fields of a driver write that R450 does not allow, and the value that the rest leaves. -/
def crnAllowed (o : Nat) (old new : W64) : W64 × Bool :=
  match crnClearOnly o with
  | some b =>
    let m : W64 := BitVec.ofNat 64 (2 ^ b)
    ((old &&& ~~~m) ||| (old &&& new &&& m), ((old ^^^ new) &&& ~~~m) != 0 || (new &&& ~~~old &&& m) != 0)
  | none => if 0x20200 ≤ o && o < 0x20220 && new != 0 && new != old then (old, true) else (new, false)

/-- A driver write of a mapped cairn register (R449, R450). -/
def crnWrite (o : Nat) (v : W64) (s : State) : State :=
  let w := written o v s
  let (v, bad) := crnAllowed o (rd o s) w.1
  let s := if bad then raiseLatch CRN_ERR_ACCESS [(CRN_ERR_ADDR_KEY, 0), (CRN_ERR_ADDR_OFFSET, crnOff o)] s else s
  crnPut o v (rsvEnc w.2 s)

/-- The tally is LOCKED (R122). -/
def tallyLocked (s : State) : Bool := fld BT_STATUS_LOCK s == 2

/-- Writes a retirement record for physical spindle p = die × 152 + number (R375, R376, R451). -/
def retire (p cause : Nat) (s : State) : State :=
  match (List.range 32).find? fun r => !bit (CRN_RETIRE_VALID r) s with
  | none => setErr CRN_ERR_RETIRE_FULL s
  | some r =>
    let b := if tallyLocked s then beat s % 2 ^ 32 else 0
    crnPut (CRN_RETIRE r)
      (BitVec.ofNat 64 (2 ^ 63 + p / 152 * 2 ^ 62 + p % 152 * 2 ^ 54 + cause * 2 ^ 50 + b)) s

/-- Physical spindles named by a retirement record. -/
def retired (s : State) : List Nat :=
  ((List.range 32).filter fun r => bit (CRN_RETIRE_VALID r) s).map
    fun r => fld (CRN_RETIRE_DIE r) s * 152 + fld (CRN_RETIRE_PHYS r) s

end Sys2Proof.Machine
end

