-- ==== Sys2Proof/Machine/Integ.lean ====
section
/-! DEFINITION. Machine/Integ.lean: physical spindles and spares, strikes, fences, soundings, taint events and the taint
log (R85 to R87, R372 to R376, R381, R382). -/

namespace Sys2Proof.Machine

/-! ### Physical spindles (R85, R383) -/

/-- No logical number. -/
def noLogical : Nat := 0x1FF

/-- The physical spindle that serves logical number n. -/
def physOf (n : Nat) (s : State) : Option Nat :=
  (List.range 304).find? fun p => fld (INT_STRIKES_LOGICAL p) s == n && phState p s == phServing

/-- Physical spindles of a die in a state, in ascending order. -/
def physIn (d st : Nat) (s : State) : List Nat :=
  ((List.range 152).map (d * 152 + ·)).filter fun p => phState p s == st

/-- Free spares of a die. -/
def spares (d : Nat) (s : State) : List Nat := physIn d phSpare s

/-- Whether the package has a spindle that serves no logical number and is not lost (R369: no spares at all). -/
def hasSpares (s : State) : Bool :=
  (List.range 304).any fun p => phState p s == phSpare || phState p s == phWitness

/-- Enabled logical numbers that no physical spindle serves and none is pending for (R86). -/
def unservedNum (n : Nat) (s : State) : Bool := (physOf n s).isNone

/-- Maps a die at bring-up (R85): `bad` are physical spindles that failed. -/
def mapDie (d : Nat) (bad : List Nat) (s : State) : State :=
  let per := numSpindles s / 2
  let step (acc : Nat × State) (p : Nat) : Nat × State :=
    let (n, s) := acc
    if s.fuse.spindlesOff.contains p then (n, setPh p phFused noLogical s)
    else if bad.contains p || (retired s).contains p then (n, setPh p phRetired noLogical s)
    else if n < per then (n + 1, setPh p phServing (d * per + n) s)
    else if n < per + 8 then (n + 1, setPh p phSpare noLogical s)
    else (n, setPh p phFused noLogical s)
  (((List.range 152).map (d * 152 + ·)).foldl step (0, s)).2

/-- Spares, variant and logical mapping of both dies. -/
def mapSpindles (bad : List Nat) (s : State) : State := mapDie 1 bad (mapDie 0 bad s)

/-! ### The INT error capture (R384) -/

def intErr (f : FRef) (c slot : Nat) (s : State) : State :=
  raiseErr f INT_ERR_INFO [(INT_ERR_INFO_CONTEXT, c), (INT_ERR_INFO_SLOT, slot)] s

/-! ### The taint log (R381) -/

def taintCap : Nat := 6291456
def taintBase (a : Nat) : Nat := sysArea a + 0x06000000

/-- Records written since power-up. -/
def taintCount (s : State) : Nat := fld INT_TAINT_STATUS_WRAPS s * taintCap + fld INT_TAINT_STATUS_HEAD s

/-- The taint record of the first step of event e: as it stood when the event opened, or as it has been written since. -/
def taintFirstAt (e : Nat) (s : State) : Option Nat :=
  match find? s.taintAt e with
  | some i => some i
  | none => find? (ctx (fld (INT_TAINT_INFO_CONTEXT e) s) s).logged (fld (INT_TAINT_EVT_FIRST_STEP e) s)

/-- LOSS of the open events whose first step the log no longer holds (R382). -/
def markLoss (s : State) : State :=
  (List.range 16).foldl (fun s e =>
    let lost : Bool := bit (INT_TAINT_INFO_VALID e) s && match taintFirstAt e s with
      | some i => taintCount s > i + taintCap
      | none => false
    if lost then setFld (INT_TAINT_INFO_LOSS e) 1 s else s) s

/-- Appends a 16-byte record, mirrored in atoll 4; a copy whose check fails is first rewritten from the other (R145, R381). -/
def taintAppend (ws : List W32) (s : State) : State :=
  let h := fld INT_TAINT_STATUS_HEAD s
  let bs := ws.flatMap fun w => natToBytes 4 w.toNat
  let (_, lost, s) := mirrorCheck (taintBase 0 + h * 16) (taintBase 4 + h * 16) s
  let write (a : Nat) (s : State) : State := if lost then wrBytes a bs s else wrSound a bs s
  let s := write (taintBase 4 + h * 16) (write (taintBase 0 + h * 16) s)
  markLoss (if h + 1 = taintCap then
      setFlds [(INT_TAINT_STATUS_HEAD, 0), (INT_TAINT_STATUS_WRAPS, fld INT_TAINT_STATUS_WRAPS s + 1)] s
    else setFld INT_TAINT_STATUS_HEAD (h + 1) s)

/-! ### Taint events (R382) -/

/-- The step number of the last step of c that has started; none before the first. -/
def lastStarted (c : Nat) (s : State) : Option Nat :=
  let n := (rd (WV_STEP c) s).toNat
  if (ctx c s).step.isSome then some n else if n = 0 then none else some (n - 1)

/-- The number of the first step of c that starts after this moment. -/
def nextStart (c : Nat) (s : State) : Nat :=
  (rd (WV_STEP c) s).toNat + ((ctx c s).step.isSome).toNat

/-- Opens an event for context c and steps first..last. -/
def openTaint (cause c first last source : Nat) (s : State) : State :=
  match (List.range 16).find? fun e => !bit (INT_TAINT_INFO_VALID e) s with
  | none => intErr INT_ERR_EVT_OVERFLOW c 0 s
  | some e =>
    let at_ := find? (ctx c s).logged first
    let loss : Bool := match at_ with
      | some i => taintCount s > i + taintCap
      | none => false
    let s := { s with taintAt := match at_ with
      | some i => ins s.taintAt e i
      | none => del s.taintAt e }
    setFlds [(INT_TAINT_EVT_FIRST_STEP e, first), (INT_TAINT_EVT_LAST_STEP e, last), (INT_TAINT_INFO_CAUSE e, cause),
             (INT_TAINT_INFO_LOSS e, loss.toNat), (INT_TAINT_INFO_CONTEXT e, c), (INT_TAINT_INFO_SOURCE e, source),
             (INT_TAINT_INFO_VALID e, 1)] s

/-- Opens an event from step `first` up to the last step that has started; a range without a step opens none (log 26). -/
def openTaintFrom (cause c first source : Nat) (s : State) : State :=
  match lastStarted c s with
  | none => s
  | some l => if first ≤ l then openTaint cause c first l source s else s

/-! ### Strikes (R372) -/

/-- Starts the first sounding that is ready, if none runs: its spindle shows SOUNDING. -/
def soundNext (s : State) : State :=
  match s.sounds.find? (·.ready) with
  | none => setFlds [(INT_STATUS_SOUND_BUSY, 0), (INT_SOUND_STATUS_BUSY, (!s.sounds.isEmpty).toNat)] s
  | some x =>
    let s := { s with sounds := x :: s.sounds.erase x }
    let s := if bit INT_STATUS_SOUND_BUSY s then s else bump64 (INT_CNT 10) 1 s
    let s := setFlds [(INT_STATUS_SOUND_BUSY, 1), (INT_SOUND_STATUS_BUSY, 1)] s
    if x.kind = 0 then setFld (INT_STRIKES_STATE x.unit) phSounding s else s

/-- Whether a sounding of physical spindle p runs or waits. -/
def soundPending (p : Nat) (s : State) : Bool := s.sounds.any fun x => x.kind == 0 && x.unit == p

/-- Schedules a sounding. -/
def schedule (x : Sound) (s : State) : State :=
  if x.kind == 0 && soundPending x.unit s then s
  else
    let s := { s with sounds := s.sounds ++ [x] }
    if bit INT_STATUS_SOUND_BUSY s then s else soundNext s

/-- Fences logical number n (R373): STRIKES 1, HANG 2, DRIVER 3. Its physical spindle is sounded after the edge. -/
def fence (n cause : Nat) (s : State) : State :=
  match physOf n s with
  | none => s
  | some p =>
    if (spn n s).fence.isSome then s
    else
      let s := bump64 (INT_CNT 8) 1 (modSpn n (fun x => { x with fence := some cause }) s)
      schedule { kind := 0, unit := p, cause := cause, logical := some n, ready := false } s

/-- Gives physical spindle p a strike (R372). -/
def strike (p : Nat) (s : State) : State :=
  let l := lookup s.strikes [] p ++ [beat s]
  let s := bump64 (INT_CNT 7) 1 { s with strikes := put s.strikes [] p l }
  let s := setFld (INT_STRIKES_COUNT p) (min l.length 15) s
  if l.length ≥ fld INT_STRIKE_CFG_LIMIT s then
    let st := phState p s
    if st == phServing then fence (fld (INT_STRIKES_LOGICAL p) s) 1 s
    else if st == phSpare || st == phWitness then
      schedule { kind := 0, unit := p, cause := 8 } (setFld (INT_STRIKES_STATE p) phWithheld s)
    else s
  else s

/-- Expires the strikes of p that were given WIN_BEATS beats ago (R372). -/
def strikeExpire (p : Nat) (s : State) : State :=
  let l := (lookup s.strikes [] p).filter fun b => beat s < b + fld INT_STRIKE_CFG_WIN_BEATS s
  setFld (INT_STRIKES_COUNT p) (min l.length 15) { s with strikes := put s.strikes [] p l }

/-! ### Fences at a beat edge (R373 to R375) -/

/-- Contexts whose spindle set contains n. -/
def ctxsOn (n : Nat) (s : State) : List Nat :=
  (existing s).filter fun c => (ctx c s).weave.set.contains n

/-- The steps of contexts whose set contains n, existing or torn down, that started within WIN_BEATS before this edge: context,
first and last step (R382). -/
def taintSpan (n : Nat) (s : State) : List (Nat × Nat × Nat) :=
  let from_ := beat s - fld INT_STRIKE_CFG_WIN_BEATS s
  let all := ((ctxsOn n s).map fun c => (c, (ctx c s).starts)) ++
    (s.gone.filter fun g => g.2.1.contains n).map fun g => (g.1, g.2.2)
  all.filterMap fun x =>
    let ran := x.2.filter fun t => from_ < t.2 && t.2 ≤ beat s
    match ran.head?, ran.getLast? with
    | some a, some b => some (x.1, a.1, b.1)
    | _, _ => none

/-- Takes the fence of logical number n at a beat edge: a spare serves the number from now on, or it is UNSERVED. -/
def takeFence (n cause : Nat) (s : State) : State :=
  let s := modSpn n (fun x => { x with fence := none }) s
  let s := if s.fenceGo == some n then setFld INT_FENCE_GO 0 { s with fenceGo := none } else s
  match physOf n s with
  | none => s
  | some p =>
    match spares (p / 152) s with
    | q :: _ =>
      let s := setPh q phServing n (setPh p phWithheld noLogical s)
      let s := { s with
        sounds := s.sounds.map fun x =>
          if x.kind = 0 && x.unit = p then { x with ready := true, taint := taintSpan n s } else x }
      let ask := ((ctxsOn n s).filter fun c => (ctx c s).step.isSome).foldl (fun m c => m ||| 2 ^ c) 0
      soundNext { s with replayAsk := s.replayAsk ||| BitVec.ofNat 64 ask }
    | [] =>
      let s := setPh p phRetired noLogical { s with sounds := s.sounds.filter fun x => !(x.kind == 0 && x.unit == p) }
      soundNext (intErr INT_ERR_UNSERVED ((ctxsOn n s).headD 0) 0 (retire p cause s))

/-- Takes every fence that is pending, in ascending logical number; then the contexts of numbers that became UNSERVED fault, in
ascending order (R366, R375). -/
def takeFences (s : State) : State :=
  let (ns, s) := s.spns.foldl (fun (acc : List Nat × State) p => match p.2.fence, physOf p.1 acc.2 with
    | some k, some q => (if (spares (q / 152) acc.2).isEmpty then acc.1 ++ [p.1] else acc.1, takeFence p.1 k acc.2)
    | some k, none => (acc.1, takeFence p.1 k acc.2)
    | none, _ => acc) ([], s)
  (existing s).foldl (fun s c =>
    match ns.find? fun n => (ctx c s).weave.set.contains n with
    | some n => faultCtx c cfIntegrity (some n) s
    | none => s) s

/-! ### Soundings (R376) -/

/-- A write of INT_SOUND_CMD with GO and no reserved encoding. -/
def soundCmd (s : State) : State :=
  let s := setFld INT_SOUND_CMD_GO 0 s
  if bit INT_STATUS_SOUND_BUSY s then s
  else
    let k := fld INT_SOUND_CMD_KIND s
    let u := fld INT_SOUND_CMD_UNIT s
    let refuse (s : State) : State := setFlds [(INT_SOUND_STATUS_RESULT, 3), (INT_SOUND_STATUS_BLOCK, 0)] s
    let clear (s : State) : State := setFlds [(INT_SOUND_STATUS_RESULT, 0), (INT_SOUND_STATUS_BLOCK, 0)] s
    if k = 0 then
      if u ≥ 152 then s
      else
        let p := fld INT_SOUND_CMD_DIE s * 152 + u
        let st := phState p s
        if st == phRetired || st == phFused then refuse s
        else if st == phServing then
          let s := fence (fld (INT_STRIKES_LOGICAL p) s) 3 (clear s)
          setFld INT_SOUND_STATUS_BUSY 1 s
        else schedule { kind := 0, unit := p, cause := 8 } (clear s)
    else if k ≤ 3 then
      if anyCtx s || (k = 1 && !atollHere s u) then refuse s
      else schedule { kind := k, unit := u, cause := 8 } (clear s)
    else s

/-- The sounding that runs ends (R376). -/
def soundDone (pass : Bool) (block : Nat) (s : State) : State :=
  if !bit INT_STATUS_SOUND_BUSY s then s
  else
    match s.sounds with
    | [] => s
    | x :: rest =>
      let s := setFlds [(INT_SOUND_STATUS_RESULT, if pass then 1 else 2), (INT_SOUND_STATUS_BLOCK, if pass then 0 else block),
                        (INT_STATUS_SOUND_BUSY, 0)] { s with sounds := rest }
      let s :=
        if x.kind != 0 then s
        else if pass then
          setFld (INT_STRIKES_COUNT x.unit) 0 (setPh x.unit phSpare noLogical { s with strikes := del s.strikes x.unit })
        else
          let s := retire x.unit x.cause (setPh x.unit phRetired noLogical s)
          x.taint.foldl (fun s t => openTaint 3 t.1 t.2.1 t.2.2 x.unit s) s
      soundNext s

/-! ### Live registers -/

/-- INT_STATUS as a read returns it; before SELFTEST has mapped the spindles no number is UNSERVED. -/
def intStatus (s : State) : Nat :=
  let un := if s.boot.tested then ((List.range (numSpindles s)).filter fun n => unservedNum n s).length else 0
  (bit INT_STATUS_SOUND_BUSY s).toNat * 2 ^ 31 + un * 2 ^ 16 + (spares 1 s).length * 2 ^ 12 + (spares 0 s).length * 2 ^ 8 +
    ((List.range 304).filter fun p => phState p s == phWitness).length

/-- The context that owns logical spindle n in the current beat: it is resident and runs (R354). -/
def ownerOf (n : Nat) (s : State) : Option Nat :=
  (existing s).find? fun c => (ctx c s).ran && (ctx c s).resident.contains n

/-- SPN_STATUS(n) as a read returns it (R88). -/
def spnStatus (n : Nat) (s : State) : Nat :=
  let p := physOf n s
  let d := dieOf s n
  let st := match p with
    | none => 2
    | some _ => if (spn n s).fence.isSome then 1 else 0
  let own := ownerOf n s
  let thr := (List.range 8).foldl (fun t i => t + if (thread n i s).state == .ready then 2 ^ i else 0) 0
  st * 2 ^ 30 + (spares d s).length * 2 ^ 26 + d * 2 ^ 25 + (match p with | some p => p % 152 | none => 0xFF) * 2 ^ 17 +
    own.isSome.toNat * 2 ^ 16 + own.getD 0 * 2 ^ 10 + thr * 4

end Sys2Proof.Machine
end

