-- ==== Sys2Proof/Machine/Pwr.lean ====
section
/-! DEFINITION. Machine/Pwr.lean: the power governor of chapter 15: caps, leave, operating points, bubbles, thermal
response, haven mode, and the loss of everything at power-off. -/

namespace Sys2Proof.Machine

def modPwr (f : Pwr → Pwr) (s : State) : State := { s with pwr := f s.pwr }

/-! ### Caps (R394) -/

/-- The part's power limit (R2). -/
def partLimit (s : State) : Nat := if s.fuse.code = 0 then 2800 else if s.fuse.code = 1 then 2000 else 2200
/-- BASE_W (R470). -/
def baseW (s : State) : Nat := if s.fuse.code = 0 then 1145 else if s.fuse.code = 1 then 1085 else 880

/-- CAP_EFF and its SOURCE (R394, R403). -/
def capEff (s : State) : Nat × Nat :=
  let h := fld PWR_CAP_HOST_WATTS s
  let b := fld PWR_CAP_BMC_WATTS s
  let m := (partLimit s, 0)
  let m := if h != 0 && h < m.1 then (h, 1) else m
  if b != 0 && b < m.1 then (b, 2) else m

/-- Power that leaves may use, in mW. -/
def room (s : State) : Nat := ((capEff s).1 - s.pwr.guardW) * 1000

def belowFloor (s : State) : Bool := (capEff s).1 < s.fuse.floorW

/-! ### Operating points (R390) -/

def vfWord (v : Nat) (s : State) : Nat := (s.fuse.vf.getD v 0).toNat
def pcoef (v : Nat) (s : State) : Nat := vfWord v s % 256
def freqMhz (v : Nat) (s : State) : Nat := vfWord v s / 2 ^ 20
def voltMv (v : Nat) (s : State) : Nat := vfWord v s / 512 % 2048

/-! ### Leave (R385 to R389) -/

/-- The baseline in mW (R386). -/
def baseline (s : State) : Nat :=
  match s.pwr.avg with
  | none => baseW s * 1000
  | some a => a - s.pwr.held.foldl (fun t l => t + l.avg) 0

def committed (s : State) : Nat := baseline s + s.pwr.held.foldl (fun t l => t + l.charge) 0

/-- The charge of a request (R387). -/
def chargeOf (k : LeaveKind) (peak : Nat) (s : State) : Nat :=
  match k with
  | .phase c p =>
    let h := lookup s.pwr.hist [] (c * 4096 + p)
    if h.length < 4 then peak
    else
      let best := h.foldl (fun b x => if x.1 > b.1 then x else b) (0, 23)
      let pm := pcoef best.2 s
      min peak (if pm = 0 then peak else 11 * best.1 * pcoef (fld PWR_STATUS_POINT s) s / (10 * pm))
  | _ => peak

def leaveRank : LeaveKind → Nat
  | .phase _ _ => 0 | .causeway _ => 1 | .swap => 2 | .scrub => 3

/-- The order in which waiting requests are served (R389). -/
def leaveBefore (s : State) (a b : Leave) : Bool :=
  match a.kind, b.kind with
  | .phase c _, .phase d _ =>
    let p := fld (CTX_CFG_PRIO c) s
    let q := fld (CTX_CFG_PRIO d) s
    if p != q then p > q else c < d
  | x, y => leaveRank x < leaveRank y

def holdsLeave (k : LeaveKind) (s : State) : Bool := s.pwr.held.any fun l => l.kind == k
/-- A leave that is held and not paused (R395). -/
def leaveActive (k : LeaveKind) (s : State) : Bool := s.pwr.held.any fun l => l.kind == k && !l.paused
def waitsLeave (k : LeaveKind) (s : State) : Bool := s.pwr.queue.any fun l => l.kind == k

/-- Clears a region's SEALED and forgets its digest (R134). -/
def clearSealed (r : Nat) (s : State) : State :=
  setFld (MEM_RGN_CFG_SEALED r) 0 { s with digests := del s.digests r }

/-- A granted swap list leaves LEAVE_WAIT, and its destinations lose SEALED (R142, R143). -/
def onGrant (k : LeaveKind) (s : State) : State :=
  match k with
  | .swap =>
    s.swap.pairs.foldl (fun s p => clearSealed p.2 s)
      (setFld MEM_SWAP_STATUS_LEAVE_WAIT 0 { s with swap := { s.swap with copying := true } })
  | _ => s

/-- Grants one request. -/
def grantLeave (l : Leave) (s : State) : State :=
  let s := modPwr (fun p => { p with queue := p.queue.filter (fun x => x.kind != l.kind)
                                     held := p.held ++ [{ l with charge := chargeOf l.kind l.peak s }] }) s
  onGrant l.kind (bump64 (PWR_CNT 0) 1 s)

/-- Serves the queue in order; `blocked` once a tensor phase did not fit (R389). -/
def serveQueue : List Leave → Bool → State → State
  | [], _, s => s
  | l :: rest, blocked, s =>
    if blocked && leaveRank l.kind != 0 then serveQueue rest blocked s
    else if committed s + chargeOf l.kind l.peak s ≤ room s then serveQueue rest blocked (grantLeave l s)
    else serveQueue rest (blocked || leaveRank l.kind == 0) s

/-- Ends a swap list (R142 to R144). -/
def endSwap (code : Nat) (s : State) : State :=
  let s := modPwr (fun p => { p with held := p.held.filter (fun l => l.kind != .swap)
                                     queue := p.queue.filter (fun l => l.kind != .swap) }) { s with swap := {} }
  setFlds [(MEM_SWAP_STATUS_BUSY, 0), (MEM_SWAP_STATUS_LEAVE_WAIT, 0), (MEM_SWAP_STATUS_CODE, code),
           (MEM_SWAP_CTRL_START, 0), (TOP_IRQ_STATUS_MEM_SWAP, 1)] s

/-- Refuses every waiting request while CAP_EFF is below FLOOR_W (R396). Refused tensor phases are kept, to be requested again. -/
def refuseAll (s : State) : State :=
  if s.pwr.queue.isEmpty then s
  else
    let q := s.pwr.queue
    let isPhase (l : Leave) : Bool := leaveRank l.kind == 0
    let s := setErr PWR_ERR_LEAVE_REFUSED (bump64 (PWR_CNT 2) q.length (modPwr (fun p =>
      { p with queue := []
               refused := (p.refused.filter fun l => !q.any fun x => x.kind == l.kind) ++ q.filter isPhase }) s))
    let s := if q.any (fun l => l.kind == .swap) then endSwap 4 s else s
    -- causeway transfers complete RETRY_EXHAUSTED
    q.foldl (fun s l => match l.kind with
      | .causeway t => { s with gld := { s.gld with refused := s.gld.refused ++ [t] } }
      | _ => s) s

/-- COMMITTED and the queue as PWR_LEAVE reports them (R386, R403). -/
def reportLeave (s : State) : State :=
  setFlds [(PWR_LEAVE_COMMITTED_W, committed s / 1000), (PWR_LEAVE_WAITING, min s.pwr.queue.length 255)] s

/-- The governor's decision at a sample (R402: after every cap change of the sample): it refuses what waits below FLOOR_W, and
otherwise serves it, with the tensor phases that were refused requested again (R389, R396). -/
def settleLeave (s : State) : State :=
  reportLeave (if belowFloor s then refuseAll s
    else
      let s := modPwr (fun p => { p with queue := p.queue ++ p.refused.filter fun l => !p.queue.any fun x => x.kind == l.kind
                                         refused := [] }) s
      serveQueue (sortBy (leaveBefore s) s.pwr.queue) false s)

/-- Asks for leave, which the next sample decides; a request already waiting or held keeps its place. Peaks in mW. -/
def askLeave (k : LeaveKind) (peak : Nat) (s : State) : State :=
  if holdsLeave k s || waitsLeave k s then s
  else reportLeave (modPwr (fun p => { p with queue := p.queue ++ [{ kind := k, peak := peak }] }) s)

/-- Releases a leave; `done` marks a completed execution of a phase, which enters its history (R387). -/
def releaseLeave (k : LeaveKind) (done : Bool) (s : State) : State :=
  match s.pwr.held.find? fun l => l.kind == k with
  | none =>
    if waitsLeave k s || s.pwr.refused.any (fun l => l.kind == k) then
      reportLeave (modPwr (fun p => { p with queue := p.queue.filter fun l => l.kind != k
                                             refused := p.refused.filter fun l => l.kind != k }) s)
    else s
  | some l =>
    let s := modPwr (fun p => { p with held := p.held.filter fun x => x.kind != k }) s
    let s := match k with
      | .phase c p =>
        if done then modPwr (fun w =>
          let i := c * 4096 + p
          { w with hist := put w.hist [] i (((l.high, l.highPoint) :: lookup w.hist [] i).take 16) }) s
        else s
      | _ => s
    reportLeave s

/-- Releases every phase leave of a context that stops running (R388). -/
def releasePhases (c : Nat) (s : State) : State :=
  let other (l : Leave) : Bool := match l.kind with | .phase d _ => d != c | _ => true
  if s.pwr.held.all other && s.pwr.queue.all other && s.pwr.refused.all other then s
  else reportLeave (modPwr (fun p => { p with held := p.held.filter other, queue := p.queue.filter other
                                              refused := p.refused.filter other }) s)

/-- A context's histories are cleared at teardown (R387). -/
def clearHistory (c : Nat) (s : State) : State :=
  modPwr (fun p => { p with hist := p.hist.filter fun h => h.1 / 4096 != c }) (releasePhases c s)

/-- Whether COMMITTED fits under the cap. -/
def capFits (s : State) : Bool := committed s ≤ room s

/-- Paused leaves resume once COMMITTED fits again (R395); what a causeway transfer still had to send goes on. -/
def resumeLeaves (s : State) : State :=
  if capFits s && s.pwr.held.any (·.paused) then
    drainPort 256 6 (modPwr (fun p => { p with held := p.held.map fun l => { l with paused := false } }) s)
  else s

/-- After a change of CAP_EFF from `old` (R395): when it was lowered and COMMITTED does not fit, swap, scrub and causeway
leaves pause. The next sample serves or refuses what waits. -/
def capChanged (old : Nat) (s : State) : State :=
  let pause (l : Leave) : Leave := if leaveRank l.kind = 0 then l else { l with paused := true }
  let s := if (capEff s).1 < old && !capFits s then modPwr (fun p => { p with held := p.held.map pause }) s
    else resumeLeaves s
  reportLeave (setFld PWR_STATUS_BELOW_FLOOR (belowFloor s).toNat s)

/-! ### Bubbles and points (R391 to R393) -/

def ceilDiv (a b : Nat) : Nat := if b = 0 then 0 else (a + b - 1) / b

/-- b of R392. -/
def bubbles (s : State) : Nat := if belowFloor s then 63 else max s.pwr.capB (max s.pwr.droopB s.pwr.thermB)

/-- The highest point at or below POINT_MAX and the thermal limit whose projected power fits (R391); 0 when none
does, and while CAP_EFF is below FLOOR_W (R396). -/
def targetPoint (m : PowerIn) (s : State) : Nat :=
  if belowFloor s then 0
  else
    let cur := pcoef (fld PWR_STATUS_POINT s) s
    let top := min (fld PWR_CTRL_POINT_MAX s) s.pwr.allowed
    let fits (v : Nat) : Bool :=
      cur = 0 || (m.instW - m.spinW) * cur + m.spinW * pcoef v s ≤ ((capEff s).1 - s.pwr.guardW) * cur
    (((List.range (top + 1)).reverse).find? fits).getD 0

/-- Starts a step toward a target (R391). -/
def startStep (t : Nat) (s : State) : State :=
  setFld PWR_STATUS_STEPPING 1 (bump64 (PWR_CNT 4) 1 (modPwr (fun p => { p with stepTo := t, higherUs := 0 }) s))

/-- Takes the target of a sample `us` after the one before: down at once, up once this target has held for 1 ms (R391); a step
in progress goes on. -/
def takeTarget (us t : Nat) (s : State) : State :=
  let cur := fld PWR_STATUS_POINT s
  let old := fld PWR_STATUS_TARGET s
  let s := setFld PWR_STATUS_TARGET t s
  let s := modPwr (fun p => { p with
    higherUs := if t > cur && t == old && !bit PWR_STATUS_STEPPING s then p.higherUs + us else 0 }) s
  if bit PWR_STATUS_STEPPING s then s
  else if t < cur then startStep t s
  else if t > cur && s.pwr.higherUs ≥ 1000 then startStep t s
  else s

/-- The integral of a class in µJ. -/
def classUj (k : EnergyClass) (l : List (EnergyClass × Nat)) : Nat := ((l.find? fun x => x.1 == k).map (·.2)).getD 0

/-- Adds to the integral of a class. -/
def addUj (k : EnergyClass) (uj : Nat) (l : List (EnergyClass × Nat)) : List (EnergyClass × Nat) :=
  if l.any fun x => x.1 == k then l.map fun x => if x.1 == k then (k, x.2 + uj) else x else l ++ [(k, uj)]

/-- The measurements of a sample: energy, each class's integral, and the averages of the package and of each held leave over
the last 1 ms (R386, R387, R401, R403). -/
def takeMeasure (m : PowerIn) (s : State) : State :=
  let pt := fld PWR_STATUS_POINT s
  let uj := s.pwr.restUj + m.energyUj
  let s := wr PWR_ENERGY (BitVec.ofNat 64 ((rd PWR_ENERGY s).toNat + uj / 1000)) (setFld PWR_MEAS_INST_W m.instW s)
  modPwr (fun p => { p with
    restUj := uj % 1000
    classUj := m.classUj.foldl (fun l c => addUj c.1 c.2 l) p.classUj
    avg := if m.avgMsW = 0 then p.avg else some (m.avgMsW * 1000)
    held := (List.range p.held.length).filterMap fun i =>
      match p.held[i]? with
      | none => none
      | some l =>
        let (w, a) := ((m.leaveW.find? fun x => x.1 == i).map (·.2)).getD (0, 0)
        some { l with avg := a * 1000, high := max l.high (w * 1000)
                      highPoint := if w * 1000 > l.high then pt else l.highPoint } }) s

/-- PWR_GUARD and PWR_THERM_CFG take effect (R404). -/
def takeConfig (s : State) : State :=
  modPwr (fun p => { p with guardW := fld PWR_GUARD_WATTS s, throttleC := fld PWR_THERM_CFG_THROTTLE_C s
                            atollC := fld PWR_THERM_CFG_ATOLL_THROTTLE_C s }) s

/-- One 1 µs sample of the governor (R391, R392, R393, R401). -/
def powerSample (m : PowerIn) (s : State) : State :=
  let us := max 1 (m.elapsedNs / 1000)
  let s := takeConfig s
  -- what ran under the level of the last sample is counted before the level changes
  let s := bump64 (PWR_CNT 5) (if bubbles s = 0 then 0 else m.elapsedNs * bubbles s / 64) s
  let s := bump64 (PWR_CNT 6) (if s.pwr.throttling || s.pwr.throttlingBase then m.elapsedNs else 0) s
  let s := takeMeasure m s
  let s := modPwr (fun p => { p with queue := p.queue.map fun l => { l with waited := l.waited + us } }) s
  let late := s.pwr.queue.filter fun l => l.waited ≥ 10000 && !l.counted
  let s := bump64 (PWR_CNT 1) late.length (modPwr (fun p => { p with
    queue := p.queue.map fun l => if l.waited ≥ 10000 then { l with counted := true } else l }) s)
  let lim := (capEff s).1 - s.pwr.guardW
  let s := modPwr (fun p => { p with
    capB := if m.instW > lim then min 63 (ceilDiv (64 * (m.instW - lim)) m.spinW) else p.capB - us
    droopHold := p.droopHold - us
    droopB := if p.droopDies.isEmpty && p.droopHold = 0 then p.droopB - 8 * us else p.droopB }) s
  let s := settleLeave (resumeLeaves (setFld PWR_STATUS_BELOW_FLOOR (belowFloor s).toNat s))
  let s := takeTarget us (targetPoint m s) s
  setFlds [(PWR_STATUS_BUBBLES, bubbles s), (PWR_STATUS_DROOP, (s.pwr.droopB != 0).toNat)] s

/-- A V/F step ends (R391). -/
def vfStepEnd (s : State) : State :=
  if bit PWR_STATUS_STEPPING s then
    let s := setFlds [(PWR_STATUS_POINT, s.pwr.stepTo), (PWR_STATUS_STEPPING, 0)] s
    let t := fld PWR_STATUS_TARGET s
    if t < s.pwr.stepTo then startStep t s else s
  else s

/-- A droop alarm of a die starts or ends (R393). -/
def droop (die : Bool) (mv : Nat) (active : Bool) (s : State) : State :=
  let s :=
    if active then
      bump64 (PWR_CNT 3) (if s.pwr.droopDies.contains die then 0 else 1)
        (modPwr (fun p => { p with droopDies := addOnce p.droopDies die
                                   droopB := max p.droopB (min 63 (8 * ceilDiv mv 10)) }) s)
    else modPwr (fun p => { p with droopDies := p.droopDies.filter (· != die), droopHold := 2 }) s
  setFlds [(PWR_STATUS_BUBBLES, bubbles s), (PWR_STATUS_DROOP, (s.pwr.droopB != 0).toNat)] s

/-! ### Power off (R427, R461, R466) -/

/-- Whether a BAR0 offset belongs to the cairn bank's mapped registers (R452). -/
def isCairn (o : Nat) : Bool := (0x20010 ≤ o && o < 0x20018) || (0x20100 ≤ o && o < 0x24000)

/-- Everything outside the cairn bank, the fuses, the connectors and the model's own records is lost. -/
def powerOff (s : State) : State :=
  { fuse := s.fuse, pins := { s.pins with pwrgd := false, havenLow := false }
    boot := { needReassert := s.boot.needReassert }
    regs := s.regs.filter fun e => isCairn e.1
    rdata := s.rdata, sent := s.sent, free := s.free, pending := s.pending
    sec := { slots := s.sec.slots, slotSeq := s.sec.slotSeq }, wear := s.wear }

/-! ### Haven mode (R399, R400) -/

/-- Clears a region's VALID, and with it SEALED (R134). -/
def invalidate (r : Nat) (s : State) : State :=
  clearSealed r (setFld (MEM_RGN_CFG_VALID r) 0 s)

/-- Valid regions that satisfy a test. -/
def regionsWhere (p : Region → Bool) (s : State) : List Nat :=
  (List.range 256).filter fun r => let g := region r s; g.valid && p g

/-- SPN and REEF registers take their reset values, counters and captures are lost (R476). -/
def diesReset (s : State) : State :=
  let p (o : Nat) : Bool := (0x200000 ≤ o && o < 0x300000) || 0x1000000 ≤ o
  { resetRegs p s with caps := s.caps.filter fun o => !p o }

/-- Requests waiting, in BRG_RETRAIN_STATUS. -/
def setQueued (s : State) : State := setFld BRG_RETRAIN_STATUS_QUEUED (min s.boot.retrainQ.length 255) s

/-- FAILED, RETRAIN and UP in MEM_STATUS: atoll or shoal fields of two bits. -/
def atollFld (a : Nat) : FRef := ⟨MEM_STATUS, 2 * a + 1, 2 * a⟩

/-- The atoll retrain in progress is abandoned (R441): the interface serves again. -/
def abandonAtoll (s : State) : State :=
  if bit BRG_RETRAIN_STATUS_ATOLL_BUSY s then
    setFlds [(BRG_RETRAIN_STATUS_ATOLL_BUSY, 0), (BRG_RETRAIN_STATUS_ATOLL, 0),
             (atollFld (fld BRG_RETRAIN_STATUS_ATOLL s), 0)] s
  else s

/-- Enters haven mode with a cause (R399): 1 CAP, 2 THERMAL, 3 DRIVER. -/
def enterHaven (cause : Nat) (s : State) : State :=
  if bit PWR_HAVEN_ACTIVE s || !s.boot.on then s
  else
    let s := abandonLoad ((existing s).foldl (fun s c => faultCtx c cfHaven none s) s)
    let s := if s.swap.active then endSwap 4 s else s
    let s := { s with digestPass := { s.digestPass with active := false } }
    let lost := regionsWhere (fun g => (shoalAt g.base).isSome && (g.kind == kHome || g.kind == kSpill)) s
    let s := lost.foldl (fun s r => invalidate r s) s
    let s := wipe (shoalBase 0) (4 * shoalSize) s
    let s := diesReset s
    let s := { s with spns := [], lagoonBad := [], mem := s.mem.filter (fun c => c.1 < lagoonBase 0)
                      -- atoll retrains are abandoned (R441); pair sessions are lost (R424)
                      boot := { s.boot with retrainQ := s.boot.retrainQ.filter (·.1 == 0)
                                            rails := s.boot.rails.filter fun r => r != .shoal && r != .spindles }
                      sec := { s.sec with pairs := [] } }
    let s := setQueued (abandonAtoll s)
    let s := (List.range 7).foldl (fun s p =>
      if portUpNow p s then flood (.portNotice (ownPos s) (fld (GLD_PORT_STATUS_ROLE p) s) false) s else s) s
    let s := setFlds [(PWR_HAVEN_ACTIVE, 1), (PWR_HAVEN_CAUSE, cause), (PWR_HAVEN_ENTER, 0), (PWR_STATUS_HAVEN, 1),
                      (BRG_STATUS_STAGE, stHaven), (SEC_OFFING_PAIRS_PAIRS, 0)] s
    let s := reportLeave (modPwr (fun p => { p with held := [], queue := [], refused := [] }) s)
    setErr PWR_ERR_HAVEN (bump64 (PWR_CNT 7) 1 { s with pins := { s.pins with havenLow := true } })

/-- Whether every junction is below THROTTLE_C − 10 °C and CAP_EFF reaches FLOOR_W (R400). -/
def exitAllowed (s : State) : Bool :=
  !belowFloor s && s.pwr.hottest < ((s.pwr.throttleC : Int) - 10) * 16

/-! ### Thermal (R397) -/

/-- A thermal trip (R397, R461). -/
def thermalTrip (s : State) : State :=
  let s := powerOff s
  { s with pins := { s.pins with thermTrip := true }, boot := { s.boot with needReassert := true } }

/-- The throttle of one sample: the allowed point falls by one each 50 µs from the sample at which the junctions, or the base
dies, reach their threshold to the one at which they are 3 °C below it, and rises by one per 1 ms after that. `hot` and `cool`
are those of the junctions and of the base dies. -/
def throttle (hot hotBase cool coolBase : Bool) (s : State) : State :=
  modPwr (fun p =>
    let p := { p with throttling := hot || (p.throttling && !cool)
                      throttlingBase := hotBase || (p.throttlingBase && !coolBase) }
    let was := s.pwr.throttling || s.pwr.throttlingBase
    let us := p.thermUs + 10
    if p.throttling || p.throttlingBase then
      if us ≥ 50 then { p with allowed := p.allowed - 1, thermUs := 0 } else { p with thermUs := us }
    else if p.allowed < 23 then
      if us ≥ 1000 then { p with allowed := p.allowed + 1, thermUs := 0 }
      else { p with thermUs := if was then 0 else us }
    else { p with thermUs := 0 }) s

/-- One thermal sample (R397). -/
def thermal (t : ThermIn) (s : State) : State :=
  let j := max t.die0 (max t.die1 t.harbour)
  if max j (max t.base (max t.inlet t.outlet)) ≥ 115 * 16 then thermalTrip s
  else
    let put (k : Nat) (v : Int) (s : State) : State :=
      setFlds [(PWR_TEMP_VALID k, 1), (PWR_TEMP_DEG k, (v % 65536).toNat)] s
    let s := put 0 t.die0 (put 1 t.die1 (put 2 t.harbour (put 3 t.base (put 4 t.inlet (put 5 t.outlet s)))))
    let thr : Int := s.pwr.throttleC * 16
    let athr : Int := s.pwr.atollC * 16
    let s := modPwr (fun p => { p with hottest := j, doubleRefresh := t.base > 85 * 16 }) s
    let s := throttle (j ≥ thr) (t.base ≥ athr) (j < thr - 48) (t.base < athr - 48) s
    let s := if j ≥ 105 * 16 then
        setErr PWR_ERR_THERM_LIMIT (modPwr (fun p => { p with thermB := 63, allowed := 0 }) s)
      else modPwr (fun p => { p with thermB := 0 }) s
    let s := if t.inlet > 45 * 16 then setErr PWR_ERR_COOLANT s else s
    setFlds [(PWR_STATUS_THROTTLE, (s.pwr.throttling || s.pwr.throttlingBase || s.pwr.thermB != 0).toNat), (PWR_STATUS_BUBBLES, bubbles s)] s

/-! ### The register block -/

/-- A write of PWR_CAP_HOST (R394). In haven mode only CAP_EFF changes (R402, R404). -/
def wrCapHost (v : W64) (s : State) : State :=
  let old := (capEff s).1
  let s := store PWR_CAP_HOST v s
  let s := if fld PWR_CAP_HOST_WATTS s > partLimit s then
      setErr PWR_ERR_CAP_CLAMP (setFld PWR_CAP_HOST_WATTS (partLimit s) s) else s
  if bit PWR_HAVEN_ACTIVE s then s else capChanged old s

/-- A write of PWR_HAVEN (R399, R400). The exit itself is the warm rejoin `rejoin`. -/
def wrHaven (rejoin : State → State) (v : W64) (s : State) : State :=
  if fldOf PWR_HAVEN_ENTER v != 0 then enterHaven 3 s
  else if fldOf PWR_HAVEN_EXIT v != 0 then
    if bit PWR_HAVEN_ACTIVE s && exitAllowed s then rejoin s else setErr PWR_ERR_EXIT_REFUSED s
  else s

end Sys2Proof.Machine
end

