-- ==== Sys2Proof/Machine/Mem.lean ====
section
/-! DEFINITION. Machine/Mem.lean: regions, bindings, swaps, restores, scrub, digests, failures and retrains of atolls
and shoal modules (chapter 04, R379, R440). -/

namespace Sys2Proof.Machine

/-- A MEM_ERR bit with a staple address. -/
def memErr (f : FRef) (addr : Nat) (s : State) : State := raiseLatch f [(MEM_ERR_ADDR_STAPLE, addr / 4096)] s

/-- Bounds of the user area of an atoll, or of the shoal module, that holds an address: base and end (R127, R132). -/
def areaOf (a : Nat) (s : State) : Option (Nat × Nat) :=
  match atollAt a with
  | some n => if atollHere s n then some (atollBase n, sysArea n) else none
  | none => (shoalAt a).map fun m => (shoalBase m, shoalBase m + shoalSize)

/-- Whether a kind may lie in the tier of address `a` (R131). -/
def tierOk (kind a : Nat) : Bool :=
  if kind = kHome then (shoalAt a).isSome else if kind = kSpill then true else (atollAt a).isSome

/-- Whether region `r`, as it stands in `s`, meets the rules of R132 beside the other valid regions. -/
def regionRules (r : Nat) (s : State) : Bool :=
  let g := region r s
  let others := ((List.range 256).filter (· != r)).map (fun i => region i s) |>.filter (·.valid)
  (match areaOf g.base s with
   | some (lo, hi) => lo ≤ g.base && g.base + g.size ≤ hi
   | none => false) &&
  g.size ≥ 4096 && tierOk g.kind g.base &&
  others.all (fun o => g.base + g.size ≤ o.base || o.base + o.size ≤ g.base) &&
  (g.kind != kKv || others.all fun o => o.kind != kKv || atollAt o.base != atollAt g.base)

/-- A write of MEM_RGN_BASE, MEM_RGN_SIZE or MEM_RGN_CFG (R132, R134). -/
def rgnWrite (o : Nat) (v : W64) (s : State) : State :=
  let r := (o - MEM_RGN_BASE 0) / 0x20
  let w := written o v s
  let s1 := rsvEnc w.2 s
  let t := wr o w.1 s1
  let g := region r s
  let g' := region r t
  if g.binds != 0 || (g'.valid && !regionRules r t) then raiseLatch MEM_ERR_RGN [(MEM_ERR_ADDR_STAPLE, r)] s1
  else if g.base != g'.base || g.size != g'.size || g.kind != g'.kind || !g'.valid then clearSealed r t
  else t

/-- A write of MEM_BIND(c, w): discarded while c exists (R133). -/
def bindWrite (c o : Nat) (v : W64) (s : State) : State := if ctxExists c s then discarded o v s else store o v s

/-! ### Uncorrectable errors and restores (R129, R130) -/

/-- Index u of MEM_CNT_CE and MEM_CNT_UE: atolls 0 to 7, then shoal modules. -/
def memUnit (a : Nat) : Option Nat :=
  match atollAt a with
  | some n => some n
  | none => (shoalAt a).map (8 + ·)

/-- Whether the staple at `a` lies in a WEIGHT region whose HOME region is valid, so that it is restored (R130). -/
def hasHome (a : Nat) (s : State) : Bool :=
  match regionAt a s with
  | none => false
  | some r => let g := region r s; let h := region g.home s; g.kind == kWeight && h.valid && h.kind == kHome

/-- An uncorrectable error of the staple that holds `a` (R129). Where the staple has a home copy, its restore begins
(R130). -/
def uncorrectable (a : Nat) (s : State) : State :=
  match memUnit a with
  | none => s
  | some u =>
    let s := setMeta a { metaAt a s with poison := true, restoring := hasHome a s } s
    let s := bump64 (MEM_CNT_UE u) 1 s
    memErr (if u < 8 then MEM_ERR_ATOLL_UE else MEM_ERR_SHOAL_UE) (a / 4096 * 4096) s

/-- What an atoll or the shoal met while a unit read (R128, R129): corrected symbol errors, and staples that it could not
correct. -/
def memEnv (env : UnitEnv) (s : State) : State :=
  let s := env.memCe.foldl (fun s p => if p.1 < 12 then bump64 (MEM_CNT_CE p.1) p.2 s else s) s
  env.memUe.foldl (fun s a => uncorrectable a s) s

/-- Whether the atoll that holds an address retrains (R147): accesses to it wait. -/
def retraining (a : Nat) (s : State) : Bool := match atollAt a with
  | some n => fld (atollFld n) s == 1
  | none => false

/-- Restores the poisoned staple that holds `a` from its HOME copy (R130). `homeOk`: the home staple reads without an
uncorrectable error. -/
def restore (a : Nat) (homeOk : Bool) (s : State) : State :=
  let a := a / 4096 * 4096
  if !(metaAt a s).poison || retraining a s then s
  else
    match regionAt a s with
    | none => s
    | some r =>
      let g := region r s
      let h := region g.home s
      let ok := hasHome a s
      let s := setMeta a { metaAt a s with restoring := false } s
      if ok then
        let src := h.base + (a - g.base)
        let inside : Bool := a - g.base < h.size
        let s := if inside && !homeOk then uncorrectable src s else s
        if inside && stapleOk src s then
          bump64 MEM_CNT_RESTORE 1 (setMeta a {} (copyRange src a 4096 s))
        else memErr MEM_ERR_RESTORE_FAIL a s
      else s

def shoalFld (m : Nat) : FRef := ⟨MEM_STATUS, 24 + 2 * m + 1, 24 + 2 * m⟩
def atollFailed (a : Nat) (s : State) : Bool := fld (atollFld a) s == 2
def shoalFailed (m : Nat) (s : State) : Bool := fld (shoalFld m) s == 2
/-- Whether the tier unit that holds an address can serve. -/
def unitUp (a : Nat) (s : State) : Bool :=
  match atollAt a with
  | some n => atollHere s n && !atollFailed n s
  | none => match shoalAt a with
    | some m => !shoalFailed m s
    | none => false

/-- Package offsets, from the base of memory unit u, of the WEIGHT regions in it: base and end. -/
def weightSpans (u : Nat) (s : State) : List (Nat × Nat) :=
  (regionsWhere (fun g => g.kind == kWeight && atollAt g.base == some u) s).map fun r =>
    let g := region r s
    (g.base - atollBase u, g.base + g.size - atollBase u)

def minOf (l : List Nat) : Option Nat := l.foldl (fun m x => some (match m with | none => x | some y => min x y)) none

/-- The first offset from x on that no span holds; `fuel` bounds the spans passed. -/
def passSpans : Nat → List (Nat × Nat) → Nat → Nat
  | 0, _, x => x
  | f + 1, l, x => match l.find? fun p => p.1 ≤ x && x < p.2 with
    | some p => passSpans f l p.2
    | none => x

/-- The position of scrub u after the staple at offset x of what it covers has been read: WEIGHT regions first in each pass but the
first one after power-up, which runs in address order (R150, R151; log 101). -/
def scrubNext (u x : Nat) (p : ScrubPos) (s : State) : ScrubPos :=
  let l := weightSpans u s
  let size := if u < 8 then atollSize else 4 * shoalSize
  let rest (y : Nat) : Option ScrubPos :=
    let z := passSpans 256 l y
    if z < size then some { part := 2, off := z } else none
  let first : ScrubPos := match minOf (l.map (·.1)) with
    | some b => { part := 1, off := b }
    | none => (rest 0).getD { part := 2 }
  if p.part = 0 then if x + 4096 < size then { part := 0, off := x + 4096 } else first
  else if p.part = 1 then
    match minOf (l.filterMap fun r => if r.1 ≤ x + 4096 && x + 4096 < r.2 then some (x + 4096)
        else if x < r.1 then some r.1 else none) with
    | some y => { part := 1, off := y }
    | none => (rest 0).getD first
  else (rest (x + 4096)).getD first

/-- The scrub that covers an address: that of an atoll, or 8, that of the shoal, which passes its modules in turn. -/
def scrubUnit (a : Nat) : Nat := (atollAt a).getD 8

/-- Base package address of what scrub u covers. -/
def scrubBase (u : Nat) : Nat := if u < 8 then atollBase u else shoalBase 0

/-- The first offset from x on whose shoal module can serve; the scrub of an atoll passes none. -/
def scrubLive (u x : Nat) (s : State) : Nat :=
  let up (m : Nat) : Bool := !shoalFailed m s
  if u < 8 || up (x / shoalSize) then x
  else match (List.range 4).find? fun m => decide (x / shoalSize < m) && up m with
    | some m => m * shoalSize
    | none => ((List.range 4).find? up).getD 0 * shoalSize

/-- The address of the staple that scrub u reads next (R150, R151). -/
def scrubAt (u : Nat) (s : State) : Nat := scrubBase u + scrubLive u (lookup s.scrubPos {} u).off s

/-- Scrub u has read the staple at address a. -/
def moveScrub (u a : Nat) (s : State) : State :=
  { s with scrubPos := put s.scrubPos {} u (scrubNext u (a / 4096 * 4096 - scrubBase u) (lookup s.scrubPos {} u) s) }

/-- The scrub reads the staple that is next in its pass (R150): `corrected` symbol errors, or an error that the symbol code
cannot correct; a stored CRC that does not match counts as such an error (log 101). -/
def scrub (a corrected : Nat) (ue : Bool) (s : State) : State :=
  let on := if (atollAt a).isSome then bit MEM_CTRL_ATOLL_SCRUB s else bit MEM_CTRL_SHOAL_SCRUB s
  match memUnit a with
  | none => s
  | some u =>
    if !s.boot.on || !on || bit PWR_HAVEN_ACTIVE s || !unitUp a s || retraining a s ||
        a / 4096 * 4096 != scrubAt (scrubUnit a) s then s
    else
      let s := moveScrub (scrubUnit a) a (bump64 (MEM_CNT_CE u) corrected s)
      if ue || ((metaAt a s).crcBad && !(metaAt a s).poison) then uncorrectable a s else s

/-! ### Scrub bursts (R150, R385) -/

/-- Rates of the scrub, 0 for a tier that is not scrubbed. -/
def atollRate (s : State) : Nat := if bit MEM_CTRL_ATOLL_SCRUB s then fld MEM_SCRUB_RATE_ATOLL_GBPS s else 0
def shoalRate (s : State) : Nat := if bit MEM_CTRL_SHOAL_SCRUB s then fld MEM_SCRUB_RATE_SHOAL_GBPS s else 0

/-- Asks for or releases the leave of a scrub burst: 0.1 W per GB/s of the total rate. A change of the rate asks anew, at the
peak of the new one. -/
def settleScrub (s : State) : State :=
  if atollRate s > 64 || shoalRate s > 64 then
    let n := ((List.range 8).filter fun a => atollHere s a).length
    let peak := 100 * (n * atollRate s + shoalRate s)
    let same : Bool := (s.pwr.held ++ s.pwr.queue).all fun l => l.kind != .scrub || l.peak == peak
    askLeave .scrub peak (if same then s else releaseLeave .scrub false s)
  else releaseLeave .scrub false s

/-- Offsets of the MEM counters. -/
def memCounters : List Nat :=
  (List.range 10).map MEM_STALL_CAUSE ++ (List.range 12).map MEM_CNT_CE ++ (List.range 12).map MEM_CNT_UE ++ [MEM_CNT_RESTORE]

/-- A write of MEM_CTRL (R153). -/
def memCtrl (v : W64) (s : State) : State :=
  let s := store MEM_CTRL v s
  let s := if wbit v 2 then zeroRegs memCounters s else s
  let s := if bit MEM_CTRL_ATOLL_SCRUB s then s else { s with digestPass := { s.digestPass with active := false } }
  settleScrub s

/-! ### Swaps (R142 to R144) -/

/-- Establishes a region's digest and sets SEALED (R134). -/
def sealRegion (r : Nat) (s : State) : State :=
  let g := region r s
  setFld (MEM_RGN_CFG_SEALED r) 1
    { setFlds [(INT_DIGEST_STAT_RESULT r, 0), (INT_DIGEST_STAT_PASSES r, 0)] s with
      digests := ins s.digests r (digestRange g.base g.size s) }

/-- The pairs of the list. -/
def swapPairs (s : State) : List (Nat × Nat) :=
  (List.range (fld MEM_SWAP_CTRL_COUNT s)).map fun i => (fld (MEM_SWAP_PAIR_SRC i) s, fld (MEM_SWAP_PAIR_DST i) s)

/-- The check of one pair: 0 or the code of its failure (R142). -/
def swapCheck (p : Nat × Nat) (s : State) : Nat :=
  let a := region p.1 s
  let b := region p.2 s
  if !(a.valid && a.kind == kHome && b.valid && b.kind == kWeight) then 3
  else if b.binds != 0 then 1
  else if a.size != b.size then 2
  else 0

/-- A write of MEM_SWAP_CTRL (R142, R143). A list without a pair ends at once with OK (log 27). -/
def swapCtrl (v : W64) (s : State) : State :=
  if bit MEM_SWAP_STATUS_BUSY s then
    -- only a START is discarded; COUNT takes the written value
    store MEM_SWAP_CTRL (v &&& ~~~(1 : W64)) s
  else
    let s := store MEM_SWAP_CTRL v s
    if wbit v 0 then
      let ps := swapPairs s
      let bad := (List.range ps.length).find? fun i => swapCheck (ps.getD i (0, 0)) s != 0
      match bad with
      | some i => endSwap (swapCheck (ps.getD i (0, 0)) s) (setFld MEM_SWAP_STATUS_PAIR i s)
      | none =>
        if ps.isEmpty then endSwap 0 (setFld MEM_SWAP_STATUS_PAIR 0 s)
        else
          let s := setFlds [(MEM_SWAP_STATUS_BUSY, 1), (MEM_SWAP_STATUS_LEAVE_WAIT, 1), (MEM_SWAP_STATUS_PAIR, 0),
                            (MEM_SWAP_STATUS_CODE, 0)] { s with swap := { active := true, pairs := ps } }
          askLeave .swap 60000 s
    else s

/-- The first staple of a range that is poisoned or fails its CRC. -/
def firstBad (a n : Nat) (s : State) : Option Nat :=
  (s.staples.find? fun m => a ≤ m.1 * 4096 && m.1 * 4096 < a + n && (m.2.crcBad || m.2.poison)).map (·.1 * 4096)

/-- The pair in progress ends (R142 to R144). A failing source staple that the state does not name is taken to be the
first of the region (log 28). -/
def swapCopied (how : CopyEnd) (s : State) : State :=
  if !(s.swap.active && s.swap.copying && leaveActive .swap s) then s
  else
    match s.swap.pairs[s.swap.next]? with
    | none => s
    | some (src, dst) =>
      let g := region src s
      let h := region dst s
      if retraining g.base s || retraining h.base s then s
      else
      let s := if how == .sourceUe && (firstBad g.base g.size s).isNone then uncorrectable g.base s else s
      match how, firstBad g.base g.size s with
      | .failed, _ => endSwap 6 s
      | _, some b => endSwap 5 (wrSoundRange h.base (b - g.base) (copyRange g.base h.base (b - g.base) s))
      | _, none =>
        let s := wrSoundRange h.base g.size (copyRange g.base h.base g.size s)
        let s := sealRegion dst (setFld (MEM_RGN_CFG_HOME dst) src s)
        let n := s.swap.next + 1
        if n ≥ s.swap.pairs.length then endSwap 0 s
        else setFld MEM_SWAP_STATUS_PAIR n { s with swap := { s.swap with next := n } }
where
  /-- The staples of a range hold fresh data with sound CRCs. -/
  wrSoundRange (a n : Nat) (s : State) : State :=
    { s with staples := s.staples.filter fun m => !(a ≤ m.1 * 4096 && m.1 * 4096 < a + n) }

/-! ### Failures (R147, R148, R359) -/

/-- Whether region r holds spilled state of context c (R349). -/
def spillHolds (c r : Nat) (s : State) : Bool :=
  let x := ctx c s
  x.spills.length != 0 && (List.range x.weave.set.length).any fun i =>
    x.spilled.contains (x.weave.set.getD i 0) && x.spills.getD (i % x.spills.length) 256 == r

/-- Faults the contexts whose spilled state is lost and those that satisfy `also`, in ascending order (R366); then marks the
regions invalid. -/
def loseRegions (rs : List Nat) (kill : Region → Bool) (also : Nat → State → Bool) (s : State) : State :=
  let s := (existing s).foldl (fun s c =>
    if rs.any fun r => spillHolds c r s then faultCtx c cfMemory none (ctxErr CTX_ERR_SPILL_LOST c s)
    else if also c s then faultCtx c cfMemory none s else s) s
  (rs.filter fun r => kill (region r s)).foldl (fun s r => invalidate r s) s

/-- Whether context c has KV pages or bobbins in atoll a. -/
def kvIn (c a : Nat) (s : State) : Bool :=
  s.kv.dirs.any fun d => d.2.ctx == c &&
    (d.2.ents.any (fun e => e.2.atoll == a) || d.2.bobbins.any (fun b => b.atoll == a) || d.2.reserved.any fun r => r.2.1 == a)

/-- A swap one of whose pairs that are not complete touches a failed unit stops and ends with code FAILED (R144). -/
def failSwap (touches : Region → Bool) (s : State) : State :=
  if s.swap.active && (s.swap.pairs.drop s.swap.next).any (fun p => touches (region p.1 s) || touches (region p.2 s)) then
    endSwap 6 s
  else s

/-- An atoll fails (R147). -/
def atollFail (a : Nat) (s : State) : State :=
  if !s.boot.on || !atollHere s a || atollFailed a s then s
  else
    let on (g : Region) : Bool := atollAt g.base == some a
    let s := memErr MEM_ERR_ATOLL_FAIL (atollBase a) (setFld (atollFld a) 2 s)
    let s := failSwap on s
    let rs := regionsWhere on s
    loseRegions rs (fun _ => true)
      (fun c s => ((ctx c s).bound.any fun b => rs.contains b.2) || kvIn c a s) s

/-- A shoal module fails (R148). -/
def shoalFail (m : Nat) (s : State) : State :=
  if !s.boot.on || m ≥ 4 || shoalFailed m s then s
  else
    let on (g : Region) : Bool := shoalAt g.base == some m
    let s := memErr MEM_ERR_SHOAL_FAIL (shoalBase m) (setFld (shoalFld m) 2 s)
    let s := failSwap on s
    let rs := regionsWhere on s
    loseRegions rs (fun g => g.kind == kHome || g.kind == kSpill)
      (fun c s => (ctx c s).spills.any fun r => rs.contains r) s

/-! ### Atoll retrains (R147, R440) -/

/-- Adds a retrain request: kind 0 port, 1 atoll. A queued request for a unit that already retrains merges with it. -/
def queueRetrain (kind i : Nat) (s : State) : State :=
  let running := if kind = 0 then bit BRG_RETRAIN_STATUS_PORT_BUSY s && fld BRG_RETRAIN_STATUS_PORT s == i
    else bit BRG_RETRAIN_STATUS_ATOLL_BUSY s && fld BRG_RETRAIN_STATUS_ATOLL s == i
  if running then s else setQueued { s with boot := { s.boot with retrainQ := addOnce s.boot.retrainQ (kind, i) } }

/-- The lowest queued unit of a kind that can retrain leaves the queue, and with it those before it, which cannot (R440). -/
def nextQueued (kind : Nat) (can : Nat → Bool) (s : State) : Option Nat × State :=
  let next := (List.range 8).find? fun i => s.boot.retrainQ.contains (kind, i) && can i
  let last := next.getD 7
  if s.boot.retrainQ.all fun q => q.1 != kind then (none, s)
  else (next, setQueued { s with boot := { s.boot with retrainQ := s.boot.retrainQ.filter fun q => !(q.1 == kind && q.2 ≤ last) } })

/-- Starts the next atoll retrain when none runs. -/
def atollNext (s : State) : State :=
  if bit BRG_RETRAIN_STATUS_ATOLL_BUSY s || bit PWR_HAVEN_ACTIVE s then s
  else match nextQueued 1 (fun a => atollHere s a && !atollFailed a s) s with
    | (none, s) => s
    | (some a, s) =>
      setFlds [(atollFld a, 1), (BRG_RETRAIN_STATUS_ATOLL_BUSY, 1), (BRG_RETRAIN_STATUS_ATOLL, a)]
        (bump64 (BRG_CNT 1) 1 { s with boot := { s.boot with atollRetry := false } })

/-- What the last commits wrote to atoll a stands in memory (R378). -/
def commitLands (a : Nat) (s : State) : State :=
  (existing s).foldl (fun s c => if (ctx c s).commitWait.contains a then
    modCtx c (fun x => { x with commitWait := x.commitWait.filter (· != a) }) s else s) s

/-- The atoll retrain in progress ends: a first failure is retried from defaults, a second fails the atoll. -/
def atollRetrained (ok : Bool) (s : State) : State :=
  if !bit BRG_RETRAIN_STATUS_ATOLL_BUSY s then s
  else
    let a := fld BRG_RETRAIN_STATUS_ATOLL s
    if !ok && !s.boot.atollRetry then { s with boot := { s.boot with atollRetry := true } }
    else
      let s := setFlds [(BRG_RETRAIN_STATUS_ATOLL_BUSY, 0), (BRG_RETRAIN_STATUS_ATOLL, 0),
                        (atollFld a, if atollFailed a s then 2 else 0)] (commitLands a s)
      atollNext (if ok then s else atollFail a s)

/-! ### Digest passes (R379, R382) -/

/-- Contexts bound to region r, with their weave regions. -/
def boundTo (r : Nat) (s : State) : List (Nat × Nat) :=
  (existing s).flatMap fun c => ((ctx c s).bound.filter fun b => b.2 == r).map fun b => (c, b.1)

def sealedWeights (s : State) : List Nat := regionsWhere (fun g => g.kind == kWeight && g.sealedBit) s

/-- A pass begins (R379); none begins while the atoll scrub is off or during haven mode (R151). -/
def passStart (s : State) : State :=
  if !s.boot.on || s.digestPass.active || !bit MEM_CTRL_ATOLL_SCRUB s || bit PWR_HAVEN_ACTIVE s then s
  else { s with digestPass := { s.digestPass with
    active := true, covered := sealedWeights s, starts := (existing s).map fun c => (c, nextStart c s) } }

/-- The first step of a context whose range an event of region r opens (R382). -/
def taintFirst (r c : Nat) (s : State) : Nat := lookup (lookup s.digestPass.since [] r) 0 c

/-- Opens the events of one region for every context bound to it. -/
def digestTaint (cause r : Nat) (s : State) : State :=
  (boundTo r s).foldl (fun s b => openTaintFrom cause b.1 (taintFirst r b.1 s) r s) s

/-- Compares one region at the end of a pass. -/
def passRegion (r : Nat) (s : State) : State :=
  let g := region r s
  match find? s.digests r with
  | none => s
  | some d =>
    if !(g.valid && g.kind == kWeight && g.sealedBit) then s
    else
      let p := digestRange g.base g.size s
      let s := (boundTo r s).foldl (fun s b =>
        if bit (INT_BUDDY_VALID b.1) s then
          send (.passDigest (fld (INT_BUDDY_NODE b.1) s) (fld (INT_BUDDY_CONTEXT b.1) s) b.1 b.2 p false) s
        else s) s
      let s := setFlds [(INT_DIGEST_STAT_RESULT r, if p = d then 1 else 2),
                        (INT_DIGEST_STAT_PASSES r, fld (INT_DIGEST_STAT_PASSES r) s + 1)] s
      if p = d then
        { s with digestPass := { s.digestPass with since := put s.digestPass.since [] r s.digestPass.starts } }
      else
        let cs := boundTo r s
        let s := digestTaint 1 r (intErr INT_ERR_DIGEST ((cs.map (·.1)).headD 0) 0 (clearSealed r s))
        cs.foldl (fun s b => faultCtx b.1 cfIntegrity none s) s

/-- A pass ends. -/
def passEnd (s : State) : State :=
  if !s.digestPass.active then s
  else
    let s := s.digestPass.covered.foldl (fun s r => passRegion r s) s
    { s with digestPass := { s.digestPass with active := false, covered := [], starts := [] } }

/-- A buddy's pass digest of weave region w arrives for context c (R379). One that differs is answered with the own digest, so
that both packages find the mismatch (log 91). -/
def passReceive (c w : Nat) (x : PassDigest) (s : State) : State :=
  match find? (ctx c s).bound w with
  | none => s
  | some r =>
    match find? s.digests r with
    | none => s
    | some own =>
      if own = x.d then s
      else
        let s := if x.answer then s else send (.passDigest x.src.toNat x.srcCtx.toNat c w own true) s
        digestTaint 2 r (send (.mctp (.digestPeer r))
          (setFld (INT_DIGEST_STAT_RESULT r) 3 (intErr INT_ERR_DIGEST_PEER c 0 s)))

/-- Where a swap list ended, its leave is free (R386). -/
def afterSwap (f : State → State) (s : State) : State :=
  let t := f s
  if s.swap.active && !t.swap.active then reportLeave t else t

/-! ### Meanings -/

def execScrubStaple (addr : BitVec 48) (corrected : Nat) (uncorrectable : Bool) (s : State) :
    Host.Outcome State Fault Refusal := run (scrub addr.toNat corrected uncorrectable) s

def execStapleRestore (addr : BitVec 48) (homeOk : Bool) (s : State) : Host.Outcome State Fault Refusal :=
  run (restore addr.toNat homeOk) s

def execSwapPairCopied (how : CopyEnd) (s : State) : Host.Outcome State Fault Refusal := run (afterSwap (swapCopied how)) s

def execDigestPassStart (s : State) : Host.Outcome State Fault Refusal := run passStart s
def execDigestPassEnd (s : State) : Host.Outcome State Fault Refusal := run passEnd s

def execPassDigestReceive (ctx : BitVec 6) (w : BitVec 5) (d : PassDigest) (s : State) :
    Host.Outcome State Fault Refusal := run (passReceive ctx.toNat w.toNat d) s

def execAtollFailure (a : BitVec 3) (s : State) : Host.Outcome State Fault Refusal := run (afterSwap (atollFail a.toNat)) s
def execShoalFailure (m : BitVec 2) (s : State) : Host.Outcome State Fault Refusal := run (afterSwap (shoalFail m.toNat)) s

/-- An atoll interface starts retraining, or waits while another one retrains (R440). -/
def execAtollRetrain (a : BitVec 3) (s : State) : Host.Outcome State Fault Refusal :=
  run (fun s => if s.boot.on then atollNext (queueRetrain 1 a.toNat s) else s) s


end Sys2Proof.Machine
end

