-- ==== Sys2Proof/Machine/Threads.lean ====
section
/-! DEFINITION. Machine/Threads.lean: threads, waits and watches (R67 to R70, R114, R327, R328), and the SPN error
captures (R89). -/

namespace Sys2Proof.Machine

/-- Completion status codes of R311. -/
def stOk : Nat := 0
def stRetry : Nat := 1
def stTargetDead : Nat := 2
def stWindowFault : Nat := 3
def stPoison : Nat := 4
def stCancelled : Nat := 5

def spnErr (f : FRef) (n c slot : Nat) (s : State) : State :=
  raiseErr f (SPN_ERR_INFO n) [(SPN_ERR_INFO_CONTEXT n, c), (SPN_ERR_INFO_SLOT n, slot)] s

/-- A staple at address `a` fails its check at a read or write of spindle n (R77, R79). `kind` as SPN_STAPLE_ADDR. -/
def stapleFail (n kind a c slot : Nat) (s : State) : State :=
  let s := bump32 (SPN_CNT_STAPLE n) 1 (spnErr (SPN_ERR_STAPLE_CRC n) n c slot s)
  if bit (SPN_STAPLE_ADDR_VALID n) s then s
  else setFlds [(SPN_STAPLE_ADDR_STAPLE n, a / 4096), (SPN_STAPLE_ADDR_KIND n, kind), (SPN_STAPLE_ADDR_VALID n, 1)] s

/-- KIND of SPN_STAPLE_ADDR for a staple that a tile program reads: by the kind of its region. -/
def stapleKind (a : Nat) (s : State) : Nat :=
  match regionAt a s with
  | some r => let k := (region r s).kind; if k = kAdapter then 2 else if k = kKv then 3 else 0
  | none => 0

/-- The slot of the VECTOR entry whose program a thread runs: SLOT of word 0 (R108). -/
def slotOfWord (w : W32) : Nat := w.toNat % 2 ^ 24

/-- The dispatch entry that a reference names. -/
def dispAt (e : EntryRef) (s : State) : Option Disp :=
  match (ctx e.ctx.toNat s).step with
  | none => none
  | some st => (lookup st.lists [] e.phase.toNat)[e.idx]?

/-- Replaces a dispatch entry. -/
def setDisp (e : EntryRef) (d : Disp) (s : State) : State :=
  modCtx e.ctx.toNat (fun x => match x.step with
    | none => x
    | some st =>
      let l := setAt (lookup st.lists [] e.phase.toNat) e.idx d
      { x with step := some { st with lists := put st.lists [] e.phase.toNat l } }) s

def modDisp (e : EntryRef) (f : Disp → Disp) (s : State) : State :=
  match dispAt e s with
  | some d => setDisp e (f d) s
  | none => s

/-- The slot of the entry a thread runs. -/
def threadSlot (n t : Nat) (s : State) : Nat :=
  match (thread n t s).entry with
  | some e => match dispAt e s with
    | some d => slotOfWord (d.words.getD 0 0)
    | none => 0
  | none => 0

/-- A thread fault (R69) over an access of context c: it faults with cause TARGET_DEAD for that status, and THREAD
otherwise. SLOT is 0 when the thread runs no program of c any more. -/
def threadFaultIn (n t c status : Nat) (s : State) : State :=
  let s := spnErr (SPN_ERR_THREAD_FAULT n) n c (if (thread n t s).ctx = c then threadSlot n t s else 0) s
  faultCtx c (if status = stTargetDead then cfDead else cfThread) (some n) s

def threadFault (n t status : Nat) (s : State) : State := threadFaultIn n t (thread n t s).ctx status s

/-- Puts a thread into a state; a thread that becomes ready after it was not counts a switch (R88). -/
def threadTo (n t : Nat) (st : ThrState) (s : State) : State :=
  setThread n t { thread n t s with state := st } s

/-- A ready thread starts to wait: the core issues from another thread, which is a switch. -/
def threadWait (n t : Nat) (st : ThrState) (s : State) : State :=
  bump64 (SPN_CNT_SWITCH n) 1 (threadTo n t st s)

/-- A thread that runs a program: any state except idle. -/
def running (th : Thread) : Bool := th.state != .idle

/-! ### Watches (R327, R328) -/

def watchHolds (c : WatchCond) (op : W64) (w : Nat) : Bool :=
  match c with
  | .eq => w == op.toNat
  | .ge => w ≥ op.toNat
  | .ne => w != op.toNat

/-- Whether context c has a region of a kind bound that holds the n bytes at address a. -/
def boundKind (c kind a n : Nat) (s : State) : Bool :=
  (ctx c s).bound.any fun b =>
    let g := region b.2 s
    g.valid && g.kind == kind && g.base ≤ a && a + n ≤ g.base + g.size

/-- A thread sets a watch, tests it at once, and waits when it does not hold (R327). A word outside what R327 allows is
an access outside the context's memory (log 30). -/
def setWatch (n t a : Nat) (c : WatchCond) (op : W64) (s : State) : State :=
  let th := thread n t s
  if !running th then s
  else if a % 8 != 0 || !(lagoonAt a == some n || boundKind th.ctx kScratch a 8 s) then badAddr th.ctx a (some n) s
  else if watchHolds c op (rdNat a 8 s) then s
  else threadWait n t .waitSync (setThread n t { th with watch := some (a, c, op) } s)

/-- A thread in WAIT_SYNC becomes ready. -/
def wake (n t : Nat) (s : State) : State :=
  let th := thread n t s
  if th.state == .waitSync then setThread n t { th with state := .ready, watch := none } s else s

/-- A signal fires on the word at a (R328): the wake wire of every spindle that watches it is driven. -/
def signalFired (a : Nat) (s : State) : State :=
  s.spns.foldl (fun s p => p.2.threads.foldl (fun s t => match t.2.watch with
    | some (b, c, op) =>
      if b = a && t.2.state == .waitSync then
        let s := bump64 (SYN_CNT 2) 1 s
        if watchHolds c op (rdNat a 8 s) then wake p.1 t.1 s else s
      else s
    | none => s) s) s

/-- Clears the watch slots of a context (R330, R374). -/
def clearWatches (c : Nat) (s : State) : State :=
  let clear (t : Nat × Thread) : Nat × Thread := if t.2.ctx = c then (t.1, { t.2 with watch := none }) else t
  let clearAll (b : Saved) : Saved := { b with threads := b.threads.map clear }
  let each (p : Spn) : Spn := { p with threads := p.threads.map clear, saved := p.saved.map clearAll }
  { s with spns := s.spns.map fun p => (p.1, each p.2) }

/-! ### What a context may read and write (R126, R131, R132) -/

/-- An adapter-tuning context (R91, FLAGS bit 0). -/
def tuning (c : Nat) (s : State) : Bool := (ctx c s).weave.flags.getLsbD 0

/-- Whether the n bytes at a lie in the lagoon of one spindle of the context's set. -/
def inLagoon (c a n : Nat) (s : State) : Bool :=
  match lagoonAt a with
  | some m => m < numSpindles s && (ctx c s).weave.set.contains m && a + n ≤ lagoonBase (m + 1)
  | none => false

/-- Whether context c may read the n bytes at a. -/
def mayRead (c a n : Nat) (s : State) : Bool :=
  inLagoon c a n s || boundKind c kWeight a n s || boundKind c kAdapter a n s || boundKind c kScratch a n s

/-- Whether context c may write the n bytes at a. -/
def mayWrite (c a n : Nat) (s : State) : Bool :=
  inLagoon c a n s || boundKind c kScratch a n s || (tuning c s && boundKind c kAdapter a n s)

/-- The fault of a write that context c may not make: RO_WRITE inside a valid region, BAD_ADDR elsewhere. -/
def badWrite (c a : Nat) (n : Option Nat) (s : State) : State :=
  if (regionAt a s).isSome then faultCtx c cfMemory n (memErr MEM_ERR_RO_WRITE a s) else badAddr c a n s

/-- Marks the lagoon words that hold the n bytes at a as uncorrectable (R71, R341). -/
def failLagoon (a n : Nat) (s : State) : State :=
  if n = 0 then s
  else (List.range ((a + n - 1) / 8 - a / 8 + 1)).foldl
    (fun s i => { s with lagoonBad := addOnce s.lagoonBad (a / 8 + i) }) s

/-- Whether a lagoon word of the n bytes at a reads uncorrectable. -/
def lagoonFails (a n : Nat) (s : State) : Bool := s.lagoonBad.any fun w => a < w * 8 + 8 && w * 8 < a + n

/-- Staged weights that a write to n lagoon bytes at a lands on are no longer held (R139, R140). -/
def unstage (a n : Nat) (s : State) : State :=
  match lagoonAt a with
  | none => s
  | some m =>
    if (spn m s).stage.isEmpty then s
    else
      let lo := a - lagoonBase m
      modSpn m (fun p => { p with stage := p.stage.filter fun x => !(n != 0 && lo < x.lag * 4096 + 4096 && x.lag * 4096 < lo + n) }) s

/-- Writes bytes to a lagoon; whole words written are sound again. -/
def wrLagoon (a : Nat) (bs : List Byte) (s : State) : State :=
  let n := bs.length
  { wrBytes a bs (unstage a n s) with lagoonBad := s.lagoonBad.filter fun w => !(a ≤ w * 8 && w * 8 + 8 ≤ a + n) }

/-- Writes bytes to an atoll, the shoal or a lagoon (R79, R128, R340): a staple written whole gets a fresh CRC; one
written in part keeps failing when it failed before. `bad`: the data comes from a staple that failed (R129, R341). -/
def wrMerge (a : Nat) (bs : List Byte) (bad : Bool) (s : State) : State :=
  if (lagoonAt a).isSome then
    let s := wrLagoon a bs s
    if bad then failLagoon a bs.length s else s
  else
    let n := bs.length
    (staplesOf a n).foldl (fun s p =>
      if bad then failStaple p s
      else if a ≤ p && p + 4096 ≤ a + n then setMeta p {} s
      else if stapleOk p s then s else failStaple p s) (wrBytes a bs s)

/-! ### Retain windows (R73, R74) -/

/-- The open retain window whose staples the n bytes at a touch: spindle and entry. -/
def retainHit (a n : Nat) (s : State) : Option (Nat × EntryRef) :=
  match lagoonAt a with
  | none => none
  | some m =>
    let lo := a - lagoonBase m
    ((spn m s).windows.find? fun w => n != 0 && w.2.1 / 4096 * 4096 < lo + n && lo < (w.2.2 / 4096 + 1) * 4096).map
      fun w => (m, w.1)

/-- A write to a locked staple is discarded and faults the context (R74). -/
def retainFault (m : Nat) (e : EntryRef) (s : State) : State :=
  let c := e.ctx.toNat
  let slot := match dispAt e s with
    | some d => slotOfWord (d.words.getD 0 0)
    | none => 0
  faultCtx c cfLagoon (some m) (spnErr (SPN_ERR_RETAIN_WRITE m) m c slot s)

/-- A unit's write to package memory, unless it meets an open retain window. -/
def wrUnit (a : Nat) (bs : List Byte) (bad : Bool) (s : State) : State :=
  match retainHit a bs.length s with
  | some (m, e) => retainFault m e s
  | none => wrMerge a bs bad s

/-! ### Writes of tile programs (R74, R79, R113, R114, R126, R132) -/

/-- Neighbouring bytes as runs. -/
def byteRuns : List (Nat × Byte) → List (Nat × List Byte)
  | [] => []
  | (a, b) :: rest =>
    match byteRuns rest with
    | (a2, bs) :: more => if a + 1 = a2 then (a, b :: bs) :: more else (a, [b]) :: (a2, bs) :: more
    | [] => [(a, [b])]

/-- One write of a tile program (R74, R79, R126, R132): its context must be able to write there; a partial write over a
staple that fails its check leaves it failing and reports it. -/
def programWrite (e : EntryRef) (n slot : Nat) (a : Nat) (bs : List Byte) (s : State) : State :=
  let c := e.ctx.toNat
  if !ctxLive c s then s
  else if !mayWrite c a bs.length s then badWrite c a (some n) s
  else
    let partBad : Bool := (lagoonAt a).isNone && (staplesOf a bs.length).any fun p =>
      !stapleOk p s && !(a ≤ p && p + 4096 ≤ a + bs.length)
    let s := if partBad then spnErr (SPN_ERR_STAPLE_CRC n) n c slot s else s
    wrUnit a bs false s

/-- Writes of a tile program, byte by byte, as far as its context lives. -/
def programWrites (e : EntryRef) (n slot : Nat) (l : List (Nat × Byte)) (s : State) : State :=
  (byteRuns l).foldl (fun s r => programWrite e n slot r.1 r.2 s) s

/-- Writes of the program that a thread runs. -/
def threadWrites (n t : Nat) (l : List (Nat × Byte)) (s : State) : State :=
  match (thread n t s).entry with
  | some e => programWrites e n (threadSlot n t s) l s
  | none => s

/-! ### Memory accesses and fences (R68, R114) -/

/-- Whether every byte of a range is mapped (R126). -/
def rangeMapped (a n : Nat) (s : State) : Bool := mapped s a && mapped s (a + (n - 1))

/-- Whether a staple of the n bytes at a is under restore (R130): a read of it waits. -/
def restoring (a n : Nat) (s : State) : Bool :=
  s.staples.any fun m => m.2.restoring && m.1 * 4096 < a + n && a < m.1 * 4096 + 4096

/-- Whether a lagoon range of spindle n meets a staple of a locked output (R368). -/
def lockedAt (n lo len : Nat) (s : State) : Bool :=
  (spn n s).locks.any fun l => l.2.2 != 0 && len != 0 &&
    lo < ((l.2.1 + l.2.2 - 1) / 4096 + 1) * 4096 && l.2.1 / 4096 * 4096 < lo + len

/-- Whether a byte of the n bytes at a is a locked output: its readers wait (R368). -/
def rangeLocked (a n : Nat) (s : State) : Bool := match lagoonAt a with
  | some m => lockedAt m (a - lagoonBase m) n s
  | none => false

/-- Whether an access to the n bytes at a waits for its memory: a retrain of the atoll (R147), and for a read a staple under
restore (R130) or a locked output (R368). -/
def memWaits (write : Bool) (a n : Nat) (s : State) : Bool :=
  retraining a s || retraining (a + n - 1) s || (!write && (restoring a n s || rangeLocked a n s))

/-- Whether a thread's access waits for its memory. -/
def accessWaits (acc : Option Access) (s : State) : Bool :=
  match acc with
  | some x => memWaits x.store.isSome x.addr.toNat x.len s
  | none => false

/-- Whether the n bytes at a lie in a page or bobbin frame of a sequence of context c: the KV unit reads them for it (R131,
R155). -/
def kvReadable (c a n : Nat) (s : State) : Bool :=
  (dirsOf c s).any fun h =>
    let d := dir h s
    let inside (lo staples : Nat) : Bool := lo ≤ a && a + n ≤ lo + staples * 4096
    (d.ents.any fun x => inside (pageAddr x.2.atoll d.cls x.2.frame s) (pageStaples d.cls s)) ||
    d.bobbins.any fun b => inside (bobAddr b.atoll d.cls b.frame s) (bobStaples d.cls s)

/-- Whether an access is a load from the lagoon of the thread's own spindle: it does not leave the ready state (R68). -/
def ownLoad (n : Nat) (acc : Option Access) : Bool := match acc with
  | some x => x.store.isNone && lagoonAt x.addr.toNat == some n && x.addr.toNat + x.len ≤ lagoonBase (n + 1)
  | none => false

/-- Where a reported load reads data that fails: whole staples of an atoll or the shoal, each checked at every read (R76), or
words of a lagoon (R71). -/
def readBad (acc : Option Access) (s : State) : List Nat := match acc with
  | some x =>
    if x.store.isSome then []
    else if (lagoonAt x.addr.toNat).isSome then (if lagoonFails x.addr.toNat x.len s then [x.addr.toNat] else [])
    else (staplesOf x.addr.toNat x.len).filter fun p => !stapleOk p s
  | none => []

/-- A thread waits for an access to memory; a read of KV registers the epoch at which it starts (R68, R206). -/
def accessStart (n t : Nat) (x : Access) (s : State) : State :=
  if ownLoad n (some x) && !accessWaits (some x) s then s else
  let w := if x.kv then some (kvEpoch s) else none
  let s := if x.kv then modKv (fun v => { v with walkers := v.walkers ++ [kvEpoch s] }) s else s
  threadWait n t .waitMem (setThread n t { thread n t s with access := some x, walk := w } s)

/-- The access of a thread has ended: its epoch is deregistered. -/
def accessEnd (n t : Nat) (s : State) : State :=
  let th := thread n t s
  let s := match th.walk with
    | some e => modKv (fun v => { v with walkers := removeOnce v.walkers e }) s
    | none => s
  if th.access.isSome || th.walk.isSome then setThread n t { th with access := none, walk := none } s else s

/-- The end of an access that its context may not make (R126, R132), or the bytes of a store (R79, R113). -/
def accessEffect (n t : Nat) (acc : Option Access) (s : State) : State :=
  let c := (thread n t s).ctx
  match acc with
  | none => s
  | some x => match x.store with
    | some bs => threadWrites n t ((List.range bs.length).map fun i => (x.addr.toNat + i, bs.getD i 0)) s
    | none =>
      let may : Bool := if x.kv then kvReadable c x.addr.toNat x.len s else mayRead c x.addr.toNat x.len s
      if rangeMapped x.addr.toNat x.len s && may then s else badAddr c x.addr.toNat (some n) s

/-- A staple or lagoon word that a thread read fails: its data is poisoned (R71, R77, R129), its entry becomes a suspect
(R367), and the thread goes on. -/
def accessFails (n t a : Nat) (s : State) : State :=
  let th := thread n t s
  let slot := threadSlot n t s
  let lag := lagoonAt a
  let s := match lag with
    | some m => spnErr (SPN_ERR_LAGOON_UE m) m th.ctx slot s
    | none => stapleFail n (stapleKind a s) a th.ctx slot s
  let s := match th.entry with
    | some e => modDisp e (fun d =>
        let x := d.susp.getD {}
        let x := { x with staple := x.staple || lag.isNone, lagoon := x.lagoon || lag.isSome }
        { d with susp := some x }) s
    | none => s
  threadTo n t .ready s

/-- A memory access of a thread completes (R68). A thread that is ready issued the access without a command of its own, and
left the ready state for it (log 94), unless it loads from its own lagoon. `acc`: the access, when it is reported; its address
is judged, what it reads is checked and its store lands here, and it waits for an atoll that retrains, for a staple under
restore and for a locked output (log 100). -/
def accessDone (n t : Nat) (how : AccessEnd) (acc : Option Access) (s : State) : State :=
  let acc := if acc.isSome then acc else (thread n t s).access
  let s := if (thread n t s).state == .ready && (!ownLoad n acc || accessWaits acc s) then threadWait n t .waitMem s else s
  let th := thread n t s
  if (th.state != .waitMem && th.state != .ready) || th.pkgFence || accessWaits acc s then s
  else
    let s := accessEffect n t acc (accessEnd n t s)
    if !running (thread n t s) then s
    else match how with
    | .ok => (readBad acc s).foldl (fun s a => accessFails n t a s) (threadTo n t .ready s)
    | .badStatus st =>
      if st.toNat = stOk then threadTo n t .ready s else threadFault n t st.toNat s
    | .badCrc a => accessFails n t a.toNat s
    | .uncorrectable a => accessFails n t a.toNat (uncorrectable a.toNat s)

/-- A package fence (R114). `writes`: what the program wrote before it and no earlier command reported; it is in place from
here on, before the fence completes. -/
def packageFence (n t : Nat) (writes : List (Nat × Byte)) (s : State) : State :=
  if (thread n t s).state == .ready then
    let s := threadWrites n t writes s
    let th := thread n t s
    if th.state == .ready then threadWait n t .waitMem (setThread n t { th with pkgFence := true } s) else s
  else s

def packageFenceDone (n t : Nat) (s : State) : State :=
  let th := thread n t s
  if th.state == .waitMem && th.pkgFence then setThread n t { th with state := .ready, pkgFence := false } s else s

/-! ### Meanings -/

def execMemoryAccessComplete (spindle : Nat) (thread : BitVec 3) (rep : AccessReport) (s : State) :
    Host.Outcome State Fault Refusal := run (accessDone spindle thread.toNat rep.how rep.acc) s

def execPackageFence (who : ThreadRef) (writes : List (Nat × Byte)) (s : State) : Host.Outcome State Fault Refusal :=
  run (packageFence who.spindle who.thread.toNat writes) s

def execPackageFenceComplete (spindle : Nat) (thread : BitVec 3) (s : State) : Host.Outcome State Fault Refusal :=
  run (packageFenceDone spindle thread.toNat) s

def execWatch (spindle : Nat) (thread : BitVec 3) (addr : BitVec 48) (cond : WatchCond) (operand : W64) (s : State) :
    Host.Outcome State Fault Refusal := run (setWatch spindle thread.toNat addr.toNat cond operand) s

end Sys2Proof.Machine
end

