-- ==== Sys2Proof/Machine/Sync.lean ====
section
/-! DEFINITION. Machine/Sync.lean: barrier units (R315 to R326, R330, R331). The meanings of SYNC entries and of the
participants' commands stand in Machine/SyncCmds.lean. -/

namespace Sys2Proof.Machine

def synErr (f : FRef) (c u p : Nat) (s : State) : State :=
  raiseErr f SYN_ERR_INFO [(SYN_ERR_INFO_CONTEXT, c), (SYN_ERR_INFO_UNIT, u), (SYN_ERR_INFO_PARTICIPANT, p)] s

/-- The unit of a context-relative barrier index. -/
def unitOf (c i : Nat) (s : State) : Option Nat :=
  (s.bars.find? fun b => b.2.ctx == c && b.2.index == i).map (·.1)

def barUnit (u : Nat) (s : State) : BarUnit := lookup s.bars { ctx := 0, index := 0, parts := [] } u
def setUnit (u : Nat) (x : BarUnit) (s : State) : State := { s with bars := ins s.bars u x }

/-- GEN (R321). -/
def genOf (b : BarUnit) : Bool := b.round % 2 == 1

def full (need have_ : List Nat) : Bool := need.all fun i => have_.contains i

/-- A SYNC entry is complete. -/
def syncDone (e : EntryRef) (s : State) : State := modDisp e (fun d => { d with st := .done }) s

/-- Wakes every waiter of rounds before `r` (R323, R328). -/
def wakeWaiters (u r : Nat) (s : State) : State :=
  let b := barUnit u s
  let (go, stay) := b.waiters.partition fun w => w.2.1 < r
  let s := setUnit u { b with waiters := stay } s
  go.foldl (fun s w =>
    let s := bump64 (SYN_CNT 2) 1 s
    match w.2.2 with
    -- the thread of a context that is out is rechecked at its restore (R330)
    | .thread t => if (thread w.1 t s).ctx == b.ctx then wake w.1 t s else s
    | .entry e => syncDone e s
    | .self => s) s

/-- The node vector of a generation. -/
def nodeVec (g : Bool) (b : BarUnit) : List Nat := if g then b.nodes1 else b.nodes0
def setNodeVec (g : Bool) (v : List Nat) (b : BarUnit) : BarUnit :=
  if g then { b with nodes1 := v } else { b with nodes0 := v }

/-- Releases the current round (R323). -/
def releaseRound (u : Nat) (remote : Bool) (s : State) : State :=
  let b := barUnit u s
  let s := bump64 (SYN_CNT 0) 1 s
  let s := if remote then bump64 (SYN_CNT 3) 1 s else s
  let r := b.round + 1
  wakeWaiters u r
    (setUnit u { setNodeVec (genOf b) [] b with round := r, cur := b.early, early := [], remote := false } s)

/-- The root of a node mask: its lowest position (R324). -/
def rootOf (nodes : List Nat) : Nat := nodes.foldl min (nodes.headD 0)

/-- Copies of RELEASE leave this package along the tree from the root (R303, R324). -/
def sendRelease (c i : Nat) (g : Bool) (nodes : List Nat) (s : State) : State :=
  (treeDirs (rootOf nodes) nodes s).foldl (fun s r =>
    leaveBy ((portOfRole r.2 s).map fun p => (p, channelOf 0 r.1 (rootOf nodes) r.2 s))
      (.barrier (rootOf nodes) (stepPos (ownPos s) r.2 s) true c i g nodes) s) s

/-- The node of a position of the own domain. -/
def nodeAt (pos : Nat) (s : State) : Nat := myNode s / 512 * 512 + pos

/-- ARRIVE of the package at position `src` goes on to the root (R324). -/
def sendArrive (src c i : Nat) (g : Bool) (nodes : List Nat) (s : State) : State :=
  routeFrom (nodeAt src s) (nodeAt (rootOf nodes) s) 0 (.barrier src (rootOf nodes) false c i g nodes) s

/-- A full current vector completes the local round: released at once without a node mask, else ARRIVE goes to the root
and, when every node is in, RELEASE goes out (R323, R324). `fuel` bounds the rounds that complete in succession. -/
def completeLocal : Nat → Nat → State → State
  | 0, _, s => s
  | f + 1, u, s =>
    let b := barUnit u s
    if !full b.parts b.cur || b.remote then s
    else if b.nodes.isEmpty then completeLocal f u (releaseRound u false s)
    else
      let g := genOf b
      let b := { b with remote := true }
      if rootOf b.nodes = ownPos s then
        let b := setNodeVec g (addOnce (nodeVec g b) (ownPos s)) b
        let s := setUnit u b s
        if full b.nodes (nodeVec g b) then
          completeLocal f u (releaseRound u true (sendRelease b.ctx b.index g b.nodes s))
        else s
      else sendArrive (ownPos s) b.ctx b.index g b.nodes (setUnit u b s)

/-- The agent of a participant whose latest arrival is kept on its own (R317): 1 + t for thread t, else 0. -/
def agentOf : Waiter → Nat
  | .thread t => 1 + t
  | _ => 0

/-- Records an arrival of participant i (R321, R322) by agent k of it. -/
def arriveUnit (u i k : Nat) (s : State) : State :=
  let b := barUnit u s
  if !b.cur.contains i then
    completeLocal 3 u (setUnit u { b with cur := b.cur ++ [i], last := ins b.last (i * 16 + k) b.round } s)
  else if !b.early.contains i then
    bump64 (SYN_CNT 1) 1 (setUnit u { b with early := b.early ++ [i], last := ins b.last (i * 16 + k) (b.round + 1) } s)
  else faultCtx b.ctx cfSync none (synErr SYN_ERR_BARRIER_OVERRUN b.ctx u i s)

/-- An arrival of participant p, which runs context c (R319, R321), by one of its agents. -/
def arrive (c i p : Nat) (who : Waiter) (s : State) : State :=
  if !ctxLive c s then s
  else match unitOf c i s with
    | none => faultCtx c cfSync none (synErr SYN_ERR_NOT_MEMBER c 0 p s)
    | some u =>
      if (barUnit u s).parts.contains p then arriveUnit u p (agentOf who) s
      else faultCtx c cfSync none (synErr SYN_ERR_NOT_MEMBER c u p s)

/-- An arrival at a barrier of context c by participant p, which runs context own: that context faults, and the unit is
left as it is (R319; the flag in log 103). -/
def arriveForeign (c i p own : Nat) (s : State) : State :=
  faultCtx own cfSync none (synErr SYN_ERR_NOT_MEMBER own ((unitOf c i s).getD 0) p s)

/-- A participant waits until the round of its own latest arrival is released; one that has not arrived waits for the
current round (R317). -/
def waitBar (c i p : Nat) (who : Waiter) (s : State) : State :=
  if !ctxLive c s then s
  else match unitOf c i s with
    | none => faultCtx c cfSync none (synErr SYN_ERR_NOT_MEMBER c 0 p s)
    | some u =>
      let b := barUnit u s
      let r := (find? b.last (p * 16 + agentOf who)).getD b.round
      if r < b.round then
        match who with
        | .entry e => syncDone e s
        | _ => s
      else
        let s := setUnit u { b with waiters := b.waiters ++ [(p, r, who)] } s
        match who with
        | .thread t => threadWait p t .waitSync s
        | .entry e => modDisp e (fun d => { d with st := .committing }) s
        | .self => s

/-! ### Threads (R318) -/

/-- The arrival of a thread whose FENCE and package fence are done, and the wait that may follow. -/
def arriveFenced (c i p t : Nat) (andWait : Bool) (s : State) : State :=
  let s := arrive c i p (.thread t) s
  if andWait && (thread p t s).state == .ready then waitBar c i p (.thread t) s else s

/-- A FENCE of a ready thread (R298): its next operation carries FENCED, and it waits while operations of it are out. -/
def fenceThread (n t : Nat) (s : State) : State :=
  let th := thread n t s
  if th.state != .ready then s
  else
    let th := { th with fenced := true }
    if th.ops.isEmpty then setThread n t th s else threadWait n t .waitRemote (setThread n t { th with fence := true } s)

/-- A thread of spindle p executes a barrier instruction that arrives (R317, R318): what it wrote is in place, the FENCE
ends with its operations, and then the arrival takes effect. -/
def threadArrives (c i p t : Nat) (writes : List (Nat × Byte)) (andWait : Bool) (s : State) : State :=
  if (thread p t s).state != .ready then s
  else
    let s := threadWrites p t writes s
    if (thread p t s).state != .ready then s
    else if (thread p t s).ctx != c then arriveForeign c i p (thread p t s).ctx s
    else
      let s := fenceThread p t s
      if (thread p t s).state == .ready then arriveFenced c i p t andWait s
      else setThread p t { thread p t s with arriving := some (c, i, p, andWait) } s

/-- A thread executes a barrier instruction that waits. -/
def threadWaits (c i p t : Nat) (s : State) : State :=
  let th := thread p t s
  if th.state == .ready && th.ctx == c then waitBar c i p (.thread t) s else s

/-! ### Messages (R324, R325) -/

/-- An ARRIVE message reaches the root, or a package on its way there. -/
def arriveMsg (c i : Nat) (g : Bool) (src : Nat) (mask : List Nat) (s : State) : State :=
  if rootOf mask != ownPos s then sendArrive src c i g mask s
  else if !ctxLive c s then s
  else match unitOf c i s with
    | none => s
    | some u =>
      let b := barUnit u s
      if b.nodes != mask then faultCtx c cfSync none (synErr SYN_ERR_MASK_MISMATCH c u 0 s)
      else
        let b := setNodeVec g (addOnce (nodeVec g b) src) b
        let s := setUnit u b s
        if g == genOf b && full b.nodes (nodeVec g b) then
          completeLocal 3 u (releaseRound u true (sendRelease b.ctx b.index g b.nodes s))
        else s

/-- A RELEASE message reaches a member, or a package that its tree passes; its copies go on (R303). -/
def releaseMsg (c i : Nat) (g : Bool) (mask : List Nat) (s : State) : State :=
  let s := if rootOf mask = ownPos s then s else sendRelease c i g mask s
  if !ctxLive c s then s
  else match unitOf c i s with
    | none => s
    | some u =>
      let b := barUnit u s
      if b.nodes != mask then faultCtx c cfSync none (synErr SYN_ERR_MASK_MISMATCH c u 0 s)
      else if b.remote && g == genOf b then completeLocal 3 u (releaseRound u true s)
      else s

/-- Positions of a 128-bit mask. -/
def maskList (m : BitVec 128) : List Nat := (List.range 128).filter fun i => m.getLsbD i

/-- Free units, in ascending order (R315, R316). -/
def freeUnits (s : State) : List Nat := (List.range 256).filter fun u => (find? s.bars u).isNone

/-- Allocates the barriers of context c at its first grant (R316, R325): none on a failure, with the state in which the
failure is recorded and the cause of the fault. -/
def allocBars (c : Nat) (s : State) : Bool × Nat × State :=
  let l := (ctx c s).weave.bars
  let free := freeUnits s
  if free.length < l.length then (false, cfResource, synErr SYN_ERR_NO_UNIT c 0 0 s)
  else
    let s := (List.range l.length).foldl (fun s i =>
      let r := l.getD i { parts := [], nodes := [] }
      setUnit (free.getD i 0) { ctx := c, index := i, parts := r.parts, nodes := r.nodes } s) s
    match (List.range l.length).find? fun i =>
        let r := l.getD i { parts := [], nodes := [] }
        !r.nodes.isEmpty && !r.nodes.contains (ownPos s) with
    | some i => (false, cfSync, synErr SYN_ERR_NOT_MEMBER c (free.getD i 0) 0 s)
    | none => (true, 0, s)

/-- Resets the units of context c to GEN 0 with empty vectors (R374). -/
def resetBars (c : Nat) (s : State) : State :=
  let clear (b : BarUnit) : BarUnit := { ctx := b.ctx, index := b.index, parts := b.parts, nodes := b.nodes }
  { s with bars := s.bars.map fun b => if b.2.ctx = c then (b.1, clear b.2) else b }

/-! ### Registers (R331) -/

/-- The word of a SYN_BAR register at byte offset `o` of unit u's block. -/
def synBar (u o : Nat) (s : State) : Nat :=
  match find? s.bars u with
  | none => 0
  | some b =>
    let word (l : List Nat) (j : Nat) : Nat := (l.filter fun i => i / 32 = j).foldl (fun t i => t + 2 ^ (i % 32)) 0
    if o = 0 then
      2 ^ 31 + b.ctx * 2 ^ 25 + b.index * 2 ^ 16 + (!b.nodes.isEmpty).toNat * 2 ^ 15 + rootOf b.nodes
    else if o = 4 then
      (genOf b).toNat * 2 ^ 31 + b.remote.toNat * 2 ^ 30 + b.early.length * 2 ^ 20 + b.cur.length * 2 ^ 10 +
        (b.waiters.foldl (fun l w => addOnce l w.1) ([] : List Nat)).length
    else if o < 0x18 then
      let k := (o - 8) / 8
      (b.nodes.filter fun i => i / 64 = k).foldl (fun t i => t + 2 ^ (i % 64)) 0
    else if 0x20 ≤ o && o < 0x50 then word b.parts ((o - 0x20) / 4)
    else if 0x50 ≤ o && o < 0x80 then word b.cur ((o - 0x50) / 4)
    else 0

/-- SYN_STATUS. -/
def synStatus (s : State) : Nat := (freeUnits s).length

end Sys2Proof.Machine
end

