-- ==== Sys2Proof/Machine/Xfer.lean ====
section
/-! DEFINITION. Machine/Xfer.lean: transfer descriptors of the ferry engine, their runs and pieces (R334 to R336, R340), and
the owner and error registers of a channel (R333, R342, R346). -/

namespace Sys2Proof.Machine

/-! ### Descriptors (R334, R335) -/

def dword (d : FryDesc) (w : Nat) : Nat := ((d.words.getD w 0)).toNat
/-- Bits hi:lo of a word. -/
def bitsOf32 (w hi lo : Nat) : Nat := w / 2 ^ lo % 2 ^ (hi + 1 - lo)
/-- A 32-bit word read as signed. -/
def signed32 (w : Nat) : Int := if w ≥ 2 ^ 31 then (w : Int) - 2 ^ 32 else w

def fTrigger (d : FryDesc) : Nat := bitsOf32 (dword d 1) 25 24
def fArg (d : FryDesc) : Nat := bitsOf32 (dword d 1) 23 8
def fSrc (d : FryDesc) : Nat := dword d 2 + dword d 3 * 2 ^ 32
def fDst (d : FryDesc) : Nat := dword d 4 + dword d 5 * 2 ^ 32
def fBeat (d : FryDesc) : Nat := bitsOf32 (dword d 6) 31 24
def fRun (d : FryDesc) : Nat := bitsOf32 (dword d 6) 23 0
def fC0 (d : FryDesc) : Nat := bitsOf32 (dword d 7) 23 0
def fC1 (d : FryDesc) : Nat := bitsOf32 (dword d 10) 23 0
def fC2 (d : FryDesc) : Nat := bitsOf32 (dword d 13) 23 0
def fArrive (d : FryDesc) : Bool := bitsOf32 (dword d 10) 31 31 == 1
def fBound (d : FryDesc) : Bool := bitsOf32 (dword d 10) 30 30 == 1
def fArriveBar (d : FryDesc) : Nat := bitsOf32 (dword d 7) 31 24

/-- SPACE of an address: 0 PACKAGE, 1 REMOTE, 2 HOST, 3 reserved. -/
def spaceOf (a : Nat) : Nat := a / 2 ^ 62
/-- Whether the reserved bits of an address are 0. -/
def addrRsvOk (a : Nat) : Bool :=
  if spaceOf a = 0 then bitsOf32 a 61 48 == 0 else if spaceOf a = 2 then bitsOf32 a 61 57 == 0 else spaceOf a == 1

/-- The field rules of R334 and R335; `driver` allows HOST. Words 8, 9, 11, 12, 14, 15 are unrestricted. -/
def descOk (driver : Bool) (d : FryDesc) : Bool :=
  let a := fSrc d
  let b := fDst d
  addrRsvOk a && addrRsvOk b && (driver || (spaceOf a != 2 && spaceOf b != 2)) &&
  !(spaceOf a == 1 && spaceOf b == 1) && fRun d != 0 && bitsOf32 (dword d 10) 29 24 == 0 && bitsOf32 (dword d 13) 31 24 == 0

/-! ### Runs (R336) and the pieces of REMOTE transfers (R340) -/

/-- One run: source and destination as addresses of the descriptor's spaces. -/
structure Run where
  src : Int
  dst : Int
  deriving DecidableEq, Repr

def runCount (d : FryDesc) : Nat := fC0 d * fC1 d * fC2 d

/-- Run i of a descriptor, counted with loop 0 innermost (R336). -/
def runAt (d : FryDesc) (i : Nat) : Run :=
  let s0 : Nat := if spaceOf (fSrc d) = 1 then (fSrc d) % 2 ^ 40 else (fSrc d) % 2 ^ 62
  let d0 : Nat := if spaceOf (fDst d) = 1 then (fDst d) % 2 ^ 40 else (fDst d) % 2 ^ 62
  let k0 := i % fC0 d
  let k1 := i / fC0 d % fC1 d
  let k2 := i / (fC0 d * fC1 d)
  { src := (s0 : Int) + k0 * signed32 (dword d 8) + k1 * signed32 (dword d 11) + k2 * signed32 (dword d 14)
    dst := (d0 : Int) + k0 * signed32 (dword d 9) + k1 * signed32 (dword d 12) + k2 * signed32 (dword d 15) }

/-- The runs of a descriptor, in order. -/
def runsOf (d : FryDesc) : List Run := (List.range (runCount d)).map (runAt d)

/-- Whether the transfer's result is unspecified (R336): a run overlaps its own source in the package, or two runs write
one byte. -/
def overlaps (d : FryDesc) (rs : List Run) : Bool :=
  let n : Int := fRun d
  let own := spaceOf (fSrc d) == spaceOf (fDst d) && rs.any fun r => r.src < r.dst + n && r.dst < r.src + n
  let ds := sortBy (fun (a b : Int) => a < b) (rs.map (·.dst))
  let near := (List.range ds.length).any fun i => match ds[i]?, ds[i + 1]? with
    | some a, some b => b < a + n
    | _, _ => false
  own || near

/-- n free bytes. -/
def freeBytes : Nat → State → List Byte × State
  | 0, s => ([], s)
  | n + 1, s =>
    let (v, s) := freeVal s
    let (l, s) := freeBytes n s
    (v.setWidth 8 :: l, s)

/-- A transfer between this package and a remote window. -/
def isRemote (d : FryDesc) : Bool :=
  (match d.src with | .prefetch _ => false | _ => true) && (spaceOf (fSrc d) == 1 || spaceOf (fDst d) == 1)

/-- PUT operations of at most 4,096 bytes that one run takes. -/
def putsPerRun (d : FryDesc) : Nat := (fRun d + 4095) / 4096

/-- Operations of a REMOTE transfer: PUTs of every run, or one GET for each. -/
def pieceCount (d : FryDesc) : Nat := if spaceOf (fDst d) = 1 then runCount d * putsPerRun d else runCount d

/-- Run, byte offset in the run, and length of piece i. -/
def pieceOf (d : FryDesc) (i : Nat) : Run × Nat × Nat :=
  if spaceOf (fDst d) = 1 then
    let k := i % putsPerRun d * 4096
    (runAt d (i / putsPerRun d), k, min 4096 (fRun d - k))
  else (runAt d i, 0, fRun d)

/-! ### Channels (R333, R342, R346) -/

/-- Owner of a channel: its context, or none for a driver channel. -/
def ownerCtx (n : Nat) (s : State) : Option Nat := (chan n s).owner.map (·.1)
def isDriver (n : Nat) (s : State) : Bool := bit (FRY_CH_CFG_DRIVER n) s

/-- A FRY_ERR flag with its capture (R346). -/
def fryErr (f : FRef) (n : Nat) (s : State) : State :=
  raiseErr f FRY_ERR_INFO [(FRY_ERR_INFO_CONTEXT, (ownerCtx n s).getD 0), (FRY_ERR_INFO_DRIVER, (ownerCtx n s).isNone.toNat),
    (FRY_ERR_INFO_CHANNEL, n), (FRY_ERR_INFO_CAUSE, f.lo)] s

/-- What a driver channel may name (R423): it reads HOST, REMOTE or a STAGE region, and writes HOST or a STAGE region. -/
def driverOk (d : FryDesc) (s : State) : Bool :=
  let staged (a : Int) : Bool := 0 ≤ a && (List.range 256).any fun r =>
    let g := region r s
    g.valid && g.kind == kStage && g.base ≤ a.toNat && a.toNat + fRun d ≤ g.base + g.size
  spaceOf (fDst d) != 1 && (runsOf d).all fun r =>
    (spaceOf (fSrc d) != 0 || staged r.src) && (spaceOf (fDst d) != 0 || staged r.dst)

/-- Whether a transfer of a driver channel names, where it would access memory now, what R423 does not let it name. -/
def driverBarred (d : FryDesc) (s : State) : Bool := d.src == .driver && !driverOk d s

/-- Late responses to the operations of a channel whose transfer was aborted are discarded (R311); threads that
wait for room may issue (R295). -/
def dropChanOps (n : Nat) (s : State) : State :=
  let kept := s.gld.ops.filter fun o => match o.2.owner with
    | .ferry m _ => m != n
    | _ => true
  wakeStalled (s.gld.ops.length - kept.length) (modGld (fun g => { g with ops := kept }) s)

/-- A driver's transfer that R423 forbids is discarded. -/
def discardXfer (n : Nat) (s : State) : State :=
  dropChanOps n (modChan n (fun x => { x with state := .aborted, active := none }) (fryErr FRY_ERR_ADDR n s))

/-- A bus error that is not retried any more (R342). -/
def haltChan (n : Nat) (s : State) : State :=
  bump64 (FRY_CNT 4) 1 (fryErr FRY_ERR_BUS_HALT n (modChan n (fun x => { x with state := .halted }) s))

end Sys2Proof.Machine
end

