-- ==== Sys2Proof/Machine/Gld.lean ====
section
/-! DEFINITION. Machine/Gld.lean: the fabric at the source of an operation: packets (R293, R294), the combining table as
packets leave (R300, R301), issue (R285, R287, R292, R304, R308), completion (R298, R311, R312) and reachability (R310). -/

namespace Sys2Proof.Machine

/-- The fabric's error register with its capture (R314). -/
def gldErr (f : FRef) (c st node : Nat) (s : State) : State :=
  raiseLatch f [(GLD_ERR_INFO_CONTEXT, c), (GLD_ERR_INFO_STATUS, st), (GLD_ERR_INFO_NODE, node)] s

/-! ### Opcodes (R292) -/

def ocPut : Nat := 0x01
def ocPutSignal : Nat := 0x02
def ocGet : Nat := 0x03
def ocReduce : Nat := 0x04
def ocMcast : Nat := 0x05
def ocAtomic : Nat := 0x06
def ocSignal : Nat := 0x07
def ocSend : Nat := 0x08
def ocAck : Nat := 0x10
def ocData : Nat := 0x11
def ocNak : Nat := 0x12

/-- Opcodes whose requests carry a payload. -/
def carries (oc : Nat) : Bool := oc == ocPut || oc == ocPutSignal || oc == ocReduce || oc == ocMcast || oc == ocSend

/-- Packet offsets of an operation of `n` bytes. -/
def pktOffs (n : Nat) : List Nat := if n = 0 then [0] else (List.range ((n + 4095) / 4096)).map (4096 * ·)

/-- The offsets of an operation: one packet for an ATOMIC or a SIGNAL. -/
def opOffs (h : ReqHeader) : List Nat :=
  if h.opcode.toNat = ocAtomic || h.opcode.toNat = ocSignal then [0] else pktOffs h.length.toNat

/-- Positions of an MCAST group (R303). -/
def groupOf (g : Nat) (s : State) : List Nat :=
  (List.range 128).filter fun i => (rd (GLD_MCAST g (i / 64)) s).getLsbD (i % 64)

/-- The nodes that answer an operation: every member of the group, or the target. -/
def membersOf (h : ReqHeader) (s : State) : List Nat :=
  if h.opcode.toNat = ocMcast then (groupOf h.group.toNat s).map fun i => myNode s / 512 * 512 + i else [h.dest.toNat]

/-! ### Packet bytes and CRC (R293, R294) -/

/-- Bytes 0 to 59 of a request header. -/
def hdrBytes (h : ReqHeader) : List Byte :=
  let w0 := h.opcode.toNat * 2 ^ 27 + h.tc.toNat * 2 ^ 25 + h.order.toNat * 2 ^ 23 + h.retx.toNat * 2 ^ 22 +
    h.fenced.toNat * 2 ^ 21 + h.dest.toNat * 2 ^ 10 + h.src.toNat
  let w1 := h.window.toNat * 2 ^ 20 + h.tag.toNat * 16 + h.dir.toNat * 2
  let w7 := h.subop.toNat * 2 ^ 28 + h.sigOp.toNat * 2 ^ 26 + h.msgCtx.toNat * 2 ^ 20 + h.srcCtx.toNat * 2 ^ 14 +
    h.group.toNat * 2 ^ 8
  natToBytes 4 w0 ++ natToBytes 4 w1 ++ natToBytes 8 h.offset.toNat ++ natToBytes 4 h.length.toNat ++
    natToBytes 4 h.pktOff.toNat ++ natToBytes 4 h.key.toNat ++ natToBytes 4 w7 ++ natToBytes 8 h.sigOffset.toNat ++
    natToBytes 8 h.valueA.toNat ++ natToBytes 8 h.valueB.toNat ++ natToBytes 4 0

def packetCrc (h : ReqHeader) (payload : List Byte) : W32 := crc32c (hdrBytes h ++ payload)

/-- A packet with its CRC. -/
def mkPacket (h : ReqHeader) (payload : List Byte) : Packet := { hdr := h, payload := payload, crc := packetCrc h payload }

/-- Bytes 0 to 27 of a response header. -/
def respBytes (r : RespPacket) : List Byte :=
  let w0 := r.opcode.toNat * 2 ^ 27 + r.tc.toNat * 2 ^ 25 + r.status.toNat * 2 ^ 21 + r.dest.toNat * 2 ^ 10 + r.src.toNat
  natToBytes 4 w0 ++ natToBytes 4 (r.tag.toNat * 2 ^ 16 + r.nakReason.toNat * 2 ^ 12) ++ natToBytes 4 r.pktOff.toNat ++
    natToBytes 4 r.data.length ++ natToBytes 8 r.value.toNat ++ natToBytes 4 0

def respCrc (r : RespPacket) : W32 := crc32c (respBytes r ++ r.data)
def respOk (r : RespPacket) : Bool := r.crc == respCrc r

/-- A response with its CRC. -/
def mkResp (r : RespPacket) : RespPacket := { r with crc := respCrc r }

/-- A request header with every field 0. -/
def hdr0 : ReqHeader :=
  { opcode := 0, tc := 0, order := 0, retx := false, fenced := false, dest := 0, src := 0, window := 0, tag := 0, dir := 0
    offset := 0, length := 0, pktOff := 0, key := 0, subop := 0, sigOp := 0, msgCtx := 0, srcCtx := 0, group := 0
    sigOffset := 0, valueA := 0, valueB := 0 }

/-! ### The combining table as packets pass (R300, R301) -/

/-- The bytes of a window that an operation covers. -/
def opRange (h : ReqHeader) : Nat × Nat :=
  (h.offset.toNat, h.offset.toNat + (if h.opcode.toNat = ocAtomic then max h.length.toNat 8 else h.length.toNat))

def isFadd (h : ReqHeader) : Bool := h.opcode.toNat == ocAtomic && h.subop == 0
def combines (h : ReqHeader) : Bool := (h.opcode.toNat == ocGet && h.length.toNat ≤ 256) || isFadd h

/-- The packet of an entry as it is forwarded: for FETCH_ADD the sum of the addends. -/
def combined (e : Combine) : ReqHeader :=
  if isFadd e.hdr then { e.hdr with valueA := e.attached.foldl (fun v a => v + a.2.2) e.hdr.valueA } else e.hdr

/-- A packet goes on towards its target, or is discarded when no port leads there (R310). -/
def pass (p : Packet) (s : State) : State :=
  let h := p.hdr
  leaveBy (outHop h.src.toNat h.dest.toNat h.order.toNat h.dir.toNat h.tc.toNat s) (.packet p) s

def setCombine (l : List Combine) (s : State) : State := modGld (fun g => { g with combine := l }) s

/-- Forwards a FETCH_ADD that the router held. -/
def release (e : Combine) (s : State) : State :=
  if e.sent then s else pass (mkPacket (combined e) []) s

/-- FETCH_ADDs that the router held while their output was busy go on, those for port p or all (R301): the output is free once
an ACK covers what it sent, and at the latest after 1 µs (log 137). -/
def releaseAdds (p : Option Nat) (s : State) : State :=
  let out (e : Combine) : Bool :=
    let h := e.hdr
    !e.sent && match p with
      | none => true
      | some p => (outHop h.src.toNat h.dest.toNat h.order.toNat h.dir.toNat h.tc.toNat s).map (·.1) == some p
  let go := s.gld.combine.filter out
  go.foldl (fun s e => release e s) (setCombine (s.gld.combine.map fun e => if out e then { e with sent := true } else e) s)

/-- Whether a write of header h meets the range of an entry: the entry's node is its target, or a member of its group. -/
def meetsEntry (h : ReqHeader) (s : State) (e : Combine) : Bool :=
  let here : Bool :=
    if h.opcode.toNat = ocMcast then
      sameDomain e.hdr.dest.toNat s && (groupOf h.group.toNat s).contains (posOf e.hdr.dest.toNat)
    else e.hdr.dest == h.dest
  !e.closed && here && e.hdr.window == h.window && (opRange h).1 < (opRange e.hdr).2 && (opRange e.hdr).1 < (opRange h).2

/-- A write or ATOMIC to an overlapping range closes the entries it meets, but for those that `keep` names (R301). -/
def closeEntries (h : ReqHeader) (keep : Combine → Bool) (s : State) : State :=
  let oc := h.opcode.toNat
  if !(oc == ocPut || oc == ocPutSignal || oc == ocReduce || oc == ocMcast || oc == ocAtomic) then s
  else
    let meets (e : Combine) : Bool := meetsEntry h s e && !keep e
    let s1 := (s.gld.combine.filter meets).foldl (fun s e => release e s) s
    setCombine (s1.gld.combine.map fun e => if meets e then { e with closed := true, sent := true } else e) s1

/-! ### Packets leave (R276, R293, R294, R303, R308) -/

/-- A request packet of the package's own leaves; one for the package itself stays inside. -/
def emit (p : Packet) (s : State) : State :=
  let s := closeEntries p.hdr (fun _ => false) s
  if p.hdr.dest.toNat = myNode s then send (.packet p) s else pass p s

/-- A response packet leaves. Its header names no path; each router takes that of R285. -/
def emitResp (r : RespPacket) (s : State) : State :=
  if r.dest.toNat = myNode s then send (.resp r) s else routeFrom r.src.toNat r.dest.toNat r.tc.toNat (.resp r) s

/-- Copies of an MCAST_PUT packet go on, one per direction of the tree of their ORDER, towards those members (R303). -/
def emitTree (p : Packet) (members : List Nat) (s : State) : State :=
  let h := p.hdr
  (treeNext (posOf h.src.toNat) h.order.toNat h.dir.toNat members s).foldl (fun s r =>
    leaveBy ((portOfRole r s).map fun o => (o, channelOf h.tc.toNat h.order.toNat (posOf h.src.toNat) r s))
      (.packet p) s) s

/-- An MCAST_PUT packet leaves its source, in a copy per ORDER and direction (R303; log 136). A router sends it on in its
ORDER. -/
def emitMcast (p : Packet) (s : State) : State :=
  let h := p.hdr
  let group := groupOf h.group.toNat s
  if h.src.toNat = myNode s then
    [0, 1, 2].foldl (fun s o => emitTree (mkPacket { h with order := BitVec.ofNat 2 o } p.payload) group s) s
  else emitTree p group s

/-- Packets that go through port 6 under a pair session (R421). -/
def paired (h : ReqHeader) (way : Bool) (s : State) : Bool :=
  way || (!sameDomain h.dest.toNat s && h.opcode.toNat == ocSend)

/-- The header under which a packet's payload is sealed: RETX is not covered. -/
def sealHdr (h : ReqHeader) : List Byte := hdrBytes { h with retx := false }

/-- The packet of an operation at payload offset k leaves: a causeway transfer in TC3 SEND packets through port 6, an
MCAST_PUT along its tree and to the package itself, any other by its path. -/
def sendPkt (o : FabOp) (k : Nat) (retx : Bool) (s : State) : State :=
  let h := o.hdr
  let pay := if carries h.opcode.toNat then (o.payload.drop k).take 4096 else []
  let hk : ReqHeader := { h with pktOff := BitVec.ofNat 32 k, retx := retx }
  let p := mkPacket hk (if paired h o.way s then Config.pairSeal h.dest.toNat (sealHdr hk) pay else pay)
  if o.way then leaveBy (outHop (myNode s) h.dest.toNat 0 0 3 s) (.carrier p) s
  else if h.opcode.toNat = ocMcast then
    let s := emitMcast p (closeEntries h (fun _ => false) s)
    if (groupOf h.group.toNat s).contains (ownPos s) then send (.packet p) s else s
  else emit p s

/-- Sends the packets of an operation, in order of offset. -/
def sendOp (o : FabOp) (s : State) : State :=
  (if carries o.hdr.opcode.toNat then opOffs o.hdr else [0]).foldl (fun s k => sendPkt o k false s) s

/-! ### Completion of operations (R298, R311, R312) -/

def op? (tag : Nat) (s : State) : Option FabOp := find? s.gld.ops tag
def setOp (tag : Nat) (o : FabOp) (s : State) : State := modGld (fun g => { g with ops := ins g.ops tag o }) s

/-- The error flag of a status. -/
def statusErr (st : Nat) : FRef :=
  if st = stRetry then GLD_ERR_RETRY_EXHAUSTED else if st = stTargetDead then GLD_ERR_TARGET_DEAD
  else if st = stWindowFault then GLD_ERR_WINDOW_FAULT else GLD_ERR_POISON

/-- Records a bad completion: flag, capture, and for TARGET_DEAD the event to the fabric manager (R312). -/
def statusFlags (st c node : Nat) (s : State) : State :=
  if st = stOk || st = stCancelled then s
  else
    let s := gldErr (statusErr st) c st node s
    if st = stTargetDead then send (.mctp (.targetDead (c % 64))) s else s

/-- The completion of a thread's operation. A FENCE that it ends lets a waiting arrival take effect (R318). -/
def deliverThread (n t : Nat) (o : FabOp) (tag st : Nat) (bs : List Byte) (s : State) : State :=
  let th := thread n t s
  let th := { th with ops := removeOnce th.ops tag }
  if st != stOk then threadFaultIn n t o.ctx st (setThread n t th s)
  else
    let mine : Bool := o.wait && th.state == .waitRemote && !th.recv && !th.fence
    let th := if mine then { th with state := .ready, result := bs } else th
    if th.fence && th.ops.isEmpty then
      let s := setThread n t { th with state := .ready, fence := false, arriving := none } s
      match th.arriving with
      | some (c, i, p, w) => arriveFenced c i p t w s
      | none => s
    else setThread n t th s

/-- The completion of piece i of a ferry channel's transfer (R341, R343): GET data lands, and a status other than OK faults
the owning context or halts a driver channel. -/
def deliverFerry (n i st : Nat) (bs : List Byte) (s : State) : State :=
  match (chan n s).active with
  | none => s
  | some d =>
    if st != stOk then
      let s := fryErr FRY_ERR_REMOTE n s
      match ownerCtx n s with
      | some c => faultCtx c (if st = stTargetDead then cfDead else cfFerry) none s
      | none =>
        let s := modChan n (fun x => { x with redo := x.redo ++ [i] }) s
        if (chan n s).state == .running then haltChan n s else s
    else
      let (r, _, len) := pieceOf d i
      let s := bump64 (FRY_CNT 2) len s
      if spaceOf (fDst d) = 1 then s
      else
        let s := bump64 (FRY_CNT 1) len s
        let (bs, s) := if overlaps d (runsOf d) then freeBytes len s else (bs, s)
        if driverBarred d s then discardXfer n s
        else if spaceOf (fDst d) = 0 then wrUnit r.dst.toNat bs false s else send (.hostWrite 0 r.dst.toNat bs) s

/-- Delivers a completion to what issued the operation. -/
def deliver (o : FabOp) (tag st : Nat) (bs : List Byte) (s : State) : State :=
  match o.owner with
  | .thread n t => deliverThread n t o tag st bs s
  | .ferry n i => deliverFerry n i st bs s
  | .buddy => s
  | .dropped => s
  | .unit => if st = stOk then s else faultCtx o.ctx (if st = stTargetDead then cfDead else cfCard) none s

/-- The node that a completion concerns: for TARGET_DEAD the first one that cannot be reached. -/
def deadNode (o : FabOp) (st : Nat) (s : State) : Nat :=
  if st = stTargetDead then ((membersOf o.hdr s).find? fun m => !reachable m s).getD o.hdr.dest.toNat else o.hdr.dest.toNat

/-- An outstanding operation completes. -/
def finishOp (tag st : Nat) (bs : List Byte) (s : State) : State :=
  match op? tag s with
  | none => s
  | some o =>
    let s := modGld (fun g => { g with ops := del g.ops tag, refused := g.refused.filter (· != tag) }) s
    let s := if s.pwr.held.any (fun l => l.kind == .causeway tag) || s.pwr.queue.any (fun l => l.kind == .causeway tag) then
      releaseLeave (.causeway tag) true s else s
    wakeStalled 1 (deliver o tag st bs (statusFlags st o.ctx (deadNode o st s) s))

/-- Whether an operation may leave: a causeway transfer holds leave (R385), and an operation whose packets need a pair session
has one (R421). -/
def mayLeave (tag : Nat) (o : FabOp) (s : State) : Bool :=
  (!o.way || leaveActive (.causeway tag) s) && (!paired o.hdr o.way s || s.sec.pairs.contains o.hdr.dest.toNat)

/-- After leave was granted or refused (R308, R396) or a pair session was established (R421): operations that may leave do so,
refused causeway transfers end, those of the lower node first (R314). -/
def settleCauseway (s : State) : State :=
  let node (t : Nat) : Nat := ((op? t s).map fun o => o.hdr.dest.toNat).getD 0
  let s := (sortBy (fun a b => node a < node b) s.gld.refused).foldl (fun s t => finishOp t stRetry [] s) s
  let s := modGld (fun g => { g with refused := [] }) s
  s.gld.ops.foldl (fun s o =>
    if !o.2.sent && mayLeave o.1 o.2 s then sendOp o.2 (setOp o.1 { o.2 with sent := true } s) else s) s

/-! ### Issue (R285, R287, R292, R295, R304, R308, R421) -/

/-- A tag no outstanding operation uses. -/
def freeTag (s : State) : Nat :=
  ((List.range 4097).map fun i => (s.gld.nextTag + i) % 65536).find? (fun t => (op? t s).isNone) |>.getD 0

/-- A pair session with a remote node is established; at most 128 are held (R421, log 147). -/
def openPair (node : Nat) (s : State) : State :=
  if s.sec.pairs.contains node || s.sec.pairs.length ≥ 128 then s
  else
    let s := { s with sec := { s.sec with pairs := s.sec.pairs ++ [node] } }
    setFld SEC_OFFING_PAIRS_PAIRS s.sec.pairs.length s

/-- The class that carries an operation (R287): a SIGNAL goes in TC0, whose payloads have at most 256 bytes. -/
def classOf (h : ReqHeader) (way : Bool) : BitVec 2 :=
  if way then 3 else if h.opcode.toNat = ocSignal then 0 else if h.tc = 0 && h.length.toNat > 256 then 2 else h.tc

/-- The header as it leaves: source, tag, path, class. -/
def issueHdr (o : FabricOp) (c tag order dir : Nat) (fenced way : Bool) (s : State) : ReqHeader :=
  { o.hdr with
    src := BitVec.ofNat 10 (myNode s), srcCtx := BitVec.ofNat 6 c, tag := BitVec.ofNat 16 tag, retx := false
    fenced := fenced, order := BitVec.ofNat 2 order, dir := BitVec.ofNat 3 dir, pktOff := 0, tc := classOf o.hdr way }

/-- A status that an operation completes with at once, at its issue. -/
def failIssue (o : FabricOp) (owner : OpOwner) (c st : Nat) (s : State) : State :=
  let dest := o.hdr.dest.toNat
  let x : FabOp := { hdr := o.hdr, payload := [], owner := owner, ctx := c }
  let s := if st = stWindowFault && o.hdr.opcode.toNat != ocSend && !sameDomain dest s then gldErr GLD_ERR_DOMAIN c st dest s
    else s
  deliver x 65536 st [] (statusFlags st c (deadNode x st s) s)

/-- What the source decides before an operation leaves: a status at once, or whether it is a causeway transfer. -/
def issueVerdict (o : FabricOp) (s : State) : Option Nat × Bool :=
  let oc := o.hdr.opcode.toNat
  let dest := o.hdr.dest.toNat
  let far : Bool := nodeValid s && !sameDomain dest s
  let way : Bool := far && bit GLD_CTRL_CAUSEWAY s && (oc == ocPut || oc == ocPutSignal || oc == ocGet)
  if oc == ocSend && o.spindle.isSome && o.hdr.valueA.getLsbD 63 then (some stWindowFault, false)
  else if far && oc != ocSend && !way then (some stWindowFault, false)
  else if !nodeValid s || !((membersOf o.hdr s).all fun m => reachable m s) then (some stTargetDead, false)
  else (none, way)

/-- Asks for a pair session with a remote node, before the first SEND to it (R421). -/
def askPair (node : Nat) (s : State) : State :=
  if s.sec.pairs.contains node || s.sec.pairs.length ≥ 128 then s
  else leaveBy (outHop (myNode s) node 0 0 2 s) (.pairSpdm node) s

/-- The operation leaves: it takes a tag and its packets go out, or a causeway transfer asks for leave (R308, R385). A
thread waits for a GET, an ATOMIC, or an operation whose completion it asks for (R68, log 104). The DIR of an MCAST_PUT says
which of equally long directions its trees take (log 136). -/
def launch (o : FabricOp) (owner : OpOwner) (c : Nat) (way : Bool) (s : State) : State :=
  let oc := o.hdr.opcode.toNat
  let dest := o.hdr.dest.toNat
  let (tie, s) := tieBits (classOf o.hdr way).toNat s
  let (order, dir) := if oc = ocMcast then (0, tie) else (pathOf (ownPos s) (posOf dest) tie s).getD (0, 0)
  let tag := freeTag s
  let fenced : Bool := match owner with
    | .thread n t => (thread n t s).fenced
    | _ => false
  let h := issueHdr o c tag order dir fenced way s
  let wait : Bool := o.wait || oc == ocGet || oc == ocAtomic
  let x : FabOp := { hdr := h, payload := o.payload, owner := owner, ctx := c, wait := wait, way := way, sent := !way && (!paired h way s || s.sec.pairs.contains dest) }
  let s := modGld (fun g => { g with nextTag := (tag + 1) % 65536 }) (setOp tag x s)
  let s := match owner with
    | .thread n t =>
      let th := thread n t s
      let s := setThread n t { th with fenced := false, ops := th.ops ++ [tag] } s
      if wait then threadWait n t .waitRemote s else s
    | _ => s
  let s := if paired h way s then askPair dest s else s
  if way then settleCauseway (askLeave (.causeway tag) 45000 s)
  else if !x.sent then s
  else if oc = ocMcast && (membersOf h s).isEmpty then finishOp tag stOk [] s
  else sendOp x s

/-- Whether another operation may be outstanding (R295). -/
def opRoom (s : State) : Bool := s.gld.ops.length < 4096

/-- Issues an operation for which there is room (R292, R313). -/
def issue (o : FabricOp) (owner : OpOwner) (c : Nat) (s : State) : State :=
  let s := bump64 (GLD_CNT 0) 1 s
  match issueVerdict o s with
  | (some st, _) => failIssue o owner c st s
  | (none, way) => launch o owner c way s

/-- Issues an operation of a thread or unit. With 4,096 outstanding a thread waits, and so does an operation of a unit
(R295, log 105). -/
def issueOp (o : FabricOp) (s : State) : State :=
  let t := o.thread.toNat
  match o.spindle with
  | some n =>
    if (thread n t s).state != .ready then s
    else if opRoom s then issue o (.thread n t) (thread n t s).ctx s
    else modGld (fun g => { g with stalled := g.stalled ++ [n * 8 + t] }) (threadWait n t .waitRemote s)
  | none =>
    if !ctxLive o.ctx.toNat s then s
    else if opRoom s then
      issue o (if o.hdr.opcode.toNat = ocSend && o.hdr.valueA.getLsbD 63 then .buddy else .unit) o.ctx.toNat s
    else modGld (fun g => { g with waiting := g.waiting ++ [o] }) s

/-- Operations of units that wait for room are issued, oldest first. -/
def issueWaiting : Nat → State → State
  | 0, s => s
  | f + 1, s =>
    match s.gld.waiting with
    | [] => s
    | o :: rest => if opRoom s then issueWaiting f (issueOp o (modGld (fun g => { g with waiting := rest }) s)) else s

/-! ### Reachability (R310) -/

/-- The word k of GLD_REACH. -/
def reachWord (k : Nat) (s : State) : Nat :=
  (List.range 64).foldl (fun w i =>
    let n := 64 * k + i
    if nodeValid s && n < domainSize s && (n == ownPos s || (pathOf (ownPos s) n 0 s).isSome) then w + 2 ^ i else w) 0

/-- LOCK codes of R122. -/
def lkUnlocked : Nat := 0
def lkAcquire : Nat := 1
def lkLocked : Nat := 2
def lkHoldover : Nat := 3

def lockState (s : State) : Nat := fld BT_STATUS_LOCK s

/-- BT_PHASE: 0 without beats, else a free value, since the model has no clock inside a beat (log 1, R120). -/
def beatPhase (s : State) : Nat × State :=
  if lockState s = lkUnlocked then (0, s)
  else
    let (v, s) := freeVal s
    (v.toNat % 2 ^ 32, s)

/-- The ID frame of a port (R280). -/
def idOf (p : Nat) (s : State) : IdFrame :=
  { identity := s.fuse.identity, kind := 0, code := s.fuse.code, port := BitVec.ofNat 3 p
    node := BitVec.ofNat 10 (myNode s), role := BitVec.ofNat 3 (fld (GLD_PORT_ROLE_ROLE p) s)
    lock := BitVec.ofNat 2 (lockState s) }

/-- A field of the ID frames changed: every trained port sends one at once (R280). -/
def sendIds (s : State) : State :=
  (List.range 7).foldl (fun s p => if portState p s ≥ pIdentify then post p 0 (.id p (idOf p s)) s else s) s

/-- Changes BT_STATUS.LOCK. -/
def setLock (l : Nat) (s : State) : State :=
  if lockState s = l then s
  else
    let s := setFld BT_STATUS_LOCK l s
    sendIds (if l = lkLocked then { s with boot := { s.boot with everLocked := true } } else s)

/-- Every path to the root lost while LOCKED: HOLDOVER (R122). -/
def checkRoot (s : State) : State :=
  if lockState s = lkLocked && !bit BT_CTRL_ROOT s && !reachable (fld BT_STATUS_ROOT_NODE s) s then setLock lkHoldover s
  else s

/-- The node that a packet or response is on its way to. -/
def msgDest : Sent → Option Nat
  | .packet p => if p.hdr.opcode.toNat = ocMcast then none else some p.hdr.dest.toNat
  | .carrier p => some p.hdr.dest.toNat
  | .resp r => some r.dest.toNat
  | _ => none

/-- Packets the router holds for an unreachable node are discarded (R310). -/
def dropHeld (s : State) : State :=
  let dead (e : Combine) : Bool := !e.sent && !reachable e.hdr.dest.toNat s
  let gone (q : Queued) : Bool := match msgDest q.msg with
    | some m => !reachable m s
    | none => false
  let n : Nat := (s.gld.combine.filter dead).foldl (fun t e => t + 1 + e.attached.length) 0
  let k : Nat := s.gld.ports.foldl (fun t p => t + (p.2.queue.filter gone).length) 0
  let s := modGld (fun g => { g with
    combine := g.combine.filter fun e => !dead e
    ports := g.ports.map fun p => (p.1, { p.2 with queue := p.2.queue.filter fun q => !gone q }) }) s
  if n + k = 0 then s else bump64 (GLD_CNT 6) (n + k) s

/-- GLD_REACH follows the route state. -/
def setReach (s : State) : State :=
  wr (GLD_REACH 1) (BitVec.ofNat 64 (reachWord 1 s)) (wr (GLD_REACH 0) (BitVec.ofNat 64 (reachWord 0 s)) s)

/-- Outstanding operations with a node that cannot be reached, in ascending order of that node (R314). -/
def deadOps (s : State) : List (Nat × FabOp) :=
  sortBy (fun a b => deadNode a.2 stTargetDead s < deadNode b.2 stTargetDead s)
    (s.gld.ops.filter fun o => !((membersOf o.2.hdr s).all fun m => reachable m s))

/-- FRY_ERR.REMOTE of the transfers whose operations end with their nodes, in ascending physical channel (R341, R346). -/
def deadXfers (s : State) : State :=
  (sortBy (· < ·) ((deadOps s).filterMap fun o => match o.2.owner with
    | .ferry n _ => if (chan n s).active.isSome then some n else none
    | _ => none)).foldl (fun s n => fryErr FRY_ERR_REMOTE n s) s

/-- Route state changed: GLD_REACH, operations to nodes that became unreachable, the tally. -/
def routeChanged (s : State) : State :=
  let s := deadXfers (setReach s)
  checkRoot (dropHeld ((deadOps s).foldl (fun s o => finishOp o.1 stTargetDead [] s) s))

/-- Copies for the members of a tree that a DOWN link has cut off go towards each by its path from here, one per way out
(R310; log 136). -/
def reTree (src tc : Nat) (members : List Nat) (copy : Nat → Nat → Sent) (s : State) : State :=
  let ways := members.foldl (fun l m => match pathOf (ownPos s) m 0 s with
    | none => l
    | some (o, d) => match (treePath (ownPos s) m o d s).head? with
      | some x => addOnce l (o, x.2)
      | none => l) ([] : List (Nat × Nat))
  if ways.isEmpty then leaveBy none (copy 0 0) s
  else ways.foldl (fun s w =>
    leaveBy ((portOfRole w.2 s).map fun p => (p, channelOf tc w.1 src w.2 s)) (copy w.1 (stepPos (ownPos s) w.2 s)) s) s

/-- What was in a port of direction `role` that went DOWN is routed again by R285, `old` being the state before: the header of
a packet takes the new path, and with it a new CRC (log 106). Control frames of the port itself are gone with it. -/
def reroute (role : Nat) (old : State) (m : Sent) (s : State) : State :=
  match m with
  | .packet p =>
    let h := p.hdr
    let src := posOf h.src.toNat
    if h.opcode.toNat = ocMcast then
      reTree src h.tc.toNat (membersBehind src h.dir.toNat role (groupOf h.group.toNat s) old)
        (fun o _ => .packet (mkPacket { h with order := BitVec.ofNat 2 o } p.payload)) s
    else if !sameDomain h.dest.toNat s then leaveBy none m s
    else
      let (tie, s) := tieBits h.tc.toNat s
      match pathOf (ownPos s) (posOf h.dest.toNat) tie s with
      | some (o, d) => pass (mkPacket { h with order := BitVec.ofNat 2 o, dir := BitVec.ofNat 3 d } p.payload) s
      | none => leaveBy none m s
  | .carrier q => routeFrom q.hdr.src.toNat q.hdr.dest.toNat 3 m s
  | .resp r => routeFrom r.src.toNat r.dest.toNat r.tc.toNat m s
  | .barrier src d false _ _ _ _ => routeFrom (myNode s / 512 * 512 + src) (myNode s / 512 * 512 + d) 0 m s
  | .barrier src _ true c b g mask =>
    reTree src 0 (membersBehind src 0 role mask old) (fun _ d => .barrier src d true c b g mask) s
  | .prefillPage _ _ _ _ => leaveBy none m s
  | _ => s

/-- A notice names a link that went DOWN or came UP (R310, R440); a change is flooded on. -/
def linkNotice (pos role : Nat) (up : Bool) (s : State) : State :=
  if !s.boot.on || role ≥ 6 then s
  else
    let was := s.gld.downLinks.contains (pos, role)
    let s := routeChanged (modGld (fun g =>
      { g with downLinks := if up then g.downLinks.filter (· != (pos, role)) else addOnce g.downLinks (pos, role) }) s)
    if was == up then flood (.portNotice pos role up) s else s

end Sys2Proof.Machine
end

