-- ==== Sys2Proof/Machine/Ferry.lean ====
section
/-! DEFINITION. Machine/Ferry.lean: the ferry engine (chapter 12): triggers, copies, REMOTE operations, completion, and the
driver's commands. -/

namespace Sys2Proof.Machine

/-! ### Channels -/

/-- The physical channel that a descriptor on channel n names: context-relative for a context's channel. -/
def namedChan (n i : Nat) (s : State) : Option Nat :=
  match (chan n s).owner with
  | some (c, _) => chanAt c i s
  | none => if i < 64 then some i else none

/-- FRY_CH_DONE. -/
def chDone (n : Nat) (s : State) : Nat := fld (FRY_CH_DONE_COUNT n) s

/-- The channel that a CHAIN trigger names: bits 13:8 of word 1 (R334). -/
def fChain (d : FryDesc) : Nat := bitsOf32 (dword d 1) 13 8
/-- The barrier that a BARRIER trigger names: bits 15:8 of word 1 (R334). -/
def fBarrier (d : FryDesc) : Nat := bitsOf32 (dword d 1) 15 8

/-- The reference point of a trigger when the descriptor enters the shadow set (R338). -/
def markOf (n : Nat) (d : FryDesc) (s : State) : Nat :=
  if fTrigger d = 2 then ((namedChan n (fChain d) s).map fun m => chDone m s).getD 0
  else if fTrigger d = 3 then
    match ownerCtx n s with
    | some c => ((unitOf c (fBarrier d) s).map fun u => (barUnit u s).round).getD 0
    | none => 0
  else 0

/-- Whether an armed descriptor's trigger fires now; a TIMER fires here only when its moment has passed at arming. -/
def triggered (n : Nat) (d : FryDesc) (s : State) : Bool :=
  match d.src with
  | .prefetch _ => true
  | _ =>
    if fTrigger d = 0 then true
    else if fTrigger d = 2 then ((namedChan n (fChain d) s).map fun m => chDone m s != d.mark).getD false
    else if fTrigger d = 3 then
      match ownerCtx n s with
      | some c => ((unitOf c (fBarrier d) s).map fun u => (barUnit u s).round != d.mark).getD false
      | none => false
    else false

/-- Whether BT_PHASE, at a moment whose place in the beat the model does not know (log 1), has passed the offset of a TIMER
of ARG × 16 ns. -/
def phasePassed (d : FryDesc) (s : State) : Bool × State :=
  let (ph, s) := beatPhase s
  (fArg d * 16 * 2 ^ 32 ≤ ph * (fld BT_BEAT_LEN_LEN_US s * 1000), s)

/-- Whether a TIMER's moment has passed when the channel is armed (R338): its schedule beat lies behind the step, or has
begun and BT_PHASE is past ARG × 16 ns. -/
def timerLate (n : Nat) (d : FryDesc) (s : State) : Bool × State :=
  match d.src, ownerCtx n s with
  | .prefetch _, _ => (false, s)
  | _, none => (false, s)
  | _, some c => match (ctx c s).step with
    | none => (false, s)
    | some st =>
      if fTrigger d != 1 then (false, s)
      else if st.beat > fBeat d then (true, s)
      else if st.beat = fBeat d && (ctx c s).ran then phasePassed d s
      else (false, s)

/-- Starts an ARMED channel. -/
def startChan (n : Nat) (s : State) : State :=
  wr (FRY_CH_POS n) 0 (wr (FRY_CH_POS2 n) 0
    (modChan n (fun x => { x with state := .running, next := 0, redo := [], tries := none }) s))

/-- Whether a channel's context is being spilled or is out: its channels stand still until the restore (R344). -/
def chanOut (n : Nat) (s : State) : Bool :=
  match ownerCtx n s with
  | some r => !(ctx r s).spilled.isEmpty || s.ctxs.any fun c => c.2.spillWait.any fun p => p.2 == r
  | none => false

/-- Starts every ARMED channel whose trigger fires, in ascending physical channel. -/
def fireTriggers (s : State) : State :=
  s.chans.foldl (fun s x =>
    let h := chan x.1 s
    match h.state, h.active with
    | .armed, some d => if triggered x.1 d s && !chanOut x.1 s then startChan x.1 s else s
    | _, _ => s) s

/-- A PENDING shadow moves into an IDLE active set (R337). -/
def arm (n : Nat) (s : State) : State :=
  let x := chan n s
  match x.state, x.shadow with
  | .idle, some d =>
    let (late, s) := timerLate n d (setChan n { x with state := .armed, active := some d, shadow := none } s)
    if late then startChan n (bump64 (FRY_CNT 5) 1 s) else s
  | _, _ => s

/-- Places a descriptor in a free shadow set. -/
def place (n : Nat) (d : FryDesc) (s : State) : State :=
  fireTriggers (arm n (modChan n (fun x => { x with shadow := some { d with mark := markOf n d s } }) s))

/-! ### Prefetch records (R138 to R141) -/

/-- Staples of a ply's elements and scales that hold blocks first .. first+count−1; `ebytes`: element bytes per block. -/
def plyStaples (base off blocks ebytes first count : Nat) (scaled : Bool) : List Nat :=
  let el := base + off
  let sc := el + (blocks * ebytes + 4095) / 4096 * 4096
  staplesOf (el + first * ebytes) (count * ebytes) ++ (if scaled then staplesOf (sc + first) count else [])

/-- The staples a record moves, in order; none when the context has no such placement entry or binding. -/
def prefetchStaples (c : Nat) (r : Prefetch) (s : State) : Option (List Nat) :=
  match (ctx c s).weave.places[r.entry]? with
  | none => none
  | some p =>
    match find? (ctx c s).bound p.wreg with
    | none => none
    | some g =>
      let base := (region g s).base
      let eb := 2 * (match fmtOfCode p.fmt with | some f => fmtWidth f | none => 0)
      let part (on : Bool) (off : Option Nat) (b : Nat) (scaled : Bool) : List Nat :=
        match on, off with
        | true, some o => plyStaples base o p.blocks b r.first r.count scaled
        | _, _ => []
      let scaled : Bool := match fmtOfCode p.fmt with | some f => fmtScaled f | none => true
      some (part (r.plies.testBit 0) (some p.base) eb scaled ++ part (r.plies.testBit 1) p.ply1 4 true ++
            part (r.plies.testBit 2) p.ply2 4 true)

/-- Whether a record's data is needed in the next step (R138, R141). -/
def needsNext (r : Prefetch) : Bool := r.need ≤ r.issue

/-- Records of shape 0 that a priming pass issues (R141). -/
def primingRecords (w : Weave) : List Nat :=
  (List.range w.prefetch.length).filter fun i => match w.prefetch[i]? with
    | some r => r.shape == 0 && needsNext r
    | none => false

/-- Places one record on its channel when its shadow is free. -/
def issueRecord (c i : Nat) (s : State) : Bool × State :=
  match (ctx c s).weave.prefetch[i]? with
  | none => (false, s)
  | some r => match chanAt c r.channel s with
    | none => (false, s)
    | some n =>
      if (chan n s).shadow.isSome || (chan n s).state == .aborted then (false, s)
      else (true, place n { words := [], src := .prefetch i } s)

/-- Issues the records due in the step of context c, in section order, and those of its priming pass. -/
def issuePrefetch (c : Nat) (s : State) : State :=
  let x := ctx c s
  match x.priming with
  | some _ =>
    -- records not yet placed: those still owed that no channel holds
    (primingRecords x.weave).foldl (fun s i =>
      let y := ctx c s
      let owed := (y.priming.getD []).contains i
      let placed := (chansOf c s).any fun n =>
        ((chan n s).active.map (·.src)) == some (.prefetch i) || ((chan n s).shadow.map (·.src)) == some (.prefetch i)
      if owed && !placed then (issueRecord c i s).2 else s) s
  | none =>
    match x.step with
    | none => s
    | some _ =>
      (List.range x.weave.prefetch.length).foldl (fun s i =>
        match (ctx c s).step, x.weave.prefetch[i]? with
        | some st, some r =>
          if r.shape = st.shape && r.issue ≤ st.beat && !st.issued.contains i then
            let (ok, s) := issueRecord c i s
            if ok then modCtx c (fun y => { y with step := y.step.map fun st => { st with issued := st.issued ++ [i] } }) s
            else s
          else s
        | _, _ => s) s

/-! ### Copying (R336, R340, R341) -/

/-- Whether the channel's owner may access the n bytes at a package address. -/
def ferryMay (n : Nat) (write : Bool) (a : Int) (len : Nat) (s : State) : Bool :=
  if a < 0 || a ≥ 2 ^ 48 then false
  else match ownerCtx n s with
    | some c => if write then mayWrite c a.toNat len s else mayRead c a.toNat len s
    | none => mapped s a.toNat && mapped s (a.toNat + len - 1)

/-- A package address that the owner may not access (R341). -/
def ferryBad (n : Nat) (write : Bool) (a : Int) (s : State) : State :=
  let s := fryErr FRY_ERR_ADDR n s
  match ownerCtx n s with
  | some c => if write then badWrite c a.toNat none s else badAddr c a.toNat none s
  | none => dropChanOps n (modChan n (fun x => { x with state := .aborted, active := none })
      (raiseLatch MEM_ERR_BAD_ADDR [(MEM_ERR_ADDR_STAPLE, a.toNat / 4096)] s))

/-- Staples of a source range that fail, by the state or by this read. -/
def failing (a n : Nat) (bad : List Nat) (s : State) : List Nat :=
  if (lagoonAt a).isSome then []
  else (staplesOf a n).filter fun p => !stapleOk p s || bad.any fun b => b / 4096 * 4096 == p

/-- The parts of a source range whose check fails, as offset and length: those in a failing staple, or in a lagoon those in an
aligned unit of 64 bytes that holds an uncorrectable word (R340, R341). -/
def failParts (a n : Nat) (bad : List Nat) (s : State) : List (Nat × Nat) :=
  let cells : List (Nat × Nat) :=
    if (lagoonAt a).isSome then
      (((List.range ((a + n + 63) / 64 - a / 64)).map fun i => (a / 64 + i) * 64).filter fun u => lagoonFails u 64 s).map fun u => (u, 64)
    else (failing a n bad s).map fun p => (p, 4096)
  cells.map fun c => (max a c.1 - a, min (a + n) (c.1 + c.2) - max a c.1)

/-- Reads a source range: its bytes and the parts of them whose check fails. -/
def ferryRead (n a len : Nat) (bad : List Nat) (s : State) : List Byte × List (Nat × Nat) × State :=
  let parts := failParts a len bad s
  let t := if parts.isEmpty then s
    else match lagoonAt a with
      | some m => spnErr (SPN_ERR_LAGOON_UE m) m ((ownerCtx n s).getD 0) 0 s
      | none => bump64 (FRY_CNT 6) parts.length (fryErr FRY_ERR_STAPLE_CRC n s)
  (rdBytes a len s, parts, t)

/-- A write by the ferry: the parts whose source failed read as poisoned at the destination (R341). -/
def wrParts (a : Nat) (bs : List Byte) (parts : List (Nat × Nat)) (s : State) : State :=
  match retainHit a bs.length s with
  | some (m, e) => retainFault m e s
  | none => parts.foldl (fun s p => wrMerge (a + p.1) ((bs.drop p.1).take p.2) true s) (wrMerge a bs false s)

/-- The key a REMOTE operation presents: FRY_KEY of the owning context, or index 64 (R340). -/
def ferryKey (n : Nat) (s : State) : W32 := lookup s.fryKeys 0 ((ownerCtx n s).getD 64)

/-- Issues piece i of a REMOTE transfer in TC3 (R340): a PUT of at most 4,096 bytes, or the GET of one run. -/
def issuePiece (n : Nat) (d : FryDesc) (i : Nat) (s : State) : State :=
  let (r, k, len) := pieceOf d i
  let put : Bool := spaceOf (fDst d) = 1
  if driverBarred d s then discardXfer n s
  else if put && !ferryMay n false (r.src + k) len s then ferryBad n false (r.src + k) s
  else if !put && spaceOf (fDst d) = 0 && !ferryMay n true r.dst len s then ferryBad n true r.dst s
  else
    let far := if put then fDst d else fSrc d
    let off : Int := if put then r.dst + k else r.src
    let (bs, s) :=
      if put then
        let (bs, _, s) := ferryRead n (r.src + k).toNat len [] (bump64 (FRY_CNT 1) len s)
        if overlaps d (runsOf d) then freeBytes len s else (bs, s)
      else ([], s)
    let own := (ownerCtx n s).getD 64
    let h : ReqHeader := { hdr0 with
      opcode := BitVec.ofNat 5 (if put then ocPut else ocGet), tc := 3, dest := BitVec.ofNat 10 (far / 2 ^ 52)
      window := BitVec.ofNat 12 (far / 2 ^ 40), offset := BitVec.ofNat 40 (off % 2 ^ 40).toNat
      length := BitVec.ofNat 32 len, key := ferryKey n s }
    issue { spindle := none, thread := 0, ctx := BitVec.ofNat 6 own, hdr := h, payload := bs } (.ferry n i) own s

/-- A transfer that touches host memory, which the part does not allow now (R422). -/
def hostBarred (d : FryDesc) (s : State) : Bool := (spaceOf (fSrc d) == 2 || spaceOf (fDst d) == 2) && !hostAllowed s

/-- Whether a range of package memory holds a transfer up. -/
def rangeWaits (write : Bool) (a : Int) (len : Nat) (s : State) : Bool := 0 ≤ a && memWaits write a.toNat len s

/-- Whether a PUT of piece i waits for the memory that it reads. -/
def pieceWaits (d : FryDesc) (i : Nat) (s : State) : Bool :=
  let (r, k, len) := pieceOf d i
  spaceOf (fDst d) == 1 && rangeWaits false (r.src + k) len s

/-- The piece that a channel issues next: one to issue again, or the first not issued. -/
def nextPiece (x : Channel) (d : FryDesc) : Option Nat :=
  match x.redo with
  | i :: _ => some i
  | [] => if x.next < pieceCount d then some x.next else none

/-- Bytes that the buffer holds for a channel: those of its operations in flight (R339; log 138). -/
def bufUse (n : Nat) (s : State) : Nat :=
  s.gld.ops.foldl (fun t o => match o.2.owner with
    | .ferry m _ => if m = n then t + o.2.hdr.length.toNat else t
    | _ => t) 0

/-- Whether the buffer has room and channel n is below its quota (R339). -/
def bufRoom (n : Nat) (s : State) : Bool :=
  bufUse n s < fld (FRY_CH_CFG_QUOTA n) s * 4096 && s.chans.foldl (fun t x => t + bufUse x.1 s) 0 < 2 ^ 20

/-- Whether the read engine can serve channel n now (R295, R339, R340). -/
def mayServe (n : Nat) (s : State) : Bool :=
  let x := chan n s
  match x.state, x.active with
  | .running, some d => isRemote d && !chanOut n s && !hostBarred d s && opRoom s && bufRoom n s &&
    (match nextPiece x d with
     | some i => !pieceWaits d i s
     | none => false)
  | _, _ => false

/-- The channel that the read engine serves next: the highest PRIO, round-robin within it (R339). -/
def pickChan (s : State) : Option Nat :=
  let l := (s.chans.map (·.1)).filter fun n => mayServe n s
  let prio (n : Nat) : Nat := fld (FRY_CH_CFG_PRIO n) s
  let top := l.foldl (fun m n => max m (prio n)) 0
  let level := sortBy (· < ·) (l.filter fun n => prio n == top)
  let last := lookup s.fryTurn 64 top
  match level.find? fun n => last < n with
  | some n => some n
  | none => level.head?

/-- One turn of the read engine: channel n issues its next piece. -/
def serveChan (n : Nat) (s : State) : State :=
  let x := chan n s
  match x.active with
  | none => s
  | some d => match nextPiece x d with
    | none => s
    | some i =>
      let s := { s with fryTurn := put s.fryTurn 64 (fld (FRY_CH_CFG_PRIO n) s) n }
      issuePiece n d i (modChan n (fun x => match x.redo with
        | _ :: rest => { x with redo := rest }
        | [] => { x with next := x.next + 1 }) s)

/-- The read engine serves channels as long as one can issue. -/
def pumpFerry : Nat → State → State
  | 0, s => s
  | f + 1, s => match pickChan s with
    | some n => pumpFerry f (serveChan n s)
    | none => s

/-- Whether a channel has an operation outstanding. -/
def chanOps (n : Nat) (s : State) : Bool :=
  s.gld.ops.any fun o => match o.2.owner with
    | .ferry m _ => m == n
    | _ => false

/-- Whether every operation of a channel's REMOTE transfer has completed. -/
def remoteDone (n : Nat) (d : FryDesc) (s : State) : Bool :=
  let x := chan n s
  x.redo.isEmpty && x.next ≥ pieceCount d && !chanOps n s

/-- Copies the runs of a descriptor within the package and to and from host memory. `ext`: bytes from host memory, in run
order; `bad`: staples whose CRC failed at this read; `free`: the result is unspecified. The Boolean answer tells whether
every run was copied. -/
def copyRuns (n : Nat) (d : FryDesc) (bad : List Nat) (free : Bool) : List Run → List Byte → State → Bool × State
  | [], _, s => (true, s)
  | r :: rest, ext, s =>
    let len := fRun d
    let inside := spaceOf (fSrc d) == 0
    if inside && !ferryMay n false r.src len s then (false, ferryBad n false r.src s)
    else if spaceOf (fDst d) == 0 && !ferryMay n true r.dst len s then (false, ferryBad n true r.dst s)
    else
      let (bs, parts, s) := if inside then ferryRead n r.src.toNat len bad s
        else ((ext.take len ++ List.replicate (len - ext.length) 0), [], s)
      let (bs, s) := if free then freeBytes len s else (bs, s)
      let s := bump64 (FRY_CNT 1) len (bump64 (FRY_CNT 2) len s)
      let s :=
        if spaceOf (fDst d) = 0 then wrParts r.dst.toNat bs parts s
        else send (.hostWrite 0 r.dst.toNat bs) s
      copyRuns n d bad free rest (ext.drop len) s

/-- The lagoon of spindle m holds a copy of the staple at a for context c in its staple l. -/
def stageStaple (c m a l : Nat) (s : State) : State :=
  if ctxLive c s then modSpn m (fun p => { p with stage :=
    (p.stage.filter fun x => x.lag != l && (x.ctx, x.src) != (c, a)) ++ [{ ctx := c, src := a, lag := l }] }) s else s

/-- Copies the staples of a prefetch record to its lagoon (R139). -/
def copyPrefetch (n c : Nat) (r : Prefetch) (bad : List Nat) (s : State) : Bool × State :=
  match prefetchStaples c r s with
  | none => (true, s)
  | some l =>
    let dst := lagoonBase r.spindle + r.lagoon * 4096
    (List.range l.length).foldl (fun (acc : Bool × State) i =>
      if !acc.1 then acc
      else
        let s := acc.2
        let a := l.getD i 0
        if !mayRead c a 4096 s then (false, badAddr c a none (fryErr FRY_ERR_ADDR n s))
        else
          let (bs, parts, s) := ferryRead n a 4096 bad s
          let s := bump64 (FRY_CNT 1) 4096 (bump64 (FRY_CNT 2) 4096 s)
          (true, stageStaple c r.spindle a (r.lagoon + i) (wrParts (dst + 4096 * i) bs parts s))) (true, s)

/-! ### Completion (R343) -/

/-- What a completion does besides the copy: DONE, the entry of the step that placed it, the barrier. -/
def completeDesc (n : Nat) (d : FryDesc) (s : State) : State :=
  let s := bump64 (FRY_CNT 0) 1 (wrapFld (FRY_CH_DONE_COUNT n) 1 s)
  let s := match d.src, ownerCtx n s with
    | .prefetch i, some c =>
      modCtx c (fun x => { x with priming := x.priming.map fun l => removeOnce l i }) s
    | .entry e, _ => if d.step = (rd (WV_STEP e.ctx.toNat) s).toNat then modDisp e (fun y => { y with st := .done }) s else s
    | _, _ => s
  let s := match d.src, ownerCtx n s, (chan n s).owner with
    | .prefetch _, _, _ => s
    | _, some c, some _ => if fArrive d then arrive c (fArriveBar d) (296 + n) .self s else s
    | _, _, _ => s
  s

/-- Ends a transfer: the channel returns to IDLE or takes its shadow. -/
def finishChan (n : Nat) (d : FryDesc) (s : State) : State :=
  let s := completeDesc n d s
  -- a fault of the owner has already moved the channel on
  if (chan n s).state == .running then
    let s := fireTriggers (arm n (modChan n (fun x => { x with state := .idle, active := none }) s))
    match ownerCtx n s with
    | some c => issuePrefetch c s
    | none => s
  else fireTriggers s

/-- Staples of a PUT's source that failed at their reads beside those that State holds as failing (R340, R341). -/
def putFailures (n : Nat) (d : FryDesc) (bad : List Nat) (s : State) : State :=
  let l := if spaceOf (fDst d) = 1 && spaceOf (fSrc d) = 0 then
      ((runsOf d).flatMap fun r => failing r.src.toNat (fRun d) bad s).filter fun p => stapleOk p s
    else []
  if l.isEmpty then s else bump64 (FRY_CNT 6) l.length (fryErr FRY_ERR_STAPLE_CRC n s)

/-- Whether memory holds the transfer of channel n up. -/
def xferWaits (n : Nat) (d : FryDesc) (s : State) : Bool :=
  match d.src with
  | .prefetch i =>
    match ownerCtx n s with
    | none => false
    | some c => match (ctx c s).weave.prefetch[i]? with
      | none => false
      | some r => ((prefetchStaples c r s).getD []).any fun a => rangeWaits false a 4096 s
  | _ => (runsOf d).any fun r =>
    (spaceOf (fSrc d) == 0 && rangeWaits false r.src (fRun d) s) || (spaceOf (fDst d) == 0 && rangeWaits true r.dst (fRun d) s)

/-- A transfer's writes are all acknowledged (R343): those of a REMOTE transfer once its operations have completed. The runs that
a bus error found in place are not copied again. `busyNs`: how long the channel has run (R345). -/
def transferDone (n : Nat) (ext : List Byte) (busyNs : Nat) (env : UnitEnv) (s : State) : State :=
  let x := chan n s
  match x.state, x.active with
  | .running, some d =>
    if chanOut n s || xferWaits n d s || (isRemote d && !hostBarred d s && !remoteDone n d s) then s else
    let s := bump64 (FRY_CNT 7) busyNs (memEnv env s)
    match d.src with
    | .prefetch i =>
      match ownerCtx n s with
      | none => s
      | some c => match (ctx c s).weave.prefetch[i]? with
        | none => finishChan n d s
        | some r =>
          let (ok, s) := copyPrefetch n c r env.badStaples s
          if ok then finishChan n d s else s
    | _ =>
      if hostBarred d s then
        haltChan n (bump64 (FRY_CNT 3) (fld (FRY_CH_CFG_RETRY n) s) (setErr SEC_ERR_IDE s))
      else if isRemote d then finishChan n d (putFailures n d env.badStaples s)
      else if driverBarred d s then discardXfer n s
      else
        let rs := runsOf d
        let (ok, s) := copyRuns n d env.badStaples (overlaps d rs) (rs.drop x.next) ext s
        if ok then finishChan n d s else s
  | _, _ => s

/-- A transfer with a count of 0 completes at once when its channel starts (R336, R343). -/
def emptyXfer (d : FryDesc) : Bool :=
  match d.src with
  | .prefetch _ => false
  | _ => fC0 d == 0 || fC1 d == 0 || fC2 d == 0

/-- Completes the RUNNING transfers that copy nothing. -/
def drainEmpty : Nat → State → State
  | 0, s => s
  | f + 1, s =>
    match s.chans.find? fun x => x.2.state == .running && (match x.2.active with | some d => emptyXfer d | none => false) with
    | none => s
    | some x => match x.2.active with
      | none => s
      | some d => drainEmpty f (finishChan x.1 d s)

/-- Every trigger that holds fires, every empty transfer ends, and what waits for room to issue is issued: operations of
units first, then what the read engine serves (R339). -/
def settleFerry (s : State) : State :=
  let s := drainEmpty 256 (fireTriggers s)
  pumpFerry 4096 (issueWaiting s.gld.waiting.length s)

/-! ### Entries, commands and allocation -/

/-- A FERRY entry enters its channel's shadow; a skipped one completes at once (R334, R343). A pilot holds an entry whose
channel's shadow is PENDING. -/
def ferryEntry (e : EntryRef) (s : State) : State :=
  match dispAt e s with
  | none => s
  | some d =>
    if d.st != .waiting || (d.words.getD 0 0).toNat / 2 ^ 28 != 4 then s
    else
      let c := e.ctx.toNat
      match chanAt c ((d.words.getD 1 0).toNat / 2 ^ 26) s with
      | none => s
      | some n =>
        let fd : FryDesc := { words := d.words, src := .entry e, step := (rd (WV_STEP c) s).toNat }
        if (d.words.getD 0 0).getLsbD 27 then settleFerry (completeDesc n fd s)
        else if (chan n s).shadow.isSome || (chan n s).state == .aborted then s
        else settleFerry (place n fd (setDisp e { d with st := .committing } s))

/-- The driver's shadow words as a descriptor. -/
def shadowDesc (n : Nat) (s : State) : FryDesc :=
  { words := (List.range 16).map fun w => if w = 0 then 0 else lookup (chan n s).words 0 w, src := .driver }

/-- A write of FRY_CH_CMD (R337, R342, R346). `ok`: whether a resumed access succeeds. ABORT acts before RESUME and RESUME
before LOAD when one word sets several (log 32). -/
def chCmd (n : Nat) (v : W64) (ok : Bool) (s : State) : State :=
  let x := chan n s
  let drv := isDriver n s && x.owner.isNone
  let s :=
    if !wbit v 2 then s
    else if drv then
      if x.state == .aborted then arm n (modChan n (fun x => { x with state := .idle, active := none }) s)
      else if x.state == .idle then s
      else dropChanOps n (modChan n (fun x => { x with state := .aborted, active := none }) s)
    else if x.state == .halted then
      match ownerCtx n s with
      | some c => faultCtx c cfFerry none (modChan n (fun x => { x with state := .aborted, active := none }) s)
      | none => s
    else s
  let s :=
    if wbit v 1 && (chan n s).state == .halted then
      if ok then modChan n (fun x => { x with state := .running, tries := none }) (bump64 (FRY_CNT 3) 1 s)
      else haltChan n (bump64 (FRY_CNT 3) (1 + fld (FRY_CH_CFG_RETRY n) s) s)
    else s
  let s :=
    if !wbit v 0 || !drv then s
    else if (chan n s).shadow.isSome then fryErr FRY_ERR_SHADOW_BUSY n s
    else if descOk true (shadowDesc n s) && driverOk (shadowDesc n s) s then place n (shadowDesc n s) s
    else fryErr FRY_ERR_ADDR n s
  settleFerry s

/-- A write of FRY_CH_SHADOW(n, w): discarded while PENDING and on a context's channel (R345, R346). -/
def shadowWrite (n w : Nat) (v : W64) (s : State) : State :=
  if (chan n s).owner.isSome || (chan n s).shadow.isSome then s
  else modChan n (fun x => { x with words := put x.words 0 w (v.setWidth 32) }) s

/-- A write of FRY_CH_CFG: DRIVER keeps its value while a context owns the channel (R345). -/
def chCfgWrite (n o : Nat) (v : W64) (s : State) : State :=
  if (chan n s).owner.isSome then
    store o ((v &&& ~~~(2147483648 : W64)) ||| BitVec.ofNat 64 (fld (FRY_CH_CFG_DRIVER n) s * 2 ^ 31)) s
  else store o v s

/-- The moment of a TIMER trigger comes (R338): a context's channel starts only in its schedule beat. -/
def timerFires (n : Nat) (s : State) : State :=
  let x := chan n s
  match x.state, x.active with
  | .armed, some d =>
    let here := match ownerCtx n s with
      | none => true
      | some c => (ctx c s).ran && (match (ctx c s).step with | some st => st.beat == fBeat d | none => false)
    if fTrigger d = 1 && here && d.src != .prefetch 0 && !(d.words.isEmpty) then settleFerry (startChan n s) else s
  | _, _ => s

/-- The run of a descriptor at loop indices k0, k1 and k2 (R336); a prefetch record's staple k0. -/
def runIndex (d : FryDesc) (k0 k1 k2 : Nat) : Nat := k0 + fC0 d * (k1 + fC1 d * k2)

/-- The runs before run i of a transfer within the package or to the host are in place when it halts there (R342; log 139). -/
def landBefore (n : Nat) (d : FryDesc) (i : Nat) (s : State) : Bool × State :=
  let x := chan n s
  let rs := runsOf d
  if isRemote d || spaceOf (fSrc d) == 2 || i ≤ x.next || driverBarred d s || xferWaits n d s then (true, s)
  else match d.src with
    | .prefetch _ => (true, s)
    | _ =>
      let (ok, s) := copyRuns n d [] (overlaps d rs) ((rs.take i).drop x.next) [] s
      (ok, if ok then modChan n (fun x => { x with next := min i rs.length }) s else s)

/-- An access gets an error response (R342): it is retried, or its channel halts when its retries are spent. -/
def busErr (n k0 k1 k2 : Nat) (s : State) : State :=
  let x := chan n s
  match x.state, x.active with
  | .running, some d =>
    let i := runIndex d k0 k1 k2
    let made := match x.tries with
      | some (j, m) => if j = i then m else 0
      | none => 0
    if made < fld (FRY_CH_CFG_RETRY n) s then bump64 (FRY_CNT 3) 1 (modChan n (fun x => { x with tries := some (i, made + 1) }) s)
    else
      let (ok, s) := landBefore n d i s
      if ok then haltChan n (setFlds [(FRY_CH_POS_K0 n, k0), (FRY_CH_POS_K1 n, k1), (FRY_CH_POS2_K2 n, k2)] s) else s
  | _, _ => s

/-- Physical channels owned by no context and not by the driver. -/
def freeChans (s : State) : List Nat :=
  (List.range 64).filter fun n => (chan n s).owner.isNone && !isDriver n s

/-- The masks of a context's barrier units name physical channels (R333). -/
def translateMasks (c : Nat) (s : State) : State :=
  let phys (i : Nat) : Nat := if i < 296 then i else 296 + (chanAt c (i - 296) s).getD (i - 296)
  let one (b : BarUnit) : BarUnit := { b with parts := b.parts.map phys }
  { s with bars := s.bars.map fun b => if b.2.ctx = c then (b.1, one b.2) else b }

/-- Allocates the channels of context c at its first grant, after its barrier units (R333). -/
def allocChans (c : Nat) (s : State) : Bool × State :=
  let n := (ctx c s).weave.channels
  let free := freeChans s
  if free.length < n then
    (false, raiseErr FRY_ERR_NO_CHANNEL FRY_ERR_INFO [(FRY_ERR_INFO_CONTEXT, c), (FRY_ERR_INFO_CAUSE, 6)] s)
  else (true, translateMasks c ((List.range n).foldl (fun s i => setChan (free.getD i 0) { owner := some (c, i) } s) s))

/-- Returns the channels of context c to IDLE without a fault (R374). -/
def idleChans (c : Nat) (s : State) : State :=
  (chansOf c s).foldl (fun s n => modChan n (fun x => { x with state := .idle, active := none, shadow := none }) s) s

/-! ### Registers (R345) -/

def chCode : ChState → Nat
  | .idle => 0 | .armed => 1 | .running => 2 | .halted => 3 | .aborted => 4

/-- FRY_CH_STATUS. -/
def chStatus (n : Nat) (s : State) : Nat :=
  let x := chan n s
  chCode x.state * 2 ^ 29 + x.shadow.isSome.toNat * 2 ^ 28 + x.owner.isSome.toNat * 2 ^ 27 +
    (x.owner.map (·.1)).getD 0 * 2 ^ 21 + (x.owner.map (·.2)).getD 0 * 2 ^ 15

/-- The physical channel of an offset in FRY_CH registers. -/
def fryChan (o : Nat) : Nat := (o - 0x781000) / 0x80

/-- The run that a RUNNING channel has reached (R345): of a REMOTE transfer that of its next operation; of another one a free
one among those not in place (log 31). -/
def posIndex (n : Nat) (s : State) : Nat × State :=
  let x := chan n s
  match x.active with
  | none => (0, s)
  | some d =>
    let total := match d.src, ownerCtx n s with
      | .prefetch i, some c => (((ctx c s).weave.prefetch[i]?.bind fun r => prefetchStaples c r s).getD []).length
      | _, _ => runCount d
    if isRemote d then (min (if spaceOf (fDst d) = 1 then x.next / putsPerRun d else x.next) (total - 1), s)
    else
      let (v, s) := freeVal s
      (x.next + v.toNat % max 1 (total - x.next), s)

/-- FRY_CH_POS (loops 0 and 1) and FRY_CH_POS2 (loop 2) of a RUNNING channel. -/
def posVal (n : Nat) (second : Bool) (s : State) : W64 × State :=
  let (i, s) := posIndex n s
  match (chan n s).active with
  | none => (0, s)
  | some d =>
    let c0 := if fC0 d = 0 then 2 ^ 24 else fC0 d
    let c1 := max 1 (fC1 d)
    (if second then BitVec.ofNat 64 (i / (c0 * c1)) else BitVec.ofNat 64 (i % c0 + i / c0 % c1 * 2 ^ 24), s)

/-- FRY_STATUS.BUF_KIB (R345): the operations in flight, and of other RUNNING transfers a free amount within their quotas. -/
def bufKib (s : State) : Nat × State :=
  let far := (s.chans.foldl (fun t x => t + bufUse x.1 s) 0 + 1023) / 1024
  let near := (s.chans.filter fun x => x.2.state == .running && !(x.2.active.map isRemote).getD true).foldl
    (fun t x => t + fld (FRY_CH_CFG_QUOTA x.1) s * 4) 0
  if near = 0 then (min far 1024, s)
  else
    let (v, s) := freeVal s
    (min (far + v.toNat % (near + 1)) 1024, s)

/-! ### Meanings -/

def execTimerTrigger (ch : BitVec 6) (s : State) : Host.Outcome State Fault Refusal := run (timerFires ch.toNat) s

def execTransferComplete (ch : BitVec 6) (hostData : List Byte) (busyNs : Nat) (env : UnitEnv) (s : State) :
    Host.Outcome State Fault Refusal :=
  run (fun s => settleFerry (transferDone ch.toNat hostData busyNs env s)) s

def execBusError (ch : BitVec 6) (k0 k1 k2 : Nat) (s : State) : Host.Outcome State Fault Refusal :=
  run (busErr ch.toNat k0 k1 k2) s

end Sys2Proof.Machine
end

