-- ==== Sys2Proof/Machine/Port.lean ====
section
/-! DEFINITION. Machine/Port.lean: the ports of the fabric: link layer, training, roles and sessions (R274 to R282, R419,
R420, R436, R440, R457). -/

namespace Sys2Proof.Machine

/-- CAUSE codes of GLD_PORT_STATUS. -/
def pcNone : Nat := 0
def pcVariant : Nat := 1
def pcRoleUnset : Nat := 2
def pcRoleConflict : Nat := 3
def pcPlan : Nat := 4
def pcLanes : Nat := 5
def pcLoss : Nat := 6
def pcRetrainFail : Nat := 7

/-- STATE codes of SEC_LINK. -/
def lsNone : Nat := 0
def lsHandshake : Nat := 1
def lsSecure : Nat := 2
def lsAuthFail : Nat := 3
def lsMatchFail : Nat := 4

def linkSession (p : Nat) (s : State) : Nat := fld (SEC_LINK_STATE p) s

/-- A port moves to a state; ROLE in force is 0b111 outside UP. A change of UP changes the routes. -/
def movePort (p st cause : Nat) (s : State) : State :=
  let was := portState p s
  let role := fld (GLD_PORT_STATUS_ROLE p) s
  let new := fld (GLD_PORT_ROLE_ROLE p) s
  let s := setFlds [(GLD_PORT_STATUS_STATE p, st), (GLD_PORT_STATUS_CAUSE p, cause),
                    (GLD_PORT_STATUS_ROLE p, if st = pUp then new else 7)] s
  if was = pUp && st != pUp then routeChanged (flood (.portNotice (ownPos s) role false) s)
  else if was != pUp && st = pUp then routeChanged (flood (.portNotice (ownPos s) new true) s)
  else s

/-! ### Retraining (R440) -/

def portBusy (p : Nat) (s : State) : Bool := bit BRG_RETRAIN_STATUS_PORT_BUSY s && fld BRG_RETRAIN_STATUS_PORT s == p

/-- Ports train from LINK_TRAIN on; in broadcast mode the straits do in FW_FETCH (R429, R433). -/
def trains (p : Nat) (s : State) : Bool :=
  stLinkTrain ≤ stage s || (stage s == stFwFetch && bit CRN_BOOT_CFG_SOURCE s && p < 6)

/-- A port that may train: present, EN set, mated (R313, R457), the main rails on. -/
def mayTrain (p : Nat) (s : State) : Bool :=
  s.boot.on && portHere s p && bit GLD_CTRL_EN s && s.pins.mated.getLsbD p && trains p s

/-- A port trains, with the lane map of the cairn bank (R436, R450). -/
def train (p : Nat) (s : State) : State :=
  movePort p pTraining pcNone (setFlds [(GLD_PORT_LANES_REPAIRED p, fld (CRN_LANE_MAP_REPAIRED p) s),
    (GLD_PORT_LANES_LANE p, fld (CRN_LANE_MAP_LANE p) s)] s)

/-- Starts the next port retrain when none runs; requests for ports that cannot train are dropped on the way. -/
def portNext (s : State) : State :=
  if bit BRG_RETRAIN_STATUS_PORT_BUSY s then s
  else match nextQueued 0 (mayTrain · s) s with
    | (none, s) => s
    | (some p, s) =>
      let s := bump64 (BRG_CNT 0) 1 (bump64 (GLD_PORT_CNT p 2) 1 s)
      let s := setFlds [(BRG_RETRAIN_STATUS_PORT_BUSY, 1), (BRG_RETRAIN_STATUS_PORT, p)] s
      train p (modPort p (fun x => { x with retraining := true, fails := 0, rxFails := 0 }) s)

/-- Ends the retrain in progress of port p. -/
def endRetrain (p : Nat) (s : State) : State :=
  if portBusy p s then
    setFlds [(BRG_RETRAIN_STATUS_PORT_BUSY, 0), (BRG_RETRAIN_STATUS_PORT, 0)]
      (modPort p (fun x => { x with retraining := false }) s)
  else s

/-- Asks for a retrain of port p. -/
def retrainPort (p : Nat) (s : State) : State := portNext (queueRetrain 0 p s)

/-- What a port still holds for its link: the queue, and of the replay buffer what no ACK has covered to its end. -/
def portHolds (p : Nat) (s : State) : List Sent :=
  ((port p s).replay.filter (·.final)).map (·.msg) ++ (port p s).queue.map (·.msg)

/-- The errors that ports leaving UP together raise in one cycle: PORT_DOWN with each peer when they go DOWN, and TARGET_DEAD
with each node that is then out of reach. GLD_ERR_INFO latches the lowest node (R314). -/
def cutErrs (l : List Nat) (goDown : Bool) (s : State) : State :=
  let cut := (l.foldl (fun s p => setFld (GLD_PORT_STATUS_STATE p) pDown s) s)
  let dead := (deadOps (setReach cut)).map fun o =>
    (GLD_ERR_TARGET_DEAD, o.2.ctx, stTargetDead, deadNode o.2 stTargetDead (setReach cut))
  let down := if goDown then l.map fun p => (GLD_ERR_PORT_DOWN, 0, 0, fld (GLD_PORT_PEER_INFO_NODE p) s) else []
  (sortBy (fun a b => a.2.2.2 < b.2.2.2) (down ++ dead)).foldl (fun s e => gldErr e.1 e.2.1 e.2.2.1 e.2.2.2 s) s

/-- Takes ports DOWN together: link sessions end (R419), GLD_ERR records it, and what the ports held is routed again
(R310). -/
def portsDown (l : List Nat) (cause : Nat) (s : State) : State :=
  let held := l.flatMap fun p => (portHolds p s).map fun m => (fld (GLD_PORT_STATUS_ROLE p) s, m)
  let old := s
  let s := cutErrs l true s
  let s := l.foldl (fun s p =>
    let s := setFld (SEC_LINK_STATE p) lsNone (endRetrain p (bump64 (GLD_PORT_CNT p 3) 1 s))
    movePort p pDown cause (setPort p {} s)) s
  portNext (held.foldl (fun s m => reroute m.1 old m.2 s) s)

/-- A port goes DOWN. -/
def portDown (p cause : Nat) (s : State) : State := portsDown [p] cause s

/-- Training starts. -/
def startTraining (p : Nat) (s : State) : State :=
  if mayTrain p s && portState p s = pDown then train p s else s

/-! ### The conditions of UP (R281, R282) -/

/-- Whether another strait holds the same valid direction, or port 6 and OFFING do not go together. -/
def roleConflict (p : Nat) (s : State) : Bool :=
  let r := fld (GLD_PORT_ROLE_ROLE p) s
  if p = 6 then r != 6
  else r == 6 || (List.range 6).any fun q =>
    q != p && portHere s q && bit (GLD_PORT_ROLE_VALID q) s && fld (GLD_PORT_ROLE_ROLE q) s == r

/-- What the conditions of R282 give for a trained port: the state and its cause. A strait stays in IDENTIFY until its
link session is SECURE (R419), and every port until it has seen its peer. DESIGN CHOICE: of several causes that hold, the
first of ROLE_UNSET, ROLE_CONFLICT, VARIANT, PLAN is reported; R282 gives no precedence (log 107). -/
def portVerdict (p : Nat) (s : State) : Nat × Nat :=
  match (port p s).peer with
  | none => (pIdentify, pcNone)
  | some f =>
    let r := fld (GLD_PORT_ROLE_ROLE p) s
    if p != 6 && linkSession p s != lsSecure then (pIdentify, pcNone)
    else if !bit (GLD_PORT_ROLE_VALID p) s || r == 7 then (pHeld, pcRoleUnset)
    else if roleConflict p s then (pHeld, pcRoleConflict)
    else if r = 6 then (if f.kind == 1 then (pUp, pcNone) else (pHeld, pcPlan))
    else if f.kind != 0 || f.code != s.fuse.code then (pHeld, pcVariant)
    else
      let n := f.node.toNat
      let step : Bool := nodeValid s && dimSize (r / 2) s != 1 && isNode n && isNode (myNode s) && sameDomain n s && posOf n == stepPos (ownPos s) r s
      if f.role.toNat = r ^^^ 1 && step then (pUp, pcNone) else (pHeld, pcPlan)

/-- Re-evaluates a port: UP returns to IDENTIFY when a condition stops holding; IDENTIFY and HELD take the verdict. -/
def evalPort (p : Nat) (s : State) : State :=
  let st := portState p s
  let (v, c) := portVerdict p s
  if st = pUp then (if v = pUp then s else movePort p pIdentify pcNone s)
  else if st = pIdentify || st = pHeld then (if st = v && fld (GLD_PORT_STATUS_CAUSE p) s = c then s else movePort p v c s)
  else s

/-- Re-evaluates every port; those that leave UP do so together (R314). -/
def evalPorts (s : State) : State :=
  let cut := (List.range 7).filter fun p => portHere s p && portUpNow p s && (portVerdict p s).1 != pUp
  (List.range 7).foldl (fun s p => if portHere s p then evalPort p s else s) (cutErrs cut false s)

/-! ### Training (R278, R279, R436) -/

/-- Whether coefficients differ from the stored ones by more than one step in some tap: PRE2, PRE1, POST1. -/
def coeffsDiffer (p l : Nat) (w : W32) (s : State) : Bool :=
  let old := rd (CRN_EQ p l) s
  let new := w.setWidth 64
  let tap (f : FRef) : Bool :=
    let sg (x : Nat) : Int := if x ≥ 32 then (x : Int) - 64 else x
    (sg (fldOf f old) - sg (fldOf f new)).natAbs > 1
  !bit (CRN_EQ_VALID p l) s || tap (CRN_EQ_PRE2 p l) || tap (CRN_EQ_PRE1 p l) || tap (CRN_EQ_POST1 p l)

/-- The write-back after the first successful training of a bring-up (R436). -/
def writeCoeffs (p : Nat) (cs : List (Nat × W32)) (s : State) : State :=
  if s.boot.trained.contains p then s
  else
    let s := { s with boot := { s.boot with trained := s.boot.trained ++ [p] } }
    cs.foldl (fun s c =>
      if c.1 < 17 && coeffsDiffer p c.1 c.2 s then
        crnPut (CRN_EQ p c.1) (((c.2 ||| 0x80000000) &&& 0x8FFFFFC0).setWidth 64) s
      else s) s

/-- A port sends its ID frame (R280). -/
def sendId (p : Nat) (s : State) : State := post p 0 (.id p (idOf p s)) s

/-- A BOOT frame leaves by a strait (R433). -/
def sendBoot (p : Nat) (request : Bool) (d : BitVec 384) (svn : W16) (s : State) : State := post p 0 (.boot p request d svn) s

/-- A failed training takes the port DOWN, and its next attempt uses the defaults (R436). -/
def trainingFailed (p : Nat) (s : State) : State :=
  portDown p pcRetrainFail { s with boot := { s.boot with useDefaults := addOnce s.boot.useDefaults p } }

/-- A training ends (R282, R436). Before LINK_TRAIN the link layer of a trained strait runs and waits for that stage, and a
package that runs its image in broadcast mode offers it there (R433). -/
def trainingDone (p : Nat) (how : TrainEnd) (s : State) : State :=
  if portState p s != pTraining || (port p s).retraining then s
  else if how.ok then
    let s := writeCoeffs p how.coeffs { s with boot := { s.boot with useDefaults := s.boot.useDefaults.filter (· != p) } }
    if stage s < stLinkTrain then
      let s := modPort p (fun x => { x with linked := true }) s
      if s.boot.fwRuns && bit CRN_BOOT_CFG_SOURCE s && p < 6 then
        sendBoot p false s.boot.fwDigest (BitVec.ofNat 16 (fld SEC_SVN_FW s)) s
      else s
    else
      sendId p (movePort p pIdentify pcNone s)
  else trainingFailed p (if stage s < stReady || stage s == stWarm then setErr BRG_ERR_TRAIN s else s)

/-- A retrain ends (R440): the port returns with its session, or goes DOWN. -/
def retrainDone (p : Nat) (ok : Bool) (s : State) : State :=
  if !portBusy p s then s
  else if !ok then trainingFailed p s
  else if (port p s).linked then portNext (drainPort 256 p (endRetrain p s))
  else portNext (drainPort 256 p (evalPort p (sendId p (movePort p pIdentify pcNone (endRetrain p s)))))

/-- A lane is replaced by the repair lane, or a second lane fails (R278). -/
def laneRepair (p l : Nat) (s : State) : State :=
  if !s.boot.on || !portHere s p || l > 16 || portState p s = pDown then s
  else if bit (GLD_PORT_LANES_REPAIRED p) s then portDown p pcLanes s
  else
    let s := setFlds [(GLD_PORT_LANES_REPAIRED p, 1), (GLD_PORT_LANES_LANE p, l)] s
    retrainPort p (crnPut (CRN_LANE_MAP p) (BitVec.ofNat 64 (2 ^ 15 + l)) s)

/-- No valid codeword for 1 µs (R279). -/
def lossOfSignal (p : Nat) (s : State) : State :=
  if portHere s p && linkRuns p s then portDown p pcLoss s else s

/-- 10 ms after DOWN, training starts (R282); not while PRSNT is high (R457). -/
def retrainDue (p : Nat) (s : State) : State := startTraining p s

/-! ### Codewords (R277, R420) -/

/-- s is ahead of t. -/
def seqAhead (s t : Nat) : Bool := let d := (s + 512 - t) % 512; decide (1 ≤ d) && decide (d ≤ 255)

/-- The ACK and NAK bits of a codeword: acknowledged codewords leave the replay buffer; a NAK sends the others again from
its SEQ on. -/
def takeAck (p a : Nat) (nakBit : Bool) (s : State) : State :=
  let x := port p s
  if nakBit then
    let left := x.replay.filter fun q => q.seq == a || seqAhead q.seq a
    -- without a sequenced codeword to send again the NAK is for an IDLE one, which counts as no failure
    let n := if left.isEmpty then 0 else if left.length < x.replay.length then 1 else x.fails + 1
    let s := send (.replay p (left.map (·.seq))) (setPort p { x with replay := left, fails := n } s)
    let s := drainPort 256 p (bump64 (GLD_PORT_CNT p 1) 1 s)
    if left.isEmpty then s else if n ≥ fld GLD_TIMEOUT_LINK_RETRY s then retrainPort p (modPort p (fun x => { x with fails := 0 }) s) else s
  else
    let left := x.replay.filter fun q => seqAhead q.seq a
    releaseAdds (some p)
      (drainPort 256 p (setPort p { x with replay := left, fails := if left.length < x.replay.length then 0 else x.fails } s))

/-- A codeword arrives. One with more than 15 symbol errors is none that the receiver can correct (R276). Of the codewords
that cannot be corrected, the sequenced one that is expected counts as a failure of that codeword (R277). -/
def codeword (p seq a : Nat) (nakBit idle : Bool) (corrected : Nat) (good tagFail : Bool) (s : State) : State :=
  if !portHere s p || !linkRuns p s then s
  else
    let x := port p s
    if !good || corrected > 15 then
      let n := if !idle && seq = x.rxNext then x.rxFails + 1 else x.rxFails
      let s := send (.linkAck p x.rxNext true) (setPort p { x with discarding := true, rxFails := n } s)
      if n ≥ fld GLD_TIMEOUT_LINK_RETRY s then retrainPort p s else s
    else
      let s := if corrected = 0 then s else bump64 (GLD_PORT_CNT p 0) 1 s
      let s := takeAck p a nakBit s
      if idle || !linkRuns p s then s
      else if seq = x.rxNext then
        let s := modPort p (fun x => { x with rxNext := (seq + 1) % 512, discarding := false, rxFails := 0 }) s
        let s := send (.linkAck p seq false) s
        if tagFail then portDown p pcLoss (setErr SEC_ERR_LINK_AUTH s) else s
      else if x.discarding then s
      else if seqAhead seq x.rxNext then
        send (.linkAck p x.rxNext true) (modPort p (fun x => { x with discarding := true }) s)
      else send (.linkAck p ((x.rxNext + 511) % 512) false) s

/-! ### ID and SPDM frames (R280, R419, R420) -/

/-- The end with the lower IDENTITY, the requester, starts the handshake of a strait's link session (R419). -/
def startHandshake (p : Nat) (s : State) : State :=
  match (port p s).peer with
  | some f =>
    if p < 6 && f.kind == 0 && linkSession p s == lsNone && decide (s.fuse.identity.toNat < f.identity.toNat) then
      post p 0 (.spdm p true) (setFld (SEC_LINK_STATE p) lsHandshake s)
    else s
  | none => s

/-- The public key in slot n, 1 to 15. -/
def slotKey (n : Nat) (s : State) : Option (List Byte) := find? s.sec.slots n

def slotRole (n : Nat) : Nat := if n = 0 then 0 else if n = 1 then 1 else 2

def slotValid (n : Nat) (s : State) : Bool := n == 0 || (slotKey n s).isSome

/-- The content of measurement 5. -/
def slotTable (s : State) : List Byte :=
  (List.range 16).flatMap fun n =>
    [BitVec.ofNat 8 (slotValid n s).toNat, BitVec.ofNat 8 (slotRole n)] ++
    natToBytes 48 (if n = 0 then s.fuse.fwKeyDigest.toNat else
      match slotKey n s with
      | some k => (Config.sha384 k).toNat
      | none => 0)

/-- The checks of R419: the peer's chain ends at the fused root digest; its measurements 2 and 5 are this package's. -/
def chainOk (c : PeerChain) (s : State) : Bool := c.valid && c.root == s.fuse.rootCaDigest
def measOk (m : PeerMeas) (s : State) : Bool :=
  m.firmware == s.boot.fwDigest && m.slots == Config.sha384 (slotTable s)

/-- An ID frame arrives. A session opened with another IDENTITY ends. -/
def idArrives (p : Nat) (f : IdFrame) (s : State) : State :=
  if !portHere s p || portState p s < pIdentify then s
  else
    let s := wr (GLD_PORT_PEER p) f.identity s
    let s := setFlds [(GLD_PORT_PEER_INFO_KIND p, f.kind.toNat), (GLD_PORT_PEER_INFO_CODE p, f.code.toNat),
      (GLD_PORT_PEER_INFO_PORT p, f.port.toNat), (GLD_PORT_PEER_INFO_ROLE p, f.role.toNat),
      (GLD_PORT_PEER_INFO_LOCK p, f.lock.toNat), (GLD_PORT_PEER_INFO_NODE p, f.node.toNat)] s
    let x := port p s
    let other : Bool := match x.sessionPeer with
      | some i => i != f.identity
      | none => false
    let s := setPort p { x with peer := some f, sessionPeer := if other then none else x.sessionPeer } s
    startHandshake p (evalPort p (if other then setFld (SEC_LINK_STATE p) lsNone s else s))

/-- A frame of the link session's handshake, which is answered by the next; `done` marks the last one. A failed check holds the
port until it goes DOWN (R419). A new session counts its groups from 0 (R420). -/
def spdmFrame (p : Nat) (done : Bool) (chain : PeerChain) (meas : PeerMeas) (s : State) : State :=
  if p ≥ 6 || !portHere s p || portState p s < pIdentify || linkSession p s ≥ lsSecure then s
  else if !done then
    let low : Bool := (port p s).peer.any fun f => decide (s.fuse.identity.toNat < f.identity.toNat)
    post p 0 (.spdm p low) (setFld (SEC_LINK_STATE p) lsHandshake s)
  else if !chainOk chain s then setErr SEC_ERR_LINK_AUTH (setFld (SEC_LINK_STATE p) lsAuthFail s)
  else if bit SEC_CTRL_PEER_MATCH s && !measOk meas s then setErr SEC_ERR_LINK_AUTH (setFld (SEC_LINK_STATE p) lsMatchFail s)
  else
    let who := (port p s).peer.map (·.identity)
    let s := modPort p (fun x => { x with sessionPeer := who, txFill := 0, txGroup := 0 }) s
    evalPort p (bump64 (SEC_CNT 4) 1 (setFld (SEC_LINK_STATE p) lsSecure s))

/-- KEY_UPDATE on a link (R420). -/
def linkRekey (p : Nat) (ok : Bool) (s : State) : State :=
  if p ≥ 6 || !portHere s p || linkSession p s != lsSecure then s
  else if ok then bump64 (SEC_CNT 5) 1 (wrapFld (SEC_LINK_UPDATES p) 1 s)
  else portDown p pcLoss (setErr SEC_ERR_LINK_AUTH s)

/-! ### PRSNT and EN (R313, R457) -/

def presence (p : Nat) (mate : Bool) (s : State) : State :=
  if p > 6 then s
  else if mate then
    let s := { s with pins := { s.pins with mated := s.pins.mated ||| BitVec.ofNat 7 (2 ^ p) } }
    startTraining p s
  else
    let s := { s with pins := { s.pins with mated := s.pins.mated &&& ~~~BitVec.ofNat 7 (2 ^ p) } }
    if !s.boot.on || !portHere s p then s
    else if portState p s != pDown then portDown p pcLoss s else movePort p pDown pcLoss s

/-- GLD_CTRL.EN as written: 0 takes every port DOWN, 1 lets them train. -/
def enablePorts (on : Bool) (s : State) : State :=
  (List.range 7).foldl (fun s p =>
    if !portHere s p then s
    else if on then startTraining p s
    else s) (if on then s else
      portsDown ((List.range 7).filter fun p => portHere s p && portState p s != pDown) pcNone s)

/-! ### Meanings -/

def execCodewordReceive (port : BitVec 3) (seq ackSeq : BitVec 9) (nakBit idle : Bool) (corrected : Nat)
    (good tagFail : Bool) (s : State) : Host.Outcome State Fault Refusal :=
  run (fun s => settleFerry (codeword port.toNat seq.toNat ackSeq.toNat nakBit idle corrected good tagFail s)) s

def execLaneRepair (port : BitVec 3) (lane : BitVec 5) (s : State) : Host.Outcome State Fault Refusal :=
  run (fun s => settleFerry (laneRepair port.toNat lane.toNat s)) s

def execSignalLoss (port : BitVec 3) (s : State) : Host.Outcome State Fault Refusal := run (fun s => settleFerry (lossOfSignal port.toNat s)) s
def execRetrainInterval (port : BitVec 3) (s : State) : Host.Outcome State Fault Refusal := run (fun s => settleFerry (retrainDue port.toNat s)) s

def execPortTrainingDone (port : BitVec 3) (how : TrainEnd) (s : State) : Host.Outcome State Fault Refusal :=
  run (fun s => settleFerry (trainingDone port.toNat how s)) s

def execPortRetrainDone (port : BitVec 3) (ok : Bool) (s : State) : Host.Outcome State Fault Refusal :=
  run (fun s => settleFerry (retrainDone port.toNat ok s)) s

def execIdFrame (port : BitVec 3) (f : IdFrame) (s : State) : Host.Outcome State Fault Refusal :=
  run (fun s => settleFerry (idArrives port.toNat f s)) s

def execLinkSpdmFrame (port : BitVec 3) (done : Bool) (chain : PeerChain) (meas : PeerMeas) (s : State) :
    Host.Outcome State Fault Refusal := run (spdmFrame port.toNat done chain meas) s

def execLinkKeyUpdate (port : BitVec 3) (ok : Bool) (s : State) : Host.Outcome State Fault Refusal :=
  run (fun s => settleFerry (linkRekey port.toNat ok s)) s

def execPrsntMate (port : BitVec 3) (s : State) : Host.Outcome State Fault Refusal := run (fun s => settleFerry (presence port.toNat true s)) s
def execPrsntRelease (port : BitVec 3) (s : State) : Host.Outcome State Fault Refusal := run (fun s => settleFerry (presence port.toNat false s)) s

/-- A PORT_DOWN notice (R310). -/
def execPortDownNotice (pos : BitVec 7) (dir : BitVec 3) (s : State) : Host.Outcome State Fault Refusal :=
  run (fun s => settleFerry (linkNotice pos.toNat dir.toNat false s)) s

/-- A PORT_UP notice (R440). -/
def execPortUp (pos : BitVec 7) (dir : BitVec 3) (s : State) : Host.Outcome State Fault Refusal :=
  run (fun s => settleFerry (linkNotice pos.toNat dir.toNat true s)) s

end Sys2Proof.Machine
end

