-- ==== Sys2Proof/Machine/Fabric.lean ====
section
/-! DEFINITION. Machine/Fabric.lean: one-sided operations and messages at their target, in a router and on their way back
(R290 to R312), and the registration of windows and rings (R289, R291, R306). -/

namespace Sys2Proof.Machine

/-! ### The combining table of a router (R300, R301) -/

/-- Whether an operation may attach to an entry. -/
def attaches (h : ReqHeader) (e : Combine) : Bool :=
  combines h && !h.fenced && !h.retx && !e.closed && e.attached.length < 16 && h.opcode == e.hdr.opcode &&
  h.dest == e.hdr.dest && h.window == e.hdr.window && h.offset == e.hdr.offset && h.length == e.hdr.length &&
  h.key == e.hdr.key && (h.opcode.toNat == ocGet || !e.sent)

/-- Puts a combining operation into the table or attaches it. `hold`: the router's output is busy, so that a FETCH_ADD
stays in its entry and gathers addends. -/
def combineStep (p : Packet) (hold : Bool) (s : State) : State :=
  let h := p.hdr
  let l := s.gld.combine
  match l.findIdx? (attaches h) with
  | some i =>
    let e := l.getD i { hdr := h }
    let s := closeEntries h (fun x => x == e) s
    let l := s.gld.combine
    let e := { e with attached := e.attached ++ [(h.src.toNat, h.tag.toNat, h.valueA)] }
    let s := bump64 (GLD_CNT (if isFadd h then 3 else 2)) 1 s
    if isFadd h && (!hold || e.attached.length ≥ 16) then
      release e (setCombine (setAt l i { e with sent := true }) s)
    else setCombine (setAt l i e) s
  | none =>
    let s := closeEntries h (fun _ => false) s
    if s.gld.combine.length < 64 then
      let held : Bool := hold && isFadd h
      let s := setCombine (s.gld.combine ++ [{ hdr := h, sent := !held }]) s
      if held then s else pass p s
    else pass p s

/-- A packet for another node passes through the router. -/
def forward (p : Packet) (hold : Bool) (s : State) : State :=
  if combines p.hdr then combineStep p hold s else pass p (closeEntries p.hdr (fun _ => false) s)

/-- A response for another node goes on, with a copy for every attached operation of the entry it closes (R301). -/
def forwardResp (r : RespPacket) (s : State) : State :=
  let hit (e : Combine) : Bool := e.hdr.src == r.dest && e.hdr.tag == r.tag && e.hdr.dest == r.src
  match s.gld.combine.find? hit with
  | none => emitResp r s
  | some e =>
    let s := setCombine (s.gld.combine.filter fun x => !hit x) s
    let s := emitResp r s
    (e.attached.foldl (fun (acc : W64 × State) a =>
      (acc.1 + a.2.2, emitResp (mkResp { r with
        dest := BitVec.ofNat 10 a.1, tag := BitVec.ofNat 16 a.2.1
        value := if isFadd e.hdr then r.value + acc.1 else r.value }) acc.2)) (e.hdr.valueA, s)).2

/-! ### Answers of a target (R292, R294, R309) -/

def answer (p : Packet) (oc st : Nat) (value : W64) (bs : List Byte) (k : Nat) (s : State) : State :=
  emitResp (mkResp
    { opcode := BitVec.ofNat 5 oc, tc := p.hdr.tc, status := BitVec.ofNat 4 st, dest := p.hdr.src
      src := BitVec.ofNat 10 (myNode s), tag := p.hdr.tag, nakReason := 0, pktOff := BitVec.ofNat 32 k, value := value
      data := bs, crc := 0 }) s

def ackPkt (p : Packet) (st : Nat) (v : W64) (s : State) : State := answer p ocAck st v [] p.hdr.pktOff.toNat s

/-- NAK reasons: 0 CRC, 1 BUSY, 2 RNR. -/
def nakPkt (p : Packet) (reason : Nat) (s : State) : State :=
  let s := if reason = 1 then bump64 (GLD_CNT 9) 1 s else s
  emitResp (mkResp
    { opcode := BitVec.ofNat 5 ocNak, tc := p.hdr.tc, status := 0, dest := p.hdr.src, src := BitVec.ofNat 10 (myNode s)
      tag := p.hdr.tag, nakReason := BitVec.ofNat 4 reason, pktOff := p.hdr.pktOff, value := 0, data := [], crc := 0 }) s

/-! ### Windows at the target (R290, R291, R295) -/

def winBase (w : Nat) (s : State) : Nat := fld (GLD_WIN_BASE_BASE w) s * 4096
def winSize (w : Nat) (s : State) : Nat := fld (GLD_WIN_SIZE_SIZE w) s * 4096

/-- PERM bits an opcode needs. -/
def needPerm (oc : Nat) : Nat :=
  if oc = ocPut || oc = ocMcast then 1 else if oc = ocPutSignal then 17 else if oc = ocGet then 2
  else if oc = ocReduce then 4 else if oc = ocAtomic then 8 else 16

/-- Size of a signal word; 0 without a signal. -/
def sigSize (h : ReqHeader) : Nat := if h.sigOp = 0 then 0 else if h.sigOp = 1 then 4 else 8

/-- Operations that a landing counter tracks: PUT_SIGNAL, and REDUCE or MCAST_PUT with a signal (R297). -/
def counted (h : ReqHeader) : Bool :=
  let oc := h.opcode.toNat
  oc == ocPutSignal || ((oc == ocReduce || oc == ocMcast) && h.sigOp != 0)

/-- Operations that perform a signal: those and a bare SIGNAL. -/
def signals (h : ReqHeader) : Bool := h.opcode.toNat == ocSignal || counted h

/-- The tests of R290. -/
def windowOk (h : ReqHeader) (s : State) : Bool :=
  let w := h.window.toNat
  let need := needPerm h.opcode.toNat
  let size := winSize w s
  bit (GLD_WIN_CFG_VALID w) s && lookup s.gld.keys 0 w == h.key &&
  fld (GLD_WIN_CFG_PERM w) s &&& need == need &&
  (opRange h).2 ≤ size && (!signals h || h.sigOffset.toNat + sigSize h ≤ size)

/-- Element size of a REDUCE. -/
def elemSize (h : ReqHeader) : Nat := if h.subop = 1 then 2 else 4

/-- The alignment rules of R295, and a payload that lies within the operation. -/
def alignedOk (p : Packet) : Bool :=
  let h := p.hdr
  let oc := h.opcode.toNat
  (oc != ocReduce || (h.offset.toNat % elemSize h == 0 && h.length.toNat % elemSize h == 0)) &&
  (oc != ocAtomic || h.offset.toNat % 8 == 0) &&
  (!signals h || sigSize h == 0 || h.sigOffset.toNat % sigSize h == 0) &&
  (!carries oc || h.pktOff.toNat + p.payload.length ≤ h.length.toNat)

/-- Whether the lagoon of the window's context lies spilled at address a (R358). -/
def spilledAt (c a : Nat) (s : State) : Bool :=
  match lagoonAt a with
  | some m => (ctx c s).spilled.contains m || (ctx c s).restoreWait.contains m
  | none => false

/-! ### Landing (R296, R297, R302, R309) -/

def landing? (src tag : Nat) (s : State) : Option Landing := s.gld.landings.find? fun l => l.src == src && l.tag == tag
def dropLanding (src tag : Nat) (s : State) : State :=
  modGld (fun g => { g with landings := g.landings.filter fun l => !(l.src == src && l.tag == tag) }) s

/-- Landing counters in use (R313). -/
def countersUsed (s : State) : Nat := (s.gld.landings.filter (·.counter)).length

/-- Performs a signal (R297) and drives the wake wires (R328). -/
def fireSignal (h : ReqHeader) (s : State) : State :=
  if h.sigOp = 0 then s
  else
    let a := winBase h.window.toNat s + h.sigOffset.toNat
    let old := rdNat a 8 s
    let bs := if h.sigOp = 1 then natToBytes 4 h.valueA.toNat
      else if h.sigOp = 2 then natToBytes 8 h.valueA.toNat else natToBytes 8 ((old + h.valueA.toNat) % 2 ^ 64)
    signalFired (a / 8 * 8) (wrUnit a bs false s)

/-- Records a completed operation of a source; the last 4,096 are kept (R309). -/
def remember (src tag : Nat) (v : W64) (s : State) : State :=
  let mine := s.gld.history.filter fun d => d.src == src
  let drop? := if mine.length ≥ 4096 then mine.head? else none
  let l := match drop? with
    | some d => s.gld.history.erase d
    | none => s.gld.history
  modGld (fun g => { g with history := l ++ [{ src := src, tag := tag, value := v }] }) s

/-- Counts the records of a return message that has landed in a carding window 0xF81 + 2c and whose STEP is not c's
current step (R260, R268). -/
def countStale (h : ReqHeader) (s : State) : State :=
  let w := h.window.toNat
  let a := winBase w s + h.offset.toNat
  let step : Nat := (rd (WV_STEP ((w - 0xF80) / 2)) s).toNat % 2 ^ 20
  if h.opcode.toNat == ocPutSignal && 0xF80 ≤ w && w % 2 == 1 && rdNat a 4 s / 2 ^ 12 != step then bump64 (CRD_CNT 5) (rdNat (a + 8) 2 s) s else s

/-- An operation is complete at its target. -/
def served (h : ReqHeader) (v : W64) (s : State) : State :=
  let s := if signals h then fireSignal h s else s
  let s := countStale h s
  let s := dropLanding h.src.toNat h.tag.toNat s
  remember h.src.toNat h.tag.toNat v (bump64 (GLD_CNT 1) 1 s)

/-- FP32_MAX of R302: NaN when an input is NaN, and +0 above −0. -/
def maxReduce (a b : W32) : W32 :=
  if fpIsNan a || fpIsNan b then fpQnan a b 0
  else if fpEq a b then (if fpNeg a then b else a)
  else if fpLt a b then b else a

/-- One element of a REDUCE. -/
def reduceElem (sub : Nat) (old new : List Byte) : List Byte :=
  let w (l : List Byte) : W32 := BitVec.ofNat 32 (bytesToNat l)
  if sub = 0 then natToBytes 4 (fpAdd (w old) (w new)).toNat
  else if sub = 1 then
    natToBytes 2 (fpToBf16 (fpAdd (bf16ToFp (BitVec.ofNat 16 (bytesToNat old)))
      (bf16ToFp (BitVec.ofNat 16 (bytesToNat new))))).toNat
  else if sub = 2 then natToBytes 4 (w old + w new).toNat
  else natToBytes 4 (maxReduce (w old) (w new)).toNat

/-- The bytes that a REDUCE packet leaves at address a. -/
def reduceBytes (sub a : Nat) (pay : List Byte) (s : State) : List Byte :=
  let n := if sub = 1 then 2 else 4
  (List.range (pay.length / n)).flatMap fun i =>
    reduceElem sub (rdBytes (a + n * i) n s) ((pay.drop (n * i)).take n)

/-- Distinct bytes that ranges (offset, length) cover, the ranges in ascending offset; bytes below `from_` are counted
already. -/
def distinct : Nat → List (Nat × Nat) → Nat
  | _, [] => 0
  | from_, (o, n) :: rest => (o + n - max o from_) + distinct (max from_ (o + n)) rest

/-- Distinct payload bytes that have landed (R297). -/
def landedBytes (l : Landing) : Nat := distinct 0 (sortBy (fun a b => a.1 < b.1) l.pieces)

/-- A packet that passed its checks writes its bytes, is counted, and is acknowledged; the last one completes the
operation. -/
def land (p : Packet) (s : State) : State :=
  let h := p.hdr
  let src := h.src.toNat
  let tag := h.tag.toNat
  let a := winBase h.window.toNat s + h.offset.toNat + h.pktOff.toNat
  let l := (landing? src tag s).getD { src := src, tag := tag, window := h.window.toNat, counter := counted h }
  if l.pieces.contains (h.pktOff.toNat, p.payload.length) then ackPkt p stOk 0 (bump64 (GLD_CNT 8) 1 s)
  else
    let pay := if h.opcode.toNat = ocReduce then reduceBytes h.subop.toNat a p.payload s else p.payload
    let s := if carries h.opcode.toNat && !pay.isEmpty then wrUnit a pay false s else s
    let l := { l with pieces := l.pieces ++ [(h.pktOff.toNat, p.payload.length)] }
    let s := modGld (fun g => { g with landings := l :: g.landings.filter fun x => !(x.src == src && x.tag == tag) }) s
    let s := if !carries h.opcode.toNat || landedBytes l ≥ h.length.toNat then served h 0 s else s
    ackPkt p stOk 0 s

/-- The target refuses an operation (R290). Its packets bear one header but for PKT_OFF and RETX, so that the operation is
counted once. -/
def rejectOp (p : Packet) (s : State) : State :=
  let c := fld (GLD_WIN_CFG_CONTEXT p.hdr.window.toNat) s
  let h := { p.hdr with pktOff := 0, retx := false }
  let s := if s.gld.rejects.contains h then s
    else bump64 (GLD_CNT 5) 1 (modGld (fun g =>
      { g with rejects := h :: g.rejects.filter fun x => !(x.src == h.src && x.tag == h.tag) }) s)
  ackPkt p stWindowFault 0 (gldErr GLD_ERR_WINDOW_REJECT c stWindowFault p.hdr.src.toNat s)

/-- Whether a packet at its target waits for memory (R130, R147, R368; log 123): for the bytes it reads or writes, and for
its signal word. -/
def packetWaits (p : Packet) (s : State) : Bool :=
  let h := p.hdr
  let oc := h.opcode.toNat
  let base := winBase h.window.toNat s
  let a := base + h.offset.toNat
  (if oc = ocGet then h.length != 0 && memWaits false a h.length.toNat s
   else if oc = ocAtomic then memWaits false a 8 s
   else carries oc && !p.payload.isEmpty && memWaits (oc != ocReduce) (a + h.pktOff.toNat) p.payload.length s) ||
  (signals h && h.sigOp != 0 && memWaits (h.sigOp != 3) (base + h.sigOffset.toNat) (sigSize h) s)

/-- The checks of an arriving operation on a window, then `perform` once its memory is there. -/
def atWindow (p : Packet) (perform : State → State) (s : State) : State :=
  let h := p.hdr
  let begun := (landing? h.src.toNat h.tag.toNat s).isSome
  let w := h.window.toNat
  let a := winBase w s + h.offset.toNat
  if p.crc != packetCrc h p.payload then nakPkt p 0 s
  else if (s.gld.history.any fun d => d.src == h.src.toNat && d.tag == h.tag.toNat) && h.opcode.toNat != ocGet then
    let v := ((s.gld.history.find? fun d => d.src == h.src.toNat && d.tag == h.tag.toNat).map (·.value)).getD 0
    ackPkt p stOk v (bump64 (GLD_CNT 8) 1 s)
  else if !windowOk h s || (s.gld.draining.contains w && !begun) then rejectOp p s
  else if !alignedOk p then ackPkt p stWindowFault 0 s
  else if spilledAt (fld (GLD_WIN_CFG_CONTEXT w) s) a s then nakPkt p 1 s
  else if counted h && !begun && countersUsed s ≥ 2048 then nakPkt p 1 s
  else if packetWaits p s then s
  else perform s

/-- A failing word among the n bytes that a request reads in a lagoon sets SPN_ERR.LAGOON_UE of its spindle (R71), under the
context of its window. DEDUCED: the capture takes SLOT 0, since no descriptor reads the word (log 133). -/
def lagoonUe (h : ReqHeader) (a n : Nat) (s : State) : State :=
  match lagoonAt a with
  | some m => if lagoonFails a n s then
      spnErr (SPN_ERR_LAGOON_UE m) m (fld (GLD_WIN_CFG_CONTEXT h.window.toNat) s) 0 s else s
  | none => s

/-- A GET is answered with DATA, or with POISON and no data (R292, R311). -/
def serveGet (p : Packet) (s : State) : State :=
  let h := p.hdr
  let a := winBase h.window.toNat s + h.offset.toNat
  let n := h.length.toNat
  let bad : Bool := n != 0 && (lagoonFails a n s && (lagoonAt a).isSome ||
    ((lagoonAt a).isNone && (staplesOf a n).any fun q => !stapleOk q s))
  let s := lagoonUe h a n s
  if bad then ackPkt p stPoison 0 s
  else
    let again : Bool := s.gld.history.any fun d => d.src == h.src.toNat && d.tag == h.tag.toNat
    let s := if again then bump64 (GLD_CNT 8) 1 s else served h 0 s
    (pktOffs n).foldl (fun s k => answer p ocData stOk 0 (rdBytes (a + k) (min 4096 (n - k)) s) k s) s

/-- A REDUCE whose target elements lie in a poisoned staple answers POISON (R302), and so does one over a failing lagoon word,
which R71 treats as poisoned (log 133). -/
def serveReduce (p : Packet) (s : State) : State :=
  let a := winBase p.hdr.window.toNat s + p.hdr.offset.toNat + p.hdr.pktOff.toNat
  let n := p.payload.length
  let bad : Bool := if (lagoonAt a).isSome then lagoonFails a n s else (staplesOf a n).any fun q => !stapleOk q s
  if bad then ackPkt p stPoison 0 (lagoonUe p.hdr a n s) else land p s

/-- An ATOMIC on one word (R299). -/
def serveAtomic (p : Packet) (s : State) : State :=
  let h := p.hdr
  let a := winBase h.window.toNat s + h.offset.toNat
  let old := BitVec.ofNat 64 (rdNat a 8 s)
  let s := lagoonUe h a 8 s
  let s :=
    if h.subop = 0 then wrUnit a (natToBytes 8 (old + h.valueA).toNat) false s
    else if old = h.valueB then wrUnit a (natToBytes 8 h.valueA.toNat) false s else s
  ackPkt p stOk old (served h old s)

/-! ### Messages (R306, R307, R371) -/

def ringSlots (c : Nat) (s : State) : Nat := 2 ^ fld (GLD_MSG_RING_ORDER c) s
def slotBytes (c : Nat) (s : State) : Nat := 2 ^ (12 + fld (GLD_MSG_RING_SLOT c) s)
def slotAddr (c i : Nat) (s : State) : Nat := fld (GLD_MSG_RING_ADDR c) s * 4096 + i % ringSlots c s * slotBytes c s
/-- PHASE of ring index i: 0 on the first pass and flipped at each wrap, as in R220. -/
def slotPhase (c i : Nat) (s : State) : Bool := i / ringSlots c s % 2 == 1

/-- Slots in use: written or reserved, and the one RECV returned last. -/
def slotsUsed (c : Nat) (s : State) : Nat :=
  (fld (GLD_MSG_STATUS_HEAD c) s + 65536 - fld (GLD_MSG_STATUS_CONSUMER c) s) % 65536 + lookup s.gld.recvHeld 0 c

/-- Whether the slot at the consumer index holds a whole message of the current phase. -/
def recvReady (c : Nat) (s : State) : Bool :=
  let i := fld (GLD_MSG_STATUS_CONSUMER c) s
  bit (GLD_MSG_RING_VALID c) s && i != fld (GLD_MSG_STATUS_HEAD c) s &&
    !(s.gld.sends.any fun x => x.1 / 2 ^ 26 == c && x.2 == i) &&
    (rdWord (slotAddr c i s) s).getLsbD 31 == slotPhase c i s

/-- Returns the slot at the consumer index to a thread, and frees the slot returned before (R307). -/
def takeSlot (n t : Nat) (s : State) : State :=
  let th := thread n t s
  let c := th.ctx
  let i := fld (GLD_MSG_STATUS_CONSUMER c) s
  let a := slotAddr c i s
  let len := (rdWord (a + 8) s).toNat
  let s := setThread n t { th with state := .ready, recv := false, result := rdBytes a (64 + len) s } s
  setFld (GLD_MSG_STATUS_CONSUMER c) (i + 1) (modGld (fun g => { g with recvHeld := put g.recvHeld 0 c 1 }) s)

/-- A RECV (R307). -/
def recvThread (n t : Nat) (s : State) : State :=
  let th := thread n t s
  if th.state != .ready then s
  else if recvReady th.ctx s then takeSlot n t s
  else threadWait n t .waitRemote (setThread n t { th with recv := true } s)

/-- A message landed: a thread of the context that waits in RECV takes it. -/
def wakeRecv (c : Nat) (s : State) : State :=
  let ws := s.spns.flatMap fun p => (p.2.threads.filter fun t => t.2.ctx == c && t.2.recv).map fun t => (p.1, t.1)
  match ws with
  | [] => s
  | (n, t) :: _ => if recvReady c s then takeSlot n t s else s

/-- The key of a message in flight to context c. -/
def sendKey (c src tag : Nat) : Nat := c * 2 ^ 26 + src * 2 ^ 16 + tag

/-- The payload of a packet that came through port 6, opened under the pair session with its source; none without a session, or
where the payload or the header is not what was sealed: such a packet is discarded (R421, log 147). -/
def openPayload (h : ReqHeader) (bs : List Byte) (s : State) : Option (List Byte) :=
  if s.sec.pairs.contains h.src.toNat then Config.pairOpen h.src.toNat (sealHdr h) bs else none

/-- The last packet of the SPDM exchange with a remote node: the session stands, and what waited for it leaves (R421). -/
def pairArrives (node : Nat) (ok : Bool) (s : State) : State :=
  if !s.boot.on || !nodeValid s || bit PWR_HAVEN_ACTIVE s || !ok || sameDomain node s || !isNode node then s
  else settleCauseway (openPair node s)

/-- A SEND packet lands in the target context's ring (R306, R307). -/
def landSend (p : Packet) (s : State) : State :=
  let h := p.hdr
  let c := h.msgCtx.toNat
  let k := sendKey c h.src.toNat h.tag.toNat
  let plain := if sameDomain h.src.toNat s then some p.payload else openPayload h p.payload s
  if p.crc != packetCrc h p.payload then nakPkt p 0 s
  else if plain.isNone then s
  else if s.gld.history.any fun d => d.src == h.src.toNat && d.tag == h.tag.toNat then
    ackPkt p stOk 0 (bump64 (GLD_CNT 8) 1 s)
  else if h.valueA.getLsbD 63 then ackPkt p stOk 0 s
  else if !bit (GLD_MSG_RING_VALID c) s || h.length.toNat > slotBytes c s - 64 || !alignedOk p then
    ackPkt p stWindowFault 0 s
  else
    let begun := (find? s.gld.sends k).isSome
    if !begun && slotsUsed c s ≥ ringSlots c s then nakPkt p 2 s
    else
      let i := (find? s.gld.sends k).getD (fld (GLD_MSG_STATUS_HEAD c) s)
      if memWaits true (slotAddr c i s) (slotBytes c s) s then s else
      let s := if begun then s else
        setFld (GLD_MSG_STATUS_HEAD c) (i + 1) (modGld (fun g => { g with sends := ins g.sends k i }) s)
      let a := slotAddr c i s
      let l := (landing? h.src.toNat h.tag.toNat s).getD { src := h.src.toNat, tag := h.tag.toNat, window := 4096 }
      if l.pieces.contains (h.pktOff.toNat, p.payload.length) then ackPkt p stOk 0 (bump64 (GLD_CNT 8) 1 s)
      else
        let s := wrUnit (a + 64 + h.pktOff.toNat) (plain.getD []) false s
        let l := { l with pieces := l.pieces ++ [(h.pktOff.toNat, p.payload.length)] }
        let s := dropLanding h.src.toNat h.tag.toNat s
        let s := modGld (fun g => { g with landings := l :: g.landings }) s
        if landedBytes l < h.length.toNat then ackPkt p stOk 0 s
        else
          let w0 := (slotPhase c i s).toNat * 2 ^ 31 + h.src.toNat
          let s := wrUnit (a + 4) (natToBytes 4 h.srcCtx.toNat ++ natToBytes 4 h.length.toNat ++
            natToBytes 4 (h.valueA.toNat % 2 ^ 32) ++ List.replicate 48 0) false s
          let s := wrUnit a (natToBytes 4 w0) false s
          let s := modGld (fun g => { g with sends := del g.sends k }) s
          wakeRecv c (ackPkt p stOk 0 (served { h with sigOp := 0 } 0 s))

/-! ### Arrival -/

/-- Opcodes of R292; any other is reserved. -/
def knownOpcode (oc : Nat) : Bool := (1 ≤ oc && oc ≤ 8) || oc == ocAck || oc == ocData || oc == ocNak || oc == 0x18

/-- A request packet arrives as opcode `oc`: `perform` at its target, else the router passes it on. A package whose
GLD_NODE is not valid does neither (R284), nor does one in haven mode (R399); a reserved opcode is discarded and counted. -/
def arrivePacket (oc : Nat) (p : Packet) (hold : Bool) (perform : State → State) (s : State) : State :=
  let h := p.hdr
  if !s.boot.on || !nodeValid s || bit PWR_HAVEN_ACTIVE s then s
  else if h.opcode.toNat != oc then
    if knownOpcode h.opcode.toNat then s else bump64 (GLD_CNT 5) 1 s
  else if oc = ocMcast then
    let s := if h.src.toNat = myNode s then s else emitMcast p (closeEntries h (fun _ => false) s)
    if (groupOf h.group.toNat s).contains (ownPos s) then perform s else s
  else if h.dest.toNat = myNode s then perform s
  else forward p hold s

/-- Whether the checks of `atWindow` let an arriving operation be performed. -/
def performs (p : Packet) (s : State) : Bool :=
  let h := p.hdr
  let begun := (landing? h.src.toNat h.tag.toNat s).isSome
  let w := h.window.toNat
  p.crc == packetCrc h p.payload && !(s.gld.history.any fun d => d.src == h.src.toNat && d.tag == h.tag.toNat) &&
  windowOk h s && (begun || !s.gld.draining.contains w) && alignedOk p &&
  !spilledAt (fld (GLD_WIN_CFG_CONTEXT w) s) (winBase w s + h.offset.toNat) s &&
  !(counted h && !begun && countersUsed s ≥ 2048) && !packetWaits p s

/-- A packet of opcode `oc` that its target would perform carries a SUBOP above `top` (R293). -/
def badSubop (oc top : Nat) (p : Packet) (s : State) : Bool :=
  s.boot.on && nodeValid s && !bit PWR_HAVEN_ACTIVE s && p.hdr.opcode.toNat == oc && p.hdr.dest.toNat == myNode s && p.hdr.subop.toNat > top &&
  performs p s

def getArrives (p : Packet) (s : State) : State := arrivePacket ocGet p false (atWindow p (serveGet p)) s
def landArrives (oc : Nat) (p : Packet) (s : State) : State := arrivePacket oc p false (atWindow p (land p)) s

/-- A packet that a causeway transfer carried here is performed under R289 to R297 (R308); its payload was sealed under the
pair session (R421). One for another node goes on as it came. -/
def carriedArrives (q : Packet) (s : State) : State :=
  let h := q.hdr
  let oc := h.opcode.toNat
  if !s.boot.on || !nodeValid s || bit PWR_HAVEN_ACTIVE s || !(oc == ocPut || oc == ocPutSignal || oc == ocGet) then s
  else if h.dest.toNat != myNode s then routeFrom h.src.toNat h.dest.toNat 3 (.carrier q) s
  else
    match openPayload h q.payload s with
    | none => s
    | some pay =>
      -- the seal's tag has taken the place of the packet's own CRC once it is open
      let p := if q.crc = packetCrc h q.payload then mkPacket h pay else q
      atWindow p (if oc = ocGet then serveGet p else land p) s

/-! ### Responses at the source (R303, R309, R311) -/

/-- A response for this package about an outstanding operation; others go on, and late ones are discarded. -/
def arriveResp (oc : Nat) (r : RespPacket) (f : FabOp → State → State) (s : State) : State :=
  if !s.boot.on || !nodeValid s || bit PWR_HAVEN_ACTIVE s then s
  else if r.opcode.toNat != oc then
    if knownOpcode r.opcode.toNat then s else bump64 (GLD_CNT 5) 1 s
  else if r.dest.toNat != myNode s then forwardResp r s
  else if !respOk r then s
  else match op? r.tag.toNat s with
    | none => s
    | some o => if (membersOf o.hdr s).contains r.src.toNat then f o s else s

/-- An ACK (R296, R303). -/
def ackArrives (r : RespPacket) (o : FabOp) (s : State) : State :=
  let tag := r.tag.toNat
  let st := r.status.toNat
  let many : Bool := o.hdr.opcode.toNat == ocMcast
  if st != stOk && !many then finishOp tag st [] s
  else if o.hdr.opcode.toNat = ocGet then s
  else
    let offs := opOffs o.hdr
    let acks := if st != stOk then offs.foldl (fun l k => addOnce l (r.src.toNat, k)) o.acks
      else addOnce o.acks (r.src.toNat, r.pktOff.toNat)
    let o := { o with acks := acks, worst := max o.worst st, value := r.value }
    if (membersOf o.hdr s).all fun m => offs.all fun k => acks.contains (m, k) then
      finishOp tag o.worst (natToBytes 8 o.value.toNat) (setOp tag o s)
    else setOp tag o s

/-- A DATA response of a GET. -/
def dataArrives (r : RespPacket) (o : FabOp) (s : State) : State :=
  let tag := r.tag.toNat
  if o.hdr.opcode.toNat != ocGet then s
  else if r.status.toNat != stOk then finishOp tag r.status.toNat [] s
  else
    let o := { o with got := ins o.got r.pktOff.toNat r.data }
    if (opOffs o.hdr).all fun k => (find? o.got k).isSome then
      finishOp tag stOk (o.got.flatMap (·.2)) (setOp tag o s)
    else setOp tag o s

/-- Sends the packet at offset k again with RETX. -/
def resend (tag k : Nat) (o : FabOp) (s : State) : State :=
  setOp tag o (sendPkt o k true (bump64 (GLD_CNT 4) 1 s))

/-- One more retransmission of a packet, if the limit allows it (R309). -/
def retry (tag k : Nat) (o : FabOp) (s : State) : Option State :=
  let n := lookup o.retries 0 k
  if n ≥ fld GLD_TIMEOUT_E2E_RETRY s then none
  else some (resend tag k { o with retries := put o.retries 0 k (n + 1) } s)

/-- A NAK: CRC is retried up to the limit, BUSY and RNR without one (R309, R311). -/
def nakArrives (r : RespPacket) (o : FabOp) (s : State) : State :=
  let tag := r.tag.toNat
  let k := r.pktOff.toNat
  if r.nakReason = 0 then
    match retry tag k o s with
    | some s => s
    | none => finishOp tag stRetry [] s
  else if r.nakReason.toNat ≤ 2 then resend tag k o s
  else s

/-- Whether the packet at offset k has not been answered. -/
def unanswered (o : FabOp) (k : Nat) (s : State) : Bool :=
  if o.hdr.opcode.toNat = ocGet then true else !((membersOf o.hdr s).all fun m => o.acks.contains (m, k))

/-- OP_US / 4 without a response (R309). -/
def retransmit (tag k : Nat) (s : State) : State :=
  match op? tag s with
  | none => s
  | some o =>
    let offs := if o.hdr.opcode.toNat = ocGet then [0] else opOffs o.hdr
    if o.sent && offs.contains k && unanswered o k s then (retry tag k o s).getD s else s

/-- OP_US without progress (R311). -/
def opTimeout (tag : Nat) (responded : Bool) (s : State) : State :=
  match op? tag s with
  | none => s
  | some o =>
    let alive : Bool := responded && (membersOf o.hdr s).all fun m => reachable m s
    finishOp tag (if alive then stRetry else stTargetDead) [] (bump64 (GLD_CNT 7) 1 s)

/-! ### Registration of windows and rings (R289, R291, R306) -/

/-- Whether a window's range may be registered for a context with the given permissions. -/
def windowRangeOk (c perm base size : Nat) (s : State) : Bool :=
  let kindOk (k : Nat) : Bool := k == kAdapter || k == kScratch || (k == kWeight && perm &&& 0x1D == 0)
  ((ctx c s).bound.any fun b =>
    let g := region b.2 s
    g.valid && kindOk g.kind && g.base ≤ base && base + size ≤ g.base + g.size) ||
  (match lagoonAt base with
   | some m => m < numSpindles s && base + size ≤ lagoonBase (m + 1)
   | none => false)

/-- Clears VALID of a window: at once, or after the operations that have begun to land (R291). -/
def drainWindow (w : Nat) (s : State) : State :=
  if s.gld.landings.any fun l => l.window == w then
    modGld (fun g => { g with draining := addOnce g.draining w }) s
  else withdrawWindow w s

/-- A write of a GLD_WIN register. -/
def winWrite (o : Nat) (v : W64) (s : State) : State :=
  let w := (o - 0x610000) / 0x20
  let r := (o - 0x610000) % 0x20
  if bit (GLD_WIN_CFG_VALID w) s then
    if r = 0x10 && !v.getLsbD 31 then drainWindow w s else discarded o v s
  else if r = 0x14 then modGld (fun g => { g with keys := put g.keys 0 w (v.setWidth 32) }) s
  else if r = 0x10 && v.getLsbD 31 then
    let new := (written o v s).1
    let c := fldOf (GLD_WIN_CFG_CONTEXT w) new
    if w < 0xF80 && windowRangeOk c (fldOf (GLD_WIN_CFG_PERM w) new) (winBase w s) (winSize w s) s then store o v s
    else gldErr GLD_ERR_WINDOW_CFG c 0 0 s
  else store o v s

/-- The drain of a window ends (R291). -/
def drainDone (w : Nat) (s : State) : State :=
  if s.gld.draining.contains w then
    withdrawWindow w (modGld (fun g => { g with landings := g.landings.filter fun l => l.window != w }) s)
  else s

/-- A write of GLD_MSG_RING (R306). A registration starts with an empty ring. -/
def ringWrite (c : Nat) (v : W64) (s : State) : State :=
  let o := GLD_MSG_RING c
  let (new, bad) := written o v s
  let base := fldOf (GLD_MSG_RING_ADDR c) new * 4096
  let size := 2 ^ fldOf (GLD_MSG_RING_ORDER c) new * 2 ^ (12 + fldOf (GLD_MSG_RING_SLOT c) new)
  if fldOf (GLD_MSG_RING_VALID c) new = 0 then rsvEnc bad (wr o new s)
  else if boundKind c kScratch base size s then
    let s := modGld (fun g => { g with recvHeld := put g.recvHeld 0 c 0, sends := g.sends.filter fun k => k.1 / 2 ^ 26 != c }) s
    rsvEnc bad (wr o new (wr (GLD_MSG_STATUS c) 0 s))
  else gldErr GLD_ERR_WINDOW_CFG c 0 0 (rsvEnc bad s)

/-! ### GLD_NODE and GLD_CTRL (R283, R284, R308, R313) -/

/-- A write of GLD_NODE. A product of dimensions above 128 is reserved. -/
def nodeWrite (v : W64) (s : State) : State :=
  let old := rd GLD_NODE s
  let (new, bad) := written GLD_NODE v s
  let d (f : FRef) : Nat := fldOf f new + 1
  let big : Bool := d GLD_NODE_DX_M1 * d GLD_NODE_DY_M1 * d GLD_NODE_DZ_M1 > 128
  if anyCtx s then rsvEnc (bad || big) (gldErr GLD_ERR_CFG_LOCKED 0 0 0 s)
  else
    let keep (f : FRef) (x : W64) : W64 := setFldOf f (fldOf f old) x
    let new := if big then keep GLD_NODE_DX_M1 (keep GLD_NODE_DY_M1 (keep GLD_NODE_DZ_M1 new)) else new
    let s := rsvEnc (bad || big) (wr GLD_NODE new s)
    evalPorts (sendIds (routeChanged (modGld (fun g => { g with downLinks := [] }) s)))

/-- A serving context: one that exists and is no adapter-tuning job. -/
def servingCtx (s : State) : Bool := (existing s).any fun c => !tuning c s

/-- A write of GLD_CTRL: CAUSEWAY is discarded while a serving context exists (R308); EN acts on the ports. -/
def gldCtrlWrite (v : W64) (s : State) : State :=
  let old := rd GLD_CTRL s
  let flips : Bool := fldOf GLD_CTRL_CAUSEWAY v != fldOf GLD_CTRL_CAUSEWAY old
  let lock : Bool := flips && servingCtx s
  let s := if lock then gldErr GLD_ERR_CAUSEWAY 0 0 0 s else s
  let s := store GLD_CTRL (if lock then setFldOf GLD_CTRL_CAUSEWAY (fldOf GLD_CTRL_CAUSEWAY old) v else v) s
  if fldOf GLD_CTRL_EN v = fldOf GLD_CTRL_EN old then s else enablePorts (wbit v 0) s

/-- A write of GLD_PORT_ROLE: the port's conditions are evaluated again, and its ID frame changes. -/
def roleWrite (p : Nat) (v : W64) (s : State) : State :=
  evalPorts (sendIds (store (GLD_PORT_ROLE p) v s))

/-- GLD_STATUS as a read returns it. -/
def gldStatus (s : State) : Nat := min s.gld.ops.length 4096 * 2 ^ 16 + min (countersUsed s) 2048

/-! ### Meanings -/

def execFabricOperationIssue (op : FabricOp) (s : State) : Host.Outcome State Fault Refusal :=
  run (fun s => settleFerry (issueOp op s)) s

def execPut (p : Packet) (s : State) : Host.Outcome State Fault Refusal := run (landArrives ocPut p) s
def execPutSignal (p : Packet) (s : State) : Host.Outcome State Fault Refusal := run (landArrives ocPutSignal p) s
def execGet (p : Packet) (s : State) : Host.Outcome State Fault Refusal := run (getArrives p) s

/-- A REDUCE; at its target a reserved SUBOP has no effect that the manual gives. -/
def execReduce (p : Packet) (s : State) : Host.Outcome State Fault Refusal :=
  if badSubop ocReduce 3 p s then .fault .reservedSubop
  else run (arrivePacket ocReduce p false (atWindow p (serveReduce p))) s

def execMcastPut (p : Packet) (s : State) : Host.Outcome State Fault Refusal := run (landArrives ocMcast p) s

/-- An ATOMIC; at its target a reserved SUBOP has no effect that the manual gives. -/
def execAtomic (p : Packet) (hold : Bool) (s : State) : Host.Outcome State Fault Refusal :=
  if badSubop ocAtomic 1 p s then .fault .reservedSubop
  else run (arrivePacket ocAtomic p hold (atWindow p (serveAtomic p))) s

def execSignal (p : Packet) (s : State) : Host.Outcome State Fault Refusal := run (landArrives ocSignal p) s

/-- A SEND; one of a causeway transfer carries a packet of its operation (R308). -/
def execSend (p : SendPacket) (s : State) : Host.Outcome State Fault Refusal :=
  match p with
  | .message p => run (arrivePacket ocSend p false (landSend p)) s
  | .causeway q => run (carriedArrives q) s
  | .pairSpdm node ok => run (fun s => settleFerry (pairArrives node.toNat ok s)) s

def execAck (r : RespPacket) (s : State) : Host.Outcome State Fault Refusal :=
  run (fun s => settleFerry (arriveResp ocAck r (ackArrives r) s)) s
def execData (r : RespPacket) (s : State) : Host.Outcome State Fault Refusal :=
  run (fun s => settleFerry (arriveResp ocData r (dataArrives r) s)) s
def execNak (r : RespPacket) (s : State) : Host.Outcome State Fault Refusal :=
  run (fun s => settleFerry (arriveResp ocNak r (nakArrives r) s)) s

def execRetransmitTimeout (tag : W16) (pktOff : W32) (s : State) : Host.Outcome State Fault Refusal :=
  run (retransmit tag.toNat pktOff.toNat) s

def execOperationTimeout (tag : W16) (responded : Bool) (s : State) : Host.Outcome State Fault Refusal :=
  run (fun s => settleFerry (opTimeout tag.toNat responded s)) s

def execRecv (spindle : Nat) (thread : BitVec 3) (s : State) : Host.Outcome State Fault Refusal :=
  run (recvThread spindle thread.toNat) s

def execWindowDrainDone (w : BitVec 12) (s : State) : Host.Outcome State Fault Refusal := run (drainDone w.toNat) s

end Sys2Proof.Machine
end

