-- ==== Sys2Proof/Machine/Operands.lean ====
section
/-! DEFINITION. Machine/Operands.lean: the fields of dispatch-list entries (R66, R108, R109, R157, R230, R253, R320, R334), of
patch records (R111) and of expert maps (R250). -/

namespace Sys2Proof.Machine

/-- Word w of an entry. -/
def ew (e : List W32) (w : Nat) : Nat := (e.getD w 0).toNat
/-- Bits hi:lo of word w. -/
def ef (e : List W32) (w hi lo : Nat) : Nat := ew e w / 2 ^ lo % 2 ^ (hi + 1 - lo)
/-- A field that names a lagoon offset or another multiple: bits hi:lo with their place kept. -/
def eo (e : List W32) (w hi lo : Nat) : Nat := ef e w hi lo * 2 ^ lo

/-! ### Every entry (R108) -/

def kNop : Nat := 0
def kTensor : Nat := 1
def kVector : Nat := 2
def kReef : Nat := 3
def kFerry : Nat := 4
def kCard : Nat := 5
def kSync : Nat := 6
def kSample : Nat := 7

def eKind (e : List W32) : Nat := ef e 0 31 28
def eSkip (e : List W32) : Bool := (e.getD 0 0).getLsbD 27
def eSlot (e : List W32) : Nat := ef e 0 23 0

/-! ### TENSOR and VECTOR (R66, R109) -/

def eSpindle (e : List W32) : Nat := ef e 1 31 23
def eLayer (e : List W32) : Nat := ef e 1 22 11
def tActFmt (e : List W32) : Nat := ef e 2 31 28
def tWgtFmt (e : List W32) : Nat := ef e 2 27 24
def tPlies (e : List W32) : Nat := ef e 2 23 22
def tRound (e : List W32) : Bool := (e.getD 2 0).getLsbD 21
def tThrSet (e : List W32) : Nat := ef e 2 20 17
def tLayerOut (e : List W32) : Bool := (e.getD 2 0).getLsbD 16
def tOutFmt (e : List W32) : Nat := ef e 2 15 12
/-- K / 16; the value 4,096 is encoded as 0. -/
def tKBlocks (e : List W32) : Nat := if ef e 2 11 0 = 0 then 4096 else ef e 2 11 0
def mPlan (e : List W32) : Nat := ef e 3 31 22
def mLive (e : List W32) : Nat := ef e 3 21 12
def tActScale (e : List W32) : W32 := e.getD 4 0
def tActSrc (e : List W32) : Nat := eo e 5 31 11
def tOutDst (e : List W32) : Nat := eo e 6 31 11
def tWgtEntry (e : List W32) : Nat := ef e 7 31 8
def tAdapter (e : List W32) : Nat := ef e 8 31 16
def eRowBase9 (e : List W32) : Nat := ew e 9
/-- MAG_EXP, signed. -/
def tMagExp (e : List W32) : Int := let x := ef e 12 31 24; if x ≥ 128 then (x : Int) - 256 else x
def eNormLo (e : List W32) : W32 := e.getD 13 0
def eNormHi (e : List W32) : W32 := e.getD 14 0
def vSoftmax (e : List W32) : Bool := (e.getD 1 0).getLsbD 10
def vLayerOut (e : List W32) : Bool := (e.getD 1 0).getLsbD 9
def vProg (e : List W32) : Nat := ef e 2 31 16
def vThread (e : List W32) : Nat := ef e 2 15 13
def vOutFmt (e : List W32) : Nat := ef e 2 12 9
def vInSrc (e : List W32) : Nat := eo e 4 31 11
def vInEnd (e : List W32) : Nat := eo e 5 31 11
def vOutDst (e : List W32) : Nat := eo e 6 31 11
def vRowElems (e : List W32) : Nat := ef e 10 31 16
def vSmaxTol (e : List W32) : W32 := e.getD 15 0

/-! ### REEF (R157) -/

def rOp (e : List W32) : Nat := ef e 1 31 28
def rMask (e : List W32) : Nat := ef e 1 27 20
def rLayer (e : List W32) : Nat := ef e 1 19 8
def rFmt (e : List W32) : Nat := ef e 2 31 28
/-- d; 0 for the reserved code. -/
def headDim (code : Nat) : Nat := if code = 0 then 64 else if code = 1 then 128 else if code = 2 then 256 else 0
def rDim (e : List W32) : Nat := headDim (ef e 2 27 26)
def rGroup (e : List W32) : Nat := ef e 2 25 21 + 1
def rKvHeads (e : List W32) : Nat := ef e 2 20 14 + 1
/-- QH. -/
def rQh (e : List W32) : Nat := rKvHeads e * rGroup e
def rRope (e : List W32) : Nat := ef e 2 13 12
def rHalfSplit (e : List W32) : Bool := (e.getD 2 0).getLsbD 11
def rAppend (e : List W32) : Bool := (e.getD 2 0).getLsbD 10
def rRemoteQ (e : List W32) : Bool := (e.getD 2 0).getLsbD 9
def rRotPairs (e : List W32) : Nat := ef e 2 7 0
def rShard (e : List W32) : Nat := ef e 3 11 7
def rShardsM1 (e : List W32) : Nat := ef e 3 6 2
def rScale (e : List W32) : W32 := e.getD 4 0
def rRopeBase (e : List W32) : W32 := e.getD 5 0
def rRopeTab (e : List W32) : Nat := ef e 5 22 6 * 16
def rRopeScale (e : List W32) : W32 := e.getD 6 0
def rRowBase (e : List W32) : Nat := ew e 7
def rQSpindle (e : List W32) : Nat := ef e 8 31 23
def rQOff (e : List W32) : Nat := ef e 8 22 6 * 16
def rOutSpindle (e : List W32) : Nat := ef e 9 31 23
def rOutOff (e : List W32) : Nat := ef e 9 22 6 * 16
def rKScale (e : List W32) : W32 := e.getD 10 0
def rVScale (e : List W32) : W32 := e.getD 11 0
def rWindow (e : List W32) : Nat := ef e 12 31 8
def rSink (e : List W32) : Nat := ef e 13 31 20
def rGradStride (e : List W32) : Nat := ef e 13 19 0
def rSrcSpindle (e : List W32) : Nat := ef e 14 31 23
def rSrcOff (e : List W32) : Nat := ef e 14 22 6 * 16
def rGradWreg (e : List W32) : Nat := ef e 15 31 27
def rGradOff (e : List W32) : Nat := ef e 15 26 0 * 4096

/-! ### SAMPLE (R230) -/

def sRowsPlan (e : List W32) : Nat := ef e 1 31 22
def sRowsLive (e : List W32) : Nat := ef e 1 21 12
def sVocab (e : List W32) : Nat := ef e 2 17 0 + 1
def sRowBase (e : List W32) : Nat := ew e 3
def sLogitWreg (e : List W32) : Nat := ef e 4 31 27
def sLogitOff (e : List W32) : Nat := ef e 4 26 0 * 4096
def sLogitStride (e : List W32) : Nat := ef e 5 19 0 * 4096
def sSmpWreg (e : List W32) : Nat := ef e 6 31 27
def sSmpOff (e : List W32) : Nat := ef e 6 26 0 * 4096
def sMaskWreg (e : List W32) : Nat := ef e 7 31 27
def sMaskOff (e : List W32) : Nat := ef e 7 26 0 * 4096
def sInSpindle (e : List W32) : Nat := ef e 8 31 23
def sInOff (e : List W32) : Nat := ef e 8 22 6 * 16
def sOutSpindle (e : List W32) : Nat := ef e 9 31 23
def sOutOff (e : List W32) : Nat := ef e 9 22 6 * 16

/-! ### CARD (R253) -/

def cOp (e : List W32) : Nat := ef e 1 31 28
def cHalf (e : List W32) : Nat := ef e 1 27 27
def cLayer (e : List W32) : Nat := ef e 1 23 12
def cMap (e : List W32) : Nat := ef e 2 31 20
def cTopk (e : List W32) : Nat := ef e 2 19 16 + 1
def cGate (e : List W32) : Nat := ef e 2 15 14
def cCap16 (e : List W32) : Nat := ef e 2 13 6
def cPayFmt (e : List W32) : Nat := ef e 2 5 2
def cRetFp32 (e : List W32) : Bool := (e.getD 2 0).getLsbD 1
def cExpFp32 (e : List W32) : Bool := (e.getD 2 0).getLsbD 0
def cRowsPlan (e : List W32) : Nat := ef e 3 31 22
def cRowsLive (e : List W32) : Nat := ef e 3 21 12
def cHiddenBlk (e : List W32) : Nat := ef e 3 11 0
def cRowBase (e : List W32) : Nat := ew e 4
/-- A pair of _WREG and _OFF in word w: weave region and byte offset. -/
def cRef (e : List W32) (w : Nat) : Nat × Nat := (ef e w 31 27, ef e w 26 0 * 4096)
def cExpRows (e : List W32) : Nat := ef e 11 31 16
def cSlotBytes (e : List W32) : Nat := ef e 11 15 0 * 4096
def cGateScale (e : List W32) : W32 := e.getD 12 0
def cMapWreg (e : List W32) : Nat := ef e 13 31 27

/-! ### SYNC (R320) -/

def yOp (e : List W32) : Nat := ef e 1 31 28
def yBarrier (e : List W32) : Nat := ef e 1 27 20
def yPart (e : List W32) : Nat := ef e 1 19 11

/-! ### Live rows (R110) -/

/-- Live rows of an entry; an entry without the field counts as live. A TENSOR entry whose K_BLOCKS was patched to 0 is
kept with M_LIVE 0 (R109). -/
def liveRows (e : List W32) : Nat :=
  let k := eKind e
  if k = kTensor || k = kVector || k = kReef || k = kCard then ef e 3 21 12
  else if k = kSample then sRowsLive e else 1

/-- An entry that does no arithmetic and is complete at once (R110). -/
def eIdle (e : List W32) : Bool := eSkip e || liveRows e == 0

/-! ### Patch records (R111) -/

def pEntry (p : W64) : Nat := p.toNat / 2 ^ 48
def pWord (p : W64) : Nat := p.toNat / 2 ^ 44 % 16
def pLsb (p : W64) : Nat := p.toNat / 2 ^ 39 % 32
def pWidth (p : W64) : Nat := p.toNat / 2 ^ 34 % 32 + 1
/-- 0 STEP, 1 EDGE, 2 EVENT. -/
def pTiming (p : W64) : Nat := p.toNat / 2 ^ 32 % 4
def pSource (p : W64) : Nat := p.toNat / 2 ^ 24 % 256
def pTransform (p : W64) : Nat := p.toNat / 2 ^ 20 % 16
def pArg (p : W64) : Nat := p.toNat % 2 ^ 20

/-- The source's own argument (R111): the low ten bits when TRANSFORM is 0x2. -/
def pOwnArg (p : W64) : Nat := if pTransform p = 2 && pSource p != 4 then pArg p % 1024 else pArg p

/-- Fields that a kind's chapter marks patchable: word, high bit, low bit. SKIP is patchable everywhere. -/
def patchable (kind : Nat) : List (Nat × Nat × Nat) :=
  (0, 27, 27) ::
  (if kind = kTensor then [(2, 11, 0), (3, 21, 12), (9, 31, 0)]
   else if kind = kVector then [(3, 21, 12), (7, 31, 0), (8, 31, 0), (9, 31, 0)]
   else if kind = kReef then [(3, 21, 12), (7, 31, 0)]
   else if kind = kFerry then [(7, 23, 0), (10, 23, 0), (13, 23, 0)]
   else if kind = kCard then [(3, 21, 12), (4, 31, 0)]
   else if kind = kSample then [(1, 21, 12), (3, 31, 0)]
   else [])

/-- Whether a record breaks R111 or R478 against its template's entries. -/
def patchBad (p : W64) (es : List (List W32)) : Bool :=
  match es[pEntry p]? with
  | none => true
  | some e =>
    let lo := pLsb p
    let hi := lo + pWidth p - 1
    let ok : Bool := hi ≤ 31 &&
      (patchable (eKind e)).any fun f => f.1 == pWord p && f.2.2 ≤ lo && hi ≤ f.2.1
    !ok || pTiming p == 3 || pSource p > 8 || pTransform p > 3 || (pSource p == 7 && pOwnArg p > 8)

/-! ### Expert maps (R250, R251) -/

/-- The little-endian number of n bytes at offset o of a byte string. -/
def leAt (bs : List Byte) (o n : Nat) : Nat := bytesToNat ((bs.drop o).take n)

/-- One expert map: its nodes in order, and each expert's node rank and local number. -/
structure XMap where
  experts : Nat
  tag : Nat
  nodes : List Nat
  table : List (Nat × Nat)
  deriving DecidableEq, Repr

/-- COUNT of a map table. -/
def mapCount (bs : List Byte) : Nat := leAt bs 0 4

/-- Map m of a table. -/
def xmap (bs : List Byte) (m : Nat) : XMap :=
  let o := 64 + 32 * m
  let w0 := leAt bs o 4
  let e := w0 / 2 ^ 20 + 1
  let n := w0 / 2 ^ 13 % 128 + 1
  let nl := leAt bs (o + 8) 4
  let et := leAt bs (o + 12) 4
  { experts := e, tag := leAt bs (o + 4) 4 / 2 ^ 16
    nodes := (List.range n).map fun i => leAt bs (nl + 2 * i) 2 % 1024
    table := (List.range e).map fun i => let w := leAt bs (et + 4 * i) 4; (w / 2 ^ 25, w % 4096) }

/-- Strictly ascending numbers. -/
def ascending : List Nat → Bool
  | a :: b :: rest => a < b && ascending (b :: rest)
  | _ => true

/-- Local expert numbers of a node rank. -/
def localsOf (x : XMap) (rank : Nat) : List Nat := (x.table.filter fun t => t.1 == rank).map (·.2)

/-- Validity of a map (R251). A node number of the fabric's node space has bits 8:7 zero and its position below `size`, the
packages of a domain (R284). -/
def xmapOk (size : Nat) (x : XMap) : Bool :=
  ascending x.nodes && x.table.all (fun t => t.1 < x.nodes.length) &&
  ((List.range x.nodes.length).all fun r =>
    let l := localsOf x r
    (List.range l.length).all fun i => l.contains i) &&
  x.nodes.all fun n => n / 128 % 4 == 0 && n % 128 < size

end Sys2Proof.Machine
end

