-- ==== Sys2Proof/Machine/Weave.lean ====
section
/-! DEFINITION. Machine/Weave.lean: weave images: parsing, the checks at load, and the creation of a context (R91 to R106,
R347, R348, R351, R363, R477, R480). -/

namespace Sys2Proof.Machine

/-! ### Sections (R91, R92, R94) -/

/-- One entry of the section table. -/
structure SecEnt where
  typ : Nat
  rsv : Nat
  len : Nat
  off : Nat
  digest : BitVec 384
  deriving DecidableEq, Repr

/-- The bytes of a digest, the first one lowest. -/
def digestAt (a : Nat) (s : State) : BitVec 384 := BitVec.ofNat 384 (rdNat a 48 s)

def secCount (b : Nat) (s : State) : Nat := rdNat (b + 12) 2 s

/-- The section table of the image at b. -/
def secs (b : Nat) (s : State) : List SecEnt :=
  (List.range (secCount b s)).map fun i =>
    let a := b + 0x100 + 64 * i
    { typ := rdNat a 2 s, rsv := rdNat (a + 2) 2 s, len := rdNat (a + 4) 4 s, off := rdNat (a + 8) 8 s
      digest := digestAt (a + 16) s }

def stPhaseCfg : Nat := 1
def stBeatPlan : Nat := 2
def stTemplates : Nat := 3
def stPlacement : Nat := 4
def stPrefetch : Nat := 5
def stGaugeThr : Nat := 6
def stBudget : Nat := 7
def stTileProg : Nat := 8
def stMaskTables : Nat := 9

/-- Index of the first section of a type. -/
def secIx (l : List SecEnt) (t : Nat) : Option Nat := l.findIdx? fun x => x.typ == t
def secOf (l : List SecEnt) (t : Nat) : SecEnt :=
  (l.find? fun x => x.typ == t).getD { typ := t, rsv := 0, len := 0, off := 0, digest := 0 }
def hasSec (l : List SecEnt) (t : Nat) : Bool := (secIx l t).isSome

/-! ### Bodies (R95 to R98, R42, R45, R62, R136, R138, R188) -/

/-- An image under inspection: package address and section table. -/
structure Img where
  base : Nat
  secs : List SecEnt
  deriving DecidableEq, Repr

def imgAt (b : Nat) (s : State) : Img := { base := b, secs := secs b s }

/-- n bytes at offset o of the body of type t, as a number. -/
def bn (i : Img) (t o n : Nat) (s : State) : Nat := rdNat (i.base + (secOf i.secs t).off + o) n s
def bWord (i : Img) (t o : Nat) (s : State) : W32 := BitVec.ofNat 32 (bn i t o 4 s)

def parsePhase (i : Img) (o : Nat) (s : State) : Phase :=
  let w0 := bn i stBeatPlan o 4 s
  let w1 := bn i stBeatPlan (o + 4) 4 s
  { firstBeat := w0 / 2 ^ 24, beats := w0 / 2 ^ 16 % 256, config := w0 / 2 ^ 8 % 256, powerClass := w0 / 16 % 16
    template := w1 / 2 ^ 16, reserve := w1 % 2 ^ 16, slotCyc := bn i stBeatPlan (o + 8) 4 s % 2 ^ 20 }

def nShapes (i : Img) (s : State) : Nat := bn i stBeatPlan 0 1 s
def nBars (i : Img) (s : State) : Nat := bn i stBeatPlan 2 2 s
def nChans (i : Img) (s : State) : Nat := bn i stBeatPlan 4 1 s
def shapeAt (i : Img) (k : Nat) (s : State) : Nat := bn i stBeatPlan 8 4 s + 32 * k

def parseShape (i : Img) (k : Nat) (s : State) : Shape :=
  let o := shapeAt i k s
  { len := bn i stBeatPlan o 1 s, maxRows := bn i stBeatPlan (o + 2) 2 s, maxPtok := bn i stBeatPlan (o + 4) 4 s
    phases := (List.range (bn i stBeatPlan (o + 1) 1 s)).map fun j =>
      parsePhase i (bn i stBeatPlan (o + 8) 4 s + 16 * j) s }

/-- Set bits of n bytes at an offset of the BEAT_PLAN body. -/
def maskBits (i : Img) (o n : Nat) (s : State) : List Nat :=
  (List.range (8 * n)).filter fun k => bn i stBeatPlan (o + k / 8) 1 s / 2 ^ (k % 8) % 2 == 1

def parseBar (i : Img) (k : Nat) (s : State) : BarRec :=
  let o := bn i stBeatPlan 12 4 s + 64 * k
  { parts := maskBits i o 45 s, nodes := maskBits i (o + 48) 16 s }

def nTemplates (i : Img) (s : State) : Nat := bn i stTemplates 0 4 s
def templateAt (i : Img) (k : Nat) (s : State) : Nat := bn i stTemplates 4 4 s + 16 * k

def parseTemplate (i : Img) (k : Nat) (s : State) : Template :=
  let o := templateAt i k s
  let eo := bn i stTemplates o 4 s
  let po := bn i stTemplates (o + 8) 4 s
  { entries := (List.range (bn i stTemplates (o + 4) 4 s)).map fun j =>
      (List.range 16).map fun w => bWord i stTemplates (eo + 64 * j + 4 * w) s
    patches := (List.range (bn i stTemplates (o + 12) 4 s)).map fun j => BitVec.ofNat 64 (bn i stTemplates (po + 8 * j) 8 s) }

def nWregs (i : Img) (s : State) : Nat := bn i stPlacement 0 1 s
def nAdapters (i : Img) (s : State) : Nat := bn i stPlacement 2 2 s
def nEntries (i : Img) (s : State) : Nat := bn i stPlacement 4 4 s

def parseWreg (i : Img) (k : Nat) (s : State) : WRegion :=
  let o := bn i stPlacement 8 4 s + 16 * k
  { kind := bn i stPlacement o 1 s % 8, hint := bn i stPlacement (o + 1) 1 s, size := bn i stPlacement (o + 8) 8 s }

/-- A ply offset; all ones when absent. -/
def plyOff (x : Nat) : Option Nat := if x = 2 ^ 64 - 1 then none else some x

def parsePlace (i : Img) (k : Nat) (s : State) : PlaceEntry :=
  let o := bn i stPlacement 12 4 s + 32 * k
  let w := bn i stPlacement (o + 28) 4 s
  { base := bn i stPlacement o 8 s, ply1 := plyOff (bn i stPlacement (o + 8) 8 s)
    ply2 := plyOff (bn i stPlacement (o + 16) 8 s), scale := bWord i stPlacement (o + 24) s
    fmt := w / 2 ^ 28, wreg := w / 2 ^ 23 % 32, blocks := w % 2 ^ 23 }

def parseAdapter (i : Img) (k : Nat) (s : State) : Adapter :=
  let o := bn i stPlacement 20 4 s + 32 * k
  { rank := bn i stPlacement o 2 s, wreg := bn i stPlacement (o + 2) 1 s % 32
    rsv := bn i stPlacement (o + 2) 1 s / 32 + bn i stPlacement (o + 3) 1 s, alpha := bWord i stPlacement (o + 4) s
    aLagoon := bn i stPlacement (o + 8) 4 s, bLagoon := bn i stPlacement (o + 12) 4 s
    aOff := bn i stPlacement (o + 16) 8 s, bOff := bn i stPlacement (o + 24) 8 s }

def hasKv (i : Img) (s : State) : Bool := hasSec i.secs stPlacement && bn i stPlacement 1 1 s % 2 == 1

/-- The KV descriptor (R188); head dimension 0 for the reserved code. -/
def parseKv (i : Img) (s : State) : KvDesc :=
  let o := bn i stPlacement 16 4 s
  let w0 := bn i stPlacement o 4 s
  { fmt := w0 / 2 ^ 28, headDim := headDim (w0 / 2 ^ 26 % 4), heads := w0 / 2 ^ 19 % 128 + 1, cls := w0 / 2 ^ 17 % 4
    layers := w0 % 2 ^ 12, atolls := (List.range 8).filter fun a => bn i stPlacement (o + 7) 1 s / 2 ^ a % 2 == 1
    window := bn i stPlacement (o + 8) 4 s / 256, sink := bn i stPlacement (o + 12) 4 s / 2 ^ 20 }

def nPrefetch (i : Img) (s : State) : Nat := bn i stPrefetch 0 4 s

def parsePrefetch (i : Img) (k : Nat) (s : State) : Prefetch :=
  let o := bn i stPrefetch 4 4 s + 32 * k
  let w0 := bn i stPrefetch o 4 s
  let w1 := bn i stPrefetch (o + 4) 4 s
  let w2 := bn i stPrefetch (o + 8) 8 s
  let w4 := bn i stPrefetch (o + 16) 4 s
  { plies := w0 / 2 ^ 24 % 8, entry := w0 % 2 ^ 24, shape := w1 / 2 ^ 28, issue := w1 / 2 ^ 20 % 256
    need := w1 / 2 ^ 12 % 256, channel := w1 / 2 ^ 6 % 64, first := w2 / 2 ^ 40, count := w2 / 2 ^ 16 % 2 ^ 24
    spindle := w4 / 2 ^ 23, lagoon := w4 / 2 ^ 14 % 512 }

/-- Bytes of a section body. -/
def bodyBytes (i : Img) (t : Nat) (s : State) : List Byte :=
  if hasSec i.secs t then rdBytes (i.base + (secOf i.secs t).off) (secOf i.secs t).len s else []

def eachN {α : Type} (n : Nat) (f : Nat → α) : List α := (List.range n).map f

/-- Logical spindles whose lagoons a transfer reads or writes (R351). -/
def xferSpindles (d : FryDesc) : List Nat :=
  let meets (a : Int) (n : Nat) : Bool := a < lagoonBase n + 0x200000 && lagoonBase n < a + fRun d
  (List.range 288).filter fun n => (runsOf d).any fun r =>
    (spaceOf (fSrc d) == 0 && meets r.src n) || (spaceOf (fDst d) == 0 && meets r.dst n)

/-- Logical spindles that an entry names (R351); those of a FERRY entry are the ones whose lagoons it reads or writes. -/
def entrySpindles (e : List W32) : List Nat :=
  let k := eKind e
  if k = kTensor || k = kVector then [eSpindle e]
  else if k = kReef then [rQSpindle e, rOutSpindle e] ++ (if rAppend e || rOp e = 1 then [rSrcSpindle e] else [])
  else if k = kSample then [sInSpindle e, sOutSpindle e]
  else if k = kFerry then xferSpindles { words := e, src := .driver }
  else if k = kSync && yPart e < 288 then [yPart e] else []

/-- Ascending list without repeats of the numbers below n in l. -/
def sortedSet (n : Nat) (l : List Nat) : List Nat := (List.range n).filter fun i => l.contains i

/-- The weave in an image. -/
def parseWeave (i : Img) (s : State) : Weave :=
  let b := i.base
  let p : Bool := hasSec i.secs stPlacement
  let ts := eachN (nTemplates i s) fun k => parseTemplate i k s
  let named := (ts.flatMap fun t => t.entries.flatMap entrySpindles) ++
    Config.phaseSpindles (secOf i.secs stPhaseCfg).digest ++ Config.progSpindles (secOf i.secs stTileProg).digest
  { id := BitVec.ofNat 64 (rdNat (b + 0x18) 8 s), flags := BitVec.ofNat 16 (rdNat (b + 0xE) 2 s)
    seed := BitVec.ofNat 64 (rdNat (b + 0x30) 8 s), baseDigest := digestAt (b + 0x38) s, headNs := rdNat (b + 0x26) 2 s
    tableDigest := digestRange b (0x100 + 64 * secCount b s) s
    light := bn i stBeatPlan 1 1 s % 16, shapes := eachN (nShapes i s) fun k => parseShape i k s
    bars := eachN (nBars i s) fun k => parseBar i k s, channels := nChans i s, templates := ts
    wregs := if p then eachN (nWregs i s) fun k => parseWreg i k s else []
    places := if p then eachN (nEntries i s) fun k => parsePlace i k s else []
    adapters := if p then eachN (nAdapters i s) fun k => parseAdapter i k s else []
    kv := if hasKv i s then some (parseKv i s) else none
    maps := if p then rdBytes (b + (secOf i.secs stPlacement).off + bn i stPlacement 24 4 s) (bn i stPlacement 28 4 s) s
      else []
    prefetch := eachN (nPrefetch i s) fun k => parsePrefetch i k s
    thr := (List.range 15).map fun k => if 4 * k + 4 ≤ (secOf i.secs stGaugeThr).len && hasSec i.secs stGaugeThr then
      bWord i stGaugeThr (4 * k) s else 0xFFFFFFFF
    frac := bn i stBudget 0 1 s, masks := bodyBytes i stMaskTables s, maskSec := hasSec i.secs stMaskTables, set := sortedSet 512 named }

/-! ### Code SECTION (R92, R94, R99) -/

/-- Two ranges (start, length) with a byte in common. -/
def clash (a b : Nat × Nat) : Bool := a.2 != 0 && b.2 != 0 && a.1 < b.1 + b.2 && b.1 < a.1 + a.2

/-- Some pair of a list clashes. -/
def anyClash : List (Nat × Nat) → Bool
  | [] => false
  | a :: rest => rest.any (clash a) || anyClash rest

/-- Section indices that break R92. -/
def badR92 (i : Img) (s : State) : List Nat :=
  let l := i.secs
  let total := rdNat (i.base + 0x10) 8 s
  (List.range l.length).filter fun k => match l[k]? with
    | none => false
    | some x => x.rsv != 0 || x.off % 4096 != 0 || x.off + x.len > total ||
        (List.range l.length).any fun j => j != k && match l[j]? with
          | some y => clash (x.off, x.len) (y.off, y.len)
          | none => false

/-- Section indices of a reserved or repeated type (R94). -/
def badTypes (l : List SecEnt) : List Nat :=
  (List.range l.length).filter fun k => match l[k]? with
    | none => false
    | some x => x.typ == 0 || x.typ > 9 || (List.range l.length).any fun j => j != k && match l[j]? with
        | some y => y.typ == x.typ
        | none => false

def required : List Nat := [stPhaseCfg, stBeatPlan, stTemplates, stPrefetch, stBudget, stTileProg]

/-- Tables of a body (start, length): whether one leaves the body or two overlap. -/
def tablesBad (i : Img) (t : Nat) (tabs : List (Nat × Nat)) : Bool :=
  let len := (secOf i.secs t).len
  tabs.any (fun x => x.1 + x.2 > len) || anyClash tabs

def beatPlanBad (i : Img) (s : State) : Bool :=
  let n := nShapes i s
  let ph (k : Nat) : Nat × Nat :=
    (bn i stBeatPlan (shapeAt i k s + 8) 4 s, 16 * bn i stBeatPlan (shapeAt i k s + 1) 1 s)
  n < 1 || n > 16 || nBars i s > 256 || nChans i s > 64 ||
  tablesBad i stBeatPlan ([(0, 64), (bn i stBeatPlan 8 4 s, 32 * n), (bn i stBeatPlan 12 4 s, 64 * nBars i s)] ++ eachN n ph) ||
  (List.range n).any fun k => (ph k).1 % 16 != 0 || (ph k).2 == 0 || bn i stBeatPlan (shapeAt i k s + 4) 4 s > 16777215

def placementBad (i : Img) (s : State) : Bool :=
  let g (o : Nat) : Nat := bn i stPlacement o 4 s
  let es := eachN (nEntries i s) fun k => parsePlace i k s
  let off (o : Option Nat) : Bool := match o with
    | some x => x % 4096 != 0
    | none => false
  nWregs i s > 32 || nEntries i s > 16777216 ||
  tablesBad i stPlacement [(0, 64), (g 8, 16 * nWregs i s), (g 12, 32 * nEntries i s),
    (g 16, if bn i stPlacement 1 1 s % 2 = 1 then 16 else 0), (g 20, 32 * nAdapters i s), (g 24, g 28)] ||
  es.any fun e => e.base % 4096 != 0 || off e.ply1 || off e.ply2 || e.blocks == 0

def templatesBad (i : Img) (s : State) : Bool :=
  let n := nTemplates i s
  let g (k o : Nat) : Nat := bn i stTemplates (templateAt i k s + o) 4 s
  n < 1 || n > 65536 ||
  tablesBad i stTemplates ([(0, 64), (bn i stTemplates 4 4 s, 16 * n)] ++
    (List.range n).flatMap fun k => [(g k 0, 64 * g k 4), (g k 8, 8 * g k 12)]) ||
  (List.range n).any fun k =>
    g k 0 % 64 != 0 || g k 4 < 1 || g k 4 > 65536 || g k 8 % 8 != 0 || g k 12 > 16777215

def prefetchBad (i : Img) (s : State) : Bool :=
  let n := nPrefetch i s
  let o := bn i stPrefetch 4 4 s
  n > 16777216 || o % 32 != 0 || tablesBad i stPrefetch [(0, 64), (o, 32 * n)]

/-- The lowest of the present sections of the given types; 0xFF for none. -/
def lowest (i : Img) (ts : List Nat) : Nat := (ts.filterMap (secIx i.secs)).foldl min 0xFF

def entriesOf (w : Weave) : List (List W32) := w.templates.flatMap (·.entries)
def hasKind (w : Weave) (k : Nat) : Bool := (entriesOf w).any fun e => eKind e == k

/-- Present sections whose own body, tables or records break R99. -/
def badBodies (i : Img) (s : State) : List Nat :=
  let t (k : Nat) (b : Bool) : List Nat := if hasSec i.secs k && b then [k] else []
  (t stBeatPlan (beatPlanBad i s) ++ t stTemplates (templatesBad i s) ++ t stPlacement (placementBad i s) ++
    t stPrefetch (prefetchBad i s)).filterMap (secIx i.secs)

/-- The section that breaks R92, R94 or R99, the lowest of the present ones that break a rule (R477); none when none does.
A SECTION_COUNT outside 1 to 64 is tied to no section: 0xFF (log 89). -/
def sectionFault (i : Img) (s : State) : Option Nat :=
  let l := i.secs
  let bad := badR92 i s ++ badTypes l ++ badBodies i s
  if l.length < 1 || l.length > 64 then some 0xFF
  else if !bad.isEmpty then some (bad.foldl min 0xFF)
  else if required.any fun t => !hasSec l t then some 0xFF
  else
    let w := parseWeave i s
    if !hasSec l stPlacement && (hasKind w kTensor || hasKind w kReef || hasKind w kCard) then some 0xFF
    else if hasKind w kReef && w.kv.isNone then some (lowest i [stTemplates, stPlacement])
    else none

/-! ### Codes BEAT, FORMAT, SCALE, PATCH, LAGOON, BUDGET, UNSERVED -/

/-- Phases cover beats `at` to `len` without gap or overlap (R104). -/
def phasesCover : Nat → Nat → List Phase → Bool
  | pos, len, [] => pos == len
  | pos, len, p :: rest => p.firstBeat == pos && p.beats ≥ 1 && phasesCover (pos + p.beats) len rest

/-- Whether the step shapes break R104 or R105, and which sections are involved. DEDUCED: a shape of 0 beats breaks R104, which
gives L its range as R95 does, and so ends the load with BEAT (log 127). -/
def shapesFault (w : Weave) : List Nat :=
  let top := w.shapes.getLast?
  let bad (x : Shape) : Bool := x.len == 0 || !phasesCover 0 x.len x.phases || match top with
    | some t => t.maxRows < x.maxRows || t.maxPtok < x.maxPtok
    | none => true
  let idx : Bool := w.shapes.any fun x => x.phases.any fun p => p.template ≥ w.templates.length
  (if w.shapes.any bad then [stBeatPlan] else []) ++ (if idx then [stBeatPlan, stTemplates] else [])

/-- A field with bits of word w above 0 that R108, R157 or another layout reserves. -/
def rsvSet (e : List W32) (l : List (Nat × Nat × Nat)) : Bool := l.any fun r => ef e r.1 r.2.1 r.2.2 != 0

def fpPosFinite (x : W32) : Bool := fpLt 0 x && fpIsFinite x

/-- Whether a REEF entry breaks a field rule of R157 or R158. -/
def reefBad (e : List W32) : Bool :=
  let f := rFmt e
  let d := rDim e
  let bwd : Bool := rOp e == 1
  rOp e > 1 || !(f == 2 || f == 5 || f == 8) || d == 0 || rRope e == 3 || rRotPairs e > d / 2 ||
  (rRope e != 0 && rRotPairs e == 0) || mPlan e < 1 || mPlan e > 512 || mLive e > mPlan e || (bwd && rAppend e) ||
  (rRope e == 1 && !(fpLt 0x3F800000 (rRopeBase e) && fpIsFinite (rRopeBase e))) || !fpPosNormal (rRopeScale e) ||
  rsvSet e [(2, 8, 8), (3, 1, 0), (8, 5, 0), (9, 5, 0), (14, 5, 0), (12, 7, 0)] ||
  (!bwd && rsvSet e [(13, 19, 0), (15, 31, 0)])

/-- Whether a REEF entry disagrees with the KV descriptor (R189). -/
def reefDescBad (e : List W32) (k : KvDesc) : Bool :=
  rFmt e != k.fmt || rDim e != k.headDim || rKvHeads e != k.heads || rLayer e ≥ k.layers ||
  (k.window != 0 && (rWindow e == 0 || rWindow e > k.window || rSink e < k.sink))

/-- Whether a VECTOR entry breaks R66 with code FORMAT, its PROG apart. -/
def vectorBad (e : List W32) : Bool :=
  eSpindle e > 287 || mPlan e < 1 || mPlan e > 512 || (fmtOfCode (vOutFmt e)).isNone ||
  (vLayerOut e && !(fpLt 0 (eNormLo e) && fpLt (eNormLo e) (eNormHi e))) ||
  (vSoftmax e && !(fpIsFinite (vSmaxTol e) && !fpLt (vSmaxTol e) 0))

/-- Whether a TENSOR entry names a reserved format, or FP32 for an array operand (R20, R54), or plans a tile that R55 or
R109 does not allow (log 98). -/
def tensorBad (e : List W32) : Bool :=
  let array (c : Nat) : Bool := match fmtOfCode c with
    | none => false
    | some f => f != .fp32
  !array (tActFmt e) || !array (tWgtFmt e) || (fmtOfCode (tOutFmt e)).isNone || tPlies e == 3 ||
  eSpindle e > 287 || mPlan e < 1 || mPlan e > 512 || mPlan e * (16 * tKBlocks e) > 65536

/-- Whether a SAMPLE entry breaks a field rule of R230. -/
def sampleBad (e : List W32) : Bool :=
  sRowsPlan e < 1 || sRowsPlan e > 512 || sRowsLive e > sRowsPlan e || sVocab e < 2 ||
  ef e 5 19 0 < (sVocab e * 4 + 4095) / 4096 ||
  rsvSet e [(1, 11, 8), (2, 31, 18), (5, 31, 20), (8, 5, 0), (9, 5, 0), (10, 31, 0), (11, 31, 0), (12, 31, 0), (13, 31, 0),
    (14, 31, 0), (15, 31, 0)]

/-- Whether a CARD entry breaks a field rule of R253, the map's own bounds apart. -/
def cardBad (e : List W32) : Bool :=
  cOp e > 3 || cGate e == 3 || !(cPayFmt e == 5 || cPayFmt e == 8) || cRowsPlan e < 1 || cRowsPlan e > 512 ||
  cRowsLive e > cRowsPlan e || cHiddenBlk e == 0 || cExpRows e == 0 || !fpPosFinite (cGateScale e) ||
  rsvSet e [(1, 26, 24), (1, 11, 8), (13, 26, 0), (14, 31, 0), (15, 31, 0)]

/-- Whether a SYNC entry breaks a field rule of R320, the barrier count apart. -/
def syncBad (e : List W32) : Bool :=
  yOp e > 2 || yPart e > 295 || rsvSet e ((1, 10, 8) :: (List.range 14).map fun k => (k + 2, 31, 0))

/-- Whether a FERRY entry breaks R334 or R335. -/
def ferryBadEntry (e : List W32) : Bool := !descOk false { words := e, src := .driver }

/-- FORMAT faults of one entry: the section types involved. -/
def formatFault (i : Img) (w : Weave) (e : List W32) : List Nat :=
  let k := eKind e
  let t (b : Bool) (l : List Nat) : List Nat := if b then l else []
  if k = kTensor then
    t (tensorBad e) [stTemplates] ++ t (tAdapter e > w.adapters.length) [stTemplates, stPlacement]
  else if k = kVector then
    t (vectorBad e) [stTemplates] ++
      t (vProg e ≥ Config.progCount (secOf i.secs stTileProg).digest) [stTemplates, stTileProg]
  else if k = kReef then
    t (reefBad e) [stTemplates] ++ (match w.kv with
      | some d => t (reefDescBad e d) [stTemplates, stPlacement]
      | none => [])
  else if k = kFerry then t (ferryBadEntry e) [stTemplates]
  else if k = kCard then
    t (cardBad e) [stTemplates] ++
      t (cMap e ≥ mapCount w.maps || cTopk e > (xmap w.maps (cMap e)).experts ||
         ((entriesOf w).any fun x => eKind x == kCard && cMapWreg x != cMapWreg e)) [stTemplates, stPlacement]
  else if k = kSync then
    t (syncBad e) [stTemplates] ++ t (yBarrier e ≥ w.bars.length) [stBeatPlan, stTemplates]
  else if k = kSample then
    t (sampleBad e) [stTemplates] ++ t ((entriesOf w).any fun x => eKind x == kSample &&
      (x.getD 6 0 != e.getD 6 0 || x.getD 7 0 != e.getD 7 0)) [stTemplates]
  else t (k > 7) [stTemplates]

/-- Whether an adapter table entry breaks a field rule of R62. -/
def adapterBad (w : Weave) (a : Adapter) : Bool :=
  a.rank < 8 || a.rank > 256 || a.rank % 8 != 0 || a.aOff % 4096 != 0 || a.bOff % 4096 != 0 || a.rsv != 0 ||
  !fpIsFinite a.alpha || (w.wregs.getD a.wreg { kind := 7, hint := 0, size := 0 }).kind != kAdapter

def kvDescBad (k : KvDesc) : Bool := !(k.fmt == 2 || k.fmt == 5 || k.fmt == 8) || k.headDim == 0 || k.layers == 0

def formatFaults (i : Img) (w : Weave) : List Nat :=
  (entriesOf w).flatMap (formatFault i w) ++
  (if w.places.any (fun p => (fmtOfCode p.fmt).isNone || p.fmt == 9) || w.adapters.any (adapterBad w) then [stPlacement]
    else []) ++
  (match w.kv with
   | some k => if kvDescBad k then [stPlacement] else []
   | none => [])

def scaleFaults (w : Weave) : List Nat :=
  let bad (e : List W32) : Bool :=
    if eKind e = kTensor then !fpPosNormal (tActScale e)
    else if eKind e = kReef then !fpPosNormal (rKScale e) || !fpPosNormal (rVScale e) else false
  (if (entriesOf w).any bad then [stTemplates] else []) ++
  (if w.places.any fun p => !fpPosNormal p.scale then [stPlacement] else [])

def patchFaults (w : Weave) : List Nat :=
  if w.templates.any fun t => t.patches.any fun p => patchBad p t.entries then [stTemplates] else []

def lagoonBytes : Nat := 0x200000

/-- Bytes of a query block (R159), of the output area (R168) and of a gradient block (R176) of a REEF entry. -/
def qBlockBytes (e : List W32) : Nat := mPlan e * (16 + rQh e * rDim e * 4)
def outAreaBytes (e : List W32) : Nat :=
  64 + ((List.range 8).filter fun a => (rMask e).testBit a).length * mPlan e * rQh e * (16 + 4 * rDim e)
def gradBlockBytes (e : List W32) : Nat := mPlan e * (16 + rQh e * (rDim e + 2) * 4)
/-- LAGOON faults of one entry (R66, R158, R230). -/
def lagoonFault (e : List W32) : Bool :=
  let k := eKind e
  if k = kVector then
    vInEnd e < vInSrc e || vInEnd e > lagoonBytes || vOutDst e + mPlan e * vRowElems e * 4 > lagoonBytes
  else if k = kReef then
    rQOff e + qBlockBytes e > lagoonBytes || rOutOff e + outAreaBytes e > lagoonBytes ||
    (rRope e == 2 && rRopeTab e + rRotPairs e * 4 > lagoonBytes) ||
    (rOp e == 1 && (rSrcOff e + gradBlockBytes e > lagoonBytes || mPlan e * rQh e * rDim e * 4 > 4194304))
  else if k = kSample then
    sInOff e + 4 * sRowsPlan e > lagoonBytes || sOutOff e + 4 * sRowsPlan e > lagoonBytes
  else false

/-- Entries of a phase. -/
def phaseEntries (w : Weave) (p : Phase) : List (List W32) := (w.templates.getD p.template { entries := [], patches := [] }).entries

/-- Whether A or B of a tile's adapter runs past the adapter region of the phase (R62). -/
def adapterPast (d : BitVec 384) (w : Weave) (p : Phase) (e : List W32) : Bool :=
  let last := Config.adapterEnd d p.config (eSpindle e)
  eKind e == kTensor && tAdapter e != 0 && match w.adapters[tAdapter e - 1]? with
    | none => false
    | some a => a.aLagoon + 16 * tKBlocks e * a.rank * 2 > last || a.bLagoon + a.rank * 128 * 2 > last

def lagoonFaults (i : Img) (w : Weave) : List Nat :=
  (if w.shapes.any fun x => x.phases.any fun p =>
      (phaseEntries w p).any (adapterPast (secOf i.secs stPhaseCfg).digest w p) then
    [stPhaseCfg, stBeatPlan, stTemplates, stPlacement] else []) ++
  (if (entriesOf w).any lagoonFault then [stTemplates] else []) ++
  (if Config.lagoonRegionsOk (secOf i.secs stPhaseCfg).digest (secOf i.secs stBeatPlan).digest
      (secOf i.secs stTemplates).digest then [] else [stPhaseCfg, stBeatPlan, stTemplates])

/-- Tile slots of a shape (R45): its TENSOR entries. -/
def tileSlots (w : Weave) (x : Shape) : Nat :=
  x.phases.foldl (fun n p => n + ((phaseEntries w p).filter fun e => eKind e == kTensor).length) 0

/-- Spindles that a phase uses (R106). DEDUCED: those of its TENSOR and VECTOR entries (log 90). -/
def phaseUses (w : Weave) (p : Phase) : List Nat :=
  sortedSet 512 (((phaseEntries w p).filter fun e => eKind e == kTensor || eKind e == kVector).map eSpindle)

/-- B of a shape (R45). -/
def shapeBudget (w : Weave) (x : Shape) : Nat := tileSlots w x * w.frac / 256

def budgetFaults (w : Weave) : List Nat :=
  let bad (x : Shape) : Bool :=
    x.phases.foldl (fun n p => n + p.reserve * (phaseUses w p).length) 0 < shapeBudget w x
  if w.shapes.any bad then [stBeatPlan, stTemplates, stBudget] else []

def unservedFaults (i : Img) (w : Weave) (s : State) : List Nat :=
  let un (l : List Nat) : Bool := l.any fun n => unservedNum n s
  (if un ((entriesOf w).flatMap entrySpindles) then [stTemplates] else []) ++
  (if un (Config.phaseSpindles (secOf i.secs stPhaseCfg).digest) then [stPhaseCfg] else []) ++
  (if un (Config.progSpindles (secOf i.secs stTileProg).digest) then [stTileProg] else [])

/-! ### Code CONTEXT (R308, R348) -/

/-- Bytes that spill region k must hold (R348). -/
def spillNeed (count n k : Nat) : Nat := 65536 + (count - k + n - 1) / n * (2064 * 1024)

/-- The spill regions of context c, or none when its CTX_SPILL entries break R348 for a set of `count` spindles. -/
def spillRegions (c count : Nat) (s : State) : Option (List Nat) :=
  let n := ((List.range 8).takeWhile fun k => bit (CTX_SPILL_VALID c k) s).length
  let rs := (List.range n).map fun k => fld (CTX_SPILL_REGION c k) s
  let late := (List.range 8).any fun k => k ≥ n && bit (CTX_SPILL_VALID c k) s
  let ok := (List.range n).all fun k =>
    let g := region (rs.getD k 0) s
    g.valid && g.kind == kSpill && g.owner == c && g.size ≥ spillNeed count n k
  if n = 0 || late || !ok || rs.eraseDups.length != n then none else some rs

/-! ### The checks in order (R100) -/

def okCode : Nat × Nat := (0, 0)

/-- The result of the checks on the image at b of `len` bytes for context c: code and section (R100, R477). -/
def loadResult (b len c : Nat) (inUse : Bool) (s : State) : Nat × Nat :=
  let h (o n : Nat) : Nat := rdNat (b + o) n s
  let i := imgAt b s
  let n := secCount b s
  let msg := digestRange b (0x100 + 64 * n) s
  let slot := h 0x28 4
  let pick (code : Nat) (ts : List Nat) (next : Nat × Nat) : Nat × Nat := if ts.isEmpty then next else (code, lowest i ts)
  if h 0 4 != 0x56574B51 || h 8 4 != 0x100 then (1, 0xFF)
  else if h 4 2 != 1 || h 0x0E 2 > 1 || h 0x20 1 > 7 || h 0x2C 4 != 0 || (rdBytes (b + 0x68) 152 s).any (· != 0) then (2, 0xFF)
  else if h 0x10 8 != len || h 0x10 8 > 2 ^ 30 then (3, 0xFF)
  else if slot < 1 || slot > 15 || (find? s.sec.slots slot).isNone ||
      !Config.ecdsaOk (lookup s.sec.slots [] slot) msg (rdBytes (b + 0x100 + 64 * n) 96 s) then (4, 0xFF)
  else if !(h 0x20 1).testBit s.fuse.code.toNat || s.fuse.stepMajor.toNat * 16 + s.fuse.stepMinor.toNat < h 0x21 1 ||
      h 0x24 2 > numSpindles s then (5, 0xFF)
  else if lockState s != lkLocked || stage s != stReady then (6, 0xFF)
  else if inUse || (spillRegions c (parseWeave i s).set.length s).isNone || (bit GLD_CTRL_CAUSEWAY s && h 0x0E 2 % 2 == 0) then
    (7, 0xFF)
  else if h 0x22 2 != fld BT_BEAT_LEN_LEN_US s || h 0x26 2 < fld BT_EDGE_WIN_WIN_NS s + 4000 then (8, 0xFF)
  else match sectionFault i s with
    | some x => (9, x)
    | none =>
      match (List.range n).find? fun k => match i.secs[k]? with
          | some x => digestRange (b + x.off) x.len s != x.digest
          | none => false with
      | some k => (10, k)
      | none =>
        let w := parseWeave i s
        pick 8 (shapesFault w) (pick 11 (formatFaults i w) (pick 12 (scaleFaults w) (pick 13 (patchFaults w)
          (pick 14 (lagoonFaults i w) (pick 15 (budgetFaults w) (pick 16 (unservedFaults i w s) okCode))))))

/-! ### Start and end of a load (R101, R347, R412, R480) -/

/-- A write of WV_LOAD_CTRL. -/
def loadStart (v : W64) (s : State) : State :=
  if wbit v 0 && bit WV_LOAD_STATUS_BUSY s then s
  else
    let s := store WV_LOAD_CTRL v s
    if !wbit v 0 then s
    else
      let c := fld WV_LOAD_CTRL_CONTEXT s
      let used := ctxExists c s
      let s := { s with load :=
        { active := true, inUse := used, waiting := bit SEC_CMD_STATUS_BUSY s, addr := fld WV_LOAD_ADDR_ADDR s * 4096
          len := (rd WV_LOAD_LEN s).toNat, ctx := c } }
      let s := setFld WV_LOAD_STATUS_BUSY 1 s
      if used then s else setState c cxLoading s

/-- An accepted image creates the context (R100, R124, R133, R348, R351, R363). -/
def createCtx (c : Nat) (w : Weave) (s : State) : State :=
  let rs := (spillRegions c w.set.length s).getD []
  let s := rs.foldl (fun s r => bumpFld (MEM_RGN_CFG_BINDS r) 1 s) s
  let s := setCtx c { weave := w, spills := rs, fbEn := bit GAU_CTRL_FB_EN s
                      thr0 := (rd GAU_THR_DEFAULT s).setWidth 32 } s
  let s := zeroRegs ((List.range 7).map (CTX_ACC c)) (wr (WV_ID c) w.id (wr (WV_STEP c) 0 s))
  let s := (List.range 9).foldl (fun s j =>
    wr (CTX_SET c j) (BitVec.ofNat 64 ((w.set.filter fun n => n / 32 = j).foldl (fun t n => t + 2 ^ (n % 32)) 0)) s) s
  let s := (List.range 15).foldl (fun s k => wr (GAU_THR_SET c (k + 1)) ((w.thr.getD k 0xFFFFFFFF).setWidth 64) s) s
  setState c cxStarting (setFld (CTX_STATE_NEVER_RAN c) 1 (setFld (GAU_BUD_CFG_FRAC c) w.frac s))

/-- The load in progress ends (R100). It works on what its START took: a write of WV_LOAD_ADDR, WV_LOAD_LEN or
WV_LOAD_CTRL.CONTEXT while BUSY is 1 does not reach it (log 98). A load that waits for a SEC command has not run its
checks yet. -/
def loadDone (s : State) : State :=
  if !s.load.active || s.load.waiting then s
  else
    let c := s.load.ctx
    let b := s.load.addr
    let r := loadResult b s.load.len c s.load.inUse s
    let s1 :=
      if s.load.inUse then s
      else if ctxState c s != cxLoading then s
      else if r.1 = 0 then createCtx c (parseWeave (imgAt b s) s) s
      else setState c cxFree s
    let s1 := if r.1 = 4 then bump64 (SEC_CNT 0) 1 s1 else s1
    setFlds [(WV_LOAD_STATUS_BUSY, 0), (WV_LOAD_STATUS_CODE, r.1), (WV_LOAD_STATUS_SECTION, r.2), (WV_LOAD_CTRL_START, 0),
             (TOP_IRQ_STATUS_WV_LOAD, 1)] { s1 with load := {} }

end Sys2Proof.Machine
end

