-- ==== Sys2Proof/Machine/Tile.lean ====
section
/-! DEFINITION. Machine/Tile.lean: the arithmetic of a tile: operands, the array's block sums, refinement plies, the
adapter pass and the output checks (R21 to R44, R54 to R64, R80, R81, R136, R137). -/

namespace Sys2Proof.Machine

/-! ### Operand blocks -/

/-- One operand block as the array sees it: exact element values, exact block scale, and the two special codes. -/
structure Blk where
  vals : List FpVal
  scale : FpVal := .fin false 1 0
  null : Bool := false
  poison : Bool := false
  deriving DecidableEq, Repr

def fpOneVal : FpVal := .fin false 1 0

/-- The block a decoder reads from element codes and a scale byte (R21, R23, R29). -/
def decodeBlk (f : Fmt) (codes : List Nat) (scale : Nat) : Blk :=
  if scale = 0 then { vals := [], null := true }
  else if scale = 0xFF || codes.any (fun c => (elemVal f c).isNone) then { vals := [], poison := true }
  else { vals := codes.map fun c => intFp ((elemVal f c).getD 0) (-9), scale := scaleFp scale }

/-- A block of BF16 halfwords: block scale 1 (R58). -/
def bf16Blk (hs : List W16) : Blk := { vals := hs.map fun h => fpVal (bf16ToFp h) }

/-- The block the quantiser writes (R30). -/
def quantised (f : Fmt) (q : QBlock) : Blk := decodeBlk f q.codes q.scale

/-! ### The array (R58, R59) -/

/-- The exact sum of the element products; an exact zero is +0. -/
def exactDot (a b : List FpVal) : FpVal :=
  match (a.zip b).foldl (fun t p => addVal t (mulVal p.1 p.2)) (.fin false 0 0) with
  | .fin n m e => if m = 0 then .fin false 0 0 else .fin n m e
  | v => v

/-- One block term: the exact sum times the two block scales, rounded once (log 17). -/
def blockTerm (a w : Blk) : W32 :=
  if a.null || w.null then 0 else roundVal (mulVal (exactDot a.vals w.vals) (mulVal a.scale w.scale))

/-- Accumulates the passes of 16 blocks in ascending order, each through the fixed pairwise tree. -/
def accumulate (a w : List Blk) : W32 :=
  ((chunks 16 a.length (a.zip w)).map fun c =>
      let ts := c.map fun p => blockTerm p.1 p.2
      treeReduce fpAdd 0 4 (ts ++ List.replicate (16 - ts.length) 0)).foldl fpAdd 0

/-- One output element: the tensor scales are applied to the accumulator, activation first. -/
def outElem (a w : List Blk) (sa sw : W32) : W32 := fpMul (fpMul (accumulate a w) sa) sw

/-- Issue cycles of a tile at a format (R55, R56, R90). -/
def issueCycles (kBlocks m : Nat) (f : Fmt) : Nat := ceilDiv (ceilDiv (16 * kBlocks) 256 * m * 8) (fmtRate f)

/-! ### Formats of a tile (R44, R48) -/

def actFmt (e : List W32) : Fmt := (fmtOfCode (tActFmt e)).getD .fp32
def wgtFmt (e : List W32) : Fmt := (fmtOfCode (tWgtFmt e)).getD .fp32
def tileFmt (e : List W32) : Fmt := compiledFmt (actFmt e) (wgtFmt e)
/-- The chain of widenings of an entry. -/
def tileChain (e : List W32) : List (Fmt × Nat) := chain (tileFmt e)
/-- The format after w widenings. -/
def fmtAfter (e : List W32) (w : Nat) : Fmt := if w = 0 then tileFmt e else ((tileChain e).getD (w - 1) (.fp32, 0)).1
/-- The format the activations are quantised at: ACT_FMT, or the repeat's. -/
def actAfter (e : List W32) (w : Nat) : Fmt := if w = 0 then actFmt e else fmtAfter e w

/-! ### The activation operand (R25, R30, R41) -/

/-- FP32 element k of row r of a row-major source at a lagoon address. -/
def srcElem (base k r j : Nat) (s : State) : W32 := rdWord (base + (r * k + j) * 4) s

/-- The 16-bit stochastic value of element index i (R25). -/
def roundU (seed : W64) (slot step fmt i : Nat) : Nat :=
  (philox seed (BitVec.ofNat 32 i) (BitVec.ofNat 32 slot) (BitVec.ofNat 32 step) (BitVec.ofNat 32 fmt)).toNat / 65536

/-- One row of the activation operand: its blocks, and the gauge counts of its quantisations. -/
def actRow (f : Fmt) (st : W32) (rnd : Option (W64 × Nat × Nat)) (kb r : Nat) (row : List W32) : List Blk × Gauge :=
  (List.range kb).foldl (fun acc b =>
    let xs := (row.drop (16 * b)).take 16
    if fmtScaled f then
      let us := rnd.map fun p => (List.range 16).map fun j => roundU p.1 p.2.1 p.2.2 (fmtCode f) (r * (16 * kb) + 16 * b + j)
      let q := quantBlock f st xs us
      (acc.1 ++ [quantised f q], gaugeAdd acc.2 q)
    else (acc.1 ++ [bf16Blk (xs.map fpToBf16)], acc.2)) ([], {})

/-- What the activation operand buffer holds of rows (R57): per row and block, the scale byte and the element codes; of an
unscaled format, 1 and the halfwords. -/
def actOperand (f : Fmt) (st : W32) (rnd : Option (W64 × Nat × Nat)) (kb : Nat) (rows : List (List W32)) :
    List (Nat × List Nat) :=
  (List.range rows.length).flatMap fun r => (List.range kb).map fun b =>
    let xs := ((rows.getD r []).drop (16 * b)).take 16
    if fmtScaled f then
      let us := rnd.map fun p => (List.range 16).map fun j => roundU p.1 p.2.1 p.2.2 (fmtCode f) (r * (16 * kb) + 16 * b + j)
      let q := quantBlock f st xs us
      (q.scale, q.codes)
    else (1, xs.map fun x => (fpToBf16 x).toNat)

/-! ### Weight shards (R34, R136, R137) -/

/-- A shard as a tile reads it: base package address, placement entry, format, and the staples that the tile's spindle holds
in its lagoon: package address and lagoon address (R139, R140; none for fresh reads). -/
structure Shard where
  base : Nat
  size : Nat
  ent : PlaceEntry
  fmt : Fmt
  stage : List (Nat × Nat) := []
  deriving DecidableEq, Repr

/-- Where a tile reads the byte at package address a: in the staged copy of its staple, or in the atoll. -/
def readAt (sh : Shard) (a : Nat) : Nat :=
  match sh.stage.find? fun p => p.1 == a / 4096 * 4096 with
  | some p => p.2 + a % 4096
  | none => a

/-- The n bytes at package address a as a tile reads them. -/
def rdShard (sh : Shard) (a n : Nat) (s : State) : List Byte := (List.range n).map fun i => rdByte (readAt sh (a + i)) s

/-- Whether a staged byte of the n bytes at a lies in a lagoon word that reads uncorrectable (R71). -/
def stageFails (sh : Shard) (a n : Nat) (s : State) : Bool :=
  !s.lagoonBad.isEmpty && (List.range n).any fun i =>
    (readAt sh (a + i) != a + i) && s.lagoonBad.contains (readAt sh (a + i) / 8)

def upStaple (n : Nat) : Nat := (n + 4095) / 4096 * 4096

/-- The shard that a weave's placement entry names, in the region bound to its weave region. -/
def shardOf (c : Nat) (pe : PlaceEntry) (s : State) : Option Shard :=
  match find? (ctx c s).bound pe.wreg with
  | none => none
  | some r => some { base := (region r s).base, size := (region r s).size, ent := pe, fmt := (fmtOfCode pe.fmt).getD .fp32 }

/-- The element region and scale region of a ply of `bytes` bytes per block: offsets and lengths. -/
def plyRanges (off blocks bytes : Nat) (scaled : Bool) : List (Nat × Nat) :=
  (off, blocks * bytes) :: (if scaled then [(off + upStaple (blocks * bytes), blocks)] else [])

/-- Bytes of element bits of a block of the base ply. -/
def baseBytes (f : Fmt) : Nat := if fmtScaled f then blockBytes f else 32

/-- Every region of a shard, of its base ply and the first `plies` refinement plies. -/
def shardRanges (sh : Shard) (plies : Nat) : List (Nat × Nat) :=
  plyRanges sh.ent.base sh.ent.blocks (baseBytes sh.fmt) (fmtScaled sh.fmt) ++
  (match sh.ent.ply1 with | some o => if plies ≥ 1 then plyRanges o sh.ent.blocks 4 true else [] | none => []) ++
  (match sh.ent.ply2 with | some o => if plies ≥ 2 then plyRanges o sh.ent.blocks 4 true else [] | none => [])

/-- Whether a shard stays in its bound region (R137). -/
def shardFits (sh : Shard) : Bool := (shardRanges sh 2).all fun r => r.1 + r.2 ≤ sh.size

/-- Refinement plies a shard stores. -/
def storedPlies (sh : Shard) : Nat := if sh.ent.ply1.isNone then 0 else if sh.ent.ply2.isNone then 1 else 2

/-- The plies a tile reads after w widenings (R39). -/
def tilePlies (e : List W32) (sh : Shard) (w : Nat) : Nat :=
  if w = 0 then 0 else pliesUsed sh.fmt (fmtAfter e w) (min (tPlies e) (storedPlies sh))

/-- Residuals and scale of block b of a refinement ply. -/
def plyBlk (sh : Shard) (off b : Nat) (s : State) : List Int × Nat :=
  let codes := unpackCodes 2 (rdShard sh (sh.base + off + b * 4) 4 s) 16
  (codes.map residual, bytesToNat (rdShard sh (sh.base + off + upStaple (sh.ent.blocks * 4) + b) 1 s))

/-- Address, length and KIND of SPN_STAPLE_ADDR of what a tile reads of block b of a shard with `plies` refinement plies. -/
def blockReads (sh : Shard) (plies b : Nat) : List (Nat × Nat × Nat) :=
  let n := baseBytes sh.fmt
  let ply (o : Nat) : List (Nat × Nat × Nat) :=
    [(sh.base + o + b * 4, 4, 1), (sh.base + o + upStaple (sh.ent.blocks * 4) + b, 1, 1)]
  [(sh.base + sh.ent.base + b * n, n, 0)] ++
  (if fmtScaled sh.fmt then [(sh.base + sh.ent.base + upStaple (sh.ent.blocks * n) + b, 1, 0)] else []) ++
  (if plies ≥ 1 then ply (sh.ent.ply1.getD 0) else []) ++ (if plies ≥ 2 then ply (sh.ent.ply2.getD 0) else [])

/-- Block b of a shard with its first `plies` refinement plies (R37, R38). A block that a failing lagoon word belongs to is
poisoned (R71). -/
def weightBlk (sh : Shard) (plies b : Nat) (s : State) : Blk :=
  let n := baseBytes sh.fmt
  let bs := rdShard sh (sh.base + sh.ent.base + b * n) n s
  if (blockReads sh plies b).any fun r => stageFails sh r.1 r.2.1 s then { vals := [], poison := true }
  else if !fmtScaled sh.fmt then bf16Blk ((List.range 16).map fun j => BitVec.ofNat 16 (leAt bs (2 * j) 2))
  else
    let codes := unpackCodes (fmtWidth sh.fmt) bs 16
    let sc := bytesToNat (rdShard sh (sh.base + sh.ent.base + upStaple (sh.ent.blocks * n) + b) 1 s)
    if plies = 0 then decodeBlk sh.fmt codes sc
    else
      let p1 := plyBlk sh (sh.ent.ply1.getD 0) b s
      let p2 := plyBlk sh (sh.ent.ply2.getD 0) b s
      let badBase : Bool := sc == 0xFF || (sc != 0 && codes.any fun c => (elemVal sh.fmt c).isNone)
      if badBase || p1.2 == 0xFF || (plies ≥ 2 && p2.2 == 0xFF) then { vals := [], poison := true }
      else
        let q (j : Nat) : Int := if sc = 0 then 0 else (elemVal sh.fmt (codes.getD j 0)).getD 0
        { vals := (List.range 16).map fun j => fpVal (plyWeight sc (q j) (some (p1.2, p1.1.getD j 0))
            (if plies ≥ 2 then some (p2.2, p2.1.getD j 0) else none)) }

/-- The blocks of output column n. -/
def weightCol (sh : Shard) (plies kb n : Nat) (s : State) : List Blk :=
  (List.range kb).map fun b => weightBlk sh plies (Config.weightBlock sh.ent.blocks kb b n % sh.ent.blocks) s

/-- What the weight operand buffer holds once a tile has issued (R57): the last 256 × 128 block as stored, per column and
block of the contraction the KIND (0 base ply, 1 refinement ply) and the bytes of each stored part. -/
def wgtOperand (sh : Shard) (plies kb : Nat) (s : State) : List (Nat × List Nat) :=
  (List.range 128).flatMap fun n => ((List.range kb).drop ((kb - 1) / 16 * 16)).flatMap fun b =>
    (blockReads sh plies (Config.weightBlock sh.ent.blocks kb b n % sh.ent.blocks)).map fun r =>
      (r.2.2, (rdShard sh r.1 r.2.1 s).map (·.toNat))

/-! ### A whole tile -/

/-- What a run of a tile gives: the FP32 result rows of 128 columns after the tensor scales, the accumulators before them
(R57, R58), poisoned rows, and the gauge counts. -/
structure TileRun where
  rows : List W32
  accum : List W32 := []
  poisoned : List Nat
  gauge : Gauge
  deriving DecidableEq, Repr

/-- The FP32 rows of a tile's source. -/
def srcRows (e : List W32) (src : Nat) (s : State) : List (List W32) :=
  let k := 16 * tKBlocks e
  (List.range (mLive e)).map fun r => (List.range k).map fun j => srcElem src k r j s

/-- Rows of a tile whose source bytes a failing lagoon word feeds (R71, R75). -/
def badSrcRows (e : List W32) (src : Nat) (s : State) : List Nat :=
  let k := 16 * tKBlocks e
  (List.range (mLive e)).filter fun r => lagoonFails (src + r * k * 4) (k * 4) s

/-- Runs a tile after w widenings on given source rows. `bad`: every row is poisoned. -/
def runTile (e : List W32) (sh : Shard) (w : Nat) (seed : W64) (step : Nat) (rows : List (List W32)) (badRows : List Nat)
    (bad : Bool) (s : State) : TileRun :=
  let kb := tKBlocks e
  let f := actAfter e w
  let rnd := if tRound e then some (seed, eSlot e, step) else none
  let acts := (List.range rows.length).map fun r => actRow f (tActScale e) rnd kb r (rows.getD r [])
  let cols := (List.range 128).map fun n => weightCol sh (tilePlies e sh w) kb n s
  let wBad : Bool := bad || cols.any fun c => c.any (·.poison)
  let pois := (List.range rows.length).filter fun r =>
    wBad || badRows.contains r || ((acts.getD r ([], {})).1.any (·.poison))
  { rows := (List.range rows.length).flatMap fun r =>
      if pois.contains r then List.replicate 128 fpQnanStd
      else cols.map fun c => outElem (acts.getD r ([], {})).1 c (tActScale e) sh.ent.scale
    accum := (List.range rows.length).flatMap fun r => cols.map fun c => accumulate (acts.getD r ([], {})).1 c
    poisoned := pois
    gauge := acts.foldl (fun g a => let h := a.2
      { elements := g.elements + h.elements, nonzero := g.nonzero + h.nonzero, sat := g.sat + h.sat,
        zero := g.zero + h.zero, nulls := g.nulls + h.nulls, poisons := g.poisons + h.poisons }) {} }

/-! ### The adapter pass (R60) -/

/-- A row times a BF16 matrix of `cols` columns read by `m`. -/
def bf16Mul (row : List W32) (cols : Nat) (m : Nat → Nat → W16) : List W32 :=
  let k := row.length
  let kb := (k + 15) / 16
  let a := (List.range kb).map fun b => bf16Blk (((row.drop (16 * b)).take 16).map fpToBf16)
  (List.range cols).map fun n =>
    accumulate a ((List.range kb).map fun b =>
      bf16Blk ((List.range (min 16 (k - 16 * b))).map fun j => m (16 * b + j) n))

/-- The result rows with the adapter's contribution added. `aAt` and `bAt` are the addresses of A and B. -/
def adapterRows (rank : Nat) (alpha : W32) (aAt bAt : Nat) (src : List (List W32)) (rows : List W32) (s : State) : List W32 :=
  let half (at_ i : Nat) : W16 := BitVec.ofNat 16 (rdNat (at_ + 2 * i) 2 s)
  (List.range src.length).flatMap fun r =>
    let u := bf16Mul (src.getD r []) rank fun k n => half aAt (k * rank + n)
    let v := bf16Mul u 128 fun k n => half bAt (k * 128 + n)
    (List.range 128).map fun n => fpAdd (rows.getD (r * 128 + n) 0) (fpMul alpha (v.getD n 0))

/-! ### Output checks (R80, R81) -/

/-- |x| ≥ 2^e, exactly. -/
def magAtLeast (x : W32) (e : Int) : Bool :=
  match fpVal x with
  | .nan => false
  | .inf _ => true
  | .fin _ m k => m != 0 && decide ((m : Int) * 2 ^ (k + 400).toNat ≥ 2 ^ (e + 400).toNat)

/-- Which checks flag a result: NaN/Inf, magnitude, row norm, softmax sum. -/
structure Checks where
  nan : Bool := false
  mag : Bool := false
  norm : Bool := false
  smax : Bool := false
  deriving DecidableEq, Repr

def flagged (k : Checks) : Bool := k.nan || k.mag || k.norm || k.smax

/-- Row-norm band (R80). DESIGN CHOICE: lo² and hi² are each rounded to FP32, and a NaN sum lies outside no band (log 125). -/
def normBad (lo hi : W32) (row : List W32) : Bool :=
  let q := sumSquares row
  fpLt q (fpMul lo lo) || fpLt (fpMul hi hi) q

/-- Softmax sum band; a row of zeros is the row of a −Inf maximum (R81). -/
def smaxBad (tol : W32) (row : List W32) : Bool :=
  !row.all (fun x => x == 0) && fpLt (if tol = 0 then 0x3A800000 else tol) (fpAbs (fpSub (reduce512 fpAdd 0 row) 0x3F800000))

/-- Rows of a flat result. -/
def rowsOf (n : Nat) (l : List W32) : List (List W32) := chunks n l.length l

def tileChecks (e : List W32) (rows : List W32) (poisoned : List Nat) : Checks :=
  { nan := !poisoned.isEmpty || rows.any fun x => !fpIsFinite x
    mag := tMagExp e != 127 && rows.any fun x => magAtLeast x (tMagExp e)
    norm := tLayerOut e && (rowsOf 128 rows).any fun r => normBad (eNormLo e) (eNormHi e) r }

def vectorChecks (e : List W32) (rows : List W32) (poisoned : List Nat) : Checks :=
  let l := rowsOf (vRowElems e) rows
  { nan := !poisoned.isEmpty || rows.any fun x => !fpIsFinite x
    norm := vLayerOut e && l.any fun r => normBad (eNormLo e) (eNormHi e) r
    smax := vSoftmax e && l.any fun r => smaxBad (vSmaxTol e) r }

/-- The bytes of a result in an output format (R27, R65; log 14). -/
def outBytes (fmt : Nat) (rows : List W32) : List Byte :=
  if fmt = 9 then rows.flatMap fun x => natToBytes 4 x.toNat
  else if fmt = 8 then rows.flatMap fun x => natToBytes 2 (fpToBf16 x).toNat
  else
    let n := rows.length * fmtWidth ((fmtOfCode fmt).getD .fp32) / 8 + rows.length / 16
    (List.range n).map fun i => Config.packedOutput fmt rows i

end Sys2Proof.Machine
end

