-- ==== Sys2Proof/Machine/Attn.lean ====
section
/-! DEFINITION. Machine/Attn.lean: the arithmetic of the reef engines: rotary encoding, scores, running statistics, merges
of partial records and backward recompute (R162 to R176). -/

namespace Sys2Proof.Machine

def fpNegInf : W32 := 0xFF800000

/-! ### Rotary encoding (R164) -/

/-- The frequency of pair i for ROPE 0b01. -/
def ropeFreq (base scale : W32) (pairs i : Nat) : W32 :=
  let e := fpLog2 base
  let x := fpDiv (fpFlip (fpMul (fpOfInt (2 * i)) e)) (fpOfInt (2 * pairs))
  fpDiv (fpExp2 x) scale

/-- Elements of pair i. -/
def pairAt (half : Bool) (pairs i : Nat) : Nat × Nat := if half then (i, i + pairs) else (2 * i, 2 * i + 1)

/-- Rotates a vector at position j with frequencies f; `back` rotates with −sin. -/
def rotate (half back : Bool) (f : List W32) (j : Nat) (v : List W32) : List W32 :=
  (List.range f.length).foldl (fun v i =>
    let (x, y) := pairAt half f.length i
    let t := fpMul (fpOfInt j) (f.getD i 0)
    let c := fpCos t
    let s := if back then fpFlip (fpSin t) else fpSin t
    let a := v.getD x 0
    let b := v.getD y 0
    setAt (setAt v x (fpFma a c (fpFlip (fpMul b s)))) y (fpFma a s (fpMul b c))) v

/-! ### Scores and statistics (R165, R166) -/

/-- Levels of the pairwise tree over n elements, for n a power of two up to 256. -/
def treeLevels (n : Nat) : Nat := n.log2

/-- The dot product of R165: each product rounded, then the pairwise tree. -/
def dotTree (a b : List W32) : W32 :=
  treeReduce fpAdd 0 (treeLevels a.length) ((a.zip b).map fun p => fpMul p.1 p.2)

def score (scale : W32) (q k : List W32) : W32 := fpMul (dotTree q k) scale

/-- One key token of a KV head: position, rotated key, value. -/
structure KeyTok where
  pos : Nat
  k : List W32
  v : List W32
  deriving DecidableEq, Repr

/-- Running statistics of a row and query head. -/
structure Soft where
  m : W32
  l : W32
  acc : List W32
  keys : Nat
  deriving DecidableEq, Repr

def softStart (d : Nat) : Soft := { m := fpNegInf, l := 0, acc := List.replicate d 0, keys := 0 }

/-- The tree over the 64 slots of a chunk. -/
def tree64 (l : List W32) : W32 := treeReduce fpAdd 0 6 l

/-- Processes chunk n of 64 positions (R166). -/
def softChunk (scale : W32) (q : List W32) (toks : List KeyTok) (n : Nat) (st : Soft) : Soft :=
  let at_ (slot : Nat) : Option KeyTok := toks.find? fun t => t.pos == 64 * n + slot
  let slots := (List.range 64).map at_
  let s := slots.map fun t => match t with | some t => score scale q t.k | none => fpNegInf
  let mc := treeReduce fpMax fpNegInf 6 s
  if mc = fpNegInf then st
  else
    let mn := fpMax st.m mc
    let a := fpExp2 (fpSub st.m mn)
    let p := s.map fun x => fpExp2 (fpSub x mn)
    { m := mn
      l := fpAdd (fpMul st.l a) (tree64 p)
      acc := (List.range st.acc.length).map fun e =>
        let vs := slots.map fun t => match t with | some t => t.v.getD e 0 | none => 0
        fpAdd (fpMul (st.acc.getD e 0) a) (tree64 ((p.zip vs).map fun x => fpMul x.1 x.2))
      keys := st.keys + (slots.filter (·.isSome)).length }

/-- Chunks that hold a visible key, in ascending order. -/
def chunksOf (toks : List KeyTok) : List Nat :=
  let top := toks.foldl (fun m t => max m (t.pos / 64)) 0
  (List.range (top + 1)).filter fun n => toks.any fun t => t.pos / 64 == n

/-- Attention of one row and query head over its visible keys. -/
def attend (d : Nat) (scale : W32) (q : List W32) (toks : List KeyTok) : Soft :=
  (chunksOf toks).foldl (fun st n => softChunk scale q toks n st) (softStart d)

/-! ### Records (R161, R168, R169) -/

/-- One record of the output area. -/
structure Rec where
  m : W32
  l : W32
  keys : Nat
  shard : Nat
  atoll : Nat
  nonfinite : Bool := false
  poison : Bool := false
  empty : Bool := false
  vals : List W32
  deriving DecidableEq, Repr

def emptyRec (d shard atoll : Nat) : Rec :=
  { m := fpNegInf, l := 0, keys := 0, shard := shard, atoll := atoll, empty := true, vals := List.replicate d 0 }

/-- A record with quiet NaN in M, L and every value word; EMPTY says that no key is visible (R161, R168). -/
def nanRec (d shard atoll keys : Nat) (nonfinite poison : Bool) : Rec :=
  { m := fpQnanStd, l := fpQnanStd, keys := keys, shard := shard, atoll := atoll, nonfinite := nonfinite, poison := poison
    empty := keys == 0, vals := List.replicate d fpQnanStd }

def softRec (shard atoll : Nat) (st : Soft) : Rec :=
  if st.keys = 0 then emptyRec st.acc.length shard atoll
  else { m := st.m, l := st.l, keys := st.keys, shard := shard, atoll := atoll, vals := st.acc.map fun x => fpDiv x st.l }

/-- Bytes of a record. -/
def recBytes (r : Rec) : List Byte :=
  natToBytes 4 r.m.toNat ++ natToBytes 4 r.l.toNat ++ natToBytes 4 r.keys ++
  natToBytes 4 (r.shard % 32 * 2 ^ 8 + r.atoll * 2 ^ 4 + r.nonfinite.toNat * 4 + r.poison.toNat * 2 + r.empty.toNat) ++
  r.vals.flatMap fun x => natToBytes 4 x.toNat

/-! ### Merging (R170 to R172) -/

/-- Merges records in their fixed order: one level of R170. -/
def mergeRecs (d shard : Nat) (rs : List Rec) : Rec :=
  let keys := rs.foldl (fun t r => t + r.keys) 0
  if rs.any fun r => r.nonfinite || r.poison then
    nanRec d shard 15 keys (rs.any (·.nonfinite)) (rs.any (·.poison))
  else
    let live := rs.filter fun r => !r.empty
    let mx := live.foldl (fun m r => fpMax m r.m) fpNegInf
    if mx = fpNegInf then emptyRec d shard 15
    else
      let w := live.map fun r => fpMul r.l (fpExp2 (fpSub r.m mx))
      let l := w.foldl fpAdd 0
      let c := w.map fun x => fpDiv x l
      { m := mx, l := l, keys := keys, shard := shard, atoll := 15
        vals := (List.range d).map fun e =>
          match (c.zip live).map fun p => (p.1, p.2.vals.getD e 0) with
          | [] => 0
          | x :: rest => rest.foldl (fun o y => fpFma y.1 y.2 o) (fpMul x.1 x.2) }

/-- A record as its bytes hold it (R161). -/
def recOf (d : Nat) (bs : List Byte) : Rec :=
  let word (i : Nat) : W32 := BitVec.ofNat 32 (bytesToNat ((bs.drop (4 * i)).take 4))
  let h := (word 3).toNat
  { m := word 0, l := word 1, keys := (word 2).toNat, shard := h / 2 ^ 8 % 32, atoll := h / 2 ^ 4 % 16
    nonfinite := h.testBit 2, poison := h.testBit 1, empty := h.testBit 0, vals := (List.range d).map fun i => word (4 + i) }

/-- The records of one shard in ascending atoll order, for each shard in ascending order (R170). -/
def byShard (rs : List Rec) : List (List Rec) :=
  ((List.range 32).map fun sh => (List.range 16).flatMap fun a => rs.filter fun r => r.shard == sh && r.atoll == a).filter
    fun l => !l.isEmpty

/-- The two levels of R170: the records of each shard, then the shard results. -/
def mergeTwo (d shard : Nat) (rs : List Rec) : Rec :=
  mergeRecs d shard ((byShard rs).map fun l => mergeRecs d ((l.head?.map (·.shard)).getD 0) l)

/-- Sums vectors from the first on, by plain additions (R176). -/
def sumVecs (d : Nat) : List (List W32) → List W32
  | [] => List.replicate d 0
  | v :: rest => rest.foldl (fun a w => (List.range d).map fun i => fpAdd (a.getD i 0) (w.getD i 0)) v

/-- The sum of partial query gradients in the order of R170 (R176). -/
def sumGrads (d shard : Nat) (rs : List Rec) : Rec :=
  { m := 0, l := 0, keys := rs.foldl (fun t r => t + r.keys) 0, shard := shard, atoll := 15
    nonfinite := rs.any (·.nonfinite), poison := rs.any (·.poison), empty := rs.all (·.empty)
    vals := sumVecs d ((byShard rs).map fun l => sumVecs d (l.map (·.vals))) }

/-- The row's log-sum-exp in base-2 units (R172). -/
def lseOf (r : Rec) : W32 := if r.empty then fpNegInf else fpAdd r.m (fpLog2 r.l)

/-! ### Backward recompute (R175, R176) -/

/-- One query head of a row in a BWD entry. -/
structure BwdHead where
  q : List W32
  dO : List W32
  dd : W32
  lse : W32
  pos : Nat
  deriving DecidableEq, Repr

def fpLn2 : W32 := 0x3F317218

/-- Element-wise a + x·v. -/
def addScaled (a : List W32) (x : W32) (v : List W32) : List W32 :=
  (List.range a.length).map fun e => fpAdd (a.getD e 0) (fpMul x (v.getD e 0))

/-- p and ds of a row's head and a key. -/
def bwdTerms (scale : W32) (h : BwdHead) (t : KeyTok) : W32 × W32 :=
  let p := fpExp2 (fpSub (score scale h.q t.k) h.lse)
  let ds := fpMul (fpMul p (fpSub (dotTree h.dO t.v) h.dd)) fpLn2
  (p, ds)

/-- The contribution of chunk n to a head's query gradient: per element the tree over the 64 slots. -/
def dqChunk (d : Nat) (scale : W32) (h : BwdHead) (vis : List KeyTok) (n : Nat) : List W32 :=
  let slots := (List.range 64).map fun i => vis.find? fun t => t.pos == 64 * n + i
  let xs := slots.map fun t => match t with
    | some t => (fpMul (bwdTerms scale h t).2 scale, t.k)
    | none => (0, [])
  (List.range d).map fun e => tree64 (xs.map fun x => if x.2.isEmpty then 0 else fpMul x.1 (x.2.getD e 0))

/-- The query gradient of a head, still rotated: chunk contributions added in chunk order. -/
def dqHead (d : Nat) (scale : W32) (h : BwdHead) (vis : List KeyTok) : List W32 :=
  if h.lse = fpNegInf then List.replicate d 0
  else (chunksOf vis).foldl (fun a n =>
    let c := dqChunk d scale h vis n
    (List.range d).map fun e => fpAdd (a.getD e 0) (c.getD e 0)) (List.replicate d 0)

/-- Key and value gradients of one token over the heads that see it, in row and head order. -/
def dkvTok (d : Nat) (scale : W32) (heads : List BwdHead) (t : KeyTok) : List W32 × List W32 :=
  heads.foldl (fun a h =>
    if h.lse = fpNegInf then a
    else
      let x := bwdTerms scale h t
      (addScaled a.1 (fpMul x.2 scale) h.q, addScaled a.2 x.1 h.dO)) (List.replicate d 0, List.replicate d 0)

end Sys2Proof.Machine
end

