-- ==== Sys2Proof/Machine/Patch.lean ====
section
/-! DEFINITION. Machine/Patch.lean: the step in progress, its phases and dispatch lists, and the patch records
(R104 to R112, R263, R385, R388, R478). -/

namespace Sys2Proof.Machine

/-! ### The step in progress -/

def stepOf (c : Nat) (s : State) : Option Step := (ctx c s).step
def modStep (c : Nat) (f : Step → Step) (s : State) : State :=
  modCtx c (fun x => { x with step := x.step.map f }) s

def emptyTemplate : Template := { entries := [], patches := [] }
def shapeOf (w : Weave) (i : Nat) : Shape := w.shapes.getD i { len := 0, maxRows := 0, maxPtok := 0, phases := [] }
def templateOf (w : Weave) (p : Phase) : Template := w.templates.getD p.template emptyTemplate
/-- Phase p of the shape of c's step. -/
def phaseOf (c p : Nat) (s : State) : Option Phase :=
  match stepOf c s with
  | none => none
  | some st => (shapeOf (ctx c s).weave st.shape).phases[p]?

/-- The index of the phase that covers the schedule beat (R104). -/
def phaseNow (c : Nat) (s : State) : Option Nat :=
  match stepOf c s with
  | none => none
  | some st => (shapeOf (ctx c s).weave st.shape).phases.findIdx? fun p =>
      p.firstBeat ≤ st.beat && st.beat < p.firstBeat + p.beats

/-- The dispatch lists of a shape as compiled (R108). -/
def freshLists (w : Weave) (sh : Shape) : List (Nat × List Disp) :=
  (List.range sh.phases.length).map fun p =>
    (p, match sh.phases[p]? with
      | some ph => (templateOf w ph).entries.map fun e => { words := e }
      | none => [])

/-- Low 20 bits of the current step number of c. -/
def stepLow (c : Nat) (s : State) : Nat := (rd (WV_STEP c) s).toNat % 2 ^ 20

/-! ### Batch rows -/

/-- The skein part that holds batch row r. -/
def rowPart (l : List BatchSk) (r : Nat) : Option BatchSk := l.find? fun b => b.row ≤ r && r < b.row + b.rows

def decodeRows (l : List BatchSk) : Nat := (l.filter fun b => !b.prefill).foldl (fun t b => t + b.rows) 0
def prefillTokens (l : List BatchSk) : Nat := (l.filter (·.prefill)).foldl (fun t b => t + b.rows) 0

/-- First row of row group a (R478): the rows of the groups below it. -/
def groupFirst (l : List BatchSk) (a : Nat) (s : State) : Nat :=
  (l.filter fun b => !b.prefill && bobAtoll b.skein s < a).foldl (fun t b => t + b.rows) 0

/-- Pages a sequence holds on this package. -/
def pagesHeld (h : Nat) (s : State) : Nat := ((dir h s).ents.filter fun e => !e.2.dropped).length

/-! ### Values and transforms (R111, R263) -/

/-- The value of a record's source; `routed` gives N_l of a local expert and half (R263). -/
def patchSource (c : Nat) (st : Step) (routed : Nat → Nat → Nat) (p : W64) (s : State) : Nat :=
  match pSource p with
  | 0 => pOwnArg p
  | 1 => decodeRows st.batch
  | 2 => prefillTokens st.batch
  | 3 => ((rowPart st.batch (pOwnArg p)).map (·.base)).getD 0
  | 4 => routed (pArg p % 4096) (pArg p / 4096 % 2)
  | 5 => stepLow c s
  | 6 => st.shape
  | 7 => groupFirst st.batch (pOwnArg p) s
  | 8 => ((rowPart st.batch (pOwnArg p)).map fun b => pagesHeld (sk b.skein s).dir s).getD 0
  | _ => 0

/-- Planned rows of an entry. DESIGN CHOICE: for a kind without planned rows, the bits where the others hold them (log 127). -/
def planRows (e : List W32) : Nat := if eKind e = kSample then sRowsPlan e else mPlan e

/-- Tile index n of TRANSFORM 0x2. -/
def pTile (p : W64) : Nat := if pSource p = 4 then pArg p / 2 ^ 13 % 128 else pArg p / 1024

def patchValue (x : Nat) (e : List W32) (p : W64) : Nat :=
  match pTransform p with
  | 0 => x
  | 1 => (x + 15) / 16
  | 2 => min (x - pTile p * planRows e) (planRows e)
  | _ => if x = 0 then 1 else 0

/-- A word with a field replaced. -/
def setBits (w : W32) (lsb width x : Nat) : W32 :=
  let m : Nat := (2 ^ width - 1) <<< lsb
  (w &&& ~~~(BitVec.ofNat 32 m)) ||| BitVec.ofNat 32 ((x % 2 ^ width) <<< lsb)

/-- Writes a value into an entry (R109, R111): the entry, and whether it was saturated. A record that covers the whole of
K_BLOCKS writes 4,096 as 0; one that covers a part of it writes its part, and an entry whose K_BLOCKS field a patch left 0
by a value below 4,096 is complete at once (log 99). DESIGN CHOICE: a patch that raises M_PLAN × K above 65,536 lets the tile
run (log 126). -/
def patchWrite (p : W64) (v : Nat) (d : Disp) : Disp × Bool :=
  let inK : Bool := eKind d.words = kTensor && pWord p = 2 && pLsb p + pWidth p ≤ 12
  let kb : Bool := inK && pWidth p = 12
  let top := 2 ^ pWidth p - 1
  let put (x : Nat) : List W32 := setAt d.words (pWord p) (setBits (d.words.getD (pWord p) 0) (pLsb p) (pWidth p) x)
  if kb then ({ d with words := put (if v ≥ 4096 then 0 else v), kZero := v == 0 }, v > 4096)
  else if inK then
    let w := put (min v top)
    ({ d with words := w, kZero := ef w 2 11 0 == 0 }, v > top)
  else ({ d with words := put (min v top) }, v > top)

/-- Applies the records of one timing that `want` selects to the list of a phase: the list, and how many saturated. -/
def patchList (c : Nat) (st : Step) (routed : Nat → Nat → Nat) (timing : Nat) (want : Disp → W64 → Bool)
    (t : Template) (l : List Disp) (s : State) : List Disp × Nat :=
  (List.range t.patches.length).foldl (fun acc i =>
    match t.patches[i]? with
    | none => acc
    | some p =>
      match acc.1[pEntry p]? with
      | none => acc
      | some d =>
        if pTiming p != timing || d.patched.contains i || !want d p then acc
        else
          let r := patchWrite p (patchValue (patchSource c st routed p s) d.words p) d
          (setAt acc.1 (pEntry p) { r.1 with patched := r.1.patched ++ [i] }, acc.2 + r.2.toNat)) (l, 0)

/-- Applies the records of one timing to a phase of c's step. -/
def applyPatches (c ph timing : Nat) (routed : Nat → Nat → Nat) (want : Disp → W64 → Bool) (s : State) : State :=
  match stepOf c s, phaseOf c ph s with
  | some st, some p =>
    let r := patchList c st routed timing want (templateOf (ctx c s).weave p) (lookup st.lists [] ph) s
    bump32 WV_PATCH_SAT r.2 (modStep c (fun x => { x with lists := put x.lists [] ph r.1 }) s)
  | _, _ => s

/-- Routed tokens before a GATHER has counted them. DESIGN CHOICE: a STEP or EDGE record of source 0x04 takes 0 (log 127). -/
def noRoute (_ _ : Nat) : Nat := 0
def anyEntry (_ : Disp) (_ : W64) : Bool := true

/-- Whether every record that targets entry i of the list has been applied (R112). -/
def fullyPatched (t : Template) (i : Nat) (d : Disp) : Bool :=
  (List.range t.patches.length).all fun k =>
    match t.patches[k]? with
    | some p => pEntry p != i || d.patched.contains k
    | none => true

/-! ### Leave of heavy tensor phases (R385, R388) -/

/-- The power leave of a phase. -/
def phaseKind (c ph : Nat) (s : State) : LeaveKind :=
  .phase c (((stepOf c s).map (·.shape)).getD 0 * 256 + ph)

/-- Whether a phase is a tensor phase above the context's LIGHT_CLASS. -/
def heavyPhase (c : Nat) (p : Phase) (s : State) : Bool :=
  let w := (ctx c s).weave
  p.powerClass > w.light && (phaseEntries w p).any fun e => eKind e == kTensor

/-- Declared peak of a phase, in mW. -/
def phasePeak (c : Nat) (p : Phase) (s : State) : Nat :=
  (p.powerClass + 1) * 375 * (phaseUses (ctx c s).weave p).length

def askPhase (c ph : Nat) (s : State) : State :=
  match phaseOf c ph s with
  | none => s
  | some p => if heavyPhase c p s then settleCauseway (askLeave (phaseKind c ph s) (phasePeak c p s) s) else s

/-- The pilots apply the STEP records of a phase (R112) and ask for its leave. Phase p is due from the beat before its
first beat on. -/
def patchStep (c ph : Nat) (s : State) : State :=
  match stepOf c s, phaseOf c ph s with
  | some st, some p =>
    if p.firstBeat ≤ st.beat + 1 && (ctx c s).ran then askPhase c ph (applyPatches c ph 0 noRoute anyEntry s) else s
  | _, _ => s

/-! ### When a unit may start an entry (R97, R110, R112, R116, R388) -/

/-- The units an entry is addressed to (R97): kind of unit and number. -/
def unitsOf (e : List W32) : List (Nat × Nat) :=
  let k := eKind e
  if k = kTensor || k = kVector then [(0, eSpindle e)]
  else if k = kReef then ((List.range 8).filter fun a => (rMask e).testBit a).map fun a => (1, a)
  else if k = kFerry then [(2, ef e 1 31 26)]
  else if k = kCard then [(3, cHalf e)]
  else if k = kSync then [(if yPart e < 288 then 0 else 4, yPart e)]
  else if k = kSample then [(5, 0)]
  else []

/-- Whether two entries share a unit. -/
def shareUnit (a b : List W32) : Bool := (unitsOf a).any fun u => (unitsOf b).contains u

/-- Whether entries of a phase may start now: the context runs in this beat, the phase covers the schedule beat, no vote
is outstanding, and a heavy phase holds its leave. -/
def phaseOpen (c ph : Nat) (s : State) : Bool :=
  (ctx c s).ran && !s.voteDue && phaseNow c s == some ph &&
  match phaseOf c ph s with
  | some p => !heavyPhase c p s || holdsLeave (phaseKind c ph s) s
  | none => false

/-- An entry that does nothing (R110). -/
def idle (d : Disp) : Bool := eIdle d.words || d.kZero

/-- An earlier entry that does not hold its unit up: started, a SYNC entry complete, or one that does nothing (R97, R110,
R320). -/
def passed (t : Template) (i : Nat) (x : Disp) : Bool :=
  (x.st != .waiting && (eKind x.words != kSync || x.st == .done)) ||
  (idle x && eKind x.words != kSync && eKind x.words != kCard && fullyPatched t i x)

/-- Whether a write of c's last commit waits for an atoll that retrains: page directories and sampling areas, which REEF and
SAMPLE entries read, may not stand in memory yet (R378; log 134). -/
def commitHeld (c : Nat) (s : State) : Bool := (ctx c s).commitWait.any fun a => fld (atollFld a) s == 1

/-- An entry that its unit may start now: not started, every record applied, every earlier entry of the unit started, no
write of the last commit that it reads outstanding. -/
def ready (e : EntryRef) (kind : Nat) (s : State) : Option Disp :=
  let c := e.ctx.toNat
  let ph := e.phase.toNat
  match dispAt e s, stepOf c s, phaseOf c ph s with
  | some d, some st, some p =>
    let l := lookup st.lists [] ph
    let before : Bool := (List.range e.idx).all fun i =>
      match l[i]? with
      | some x => passed (templateOf (ctx c s).weave p) i x || !shareUnit x.words d.words
      | none => true
    if d.st == .waiting && eKind d.words == kind && phaseOpen c ph s && before &&
        fullyPatched (templateOf (ctx c s).weave p) e.idx d &&
        !((kind == kReef || kind == kSample) && commitHeld c s) then some d else none
  | _, _, _ => none

/-- Whether a transfer of prefetch record i of c waits or runs on a channel. -/
def inFlight (c i : Nat) (s : State) : Bool :=
  (chansOf c s).any fun n =>
    ((chan n s).active.map (·.src)) == some (.prefetch i) || ((chan n s).shadow.map (·.src)) == some (.prefetch i)

/-- Whether a transfer that a tile consumes, of its placement entry to its spindle, has not landed although its NEED_BEAT
has started (R139). -/
def prefetchLate (c : Nat) (e : List W32) (s : State) : Bool :=
  match stepOf c s with
  | none => false
  | some st =>
    let l := (ctx c s).weave.prefetch
    (List.range l.length).any fun i => match l[i]? with
      | none => false
      | some r => r.entry == tWgtEntry e && r.spindle == eSpindle e && r.need ≤ st.beat &&
          (if needsNext r then inFlight c i s && !st.issued.contains i
           else r.shape == st.shape && (!st.issued.contains i || inFlight c i s))

/-- Whether the lagoon of a logical spindle of c is there: no restore of it is due (R357). -/
def lagoonHere (c n : Nat) (s : State) : Bool := !(ctx c s).restoreWait.contains n

def doneEntry (e : EntryRef) (s : State) : State := modDisp e (fun d => { d with st := .done }) s

/-! ### Meanings -/

def execPatchStep (ctx : BitVec 6) (phase : BitVec 8) (s : State) : Host.Outcome State Fault Refusal :=
  run (patchStep ctx.toNat phase.toNat) s

def execNopEntry (e : EntryRef) (s : State) : Host.Outcome State Fault Refusal :=
  run (fun s => if (ready e kNop s).isSome then doneEntry e s else s) s

def execFerryEntry (e : EntryRef) (s : State) : Host.Outcome State Fault Refusal :=
  run (fun s => if (ready e kFerry s).isSome then ferryEntry e s else s) s

end Sys2Proof.Machine
end

