-- ==== Sys2Proof/Machine/Suspect.lean ====
section
/-! DEFINITION. Machine/Suspect.lean: the batch rows of an entry, suspects and their outcomes, and output locks
(R47, R367, R368, R370, R371). -/

namespace Sys2Proof.Machine

/-! ### Rows that an entry covers (R47, R367) -/

/-- Package address of a byte offset in the region bound to a weave region. -/
def inRegion (c wreg off : Nat) (s : State) : Option Nat :=
  (find? (ctx c s).bound wreg).map fun r => (region r s).base + off

/-- Local expert, half and tile index of an expert tile: the record that takes its live rows from a GATHER (R263). -/
def expertOf (t : Template) (i : Nat) : Option (Nat × Nat × Nat) :=
  (t.patches.find? fun p => pEntry p == i && pSource p == 4 && pTransform p == 2).map fun p =>
    (pArg p % 4096, pArg p / 4096 % 2, pTile p)

/-- The GATHER entry of a layer and half in c's step. -/
def gatherOf (c layer half : Nat) (s : State) : Option (List W32) :=
  match stepOf c s with
  | none => none
  | some st => ((st.lists.flatMap (·.2)).find? fun d =>
      eKind d.words == kCard && cOp d.words == 1 && cLayer d.words == layer && cHalf d.words == half).map (·.words)

/-- The rank of this package in a map. -/
def myRank (x : XMap) (s : State) : Option Nat := x.nodes.findIdx? fun n => n == myNode s

/-- Batch rows of this package that rows `lo` to `lo + n − 1` of a local expert hold (R262, R367). -/
def expertRows (c : Nat) (g : List W32) (l lo n : Nat) (s : State) : List Nat :=
  match inRegion c (cRef g 9).1 (cRef g 9).2 s, inRegion c (cRef g 7).1 (cRef g 7).2 s,
      myRank (xmap (ctx c s).maps (cMap g)) s with
  | some ix, some land, some me =>
    (List.range n).filterMap fun i =>
      let w := rdNat (ix + l * cExpRows g * 4 + (lo + i) * 4) 4 s
      if w / 2 ^ 25 = me then some (cRowBase g + rdNat (land + me * cSlotBytes g + w % 2 ^ 25 * 64) 4 s / 2 ^ 22) else none
  | _, _, _ => []

/-- First batch row field of an entry. -/
def rowBaseOf (e : List W32) : Nat :=
  if eKind e = kReef then rRowBase e else if eKind e = kSample then sRowBase e
  else if eKind e = kCard then cRowBase e else eRowBase9 e

/-- The batch rows that an entry covers. -/
def coveredRows (e : EntryRef) (d : Disp) (s : State) : List Nat :=
  let c := e.ctx.toNat
  let plain := (List.range (liveRows d.words)).map (rowBaseOf d.words + ·)
  match phaseOf c e.phase.toNat s with
  | none => plain
  | some p =>
    if eKind d.words != kTensor && eKind d.words != kVector then plain
    else
      match expertOf (templateOf (ctx c s).weave p) e.idx with
      | none => plain
      | some (l, half, n) =>
        match gatherOf c (eLayer d.words) half s with
        | some g => expertRows c g l (n * mPlan d.words) (mLive d.words) s
        | none => []

/-- Skeins of the batch that hold some of the rows. -/
def skeinsOfRows (c : Nat) (rows : List Nat) (s : State) : List Nat :=
  match stepOf c s with
  | none => []
  | some st => (rows.filterMap fun r => (rowPart st.batch r).map (·.skein)).eraseDups

/-- Marks batch rows as holding NaN or poison for the commit, with whether a KV or directory staple poisoned a record of
the row (R378, step 3b). -/
def markBad (c : Nat) (rows : List Nat) (s : State) : State :=
  modStep c (fun st => { st with badRows := st.badRows ++ rows.map fun r => (r, st.kvPoison.contains r) }) s

/-! ### Output locks (R368) -/

/-- Lagoon offset and length of an entry's result in its final form. -/
def outRange (d : Disp) : Nat × Nat :=
  if eKind d.words = kTensor then
    (tOutDst d.words, (outBytes (ef d.words 2 15 12) d.result).length)
  else (vOutDst d.words, (outBytes (vOutFmt d.words) d.result).length)

def lockOut (e : EntryRef) (d : Disp) (s : State) : State :=
  let r := outRange d
  modSpn (eSpindle d.words) (fun x => { x with locks := x.locks ++ [(e, r.1, r.2)] }) s

def unlockOut (e : EntryRef) (n : Nat) (s : State) : State :=
  modSpn n (fun x => { x with locks := x.locks.filter fun l => l.1 != e }) s

/-! ### Results -/

/-- Writes a result to an entry's destination in its output format. -/
def writeOut (d : Disp) (rows : List W32) (s : State) : State :=
  let n := eSpindle d.words
  if eKind d.words = kTensor then
    wrUnit (lagoonBase n + tOutDst d.words) (outBytes (ef d.words 2 15 12) rows) false s
  else wrUnit (lagoonBase n + vOutDst d.words) (outBytes (vOutFmt d.words) rows) false s

/-- Result columns of an entry. -/
def resultCols (d : Disp) : Nat := if eKind d.words = kTensor then 128 else vRowElems d.words

/-- Rows of the entry whose result holds a NaN. -/
def nanRows (d : Disp) (rows : List W32) : List Nat :=
  let l := rowsOf (resultCols d) rows
  (List.range l.length).filter fun r => (l.getD r []).any fpIsNan

/-- The batch rows behind rows of the entry. -/
def batchRowsOf (e : EntryRef) (d : Disp) (rows : List Nat) (s : State) : List Nat :=
  let cov := coveredRows e d s
  if cov.length = liveRows d.words then rows.map fun r => cov.getD r 0 else if rows.isEmpty then [] else cov

/-- A final result: the lock is released, rows that hold NaN are noted, and a committed tile is counted on the logical
spindle that produced it (R90). -/
def finishEntry (e : EntryRef) (rows : List W32) (counted : Bool) (s : State) : State :=
  match dispAt e s with
  | none => s
  | some d =>
    let n := eSpindle d.words
    let s := markBad e.ctx.toNat (batchRowsOf e d (nanRows d rows) s) s
    let s := if counted && eKind d.words = kTensor then bump64 (SPN_CNT_TILES n) 1 s else s
    unlockOut e n (setDisp e { d with st := .done, result := rows } s)

/-- accept(o) of R370. -/
def acceptOwn (e : EntryRef) (s : State) : State :=
  match dispAt e s with
  | some d => finishEntry e d.result true s
  | none => s

/-- accept(w) of R370: the witness's result is written to the original destination. -/
def acceptNew (e : EntryRef) (rows : List W32) (s : State) : State :=
  match dispAt e s with
  | some d => finishEntry e rows false (writeOut d rows (unlockOut e (eSpindle d.words) s))
  | none => s

/-- fail(o) of R370: every affected row becomes quiet NaN. -/
def failEntry (e : EntryRef) (s : State) : State :=
  match dispAt e s with
  | none => s
  | some d =>
    let rows := List.replicate d.result.length fpQnanStd
    let s := intErr INT_ERR_SUSPECT_FAIL e.ctx.toNat (eSlot d.words) s
    finishEntry e rows false (writeOut d rows (unlockOut e (eSpindle d.words) s))

/-- Whether the table of R367 gives the suspect's producer a strike. -/
def strikeable (x : Suspect) : Bool := !x.staple && !x.reef

/-- strike(producer of o), unless the suspect's event gives none. -/
def strikeProducer (x : Suspect) (s : State) : State := if strikeable x then strike x.producer s else s

/-! ### The buddy (R371) -/

def resultDigest (rows : List W32) : BitVec 384 := Config.sha384 (rows.flatMap fun x => natToBytes 4 x.toNat)

/-- A buddy request (R371): a header of 1 KiB with WEAVE_ID, the step number, SLOT, the patched descriptor and the widenings to
the committed format (log 70), and the FP32 source. -/
def buddyMessage (c : Nat) (d : Disp) (s : State) : List W32 :=
  let id := rd (WV_ID c) s
  let st := rd (WV_STEP c) s
  let head := [id.setWidth 32, (id >>> 32).setWidth 32, st.setWidth 32, (st >>> 32).setWidth 32, BitVec.ofNat 32 (eSlot d.words)] ++
    d.words ++ [BitVec.ofNat 32 d.widen]
  head ++ List.replicate (256 - head.length) 0 ++ (srcRows d.words (lagoonBase (eSpindle d.words) + tActSrc d.words) s).flatten

/-- The SEND in TC2 that carries it, with VALUE_A bit 63 set. -/
def buddyOp (c : Nat) (d : Disp) (s : State) : FabricOp :=
  let m := buddyMessage c d s
  { spindle := none, thread := 0, ctx := BitVec.ofNat 6 c, payload := m.flatMap fun w => natToBytes 4 w.toNat
    hdr := { hdr0 with
      opcode := BitVec.ofNat 5 ocSend, tc := 2, dest := BitVec.ofNat 10 (fld (INT_BUDDY_NODE c) s)
      length := BitVec.ofNat 32 (4 * m.length), msgCtx := BitVec.ofNat 6 (fld (INT_BUDDY_CONTEXT c) s), srcCtx := BitVec.ofNat 6 c
      valueA := BitVec.ofNat 64 (2 ^ 63) } }

/-- After a local replay that was not accepted, or without spares: the buddy is asked, or the suspect fails (R370). -/
def askBuddy (e : EntryRef) (s : State) : State :=
  match dispAt e s with
  | none => s
  | some d =>
    let c := e.ctx.toNat
    if bit (INT_BUDDY_VALID c) s && eKind d.words == kTensor then
      let s := modDisp e (fun d => { d with susp := d.susp.map fun x => { x with buddy := true } }) s
      issueOp (buddyOp c d s) (bump64 (INT_CNT 3) 1 s)
    else failEntry e s

/-- An entry whose result is in place becomes a suspect (R367): its output stays locked; without spares in the package the
local replay is skipped (R369). -/
def toSuspect (e : EntryRef) (gauge : Bool) (s : State) : State :=
  match dispAt e s with
  | none => s
  | some d =>
    let x := d.susp.getD {}
    let x := { x with gauge := x.gauge || gauge, producer := (physOf (eSpindle d.words) s).getD 0 }
    let d := { d with st := .suspect, susp := some x }
    let s := lockOut e d (bump64 (INT_CNT 0) 1 (setDisp e d s))
    if hasSpares s then s else askBuddy e s

end Sys2Proof.Machine
end

