-- ==== Sys2Proof/Machine/Spindle.lean ====
section
/-! DEFINITION. Machine/Spindle.lean: TENSOR and VECTOR entries on the spindles: quantisation, verdicts, repeats, the
adapter pass, completion and the retain windows (R41 to R51, R53, R61, R66, R71 to R77, R80, R82, R90, R107). -/

namespace Sys2Proof.Machine

/-! ### Lagoon and staple errors -/

/-- Memory and lagoon errors met while a unit worked on spindle n (R71, R128, R129). -/
def lagoonEnv (n : Nat) (env : UnitEnv) (s : State) : State :=
  let s := bump32 (SPN_CNT_LAGOON_CE n) env.lagoonCe (memEnv env s)
  env.lagoonUe.foldl (fun s w => { s with lagoonBad := addOnce s.lagoonBad w }) s

/-- Staples known or now seen to fail, by address. -/
def badStaples (env : UnitEnv) (s : State) : List Nat :=
  (env.badStaples.map fun a => a / 4096 * 4096) ++
    ((s.staples.filter fun m => m.2.crcBad || m.2.poison).map fun m => m.1 * 4096)

/-- Byte ranges of memory that a tile reads of its shard: address, length, KIND of SPN_STAPLE_ADDR. -/
def tileReads (e : List W32) (sh : Shard) (w : Nat) : List (Nat × Nat × Nat) :=
  let kb := tKBlocks e
  (List.range 128).flatMap fun col => (List.range kb).flatMap fun b =>
    blockReads sh (tilePlies e sh w) (Config.weightBlock sh.ent.blocks kb b col % sh.ent.blocks)

/-- Those of them that go to the atoll: their staples are not held in the lagoon. -/
def atollReads (e : List W32) (sh : Shard) (w : Nat) : List (Nat × Nat × Nat) :=
  (tileReads e sh w).filter fun r => (List.range r.2.1).any fun i => readAt sh (r.1 + i) == r.1 + i

/-- The stall cause of R146 for which the reads of a tile wait: an atoll that retrains (R147), or a staple under restore
(R130). -/
def readStall (e : List W32) (sh : Shard) (w : Nat) (s : State) : Option Nat :=
  let held := s.staples.filter (·.2.restoring)
  if retraining sh.base s && !(atollReads e sh w).isEmpty then some 3
  else if !held.isEmpty && (atollReads e sh w).any fun r => restoring r.1 r.2.1 s then some 4
  else none

/-- Failing staples that a tile reads, with their KIND. -/
def badReads (e : List W32) (sh : Shard) (w : Nat) (env : UnitEnv) (s : State) : List (Nat × Nat) :=
  let bad := (badStaples env s).eraseDups
  if bad.isEmpty then []
  else
    let rs := atollReads e sh w
    bad.filterMap fun p => (rs.find? fun r => r.1 < p + 4096 && p < r.1 + r.2.1).map fun r => (p, r.2.2)

/-- A result with the elements that a silent error changed. -/
def withSilent (env : UnitEnv) (rows : List W32) : List W32 := env.silent.foldl (fun l p => setAt l p.1 p.2) rows

/-! ### Running a tile -/

/-- The shard behind a tile's placement entry, with fresh reads. -/
def freshShard (c : Nat) (e : List W32) (s : State) : Option Shard :=
  match (ctx c s).weave.places[tWgtEntry e]? with
  | some pe => shardOf c pe s
  | none => none

/-- The same shard with the staples that the tile's spindle holds for the context (R139). -/
def tileShard (c : Nat) (e : List W32) (s : State) : Option Shard :=
  (freshShard c e s).map fun sh => { sh with stage :=
    ((spn (eSpindle e) s).stage.filter fun x => x.ctx == c).map fun x => (x.src, lagoonBase (eSpindle e) + x.lag * 4096) }

def addGau (c i n : Nat) (s : State) : State :=
  modStep c (fun st => { st with gau := setAt st.gau i (st.gau.getD i 0 + n) }) s

/-- The operand buffers and the accumulator store of a spindle after a tile has issued (R57): of each pair the buffer that was
filled last stays, and the other takes the tile's operand. -/
def fillBuffers (e : EntryRef) (d : Disp) (sh : Shard) (w : Nat) (acc : List W32) (s : State) : State :=
  let c := e.ctx.toNat
  let n := eSpindle d.words
  let f := actAfter d.words w
  let rnd := if tRound d.words then some ((ctx c s).weave.seed, eSlot d.words, (rd (WV_STEP c) s).toNat) else none
  let rows := srcRows d.words (lagoonBase n + tActSrc d.words) s
  let a : OpBuf := { entry := e, fmt := fmtCode f, blocks := actOperand f (tActScale d.words) rnd (tKBlocks d.words) rows }
  let b : OpBuf := { entry := e, fmt := fmtCode sh.fmt, blocks := wgtOperand sh (tilePlies d.words sh w) (tKBlocks d.words) s }
  modSpn n (fun p => { p with actBufs := p.actBufs.drop (p.actBufs.length - 1) ++ [a]
                              wgtBufs := p.wgtBufs.drop (p.wgtBufs.length - 1) ++ [b], accum := acc }) s

/-- Quantises a tile after w widenings and runs the array: the entry awaits its verdict. -/
def runEntry (e : EntryRef) (d : Disp) (sh : Shard) (w : Nat) (env : UnitEnv) (s : State) : State :=
  let c := e.ctx.toNat
  let n := eSpindle d.words
  let slot := eSlot d.words
  let src := lagoonBase n + tActSrc d.words
  let s := lagoonEnv n env s
  let bad := badReads d.words sh w env s
  let s := bad.foldl (fun s p => stapleFail n p.2 p.1 c slot s) s
  let rowsBad := badSrcRows d.words src s
  let wgtBad : Bool := !s.lagoonBad.isEmpty && (tileReads d.words sh w).any fun r => stageFails sh r.1 r.2.1 s
  let s := if rowsBad.isEmpty && !wgtBad then s else spnErr (SPN_ERR_LAGOON_UE n) n c slot s
  let x := d.susp.getD {}
  let x := { x with staple := x.staple || !bad.isEmpty, lagoon := x.lagoon || !rowsBad.isEmpty || wgtBad }
  let r := runTile d.words sh w (ctx c s).weave.seed (rd (WV_STEP c) s).toNat (srcRows d.words src s) rowsBad x.staple s
  let s := addGau c 5 r.gauge.poisons (addGau c 4 r.gauge.nulls s)
  let s := bump64 (SPN_CNT_ARRAY_CYC n) (issueCycles (tKBlocks d.words) (mPlan d.words) (fmtAfter d.words w)) s
  let s := fillBuffers e d sh w r.accum s
  setDisp e { d with st := .quantised, fmt := fmtCode (fmtAfter d.words w), widen := w, gauge := r.gauge,
                     poisoned := r.poisoned, result := withSilent env r.rows,
                     susp := if x.staple || x.lagoon then some x else none } s

/-! ### Verdicts (R42, R46 to R49, R51, R53, R107) -/

/-- The threshold word of a set for a context (R42, R43). -/
def threshold (c set : Nat) (s : State) : Nat :=
  if set = 0 then (ctx c s).thr0.toNat else ((ctx c s).weave.thr.getD (set - 1) 0xFFFFFFFF).toNat

/-- Remaining budget of a spindle in a phase (R107). -/
def remaining (c ph n : Nat) (s : State) : Nat :=
  match stepOf c s, phaseOf c ph s with
  | some st, some p => min (st.budget - st.spent) (p.reserve - lookup st.reserve 0 (ph * 512 + n))
  | _, _ => 0

def drawBudget (c ph n cost : Nat) (s : State) : State :=
  modStep c (fun st => { st with spent := st.spent + cost
                                 reserve := put st.reserve 0 (ph * 512 + n) (lookup st.reserve 0 (ph * 512 + n) + cost) }) s

/-- A fallback event (R53): OUTCOME 0 widened, 1 overrun, 2 limit. -/
def trace (c outcome slot : Nat) (g : Gauge) (s : State) : State :=
  wr GAU_TRACE_FRAC (BitVec.ofNat 64 (gaugeFrac g))
    (setFlds [(GAU_TRACE_ID_CONTEXT, c), (GAU_TRACE_ID_OUTCOME, outcome), (GAU_TRACE_ID_SLOT, slot)] s)

/-- The verdict on a quantised tile (R46): a repeat is granted, or the tile commits at its current format. -/
def judge (e : EntryRef) (d : Disp) (s : State) : State :=
  let c := e.ctx.toNat
  let ph := e.phase.toNat
  let n := eSpindle d.words
  let fl := gaugeFlagged (threshold c (tThrSet d.words) s) d.gauge
  let s := if fl && !d.flaggedFirst then addGau c 0 1 s else s
  let d := { d with flaggedFirst := d.flaggedFirst || fl }
  let fb := (ctx c s).fbEn
  let next := if fl && fb && d.widen < 2 then (tileChain d.words)[d.widen]? else none
  match next with
  | some (_, cost) =>
    if remaining c ph n s < cost then
      let rows := coveredRows e d s
      let s := addGau c 2 1 (modStep c (fun st => { st with
        narrow := (st.narrow ++ skeinsOfRows c rows s).eraseDups
        newPins := addOnce st.newPins (eLayer d.words) }) s)
      setDisp e { d with st := .committing } (trace c 1 (eSlot d.words) d.gauge s)
    else setDisp e { d with st := .repeating, result := [] } (addGau c 1 1 (drawBudget c ph n cost s))
  | none =>
    let s :=
      if fl && fb then trace c 2 (eSlot d.words) d.gauge (addGau c 3 1 s)
      else if d.flaggedFirst && fb then trace c 0 (eSlot d.words) d.gauge s
      else s
    setDisp e { d with st := .committing } s

/-- The tile of a phase whose verdict comes next: the lowest tile slot without a final one (R46). -/
def nextTile (c ph : Nat) (s : State) : Option (Nat × Disp) :=
  match stepOf c s, phaseOf c ph s with
  | some st, some p =>
    let l := lookup st.lists [] ph
    let t := templateOf (ctx c s).weave p
    let open_ (x : Nat × Disp) : Bool :=
      eKind x.2.words == kTensor && (x.2.st == .waiting || x.2.st == .quantised || x.2.st == .repeating) &&
        !(x.2.st == .waiting && idle x.2 && fullyPatched t x.1 x.2)
    (((List.range l.length).zip l).filter open_).foldl
      (fun b x => match b with
        | none => some x
        | some y => if eSlot x.2.words < eSlot y.2.words then some x else some y) none
  | _, _ => none

/-- Takes every verdict that can be taken. `fuel` bounds the tiles of a list. -/
def settleVerdicts : Nat → BitVec 6 → BitVec 8 → State → State
  | 0, _, _, s => s
  | f + 1, c, ph, s =>
    match nextTile c.toNat ph.toNat s with
    | some (i, d) =>
      if d.st == .quantised then settleVerdicts f c ph (judge { ctx := c, phase := ph, idx := i } d s) else s
    | none => s

/-- Takes the verdicts of an entry's phase. -/
def verdicts (e : EntryRef) (s : State) : State := settleVerdicts 65536 e.ctx e.phase s

/-! ### TENSOR entries -/

/-- Widenings a tile starts with: 1 for a pinned layer (R48). -/
def startWiden (c : Nat) (e : List W32) (s : State) : Nat :=
  if (ctx c s).pins.any (fun p => p.1 == eLayer e) && !(tileChain e).isEmpty then 1 else 0

/-- What a tile that has not started waits for, as a stall cause of R146: the restore of its lagoon (R357), a prefetch of
its weights (R139), its reads. -/
def tileStall (c : Nat) (e : List W32) (w : Nat) (s : State) : Option Nat :=
  if !lagoonHere c (eSpindle e) s then some 8
  else if prefetchLate c e s then some 0
  else match tileShard c e s with
    | some sh => if shardFits sh then readStall e sh w s else none
    | none => none

/-- A spindle starts a TENSOR entry (R109). It waits while both of its retain windows are open (R73), while its source
is locked (R368), and while its lagoon, its staged weights or its reads are late (R139, R145). -/
def tensorEntry (e : EntryRef) (env : UnitEnv) (s : State) : State :=
  match ready e kTensor s with
  | none => s
  | some d =>
    let c := e.ctx.toNat
    let n := eSpindle d.words
    let len := mLive d.words * (16 * tKBlocks d.words) * 4
    if idle d then verdicts e (doneEntry e s)
    else if (spn n s).windows.length ≥ 2 || lockedAt n (tActSrc d.words) len s ||
        (tileStall c d.words (startWiden c d.words s) s).isSome then s
    else match tileShard c d.words s with
      | none => badAddrOpen c (some n) s
      | some sh =>
        if !shardFits sh then badAddr c (sh.base + sh.size) (some n) s
        else
          let s := modSpn n (fun x => { x with windows := x.windows ++ [(e, tActSrc d.words, tActSrc d.words + len - 1)] }) s
          verdicts e (runEntry e d sh (startWiden c d.words s) env s)

/-- What a repeat of a tile waits for, as a stall cause of R146: its lagoon or its reads. -/
def repeatStall (c : Nat) (d : Disp) (s : State) : Option Nat :=
  if !lagoonHere c (eSpindle d.words) s then some 8
  else (tileShard c d.words s).bind fun sh => readStall d.words sh (d.widen + 1) s

/-- A widened repeat finishes; the tile is judged again on its new counters (R46). It waits while its reads are late. -/
def repeatDone (e : EntryRef) (env : UnitEnv) (s : State) : State :=
  match dispAt e s with
  | none => s
  | some d =>
    if d.st != .repeating || (repeatStall e.ctx.toNat d s).isSome then s
    else match tileShard e.ctx.toNat d.words s with
      | none => s
      | some sh => verdicts e (runEntry e d sh (d.widen + 1) env s)

/-- The adapter of an entry, in its context's table (R62). -/
def tileAdapter (c : Nat) (e : List W32) (s : State) : Option Adapter :=
  if tAdapter e = 0 then none else (ctx c s).weave.adapters[tAdapter e - 1]?

/-- The adapter pass runs once on the committing result (R60, R61), when the spindle's lagoon is restored (R357). -/
def adapterPass (e : EntryRef) (env : UnitEnv) (s : State) : State :=
  match dispAt e s with
  | none => s
  | some d =>
    let c := e.ctx.toNat
    match tileAdapter c d.words s with
    | none => s
    | some a =>
      if d.st != .committing || d.count != 0 || !lagoonHere c (eSpindle d.words) s then s
      else
        let n := eSpindle d.words
        let b := lagoonBase n
        let s := lagoonEnv n env s
        let fails := lagoonFails (b + a.aLagoon) (16 * tKBlocks d.words * a.rank * 2) s || lagoonFails (b + a.bLagoon) (a.rank * 256) s
        let s := if fails then spnErr (SPN_ERR_LAGOON_UE n) n c (eSlot d.words) s else s
        let src := srcRows d.words (b + tActSrc d.words) s
        let srcBad := badSrcRows d.words (b + tActSrc d.words) s
        let s := if srcBad.isEmpty then s else spnErr (SPN_ERR_LAGOON_UE n) n c (eSlot d.words) s
        let pois := if fails then List.range (mLive d.words) else (d.poisoned ++ srcBad).eraseDups
        let rows := adapterRows a.rank a.alpha (b + a.aLagoon) (b + a.bLagoon) src d.result s
        let rows := (List.range rows.length).map fun i => if pois.contains (i / 128) then fpQnanStd else rows.getD i 0
        let x := d.susp.getD {}
        setDisp e { d with count := 1, poisoned := pois, result := withSilent env rows
                           susp := if fails || !srcBad.isEmpty then some { x with lagoon := true } else d.susp }
          (bump64 (SPN_CNT_ARRAY_CYC n) env.busyNs s)

/-- Sets the error bits and counts of the checks that flag (R80, R90). -/
def noteChecks (n c slot : Nat) (k : Checks) (s : State) : State :=
  let one (b : Bool) (f g : FRef) (s : State) : State := if b then bumpFld g 1 (spnErr f n c slot s) else s
  one k.smax (SPN_ERR_GAUGE_SMAX n) (SPN_CNT_GAUGE_SMAX n)
    (one k.norm (SPN_ERR_GAUGE_NORM n) (SPN_CNT_GAUGE_NORM n)
      (one k.mag (SPN_ERR_GAUGE_MAG n) (SPN_CNT_GAUGE_MAG n)
        (one k.nan (SPN_ERR_GAUGE_NAN n) (SPN_CNT_GAUGE_NAN n) s)))

/-- A result in place is checked: clean, it is final; otherwise it is a suspect (R80, R367). -/
def judgeOutput (e : EntryRef) (k : Checks) (s : State) : State :=
  match dispAt e s with
  | none => s
  | some d =>
    let s := noteChecks (eSpindle d.words) e.ctx.toNat (eSlot d.words) k s
    if flagged k || d.susp.isSome then toSuspect e (flagged k) s else acceptOwn e s

/-- The committing result is written and checked (R80, R82), when the spindle's lagoon is restored (R357). -/
def tileComplete (e : EntryRef) (env : UnitEnv) (s : State) : State :=
  match dispAt e s with
  | none => s
  | some d =>
    if d.st != .committing || eKind d.words != kTensor || (tAdapter d.words != 0 && d.count == 0) ||
        !lagoonHere e.ctx.toNat (eSpindle d.words) s then s
    else
      let d := { d with result := withSilent env d.result }
      judgeOutput e (tileChecks d.words d.result d.poisoned) (writeOut d d.result (setDisp e d s))

/-- The retain window closes once its source is no longer needed (R73, R368). -/
def windowClose (e : EntryRef) (s : State) : State :=
  match dispAt e s with
  | none => s
  | some d =>
    let free : Bool := d.st == .done || (d.st == .suspect && (match d.susp with | some x => x.buddy | none => false))
    if free then modSpn (eSpindle d.words) (fun x => { x with windows := x.windows.filter fun w => w.1 != e }) s else s

/-! ### VECTOR entries (R66) -/

/-- A skipped VECTOR entry contributes to the collectives of its program with operations of length 0 (R265). -/
def skipSends (e : EntryRef) (d : Disp) (s : State) : State :=
  let c := e.ctx.toNat
  ((Config.programSends (ctx c s).weave.tableDigest d.words).filter fun h =>
    h.opcode.toNat == ocReduce || h.opcode.toNat == ocMcast).foldl (fun s h =>
      issueOp { spindle := none, thread := 0, ctx := e.ctx, hdr := { h with length := 0, srcCtx := e.ctx }, payload := [] } s) s

/-- A VECTOR entry starts its program. It waits while its thread runs another program or its input is locked. DESIGN CHOICE:
registers 4 to 63 and the program counter start at 0, for which R66 states nothing (log 108). -/
def vectorEntry (e : EntryRef) (env : UnitEnv) (s : State) : State :=
  match ready e kVector s with
  | none => s
  | some d =>
    let c := e.ctx.toNat
    let n := eSpindle d.words
    let t := vThread d.words
    let len := vInEnd d.words - vInSrc d.words
    if idle d then doneEntry e (skipSends e d s)
    else if running (thread n t s) || lockedAt n (vInSrc d.words) len s || !lagoonHere c n s then s
    else
      let s := lagoonEnv n env s
      let fails := lagoonFails (lagoonBase n + vInSrc d.words) len s
      let s := if fails then spnErr (SPN_ERR_LAGOON_UE n) n c (eSlot d.words) s else s
      let regs := [(0, BitVec.ofNat 64 (ew d.words 7)), (1, BitVec.ofNat 64 (ew d.words 8)),
                   (2, BitVec.ofNat 64 (mLive d.words)), (3, BitVec.ofNat 64 (ew d.words 9))]
      let old := thread n t s
      let old := if old.ctx = c then old else {}
      let th : Thread := { state := .ready, ops := old.ops, fenced := old.fenced, regs := regs.filter (fun r => r.2 != 0)
                           entry := some e, ctx := c }
      setDisp e { d with st := .committing, susp := if fails then some { lagoon := true } else none } (setThread n t th s)

/-- Whether a record of R161 at an address carries NONFINITE or POISON. -/
def recordBad (a : Nat) (s : State) : Bool := rdNat (a + 12) 4 s / 2 % 4 != 0

/-- Whether the input of a VECTOR entry holds flagged records of a REEF entry of the step (R367). -/
def mergesBad (e : EntryRef) (d : Disp) (s : State) : Bool :=
  match stepOf e.ctx.toNat s with
  | none => false
  | some st =>
    (st.lists.flatMap (·.2)).any fun r =>
      let w := r.words
      eKind w == kReef && rOutSpindle w == eSpindle d.words && !idle r &&
      (List.range 8).any fun a => (rMask w).testBit a &&
        let k := ((List.range a).filter fun i => (rMask w).testBit i).length
        (List.range (mLive w * rQh w)).any fun i =>
          let o := rOutOff w + 64 + (k * mPlan w * rQh w + i) * (16 + 4 * rDim w)
          vInSrc d.words ≤ o && o < vInEnd d.words && recordBad (lagoonBase (eSpindle d.words) + o) s

/-- A record that a merge reads; a failing lagoon word poisons it (R71). -/
def mergeInput (d a : Nat) (s : State) : Rec :=
  let r := recOf d (rdBytes a (16 + 4 * d) s)
  if lagoonFails a (16 + 4 * d) s then { r with poison := true } else r

/-- The spindles whose lagoon words fail under the records that merges read (R71). -/
def mergeUe (merges : List MergeOp) (s : State) : List Nat :=
  (merges.flatMap fun m => m.records.filterMap fun a =>
    if lagoonFails a (16 + 4 * m.dim) s then lagoonAt a else none).eraseDups

/-- A merge of the program of entry e: the result record, and the row's lse where the program stores it (R170 to R172, R176). -/
def programMerge (e : EntryRef) (n slot : Nat) (m : MergeOp) (s : State) : State :=
  let rs := m.records.map fun a => mergeInput m.dim a s
  let out := if m.grad then sumGrads m.dim m.shard rs else mergeTwo m.dim m.shard rs
  let s := programWrite e n slot m.out (recBytes out) s
  match m.lse with
  | some a => programWrite e n slot a (natToBytes 4 (lseOf out).toNat) s
  | none => s

/-- The program of a VECTOR entry ends: its merges are computed in order, what else it wrote is in place, its result rows are
checked, and the output conversion follows (R66, R80). A failing lagoon word poisons the result rows it belongs to, and all of
them when the entry read it as input (R71). -/
def programEnd (e : EntryRef) (merges : List MergeOp) (writes : List (Nat × Byte)) (env : UnitEnv) (s : State) : State :=
  match dispAt e s with
  | none => s
  | some d =>
    let c := e.ctx.toNat
    let n := eSpindle d.words
    let t := vThread d.words
    let slot := eSlot d.words
    if d.st != .committing || eKind d.words != kVector || (thread n t s).entry != some e ||
        (thread n t s).state != .ready then s
    else
      let s := lagoonEnv n env s
      let ue := mergeUe merges s
      let s := merges.foldl (fun s m => programMerge e n slot m s) (ue.foldl (fun s m => spnErr (SPN_ERR_LAGOON_UE m) m c slot s) s)
      let s := programWrites e n slot writes s
      if !ctxLive c s then s
      else
        let at_ := lagoonBase n + vOutDst d.words
        let k := vRowElems d.words
        let rows := withSilent env ((List.range (mLive d.words * k)).map fun i => rdWord (at_ + 4 * i) s)
        let dead := (List.range (mLive d.words)).filter fun r => lagoonFails (at_ + r * k * 4) (k * 4) s
        let s := if dead.isEmpty then s else spnErr (SPN_ERR_LAGOON_UE n) n c slot s
        let x := d.susp.getD {}
        let pois := if x.lagoon || x.staple then List.range (mLive d.words) else dead
        let x := { x with reef := x.reef || mergesBad e d s, lagoon := x.lagoon || !dead.isEmpty || !ue.isEmpty }
        let susp := if x.reef || x.lagoon || x.staple then some x else none
        let d := { d with result := rows, merges := merges, poisoned := pois, susp := susp }
        -- operations still outstanding, and a FENCE before the next one, stay the thread's (R298)
        let th := thread n t s
        let s := setThread n t (if th.ops.isEmpty && !th.fenced then {} else { ctx := c, ops := th.ops, fenced := th.fenced })
          (setDisp e d s)
        judgeOutput e (vectorChecks d.words rows pois) (writeOut d rows s)

/-! ### Meanings -/

def execTensorEntry (e : EntryRef) (env : UnitEnv) (s : State) : Host.Outcome State Fault Refusal :=
  run (tensorEntry e env) s

def execRepeatComplete (e : EntryRef) (env : UnitEnv) (s : State) : Host.Outcome State Fault Refusal :=
  run (repeatDone e env) s

def execAdapterPass (e : EntryRef) (env : UnitEnv) (s : State) : Host.Outcome State Fault Refusal :=
  run (adapterPass e env) s

def execTileComplete (e : EntryRef) (env : UnitEnv) (s : State) : Host.Outcome State Fault Refusal :=
  run (tileComplete e env) s

def execRetainWindowClose (e : EntryRef) (s : State) : Host.Outcome State Fault Refusal := run (windowClose e) s

def execVectorEntry (e : EntryRef) (env : UnitEnv) (s : State) : Host.Outcome State Fault Refusal :=
  run (vectorEntry e env) s

def execVectorProgramEnd (e : EntryRef) (out : ProgOut) (env : UnitEnv) (s : State) : Host.Outcome State Fault Refusal :=
  run (programEnd e out.merges out.writes env) s

end Sys2Proof.Machine
end

