-- ==== Sys2Proof/Machine/Sample.lean ====
section
/-! DEFINITION. Machine/Sample.lean: the sampling unit: profiles, the penalty window, masks, the order of operations, and
SAMPLE entries (chapter 08). -/

namespace Sys2Proof.Machine

/-! ### Errors (R249) -/

/-- An SMP_ERR flag of context c, and of a skein when it concerns one. -/
def smpErr (f : FRef) (c : Nat) (skein : Option Nat) (s : State) : State :=
  let idle : Bool := (rd SMP_ERR s).toNat / 2 = 0 && !s.caps.contains SMP_ERR_INFO
  if idle then
    let s := setFlds [(SMP_ERR_INFO_CONTEXT, c), (SMP_ERR_INFO_SKEIN_VALID, skein.isSome.toNat),
                      (SMP_ERR_INFO_SKEIN, skein.getD 0)] s
    setErr f { s with caps := s.caps ++ [SMP_ERR_INFO] }
  else setErr f s

/-! ### Profiles (R233, R234) -/

/-- The eight words of profile 0. -/
def profile0 : List W32 := [0x80000000, 0, 0x3F800000, 0, 0, 0x3F800000, 0, 0]
def noProfile : List W32 := List.replicate 8 0

/-- The accepted words of a profile. -/
def profWords (i : Nat) (s : State) : List W32 := if i = 0 then profile0 else lookup s.profiles noProfile i

/-- The words of a profile as context c uses them: a commit takes effect at the next step boundary. -/
def ctxProfile (c i : Nat) (s : State) : List W32 := (find? (ctx c s).oldProfiles i).getD (profWords i s)

/-- Whether every field of a profile lies in its range and every reserved bit is 0 (R234). -/
def profOk (ws : List W32) : Bool :=
  let w (i : Nat) : W32 := ws.getD i 0
  let finite (i : Nat) (lo : W32) : Bool := fpIsFinite (w i) && fpLe lo (w i)
  let unit (i : Nat) : Bool := fpLe 0 (w i) && fpLe (w i) 0x3F800000
  ((w 0).toNat / 2 ^ 13 % 2 ^ 17 == 0) && (w 0).toNat % 2 ^ 13 ≤ 4096 &&
  finite 1 0 && finite 2 0x3F800000 && finite 3 0 && (w 4).toNat ≤ 1024 && unit 5 && unit 6 && w 7 == 0

/-- Whether a skein that is not FREE names a profile. -/
def profNamed (i : Nat) (s : State) : Bool := s.skeins.any fun k => k.2.state != .free && k.2.profile == i

/-- A write of SMP_PROF_CTRL: the check of the staged words starts (R233). -/
def profStart (v : W64) (s : State) : State :=
  if !wbit v 0 || s.profCommit.isSome then s
  else
    let ws := (List.range 8).map fun w => BitVec.ofNat 32 (fld (SMP_PROF_DATA_DATA w) s)
    setFlds [(SMP_PROF_CTRL_COMMIT, 1), (SMP_STATUS_PROF_BUSY, 1)]
      { s with profCommit := some (fld SMP_PROF_SEL_INDEX s, ws) }

/-- The check ends: the profile is accepted, for each context from its next step boundary on, or rejected. -/
def profEnd (s : State) : State :=
  match s.profCommit with
  | none => s
  | some (i, ws) =>
    let s := setFlds [(SMP_PROF_CTRL_COMMIT, 0), (SMP_STATUS_PROF_BUSY, 0)] { s with profCommit := none }
    let clears : Bool := !(ws.getD 0 0).msb
    if i = 0 || !profOk ws || (clears && profNamed i s) then setErr SMP_ERR_PROFILE s
    else
      let old := profWords i s
      let s := (existing s).foldl (fun s c => modCtx c (fun x =>
        if (find? x.oldProfiles i).isSome then x else { x with oldProfiles := x.oldProfiles ++ [(i, old)] }) s) s
      { s with profiles := put s.profiles noProfile i ws }

/-! ### The order of operations (R235 to R238) -/

/-- What a row of logits yields. -/
inductive Sampled where
  | token (t : Nat) (capCut : Bool)
  | nonfinite
  | empty
  deriving DecidableEq, Repr

def fpOne : W32 := 0x3F800000
def fpLog2e : W32 := 0x3FB8AA3B

/-- Step 3 for a token of the window. -/
def penalise (ws : List W32) (y : W32) : W32 :=
  let rep := ws.getD 2 0
  fpSub (if fpLt 0 y then fpDiv y rep else fpMul y rep) (ws.getD 3 0)

/-- y[t] after steps 1 to 3. -/
def adjusted (ws : List W32) (allow : Nat → Bool) (win : List Nat) (t : Nat) (x : W32) : W32 :=
  let inv := ws.getD 1 0
  let y := if allow t then x else fpNegInf
  let y := if fpEq inv 0 then y else fpMul y inv
  if win.contains t && !(fpIsInf y && fpNeg y) then penalise ws y else y
/-- exp2((y − m) · log2e). -/
def expTerm (m y : W32) : W32 := fpExp2 (fpMul (fpSub y m) fpLog2e)

/-- z: groups of 32 tokens in the pairwise tree, group sums in ascending order (R236). -/
def sumTerms (ts : List W32) : W32 :=
  (chunks 32 ts.length ts).foldl (fun z g => fpAdd z (treeReduce fpAdd 0 5 g)) 0

/-- Sequential sums of a list. -/
def runningSums : W32 → List W32 → List W32
  | _, [] => []
  | a, x :: rest => fpAdd a x :: runningSums (fpAdd a x) rest

/-- The draw value u (R237). -/
def drawU (seed : W64) (p : Nat) : W32 :=
  fpRound false ((philox seed (BitVec.ofNat 32 p) 0x534D5031 0 0).toNat / 256) (-24)

/-- Steps 4 to 8 over the finite values, in descending order of y. -/
def choose (ws : List W32) (u : W32) (m z : W32) (sorted : List (Nat × W32)) : Nat × Bool :=
  let k := if (ws.getD 4 0).toNat = 0 then 1024 else (ws.getD 4 0).toNat
  let before (a b : Nat × W32) : Bool := fpLt b.2 a.2 || (!fpLt a.2 b.2 && a.1 < b.1)
  let cand := sortBy before ((sorted.take k).map fun t => (t.1, fpDiv (expTerm m t.2) z))
  let sums := runningSums 0 (cand.map (·.2))
  let topP := ws.getD 5 0
  let cut := if fpEq topP fpOne then none else sums.findIdx? fun x => fpLe topP x
  let cap : Bool := !fpEq topP fpOne && cut.isNone && cand.length = 1024
  let cand := match cut with
    | some n => cand.take (n + 1)
    | none => cand
  let floor := fpMul (ws.getD 6 0) ((cand.map (·.2)).headD 0)
  let cand := cand.take 1 ++ (cand.drop 1).filter fun t => !fpLt t.2 floor
  let sums := runningSums 0 (cand.map (·.2))
  let thr := fpMul u (sums.getLast?.getD 0)
  let n := (sums.findIdx? fun x => fpLt thr x).getD (cand.length - 1)
  ((cand.map (·.1)).getD n 0, cap)

/-- The token of one row (R235, R238). -/
def sampleRow (ws : List W32) (x : List W32) (allow : Nat → Bool) (win : List Nat) (u : W32) : Sampled :=
  let posInf (y : W32) : Bool := fpIsInf y && !fpNeg y
  if x.any fun v => fpIsNan v || posInf v then .nonfinite
  else
    let y := (List.range x.length).map fun t => adjusted ws allow win t (x.getD t 0)
    if y.any posInf then .nonfinite
    else
      let fin := ((List.range y.length).zip y).filter fun t => fpIsFinite t.2
      let before (a b : Nat × W32) : Bool := fpLt b.2 a.2 || (!fpLt a.2 b.2 && a.1 < b.1)
      match sortBy before fin with
      | [] => .empty
      | best :: rest =>
        if fpEq (ws.getD 1 0) 0 then .token best.1 false
        else
          let z := sumTerms (y.map fun v => if fpIsFinite v then expTerm best.2 v else 0)
          let r := choose ws u best.2 z (best :: rest)
          .token r.1 r.2

/-! ### Masks (R242 to R244) -/

/-- The automata section at the start of a region (R243): descriptor a. -/
structure Automaton where
  base : Nat
  states : Nat
  classes : Nat
  start : Nat
  edges : Nat
  stateOff : Nat
  edgeOff : Nat
  classOff : Nat
  deriving DecidableEq, Repr

def automaton (base a : Nat) (s : State) : Automaton :=
  let w (i : Nat) : Nat := rdNat (base + 64 + 32 * a + 4 * i) 4 s
  { base := base, states := w 0, classes := w 1, start := w 2, edges := w 3, stateOff := w 4, edgeOff := w 5, classOff := w 6 }

/-- CLASS, DEFAULT_NEXT, EDGE_BASE and EDGE_COUNT of state g. -/
def autoState (m : Automaton) (g : Nat) (s : State) : Nat × Nat × Nat × Nat :=
  let w (i : Nat) : Nat := rdNat (m.base + m.stateOff + 16 * g + 4 * i) 4 s
  (w 0 / 65536, w 1 % 65536, w 2, w 3 % 65536)

/-- TOKEN and NEXT of edge i. -/
def autoEdge (m : Automaton) (i : Nat) (s : State) : Nat × Nat :=
  (rdNat (m.base + m.edgeOff + 8 * i) 4 s % 2 ^ 18, rdNat (m.base + m.edgeOff + 8 * i + 4) 4 s % 65536)

/-- Bit t of a 32 KiB bitmap. -/
def bitmapBit (addr t : Nat) (s : State) : Bool := (rdByte (addr + t / 8) s).getLsbD (t % 8)

/-- Whether the class of grammar state g allows token t (R244). -/
def classAllows (m : Automaton) (g t : Nat) (s : State) : Bool :=
  bitmapBit (m.base + m.classOff + 32768 * (autoState m g s).1) t s

/-- The state after a token: the edge of a token that the class disallows is never used (R244). -/
def autoNext (m : Automaton) (g t : Nat) (s : State) : Nat :=
  let st := autoState m g s
  match ((List.range st.2.2.2).map fun i => autoEdge m (st.2.2.1 + i) s).find? fun e => e.1 == t && classAllows m g t s with
  | some e => e.2
  | none => st.2.1

/-- The checks of the copied automata: every index and order (R243). `len` is the length of the section's body. -/
def automataOk (base len : Nat) (s : State) : Bool :=
  let n := rdNat base 4 s
  1 ≤ n && n ≤ 256 && 64 + 32 * n ≤ len &&
  (List.range n).all fun a =>
    let m := automaton base a s
    1 ≤ m.states && m.states ≤ 65536 && 1 ≤ m.classes && m.classes ≤ 8192 && m.start < m.states &&
    m.stateOff + 16 * m.states ≤ len && m.edgeOff + 8 * m.edges ≤ len && m.classOff + 32768 * m.classes ≤ len &&
    ((List.range m.states).all fun g =>
      let st := autoState m g s
      st.1 < m.classes && st.2.1 < m.states && st.2.2.1 + st.2.2.2 ≤ m.edges &&
      ascending ((List.range st.2.2.2).map fun i => (autoEdge m (st.2.2.1 + i) s).1)) &&
    (List.range m.edges).all fun i => (autoEdge m i s).2 < m.states

/-- A mask in use: the allow-list bitmap, the automaton. -/
structure MaskSel where
  bitmap : Option Nat := none
  auto : Option Automaton := none
  deriving DecidableEq, Repr

/-- A SAMPLE entry of the weave; all agree in the sampler areas and the mask directory (R230). -/
def smpEntry (w : Weave) : Option (List W32) := (w.templates.flatMap (·.entries)).find? fun e => eKind e == kSample

/-- The mask that a handle selects; none for an invalid one (R242). -/
def maskOf (c h : Nat) (s : State) : Option MaskSel :=
  if h = 0 then some {}
  else
    match smpEntry (ctx c s).weave with
    | none => none
    | some e =>
      match find? (ctx c s).bound (sMaskWreg e) with
      | none => none
      | some r =>
        let g := region r s
        let at_ := sMaskOff e + 16 * h
        if at_ + 16 > g.size then none
        else
          let w0 := rdNat (g.base + at_) 4 s
          let mode := w0 / 2 ^ 30
          let off := rdNat (g.base + at_ + 4) 8 s
          let autos := if (ctx c s).weave.masks.isEmpty then 0 else rdNat g.base 4 s
          let listOk : Bool := mode % 2 = 0 || (off + 32768 ≤ g.size && off % 4096 = 0)
          let autoOk : Bool := mode / 2 = 0 || w0 % 65536 < autos
          if mode = 0 || !listOk || !autoOk then none
          else some { bitmap := if mode % 2 = 1 then some (g.base + off) else none
                      auto := if mode / 2 = 1 then some (automaton g.base (w0 % 65536) s) else none }

/-- allowed(t) in grammar state g. -/
def maskAllows (m : MaskSel) (g : Nat) (s : State) (t : Nat) : Bool :=
  (match m.bitmap with
   | some a => bitmapBit a t s
   | none => true) &&
  match m.auto with
  | some a => classAllows a g t s
  | none => true

/-- The grammar state after a token. -/
def maskNext (m : MaskSel) (g t : Nat) (s : State) : Nat :=
  match m.auto with
  | some a => autoNext a g t s
  | none => g

/-! ### Sampler areas (R239, R240) -/

def areaBytes : Nat := 20480

/-- The sampler area of skein i; none when it lies outside its region. -/
def smpArea (c i : Nat) (s : State) : Option Nat :=
  match smpEntry (ctx c s).weave with
  | none => none
  | some e =>
    match find? (ctx c s).bound (sSmpWreg e) with
    | none => none
    | some r =>
      let g := region r s
      let b := fld (SKN_CTX_RANGE_BASE c) s
      if g.kind == kScratch && b ≤ i && sSmpOff e + (i - b + 1) * areaBytes ≤ g.size
      then some (g.base + sSmpOff e + (i - b) * areaBytes) else none

/-- The committed grammar state of an area. -/
def gramState (a : Nat) (s : State) : Nat := rdNat a 2 s
def setGram (a g : Nat) (s : State) : State := wrMerge a (natToBytes 2 g) false s
/-- The provisional grammar state. -/
def setProv (a g : Nat) (s : State) : State := wrMerge (a + 4) (natToBytes 2 g) false s
/-- The history ring's word of position q. -/
def ringAddr (a q : Nat) : Nat := a + 4096 + q % 4096 * 4
def setHist (a q : Nat) (t : W32) (s : State) : State := wrMerge (ringAddr a q) (natToBytes 4 (t.toNat % 2 ^ 18)) false s

/-- The checks of a skein's first sampling (R233, R239, R240, R242): whether they passed. -/
def firstSampling (c i : Nat) (s : State) : Bool × State :=
  let k := sk i s
  if k.sampled then (true, s)
  else
    let valid : Bool := ((ctxProfile c k.profile s).getD 0 0).msb
    match valid, maskOf c k.mask s, smpArea c i s with
    | true, some m, some a =>
      let start := match m.auto with
        | some x => x.start
        | none => 0
      let s := wrMerge a (natToBytes 4 (k.gen.toNat * 65536 + start)) false s
      (true, modSk i (fun k => { k with sampled := true }) s)
    | _, _, area =>
      let s := if area.isNone then smpErr SMP_ERR_AREA c (some i) s else s
      (false, faultSkein i fcSampler (smpErr SMP_ERR_CFG c (some i) s))

/-! ### A row of a SAMPLE entry (R231, R240, R241) -/

/-- The token at sequence position q as the unit takes it for part b of the batch: from the ring below LENGTH, from the
prompt stage or the inputs of the step above it. -/
def tokenAt (st : Step) (b : BatchSk) (area : Option Nat) (q : Nat) (s : State) : Nat :=
  if q < b.base then
    match area with
    | some a => rdNat (ringAddr a q) 4 s % 2 ^ 18
    | none => 0
  else if b.prefill then (b.tokens.getD (q - b.base) 0).toNat % 2 ^ 18
  else (lookup st.samples {} (b.row + (q - b.base))).input.toNat

/-- The window set H for position p (R240). -/
def window (ws : List W32) (k : Skein) (st : Step) (b : BatchSk) (area : Option Nat) (p : Nat) (s : State) : List Nat :=
  let win := (ws.getD 0 0).toNat % 2 ^ 13
  let q0 := if (ws.getD 0 0).getLsbD 30 then 0 else k.promptLen
  let lo := max q0 (p - win)
  ((List.range (p - lo)).map fun j => tokenAt st b area (lo + j) s).eraseDups

/-- The grammar state that row i of a part starts from: the committed state, advanced by the drafts before it. -/
def provisional (m : MaskSel) (st : Step) (b : BatchSk) (i g : Nat) (s : State) : Nat :=
  if b.prefill then g
  else (List.range i).foldl (fun g j => maskNext m g (lookup st.samples {} (b.row + j + 1)).input.toNat s) g

def setSample (c r : Nat) (x : RowSample) (s : State) : State :=
  modStep c (fun st => { st with samples := put st.samples {} r x }) s

/-- Whether the token of a row would be released (R241): the last row of a slice that completes its prompt, a decode row,
and a draft row whose draft and every earlier one is accepted. -/
def rowLive (k : Skein) (st : Step) (b : BatchSk) (r input : Nat) : Bool :=
  let i := r - b.row
  if b.prefill then i + 1 = b.rows && b.base + b.rows = k.promptLen
  else
    i = 0 ||
    let prev := lookup st.samples {} (r - 1)
    prev.live && !prev.bad && prev.fault = 0 && prev.token.toNat = input

/-- An earlier row of the part whose token would be released found a fault or a bad row: the drafts after it are not
tested. -/
def chainBroken (st : Step) (b : BatchSk) (r : Nat) : Bool :=
  (List.range (r - b.row)).any fun i => let x := lookup st.samples {} (b.row + i); x.live && (x.bad || x.fault != 0)

/-- Package address of the logits of row r; none outside the bound region. -/
def logitAddr (c : Nat) (e : List W32) (r : Nat) (s : State) : Option Nat :=
  match find? (ctx c s).bound (sLogitWreg e) with
  | none => none
  | some g =>
    let off := sLogitOff e + (r - sRowBase e) * sLogitStride e
    if off + 4 * sVocab e ≤ (region g s).size then some ((region g s).base + off) else none

/-- Samples row r of an entry. `old` is the step before a replay: what the first sampling of the row has already counted is
not counted again (R248). -/
def sampleOne (c : Nat) (e : List W32) (bad : List Nat) (old : Option Step) (r : Nat) (s : State) : State :=
  match stepOf c s, (stepOf c s).bind fun st => rowPart st.batch r, logitAddr c e r s with
  | some st, some b, some la =>
    let at_ := lagoonBase (sInSpindle e) + sInOff e + 4 * (r - sRowBase e)
    let input := rdNat at_ 4 s % 2 ^ 18
    let k := sk b.skein s
    let live := rowLive k st b r input
    let s := setSample c r { input := BitVec.ofNat 32 input, live := live } s
    let st := (stepOf c s).getD st
    let first : Bool := live && (b.prefill || r = b.row)
    let (ok, s) := if first && skLive k then firstSampling c b.skein s else (true, s)
    if !ok then setSample c r { input := BitVec.ofNat 32 input, live := live, fault := fcSampler } s
    else
      let ws := ctxProfile c k.profile s
      let m := (maskOf c k.mask s).getD {}
      let area := smpArea c b.skein s
      let g := provisional m st b (r - b.row) ((area.map fun a => gramState a s).getD 0) s
      let s := match area with
        | some a => if k.sampled && !b.prefill && r > b.row then setProv a g s else s
        | none => s
      let p := b.base + (r - b.row) + 1
      let x := (List.range (sVocab e)).map fun t => rdWord (la + 4 * t) s
      let x := if (staplesOf la (4 * sVocab e)).any bad.contains then x.map fun _ => fpQnanStd else x
      let res := sampleRow ws x (maskAllows m g s) (window ws k st b area p s) (drawU k.seed p)
      let was : Option RowSample := old.map fun o => lookup o.samples {} r
      let seen (f : RowSample → Bool) : Bool := match was with
        | some x => f x
        | none => false
      let cnt (i : Nat) (done : Bool) (s : State) : State := if done then s else bump64 (SMP_CNT i) 1 s
      let tested : Bool := match old with
        | some o => !chainBroken o b r
        | none => false
      let s := if live || res != .nonfinite then cnt 0 old.isSome s else s
      let s :=
        if b.prefill || r = b.row then s
        else if live then cnt 2 tested s
        else if chainBroken st b r then s else cnt 3 tested s
      let base : RowSample := { input := BitVec.ofNat 32 input, live := live }
      match res with
      | .token t cap =>
        let s := if cap then cnt 5 (seen (!·.bad)) s else s
        let s := wrUnit (lagoonBase (sOutSpindle e) + sOutOff e + 4 * (r - sRowBase e)) (natToBytes 4 t) false s
        setSample c r { base with token := BitVec.ofNat 32 t, mask := maskNext m g t s } s
      | .nonfinite =>
        if live then cnt 6 (seen fun x => x.live && x.bad) (smpErr SMP_ERR_NONFINITE c (some b.skein) (setSample c r { base with bad := true } s))
        else setSample c r { base with bad := true } s
      | .empty =>
        if live then
          cnt 4 (seen (·.fault == fcMaskEmpty)) (smpErr SMP_ERR_MASK_EMPTY c (some b.skein) (faultSkein b.skein fcMaskEmpty
            (setSample c r { base with fault := fcMaskEmpty } s)))
        else setSample c r { base with fault := fcMaskEmpty } s
  | _, _, _ => s

/-- The rows of a SAMPLE entry. -/
def sampleRowsOf (e : List W32) : List Nat := (List.range (sRowsLive e)).map (sRowBase e + ·)

/-- Samples every row of an entry in row order. -/
def sampleAll (c : Nat) (e : List W32) (env : UnitEnv) (old : Option Step) (s : State) : State :=
  (sampleRowsOf e).foldl (fun s r => sampleOne c e (badStaples env s) old r s) s

/-- Rows of an entry whose token would be released and that are poisoned or non-finite. -/
def badSamples (c : Nat) (e : List W32) (s : State) : List Nat :=
  match stepOf c s with
  | none => []
  | some st => (sampleRowsOf e).filter fun r => let x := lookup st.samples {} r; x.live && x.bad

/-- Whether an input token of an entry is a locked output: the sampling unit waits (R368). -/
def inputsLocked (e : List W32) (s : State) : Bool :=
  rangeLocked (lagoonBase (sInSpindle e) + sInOff e) (4 * sRowsLive e) s

/-- A SAMPLE suspect fails (R370): its affected rows, those of the entry whose token would be released, stand as NaN for the
commit. -/
def failSamples (e : EntryRef) (s : State) : State :=
  match dispAt e s with
  | none => s
  | some d =>
    let c := e.ctx.toNat
    let s := (sampleRowsOf d.words).foldl (fun s r => match stepOf c s with
      | some st => let x := lookup st.samples {} r; if x.live then setSample c r { x with bad := true } s else s
      | none => s) s
    doneEntry e (intErr INT_ERR_SUSPECT_FAIL c (eSlot d.words) s)

/-- The sampling unit executes an entry. -/
def sampleEntry (e : EntryRef) (env : UnitEnv) (s : State) : State :=
  match ready e kSample s with
  | none => s
  | some d =>
    let c := e.ctx.toNat
    if idle d then doneEntry e s
    else if inputsLocked d.words s then s
    else if (sampleRowsOf d.words).any fun r => (logitAddr c d.words r s).isNone then badAddrOpen c none s
    else
      let s := bump64 (SMP_CNT 7) env.busyNs (sampleAll c d.words env none (memEnv env s))
      if (badSamples c d.words s).isEmpty then doneEntry e s
      else
        let s := bump64 (INT_CNT 0) 1 (modDisp e (fun d => { d with st := .suspect, susp := some { staple := true } }) s)
        if hasSpares s then s else failSamples e s

/-- The local replay of a SAMPLE entry (R247, R367, R370): a fresh read of the logits, then sampling again. -/
def sampleReplay (e : EntryRef) (env : UnitEnv) (s : State) : State :=
  match dispAt e s, stepOf e.ctx.toNat s with
  | some d, some old =>
    let c := e.ctx.toNat
    let s := memEnv env s
    let t := sampleAll c d.words env (some old) s
    let same : Bool := (sampleRowsOf d.words).all fun r =>
      lookup old.samples {} r == lookup (((stepOf c t).getD old).samples) {} r
    if same then doneEntry e (bump64 (INT_CNT 1) 1 s)
    else if (badSamples c d.words t).isEmpty then doneEntry e (bump64 (INT_CNT 2) 1 t)
    else failSamples e s
  | _, _ => s

/-! ### At commit (R240, R247) -/

/-- Writes the output list of a part's rows at a commit (R247): the words that the entries of the step wrote when they ran
(R231; log 116). -/
def commitList (st : Step) (b : BatchSk) (s : State) : State :=
  ((st.lists.flatMap (·.2)).filter fun d => eKind d.words == kSample && !eIdle d.words).foldl (fun s d =>
    let e := d.words
    ((sampleRowsOf e).filter fun r => b.row ≤ r && r < b.row + b.rows).foldl (fun s r =>
      let x := lookup st.samples {} r
      if x.bad || x.fault != 0 then s
      else wrMerge (lagoonBase (sOutSpindle e) + sOutOff e + 4 * (r - sRowBase e)) (natToBytes 4 x.token.toNat) false s) s) s

/-- Writes the ring words of the positions a commit appends and the grammar state after the last released token. -/
def sampleCommit (c i from_ : Nat) (tokens : List W32) (gram : Option Nat) (s : State) : State :=
  match smpArea c i s with
  | none => s
  | some a =>
    let s := ((List.range tokens.length).zip tokens).foldl (fun s t => setHist a (from_ + t.1) t.2 s) s
    match gram with
    | some g => setGram a g s
    | none => s

/-! ### Meanings -/

def execSampleEntry (e : EntryRef) (env : UnitEnv) (s : State) : Host.Outcome State Fault Refusal :=
  run (sampleEntry e env) s

def execProfileCheckDone (s : State) : Host.Outcome State Fault Refusal := run profEnd s

end Sys2Proof.Machine
end

