-- ==== Sys2Proof/Machine/Card.lean ====
section
/-! DEFINITION. Machine/Card.lean: the carding unit: ROUTE, GATHER, RETURN and COMBINE (chapter 09). -/

namespace Sys2Proof.Machine

def crdErr (f : FRef) (c slot : Nat) (s : State) : State :=
  raiseErr f CRD_ERR_INFO [(CRD_ERR_INFO_CONTEXT, c), (CRD_ERR_INFO_SLOT, slot)] s

/-! ### Fields and areas (R253) -/

/-- Live rows of the half; a skipped entry has none (R265). -/
def cardRows (e : List W32) : Nat := if eSkip e then 0 else cRowsLive e
/-- H. -/
def hidden (e : List W32) : Nat := cHiddenBlk e * 16
def cardMap (c : Nat) (e : List W32) (s : State) : XMap := xmap (ctx c s).maps (cMap e)
/-- Package address of an area named by a pair of _WREG and _OFF, when `len` bytes of it lie in the bound region. -/
def cardArea (c : Nat) (r : Nat × Nat) (len : Nat) (s : State) : Option Nat :=
  match find? (ctx c s).bound r.1 with
  | none => none
  | some g => if r.2 + len ≤ (region g s).size then some ((region g s).base + r.2) else none
/-- Row stride of an area of n FP32 values per row. -/
def rowStride (n : Nat) : Nat := (4 * n + 4095) / 4096 * 4096

/-- n FP32 values at an address; NaN when a staple of theirs fails its check. -/
def fpRow (a n : Nat) (bad : List Nat) (s : State) : List W32 :=
  if (staplesOf a (4 * n)).any bad.contains then List.replicate n fpQnanStd
  else (List.range n).map fun i => rdWord (a + 4 * i) s

/-- The CARD entry that waits in a half's slot: context. -/
def cardWaits (half : Nat) (s : State) : Option Nat :=
  (s.ctxs.find? fun x => match x.2.step with
    | some st => (st.lists.flatMap (·.2)).any fun d =>
        d.st == .quantised && eKind d.words == kCard && cHalf d.words == half
    | none => false).map (·.1)

/-- The ROUTE, GATHER, RETURN and COMBINE entries wait for the entries of their half before them, and for an entry of another
context that holds the half's slot (R270). -/
def cardReady (e : EntryRef) (op : Nat) (s : State) : Option Disp :=
  let c := e.ctx.toNat
  let ph := e.phase.toNat
  match dispAt e s, stepOf c s, phaseOf c ph s with
  | some d, some st, some p =>
    let l := lookup st.lists [] ph
    let before : Bool := (List.range e.idx).all fun i =>
      match l[i]? with
      | some x => x.st == .done || !shareUnit x.words d.words
      | none => true
    if (d.st == .waiting || d.st == .quantised) && eKind d.words == kCard && cOp d.words == op && phaseOpen c ph s &&
        before && (match cardWaits (cHalf d.words) s with
          | some k => k == c
          | none => true) && fullyPatched (templateOf (ctx c s).weave p) e.idx d then some d else none
  | _, _, _ => none

/-! ### Selecting experts (R255, R256) -/

/-- Selected experts of a row with their gates, by rank. -/
def gates (e : List W32) (sc : List W32) : List (Nat × W32) :=
  let before (a b : Nat × W32) : Bool := fpLt b.2 a.2 || (!fpLt a.2 b.2 && a.1 < b.1)
  let sel := (sortBy before ((List.range sc.length).zip sc)).take (cTopk e)
  let seqSum (l : List W32) : W32 := l.foldl fpAdd 0
  let top := (sel.map (·.2)).headD 0
  let raw : List W32 :=
    if cGate e = 0 then
      let z := sumTerms (sc.map (expTerm top))
      sel.map fun x => fpDiv (expTerm top x.2) z
    else if cGate e = 1 then
      let t := sel.map fun x => expTerm top x.2
      t.map fun x => fpDiv x (seqSum t)
    else
      let t := sel.map fun x => fpDiv fpOne (fpAdd fpOne (fpExp2 (fpMul (fpFlip x.2) fpLog2e)))
      t.map fun x => fpDiv x (seqSum t)
  (sel.map (·.1)).zip (raw.map fun g => fpMul g (cGateScale e))

/-! ### Capacity (R257) -/

/-- C. -/
def capacity (e : List W32) (rows experts : Nat) : Nat :=
  if cCap16 e = 0 then rows else ceilDiv (cCap16 e * rows * cTopk e) (16 * experts)

/-- The kept assignments as (row, rank, expert, gate), in ascending rank and within a rank in ascending row. -/
def keep (cap : Nat) : List (Nat × Nat × Nat × W32) → List (Nat × Nat) → List (Nat × Nat × Nat × W32)
  | [], _ => []
  | a :: rest, n =>
    let k := lookup n 0 a.2.2.1
    if k < cap then a :: keep cap rest (put n 0 a.2.2.1 (k + 1)) else keep cap rest n

/-! ### Messages (R261) -/

def cardHeader (e : List W32) (c kind tag count bytes : Nat) (s : State) : List Byte :=
  natToBytes 4 (stepLow c s * 2 ^ 12 + cLayer e) ++
  natToBytes 4 (cHalf e * 2 ^ 31 + kind * 2 ^ 30 + c * 2 ^ 24 + myNode s) ++
  natToBytes 4 (tag * 2 ^ 16 + count) ++ natToBytes 4 bytes ++ List.replicate 48 0

/-- Zero bytes up to a multiple of 64. -/
def pad64 (bs : List Byte) : List Byte := bs ++ List.replicate ((64 - bs.length % 64) % 64) 0

def payloadBytes (fmt : Nat) (xs : List W32) : List Byte :=
  if fmt = 8 then xs.flatMap fun x => natToBytes 2 (fpToBf16 x).toNat
  else
    let qs := (chunks 16 xs.length xs).map fun b => quantBlock .q8 fpOne b none
    (qs.flatMap fun q => packCodes 8 q.codes) ++ qs.map fun q => BitVec.ofNat 8 q.scale

/-- Words 0 to 3 of a record. -/
def recordHead (w0 skein gen : Nat) : List Byte :=
  natToBytes 4 w0 ++ natToBytes 4 (skein * 2 ^ 14) ++ natToBytes 4 (gen * 2 ^ 16) ++ natToBytes 4 0

/-- Delivers a message to the slot of this package's rank at a node: by PUT_SIGNAL, or directly on the own node (R259). -/
def deliverCard (c node win off : Nat) (bs : List Byte) (s : State) : State :=
  if node = myNode s then wrUnit (winBase win s + off) bs false s
  else
    let h : ReqHeader :=
      { opcode := BitVec.ofNat 5 ocPutSignal, tc := 1, order := 0, retx := false, fenced := false
        dest := BitVec.ofNat 10 node, src := 0, window := BitVec.ofNat 12 win, tag := 0, dir := 0
        offset := BitVec.ofNat 40 off, length := BitVec.ofNat 32 bs.length, pktOff := 0, key := lookup s.fryKeys 0 c
        subop := 0, sigOp := 0, msgCtx := 0, srcCtx := BitVec.ofNat 6 c, group := 0, sigOffset := 0, valueA := 0, valueB := 0 }
    issueOp { spindle := none, thread := 0, ctx := BitVec.ofNat 6 c, hdr := h, payload := bs } s

/-- Sends one list: header and records, each already padded. A list that exceeds its slot faults the context. -/
def sendList (e : List W32) (c kind me node : Nat) (recs : List (List Byte)) (s : State) : State :=
  let body := recs.flatten
  if 64 + body.length > cSlotBytes e then faultCtx c cfCard none (crdErr CRD_ERR_SLOT_OVERFLOW c (eSlot e) s)
  else
    let s := bump64 (CRD_CNT 3) recs.length (if recs.isEmpty then bump64 (CRD_CNT 4) 1 s else s)
    deliverCard c node (0xF80 + 2 * c + kind) (me * cSlotBytes e)
      (cardHeader e c kind (cardMap c e s).tag recs.length body.length s ++ body) s

/-- Sends to every node of the map in ascending rank, while the context lives. -/
def sendLists (e : List W32) (c kind me : Nat) (lists : Nat → List (List Byte)) : List (Nat × Nat) → State → State
  | [], s => s
  | (n, node) :: rest, s =>
    if ctxLive c s then sendLists e c kind me lists rest (sendList e c kind me node (lists n) s) else s

def rankedNodes (x : XMap) : List (Nat × Nat) := (List.range x.nodes.length).zip x.nodes

/-! ### ROUTE -/

/-- A dispatch record of the half's row i for node n. -/
def dispatchRecord (e : List W32) (x : XMap) (act : List W32) (i n skein gen : Nat) (mine : List (Nat × Nat × Nat × W32)) :
    List Byte :=
  let here := mine.filter fun a => (x.table.getD a.2.2.1 (0, 0)).1 == n
  let halves := here.flatMap fun a => natToBytes 2 (a.2.1 * 2 ^ 12 + (x.table.getD a.2.2.1 (0, 0)).2)
  let gs := here.flatMap fun a => natToBytes 4 a.2.2.2.toNat
  pad64 (recordHead (i * 2 ^ 22 + here.length * 2 ^ 17) skein gen ++
    (halves ++ List.replicate (32 - halves.length) 0) ++ List.replicate 16 0 ++
    (gs ++ List.replicate (64 - gs.length) 0) ++ payloadBytes (cPayFmt e) act)

/-- Owner of the half's row i: skein and generation. -/
def rowOwner (c : Nat) (e : List W32) (i : Nat) (s : State) : Nat × Nat :=
  match (stepOf c s).bind fun st => rowPart st.batch (cRowBase e + i) with
  | some b => (b.skein, (sk b.skein s).gen.toNat)
  | none => (0, 0)

/-- Selects, applies capacity and sends (R255 to R259). -/
def routeRows (e : EntryRef) (d : Disp) (x : XMap) (me score act : Nat) (bad : List Nat) (s : State) : State :=
  let c := e.ctx.toNat
  let w := d.words
  let rows := cardRows w
  let scores := (List.range rows).map fun i => fpRow (score + i * rowStride x.experts) x.experts bad s
  let pois := (List.range rows).filter fun i => (scores.getD i []).any fun v => !fpIsFinite v
  let sel := (List.range rows).map fun i => if pois.contains i then [] else gates w (scores.getD i [])
  let all := (List.range (cTopk w)).flatMap fun j => (List.range rows).filterMap fun i =>
    ((sel.getD i [])[j]?).map fun g => (i, j, g.1, g.2)
  let kept := keep (capacity w rows x.experts) all []
  let dropped := all.length - kept.length
  let s := if pois.isEmpty then s
    else bump64 (CRD_CNT 8) pois.length (crdErr CRD_ERR_NONFINITE_SCORE c (eSlot w) s)
  let s := bump64 (CRD_CNT 0) rows (bump64 (CRD_CNT 1) kept.length (bump64 (CRD_CNT 2) dropped s))
  let s := bump64 (CRD_CTX_DROP c) dropped s
  let acts := (List.range rows).map fun i => fpRow (act + i * rowStride (hidden w)) (hidden w) bad s
  let owners := (List.range rows).map fun i => rowOwner c w i s
  let lists (n : Nat) : List (List Byte) := (List.range rows).filterMap fun i =>
    let mine := kept.filter fun a => a.1 == i
    if mine.any fun a => (x.table.getD a.2.2.1 (0, 0)).1 == n then
      some (dispatchRecord w x (acts.getD i []) i n (owners.getD i (0, 0)).1 (owners.getD i (0, 0)).2 mine)
    else none
  let s := setDisp e { d with st := .done, poisoned := pois } s
  sendLists w c 0 me lists (rankedNodes x) s

def route (e : EntryRef) (env : UnitEnv) (s : State) : State :=
  match cardReady e 0 s with
  | none => s
  | some d =>
    let c := e.ctx.toNat
    let w := d.words
    let x := cardMap c w s
    let rows := cardRows w
    match myRank x s, cardArea c (cRef w 5) (rows * rowStride x.experts) s,
        cardArea c (cRef w 6) (rows * rowStride (hidden w)) s with
    | none, _, _ => doneEntry e s
    | some me, some score, some act =>
      let s := memEnv env s
      routeRows e d x me score act (badStaples env s) (bump64 (CRD_CNT 9) env.busyNs s)
    | _, _, _ => badAddrOpen c none s

/-! ### Arrivals -/

/-- What the slot of rank n holds for a half: not arrived, a message of this exchange, or one of another context or map
(R252). -/
inductive Arrival where
  | missing | here | mismatch
  deriving DecidableEq, Repr

def arrival (c : Nat) (e : List W32) (kind n at_ : Nat) (s : State) : Arrival :=
  let x := cardMap c e s
  let w0 := rdNat at_ 4 s
  let w1 := rdNat (at_ + 4) 4 s
  let w2 := rdNat (at_ + 8) 4 s
  let open_ : Bool := s.gld.landings.any fun l => l.window == 0xF80 + 2 * c + kind && l.src == x.nodes.getD n 0
  if open_ || w0 != stepLow c s * 2 ^ 12 + cLayer e || w1 / 2 ^ 31 != cHalf e || w1 / 2 ^ 30 % 2 != kind
  then .missing
  else if w1 / 2 ^ 24 % 64 != c || w2 / 2 ^ 16 != x.tag then .mismatch
  else if w1 % 1024 != x.nodes.getD n 0 then .missing
  else .here

/-- The records of a slot whose message has arrived: byte offsets within the slot. -/
def slotRecords (at_ size : Nat) (s : State) : List Nat :=
  (List.range (rdNat (at_ + 8) 2 s)).map fun i => 64 + i * size

/-- Size of a dispatch record and of a return record. -/
def dispatchSize (e : List W32) : Nat :=
  (128 + (if cPayFmt e = 8 then 2 * hidden e else hidden e + cHiddenBlk e) + 63) / 64 * 64
def returnSize (e : List W32) : Nat := (64 + (if cRetFp32 e then 4 else 2) * hidden e + 63) / 64 * 64

/-- Runs `go` once every node's message has arrived; a mismatch faults the context, a missing message leaves the entry
waiting. -/
def whenArrived (e : EntryRef) (d : Disp) (kind area : Nat) (go : State → State) (s : State) : State :=
  let c := e.ctx.toNat
  let x := cardMap c d.words s
  let got := (List.range x.nodes.length).map fun n => arrival c d.words kind n (area + n * cSlotBytes d.words) s
  if got.contains .mismatch then faultCtx c cfCard none (crdErr CRD_ERR_MAP_MISMATCH c (eSlot d.words) s)
  else if got.contains .missing then setDisp e { d with st := .quantised } s
  else go s

/-! ### GATHER (R262, R263) -/

/-- Every halfword of every dispatch record in the order of R262: (rank, record offset, local expert, position in the
record). -/
def dispatched (c : Nat) (e : List W32) (land : Nat) (s : State) : List (Nat × Nat × Nat × Nat) :=
  (List.range (cardMap c e s).nodes.length).flatMap fun n =>
    let at_ := land + n * cSlotBytes e
    (slotRecords at_ (dispatchSize e) s).flatMap fun o =>
      (List.range (rdNat (at_ + o) 4 s / 2 ^ 17 % 32)).map fun j => (n, o, rdNat (at_ + o + 16 + 2 * j) 2 s % 4096, j)

/-- The records of the batch-dependent patches that a GATHER of a layer and half supplies. DESIGN CHOICE: no producer stands
for another source, so an EVENT record of one is never applied and its entry does not start (log 127). -/
def wantsRoute (layer half : Nat) (d : Disp) (p : W64) : Bool :=
  let w := d.words
  let l := if eKind w = kTensor || eKind w = kVector then eLayer w else if eKind w = kReef then rLayer w
    else if eKind w = kCard then cLayer w else layer
  pSource p == 4 && pArg p / 4096 % 2 == half && l == layer

def gatherDone (e : EntryRef) (d : Disp) (land idx : Nat) (s : State) : State :=
  let c := e.ctx.toNat
  let w := d.words
  let x := cardMap c w s
  let l := dispatched c w land s
  let mine := (localsOf x ((myRank x s).getD 0)).length
  let ofExpert (k : Nat) : List (Nat × Nat × Nat × Nat) := l.filter fun r => r.2.2.1 == k
  if l.any fun r => (ofExpert r.2.2.1).length > cExpRows w then
    faultCtx c cfCard none (crdErr CRD_ERR_EXP_OVERFLOW c (eSlot w) s)
  else
    let s := (List.range mine).foldl (fun s k =>
      wrMerge (idx + k * cExpRows w * 4) ((ofExpert k).flatMap fun r => natToBytes 4 (r.1 * 2 ^ 25 + r.2.1 / 64)) false s) s
    let none_ := ((List.range mine).filter fun k => (ofExpert k).isEmpty).length
    let s := bump64 (CRD_CNT 7) none_ (setDisp e { d with st := .done } s)
    applyPatches c e.phase.toNat 2 (fun k h => if h = cHalf w then (ofExpert k).length else 0)
      (wantsRoute (cLayer w) (cHalf w)) s

def gather (e : EntryRef) (env : UnitEnv) (s : State) : State :=
  match cardReady e 1 s with
  | none => s
  | some d =>
    let c := e.ctx.toNat
    let w := d.words
    let x := cardMap c w s
    let mine := (localsOf x ((myRank x s).getD 0)).length
    match cardArea c (cRef w 7) (x.nodes.length * cSlotBytes w) s, cardArea c (cRef w 9) (mine * cExpRows w * 4) s with
    | some land, some idx =>
      whenArrived e d 0 land (fun s => gatherDone e d land idx (bump64 (CRD_CNT 9) env.busyNs (memEnv env s))) s
    | _, _ => badAddrOpen c none s

/-! ### RETURN (R266) -/

/-- Every expert tile of a layer and half is final. -/
def expertsDone (c layer half : Nat) (s : State) : Bool :=
  match stepOf c s with
  | none => true
  | some st => st.lists.all fun l =>
      match phaseOf c l.1 s with
      | none => true
      | some p =>
        let t := templateOf (ctx c s).weave p
        (List.range l.2.length).all fun i =>
          match l.2[i]?, expertOf t i with
          | some d, some x =>
            let k := eKind d.words
            d.st == .done || idle d || x.2.1 != half || (k != kTensor && k != kVector) || eLayer d.words != layer
          | _, _ => true

/-- Row `i` of local expert k's output: values, and whether it is poisoned or holds a NaN. -/
def expertOut (e : List W32) (out k i : Nat) (bad : List Nat) (s : State) : List W32 × Bool :=
  let h := hidden e
  let size := if cExpFp32 e then 4 else 2
  let a := out + (k * cExpRows e + i) * h * size
  let vs := if cExpFp32 e then (List.range h).map fun j => rdWord (a + 4 * j) s
    else (List.range h).map fun j => bf16ToFp (BitVec.ofNat 16 (rdNat (a + 2 * j) 2 s))
  (vs, (staplesOf a (h * size)).any bad.contains || vs.any fpIsNan)

/-- The partial of a dispatch record: expert rows with their gates in ascending rank. -/
def partialSum (h : Nat) : List (W32 × List W32) → List W32
  | [] => List.replicate h 0
  | (g, y) :: rest =>
    rest.foldl (fun p t => (p.zip t.2).map fun q => fpFma t.1 q.2 q.1) (y.map fun v => fpMul g v)

/-- The return record of a dispatch record at `at_`; `rowsOf` gives each halfword's local expert and row. -/
def returnRecord (e : List W32) (out at_ : Nat) (parts : List (Nat × Nat)) (bad : List Nat) (s : State) : List Byte :=
  let n := parts.length
  let terms := (List.range n).map fun j =>
    let p := parts.getD j (0, 0)
    (rdWord (at_ + 64 + 4 * j) s, expertOut e out p.1 p.2 bad s)
  let sum := partialSum (hidden e) (terms.map fun t => (t.1, t.2.1))
  let pois : Bool := terms.any (fun t => t.2.2) || sum.any fpIsNan
  let vals := if pois then List.replicate (hidden e) fpQnanStd else sum
  let body := if cRetFp32 e then vals.flatMap fun v => natToBytes 4 v.toNat
    else vals.flatMap fun v => natToBytes 2 (fpToBf16 v).toNat
  pad64 (natToBytes 4 (rdNat at_ 4 s / 2 ^ 22 * 2 ^ 22 + n * 2 ^ 17 + pois.toNat * 2 ^ 16) ++ rdBytes (at_ + 4) 8 s ++
    List.replicate 52 0 ++ body)

/-- A list with, for each halfword, its row in its expert's list. -/
def withRows (l : List (Nat × Nat × Nat × Nat)) : List ((Nat × Nat) × Nat × Nat) :=
  (List.range l.length).map fun i =>
    let r := l.getD i (0, 0, 0, 0)
    ((r.1, r.2.1), r.2.2.1, ((l.take i).filter fun q => q.2.2.1 == r.2.2.1).length)

def returnEntry (e : EntryRef) (env : UnitEnv) (s : State) : State :=
  match cardReady e 2 s with
  | none => s
  | some d =>
    let c := e.ctx.toNat
    let w := d.words
    let x := cardMap c w s
    let mine := (localsOf x ((myRank x s).getD 0)).length
    let outLen := mine * cExpRows w * hidden w * (if cExpFp32 w then 4 else 2)
    match myRank x s, cardArea c (cRef w 7) (x.nodes.length * cSlotBytes w) s, cardArea c (cRef w 10) outLen s with
    | none, _, _ => doneEntry e s
    | some me, some land, some out =>
      if !expertsDone c (cLayer w) (cHalf w) s then s
      else
        let s := memEnv env s
        let bad := badStaples env s
        let l := withRows (dispatched c w land s)
        let lists (n : Nat) : List (List Byte) :=
          (slotRecords (land + n * cSlotBytes w) (dispatchSize w) s).map fun o =>
            returnRecord w out (land + n * cSlotBytes w + o) ((l.filter fun r => r.1 == (n, o)).map (·.2)) bad s
        let s := setDisp e { d with st := .done } (bump64 (CRD_CNT 9) env.busyNs s)
        sendLists w c 1 me lists (rankedNodes x) s
    | _, _, _ => badAddrOpen c none s

/-! ### COMBINE (R267, R268) -/

/-- Why a return record is not kept: its skein no longer owns the row, or its skein is CANCELLING or FAULTED. -/
def staleReturn (skein gen : Nat) (s : State) : Bool := (sk skein s).gen.toNat != gen
def cancelledReturn (skein : Nat) (s : State) : Bool :=
  let k := sk skein s
  k.state == .cancelling || k.state == .faulted

/-- A return record: row, skein, generation, poison, values. -/
def returnAt (e : List W32) (at_ : Nat) (bad : List Nat) (s : State) : Nat × Nat × Nat × Bool × List W32 :=
  let w0 := rdNat at_ 4 s
  let vals := if cRetFp32 e then (List.range (hidden e)).map fun j => rdWord (at_ + 64 + 4 * j) s
    else (List.range (hidden e)).map fun j => bf16ToFp (BitVec.ofNat 16 (rdNat (at_ + 64 + 2 * j) 2 s))
  (w0 / 2 ^ 22, rdNat (at_ + 4) 4 s / 2 ^ 14, rdNat (at_ + 8) 4 s / 2 ^ 16,
   w0 / 2 ^ 16 % 2 == 1 || (staplesOf at_ (returnSize e)).any bad.contains, vals)

/-- Rows that the ROUTE of the layer and half found poisoned (R256). -/
def routePoison (c layer half : Nat) (s : State) : List Nat :=
  match stepOf c s with
  | none => []
  | some st => (st.lists.flatMap (·.2)).flatMap fun d =>
      if eKind d.words == kCard && cOp d.words == 0 && cLayer d.words == layer && cHalf d.words == half then d.poisoned else []

def combineRows (e : EntryRef) (d : Disp) (rland act : Nat) (bad : List Nat) (s : State) : State :=
  let c := e.ctx.toNat
  let w := d.words
  let recs := (List.range (cardMap c w s).nodes.length).flatMap fun n =>
    (slotRecords (rland + n * cSlotBytes w) (returnSize w) s).map fun o => returnAt w (rland + n * cSlotBytes w + o) bad s
  let stale := recs.filter fun r => staleReturn r.2.1 r.2.2.1 s
  let gone := recs.filter fun r => !staleReturn r.2.1 r.2.2.1 s && cancelledReturn r.2.1 s
  let kept := recs.filter fun r => !staleReturn r.2.1 r.2.2.1 s && !cancelledReturn r.2.1 s
  let pois := routePoison c (cLayer w) (cHalf w) s
  let s := bump64 (CRD_CNT 5) stale.length (bump64 (CRD_CNT 6) gone.length s)
  let s := (List.range (cardRows w)).foldl (fun s i =>
    let mine := kept.filter fun r => r.1 == i
    let row := if pois.contains i || mine.any (fun r => r.2.2.2.1) then List.replicate (hidden w) fpQnanStd
      else mine.foldl (fun a r => (a.zip r.2.2.2.2).map fun q => fpAdd q.1 q.2) (List.replicate (hidden w) 0)
    wrMerge (act + i * rowStride (hidden w)) (row.flatMap fun v => natToBytes 4 v.toNat) false s) s
  setDisp e { d with st := .done } s

def combine (e : EntryRef) (env : UnitEnv) (s : State) : State :=
  match cardReady e 3 s with
  | none => s
  | some d =>
    let c := e.ctx.toNat
    let w := d.words
    let x := cardMap c w s
    match cardArea c (cRef w 8) (x.nodes.length * cSlotBytes w) s,
        cardArea c (cRef w 6) (cardRows w * rowStride (hidden w)) s with
    | some rland, some act =>
      whenArrived e d 1 rland
        (fun s =>
          let s := memEnv env s
          combineRows e d rland act (badStaples env s) (bump64 (CRD_CNT 9) env.busyNs s)) s
    | _, _ => badAddrOpen c none s

/-! ### CRD_STATUS -/

def crdStatus (s : State) : Nat :=
  let b (h : Nat) : Nat := (cardWaits h s).isSome.toNat
  let who := match cardWaits 0 s with
    | some c => some c
    | none => cardWaits 1 s
  b 0 * 2 ^ 31 + b 1 * 2 ^ 30 + b 0 * 2 ^ 29 + b 1 * 2 ^ 28 +
    match who with
    | some c => c * 2 ^ 22 + 2 ^ 21
    | none => 0

/-! ### Meanings -/

def execRoute (e : EntryRef) (env : UnitEnv) (s : State) : Host.Outcome State Fault Refusal := run (route e env) s
def execGather (e : EntryRef) (env : UnitEnv) (s : State) : Host.Outcome State Fault Refusal := run (gather e env) s
def execRet (e : EntryRef) (env : UnitEnv) (s : State) : Host.Outcome State Fault Refusal := run (returnEntry e env) s
def execCombine (e : EntryRef) (env : UnitEnv) (s : State) : Host.Outcome State Fault Refusal := run (combine e env) s

end Sys2Proof.Machine
end

