-- ==== Sys2Proof/Machine/Reef.lean ====
section
/-! DEFINITION. Machine/Reef.lean: REEF entries on the reef engines: keys and values in pages and bobbins, appends, forward
rows, backward recompute, completion words and failures (R155 to R182, R186, R197, R205, R206). -/

namespace Sys2Proof.Machine

/-! ### Errors -/

def reefErr (f : FRef) (a c slot : Nat) (s : State) : State :=
  raiseErr f (REEF_ERR_INFO a) [(REEF_ERR_INFO_CONTEXT a, c), (REEF_ERR_INFO_SLOT a, slot)] s

/-- A KV or directory staple fails at a read of engine a (R178, R183). -/
def reefStaple (a c slot : Nat) (p : Nat × Bool) (s : State) : State :=
  let s := reefErr (if p.2 then REEF_ERR_DIR_FAULT a else REEF_ERR_STAPLE_CRC a) a c slot (bump32 (REEF_CNT_STAPLE a) 1 s)
  if bit (REEF_STAPLE_ADDR_VALID a) s then s
  else setFlds [(REEF_STAPLE_ADDR_STAPLE a, p.1 / 4096), (REEF_STAPLE_ADDR_DIR a, p.2.toNat), (REEF_STAPLE_ADDR_VALID a, 1)] s

/-! ### Slabs (R186) -/

/-- Staples of the element region of a slab of t token slots. -/
def elemStaples (f : Fmt) (d h t : Nat) : Nat := (2 * h * t * d * fmtWidth f / 8 + 4095) / 4096
def scaleStaples (f : Fmt) (d h t : Nat) : Nat := if fmtScaled f then (2 * h * t * d / 16 + 4095) / 4096 else 0
/-- S: staples of a slab. -/
def slabStaples (f : Fmt) (d h t : Nat) : Nat := elemStaples f d h t + scaleStaples f d h t

/-- One stored token: position, slab address of the layer, slots of the frame, slot. -/
structure TokRef where
  pos : Nat
  slab : Nat
  t : Nat
  slot : Nat
  deriving DecidableEq, Repr

/-- Shape of the stored vectors: format, head dimension, KV heads. -/
structure KvShape where
  f : Fmt
  d : Nat
  h : Nat
  deriving DecidableEq, Repr

/-- First block of a token's vector: kind 0 key, 1 value. -/
def kvBlock (k : KvShape) (t : TokRef) (kind head : Nat) : Nat := ((kind * k.h + head) * t.t + t.slot) * (k.d / 16)

/-- Addresses and lengths of a vector's elements and scales. -/
def kvElems (k : KvShape) (t : TokRef) (kind head : Nat) : Nat × Nat :=
  (t.slab + kvBlock k t kind head * (2 * fmtWidth k.f), k.d / 16 * (2 * fmtWidth k.f))
def kvScales (k : KvShape) (t : TokRef) (kind head : Nat) : Nat × Nat :=
  (t.slab + elemStaples k.f k.d k.h t.t * 4096 + kvBlock k t kind head, k.d / 16)

/-- Every byte range of a token in a layer. -/
def tokRanges (k : KvShape) (t : TokRef) : List (Nat × Nat) :=
  (List.range 2).flatMap fun kind => (List.range k.h).flatMap fun head =>
    kvElems k t kind head :: (if fmtScaled k.f then [kvScales k t kind head] else [])

/-- Decodes a stored vector (R165): FP32 elements, none when a block is poisoned. A BF16 element stands for itself. -/
def kvVec (k : KvShape) (ts : W32) (t : TokRef) (kind head : Nat) (s : State) : Option (List W32) :=
  let ea := (kvElems k t kind head).1
  if !fmtScaled k.f then
    some ((List.range k.d).map fun i => bf16ToFp (BitVec.ofNat 16 (rdNat (ea + 2 * i) 2 s)))
  else
    let sa := (kvScales k t kind head).1
    (List.range (k.d / 16)).foldl (fun acc b =>
      match acc with
      | none => none
      | some l =>
        let blk := decodeBlk k.f (unpackCodes (fmtWidth k.f) (rdBytes (ea + b * (2 * fmtWidth k.f)) (2 * fmtWidth k.f) s) 16)
          (rdNat (sa + b) 1 s)
        if blk.poison then none
        else if blk.null then some (l ++ List.replicate 16 0)
        else some (l ++ blk.vals.map fun v => roundVal (mulVal (fpVal ts) (mulVal blk.scale v)))) (some [])

/-- Stores a vector: quantised under R30 with round to nearest even, or converted to BF16. -/
def kvPut (k : KvShape) (ts : W32) (t : TokRef) (kind head : Nat) (v : List W32) (s : State) : State :=
  let ea := (kvElems k t kind head).1
  if !fmtScaled k.f then wrMerge ea (v.flatMap fun x => natToBytes 2 (fpToBf16 x).toNat) false s
  else
    let sa := (kvScales k t kind head).1
    (List.range (k.d / 16)).foldl (fun s b =>
      let q := quantBlock k.f ts ((v.drop (16 * b)).take 16) none
      wrMerge (sa + b) [BitVec.ofNat 8 q.scale] false
        (wrMerge (ea + b * (2 * fmtWidth k.f)) (packCodes (fmtWidth k.f) q.codes) false s)) s

/-! ### Tokens that an engine holds (R163, R192, R205) -/

/-- Tokens of directory h in atoll a under generation g, in a layer. A FLUSHING bobbin is attended in its slots 0 to 255. -/
def heldToks (h a layer : Nat) (k : KvShape) (g : W16) (s : State) : List TokRef :=
  let d := dir h s
  let slab (base t : Nat) : Nat := base + layer * slabStaples k.f k.d k.h t * 4096
  let pages := d.ents.flatMap fun e =>
    if e.2.atoll = a && visible e.2.addGen e.2.dropGen e.2.dropped g then
      (List.range 256).map fun i =>
        ({ pos := 256 * (d.firstPage + e.1) + i, slab := slab (pageAddr a d.cls e.2.frame s) 256, t := 256, slot := i } : TokRef)
    else []
  let bobs := d.bobbins.flatMap fun b =>
    if b.atoll = a && visible b.addGen b.dropGen b.dropped g then
      (List.range (if b.state == .flushing then 256 else 320)).map fun i =>
        ({ pos := 256 * b.basePage + i, slab := slab (bobAddr a d.cls b.frame s) 320, t := 320, slot := i } : TokRef)
    else []
  pages ++ bobs

/-- Visibility of position j to a query at position p (R162). -/
def seesPos (window sink p j : Nat) : Bool := j ≤ p && (window == 0 || p - j < window || j < sink)

/-- Directory staples of a sequence in atoll a. -/
def dirStaples (h a : Nat) (s : State) : List Nat := headStaple a h :: (dir h s).leaves.map fun l => leafStaple a l s

/-- Failing staples among those of tokens and of the directory: address, and whether a directory staple. -/
def badKv (k : KvShape) (toks : List TokRef) (dirs : List Nat) (env : UnitEnv) (s : State) : List (Nat × Bool) :=
  let bad := (badStaples env s).eraseDups
  bad.filterMap fun p =>
    if dirs.contains p then some (p, true)
    else if toks.any fun t => (tokRanges k t).any fun r => r.1 < p + 4096 && p < r.1 + r.2 then some (p, false)
    else none

/-! ### Entries -/

def shapeKv (e : List W32) : KvShape := { f := (fmtOfCode (rFmt e)).getD .fp32, d := rDim e, h := rKvHeads e }

/-- The rank of an engine (R161). -/
def engineRank (e : List W32) (a : Nat) : Nat := ((List.range a).filter fun i => (rMask e).testBit i).length

/-- Frequencies of an entry (R164). -/
def freqs (e : List W32) (s : State) : List W32 :=
  if rRope e = 1 then (List.range (rRotPairs e)).map fun i => ropeFreq (rRopeBase e) (rRopeScale e) (rRotPairs e) i
  else if rRope e = 2 then
    (List.range (rRotPairs e)).map fun i => rdWord (lagoonBase (rQSpindle e) + rRopeTab e + 4 * i) s
  else []

/-- Address of row r of the query block. -/
def qRow (e : List W32) (r : Nat) : Nat := lagoonBase (rQSpindle e) + rQOff e + r * (16 + rQh e * rDim e * 4)

def rowStep (e : List W32) (r : Nat) (s : State) : Nat := rdNat (qRow e r) 4 s / 2 ^ 12
def rowSpec (e : List W32) (r : Nat) (s : State) : Nat := rdNat (qRow e r) 4 s % 256
def specOk (x : Nat) : Bool := x == 0xFF || x ≤ 0x3F

/-- The skein of the home package that a shard directory serves: node, number and generation (R209). Nothing of a result
depends on the head granule that the directory got (R181). -/
def homeSkein (h : Nat) (s : State) : Nat :=
  ((dir h s).home * 2 ^ 18 + (dir h s).skein) * 2 ^ 16 + (dir h s).skeinGen.toNat

/-- A sequence as an entry's row names it: directory, and L of R162; a row of a prefill slice stands for its own token. On
a package that is not the home package the manual does not say which shard directory a row uses, nor where L comes from;
L lies beyond the shard's range (log 34). -/
def rowSeq (c : Nat) (e : List W32) (r : Nat) (s : State) : Option (Nat × Nat) :=
  if rShard e = rShardsM1 e then
    match stepOf c s with
    | none => none
    | some st => (rowPart st.batch (rRowBase e + r)).map fun b =>
      ((sk b.skein s).dir, b.base + (if b.prefill then rRowBase e + r - b.row else 0) + 1)
  else
    let hs := (dirsOf c s).filter fun h => (dir h s).shard == rShard e && (dir h s).shards1 == rShardsM1 e && !(dir h s).dropped
    let hs := sortBy (fun x y => homeSkein x s < homeSkein y s) hs
    if hs.isEmpty then none
    else
      let h := hs.getD (Config.shardRow (rRowBase e + r) % hs.length) 0
      some (h, max (256 * ((dir h s).firstPage + (dir h s).pages) + 1)
        (Config.shardLength (homeSkein h s) (rd (WV_STEP c) s).toNat % 2 ^ 24))

/-- The slot of a bobbin that takes the token of row r of an entry with APPEND: none when engine a is not the bobbin engine
of the token's bobbin (R163, R197). A slice's tokens beyond the open bobbin go into the bobbin it reserved (R202). -/
def appendSlot (c : Nat) (e : List W32) (a r : Nat) (s : State) : Option (Nat × TokRef) :=
  match rowSeq c e r s, stepOf c s with
  | some (h, len), some st =>
    let dd := dir h s
    match openBob dd with
    | none => none
    | some b =>
      let k := shapeKv e
      let spec := rowSpec e r s
      let pos := if spec = 0xFF then len - 1 else len + spec
      let at_ (atoll frame base : Nat) : Option (Nat × TokRef) :=
        if atoll != a then none
        else some (h, { pos := pos, slab := bobAddr a dd.cls frame s + rLayer e * slabStaples k.f k.d k.h 320 * 4096
                        t := 320, slot := pos - 256 * base })
      match rowPart st.batch (rRowBase e + r) with
      | some p =>
        if !p.prefill || pos / 256 = b.basePage then at_ b.atoll b.frame b.basePage
        else match sliceBob dd b p with
          | some (atoll, frame, _, base) => if pos / 256 = base then at_ atoll frame base else none
          | none => none
      | none => none
  | _, _ => none

/-- Address of row r of the new keys and values. -/
def srcRow (e : List W32) (r : Nat) : Nat := lagoonBase (rSrcSpindle e) + rSrcOff e + r * (rKvHeads e * rDim e * 8)

/-- Whether the engine appends row r and one of its source words is poisoned (R168). -/
def srcBad (c : Nat) (e : List W32) (a r : Nat) (s : State) : Bool :=
  rAppend e && (appendSlot c e a r s).isSome && lagoonFails (srcRow e r) (rKvHeads e * rDim e * 8) s

/-- Whether a word of the frequency table is poisoned. -/
def tabBad (e : List W32) (s : State) : Bool :=
  rRope e == 2 && lagoonFails (lagoonBase (rQSpindle e) + rRopeTab e) (4 * rRotPairs e) s

/-- Whether row r's query, its new keys and values, or the frequency table is a locked output: the row waits (R368). -/
def rowLocked (e : List W32) (r : Nat) (s : State) : Bool :=
  rangeLocked (qRow e r) (16 + rQh e * rDim e * 4) s ||
    (rAppend e && rangeLocked (srcRow e r) (rKvHeads e * rDim e * 8) s) ||
    (rRope e == 2 && rangeLocked (lagoonBase (rQSpindle e) + rRopeTab e) (4 * rRotPairs e) s)

/-- Whether a word of n FP32 values from address a is neither poisoned nor finite. -/
def wordsNonfinite (a n : Nat) (s : State) : Bool :=
  (List.range n).any fun i => !lagoonFails (a + 4 * i) 4 s && !fpIsFinite (rdWord (a + 4 * i) s)

/-- Whether a value that a score depends on besides the query and SCALE is not finite: a frequency, or an element of a
visible key (R161; log 110). -/
def keyNonfinite (e : List W32) (f : List W32) (toks : List TokRef) (s : State) : Bool :=
  !toks.isEmpty && (f.any (fun x => !fpIsFinite x) ||
    toks.any fun t => (List.range (rKvHeads e)).any fun h => match kvVec (shapeKv e) (rKScale e) t 0 h s with
      | some v => v.any fun x => !fpIsFinite x
      | none => false)

/-- Query head q of row r, rotated at a position; a failing lagoon word reads as NaN. -/
def qHead (e : List W32) (f : List W32) (r q pos : Nat) (s : State) : List W32 :=
  let base := qRow e r + 16 + q * rDim e * 4
  rotate (rHalfSplit e) false f pos ((List.range (rDim e)).map fun i => rdWord (base + 4 * i) s)

/-- The tokens as one KV head sees them: rotated keys and values; none when a block is poisoned. -/
def headToks (e : List W32) (f : List W32) (toks : List TokRef) (head : Nat) (s : State) : Option (List KeyTok) :=
  let k := shapeKv e
  toks.foldl (fun acc t =>
    match acc, kvVec k (rKScale e) t 0 head s, kvVec k (rVScale e) t 1 head s with
    | some l, some kv, some vv => some (l ++ [{ pos := t.pos, k := rotate (rHalfSplit e) false f t.pos kv, v := vv }])
    | _, _, _ => none) (some [])

/-- What a row of a FWD entry gives at an engine. -/
structure RowOut where
  recs : List Rec := []
  keys : Nat := 0
  staples : List (Nat × Bool) := []
  qPoison : Bool := false
  nonfinite : Bool := false
  poison : Bool := false
  deriving DecidableEq, Repr

/-- Attention of row r at engine a (R165, R166, R168, R169). A row that names no sequence here sees no key; R169 states no
lookup for it, so its EMPTY records are the model's choice (log 128). -/
def rowOut (c : Nat) (e : List W32) (a r : Nat) (env : UnitEnv) (s : State) : RowOut :=
  let d := rDim e
  let qh := rQh e
  let spec := rowSpec e r s
  let seq := rowSeq c e r s
  let len := (seq.map (·.2)).getD 1
  let p := if spec = 0xFF then len - 1 else len + spec
  let toks := match seq with
    | none => []
    | some (h, _) => (heldToks h a (rLayer e) (shapeKv e) (dir h s).gen s).filter fun t => seesPos (rWindow e) (rSink e) p t.pos
  let dirs := match seq with
    | none => []
    | some (h, _) => dirStaples h a s
  let bad := badKv (shapeKv e) toks dirs env s
  let qp := lagoonFails (qRow e r) (16 + qh * d * 4) s
  let nf := wordsNonfinite (qRow e r + 16) (qh * d) s || !fpIsFinite (rScale e)
  let f := freqs e s
  let heads := (List.range (rKvHeads e)).map fun kh => headToks e f toks kh s
  let po := !bad.isEmpty || qp || tabBad e s || srcBad c e a r s || heads.any (·.isNone)
  let kn := keyNonfinite e f toks s
  { keys := toks.length
    staples := bad
    qPoison := qp
    nonfinite := nf
    poison := po
    recs := (List.range qh).map fun q =>
      if nf || po then nanRec d (rShard e) a toks.length (nf || kn) po
      else { softRec (rShard e) a
        (attend d (rScale e) (qHead e f r q p s) ((heads.getD (q / (qh / rKvHeads e)) none).getD [])) with nonfinite := kn } }

/-- An engine's write outside its stack, held while the interface of its atoll retrains (R180). -/
def reefPut (c a addr : Nat) (bs : List Byte) (s : State) : State :=
  if fld (atollFld a) s = 1 then { s with reefHeld := s.reefHeld ++ [{ atoll := a, ctx := c, out := .bytes addr bs }] }
  else wrUnit addr bs false s

/-- Writes the records of a row (R161). -/
def putRecs (c : Nat) (e : List W32) (a r : Nat) (recs : List Rec) (s : State) : State :=
  let base := lagoonBase (rOutSpindle e) + rOutOff e + 64
  (List.range recs.length).foldl (fun s q =>
    match recs[q]? with
    | some x => reefPut c a (base + ((engineRank e a * mPlan e + r) * rQh e + q) * (16 + 4 * rDim e)) (recBytes x) s
    | none => s) s

/-- Bytes of KV that a token of a layer holds. -/
def tokBytes (k : KvShape) : Nat := 2 * k.h * (k.d * fmtWidth k.f / 8 + if fmtScaled k.f then k.d / 16 else 0)

/-- The new keys and values of row r go into the bobbin (R163, R197). -/
def appendRow (c : Nat) (e : List W32) (a r : Nat) (s : State) : State :=
  match appendSlot c e a r s with
  | none => s
  | some (h, tok) =>
    let k := shapeKv e
    let word (i : Nat) : W32 :=
      if lagoonFails (srcRow e r + 4 * i) 4 s then fpQnanStd else rdWord (srcRow e r + 4 * i) s
    let vec (kind head : Nat) : List W32 := (List.range k.d).map fun i => word ((kind * k.h + head) * k.d + i)
    let s := (List.range k.h).foldl (fun s head =>
      kvPut k (rVScale e) tok 1 head (vec 1 head) (kvPut k (rKScale e) tok 0 head (vec 0 head) s)) s
    let spec := rowSpec e r s
    match openBob (dir h s) with
    | some b => if spec = 0xFF then s else setDir h (setBob { b with spec := max b.spec (spec + 1) } (dir h s)) s
    | none => s

/-! ### Engines -/

/-- Entries in progress at engine a. -/
def engineBusy (a : Nat) (s : State) : Option (Nat × Disp) :=
  (s.ctxs.findSome? fun x => match x.2.step with
    | none => none
    | some st => ((st.lists.flatMap (·.2)).find? fun d => d.epochs.any fun p => p.1 == a).map fun d => (x.1, d))

/-- Atolls whose engines run an entry on this part. -/
def enginesOf (e : List W32) (s : State) : List Nat := (List.range 8).filter fun a => (rMask e).testBit a && atollHere s a

/-- Whether engine a may start the entry now (R156): earlier entries of its list are complete at the engine. -/
def engineReady (e : EntryRef) (op a : Nat) (s : State) : Option Disp :=
  match dispAt e s, stepOf e.ctx.toNat s with
  | some d, some st =>
    let l := lookup st.lists [] e.phase.toNat
    let before : Bool := (List.range e.idx).all fun i => match l[i]? with
      | some x => eKind x.words != kReef || !(rMask x.words).testBit a || idle x || x.st == .done || x.reefDone.contains a
      | none => true
    let open_ : Bool := if d.st == .waiting then (ready e kReef s).isSome
      else d.st == .committing && phaseOpen e.ctx.toNat e.phase.toNat s
    if eKind d.words == kReef && rOp d.words == op && (enginesOf d.words s).contains a && open_ && before &&
        !d.reefDone.contains a && (engineBusy a s).isNone && fld (atollFld a) s != 2 then some d else none
  | _, _ => none

/-- The format check at the start of an entry (R159). -/
def fmtWrong (c : Nat) (e : List W32) (s : State) : Bool :=
  let k := if rOp e = 1 && rShard e = rShardsM1 e then (sk (rRowBase e) s).ctx else c
  match (ctx k s).weave.kv with
  | some x => x.fmt != rFmt e
  | none => true

/-- Starts an entry at an engine and registers its walk (R206). -/
def reefBegin (e : EntryRef) (d : Disp) (a : Nat) (s : State) : State :=
  setDisp e { d with st := .committing, epochs := d.epochs ++ [(a, kvEpoch s)] }
    (modKv (fun v => { v with walkers := v.walkers ++ [kvEpoch s] }) s)

/-- The completion word of engine a: STATUS and the rows processed (R161). -/
def wordOf (c a status rows : Nat) (s : State) : Nat := stepLow c s * 2 ^ 44 + a * 2 ^ 40 + status * 2 ^ 32 + rows

/-- Engine a writes its completion word. -/
def reefWord (c : Nat) (w : List W32) (a status rows : Nat) (s : State) : State :=
  reefPut c a (lagoonBase (rOutSpindle w) + rOutOff w + 8 * engineRank w a) (natToBytes 8 (wordOf c a status rows s)) s

/-- Engine a abandons an entry after `rows` rows and faults its context: the completion word reads FAULT (log 95). A word that the engine holds for its
atoll's retrain (R180) outlasts what the fault drops. -/
def reefAbandon (c : Nat) (w : List W32) (f : FRef) (a rows : Nat) (s : State) : State :=
  let at_ := lagoonBase (rOutSpindle w) + rOutOff w + 8 * engineRank w a
  reefPut c a at_ (natToBytes 8 (wordOf c a 2 rows s)) (faultCtx c cfReef none (reefErr f a c (eSlot w) s))

/-- The completion word of engine a stands: the walk ends, and the entry is complete once every engine is (R161, R206). -/
def reefFinish (e : EntryRef) (a : Nat) (s : State) : State :=
  match dispAt e s with
  | none => s
  | some d =>
    let s := modKv (fun v => { v with walkers := removeOnce v.walkers (lookup d.epochs 0 a) }) (bump64 (REEF_CNT_OPS a) 1 s)
    let fin := d.reefDone ++ [a]
    setDisp e { d with epochs := d.epochs.filter fun p => p.1 != a
                       reefDone := fin
                       st := if (enginesOf d.words s).all fun b => fin.contains b then .done else d.st } s

/-- An engine ends its entry: it writes its completion word, or holds it while its atoll retrains (R161, R180). -/
def reefEnd (e : EntryRef) (a : Nat) (env : UnitEnv) (s : State) : State :=
  match dispAt e s with
  | none => s
  | some d =>
    let c := e.ctx.toNat
    let s := reefWord c d.words a (if d.reefPoison.contains a then 1 else 0) (mLive d.words) s
    let s := bump64 (REEF_CNT_BUSY_NS a) env.busyNs s
    if fld (atollFld a) s = 1 then { s with reefHeld := s.reefHeld ++ [{ atoll := a, ctx := c, out := .fin e }] }
    else reefFinish e a s

/-- What an engine held goes out, oldest first, once its atoll does not retrain (R180). An atoll that failed has faulted the
contexts concerned (R147). -/
def releaseHeld (s : State) : State :=
  let due (h : ReefHeld) : Bool := fld (atollFld h.atoll) s != 1
  (s.reefHeld.filter due).foldl (fun s h =>
    if fld (atollFld h.atoll) s = 2 then s
    else match h.out with
      | .bytes a bs => wrUnit a bs false s
      | .fin e => reefFinish e h.atoll s) { s with reefHeld := s.reefHeld.filter fun h => !due h }

/-- Whether a package address lies among the completion word and the records, in the output area of a REEF entry of c, of an
engine that has not ended the entry and whose atoll retrains: a consumer there waits for the atoll (R180). -/
def heldFor (c addr : Nat) (s : State) : Bool :=
  match stepOf c s with
  | none => false
  | some st => (st.lists.flatMap (·.2)).any fun d =>
      let w := d.words
      let lo := lagoonBase (rOutSpindle w) + rOutOff w
      eKind w == kReef && lo ≤ addr &&
        (enginesOf w s).any fun a => fld (atollFld a) s == 1 && !d.reefDone.contains a &&
          (let k := engineRank w a
           let n := mPlan w * rQh w * (16 + 4 * rDim w)
           (lo + 8 * k ≤ addr && addr < lo + 8 * k + 8) || (lo + 64 + k * n ≤ addr && addr < lo + 64 + (k + 1) * n))

/-- Engine a starts a FWD entry (R157). -/
def reefFwd (e : EntryRef) (a : Nat) (env : UnitEnv) (s : State) : State :=
  match engineReady e 0 a s with
  | none => s
  | some d =>
    let c := e.ctx.toNat
    if idle d then doneEntry e s
    else if fmtWrong c d.words s then reefAbandon c d.words (REEF_ERR_KV_FMT a) a 0 s
    else reefBegin e d a (bump64 (REEF_CNT_BUSY_NS a) env.busyNs s)

/-- Whether a carry of a sequence has not landed at engine a (R200). -/
def carryDue (q : Option (Nat × Nat)) (a : Nat) (s : State) : Bool :=
  match q with
  | some (h, _) => (dir h s).bobbins.any fun b => b.atoll == a && !b.dropped && b.carry.isSome
  | none => false

/-- Applies what a row found to flags and counters. -/
def noteRow (e : EntryRef) (a r : Nat) (o : RowOut) (s : State) : State :=
  match dispAt e s with
  | none => s
  | some d =>
    let c := e.ctx.toNat
    let slot := eSlot d.words
    let s := o.staples.foldl (fun s p => reefStaple a c slot p s) s
    let s := if o.qPoison then reefErr (REEF_ERR_Q_POISON a) a c slot s else s
    let s := if o.nonfinite then reefErr (REEF_ERR_NONFINITE_Q a) a c slot s else s
    let row := rRowBase d.words + r
    let s := modStep c (fun st => { st with
      kvPoison := if o.staples.isEmpty then st.kvPoison else addOnce st.kvPoison row }) s
    modDisp e (fun d => { d with reefPoison := if o.poison then addOnce d.reefPoison a else d.reefPoison }) s

/-- Engine a starts row r of its FWD entry (R160, R163, R179): rows in ascending order, each once its STEP matches, no carry is
outstanding at the engine (R200) and its inputs are not locked (R368). The last live row ends the entry. -/
def reefRow (e : EntryRef) (a r : Nat) (env : UnitEnv) (s : State) : State :=
  match dispAt e s with
  | none => s
  | some d =>
    let c := e.ctx.toNat
    let w := d.words
    if rOp w != 0 || !(d.epochs.any fun p => p.1 == a) || lookup d.reefRows 0 a != r || rowStep w r s != stepLow c s ||
        carryDue (rowSeq c w r s) a s || rowLocked w r s || fld (atollFld a) s = 2 then s
    else if !specOk (rowSpec w r s) then reefAbandon c w (REEF_ERR_DIR_FAULT a) a r s
    else
      let s := lagoonEnv (rQSpindle w) env s
      let s := if rAppend w then appendRow c w a r s else s
      let o := rowOut c w a r env s
      let s := noteRow e a r o (putRecs c w a r o.recs s)
      let s := bump64 (REEF_CNT_KEYS a) (o.keys * rKvHeads w) (bump64 (REEF_CNT_BYTES a) (o.keys * tokBytes (shapeKv w)) s)
      let s := bump32 (REEF_CNT_EMPTY a) ((o.recs.filter (·.empty)).length) s
      let s := modDisp e (fun d => { d with reefRows := put d.reefRows 0 a (r + 1) }) s
      if r + 1 = mLive w then reefEnd e a env s else bump64 (REEF_CNT_BUSY_NS a) env.busyNs s

/-! ### Backward recompute (R175 to R177) -/

/-- Address of row r of the gradient block. -/
def gradRow (e : List W32) (r : Nat) : Nat := lagoonBase (rSrcSpindle e) + rSrcOff e + r * (16 + rQh e * (rDim e + 2) * 4)

/-- Whether an input of row r of a BWD entry is a locked output (R368). -/
def bwdLocked (e : List W32) (r : Nat) (s : State) : Bool :=
  rowLocked e r s || rangeLocked (gradRow e r) (16 + rQh e * (rDim e + 2) * 4) s

/-- The heads of row r of a BWD entry; failing lagoon words read as NaN. -/
def bwdHead (e : List W32) (f : List W32) (r q : Nat) (s : State) : BwdHead :=
  let d := rDim e
  let pos := rdNat (qRow e r + 4) 4 s % 2 ^ 24
  let rdW (a : Nat) : W32 := if lagoonFails a 4 s then fpQnanStd else rdWord a s
  let g := gradRow e r + 16 + q * (d + 2) * 4
  { q := rotate (rHalfSplit e) false f pos ((List.range d).map fun i => rdW (qRow e r + 16 + (q * d + i) * 4))
    dO := (List.range d).map fun i => rdW (g + 4 * i)
    dd := rdW (g + 4 * d)
    lse := rdW (g + 4 * d + 4)
    pos := pos }

/-- The region a BWD entry writes its gradients to: one the context may write (R177). -/
def gradRegion (c : Nat) (e : List W32) (s : State) : Option Region :=
  match find? (ctx c s).bound (rGradWreg e) with
  | none => none
  | some r =>
    let g := region r s
    if g.kind == kScratch || (g.kind == kAdapter && tuning c s) then some g else none

/-- A token as a BWD entry uses it: NaN where a staple of it fails or one of its blocks is poisoned (R33, R178, log 96). -/
def bwdTok (e : List W32) (f : List W32) (bad : List (Nat × Bool)) (t : TokRef) (head : Nat) (s : State) : KeyTok :=
  let nan := List.replicate (rDim e) fpQnanStd
  let fails : Bool := bad.any fun p => !p.2 && (tokRanges (shapeKv e) t).any fun r => r.1 < p.1 + 4096 && p.1 < r.1 + r.2
  match fails, headToks e f [t] head s with
  | false, some (x :: _) => x
  | _, _ => { pos := t.pos, k := nan, v := nan }

/-- Writes the gradients of one token; false once a write left the region. -/
def putGrad (c : Nat) (e : List W32) (a head j : Nat) (g : List W32 × List W32) (acc : Bool × State) : Bool × State :=
  if !acc.1 then acc
  else
    let s := acc.2
    let d := rDim e
    let off := rGradOff e + (head * rGradStride e * 256 + j) * 8 * d
    match gradRegion c e s with
    | some rg =>
      if off + 8 * d ≤ rg.size then
        (true, reefPut c a (rg.base + off) ((g.1 ++ g.2).flatMap fun x => natToBytes 4 x.toNat) s)
      else (false, badAddr c (rg.base + off) none (reefErr (REEF_ERR_GRAD_RANGE a) a c (eSlot e) s))
    | none => (false, badAddrOpen c none (reefErr (REEF_ERR_GRAD_RANGE a) a c (eSlot e) s))

/-- The sequence of a BWD entry: its directory and the length up to which it has gradients. On the home package its skein is
ROW_BASE of the skein table; elsewhere its shard directory names that skein of the home package (R173, R175), and the
pages of the range hold committed tokens only. -/
def bwdSeq (c : Nat) (e : List W32) (s : State) : Option (Nat × Nat) :=
  if rShard e = rShardsM1 e then some ((sk (rRowBase e) s).dir, (sk (rRowBase e) s).length)
  else ((dirsOf c s).find? fun h => (dir h s).skein == rRowBase e && (dir h s).shard == rShard e &&
      (dir h s).shards1 == rShardsM1 e && !(dir h s).dropped).map fun h =>
    (h, 256 * ((dir h s).firstPage + (dir h s).pages))

/-- Query position of row r of a BWD entry, and whether the row sees position j. -/
def bwdPos (w : List W32) (r : Nat) (s : State) : Nat := rdNat (qRow w r + 4) 4 s % 2 ^ 24
def bwdSees (w : List W32) (r j : Nat) (s : State) : Bool := seesPos (rWindow w) (rSink w) (bwdPos w r s) j

/-- Tokens of the sequence of a BWD entry that engine a holds. -/
def bwdHeld (c : Nat) (w : List W32) (a : Nat) (s : State) : List TokRef :=
  match bwdSeq c w s with
  | none => []
  | some (h, len) => (heldToks h a (rLayer w) (shapeKv w) (dir h s).gen s).filter fun t => t.pos < len

/-- The query gradient records of row r of a BWD entry at engine a (R168, R175, R176, R178). A row that sees nothing, or
whose lse is that of an empty row, has a gradient of +0 (R169). -/
def bwdRow (c : Nat) (w : List W32) (a r : Nat) (env : UnitEnv) (s : State) : RowOut :=
  let dim := rDim w
  let qh := rQh w
  let f := freqs w s
  let dirs : List Nat := match bwdSeq c w s with
    | some (h, _) => dirStaples h a s
    | none => []
  let vis := (bwdHeld c w a s).filter fun t => bwdSees w r t.pos s
  let nk := vis.length
  let bad := badKv (shapeKv w) vis dirs env s
  let qp := lagoonFails (qRow w r) (16 + qh * dim * 4) s || lagoonFails (gradRow w r) (16 + qh * (dim + 2) * 4) s
  let nf := wordsNonfinite (qRow w r + 16) (qh * dim) s || !fpIsFinite (rScale w)
  let po := qp || tabBad w s || !bad.isEmpty || (List.range (rKvHeads w)).any fun kh => (headToks w f vis kh s).isNone
  let kn := keyNonfinite w f vis s
  { keys := nk, staples := bad, qPoison := qp, nonfinite := nf, poison := po
    recs := (List.range qh).map fun q =>
      if nf || po then nanRec dim (rShard w) a nk (nf || kn) po
      else
        let hd := bwdHead w f r q s
        let toks := vis.map fun t => bwdTok w f bad t (q / (qh / rKvHeads w)) s
        { m := 0, l := 0, keys := nk, shard := rShard w, atoll := a, nonfinite := kn, empty := nk == 0
          vals := if nk = 0 || hd.lse = fpNegInf then List.replicate dim 0
                  else rotate (rHalfSplit w) true f hd.pos (dqHead dim (rScale w) hd toks) } }

/-- The heads of KV head kh whose rows see token t, in row and head order; a row of an empty result adds nothing (R176). -/
def bwdVis (w : List W32) (f : List W32) (kh : Nat) (t : KeyTok) (s : State) : List BwdHead :=
  let grp := rQh w / rKvHeads w
  ((List.range (mLive w)).flatMap fun r =>
    if bwdSees w r t.pos s then (List.range grp).map fun i => bwdHead w f r (kh * grp + i) s else []).filter
      fun h => h.lse != fpNegInf

/-- The gradients of the tokens that engine a holds (R176, R177): +0 for a token that no row sees. False once a write left
the region. -/
def bwdGrads (c : Nat) (w : List W32) (a : Nat) (env : UnitEnv) (s : State) : Bool × State :=
  let dim := rDim w
  let f := freqs w s
  let held := bwdHeld c w a s
  let bad := badKv (shapeKv w) held [] env s
  (List.range (rKvHeads w)).foldl (fun acc kh => held.foldl (fun acc t =>
    let t := bwdTok w f bad t kh s
    let hs := bwdVis w f kh t s
    let g := dkvTok dim (rScale w) hs t
    let dk := if hs.isEmpty then List.replicate dim 0 else rotate (rHalfSplit w) true f t.pos g.1
    putGrad c w a kh t.pos (dk, g.2) acc) acc) (true, s)

/-- REEF_CNT_KEYS and REEF_CNT_BYTES count each token that the engine holds once for the entry: R182 does not say how a BWD
entry counts (log 129). Engine a runs a BWD entry whose rows have all arrived, once no carry of the sequence is outstanding at the engine and no
input is locked (R175, R176, R200, R368). -/
def reefBwd (e : EntryRef) (a : Nat) (env : UnitEnv) (s : State) : State :=
  match engineReady e 1 a s with
  | none => s
  | some d =>
    let c := e.ctx.toNat
    let w := d.words
    let n := mLive w
    let ready_ : Bool := (List.range n).all fun r => rowStep w r s == stepLow c s && rdNat (gradRow w r) 4 s / 2 ^ 12 == stepLow c s
    if idle d then doneEntry e s
    else if fmtWrong c w s then reefAbandon c w (REEF_ERR_KV_FMT a) a 0 s
    else if !ready_ || carryDue (bwdSeq c w s) a s || (List.range n).any fun r => bwdLocked w r s then s
    else if (List.range n).any fun r => !specOk (rowSpec w r s) then
      reefAbandon c w (REEF_ERR_DIR_FAULT a) a 0 s
    else
      let s := reefBegin e d a (lagoonEnv (rQSpindle w) env s)
      let outs := (List.range n).map fun r => bwdRow c w a r env s
      let held := bwdHeld c w a s
      let s1 := (outs.zip (List.range n)).foldl (fun s o => noteRow e a o.2 o.1 (putRecs c w a o.2 o.1.recs s)) s
      let res := bwdGrads c w a env s1
      if !res.1 then reefWord c w a 2 n res.2
      else
        let s := bump64 (REEF_CNT_KEYS a) (held.length * rKvHeads w)
          (bump64 (REEF_CNT_BYTES a) (held.length * tokBytes (shapeKv w)) res.2)
        let s := bump32 (REEF_CNT_EMPTY a) ((outs.flatMap (·.recs)).filter (·.empty)).length s
        reefEnd e a env s

/-- A replay of a row on the same engine, reading its staples again (R178, R181, R367). -/
def reefReplay (e : EntryRef) (a r : Nat) (env : UnitEnv) (s : State) : State :=
  match dispAt e s with
  | none => s
  | some d =>
    let c := e.ctx.toNat
    let s := lagoonEnv (rQSpindle d.words) { lagoonUe := env.lagoonUe } s
    let o := if rOp d.words = 1 then bwdRow c d.words a r env s else rowOut c d.words a r env s
    noteRow e a r o (putRecs c d.words a r o.recs s)

/-! ### Status (R147, R180, R182) -/

/-- REEF_STATUS(a) as a read returns it. -/
def reefStatus (a : Nat) (s : State) : Nat :=
  let busy := engineBusy a s
  let up := fld (atollFld a) s
  let state := if up = 2 then 3 else if up = 1 then 2 else if busy.isSome then 1 else 0
  let queued := (existing s).foldl (fun n c => match stepOf c s, phaseNow c s with
    | some st, some p =>
      n + ((lookup st.lists [] p).filter fun d =>
        eKind d.words == kReef && (rMask d.words).testBit a && !idle d && d.st != .done && !d.reefDone.contains a &&
          !(d.epochs.any fun x => x.1 == a)).length
    | _, _ => n) 0
  state * 2 ^ 30 + (match busy with | some b => b.1 * 2 ^ 24 + 2 ^ 23 | none => 0) + min queued 255 * 2 ^ 8

/-! ### Meanings -/

def execReefFwd (e : EntryRef) (a : BitVec 3) (env : UnitEnv) (s : State) : Host.Outcome State Fault Refusal :=
  run (reefFwd e a.toNat env) s

def execReefBwd (e : EntryRef) (a : BitVec 3) (env : UnitEnv) (s : State) : Host.Outcome State Fault Refusal :=
  run (reefBwd e a.toNat env) s

def execAtollRetrainDone (ok : Bool) (s : State) : Host.Outcome State Fault Refusal :=
  run (fun s => releaseHeld (afterSwap (atollRetrained ok) s)) s

def execReefRowStart (e : EntryRef) (a : BitVec 3) (row : Nat) (env : UnitEnv) (s : State) :
    Host.Outcome State Fault Refusal := run (reefRow e a.toNat row env) s

end Sys2Proof.Machine
end

