-- ==== Sys2Proof/Machine/Witness.lean ====
section
/-! DEFINITION. Machine/Witness.lean: replays of suspects on witnesses and buddies, and the events of strikes, fences and
soundings (R367 to R376). -/

namespace Sys2Proof.Machine

/-! ### The local replay (R369, R370) -/

/-- The witness for a spindle's suspect: the lowest-numbered free spare on its die, else on the other die. -/
def pickWitness (die : Nat) (s : State) : Option Nat :=
  match (spares die s).head? with
  | some p => some p
  | none => (spares (1 - die) s).head?

/-- Whether no local replay of the suspect runs: none has started, or its witness was withdrawn (R372, R376). -/
def noWitness (x : Suspect) (s : State) : Bool := match x.witness with
  | some p => phState p s != phWitness
  | none => true

/-- A suspect whose local replay is due. A SAMPLE entry's replay is the sampling unit's own, and `count` says that it has
started. -/
def replayDue (d : Disp) (s : State) : Bool :=
  d.st == .suspect && match d.susp with
    | some x => noWitness x s && x.local_.isNone && !x.buddy && (eKind d.words != kSample || d.count == 0)
    | none => false

/-- Physical spindle p, which starts a replay, is no longer the withdrawn witness of another suspect. -/
def dropWitness (p : Nat) (s : State) : State :=
  let clear (d : Disp) : Disp := match d.susp with
    | some x => if x.witness == some p && x.local_.isNone then { d with susp := some { x with witness := none } } else d
    | none => d
  { s with ctxs := s.ctxs.map fun c => (c.1, { c.2 with step := c.2.step.map fun st =>
      { st with lists := st.lists.map fun l => (l.1, l.2.map clear) } }) }

/-- Starts the local replay of a suspect: it waits for a free spare; without any spare in the package the buddy is asked
(R369). -/
def witnessReplay (e : EntryRef) (s : State) : State :=
  match dispAt e s with
  | none => s
  | some d =>
    if !replayDue d s then s
    else if eKind d.words == kSample then setDisp e { d with count := 1 } s
    else match pickWitness (dieOf s (eSpindle d.words)) s with
      | none => if hasSpares s then s else askBuddy e s
      | some p =>
        let s := dropWitness p s
        setDisp e { d with susp := d.susp.map fun x => { x with witness := some p } } (setFld (INT_STRIKES_STATE p) phWitness s)

/-- A tile as a spare computes it from its source rows: the descriptor at the committed formats, fresh reads of weights and
plies, the adapter pass with A and B from their home copies (R50, R62, R369). Result rows and rows poisoned; none when this
package holds no weights for it. -/
def replayRows (c : Nat) (w : List W32) (widen step : Nat) (rows : List (List W32)) (badRows : List Nat) (env : UnitEnv)
    (s : State) : Option (List W32 × List Nat) :=
  match freshShard c w s with
  | none => none
  | some sh =>
    let bad := !(badReads w sh widen env s).isEmpty
    let r := runTile w sh widen (ctx c s).weave.seed step rows badRows bad s
    match tileAdapter c w s with
    | none => some (withSilent env r.rows, r.poisoned)
    | some a =>
      let home := (find? (ctx c s).bound a.wreg).map fun g => (region g s).base
      let at_ := home.getD 0
      let fails := home.isNone || (badStaples env s).any fun p =>
        [(at_ + a.aOff, 16 * tKBlocks w * a.rank * 2), (at_ + a.bOff, a.rank * 256)].any fun g =>
          g.1 < p + 4096 && p < g.1 + g.2
      let pois := if fails then List.range (mLive w) else r.poisoned
      let out := adapterRows a.rank a.alpha (at_ + a.aOff) (at_ + a.bOff) rows r.rows s
      let out := (List.range out.length).map fun i => if pois.contains (i / 128) then fpQnanStd else out.getD i 0
      some (withSilent env out, pois)

/-- The tile of a suspect as its witness computes it, from the retained source. -/
def replayTile (e : EntryRef) (d : Disp) (env : UnitEnv) (s : State) : List W32 × List Nat :=
  let c := e.ctx.toNat
  let src := lagoonBase (eSpindle d.words) + tActSrc d.words
  (replayRows c d.words d.widen (rd (WV_STEP c) s).toNat (srcRows d.words src s) (badSrcRows d.words src s) env s).getD
    (d.result, d.poisoned)

/-- The issue cycles of a tile's replay count on its logical spindle (R88); those of its adapter pass are the command's. -/
def countReplay (e : EntryRef) (d : Disp) (env : UnitEnv) (s : State) : State :=
  bump64 (SPN_CNT_ARRAY_CYC (eSpindle d.words))
    (issueCycles (tKBlocks d.words) (mPlan d.words) (fmtAfter d.words d.widen) +
      (if (tileAdapter e.ctx.toNat d.words s).isSome then env.busyNs else 0)) s

/-- Flagged records of REEF entries in the input of a VECTOR entry: entry, engine, row (R367). -/
def flaggedRecords (e : EntryRef) (d : Disp) (s : State) : List (EntryRef × Nat × Nat) :=
  match stepOf e.ctx.toNat s with
  | none => []
  | some st =>
    st.lists.flatMap fun l => (List.range l.2.length).flatMap fun i =>
      match l.2[i]? with
      | none => []
      | some r =>
        let w := r.words
        if eKind w != kReef || rOutSpindle w != eSpindle d.words || idle r then []
        else
          ((List.range 8).filter fun a => (rMask w).testBit a).flatMap fun a =>
            (((List.range (mLive w)).filter fun row => (List.range (rQh w)).any fun q =>
              let o := rOutOff w + 64 + (engineRank w a * mPlan w * rQh w + row * rQh w + q) * (16 + 4 * rDim w)
              vInSrc d.words ≤ o && o < vInEnd d.words && recordBad (lagoonBase (rOutSpindle w) + o) s)).map fun row =>
              ({ ctx := e.ctx, phase := BitVec.ofNat 8 l.1, idx := i }, a, row)

/-- Replays those records on their own engines, each with fresh reads. -/
def replayRecords (e : EntryRef) (d : Disp) (env : UnitEnv) (s : State) : State :=
  let l := flaggedRecords e d s
  let rows := l.filterMap fun x => (dispAt x.1 s).map fun r => rRowBase r.words + x.2.2
  let s := modStep e.ctx.toNat (fun st => { st with kvPoison := st.kvPoison.filter fun r => !rows.contains r }) s
  l.foldl (fun s x => reefReplay x.1 x.2.1 x.2.2 env s) s

/-- The merges of the program of a VECTOR entry once more, over the replayed records: the result on the witness with what
they write to its rows, and what they write elsewhere in place (R170, R181, R367). -/
def replayMerges (e : EntryRef) (d : Disp) (result : List W32) (s : State) : List W32 × State :=
  let n := eSpindle d.words
  let at_ := lagoonBase n + vOutDst d.words
  let run_ (l : List MergeOp) (s : State) : State := l.foldl (fun s m => programMerge e n (eSlot d.words) m s) s
  let writes (m : MergeOp) (a : Nat) : Bool :=
    (m.out ≤ a && a < m.out + 16 + 4 * m.dim) || m.lse == some a
  let t := run_ d.merges s
  ((List.range result.length).map fun i =>
    if d.merges.any (writes · (at_ + 4 * i)) then rdWord (at_ + 4 * i) t else result.getD i 0,
   run_ (d.merges.filter fun m => !(at_ ≤ m.out && m.out < at_ + 4 * result.length)) s)

/-- The outcome of a suspect after its local replay: equality accepts the suspect's own result, a clean replay the
witness's, anything else goes on to the buddy. -/
def outcome (e : EntryRef) (rows : List W32) (bad : Bool) (s : State) : State :=
  match dispAt e s with
  | none => s
  | some d =>
    if rows == d.result then acceptOwn e (bump64 (INT_CNT 1) 1 s)
    else if !bad then
      let s := acceptNew e rows (bump64 (INT_CNT 2) 1 s)
      match d.susp with
      | some x => strikeProducer x s
      | none => s
    else askBuddy e (setDisp e { d with susp := d.susp.map fun x => { x with local_ := some rows } } s)

/-- Whether the replay of a tile waits for its fresh reads: a staple under restore, an atoll that retrains (R130, R147). -/
def replayWaits (e : EntryRef) (d : Disp) (s : State) : Bool :=
  eKind d.words == kTensor && match freshShard e.ctx.toNat d.words s with
    | some sh => (readStall d.words sh d.widen s).isSome
    | none => false

/-- A local replay ends. It waits while its reads are late. `result` and `flag` are a VECTOR program's result on the witness and whether its own reads were
poisoned; a tile's result is computed. -/
def witnessComplete (e : EntryRef) (result : List W32) (flag : Bool) (env : UnitEnv) (s : State) : State :=
  match dispAt e s with
  | none => s
  | some d =>
    if d.st != .suspect then s
    else if eKind d.words == kSample then
      if d.count == 0 then s else sampleReplay e env s
    else match d.susp.bind (·.witness) with
      | none => s
      | some p =>
        if (d.susp.bind (·.local_)).isSome || phState p s != phWitness || replayWaits e d s then s
        else
          let s := memEnv env (freeWitness p s)
          if eKind d.words == kTensor then
            let r := replayTile e d env s
            outcome e r.1 (flagged (tileChecks d.words r.1 r.2)) (countReplay e d env s)
          else
            let (result, s) := if (d.susp.map (·.reef)).getD false then replayMerges e d result (replayRecords e d env s)
              else (result, s)
            outcome e result (flag || flagged (vectorChecks d.words result [])) s

/-! ### The buddy (R371) -/

/-- A suspect that waits for its buddy's answer. -/
def buddyWaits (d : Disp) : Bool := d.st == .suspect && ((d.susp.map (·.buddy)).getD false)

/-- The strike that R370 gives the witness, unless the suspect's event gives none. -/
def strikeWitness (x : Suspect) (s : State) : State :=
  match x.witness with
  | some p => if x.local_.isSome && strikeable x then strike p s else s
  | none => s

def buddyFails (e : EntryRef) (d : Disp) (s : State) : State :=
  failEntry e (intErr INT_ERR_BUDDY_FAIL e.ctx.toNat (eSlot d.words) s)

/-- The buddy answers. -/
def buddyAnswer (e : EntryRef) (a : BuddyAnswer) (s : State) : State :=
  match dispAt e s with
  | none => bump64 (INT_CNT 5) 1 s
  | some d =>
    match buddyWaits d, d.susp, a with
    | true, some _, .refused => buddyFails e d s
    | true, some x, .digest h =>
      if h = resultDigest d.result then strikeWitness x (acceptOwn e (bump64 (INT_CNT 4) 1 s))
      else
        match x.local_ with
        | some w =>
          if h = resultDigest w then strikeProducer x (acceptNew e w (bump64 (INT_CNT 4) 1 s)) else failEntry e s
        | none => failEntry e s
    | _, _, _ => bump64 (INT_CNT 5) 1 s

/-- No answer within INT_BUDDY_CFG.TIMEOUT_US. -/
def buddyTimeout (e : EntryRef) (s : State) : State :=
  match dispAt e s with
  | none => s
  | some d => if buddyWaits d then buddyFails e d s else s

/-- What a spare of this package computes for a buddy request to context c (R371): the source at R73's rows of 16 elements a
block, the step number and SLOT of the request. -/
def buddyRows (c : Nat) (r : BuddyRequest) (s : State) : Option (List W32) :=
  (replayRows c r.words r.widen r.step.toNat (rowsOf (16 * tKBlocks r.words) r.source) [] r.env s).map (·.1)

/-- This package is asked as a buddy: it refuses, or a free spare replays the tile and the digest of its result goes back. -/
def buddyServe (src tag c : Nat) (weaveId : W64) (r : BuddyRequest) (s : State) : State :=
  let free : Bool := !(spares 0 s).isEmpty || !(spares 1 s).isEmpty
  match ctxExists c s && rd (WV_ID c) s == weaveId && free, buddyRows c r s with
  | true, some rows => send (.buddyAnswer src (BitVec.ofNat 16 tag) (some (resultDigest rows))) (bump64 (INT_CNT 6) 1 (memEnv r.env s))
  | _, _ => send (.buddyAnswer src (BitVec.ofNat 16 tag) none) s

/-! ### Fences (R373) -/

/-- Whether a tile or vector entry is in progress on logical spindle n. -/
def entryOn (n : Nat) (s : State) : Bool :=
  s.ctxs.any fun x => match x.2.step with
    | none => false
    | some st => (st.lists.flatMap (·.2)).any fun d =>
        (eKind d.words == kTensor || eKind d.words == kVector) && eSpindle d.words == n &&
        (d.st == .quantised || d.st == .repeating || d.st == .committing)

def hang (n : Nat) (s : State) : State := if entryOn n s then fence n 2 s else s

/-- A write of INT_FENCE with GO: a logical number that nothing serves has nothing to fence. -/
def driverFence (s : State) : State :=
  let n := fld INT_FENCE_SPINDLE s
  match physOf n s with
  | some _ => fence n 3 { s with fenceGo := some n }
  | none => setFld INT_FENCE_GO 0 s

/-! ### Meanings -/

def execWitnessReplay (e : EntryRef) (s : State) : Host.Outcome State Fault Refusal := run (witnessReplay e) s

def execWitnessComplete (e : EntryRef) (result : List W32) (flagged : Bool) (env : UnitEnv) (s : State) :
    Host.Outcome State Fault Refusal := run (witnessComplete e result flagged env) s

def execStrikeExpiry (p : Nat) (s : State) : Host.Outcome State Fault Refusal := run (strikeExpire p) s

def execBuddyRequest (src : BitVec 10) (tag : W16) (ctx : BitVec 6) (weaveId : W64) (req : BuddyRequest) (s : State) :
    Host.Outcome State Fault Refusal := run (buddyServe src.toNat tag.toNat ctx.toNat weaveId req) s

def execBuddyAnswer (e : EntryRef) (a : BuddyAnswer) (s : State) : Host.Outcome State Fault Refusal := run (buddyAnswer e a) s

def execBuddyTimeout (e : EntryRef) (s : State) : Host.Outcome State Fault Refusal := run (buddyTimeout e) s

def execHangTimeout (spindle : Nat) (s : State) : Host.Outcome State Fault Refusal := run (hang spindle) s

def execSoundingComplete (pass : Bool) (block : BitVec 4) (s : State) : Host.Outcome State Fault Refusal :=
  run (soundDone pass block.toNat) s

end Sys2Proof.Machine
end

