-- ==== Sys2Proof/Machine/Commit.lean ====
section
/-! DEFINITION. Machine/Commit.lean: the commit of a step (R199, R222 to R226, R241, R247, R378, R381). -/

namespace Sys2Proof.Machine

/-! ### The skeins of the batch (step 3) -/

/-- Step 3b: the cause of the fault of a part with a NaN or poisoned row, or with a bad logit row that counts. -/
def partBad (st : Step) (b : BatchSk) : Option Nat :=
  let mine (r : Nat) : Bool := b.row ≤ r && r < b.row + b.rows
  let hits := st.badRows.filter fun x => mine x.1
  if hits.any (·.2) then some fcKv
  else if !hits.isEmpty || st.samples.any (fun x => mine x.1 && x.2.live && x.2.bad) then some fcIntegrity
  else none

/-- The samples of a part that are released before the stop test (R241). -/
def released (st : Step) (b : BatchSk) : List RowSample :=
  (List.range b.rows).filterMap fun i =>
    let x := lookup st.samples {} (b.row + i)
    if x.live && !x.bad && x.fault = 0 then some x else none

/-- The generated tokens before those that a commit tests, as the stop-sequence test takes them: the last of the ring's below
LENGTH, then the input token of the step's row (R222, R240). -/
def stopHist (c : Nat) (st : Step) (b : BatchSk) (s : State) : List W32 :=
  let k := sk b.skein s
  let lo := max k.promptLen (k.length - 16)
  if b.prefill then []
  else (match smpArea c b.skein s with
    | some a => (List.range (k.length - lo)).map fun j => BitVec.ofNat 32 (rdNat (ringAddr a (lo + j)) 4 s % 2 ^ 18)
    | none => []) ++ [(lookup st.samples {} b.row).input]

/-- What a commit does for a skein whose results are kept (step 3c), at an edge of epoch e: the tokens appended, and
the state. -/
def keepPart (c e : Nat) (st : Step) (b : BatchSk) (s : State) : List W32 × State :=
  let i := b.skein
  let k := sk i s
  let live := released st b
  let pos0 := if b.prefill then k.promptLen else k.length + 1
  let stops : StopSet := if k.stopSet = 0 then {} else lookup s.stops {} (c * 256 + k.stopSet)
  let cut := stopCut stops k.maxlen (stopHist c st b s) pos0 (live.map (·.token))
  let kept := cut.1
  let acc := if b.prefill then 0 else min (live.length - 1) kept.length
  let appended := if b.prefill then b.tokens else
    ((lookup st.samples {} b.row).input :: kept.take acc)
  let gram := if kept.isEmpty then none else (live[kept.length - 1]?).map (·.mask)
  let s := kvCommit k.dir b acc s
  let s := match (ctx c s).weave.kv with
    | some kd => windowDrop k.dir kd e s
    | none => s
  let s := commitList st b (sampleCommit c i k.length appended gram s)
  let s := hankCharge k.tenant appended.length s
  let s := bump64 (SMP_CNT 1) kept.length (bump64 (SKN_CNT 2) kept.length s)
  let narrow := st.narrow.contains i
  let pos := k.promptPos + (if b.prefill then b.rows else 0)
  let s := modSk i (fun k => { k with
    length := k.length + appended.length, promptPos := pos
    staged := if b.prefill then k.staged.drop b.rows else k.staged
    outTokens := k.outTokens + kept.length, narrow := narrow
    narrowSteps := if narrow then min 255 (k.narrowSteps + 1) else k.narrowSteps }) s
  let s := tokenRecords i ((rd (WV_STEP c) s).setWidth 32) narrow cut.2.isSome (kept.length + 1) pos0 kept s
  let s := if (sk i s).state == .faulted then s else match cut.2 with
    | some (cause, ix) => finishSkein i e { status := 1, cause := cause, stopIndex := ix } s
    | none => if b.prefill && pos = k.promptLen then modSk i (fun k => { k with state := .decode }) s else s
  let s := match deadlineKey (sk i s) s with
    | some d => if d < 0 then bump64 (SKN_CNT 7) 1 s else s
    | none => s
  (appended, s)

/-- One skein of the batch (step 3): the taint log record it earns, and the state. -/
def commitPart (c e : Nat) (st : Step) (b : BatchSk) (s : State) : Option (List W32) × State :=
  let i := b.skein
  let s := readStops i (tableRead i s)
  let k := sk i s
  match k.state with
  | .cancelling => (none, finishCancel i e (kvDiscard k.dir b e s))
  | .faulted => (none, kvDiscard k.dir b e s)
  | .prefill | .decode =>
    match partBad st b with
    | some cause =>
      (none, bump64 (INT_CNT 11) 1 (intErr INT_ERR_INTEGRITY c 0 (faultSkein i cause (kvDiscard k.dir b e s))))
    | none =>
      let (app, s) := keepPart c e st b s
      (some [BitVec.ofNat 32 (2 * 2 ^ 28 + i), BitVec.ofNat 32 (k.gen.toNat * 2 ^ 16 + app.length),
             BitVec.ofNat 32 k.length, 0], s)
  | _ => (none, s)

/-- The skeins of the batch in row order, with their taint log records. -/
def commitParts (c e : Nat) (st : Step) : List BatchSk → List (List W32) → State → List (List W32) × State
  | [], recs, s => (recs, s)
  | b :: rest, recs, s =>
    let (r, s) := commitPart c e st b s
    commitParts c e st rest (recs ++ r.toList) s

/-! ### Steps 2 and 7 -/

/-- GAU counters and registers, and the pins (R47, R48, R53). -/
def commitGauge (c : Nat) (st : Step) (s : State) : State :=
  let n := (rd (WV_STEP c) s).toNat
  let s := (List.range 6).foldl (fun s i => bump64 (GAU_CNT_FLAGGED + 8 * i) (st.gau.getD i 0) s) s
  let s := wr (GAU_BUD_GRANT c) (BitVec.ofNat 64 st.budget) (wr (GAU_BUD_USED c) (BitVec.ofNat 64 st.spent) s)
  let old := (ctx c s).pins.filter fun p => n < p.2 && !st.newPins.contains p.1
  let pins := old ++ st.newPins.map fun l => (l, n + 64)
  wr (GAU_PIN c) (BitVec.ofNat 64 pins.length) (modCtx c (fun x => { x with pins := pins }) s)

/-- The taint log records of a commit (R381). -/
def commitTaint (c : Nat) (recs : List (List W32)) (s : State) : State :=
  let n := (rd (WV_STEP c) s).toNat
  let b := beat s
  let s := modCtx c (fun x => { x with logged := ins x.logged n (taintCount s) }) s
  let s := taintAppend [BitVec.ofNat 32 (2 ^ 28 + c * 2 ^ 22 + recs.length), BitVec.ofNat 32 n, BitVec.ofNat 32 b,
    BitVec.ofNat 32 (b / 2 ^ 32 % 256)] s
  recs.foldl (fun s r => taintAppend r s) s

/-- Skeins of c in state FAULTED that have not left service. -/
def faultedOf (c : Nat) (s : State) : List Nat :=
  (skeinsOf c s).filter fun i => (sk i s).state == .faulted && !(sk i s).left

/-- A FAULTED skein leaves service at an edge of epoch e (R208, R215). -/
def leaveSkein (e : Nat) (s : State) (i : Nat) : State := leaveAtEdge i e (leaveFaulted i s)

/-- CANCELLING skeins of c that no step in progress holds in its batch (R224). -/
def cancelsDue (c : Nat) (s : State) : List Nat :=
  let inStep (i : Nat) : Bool := match (ctx c s).step with
    | some st => st.batch.any fun b => b.skein == i
    | none => false
  (skeinsOf c s).filter fun i => (sk i s).state == .cancelling && !inStep i

/-- Takes a skein that leaves service out of the batch formed for the next step; its frames are held with epoch e. -/
def leaveNext (c e i : Nat) (s : State) : State :=
  let l := (ctx c s).next
  let s := (l.filter fun b => b.skein == i).foldl (fun s b => kvDiscard (sk i s).dir b e s) s
  if l.any fun b => b.skein == i then
    modCtx c (fun x => { x with next := numberRows 0 (x.next.filter fun b => b.skein != i) }) s
  else s

/-- A cancel completes at an edge of epoch e (R224); its directory is published there (R204). A skein whose entry is lost is
FAULTED and leaves service so (R212). -/
def completeCancel (c e : Nat) (s : State) (i : Nat) : State :=
  let s := tableRead i s
  let t := leaveNext c e i s
  publish (sk i s).dir (if (sk i s).state == .cancelling then finishCancel i e t else leaveSkein e t i)

/-- Retries every FULL_WAIT bobbin of the context (R196): the directories whose retry succeeded, and the state. -/
def retryAll (c : Nat) (s : State) : List Nat × State :=
  (dirsOf c s).foldl (fun acc h =>
    let (ok, t) := retryFull h acc.2
    (if ok then acc.1 ++ [h] else acc.1, t)) ([], s)

/-- A stop set takes effect: its image is written to both copies (R145, R222). -/
def writeStops (n : Nat) (st : StopSet) (s : State) : State :=
  let (_, _, s) := mirrorCheck (stopAddr 0 n) (stopAddr 4 n) s
  wrMerge (stopAddr 4 n) (wordsBytes st.image) false
    (wrMerge (stopAddr 0 n) (wordsBytes st.image) false { s with stops := put s.stops {} n st })

/-- Loads of stop sets that take effect at the step boundary of c (R222). -/
def applyStops (c : Nat) (s : State) : State :=
  let mine (x : Nat × StopSet) : Bool := x.1 / 256 == c
  (s.stopsNext.filter mine).foldl (fun s x => writeStops x.1 x.2 s)
    { s with stopsNext := s.stopsNext.filter fun x => !mine x }

/-- What takes effect at a step boundary of c: FB_EN and GAU_THR_DEFAULT (R43, R51), stop sets (R222) and profiles
(R233). -/
def boundary (c : Nat) (s : State) : State :=
  modCtx c (fun x => { x with oldProfiles := [], fbEn := bit GAU_CTRL_FB_EN s
                              thr0 := (rd GAU_THR_DEFAULT s).setWidth 32 }) (applyStops c s)

/-- Pauses and resumes, and forms the batch of c's next step (R225, R226; R378, step 7). -/
def formNext (c : Nat) (s : State) : State :=
  let (b, s) := formBatch c (pauseResume c s)
  modCtx c (fun x => { x with next := b, formed := some (beat s) }) s

/-- Releases the leave of the phase that covers the schedule beat of c's step (R385). -/
def endPhase (c : Nat) (s : State) : State :=
  match phaseNow c s with
  | some ph => releaseLeave (phaseKind c ph s) true s
  | none => s

/-- The atolls that a commit of c writes: skein table and taint log, the page directories, the sampling areas. -/
def commitAtolls (c : Nat) (s : State) : List Nat :=
  let area := match smpEntry (ctx c s).weave with
    | some e => ((find? (ctx c s).bound (sSmpWreg e)).bind fun r => atollAt (region r s).base).toList
    | none => []
  ([0, 4] ++ area ++ (dirsOf c s).flatMap fun h => (dir h s).atolls).eraseDups

/-- The step boundary of c in an edge of epoch e (R378, steps 2 to 7). Its writes to an atoll that retrains wait. -/
def commit (c e : Nat) (s : State) : State :=
  match (ctx c s).step with
  | none => s
  | some st =>
    let late := (commitAtolls c s).filter fun a => fld (atollFld a) s == 1
    let s := modCtx c (fun x => { x with commitWait := late }) (commitGauge c st s)
    let gone := faultedOf c s
    let (recs, s) := commitParts c e st (sortBy (fun a b => a.row < b.row) st.batch) [] s
    let s := commitTaint c recs s
    let s := gone.foldl (leaveSkein e) s
    let s := (cancelsDue c s).foldl (completeCancel c e) s
    let s := (retryAll c s).2
    let s := bump64 (KV_CNT 5) ((dirsOf c s).filter fun h => fullWaits h s).length s
    let s := (dirsOf c s).foldl (fun s h => publish h s) s
    let s := (skeinsOf c s).foldl (fun s i => setPhases i s) s
    let s := endPhase c s
    let s := wr (WV_STEP c) (rd (WV_STEP c) s + 1) s
    formNext c (boundary c (modCtx c (fun x => { x with step := none }) s))

end Sys2Proof.Machine
end

