-- ==== Sys2Proof/Machine/Grant.lean ====
section
/-! DEFINITION. Machine/Grant.lean: binding checks, the first grant, step starts, step replays, spills and restores
(R133 to R135, R141, R187, R189, R243, R250, R260, R330, R344, R349 to R357, R374). -/

namespace Sys2Proof.Machine

/-! ### Binding check (R133 to R135, R187, R189) -/

/-- Whether the binding of weave region w of context c passes R133; a WEIGHT region must be SEALED (R134). -/
def bindingOk (c w : Nat) (d : WRegion) (s : State) : Bool :=
  let g := region (fld (MEM_BIND_REGION c w) s) s
  let owned : Bool := d.kind == kAdapter || d.kind == kScratch || d.kind == kSpill
  bit (MEM_BIND_VALID c w) s && g.valid && g.kind == d.kind && d.size ≤ g.size && (!owned || g.owner == c) &&
  (d.kind != kWeight || g.sealedBit)

/-- A failed check: MEM_ERR.BIND with a cause of R154 and a region number. -/
def bindErr (cause r : Nat) (s : State) : State := raiseLatch MEM_ERR_BIND [(MEM_ERR_ADDR_STAPLE, cause * 256 + r)] s

/-- The checks of the KV descriptor at the binding check (R187, R189). -/
def kvDescOk (kd : KvDesc) (s : State) : Bool :=
  let f := (fmtOfCode kd.fmt).getD .fp32
  kd.layers * slabStaples f kd.headDim kd.heads 256 ≤ pageStaples kd.cls s &&
  kd.layers * slabStaples f kd.headDim kd.heads 320 ≤ bobStaples kd.cls s &&
  !kd.atolls.isEmpty &&
  (kd.atolls.all fun a => atollHere s a && (kvRegion a s).isSome && !s.kv.bad.contains a) &&
  bit KV_STATUS_READY s

/-- Weave regions of a kind with the regions bound to them, in ascending weave region. -/
def boundOfKind (c k : Nat) (s : State) : List Nat :=
  (ctx c s).bound.filterMap fun b => match (ctx c s).weave.wregs[b.1]? with
    | some d => if d.kind = k then some b.2 else none
    | none => none

def totalSize (l : List Nat) (s : State) : Nat := l.foldl (fun t r => t + (region r s).size) 0

/-- Binds the weave regions in ascending order until one fails (R133): whether all passed, and the state. -/
def bindAll (c : Nat) : List (Nat × WRegion) → State → Bool × State
  | [], s => (true, s)
  | (w, d) :: rest, s =>
    let r := fld (MEM_BIND_REGION c w) s
    if bindingOk c w d s then
      bindAll c rest (modCtx c (fun x => { x with bound := x.bound ++ [(w, r)] }) (bumpFld (MEM_RGN_CFG_BINDS r) 1 s))
    else (false, bindErr 1 r s)

/-- The binding check of context c: whether it passed, and the state. -/
def bindCheck (c : Nat) (s : State) : Bool × State :=
  let w := (ctx c s).weave
  let (ok, s) := bindAll c ((List.range w.wregs.length).zip w.wregs) s
  if !ok then (false, s)
  else
    let ws := boundOfKind c kWeight s
    let ads := boundOfKind c kAdapter s
    if Config.sha384Digests (ws.map fun r => lookup s.digests 0 r) != w.baseDigest then (false, bindErr 2 (ws.headD 0) s)
    else if totalSize ads s > 2 * totalSize ws s / 100 then (false, bindErr 3 (ads.headD 0) s)
    else match w.kv with
      | some kd =>
        if kvDescOk kd s then (true, s)
        else (false, raiseLatch KV_ERR_DESC [(KV_ERR_ADDR_STAPLE, 0)] (bindErr 4 0 s))
      | none => (true, s)

/-! ### Maps, automata and carding windows (R243, R250, R260) -/

/-- The CARD entries of a weave. -/
def cardEntries (w : Weave) : List (List W32) := (entriesOf w).filter fun e => eKind e == kCard

/-- Copies a table to the start of the region bound to a weave region: the address, when it fits. -/
def copyTable (c wreg : Nat) (bs : List Byte) (s : State) : Option Nat × State :=
  match find? (ctx c s).bound wreg with
  | none => (none, s)
  | some r =>
    let g := region r s
    if bs.length ≤ g.size then (some g.base, wrUnit g.base bs false s) else (none, s)

/-- Copies and checks the expert maps: whether they are valid, and the state. -/
def mapCheck (c : Nat) (s : State) : Bool × State :=
  let w := (ctx c s).weave
  match cardEntries w with
  | [] => (true, s)
  | e :: _ =>
    let (at_, s) := copyTable c (cMapWreg e) w.maps s
    let n := mapCount w.maps
    let fits (m : Nat) : Bool :=
      let x := xmap w.maps m
      let o := 64 + 32 * m
      leAt w.maps (o + 8) 4 + 2 * x.nodes.length ≤ w.maps.length && leAt w.maps (o + 12) 4 + 4 * x.experts ≤ w.maps.length &&
      xmapOk (domainSize s) x
    let ok : Bool := at_.isSome && 1 ≤ n && n ≤ 4095 && 64 + 32 * n ≤ w.maps.length && (List.range n).all fits
    if ok then (true, modCtx c (fun x => { x with maps := w.maps }) s) else (false, crdErr CRD_ERR_MAP c 0 s)

/-- Copies and checks the automata. -/
def autoCheck (c : Nat) (s : State) : Bool × State :=
  let w := (ctx c s).weave
  if !w.maskSec then (true, s)
  else
    let (at_, s) := match smpEntry w with
      | some e => copyTable c (sMaskWreg e) w.masks s
      | none => (none, s)
    match at_ with
    | some a =>
      if automataOk a w.masks.length s then (true, modCtx c (fun x => { x with masks := w.masks }) s)
      else (false, smpErr SMP_ERR_AUTOMATON c none s)
    | none => (false, smpErr SMP_ERR_AUTOMATON c none s)

/-- Registers one landing window of context c: PUT_SIGNAL under the context's key. -/
def cardWindow (c kind : Nat) (ref : Nat × Nat) (size : Nat) (s : State) : State :=
  let w := 0xF80 + 2 * c + kind
  match find? (ctx c s).bound ref.1 with
  | none => s
  | some r =>
    let s := setFlds [(GLD_WIN_BASE_BASE w, ((region r s).base + ref.2) / 4096), (GLD_WIN_SIZE_SIZE w, size / 4096),
                      (GLD_WIN_CFG_CONTEXT w, c), (GLD_WIN_CFG_PERM w, 17), (GLD_WIN_CFG_VALID w, 1)] s
    modGld (fun g => { g with keys := put g.keys 0 w (lookup s.fryKeys 0 c) }) s

def cardWindows (c : Nat) (s : State) : State :=
  let es := cardEntries (ctx c s).weave
  match es with
  | [] => s
  | e :: _ =>
    let size := es.foldl (fun m e => max m ((cardMap c e s).nodes.length * cSlotBytes e)) 0
    cardWindow c 1 (cRef e 8) size (cardWindow c 0 (cRef e 7) size s)

/-! ### First grant (R350) -/

/-- Ends a priming pass whose records have all landed (R141, R350, R374). -/
def endPriming (c : Nat) (s : State) : State :=
  match (ctx c s).priming with
  | some [] =>
    let x := ctx c s
    let s := modCtx c (fun x => { x with priming := none, replaying := false }) s
    if ctxState c s != cxStarting then s
    else setState c (if x.ran then cxRunning else if (candidates c s).isEmpty then cxIdle else cxHeld) s
  | _ => s

/-- Starts a priming pass (R141). -/
def prime (c : Nat) (s : State) : State :=
  let l := primingRecords (ctx c s).weave
  endPriming c (issuePrefetch c (modCtx c (fun x => { x with priming := some l }) s))

/-- The first edge at which c is granted and not held: its first step boundary (R350). -/
def firstGrant (c : Nat) (s : State) : State :=
  let s := boundary c (setFld (CTX_STATE_NEVER_RAN c) 0 s)
  let (ok, s) := bindCheck c s
  if !ok then faultCtx c cfBind none s
  else
    let (ok, s) := mapCheck c s
    if !ok then faultCtx c cfCard none s
    else
      let (ok, s) := autoCheck c s
      if !ok then faultCtx c cfSampler none s
      else
        let (ok, cause, s) := allocBars c (cardWindows c s)
        if !ok then faultCtx c cause none s
        else
          let (ok, s) := allocChans c s
          if !ok then faultCtx c cfResource none s else prime c s

/-! ### Step starts (R48, R105, R107, R112, R355) -/

/-- The pinned tiles of a phase that do arithmetic, with the extra cost of each, in ascending slot order (R48). -/
def pinnedTiles (c : Nat) (l : List Disp) (s : State) : List (List W32 × Nat) :=
  let tiles := l.filter fun d =>
    eKind d.words == kTensor && !idle d && (ctx c s).pins.any fun p => p.1 == eLayer d.words
  (sortBy (fun (a b : Disp) => eSlot a.words < eSlot b.words) tiles).filterMap fun d =>
    (tileChain d.words)[0]?.map fun x => (d.words, x.2 - 1)

/-- At the start of a phase the extra cost of its pinned tiles is drawn from B and from the reserves of their spindles, in
ascending slot order (R48, R107; log 64). -/
def chargePins (c ph : Nat) (s : State) : State :=
  (pinnedTiles c (lookup (((stepOf c s).map (·.lists)).getD []) [] ph) s).foldl
    (fun s p => drawBudget c ph (eSpindle p.1) p.2 s) s

/-- A step at schedule beat 0 with fresh lists and a renewed budget. -/
def freshStep (c : Nat) (st : Step) (s : State) : Step :=
  let w := (ctx c s).weave
  let sh := shapeOf w st.shape
  { shape := st.shape, began := st.began, batch := st.batch, rows := st.rows
    lists := freshLists w sh, budget := shapeBudget w sh }

/-- STEP records and leave of phase 0, in the step head (R112, R388). -/
def headPhase (c : Nat) (s : State) : State := askPhase c 0 (applyPatches c 0 0 noRoute anyEntry s)

/-- A step of c starts (R105, R355). A context without a batch whose last commit was at an earlier edge is at a step boundary
here, and its batch is formed now (R225). -/
def startStepOf (c : Nat) (s : State) : State :=
  let x := ctx c s
  let s := if x.next.isEmpty && x.formed != some (beat s) then formNext c (boundary c s) else s
  let l := (ctx c s).next
  let st : Step := { shape := selectShape x.weave l, began := beat s, batch := l
                     rows := l.foldl (fun n b => n + b.rows) 0 }
  let n := (rd (WV_STEP c) s).toNat
  modCtx c (fun y => { y with step := some (freshStep c st s), next := [], starts := y.starts ++ [(n, beat s)] }) s

/-- The interconnect configurations at the head of a beat (R103): the phase that begins takes its own into the active store,
and the configuration of a phase that begins at the next edge goes into the shadow store. -/
def swapConfig (c ph : Nat) (first : Bool) (s : State) : State :=
  match stepOf c s, phaseOf c ph s with
  | some st, some p =>
    let s := if first then modCtx c (fun x => { x with config := some p.config, shadow := none }) s else s
    match phaseOf c (ph + 1) s with
    | some q => if q.firstBeat = st.beat + 1 then modCtx c (fun x => { x with shadow := some q.config }) s else s
    | none => s
  | _, _ => s

/-- The part of every beat of a running context that follows its edge: STEP records of phase 0 in the
step head, EDGE records at the first beat of a phase, the
leave of the phase and of one whose STEP records are applied ahead, the records due (R112, R139, R388). -/
def beatHead (c : Nat) (s : State) : State :=
  let s := match phaseNow c s with
    | none => s
    | some ph =>
      let first : Bool := match stepOf c s, phaseOf c ph s with
        | some st, some p => st.beat == p.firstBeat
        | _, _ => false
      let s := swapConfig c ph first s
      let s := if first && ph = 0 then headPhase c s else s
      let s := if first then chargePins c ph (applyPatches c ph 1 noRoute anyEntry s) else s
      let s := askPhase c ph s
      match stepOf c s, phaseOf c (ph + 1) s with
      | some st, some p =>
        let ahead : Bool := p.firstBeat == st.beat + 1 &&
          (lookup st.lists [] (ph + 1)).any fun d => !d.patched.isEmpty
        if ahead then askPhase c (ph + 1) s else s
      | _, _ => s
  issuePrefetch c s

/-! ### Step replay (R374) -/

/-- Replaces bits 31:12 of the word at a. -/
def setStep31 (a n : Nat) (s : State) : State := wrNat a 4 (n % 2 ^ 20 * 2 ^ 12 + rdNat a 4 s % 2 ^ 12) s

/-- Rewrites the STEP words of one entry to step n (R158, R161, R261). -/
def rewriteSteps (c n : Nat) (e : List W32) (s : State) : State :=
  if eKind e = kReef then
    let s := (List.range (mPlan e)).foldl (fun s r => setStep31 (qRow e r) n s) s
    let s := if rOp e = 1 then (List.range (mPlan e)).foldl (fun s r => setStep31 (gradRow e r) n s) s else s
    (List.range 8).foldl (fun s k =>
      let a := lagoonBase (rOutSpindle e) + rOutOff e + 8 * k
      wrNat a 8 (n % 2 ^ 20 * 2 ^ 44 + rdNat a 8 s % 2 ^ 44) s) s
  else if eKind e = kCard then
    let m := (cardMap c e s).nodes.length
    [cRef e 7, cRef e 8].foldl (fun s r => match cardArea c r (m * cSlotBytes e) s with
      | some a => (List.range m).foldl (fun s k => setStep31 (a + k * cSlotBytes e) n s) s
      | none => s) s
  else s

/-- Whether a replay of c still drains its operations or primes it (R374, step 7). -/
def replayBusy (c : Nat) (s : State) : Bool :=
  (ctx c s).replaying || s.gld.ops.any fun o => o.2.ctx == c && o.2.owner == .dropped

/-- A step of c is replayed: its results are discarded, its units are reset and it is primed again. Its operations in flight go
on, and HOLD stays set until they have completed (`replayBusy`). -/
def replayStep (c : Nat) (s : State) : State :=
  match (ctx c s).step with
  | none => s
  | some st =>
    let s := freeWitnesses st (bump64 (INT_CNT 9) 1 s)
    let s := st.lists.foldl (fun s l => l.2.foldl (fun s d => unwalk d s) s) s
    let s := clearSpindles c (dropOps c s)
    let s := idleChans c (clearWatches c (resetBars c s))
    let n := (rd (WV_STEP c) s).toNat + 2 ^ 20 - 1
    let sh := shapeOf (ctx c s).weave st.shape
    let s := sh.phases.foldl (fun s p => (phaseEntries (ctx c s).weave p).foldl (fun s e => rewriteSteps c n e s) s) s
    let s := modCtx c (fun x => { x with step := some (freshStep c st s), ran := false, replaying := true }) (releasePhases c s)
    prime c s

/-! ### Spills and restores (R330, R344, R349, R356 to R359) -/

/-- Package address of the slot of logical spindle n of context r. -/
def spillSlot (r n : Nat) (s : State) : Option Nat :=
  let x := ctx r s
  match x.weave.set.findIdx? (· == n), x.spills.length with
  | some i, k + 1 => (x.spills[i % (k + 1)]?).map fun g => (region g s).base + 65536 + i / (k + 1) * (2064 * 1024)
  | _, _ => none

def lagoonSize : Nat := 0x200000

/-- Whether accesses of context r on spindle n or of its channels are in flight, or a landing counter is open for its windows
in the lagoon (R70, R297, R344, R356). -/
def spillBlocked (r n : Nat) (s : State) : Bool :=
  ((spn n s).threads.any fun t => t.2.ctx == r &&
    (t.2.state == .waitMem || (t.2.state == .waitRemote && !t.2.recv) || !t.2.ops.isEmpty)) ||
  (chansOf r s).any (fun k => chanOps k s) ||
  (s.gld.landings.any fun l => l.counter && fld (GLD_WIN_CFG_CONTEXT l.window) s == r &&
    lagoonAt (winBase l.window s) == some n)

/-- Lagoon words that read uncorrectable become poisoned staples of the slot, and back (R71, R129). -/
def moveBad (fromLagoon : Bool) (lag slot : Nat) (s : State) : State :=
  if fromLagoon then
    let bad := s.lagoonBad.filter fun w => lag ≤ w * 8 && w * 8 < lag + lagoonSize
    let s := { s with lagoonBad := s.lagoonBad.filter fun w => !(lag ≤ w * 8 && w * 8 < lag + lagoonSize)
                      staples := s.staples.filter fun m => !(slot ≤ m.1 * 4096 && m.1 * 4096 < slot + lagoonSize) }
    bad.foldl (fun s w => setMeta (w * 8 - lag + slot) { poison := true } s) s
  else
    let bad := s.staples.filter fun m => slot ≤ m.1 * 4096 && m.1 * 4096 < slot + lagoonSize
    let s := { s with lagoonBad := s.lagoonBad.filter fun w => !(lag ≤ w * 8 && w * 8 < lag + lagoonSize) }
    bad.foldl (fun s m => failLagoon (m.1 * 4096 - slot + lag) 4096 s) s

/-- Saves the state block of context r on spindle n and clears it there. -/
def saveBlock (r n : Nat) (s : State) : State :=
  modSpn n (fun p =>
    let b : Saved := { ctx := r, threads := p.threads.filter fun t => t.2.ctx == r
                       windows := p.windows.filter fun w => w.1.ctx.toNat == r
                       locks := p.locks.filter fun w => w.1.ctx.toNat == r
                       stage := p.stage.filter fun x => x.ctx == r }
    { p with threads := p.threads.filter fun t => t.2.ctx != r
             windows := p.windows.filter fun w => w.1.ctx.toNat != r
             locks := p.locks.filter fun w => w.1.ctx.toNat != r
             stage := p.stage.filter fun x => x.ctx != r
             saved := (p.saved.filter fun x => x.ctx != r) ++ [b] }) s

/-- Whether a saved thread waits for a barrier round that has been released meanwhile (R330). -/
def roundDone (c n t : Nat) (s : State) : Bool :=
  !(s.bars.any fun b => b.2.ctx == c && b.2.waiters.any fun w => w.1 == n && w.2.2 == .thread t)

/-- A restored thread is ready when what it waits for has come (R330). -/
def recheck (c n t : Nat) (s : State) : State :=
  let th := thread n t s
  if th.state != .waitSync then s
  else match th.watch with
    | some (a, k, op) => if watchHolds k op (rdNat a 8 s) then wake n t s else s
    | none => if roundDone c n t s then wake n t s else s

/-- Brings the state block of context c back to spindle n. -/
def loadBlock (c n : Nat) (s : State) : State :=
  match (spn n s).saved.find? fun b => b.ctx == c with
  | none => s
  | some b =>
    let s := modSpn n (fun p => { p with
      threads := b.threads.foldl (fun m t => put m {} t.1 t.2) p.threads
      windows := p.windows ++ b.windows, locks := p.locks ++ b.locks, stage := p.stage ++ b.stage
      saved := p.saved.filter fun x => x.ctx != c }) s
    wakeRecv c (b.threads.foldl (fun s t => recheck c n t.1 s) s)

/-- Whether a spindle of lower rank in the same spill region waits for its spill: a region takes its spindles in ascending
rank (R356). -/
def spillBehind (r n : Nat) (s : State) : Bool :=
  let x := ctx r s
  let rank (m : Nat) : Nat := (x.weave.set.findIdx? (· == m)).getD 0
  let k := max 1 x.spills.length
  s.ctxs.any fun c => c.2.spillWait.any fun p => p.2 == r && rank p.1 < rank n && rank p.1 % k == rank n % k

/-- The spill counts once for the context that takes the spindles (R356; r itself names the one that faulted, R359), and when it was the last of r's spindles, r's
channels are saved to its context block (R344). -/
def spillTail (r c : Nat) (s : State) : State :=
  let c := if c = r then ((existing s).find? fun k => k != r && (ctx k s).spillWait.any fun p => p.2 == r).getD c else c
  let s := if (ctx r s).spillers.contains c then s
    else modCtx r (fun x => { x with spillers := x.spillers ++ [c] }) (bump64 (CTX_ACC r 2) 1 s)
  if (ctx r s).resident.isEmpty then modCtx r (fun x => { x with chanBlock := (chansOf r s).map fun n => (n, chan n s) }) s
  else s

/-- The spill of r's data on spindle n for context c completes. -/
def spillDone (r c n : Nat) (s : State) : State :=
  if !((ctx c s).spillWait.contains (n, r) && (ctx r s).resident.contains n) then s
  else match spillSlot r n s with
    | none => s
    | some a =>
      if spillBlocked r n s || spillBehind r n s || retraining a s then s
      else
        let s := moveBad true (lagoonBase n) a (copyRange (lagoonBase n) a lagoonSize s)
        let s := bump64 (CTX_ACC r 5) (2064 * 1024) (saveBlock r n s)
        let s := modCtx r (fun x => { x with resident := x.resident.erase n, spilled := x.spilled ++ [n] }) s
        lagoonsFreed r [n] (spillTail r c s)

/-- When all of c's spindles are back its channels go on from the runs that were saved (R344). -/
def restoreChans (c : Nat) (s : State) : State :=
  if !(ctx c s).spilled.isEmpty then s
  else
    let s := (ctx c s).chanBlock.foldl (fun s b => modChan b.1 (fun x =>
      if x.state == .aborted then x
      else { x with active := b.2.active, shadow := b.2.shadow, next := b.2.next, redo := b.2.redo }) s) s
    modCtx c (fun x => { x with chanBlock := [], spillers := [] }) s

/-- The restore of c's slot for spindle n completes. -/
def restoreDone (c n : Nat) (s : State) : State :=
  if !(ctx c s).restoreWait.contains n then s
  else match spillSlot c n s with
    | none => s
    | some a =>
      if retraining a s then s
      else
        let s := moveBad false (lagoonBase n) a (copyRange a (lagoonBase n) lagoonSize s)
        let s := modCtx c (fun x => { x with restoreWait := x.restoreWait.erase n, spilled := x.spilled.erase n
                                             resident := x.resident ++ [n] }) s
        settleFerry (restoreChans c (loadBlock c n (bump64 (CTX_ACC c 6) (2064 * 1024) s)))

/-! ### Meanings -/

def execSpill (r c : BitVec 6) (spindle : Nat) (s : State) : Host.Outcome State Fault Refusal :=
  run (spillDone r.toNat c.toNat spindle) s

def execRestore (c : BitVec 6) (spindle : Nat) (s : State) : Host.Outcome State Fault Refusal :=
  run (restoreDone c.toNat spindle) s

def execPrimingComplete (ctx : BitVec 6) (s : State) : Host.Outcome State Fault Refusal :=
  run (endPriming ctx.toNat) s

end Sys2Proof.Machine
end

