-- ==== Sys2Proof/WellFormed.lean ====
section
/-! DEFINITION. WellFormed.lean: the commands that a sender can form: accesses of a size that PCIe carries inside the BAR,
numbers of units that exist, images and lists of the length the manual gives them. `exec` is total on every command. -/

namespace Sys2Proof

/-- An access of 1, 2, 4 or 8 bytes that ends inside a BAR of `bar` bytes (R8, R9, R11). -/
def accessOk (bar off size : Nat) : Bool := [1, 2, 4, 8].contains size && off + size ≤ bar

/-- A register access by offset: 4 or 8 bytes inside BAR0 (R9). -/
def regAccessOk (off size : Nat) : Bool := [4, 8].contains size && accessOk (2 ^ 26) off size

/-- A logical spindle number (R6). -/
def spindleOk (n : Nat) : Bool := n < 288

/-- A participant index (R315). -/
def participantOk (p : Nat) : Bool := p < 360

/-- A queue command: sixteen words (R217). -/
def cmdOk (c : CmdWords) : Bool := c.length == 16

/-- A request packet: at most 4 KiB of payload (R293). -/
def packetOk (p : Packet) : Bool := p.payload.length ≤ 4096
/-- A response packet: at most 4 KiB of data (R294). -/
def respLenOk (r : RespPacket) : Bool := r.data.length ≤ 4096

/-- A port number: straits 0 to 5, the offing 6 (R274). -/
def portOk (p : BitVec 3) : Bool := p.toNat < 7

/-- A report of an unfinished unit names a cause of R115 that exists, and a MEM_STALL one names its stall cause (R146). -/
def overrunOk (o : Overrun) : Bool :=
  o.cause.toNat < 10 && (o.cause.toNat != 3 || match o.stall with
    | some k => k.toNat < 10
    | none => false)

/-- Whether a command is one that a sender can form. -/
def Instr.wellFormed : Instr → Bool
  | .registerWrite off size _ | .cairnWrite off size _ | .memRgnWrite off size _ | .winCfgWrite off size _ =>
    regAccessOk off.toNat size
  | .rcCounterRead off size => regAccessOk off.toNat size
  | .illegalSizeAccess _ off size _ | .unmappedAccess _ off size _ => accessOk (2 ^ 26) off.toNat size
  | .vfInvalidAccess fn _ off size _ => fn != 0 && accessOk (2 ^ 20) off.toNat size
  | .lowWordRead off | .lowWordWrite off _ => off.toNat % 8 == 0
  | .highWordRead off | .highWordWrite off _ => off.toNat % 8 == 4
  | .memoryAccessComplete n _ _ | .packageFence ⟨n, _⟩ _ | .packageFenceComplete n _ | .spnCntClr n _ | .spnCaptureClr n _
  | .fence n _ | .recv n _ | .watch n _ _ _ _ | .hangTimeout n | .spill _ _ n | .restore _ n => spindleOk n
  | .arrive _ p _ | .wait _ p _ | .arriveWait _ p _ => participantOk p
  | .strikeExpiry p => p < 304
  | .beatEdge r _ _ => r.late.all overrunOk
  | .nop _ c | .admitSkein _ c | .cancel _ c | .retire _ c | .reprioritise _ c => cmdOk c
  | .stopLoad _ c image => cmdOk c && image.length == 256
  | .promptSliceStaged _ chunks buffer => chunks != 0 && buffer.all fun b => decide (64 ≤ b.length)
  | .put p | .putSignal p | .get p | .reduce p | .mcastPut p | .atomic p _ | .signal p => packetOk p
  | .send (.message p) | .send (.causeway p) => packetOk p
  | .send (.pairSpdm node _) => node / 128 % 4 == 0
  | .ack r | .data r | .nak r => respLenOk r
  | .codewordReceive port _ _ _ _ _ _ _ | .laneRepair port _ | .signalLoss port | .retrainInterval port
  | .portTrainingDone port _ | .portRetrainDone port _ | .idFrame port _ | .linkSpdmFrame port _ _ _
  | .linkKeyUpdate port _ | .prsntMate port | .prsntRelease port => portOk port
  | .bootOffer port _ _ => port.toNat < 6
  | .railTimeout g => 1 ≤ g.toNat && g.toNat ≤ 5
  | .traceClr _ | .gauCntClr _ | .fbEn _ | .tensorEntry _ _ | .repeatComplete _ _ | .adapterPass _ _ | .tileComplete _ _
  | .retainWindowClose _ | .vectorEntry _ _ | .vectorProgramEnd _ _ _ | .nopEntry _ | .wvLoadStart _ | .weaveLoadDone
  | .patchStep _ _ | .slipVoteResult _ | .voteTimeout | .voteLossTimeout | .tallyFrame _ _ _ _
  | .holdoverExpired | .btCtrlWrite _ | .beatLenWrite _ | .pinExpiry _ _ | .primingComplete _ | .memBindWrite _ _ _
  | .swapListStart _ | .swapPairCopied _ | .memCntClr _ | .stapleRestore _ _ | .scrubStaple _ _ _ | .digestPassStart
  | .digestPassEnd | .passDigestReceive _ _ _ | .atollFailure _ | .shoalFailure _ | .atollRetrain _ | .atollRetrainDone _
  | .reefFwd _ _ _ | .reefBwd _ _ _ | .reefRowStart _ _ _ _ | .reefCntClr _ _ | .reefCaptureClr _ _ | .build _
  | .kvBuildComplete | .kvCntClr _ | .kvCaptureClr _ | .shardCreate _ | .flushComplete _ | .carryLanded _
  | .prefillPageWrite _ _ _ | .shardPageLanding _ _ _ | .shardRelease _ _ _ | .directoryRepair _ _ _ | .qDoorbell _ _
  | .qRingTail _ _ | .directCancel _ | .sknHankAdd _ | .queueEnable _ _ | .queueDisable _ _ | .ctxRangeWrite _ _
  | .completionRecordWrite _ _ | .sampleEntry _ _ | .commitProfile _ | .profileCheckDone | .smpCntClr _ | .smpCaptureClr _
  | .route _ _ | .gather _ _ | .ret _ _ | .combine _ _ | .crdCntClr _ | .crdCaptureClr _ | .fabricOperationIssue _
  | .retransmitTimeout _ _ | .operationTimeout _ _ | .portDownNotice _ _ | .portUp _ _ | .windowDrainDone _
  | .gldNodeWrite _ | .causewayWrite _ | .msgRingWrite _ _ | .arriveMessage _ _ _ _ _ | .releaseMessage _ _ _ _
  | .synCntClr _ | .synCaptureClr _ | .ferryEntry _ | .load _ _ | .resume _ _ _ | .abort _ _ | .timerTrigger _
  | .transferComplete _ _ _ _ | .busError _ _ _ _ | .fryCntClr _ | .fryCaptureClr _ | .teardown _ _ | .teardownComplete _
  | .ctxSpillWrite _ _ _ | .ctxCaptureClr _ | .witnessReplay _ | .witnessComplete _ _ _ _ | .buddyRequest _ _ _ _ _
  | .buddyAnswer _ _ | .buddyTimeout _ | .intFence _ | .sounding _ | .soundingComplete _ _ | .intCntClr _
  | .intCaptureClr _ | .powerSample _ | .vfStepDone | .droopAlarm _ _ _ | .thermalSample _ | .thermalLimitTimeout
  | .floorTimeout | .havenEnter _ | .havenExit _ | .capHostWrite _ | .bmcCapSet _ | .pwrCntClr _ | .slotWrite _
  | .keyLoad _ | .keyClear _ | .unsealWrite _ | .svnAdvance _ | .getVersion | .getCertificate _ | .challenge _
  | .getMeasurements _ | .keyExchange _ | .keyUpdate _ | .heartbeat _ | .ideKm _ _ | .standbyPowerUp | .mainEnAssert
  | .mainEnDeassert | .enShortOpen | .inputUndervoltage | .powerGood | .stageComplete _ | .cold _ | .warm _
  | .warmRejoinDone _ _ _ _ | .fwGo _ | .fwFetchDone _ _ _ _ | .selftestDone _ | .retrainRequest _ | .perstAssert
  | .perstDeassert _ | .hostLinkDown _ | .hostLinkUp _ | .hostLossTimeout | .mctpControl _ | .irqMaskWrite _ | .hotReset
  | .enShortClose => true

end Sys2Proof
end

