-- ==== Sys2Proof/Machine/Edge.lean ====
section
/-! DEFINITION. Machine/Edge.lean: beat edges, overrun reports, slip votes, grants, and the tally (R115 to R124, R352 to
R355, R359, R363, R364, R374, R479). -/

namespace Sys2Proof.Machine

/-! ### Overrun reports (R115) -/

def ovSpindle : Nat := 0
def ovFallback : Nat := 1
def ovReef : Nat := 2
def ovStall : Nat := 3
def ovFabric : Nat := 4
def ovCard : Nat := 5
def ovFerry : Nat := 6
def ovPilot : Nat := 7
def ovPower : Nat := 8
def ovSync : Nat := 9

def report (cause c : Nat) : Overrun := { cause := BitVec.ofNat 4 cause, ctx := some (BitVec.ofNat 6 c) }

/-- Whether entry i of a list counts as complete at the edge (R110). -/
def complete (t : Template) (i : Nat) (d : Disp) : Bool :=
  d.st == .done || eKind d.words == kNop ||
  (idle d && fullyPatched t i d && eKind d.words != kCard && eKind d.words != kSync)

/-- The entries of phases whose last beat ends: phase with its template, index, entry. -/
def lastEntries (c : Nat) (s : State) : List (Nat × Template × Nat × Disp) :=
  match stepOf c s with
  | none => []
  | some st =>
    let w := (ctx c s).weave
    let sh := shapeOf w st.shape
    (List.range sh.phases.length).flatMap fun ph => match sh.phases[ph]? with
      | none => []
      | some p =>
        if p.firstBeat + p.beats != st.beat + 1 then []
        else
          let l := lookup st.lists [] ph
          ((List.range l.length).zip l).map fun x => (ph, templateOf w p, x.1, x.2)

/-- Entries of phases whose last beat ends that are not complete: phase, index, entry. -/
def unfinished (c : Nat) (s : State) : List (Nat × Nat × Disp) :=
  (lastEntries c s).filterMap fun x => if complete x.2.1 x.2.2.1 x.2.2.2 then none else some (x.1, x.2.2)

/-- Skipped VECTOR entries of a phase that ends, whose unit has not come to them: they count as complete, and what their
programs contribute to collectives is still owed (R265). -/
def skipsDue (c : Nat) (s : State) : List (EntryRef × Disp) :=
  (lastEntries c s).filterMap fun x =>
    let d := x.2.2.2
    if eKind d.words == kVector && d.st == .waiting && idle d && fullyPatched x.2.1 x.2.2.1 d then
      some ({ ctx := BitVec.ofNat 6 c, phase := BitVec.ofNat 8 x.1, idx := x.2.2.1 }, d)
    else none

/-- Sends the contributions that are due at the edge. -/
def settleSkips (s : State) : State :=
  ((existing s).filter fun c => ctxLive c s && (ctx c s).ran).foldl (fun s c =>
    (skipsDue c s).foldl (fun s x => doneEntry x.1 (skipSends x.1 x.2 s)) s) s

/-- The causes that one unfinished entry reports. -/
def entryCauses (c ph idx : Nat) (d : Disp) (s : State) : List Nat :=
  let e := d.words
  let k := eKind e
  if k = kTensor || k = kVector || k = kSample then
    let spent : Bool := match stepOf c s, phaseOf c ph s with
      | some st, some p => p.reserve < lookup st.reserve 0 (ph * 512 + eSpindle e)
      | _, _ => false
    let th := if k = kVector then thread (eSpindle e) (vThread e) s else {}
    let mine : Bool := th.entry == some { ctx := BitVec.ofNat 6 c, phase := BitVec.ofNat 8 ph, idx := idx }
    let wait : List Nat :=
      if mine && (th.state == .waitRemote || (th.state == .waitSync && th.watch.any fun w => !heldFor c w.1 s)) then [ovFabric]
      else if mine && th.state == .waitSync && th.watch.isSome then []
      else if mine && th.state == .waitSync then [ovSync] else []
    (if spent && k != kSample then ovFallback else ovSpindle) :: wait
  else if k = kReef then
    let late (r : Nat) : Bool := rowStep e r s != stepLow c s || (rOp e == 1 && rdNat (gradRow e r) 4 s / 2 ^ 12 != stepLow c s)
    ovReef :: (if (List.range (mLive e)).any late then [ovFabric] else [])
  else if k = kCard then [ovCard]
  else if k = kFerry && fBound { words := e, src := .driver } then [ovFerry]
  else if k = kSync then [ovSync]
  else []

/-- Causes that a running context's pilots report at an edge whatever phase ends (R112, R337, R388). -/
def pilotCauses (c : Nat) (s : State) : List Nat :=
  let late : List Nat := match phaseNow c s, stepOf c s with
    | some ph, some st => match phaseOf c ph s with
      | some p =>
        let t := templateOf (ctx c s).weave p
        let l := lookup st.lists [] ph
        let unpatched : Bool := (List.range t.patches.length).any fun i => match t.patches[i]? with
          | some r => pTiming r < 2 && (match l[pEntry r]? with
            | some d => !d.patched.contains i
            | none => false)
          | none => false
        let held : Bool := l.any fun d => eKind d.words == kFerry && d.st == .waiting && !eSkip d.words &&
          (match chanAt c (ef d.words 1 31 26) s with
           | some n => (chan n s).shadow.isSome
           | none => false)
        (if unpatched then [ovPilot] else []) ++ (if held then [ovFerry] else []) ++
          (if heavyPhase c p s && !holdsLeave (phaseKind c ph s) s then [ovPower] else [])
      | none => []
    | _, _ => []
  let records : Bool := match stepOf c s with
    | some st => (List.range (ctx c s).weave.prefetch.length).any fun i => match (ctx c s).weave.prefetch[i]? with
      | some r => r.shape == st.shape && r.issue ≤ st.beat && !st.issued.contains i &&
          (match chanAt c r.channel s with
           | some n => (chan n s).shadow.isSome
           | none => false)
      | none => false
    | none => false
  late ++ (if records then [ovFerry] else [])

/-- The halted channels with a BOUND transfer, a context's and the driver's, report FERRY at every edge (R342). -/
def haltReports (s : State) : List Overrun :=
  s.chans.filterMap fun x => match x.2.state, x.2.active with
    | .halted, some d =>
      if fBound d then some { cause := BitVec.ofNat 4 ovFerry, ctx := (ownerCtx x.1 s).map fun c => BitVec.ofNat 6 c } else none
    | _, _ => none

/-- The stall cause of R146 that an incomplete entry gives its unit: what a tile waits for before it starts, in a repeat,
or in the replay of a suspect; a ply that a repeat reads on demand, at the last edge of the phase (R140); a lagoon not yet
restored (R357); what a tile program waits for: records that an engine holds (R180), an access to a retraining atoll or to a
staple under restore; and a write of the last commit that has not landed (R378). -/
def entryStall (c : Nat) (last : Bool) (d : Disp) (s : State) : Option Nat :=
  let e := d.words
  let here := lagoonHere c (eSpindle e) s
  if eKind e = kTensor then
    match d.st with
    | .waiting => tileStall c e (startWiden c e s) s
    | .repeating => match repeatStall c d s, tileShard c e s with
      | some k, _ => some k
      | none, some sh => if last && (atollReads e sh (d.widen + 1)).any fun r => r.2.2 == 1 then some 1 else none
      | none, none => none
    | .committing => if here then none else some 8
    | .suspect => match d.susp.bind (·.witness), freshShard c e s with
      | some _, some sh => readStall e sh d.widen s
      | _, _ => none
    | _ => none
  else if eKind e = kVector && (d.st == .waiting || d.st == .committing) && !here then some 8
  else if eKind e = kVector && d.st == .committing then
    let th := thread (eSpindle e) (vThread e) s
    if th.ctx != c then none
    else match th.state, th.watch, th.access with
      | .waitSync, some w, _ => if heldFor c w.1 s then some 3 else none
      | .waitMem, _, some x =>
        if retraining x.addr.toNat s then some 3
        else if x.store.isNone && restoring x.addr.toNat x.len s then some 4 else none
      | _, _, _ => none
  else if (eKind e = kReef || eKind e = kSample) && d.st == .waiting && commitHeld c s then some 3
  else none

/-- The logical spindle that reports for an entry, when its unit is one. -/
def entrySpindle (e : List W32) : Option Nat := if eKind e = kTensor || eKind e = kVector then some (eSpindle e) else none

/-- The units of c that report MEM_STALL at an edge, each with one cause (R146): that of the first entry of the phase that
its unit has reached and that waits for memory. The spindle is given when the unit is one. -/
def stallsOf (c : Nat) (s : State) : List (Option Nat × Nat) :=
  match stepOf c s, phaseNow c s with
  | some st, some ph => match phaseOf c ph s with
    | none => []
    | some p =>
      let t := templateOf (ctx c s).weave p
      let l := (List.range (lookup st.lists [] ph).length).zip (lookup st.lists [] ph)
      let reached (i : Nat) (d : Disp) : Bool :=
        !complete t i d && !idle d && (l.take i).all (fun x => passed t x.1 x.2 || !shareUnit x.2.words d.words) &&
          (d.st != .waiting || (phaseOpen c ph s && fullyPatched t i d))
      (l.filter fun x => reached x.1 x.2).foldl (fun acc x =>
        match entryStall c (p.firstBeat + p.beats == st.beat + 1) x.2 s with
        | some k =>
          let n := entrySpindle x.2.words
          if n.isSome && acc.any fun y => y.1 == n then acc else acc ++ [(n, k)]
        | none => acc) []
  | _, _ => []

/-- Of two MEM_STALL reports of one spindle the first stands: a unit names one cause (R146). -/
def oneCause (l : List Overrun) : List Overrun :=
  l.foldl (fun acc o =>
    if o.cause.toNat == ovStall && o.spindle.isSome && acc.any (fun p => p.cause.toNat == ovStall && p.spindle == o.spindle)
    then acc else acc ++ [o]) []

/-- The reports of this package at an edge: what the model sees unfinished, and what the units report besides (`late`).
Only SPINDLE, FALLBACK and MEM_STALL are exclusive: a spindle that reports MEM_STALL reports neither of the others. -/
def overruns (late : List Overrun) (s : State) : List Overrun :=
  let late := late.filter fun o => overrunOk o && (match o.ctx with
    | some c => ctxLive c.toNat s
    | none => true)
  let own := ((existing s).filter fun c => ctxLive c s && (ctx c s).ran).flatMap fun c =>
    let own := stallsOf c s
    let stalled (n : Option Nat) : Bool := n.isSome && (own.any (fun p => p.1 == n) ||
      late.any fun o => o.cause.toNat == ovStall && o.spindle == n)
    (own.map fun p => { report ovStall c with stall := some (BitVec.ofNat 4 p.2), spindle := p.1 }) ++
    (unfinished c s).flatMap (fun x =>
      let n := entrySpindle x.2.2.words
      ((entryCauses c x.1 x.2.1 x.2.2 s).filter fun k => !(k < 2 && stalled n)).map fun k =>
        { report k c with spindle := if k < 2 then n else none }) ++
    (pilotCauses c s).map fun k => report k c
  oneCause (late ++ own ++ haltReports s).eraseDups

/-- The unfinished entries of every running context that report a cause, by context, in ascending order of a key. -/
def lateEntries (cause : Nat) (key : Nat → Disp → Nat) (s : State) : List (Nat × Disp) :=
  let l := ((existing s).filter fun c => (ctx c s).ran).flatMap fun c =>
    ((unfinished c s).filter fun x => (entryCauses c x.1 x.2.1 x.2.2 s).contains cause).map fun x => (c, x.2.2)
  sortBy (fun a b => key a.1 a.2 < key b.1 b.2) l

/-- Error flags and counts that go with the reports (R146, R180, R182, R271, R343). Of errors that arise at one edge the lower
SLOT, of a channel the lower number, is latched (R183, R273, R346). -/
def overrunFlags (late : List Overrun) (s : State) : State :=
  let ks := (((overruns late s).filter fun o => o.cause.toNat == ovStall).filterMap fun o => o.stall.map (·.toNat)).eraseDups
  let s := (ks.filter (· < 10)).foldl (fun s k => bump64 (MEM_STALL_CAUSE k) 1 s) s
  let slot (_ : Nat) (d : Disp) : Nat := eSlot d.words
  let chanOf (c : Nat) (d : Disp) : Nat := (chanAt c (ef d.words 1 31 26) s).getD 64
  let reefs := lateEntries ovReef slot s
  let cards := lateEntries ovCard slot s
  let ferries := (lateEntries ovFerry chanOf s).filter fun x => eKind x.2.words == kFerry
  let s := (List.range 8).foldl (fun s a =>
    let mine := reefs.filter fun x => (enginesOf x.2.words s).contains a && !x.2.reefDone.contains a
    if mine.isEmpty then s
    else mine.foldl (fun s x => reefErr (REEF_ERR_OVERRUN a) a x.1 (eSlot x.2.words) s) (bump32 (REEF_CNT_OVERRUN a) 1 s)) s
  let s := cards.foldl (fun s x => crdErr CRD_ERR_OVERRUN x.1 (eSlot x.2.words) s) s
  ferries.foldl (fun s x => if chanOf x.1 x.2 < 64 then fryErr FRY_ERR_OVERRUN (chanOf x.1 x.2) s else s) s

/-! ### Grants (R352, R353, R354) -/

/-- The spills that c needs: a spindle of its set is resident for another context, or c's own data there is still being
spilled for a context that has faulted (R359). -/
def spillNeeds (c : Nat) (s : State) : List (Nat × Nat) :=
  let leaves (n : Nat) : Bool := (ctx c s).resident.contains n &&
    (existing s).any fun k => !ctxLive k s && (ctx k s).spillWait.contains (n, c)
  (ctx c s).weave.set.filterMap fun n =>
    if leaves n then some (n, c)
    else ((existing s).find? fun r => r != c && (ctx r s).resident.contains n).map fun r => (n, r)

def inQuantum (c : Nat) (s : State) : Bool := (ctx c s).ran && (ctx c s).quantum < fld (CTX_CFG_MIN_BEATS c) s

/-- The common sort order of R353. -/
def grantBefore (s : State) (a b : Nat) : Bool :=
  let pa := fld (CTX_CFG_PRIO a) s
  let pb := fld (CTX_CFG_PRIO b) s
  if pa != pb then pa > pb
  else if inQuantum a s != inQuantum b s then inQuantum a s
  else if (ctx a s).last != (ctx b s).last then (ctx a s).last < (ctx b s).last
  else a < b

/-- Grants in order: contexts whose set meets no set taken before. -/
def grantOrder (s : State) : List Nat → List Nat → List Nat
  | _, [] => []
  | taken, c :: rest =>
    let set := (ctx c s).weave.set
    if set.any taken.contains then grantOrder s taken rest else c :: grantOrder s (taken ++ set) rest

def grantCands (s : State) : List Nat :=
  sortBy (grantBefore s) ((existing s).filter fun c => ctxLive c s && (rd CTX_WANT s).getLsbD c)

/-- Granted contexts, by the combined WANT of the previous edge. -/
def granted (s : State) : List Nat := grantOrder s [] (grantCands s)

/-- A 64-bit mask of contexts. -/
def ctxMask (l : List Nat) : W64 := BitVec.ofNat 64 (l.foldl (fun m c => m ||| 2 ^ c) 0)

/-- The HOLD bits of this package: candidates not granted, spills incomplete, replays (R353, R374). -/
def holdMask (s : State) : W64 :=
  let g := granted s
  ctxMask ((existing s).filter fun c => replayBusy c s ||
    ((grantCands s).contains c && (!g.contains c || !(spillNeeds c s).isEmpty)))

/-- Whether c runs after this edge if every other package agrees. -/
def willRun (c : Nat) (s : State) : Bool :=
  (granted s).contains c && (spillNeeds c s).isEmpty && !replayBusy c s

/-- WANT of one context (R352), read as the step stands after this edge. -/
def wantBit (c : Nat) (s : State) : Bool :=
  let x := ctx c s
  let len (i : Nat) : Nat := (shapeOf x.weave i).len
  let runs := willRun c s
  !(candidates c s).isEmpty ||
  match x.step with
  | some st =>
    let pos := st.beat + x.ran.toNat
    if pos ≥ len st.shape then runs && len 0 > 1 else pos + 1 < len st.shape || !runs
  | none => runs && ctxState c s != cxStarting && x.priming.isNone && len (selectShape x.weave x.next) > 1

def wantMask (s : State) : W64 := ctxMask ((existing s).filter fun c => ctxLive c s && wantBit c s)

/-- A granted context takes its spindles: spills and restores begin (R356, R357), and its beats count from the grant (R353). -/
def takeSpindles (c : Nat) (s : State) : State :=
  let need := spillNeeds c s
  modCtx c (fun x =>
    let free := x.weave.set.filter fun n => !(need.any fun p => p.1 == n) && !x.resident.contains n
    { x with granted := true, spillWait := need, quantum := if x.granted then x.quantum else 0
             resident := x.resident ++ free.filter fun n => !x.spilled.contains n
             restoreWait := x.restoreWait ++ (free.filter fun n => x.spilled.contains n && !x.restoreWait.contains n) }) s

/-- A context that is not granted drops what it waits for; the spills for a faulted context go on (R359). -/
def loseGrant (c : Nat) (s : State) : State :=
  modCtx c (fun x => { x with granted := false, restoreWait := [], spillWait := if ctxLive c s then [] else x.spillWait }) s

/-- CTX_STATE after the grants (R347). -/
def settleState (c : Nat) (s : State) : State :=
  if !ctxLive c s || ctxState c s = cxStarting then s
  else
    let x := ctx c s
    setState c (if x.ran then cxRunning else if x.step.isSome || !(candidates c s).isEmpty then cxHeld else cxIdle) s

/-- The beat that follows begins for one context: it runs, or it does not (R350, R355, R388). -/
def beginBeat (hold : W64) (stop : List Nat) (c : Nat) (s : State) : State :=
  let x := ctx c s
  let runs : Bool := ctxLive c s && x.granted && x.spillWait.isEmpty && !hold.getLsbD c && !replayBusy c s && !stop.contains c
  let s := modCtx c (fun x => { x with ran := runs, last := if runs then beat s else x.last }) s
  if !runs then releasePhases c s
  else if bit (CTX_STATE_NEVER_RAN c) s then firstGrant c s
  else if x.priming.isSome then s
  else beatHead c (if x.step.isNone then startStepOf c s else s)

/-! ### The two kinds of edge (R116 to R119, R206, R224, R374, R378) -/

/-- The slip of one context with an overrun of its own (R119, R363). -/
def slipCtx (c : Nat) (s : State) : State :=
  if !ctxLive c s then s
  else
    let s := bump64 (CTX_ACC c 3) 1 (modCtx c (fun x => { x with slipRun := x.slipRun + 1 }) s)
    let lim := fld BT_SLIP_LIMIT_LIMIT s
    if lim != 0 && (ctx c s).slipRun ≥ lim then faultCtx c cfSlip none (setErr BT_ERR_SLIP_LIMIT s) else s

/-- A slip edge; of contexts that fault at it the lower is captured (R366). -/
def slipEdge (causes : BitVec 16) (s : State) : State :=
  let own := s.edge
  let s := (List.range 10).foldl (fun s k =>
    let s := if causes.getLsbD k then bump64 (BT_SLIP_CNT k) 1 s else s
    if own.any fun o => o.cause.toNat == k then bump64 (BT_SLIP_LOCAL k) 1 s else s) s
  let s := (sortBy (· < ·) (own.filterMap fun o => o.ctx.map (·.toNat)).eraseDups).foldl (fun s c => slipCtx c s) s
  (existing s).foldl (fun s c => modCtx c (fun x => { x with last := if x.ran then beat s else x.last }) s) s

/-- The schedule beat of a running context advances; the leave of a phase that ends is released. -/
def advance (c : Nat) (s : State) : State :=
  match stepOf c s, phaseNow c s with
  | some st, some ph =>
    let s := match phaseOf c ph s with
      | some p => if p.firstBeat + p.beats = st.beat + 1 then endPhase c s else s
      | none => s
    modStep c (fun st => { st with beat := st.beat + 1 }) s
  | some _, none => modStep c (fun st => { st with beat := st.beat + 1 }) s
  | none, _ => s

/-- Whether c's step ends at this edge. -/
def stepEnds (c : Nat) (s : State) : Bool :=
  match stepOf c s with
  | some st => (ctx c s).ran && st.beat + 1 ≥ (shapeOf (ctx c s).weave st.shape).len
  | none => false

/-- Retries and publication outside step boundaries (R196, R204). -/
def retryOther (c : Nat) (s : State) : State :=
  let (hs, s) := retryAll c s
  hs.foldl (fun s h => publish h s) s

def bumpEpoch (s : State) : State := wr KV_EPOCH (rd KV_EPOCH s + 1) s

def goodEdge (hold rep : W64) (s : State) : State :=
  let s := (existing s).foldl (fun s c => modCtx c (fun x => { x with slipRun := 0 }) s) s
  let live := (existing s).filter fun c => ctxLive c s
  let again := live.filter fun c => rep.getLsbD c && (stepOf c s).isSome
  let ends := live.filter fun c => stepEnds c s && !again.contains c
  let others := live.filter fun c => !ends.contains c
  let cancels : Bool := others.any fun c => !(cancelsDue c s).isEmpty
  let retries : Bool := others.any fun c => !(retryAll c s).1.isEmpty
  let s := if !ends.isEmpty || cancels || retries then bumpEpoch s else s
  let e := kvEpoch s
  let s := ends.foldl (fun s c => commit c e s) s
  let s := (others.filter fun c => (ctx c s).ran && !again.contains c).foldl (fun s c => advance c s) s
  let s := others.foldl (fun s c => (cancelsDue c s).foldl (completeCancel c e) s) s
  let s := others.foldl (fun s c => retryOther c s) s
  let s := (others.filter fun c => (stepOf c s).isNone).foldl (fun s c =>
    (faultedOf c s).foldl (fun s i => publish (sk i s).dir (leaveSkein e (leaveNext c e i s) i)) s) s
  let s := again.foldl (fun s c => replayStep c s) s
  let g := granted s
  let s := ((existing s).filter fun c => !g.contains c).foldl (fun s c => loseGrant c s) s
  let s := g.foldl (fun s c => takeSpindles c s) s
  let s := (existing s).foldl (fun s c => beginBeat hold again c s) s
  let late := (existing s).filter fun c => rep.getLsbD c && !again.contains c && (stepOf c s).isSome
  let s := late.foldl (fun s c => replayStep c s) s
  wr CTX_HOLD hold ((existing s).foldl (fun s c => settleState c s) s)

/-- The combined vote has arrived. The package's own contribution is part of it. -/
def applyVote (v : Vote) (s : State) : State :=
  let flag := v.flag || !s.edge.isEmpty
  let causes := s.edge.foldl (fun m o => m ||| BitVec.ofNat 16 (2 ^ o.cause.toNat)) v.causes
  let rep := v.replay ||| s.replayAsk
  let hold := v.hold ||| holdMask s
  let rings := s.lostRings
  let s := setFld BT_STATUS_HELD 0 { s with voteDue := false, replayAsk := 0, lostRings := rings ++ v.lostRings.map (·.toNat) }
  let s :=
    if flag then
      let s := slipEdge causes s
      let live := (existing s).filter fun c => ctxLive c s && rep.getLsbD c && (stepOf c s).isSome
      live.foldl (fun s c => settleState c (replayStep c s)) s
    else goodEdge hold rep s
  let s := wr CTX_WANT v.want { s with edge := [] }
  let s := { (s.skeins.map (·.1)).foldl (fun s i => setPhases i s) s with lostRings := rings }
  settleCauseway (settleFerry (kvRelease (ringVectors s)))

/-- The vote this package contributes. -/
def ownVote (s : State) : Vote :=
  { flag := !s.edge.isEmpty, causes := s.edge.foldl (fun m o => m ||| BitVec.ofNat 16 (2 ^ o.cause.toNat)) 0
    want := wantMask s, hold := holdMask s, replay := s.replayAsk }

/-! ### The edge itself (R120, R226, R363, R364, R373) -/

/-- Beats run and waited (R363). -/
def countBeat (c : Nat) (s : State) : State :=
  let st := ctxState c s
  let wait : Bool := (st = cxHeld || st = cxStarting) && (rd CTX_WANT s).getLsbD c
  let s := if wait then bump64 (CTX_ACC c 0) 1 s else s
  if (ctx c s).ran then
    modCtx c (fun x => { x with quantum := x.quantum + 1 }) (if st = cxStarting then s else bump64 (CTX_ACC c 1) 1 s)
  else s

/-- Charges energy in µJ to a context's figure, or to CTX_IDLE_MJ (c = 64), which count whole mJ. -/
def chargeUj (c uj : Nat) (s : State) : State :=
  let t := lookup s.pwr.ctxUj 0 c + uj
  bump64 (if c = 64 then CTX_IDLE_MJ else CTX_ACC c 4) (t / 1000)
    (modPwr (fun p => { p with ctxUj := put p.ctxUj 0 c (t % 1000) }) s)

/-- What the classes of R401 charge directly (R364): each spindle, reef engine and the carding unit its energy to the contexts it
served, in proportion to the time, and the rest what spills and restores took to the incoming contexts. -/
def directUj (e : BeatEnergy) (s : State) : List (Nat × Nat) :=
  let classes := s.pwr.classUj.flatMap fun k =>
    let l := e.served.filter fun x => x.1 == k.1
    let total := l.foldl (fun (t : Nat) x => t + x.2.2) 0
    if k.1 == .rest then [] else l.map fun x => (x.2.1.toNat, if total = 0 then 0 else k.2 * x.2.2 / total)
  let rest := classUj .rest s.pwr.classUj
  let spills := e.spill.foldl (fun (acc : List (Nat × Nat) × Nat) x =>
    (acc.1 ++ [(x.1.toNat, min x.2 acc.2)], acc.2 - x.2)) ([], rest)
  (classes ++ spills.1).filter fun d => ctxExists d.1 s

/-- The energy of the beat that ended, as the samples integrated it, and its average power (R364, R403). What is not charged
directly is divided among the contexts `rans` that ran in the beat, by what they were charged directly, and evenly when that is
nothing (log 62); with none that ran all of it goes to CTX_IDLE_MJ. -/
def chargeEnergy (e : BeatEnergy) (rans : List Nat) (s : State) : State :=
  let all := s.pwr.classUj.foldl (fun t k => t + k.2) 0
  let direct := directUj e s
  let s := setFld PWR_MEAS_BEAT_W (min (all / max 1 (fld BT_BEAT_LEN_LEN_US s)) 65535)
    (modPwr (fun p => { p with classUj := [] }) s)
  if rans.isEmpty then chargeUj 64 all s
  else
    let other := all - direct.foldl (fun t d => t + d.2) 0
    let own (c : Nat) : Nat := (direct.filter fun d => d.1 == c).foldl (fun t d => t + d.2) 0
    let total := rans.foldl (fun t c => t + own c) 0
    rans.foldl (fun s c => chargeUj c (if total = 0 then other / rans.length else other * own c / total) s)
      (direct.foldl (fun s d => chargeUj d.1 d.2 s) s)

/-- Contexts without a step whose step begins at this edge on a spindle that is fenced at it (R374). -/
def freshOnFenced (s : State) : W64 :=
  let f := (s.spns.filter fun p => p.2.fence.isSome).map (·.1)
  ctxMask ((existing s).filter fun c => (stepOf c s).isNone && ctxState c s != cxStarting && (ctx c s).priming.isNone &&
    willRun c s && (ctx c s).weave.set.any f.contains)

/-- Whether there are beats: the package is on and the tally is not UNLOCKED (R120, R122). -/
def beating (s : State) : Bool := s.boot.on && lockState s != lkUnlocked

/-- What the programs that run past the edge did in the beat that ends: their writes are in place before any unit starts work
of the next beat (R113), and a thread whose access is in flight waits for it (R70). -/
def progReport (p : ProgReport) (s : State) : State :=
  match dispAt p.e s with
  | none => s
  | some d =>
    let n := eSpindle d.words
    let t := vThread d.words
    if eKind d.words != kVector || (thread n t s).entry != some p.e then s
    else
      let s := programWrites p.e n (eSlot d.words) p.writes s
      match p.pending with
      | some x => if (thread n t s).state == .ready then accessStart n t x s else s
      | none => s

/-- The package's slip vote goes out on every strait that is UP, in TC0 (R116, R287); a package without one keeps it to
itself. -/
def castVote (v : Vote) (s : State) : State :=
  if (List.range 6).any fun p => portUpNow p s then flood (.vote v) s else send (.vote v) s

/-- A beat edge. While an earlier edge's vote is outstanding every context is held, and only the tally advances
(R118). `vote`: the combined vote, when it is delivered at the edge (log 11). -/
def beatEdge (late : List Overrun) (energy : BeatEnergy) (vote : Option Vote) (progs : List ProgReport) (s : State) :
    State :=
  if !beating s then s
  else
    let s := progs.foldl (fun s p => progReport p s) s
    let s := hankRefill (wr BT_TALLY (rd BT_TALLY s + 1) s)
    if s.voteDue then chargeEnergy energy [] s
    else
      let s := (existing s).foldl (fun s c => countBeat c s) (chargeEnergy energy ((existing s).filter fun c => (ctx c s).ran) s)
      let extra := freshOnFenced s
      let fenced : Bool := s.spns.any fun p => p.2.fence.isSome
      let s := takeFences s
      let s := if fenced then { s with replayAsk := s.replayAsk ||| extra } else s
      let s := settleSkips s
      let s := overrunFlags late { s with edge := overruns late s }
      let s := { castVote (ownVote s) s with voteDue := true }
      match vote with
      | some v => applyVote v s
      | none => s

/-! ### The tally (R118, R121, R122, R123, R479) -/

/-- The package drops tally lock: loaded contexts fault. -/
def unlock (s : State) : State :=
  if lockState s = lkUnlocked then s
  else
    let s := setFld BT_STATUS_HELD 0 (setLock lkUnlocked { s with voteDue := false, edge := [], goodOffsets := 0 })
    (existing s).foldl (fun s c => faultCtx c cfTally none s) s

def voteTimeout (s : State) : State :=
  if s.voteDue then setErr BT_ERR_VOTE_TIMEOUT (setFld BT_STATUS_HELD 1 s) else s

def voteLost (s : State) : State := if s.voteDue then unlock s else s

def holdoverEnd (s : State) : State :=
  if lockState s = lkHoldover then unlock (setErr BT_ERR_HOLDOVER_EXPIRED s) else s

/-- The package locks as root (R479): BEAT starts at 0 at the first lock after a cold boot. -/
def lockRoot (s : State) : State :=
  let s := setFlds [(BT_STATUS_ROOT_NODE, myNode s), (BT_STATUS_HOPS, 0)] (wr BT_OFFSET 0 s)
  if lockState s = lkLocked then s
  else setLock lkLocked { (if s.boot.everLocked then s else wr BT_TALLY 0 s) with goodOffsets := 0 }

/-- Whether a tally source is reachable: the root that the last tally frame named is another package that the fabric
reaches (R121, R122; log 102). -/
def tallySource (s : State) : Bool :=
  match s.tallyRoot with
  | some r => r != myNode s && reachable r s
  | none => false

/-- A write of BT_CTRL. -/
def btCtrl (v : W64) (s : State) : State :=
  let wasRoot := bit BT_CTRL_ROOT s
  let s := store BT_CTRL v s
  if !s.boot.on then s
  else if !bit BT_CTRL_EN s then unlock s
  else if bit BT_CTRL_ROOT s then lockRoot s
  else if wasRoot && lockState s = lkLocked && !tallySource s then setLock lkHoldover s
  else s

/-- A tally frame: the measured offset to the root in ps, the BEAT of the source, the root's node and the hops to it. A
package without a source that is not root acquires it; in ACQUIRE it follows it, and it locks after 64 good offsets. -/
def tallyFrame (off : Int) (b : W64) (root hops : Nat) (s : State) : State :=
  let s := if s.boot.on then { s with tallyRoot := some root } else s
  if !s.boot.on || !bit BT_CTRL_EN s || bit BT_CTRL_ROOT s then s
  else
    let s := wr BT_OFFSET (BitVec.ofNat 64 ((off % 2 ^ 32 + 2 ^ 32) % 2 ^ 32).toNat) s
    let s := setFlds [(BT_STATUS_ROOT_NODE, root), (BT_STATUS_HOPS, hops)] s
    let good : Bool := -4000 ≤ off && off ≤ 4000
    if lockState s = lkLocked then s
    else
      let n := if !good then 0 else if lockState s = lkAcquire then s.goodOffsets + 1 else 1
      let s := setLock lkAcquire (wr BT_TALLY b { s with goodOffsets := n })
      if n ≥ 64 then setLock lkLocked { s with goodOffsets := 0 } else s

/-- A write of BT_BEAT_LEN: discarded while a context exists. -/
def beatLen (v : W64) (s : State) : State :=
  if anyCtx s then setErr BT_ERR_LEN_LOCKED (rsvEnc (written BT_BEAT_LEN v s).2 s) else store BT_BEAT_LEN v s

/-- Pins of a layer that are past their last step are gone (R47). -/
def pinExpiry (c layer : Nat) (s : State) : State :=
  let n := (rd (WV_STEP c) s).toNat
  let pins := (ctx c s).pins.filter fun p => p.1 != layer || n ≤ p.2
  if pins.length = (ctx c s).pins.length then s
  else wr (GAU_PIN c) (BitVec.ofNat 64 pins.length) (modCtx c (fun x => { x with pins := pins }) s)

/-! ### Meanings -/

def execBeatEdge (reports : EdgeReports) (energy : BeatEnergy) (vote : Option Vote) (s : State) :
    Host.Outcome State Fault Refusal := run (beatEdge reports.late energy vote reports.progs) s

def execSlipVoteResult (v : Vote) (s : State) : Host.Outcome State Fault Refusal :=
  run (fun s => if s.voteDue then applyVote v s else s) s

def execVoteTimeout (s : State) : Host.Outcome State Fault Refusal := run voteTimeout s
def execVoteLossTimeout (s : State) : Host.Outcome State Fault Refusal := run voteLost s
def execHoldoverExpired (s : State) : Host.Outcome State Fault Refusal := run holdoverEnd s

def execTallyFrame (offsetPs : Int) (beat : W64) (rootNode : BitVec 10) (hops : BitVec 8) (s : State) :
    Host.Outcome State Fault Refusal := run (tallyFrame offsetPs beat rootNode.toNat hops.toNat) s

def execPinExpiry (ctx : BitVec 6) (layer : Nat) (s : State) : Host.Outcome State Fault Refusal :=
  run (pinExpiry ctx.toNat layer) s

end Sys2Proof.Machine
end

