-- ==== Sys2Proof/Machine/KvCmds.lean ====
section
/-! DEFINITION. Machine/KvCmds.lean: the KV unit's own events and its driver commands: the build, shard directories,
flushes, carries, prefill pages, directory repair (R184, R185, R193, R200 to R202, R209). -/

namespace Sys2Proof.Machine

/-! ### KV_CTRL (R185, R210) -/

/-- Sets an event bit of TOP_IRQ_STATUS (R472). -/
def irqEvent (f : FRef) (s : State) : State := setFld f 1 s

/-- Writes to KV_LEAVES, KV_CLASS and KV_POOL (R185). R211 does not say what KV_ERR_ADDR takes at an error without a staple
(log 132). -/
def kvConfigWrite (o : Nat) (v : W64) (s : State) : State :=
  if anyCtx s then raiseLatch KV_ERR_CFG_LOCKED [] (discarded o v s) else store o v s

/-- The build starts (R185, steps 1 and 2). -/
def buildStart (s : State) : State :=
  if anyCtx s then raiseLatch KV_ERR_CFG_LOCKED [] s
  else setFld KV_CTRL_BUILD 1 (setFld KV_STATUS_READY 0 (modKv (fun v => { v with building := true }) (kvEnter s)))

/-- A write of KV_CTRL (R210). -/
def kvCtrl (v : W64) (s : State) : State :=
  let s := if wbit v 2 then wr KV_ERR_ADDR 0 s else s
  let s := if wbit v 1 then zeroRegs ((List.range 8).map KV_CNT) s else s
  if wbit v 0 then buildStart s else s

/-- The build ends (R185, step 3; R472). -/
def buildEnd (s : State) : State :=
  if s.kv.building then
    irqEvent TOP_IRQ_STATUS_KV_BUILD (setFlds [(KV_STATUS_READY, 1), (KV_CTRL_BUILD, 0)]
      (modKv (fun v => { v with building := false }) s))
  else s

/-! ### Copies between frames (R129, R186, R200, R201) -/

/-- Moves n bytes to whole or part staples (R79): the bytes land; staples that fail keep failing. -/
def moveBytes (src dst n : Nat) (s : State) : State :=
  (staplesOf dst n).foldl (fun s p => if stapleOk p s then s else failStaple p s) (copyRange src dst n s)

/-- Copies n token slots of one vector kind and head between frames. Blocks from failing staples get scale byte 0xFF;
BF16 elements from a failing staple leave staples that fail (R129). -/
def moveVecs (k : KvShape) (src dst : TokRef) (n kind head : Nat) (s : State) : State :=
  let bytes := 2 * fmtWidth k.f
  let blocks := n * (k.d / 16)
  let se := (kvElems k src kind head).1
  let de := (kvElems k dst kind head).1
  if fmtScaled k.f then
    let ss := (kvScales k src kind head).1
    let ds := (kvScales k dst kind head).1
    let bad := (List.range blocks).filter fun b => !(stapleOk (se + b * bytes) s && stapleOk (ss + b) s)
    let s := moveBytes ss ds blocks (moveBytes se de (blocks * bytes) s)
    bad.foldl (fun s b => wrByte (ds + b) 0xFF s) s
  else
    let len := blocks * bytes
    let bad := (staplesOf se len).filter fun p => !stapleOk p s
    let s := moveBytes se de len s
    bad.foldl (fun s p =>
      let lo := max p se
      let hi := min (p + 4096) (se + len)
      (staplesOf (lo - se + de) (hi - lo)).foldl (fun s q => failStaple q s) s) s

/-- Copies n slots of every layer from one frame to another: frame address, its slots, first slot. -/
def moveSlots (kd : KvDesc) (src srcT srcSlot dst dstT dstSlot n : Nat) (s : State) : State :=
  let k : KvShape := { f := (fmtOfCode kd.fmt).getD .fp32, d := kd.headDim, h := kd.heads }
  (List.range kd.layers).foldl (fun s l =>
    let a : TokRef := { pos := 0, slab := src + l * slabStaples k.f k.d k.h srcT * 4096, t := srcT, slot := srcSlot }
    let b : TokRef := { pos := 0, slab := dst + l * slabStaples k.f k.d k.h dstT * 4096, t := dstT, slot := dstSlot }
    (List.range 2).foldl (fun s kind => (List.range k.h).foldl (fun s head => moveVecs k a b n kind head s) s) s) s

/-- Staples of a page of a context's shape. -/
def pageUsed (kd : KvDesc) : Nat := kd.layers * slabStaples ((fmtOfCode kd.fmt).getD .fp32) kd.headDim kd.heads 256

/-- Fresh CRCs over whole staples. -/
def freshStaples (a n : Nat) (s : State) : State :=
  (List.range n).foldl (fun s i => setMeta (a + i * 4096) {} s) s

/-! ### Flushes and carries (R200, R201) -/

/-- A flush ends, unless an atoll that it copies between retrains (R147): page entry and bobbin drop in one generation (R201). The bobbin frame is held until the generation that
drops it is published (R206). -/
def flushDone (h : Nat) (s : State) : State :=
  let d := dir h s
  match flushingBob d, (ctx d.ctx s).weave.kv with
  | some b, some kd =>
    let page := pageAddr b.atoll d.cls b.page s
    if d.dropped || retraining page s then s
    else
      let s := freshStaples page (pageUsed kd) s
      let s := moveSlots kd (bobAddr b.atoll d.cls b.frame s) 320 0 page 256 0 256 s
      let g := d.gen + 1
      let nb := { b with dropped := true, dropGen := g, flushed := true }
      let ent : PageEnt := { atoll := b.atoll, frame := b.page, addGen := g }
      let s := setDir h { setBob nb d with pend := true, ents := ins d.ents (b.basePage - d.firstPage) ent } s
      bump64 (KV_CNT 0) 1 (bump64 (KV_CNT 4) 1 (holdItem (unpublished h) (.bobbin d.ctx b.atoll d.cls b.frame) s))
  | _, _ => s

/-- A carry lands, unless one of its two atolls retrains (R147): its slots stand in the new bobbin, whose engine may start the sequence's rows (R200). -/
def carryDone (h : Nat) (s : State) : State :=
  let d := dir h s
  match d.bobbins.find? (fun b => !b.dropped && b.carry.isSome), (ctx d.ctx s).weave.kv with
  | some b, some kd =>
    match b.carry with
    | some (a, f, n) =>
      let src := bobAddr a d.cls f s
      let dst := bobAddr b.atoll d.cls b.frame s
      if retraining src s || retraining dst s then s
      else setDir h (setBob { b with carry := none } d) (moveSlots kd src 320 256 dst 320 0 n s)
    | none => s
  | _, _ => s

/-! ### Prefill pages (R202, R209) -/

/-- Writes slots lo to hi − 1 of a page image, in page layout, into the same slots of the bobbin frame at `dst` (R186, R202). -/
def bobImage (kd : KvDesc) (data : List Byte) (dst lo hi : Nat) (s : State) : State :=
  let k : KvShape := { f := (fmtOfCode kd.fmt).getD .fp32, d := kd.headDim, h := kd.heads }
  let blocks := (hi - lo) * (k.d / 16)
  (List.range kd.layers).foldl (fun s l =>
    let a : TokRef := { pos := 0, slab := l * slabStaples k.f k.d k.h 256 * 4096, t := 256, slot := lo }
    let b : TokRef := { pos := 0, slab := dst + l * slabStaples k.f k.d k.h 320 * 4096, t := 320, slot := lo }
    (List.range 2).foldl (fun s kind => (List.range k.h).foldl (fun s head =>
      let copy (src to_ len : Nat) (s : State) : State := wrMerge to_ ((data.drop src).take len) false s
      let s := copy (kvElems k a kind head).1 (kvElems k b kind head).1 (blocks * (2 * fmtWidth k.f)) s
      if fmtScaled k.f then copy (kvScales k a kind head).1 (kvScales k b kind head).1 blocks s else s) s) s) s

/-- The part of a slice that lies in page v goes into the bobbin that covers the page: the open one, or the one the slice
reserved (R202; log 115). -/
def bobTokens (d : Dir) (b : BatchSk) (v : Nat) (data : List Byte) (s : State) : State :=
  match openBob d, (ctx d.ctx s).weave.kv with
  | some ob, some kd =>
    let lo := max b.base (256 * v) - 256 * v
    let hi := min (b.base + b.rows) (256 * v + 256) - 256 * v
    let put_ (at_ lo : Nat) : State := if retraining at_ s then s else bobImage kd data at_ lo hi s
    if v = ob.basePage then put_ (bobAddr ob.atoll d.cls ob.frame s) lo
    else match sliceBob d ob b with
      | some (a, fr, _, base) => if v = base then put_ (bobAddr a d.cls fr s) 0 else s
      | none => s
  | _, _ => s

/-- Spindles write virtual page v of a sequence, into the frame that its step reserved; a page of another shard's range is
forwarded to that shard, and a page that a bobbin covers goes into the bobbin. A write to an atoll that
retrains waits (R147). -/
def prefillPage (i v : Nat) (data : List Byte) (s : State) : State :=
  let k := sk i s
  let d := dir k.dir s
  match stepOf k.ctx s with
  | none => s
  | some st =>
    match st.batch.find? fun b => b.skein == i && b.prefill with
    | none => s
    | some b =>
      if v < d.firstPage then
        if 256 * v < b.base + b.rows && b.base < 256 * v + 256 then
          bump64 (KV_CNT 1) 1 (send (.prefillPage i k.gen v data) s)
        else s
      else
        match b.frames.find? fun f => f.1 == v - d.firstPage with
        | none => bobTokens d b v data s
        | some f =>
          let n := min data.length (pageStaples d.cls s * 4096)
          let page := pageAddr f.2.1 d.cls f.2.2 s
          if retraining page s then s else bump64 (KV_CNT 1) 1 (wrSound page (data.take n) s)

/-- A forwarded prefill page lands whole in its reserved frame (R209), once the frame's atoll serves (R147). -/
def shardPage (h u : Nat) (data : List Byte) (s : State) : State :=
  let d := dir h s
  match find? d.reserved u with
  | none => s
  | some (a, f) =>
    let n := min data.length (pageStaples d.cls s * 4096)
    let ent : PageEnt := { atoll := a, frame := f, addGen := d.gen + 1 }
    if retraining (pageAddr a d.cls f s) s then s
    else setDir h { d with pend := true, reserved := del d.reserved u, ents := ins d.ents u ent }
      (wrSound (pageAddr a d.cls f s) (data.take n) s)

/-! ### Shard directories (R209) -/

/-- Allocates the page frames of local pages u to u + n − 1; none when one is missing. -/
def shardFrames (c cls : Nat) (atolls : List Nat) (start : Nat) : Nat → Nat → State → Option (List (Nat × Nat × Nat) × State)
  | 0, _, s => some ([], s)
  | n + 1, u, s =>
    let a := atolls.getD ((start + u) % atolls.length) 0
    match allocPage c a cls s with
    | none => none
    | some (f, s) =>
      match shardFrames c cls atolls start n (u + 1) s with
      | none => none
      | some (l, s) => some ((u, a, f) :: l, s)

/-- The creation that KV_SHARD_CMD describes: its STATUS (0 OK, 1 NO_HEAD, 2 NO_FRAME, 3 NO_LEAF), the head granule and the
state. A failure allocates nothing. A context without a KV descriptor has no frames (log 35). -/
def shardMake (s : State) : Nat × Nat × State :=
  let c := fld KV_SHARD_CMD0_CONTEXT s
  let pages := fld KV_SHARD_CMD0_PAGES s
  match allocHead s with
  | none => (1, 0, s)
  | some (h, s1) =>
    match (if ctxExists c s then (ctx c s).weave.kv else none) with
    | none => (2, 0, s)
    | some kd =>
      match allocLeaves (leavesNeeded pages) s1 with
      | none => (3, 0, s)
      | some (ls, s2) =>
        let start := h % kd.atolls.length
        match shardFrames c kd.cls kd.atolls start pages 0 s2 with
        | none => (2, 0, s)
        | some (l, s3) =>
          let d : Dir := { leaves := ls, ctx := c, cls := kd.cls, start := start, atolls := kd.atolls
                           shard := fld KV_SHARD_CMD0_SHARD s, shards1 := fld KV_SHARD_CMD0_SHARDS_M1 s
                           firstPage := fld KV_SHARD_CMD0_FIRST_PAGE s, pages := pages
                           skein := fld KV_SHARD_CMD1_SKEIN s, skeinGen := BitVec.ofNat 16 (fld KV_SHARD_CMD1_SKEIN_GEN s)
                           home := fld KV_SHARD_CMD1_HOME_NODE s, reserved := l }
          (0, h, bumpFld (KV_CTX_SEQUENCES c) 1 (setDir h d s3))

/-- A creation starts and ends (R209, R472). -/
def shardCreate (s : State) : State :=
  let (code, h, s) := shardMake s
  let s := if code = 0 then s else raiseLatch KV_ERR_SHARD [] s
  irqEvent TOP_IRQ_STATUS_KV_SHARD
    (setFlds [(KV_SHARD_CMD3_STATUS, code), (KV_SHARD_CMD3_HEAD, h), (KV_SHARD_CMD2_START, 0)] s)

/-- A write of a word of KV_SHARD_CMD. -/
def shardCmd (o : Nat) (v : W64) (s : State) : State :=
  if o = KV_SHARD_CMD2 then (if wbit v 0 then shardCreate s else s) else store o v s

/-- A release arrives: each shard directory of that skein and generation is dropped, and published at its context's next
step boundary (R204, R206, R209). -/
def shardRelease (i : Nat) (g : W16) (node : Nat) (s : State) : State :=
  let hs := (s.kv.dirs.filter fun x =>
    x.2.skein == i && x.2.skeinGen == g && x.2.home == node && x.2.shard != x.2.shards1 && !x.2.dropped).map (·.1)
  hs.foldl (fun s h => dropDir h (unpublished h) s) s

/-! ### Directory staples (R193) -/

/-- A failing directory staple of atoll a: the head granule's, or that of the j-th leaf. -/
def repairDir (h a : Nat) (leaf : Option Nat) (s : State) : State :=
  let d := dir h s
  let at_ (a : Nat) : Nat := match leaf with
    | none => headStaple a h
    | some j => leafStaple a (d.leaves.getD j 0) s
  let named : Bool := match leaf with
    | none => true
    | some j => decide (j < d.leaves.length)
  if (find? s.kv.dirs h).isNone || !d.atolls.contains a || !named || stapleOk (at_ a) s ||
      retraining (at_ a) s then s
  else
    match (d.atolls.filter (· != a)).find? fun b => stapleOk (at_ b) s with
    | some _ => bump64 (KV_CNT 7) 1 (setMeta (at_ a) {} s)
    | none =>
      let s := raiseLatch KV_ERR_DIR_CRC [(KV_ERR_ADDR_STAPLE, at_ a / 4096)] s
      if d.shard = d.shards1 then faultSkein d.skein fcKv s else s

/-! ### The commands -/

def execKvBuildComplete (s : State) : Host.Outcome State Fault Refusal := run buildEnd s
def execFlushComplete (head : BitVec 18) (s : State) : Host.Outcome State Fault Refusal := run (flushDone head.toNat) s
def execCarryLanded (head : BitVec 18) (s : State) : Host.Outcome State Fault Refusal := run (carryDone head.toNat) s
def execPrefillPageWrite (skein : BitVec 18) (page : Nat) (data : List Byte) (s : State) :
    Host.Outcome State Fault Refusal := run (prefillPage skein.toNat page data) s
def execShardPageLanding (head : BitVec 18) (page : Nat) (data : List Byte) (s : State) :
    Host.Outcome State Fault Refusal := run (shardPage head.toNat page data) s
def execShardRelease (skein : BitVec 18) (gen : W16) (node : BitVec 10) (s : State) : Host.Outcome State Fault Refusal :=
  run (shardRelease skein.toNat gen node.toNat) s
def execDirectoryRepair (head : BitVec 18) (a : BitVec 3) (leaf : Option Nat) (s : State) :
    Host.Outcome State Fault Refusal := run (repairDir head.toNat a.toNat leaf) s

end Sys2Proof.Machine
end

