-- ==== Sys2Proof/Machine/SknCmds.lean ====
section
/-! DEFINITION. Machine/SknCmds.lean: the commands of the skein queues, the queue pages and the SKN registers that act,
prompts and completion records (R214 to R229, R417, R481, R482). -/

namespace Sys2Proof.Machine

/-! ### Result codes (R218) -/

def rcOk : Nat := 0
def rcOpcode : Nat := 1
def rcRange : Nat := 2
def rcStale : Nat := 3
def rcState : Nat := 4
def rcContext : Nat := 5
def rcLength : Nat := 6
def rcRing : Nat := 7
def rcStopSet : Nat := 8
def rcNoFrame : Nat := 11
def rcComplete : Nat := 13
def rcCancelling : Nat := 14

/-! ### Words of a command (R217) -/

/-- Bits hi:lo of word j of a command. -/
def cw (w : CmdWords) (j hi lo : Nat) : Nat := ((w.getD j 0).toNat >>> lo) % 2 ^ (hi + 1 - lo)
/-- Words j and j + 1 as one number. -/
def cw64 (w : CmdWords) (j : Nat) : Nat := cw w j 31 0 + cw w (j + 1) 31 0 * 2 ^ 32
def cmdOp (w : CmdWords) : Nat := cw w 0 31 24
def cSkein (w : CmdWords) : Nat := cw w 0 17 0
def cGen (w : CmdWords) : W16 := BitVec.ofNat 16 (cw w 1 31 16)
/-- DEADLINE: words 6 and 7, bits 39:0. -/
def cDeadline (w : CmdWords) : Nat := cw64 w 6 % 2 ^ 40

/-! ### Tests (R218) -/

def qCtx (q : Nat) (s : State) : Nat := fld (SKN_QCFG_CTL_CONTEXT q) s
def qSize (q : Nat) (s : State) : Nat := 2 ^ (fld (SKN_QCFG_CTL_ORDER q) s + 4)

/-- Whether a skein lies in a context's range. -/
def inRange (c i : Nat) (s : State) : Bool :=
  let b := fld (SKN_CTX_RANGE_BASE c) s
  b ≤ i && i < b + fld (SKN_CTX_RANGE_COUNT c) s

/-- Exists and is not faulting. -/
def ctxServes (c : Nat) (s : State) : Bool := ctxExists c s && ctxState c s != cxFaulted && ctxState c s != cxTeardown

/-- RANGE, STALE and STATE of a command that names a skein. -/
def testSkein (c i : Nat) (g : W16) (ok : Skein → Bool) (s : State) : Nat :=
  if !inRange c i s then rcRange
  else if (sk i s).gen != g then rcStale
  else if !ok (sk i s) then rcState
  else rcOk

/-- The same, then CONTEXT. -/
def testSkeinCtx (c i : Nat) (g : W16) (ok : Skein → Bool) (s : State) : Nat :=
  let r := testSkein c i g ok s
  if r != rcOk then r else if !ctxServes c s then rcContext else rcOk

def notFree (k : Skein) : Bool := k.state != .free

/-! ### The queue (R217, R481) -/

/-- A queue that has a command to read: enabled, rung, its function reachable. -/
def qReady (q : Nat) (s : State) : Bool :=
  bit (SKN_QCFG_CTL_EN q) s && fld (SKN_Q_HEAD_HEAD q) s != fld (SKN_Q_DOORBELL_TAIL q) s &&
  fnUp (fld (SKN_QCFG_CTL_FUNCTION q) s) s

/-- Writes a command's result into word 15 of its slot and moves HEAD on; a refusal is counted and shown. -/
def qResult (q code : Nat) (s : State) : State :=
  let h := fld (SKN_Q_HEAD_HEAD q) s
  let addr := fld (SKN_QCFG_ADDR_ADDR q) s * 4096 + h % qSize q s * 64 + 60
  let s := send (.hostWrite (fld (SKN_QCFG_CTL_FUNCTION q) s) addr (natToBytes 4 (2 ^ 31 + code))) s
  let s := if code = rcOk then s else bump64 (SKN_CNT 1) 1 (setFld (SKN_Q_STATUS_CODE q) code s)
  wrapFld (SKN_Q_HEAD_HEAD q) 1 s

/-- The queue reads the command w at its head and executes it: `f` gives the result code and the state (a refusal: as it was), used only
for a command whose opcode is `op`; words of another command are not this row's event. A refused command changes nothing. -/
def qCommand (q : Nat) (w : CmdWords) (op : Nat) (f : State → Nat × State) (s : State) : State :=
  if !qReady q s then s
  else if !hostAllowed s then setErr SEC_ERR_IDE (setFld (SKN_Q_STATUS_FAULT q) 1 s)
  else if cmdOp w > 5 then qResult q rcOpcode s
  else if cmdOp w != op then s
  else
    let (code, t) := f s
    qResult q code t

/-! ### ADMIT (R195, R218, R219) -/

/-- The directory of a new sequence, as `admitDir` gives it: code, head granule, state. A context in LOADING has no frames
yet; one without a KV descriptor needs none (log 35). -/
def newDir (c i : Nat) (w : CmdWords) (s : State) : Nat × Nat × State :=
  let maxlen := cw w 5 23 0
  let prompt := cw w 4 23 0
  let shards1 := cw w 2 28 24
  let total := (maxlen + 255) / 256
  let first := if shards1 = 0 then 0 else min (Config.homeFirstPage maxlen prompt shards1) ((prompt - 1) / 256)
  match (ctx c s).weave.kv with
  | some kd => admitDir c kd i (cGen w) first (total - first) maxlen shards1 shards1 (fld GLD_NODE_NODE s) s
  | none =>
    match allocHead s with
    | none => (9, 0, s)
    | some (h, t) =>
      if ctxState c s = cxLoading then (rcNoFrame, 0, s)
      else
        (0, h, bumpFld (KV_CTX_SEQUENCES c) 1
          (setDir h { ctx := c, shard := shards1, shards1 := shards1, firstPage := first, pages := total - first
                      maxlen := maxlen, skein := i, skeinGen := cGen w, home := fld GLD_NODE_NODE s } t))

/-- The tests of ADMIT from LENGTH to STOP_SET. -/
def admitFields (c : Nat) (w : CmdWords) (s : State) : Nat :=
  let prompt := cw w 4 23 0
  let maxlen := cw w 5 23 0
  let set := cw w 2 23 16
  let loaded : Bool := (find? s.stops (c * 256 + set)).isSome || (find? s.stopsNext (c * 256 + set)).isSome
  if prompt = 0 || prompt ≥ maxlen || maxlen > 8388608 then rcLength
  else if cw w 12 3 0 > 12 || cw64 w 10 % 4096 != 0 then rcRing
  else if set != 0 && !loaded then rcStopSet
  else rcOk

def admitCmd (q : Nat) (w : CmdWords) (s : State) : Nat × State :=
  let c := qCtx q s
  let i := cSkein w
  let s := tableRead i s
  let r := testSkeinCtx c i (cGen w) (fun k => k.state == .free) s
  if r != rcOk then (r, s)
  else
    let r := admitFields c w s
    if r != rcOk then (r, s)
    else
      let (r, h, t) := newDir c i w s
      if r != rcOk then (r, s)
      else
        let k : Skein := {
          state := .admitted, tenant := fld (SKN_QCFG_CTL_TENANT q) s, prio := cw w 2 31 29, ctx := c, gen := cGen w
          profile := cw w 2 11 0, deadline := cDeadline w, maxlen := cw w 5 23 0, stopSet := cw w 2 23 16, dir := h
          shards1 := cw w 2 28 24, mask := cw w 3 15 0, promptLen := cw w 4 23 0, admitBeat := beat s % 2 ^ 40
          ringAddr := cw64 w 10, ringOrder := cw w 12 3 0, fn := fld (SKN_QCFG_CTL_FUNCTION q) s
          seed := BitVec.ofNat 64 (cw64 w 13), promptAddr := BitVec.ofNat 64 (cw64 w 8) }
        (rcOk, bump64 (SKN_CNT 0) 1 (setSk i k t))

/-! ### CANCEL, RETIRE, REPRIORITISE, STOP_LOAD -/

/-- A cancel reaches a skein that is not FREE (R223). -/
def cancelSkein (i : Nat) (s : State) : Nat × State :=
  let k := sk i s
  match k.state with
  | .done | .faulted => (rcComplete, s)
  | .cancelling => (rcCancelling, s)
  | _ => (rcOk, setSk i { k with state := .cancelling, cancelled := some (beat s) } s)

def cancelCmd (q : Nat) (w : CmdWords) (s : State) : Nat × State :=
  let s := tableRead (cSkein w) s
  let r := testSkeinCtx (qCtx q s) (cSkein w) (cGen w) notFree s
  if r != rcOk then (r, s) else cancelSkein (cSkein w) s

/-- DONE or FAULTED, and the completion record written or dropped (R216). -/
def retirable (k : Skein) : Bool := (k.state == .done || k.state == .faulted) && k.left && k.due.isNone && k.unset.isEmpty

def retireCmd (q : Nat) (w : CmdWords) (s : State) : Nat × State :=
  let s := tableRead (cSkein w) s
  let r := testSkein (qCtx q s) (cSkein w) (cGen w) retirable s
  if r != rcOk then (r, s) else (rcOk, freeSkein (cSkein w) s)

def reprioCmd (q : Nat) (w : CmdWords) (s : State) : Nat × State :=
  let s := tableRead (cSkein w) s
  let r := testSkeinCtx (qCtx q s) (cSkein w) (cGen w) notFree s
  if r != rcOk then (r, s)
  else (rcOk, modSk (cSkein w) (fun k => { k with prio := cw w 2 31 29, deadline := cDeadline w }) s)

/-- A stop set is loaded; it takes effect at the context's next step boundary (R222). -/
def stopLoadCmd (q : Nat) (w : CmdWords) (img : List W32) (s : State) : Nat × State :=
  let c := qCtx q s
  let set := cw w 2 7 0
  if set = 0 then (rcOpcode, s)
  else if !ctxServes c s then (rcContext, s)
  else (rcOk, { s with stopsNext := put s.stopsNext {} (c * 256 + set) (parseStops img) })

/-! ### Queue pages and configuration (R228, R229, R481) -/

/-- A doorbell (R229, R481). `ringOk`: the C9 can read the command ring that the doorbell announces (log 114). -/
def qDoorbell (q : Nat) (v : W64) (ringOk : Bool) (s : State) : State :=
  if !bit (SKN_QCFG_CTL_EN q) s then s
  else
    let tail := fldOf (SKN_Q_DOORBELL_TAIL q) v
    if (tail + 2 ^ 16 - fld (SKN_Q_HEAD_HEAD q) s) % 2 ^ 16 > qSize q s then setFld (SKN_Q_STATUS_BAD_TAIL q) 1 s
    else
      setFlds ((if ringOk then [] else [(SKN_Q_STATUS_FAULT q, 1)]) ++
        [(SKN_Q_DOORBELL_TAIL q, tail), (SKN_Q_STATUS_BAD_TAIL q, 0)]) s

def qRingTail (q : Nat) (v : W64) (s : State) : State :=
  let i := fldOf (SKN_Q_RING_TAIL_SKEIN q) v
  if inRange (qCtx q s) i s && (sk i s).gen.toNat == fldOf (SKN_Q_RING_TAIL_GEN q) v then
    modSk i (fun k => { k with ringTail := BitVec.ofNat 16 (fldOf (SKN_Q_RING_TAIL_TAIL q) v) }) (tableRead i s)
  else s

/-- A queue starts with HEAD and TAIL at 0. -/
def qStart (q : Nat) (s : State) : State :=
  setFlds [(SKN_Q_HEAD_HEAD q, 0), (SKN_Q_DOORBELL_TAIL q, 0), (SKN_Q_STATUS_EN q, 1), (SKN_Q_STATUS_FAULT q, 0)] s

/-- A queue stops; HEAD and TAIL read 0. -/
def qStop (q : Nat) (s : State) : State :=
  setFlds [(SKN_Q_HEAD_HEAD q, 0), (SKN_Q_DOORBELL_TAIL q, 0), (SKN_Q_STATUS_EN q, 0)] s

/-- A write of SKN_QCFG_CTL(q): while EN is 1, only a write that clears EN is taken (R228). -/
def qcfgCtl (q : Nat) (v : W64) (s : State) : State :=
  if bit (SKN_QCFG_CTL_EN q) s then
    if wbit v 63 then discarded (SKN_QCFG_CTL q) v s else qStop q (store (SKN_QCFG_CTL q) v s)
  else
    let s := store (SKN_QCFG_CTL q) v s
    if bit (SKN_QCFG_CTL_EN q) s then qStart q s else s

def qcfgAddr (q : Nat) (v : W64) (s : State) : State :=
  if bit (SKN_QCFG_CTL_EN q) s then discarded (SKN_QCFG_ADDR q) v s else store (SKN_QCFG_ADDR q) v s

/-- A write of SKN_CTX_RANGE(c) (R227, R228). -/
def ctxRange (c : Nat) (v : W64) (s : State) : State :=
  if fldOf (SKN_CTX_RANGE_BASE c) v + fldOf (SKN_CTX_RANGE_COUNT c) v > 262144 then rsvEnc true s
  else if ctxExists c s then discarded (SKN_CTX_RANGE c) v s
  else store (SKN_CTX_RANGE c) v s

/-! ### SKN_CTRL and SKN_HANK_ADD (R227, R482) -/

/-- A direct cancel: STALE, STATE, CONTEXT, then the cases of R223. -/
def directCancel (s : State) : State :=
  let i := fld SKN_CTRL_SKEIN s
  let s := tableRead i s
  let k := sk i s
  let (code, t) : Nat × State :=
    if k.gen.toNat != fld SKN_CTRL_GEN s then (rcStale, s)
    else if k.state == .free then (rcState, s)
    else if !ctxServes k.ctx s then (rcContext, s)
    else cancelSkein i s
  setFlds [(SKN_CANCEL_STATUS_BUSY, 0), (SKN_CANCEL_STATUS_CODE, code)] t

def sknCtrl (v : W64) (s : State) : State :=
  let s := setFld SKN_CTRL_CANCEL 0 (store SKN_CTRL v s)
  if wbit v 63 then directCancel s else s

/-- AMOUNT is signed 48-bit, in tokens. -/
def hankAddWrite (v : W64) (s : State) : State :=
  let a : Int := (BitVec.ofNat 48 (fldOf SKN_HANK_ADD_AMOUNT v)).toInt
  hankAdd (fldOf SKN_HANK_ADD_TENANT v) (a * 256) s

/-! ### Prompts (R219, R417, R448) -/

/-- A prompt read failed; `auth`: a tag failed, or the tenant has no key. -/
def promptFail (i : Nat) (auth : Bool) (s : State) : State :=
  let s := if auth then bump64 (SEC_CNT 3) 1 (setErr SEC_ERR_STREAM_AUTH s) else s
  faultSkein i fcContext (setErr SKN_ERR_PROMPT_FAULT s)

/-- Decrypts chunks j, j + 1, … of a prompt of n tokens; none when a tag fails. -/
def openChunks (key : BitVec 256) (n : Nat) : Nat → List (List Byte) → Option (List W32)
  | _, [] => some []
  | j, ch :: rest =>
    let len := 4 * min 1024 (n - 1024 * j)
    let nonce : BitVec 96 := BitVec.ofNat 96 (j % 2 ^ 24 * 256)
    match Config.gcmOpen key nonce [] (ch.take len) ((ch.drop len).take 16) with
    | none => none
    | some p =>
      match openChunks key n (j + 1) rest with
      | none => none
      | some l => some ((List.range (len / 4)).map (fun i => BitVec.ofNat 32 (bytesToNat ((p.drop (4 * i)).take 4))) ++ l)

/-- Whether the C9 still stages the skein's prompt. -/
def stages (k : Skein) : Bool :=
  (k.state == .admitted || k.state == .prefill || k.state == .paused) && decide (k.promptPos + k.staged.length < k.promptLen)

/-- Tokens in the prompt stage. -/
def stageUse (s : State) : Nat := s.skeins.foldl (fun t k => t + k.2.staged.length) 0

/-- Chunk j of a prompt buffer, after the 64 bytes of its header (R417). -/
def promptChunk (buffer : List Byte) (j : Nat) : List Byte := (buffer.drop (64 + j * 4160)).take 4160

/-- The host's answer to the read of the next n chunks of a prompt buffer: its bytes, none when the read failed. -/
def promptStaged (i n : Nat) (buffer : Option (List Byte)) (s : State) : State :=
  let s := if stages (sk i s) then tableRead i s else s
  let k := sk i s
  if !stages k || !fnUp k.fn s then s
  else
    match buffer, hostAllowed s with
    | some b, true =>
      match find? s.sec.tenantKeys k.tenant with
      | none => promptFail i true s
      | some key =>
        let req := b.take 32
        let have_ := k.promptPos + k.staged.length
        let j := have_ / 1024
        match openChunks (requestKey key req) k.promptLen j ((List.range n).map fun m => promptChunk b (j + m)) with
        | none => promptFail i true s
        | some ts =>
          let ts := ts.take (k.promptLen - have_)
          if stageUse s + ts.length > 1048576 then s
          else setSk i { k with reqId := req, staged := k.staged ++ ts } s
    | _, ok => promptFail i false (if ok then s else setErr SEC_ERR_IDE s)

/-- A waiting completion record is written once the ring has room (R216); `ok`: the write to host memory succeeds. -/
def completionWrite (i : Nat) (ok : Bool) (s : State) : State :=
  let s := if (sk i s).due.isSome then tableRead i s else s
  let k := sk i s
  if k.due.isNone || ringFree k = 0 || !fnUp k.fn s then s
  else if ok then setPhases i (writeCompletion i s)
  else modSk i (fun k => { k with due := none, recorded := true }) (ringFault i s)

/-! ### The commands -/

def execNop (q : BitVec 12) (cmd : CmdWords) (s : State) : Host.Outcome State Fault Refusal :=
  run (qCommand q.toNat cmd 0 fun s => (rcOk, s)) s
def execAdmitSkein (q : BitVec 12) (cmd : CmdWords) (s : State) : Host.Outcome State Fault Refusal :=
  run (qCommand q.toNat cmd 1 (admitCmd q.toNat cmd)) s
def execCancel (q : BitVec 12) (cmd : CmdWords) (s : State) : Host.Outcome State Fault Refusal :=
  run (qCommand q.toNat cmd 2 (cancelCmd q.toNat cmd)) s
def execRetire (q : BitVec 12) (cmd : CmdWords) (s : State) : Host.Outcome State Fault Refusal :=
  run (qCommand q.toNat cmd 3 (retireCmd q.toNat cmd)) s
def execReprioritise (q : BitVec 12) (cmd : CmdWords) (s : State) : Host.Outcome State Fault Refusal :=
  run (qCommand q.toNat cmd 4 (reprioCmd q.toNat cmd)) s
def execStopLoad (q : BitVec 12) (cmd : CmdWords) (image : List W32) (s : State) : Host.Outcome State Fault Refusal :=
  run (qCommand q.toNat cmd 5 (stopLoadCmd q.toNat cmd image)) s
def execPromptSliceStaged (skein : BitVec 18) (chunks : Nat) (buffer : Option (List Byte)) (s : State) :
    Host.Outcome State Fault Refusal := run (promptStaged skein.toNat chunks buffer) s
def execCompletionRecordWrite (skein : BitVec 18) (hostOk : Bool) (s : State) : Host.Outcome State Fault Refusal :=
  run (completionWrite skein.toNat hostOk) s

end Sys2Proof.Machine
end

