-- ==== Sys2Proof/Machine/PwrCmds.lean ====
section
/-! DEFINITION. Machine/PwrCmds.lean: the samples, timeouts and caps of the power governor as commands, and PWR_CTRL
(R385 to R404). -/

namespace Sys2Proof.Machine

/-- After a decision of the governor: causeway transfers that got leave start, refused ones end (R308, R396). -/
def settlePower (s : State) : State := settleCauseway s

/-- The periodic ID frames, one every 1,000 µs of samples (R280). -/
def idTick (us : Nat) (s : State) : State :=
  let t := s.gld.idUs + us
  let s := modGld (fun g => { g with idUs := t % 1000 }) s
  if t ≥ 1000 then sendIds s else s

/-- One power sample. In haven mode the governor measures and acts on nothing (R402). The samples, 1 µs each, also pace the ID
frames (R280; log 109) and let a router's held FETCH_ADDs go on (R301; log 137). -/
def powerTick (m : PowerIn) (s : State) : State :=
  if !s.boot.on then s
  else
    let s := releaseAdds none (idTick (max 1 (m.elapsedNs / 1000)) s)
    if bit PWR_HAVEN_ACTIVE s then reportLeave (takeMeasure m (takeConfig s))
    else settlePower (powerSample m s)

/-- The governor acts only while the spindle dies have power. -/
def whileDies (f : State → State) (s : State) : State := if !s.boot.on || diesDown s then s else f s

def havenBy (cause : Nat) (s : State) : State := settlePower (enterHaven cause s)

/-- A junction is still at or above 105 °C after 10 ms (R397). -/
def thermalTimeout (s : State) : State := if s.pwr.thermB != 0 then havenBy 2 s else s

/-- CAP_EFF has stayed below FLOOR_W for 100 ms (R396). -/
def floorTimeout (s : State) : State := if belowFloor s then havenBy 1 s else s

/-- The board management controller sets PWR_CAP_BMC (R394). -/
def bmcCap (w : Nat) (s : State) : State :=
  if !s.boot.on then s
  else
    let lim := partLimit s
    let old := (capEff s).1
    let s := setFld PWR_CAP_BMC_WATTS (min w lim) (if w > lim then setErr PWR_ERR_CAP_CLAMP s else s)
    if bit PWR_HAVEN_ACTIVE s then s else settlePower (capChanged old s)

/-- A write of PWR_CTRL (R403). One in haven mode takes effect after exit (R404). -/
def pwrCtrl (v : W64) (s : State) : State :=
  let s := store PWR_CTRL v s
  if !wbit v 0 then s
  else if bit PWR_HAVEN_ACTIVE s then modPwr (fun p => { p with clrDue := true }) s
  else zeroRegs ((List.range 8).map PWR_CNT) s

def execPowerSample (m : PowerIn) (s : State) : Host.Outcome State Fault Refusal := run (powerTick m) s
def execVfStepDone (s : State) : Host.Outcome State Fault Refusal := run (whileDies vfStepEnd) s
def execDroopAlarm (die : Bool) (deficitMv : Nat) (active : Bool) (s : State) : Host.Outcome State Fault Refusal :=
  run (whileDies (droop die deficitMv active)) s
def execThermalSample (t : ThermIn) (s : State) : Host.Outcome State Fault Refusal :=
  run (fun s => if s.boot.on then thermal t s else s) s
def execThermalLimitTimeout (s : State) : Host.Outcome State Fault Refusal := run thermalTimeout s
def execFloorTimeout (s : State) : Host.Outcome State Fault Refusal := run floorTimeout s
def execBmcCapSet (watts : W16) (s : State) : Host.Outcome State Fault Refusal := run (bmcCap watts.toNat) s

end Sys2Proof.Machine
end

