-- ==== Sys2Proof/Machine/Sec.lean ====
section
/-! DEFINITION. Machine/Sec.lean: the command mailbox of the security unit, key slots, wrapped keys, sealed weights, the
SPDM responder and IDE streams (R405 to R425). -/

namespace Sys2Proof.Machine

def modSec (f : Sec → Sec) (s : State) : State := { s with sec := f s.sec }

/-! ### What the registers show (R17, R425) -/

/-- TOP_ID and TOP_VARIANT as the fuses give them (R2, R17). -/
def topId (s : State) : Nat := 0xC900 * 2 ^ 16 + s.fuse.stepMajor.toNat * 2 ^ 12 + s.fuse.stepMinor.toNat * 2 ^ 8
def topVariant (s : State) : Nat :=
  s.fuse.code.toNat * 2 ^ 27 +
  (if isS s then 4 * 2 ^ 23 + 6 * 2 ^ 19 + 240 * 2 ^ 10 + 0x77 * 4 else 2 ^ 26 + 6 * 2 ^ 23 + 8 * 2 ^ 19 + 288 * 2 ^ 10 + 0xFF * 4)

/-- Low 64 bits of the public-key digest of a slot; 0 for an empty slot. -/
def slotId (n : Nat) (s : State) : W64 :=
  if n = 0 then s.fuse.fwKeyDigest.setWidth 64
  else match slotKey n s with
    | some k => (Config.sha384 k).setWidth 64
    | none => 0

def secStatus (s : State) : Nat :=
  (!s.sec.ide.isEmpty).toNat * 2 ^ 31 + (slotValid 1 s).toNat * 2 ^ 30 + s.fuse.advances * 2 ^ 23 + s.sec.sessions.length
def secSvn (s : State) : Nat := s.fuse.minSvn.toNat * 2 ^ 16 + fld SEC_SVN_FW s

/-! ### Blobs (R411 to R413) -/

def scOk : Nat := 0
def scFormat : Nat := 1
def scTarget : Nat := 2
def scAuth : Nat := 3
def scBusy : Nat := 4
def scRegion : Nat := 5
def scDigest : Nat := 6
def scSeq : Nat := 7
def scNoKey : Nat := 8
def scFuses : Nat := 9

/-- The 256-byte blob of the mailbox: none outside a valid STAGE region; with whether its staples pass. -/
def secBlob (s : State) : Option (List Byte × Bool) :=
  let a := fld SEC_CMD_ADDR_ADDR s * 4096
  match regionAt a s with
  | some r =>
    let g := region r s
    if g.kind = kStage && a + 256 ≤ g.base + g.size then some (rdBytes a 256 s, stapleOk a s) else none
  | none => none

/-- A little-endian number in a blob. -/
def bnum (b : List Byte) (o n : Nat) : Nat := bytesToNat ((b.drop o).take n)
def bslice (b : List Byte) (o n : Nat) : List Byte := (b.drop o).take n
def allZero (b : List Byte) : Bool := b.all (· == 0)

/-! ### Key slots (R410, R411, R449) -/

def slotWear (n : Nat) : Nat := 0x7000 + 4 * n

/-- Writes a key slot, or clears it; a write of the present content is not performed. -/
def putSlot (n : Nat) (k : Option (List Byte)) (s : State) : State :=
  if slotKey n s = k then s
  else wearWrite (slotWear n) true (modSec fun x => { x with slots := match k with
    | some k => ins x.slots n k
    | none => del x.slots n }) s

def putSeq (q : W32) (s : State) : State :=
  if s.sec.slotSeq = q then s else wearWrite 0x7000 true (modSec fun x => { x with slotSeq := q }) s

/-- SLOT_WRITE: its code and effect. Tests in the order of the codes; no owner key is NO_KEY (log 38). -/
def slotWrite (s : State) : Nat × State :=
  match secBlob s with
  | none => (scRegion, s)
  | some (b, ok) =>
    let op := bnum b 4 1
    let slot := bnum b 5 1
    let key := bslice b 0x14 97
    let seq : W32 := BitVec.ofNat 32 (bnum b 0x10 4)
    let claim : Bool := op == 1 && slot == 1 && !slotValid 1 s
    let signer := if claim then some key else slotKey 1 s
    if bnum b 0 4 != 0x4B534B51 || !(op == 1 || op == 2) || slot = 0 || slot > 15 || !allZero (bslice b 6 2) ||
        !allZero (bslice b 0x75 11) || (op == 2 && !allZero key) then (scFormat, s)
    else if bnum b 8 8 != s.fuse.identity.toNat then (scTarget, s)
    else
      match signer with
      | none => (scNoKey, s)
      | some k =>
        if !ok || !Config.ecdsaOk k (Config.sha384 (b.take 0x80)) (bslice b 0x80 96) then (scAuth, s)
        else if seq.toNat ≤ s.sec.slotSeq.toNat then (scSeq, s)
        else
          let s := if op = 1 then putSlot slot (some key) s
            else if slot = 1 then (List.range 15).foldl (fun s n => putSlot (n + 1) none s) s
            else putSlot slot none s
          (scOk, putSeq seq s)

/-! ### Wrapped keys (R413, R414) -/

/-- KEK of a wrapped-key blob: HKDF over the ECDH secret of the seal key and the ephemeral key at 0x10 (R413). -/
def wrapKek (b : List Byte) (s : State) : BitVec 256 :=
  keyOf (Config.hkdf384 [] (Config.ecdh s.fuse.sealKey (bslice b 0x10 97)) (ascii "QK-C9 wrap" ++ b.take 0x10))

/-- The key in a blob: ciphertext at 0x80, tag at 0xA0, a zero nonce, the first 128 bytes as additional data (R413). -/
def unwrapKey (b : List Byte) (s : State) : Option (BitVec 256) :=
  (Config.gcmOpen (wrapKek b s) 0 (b.take 0x80) (bslice b 0x80 32) (bslice b 0xA0 16)).map keyOf

/-- A tenant with a skein that is not FREE. -/
def tenantBusy (t : Nat) (s : State) : Bool := s.skeins.any fun k => k.2.tenant == t && k.2.state != .free

def keyLoad (s : State) : Nat × State :=
  match secBlob s with
  | none => (scRegion, s)
  | some (b, ok) =>
    let use := bnum b 4 1
    let ix := bnum b 6 2
    if bnum b 0 4 != 0x4B574B51 || !(use == 1 || use == 2) || ix ≥ (if use = 1 then 64 else 4096) ||
        !allZero (bslice b 5 1) || !allZero (bslice b 0x71 15) || !allZero (bslice b 0xB0 80) then (scFormat, s)
    else if bnum b 8 8 != s.fuse.identity.toNat then (scTarget, s)
    else
      match (if ok then unwrapKey b s else none) with
      | none => (scAuth, s)
      | some k =>
        if use = 2 && tenantBusy ix s then (scBusy, s)
        else
          (scOk, bump64 (SEC_CNT 1) 1 (modSec (fun x =>
            if use = 1 then { x with modelKeys := ins x.modelKeys ix k } else { x with tenantKeys := ins x.tenantKeys ix k }) s))

/-- KEY_CLEAR with its ARG: USE 13:12, INDEX 11:0. -/
def keyClear (arg : Nat) (s : State) : Nat × State :=
  let use := arg / 2 ^ 12 % 4
  let ix := arg % 2 ^ 12
  if !(use == 1 || use == 2) || (use == 1 && ix ≥ 64) then (scFormat, s)
  else if use = 2 && tenantBusy ix s then (scBusy, s)
  else (scOk, modSec (fun x =>
    if use = 1 then { x with modelKeys := del x.modelKeys ix } else { x with tenantKeys := del x.tenantKeys ix }) s)

/-! ### Sealed weights (R415, R416) -/

/-- Decrypts n chunks from chunk i on into the destination; false on a failed tag or a failing staple. -/
def unsealChunks (key : BitVec 256) (id : Nat) (aad : List Byte) (src dst len : Nat) : Nat → Nat → State → Bool × State
  | 0, _, s => (true, s)
  | n + 1, i, s =>
    let a := src + 4096 + i * 1052672
    let m := min 1048576 (len - i * 1048576)
    let nonce : BitVec 96 := BitVec.ofNat 96 (id + i % 2 ^ 32 * 2 ^ 64)
    let sound : Bool := (staplesOf a (m + 4096)).all fun p => stapleOk p s
    match (if sound then Config.gcmOpen key nonce aad (rdBytes a m s) (rdBytes (a + m) 16 s) else none) with
    | none => (false, s)
    | some p => unsealChunks key id aad src dst len n (i + 1) (wrSound (dst + i * 1048576) (p.take m) s)

/-- UNSEAL with its ARG: source 23:16, destination 15:8, model key slot 5:0. The sealed image starts at SEC_CMD_ADDR (R412), inside
the source region (log 144). -/
def unsealImage (arg : Nat) (s : State) : Nat × State :=
  let src := region (arg / 2 ^ 16 % 256) s
  let r := arg / 2 ^ 8 % 256
  let dst := region r s
  let a := fld SEC_CMD_ADDR_ADDR s * 4096
  let room := src.base + src.size - a
  if !src.valid || src.kind != kStage || a < src.base || room < 4096 then (scRegion, s)
  else
    let hdr := rdBytes a 4096 s
    let len := bnum hdr 0x10 8
    let chunks := (len + 1048575) / 1048576
    if !stapleOk a s || bnum hdr 0 4 != 0x57534B51 || bnum hdr 4 4 != 1 || len % 4096 != 0 ||
        !allZero (hdr.drop 0x48) then (scFormat, s)
    else if !dst.valid || !(dst.kind == kWeight || dst.kind == kHome) || dst.binds != 0 || dst.size != len ||
        room < 4096 + len + 4096 * chunks then (scRegion, s)
    else
      match find? s.sec.modelKeys (arg % 64) with
      | none => (scNoKey, s)
      | some key =>
        let s := clearSealed r s
        let (ok, s) := unsealChunks key (bnum hdr 8 8) (hdr.take 128) a dst.base len chunks 0 s
        if !ok then (scAuth, invalidate r s)
        else if (digestRange dst.base len s).toNat != bnum hdr 0x18 48 then (scDigest, invalidate r s)
        else (scOk, bump64 (SEC_CNT 2) len (sealRegion r s))

/-! ### The mailbox (R407, R412) -/

def svnAdvance (s : State) : Nat × State :=
  let fw : W16 := BitVec.ofNat 16 (fld SEC_SVN_FW s)
  if fw.toNat ≤ s.fuse.minSvn.toNat then (scOk, s)
  else if s.fuse.advances = 0 then (scFuses, s)
  else (scOk, { s with fuse := { s.fuse with minSvn := fw, advances := s.fuse.advances - 1 } })

/-- Runs the command in a word of SEC_CMD to its end. A reserved OP starts nothing (log 19). -/
def runSec (v : W64) (s : State) : State :=
  let op := fldOf SEC_CMD_OP v
  let arg := fldOf SEC_CMD_ARG v
  let fin (r : Nat × State) (e : Option FRef) : State :=
    let s := match e with
      | some f => if r.1 = scOk then r.2 else setErr f r.2
      | none => r.2
    setFlds [(SEC_CMD_STATUS_BUSY, 0), (SEC_CMD_STATUS_CODE, r.1), (SEC_CMD_START, 0), (TOP_IRQ_STATUS_SEC_CMD, 1)] s
  if op = 1 then fin (slotWrite s) (some SEC_ERR_SLOT)
  else if op = 2 then fin (keyLoad s) (some SEC_ERR_UNWRAP)
  else if op = 3 then fin (keyClear arg s) none
  else if op = 4 then fin (unsealImage arg s) (some SEC_ERR_UNSEAL)
  else if op = 5 then fin (svnAdvance s) none
  else setFlds [(SEC_CMD_STATUS_BUSY, 0), (SEC_CMD_START, 0)] s

/-- A command that waits for a weave load runs once none is in progress; a load that waits for a command goes on. -/
def settleSec (s : State) : State :=
  match s.sec.waiting with
  | some v =>
    if s.load.active && !s.load.waiting then s
    else
      let s := runSec (v.setWidth 64) (modSec (fun x => { x with waiting := none }) s)
      { s with load := { s.load with waiting := false } }
  | none => s

/-- A write of SEC_CMD: a START while BUSY is discarded; during a weave load the command waits. -/
def secCmdWrite (v : W64) (s : State) : State :=
  if wbit v 31 && bit SEC_CMD_STATUS_BUSY s then discarded SEC_CMD v s
  else
    let s := store SEC_CMD v s
    if !wbit v 31 then s
    else if (written SEC_CMD v s).2 then setFld SEC_CMD_START 0 s
    else if bit WV_LOAD_STATUS_BUSY s then
      setFlds [(SEC_CMD_START, 1), (SEC_CMD_STATUS_BUSY, 1)] (modSec (fun x => { x with waiting := some (v.setWidth 32) }) s)
    else runSec v s

/-! ### Measurements (R408) -/

def digestBytes (d : BitVec 384) : List Byte := natToBytes 48 d.toNat

/-- The content of measurement 0x10 + c. -/
def ctxContent (c : Nat) (s : State) : List Byte :=
  let w := (ctx c s).weave
  natToBytes 8 w.id.toNat ++ natToBytes 2 w.flags.toNat ++ natToBytes 48 w.baseDigest.toNat ++ natToBytes 48 w.tableDigest.toNat

/-- The raw contents of blocks 3 and 4: 4 and 12 bytes. -/
def liveMeas3 (s : State) : List Byte := natToBytes 2 (fld SEC_SVN_FW s) ++ natToBytes 2 s.fuse.minSvn.toNat
def liveMeas4 (s : State) : List Byte :=
  natToBytes 4 (topId s) ++ natToBytes 4 (topVariant s) ++ natToBytes 4 (rd SEC_CTRL s).toNat

/-- The value of a measurement with its value type, whose bit 7 marks a raw one (log 145); none for an index without one. -/
def measValue (i : Nat) (s : State) : Option (Nat × List Byte) :=
  if i = 1 then some (0x00, digestBytes Config.romDigest)
  else if i = 2 then some (0x01, digestBytes s.boot.fwDigest)
  else if i = 3 then some (0x87, if s.sec.meas4.isEmpty then liveMeas3 s else s.sec.meas3)
  else if i = 4 then some (0x82, if s.sec.meas4.isEmpty then liveMeas4 s else s.sec.meas4)
  else if i = 5 then some (0x03, digestBytes (Config.sha384 (slotTable s)))
  else if 0x10 ≤ i && i < 0x50 then
    some (0x03, if ctxState (i - 0x10) s = cxFree then List.replicate 48 0 else digestBytes (Config.sha384 (ctxContent (i - 0x10) s)))
  else none

/-- A measurement block in the DMTF format (R408, log 145): index, specification 1, size, value type, value size, value. -/
def measurement (i : Nat) (s : State) : Option (List Byte) :=
  (measValue i s).map fun v =>
    natToBytes 1 i ++ natToBytes 1 1 ++ natToBytes 2 (3 + v.2.length) ++ natToBytes 1 v.1 ++ natToBytes 2 v.2.length ++ v.2

/-- ATTEST finalises measurements 3 and 4. -/
def finalMeas (s : State) : State := modSec (fun x => { x with meas3 := liveMeas3 s, meas4 := liveMeas4 s }) s

/-! ### The SPDM responder (R405, R407, R409; response codes of log 39) -/

def spVersion : Nat := 0x04
def spCertificate : Nat := 0x02
def spChallenge : Nat := 0x03
def spMeasurements : Nat := 0x60
def spKeyExchange : Nat := 0x64
def spHeartbeat : Nat := 0x68
def spKeyUpdate : Nat := 0x69
def spError : Nat := 0x7F
/-- Error codes: InvalidRequest, Busy, UnsupportedRequest. -/
def seInvalid : Byte := 0x01
def seBusy : Byte := 0x03
def seUnsupported : Byte := 0x07

def reply (code : Nat) (bs : List Byte) (s : State) : State := send (.answer code bs) s

/-- The identity key's signature of a byte string (R409). -/
def identitySign (bs : List Byte) (s : State) : List Byte := Config.ecdsaSign s.fuse.identityKey (Config.sha384 bs)

/-- SPDM is answered from IDENTITY on; without running firmware only for the slot 0 chain (`rom`). -/
def spdm (rom : Bool) (f : State → State) (s : State) : State :=
  if !s.boot.on || stage s < stIdentity then s
  else if rom || s.boot.fwRuns then f s
  else reply spError [seUnsupported] s

def certificate (slot : Nat) (s : State) : State :=
  if slot = 0 then reply spCertificate Config.certChain s else reply spError [seInvalid] s

def challenged (nonce : BitVec 256) (s : State) : State :=
  reply spChallenge (identitySign (natToBytes 32 nonce.toNat) s) s

/-- One block, or for index 0xFF every block; signed. -/
def measured (i : Nat) (s : State) : State :=
  let bs : Option (List Byte) :=
    if i = 0xFF then some ((List.range 0x50).flatMap fun j => (measurement j s).getD []) else measurement i s
  match bs with
  | some bs => reply spMeasurements (bs ++ identitySign bs s) s
  | none => reply spError [seInvalid] s

/-- KEY_EXCHANGE: at most four host sessions. -/
def keyExchanged (nonce : BitVec 256) (s : State) : State :=
  match (List.range 4).find? fun i => !s.sec.sessions.contains i with
  | none => reply spError [seBusy] s
  | some i =>
    let s := modSec (fun x => { x with sessions := x.sessions ++ [i] }) s
    reply spKeyExchange (BitVec.ofNat 8 i :: identitySign (natToBytes 32 nonce.toNat) s) s

def inSession (i : Nat) (f : State → State) (s : State) : State :=
  if s.sec.sessions.contains i then f s else reply spError [seInvalid] s

/-- IDE_KM keys or drops a stream, in a secure session: 0 the link stream, 1 to 4 selective streams. -/
def ideKeyed (stream : Nat) (secure : Bool) (s : State) : State :=
  if s.sec.sessions.isEmpty || stream > 4 then reply spError [seInvalid] s
  else modSec (fun x => { x with ide := if secure then addOnce x.ide stream else x.ide.filter (· != stream) }) s

/-! ### Meanings -/

def execWeaveLoadDone (s : State) : Host.Outcome State Fault Refusal := run (fun s => settleSec (loadDone s)) s
def execGetVersion (s : State) : Host.Outcome State Fault Refusal := run (spdm true (reply spVersion [0x12])) s
def execGetCertificate (slot : BitVec 4) (s : State) : Host.Outcome State Fault Refusal :=
  run (spdm true (certificate slot.toNat)) s
def execChallenge (nonce : BitVec 256) (s : State) : Host.Outcome State Fault Refusal := run (spdm false (challenged nonce)) s
def execGetMeasurements (index : Byte) (s : State) : Host.Outcome State Fault Refusal :=
  run (spdm false (measured index.toNat)) s
def execKeyExchange (nonce : BitVec 256) (s : State) : Host.Outcome State Fault Refusal :=
  run (spdm false (keyExchanged nonce)) s
def execKeyUpdate (session : BitVec 2) (s : State) : Host.Outcome State Fault Refusal :=
  run (spdm false (inSession session.toNat fun s => bump64 (SEC_CNT 5) 1 (reply spKeyUpdate [] s))) s
def execHeartbeat (session : BitVec 2) (s : State) : Host.Outcome State Fault Refusal :=
  run (spdm false (inSession session.toNat (reply spHeartbeat []))) s
def execIdeKm (stream : BitVec 3) (secure : Bool) (s : State) : Host.Outcome State Fault Refusal :=
  run (spdm false (ideKeyed stream.toNat secure)) s

end Sys2Proof.Machine
end

