-- ==== Sys2Proof/Machine/Boot.lean ====
section
/-! DEFINITION. Machine/Boot.lean: supplies and pins, the cold boot, firmware, self-test, the warm rejoin, the host link
(R426 to R448, R457 to R466). -/

namespace Sys2Proof.Machine

def modBoot (f : Boot → Boot) (s : State) : State := { s with boot := f s.boot }
def modPins (f : Pins → Pins) (s : State) : State := { s with pins := f s.pins }
def setStage (k : Nat) (s : State) : State := setFld BRG_STATUS_STAGE k s

/-! ### The start of a cold boot (R428, R429, R465) -/

/-- What resets take from the cairn bank: role defaults and the cap default (R394, R450). -/
def fromCairn (s : State) : State :=
  let s := (List.range 7).foldl (fun s p =>
    if portHere s p then
      setFlds [(GLD_PORT_ROLE_VALID p, fld (CRN_PORT_ROLE_VALID p) s), (GLD_PORT_ROLE_ROLE p, fld (CRN_PORT_ROLE_ROLE p) s)] s
    else s) s
  let cap := fld CRN_CAP_DEFAULT_WATTS s
  let lim := partLimit s
  setFld PWR_CAP_HOST_WATTS (min cap lim) (if cap > lim then setErr PWR_ERR_CAP_CLAMP s else s)

/-- Ports whose PRSNT is high are DOWN with cause LOSS (R457). -/
def unmatedLoss (s : State) : State :=
  (List.range 7).foldl (fun s p =>
    if portHere s p && !s.pins.mated.getLsbD p then setFld (GLD_PORT_STATUS_CAUSE p) pcLoss s else s) s

/-- A cold boot starts: the POWER stage of a package that holds only its fuses and its cairn bank. -/
def coldBoot (s : State) : State :=
  let s := powerOff s
  unmatedLoss <| fromCairn (setFlds [(BRG_STATUS_STAGE, stPower), (BRG_STATUS_COLD, 1)] (modBoot (fun b => { b with on := true }) s))

/-- MAIN_EN takes effect: 48 V present, the sense pin closed, no trip or rail failure pending (R428, R461, R462, R465). -/
def tryPower (s : State) : State :=
  if s.pins.v48 && s.pins.mainEn && s.pins.enShort && !s.pins.thermTrip && !s.boot.needReassert && !s.boot.on then coldBoot s
  else s

/-- MAIN_EN is deasserted, or treated so (R461, R462, R466). -/
def mainOff (s : State) : State :=
  let s := powerOff s
  modBoot (fun b => { b with needReassert := false }) (modPins (fun p => { p with thermTrip := false }) s)

/-- 48 V falls below the lockout (R466). -/
def vLost (s : State) : State := modPins (fun p => { p with v48 := false, thermTrip := false }) (powerOff s)

/-- The order in which the rail groups come up, each in regulation before the next starts (R465). -/
def railOrder : List Rail := [.harbour, .atolls, .shoal, .serdes, .spindles]

/-- Rail group `group`, counted from 1 in R465's order, is not in regulation in time: those before it were, and every one goes
off (R465). -/
def railFail (group : Nat) (s : State) : State :=
  if s.boot.on && stage s = stPower then
    send (.mctp (.railFail group)) (modBoot (fun b => { b with needReassert := true }) (powerOff s))
  else s

/-! ### Stages (R429, R433, R436 to R438) -/

/-- Broadcast boot (R433). -/
def broadcast (s : State) : Bool := bit CRN_BOOT_CFG_SOURCE s

/-- Every present port: a strait trained in FW_FETCH goes to IDENTIFY, a mated port trains, another one stays DOWN with
cause LOSS (R433, R436, R457). -/
def linkTrain (s : State) : State :=
  (List.range 7).foldl (fun s p =>
    if !portHere s p then s
    else if portState p s = pTraining then
      if linkRuns p s then sendId p (movePort p pIdentify pcNone (modPort p (fun x => { x with linked := false }) s))
      else modPort p (fun x => { x with linked := false }) s
    else if s.pins.mated.getLsbD p then startTraining p s
    else movePort p pDown pcLoss s) s

/-- What a stage does as it begins. -/
def beginStage (k : Nat) (s : State) : State :=
  let s := setStage k s
  if k = stFwFetch then
    if broadcast s then (List.range 6).foldl (fun s p => startTraining p s) s else s
  else if k = stLinkTrain then linkTrain s
  else if k = stDiscover then evalPorts s
  else s

/-- Whether a port with a valid role meets R438. -/
def portSettled (p : Nat) (s : State) : Bool :=
  let st := portState p s
  !bit (GLD_PORT_ROLE_VALID p) s || st == pDown || st == pHeld || (st == pUp && (p == 6 || linkSession p s == lsSecure))

/-- The fabric manager has written what DISCOVER waits for (R429, R437). -/
def placed (s : State) : Bool := nodeValid s && bit BT_CTRL_EN s

/-- Whether the stage may end (R429, R438, R459). -/
def stageDone (k : Nat) (s : State) : Bool :=
  if k = stRom then !s.pins.perst
  else if k = stIdentity then true
  else if k = stFwFetch then s.boot.fwRuns
  else if k = stSelftest then s.boot.tested
  else if k = stLinkTrain then (List.range 7).all fun p => !portHere s p || portState p s != pTraining
  else if k = stDiscover then placed s
  else if k = stTally then tallyLocked s
  else if k = stAttest then
    s.boot.fwRuns && s.boot.tested && tallyLocked s && (List.range 7).all fun p => !portHere s p || portSettled p s
  else false

/-- A stage ends `us` µs after power-good and the next begins. ATTEST records measurements 3 and 4. -/
def stageEnd (us : Nat) (s : State) : State :=
  let k := stage s
  if !s.boot.on || !stageDone k s then s
  else
    let s := setFld (BRG_STAGE_US_US k) us s
    beginStage (k + 1) (if k = stAttest then finalMeas s else s)

/-- Power-good ends POWER, with every rail group in regulation (R465). -/
def powerGood (s : State) : State :=
  if s.boot.on && stage s = stPower then
    beginStage stRom (modPins (fun p => { p with pwrgd := true }) (modBoot (fun b => { b with rails := railOrder }) s))
  else s

/-- BRG_STATUS as a read returns it: what FW_FETCH and DISCOVER wait for is seen at once. -/
def brgStatus (s : State) : Nat :=
  let fw : Bool := stage s == stFwFetch && !s.boot.fwRuns && !bit BRG_CTRL_FW_GO s
  let node : Bool := stage s == stDiscover && !placed s
  (rd BRG_STATUS s).toNat / 2 ^ 26 * 2 ^ 26 + fw.toNat * 2 ^ 25 + node.toNat * 2 ^ 24

/-! ### Firmware (R407, R432, R433) -/

/-- The image runs; in broadcast mode it is offered on every trained strait. -/
def runImage (src : Nat) (svn : W16) (d : BitVec 384) (s : State) : State :=
  let s := modBoot (fun b => { b with fwRuns := true, fwDigest := d, asked := none }) s
  let s := setFlds [(SEC_SVN_FW, svn.toNat), (BRG_STATUS_SOURCE, src), (BRG_CTRL_FW_GO, 0)] s
  if broadcast s then
    ((List.range 6).filter fun p => (port p s).linked).foldl (fun s p => sendBoot p false d svn s) s
  else s

/-- Asks for the image on the lowest-numbered port that offers one. -/
def askImage (s : State) : State :=
  if s.boot.fwRuns || s.boot.asked.isSome || bit BRG_CTRL_FW_GO s then s
  else
    match (List.range 6).find? fun p => s.boot.offers.any fun o => o.1 == p with
    | none => s
    | some p =>
      match s.boot.offers.find? fun o => o.1 == p with
      | some o => sendBoot p true o.2.1 o.2.2 (modBoot (fun b => { b with asked := some p }) s)
      | none => s

/-- The image has been read and checked. -/
def fetchDone (readOk sigOk : Bool) (svn : W16) (d : BitVec 384) (s : State) : State :=
  if !s.boot.on || stage s != stFwFetch || s.boot.fwRuns then s
  else
    let good : Bool := readOk && sigOk && decide (s.fuse.minSvn.toNat ≤ svn.toNat)
    if bit BRG_CTRL_FW_GO s then
      if good then runImage 0 svn d s
      else askImage (setFld BRG_CTRL_FW_GO 0 (setErr (if readOk then BRG_ERR_FW_AUTH else BRG_ERR_FW_FETCH) s))
    else
      match s.boot.asked with
      | none => s
      | some p =>
        if good then runImage 1 svn d s
        else
          let s := modBoot (fun b => { b with asked := none, offers := b.offers.filter fun o => o.1 != p }) s
          askImage (setErr (if readOk then BRG_ERR_FW_AUTH else BRG_ERR_FW_FETCH) s)

/-- A BOOT_OFFER arrives on a trained strait. -/
def offered (p : Nat) (d : BitVec 384) (svn : W16) (s : State) : State :=
  if !s.boot.on || stage s != stFwFetch || !broadcast s || p ≥ 6 || !(port p s).linked then s
  else askImage (modBoot (fun b => { b with offers := b.offers.filter (fun o => o.1 != p) ++ [(p, d, svn)] }) s)

/-! ### Self-test (R434, R435) -/

/-- Physical spindles that failed, without those that are fused off. -/
def failedPhys (t : SelfTest) (s : State) : List Nat :=
  (t.spindles.map fun x => x.1 % 2 * 152 + x.2 % 152).eraseDups.filter fun p => !s.fuse.spindlesOff.contains p

/-- Retirement records with cause STARTUP for the spindles that have none, the counts of BRG_SELFTEST, and the mapping. -/
def testSpindles (t : SelfTest) (s : State) : State :=
  let bad := failedPhys t s
  let s := (bad.filter fun p => !(retired s).contains p).foldl (fun s p => retire p 9 s) s
  let n (d : Nat) : Nat := (bad.filter fun p => p / 152 == d).length
  mapSpindles bad (setFlds [(BRG_SELFTEST_FAIL_DIE0, n 0), (BRG_SELFTEST_FAIL_DIE1, n 1)] s)

def unitMask (l : List Nat) : Nat := l.eraseDups.foldl (fun m i => m + 2 ^ i) 0

/-- A new memory key: four free values. -/
def newKey (s : State) : BitVec 256 × State :=
  let (a, s) := freeVal s
  let (b, s) := freeVal s
  let (c, s) := freeVal s
  let (d, s) := freeVal s
  (a ++ b ++ c ++ d, s)

/-- New memory keys: one per present atoll, in its base die, and the shoal's (R152, R406, R424). -/
def newKeys (s : State) : State :=
  ((List.range 9).filter fun u => u = 8 || atollHere s u).foldl (fun s u =>
    let (k, s) := newKey s
    modSec (fun x => { x with memKeys := ins x.memKeys u k }) s) s

/-- Every staple of the atolls and the shoal is written, regions and taint log are cleared, every skein is FREE with generation 0,
and the KV pools are not built (R435). -/
def initMemory (s : State) : State :=
  let clear (o : Nat) : Bool := (MEM_RGN_BASE 0 ≤ o && o < MEM_RGN_BASE 256) || (INT_TAINT_EVT 0 ≤ o && o < INT_TAINT_EVT 16)
  let s := setFlds [(KV_STATUS_READY, 0), (KV_CTRL_BUILD, 0), (INT_TAINT_STATUS_HEAD, 0), (INT_TAINT_STATUS_WRAPS, 0)] (resetRegs clear s)
  { s with mem := s.mem.filter (fun c => lagoonBase 0 ≤ c.1), staples := [], digests := [], skeins := [], kv := {}, taintAt := [] }

def selfTested (t : SelfTest) (s : State) : State :=
  if !s.boot.on || stage s != stSelftest || s.boot.tested then s
  else if t.harbour then setErr BRG_ERR_SELFTEST (setStage stFailed s)
  else
    let s := testSpindles t (initMemory (newKeys s))
    let as_ := t.atolls.filter fun a => atollHere s a
    let ms := t.shoals.filter (· < 4)
    let s := as_.foldl (fun s a => atollFail a s) s
    let s := ms.foldl (fun s m => shoalFail m s) s
    modBoot (fun b => { b with tested := true })
      (setFlds [(BRG_SELFTEST_ATOLL_FAIL, unitMask as_), (BRG_SELFTEST_SHOAL_FAIL, unitMask ms)] s)

/-! ### Teardown of a context (R362) -/

/-- A teardown ends in FREE; the context's power histories are cleared (R387). -/
def teardownEnd (c : Nat) (s : State) : State := clearHistory c (finishTeardown c s)

/-- A write of CTX_CMD(c).TEARDOWN, which reads 1 until the context is FREE. -/
def teardown (c : Nat) (s : State) : State :=
  let st := ctxState c s
  if st = cxFree || st = cxLoading || st = cxTeardown then ctxErr CTX_ERR_STATE c s
  else setFld (CTX_CMD_TEARDOWN c) 1 (setState c cxTeardown (faultCtx c cfTeardown none s))

def teardownDone (c : Nat) (s : State) : State := if ctxState c s = cxTeardown then teardownEnd c s else s

/-- Tears down every context at once. -/
def teardownAll (s : State) : State :=
  let s := abandonLoad s
  (existing s).foldl (fun s c => teardownEnd c (if ctxState c s = cxTeardown then s else teardown c s)) s

/-- What is left of ferry channels and windows once every context is gone: the driver's transfers, and windows of contexts that
do not exist (R443). -/
def dropDriver (s : State) : State :=
  let s := s.chans.foldl (fun s c => setChan c.1 {} (dropChanOps c.1 s)) s
  (windowsWhere (fun _ => true) s).foldl (fun s w => withdrawWindow w s) s

/-! ### The warm rejoin (R442 to R445) -/

/-- Every trained or training port trains again with its current coefficients and opens a new session (R444, step 4). -/
def retrainAll (s : State) : State :=
  let s := setFlds [(BRG_RETRAIN_STATUS_PORT_BUSY, 0), (BRG_RETRAIN_STATUS_PORT, 0), (BRG_RETRAIN_STATUS_QUEUED, 0)]
    (modBoot (fun b => { b with retrainQ := [], atollRetry := false }) (abandonAtoll s))
  (List.range 7).foldl (fun s p =>
    if !portHere s p then s
    else
      let s := setFld (SEC_LINK_STATE p) lsNone (setPort p {} s)
      if mayTrain p s then train p s else s) s

/-- Every skein is FREE after a warm rejoin, one that waits for RETIRE too; its generation goes on (R443). -/
def freeSkeins (s : State) : State :=
  (s.skeins.filter fun x => x.2.state != .free).foldl (fun s x => freeSkein x.1 s) s

/-- The rejoin starts, or starts again from its first step. -/
def warmStart (s : State) : State :=
  let haven := bit PWR_HAVEN_ACTIVE s
  let s := settleSec (freeSkeins (dropDriver (teardownAll s)))
  let s := { diesReset s with spns := [], lagoonBad := [], sounds := [], mem := s.mem.filter (fun c =>
                                !(lagoonBase 0 ≤ c.1 && c.1 < lagoonBase 288))
                              digestPass := { s.digestPass with active := false, covered := [] }
                              -- the scrub restarts at the lowest address of each tier (R445)
                              scrubPos := [] }
  let s := setFlds [(INT_STATUS_SOUND_BUSY, 0), (INT_SOUND_STATUS_BUSY, 0), (BRG_STATUS_STAGE, stWarm), (BRG_STATUS_COLD, 0), (BRG_CTRL_WARM, 0),
    (PWR_HAVEN_ACTIVE, 0), (PWR_HAVEN_CAUSE, 0), (PWR_HAVEN_EXIT, 0), (PWR_STATUS_HAVEN, 0), (PWR_STATUS_POINT, 0),
    (PWR_STATUS_TARGET, 0), (PWR_STATUS_STEPPING, 0), (SEC_OFFING_PAIRS_PAIRS, 0)] s
  let s := (List.range 10).foldl (fun s k => wr (BRG_STAGE_US k) 0 s) s
  -- strait, pair, host SPDM and IDE sessions are new (R424)
  let s := modSec (fun x => { x with sessions := [], ide := [], pairs := [] }) s
  let s := modPins (fun p => { p with havenLow := false }) s
  let s := if s.pwr.clrDue then zeroRegs ((List.range 8).map PWR_CNT) s else s
  let s := modPwr (fun p => { p with avg := none, stepTo := 0, higherUs := 0, clrDue := false }) s
  let s := modBoot (fun b => { b with rejoin := 1, fromHaven := b.fromHaven || haven, trained := [] }) s
  -- the free lists are rebuilt where they were built (R443)
  let s := if bit KV_STATUS_READY s then buildStart s else s
  bump64 (BRG_CNT 2) 1 (retrainAll s)

/-- A package that has been through SELFTEST may rejoin; haven mode is left only through PWR_HAVEN.EXIT (R400, R442). -/
def mayRejoin (s : State) : Bool := s.boot.on && s.boot.tested && stage s != stHaven && stage s != stFailed

/-- BRG_CTRL.WARM and a reset of the host link start a rejoin (R442, R459). -/
def warmTrigger (s : State) : State := if mayRejoin s then warmStart s else s

/-- Atolls that lost self-refresh: their regions are invalid, their staples initialised (R444). -/
def retainLoss (as_ : List Nat) (s : State) : State :=
  as_.foldl (fun s a =>
    if !atollHere s a then s
    else
      let rs := regionsWhere (fun g => atollAt g.base == some a) s
      setErr BRG_ERR_RETAIN_LOST (wipe (atollBase a) atollSize (rs.foldl (fun s r => invalidate r s) s))) s

/-- The appliance's BEAT is adopted (R122): a package that is not root and not LOCKED goes on in ACQUIRE, where 64 good
measurements lock it; a root continues its own BEAT, and one that dropped to UNLOCKED stays there (R479). -/
def adoptBeat (b : W64) (s : State) : State :=
  if !bit BT_CTRL_EN s || bit BT_CTRL_ROOT s then s
  else
    let s := wr BT_TALLY b s
    if lockState s = lkLocked || lockState s = lkAcquire then s else setLock lkAcquire { s with goodOffsets := 0 }

/-- The rejoin reaches READY `us` µs after its trigger, or returns to haven mode instead. -/
def warmEnd (us : Nat) (t : SelfTest) (lost : List Nat) (b : W64) (s : State) : State :=
  if !s.boot.on || stage s != stWarm then s
  else
    let s := testSpindles t s
    let s := retainLoss lost s
    let s := if s.kv.building then buildEnd (kvEnter s) else s
    let s := adoptBeat b s
    let s := modBoot (fun b => { b with rejoin := 0, fromHaven := false, rails := railOrder }) s
    if belowFloor s then havenBy 1 s
    else if s.pwr.thermB != 0 then havenBy 2 s
    else
      let s := setFld (BRG_STAGE_US_US stReady) us (setStage stReady s)
      settlePower (settleScrub (capChanged (capEff s).1 s))

/-- A write of PWR_HAVEN (R399, R400). -/
def havenWrite (v : W64) (s : State) : State :=
  if !s.boot.tested || stage s = stFailed then s else settleSec (settlePower (wrHaven warmStart v s))

/-! ### BRG_CTRL and BRG_RETRAIN (R428, R432, R440, R442) -/

/-- A write of BRG_CTRL. FW_GO and WARM read 1 until acted on: FW_GO by the fetch of FW_FETCH, WARM at once or after SELFTEST (R453,
log 148). -/
def brgCtrl (v : W64) (s : State) : State :=
  if wbit v 2 then coldBoot s
  else
    let s := if wbit v 0 && stage s ≤ stFwFetch && !s.boot.fwRuns then
      setFld BRG_CTRL_FW_GO 1 (modBoot (fun b => { b with asked := none }) s) else s
    if !wbit v 1 then s else if mayRejoin s then warmStart s else setFld BRG_CTRL_WARM 1 s

/-- A WARM that waited is acted on once the package may rejoin. -/
def settleWarm (s : State) : State := if bit BRG_CTRL_WARM s then warmTrigger s else s

/-- A port index of 7 is reserved (R453). -/
def brgRetrain (v : W64) (s : State) : State :=
  let bad : Bool := !(fldOf BRG_RETRAIN_KIND v == 1) && fldOf BRG_RETRAIN_INDEX v == 7
  let s := if bad then rsvEnc true (setFld BRG_RETRAIN_KIND (fldOf BRG_RETRAIN_KIND v) s) else store BRG_RETRAIN v s
  let s := setFld BRG_RETRAIN_GO 0 s
  if wbit v 31 && !bad then
    let k := fld BRG_RETRAIN_KIND s
    let i := fld BRG_RETRAIN_INDEX s
    if !s.boot.tested || (if k = 0 then !portHere s i else !atollHere s i) then s
    else atollNext (portNext (queueRetrain k i s))
  else s

/-- A write of BRG_FW_LEN: 4 KiB to 64 MiB, a multiple of 4 KiB (R453). -/
def fwLenWrite (v : W64) (s : State) : State :=
  let n := fldOf BRG_FW_LEN_BYTES v
  if n = 0 || n % 4096 != 0 || n > 67108864 then rsvEnc true s else store BRG_FW_LEN v s

/-! ### The host link (R422, R448, R458, R459) -/

/-- The functions' links go down: host SPDM and IDE sessions end. -/
def linkDown (fns : W16) (s : State) : State :=
  modSec (fun x => { x with sessions := [], ide := [] }) (modBoot (fun b => { b with hostDown := b.hostDown ||| fns }) s)

/-- The host link of functions goes down while READY (R448). -/
def hostDown (fns : W16) (s : State) : State :=
  if s.boot.on && stage s = stReady && fns != 0 then linkDown fns (bump64 (BRG_CNT 3) 1 s) else s

/-- The link returns: the held writes complete, in order, or fail while the host may not be accessed (R422, R448). -/
def hostUp (fns : W16) (s : State) : State :=
  if !s.boot.on || s.pins.perst then s
  else
    let up (f : Nat) : Bool := fns.getLsbD f
    let due := s.hostHeld.filter fun h => up h.1
    let s := if hostAllowed s then due.foldl (fun s h => send (.hostWrite h.1 h.2.2.1 h.2.2.2) s) s
      else (due.map (·.2.1)).eraseDups.foldl (fun s i => ringFault i s) (if due.isEmpty then s else setErr SEC_ERR_IDE s)
    modBoot (fun b => { b with hostDown := b.hostDown &&& ~~~fns }) { s with hostHeld := s.hostHeld.filter fun h => !up h.1 }

/-- BRG_HOST_LOSS.MS expires: held record writes and prompt reads fail (R448). -/
def hostLost (s : State) : State :=
  if !s.boot.on || s.boot.hostDown = 0 then s
  else
    let s := (s.hostHeld.map (·.2.1)).eraseDups.foldl (fun s i => ringFault i s) s
    let s := { s with hostHeld := [] }
    let reads := s.skeins.filter fun k => !fnUp k.2.fn s && stages k.2
    setErr BRG_ERR_HOST_LOST (reads.foldl (fun s k => promptFail k.1 false s) s)

/-- PERST# is asserted: after ROM a warm rejoin starts (R442, R459). -/
def perstOn (s : State) : State :=
  let s := modPins (fun p => { p with perst := true }) s
  if !s.boot.on || stage s ≤ stRom then s
  else
    warmTrigger (linkDown 0xFFFF s)

/-- PERST# is deasserted: the clock mode is chosen, and the host link trains (R458). -/
def perstOff (refclk : Bool) (s : State) : State := modPins (fun p => { p with perst := false, commonClock := refclk }) s

/-- A hot reset of the host link (R442). -/
def hotReset (s : State) : State := warmTrigger s

/-- The I3C static address: 0x30 + the value of the ADDR straps (R460). -/
def i3cAddress (s : State) : Nat := 0x30 + s.pins.i3cStraps.toNat

/-- An MCTP control message over I3C is answered whenever 48 V is present (R426, R460). -/
def mctpControl (cmd : Nat) (s : State) : State := if s.pins.v48 then send (.i3cAnswer (i3cAddress s) cmd) s else s

/-! ### Meanings -/

def execStandbyPowerUp (s : State) : Host.Outcome State Fault Refusal :=
  run (fun s => tryPower (modPins (fun p => { p with v48 := true }) s)) s
def execMainEnAssert (s : State) : Host.Outcome State Fault Refusal :=
  run (fun s => tryPower (modPins (fun p => { p with mainEn := true }) s)) s
def execMainEnDeassert (s : State) : Host.Outcome State Fault Refusal :=
  run (fun s => modPins (fun p => { p with mainEn := false }) (mainOff s)) s
def execEnShortOpen (s : State) : Host.Outcome State Fault Refusal :=
  run (fun s => modPins (fun p => { p with enShort := false }) (mainOff s)) s
def execEnShortClose (s : State) : Host.Outcome State Fault Refusal :=
  run (fun s => tryPower (modPins (fun p => { p with enShort := true }) s)) s
def execInputUndervoltage (s : State) : Host.Outcome State Fault Refusal := run vLost s
def execPowerGood (s : State) : Host.Outcome State Fault Refusal := run powerGood s
def execRailTimeout (group : BitVec 3) (s : State) : Host.Outcome State Fault Refusal := run (railFail group.toNat) s
def execStageComplete (us : Nat) (s : State) : Host.Outcome State Fault Refusal := run (fun s => settleWarm (stageEnd us s)) s
def execWarmRejoinDone (us : Nat) (selfTest : SelfTest) (retainLost : List Nat) (beat : W64) (s : State) :
    Host.Outcome State Fault Refusal := run (warmEnd us selfTest retainLost beat) s
def execFwFetchDone (readOk sigOk : Bool) (svn : W16) (digest : BitVec 384) (s : State) :
    Host.Outcome State Fault Refusal := run (fetchDone readOk sigOk svn digest) s
def execBootOffer (port : BitVec 3) (digest : BitVec 384) (svn : W16) (s : State) : Host.Outcome State Fault Refusal :=
  run (offered port.toNat digest svn) s
def execSelftestDone (t : SelfTest) (s : State) : Host.Outcome State Fault Refusal := run (selfTested t) s
def execTeardownComplete (ctx : BitVec 6) (s : State) : Host.Outcome State Fault Refusal := run (teardownDone ctx.toNat) s
def execPerstAssert (s : State) : Host.Outcome State Fault Refusal := run perstOn s
def execPerstDeassert (refclk : Bool) (s : State) : Host.Outcome State Fault Refusal := run (perstOff refclk) s
def execHotReset (s : State) : Host.Outcome State Fault Refusal := run hotReset s
def execHostLinkDown (fns : BitVec 16) (s : State) : Host.Outcome State Fault Refusal := run (hostDown fns) s
def execHostLinkUp (fns : BitVec 16) (s : State) : Host.Outcome State Fault Refusal := run (hostUp fns) s
def execHostLossTimeout (s : State) : Host.Outcome State Fault Refusal := run hostLost s
def execMctpControl (cmd : Byte) (s : State) : Host.Outcome State Fault Refusal := run (mctpControl cmd.toNat) s

end Sys2Proof.Machine
end

