-- ==== Sys2Proof/Machine/Bus.lean ====
section
/-! DEFINITION. Machine/Bus.lean: accesses to BAR0 of the physical function and of the virtual functions: what an access
hits, what a read returns, and what a write does (R8 to R14, R124, R229, R431, R471 to R476, R481). -/

namespace Sys2Proof.Machine

/-! ### What an access hits (R9, R10, R14, R431, R476) -/

/-- Which part of a register an access covers. -/
inductive Part where
  | full | low | high
  deriving DecidableEq, Repr

/-- What an access finds: nothing that answers; no register; a register, but a size or alignment that it does not take;
a register at its offset, with the part accessed and whether it is 64 bits wide. -/
inductive Hit where
  | silent | unmapped | badSize
  | reg (o : Nat) (wide : Bool) (part : Part)
  deriving DecidableEq, Repr

/-- Whether an offset lies in the REEF or SPN instances (R15). -/
def inDies (o : Nat) : Bool := (0x200000 ≤ o && o < 0x300000) || (0x1000000 ≤ o && o < 0x2200000)

/-- Whether an offset belongs to an instance that the ordering code fuses off (R14). -/
def fusedOff (o : Nat) (s : State) : Bool :=
  let within (lo hi : Nat) : Bool := lo ≤ o && o < hi
  isS s &&
    (within 0x1F00000 0x2200000 || within 0x260000 0x280000 || within 0x2E0000 0x300000 ||
     within 0x3002C0 0x300300 || within 0x3003C0 0x300400 || within 0x602100 0x6021C0 || within 0x30240 0x30270 ||
     within 0x20110 0x2011C || within 0x20210 0x2021C || within 0x21200 0x21380)

/-- The register that holds offset `off`: its own offset and whether it is 64 bits wide (R471). -/
def regHold (off : Nat) : Option (Nat × Bool) :=
  let o := off / 4 * 4
  match regDesc o with
  | some d => some (o, d.wide)
  | none =>
    match regDesc (o - 4) with
    | some d => if d.wide && 4 ≤ o then some (o - 4, true) else none
    | none => none

/-- Whether the blocks beyond TOP, BRG and CRN respond (R431). -/
def blocksUp (s : State) : Bool := s.boot.fwRuns

def hit (off size : Nat) (s : State) : Hit :=
  if 0x30000 ≤ off && !blocksUp s then .silent
  else if fusedOff off s then .unmapped
  else if inDies off && diesDown s then .silent
  else
    match regHold off with
    | none => .unmapped
    | some (o, wide) =>
      if off = o && size = (if wide then 8 else 4) then .reg o wide .full
      else if wide && size = 4 && off = o then .reg o wide .low
      else if wide && size = 4 && off = o + 4 then .reg o wide .high
      else .badSize

/-- Whether the package can be reached over the host link at all: powered, past POWER, and not FAILED, where it answers only MCTP and
SPDM (R434). -/
def onBus (s : State) : Bool := s.boot.on && stage s != stPower && stage s != stFailed

/-! ### What registers read -/

/-- The word of TOP_IRQ_SPN(j) (R472, R476). -/
def irqSpn (j : Nat) (s : State) : Nat :=
  if diesDown s then 0
  else bitsOf ((List.range 32).map fun n => decide (32 * j + n < numSpindles s) && rd (SPN_ERR (32 * j + n)) s != 0)

/-- PWR_CAP_EFF, PWR_LIMITS and PWR_VF (R390, R394, R403). -/
def pwrVal (o : Nat) (s : State) : W64 :=
  if o = PWR_CAP_EFF then BitVec.ofNat 64 ((capEff s).2 * 2 ^ 16 + (capEff s).1)
  else if o = PWR_LIMITS then BitVec.ofNat 64 (s.fuse.floorW * 2 ^ 16 + baseW s)
  else if PWR_VF 0 ≤ o && o < PWR_VF 24 then BitVec.ofNat 64 (vfWord ((o - PWR_VF 0) / 4) s)
  else rd o s

/-- SEC registers (R407, R410, R414, R425). -/
def secVal (o : Nat) (s : State) : W64 :=
  if o = SEC_STATUS then BitVec.ofNat 64 (secStatus s)
  else if o = SEC_SVN then BitVec.ofNat 64 (secSvn s)
  else if o = SEC_SLOT_SEQ then s.sec.slotSeq.setWidth 64
  else if SEC_SLOT 0 ≤ o && o < SEC_SLOT 16 then
    let n := (o - SEC_SLOT 0) / 16
    if o % 16 = 8 then slotId n s
    else if slotValid n s then BitVec.ofNat 64 (2 ^ 31 + slotRole n * 2 ^ 29) else 0
  else if SEC_MODEL_KEY 0 ≤ o && o < SEC_MODEL_KEY 64 then
    if (find? s.sec.modelKeys ((o - SEC_MODEL_KEY 0) / 4)).isSome then 0x80000000 else 0
  else if SEC_TENANT_KEY 0 ≤ o && o < SEC_TENANT_KEY 4096 then
    if (find? s.sec.tenantKeys ((o - SEC_TENANT_KEY 0) / 4)).isSome then 0x80000000 else 0
  else rd o s

/-- Cairn registers: status and wear counters (R449, R452). -/
def crnVal (o : Nat) (s : State) : W64 :=
  if o = CRN_STATUS then BitVec.ofNat 64 (crnStatus s)
  else if CRN_WEAR_KEY 0 ≤ o && o < CRN_WEAR 0 then BitVec.ofNat 64 (wearOf (crnOff o) s)
  else if CRN_WEAR 0 ≤ o then BitVec.ofNat 64 (wearOf (o - CRN_WEAR 0) s)
  else rd o s

/-- Frames of an atoll and class that await release (R206, R210). -/
def heldFrames (a k : Nat) (s : State) : Nat :=
  (s.kv.held.filter fun x => match x.2 with
    | .page _ b j _ => b == a && j == k
    | .bobbin _ b j _ => b == a && j == k
    | _ => false).length

/-- KV registers (R185, R206, R210). -/
def kvVal (o : Nat) (s : State) : W64 :=
  if o = KV_STATUS then
    BitVec.ofNat 64 ((rd KV_STATUS s).toNat / 2 ^ 31 % 2 * 2 ^ 31 + (anyCtx s).toNat * 2 ^ 30 + poolCount s.kv.heads)
  else if o = KV_OLDEST then BitVec.ofNat 64 (kvOldest s)
  else if KV_POOL 0 0 ≤ o && o < KV_POOL 8 0 && o % 16 = 8 then
    let a := (o - KV_POOL 0 0) / 0x40
    let k := (o - KV_POOL 0 0) % 0x40 / 16
    BitVec.ofNat 64 (poolCount (pagePool a k s) * 2 ^ 40 + poolCount (bobPool a k s) * 2 ^ 24 + heldFrames a k s)
  else rd o s

/-- SKN registers (R212, R226, R227). Bits 63:48 of SKN_HANK repeat bit 47. -/
def sknVal (o : Nat) (s : State) : W64 :=
  if SKN_VIEW 0 ≤ o && o < SKN_VIEW 16 then
    ((skWords (sk (fld SKN_VIEW_SEL_SKEIN s) s)).getD ((o - SKN_VIEW 0) / 4) 0).setWidth 64
  else if SKN_STATE_CNT 0 ≤ o && o < SKN_STATE_CNT 8 then BitVec.ofNat 64 (stateCount ((o - SKN_STATE_CNT 0) / 4) s)
  else if SKN_HANK 0 ≤ o && o < SKN_HANK 4096 && o % 16 = 0 then
    (BitVec.ofInt 48 (balance ((o - SKN_HANK 0) / 16) s / 256)).signExtend 64
  else rd o s

/-- Registers of one context read 0 while the context does not exist (R53, R124, R272, R365). -/
def ctxOwned (o : Nat) : Option Nat :=
  if 0x61000 ≤ o && o < 0x61400 then some ((o - 0x61000) / 0x10)
  else if 0x71000 ≤ o && o < 0x72000 then some ((o - 0x71000) / 0x40)
  else if 0x72000 ≤ o && o < 0x72400 then some ((o - 0x72000) / 0x10)
  else if 0x581000 ≤ o && o < 0x581200 then some ((o - 0x581000) / 8)
  else if 0x801000 ≤ o && o < 0x803000 && o % 0x80 < 0x40 then some ((o - 0x801000) / 0x80)
  else none

/-- CTX registers of the package and CTX_STATE (R347, R365). -/
def ctxVal (o : Nat) (s : State) : W64 :=
  if o = CTX_STATUS then
    let moves := (existing s).flatMap fun c => (ctx c s).spillWait.map (·.1) ++ (ctx c s).restoreWait
    BitVec.ofNat 64 (moves.eraseDups.length * 2 ^ 16 + (existing s).length)
  else if 0x801000 ≤ o && o < 0x803000 && o % 0x80 = 4 then
    let c := (o - 0x801000) / 0x80
    BitVec.ofNat 64 ((rd o s).toNat / 2 ^ 29 * 2 ^ 29 + (ctx c s).resident.length * 2 ^ 20 + (ctx c s).spilled.length * 2 ^ 11 +
      (rd o s).toNat % 2 ^ 11)
  else rd o s

/-- FRY registers (R345). -/
def fryVal (o : Nat) (s : State) : W64 :=
  if o = FRY_STATUS then BitVec.ofNat 64 ((freeChans s).length * 2 ^ 24)
  else if 0x781000 ≤ o && (o - 0x781000) % 0x80 = 4 then BitVec.ofNat 64 (chStatus (fryChan o) s)
  else if 0x781000 ≤ o && (o - 0x781000) % 0x80 ≥ 0x44 then
    (lookup (chan (fryChan o) s).words 0 ((o - 0x781000) % 0x80 / 4 - 16)).setWidth 64
  else rd o s

/-- MEM_STATUS: the atolls that the variant has fused off read ABSENT (R153). A shoal module never reads TRAINING: no rule
says when it does (log 130). -/
def memStatus (s : State) : Nat :=
  (List.range 8).foldl (fun n a => if atollHere s a then n else n ||| 3 * 2 ^ (2 * a)) (rd MEM_STATUS s).toNat

/-- The value of the register at `o`, apart from what R124 and log 31 leave free. -/
def liveVal (o : Nat) (s : State) : W64 :=
  match ctxOwned o with
  | some c =>
    if !ctxExists c s then 0
    else if 0x71000 ≤ o && o < 0x72000 && o % 0x40 = 0 then rd GAU_THR_DEFAULT s
    else ctxVal o s
  | none =>
    if o = TOP_ID then BitVec.ofNat 64 (topId s)
    else if o = TOP_VARIANT then BitVec.ofNat 64 (topVariant s)
    else if o = TOP_IRQ_STATUS then BitVec.ofNat 64 (irqStatus s)
    else if TOP_IRQ_SPN 0 ≤ o && o < TOP_IRQ_SPN 9 then BitVec.ofNat 64 (irqSpn ((o - TOP_IRQ_SPN 0) / 4) s)
    else if o = BRG_STATUS then BitVec.ofNat 64 (brgStatus s)
    else if o < 0x20000 then rd o s
    else if o < 0x30000 then crnVal o s
    else if o < 0x40000 then secVal o s
    else if o < 0x50000 then pwrVal o s
    else if o = BT_STATUS then
      if bit BT_CTRL_ROOT s then setFldOf BT_STATUS_ROOT_NODE (myNode s) (rd o s) else rd o s
    else if o < 0x80000 then rd o s
    else if o = MEM_STATUS then BitVec.ofNat 64 (memStatus s)
    else if o = INT_STATUS then BitVec.ofNat 64 (intStatus s)
    else if o < 0x200000 then rd o s
    else if o < 0x300000 then
      if o % 0x20000 = 0 then BitVec.ofNat 64 (reefStatus ((o - 0x200000) / 0x20000) s) else rd o s
    else if o < 0x400000 then kvVal o s
    else if o < 0x500000 then sknVal o s
    else if SMP_PROF_READ 0 ≤ o && o < SMP_PROF_READ 8 then
      ((profWords (fld SMP_PROF_SEL_INDEX s) s).getD ((o - SMP_PROF_READ 0) / 4) 0).setWidth 64
    else if o = CRD_STATUS then BitVec.ofNat 64 (crdStatus s)
    else if o = GLD_STATUS then BitVec.ofNat 64 (gldStatus s)
    else if o = SYN_STATUS then BitVec.ofNat 64 (synStatus s)
    else if o < 0x701000 then rd o s
    else if o < 0x780000 then BitVec.ofNat 64 (synBar ((o - 0x701000) / 0x80) ((o - 0x701000) % 0x80) s)
    else if o < 0x800000 then fryVal o s
    else if o < 0x1000000 then ctxVal o s
    else if o % 0x10000 = 0 then BitVec.ofNat 64 (spnStatus ((o - 0x1000000) / 0x10000) s)
    else rd o s

/-- The bits of the register at `o` that some field covers; the others read 0 (R12). -/
def fieldMask (o : Nat) : W64 :=
  match regDesc o with
  | none => 0
  | some d => d.flds.foldl (fun m f => m ||| BitVec.ofNat 64 ((2 ^ (f.hi + 1 - f.lo) - 1) <<< f.lo)) 0

/-- BT_PHASE: 0 without beats, else a free value, since the model has no clock inside a beat (log 1, R120). -/
def phaseRead (s : State) : W64 × State :=
  if lockState s = lkUnlocked then (0, s) else ((freeVal s).1 &&& 0xFFFFFFFF, (freeVal s).2)

/-- The value of the register at `o`, and the state after a free value was drawn for it: the phase of the beat, and the
position of a transfer that runs. -/
def regVal (o : Nat) (s : State) : W64 × State :=
  if o = BT_PHASE then phaseRead s
  else if FRY_CH_POS 0 ≤ o && o < FRY_CH_POS 64 && ((o - FRY_CH_POS 0) % 0x80 = 0 || (o - FRY_CH_POS 0) % 0x80 = 8) &&
      (chan (fryChan o) s).state == .running then
    posVal (fryChan o) ((o - FRY_CH_POS 0) % 0x80 == 8) s
  else if o = FRY_STATUS then (liveVal o s + BitVec.ofNat 64 (bufKib s).1, (bufKib s).2)
  else (liveVal o s, s)

/-- What a read of the register at `o` returns: no reserved bit is set. -/
def regRead (o : Nat) (s : State) : W64 × State := ((regVal o s).1 &&& fieldMask o, (regVal o s).2)

/-- Whether a register's fields clear as they are read (R12, R53). -/
def readClears (o : Nat) : Bool :=
  match regDesc o with
  | some d => d.flds.any fun f => f.acc == .rc
  | none => false

def clearOnRead (o : Nat) (s : State) : State := if readClears o then wr o 0 s else s

/-! ### Reads (R9, R10, R53, R124) -/

/-- Data of a read. -/
def returned (v : W64) (s : State) : State := { s with rdata := v }

/-- A read of a whole register. A held BT_PHASE latch serves the next read of BT_PHASE. -/
def readFull (o : Nat) (s : State) : State :=
  match (if o = BT_PHASE then find? s.latches o else none) with
  | some h => returned (h.setWidth 64) { s with latches := del s.latches o }
  | none => let (v, s) := regRead o s; returned v (clearOnRead o s)

/-- A read of a low word: the high word is latched, and with BT_TALLY the phase. -/
def readLow (o : Nat) (s : State) : State :=
  let (v, s) := regRead o s
  let s := { s with latches := ins s.latches o ((v >>> 32).setWidth 32) }
  let s :=
    if o = BT_TALLY then
      let (p, s) := phaseRead s
      { s with latches := ins s.latches BT_PHASE (p.setWidth 32) }
    else s
  returned (v &&& 0xFFFFFFFF) (clearOnRead o s)

/-- A read of a high word. -/
def readHigh (o : Nat) (s : State) : State :=
  match find? s.latches o with
  | some h => returned (h.setWidth 64) { s with latches := del s.latches o }
  | none => let (v, s) := regRead o s; returned (v >>> 32) s

/-- A read over BAR0 of the physical function. -/
def busRead (off size : Nat) (s : State) : State :=
  if !onBus s then s
  else
    match hit off size s with
    | .silent => returned 0 s
    | .unmapped => returned 0 (topErr TOP_ERR_UNMAPPED off s)
    | .badSize => returned 0 (topErr TOP_ERR_SIZE off s)
    | .reg o _ .full => readFull o s
    | .reg o _ .low => readLow o s
    | .reg o _ .high => readHigh o s

/-! ### Writes to each block -/

/-- Clears counters and captures by the two bits of a CTRL register. -/
def clrCtrl (v : W64) (cntBit capBit : Nat) (cnts infos : List Nat) (s : State) : State :=
  let s := if wbit v cntBit then zeroRegs cnts s else s
  if wbit v capBit then infos.foldl (fun s i => clearCapture i s) s else s

/-- GAU_CTRL (R51, R52). -/
def gauCtrl (v : W64) (s : State) : State :=
  let s := store GAU_CTRL v s
  let s := if wbit v 1 then
      zeroRegs [GAU_CNT_FLAGGED, GAU_CNT_WIDENED, GAU_CNT_OVERRUN, GAU_CNT_LIMIT, GAU_CNT_NULL, GAU_CNT_POISON] s else s
  if wbit v 2 then zeroRegs [GAU_TRACE_ID, GAU_TRACE_FRAC] s else s

/-- SPN_CTRL of an instance at `b` (R88). -/
def spnCtrl (b : Nat) (v : W64) (s : State) : State :=
  clrCtrl v 0 1 [b + 0x20, b + 0x28, b + 0x2C, b + 0x30, b + 0x38, b + 0x40] [b + 0xC, b + 0x10] s

/-- REEF_CTRL of an instance at `b` (R182). -/
def reefCtrl (b : Nat) (v : W64) (s : State) : State :=
  clrCtrl v 0 1 [b + 0x20, b + 0x28, b + 0x30, b + 0x38, b + 0x40, b + 0x44, b + 0x48] [b + 0xC, b + 0x10] s

def smpCtrl (v : W64) (s : State) : State := clrCtrl v 0 1 ((List.range 8).map SMP_CNT) [SMP_ERR_INFO] s
def crdCtrl (v : W64) (s : State) : State :=
  clrCtrl v 0 1 ((List.range 10).map CRD_CNT ++ (List.range 64).map CRD_CTX_DROP) [CRD_ERR_INFO] s
def synCtrl (v : W64) (s : State) : State := clrCtrl v 0 1 ((List.range 4).map SYN_CNT) [SYN_ERR_INFO] s
def fryCtrl (v : W64) (s : State) : State := clrCtrl v 0 1 ((List.range 8).map FRY_CNT) [FRY_ERR_INFO] s
def intCtrl (v : W64) (s : State) : State := clrCtrl v 0 1 ((List.range 12).map INT_CNT) [INT_ERR_INFO] s
def ctxCtrl (v : W64) (s : State) : State := if wbit v 0 then clearCapture CTX_ERR_INFO s else s

/-- INT_FENCE and INT_SOUND_CMD (R373, R376). A word with a reserved encoding starts nothing (log 19). -/
def intFence (v : W64) (s : State) : State :=
  let s := store INT_FENCE v s
  if wbit v 31 then driverFence s else s
def intSound (v : W64) (s : State) : State :=
  let bad := (written INT_SOUND_CMD v s).2
  let s := store INT_SOUND_CMD v s
  if !wbit v 31 then s else if bad then setFld INT_SOUND_CMD_GO 0 s else soundCmd s

/-- INT registers (R383). -/
def intWrite (o : Nat) (v : W64) (s : State) : State :=
  if o = INT_CTRL then intCtrl v s
  else if o = INT_FENCE then intFence v s
  else if o = INT_SOUND_CMD then intSound v s
  else store o v s

/-- A write of CTX_SPILL(c, k): only while c is FREE (R348). -/
def spillCfg (c o : Nat) (v : W64) (s : State) : State :=
  if ctxExists c s then ctxErr CTX_ERR_CFG_LOCKED c s else store o v s

/-- CTX registers (R347, R362, R365). -/
def ctxWrite (o : Nat) (v : W64) (s : State) : State :=
  if o = CTX_CTRL then ctxCtrl v s
  else if 0x801000 ≤ o && o < 0x803000 then
    let c := (o - 0x801000) / 0x80
    let r := (o - 0x801000) % 0x80
    if r = 8 then (if wbit v 0 then teardown c s else s)
    else if 0x40 ≤ r then spillCfg c o v s
    else store o v s
  else store o v s

/-- FRY registers; `ok` is how a resumed access ends (R342, R345, R346). -/
def fryWrite (ok : Bool) (o : Nat) (v : W64) (s : State) : State :=
  if o = FRY_CTRL then fryCtrl v s
  else if 0x780200 ≤ o && o < 0x780304 then { s with fryKeys := put s.fryKeys 0 ((o - 0x780200) / 4) (v.setWidth 32) }
  else if 0x781000 ≤ o then
    let n := fryChan o
    let r := (o - 0x781000) % 0x80
    if r = 0 then chCfgWrite n o v s
    else if r = 8 then chCmd n v ok s
    else if 0x44 ≤ r then shadowWrite n (r / 4 - 16) v s
    else s
  else store o v s

/-- GLD registers (R289, R306, R308, R313). -/
def gldWrite (o : Nat) (v : W64) (s : State) : State :=
  if o = GLD_CTRL then gldCtrlWrite v s
  else if o = GLD_NODE then nodeWrite v s
  else if 0x602000 ≤ o && o < 0x603000 && o % 0x40 = 4 then roleWrite ((o - 0x602000) / 0x40) v s
  else if 0x603000 ≤ o && o < 0x603400 && o % 0x10 = 0 then ringWrite ((o - 0x603000) / 0x10) v s
  else if 0x610000 ≤ o then winWrite o v s
  else store o v s

/-- SMP registers: DATA and SEL are held while a check runs (R233, R249). -/
def smpWrite (o : Nat) (v : W64) (s : State) : State :=
  if o = SMP_CTRL then smpCtrl v s
  else if o = SMP_PROF_CTRL then profStart v s
  else if (o = SMP_PROF_SEL || (0x500020 ≤ o && o < 0x500040)) && bit SMP_STATUS_PROF_BUSY s then discarded o v s
  else store o v s

/-- A register of a queue page (R229). -/
def qWrite (ok : Bool) (o : Nat) (v : W64) (s : State) : State :=
  let q := (o - 0x440000) / 0x40
  let r := (o - 0x440000) % 0x40
  if r = 0 then qDoorbell q v ok s else if r = 8 then qRingTail q v s else s

/-- SKN registers (R227 to R229). -/
def sknWrite (ok : Bool) (o : Nat) (v : W64) (s : State) : State :=
  if o = SKN_CTRL then sknCtrl v s
  else if o = SKN_HANK_ADD then hankAddWrite v s
  else if 0x401000 ≤ o && o < 0x401200 then ctxRange ((o - 0x401000) / 8) v s
  else if 0x408000 ≤ o && o < 0x418000 then
    let q := (o - 0x408000) / 0x10
    if o % 0x10 = 0 then qcfgAddr q v s else qcfgCtl q v s
  else if 0x440000 ≤ o then qWrite ok o v s
  else store o v s

/-- KV registers (R185, R209, R210). -/
def kvWrite (o : Nat) (v : W64) (s : State) : State :=
  if o = KV_CTRL then kvCtrl v s
  else if o = KV_LEAVES || (0x300100 ≤ o && o < 0x300110) || (0x300200 ≤ o && o < 0x300400 && o % 16 = 0) then
    kvConfigWrite o v s
  else if 0x300040 ≤ o && o < 0x300060 then shardCmd o v s
  else store o v s

/-- MEM registers (R132, R133, R142, R151, R153). -/
def memWrite (o : Nat) (v : W64) (s : State) : State :=
  if o = MEM_CTRL then memCtrl v s
  else if o = MEM_SCRUB_RATE then settleScrub (store o v s)
  else if o = MEM_SWAP_CTRL then swapCtrl v s
  else if 0x101000 ≤ o && o < 0x103000 then rgnWrite o v s
  else if 0x104000 ≤ o && o < 0x106000 then bindWrite ((o - 0x104000) / 0x80) o v s
  else store o v s

/-- PWR registers (R394, R399, R400, R402 to R404). -/
def pwrWrite (o : Nat) (v : W64) (s : State) : State :=
  if o = PWR_CTRL then pwrCtrl v s
  else if o = PWR_CAP_HOST then settlePower (wrCapHost v s)
  else if o = PWR_HAVEN then havenWrite v s
  else store o v s

/-- BRG and CRN registers (R428, R432, R440, R449, R453). -/
def brgWrite (o : Nat) (v : W64) (s : State) : State :=
  if o = BRG_CTRL then brgCtrl v s
  else if o = BRG_FW_LEN then fwLenWrite v s
  else if o = BRG_RETRAIN then brgRetrain v s
  else store o v s

/-- The effect of a completed write of the register at `o`. -/
def regWrite (ok : Bool) (o : Nat) (v : W64) (s : State) : State :=
  if o < 0x10000 then store o v s
  else if o < 0x20000 then brgWrite o v s
  else if o < 0x30000 then (if isCairn o then crnWrite o v s else store o v s)
  else if o = SEC_CMD then secCmdWrite v s
  else if o < 0x40000 then store o v s
  else if o < 0x50000 then pwrWrite o v s
  else if o = BT_CTRL then btCtrl v s
  else if o = BT_BEAT_LEN then beatLen v s
  else if o = WV_LOAD_CTRL then loadStart v s
  else if o = GAU_CTRL then gauCtrl v s
  else if o < 0x80000 then store o v s
  else if o < 0x100000 then intWrite o v s
  else if o < 0x200000 then memWrite o v s
  else if o < 0x300000 then (if o % 0x20000 = 4 then reefCtrl (o - 4) v s else store o v s)
  else if o < 0x400000 then kvWrite o v s
  else if o < 0x500000 then sknWrite ok o v s
  else if o < 0x580000 then smpWrite o v s
  else if o < 0x600000 then (if o = CRD_CTRL then crdCtrl v s else store o v s)
  else if o < 0x700000 then gldWrite o v s
  else if o < 0x780000 then (if o = SYN_CTRL then synCtrl v s else store o v s)
  else if o < 0x800000 then fryWrite ok o v s
  else if o < 0x1000000 then ctxWrite o v s
  else if o % 0x10000 = 4 then spnCtrl (o - 4) v s
  else store o v s

/-! ### Writes (R9, R10) -/

/-- The low word that a write of a high word joins: the one held, or the register's current low word. -/
def joinLow (o : Nat) (s : State) : W64 :=
  match find? s.heldLow o with
  | some l => l.setWidth 64
  | none => liveVal o s &&& fieldMask o &&& 0xFFFFFFFF

/-- A write over BAR0 of the physical function. -/
def busWrite (ok : Bool) (off size : Nat) (v : W64) (s : State) : State :=
  if !onBus s then s
  else
    match hit off size s with
    | .silent => s
    | .unmapped => topErr TOP_ERR_UNMAPPED off s
    | .badSize => topErr TOP_ERR_SIZE off s
    | .reg o wide .full => regWrite ok o (if wide then v else v &&& 0xFFFFFFFF) { s with acc := off }
    | .reg o _ .low => { s with heldLow := ins s.heldLow o (v.setWidth 32) }
    | .reg o _ .high =>
      regWrite ok o ((v &&& 0xFFFFFFFF) <<< 32 ||| joinLow o s) { s with acc := off, heldLow := del s.heldLow o }

/-- A driver's write, with every resumed ferry access succeeding. -/
def driverWrite (off size : Nat) (v : W64) (s : State) : State := busWrite true off size v s

/-! ### Virtual functions (R11, R229, R481) -/

/-- The queues whose FUNCTION names virtual function `fn`, ascending. -/
def vfQueues (fn : Nat) (s : State) : List Nat :=
  (s.regs.filter fun e =>
    0x408000 ≤ e.1 && e.1 < 0x418000 && e.1 % 0x10 == 8 && fldOf (SKN_QCFG_CTL_FUNCTION 0) e.2 == fn).map
      fun e => (e.1 - 0x408000) / 0x10

/-- The BAR0 offset, in the physical function, of what an access of a virtual function hits. -/
def vfTarget (fn off size : Nat) (s : State) : Option Nat :=
  if fn = 0 then none
  else
    match (vfQueues fn s)[off / 0x40]? with
    | none => none
    | some q =>
      let o := SKN_Q_DOORBELL q + off % 0x40
      match hit o size s with
      | .reg _ _ _ => some o
      | _ => none

/-- An access through the BAR0 of a virtual function: one that hits no queue-page register or breaks R9 reads 0, discards
its write and is recorded nowhere. -/
def vfAccess (fn : Nat) (wr : Bool) (off size : Nat) (v : W64) (s : State) : State :=
  if !onBus s then s
  else
    match vfTarget fn off size s with
    | some o => if wr then driverWrite o size v s else busRead o size s
    | none => if wr then s else returned 0 s

/-! ### Meanings: accesses by offset -/

def execRegisterWrite (off : BitVec 26) (size : Nat) (v : W64) (s : State) : Host.Outcome State Fault Refusal :=
  run (driverWrite off.toNat size v) s
def execIllegalSizeAccess (wr : Bool) (off : BitVec 26) (size : Nat) (v : W64) (s : State) :
    Host.Outcome State Fault Refusal :=
  run (fun s => if wr then driverWrite off.toNat size v s else busRead off.toNat size s) s
def execUnmappedAccess (wr : Bool) (off : BitVec 26) (size : Nat) (v : W64) (s : State) :
    Host.Outcome State Fault Refusal :=
  run (fun s => if wr then driverWrite off.toNat size v s else busRead off.toNat size s) s
def execLowWordRead (off : BitVec 26) (s : State) : Host.Outcome State Fault Refusal := run (busRead off.toNat 4) s
def execHighWordRead (off : BitVec 26) (s : State) : Host.Outcome State Fault Refusal := run (busRead off.toNat 4) s
def execLowWordWrite (off : BitVec 26) (v : W32) (s : State) : Host.Outcome State Fault Refusal :=
  run (driverWrite off.toNat 4 (v.setWidth 64)) s
def execHighWordWrite (off : BitVec 26) (v : W32) (s : State) : Host.Outcome State Fault Refusal :=
  run (driverWrite off.toNat 4 (v.setWidth 64)) s
def execRcCounterRead (off : BitVec 26) (size : Nat) (s : State) : Host.Outcome State Fault Refusal :=
  run (busRead off.toNat size) s
def execVfInvalidAccess (fn : BitVec 4) (wr : Bool) (off : BitVec 20) (size : Nat) (v : W64) (s : State) :
    Host.Outcome State Fault Refusal := run (vfAccess fn.toNat wr off.toNat size v) s
def execCairnWrite (off : BitVec 26) (size : Nat) (v : W64) (s : State) : Host.Outcome State Fault Refusal :=
  run (driverWrite off.toNat size v) s
def execMemRgnWrite (off : BitVec 26) (size : Nat) (v : W64) (s : State) : Host.Outcome State Fault Refusal :=
  run (driverWrite off.toNat size v) s
def execWinCfgWrite (off : BitVec 26) (size : Nat) (v : W64) (s : State) : Host.Outcome State Fault Refusal :=
  run (driverWrite off.toNat size v) s

/-! ### Meanings: writes of one 32-bit register -/

/-- A 32-bit write of the register at `o`. -/
def write32 (o : Nat) (v : W32) (s : State) : Host.Outcome State Fault Refusal := run (driverWrite o 4 (v.setWidth 64)) s
/-- A 64-bit write of the register at `o`. -/
def write64 (o : Nat) (v : W64) (s : State) : Host.Outcome State Fault Refusal := run (driverWrite o 8 v) s

def execTraceClr (v : W32) (s : State) : Host.Outcome State Fault Refusal := write32 GAU_CTRL v s
def execGauCntClr (v : W32) (s : State) : Host.Outcome State Fault Refusal := write32 GAU_CTRL v s
def execFbEn (v : W32) (s : State) : Host.Outcome State Fault Refusal := write32 GAU_CTRL v s
def execSpnCntClr (n : Nat) (v : W32) (s : State) : Host.Outcome State Fault Refusal := write32 (SPN_CTRL n) v s
def execSpnCaptureClr (n : Nat) (v : W32) (s : State) : Host.Outcome State Fault Refusal := write32 (SPN_CTRL n) v s
def execWvLoadStart (v : W32) (s : State) : Host.Outcome State Fault Refusal := write32 WV_LOAD_CTRL v s
def execBtCtrlWrite (v : W32) (s : State) : Host.Outcome State Fault Refusal := write32 BT_CTRL v s
def execBeatLenWrite (v : W32) (s : State) : Host.Outcome State Fault Refusal := write32 BT_BEAT_LEN v s
def execMemBindWrite (c : BitVec 6) (w : BitVec 5) (v : W32) (s : State) : Host.Outcome State Fault Refusal :=
  write32 (MEM_BIND c.toNat w.toNat) v s
def execSwapListStart (v : W32) (s : State) : Host.Outcome State Fault Refusal := write32 MEM_SWAP_CTRL v s
def execMemCntClr (v : W32) (s : State) : Host.Outcome State Fault Refusal := write32 MEM_CTRL v s
def execReefCntClr (a : BitVec 3) (v : W32) (s : State) : Host.Outcome State Fault Refusal := write32 (REEF_CTRL a.toNat) v s
def execReefCaptureClr (a : BitVec 3) (v : W32) (s : State) : Host.Outcome State Fault Refusal :=
  write32 (REEF_CTRL a.toNat) v s
def execBuild (v : W32) (s : State) : Host.Outcome State Fault Refusal := write32 KV_CTRL v s
def execKvCntClr (v : W32) (s : State) : Host.Outcome State Fault Refusal := write32 KV_CTRL v s
def execKvCaptureClr (v : W32) (s : State) : Host.Outcome State Fault Refusal := write32 KV_CTRL v s
def execShardCreate (v : W64) (s : State) : Host.Outcome State Fault Refusal := write64 KV_SHARD_CMD2 v s
def execQDoorbell (q : BitVec 12) (bell : Doorbell) (s : State) : Host.Outcome State Fault Refusal :=
  run (busWrite bell.ringOk (SKN_Q_DOORBELL q.toNat) 4 (bell.word.setWidth 64)) s
def execQRingTail (q : BitVec 12) (v : W64) (s : State) : Host.Outcome State Fault Refusal :=
  write64 (SKN_Q_RING_TAIL q.toNat) v s
def execDirectCancel (v : W64) (s : State) : Host.Outcome State Fault Refusal := write64 SKN_CTRL v s
def execSknHankAdd (v : W64) (s : State) : Host.Outcome State Fault Refusal := write64 SKN_HANK_ADD v s
def execQueueEnable (q : BitVec 12) (v : W64) (s : State) : Host.Outcome State Fault Refusal :=
  write64 (SKN_QCFG_CTL q.toNat) v s
def execQueueDisable (q : BitVec 12) (v : W64) (s : State) : Host.Outcome State Fault Refusal :=
  write64 (SKN_QCFG_CTL q.toNat) v s
def execCtxRangeWrite (c : BitVec 6) (v : W64) (s : State) : Host.Outcome State Fault Refusal :=
  write64 (SKN_CTX_RANGE c.toNat) v s
def execCommitProfile (v : W32) (s : State) : Host.Outcome State Fault Refusal := write32 SMP_PROF_CTRL v s
def execSmpCntClr (v : W32) (s : State) : Host.Outcome State Fault Refusal := write32 SMP_CTRL v s
def execSmpCaptureClr (v : W32) (s : State) : Host.Outcome State Fault Refusal := write32 SMP_CTRL v s
def execCrdCntClr (v : W32) (s : State) : Host.Outcome State Fault Refusal := write32 CRD_CTRL v s
def execCrdCaptureClr (v : W32) (s : State) : Host.Outcome State Fault Refusal := write32 CRD_CTRL v s
def execGldNodeWrite (v : W32) (s : State) : Host.Outcome State Fault Refusal := write32 GLD_NODE v s
def execCausewayWrite (v : W32) (s : State) : Host.Outcome State Fault Refusal := write32 GLD_CTRL v s
def execMsgRingWrite (c : BitVec 6) (v : W64) (s : State) : Host.Outcome State Fault Refusal :=
  write64 (GLD_MSG_RING c.toNat) v s
def execSynCntClr (v : W32) (s : State) : Host.Outcome State Fault Refusal := write32 SYN_CTRL v s
def execSynCaptureClr (v : W32) (s : State) : Host.Outcome State Fault Refusal := write32 SYN_CTRL v s
def execLoad (ch : BitVec 6) (v : W32) (s : State) : Host.Outcome State Fault Refusal := write32 (FRY_CH_CMD ch.toNat) v s
/-- `ok`: whether the failed access now succeeds. -/
def execResume (ch : BitVec 6) (v : W32) (ok : Bool) (s : State) : Host.Outcome State Fault Refusal :=
  run (busWrite ok (FRY_CH_CMD ch.toNat) 4 (v.setWidth 64)) s
def execAbort (ch : BitVec 6) (v : W32) (s : State) : Host.Outcome State Fault Refusal := write32 (FRY_CH_CMD ch.toNat) v s
def execFryCntClr (v : W32) (s : State) : Host.Outcome State Fault Refusal := write32 FRY_CTRL v s
def execFryCaptureClr (v : W32) (s : State) : Host.Outcome State Fault Refusal := write32 FRY_CTRL v s
def execTeardown (c : BitVec 6) (v : W32) (s : State) : Host.Outcome State Fault Refusal := write32 (CTX_CMD c.toNat) v s
def execCtxSpillWrite (c : BitVec 6) (k : BitVec 3) (v : W32) (s : State) : Host.Outcome State Fault Refusal :=
  write32 (CTX_SPILL c.toNat k.toNat) v s
def execCtxCaptureClr (v : W32) (s : State) : Host.Outcome State Fault Refusal := write32 CTX_CTRL v s
def execIntFence (v : W32) (s : State) : Host.Outcome State Fault Refusal := write32 INT_FENCE v s
def execSounding (v : W32) (s : State) : Host.Outcome State Fault Refusal := write32 INT_SOUND_CMD v s
def execIntCntClr (v : W32) (s : State) : Host.Outcome State Fault Refusal := write32 INT_CTRL v s
def execIntCaptureClr (v : W32) (s : State) : Host.Outcome State Fault Refusal := write32 INT_CTRL v s
def execHavenEnter (v : W32) (s : State) : Host.Outcome State Fault Refusal := write32 PWR_HAVEN v s
def execHavenExit (v : W32) (s : State) : Host.Outcome State Fault Refusal := write32 PWR_HAVEN v s
def execCapHostWrite (v : W32) (s : State) : Host.Outcome State Fault Refusal := write32 PWR_CAP_HOST v s
def execPwrCntClr (v : W32) (s : State) : Host.Outcome State Fault Refusal := write32 PWR_CTRL v s
def execSlotWrite (v : W32) (s : State) : Host.Outcome State Fault Refusal := write32 SEC_CMD v s
def execKeyLoad (v : W32) (s : State) : Host.Outcome State Fault Refusal := write32 SEC_CMD v s
def execKeyClear (v : W32) (s : State) : Host.Outcome State Fault Refusal := write32 SEC_CMD v s
def execUnsealWrite (v : W32) (s : State) : Host.Outcome State Fault Refusal := write32 SEC_CMD v s
def execSvnAdvance (v : W32) (s : State) : Host.Outcome State Fault Refusal := write32 SEC_CMD v s
def execCold (v : W32) (s : State) : Host.Outcome State Fault Refusal := write32 BRG_CTRL v s
def execWarm (v : W32) (s : State) : Host.Outcome State Fault Refusal := write32 BRG_CTRL v s
def execFwGo (v : W32) (s : State) : Host.Outcome State Fault Refusal := write32 BRG_CTRL v s
def execRetrainRequest (v : W32) (s : State) : Host.Outcome State Fault Refusal := write32 BRG_RETRAIN v s
def execIrqMaskWrite (v : W32) (s : State) : Host.Outcome State Fault Refusal := write32 TOP_IRQ_MASK v s

end Sys2Proof.Machine
end

