-- ==== Sys2Proof/Machine/SyncCmds.lean ====
section
/-! DEFINITION. Machine/SyncCmds.lean: SYNC entries and the commands by which participants arrive and wait (R317 to R320,
R324, R325). -/

namespace Sys2Proof.Machine

/-- The SYNC entry of a list that its unit may execute now (R317, R320): its operation is one of `ops`, it names the barrier
and the participant, and every earlier entry of the unit is complete; a pilot has applied every record of the entries
before it, and of an arriving spindle no operation is out (R318). -/
def syncReady (e : EntryRef) (c i p : Nat) (ops : List Nat) (s : State) : Option Disp :=
  match ready e kSync s, stepOf c s, phaseOf c e.phase.toNat s with
  | some d, some st, some ph =>
    let l := lookup st.lists [] e.phase.toNat
    let t := templateOf (ctx c s).weave ph
    let before : Bool := (List.range e.idx).all fun j =>
      match l[j]? with
      | some x => (!shareUnit x.words d.words || x.st == .done || (idle x && eKind x.words != kSync)) &&
          (p < 288 || fullyPatched t j x)
      | none => true
    -- the fences of R318: an arrival of a spindle waits for what its threads issued before
    let fenced : Bool := ops.contains 1 || p ≥ 288 || (spn p s).threads.all fun th => th.2.ctx != c || th.2.ops.isEmpty
    if e.ctx.toNat = c && yBarrier d.words = i && yPart d.words = p && ops.contains (yOp d.words) && before && fenced then some d
    else none
  | _, _, _ => none

/-- A SYNC entry is executed (R320): it arrives when its operation does, and waits unless SKIP is 1. -/
def syncEntry (e : EntryRef) (c i p : Nat) (arrives waits : Bool) (ops : List Nat) (s : State) : State :=
  match syncReady e c i p ops s with
  | none => s
  | some d =>
    let s := if arrives then arrive c i p (.entry e) s else s
    if waits && !eSkip d.words then waitBar c i p (.entry e) s else syncDone e s

/-- An arrival, a wait, or both, of participant p at barrier i of context c: by a thread of a spindle, or by a SYNC entry of a
spindle or pilot core. A ferry channel arrives as its transfer completes (`completeDesc`), so that nothing else arrives for a
participant of itself (R317). -/
def syncCmd (c i p : Nat) (who : Arriver) (arrives waits : Bool) (ops : List Nat) (s : State) : State :=
  match who with
  | .self => s
  | .thread t writes =>
    if arrives then threadArrives c i p t.toNat writes waits s else threadWaits c i p t.toNat s
  | .entry e => syncEntry e c i p arrives waits ops s

/-! ### Meanings -/

def execArrive (bar : BarrierRef) (participant : Nat) (who : Arriver) (s : State) :
    Host.Outcome State Fault Refusal :=
  run (fun s => settleFerry (syncCmd bar.ctx.toNat bar.barrier.toNat participant who true false [0] s)) s

def execWait (bar : BarrierRef) (participant : Nat) (who : Arriver) (s : State) :
    Host.Outcome State Fault Refusal :=
  run (fun s => settleFerry (syncCmd bar.ctx.toNat bar.barrier.toNat participant who false true [1] s)) s

/-- Arrives and then waits (R320). -/
def execArriveWait (bar : BarrierRef) (participant : Nat) (who : Arriver) (s : State) :
    Host.Outcome State Fault Refusal :=
  run (fun s => settleFerry (syncCmd bar.ctx.toNat bar.barrier.toNat participant who true true [2] s)) s

def execArriveMessage (ctx : BitVec 6) (barrier : Byte) (gen : Bool) (src : BitVec 7) (mask : BitVec 128) (s : State) :
    Host.Outcome State Fault Refusal :=
  run (fun s => settleFerry (arriveMsg ctx.toNat barrier.toNat gen src.toNat (maskList mask) s)) s

def execReleaseMessage (ctx : BitVec 6) (barrier : Byte) (gen : Bool) (mask : BitVec 128) (s : State) :
    Host.Outcome State Fault Refusal :=
  run (fun s => settleFerry (releaseMsg ctx.toNat barrier.toNat gen (maskList mask) s)) s

/-- A FENCE (R298). -/
def execFence (spindle : Nat) (thread : BitVec 3) (s : State) : Host.Outcome State Fault Refusal :=
  run (fenceThread spindle thread.toNat) s

end Sys2Proof.Machine
end

