-- ==== Sys2Proof/Machine/Dispatch.lean ====
section
/-! DEFINITION. Machine/Dispatch.lean: the meaning of each command. -/

namespace Sys2Proof.Machine

def exec (i : Instr) (s : State) : Host.Outcome State Fault Refusal :=
  match i with
  | .registerWrite off size v => Sys2Proof.Machine.execRegisterWrite off size v s
  | .illegalSizeAccess wr off size v => Sys2Proof.Machine.execIllegalSizeAccess wr off size v s
  | .unmappedAccess wr off size v => Sys2Proof.Machine.execUnmappedAccess wr off size v s
  | .lowWordRead off => Sys2Proof.Machine.execLowWordRead off s
  | .highWordRead off => Sys2Proof.Machine.execHighWordRead off s
  | .lowWordWrite off v => Sys2Proof.Machine.execLowWordWrite off v s
  | .highWordWrite off v => Sys2Proof.Machine.execHighWordWrite off v s
  | .rcCounterRead off size => Sys2Proof.Machine.execRcCounterRead off size s
  | .vfInvalidAccess fn wr off size v => Sys2Proof.Machine.execVfInvalidAccess fn wr off size v s
  | .cairnWrite off size v => Sys2Proof.Machine.execCairnWrite off size v s
  | .traceClr v => Sys2Proof.Machine.execTraceClr v s
  | .gauCntClr v => Sys2Proof.Machine.execGauCntClr v s
  | .fbEn v => Sys2Proof.Machine.execFbEn v s
  | .tensorEntry e env => Sys2Proof.Machine.execTensorEntry e env s
  | .repeatComplete e env => Sys2Proof.Machine.execRepeatComplete e env s
  | .adapterPass e env => Sys2Proof.Machine.execAdapterPass e env s
  | .tileComplete e env => Sys2Proof.Machine.execTileComplete e env s
  | .retainWindowClose e => Sys2Proof.Machine.execRetainWindowClose e s
  | .vectorEntry e env => Sys2Proof.Machine.execVectorEntry e env s
  | .vectorProgramEnd e out env => Sys2Proof.Machine.execVectorProgramEnd e out env s
  | .nopEntry e => Sys2Proof.Machine.execNopEntry e s
  | .memoryAccessComplete spindle thread rep => Sys2Proof.Machine.execMemoryAccessComplete spindle thread rep s
  | .packageFence who writes => Sys2Proof.Machine.execPackageFence who writes s
  | .packageFenceComplete spindle thread => Sys2Proof.Machine.execPackageFenceComplete spindle thread s
  | .spnCntClr spindle v => Sys2Proof.Machine.execSpnCntClr spindle v s
  | .spnCaptureClr spindle v => Sys2Proof.Machine.execSpnCaptureClr spindle v s
  | .wvLoadStart v => Sys2Proof.Machine.execWvLoadStart v s
  | .weaveLoadDone => Sys2Proof.Machine.execWeaveLoadDone s
  | .beatEdge reports energy vote => Sys2Proof.Machine.execBeatEdge reports energy vote s
  | .patchStep ctx phase => Sys2Proof.Machine.execPatchStep ctx phase s
  | .slipVoteResult v => Sys2Proof.Machine.execSlipVoteResult v s
  | .voteTimeout => Sys2Proof.Machine.execVoteTimeout s
  | .voteLossTimeout => Sys2Proof.Machine.execVoteLossTimeout s
  | .tallyFrame offsetPs beat rootNode hops => Sys2Proof.Machine.execTallyFrame offsetPs beat rootNode hops s
  | .holdoverExpired => Sys2Proof.Machine.execHoldoverExpired s
  | .btCtrlWrite v => Sys2Proof.Machine.execBtCtrlWrite v s
  | .beatLenWrite v => Sys2Proof.Machine.execBeatLenWrite v s
  | .pinExpiry ctx layer => Sys2Proof.Machine.execPinExpiry ctx layer s
  | .primingComplete ctx => Sys2Proof.Machine.execPrimingComplete ctx s
  | .spill r c spindle => Sys2Proof.Machine.execSpill r c spindle s
  | .restore c spindle => Sys2Proof.Machine.execRestore c spindle s
  | .memRgnWrite off size v => Sys2Proof.Machine.execMemRgnWrite off size v s
  | .memBindWrite ctx w v => Sys2Proof.Machine.execMemBindWrite ctx w v s
  | .swapListStart v => Sys2Proof.Machine.execSwapListStart v s
  | .swapPairCopied how => Sys2Proof.Machine.execSwapPairCopied how s
  | .memCntClr v => Sys2Proof.Machine.execMemCntClr v s
  | .stapleRestore addr homeOk => Sys2Proof.Machine.execStapleRestore addr homeOk s
  | .scrubStaple addr corrected uncorrectable => Sys2Proof.Machine.execScrubStaple addr corrected uncorrectable s
  | .digestPassStart => Sys2Proof.Machine.execDigestPassStart s
  | .digestPassEnd => Sys2Proof.Machine.execDigestPassEnd s
  | .passDigestReceive ctx w d => Sys2Proof.Machine.execPassDigestReceive ctx w d s
  | .atollFailure a => Sys2Proof.Machine.execAtollFailure a s
  | .shoalFailure m => Sys2Proof.Machine.execShoalFailure m s
  | .atollRetrain a => Sys2Proof.Machine.execAtollRetrain a s
  | .atollRetrainDone ok => Sys2Proof.Machine.execAtollRetrainDone ok s
  | .reefFwd e a env => Sys2Proof.Machine.execReefFwd e a env s
  | .reefBwd e a env => Sys2Proof.Machine.execReefBwd e a env s
  | .reefRowStart e a row env => Sys2Proof.Machine.execReefRowStart e a row env s
  | .reefCntClr a v => Sys2Proof.Machine.execReefCntClr a v s
  | .reefCaptureClr a v => Sys2Proof.Machine.execReefCaptureClr a v s
  | .build v => Sys2Proof.Machine.execBuild v s
  | .kvBuildComplete => Sys2Proof.Machine.execKvBuildComplete s
  | .kvCntClr v => Sys2Proof.Machine.execKvCntClr v s
  | .kvCaptureClr v => Sys2Proof.Machine.execKvCaptureClr v s
  | .shardCreate v => Sys2Proof.Machine.execShardCreate v s
  | .flushComplete head => Sys2Proof.Machine.execFlushComplete head s
  | .carryLanded head => Sys2Proof.Machine.execCarryLanded head s
  | .prefillPageWrite skein page data => Sys2Proof.Machine.execPrefillPageWrite skein page data s
  | .shardPageLanding head page data => Sys2Proof.Machine.execShardPageLanding head page data s
  | .shardRelease skein gen node => Sys2Proof.Machine.execShardRelease skein gen node s
  | .directoryRepair head a leaf => Sys2Proof.Machine.execDirectoryRepair head a leaf s
  | .qDoorbell q bell => Sys2Proof.Machine.execQDoorbell q bell s
  | .nop q cmd => Sys2Proof.Machine.execNop q cmd s
  | .admitSkein q cmd => Sys2Proof.Machine.execAdmitSkein q cmd s
  | .cancel q cmd => Sys2Proof.Machine.execCancel q cmd s
  | .retire q cmd => Sys2Proof.Machine.execRetire q cmd s
  | .reprioritise q cmd => Sys2Proof.Machine.execReprioritise q cmd s
  | .stopLoad q cmd image => Sys2Proof.Machine.execStopLoad q cmd image s
  | .qRingTail q v => Sys2Proof.Machine.execQRingTail q v s
  | .directCancel v => Sys2Proof.Machine.execDirectCancel v s
  | .sknHankAdd v => Sys2Proof.Machine.execSknHankAdd v s
  | .queueEnable q v => Sys2Proof.Machine.execQueueEnable q v s
  | .queueDisable q v => Sys2Proof.Machine.execQueueDisable q v s
  | .ctxRangeWrite ctx v => Sys2Proof.Machine.execCtxRangeWrite ctx v s
  | .promptSliceStaged skein chunks buffer => Sys2Proof.Machine.execPromptSliceStaged skein chunks buffer s
  | .completionRecordWrite skein hostOk => Sys2Proof.Machine.execCompletionRecordWrite skein hostOk s
  | .sampleEntry e env => Sys2Proof.Machine.execSampleEntry e env s
  | .commitProfile v => Sys2Proof.Machine.execCommitProfile v s
  | .profileCheckDone => Sys2Proof.Machine.execProfileCheckDone s
  | .smpCntClr v => Sys2Proof.Machine.execSmpCntClr v s
  | .smpCaptureClr v => Sys2Proof.Machine.execSmpCaptureClr v s
  | .route e env => Sys2Proof.Machine.execRoute e env s
  | .gather e env => Sys2Proof.Machine.execGather e env s
  | .ret e env => Sys2Proof.Machine.execRet e env s
  | .combine e env => Sys2Proof.Machine.execCombine e env s
  | .crdCntClr v => Sys2Proof.Machine.execCrdCntClr v s
  | .crdCaptureClr v => Sys2Proof.Machine.execCrdCaptureClr v s
  | .fabricOperationIssue op => Sys2Proof.Machine.execFabricOperationIssue op s
  | .put p => Sys2Proof.Machine.execPut p s
  | .putSignal p => Sys2Proof.Machine.execPutSignal p s
  | .get p => Sys2Proof.Machine.execGet p s
  | .reduce p => Sys2Proof.Machine.execReduce p s
  | .mcastPut p => Sys2Proof.Machine.execMcastPut p s
  | .atomic p hold => Sys2Proof.Machine.execAtomic p hold s
  | .signal p => Sys2Proof.Machine.execSignal p s
  | .send p => Sys2Proof.Machine.execSend p s
  | .ack r => Sys2Proof.Machine.execAck r s
  | .data r => Sys2Proof.Machine.execData r s
  | .nak r => Sys2Proof.Machine.execNak r s
  | .retransmitTimeout tag pktOff => Sys2Proof.Machine.execRetransmitTimeout tag pktOff s
  | .operationTimeout tag responded => Sys2Proof.Machine.execOperationTimeout tag responded s
  | .fence spindle thread => Sys2Proof.Machine.execFence spindle thread s
  | .recv spindle thread => Sys2Proof.Machine.execRecv spindle thread s
  | .codewordReceive port seq ackSeq nakBit idle corrected good tagFail => Sys2Proof.Machine.execCodewordReceive port seq ackSeq nakBit idle corrected good tagFail s
  | .laneRepair port lane => Sys2Proof.Machine.execLaneRepair port lane s
  | .signalLoss port => Sys2Proof.Machine.execSignalLoss port s
  | .retrainInterval port => Sys2Proof.Machine.execRetrainInterval port s
  | .portTrainingDone port how => Sys2Proof.Machine.execPortTrainingDone port how s
  | .portRetrainDone port ok => Sys2Proof.Machine.execPortRetrainDone port ok s
  | .idFrame port f => Sys2Proof.Machine.execIdFrame port f s
  | .linkSpdmFrame port done chain meas => Sys2Proof.Machine.execLinkSpdmFrame port done chain meas s
  | .linkKeyUpdate port ok => Sys2Proof.Machine.execLinkKeyUpdate port ok s
  | .portDownNotice pos dir => Sys2Proof.Machine.execPortDownNotice pos dir s
  | .portUp pos dir => Sys2Proof.Machine.execPortUp pos dir s
  | .prsntMate port => Sys2Proof.Machine.execPrsntMate port s
  | .prsntRelease port => Sys2Proof.Machine.execPrsntRelease port s
  | .winCfgWrite off size v => Sys2Proof.Machine.execWinCfgWrite off size v s
  | .windowDrainDone w => Sys2Proof.Machine.execWindowDrainDone w s
  | .gldNodeWrite v => Sys2Proof.Machine.execGldNodeWrite v s
  | .causewayWrite v => Sys2Proof.Machine.execCausewayWrite v s
  | .msgRingWrite ctx v => Sys2Proof.Machine.execMsgRingWrite ctx v s
  | .arrive bar participant who => Sys2Proof.Machine.execArrive bar participant who s
  | .wait bar participant who => Sys2Proof.Machine.execWait bar participant who s
  | .arriveWait bar participant who => Sys2Proof.Machine.execArriveWait bar participant who s
  | .arriveMessage ctx barrier gen src mask => Sys2Proof.Machine.execArriveMessage ctx barrier gen src mask s
  | .releaseMessage ctx barrier gen mask => Sys2Proof.Machine.execReleaseMessage ctx barrier gen mask s
  | .watch spindle thread addr cond operand => Sys2Proof.Machine.execWatch spindle thread addr cond operand s
  | .synCntClr v => Sys2Proof.Machine.execSynCntClr v s
  | .synCaptureClr v => Sys2Proof.Machine.execSynCaptureClr v s
  | .ferryEntry e => Sys2Proof.Machine.execFerryEntry e s
  | .load ch v => Sys2Proof.Machine.execLoad ch v s
  | .resume ch v ok => Sys2Proof.Machine.execResume ch v ok s
  | .abort ch v => Sys2Proof.Machine.execAbort ch v s
  | .timerTrigger ch => Sys2Proof.Machine.execTimerTrigger ch s
  | .transferComplete ch hostData busyNs env => Sys2Proof.Machine.execTransferComplete ch hostData busyNs env s
  | .busError ch k0 k1 k2 => Sys2Proof.Machine.execBusError ch k0 k1 k2 s
  | .fryCntClr v => Sys2Proof.Machine.execFryCntClr v s
  | .fryCaptureClr v => Sys2Proof.Machine.execFryCaptureClr v s
  | .teardown ctx v => Sys2Proof.Machine.execTeardown ctx v s
  | .teardownComplete ctx => Sys2Proof.Machine.execTeardownComplete ctx s
  | .ctxSpillWrite ctx k v => Sys2Proof.Machine.execCtxSpillWrite ctx k v s
  | .ctxCaptureClr v => Sys2Proof.Machine.execCtxCaptureClr v s
  | .witnessReplay e => Sys2Proof.Machine.execWitnessReplay e s
  | .witnessComplete e result flagged env => Sys2Proof.Machine.execWitnessComplete e result flagged env s
  | .strikeExpiry p => Sys2Proof.Machine.execStrikeExpiry p s
  | .buddyRequest src tag ctx weaveId req => Sys2Proof.Machine.execBuddyRequest src tag ctx weaveId req s
  | .buddyAnswer e a => Sys2Proof.Machine.execBuddyAnswer e a s
  | .buddyTimeout e => Sys2Proof.Machine.execBuddyTimeout e s
  | .hangTimeout spindle => Sys2Proof.Machine.execHangTimeout spindle s
  | .intFence v => Sys2Proof.Machine.execIntFence v s
  | .sounding v => Sys2Proof.Machine.execSounding v s
  | .soundingComplete pass block => Sys2Proof.Machine.execSoundingComplete pass block s
  | .intCntClr v => Sys2Proof.Machine.execIntCntClr v s
  | .intCaptureClr v => Sys2Proof.Machine.execIntCaptureClr v s
  | .powerSample m => Sys2Proof.Machine.execPowerSample m s
  | .vfStepDone => Sys2Proof.Machine.execVfStepDone s
  | .droopAlarm die deficitMv active => Sys2Proof.Machine.execDroopAlarm die deficitMv active s
  | .thermalSample t => Sys2Proof.Machine.execThermalSample t s
  | .thermalLimitTimeout => Sys2Proof.Machine.execThermalLimitTimeout s
  | .floorTimeout => Sys2Proof.Machine.execFloorTimeout s
  | .havenEnter v => Sys2Proof.Machine.execHavenEnter v s
  | .havenExit v => Sys2Proof.Machine.execHavenExit v s
  | .capHostWrite v => Sys2Proof.Machine.execCapHostWrite v s
  | .bmcCapSet watts => Sys2Proof.Machine.execBmcCapSet watts s
  | .pwrCntClr v => Sys2Proof.Machine.execPwrCntClr v s
  | .slotWrite v => Sys2Proof.Machine.execSlotWrite v s
  | .keyLoad v => Sys2Proof.Machine.execKeyLoad v s
  | .keyClear v => Sys2Proof.Machine.execKeyClear v s
  | .unsealWrite v => Sys2Proof.Machine.execUnsealWrite v s
  | .svnAdvance v => Sys2Proof.Machine.execSvnAdvance v s
  | .getVersion => Sys2Proof.Machine.execGetVersion s
  | .getCertificate slot => Sys2Proof.Machine.execGetCertificate slot s
  | .challenge nonce => Sys2Proof.Machine.execChallenge nonce s
  | .getMeasurements index => Sys2Proof.Machine.execGetMeasurements index s
  | .keyExchange nonce => Sys2Proof.Machine.execKeyExchange nonce s
  | .keyUpdate session => Sys2Proof.Machine.execKeyUpdate session s
  | .heartbeat session => Sys2Proof.Machine.execHeartbeat session s
  | .ideKm stream secure => Sys2Proof.Machine.execIdeKm stream secure s
  | .standbyPowerUp => Sys2Proof.Machine.execStandbyPowerUp s
  | .mainEnAssert => Sys2Proof.Machine.execMainEnAssert s
  | .mainEnDeassert => Sys2Proof.Machine.execMainEnDeassert s
  | .enShortOpen => Sys2Proof.Machine.execEnShortOpen s
  | .inputUndervoltage => Sys2Proof.Machine.execInputUndervoltage s
  | .powerGood => Sys2Proof.Machine.execPowerGood s
  | .railTimeout group => Sys2Proof.Machine.execRailTimeout group s
  | .stageComplete us => Sys2Proof.Machine.execStageComplete us s
  | .cold v => Sys2Proof.Machine.execCold v s
  | .warm v => Sys2Proof.Machine.execWarm v s
  | .warmRejoinDone us selfTest retainLost beat => Sys2Proof.Machine.execWarmRejoinDone us selfTest retainLost beat s
  | .fwGo v => Sys2Proof.Machine.execFwGo v s
  | .fwFetchDone readOk sigOk svn digest => Sys2Proof.Machine.execFwFetchDone readOk sigOk svn digest s
  | .bootOffer port digest svn => Sys2Proof.Machine.execBootOffer port digest svn s
  | .selftestDone t => Sys2Proof.Machine.execSelftestDone t s
  | .retrainRequest v => Sys2Proof.Machine.execRetrainRequest v s
  | .perstAssert => Sys2Proof.Machine.execPerstAssert s
  | .perstDeassert refclk => Sys2Proof.Machine.execPerstDeassert refclk s
  | .hostLinkDown fns => Sys2Proof.Machine.execHostLinkDown fns s
  | .hostLinkUp fns => Sys2Proof.Machine.execHostLinkUp fns s
  | .hostLossTimeout => Sys2Proof.Machine.execHostLossTimeout s
  | .mctpControl cmd => Sys2Proof.Machine.execMctpControl cmd s
  | .irqMaskWrite v => Sys2Proof.Machine.execIrqMaskWrite v s
  | .hotReset => Sys2Proof.Machine.execHotReset s
  | .enShortClose => Sys2Proof.Machine.execEnShortClose s

end Sys2Proof.Machine
end

