-- ==== Sys2Proof/Safety.lean ====
section
/-! DEFINITION. Safety.lean: the terms in which statements speak of a command's effect: a safe step, what a command
leaves alone, the canonical form of a state, a package that answers. -/

namespace Sys2Proof.Safety

open Sys2Proof.Machine

/-- A step is safe when it answers a next state: it neither faults nor refuses. -/
def SafeStep (s : State) : Prop := ∃ t, step s = .next t

/-- Command `c` completes from `s`, in a state that satisfies `P`. -/
def Gives (c : Instr) (s : State) (P : State → Prop) : Prop := ∃ t, exec c s = .next t ∧ P t

/-- Everything but registers, memory, wear counters, and what the model records of the access and of its messages. -/
def rest (s : State) : State :=
  { s with regs := [], mem := [], staples := [], wear := [], msix := [], sent := [], rdata := 0, acc := 0 }

/-- Every byte of memory and every staple's metadata reads as before. -/
def SameMem (s t : State) : Prop := ∀ a, rdByte a t = rdByte a s ∧ metaAt a t = metaAt a s

/-- Every register but those listed reads as before. -/
def SameRegs (l : List Nat) (s t : State) : Prop := ∀ o, o ∉ l → rd o t = rd o s

/-- Every wear counter reads as before. -/
def SameWear (s t : State) : Prop := ∀ k, wearOf k t = wearOf k s

/-- Nothing changes but the registers listed (and interrupt messages that follow from them). -/
def RegsOnly (l : List Nat) (s t : State) : Prop := rest t = rest s ∧ SameMem s t ∧ SameWear s t ∧ SameRegs l s t

/-- Registers, memory, staple metadata and wear counters are in canonical form. -/
def Canon (s : State) : Prop :=
  canon rstVal s.regs = true ∧ Memory.wf s.mem = true ∧ canon (fun _ => ({} : Meta)) s.staples = true ∧
    canon (fun _ => 0) s.wear = true

/-- A running package that answers at offset `o`: powered and past POWER, firmware running, the instance present and its
die up (R14, R431, R476). -/
def Answers (o : Nat) (s : State) : Prop :=
  onBus s = true ∧ blocksUp s = true ∧ fusedOff o s = false ∧ (inDies o && diesDown s) = false

/-- A package in service: powered, firmware running, in READY, its dies up. -/
def InService (s : State) : Prop := s.boot.on = true ∧ s.boot.fwRuns = true ∧ stage s = stReady

end Sys2Proof.Safety
end

