-- ==== Sys2Proof/Certificates/Slice0/Obligations.lean ====
section
/-! DEFINITION. Certificates/Slice0/Obligations.lean: the statements for the provers. -/

open Sys2Proof Sys2Proof.Machine Sys2Proof.Safety

/-! ### The queue, reset, the canonical form -/

/-- A step runs the command at the front of the queue on the state with the rest of the queue; on an empty queue the
block idles (log 8). Idling on an empty queue is the model's choice (log 8). -/
def Obligations.StepRunsFront : Prop :=
  (∀ (c : Instr) (l : List Instr) (s : State), step { s with pending := c :: l } = exec c { s with pending := l }) ∧
    ∀ s : State, s.pending = [] → step s = .next s

/-- No command's effect touches the queue of commands that wait. The queue is the model's own (log 8). -/
def Obligations.QueueKept : Prop := ∀ (c : Instr) (s t : State), exec c s = .next t → t.pending = s.pending

/-- The state after reset: no supplies, no command waiting, memory and wear counters in canonical form and empty; the
first instance of every register of R471 holds in each field the reset value that its field table gives. That reset is
the unpowered package is the model's choice (log 20), as is the value of an unlisted byte (log 6) and of a fused field
(log 4). -/
def Obligations.ResetState : Prop :=
  Canon State.reset ∧ State.reset.boot.on = false ∧ State.reset.pending = [] ∧ (∀ a, rdByte a State.reset = memDefault) ∧
    ∀ d ∈ regTab, ∀ f ∈ d.flds, fldOf ⟨d.base, f.hi, f.lo⟩ (rd d.base State.reset) = f.rst

/-- Every step of every command keeps registers, memory, staple metadata and wear counters in canonical form. -/
def Obligations.CanonKept : Prop := ∀ s t : State, Canon s → step s = .next t → Canon t

/-! ### Register accesses (R9 to R14, R18, R53) -/

/-- What a field holds after a write of `new` over `old` (R12, R13). -/
def fieldAfter (f : Fld) (old new : Nat) : Nat :=
  match f.acc with
  | .rw | .wp => if f.bad.any fun b => b.1 ≤ new && new ≤ b.2 then old else new
  | .w1c => old &&& ((2 ^ (f.hi + 1 - f.lo) - 1) ^^^ new)
  | .w1s => old ||| new
  | .ro | .wo | .rc => old

/-- In every register each field takes the value that its access type gives it, bits of no field keep their value, and a
reserved encoding is noted exactly when one is written to an RW or WP field. -/
def Obligations.FieldsByAccessType : Prop :=
  ∀ d ∈ regTab, ∀ old new : W64,
    (∀ f ∈ d.flds, fldOf ⟨0, f.hi, f.lo⟩ (applyFields d.flds old new).1 =
      fieldAfter f (fldOf ⟨0, f.hi, f.lo⟩ old) (fldOf ⟨0, f.hi, f.lo⟩ new)) ∧
    (∀ i < 64, (∀ f ∈ d.flds, ¬(f.lo ≤ i ∧ i ≤ f.hi)) → (applyFields d.flds old new).1.getLsbD i = old.getLsbD i) ∧
    ((applyFields d.flds old new).2 = true ↔
      ∃ f ∈ d.flds, (f.acc = .rw ∨ f.acc = .wp) ∧
        ∃ b ∈ f.bad, b.1 ≤ fldOf ⟨0, f.hi, f.lo⟩ new ∧ fldOf ⟨0, f.hi, f.lo⟩ new ≤ b.2)

/-- 32-bit registers without an effect beyond their fields: error registers, TOP_IRQ_STATUS, and plain configuration. -/
def plain32 : List Nat :=
  [TOP_ERR, TOP_IRQ_STATUS, BRG_ERR, BRG_HOST_LOSS, CRN_ERR, SEC_CTRL, SEC_ERR, PWR_ERR, PWR_GUARD, PWR_THERM_CFG,
   BT_EDGE_WIN, BT_SLIP_LIMIT, BT_ERR, WV_LOAD_LEN, GAU_THR_DEFAULT, INT_ERR, INT_STRIKE_CFG, INT_DIGEST_CFG,
   INT_BUDDY_CFG, MEM_ERR, KV_ERR, SKN_ERR, SKN_VIEW_SEL, SMP_ERR, CRD_ERR, GLD_ERR, GLD_TIMEOUT, GLD_TC_WEIGHT, SYN_ERR,
   FRY_ERR, CTX_ERR]

/-- A write of a plain register leaves in it what the access types give, and changes nothing else; a reserved encoding sets
TOP_ERR.RSV_ENC. -/
def Obligations.PlainRegisterWrite : Prop :=
  ∀ o ∈ plain32, ∀ (v : W64) (s : State), Answers o s →
    Gives (.registerWrite (BitVec.ofNat 26 o) 4 v) s fun t =>
      let w := written o (v &&& 0xFFFFFFFF) s
      rd o t = w.1 ∧ (w.2 = false → RegsOnly [o] s t) ∧
        (w.2 = true → bit TOP_ERR_RSV_ENC t = true ∧ RegsOnly [o, TOP_ERR, TOP_ERR_ADDR] s t)

/-- An access whose size or alignment the register does not take: TOP_ERR.SIZE, the offset when no error was pending, a
read of 0, and no other effect. -/
def illegalSizes : Prop :=
  ∀ (wr : Bool) (off : BitVec 26) (size : Nat) (v : W64) (s : State) (o : Nat) (wide : Bool),
    Answers off.toNat s → regHold off.toNat = some (o, wide) →
    ¬(off.toNat = o ∧ size = if wide then 8 else 4) →
    ¬(wide = true ∧ size = 4 ∧ (off.toNat = o ∨ off.toNat = o + 4)) →
    Gives (.illegalSizeAccess wr off size v) s fun t =>
      bit TOP_ERR_SIZE t = true ∧ RegsOnly [TOP_ERR, TOP_ERR_ADDR] s t ∧ (wr = false → t.rdata = 0) ∧
        (rd TOP_ERR s = 0 → fld TOP_ERR_ADDR_OFFSET t = off.toNat) ∧
        (rd TOP_ERR s ≠ 0 → rd TOP_ERR_ADDR t = rd TOP_ERR_ADDR s)

/-- An access to an offset that holds no register, or to an instance that is fused off: TOP_ERR.UNMAPPED, the offset when no
error was pending, a read of 0, and no other effect. -/
def unmappedAccesses : Prop :=
  ∀ (wr : Bool) (off : BitVec 26) (size : Nat) (v : W64) (s : State),
    onBus s = true → blocksUp s = true →
    (fusedOff off.toNat s = true ∨ ((inDies off.toNat && diesDown s) = false ∧ regHold off.toNat = none)) →
    Gives (.unmappedAccess wr off size v) s fun t =>
      bit TOP_ERR_UNMAPPED t = true ∧ RegsOnly [TOP_ERR, TOP_ERR_ADDR] s t ∧ (wr = false → t.rdata = 0) ∧
        (rd TOP_ERR s = 0 → fld TOP_ERR_ADDR_OFFSET t = off.toNat) ∧
        (rd TOP_ERR s ≠ 0 → rd TOP_ERR_ADDR t = rd TOP_ERR_ADDR s)

/-- Accesses that no register takes: of a wrong size, and to offsets without a register. -/
def Obligations.IllegalAccesses : Prop := illegalSizes ∧ unmappedAccesses

/-- An access of a virtual function that hits no queue-page register: it reads 0, and nothing is recorded: no register, no
memory and no message changes. -/
def Obligations.VirtualFunctionInvalid : Prop :=
  ∀ (fn : BitVec 4) (wr : Bool) (off : BitVec 20) (size : Nat) (v : W64) (s : State),
    onBus s = true → vfTarget fn.toNat off.toNat size s = none →
    Gives (.vfInvalidAccess fn wr off size v) s fun t =>
      RegsOnly [] s t ∧ t.sent = s.sent ∧ t.msix = s.msix ∧ (wr = false → t.rdata = 0)

/-- 64-bit registers that take a value and have no effect beyond it. -/
def plain64 : List Nat := [BRG_FW_ADDR, SEC_CMD_ADDR, WV_LOAD_ADDR]

/-- The two halves of a 64-bit register: a read of the low word latches the high word; a read of the high word returns the
latch and releases it, or the current high word with no side effect; a write of the low word is held; a write of the high
word takes effect with the held low word, or with the current one. -/
def wordHalves : Prop :=
  (∀ (o : BitVec 26) (s : State), Answers o.toNat s → regHold o.toNat = some (o.toNat, true) → readClears o.toNat = false →
    o.toNat ≠ BT_TALLY → (regVal o.toNat s).2 = s →
    Gives (.lowWordRead o) s fun t =>
      t.rdata = (regRead o.toNat s).1 &&& 0xFFFFFFFF ∧
        find? t.latches o.toNat = some (((regRead o.toNat s).1 >>> 32).setWidth 32) ∧ ∀ p, rd p t = rd p s) ∧
  (∀ (o : Nat) (s : State) (h : W32), o + 4 < 2 ^ 26 → Answers (o + 4) s → regHold (o + 4) = some (o, true) →
    find? s.latches o = some h →
    Gives (.highWordRead (BitVec.ofNat 26 (o + 4))) s fun t =>
      t.rdata = h.setWidth 64 ∧ t.latches = del s.latches o ∧ ∀ p, rd p t = rd p s) ∧
  (∀ (o : Nat) (s : State), o + 4 < 2 ^ 26 → Answers (o + 4) s → regHold (o + 4) = some (o, true) →
    find? s.latches o = none →
    Gives (.highWordRead (BitVec.ofNat 26 (o + 4))) s fun t =>
      t.rdata = (regRead o s).1 >>> 32 ∧ t.latches = s.latches ∧ ∀ p, rd p t = rd p s) ∧
  (∀ (o : BitVec 26) (v : W32) (s : State), Answers o.toNat s → regHold o.toNat = some (o.toNat, true) →
    Gives (.lowWordWrite o v) s fun t => find? t.heldLow o.toNat = some v ∧ ∀ p, rd p t = rd p s) ∧
  (∀ o ∈ plain64, ∀ (v : W32) (s : State), Answers (o + 4) s →
    Gives (.highWordWrite (BitVec.ofNat 26 (o + 4)) v) s fun t =>
      rd o t = (written o (v.setWidth 64 <<< 32 ||| joinLow o s) s).1 ∧ find? t.heldLow o = none ∧ SameMem s t ∧
        SameRegs [o] s t)

/-- A read of an RC counter returns its value and clears it whole; a read of the low word of a 64-bit one returns the low
word, latches the high word, and clears the whole counter. -/
def counterReads : Prop :=
  ∀ (o : BitVec 26) (wide : Bool) (s : State), Answers o.toNat s → regHold o.toNat = some (o.toNat, wide) →
    readClears o.toNat = true →
    Gives (.rcCounterRead o (if wide then 8 else 4)) s
      (fun t => t.rdata = (regRead o.toNat s).1 ∧ rd o.toNat t = 0 ∧ RegsOnly [o.toNat] s t) ∧
    (wide = true → Gives (.rcCounterRead o 4) s fun t =>
      t.rdata = (regRead o.toNat s).1 &&& 0xFFFFFFFF ∧ rd o.toNat t = 0 ∧ SameRegs [o.toNat] s t ∧
        find? t.latches o.toNat = some (((regRead o.toNat s).1 >>> 32).setWidth 32))

/-- Reads of 64-bit registers in halves, and reads that clear. -/
def Obligations.RegisterReads : Prop := wordHalves ∧ counterReads

/-! ### The cairn bank (R449, R450) -/

/-- What a driver's write of `new` over `old` may put into a cairn register (R450): of an equaliser or retirement record
only VALID, and that only to 0; of a lane map only 0; anything else as written. -/
def cairnTakes (o : Nat) (old new : W64) : W64 :=
  if 0x21000 ≤ o ∧ o < 0x22000 then old &&& (new ||| ~~~(0x80000000 : W64))
  else if 0x22000 ≤ o ∧ o < 0x22100 then old &&& (new ||| ~~~(0x8000000000000000 : W64))
  else if 0x20200 ≤ o ∧ o < 0x20220 then (if new = 0 then 0 else old)
  else new

/-- A write of a cairn register: a write equal to the current value is neither performed nor counted; of a worn register it
is discarded with CRN_ERR.WORN; any other is performed and counted. Nothing else changes but error registers. -/
def cairnWrites : Prop :=
  ∀ (o : BitVec 26) (wide : Bool) (v : W64) (s : State), isCairn o.toNat = true → onBus s = true →
    fusedOff o.toNat s = false → regHold o.toNat = some (o.toNat, wide) →
    Gives (.cairnWrite o (if wide then 8 else 4) v) s fun t =>
      let k := o.toNat - 0x20000
      let old := rd o.toNat s
      let new := cairnTakes o.toNat old (written o.toNat (if wide then v else v &&& 0xFFFFFFFF) s).1
      (new = old → rd o.toNat t = old ∧ SameWear s t) ∧
      (new ≠ old → wearOf k s < 100000 → rd o.toNat t = new ∧ wearOf k t = wearOf k s + 1 ∧ ∀ j, j ≠ k → wearOf j t = wearOf j s) ∧
      (new ≠ old → 100000 ≤ wearOf k s → rd o.toNat t = old ∧ bit CRN_ERR_WORN t = true ∧ SameWear s t) ∧
      rest t = rest s ∧ SameMem s t ∧ SameRegs [o.toNat, CRN_ERR, CRN_ERR_ADDR, TOP_ERR, TOP_ERR_ADDR] s t

/-! ### Clear commands (R51, R52, R53, R88, R89) -/

/-- The commands that clear counters: command, control register, the bit that clears, other bits of the register that act,
and the registers cleared. -/
def counterClears (n : Nat) (a : BitVec 3) (v : W32) : List (Instr × Nat × Nat × List Nat × List Nat) :=
  [(.gauCntClr v, GAU_CTRL, 1, [2],
    [GAU_CNT_FLAGGED, GAU_CNT_WIDENED, GAU_CNT_OVERRUN, GAU_CNT_LIMIT, GAU_CNT_NULL, GAU_CNT_POISON]),
   (.traceClr v, GAU_CTRL, 2, [1], [GAU_TRACE_ID, GAU_TRACE_FRAC]),
   (.spnCntClr n v, SPN_CTRL n, 0, [1],
    [SPN_CNT_TILES n, SPN_CNT_STAPLE n, SPN_CNT_GAUGE n, SPN_CNT_LAGOON_CE n, SPN_CNT_SWITCH n, SPN_CNT_ARRAY_CYC n]),
   (.reefCntClr a v, REEF_CTRL a.toNat, 0, [1],
    [REEF_CNT_OPS a.toNat, REEF_CNT_KEYS a.toNat, REEF_CNT_BYTES a.toNat, REEF_CNT_BUSY_NS a.toNat, REEF_CNT_STAPLE a.toNat,
     REEF_CNT_EMPTY a.toNat, REEF_CNT_OVERRUN a.toNat]),
   (.kvCntClr v, KV_CTRL, 1, [0, 2], (List.range 8).map KV_CNT),
   (.smpCntClr v, SMP_CTRL, 0, [1], (List.range 8).map SMP_CNT),
   (.crdCntClr v, CRD_CTRL, 0, [1], (List.range 10).map CRD_CNT ++ (List.range 64).map CRD_CTX_DROP),
   (.synCntClr v, SYN_CTRL, 0, [1], (List.range 4).map SYN_CNT),
   (.fryCntClr v, FRY_CTRL, 0, [1], (List.range 8).map FRY_CNT),
   (.intCntClr v, INT_CTRL, 0, [1], (List.range 12).map INT_CNT),
   (.pwrCntClr v, PWR_CTRL, 0, [], (List.range 8).map PWR_CNT)]

/-- A clear command zeroes every counter of its block; written with no other acting bit it changes nothing else but fields
of the control register itself. -/
def countersCleared : Prop :=
  ∀ (n : Nat) (a : BitVec 3) (v : W32), n < 288 → ∀ x ∈ counterClears n a v, ∀ s : State, Answers x.2.1 s →
    v.getLsbD x.2.2.1 = true →
    Gives x.1 s fun t =>
      (∀ o ∈ x.2.2.2.2, rd o t = 0) ∧
        ((∀ i ∈ x.2.2.2.1, v.getLsbD i = false) → RegsOnly (x.2.1 :: TOP_ERR :: TOP_ERR_ADDR :: x.2.2.2.2) s t)

/-- The commands that clear captures: command, control register, the bit that clears, other bits that act, and the capture
registers that are cleared and may capture again. -/
def captureClears (n : Nat) (a : BitVec 3) (v : W32) : List (Instr × Nat × Nat × List Nat × List Nat) :=
  [(.spnCaptureClr n v, SPN_CTRL n, 1, [0], [SPN_ERR_INFO n, SPN_STAPLE_ADDR n]),
   (.reefCaptureClr a v, REEF_CTRL a.toNat, 1, [0], [REEF_ERR_INFO a.toNat, REEF_STAPLE_ADDR a.toNat]),
   (.smpCaptureClr v, SMP_CTRL, 1, [0], [SMP_ERR_INFO]), (.crdCaptureClr v, CRD_CTRL, 1, [0], [CRD_ERR_INFO]),
   (.synCaptureClr v, SYN_CTRL, 1, [0], [SYN_ERR_INFO]), (.fryCaptureClr v, FRY_CTRL, 1, [0], [FRY_ERR_INFO]),
   (.ctxCaptureClr v, CTX_CTRL, 0, [], [CTX_ERR_INFO]), (.intCaptureClr v, INT_CTRL, 1, [0], [INT_ERR_INFO])]

/-- A capture clear puts the capture registers to 0 and lets them capture again; written with no other acting bit it changes
nothing else. KV_ERR_ADDR, which latches while KV_ERR reads 0, is cleared alike. -/
def capturesCleared : Prop :=
  (∀ (n : Nat) (a : BitVec 3) (v : W32), n < 288 → ∀ x ∈ captureClears n a v, ∀ s : State, Answers x.2.1 s →
    v.getLsbD x.2.2.1 = true →
    Gives x.1 s fun t =>
      (∀ o ∈ x.2.2.2.2, rd o t = 0 ∧ o ∉ t.caps) ∧
        ((∀ i ∈ x.2.2.2.1, v.getLsbD i = false) →
          rest t = { rest s with caps := s.caps.filter fun o => !x.2.2.2.2.contains o } ∧ SameMem s t ∧ SameWear s t ∧
            SameRegs x.2.2.2.2 s t)) ∧
  ∀ (v : W32) (s : State), Answers KV_CTRL s → v.getLsbD 2 = true →
    Gives (.kvCaptureClr v) s fun t => rd KV_ERR_ADDR t = 0 ∧
      (v.getLsbD 0 = false → v.getLsbD 1 = false → RegsOnly [KV_ERR_ADDR] s t)

/-- MEM_CTRL.CNT_CLR zeroes the stall, error and restore counters; no byte of memory changes. -/
def memCountersCleared : Prop :=
  ∀ (v : W32) (s : State), Answers MEM_CTRL s → v.getLsbD 2 = true →
    Gives (.memCntClr v) s fun t => (∀ o ∈ memCounters, rd o t = 0) ∧ SameMem s t ∧ SameWear s t

/-- What the clear bits of the control registers clear. -/
def Obligations.ControlClears : Prop := countersCleared ∧ capturesCleared ∧ memCountersCleared

/-! ### Interrupts (R474, R475) -/

/-- A write of TOP_IRQ_MASK stores the mask. A status bit that reads 1 and was not enabled and now is sends vector 0 once,
or marks it pending while the vector is masked; with no such bit nothing is sent. -/
def Obligations.InterruptMask : Prop :=
  ∀ (v : W32) (s : State), Answers TOP_IRQ_MASK s →
    Gives (.irqMaskWrite v) s fun t =>
      let newly := irqStatus s &&& (rd TOP_IRQ_MASK t).toNat &&& (irqEnabled s ^^^ 0xFFFFFFFF)
      rd TOP_IRQ_MASK t = (written TOP_IRQ_MASK (v.setWidth 64) s).1 ∧ RegsOnly [TOP_IRQ_MASK] s t ∧
        (newly = 0 → t.sent = s.sent ∧ t.msix = s.msix) ∧
        (newly ≠ 0 → (lookup s.msix {} 0).masked = false → t.sent = s.sent ++ [.msi 0 0] ∧ t.msix = s.msix) ∧
        (newly ≠ 0 → (lookup s.msix {} 0).masked = true → t.sent = s.sent ∧ (lookup t.msix {} 0).pend = true)

/-! ### Configuration writes that a state of the machine can lock -/

/-- Configuration that a running context locks: BT_BEAT_LEN while any context exists; MEM_BIND(c, w), CTX_SPILL(c, k) and
SKN_CTX_RANGE(c) while c exists; GLD_CTRL.CAUSEWAY while a serving context exists. An unlocked write stores the register; a
locked one leaves it, and BT_ERR.LEN_LOCKED, CTX_ERR.CFG_LOCKED and GLD_ERR.CAUSEWAY tell of theirs. A range that ends past the
skein table is a reserved encoding, noted also when c exists. -/
def lockedConfiguration : Prop :=
  (∀ (v : W32) (s : State), Answers BT_BEAT_LEN s → Gives (.beatLenWrite v) s fun t =>
    (anyCtx s = false → rd BT_BEAT_LEN t = (written BT_BEAT_LEN (v.setWidth 64) s).1) ∧
    (anyCtx s = true → rd BT_BEAT_LEN t = rd BT_BEAT_LEN s ∧ bit BT_ERR_LEN_LOCKED t = true) ∧
    RegsOnly [BT_BEAT_LEN, BT_ERR, TOP_ERR, TOP_ERR_ADDR] s t) ∧
  (∀ (c : BitVec 6) (w : BitVec 5) (v : W32) (s : State), Answers (MEM_BIND c.toNat w.toNat) s →
    Gives (.memBindWrite c w v) s fun t =>
      let o := MEM_BIND c.toNat w.toNat
      (ctxExists c.toNat s = false → rd o t = (written o (v.setWidth 64) s).1 ∧ RegsOnly [o, TOP_ERR, TOP_ERR_ADDR] s t) ∧
      (ctxExists c.toNat s = true → RegsOnly [] s t)) ∧
  (∀ (c : BitVec 6) (k : BitVec 3) (v : W32) (s : State), Answers (CTX_SPILL c.toNat k.toNat) s →
    Gives (.ctxSpillWrite c k v) s fun t =>
      let o := CTX_SPILL c.toNat k.toNat
      (ctxExists c.toNat s = false → rd o t = (written o (v.setWidth 64) s).1 ∧ RegsOnly [o, TOP_ERR, TOP_ERR_ADDR] s t) ∧
      (ctxExists c.toNat s = true → bit CTX_ERR_CFG_LOCKED t = true ∧ SameRegs [CTX_ERR, CTX_ERR_INFO] s t ∧ SameMem s t)) ∧
  (∀ (c : BitVec 6) (v : W64) (s : State), Answers (SKN_CTX_RANGE c.toNat) s → Gives (.ctxRangeWrite c v) s fun t =>
    let o := SKN_CTX_RANGE c.toNat
    let fits := fldOf (SKN_CTX_RANGE_BASE c.toNat) v + fldOf (SKN_CTX_RANGE_COUNT c.toNat) v ≤ 262144
    (ctxExists c.toNat s = false → fits → rd o t = (written o v s).1) ∧
    (ctxExists c.toNat s = false → ¬fits → rd o t = rd o s ∧ bit TOP_ERR_RSV_ENC t = true) ∧
    (ctxExists c.toNat s = true → fits → RegsOnly [] s t) ∧
    (ctxExists c.toNat s = true → ¬fits → rd o t = rd o s ∧ bit TOP_ERR_RSV_ENC t = true) ∧
    RegsOnly [o, TOP_ERR, TOP_ERR_ADDR] s t) ∧
  ∀ (v : W32) (s : State), Answers GLD_CTRL s → fldOf GLD_CTRL_EN (v.setWidth 64) = fld GLD_CTRL_EN s →
    Gives (.causewayWrite v) s fun t =>
      let flips := fldOf GLD_CTRL_CAUSEWAY (v.setWidth 64) ≠ fld GLD_CTRL_CAUSEWAY s
      (servingCtx s = false → fld GLD_CTRL_CAUSEWAY t = fldOf GLD_CTRL_CAUSEWAY (v.setWidth 64)) ∧
      (flips → servingCtx s = true → fld GLD_CTRL_CAUSEWAY t = fld GLD_CTRL_CAUSEWAY s ∧ bit GLD_ERR_CAUSEWAY t = true) ∧
      RegsOnly [GLD_CTRL, GLD_ERR, GLD_ERR_INFO, TOP_ERR, TOP_ERR_ADDR] s t

/-- Writes of the cairn bank, and of configuration that a context locks. That a cairn write persists at once is the
model's choice (log 41). -/
def Obligations.ConfigurationWrites : Prop := cairnWrites ∧ lockedConfiguration

/-- Memory regions: a write to a region with a non-zero BINDS count, or one that would leave a valid region against the rules
of R132, is discarded with MEM_ERR.RGN; any other is stored, and a change of BASE, SIZE or KIND or a cleared VALID clears SEALED
and drops the digest. Nothing else changes. -/
def regionWrites : Prop :=
  ∀ (o : BitVec 26) (wide : Bool) (v : W64) (s : State), 0x101000 ≤ o.toNat → o.toNat < 0x103000 → Answers o.toNat s →
    regHold o.toNat = some (o.toNat, wide) →
    Gives (.memRgnWrite o (if wide then 8 else 4) v) s fun t =>
      let r := (o.toNat - 0x101000) / 0x20
      let w := written o.toNat (if wide then v else v &&& 0xFFFFFFFF) s
      let g := region r s
      let g' := region r (wr o.toNat w.1 s)
      let refused := g.binds ≠ 0 ∨ (g'.valid = true ∧ regionRules r (wr o.toNat w.1 s) = false)
      let breaksSeal := g.base ≠ g'.base ∨ g.size ≠ g'.size ∨ g.kind ≠ g'.kind ∨ g'.valid = false
      (refused → bit MEM_ERR_RGN t = true ∧ rd o.toNat t = rd o.toNat s ∧ t.digests = s.digests) ∧
      (¬refused → ¬breaksSeal → rd o.toNat t = w.1 ∧ t.digests = s.digests) ∧
      (¬refused → breaksSeal → fld (MEM_RGN_CFG_SEALED r) t = 0 ∧ t.digests = del s.digests r ∧
        rd o.toNat t = if o.toNat = MEM_RGN_CFG r then setFldOf (MEM_RGN_CFG_SEALED r) 0 w.1 else w.1) ∧
      rest t = rest { s with digests := t.digests } ∧ SameWear s t ∧
      SameRegs [o.toNat, MEM_RGN_CFG r, MEM_ERR, MEM_ERR_ADDR, TOP_ERR, TOP_ERR_ADDR] s t ∧ SameMem s t

/-- A registered window takes no write but one that clears VALID, which withdraws it, or drains it while operations that have
begun to land remain. A write that sets VALID registers the window when R289 allows its range for its context, and else is
discarded with GLD_ERR.WINDOW_CFG. Base, size and key are stored while the window is not VALID, and discarded while it is. -/
def windowRegistration : Prop :=
  (∀ (w : Nat) (v : W64) (s : State), w < 4096 → ∀ x ∈ [(GLD_WIN_BASE w, 8), (GLD_WIN_SIZE w, 8), (GLD_WIN_KEY w, 4)],
    Answers x.1 s → Gives (.winCfgWrite (BitVec.ofNat 26 x.1) x.2 v) s fun t =>
      (bit (GLD_WIN_CFG_VALID w) s = true → RegsOnly [] s t) ∧
      (bit (GLD_WIN_CFG_VALID w) s = false → x.2 = 8 → rd x.1 t = (written x.1 v s).1 ∧ RegsOnly [x.1] s t) ∧
      (bit (GLD_WIN_CFG_VALID w) s = false → x.2 = 4 → lookup t.gld.keys 0 w = v.setWidth 32 ∧
        (∀ k, k ≠ w → lookup t.gld.keys 0 k = lookup s.gld.keys 0 k) ∧ RegsOnly [] { s with gld := t.gld } t)) ∧
  ∀ (w : Nat) (v : W32) (s : State), w < 4096 → Answers (GLD_WIN_CFG w) s →
    Gives (.winCfgWrite (BitVec.ofNat 26 (GLD_WIN_CFG w)) 4 (v.setWidth 64)) s fun t =>
      let o := GLD_WIN_CFG w
      let new := (written o (v.setWidth 64) s).1
      let may := w < 0xF80 ∧
        windowRangeOk (fldOf (GLD_WIN_CFG_CONTEXT w) new) (fldOf (GLD_WIN_CFG_PERM w) new) (winBase w s) (winSize w s) s = true
      (bit (GLD_WIN_CFG_VALID w) s = true → v.getLsbD 31 = true → RegsOnly [] s t) ∧
      (bit (GLD_WIN_CFG_VALID w) s = true → v.getLsbD 31 = false → (s.gld.landings.any fun l => l.window == w) = true →
        w ∈ t.gld.draining ∧ bit (GLD_WIN_CFG_VALID w) t = true) ∧
      (bit (GLD_WIN_CFG_VALID w) s = true → v.getLsbD 31 = false → (s.gld.landings.any fun l => l.window == w) = false →
        bit (GLD_WIN_CFG_VALID w) t = false) ∧
      (bit (GLD_WIN_CFG_VALID w) s = false → v.getLsbD 31 = true → may → rd o t = new) ∧
      (bit (GLD_WIN_CFG_VALID w) s = false → v.getLsbD 31 = true → ¬may →
        rd o t = rd o s ∧ bit GLD_ERR_WINDOW_CFG t = true) ∧
      (bit (GLD_WIN_CFG_VALID w) s = false → v.getLsbD 31 = false → rd o t = new) ∧
      RegsOnly [o, GLD_ERR, GLD_ERR_INFO] { s with gld := t.gld } t

/-- Writes of region and window registers. -/
def Obligations.RegionsAndWindows : Prop := regionWrites ∧ windowRegistration

/-- GLD_NODE is locked while a context exists, with GLD_ERR.CFG_LOCKED; a product of dimensions above 128 is a
reserved encoding that leaves the dimensions, noted also when the write is locked. A receive ring is stored when its
range lies in a SCRATCH region bound to its context, with its indices at 0; one that does not is discarded with
GLD_ERR.WINDOW_CFG; one without VALID is stored. That a registration starts with an empty ring is the model's choice
(log 42). -/
def Obligations.FabricIdentityAndRings : Prop :=
  (∀ (v : W32) (s : State), Answers GLD_NODE s → Gives (.gldNodeWrite v) s fun t =>
    let new := (written GLD_NODE (v.setWidth 64) s).1
    let big := 128 < (fldOf GLD_NODE_DX_M1 new + 1) * (fldOf GLD_NODE_DY_M1 new + 1) * (fldOf GLD_NODE_DZ_M1 new + 1)
    (anyCtx s = true → bit GLD_ERR_CFG_LOCKED t = true ∧ (big → bit TOP_ERR_RSV_ENC t = true) ∧
      RegsOnly [GLD_ERR, GLD_ERR_INFO, TOP_ERR, TOP_ERR_ADDR] s t) ∧
    (anyCtx s = false → ¬big → fld GLD_NODE_NODE t = fldOf GLD_NODE_NODE new ∧ fld GLD_NODE_DX_M1 t = fldOf GLD_NODE_DX_M1 new ∧
      fld GLD_NODE_DY_M1 t = fldOf GLD_NODE_DY_M1 new ∧ fld GLD_NODE_DZ_M1 t = fldOf GLD_NODE_DZ_M1 new) ∧
    (anyCtx s = false → big → fld GLD_NODE_NODE t = fldOf GLD_NODE_NODE new ∧ fld GLD_NODE_DX_M1 t = fld GLD_NODE_DX_M1 s ∧
      fld GLD_NODE_DY_M1 t = fld GLD_NODE_DY_M1 s ∧ fld GLD_NODE_DZ_M1 t = fld GLD_NODE_DZ_M1 s ∧
      bit TOP_ERR_RSV_ENC t = true) ∧
    (s.gld.ops = [] → SameMem s t)) ∧
  ∀ (c : BitVec 6) (v : W64) (s : State), Answers (GLD_MSG_RING c.toNat) s → Gives (.msgRingWrite c v) s fun t =>
    let o := GLD_MSG_RING c.toNat
    let new := (written o v s).1
    let ok := boundKind c.toNat kScratch (fldOf (GLD_MSG_RING_ADDR c.toNat) new * 4096)
      (2 ^ fldOf (GLD_MSG_RING_ORDER c.toNat) new * 2 ^ (12 + fldOf (GLD_MSG_RING_SLOT c.toNat) new)) s
    let valid := fldOf (GLD_MSG_RING_VALID c.toNat) new ≠ 0
    (valid → ok = true → rd o t = new ∧ rd (GLD_MSG_STATUS c.toNat) t = 0) ∧
    (valid → ok = false → rd o t = rd o s ∧ bit GLD_ERR_WINDOW_CFG t = true) ∧
    (¬valid → rd o t = new) ∧
    SameRegs [o, GLD_MSG_STATUS c.toNat, GLD_ERR, GLD_ERR_INFO, TOP_ERR, TOP_ERR_ADDR] s t ∧ SameMem s t

/-- GAU_CTRL.FB_EN takes the bit written, whatever runs. CNT_CLR and TRACE_CLR of the same word act as they do alone; without
them counters and trace are untouched, and nothing else changes. -/
def fallbackEnable : Prop :=
  ∀ (v : W32) (s : State), Answers GAU_CTRL s →
    Gives (.fbEn v) s fun t =>
      let cnts := [GAU_CNT_FLAGGED, GAU_CNT_WIDENED, GAU_CNT_OVERRUN, GAU_CNT_LIMIT, GAU_CNT_NULL, GAU_CNT_POISON]
      let trace := [GAU_TRACE_ID, GAU_TRACE_FRAC]
      fld GAU_CTRL_FB_EN t = fldOf GAU_CTRL_FB_EN (v.setWidth 64) ∧
      (∀ o ∈ cnts, rd o t = if v.getLsbD 1 then 0 else rd o s) ∧ (∀ o ∈ trace, rd o t = if v.getLsbD 2 then 0 else rd o s) ∧
      RegsOnly (GAU_CTRL :: cnts ++ trace) s t

/-- BT_CTRL: without EN the tally is UNLOCKED and every serving context faults with TALLY; with EN and ROOT the package locks as root of
the beat, at offset 0 and hop 0, and BEAT goes on but for the first lock after a cold boot; with EN alone a LOCKED root that ROOT
leaves goes to HOLDOVER when no tally source is reachable, and the lock stays otherwise. -/
def tallyControl : Prop :=
  ∀ (v : W32) (s : State), Answers BT_CTRL s →
    Gives (.btCtrlWrite v) s fun t =>
      let en := v.getLsbD 0 = true
      let root := v.getLsbD 1 = true
      rd BT_CTRL t = (written BT_CTRL (v.setWidth 64) s).1 ∧
      (¬en → lockState t = lkUnlocked) ∧
      (¬en → lockState s ≠ lkUnlocked → ∀ c < 64, ctxLive c s = true → ctxState c t = cxFaulted ∧
        fld (CTX_FAULT_CAUSE c) t = cfTally) ∧
      (¬en → lockState s = lkUnlocked → RegsOnly [BT_CTRL] s t) ∧
      (en → root → lockState t = lkLocked ∧ fld BT_STATUS_ROOT_NODE t = myNode s ∧
        fld BT_STATUS_HOPS t = 0 ∧ rd BT_OFFSET t = 0 ∧
        rd BT_TALLY t = if s.boot.everLocked = true ∨ lockState s = lkLocked then rd BT_TALLY s else 0) ∧
      (en → ¬root → lockState t =
        if bit BT_CTRL_ROOT s = true ∧ lockState s = lkLocked ∧ tallySource s = false then lkHoldover else lockState s) ∧
      (en → RegsOnly [BT_CTRL, BT_STATUS, BT_OFFSET, BT_TALLY]
        { s with gld := t.gld, boot := t.boot, goodOffsets := t.goodOffsets } t)

/-- GAU_CTRL.FB_EN and BT_CTRL. -/
def Obligations.GaugeAndTallyControl : Prop := fallbackEnable ∧ tallyControl

/-! ### Supplies and the cold boot (R428, R461, R462, R465, R466) -/

/-- A packet or frame has left the package, or waits in a virtual channel of a port (R276, R286). -/
def handed (m : Sent) (t : State) : Prop := m ∈ t.sent ∨ ∃ x ∈ t.gld.ports, ∃ q ∈ x.2.queue, q.msg = m

/-- Whether MAIN_EN takes effect with these pins. -/
def mayStart (p : Pins) (s : State) : Prop :=
  p.v48 = true ∧ p.mainEn = true ∧ p.enShort = true ∧ p.thermTrip = false ∧ s.boot.needReassert = false ∧ s.boot.on = false

/-- Every supply event that completes 48 V, MAIN_EN and EN_SHORT starts a cold boot, with no trip or rail failure pending: the
POWER stage, an empty package, the cairn bank kept, PWR_CAP_HOST from the cairn default clamped at the part's limit. Otherwise
only the pin changes. -/
def coldBootStarts : Prop :=
  ∀ (s : State), ∀ x ∈ [(Instr.standbyPowerUp, { s.pins with v48 := true }), (.mainEnAssert, { s.pins with mainEn := true }),
      (.enShortClose, { s.pins with enShort := true })],
    Gives x.1 s fun t =>
      (mayStart x.2 s → t.boot.on = true ∧ stage t = stPower ∧ bit BRG_STATUS_COLD t = true ∧
        t.skeins = [] ∧ t.ctxs = [] ∧ (∀ a, rdByte a t = memDefault) ∧ (∀ o, isCairn o = true → rd o t = rd o s) ∧
        SameWear s t ∧ fld PWR_CAP_HOST_WATTS t = min (fld CRN_CAP_DEFAULT_WATTS s) (partLimit s) ∧
        ∀ p < 7, portHere s p = true → fld (GLD_PORT_ROLE_ROLE p) t = fld (CRN_PORT_ROLE_ROLE p) s) ∧
      (¬mayStart x.2 s → rest t = { rest s with pins := x.2 } ∧ SameMem s t ∧ SameWear s t ∧ SameRegs [] s t)

/-- Power-down, by MAIN_EN, EN_SHORT or the 48 V input: PWRGD goes low, everything outside the cairn bank takes its reset value
or is lost, and a thermal trip ends. -/
def powerDowns : Prop :=
  ∀ c ∈ [Instr.mainEnDeassert, .enShortOpen, .inputUndervoltage], ∀ s : State,
    Gives c s fun t =>
      t.boot.on = false ∧ t.pins.pwrgd = false ∧ t.pins.thermTrip = false ∧ t.skeins = [] ∧ t.ctxs = [] ∧ t.spns = [] ∧
      (∀ a, rdByte a t = memDefault) ∧ (∀ o, rd o t = if isCairn o then rd o s else rstVal o) ∧ SameWear s t ∧
      t.fuse = s.fuse ∧ t.sec.slots = s.sec.slots ∧ t.sec.slotSeq = s.sec.slotSeq

/-- A rail group out of regulation in POWER switches every rail off, and is reported; MAIN_EN must be asserted anew. -/
def railFailures : Prop :=
  ∀ (g : BitVec 3) (s : State), s.boot.on = true → stage s = stPower →
    Gives (.railTimeout g) s fun t =>
      t.boot.on = false ∧ t.boot.rails = [] ∧ t.boot.needReassert = true ∧ .mctp (.railFail g.toNat) ∈ t.sent ∧
      ∀ o, rd o t = if isCairn o then rd o s else rstVal o

/-- How a cold boot starts, and what ends power. -/
def Obligations.ColdBoot : Prop := coldBootStarts ∧ powerDowns ∧ railFailures

/-! ### The stages (R429, R432 to R435) -/

/-- Power-good ends POWER, with the five rail groups in regulation, and releases PWRGD. The stages from ROM to ATTEST end one after the other when what they wait for
has come; the end of stage k is kept in BRG_STAGE_US(k). Before that nothing changes. A BRG_CTRL.WARM that waited for SELFTEST starts a
rejoin (the waiting is the model's choice, log 148). -/
def stagesInOrder : Prop :=
  (∀ s : State, s.boot.on = true → stage s = stPower →
    Gives .powerGood s fun t => stage t = stRom ∧ t.pins.pwrgd = true ∧ t.boot.rails = [.harbour, .atolls, .shoal, .serdes, .spindles] ∧
      RegsOnly [BRG_STATUS] { s with pins := t.pins, boot := t.boot } t) ∧
  ∀ (us : Nat) (s : State), s.boot.on = true → 1 ≤ stage s → stage s ≤ 8 →
    Gives (.stageComplete us) s fun t =>
      (bit BRG_CTRL_WARM s = false ∨ s.boot.tested = false →
        (stageDone (stage s) s = true → stage t = stage s + 1 ∧ fld (BRG_STAGE_US_US (stage s)) t = us % 2 ^ 32 ∧
          (s.gld.ops = [] → SameMem s t)) ∧
        (stageDone (stage s) s = false → RegsOnly [] s t)) ∧
      (bit BRG_CTRL_WARM s = true → s.boot.tested = true → stage t = stWarm ∧ bit BRG_CTRL_WARM t = false)

/-- The image of a native fetch: FW_GO asks for it in FW_FETCH; a checked image of an SVN at or above the fused minimum runs,
with its SVN and digest; a failed check sets FW_AUTH, a failed read FW_FETCH, and FW_GO clears. -/
def nativeFetches : Prop :=
  (∀ (v : W32) (s : State), v.getLsbD 2 = false → v.getLsbD 1 = false → v.getLsbD 0 = true → onBus s = true →
      fusedOff BRG_CTRL s = false → stage s = stFwFetch → s.boot.fwRuns = false →
    Gives (.fwGo v) s fun t => bit BRG_CTRL_FW_GO t = true ∧ t.boot.asked = none ∧
      RegsOnly [BRG_CTRL] { s with boot := t.boot } t) ∧
  ∀ (readOk sigOk : Bool) (svn : W16) (d : BitVec 384) (s : State), s.boot.on = true → stage s = stFwFetch →
      s.boot.fwRuns = false → bit BRG_CTRL_FW_GO s = true → s.boot.offers = [] →
    Gives (.fwFetchDone readOk sigOk svn d) s fun t =>
      let good := readOk = true ∧ sigOk = true ∧ s.fuse.minSvn.toNat ≤ svn.toNat
      bit BRG_CTRL_FW_GO t = false ∧ SameMem s t ∧
      (good → t.boot.fwRuns = true ∧ t.boot.fwDigest = d ∧ fld SEC_SVN_FW t = svn.toNat ∧ fld BRG_STATUS_SOURCE t = 0) ∧
      (¬good → t.boot.fwRuns = false ∧ bit (if readOk then BRG_ERR_FW_AUTH else BRG_ERR_FW_FETCH) t = true)

/-- Broadcast boot: of the ports that offer an image the lowest is asked; its image runs when it passes, with SOURCE 1, and
the offer is dropped when it does not. -/
def broadcastBoots : Prop :=
  (∀ (p : BitVec 3) (d : BitVec 384) (svn : W16) (s : State), s.boot.on = true → stage s = stFwFetch → broadcast s = true →
      p.toNat < 6 → (port p.toNat s).linked = true → s.boot.fwRuns = false → s.boot.asked = none → bit BRG_CTRL_FW_GO s = false →
    Gives (.bootOffer p d svn) s fun t => RegsOnly [] { s with boot := t.boot, gld := t.gld } t ∧
      ∃ q, t.boot.asked = some q ∧ (∃ e v, handed (.boot q true e v) t) ∧ q ≤ p.toNat ∧ (∀ o ∈ s.boot.offers, o.1 < 6 → q ≤ o.1) ∧
        (q = p.toNat ∨ ∃ o ∈ s.boot.offers, o.1 = q)) ∧
  ∀ (readOk sigOk : Bool) (svn : W16) (d : BitVec 384) (q : Nat) (s : State), s.boot.on = true → stage s = stFwFetch →
      s.boot.fwRuns = false → bit BRG_CTRL_FW_GO s = false → s.boot.asked = some q →
    Gives (.fwFetchDone readOk sigOk svn d) s fun t =>
      let good := readOk = true ∧ sigOk = true ∧ s.fuse.minSvn.toNat ≤ svn.toNat
      (good → t.boot.fwRuns = true ∧ t.boot.fwDigest = d ∧ fld BRG_STATUS_SOURCE t = 1) ∧
      (¬good → t.boot.fwRuns = false ∧ (∀ o ∈ t.boot.offers, o.1 ≠ q) ∧ t.boot.asked ≠ some q)

/-- The firmware image, from the host or from a neighbour. -/
def Obligations.BootImages : Prop := nativeFetches ∧ broadcastBoots

/-- The self-test: a failing harbour die leads to FAILED with BRG_ERR.SELFTEST; else the test is over, BRG_SELFTEST reports the
atolls and shoal modules that failed, a failed atoll that is present reads FAILED in MEM_STATUS, every present atoll and the shoal
have a memory key, no region is valid, every skein is FREE with generation 0, and the KV pools are not built. -/
def selfTestReport : Prop :=
  ∀ (x : SelfTest) (s : State), s.boot.on = true → stage s = stSelftest → s.boot.tested = false →
    Gives (.selftestDone x) s fun t =>
      (x.harbour = true → stage t = stFailed ∧ bit BRG_ERR_SELFTEST t = true ∧ t.boot.tested = false) ∧
      (x.harbour = false → t.boot.tested = true ∧ stage t = stSelftest ∧
        fld BRG_SELFTEST_ATOLL_FAIL t = unitMask (x.atolls.filter fun a => atollHere s a) % 256 ∧
        fld BRG_SELFTEST_SHOAL_FAIL t = unitMask (x.shoals.filter (· < 4)) % 16 ∧
        (∀ a ∈ x.atolls, atollHere s a = true → atollFailed a t = true) ∧ (∀ r < 256, (region r t).valid = false) ∧
        (∀ i, (sk i t).state = .free ∧ (sk i t).gen = 0) ∧ bit KV_STATUS_READY t = false ∧
        (∀ a < 8, atollHere s a = true → (find? t.sec.memKeys a).isSome = true) ∧ (find? t.sec.memKeys 8).isSome = true)

/-- The stages of bring-up and the self-test. -/
def Obligations.BringUpStages : Prop := stagesInOrder ∧ selfTestReport

/-! ### The warm rejoin (R442 to R445, R459) -/

/-- What a warm rejoin starts with: STAGE WARM, every context FREE, lagoons empty and SPN and REEF registers at reset (with no
fabric operation outstanding), and regions' places, sampler profiles and the configuration of PWR, BT and the fabric as
before. -/
def rejoinBegun (s t : State) : Prop :=
  stage t = stWarm ∧ bit BRG_STATUS_COLD t = false ∧ t.boot.rejoin = 1 ∧ (∀ c < 64, ctxState c t = cxFree) ∧
  (∀ i, (sk i t).state = .free) ∧ t.scrubPos = [] ∧
  (s.gld.ops = [] → (∀ a, lagoonBase 0 ≤ a → a < lagoonBase 288 → rdByte a t = memDefault) ∧
    ∀ o, inDies o = true → rd o t = rstVal o) ∧
  (∀ r < 256, rd (MEM_RGN_BASE r) t = rd (MEM_RGN_BASE r) s ∧ rd (MEM_RGN_SIZE r) t = rd (MEM_RGN_SIZE r) s) ∧
  t.profiles = s.profiles ∧ rd PWR_CAP_HOST t = rd PWR_CAP_HOST s ∧ rd BT_CTRL t = rd BT_CTRL s ∧ rd GLD_NODE t = rd GLD_NODE s

/-- BRG_CTRL.WARM, a hot reset, and PERST# after ROM start a warm rejoin of a package that has been through SELFTEST, outside haven
mode (that the last two do so between SELFTEST and READY: log 43). BRG_CTRL.COLD
starts a cold boot, whatever runs. -/
def rejoinTriggers : Prop :=
  (∀ (v : W32) (s : State), v.getLsbD 2 = false → v.getLsbD 1 = true → Answers BRG_CTRL s → s.boot.tested = true →
      stage s ≠ stHaven → Gives (.warm v) s fun t => rejoinBegun s t) ∧
  (∀ s : State, s.boot.on = true → s.boot.tested = true → stage s ≠ stHaven → stage s ≠ stFailed → Gives .hotReset s fun t => rejoinBegun s t) ∧
  (∀ s : State, s.boot.on = true → s.boot.tested = true → stRom < stage s → stage s ≠ stHaven → stage s ≠ stFailed →
    Gives .perstAssert s fun t => rejoinBegun s t ∧ t.pins.perst = true ∧ t.boot.hostDown = 0xFFFF) ∧
  ∀ (v : W32) (s : State), v.getLsbD 2 = true → onBus s = true → fusedOff BRG_CTRL s = false →
    Gives (.cold v) s fun t => t.boot.on = true ∧ stage t = stPower ∧ bit BRG_STATUS_COLD t = true ∧
      (∀ a, rdByte a t = memDefault) ∧ ∀ o, isCairn o = true → rd o t = rd o s

/-- The rejoin ends in READY, with its time in BRG_STAGE_US(9), when the cap reaches the floor and no junction is at its limit;
else the package returns to haven mode. -/
def rejoinEnds : Prop :=
  ∀ (us : Nat) (x : SelfTest) (beat : W64) (s : State), s.boot.on = true → stage s = stWarm → bit PWR_HAVEN_ACTIVE s = false →
    Gives (.warmRejoinDone us x [] beat) s fun t =>
      t.boot.rejoin = 0 ∧
      (belowFloor s = false → s.pwr.thermB = 0 → stage t = stReady ∧ fld (BRG_STAGE_US_US stReady) t = us % 2 ^ 32) ∧
      (belowFloor s = true ∨ s.pwr.thermB ≠ 0 → rd (BRG_STAGE_US stReady) t = rd (BRG_STAGE_US stReady) s) ∧
      (belowFloor s = true → stage t = stHaven ∧ fld PWR_HAVEN_CAUSE t = 1) ∧
      (belowFloor s = false → s.pwr.thermB ≠ 0 → stage t = stHaven ∧ fld PWR_HAVEN_CAUSE t = 2)

/-- What starts and what ends a warm rejoin. The start conditions rest on log 43. -/
def Obligations.WarmRejoin : Prop := rejoinTriggers ∧ rejoinEnds

/-! ### The host link and management (R422, R426, R440, R448, R458) -/

/-- The host link: PERST# released selects the clock; a lost link of functions counts in READY and ends the host sessions; its
return completes the held record writes of those functions in order; BRG_HOST_LOSS expiring drops what is held. An MCTP control
message is answered. -/
def hostLinks : Prop :=
  (∀ (clk : Bool) (s : State), Gives (.perstDeassert clk) s fun t =>
    RegsOnly [] { s with pins := { s.pins with perst := false, commonClock := clk } } t) ∧
  (∀ (fns : W16) (s : State), s.boot.on = true → stage s = stReady → fns ≠ 0 → Gives (.hostLinkDown fns) s fun t =>
    t.boot.hostDown = s.boot.hostDown ||| fns ∧ t.sec.sessions = [] ∧ t.sec.ide = [] ∧
      rd (BRG_CNT 3) t = BitVec.ofNat 64 (min ((rd (BRG_CNT 3) s).toNat + 1) (2 ^ 64 - 1)) ∧
      RegsOnly [BRG_CNT 3] { s with boot := t.boot, sec := t.sec } t) ∧
  (∀ (fns : W16) (s : State), s.boot.on = true → s.pins.perst = false → hostAllowed s = true → Gives (.hostLinkUp fns) s fun t =>
    t.boot.hostDown = s.boot.hostDown &&& ~~~fns ∧ (t.hostHeld = s.hostHeld.filter fun h => !fns.getLsbD h.1) ∧
      t.sent = s.sent ++ (s.hostHeld.filter fun h => fns.getLsbD h.1).map (fun h => .hostWrite h.1 h.2.2.1 h.2.2.2) ∧
      RegsOnly [] { s with boot := t.boot, hostHeld := t.hostHeld } t) ∧
  (∀ s : State, s.boot.on = true → s.boot.hostDown ≠ 0 → Gives .hostLossTimeout s fun t =>
    t.hostHeld = [] ∧ bit BRG_ERR_HOST_LOST t = true ∧
      ∀ h ∈ s.hostHeld, skLive (sk h.2.1 s) = true → (sk h.2.1 t).state = .faulted) ∧
  ∀ (cmd : Byte) (s : State), s.pins.v48 = true → Gives (.mctpControl cmd) s fun t =>
    t.sent = s.sent ++ [.i3cAnswer (0x30 + s.pins.i3cStraps.toNat) cmd.toNat] ∧ RegsOnly [] s t

/-- A write of BRG_RETRAIN with GO: an atoll that is present and up, with no atoll retrain running, starts to retrain at once;
one that already retrains merges, and one that another holds up is queued. A port that is present and may train leaves for
TRAINING when no port retrains; otherwise it merges or is queued in the same way. -/
def retrainRequests : Prop :=
  ∀ (v : W32) (s : State), Answers BRG_RETRAIN s → s.boot.tested = true → v.getLsbD 31 = true → s.boot.retrainQ = [] →
    let i := fldOf BRG_RETRAIN_INDEX (v.setWidth 64)
    let merged : Prop := Gives (.retrainRequest v) s fun t => RegsOnly [BRG_RETRAIN] s t
    let queued (k : Nat) : Prop := Gives (.retrainRequest v) s fun t =>
      t.boot.retrainQ = [(k, i)] ∧ RegsOnly [BRG_RETRAIN, BRG_RETRAIN_STATUS] { s with boot := t.boot } t
    (v.getLsbD 24 = true → atollHere s i = true →
      (atollFailed i s = false → bit BRG_RETRAIN_STATUS_ATOLL_BUSY s = false → bit PWR_HAVEN_ACTIVE s = false →
        Gives (.retrainRequest v) s fun t =>
          bit BRG_RETRAIN_STATUS_ATOLL_BUSY t = true ∧ fld BRG_RETRAIN_STATUS_ATOLL t = i ∧
            rd (BRG_CNT 1) t = BitVec.ofNat 64 (min ((rd (BRG_CNT 1) s).toNat + 1) (2 ^ 64 - 1)) ∧ SameMem s t) ∧
      (bit BRG_RETRAIN_STATUS_ATOLL_BUSY s = true → fld BRG_RETRAIN_STATUS_ATOLL s = i → merged) ∧
      (bit BRG_RETRAIN_STATUS_ATOLL_BUSY s = true → fld BRG_RETRAIN_STATUS_ATOLL s ≠ i → queued 1)) ∧
    (v.getLsbD 24 = false → i < 7 →
      (mayTrain i s = true → bit BRG_RETRAIN_STATUS_PORT_BUSY s = false → Gives (.retrainRequest v) s fun t =>
        bit BRG_RETRAIN_STATUS_PORT_BUSY t = true ∧ fld BRG_RETRAIN_STATUS_PORT t = i ∧ portState i t = pTraining ∧
          (s.gld.ops = [] → SameMem s t)) ∧
      (portHere s i = true → bit BRG_RETRAIN_STATUS_PORT_BUSY s = true → fld BRG_RETRAIN_STATUS_PORT s = i → merged) ∧
      (portHere s i = true → bit BRG_RETRAIN_STATUS_PORT_BUSY s = true → fld BRG_RETRAIN_STATUS_PORT s ≠ i → queued 0))

/-- Loss and return of the host link, and retrain requests. The return of the link by HOST_LINK_UP rests on log 44. -/
def Obligations.HostAndRetrain : Prop := hostLinks ∧ retrainRequests

/-! ### Power (R385 to R404) -/

/-- What stays while the governor acts: no command of power writes memory or the configuration of memory, fabric or beats. -/
def powerFrame (s t : State) : Prop :=
  rd MEM_CTRL t = rd MEM_CTRL s ∧ rd GLD_NODE t = rd GLD_NODE s ∧ rd BT_CTRL t = rd BT_CTRL s ∧
    rd PWR_CTRL t = rd PWR_CTRL s ∧ rd PWR_GUARD t = rd PWR_GUARD s ∧ rd PWR_THERM_CFG t = rd PWR_THERM_CFG s

/-- The caps: PWR_CAP_HOST and PWR_CAP_BMC take the value written, or the part's limit with PWR_ERR.CAP_CLAMP when it
lies above; CAP_EFF is the smallest of the limit and the non-zero caps, also in haven mode. The clamp of the BMC cap
rests on log 24. -/
def Obligations.PowerCaps : Prop :=
  (∀ (v : W32) (s : State), Answers PWR_CAP_HOST s → Gives (.capHostWrite v) s fun t =>
    let w := fldOf PWR_CAP_HOST_WATTS (v.setWidth 64)
    fld PWR_CAP_HOST_WATTS t = min w (partLimit s) ∧ (partLimit s < w → bit PWR_ERR_CAP_CLAMP t = true) ∧ powerFrame s t) ∧
  (∀ (w : W16) (s : State), s.boot.on = true → Gives (.bmcCapSet w) s fun t =>
    fld PWR_CAP_BMC_WATTS t = min w.toNat (partLimit s) ∧ (partLimit s < w.toNat → bit PWR_ERR_CAP_CLAMP t = true) ∧
      powerFrame s t) ∧
  ∀ s : State, (capEff s).1 ≤ partLimit s ∧ (fld PWR_CAP_HOST_WATTS s ≠ 0 → (capEff s).1 ≤ fld PWR_CAP_HOST_WATTS s) ∧
    (fld PWR_CAP_BMC_WATTS s ≠ 0 → (capEff s).1 ≤ fld PWR_CAP_BMC_WATTS s) ∧
    ((capEff s).1 = partLimit s ∨ (fld PWR_CAP_HOST_WATTS s ≠ 0 ∧ (capEff s).1 = fld PWR_CAP_HOST_WATTS s) ∨
      (fld PWR_CAP_BMC_WATTS s ≠ 0 ∧ (capEff s).1 = fld PWR_CAP_BMC_WATTS s))

/-- The governor's sample: energy and power are recorded; while CAP_EFF is below FLOOR_W every waiting request is refused, and a swap
list that waits ends with LEAVE; with the package above CAP_EFF − GUARD the bubbles of the cap are
min(63, ceil(64 × excess / spindle power)), and fall by one per µs at or below it; below FLOOR_W the level is 63 and the target
point 0; the target never lies above POINT_MAX or the thermal limit. -/
def governorSample : Prop :=
  ∀ (m : PowerIn) (s : State), s.boot.on = true →
    Gives (.powerSample m) s fun t =>
      let lim := (capEff s).1 - fld PWR_GUARD_WATTS s; let uj := s.pwr.restUj + m.energyUj
      rd PWR_ENERGY t = BitVec.ofNat 64 ((rd PWR_ENERGY s).toNat + uj / 1000) ∧ t.pwr.restUj = uj % 1000 ∧
      fld PWR_MEAS_INST_W t = m.instW % 2 ^ 16 ∧
      (bit PWR_HAVEN_ACTIVE s = true → t.pwr.queue = s.pwr.queue ∧ t.pwr.capB = s.pwr.capB ∧ t.pwr.held.length = s.pwr.held.length ∧
        RegsOnly [PWR_ENERGY, PWR_MEAS, PWR_LEAVE, GLD_CNT 6] { s with pwr := t.pwr, gld := t.gld } t) ∧
      (bit PWR_HAVEN_ACTIVE s = false → belowFloor s = true → t.pwr.queue = [] ∧
        (s.pwr.queue ≠ [] → bit PWR_ERR_LEAVE_REFUSED t = true) ∧
        (waitsLeave .swap s = true → t.swap.active = false ∧ bit MEM_SWAP_STATUS_BUSY t = false ∧ fld MEM_SWAP_STATUS_CODE t = 4)) ∧
      (bit PWR_HAVEN_ACTIVE s = false →
        t.pwr.capB = (if lim < m.instW then min 63 ((64 * (m.instW - lim) + m.spinW - 1) / m.spinW)
          else s.pwr.capB - max 1 (m.elapsedNs / 1000)) ∨ m.spinW = 0) ∧
      (bit PWR_HAVEN_ACTIVE s = false → belowFloor s = true → fld PWR_STATUS_BUBBLES t = 63 ∧ fld PWR_STATUS_TARGET t = 0) ∧
      (bit PWR_HAVEN_ACTIVE s = false →
        fld PWR_STATUS_TARGET t ≤ fld PWR_CTRL_POINT_MAX s ∧ (fld PWR_STATUS_TARGET t ≤ s.pwr.allowed)) ∧
      rd PWR_CTRL t = rd PWR_CTRL s

/-- A V/F step ends at the point it led to, and a lower target then starts the next; a droop alarm raises the bubbles to
8 × ceil(deficit / 10 mV), at most 63, and counts once, and its end keeps the level for 2 µs. Neither touches another register
or memory. -/
def pointsAndDroop : Prop :=
  (∀ s : State, s.boot.on = true → diesDown s = false → bit PWR_STATUS_STEPPING s = true → Gives .vfStepDone s fun t =>
    fld PWR_STATUS_POINT t = s.pwr.stepTo % 32 ∧
      (bit PWR_STATUS_STEPPING t = true ↔ fld PWR_STATUS_TARGET s < s.pwr.stepTo) ∧
      RegsOnly [PWR_STATUS, PWR_CNT 4] { s with pwr := t.pwr } t) ∧
  (∀ (die : Bool) (mv : Nat) (s : State), s.boot.on = true → diesDown s = false →
    Gives (.droopAlarm die mv true) s fun t =>
      t.pwr.droopB = max s.pwr.droopB (min 63 (8 * ((mv + 9) / 10))) ∧ die ∈ t.pwr.droopDies ∧
        (s.pwr.droopDies.contains die = false →
          rd (PWR_CNT 3) t = BitVec.ofNat 64 (min ((rd (PWR_CNT 3) s).toNat + 1) (2 ^ 64 - 1))) ∧
        RegsOnly [PWR_STATUS, PWR_CNT 3] { s with pwr := t.pwr } t) ∧
  ∀ (die : Bool) (mv : Nat) (s : State), s.boot.on = true → diesDown s = false →
    Gives (.droopAlarm die mv false) s fun t =>
      t.pwr.droopB = s.pwr.droopB ∧ t.pwr.droopHold = 2 ∧ die ∉ t.pwr.droopDies ∧
        RegsOnly [PWR_STATUS] { s with pwr := t.pwr } t

/-- The power governor and its operating points. -/
def Obligations.Governor : Prop := governorSample ∧ pointsAndDroop

/-- Temperatures: below a trip every sensor group is reported, and a junction at or above 105 °C sets THERM_LIMIT, 63 bubbles and
point 0 as the highest allowed; a coolant inlet above 45 °C sets COOLANT. A sensor at 115 °C trips: everything but the cairn bank
is lost, and MAIN_EN must be asserted anew. -/
def Obligations.ThermalSample : Prop :=
  ∀ (x : ThermIn) (s : State), s.boot.on = true →
    Gives (.thermalSample x) s fun t =>
      let trip := 115 * 16 ≤ max (max x.die0 (max x.die1 x.harbour)) (max x.base (max x.inlet x.outlet))
      (trip → t.boot.on = false ∧ t.pins.thermTrip = true ∧ t.boot.needReassert = true ∧
        ∀ o, rd o t = if isCairn o then rd o s else rstVal o) ∧
      (¬trip → fld (PWR_TEMP_DEG 0) t = (x.die0 % 65536).toNat ∧ bit (PWR_TEMP_VALID 0) t = true ∧
        fld (PWR_TEMP_DEG 4) t = (x.inlet % 65536).toNat ∧
        (105 * 16 ≤ max x.die0 (max x.die1 x.harbour) →
          bit PWR_ERR_THERM_LIMIT t = true ∧ t.pwr.thermB = 63 ∧ t.pwr.allowed = 0) ∧
        (max x.die0 (max x.die1 x.harbour) < 105 * 16 → t.pwr.thermB = 0) ∧
        (45 * 16 < x.inlet → bit PWR_ERR_COOLANT t = true) ∧
        RegsOnly ((List.range 6).map PWR_TEMP ++ [PWR_ERR, PWR_STATUS]) { s with pwr := t.pwr } t)

/-- Haven mode: the driver's ENTER, a cap below the floor for 100 ms and a junction at its limit for 10 ms lead into it with
causes 3, 1 and 2. Contexts fault, shoal and lagoon contents are lost, atoll bytes stay. -/
def havenEntry : Prop :=
  ∀ (v : W32) (s : State), s.boot.on = true → bit PWR_HAVEN_ACTIVE s = false →
    ∀ x ∈ [(Instr.havenEnter v, 3, v.getLsbD 1 = true ∧ Answers PWR_HAVEN s ∧ s.boot.tested = true),
           (.floorTimeout, 1, belowFloor s = true), (.thermalLimitTimeout, 2, s.pwr.thermB ≠ 0)],
      x.2.2 → Gives x.1 s fun t =>
        bit PWR_HAVEN_ACTIVE t = true ∧ fld PWR_HAVEN_CAUSE t = x.2.1 ∧ stage t = stHaven ∧ bit PWR_STATUS_HAVEN t = true ∧
        bit PWR_ERR_HAVEN t = true ∧ t.pins.havenLow = true ∧
        (∀ c < 64, ctxLive c s = true → ctxState c t = cxFaulted ∧ fld (CTX_FAULT_CAUSE c) t = cfHaven) ∧
        (s.gld.ops = [] → s.sec.waiting = none → t.pwr.held = [] ∧ t.pwr.queue = [] ∧
          (∀ a, shoalBase 0 ≤ a → a < lagoonBase 288 → rdByte a t = memDefault) ∧
          ∀ a, a < shoalBase 0 → rdByte a t = rdByte a s)

/-- PWR_HAVEN.EXIT outside haven mode, or while the cap or a junction forbids it, sets EXIT_REFUSED and changes nothing else;
otherwise a warm rejoin starts. -/
def havenExitRule : Prop :=
  ∀ (v : W32) (s : State), Answers PWR_HAVEN s → s.boot.tested = true → v.getLsbD 1 = false → v.getLsbD 0 = true →
    Gives (.havenExit v) s fun t =>
      (bit PWR_HAVEN_ACTIVE s = true → exitAllowed s = true → rejoinBegun s t) ∧
      (¬(bit PWR_HAVEN_ACTIVE s = true ∧ exitAllowed s = true) → s.gld.ops = [] → s.gld.refused = [] → s.sec.waiting = none →
        bit PWR_ERR_EXIT_REFUSED t = true ∧ RegsOnly [PWR_ERR] s t)

/-- Entry into haven mode and exit from it. Lost memory reads as an unlisted byte (log 6). -/
def Obligations.Haven : Prop := havenEntry ∧ havenExitRule

/-! ### Security (R407 to R416, R422) -/

/-- A word of SEC_CMD that starts the operation `op`. -/
def startsSec (op : Nat) (v : W32) : Prop := v.getLsbD 31 = true ∧ fldOf SEC_CMD_OP (v.setWidth 64) = op

/-- The mailbox runs a command to its end: BUSY is clear, CODE holds the result, and TOP_IRQ_STATUS.SEC_CMD is set. SLOT_WRITE,
KEY_LOAD, KEY_CLEAR, UNSEAL and SVN_ADVANCE give the code and the state of their rules; a command other than OK of the first two
and of UNSEAL sets its bit of SEC_ERR. A START while BUSY is discarded, and one during a weave load waits. -/
def securityMailbox : Prop :=
  ∀ (v : W32) (s : State), Answers SEC_CMD s → (written SEC_CMD (v.setWidth 64) s).2 = false →
    let s0 := wr SEC_CMD (written SEC_CMD (v.setWidth 64) s).1 s
    let arg := fldOf SEC_CMD_ARG (v.setWidth 64)
    ∀ x ∈ [(Instr.slotWrite v, 1, slotWrite s0, some SEC_ERR_SLOT), (.keyLoad v, 2, keyLoad s0, some SEC_ERR_UNWRAP),
           (.keyClear v, 3, keyClear arg s0, none), (.unsealWrite v, 4, unsealImage arg s0, some SEC_ERR_UNSEAL),
           (.svnAdvance v, 5, svnAdvance s0, none)],
      startsSec x.2.1 v → Gives x.1 s fun t =>
        (bit SEC_CMD_STATUS_BUSY s = false → bit WV_LOAD_STATUS_BUSY s = false →
          bit SEC_CMD_STATUS_BUSY t = false ∧ fld SEC_CMD_STATUS_CODE t = x.2.2.1.1 ∧ bit TOP_IRQ_STATUS_SEC_CMD t = true ∧
          t.sec = x.2.2.1.2.sec ∧ t.fuse = x.2.2.1.2.fuse ∧ t.digests = x.2.2.1.2.digests ∧ SameMem x.2.2.1.2 t ∧
          (x.2.2.1.1 ≠ scOk → ∀ f ∈ x.2.2.2, bit f t = true)) ∧
        (bit SEC_CMD_STATUS_BUSY s = true → RegsOnly [] s t) ∧
        (bit SEC_CMD_STATUS_BUSY s = false → bit WV_LOAD_STATUS_BUSY s = true →
          bit SEC_CMD_STATUS_BUSY t = true ∧ t.sec = { s.sec with waiting := some v } ∧ RegsOnly [SEC_CMD, SEC_CMD_STATUS] { s with sec := t.sec } t)

/-- Keys and the fused minimum: a wrapped key for this package that unwraps lands in its slot, a busy tenant keeps its key, KEY_CLEAR empties a
slot, and SVN_ADVANCE raises the minimum to the running firmware's and spends an advance, or answers FUSES. -/
def keysAndSvn : Prop :=
  (∀ (arg : Nat) (s : State), let r := keyClear arg s
    (arg / 2 ^ 12 % 4 = 1 → arg % 2 ^ 12 < 64 → r.1 = scOk ∧ find? r.2.sec.modelKeys (arg % 2 ^ 12) = none ∧
      r.2.sec.tenantKeys = s.sec.tenantKeys) ∧
    (arg / 2 ^ 12 % 4 = 2 → tenantBusy (arg % 2 ^ 12) s = false → r.1 = scOk ∧ find? r.2.sec.tenantKeys (arg % 2 ^ 12) = none) ∧
    (arg / 2 ^ 12 % 4 = 2 → tenantBusy (arg % 2 ^ 12) s = true → r = (scBusy, s)) ∧
    (arg / 2 ^ 12 % 4 ≠ 1 → arg / 2 ^ 12 % 4 ≠ 2 → r = (scFormat, s))) ∧
  (∀ s : State, ∀ b ok, secBlob s = some (b, ok) → bnum b 8 8 ≠ s.fuse.identity.toNat → bnum b 0 4 = 0x4B574B51 →
    bnum b 4 1 = 1 → bnum b 6 2 < 64 → allZero (bslice b 5 1) = true → allZero (bslice b 0x71 15) = true →
    allZero (bslice b 0xB0 80) = true → keyLoad s = (scTarget, s)) ∧
  (∀ (s : State) (b : List Byte) (k : BitVec 256), secBlob s = some (b, true) → bnum b 8 8 = s.fuse.identity.toNat →
    bnum b 0 4 = 0x4B574B51 → allZero (bslice b 5 1) = true → allZero (bslice b 0x71 15) = true →
    allZero (bslice b 0xB0 80) = true → unwrapKey b s = some k →
    (bnum b 4 1 = 1 → bnum b 6 2 < 64 → (keyLoad s).1 = scOk ∧ find? (keyLoad s).2.sec.modelKeys (bnum b 6 2) = some k ∧
      (keyLoad s).2.sec.tenantKeys = s.sec.tenantKeys) ∧
    (bnum b 4 1 = 2 → bnum b 6 2 < 4096 → tenantBusy (bnum b 6 2) s = false → (keyLoad s).1 = scOk ∧
      find? (keyLoad s).2.sec.tenantKeys (bnum b 6 2) = some k ∧ (keyLoad s).2.sec.modelKeys = s.sec.modelKeys) ∧
    (bnum b 4 1 = 2 → bnum b 6 2 < 4096 → tenantBusy (bnum b 6 2) s = true → keyLoad s = (scBusy, s))) ∧
  (∀ s : State, secBlob s = none → slotWrite s = (scRegion, s) ∧ keyLoad s = (scRegion, s)) ∧
  ∀ s : State,
    (fld SEC_SVN_FW s ≤ s.fuse.minSvn.toNat → svnAdvance s = (scOk, s)) ∧
    (s.fuse.minSvn.toNat < fld SEC_SVN_FW s → s.fuse.advances = 0 → svnAdvance s = (scFuses, s)) ∧
    (s.fuse.minSvn.toNat < fld SEC_SVN_FW s → s.fuse.advances ≠ 0 → (svnAdvance s).1 = scOk ∧
      (svnAdvance s).2.fuse.minSvn.toNat = fld SEC_SVN_FW s ∧ (svnAdvance s).2.fuse.advances = s.fuse.advances - 1)

/-- SEC_CMD and the commands on keys and security versions. The order of checks that the spec does not give rests on
log 38. -/
def Obligations.SecurityCommands : Prop := securityMailbox ∧ keysAndSvn

/-- A command that only answers: nothing changes but the answer. -/
def answersWith (c : Instr) (s : State) (code : Nat) (P : List Byte → Prop) : Prop :=
  Gives c s fun t => RegsOnly [] s t ∧ ∃ ws, t.sent = s.sent ++ [.answer code ws] ∧ P ws

/-- The SPDM responder, with firmware running: version 1.2 only, the identity chain in slot 0 only, a signed answer to
a challenge, measurement blocks as R408 lists them, each alone or all with index 0xFF, at most four host sessions and
a fifth answered Busy, heartbeats and key updates only in a session, and IDE streams keyed only in one. Response and
error codes (log 39) and the framing of measurement blocks (log 145) are DMTF's and not the spec's. -/
def Obligations.SpdmResponder : Prop :=
  ∀ s : State, s.boot.on = true → stIdentity ≤ stage s → s.boot.fwRuns = true →
    answersWith .getVersion s spVersion (· = [0x12]) ∧
    answersWith (.getCertificate 0) s spCertificate (· = Config.certChain) ∧
    (∀ slot : BitVec 4, slot ≠ 0 → answersWith (.getCertificate slot) s spError (· = [seInvalid])) ∧
    (∀ nonce, answersWith (.challenge nonce) s spChallenge
      (· = identitySign (natToBytes 32 nonce.toNat) s)) ∧
    (∀ (i : Byte) bs, measurement i.toNat s = some bs → i ≠ 0xFF → answersWith (.getMeasurements i) s spMeasurements
      (· = bs ++ identitySign bs s)) ∧
    answersWith (.getMeasurements 0xFF) s spMeasurements
      (· = let bs := (List.range 0x50).flatMap fun j => (measurement j s).getD []
           bs ++ identitySign bs s) ∧
    (∀ i : Byte, measurement i.toNat s = none → i ≠ 0xFF → answersWith (.getMeasurements i) s spError (· = [seInvalid])) ∧
    (∀ nonce, (∀ k < 4, k ∈ s.sec.sessions) → answersWith (.keyExchange nonce) s spError (· = [seBusy])) ∧
    (∀ nonce, (∃ k < 4, k ∉ s.sec.sessions) → Gives (.keyExchange nonce) s fun t =>
      ∃ k < 4, k ∉ s.sec.sessions ∧ t.sec.sessions = s.sec.sessions ++ [k] ∧ RegsOnly [] { s with sec := t.sec } t) ∧
    (∀ k : BitVec 2, k.toNat ∈ s.sec.sessions → answersWith (.heartbeat k) s spHeartbeat (· = [])) ∧
    (∀ k : BitVec 2, k.toNat ∉ s.sec.sessions → answersWith (.heartbeat k) s spError (· = [seInvalid]) ∧
      answersWith (.keyUpdate k) s spError (· = [seInvalid])) ∧
    (∀ k : BitVec 2, k.toNat ∈ s.sec.sessions → Gives (.keyUpdate k) s fun t =>
      RegsOnly [SEC_CNT 5] s t ∧ rd (SEC_CNT 5) t = BitVec.ofNat 64 (min ((rd (SEC_CNT 5) s).toNat + 1) (2 ^ 64 - 1))) ∧
    (∀ (st : BitVec 3) (on : Bool), 4 < st.toNat → answersWith (.ideKm st on) s spError (· = [seInvalid])) ∧
    (∀ (st : BitVec 3), st.toNat ≤ 4 → s.sec.sessions ≠ [] →
      (Gives (.ideKm st true) s fun t => st.toNat ∈ t.sec.ide ∧ RegsOnly [] { s with sec := t.sec } t) ∧
      Gives (.ideKm st false) s fun t => st.toNat ∉ t.sec.ide ∧ RegsOnly [] { s with sec := t.sec } t) ∧
    ∀ (st : BitVec 3) (on : Bool), s.sec.sessions = [] → answersWith (.ideKm st on) s spError (· = [seInvalid])

/-! ### Barriers, watches and threads (R68, R69, R114, R298, R307, R317 to R328) -/

/-- No ferry channel is armed, running or halted, and no operation of a unit waits for room (R295). -/
def channelsIdle (s : State) : Prop := (∀ x ∈ s.chans, x.2.state = .idle) ∧ s.gld.waiting = []

/-- A packet without a path of its own finds a port towards a node, whichever of two equally long directions it takes
(R285). -/
def routable (node : Nat) (s : State) : Prop :=
  (sameDomain node s = false ∧ portUpNow 6 s = true) ∨
    ∀ tie < 8, ∃ x, pathOf (ownPos s) (posOf node) tie s = some x ∧ (outHop (myNode s) node x.1 x.2 0 s).isSome = true

/-- A counter that counts n more and holds at 2^64 − 1 (R53). -/
def counts (o n : Nat) (s t : State) : Prop := rd o t = BitVec.ofNat 64 (min ((rd o s).toNat + n) (2 ^ 64 - 1))

/-- Context c faulted with a cause. -/
def faultedWith (c cause : Nat) (t : State) : Prop := ctxState c t = cxFaulted ∧ fld (CTX_FAULT_CAUSE c) t = cause

/-- Only unit u of the barrier units changes. -/
def unitOnly (u : Nat) (s t : State) : Prop := ∀ w, w ≠ u → barUnit w t = barUnit w s

/-- The dispatch entry e is complete. -/
def entryDone (e : EntryRef) (t : State) : Prop := (dispAt e t).map (·.st) = some .done

/-- A unit after its round is released: next round, early arrivals current, later waiters left; the threads that waited are
ready and the SYNC entries complete. -/
def released (u : Nat) (s t : State) : Prop :=
  let b := barUnit u s
  (barUnit u t).round = b.round + 1 ∧ (barUnit u t).cur = b.early ∧ (barUnit u t).early = [] ∧
    (barUnit u t).waiters = b.waiters.filter (fun w => !(w.2.1 < b.round + 1)) ∧
    ∀ w ∈ b.waiters, w.2.1 ≤ b.round →
      (∀ th, w.2.2 = .thread th → (thread w.1 th s).ctx = b.ctx → (thread w.1 th s).state = .waitSync →
        (thread w.1 th t).state = .ready) ∧
      ∀ e, w.2.2 = .entry e → (dispAt e s).isSome = true → entryDone e t

/-- Who stands in a unit for an arriver. -/
def waiterOf (who : Arriver) : Waiter :=
  match who with
  | .self => .self
  | .thread t _ => .thread t.toNat
  | .entry e => .entry e

/-- Who may arrive now: a ready thread of the participant whose context is c and which has no
operation out and no write to report, or a SYNC entry of a spindle or pilot whose turn it is (R317, R318, R320); a channel arrives as its transfer completes. -/
def mayArrive (c i p : Nat) (who : Arriver) (ops : List Nat) (s : State) : Prop :=
  match who with
  | .self => False
  | .thread t w => (thread p t.toNat s).state = .ready ∧ (thread p t.toNat s).ctx = c ∧ (thread p t.toNat s).ops = [] ∧ w = []
  | .entry e => (syncReady e c i p ops s).isSome = true

/-- Who may wait now. -/
def mayWait (c i p : Nat) (who : Arriver) (ops : List Nat) (s : State) : Prop :=
  match who with
  | .self => False
  | .thread t _ => (thread p t.toNat s).state = .ready ∧ (thread p t.toNat s).ctx = c
  | .entry e => (syncReady e c i p ops s).isSome = true

/-- What an arrival or a wait may change beside its unit: FENCED marks, threads and dispatch entries. -/
def syncFrame (l : List Nat) (s t : State) : Prop :=
  RegsOnly l { s with bars := t.bars, spns := t.spns, ctxs := t.ctxs } t

/-- SYN_ERR_INFO names context, unit and participant of an error that is the first since SYN_ERR and its capture were cleared
(R332). -/
def synNamed (c u p : Nat) (s t : State) : Prop :=
  rd SYN_ERR s = 0 → SYN_ERR_INFO ∉ s.caps → fld SYN_ERR_INFO_CONTEXT t = c ∧ fld SYN_ERR_INFO_UNIT t = u % 256 ∧
    fld SYN_ERR_INFO_PARTICIPANT t = p % 512

/-- An arrival counts toward the round, be it a thread's or a SYNC entry's, of a spindle or a pilot; the last one without a node
mask releases it; a second one is held early, and a third one faults the context with BARRIER_OVERRUN and leaves the units, as an
arrival of an index outside the mask does with NOT_MEMBER. A thread with operations out waits for them before it arrives (R318), and
one that runs another context faults that context (R319); what it wrote is in memory when it arrives. ARRIVE_WAIT arrives and then waits for the round it arrived in; with SKIP
an entry does not wait. No participant arrives or waits by anything else. -/
def barrierArrivals : Prop :=
  ∀ (c : BitVec 6) (i : Byte) (p u : Nat) (who : Arriver) (s : State), ctxLive c.toNat s = true →
    unitOf c.toNat i.toNat s = some u → channelsIdle s → let b := barUnit u s
    let k := p * 16 + agentOf (waiterOf who)
    b.ctx = c.toNat →
    (who = .self → ∀ x ∈ [Instr.arrive ⟨c, i⟩ p who, .wait ⟨c, i⟩ p who, .arriveWait ⟨c, i⟩ p who], Gives x s fun t => RegsOnly [] s t) ∧
    (mayArrive c.toNat i.toNat p who [0] s →
      (∀ e t, who = .entry e → exec (.arrive ⟨c, i⟩ p who) s = .next t → ctxLive c.toNat t = true → entryDone e t) ∧
      (p ∈ b.parts → p ∉ b.cur → full b.parts (b.cur ++ [p]) = false → Gives (.arrive ⟨c, i⟩ p who) s fun t =>
        barUnit u t = { b with cur := b.cur ++ [p], last := ins b.last k b.round } ∧ unitOnly u s t ∧ syncFrame [] s t ∧
          t.spns = s.spns) ∧
      (p ∈ b.parts → p ∉ b.cur → full b.parts (b.cur ++ [p]) = true → b.remote = false → b.nodes = [] →
        full b.parts b.early = false → Gives (.arrive ⟨c, i⟩ p who) s fun t =>
          released u s t ∧ unitOnly u s t ∧ counts (SYN_CNT 0) 1 s t ∧ syncFrame [SYN_CNT 0, SYN_CNT 2] s t) ∧
      (p ∈ b.parts → p ∈ b.cur → p ∉ b.early → Gives (.arrive ⟨c, i⟩ p who) s fun t =>
        barUnit u t = { b with early := b.early ++ [p], last := ins b.last k (b.round + 1) } ∧ unitOnly u s t ∧
          counts (SYN_CNT 1) 1 s t ∧ syncFrame [SYN_CNT 1] s t ∧ t.spns = s.spns) ∧
      (p ∈ b.parts → p ∈ b.cur → p ∈ b.early → Gives (.arrive ⟨c, i⟩ p who) s fun t =>
        bit SYN_ERR_BARRIER_OVERRUN t = true ∧ synNamed c.toNat u p s t ∧ faultedWith c.toNat cfSync t ∧ t.bars = s.bars) ∧
      (p ∉ b.parts → Gives (.arrive ⟨c, i⟩ p who) s fun t =>
        bit SYN_ERR_NOT_MEMBER t = true ∧ synNamed c.toNat u p s t ∧ faultedWith c.toNat cfSync t ∧ t.bars = s.bars)) ∧
    (mayArrive c.toNat i.toNat p who [2] s → p ∈ b.parts → p ∉ b.cur → full b.parts (b.cur ++ [p]) = false →
      (∀ e d, who = .entry e → dispAt e s = some d → eSkip d.words = false) → Gives (.arriveWait ⟨c, i⟩ p who) s fun t =>
        (barUnit u t).cur = b.cur ++ [p] ∧ (barUnit u t).waiters = b.waiters ++ [(p, b.round, waiterOf who)] ∧
          (∀ th w, who = .thread th w → (thread p th.toNat t).state = .waitSync) ∧
          (∀ e, who = .entry e → (dispAt e t).map (·.st) = some .committing) ∧ syncFrame [SPN_CNT_SWITCH p] s t) ∧
    (∀ e d, who = .entry e → syncReady e c.toNat i.toNat p [2] s = some d → eSkip d.words = true → p ∈ b.parts → p ∉ b.cur →
      full b.parts (b.cur ++ [p]) = false → Gives (.arriveWait ⟨c, i⟩ p who) s fun t =>
        (barUnit u t).cur = b.cur ++ [p] ∧ (barUnit u t).waiters = b.waiters ∧ entryDone e t ∧ syncFrame [] s t) ∧
    (∀ th e a v, who = .thread th [(a, v)] → let x := thread p th.toNat s
      x.state = .ready → x.ctx = c.toNat → x.ops = [] → x.entry = some e → e.ctx = c → mayWrite c.toNat a 1 s = true →
      retainHit a 1 s = none → p ∈ b.parts → p ∉ b.cur → full b.parts (b.cur ++ [p]) = false →
      Gives (.arrive ⟨c, i⟩ p who) s fun t => (barUnit u t).cur = b.cur ++ [p] ∧ ∀ k, rdByte k t = if k = a then v else rdByte k s) ∧
    ∀ th, who = .thread th [] → let x := thread p th.toNat s
      x.state = .ready →
      (x.ctx = c.toNat → x.ops ≠ [] → Gives (.arrive ⟨c, i⟩ p who) s fun t =>
        thread p th.toNat t = { x with state := .waitRemote, fence := true, arriving := some (c.toNat, i.toNat, p, false) } ∧
          t.bars = s.bars ∧ syncFrame [SPN_CNT_SWITCH p] s t) ∧
      (x.ctx ≠ c.toNat → x.ctx < 64 → ctxLive x.ctx s = true → Gives (.arrive ⟨c, i⟩ p who) s fun t =>
        bit SYN_ERR_NOT_MEMBER t = true ∧ faultedWith x.ctx cfSync t ∧ t.bars = s.bars)

/-- A WAIT for a round already released goes on at once; otherwise its thread, entry or participant waits. ARRIVE messages fill the
root's node vector, and the one that completes it releases the round and sends RELEASE along the tree of the members; at another
package they go on towards the root. A RELEASE releases a local round that is complete; a message with another node mask faults the
context. -/
def barrierMessages : Prop :=
  ∀ (c : BitVec 6) (i : Byte) (u : Nat) (s : State), ctxLive c.toNat s = true → unitOf c.toNat i.toNat s = some u →
    channelsIdle s → let b := barUnit u s
    b.ctx = c.toNat →
    (∀ p who, mayWait c.toNat i.toNat p who [1] s → let r := (find? b.last (p * 16 + agentOf (waiterOf who))).getD b.round
      (r < b.round → Gives (.wait ⟨c, i⟩ p who) s fun t =>
        (∀ e, who = .entry e → entryDone e t) ∧ ((∀ e, who ≠ .entry e) → t.ctxs = s.ctxs) ∧
          RegsOnly [] { s with ctxs := t.ctxs } t) ∧
      (¬r < b.round → (∀ e d, who = .entry e → dispAt e s = some d → eSkip d.words = false) → Gives (.wait ⟨c, i⟩ p who) s fun t =>
        barUnit u t = { b with waiters := b.waiters ++ [(p, r, waiterOf who)] } ∧
          (∀ th w, who = .thread th w → (thread p th.toNat t).state = .waitSync) ∧
          (∀ e, who = .entry e → (dispAt e t).map (·.st) = some .committing) ∧ unitOnly u s t ∧
          syncFrame [SPN_CNT_SWITCH p] s t)) ∧
    ∀ (g : Bool) (m : BitVec 128), let root := rootOf (maskList m)
      (root ≠ ownPos s → routable (myNode s / 512 * 512 + root) s → ∀ src, Gives (.arriveMessage c i g src m) s fun t =>
        handed (.barrier src.toNat root false c.toNat i.toNat g (maskList m)) t ∧
          RegsOnly [] { s with gld := t.gld, free := t.free } t) ∧
      (b.nodes ≠ maskList m → ∀ src, ∀ x ∈ [Instr.arriveMessage c i g src m, .releaseMessage c i g m],
        root = ownPos s → Gives x s fun t => bit SYN_ERR_MASK_MISMATCH t = true ∧ faultedWith c.toNat cfSync t) ∧
      (b.nodes = maskList m → full b.parts b.early = false →
        (root = ownPos s → ∀ src : BitVec 7, let v := addOnce (nodeVec g b) src.toNat
          (¬(g = genOf b ∧ full b.nodes v = true) → Gives (.arriveMessage c i g src m) s fun t =>
            barUnit u t = setNodeVec g v b ∧ RegsOnly [] { s with bars := t.bars } t) ∧
          (g = genOf b → full b.nodes v = true → Gives (.arriveMessage c i g src m) s fun t =>
            released u s t ∧ counts (SYN_CNT 3) 1 s t ∧ ∀ r ∈ treeDirs root b.nodes s, (portOfRole r.2 s).isSome = true →
              handed (.barrier root (stepPos (ownPos s) r.2 s) true b.ctx b.index g b.nodes) t)) ∧
        (b.remote = true → g = genOf b → Gives (.releaseMessage c i g m) s fun t =>
          released u s t ∧ counts (SYN_CNT 0) 1 s t ∧ counts (SYN_CNT 3) 1 s t ∧
            (∀ r ∈ treeDirs root b.nodes s, root ≠ ownPos s → (portOfRole r.2 s).isSome = true →
              handed (.barrier root (stepPos (ownPos s) r.2 s) true c.toNat i.toNat g b.nodes) t) ∧
            RegsOnly [SYN_CNT 0, SYN_CNT 2, SYN_CNT 3, GLD_CNT 6]
              { s with bars := t.bars, spns := t.spns, ctxs := t.ctxs, gld := t.gld } t))

/-- Barrier units: arrivals, waits and messages. The thread that waits for a spindle participant is the model's choice
(log 29). -/
def Obligations.Barriers : Prop := barrierArrivals ∧ barrierMessages

/-- A watch on an aligned word of the own lagoon or of a SCRATCH region is tested at once: the thread goes on when the
condition holds, and waits with its watch set when it does not. A word elsewhere faults the context (log 30). -/
def watchCommands : Prop :=
  ∀ (n : Nat) (th : BitVec 3) (a : BitVec 48) (k : WatchCond) (op : W64) (s : State),
    let x := thread n th.toNat s
    let allowed := a.toNat % 8 = 0 ∧ (lagoonAt a.toNat = some n ∨ boundKind x.ctx kScratch a.toNat 8 s = true)
    let holds := match k with
      | .eq => rdNat a.toNat 8 s = op.toNat
      | .ge => op.toNat ≤ rdNat a.toNat 8 s
      | .ne => rdNat a.toNat 8 s ≠ op.toNat
    x.state ≠ .idle →
    (allowed → holds → Gives (.watch n th a k op) s fun t => RegsOnly [] s t) ∧
    (allowed → ¬holds → Gives (.watch n th a k op) s fun t =>
      (thread n th.toNat t).state = .waitSync ∧ (thread n th.toNat t).watch = some (a.toNat, k, op) ∧
        (∀ m h, (m, h) ≠ (n, th.toNat) → thread m h t = thread m h s) ∧
        RegsOnly [SPN_CNT_SWITCH n] { s with spns := t.spns } t) ∧
    (¬allowed → x.ctx < 64 → ctxLive x.ctx s = true → Gives (.watch n th a k op) s fun t => faultedWith x.ctx cfMemory t)

/-- A thread is ready when its memory access ends, also when its data failed its check or could not be corrected; one that was
ready issued the access without a command of its own and counts a switch (log 94). A bad status faults its context with THREAD, or
TARGET_DEAD for that status. A reported access that its context may not make faults with MEMORY, and one to memory that retrains or
is restored waits (log 100). A package fence puts the thread's writes into memory, waits and ends; FENCE waits for the thread's
operations; RECV waits for a message. -/
def threadWaits : Prop :=
  ∀ (n : Nat) (th : BitVec 3) (s : State), let x := thread n th.toNat s
    let started (own : Bool) (t : State) : Prop := thread n th.toNat t = { x with state := .ready } ∧
      (∀ m h, (m, h) ≠ (n, th.toNat) → thread m h t = thread m h s) ∧
      counts (SPN_CNT_SWITCH n) (if x.state = .ready ∧ own = false then 1 else 0) s t ∧ RegsOnly [SPN_CNT_SWITCH n] { s with spns := t.spns } t
    (x.state = .ready ∨ x.state = .waitMem → x.pkgFence = false → x.access = none → x.walk = none →
      (∀ how ∈ [AccessEnd.ok, .badStatus 0], Gives (.memoryAccessComplete n th ⟨how, none⟩) s (started false)) ∧
      (∀ a : Access, accessWaits (some a) s = true → ∀ how, Gives (.memoryAccessComplete n th ⟨how, some a⟩) s fun t =>
        thread n th.toNat t = { x with state := .waitMem } ∧ RegsOnly [SPN_CNT_SWITCH n] { s with spns := t.spns } t) ∧
      (∀ a : Access, accessWaits (some a) s = false → a.store = none → a.kv = false →
        let may := rangeMapped a.addr.toNat a.len s = true ∧ mayRead x.ctx a.addr.toNat a.len s = true
        (may → readBad (some a) s = [] → Gives (.memoryAccessComplete n th ⟨.ok, some a⟩) s (started (ownLoad n (some a)))) ∧
        (may → lagoonAt a.addr.toNat = none → readBad (some a) s ≠ [] →
          Gives (.memoryAccessComplete n th ⟨.ok, some a⟩) s fun t =>
            (thread n th.toNat t).state = .ready ∧ bit (SPN_ERR_STAPLE_CRC n) t = true ∧ SameMem s t) ∧
        (¬may → x.ctx < 64 → ctxLive x.ctx s = true → Gives (.memoryAccessComplete n th ⟨.ok, some a⟩) s fun t =>
          bit MEM_ERR_BAD_ADDR t = true ∧ faultedWith x.ctx cfMemory t)) ∧
      (∀ a : BitVec 48, lagoonAt a.toNat = none →
        (Gives (.memoryAccessComplete n th ⟨.badCrc a, none⟩) s fun t =>
          (thread n th.toNat t).state = .ready ∧ bit (SPN_ERR_STAPLE_CRC n) t = true ∧ SameMem s t) ∧
        ∀ u, memUnit a.toNat = some u → u < 12 → Gives (.memoryAccessComplete n th ⟨.uncorrectable a, none⟩) s fun t =>
          (thread n th.toNat t).state = .ready ∧ bit (SPN_ERR_STAPLE_CRC n) t = true ∧ (metaAt a.toNat t).poison = true ∧
            counts (MEM_CNT_UE u) 1 s t ∧ ∀ b, rdByte b t = rdByte b s) ∧
      ∀ st : BitVec 4, st ≠ 0 → x.ctx < 64 → ctxLive x.ctx s = true →
        Gives (.memoryAccessComplete n th ⟨.badStatus st, none⟩) s fun t =>
          faultedWith x.ctx (if st.toNat = stTargetDead then cfDead else cfThread) t) ∧
    (x.state = .ready → Gives (.packageFence ⟨n, th⟩ []) s fun t =>
      thread n th.toNat t = { x with state := .waitMem, pkgFence := true } ∧
        RegsOnly [SPN_CNT_SWITCH n] { s with spns := t.spns } t) ∧
    (∀ e a b, x.state = .ready → x.entry = some e → ctxLive e.ctx.toNat s = true → mayWrite e.ctx.toNat a 1 s = true →
      retainHit a 1 s = none → Gives (.packageFence ⟨n, th⟩ [(a, b)]) s fun t =>
        (thread n th.toNat t).state = .waitMem ∧ (thread n th.toNat t).pkgFence = true ∧
          ∀ k, rdByte k t = if k = a then b else rdByte k s) ∧
    (x.state = .waitMem → x.pkgFence = true → Gives (.packageFenceComplete n th) s fun t =>
      thread n th.toNat t = { x with state := .ready, pkgFence := false } ∧ RegsOnly [] { s with spns := t.spns } t) ∧
    (x.state = .ready → Gives (.fence n th) s fun t =>
      (x.ops = [] → thread n th.toNat t = { x with fenced := true }) ∧
        (x.ops ≠ [] → thread n th.toNat t = { x with state := .waitRemote, fence := true, fenced := true }) ∧
        RegsOnly [SPN_CNT_SWITCH n] { s with spns := t.spns } t) ∧
    (x.state = .ready → recvReady x.ctx s = false → Gives (.recv n th) s fun t =>
      thread n th.toNat t = { x with state := .waitRemote, recv := true } ∧
        RegsOnly [SPN_CNT_SWITCH n] { s with spns := t.spns } t) ∧
    (x.state = .ready → recvReady x.ctx s = true → x.ctx < 64 → Gives (.recv n th) s fun t =>
      let a := slotAddr x.ctx (fld (GLD_MSG_STATUS_CONSUMER x.ctx) s) s
      thread n th.toNat t = { x with recv := false, result := rdBytes a (64 + (rdWord (a + 8) s).toNat) s } ∧
        fld (GLD_MSG_STATUS_CONSUMER x.ctx) t = (fld (GLD_MSG_STATUS_CONSUMER x.ctx) s + 1) % 65536 ∧
        RegsOnly [GLD_MSG_STATUS x.ctx] { s with spns := t.spns, gld := t.gld } t)

/-- Watches, and what a thread waits for. The fault of a watch elsewhere is the model's choice (log 30). -/
def Obligations.Threads : Prop := watchCommands ∧ threadWaits

/-! ### One-sided operations and messages (R290 to R311) -/

/-- No retain window is open, so that no write meets one (R74). -/
def noWindows (s : State) : Prop := ∀ n, (spn n s).windows = []

/-- Where an operation's packet addresses its window. -/
def landAddr (h : ReqHeader) (s : State) : Nat := winBase h.window.toNat s + h.offset.toNat + h.pktOff.toNat

/-- An answer to a packet finds its way to the source. -/
def answerable (p : Packet) (s : State) : Prop := p.hdr.src.toNat = myNode s ∨ routable p.hdr.src.toNat s

/-- A request of opcode `oc` reaches its target as a single, new packet and passes the checks of R290, R293, R295 and R358; its
memory does not hold it up. -/
def accepted (oc : Nat) (p : Packet) (s : State) : Prop :=
  let h := p.hdr
  s.boot.on = true ∧ nodeValid s = true ∧ bit PWR_HAVEN_ACTIVE s = false ∧ h.opcode.toNat = oc ∧
    (if oc = ocMcast then h.src.toNat ≠ myNode s ∧ ownPos s ∈ groupOf h.group.toNat s else h.dest.toNat = myNode s) ∧
    p.crc = packetCrc h p.payload ∧ (∀ d ∈ s.gld.history, ¬(d.src = h.src.toNat ∧ d.tag = h.tag.toNat)) ∧
    landing? h.src.toNat h.tag.toNat s = none ∧ windowOk h s = true ∧ h.window.toNat ∉ s.gld.draining ∧
    alignedOk p = true ∧
    spilledAt (fld (GLD_WIN_CFG_CONTEXT h.window.toNat) s) (winBase h.window.toNat s + h.offset.toNat) s = false ∧
    countersUsed s < 2048 ∧ packetWaits p s = false ∧ answerable p s ∧ (carries oc = true → h.pktOff = 0 ∧ p.payload.length = h.length.toNat) ∧ noWindows s

/-- An answer with opcode `oc`, status, value and data goes to the packet's source. -/
def answered (p : Packet) (oc st : Nat) (v : W64) (bs : List Byte) (t : State) : Prop :=
  ∃ r : RespPacket, handed (.resp r) t ∧ r.opcode.toNat = oc ∧ r.status.toNat = st ∧ r.dest = p.hdr.src ∧ r.tag = p.hdr.tag ∧
    r.value = v ∧ r.data = bs

/-- The n bytes at a are as listed and every other byte reads as before. -/
def landed (a : Nat) (bs : List Byte) (s t : State) : Prop :=
  ∀ b, rdByte b t = if a ≤ b ∧ b < a + bs.length then bs.getD (b - a) 0 else rdByte b s

/-- What a served operation leaves alone: everything but the fabric's own state, memory, and what a signal wakes. -/
def fabricOnly (l : List Nat) (s t : State) : Prop :=
  rest t = rest { s with gld := t.gld, spns := t.spns, lagoonBad := t.lagoonBad, free := t.free } ∧ SameRegs l s t ∧ SameWear s t

/-- The word that a signal leaves (R297): its bytes. -/
def signalBytes (h : ReqHeader) (old : Nat) : List Byte :=
  if h.sigOp = 1 then natToBytes 4 h.valueA.toNat else if h.sigOp = 2 then natToBytes 8 h.valueA.toNat
  else natToBytes 8 ((old + h.valueA.toNat) % 2 ^ 64)

/-- PUT and MCAST_PUT land their bytes; PUT_SIGNAL, and MCAST_PUT with a signal, perform it after the data; SIGNAL writes the
signal word alone. Each is acknowledged, and nothing else of memory changes. -/
def Obligations.PutsAndSignals : Prop :=
  ∀ (p : Packet) (s : State), let h := p.hdr; let a := landAddr h s
    let sa := winBase h.window.toNat s + h.sigOffset.toNat
    (accepted ocPut p s → Gives (.put p) s fun t =>
      landed a p.payload s t ∧ answered p ocAck stOk 0 [] t ∧ counts (GLD_CNT 1) 1 s t ∧ fabricOnly [GLD_CNT 1] s t) ∧
    (accepted ocMcast p s → Gives (.mcastPut p) s fun t =>
      (h.sigOp = 0 → landed a p.payload s t) ∧
        (h.sigOp ≠ 0 → ∃ m, landed a p.payload s m ∧ landed sa (signalBytes h (rdNat sa 8 m)) m t) ∧
        answered p ocAck stOk 0 [] t ∧ counts (GLD_CNT 1) 1 s t ∧
        fabricOnly ([GLD_CNT 1, GLD_CNT 6] ++ if h.sigOp = 0 then [] else [SYN_CNT 2]) s t) ∧
    (accepted ocPutSignal p s → h.sigOp ≠ 0 → Gives (.putSignal p) s fun t =>
      (∃ m, landed a p.payload s m ∧ landed sa (signalBytes h (rdNat sa 8 m)) m t) ∧ answered p ocAck stOk 0 [] t ∧
        fabricOnly [GLD_CNT 1, CRD_CNT 5, SYN_CNT 2] s t) ∧
    (accepted ocSignal p s → h.sigOp ≠ 0 → Gives (.signal p) s fun t =>
      landed sa (signalBytes h (rdNat sa 8 s)) s t ∧ answered p ocAck stOk 0 [] t ∧
        fabricOnly [GLD_CNT 1, SYN_CNT 2] s t)

/-- GET answers with the bytes of its range and changes none. REDUCE combines element by element, performs its signal if it has
one, and answers POISON without
an effect when a target staple fails. ATOMIC adds modulo 2^64, or swaps when the word equals VALUE_B, and returns the old value;
a reserved SUBOP at the target stops the run by name. -/
def Obligations.GetReduceAtomic : Prop :=
  ∀ (p : Packet) (s : State), let h := p.hdr; let a := landAddr h s
    let w := winBase h.window.toNat s + h.offset.toNat
    let old := BitVec.ofNat 64 (rdNat w 8 s)
    let sa := winBase h.window.toNat s + h.sigOffset.toNat
    let sound (b n : Nat) : Prop := ∀ q ∈ staplesOf b n, stapleOk q s = true
    (accepted ocGet p s → h.length.toNat ≤ 4096 →
      (if (lagoonAt w).isSome then lagoonFails w h.length.toNat s = false else sound w h.length.toNat) → Gives (.get p) s fun t =>
      answered p ocData stOk 0 (rdBytes w h.length.toNat s) t ∧ SameMem s t ∧ fabricOnly [GLD_CNT 1] s t) ∧
    (accepted ocReduce p s → h.subop.toNat ≤ 3 →
      (if (lagoonAt a).isSome then lagoonFails a p.payload.length s = false else sound a p.payload.length) →
      Gives (.reduce p) s fun t =>
        (h.sigOp = 0 → landed a (reduceBytes h.subop.toNat a p.payload s) s t) ∧
        (h.sigOp ≠ 0 → ∃ m, landed a (reduceBytes h.subop.toNat a p.payload s) s m ∧
          landed sa (signalBytes h (rdNat sa 8 m)) m t) ∧
        answered p ocAck stOk 0 [] t ∧ fabricOnly (GLD_CNT 1 :: if h.sigOp = 0 then [] else [SYN_CNT 2]) s t) ∧
    (accepted ocReduce p s → h.subop.toNat ≤ 3 → lagoonAt a = none → (∃ q ∈ staplesOf a p.payload.length, stapleOk q s = false) →
      Gives (.reduce p) s fun t => answered p ocAck stPoison 0 [] t ∧ SameMem s t ∧ fabricOnly [] s t) ∧
    (accepted ocAtomic p s → ((lagoonAt w).isSome → lagoonFails w 8 s = false) → ∀ hold, (h.subop = 0 → Gives (.atomic p hold) s fun t =>
        landed w (natToBytes 8 (old + h.valueA).toNat) s t ∧ answered p ocAck stOk old [] t ∧ fabricOnly [GLD_CNT 1] s t) ∧
      (h.subop = 1 → old = h.valueB → Gives (.atomic p hold) s fun t =>
        landed w (natToBytes 8 h.valueA.toNat) s t ∧ answered p ocAck stOk old [] t ∧ fabricOnly [GLD_CNT 1] s t) ∧
      (h.subop = 1 → old ≠ h.valueB → Gives (.atomic p hold) s fun t =>
        SameMem s t ∧ answered p ocAck stOk old [] t ∧ fabricOnly [GLD_CNT 1] s t)) ∧
    (accepted ocReduce p s → 3 < h.subop.toNat → exec (.reduce p) s = .fault .reservedSubop) ∧
    (accepted ocAtomic p s → ∀ hold, 1 < h.subop.toNat → exec (.atomic p hold) s = .fault .reservedSubop)

/-- The tests of R290: the window is VALID, its key is the operation's, it grants the opcode's permission, and the operation and
the signal word of a PUT_SIGNAL lie inside it. -/
def windowAdmits (h : ReqHeader) (s : State) : Prop :=
  let w := h.window.toNat; let size := fld (GLD_WIN_SIZE_SIZE w) s * 4096; let need := needPerm h.opcode.toNat
  bit (GLD_WIN_CFG_VALID w) s = true ∧ lookup s.gld.keys 0 w = h.key ∧ fld (GLD_WIN_CFG_PERM w) s &&& need = need ∧
    h.offset.toNat + h.length.toNat ≤ size ∧ (h.opcode.toNat = ocPutSignal → h.sigOffset.toNat + sigSize h ≤ size)

/-- At the target, a packet whose CRC fails is answered NAK CRC; one whose window does not admit it is answered WINDOW_FAULT,
its operation counted once, with nothing of it performed; a duplicate of a completed operation is acknowledged with its result and counted.
None of them changes memory. -/
def targetRefuses : Prop :=
  ∀ (p : Packet) (hold : Bool) (s : State), let h := p.hdr
    s.boot.on = true → nodeValid s = true → bit PWR_HAVEN_ACTIVE s = false → answerable p s →
    ∀ x ∈ [(Instr.put p, ocPut), (.putSignal p, ocPutSignal), (.signal p, ocSignal), (.get p, ocGet), (.reduce p, ocReduce),
        (.atomic p hold, ocAtomic), (.mcastPut p, ocMcast)],
      h.opcode.toNat = x.2 →
      (if x.2 = ocMcast then h.src.toNat ≠ myNode s ∧ ownPos s ∈ groupOf h.group.toNat s else h.dest.toNat = myNode s) →
      (p.crc ≠ packetCrc h p.payload → Gives x.1 s fun t =>
        answered p ocNak 0 0 [] t ∧ fabricOnly [GLD_CNT 6] s t ∧ SameMem s t) ∧
      (p.crc = packetCrc h p.payload → (∀ d ∈ s.gld.history, ¬(d.src = h.src.toNat ∧ d.tag = h.tag.toNat)) →
        ¬windowAdmits h s → Gives x.1 s fun t =>
          answered p ocAck stWindowFault 0 [] t ∧ bit GLD_ERR_WINDOW_REJECT t = true ∧
            counts (GLD_CNT 5) (if s.gld.rejects.contains { h with pktOff := 0, retx := false } then 0 else 1) s t ∧
            fabricOnly [GLD_ERR, GLD_ERR_INFO, GLD_CNT 5, GLD_CNT 6] s t ∧ SameMem s t) ∧
      (x.2 ≠ ocGet → p.crc = packetCrc h p.payload → (∃ d ∈ s.gld.history, d.src = h.src.toNat ∧ d.tag = h.tag.toNat) →
        Gives x.1 s fun t =>
          (∃ d ∈ s.gld.history, d.src = h.src.toNat ∧ d.tag = h.tag.toNat ∧ answered p ocAck stOk d.value [] t) ∧
            counts (GLD_CNT 8) 1 s t ∧ fabricOnly [GLD_CNT 6, GLD_CNT 8] s t ∧ SameMem s t)

/-- A SEND of one packet lands in the next slot of the context's ring: source, context, length and tag in the header, its bytes
after 64, the phase last; a full ring answers NAK RNR, and a context without a ring WINDOW_FAULT. One that carries a packet of a
causeway transfer has it performed here: a PUT lands its bytes (R308). What came from another domain is opened under its pair session, and
discarded where it cannot be; the last packet of a pair session's SPDM exchange establishes it, up to 128 (R421; log 147). -/
def messageRing : Prop :=
  (∀ (p : Packet) (s : State), let h := p.hdr; let c := h.msgCtx.toNat; let i := fld (GLD_MSG_STATUS_HEAD c) s
    let a := slotAddr c i s
    s.boot.on = true → nodeValid s = true → bit PWR_HAVEN_ACTIVE s = false → h.opcode.toNat = ocSend → h.dest.toNat = myNode s →
    p.crc = packetCrc h p.payload → (∀ d ∈ s.gld.history, ¬(d.src = h.src.toNat ∧ d.tag = h.tag.toNat)) →
    h.valueA.getLsbD 63 = false → noWindows s → answerable p s →
    (sameDomain h.src.toNat s = false → openPayload h p.payload s = none → Gives (.send (.message p)) s fun t => RegsOnly [] s t) ∧
    ((sameDomain h.src.toNat s = true ∨ (openPayload h p.payload s).isSome = true) →
      (bit (GLD_MSG_RING_VALID c) s = true → h.length.toNat ≤ slotBytes c s - 64 → alignedOk p = true →
      find? s.gld.sends (sendKey c h.src.toNat h.tag.toNat) = none → landing? h.src.toNat h.tag.toNat s = none →
      (slotsUsed c s < ringSlots c s → memWaits true a (slotBytes c s) s = false → sameDomain h.src.toNat s = true → h.pktOff = 0 → p.payload.length = h.length.toNat →
        (∀ x ∈ s.spns, ∀ y ∈ x.2.threads, y.2.recv = false) → Gives (.send (.message p)) s fun t =>
          landed a (natToBytes 4 ((slotPhase c i s).toNat * 2 ^ 31 + h.src.toNat) ++ natToBytes 4 h.srcCtx.toNat ++
            natToBytes 4 h.length.toNat ++ natToBytes 4 (h.valueA.toNat % 2 ^ 32) ++ List.replicate 48 0 ++ p.payload) s t ∧
          fld (GLD_MSG_STATUS_HEAD c) t = (i + 1) % 65536 ∧ answered p ocAck stOk 0 [] t ∧
          fabricOnly [GLD_CNT 1, GLD_MSG_STATUS c] s t) ∧
      (ringSlots c s ≤ slotsUsed c s → Gives (.send (.message p)) s fun t =>
        answered p ocNak 0 0 [] t ∧ RegsOnly [] { s with gld := t.gld, free := t.free } t)) ∧
    (bit (GLD_MSG_RING_VALID c) s = false → Gives (.send (.message p)) s fun t =>
      answered p ocAck stWindowFault 0 [] t ∧ RegsOnly [] { s with gld := t.gld, free := t.free } t))) ∧
  (∀ (node : BitVec 10) (s : State), s.boot.on = true → nodeValid s = true → bit PWR_HAVEN_ACTIVE s = false →
    sameDomain node.toNat s = false → isNode node.toNat = true → s.sec.pairs.length < 128 ∨ node.toNat ∈ s.sec.pairs →
    channelsIdle s → Gives (.send (.pairSpdm node true)) s fun t =>
      node.toNat ∈ t.sec.pairs ∧ (∀ n ∈ s.sec.pairs, n ∈ t.sec.pairs) ∧
        (node.toNat ∉ s.sec.pairs → fld SEC_OFFING_PAIRS_PAIRS t = s.sec.pairs.length + 1)) ∧
  ∀ (q : Packet) (pay : List Byte) (s : State), let h := q.hdr
    s.boot.on = true → nodeValid s = true → bit PWR_HAVEN_ACTIVE s = false → h.opcode.toNat = ocPut → q.crc = packetCrc h q.payload →
    openPayload h q.payload s = some pay → accepted ocPut (mkPacket h pay) s → Gives (.send (.causeway q)) s fun t =>
      landed (landAddr h s) pay s t ∧ answered q ocAck stOk 0 [] t ∧
        fabricOnly [GLD_CNT 1] s t

/-- What a target refuses, and messages into a receive ring. -/
def Obligations.TargetsAndMessages : Prop := targetRefuses ∧ messageRing

/-- An operation that may leave takes a free tag, is counted, and its first packet leaves with the own node as source; a thread
that issues GET or ATOMIC, or asks for the completion, waits. A SEND to a node of another domain waits for a pair session, which is asked for (R421). One whose target cannot be reached ends at once with TARGET_DEAD and faults the context. -/
def operationIssue : Prop :=
  ∀ (o : FabricOp) (s : State), s.gld.ops.length < 4096 → o.hdr.opcode.toNat ≠ ocMcast → channelsIdle s →
    (match o.spindle with
     | some n => (thread n o.thread.toNat s).state = .ready
     | none => ctxLive o.ctx.toNat s = true) →
    (issueVerdict o s = (none, false) → (o.hdr.dest.toNat = myNode s ∨ routable o.hdr.dest.toNat s) →
      (sameDomain o.hdr.dest.toNat s = true ∨ o.hdr.opcode.toNat ≠ ocSend ∨ o.hdr.dest.toNat ∈ s.sec.pairs) → Gives (.fabricOperationIssue o) s fun t =>
      ∃ x, op? (freeTag s) t = some x ∧ op? (freeTag s) s = none ∧ x.hdr.src.toNat = myNode s % 1024 ∧
        x.hdr.tag.toNat = freeTag s ∧ x.hdr.window = o.hdr.window ∧ x.hdr.offset = o.hdr.offset ∧ x.hdr.key = o.hdr.key ∧
        x.hdr.length = o.hdr.length ∧ counts (GLD_CNT 0) 1 s t ∧ (∃ p, handed (.packet p) t ∧ p.hdr = { x.hdr with pktOff := 0 }) ∧
        (∀ n, o.spindle = some n → freeTag s ∈ (thread n o.thread.toNat t).ops ∧
          (thread n o.thread.toNat t).state =
            if o.wait = true ∨ o.hdr.opcode.toNat = ocGet ∨ o.hdr.opcode.toNat = ocAtomic then .waitRemote else .ready) ∧
        RegsOnly ([GLD_CNT 0, GLD_CNT 6] ++ (o.spindle.map SPN_CNT_SWITCH).toList)
          { s with gld := t.gld, spns := t.spns, free := t.free, sec := t.sec } t) ∧
    (issueVerdict o s = (none, false) → sameDomain o.hdr.dest.toNat s = false → o.hdr.opcode.toNat = ocSend →
      o.hdr.dest.toNat ∉ s.sec.pairs → Gives (.fabricOperationIssue o) s fun t =>
        ∃ x, op? (freeTag s) t = some x ∧ x.sent = false ∧ counts (GLD_CNT 0) 1 s t ∧
          (s.sec.pairs.length < 128 → routable o.hdr.dest.toNat s → handed (.pairSpdm o.hdr.dest.toNat) t)) ∧
    (issueVerdict o s = (some stTargetDead, false) → Gives (.fabricOperationIssue o) s fun t =>
      let c := match o.spindle with
        | some n => (thread n o.thread.toNat s).ctx
        | none => o.ctx.toNat
      bit GLD_ERR_TARGET_DEAD t = true ∧ (c < 64 → ctxLive c s = true → faultedWith c cfDead t))

/-- No leave is held or asked for by the causeway transfer of a tag. -/
def noLeave (tag : Nat) (s : State) : Prop :=
  holdsLeave (.causeway tag) s = false ∧ waitsLeave (.causeway tag) s = false

/-- A packet of operation `o` at offset `k` goes out again with RETX, that of a causeway transfer in a SEND, and is counted. -/
def resent (o : FabOp) (k : W32) (s t : State) : Prop :=
  (∃ p, handed (if o.way then .carrier p else .packet p) t ∧ p.hdr = { o.hdr with pktOff := k, retx := true }) ∧
    counts (GLD_CNT 4) 1 s t ∧ RegsOnly [GLD_CNT 4, GLD_CNT 6] { s with gld := t.gld } t

/-- The path that an operation's header names leads out of the package, or the operation is for the package itself. -/
def leads (o : FabOp) (s : State) : Prop :=
  if o.way then (outHop (myNode s) o.hdr.dest.toNat 0 0 3 s).isSome = true
  else o.hdr.dest.toNat = myNode s ∨
    (outHop o.hdr.src.toNat o.hdr.dest.toNat o.hdr.order.toNat o.hdr.dir.toNat o.hdr.tc.toNat s).isSome = true

/-- Responses for an outstanding operation: the last ACK, or the DATA of a GET, completes it and wakes its thread with the
value or the bytes, and ends a FENCE that it was the last to hold up; a bad status completes it and sets its flag; a NAK or a timeout sends the packet again, up to the limit for
a CRC failure. A timed-out operation ends with RETRY_EXHAUSTED while its target answers, else with TARGET_DEAD. -/
def operationResponses : Prop :=
  ∀ (r : RespPacket) (o : FabOp) (s : State), let tag := r.tag.toNat
    s.boot.on = true → nodeValid s = true → bit PWR_HAVEN_ACTIVE s = false → r.dest.toNat = myNode s → respOk r = true → op? tag s = some o →
    o.hdr.opcode.toNat ≠ ocMcast → r.src = o.hdr.dest → noLeave tag s → channelsIdle s → s.gld.stalled = [] →
    let plain := (∀ n i, o.owner ≠ .ferry n i) ∧ ∀ n th, o.owner = .thread n th → (thread n th s).fence = false
    let last := ∀ k ∈ opOffs o.hdr, (r.src.toNat, k) ∈ addOnce o.acks (r.src.toNat, r.pktOff.toNat)
    (r.opcode.toNat = ocAck → r.status.toNat = stOk → o.hdr.opcode.toNat ≠ ocGet →
      (last → o.worst = stOk → plain → Gives (.ack r) s fun t => op? tag t = none ∧
        (∀ n th, o.owner = .thread n th → o.wait = true → (thread n th s).state = .waitRemote →
          (thread n th s).recv = false →
          (thread n th t).state = .ready ∧ (thread n th t).result = natToBytes 8 r.value.toNat) ∧
        RegsOnly [] { s with gld := t.gld, spns := t.spns } t) ∧
      (∀ n th, last → o.worst = stOk → o.owner = .thread n th → (thread n th s).fence = true →
        (thread n th s).arriving = none → removeOnce (thread n th s).ops tag = [] → Gives (.ack r) s fun t =>
          op? tag t = none ∧ (thread n th t).state = .ready ∧ (thread n th t).fence = false ∧
            RegsOnly [] { s with gld := t.gld, spns := t.spns } t) ∧
      (¬last → Gives (.ack r) s fun t =>
        op? tag t = some { o with acks := addOnce o.acks (r.src.toNat, r.pktOff.toNat), value := r.value } ∧
          RegsOnly [] { s with gld := t.gld } t)) ∧
    (∀ st ∈ [stRetry, stTargetDead, stWindowFault, stPoison], r.status.toNat = st → r.opcode.toNat = ocAck →
      Gives (.ack r) s fun t => op? tag t = none ∧ bit (statusErr st) t = true) ∧
    (r.opcode.toNat = ocData → o.hdr.opcode.toNat = ocGet → r.status.toNat = stOk → opOffs o.hdr = [r.pktOff.toNat] →
      o.got = [] → plain → Gives (.data r) s fun t => op? tag t = none ∧
        (∀ n th, o.owner = .thread n th → o.wait = true → (thread n th s).state = .waitRemote →
          (thread n th s).recv = false →
          (thread n th t).state = .ready ∧ (thread n th t).result = r.data) ∧
        RegsOnly [] { s with gld := t.gld, spns := t.spns } t) ∧
    (r.opcode.toNat = ocNak →
      (r.nakReason = 1 ∨ r.nakReason = 2 ∨
        r.nakReason = 0 ∧ lookup o.retries 0 r.pktOff.toNat < fld GLD_TIMEOUT_E2E_RETRY s →
        leads o s → Gives (.nak r) s (resent o r.pktOff s)) ∧
      (r.nakReason = 0 → fld GLD_TIMEOUT_E2E_RETRY s ≤ lookup o.retries 0 r.pktOff.toNat → Gives (.nak r) s fun t =>
        op? tag t = none ∧ bit GLD_ERR_RETRY_EXHAUSTED t = true)) ∧
    (∀ k : W32, o.sent = true → o.hdr.opcode.toNat ≠ ocGet → k.toNat ∈ opOffs o.hdr → (r.src.toNat, k.toNat) ∉ o.acks →
      (lookup o.retries 0 k.toNat < fld GLD_TIMEOUT_E2E_RETRY s → leads o s → Gives (.retransmitTimeout r.tag k) s (resent o k s)) ∧
      (fld GLD_TIMEOUT_E2E_RETRY s ≤ lookup o.retries 0 k.toNat → Gives (.retransmitTimeout r.tag k) s fun t =>
        RegsOnly [] s t)) ∧
    ∀ responded, Gives (.operationTimeout r.tag responded) s fun t => op? tag t = none ∧ counts (GLD_CNT 7) 1 s t ∧
      bit (if responded = true ∧ reachable o.hdr.dest.toNat s = true then GLD_ERR_RETRY_EXHAUSTED else GLD_ERR_TARGET_DEAD) t = true

/-- Operations issued, and the answers to them. The tag taken is the model's choice (log 36). -/
def Obligations.Operations : Prop := operationIssue ∧ operationResponses

/-! ### Ports, link sessions and routes (R276 to R282, R291, R310, R419, R420, R440, R457) -/

/-- A port that exists and is trained: in IDENTIFY or a later state. -/
def trainedPort (p : BitVec 3) (s : State) : Prop := portHere s p.toNat = true ∧ pIdentify ≤ portState p.toNat s

/-- Port p went DOWN for a cause: its session ends, GLD_ERR and its counter record it, and a port that was UP floods PORT_DOWN
by every other strait that is UP. -/
def wentDown (p : BitVec 3) (cause : Nat) (s t : State) : Prop :=
  let i := p.toNat
  portState i t = pDown ∧ fld (GLD_PORT_STATUS_CAUSE i) t = cause ∧ linkSession i t = lsNone ∧ port i t = {} ∧
    bit GLD_ERR_PORT_DOWN t = true ∧ counts (GLD_PORT_CNT i 3) 1 s t ∧
    (portState i s = pUp → ∀ q < 6, q ≠ i → portState q s = pUp →
      handed (.portNotice (ownPos s) (fld (GLD_PORT_STATUS_ROLE i) s) false) t)

/-- State and cause of a port that is not UP follow from the conditions of R282. -/
def judged (p : BitVec 3) (s t : State) : Prop :=
  (portState p.toNat s = pIdentify ∨ portState p.toNat s = pHeld) →
    portState p.toNat t = (portVerdict p.toNat t).1 ∧ fld (GLD_PORT_STATUS_CAUSE p.toNat) t = (portVerdict p.toNat t).2

/-- Loss of signal takes a trained port DOWN with LOSS; so does a release of PRSNT. The first failed lane of a link is replaced
by the repair lane and the port retrains, the second takes it DOWN with LANES. 10 ms after DOWN, or on mating, a port that may
train trains, with the lane map of the cairn bank. -/
def portLosses : Prop :=
  ∀ (p : BitVec 3) (s : State), let i := p.toNat
    portHere s i = true → s.boot.retrainQ = [] → channelsIdle s →
    (trainedPort p s → Gives (.signalLoss p) s (wentDown p pcLoss s)) ∧
    (∀ l : BitVec 5, s.boot.on = true → portState i s ≠ pDown → l.toNat ≤ 16 →
      (bit (GLD_PORT_LANES_REPAIRED i) s = true → Gives (.laneRepair p l) s (wentDown p pcLanes s)) ∧
      (bit (GLD_PORT_LANES_REPAIRED i) s = false → bit BRG_RETRAIN_STATUS_PORT_BUSY s = false → mayTrain i s = true →
        Gives (.laneRepair p l) s fun t =>
          portState i t = pTraining ∧ portBusy i t = true ∧
            (wearOf (crnOff (CRN_LANE_MAP i)) s < wearLimit →
              bit (GLD_PORT_LANES_REPAIRED i) t = true ∧ fld (GLD_PORT_LANES_LANE i) t = l.toNat))) ∧
    (mayTrain i s = true → portState i s = pDown → Gives (.retrainInterval p) s fun t =>
      portState i t = pTraining ∧ bit (GLD_PORT_LANES_REPAIRED i) t = bit (CRN_LANE_MAP_REPAIRED i) s ∧
        fld (GLD_PORT_LANES_LANE i) t = fld (CRN_LANE_MAP_LANE i) s ∧ RegsOnly [GLD_PORT_STATUS i, GLD_PORT_LANES i] s t) ∧
    (Gives (.prsntMate p) s fun t =>
      t.pins.mated.getLsbD i = true ∧ (∀ j < 7, j ≠ i → t.pins.mated.getLsbD j = s.pins.mated.getLsbD j) ∧
        (stLinkTrain ≤ stage s → s.boot.on = true → bit GLD_CTRL_EN s = true → portState i s = pDown →
          portState i t = pTraining) ∧ RegsOnly [GLD_PORT_STATUS i, GLD_PORT_LANES i] { s with pins := t.pins } t) ∧
    Gives (.prsntRelease p) s fun t =>
      t.pins.mated.getLsbD i = false ∧ (s.boot.on = true → portState i s ≠ pDown → wentDown p pcLoss s t) ∧
        (portState i s = pDown → (s.boot.on = true → fld (GLD_PORT_STATUS_CAUSE i) t = pcLoss) ∧ portState i t = pDown ∧
          RegsOnly [GLD_PORT_STATUS i] { s with pins := t.pins } t)

/-- A training that succeeds leads to IDENTIFY and an ID frame, one that fails to DOWN with RETRAIN_FAIL and, in a bring-up, to
BRG_ERR.TRAIN and default settings; a retrain returns to the state its conditions give, or goes DOWN. -/
def portTraining : Prop :=
  ∀ (p : BitVec 3) (s : State), let i := p.toNat
    portHere s i = true → s.boot.retrainQ = [] → channelsIdle s →
    (portState i s = pTraining → (port i s).retraining = false →
      (∀ how : TrainEnd, how.ok = true → stLinkTrain ≤ stage s → i ∈ s.boot.trained → Gives (.portTrainingDone p how) s fun t =>
        portState i t = pIdentify ∧ handed (.id i (idOf i s)) t ∧ i ∉ t.boot.useDefaults ∧
          RegsOnly [GLD_PORT_STATUS i] { s with boot := t.boot, gld := t.gld } t) ∧
      (∀ how : TrainEnd, how.ok = false → Gives (.portTrainingDone p how) s fun t =>
        wentDown p pcRetrainFail s t ∧ i ∈ t.boot.useDefaults ∧ (stage s < stReady ∨ stage s = stWarm → bit BRG_ERR_TRAIN t = true))) ∧
    (portBusy i s = true →
      ((port i s).linked = false → Gives (.portRetrainDone p true) s fun t =>
        portState i t = (portVerdict i t).1 ∧ bit BRG_RETRAIN_STATUS_PORT_BUSY t = false ∧
          linkSession i t = linkSession i s) ∧
      Gives (.portRetrainDone p false) s fun t =>
        wentDown p pcRetrainFail s t ∧ i ∈ t.boot.useDefaults ∧ bit BRG_RETRAIN_STATUS_PORT_BUSY t = false)

/-- How a port leaves and reaches its states. -/
def Obligations.Ports : Prop := portLosses ∧ portTraining

/-- Codewords: a good one in sequence is acknowledged, frees the codewords it acknowledges and advances the expected number;
one with NAK has the codewords from its SEQ on sent again; a bad one, or one with more than 15 symbol errors, is answered NAK and
starts the discard state, and counts as a failure when it is the one expected; an idle one leaves the number; a tag failure takes
the link DOWN. -/
def codewordCommands : Prop :=
  ∀ (p : BitVec 3) (q a : BitVec 9) (corrected : Nat) (s : State), let i := p.toNat; let x := port i s
    trainedPort p s → s.boot.retrainQ = [] → channelsIdle s →
    (q.toNat = x.rxNext → corrected ≤ 15 →
      (Gives (.codewordReceive p q a false false corrected true false) s fun t =>
        (port i t).rxNext = (q.toNat + 1) % 512 ∧ (port i t).discarding = false ∧ (port i t).rxFails = 0 ∧
          .linkAck i q.toNat false ∈ t.sent ∧
          (x.queue = [] → (port i t).replay = x.replay.filter fun w => seqAhead w.seq a.toNat) ∧
          (corrected ≠ 0 → counts (GLD_PORT_CNT i 0) 1 s t) ∧ RegsOnly [GLD_PORT_CNT i 0] { s with gld := t.gld } t) ∧
      Gives (.codewordReceive p q a false false corrected true true) s fun t =>
        wentDown p pcLoss s t ∧ bit SEC_ERR_LINK_AUTH t = true) ∧
    (∀ nak idle tag good, good = false ∨ 15 < corrected →
      let n := if idle = false ∧ q.toNat = x.rxNext then x.rxFails + 1 else x.rxFails
      n < fld GLD_TIMEOUT_LINK_RETRY s → Gives (.codewordReceive p q a nak idle corrected good tag) s fun t =>
        port i t = { x with discarding := true, rxFails := n } ∧ .linkAck i x.rxNext true ∈ t.sent ∧
          RegsOnly [] { s with gld := t.gld } t) ∧
    (corrected ≤ 15 → Gives (.codewordReceive p q a false true corrected true false) s fun t =>
      (port i t).rxNext = x.rxNext ∧ RegsOnly [GLD_PORT_CNT i 0] { s with gld := t.gld } t) ∧
    let left := x.replay.filter fun w => w.seq == a.toNat || seqAhead w.seq a.toNat
    (if left.length < x.replay.length then 1 else x.fails + 1) < fld GLD_TIMEOUT_LINK_RETRY s →
      Gives (.codewordReceive p q a true true 0 true false) s fun t =>
        .replay i (left.map (·.seq)) ∈ t.sent ∧ counts (GLD_PORT_CNT i 1) 1 s t ∧
          RegsOnly [GLD_PORT_CNT i 1] { s with gld := t.gld } t

/-- ID frames name the peer and decide the port's state; a link session opened with another identity ends. Of a strait's two
ends the one with the lower identity starts the handshake; each frame is answered by the next, and the last ends it SECURE, or AUTH_FAIL
where the peer's chain does not end at the fused root, or MATCH_FAIL where SEC_CTRL.PEER_MATCH asks for equal measurements; a key update counts, and a failed one
takes the link DOWN. -/
def linkFrames : Prop :=
  ∀ (p : BitVec 3) (s : State), let i := p.toNat
    trainedPort p s → channelsIdle s →
    (∀ f : IdFrame, Gives (.idFrame p f) s fun t =>
      rd (GLD_PORT_PEER i) t = f.identity ∧ fld (GLD_PORT_PEER_INFO_NODE i) t = f.node.toNat ∧
        fld (GLD_PORT_PEER_INFO_ROLE i) t = f.role.toNat ∧ (port i t).peer = some f ∧ judged p s t ∧
        (portState i s = pUp → (portVerdict i t).1 ≠ pUp → portState i t = pIdentify) ∧
        (∀ w, (port i s).sessionPeer = some w → w ≠ f.identity → linkSession i t =
          if i < 6 ∧ f.kind = 0 ∧ s.fuse.identity.toNat < f.identity.toNat then lsHandshake else lsNone)) ∧
    (i < 6 → linkSession i s < lsSecure →
      (∀ c m, Gives (.linkSpdmFrame p false c m) s fun t =>
        linkSession i t = lsHandshake ∧ (∃ r, handed (.spdm i r) t) ∧ RegsOnly [SEC_LINK i] { s with gld := t.gld } t) ∧
      (∀ c m, chainOk c s = false → Gives (.linkSpdmFrame p true c m) s fun t =>
        linkSession i t = lsAuthFail ∧ bit SEC_ERR_LINK_AUTH t = true ∧ RegsOnly [SEC_LINK i, SEC_ERR] s t) ∧
      (∀ c m, chainOk c s = true → bit SEC_CTRL_PEER_MATCH s = true → measOk m s = false →
        Gives (.linkSpdmFrame p true c m) s fun t =>
          linkSession i t = lsMatchFail ∧ bit SEC_ERR_LINK_AUTH t = true ∧ RegsOnly [SEC_LINK i, SEC_ERR] s t) ∧
      (∀ c m, chainOk c s = true → (bit SEC_CTRL_PEER_MATCH s = false ∨ measOk m s = true) →
        Gives (.linkSpdmFrame p true c m) s fun t =>
          linkSession i t = lsSecure ∧ counts (SEC_CNT 4) 1 s t ∧ judged p s t)) ∧
    (i < 6 → linkSession i s = lsSecure → s.boot.retrainQ = [] →
      (Gives (.linkKeyUpdate p true) s fun t =>
        counts (SEC_CNT 5) 1 s t ∧ linkSession i t = lsSecure ∧ RegsOnly [SEC_LINK i, SEC_CNT 5] s t) ∧
      Gives (.linkKeyUpdate p false) s fun t => wentDown p pcLoss s t ∧ bit SEC_ERR_LINK_AUTH t = true)

/-- Codewords, ID frames and link sessions. -/
def Obligations.LinkLayer : Prop := codewordCommands ∧ linkFrames

/-- PORT_DOWN and PORT_UP notices enter the route state, which GLD_REACH shows, and one that is news goes on by every
strait that is UP; operations to nodes that became unreachable end. A window that has drained is withdrawn. The
content of notices rests on log 45. -/
def Obligations.RouteState : Prop :=
  (∀ (pos : BitVec 7) (dir : BitVec 3) (s : State), s.boot.on = true → dir.toNat < 6 → channelsIdle s →
    (Gives (.portDownNotice pos dir) s fun t => (pos.toNat, dir.toNat) ∈ t.gld.downLinks ∧
      ((pos.toNat, dir.toNat) ∉ s.gld.downLinks → ∀ q < 6, portState q s = pUp →
        handed (.portNotice pos.toNat dir.toNat false) t) ∧
      (∀ k < 2, rd (GLD_REACH k) t = BitVec.ofNat 64 (reachWord k t)) ∧
      (s.gld.ops = [] → RegsOnly [GLD_REACH 0, GLD_REACH 1, GLD_CNT 6, BT_STATUS] { s with gld := t.gld } t)) ∧
    Gives (.portUp pos dir) s fun t => (pos.toNat, dir.toNat) ∉ t.gld.downLinks ∧
      ((pos.toNat, dir.toNat) ∈ s.gld.downLinks → ∀ q < 6, portState q s = pUp →
        handed (.portNotice pos.toNat dir.toNat true) t) ∧
      (∀ k < 2, rd (GLD_REACH k) t = BitVec.ofNat 64 (reachWord k t)) ∧
      (s.gld.ops = [] → RegsOnly [GLD_REACH 0, GLD_REACH 1, GLD_CNT 6, BT_STATUS] { s with gld := t.gld } t)) ∧
  ∀ (w : BitVec 12) (s : State), w.toNat ∈ s.gld.draining → Gives (.windowDrainDone w) s fun t =>
    bit (GLD_WIN_CFG_VALID w.toNat) t = false ∧ w.toNat ∉ t.gld.draining ∧ (∀ l ∈ t.gld.landings, l.window ≠ w.toNat) ∧
      RegsOnly [GLD_WIN_CFG w.toNat] { s with gld := t.gld } t

/-! ### Package memory (R129, R130, R134, R142 to R150, R379, R440) -/

/-- A write of MEM_SWAP_CTRL with START: discarded while BUSY; the first pair that fails a check ends the list with its code
before anything is copied; a list whose pairs all pass waits for leave. -/
def swapListStartRule : Prop :=
  ∀ (v : W32) (s : State), Answers MEM_SWAP_CTRL s → v.getLsbD 0 = true → (written MEM_SWAP_CTRL (v.setWidth 64) s).2 = false →
    let ps := swapPairs (wr MEM_SWAP_CTRL (written MEM_SWAP_CTRL (v.setWidth 64) s).1 s)
    (bit MEM_SWAP_STATUS_BUSY s = true → Gives (.swapListStart v) s fun t => RegsOnly [MEM_SWAP_CTRL] s t) ∧
    (bit MEM_SWAP_STATUS_BUSY s = false →
      (∀ i < ps.length, swapCheck (ps.getD i (0, 0)) s ≠ 0 → (∀ j < i, swapCheck (ps.getD j (0, 0)) s = 0) →
        Gives (.swapListStart v) s fun t =>
          fld MEM_SWAP_STATUS_CODE t = swapCheck (ps.getD i (0, 0)) s ∧ fld MEM_SWAP_STATUS_PAIR t = i % 32 ∧
            bit MEM_SWAP_STATUS_BUSY t = false ∧ bit TOP_IRQ_STATUS_MEM_SWAP t = true ∧ t.swap.active = false ∧
            RegsOnly [MEM_SWAP_CTRL, MEM_SWAP_STATUS, TOP_IRQ_STATUS] { s with swap := t.swap, pwr := t.pwr } t) ∧
      (ps ≠ [] → (∀ p ∈ ps, swapCheck p s = 0) → holdsLeave .swap s = false → waitsLeave .swap s = false →
        Gives (.swapListStart v) s fun t =>
          t.swap.active = true ∧ t.swap.pairs = ps ∧ t.swap.next = 0 ∧ t.swap.copying = false ∧
            bit MEM_SWAP_STATUS_BUSY t = true ∧ bit MEM_SWAP_STATUS_LEAVE_WAIT t = true ∧ waitsLeave .swap t = true ∧
            RegsOnly [MEM_SWAP_CTRL, MEM_SWAP_STATUS, PWR_LEAVE] { s with swap := t.swap, pwr := t.pwr } t))

/-- What the checks of a pair are: HOME source and WEIGHT destination, no binding on the destination, equal sizes. A copied pair
leaves the source's bytes in the destination, names its home and seals it; the last pair ends the list with OK, a failing source
or a failing unit with its code. -/
def swapCopy : Prop :=
  (∀ (a b : Nat) (s : State), swapCheck (a, b) s =
    if ¬((region a s).valid = true ∧ (region a s).kind = kHome ∧ (region b s).valid = true ∧ (region b s).kind = kWeight) then 3
    else if (region b s).binds ≠ 0 then 1 else if (region a s).size ≠ (region b s).size then 2 else 0) ∧
  ∀ (src dst : Nat) (s : State), Canon s → src < 256 → dst < 256 → s.swap.active = true → s.swap.copying = true →
    leaveActive .swap s = true → s.swap.pairs[s.swap.next]? = some (src, dst) →
    retraining (region src s).base s = false → retraining (region dst s).base s = false →
    let g := region src s; let h := region dst s; let last := s.swap.pairs.length ≤ s.swap.next + 1
    (firstBad g.base g.size s = none → Gives (.swapPairCopied .ok) s fun t =>
      (∀ i, rdByte i t = if h.base ≤ i ∧ i < h.base + g.size then rdByte (g.base + (i - h.base)) s else rdByte i s) ∧
        fld (MEM_RGN_CFG_HOME dst) t = src ∧ bit (MEM_RGN_CFG_SEALED dst) t = true ∧
        find? t.digests dst = some (digestRange h.base h.size t) ∧
        (last → t.swap.active = false ∧ bit MEM_SWAP_STATUS_BUSY t = false ∧ fld MEM_SWAP_STATUS_CODE t = 0 ∧
          bit TOP_IRQ_STATUS_MEM_SWAP t = true) ∧
        (¬last → t.swap = { s.swap with next := s.swap.next + 1 })) ∧
    ((memUnit g.base).isSome → 0 < g.size → Gives (.swapPairCopied .sourceUe) s fun t => t.swap.active = false ∧ fld MEM_SWAP_STATUS_CODE t = 5 ∧
      bit (MEM_RGN_CFG_SEALED dst) t = bit (MEM_RGN_CFG_SEALED dst) s) ∧
    Gives (.swapPairCopied .failed) s fun t => t.swap.active = false ∧ fld MEM_SWAP_STATUS_CODE t = 6 ∧ SameMem s t

/-- Variant swaps: the checks of a list, and its copies. A failing source that the command does not name is placed by
log 28. -/
def Obligations.SwapLists : Prop := swapListStartRule ∧ swapCopy

/-- The scrub counts corrected errors and moves on, through the WEIGHT regions of its unit first; an uncorrectable error, or a
stored CRC that does not match, poisons its staple, counts and sets MEM_ERR. A poisoned staple of a WEIGHT region with a valid home
is restored from a sound home staple; with a bad one it stays poisoned and RESTORE_FAIL is set. -/
def scrubAndRestore : Prop :=
  (∀ (a : BitVec 48) (n u : Nat) (ue : Bool) (s : State), memUnit a.toNat = some u → s.boot.on = true →
    (if (atollAt a.toNat).isSome then bit MEM_CTRL_ATOLL_SCRUB s else bit MEM_CTRL_SHOAL_SCRUB s) = true →
    bit PWR_HAVEN_ACTIVE s = false → unitUp a.toNat s = true → retraining a.toNat s = false →
    a.toNat / 4096 * 4096 = scrubAt (scrubUnit a.toNat) s →
    let v := scrubUnit a.toNat
    let m := metaAt a.toNat s
    let bad : Bool := ue || (m.crcBad && !m.poison)
    Gives (.scrubStaple a n ue) s fun t => counts (MEM_CNT_CE u) n s t ∧ rest t = rest { s with scrubPos := t.scrubPos } ∧
      lookup t.scrubPos {} v =
        scrubNext v (a.toNat / 4096 * 4096 - scrubBase v) (lookup s.scrubPos {} v) (bump64 (MEM_CNT_CE u) n s) ∧
      (bad = false → RegsOnly [MEM_CNT_CE u] { s with scrubPos := t.scrubPos } t) ∧
      (bad = true → counts (MEM_CNT_UE u) 1 s t ∧
        (metaAt a.toNat t).poison = true ∧ bit (if u < 8 then MEM_ERR_ATOLL_UE else MEM_ERR_SHOAL_UE) t = true ∧
        (∀ b, rdByte b t = rdByte b s) ∧ (∀ b, stapleOf b ≠ stapleOf a.toNat → metaAt b t = metaAt b s) ∧
        SameRegs [MEM_CNT_CE u, MEM_CNT_UE u, MEM_ERR, MEM_ERR_ADDR] s t)) ∧
  ∀ (addr : BitVec 48) (homeOk : Bool) (r : Nat) (s : State), Canon s →
    let a := addr.toNat / 4096 * 4096; let g := region r s; let h := region g.home s; let src := h.base + (a - g.base)
    (metaAt a s).poison = true → retraining a s = false → regionAt a s = some r → g.kind = kWeight → h.valid = true → h.kind = kHome →
    a - g.base < h.size →
    (homeOk = true → stapleOk src s = true → Gives (.stapleRestore addr homeOk) s fun t =>
      metaAt a t = {} ∧ (∀ i, rdByte i t = if a ≤ i ∧ i < a + 4096 then rdByte (src + (i - a)) s else rdByte i s) ∧
        counts MEM_CNT_RESTORE 1 s t ∧ SameRegs [MEM_CNT_RESTORE] s t) ∧
    (stapleOk src s = false → homeOk = true → Gives (.stapleRestore addr homeOk) s fun t =>
      metaAt a t = { metaAt a s with restoring := false } ∧ bit MEM_ERR_RESTORE_FAIL t = true ∧ (∀ b, rdByte b t = rdByte b s) ∧
        (∀ b, stapleOf b ≠ stapleOf a → metaAt b t = metaAt b s) ∧ SameRegs [MEM_ERR, MEM_ERR_ADDR] s t ∧ rest t = rest s)

/-- A digest pass covers the sealed WEIGHT regions; a region that matches counts the pass, one that does not loses SEALED, is
recorded, and faults the contexts bound to it; a buddy's digest that differs is recorded as DIGEST_PEER. -/
def digestPasses : Prop :=
  (∀ s : State, s.boot.on = true → s.digestPass.active = false → bit MEM_CTRL_ATOLL_SCRUB s = true →
    bit PWR_HAVEN_ACTIVE s = false → Gives .digestPassStart s fun t =>
      t.digestPass.active = true ∧ t.digestPass.covered = sealedWeights s ∧ RegsOnly [] { s with digestPass := t.digestPass } t) ∧
  (∀ (r : Nat) (d : BitVec 384) (s : State), s.digestPass.active = true → s.digestPass.covered = [r] → r < 256 →
    find? s.digests r = some d → let g := region r s
    g.valid = true → g.kind = kWeight → g.sealedBit = true → Gives .digestPassEnd s fun t =>
      t.digestPass.active = false ∧ fld (INT_DIGEST_STAT_PASSES r) t = (fld (INT_DIGEST_STAT_PASSES r) s + 1) % 65536 ∧
        (digestRange g.base g.size s = d → fld (INT_DIGEST_STAT_RESULT r) t = 1 ∧
          RegsOnly [INT_DIGEST_STAT r] { s with digestPass := t.digestPass } t) ∧
        (digestRange g.base g.size s ≠ d → fld (INT_DIGEST_STAT_RESULT r) t = 2 ∧ bit (MEM_RGN_CFG_SEALED r) t = false ∧
          bit INT_ERR_DIGEST t = true ∧ ∀ b ∈ boundTo r s, ctxLive b.1 s = true → ctxState b.1 t = cxFaulted)) ∧
  ∀ (c : BitVec 6) (w : BitVec 5) (r : Nat) (own : BitVec 384) (d : PassDigest) (s : State),
    find? (ctx c.toNat s).bound w.toNat = some r → r < 256 → find? s.digests r = some own →
    (d.d = own → Gives (.passDigestReceive c w d) s fun t => RegsOnly [] s t) ∧
    (d.d ≠ own → Gives (.passDigestReceive c w d) s fun t =>
      fld (INT_DIGEST_STAT_RESULT r) t = 3 ∧ bit INT_ERR_DIGEST_PEER t = true ∧ .mctp (.digestPeer r) ∈ t.sent ∧ SameMem s t ∧
        (d.answer = false → .passDigest d.src.toNat d.srcCtx.toNat c.toNat w.toNat own true ∈ t.sent))

/-- Scrubbing, restores and digest passes. SHA-384 is an uninterpreted function (log 3). -/
def Obligations.MemoryHealth : Prop := scrubAndRestore ∧ digestPasses

/-- A failed atoll reads FAILED, its regions become invalid and the contexts bound to them fault; a failed shoal module loses
its HOME and SPILL regions, the contexts whose spill area lies there fault, and WEIGHT regions stay. An atoll retrain runs alone; a failed one is retried once, and fails the atoll the second time. -/
def Obligations.AtollsAndModules : Prop :=
  (∀ (a : BitVec 3) (s : State), s.boot.on = true → atollHere s a.toNat = true → atollFailed a.toNat s = false →
    Gives (.atollFailure a) s fun t => atollFailed a.toNat t = true ∧ bit MEM_ERR_ATOLL_FAIL t = true ∧
      (∀ r < 256, atollAt (region r s).base = some a.toNat → (region r t).valid = false) ∧
      ∀ c < 64, ctxLive c s = true → (∃ b ∈ (ctx c s).bound, b.2 < 256 ∧ (region b.2 s).valid = true ∧
        atollAt (region b.2 s).base = some a.toNat) → ctxState c t = cxFaulted) ∧
  (∀ (m : BitVec 2) (s : State), s.boot.on = true → shoalFailed m.toNat s = false →
    Gives (.shoalFailure m) s fun t => shoalFailed m.toNat t = true ∧ bit MEM_ERR_SHOAL_FAIL t = true ∧
      (∀ r < 256, shoalAt (region r s).base = some m.toNat → (region r s).kind = kHome ∨ (region r s).kind = kSpill →
        (region r t).valid = false) ∧
      (∀ r < 256, (region r s).kind = kWeight → (region r t).valid = (region r s).valid ∧ (region r t).home = (region r s).home) ∧
      ∀ c < 64, ctxLive c s = true → (∃ r ∈ (ctx c s).spills, r < 256 ∧ (region r s).valid = true ∧
        shoalAt (region r s).base = some m.toNat) → ctxState c t = cxFaulted) ∧
  (∀ (a : BitVec 3) (s : State), s.boot.on = true → atollHere s a.toNat = true → atollFailed a.toNat s = false →
    s.boot.retrainQ = [] → bit PWR_HAVEN_ACTIVE s = false → bit BRG_RETRAIN_STATUS_ATOLL_BUSY s = false →
    Gives (.atollRetrain a) s fun t => bit BRG_RETRAIN_STATUS_ATOLL_BUSY t = true ∧
      fld BRG_RETRAIN_STATUS_ATOLL t = a.toNat ∧ fld (atollFld a.toNat) t = 1 ∧ counts (BRG_CNT 1) 1 s t ∧
      RegsOnly [BRG_RETRAIN_STATUS, MEM_STATUS, BRG_CNT 1] { s with boot := t.boot } t) ∧
  ∀ s : State, bit BRG_RETRAIN_STATUS_ATOLL_BUSY s = true → s.boot.retrainQ = [] → s.reefHeld = [] →
    let a := fld BRG_RETRAIN_STATUS_ATOLL s
    (Gives (.atollRetrainDone true) s fun t => bit BRG_RETRAIN_STATUS_ATOLL_BUSY t = false ∧ fld (atollFld a) t = 0 ∧
      (∀ c, { ctx c t with commitWait := [] } = { ctx c s with commitWait := [] }) ∧
      RegsOnly [BRG_RETRAIN_STATUS, MEM_STATUS] { s with ctxs := t.ctxs } t) ∧
    (s.boot.atollRetry = false → Gives (.atollRetrainDone false) s fun t =>
      t.boot.atollRetry = true ∧ bit BRG_RETRAIN_STATUS_ATOLL_BUSY t = true ∧ RegsOnly [] { s with boot := t.boot } t) ∧
    (s.boot.atollRetry = true → s.boot.on = true → atollHere s a = true → Gives (.atollRetrainDone false) s fun t =>
      bit BRG_RETRAIN_STATUS_ATOLL_BUSY t = false ∧ atollFailed a t = true)

/-! ### Ferry (R334 to R346) -/

/-- Channel n is the only one that is not IDLE, and no operation of a unit waits for room. -/
def onlyChannel (n : Nat) (s : State) : Prop := (∀ x ∈ s.chans, x.2.state ≠ .idle → x = (n, chan n s)) ∧ s.gld.waiting = []

/-- A channel counts one more transfer, modulo 2^32. -/
def doneOnce (n : Nat) (s t : State) : Prop := fld (FRY_CH_DONE_COUNT n) t = (fld (FRY_CH_DONE_COUNT n) s + 1) % 2 ^ 32

/-- What every completed transfer does: DONE and the counter count it, the entry that asked for it in this step is complete, and a driver's
channel with nothing pending is IDLE. -/
def transferCounted (n : Nat) (d : FryDesc) (s t : State) : Prop :=
  doneOnce n s t ∧ counts (FRY_CNT 0) 1 s t ∧
    (∀ e, d.src = .entry e → d.step = (rd (WV_STEP e.ctx.toNat) s).toNat → (dispAt e s).isSome → (dispAt e t).map (·.st) = some .done) ∧
    (ownerCtx n s = none → (chan n s).shadow = none → (chan n t).state = .idle)

/-- A running transfer that nothing holds up: its context is in, its memory serves, no run of it is in place, and no other
channel or shadow stirs. -/
def transferRuns (n : Nat) (d : FryDesc) (s : State) : Prop :=
  (chan n s).state = .running ∧ (chan n s).active = some d ∧ (∀ i, d.src ≠ .prefetch i) ∧
    (∀ e, (chan n s).shadow = some e → emptyXfer e = false ∧ isRemote e = false) ∧ onlyChannel n s ∧ noWindows s ∧
    chanOut n s = false ∧ fArrive d = false ∧ driverBarred d s = false ∧ emptyXfer d = false

/-- A transfer of one run ends. Within the package and to or from the host its bytes are in the package or in host memory; a
REMOTE one ends when its operations have completed, and the data of its GET lands as it comes. -/
def Obligations.FerryTransfer : Prop :=
  (∀ (ch : BitVec 6) (ext : List Byte) (ns : Nat) (env : UnitEnv) (s : State) (d : FryDesc) (r : Run), let n := ch.toNat; let len := fRun d
    transferRuns n d s → (chan n s).next = 0 → runsOf d = [r] → len ≠ 0 → overlaps d [r] = false → hostAllowed s = true → env.memUe = [] →
    isRemote d = false → xferWaits n d s = false →
    (spaceOf (fSrc d) = 0 → ferryMay n false r.src len s = true ∧ failParts r.src.toNat len env.badStaples s = []) →
    (spaceOf (fDst d) = 0 → ferryMay n true r.dst len s = true) → (spaceOf (fSrc d) ≠ 0 → ext.length = len) →
    Gives (.transferComplete ch ext ns env) s fun t =>
      let bs := if spaceOf (fSrc d) = 0 then rdBytes r.src.toNat len s else ext
      (spaceOf (fDst d) = 0 → landed r.dst.toNat bs s t) ∧
        (spaceOf (fDst d) ≠ 0 → SameMem s t ∧ .hostWrite 0 r.dst.toNat bs ∈ t.sent) ∧
        counts (FRY_CNT 1) len s t ∧ counts (FRY_CNT 2) len s t ∧ transferCounted n d s t) ∧
  (∀ (ch : BitVec 6) (ext : List Byte) (ns : Nat) (env : UnitEnv) (s : State) (d : FryDesc), let n := ch.toNat
    transferRuns n d s → isRemote d = true → hostBarred d s = false → xferWaits n d s = false → env.memUe = [] →
    (remoteDone n d s = true → Gives (.transferComplete ch ext ns env) s fun t => SameMem s t ∧ transferCounted n d s t) ∧
    (remoteDone n d s = false → (chan n s).redo = [] → pieceCount d ≤ (chan n s).next →
      Gives (.transferComplete ch ext ns env) s fun t => RegsOnly [] s t)) ∧
  ∀ (rp : RespPacket) (o : FabOp) (n i : Nat) (d : FryDesc) (s : State), let tag := rp.tag.toNat; let r := (pieceOf d i).1
    s.boot.on = true → nodeValid s = true → rp.dest.toNat = myNode s → respOk rp = true → op? tag s = some o →
    rp.opcode.toNat = ocData → o.hdr.opcode.toNat = ocGet → rp.src = o.hdr.dest → rp.status.toNat = stOk → o.got = [] →
    opOffs o.hdr = [rp.pktOff.toNat] → noLeave tag s → s.gld.stalled = [] → o.owner = .ferry n i → transferRuns n d s →
    (chan n s).redo = [] → pieceCount d ≤ (chan n s).next → spaceOf (fDst d) = 0 → overlaps d (runsOf d) = false → 0 ≤ r.dst →
    Gives (.data rp) s fun t => landed r.dst.toNat rp.data s t ∧ op? tag t = none ∧ counts (FRY_CNT 1) (fRun d) s t ∧
      counts (FRY_CNT 2) (fRun d) s t ∧ chan n t = chan n s

/-- The conditions under which channel n reads or writes memory for one run of a REMOTE descriptor and its operation may
leave (R340). -/
def remoteReady (n : Nat) (d : FryDesc) (r : Run) (s : State) : Prop :=
  let dest := (if spaceOf (fDst d) = 1 then fDst d else fSrc d) / 2 ^ 52 % 1024
  isRemote d = true ∧ runsOf d = [r] ∧ 0 < fRun d ∧ fRun d ≤ 4096 ∧ overlaps d [r] = false ∧ s.gld.ops.length < 4096 ∧
    chanOut n s = false ∧ hostBarred d s = false ∧ bufRoom n s = true ∧ driverBarred d s = false ∧
    reachable dest s = true ∧ sameDomain dest s = true ∧ (dest = myNode s ∨ routable dest s) ∧
    (spaceOf (fDst d) = 1 → ferryMay n false r.src (fRun d) s = true ∧ failParts r.src.toNat (fRun d) [] s = [] ∧
      rangeWaits false r.src (fRun d) s = false) ∧
    (spaceOf (fDst d) = 0 → ferryMay n true r.dst (fRun d) s = true)

/-- A REMOTE transfer of one run has issued its operation: a PUT with the bytes of the run, or a GET, in TC3, outstanding for
the channel. -/
def remoteIssued (n : Nat) (d : FryDesc) (r : Run) (s t : State) : Prop :=
  let put := spaceOf (fDst d) = 1
  ∃ p tag o, handed (.packet p) t ∧ op? tag t = some o ∧ o.owner = .ferry n 0 ∧ p.hdr.tag.toNat = tag ∧ p.hdr.tc = 3 ∧
    p.hdr.opcode.toNat = (if put then ocPut else ocGet) ∧ p.hdr.length.toNat = fRun d ∧
    p.hdr.offset.toNat = ((if put then r.dst else r.src) % 2 ^ 40).toNat ∧
    p.payload = (if put then rdBytes r.src.toNat (fRun d) s else []) ∧ counts (GLD_CNT 0) 1 s t

/-- A FERRY entry enters its channel's free shadow set and moves on into the active set: it runs at once without a trigger and
is ARMED with one; a REMOTE transfer that runs issues its operation; a skipped entry completes without a transfer. -/
def ferryEntries : Prop :=
  ∀ (e : EntryRef) (d : Disp) (n : Nat) (s : State), let fd : FryDesc := { words := d.words, src := .entry e, step := (rd (WV_STEP e.ctx.toNat) s).toNat }
    ready e kFerry s = some d → n < 64 →
    chanAt e.ctx.toNat ((d.words.getD 1 0).toNat / 2 ^ 26) s = some n → channelsIdle s → (chan n s).shadow = none →
    (chan n s).state = .idle →
    ((d.words.getD 0 0).getLsbD 27 = false → emptyXfer fd = false →
      (fTrigger fd = 0 → isRemote fd = false → chanOut n s = false → Gives (.ferryEntry e) s fun t =>
        (chan n t).state = .running ∧ (chan n t).active = some fd ∧ (chan n t).shadow = none ∧
          (dispAt e t).map (·.st) = some .committing ∧
          RegsOnly [FRY_CH_POS n, FRY_CH_POS2 n] { s with chans := t.chans, ctxs := t.ctxs } t) ∧
      (∀ r, fTrigger fd = 0 → remoteReady n fd r s → Gives (.ferryEntry e) s fun t =>
        (chan n t).state = .running ∧ (chan n t).active = some fd ∧ remoteIssued n fd r s t ∧
          (dispAt e t).map (·.st) = some .committing) ∧
      (fTrigger fd ≠ 0 → (timerLate n fd s).1 = false → Gives (.ferryEntry e) s fun t =>
        (chan n t).state = .armed ∧ (dispAt e t).map (·.st) = some .committing ∧
          RegsOnly [] { s with chans := t.chans, ctxs := t.ctxs, free := t.free } t)) ∧
    ((d.words.getD 0 0).getLsbD 27 = true → fArrive fd = false → Gives (.ferryEntry e) s fun t =>
      (dispAt e t).map (·.st) = some .done ∧ doneOnce n s t ∧ counts (FRY_CNT 0) 1 s t ∧ t.chans = s.chans ∧
        RegsOnly [FRY_CH_DONE n, FRY_CNT 0] { s with ctxs := t.ctxs } t)

/-- FRY_CH_CMD: LOAD starts a driver channel's descriptor or records why not; RESUME lets a halted channel run on, or counts the
failed access again; ABORT stops a driver channel and returns an aborted one to IDLE, and faults the context of a halted one. A
TIMER trigger starts an armed channel. A bus error is retried and counted, and once the retries are spent it halts the running
channel at its position. -/
def ferryCommands : Prop :=
  ∀ (ch : BitVec 6) (v : W32) (s : State), let n := ch.toNat; let fd := shadowDesc n s; let x := chan n s
    Answers (FRY_CH_CMD n) s →
    (isDriver n s = true → x.owner = none → v.getLsbD 0 = true → v.getLsbD 1 = false → v.getLsbD 2 = false → channelsIdle s →
      (x.shadow = none → descOk true fd = true → driverOk fd s = true → fTrigger fd = 0 → emptyXfer fd = false → x.state = .idle →
        (isRemote fd = false → Gives (.load ch v) s fun t => (chan n t).state = .running ∧ (chan n t).active = some fd ∧
          RegsOnly [FRY_CH_POS n, FRY_CH_POS2 n] { s with chans := t.chans } t) ∧
        ∀ r, remoteReady n fd r s → Gives (.load ch v) s fun t =>
          (chan n t).state = .running ∧ (chan n t).active = some fd ∧ remoteIssued n fd r s t) ∧
      (x.shadow ≠ none → Gives (.load ch v) s fun t => bit FRY_ERR_SHADOW_BUSY t = true ∧ t.chans = s.chans ∧ SameMem s t) ∧
      (x.shadow = none → ¬(descOk true fd = true ∧ driverOk fd s = true) → Gives (.load ch v) s fun t =>
        bit FRY_ERR_ADDR t = true ∧ t.chans = s.chans ∧ SameMem s t)) ∧
    (x.state = .halted → v.getLsbD 0 = false → v.getLsbD 1 = true → v.getLsbD 2 = false → onlyChannel n s →
      (∀ d, x.active = some d → emptyXfer d = false ∧ (isRemote d = false ∨ (x.redo = [] ∧ pieceCount d ≤ x.next))) →
      (Gives (.resume ch v true) s fun t => chan n t = { x with state := .running, tries := none } ∧ counts (FRY_CNT 3) 1 s t ∧
        RegsOnly [FRY_CNT 3] { s with chans := t.chans } t) ∧
      Gives (.resume ch v false) s fun t => chan n t = x ∧ bit FRY_ERR_BUS_HALT t = true ∧ counts (FRY_CNT 4) 1 s t ∧
        counts (FRY_CNT 3) (1 + fld (FRY_CH_CFG_RETRY n) s) s t) ∧
    (v.getLsbD 0 = false → v.getLsbD 1 = false → v.getLsbD 2 = true → onlyChannel n s →
      (isDriver n s = true → x.owner = none → x.state ≠ .idle → x.state ≠ .aborted → Gives (.abort ch v) s fun t =>
        chan n t = { x with state := .aborted, active := none } ∧ chanOps n t = false ∧
          RegsOnly [] { s with chans := t.chans, gld := t.gld, spns := t.spns } t) ∧
      (isDriver n s = true → x.owner = none → x.state = .aborted → x.shadow = none → Gives (.abort ch v) s fun t =>
        chan n t = { x with state := .idle, active := none } ∧ RegsOnly [] { s with chans := t.chans } t) ∧
      (∀ c i, x.owner = some (c, i) → c < 64 → ctxLive c s = true → x.state = .halted → Gives (.abort ch v) s fun t =>
        (chan n t).state = .aborted ∧ faultedWith c cfFerry t)) ∧
    (∀ d, x.state = .armed → x.active = some d → d.src = .driver → d.words ≠ [] → fTrigger d = 1 → emptyXfer d = false → isRemote d = false →
      x.owner = none → onlyChannel n s → Gives (.timerTrigger ch) s fun t =>
        chan n t = { x with state := .running, next := 0, redo := [], tries := none } ∧
          RegsOnly [FRY_CH_POS n, FRY_CH_POS2 n] { s with chans := t.chans } t) ∧
    ∀ (k0 k1 k2 : Nat) (d : FryDesc), let i := runIndex d k0 k1 k2; let made := (x.tries.map fun p => if p.1 = i then p.2 else 0).getD 0
      x.state = .running → x.active = some d →
      (made < fld (FRY_CH_CFG_RETRY n) s → Gives (.busError ch k0 k1 k2) s fun t =>
        chan n t = { x with tries := some (i, made + 1) } ∧ counts (FRY_CNT 3) 1 s t ∧
          RegsOnly [FRY_CNT 3] { s with chans := t.chans } t) ∧
      (fld (FRY_CH_CFG_RETRY n) s ≤ made → isRemote d = true ∨ i ≤ x.next → Gives (.busError ch k0 k1 k2) s fun t =>
        chan n t = { x with state := .halted } ∧ fld (FRY_CH_POS_K0 n) t = k0 % 2 ^ 24 ∧ fld (FRY_CH_POS_K1 n) t = k1 % 2 ^ 24 ∧
          fld (FRY_CH_POS2_K2 n) t = k2 % 2 ^ 24 ∧ bit FRY_ERR_BUS_HALT t = true ∧ counts (FRY_CNT 4) 1 s t ∧ SameMem s t)

/-- FERRY entries and FRY_CH_CMD. Where the bits of FRY_CH_CMD meet, log 32 orders them. -/
def Obligations.FerryChannels : Prop := ferryEntries ∧ ferryCommands

/-! ### KV pools, directories and pages (R184, R185, R193, R200 to R209) -/

/-- KV_CTRL.BUILD is locked while a context exists; otherwise the configuration takes effect as the registers hold it, and it empties every list and enters every leaf, head granule, page and
bobbin frame in order, and its end sets READY. KV_SHARD_CMD makes a shard directory with its frames reserved, or reports why not
and allocates nothing; a release drops the shard directories of its sequence. -/
def kvBuildAndShards : Prop :=
  (∀ (v : W32) (s : State), Answers KV_CTRL s → v.getLsbD 0 = true → v.getLsbD 1 = false → v.getLsbD 2 = false →
    (anyCtx s = true → Gives (.build v) s fun t => bit KV_ERR_CFG_LOCKED t = true ∧ RegsOnly [KV_ERR] s t) ∧
    (anyCtx s = false → Gives (.build v) s fun t =>
      t.kv.building = true ∧ bit KV_STATUS_READY t = false ∧ bit KV_CTRL_BUILD t = true ∧ t.kv.dirs = [] ∧ t.kv.held = [] ∧
        t.kv.leaves = { next := 0, limit := fld KV_LEAVES_COUNT s } ∧ t.kv.heads = { next := 0, limit := 262144 } ∧
        (∀ o ∈ poolRegs, lookup t.kv.cfg 0 o = rd o s) ∧
        (∀ a < 8, ∀ k < 4, atollHere s a = true → (buildAtoll a t).1 = true → pageStaples k t ≠ 0 →
          pagePool a k t = { next := 0, limit := poolPages a k t } ∧ bobPool a k t = { next := 0, limit := poolBobbins a k t }) ∧
        RegsOnly ([KV_CTRL, KV_STATUS, KV_ERR, KV_ERR_ADDR] ++ (List.range 64).map KV_CTX) { s with kv := t.kv } t)) ∧
  (∀ s : State, s.kv.building = true → Gives .kvBuildComplete s fun t =>
    bit KV_STATUS_READY t = true ∧ bit KV_CTRL_BUILD t = false ∧ bit TOP_IRQ_STATUS_KV_BUILD t = true ∧
      RegsOnly [KV_STATUS, KV_CTRL, TOP_IRQ_STATUS] { s with kv := { s.kv with building := false } } t) ∧
  (∀ (v : W64) (s : State), Answers KV_SHARD_CMD2 s → v.getLsbD 0 = true → let r := shardMake s
    (r.1 = 0 → Gives (.shardCreate v) s fun t => fld KV_SHARD_CMD3_STATUS t = 0 ∧ bit TOP_IRQ_STATUS_KV_SHARD t = true ∧
      let d := dir r.2.1 t
      d.ctx = fld KV_SHARD_CMD0_CONTEXT s ∧ d.firstPage = fld KV_SHARD_CMD0_FIRST_PAGE s ∧ d.pages = fld KV_SHARD_CMD0_PAGES s ∧
        d.shard = fld KV_SHARD_CMD0_SHARD s ∧ d.skein = fld KV_SHARD_CMD1_SKEIN s ∧ d.leaves.length = leavesNeeded d.pages ∧
        d.reserved.map (·.1) = List.range d.pages ∧ SameMem s t) ∧
    (r.1 ≠ 0 → Gives (.shardCreate v) s fun t => fld KV_SHARD_CMD3_STATUS t = r.1 ∧ bit KV_ERR_SHARD t = true ∧
      bit TOP_IRQ_STATUS_KV_SHARD t = true ∧ RegsOnly [KV_SHARD_CMD2, KV_SHARD_CMD3, KV_ERR, TOP_IRQ_STATUS] s t)) ∧
  ∀ (i : BitVec 18) (g : W16) (node : BitVec 10) (s : State), Gives (.shardRelease i g node) s fun t =>
    (∀ h d, find? s.kv.dirs h = some d → d.skein = i.toNat → d.skeinGen = g → d.home = node.toNat → d.shard ≠ d.shards1 →
      (dir h t).dropped = true) ∧ RegsOnly [KV_CNT 4] { s with kv := t.kv } t

/-- A completed flush copies the bobbin's 256 slots to its page, and in one generation adds the page and drops the bobbin; a
carry that lands stands in the new bobbin; prefill pages land in the frame reserved for them or in the bobbin that covers them, or go to the shard that has their
range; a failing directory staple is rewritten from a sound copy, and without one the skein faults. -/
def kvPages : Prop :=
  (∀ (h : BitVec 18) (b : Bobbin) (kd : KvDesc) (s : State), let d := dir h.toNat s
    flushingBob d = some b → (ctx d.ctx s).weave.kv = some kd → d.dropped = false →
    retraining (pageAddr b.atoll d.cls b.page s) s = false → Gives (.flushComplete h) s fun t =>
      let page := pageAddr b.atoll d.cls b.page s
      find? (dir h.toNat t).ents (b.basePage - d.firstPage) = some { atoll := b.atoll, frame := b.page, addGen := d.gen + 1 } ∧
        (dir h.toNat t).pend = true ∧ (unpublished h.toNat, .bobbin d.ctx b.atoll d.cls b.frame) ∈ t.kv.held ∧
        counts (KV_CNT 0) 1 s t ∧
        SameMem (moveSlots kd (bobAddr b.atoll d.cls b.frame s) 320 0 page 256 0 256 (freshStaples page (pageUsed kd) s)) t ∧
        SameRegs [KV_CNT 0, KV_CNT 4] s t) ∧
  (∀ (h : BitVec 18) (b : Bobbin) (kd : KvDesc) (a f n : Nat) (s : State), let d := dir h.toNat s
    d.bobbins.find? (fun b => !b.dropped && b.carry.isSome) = some b → b.carry = some (a, f, n) →
    (ctx d.ctx s).weave.kv = some kd → retraining (bobAddr a d.cls f s) s = false →
    retraining (bobAddr b.atoll d.cls b.frame s) s = false → Gives (.carryLanded h) s fun t =>
      (∀ x ∈ (dir h.toNat t).bobbins, x.basePage = b.basePage → x.dropped = false → x.carry = none) ∧
        SameMem (moveSlots kd (bobAddr a d.cls f s) 320 256 (bobAddr b.atoll d.cls b.frame s) 320 0 n s) t ∧ SameRegs [] s t) ∧
  (∀ (i : BitVec 18) (v : Nat) (data : List Byte) (st : Step) (b : BatchSk) (s : State), let k := sk i.toNat s; let d := dir k.dir s
    stepOf k.ctx s = some st → (st.batch.find? fun b => b.skein == i.toNat && b.prefill) = some b →
    (∀ x, d.firstPage ≤ v → (b.frames.find? fun f => f.1 == v - d.firstPage) = some x →
      retraining (pageAddr x.2.1 d.cls x.2.2 s) s = false → Gives (.prefillPageWrite i v data) s fun t =>
      landed (pageAddr x.2.1 d.cls x.2.2 s) (data.take (min data.length (pageStaples d.cls s * 4096))) s t ∧
        counts (KV_CNT 1) 1 s t ∧ SameRegs [KV_CNT 1] s t) ∧
    (v < d.firstPage → 256 * v < b.base + b.rows → b.base < 256 * v + 256 → Gives (.prefillPageWrite i v data) s fun t =>
      .prefillPage i.toNat k.gen v data ∈ t.sent ∧ counts (KV_CNT 1) 1 s t ∧ RegsOnly [KV_CNT 1] s t) ∧
    (∀ ob kd, d.firstPage ≤ v → (b.frames.find? fun f => f.1 == v - d.firstPage) = none → openBob d = some ob →
      (ctx d.ctx s).weave.kv = some kd → v = ob.basePage →
      retraining (bobAddr ob.atoll d.cls ob.frame s) s = false → Gives (.prefillPageWrite i v data) s fun t =>
        SameMem (bobImage kd data (bobAddr ob.atoll d.cls ob.frame s) (max b.base (256 * v) - 256 * v)
          (min (b.base + b.rows) (256 * v + 256) - 256 * v) s) t ∧ SameRegs [] s t)) ∧
  (∀ (h : BitVec 18) (u a f : Nat) (data : List Byte) (s : State), let d := dir h.toNat s
    find? d.reserved u = some (a, f) → retraining (pageAddr a d.cls f s) s = false → Gives (.shardPageLanding h u data) s fun t =>
      landed (pageAddr a d.cls f s) (data.take (min data.length (pageStaples d.cls s * 4096))) s t ∧
        find? (dir h.toNat t).ents u = some { atoll := a, frame := f, addGen := d.gen + 1 } ∧
        find? (dir h.toNat t).reserved u = none ∧ SameRegs [] s t) ∧
  ∀ (h : BitVec 18) (a : BitVec 3) (leaf : Option Nat) (s : State), let d := dir h.toNat s
    let at_ := fun b => match leaf with
      | none => headStaple b h.toNat
      | some j => leafStaple b (d.leaves.getD j 0) s
    (∀ j, leaf = some j → j < d.leaves.length) →
    (find? s.kv.dirs h.toNat).isSome → a.toNat ∈ d.atolls → stapleOk (at_ a.toNat) s = false →
    retraining (at_ a.toNat) s = false →
    ((∃ b ∈ d.atolls, b ≠ a.toNat ∧ stapleOk (at_ b) s = true) → Gives (.directoryRepair h a leaf) s fun t =>
      metaAt (at_ a.toNat) t = {} ∧ counts (KV_CNT 7) 1 s t ∧ SameRegs [KV_CNT 7] s t ∧ ∀ x, rdByte x t = rdByte x s) ∧
    ((∀ b ∈ d.atolls, b ≠ a.toNat → stapleOk (at_ b) s = false) → Gives (.directoryRepair h a leaf) s fun t =>
      bit KV_ERR_DIR_CRC t = true ∧ (d.shard = d.shards1 → skLive (sk d.skein s) = true →
        (sk d.skein t).state = .faulted ∧ (sk d.skein t).cause = fcKv))

/-- KV pools and shard directories, and the pages of a sequence. A shard for a context without a KV descriptor fails
by the model's choice (log 35). -/
def Obligations.KvSequences : Prop := kvBuildAndShards ∧ kvPages

/-! ### Skein queues, prompts and completions (R213 to R228, R417, R481) -/

/-- The result `code` of the command at the head of queue q is in word 15 of its slot, and HEAD has moved on; a refusal is shown
and counted. -/
def resultWritten (q code : Nat) (s t : State) : Prop :=
  let h := fld (SKN_Q_HEAD_HEAD q) s
  .hostWrite (fld (SKN_QCFG_CTL_FUNCTION q) s) (fld (SKN_QCFG_ADDR_ADDR q) s * 4096 + h % qSize q s * 64 + 60)
      (natToBytes 4 (2 ^ 31 + code)) ∈ t.sent ∧
    fld (SKN_Q_HEAD_HEAD q) t = (h + 1) % 65536 ∧
    (code ≠ rcOk → fld (SKN_Q_STATUS_CODE q) t = code ∧ counts (SKN_CNT 1) 1 s t)

/-- Only skein i of the table changes. -/
def skeinOnly (i : Nat) (s t : State) : Prop := ∀ j, j ≠ i → sk j t = sk j s

/-- Queue q has a command to read and host memory answers. -/
def queueReads (q : BitVec 12) (s : State) : Prop := qReady q.toNat s = true ∧ hostAllowed s = true

/-- Both copies of a skein's entry pass their checks (R212). -/
def entrySound (i : Nat) (s : State) : Prop := stapleOk (skStaple 0 i) s = true ∧ stapleOk (skStaple 4 i) s = true

/-- The queue refuses its command with a code: the result is written, shown and counted, and nothing else changes (R218). -/
def refuses (q code : Nat) (s t : State) : Prop :=
  resultWritten q code s t ∧ RegsOnly [SKN_Q_HEAD q, SKN_Q_STATUS q, SKN_CNT 1] s t

/-- CANCEL of a skein (R218, R223): CANCELLING, or the code of the first test that fails; ALREADY_COMPLETE and
ALREADY_CANCELLING where the skein is past it. -/
def cancelCommand : Prop :=
  ∀ (q : BitVec 12) (w : CmdWords) (s : State), let n := q.toNat; let c := qCtx n s; let i := cSkein w
    let code := testSkeinCtx c i (cGen w) notFree s
    queueReads q s → cmdOp w = 2 → entrySound i s →
    (code ≠ rcOk → Gives (.cancel q w) s fun t => refuses n code s t) ∧
    (code = rcOk → (sk i s).state ∈ [SkState.admitted, .prefill, .decode, .paused] → Gives (.cancel q w) s fun t =>
      resultWritten n rcOk s t ∧ sk i t = { sk i s with state := .cancelling, cancelled := some (beat s) } ∧
        skeinOnly i s t ∧ RegsOnly [SKN_Q_HEAD n] { s with skeins := t.skeins } t) ∧
    (code = rcOk → (sk i s).state ∈ [SkState.done, .faulted] → Gives (.cancel q w) s fun t => refuses n rcComplete s t) ∧
    (code = rcOk → (sk i s).state = .cancelling → Gives (.cancel q w) s fun t => refuses n rcCancelling s t)

/-- RETIRE frees a DONE or FAULTED skein whose completion record is written or dropped, with its next generation (R214, R216,
R218); otherwise it answers the code of the first test that fails. -/
def retireCommand : Prop :=
  ∀ (q : BitVec 12) (w : CmdWords) (s : State), let n := q.toNat; let i := cSkein w
    let code := testSkein (qCtx n s) i (cGen w) retirable s
    queueReads q s → cmdOp w = 3 → entrySound i s →
    (code = rcOk → Gives (.retire q w) s fun t =>
      resultWritten n rcOk s t ∧ sk i t = { gen := (sk i s).gen + 1 } ∧ skeinOnly i s t ∧
        RegsOnly [SKN_Q_HEAD n] { s with skeins := t.skeins } t) ∧
    (code ≠ rcOk → Gives (.retire q w) s fun t => refuses n code s t)

/-- REPRIORITISE replaces a skein's PRIORITY and DEADLINE, or answers the code of the first test that fails (R217, R218). -/
def reprioritiseCommand : Prop :=
  ∀ (q : BitVec 12) (w : CmdWords) (s : State), let n := q.toNat; let i := cSkein w
    let code := testSkeinCtx (qCtx n s) i (cGen w) notFree s
    queueReads q s → cmdOp w = 4 → entrySound i s →
    (code = rcOk → Gives (.reprioritise q w) s fun t =>
      resultWritten n rcOk s t ∧ sk i t = { sk i s with prio := cw w 2 31 29, deadline := cDeadline w } ∧ skeinOnly i s t ∧
        RegsOnly [SKN_Q_HEAD n] { s with skeins := t.skeins } t) ∧
    (code ≠ rcOk → Gives (.reprioritise q w) s fun t => refuses n code s t)

/-- STOP_LOAD holds the parsed image for the context's next step boundary (R222); set 0 answers OPCODE, a context that does not
exist or is faulting CONTEXT (R218). -/
def stopLoadCommand : Prop :=
  ∀ (q : BitVec 12) (w : CmdWords) (img : List W32) (s : State), let n := q.toNat; let c := qCtx n s; let set := cw w 2 7 0
    queueReads q s → cmdOp w = 5 →
    (set ≠ 0 → ctxServes c s = true → Gives (.stopLoad q w img) s fun t =>
      resultWritten n rcOk s t ∧ lookup t.stopsNext {} (c * 256 + set) = parseStops img ∧
        (∀ k, k ≠ c * 256 + set → lookup t.stopsNext {} k = lookup s.stopsNext {} k) ∧
        RegsOnly [SKN_Q_HEAD n] { s with stopsNext := t.stopsNext } t) ∧
    (set = 0 → Gives (.stopLoad q w img) s fun t => refuses n rcOpcode s t) ∧
    (set ≠ 0 → ctxServes c s = false → Gives (.stopLoad q w img) s fun t => refuses n rcContext s t)

/-- NOP changes nothing but its queue (R217), and so does a queue whose opcode is reserved, with OPCODE (R218). -/
def nopCommand : Prop :=
  ∀ (q : BitVec 12) (w : CmdWords) (s : State), let n := q.toNat
    queueReads q s →
    (cmdOp w = 0 → Gives (.nop q w) s fun t => resultWritten n rcOk s t ∧ RegsOnly [SKN_Q_HEAD n] s t) ∧
    (5 < cmdOp w → Gives (.nop q w) s fun t => refuses n rcOpcode s t)

/-- NOP, CANCEL, RETIRE, REPRIORITISE and STOP_LOAD: each writes its result, and changes the skein or the stop set
that it names; one that fails a test of R218 answers the code of that test and changes nothing else. That every
refused command counts rests on log 46. -/
def Obligations.QueueCommands : Prop :=
  nopCommand ∧ cancelCommand ∧ retireCommand ∧ reprioritiseCommand ∧ stopLoadCommand

/-- ADMIT fills a FREE entry of the queue's context from the command and gives it a directory; one that fails a test
answers that test's code and allocates nothing. A context without a KV descriptor is treated as log 35 says; where the
home shard begins is a free value (log 12). -/
def Obligations.Admission : Prop :=
  ∀ (q : BitVec 12) (w : CmdWords) (s : State), let n := q.toNat; let c := qCtx n s; let i := cSkein w
    let first := testSkeinCtx c i (cGen w) (fun k => k.state == .free) s
    queueReads q s → cmdOp w = 1 → entrySound i s →
    (first ≠ rcOk → Gives (.admitSkein q w) s fun t =>
      resultWritten n first s t ∧ RegsOnly [SKN_Q_HEAD n, SKN_Q_STATUS n, SKN_CNT 1] s t) ∧
    (first = rcOk → admitFields c w s ≠ rcOk → Gives (.admitSkein q w) s fun t =>
      resultWritten n (admitFields c w s) s t ∧ RegsOnly [SKN_Q_HEAD n, SKN_Q_STATUS n, SKN_CNT 1] s t) ∧
    (first = rcOk → admitFields c w s = rcOk → (newDir c i w s).1 ≠ rcOk → Gives (.admitSkein q w) s fun t =>
      resultWritten n (newDir c i w s).1 s t ∧ RegsOnly [SKN_Q_HEAD n, SKN_Q_STATUS n, SKN_CNT 1] s t) ∧
    (first = rcOk → admitFields c w s = rcOk → (newDir c i w s).1 = rcOk → Gives (.admitSkein q w) s fun t =>
      let k := sk i t
      resultWritten n rcOk s t ∧ counts (SKN_CNT 0) 1 s t ∧ skeinOnly i s t ∧ k.state = .admitted ∧ k.ctx = c ∧
        k.tenant = fld (SKN_QCFG_CTL_TENANT n) s ∧ k.fn = fld (SKN_QCFG_CTL_FUNCTION n) s ∧ k.prio = cw w 2 31 29 ∧
        k.gen = cGen w ∧ k.profile = cw w 2 11 0 ∧ k.deadline = cDeadline w ∧ k.maxlen = cw w 5 23 0 ∧
        k.promptLen = cw w 4 23 0 ∧ k.stopSet = cw w 2 23 16 ∧ k.mask = cw w 3 15 0 ∧ k.length = 0 ∧ k.outTokens = 0 ∧
        k.ringAddr = cw64 w 10 ∧ k.ringHead = 0 ∧ (dir k.dir t).skein = i ∧ (dir k.dir t).ctx = c ∧ SameMem s t)

/-- A write of SKN_CTRL with CANCEL: STALE, STATE and CONTEXT are tested in this order, then the cases of R223 (R482). Only a
skein that the cancel reaches changes, and CANCEL_STATUS shows the result. -/
def directCancels : Prop :=
  ∀ (v : W64) (s : State), let i := fldOf SKN_CTRL_SKEIN v
    let shows := fun (code : Nat) (t : State) =>
      fld SKN_CANCEL_STATUS_CODE t = code ∧ bit SKN_CANCEL_STATUS_BUSY t = false ∧
        RegsOnly [SKN_CTRL, SKN_CANCEL_STATUS] { s with skeins := t.skeins } t
    Answers SKN_CTRL s → v.getLsbD 63 = true → entrySound i s →
    ((sk i s).gen.toNat ≠ fldOf SKN_CTRL_GEN v → Gives (.directCancel v) s fun t => shows rcStale t ∧ t.skeins = s.skeins) ∧
    ((sk i s).gen.toNat = fldOf SKN_CTRL_GEN v →
      ((sk i s).state = .free → Gives (.directCancel v) s fun t => shows rcState t ∧ t.skeins = s.skeins) ∧
      ((sk i s).state ≠ .free → ctxServes (sk i s).ctx s = false → Gives (.directCancel v) s fun t =>
        shows rcContext t ∧ t.skeins = s.skeins) ∧
      (ctxServes (sk i s).ctx s = true →
        ((sk i s).state ∈ [SkState.done, .faulted] → Gives (.directCancel v) s fun t =>
          shows rcComplete t ∧ t.skeins = s.skeins) ∧
        ((sk i s).state = .cancelling → Gives (.directCancel v) s fun t => shows rcCancelling t ∧ t.skeins = s.skeins) ∧
        ((sk i s).state ∈ [SkState.admitted, .prefill, .decode, .paused] → Gives (.directCancel v) s fun t =>
          sk i t = { sk i s with state := .cancelling, cancelled := some (beat s) } ∧ skeinOnly i s t ∧ shows rcOk t)))

/-- Queue pages: a doorbell within the ring sets TAIL, one beyond it BAD_TAIL; RING_TAIL reaches the skein of its generation; EN
starts the queue at slot 0 and stops it; direct cancels act at once; an addition to a balance is limited to the tenant's CAP and
held as 48 signed bits of tokens and 8 of fraction (that it wraps there is the model's choice, log 113). -/
def Obligations.QueuePages : Prop :=
  (∀ (q : BitVec 12) (v : W32) (ok : Bool) (s : State), let n := q.toNat; let tail := fldOf (SKN_Q_DOORBELL_TAIL n) (v.setWidth 64)
    Answers (SKN_Q_DOORBELL n) s →
    (bit (SKN_QCFG_CTL_EN n) s = false → Gives (.qDoorbell q ⟨v, ok⟩) s fun t => RegsOnly [] s t) ∧
    (bit (SKN_QCFG_CTL_EN n) s = true → qSize n s < (tail + 65536 - fld (SKN_Q_HEAD_HEAD n) s) % 65536 →
      Gives (.qDoorbell q ⟨v, ok⟩) s fun t => bit (SKN_Q_STATUS_BAD_TAIL n) t = true ∧ RegsOnly [SKN_Q_STATUS n] s t) ∧
    (bit (SKN_QCFG_CTL_EN n) s = true → (tail + 65536 - fld (SKN_Q_HEAD_HEAD n) s) % 65536 ≤ qSize n s →
      Gives (.qDoorbell q ⟨v, ok⟩) s fun t => fld (SKN_Q_DOORBELL_TAIL n) t = tail ∧ bit (SKN_Q_STATUS_BAD_TAIL n) t = false ∧
        (ok = true → bit (SKN_Q_STATUS_FAULT n) t = bit (SKN_Q_STATUS_FAULT n) s) ∧
        (ok = false → bit (SKN_Q_STATUS_FAULT n) t = true) ∧ RegsOnly [SKN_Q_DOORBELL n, SKN_Q_STATUS n] s t)) ∧
  (∀ (q : BitVec 12) (v : W64) (s : State), let n := q.toNat; let i := fldOf (SKN_Q_RING_TAIL_SKEIN n) v
    Answers (SKN_Q_RING_TAIL n) s →
    (inRange (qCtx n s) i s = true → entrySound i s → (sk i s).gen.toNat = fldOf (SKN_Q_RING_TAIL_GEN n) v → Gives (.qRingTail q v) s fun t =>
      sk i t = { sk i s with ringTail := v.setWidth 16 } ∧ skeinOnly i s t ∧ RegsOnly [] { s with skeins := t.skeins } t) ∧
    (¬(inRange (qCtx n s) i s = true ∧ (sk i s).gen.toNat = fldOf (SKN_Q_RING_TAIL_GEN n) v) →
      Gives (.qRingTail q v) s fun t => RegsOnly [] s t)) ∧
  (∀ (q : BitVec 12) (v : W64) (s : State), let n := q.toNat
    Answers (SKN_QCFG_CTL n) s → (written (SKN_QCFG_CTL n) v s).2 = false →
    (bit (SKN_QCFG_CTL_EN n) s = false → v.getLsbD 63 = true → Gives (.queueEnable q v) s fun t =>
      rd (SKN_QCFG_CTL n) t = (written (SKN_QCFG_CTL n) v s).1 ∧ bit (SKN_QCFG_CTL_EN n) t = true ∧
        fld (SKN_Q_HEAD_HEAD n) t = 0 ∧ fld (SKN_Q_DOORBELL_TAIL n) t = 0 ∧ bit (SKN_Q_STATUS_EN n) t = true ∧
        RegsOnly [SKN_QCFG_CTL n, SKN_Q_HEAD n, SKN_Q_DOORBELL n, SKN_Q_STATUS n] s t) ∧
    (bit (SKN_QCFG_CTL_EN n) s = true → v.getLsbD 63 = false → Gives (.queueDisable q v) s fun t =>
      bit (SKN_QCFG_CTL_EN n) t = false ∧ fld (SKN_Q_HEAD_HEAD n) t = 0 ∧ fld (SKN_Q_DOORBELL_TAIL n) t = 0 ∧
        RegsOnly [SKN_QCFG_CTL n, SKN_Q_HEAD n, SKN_Q_DOORBELL n, SKN_Q_STATUS n] s t) ∧
    (bit (SKN_QCFG_CTL_EN n) s = true → v.getLsbD 63 = true → Gives (.queueEnable q v) s fun t => RegsOnly [] s t)) ∧
  directCancels ∧
  ∀ (v : W64) (s : State), let n := fldOf SKN_HANK_ADD_TENANT v
    Answers SKN_HANK_ADD s → Gives (.sknHankAdd v) s fun t =>
      balance n t = (BitVec.ofInt 56
          (min (balance n s + (v.setWidth 48).toInt * 256) (fld (SKN_HANK_CAP_CAP n) s * 256 : Nat))).toInt ∧
        (∀ m, m ≠ n → balance m t = balance m s) ∧ RegsOnly [] { s with hank := t.hank } t

/-- A prompt slice that the host delivers is decrypted under the tenant's key and staged; without a key, or when a tag
fails, the skein faults with STREAM_AUTH, and a failed read faults it with PROMPT_FAULT. A completion record that
waits is written once. Ciphers are uninterpreted functions (log 3). -/
def Obligations.PromptsAndCompletions : Prop :=
  (∀ (i : BitVec 18) (n : Nat) (b : List Byte) (s : State), let k := sk i.toNat s
    let pos := k.promptPos + k.staged.length
    stages k = true → fnUp k.fn s = true → hostAllowed s = true → entrySound i.toNat s →
    (∀ key ts, find? s.sec.tenantKeys k.tenant = some key →
      openChunks (requestKey key (b.take 32)) k.promptLen (pos / 1024) ((List.range n).map fun m => promptChunk b (pos / 1024 + m)) = some ts →
      stageUse s + (ts.take (k.promptLen - pos)).length ≤ 1048576 → Gives (.promptSliceStaged i n (some b)) s fun t =>
        sk i.toNat t = { k with reqId := b.take 32, staged := k.staged ++ ts.take (k.promptLen - pos) } ∧
          skeinOnly i.toNat s t ∧ RegsOnly [] { s with skeins := t.skeins } t) ∧
    (find? s.sec.tenantKeys k.tenant = none → Gives (.promptSliceStaged i n (some b)) s fun t =>
      (sk i.toNat t).state = .faulted ∧ (sk i.toNat t).cause = fcContext ∧ bit SEC_ERR_STREAM_AUTH t = true ∧
        bit SKN_ERR_PROMPT_FAULT t = true ∧ counts (SEC_CNT 3) 1 s t ∧ skeinOnly i.toNat s t) ∧
    Gives (.promptSliceStaged i n none) s fun t =>
      (sk i.toNat t).state = .faulted ∧ bit SKN_ERR_PROMPT_FAULT t = true ∧ skeinOnly i.toNat s t ∧
        RegsOnly [SKN_ERR, SKN_CNT 4] { s with skeins := t.skeins } t) ∧
  ∀ (i : BitVec 18) (c : Completion) (s : State), let k := sk i.toNat s
    k.due = some c → ringFree k ≠ 0 → fnUp k.fn s = true → entrySound i.toNat s → i.toNat ∉ s.lostRings →
    (hostAllowed s = true → Gives (.completionRecordWrite i true) s fun t =>
      (sk i.toNat t).due = none ∧ (sk i.toNat t).recorded = true ∧ (sk i.toNat t).ringHead = k.ringHead + 1 ∧
        (sk i.toNat t).unset = [] ∧
        (∃ b, .hostWrite k.fn (k.ringAddr + k.ringHead.toNat % ringSize k * 64) b ∈ t.sent ∧ b.length = 64) ∧
        skeinOnly i.toNat s t ∧ RegsOnly [] { s with skeins := t.skeins, ringFns := t.ringFns } t) ∧
    (∀ ok, ok = false ∨ hostAllowed s = false → Gives (.completionRecordWrite i ok) s fun t =>
      (sk i.toNat t).due = none ∧ (sk i.toNat t).recorded = true ∧ bit SKN_ERR_RING_FAULT t = true ∧
        (k.state = .done → (sk i.toNat t).state = .faulted ∧ (sk i.toNat t).cause = fcContext) ∧ skeinOnly i.toNat s t)

/-! ### Spindles and reefs (R46 to R61, R66, R73, R80, R110, R156 to R179, R206) -/

/-- Nothing that a unit reads fails its check: no poisoned or failing staple, no uncorrectable lagoon word, no silent error. -/
def soundReads (env : UnitEnv) (s : State) : Prop :=
  env.badStaples = [] ∧ env.lagoonUe = [] ∧ env.memUe = [] ∧ env.memCe = [] ∧ env.silent = [] ∧ s.lagoonBad = [] ∧
    ∀ x ∈ s.staples, x.2.crcBad = false ∧ x.2.poison = false

/-- Registers that a tile's run and the verdicts that follow it may write. -/
def tileRegs (n : Nat) : List Nat := [SPN_CNT_ARRAY_CYC n, SPN_CNT_LAGOON_CE n, GAU_TRACE_FRAC, GAU_TRACE_ID]

/-- An entry ran: its result and gauge counts are those of the array's run, or its verdict was a repeat. -/
def tileRan (e : EntryRef) (w : Nat) (r : TileRun) (t : State) : Prop :=
  ∃ d, dispAt e t = some d ∧ d.widen = w ∧ d.gauge = r.gauge ∧ d.poisoned = r.poisoned ∧
    (d.st = .repeating ∧ d.result = [] ∨ (d.st = .quantised ∨ d.st = .committing) ∧ d.result = r.rows)

/-- A TENSOR entry that may start opens a retain window, quantises and runs its tile, and is judged; a repeat runs it
at the next format; the adapter pass adds its product to the result; completion writes the converted result, and a
clean tile is final and counted, a flagged one a suspect. A tile whose lagoon, weights or reads are late waits (R130,
R139, R147). A window closes once its entry is final, and an entry without work is complete at once. The order of
weight blocks and packed output bytes are free values (log 14, 16); roundings rest on log 17. -/
def Obligations.TensorTiles : Prop :=
  ∀ (e : EntryRef) (env : UnitEnv) (d : Disp) (s : State), let c := e.ctx.toNat; let w := d.words; let n := eSpindle w
    let src := lagoonBase n + tActSrc w
    let run_ (sh : Shard) (k : Nat) := runTile w sh k (ctx c s).weave.seed (rd (WV_STEP c) s).toNat (srcRows w src s) [] false s
    (ready e kTensor s = some d → idle d = true → Gives (.tensorEntry e env) s fun t => entryDone e t ∧ SameMem s t) ∧
    (∀ sh, ready e kTensor s = some d → idle d = false → (spn n s).windows.length < 2 → d.susp = none →
      lockedAt n (tActSrc w) (mLive w * (16 * tKBlocks w) * 4) s = false → tileShard c w s = some sh → shardFits sh = true →
      tileStall c w (startWiden c w s) s = none → soundReads env s → Gives (.tensorEntry e env) s fun t =>
        tileRan e (startWiden c w s) (run_ sh (startWiden c w s)) t ∧ (∃ x ∈ (spn n t).windows, x.1 = e) ∧
          counts (SPN_CNT_ARRAY_CYC n) (issueCycles (tKBlocks w) (mPlan w) (fmtAfter w (startWiden c w s))) s t ∧
          RegsOnly (tileRegs n) { s with ctxs := t.ctxs, spns := t.spns } t) ∧
    (∀ sh, dispAt e s = some d → d.st = .repeating → d.susp = none → tileShard c w s = some sh → repeatStall c d s = none →
      soundReads env s → Gives (.repeatComplete e env) s fun t => tileRan e (d.widen + 1) (run_ sh (d.widen + 1)) t ∧
        RegsOnly (tileRegs n) { s with ctxs := t.ctxs, spns := t.spns } t) ∧
    (dispAt e s = some d → d.st = .repeating → (repeatStall c d s).isSome → Gives (.repeatComplete e env) s fun t =>
      dispAt e t = some d ∧ RegsOnly [] s t) ∧
    (∀ a, dispAt e s = some d → tileAdapter c w s = some a → d.st = .committing → d.count = 0 → d.poisoned = [] →
      lagoonHere c n s = true → soundReads env s → Gives (.adapterPass e env) s fun t =>
        dispAt e t = some { d with count := 1, result := (List.range (mLive w * 128)).map fun i =>
          (adapterRows a.rank a.alpha (lagoonBase n + a.aLagoon) (lagoonBase n + a.bLagoon) (srcRows w src s) d.result s).getD i 0 } ∧
        counts (SPN_CNT_ARRAY_CYC n) env.busyNs s t ∧
        RegsOnly [SPN_CNT_ARRAY_CYC n, SPN_CNT_LAGOON_CE n] { s with ctxs := t.ctxs } t) ∧
    (dispAt e s = some d → d.st = .committing → eKind w = kTensor → (tAdapter w = 0 ∨ d.count ≠ 0) → env.silent = [] →
      lagoonHere c n s = true → d.susp = none → let bytes := outBytes (ef w 2 15 12) d.result
      retainHit (lagoonBase n + tOutDst w) bytes.length s = none →
      (flagged (tileChecks w d.result d.poisoned) = false → Gives (.tileComplete e env) s fun t =>
        entryDone e t ∧ landed (lagoonBase n + tOutDst w) bytes s t ∧ counts (SPN_CNT_TILES n) 1 s t ∧
          SameRegs [SPN_CNT_TILES n] s t) ∧
      (flagged (tileChecks w d.result d.poisoned) = true → hasSpares s = true → Gives (.tileComplete e env) s fun t =>
        (dispAt e t).map (·.st) = some .suspect ∧ landed (lagoonBase n + tOutDst w) bytes s t ∧ counts (INT_CNT 0) 1 s t ∧
          ∃ x ∈ (spn n t).locks, x = (e, tOutDst w, bytes.length))) ∧
    (ready e kTensor s = some d → idle d = false → (tileStall c w (startWiden c w s) s).isSome →
      Gives (.tensorEntry e env) s fun t => dispAt e t = some d ∧ RegsOnly [] s t) ∧
    (dispAt e s = some d → d.st = .done → Gives (.retainWindowClose e) s fun t =>
      (∀ x ∈ (spn n t).windows, x.1 ≠ e) ∧ (∀ m, m ≠ n → spn m t = spn m s) ∧ RegsOnly [] { s with spns := t.spns } t)

/-- What a merge of a tile program computes from the records it names: the two levels of R170, or a sum of gradients (R176). -/
def mergeBytes (m : MergeOp) (s : State) : List Byte :=
  let rs := m.records.map fun a => recOf m.dim (rdBytes a (16 + 4 * m.dim) s)
  recBytes (if m.grad then sumGrads m.dim m.shard rs else mergeTwo m.dim m.shard rs)

/-- The program of an entry wrote exactly the bytes bs at a: nothing, one run of its own bytes, or one merge's record. -/
def programWrote (c : Nat) (merges : List MergeOp) (writes : List (Nat × Byte)) (a : Nat) (bs : List Byte) (s : State) : Prop :=
  (merges = [] ∧ byteRuns writes = [] ∧ bs = []) ∨
  (merges = [] ∧ byteRuns writes = [(a, bs)] ∧ mayWrite c a bs.length s = true) ∨
  ∃ m, merges = [m] ∧ writes = [] ∧ m.lse = none ∧ a = m.out ∧ bs = mergeBytes m s ∧ mayWrite c a bs.length s = true

/-- The operations that a skipped entry owes to the collectives of its program (R265). -/
def owedSends (c : Nat) (w : List W32) (s : State) : List ReqHeader :=
  (Config.programSends (ctx c s).weave.tableDigest w).filter fun h => h.opcode.toNat == ocReduce || h.opcode.toNat == ocMcast

/-- A VECTOR entry starts its tile program on a free thread with its four argument registers (the other registers and
the program counter start at 0 by the model's choice, log 108); when the program ends, what it wrote and merged is in
place, its result rows are converted to the output, and clean ones are final. A skipped one whose program owes no
collective is complete at once, and so is a NOP entry when it starts. What a tile program writes is the command's
operand (log 10). -/
def Obligations.VectorPrograms : Prop :=
  ∀ (e : EntryRef) (env : UnitEnv) (d : Disp) (s : State), let c := e.ctx.toNat; let w := d.words; let n := eSpindle w
    let th := thread n (vThread w) s
    (ready e kVector s = some d → idle d = true → owedSends c w s = [] → Gives (.vectorEntry e env) s fun t =>
      entryDone e t ∧ RegsOnly [] { s with ctxs := t.ctxs } t) ∧
    (ready e kVector s = some d → idle d = false → th.state = .idle → lagoonHere c n s = true →
      lockedAt n (vInSrc w) (vInEnd w - vInSrc w) s = false → soundReads env s → Gives (.vectorEntry e env) s fun t =>
        let u := thread n (vThread w) t
        u.state = .ready ∧ u.entry = some e ∧ u.ctx = c ∧ u.pc = 0 ∧ lookup u.regs 0 0 = BitVec.ofNat 64 (ew w 7) ∧
          lookup u.regs 0 1 = BitVec.ofNat 64 (ew w 8) ∧ lookup u.regs 0 2 = BitVec.ofNat 64 (mLive w) ∧
          lookup u.regs 0 3 = BitVec.ofNat 64 (ew w 9) ∧ (∀ r, 4 ≤ r → lookup u.regs 0 r = 0) ∧
          (dispAt e t).map (·.st) = some .committing ∧
          RegsOnly [SPN_CNT_LAGOON_CE n] { s with ctxs := t.ctxs, spns := t.spns } t) ∧
    (∀ (merges : List MergeOp) (writes : List (Nat × Byte)) (a : Nat) (bs : List Byte), dispAt e s = some d →
      d.st = .committing → eKind w = kVector → th.entry = some e → th.state = .ready → ctxLive c s = true → d.susp = none →
      soundReads env s → noWindows s → programWrote c merges writes a bs s →
      ∀ m, m = wrBytes a bs s →
        let rows := (List.range (mLive w * vRowElems w)).map fun i => rdWord (lagoonBase n + vOutDst w + 4 * i) m
        mergesBad e d m = false → flagged (vectorChecks w rows []) = false →
        Gives (.vectorProgramEnd e ⟨merges, writes⟩ env) s fun t =>
          entryDone e t ∧ landed (lagoonBase n + vOutDst w) (outBytes (vOutFmt w) rows) m t ∧
            (thread n (vThread w) t).state = .idle) ∧
    ((ready e kNop s).isSome → Gives (.nopEntry e) s fun t => entryDone e t ∧ RegsOnly [] { s with ctxs := t.ctxs } t)

/-- The completion word of engine a's entry (R161): step, atoll, status and rows. -/
def reefWord (e : EntryRef) (d : Disp) (a : Nat) (s t : State) : Prop :=
  let w := d.words
  ∃ st ≤ 1, rdNat (lagoonBase (rOutSpindle w) + rOutOff w + 8 * engineRank w a) 8 t =
    stepLow e.ctx.toNat s * 2 ^ 44 + a * 2 ^ 40 + st * 2 ^ 32 + mLive w

/-- An engine that may start a FWD entry registers its walk; a wrong format faults the context. Each row whose query
has arrived writes its records, and the last one the completion word. A BWD entry runs once its rows are there and
ends the same way. The shard row on a package that is not the home is a free value (log 34); the precision of exp2,
log2, sin and cos rests on log 7. -/
def Obligations.ReefEntries : Prop :=
  ∀ (e : EntryRef) (a : BitVec 3) (env : UnitEnv) (d : Disp) (s : State), let c := e.ctx.toNat; let w := d.words; let n := a.toNat
    (engineReady e 0 n s = some d → idle d = false → fmtWrong c w s = false → Gives (.reefFwd e a env) s fun t =>
      dispAt e t = some { d with st := .committing, epochs := d.epochs ++ [(n, kvEpoch s)] } ∧
        t.kv = { s.kv with walkers := s.kv.walkers ++ [kvEpoch s] } ∧ counts (REEF_CNT_BUSY_NS n) env.busyNs s t ∧
        RegsOnly [REEF_CNT_BUSY_NS n] { s with ctxs := t.ctxs, kv := t.kv } t) ∧
    (engineReady e 0 n s = some d → idle d = false → fmtWrong c w s = true → ctxLive c s = true →
      Gives (.reefFwd e a env) s fun t => faultedWith c cfReef t ∧ bit (REEF_ERR_KV_FMT n) t = true) ∧
    (∀ row, dispAt e s = some d → rOp w = 0 → (d.epochs.any fun p => p.1 == n) = true → lookup d.reefRows 0 n = row →
      rowStep w row s = stepLow c s → carryDue (rowSeq c w row s) n s = false → rowLocked w row s = false →
      fld (atollFld n) s = 0 → specOk (rowSpec w row s) = true → noWindows s →
      let s1 := let m := lagoonEnv (rQSpindle w) env s; if rAppend w then appendRow c w n row m else m
      let o := rowOut c w n row env s1
      (row + 1 ≠ mLive w → Gives (.reefRowStart e a row env) s fun t =>
        SameMem (putRecs c w n row o.recs s1) t ∧ (dispAt e t).map (fun d => lookup d.reefRows 0 n) = some (row + 1) ∧
          counts (REEF_CNT_KEYS n) (o.keys * rKvHeads w) s t) ∧
      (row + 1 = mLive w → Gives (.reefRowStart e a row env) s fun t =>
        reefWord e d n s t ∧ (dispAt e t).map (fun d => d.reefDone.contains n) = some true ∧
          counts (REEF_CNT_OPS n) 1 s t ∧ counts (REEF_CNT_KEYS n) (o.keys * rKvHeads w) s t)) ∧
    ∀ g, engineReady e 1 n s = some d → idle d = false → fmtWrong c w s = false → noWindows s →
      carryDue (bwdSeq c w s) n s = false → fld (atollFld n) s = 0 →
      (∀ r < mLive w, bwdLocked w r s = false ∧ rowStep w r s = stepLow c s ∧ rdNat (gradRow w r) 4 s / 2 ^ 12 = stepLow c s ∧
        specOk (rowSpec w r s) = true) →
      gradRegion c w s = some g → (∀ head < rKvHeads w, ∀ h len, bwdSeq c w s = some (h, len) → ∀ j < len,
        rGradOff w + (head * rGradStride w * 256 + j) * 8 * rDim w + 8 * rDim w ≤ g.size) →
      Gives (.reefBwd e a env) s fun t =>
        reefWord e d n s t ∧ (dispAt e t).map (fun d => d.reefDone.contains n) = some true ∧ counts (REEF_CNT_OPS n) 1 s t

/-! ### Sampling and carding (R230 to R249, R252 to R271) -/

/-- A SAMPLE entry without rows is complete at once. One with one decode row, the first of its skein, ends in the token that the
order of operations gives over the words of the row, at the row's place of the output, counted; a row with a NaN or +Inf sets
SMP_ERR.NONFINITE and makes the entry a suspect. -/
def sampleEntries : Prop :=
  ∀ (e : EntryRef) (env : UnitEnv) (d : Disp) (st : Step) (b : BatchSk) (la : Nat) (s : State), let c := e.ctx.toNat
    let w := d.words; let r := sRowBase w
    let x := (List.range (sVocab w)).map fun t => rdWord (la + 4 * t) s
    let input := rdNat (lagoonBase (sInSpindle w) + sInOff w) 4 s % 2 ^ 18
    let st1 := { st with samples := put st.samples {} r { input := BitVec.ofNat 32 input, live := true } }
    let k := sk b.skein s; let ws := ctxProfile c k.profile s; let m := (maskOf c k.mask s).getD {}
    let area := smpArea c b.skein s; let g := (area.map fun a => gramState a s).getD 0
    let res := sampleRow ws x (maskAllows m g s) (window ws k st1 b area (b.base + 1) s) (drawU k.seed (b.base + 1))
    ready e kSample s = some d →
    (idle d = true → Gives (.sampleEntry e env) s fun t => entryDone e t ∧ RegsOnly [] { s with ctxs := t.ctxs } t) ∧
    (idle d = false → inputsLocked w s = false → sRowsLive w = 1 → stepOf c s = some st → rowPart st.batch r = some b → b.prefill = false → b.row = r →
      k.sampled = true → logitAddr c w r s = some la → soundReads env s → noWindows s →
      (∀ tok cap, res = .token tok cap → Gives (.sampleEntry e env) s fun t =>
        entryDone e t ∧ landed (lagoonBase (sOutSpindle w) + sOutOff w) (natToBytes 4 tok) s t ∧
          (∃ y, (stepOf c t).map (fun z => lookup z.samples {} r) = some y ∧ y.token = BitVec.ofNat 32 tok ∧ y.live = true ∧
            y.bad = false ∧ y.fault = 0) ∧
          counts (SMP_CNT 0) 1 s t ∧ counts (SMP_CNT 7) env.busyNs s t ∧
          SameRegs [SMP_CNT 0, SMP_CNT 5, SMP_CNT 7] s t ∧ t.skeins = s.skeins) ∧
      (res = .nonfinite → hasSpares s = true → Gives (.sampleEntry e env) s fun t =>
        (dispAt e t).map (·.st) = some .suspect ∧ bit SMP_ERR_NONFINITE t = true ∧ counts (SMP_CNT 6) 1 s t ∧
          counts (INT_CNT 0) 1 s t ∧ SameMem s t ∧ t.skeins = s.skeins ∧
          SameRegs [SMP_CNT 0, SMP_CNT 6, SMP_CNT 7, SMP_ERR, SMP_ERR_INFO, INT_CNT 0] s t))

/-- A commit takes the staged words while no other check runs; its check ends in acceptance, which no context sees before its next
step boundary, or in SMP_ERR.PROFILE with the profile as it was. -/
def profileCommits : Prop :=
  (∀ (v : W32) (s : State), Answers SMP_PROF_CTRL s →
    (v.getLsbD 0 = true → s.profCommit = none → Gives (.commitProfile v) s fun t =>
      t.profCommit = some (fld SMP_PROF_SEL_INDEX s, (List.range 8).map fun w => BitVec.ofNat 32 (fld (SMP_PROF_DATA_DATA w) s)) ∧
        bit SMP_PROF_CTRL_COMMIT t = true ∧ bit SMP_STATUS_PROF_BUSY t = true ∧
        RegsOnly [SMP_PROF_CTRL, SMP_STATUS] { s with profCommit := t.profCommit } t) ∧
    (v.getLsbD 0 = false ∨ s.profCommit.isSome → Gives (.commitProfile v) s fun t => RegsOnly [] s t)) ∧
  ∀ (i : Nat) (ws : List W32) (s : State), s.profCommit = some (i, ws) →
    let refused := i = 0 ∨ profOk ws = false ∨ ((ws.getD 0 0).msb = false ∧ profNamed i s = true)
    Gives .profileCheckDone s fun t =>
      t.profCommit = none ∧ bit SMP_PROF_CTRL_COMMIT t = false ∧ bit SMP_STATUS_PROF_BUSY t = false ∧
      (∀ j, j ≠ i → profWords j t = profWords j s) ∧ (∀ c < 64, ctxExists c s = true → ctxProfile c i t = ctxProfile c i s) ∧
      (refused → profWords i t = profWords i s ∧ bit SMP_ERR_PROFILE t = true) ∧
      (¬refused → profWords i t = ws ∧ SameRegs [SMP_PROF_CTRL, SMP_STATUS] s t) ∧ SameMem s t

/-- SAMPLE entries and sampling profiles. The random number's constants rest on log 7. -/
def Obligations.Sampling : Prop := sampleEntries ∧ profileCommits

/-- Rows of a ROUTE entry whose scores are all finite. -/
def finiteRows (x : XMap) (w : List W32) (score : Nat) (s : State) : Nat :=
  ((List.range (cardRows w)).filter fun i => (List.range x.experts).all fun j =>
    fpIsFinite (rdWord (score + i * rowStride x.experts + 4 * j) s)).length

/-- A message of kind `kind` with k records of `size` bytes stands at the start of this package's landing window. -/
def messageHere (e : EntryRef) (w : List W32) (kind k size : Nat) (s t : State) : Prop :=
  let c := e.ctx.toNat
  ∃ body : List Byte, body.length = k * size ∧
    landed (winBase (0xF80 + 2 * c + kind) s) (cardHeader w c kind (cardMap c w s).tag k body.length s ++ body) s t

/-- ROUTE counts its rows, and the assignments of the rows with finite scores, kept or dropped; none is dropped without a
capacity. RETURN waits for the expert tiles. Each then sends one message to every package, its own included; a list beyond its slot
faults the context. -/
def Obligations.CardingSends : Prop :=
  ∀ (e : EntryRef) (env : UnitEnv) (d : Disp) (s : State), let c := e.ctx.toNat; let w := d.words; let x := cardMap c w s
    let mine := (localsOf x ((myRank x s).getD 0)).length
    (∀ cmd ∈ [(0, Instr.route e env), (2, Instr.ret e env)], cardReady e cmd.1 s = some d → myRank x s = none →
      Gives cmd.2 s fun t => entryDone e t ∧ RegsOnly [] { s with ctxs := t.ctxs } t) ∧
    (∀ score act, cardReady e 0 s = some d → (myRank x s).isSome → soundReads env s → noWindows s →
      cardArea c (cRef w 5) (cardRows w * rowStride x.experts) s = some score →
      cardArea c (cRef w 6) (cardRows w * rowStride (hidden w)) s = some act → Gives (.route e env) s fun t =>
        (∃ kept dropped, kept + dropped = finiteRows x w score s * min (cTopk w) x.experts ∧ (cCap16 w = 0 → dropped = 0) ∧
          counts (CRD_CNT 1) kept s t ∧ counts (CRD_CNT 2) dropped s t) ∧
        counts (CRD_CNT 0) (cardRows w) s t ∧ counts (CRD_CNT 9) env.busyNs s t ∧
        (entryDone e t ∨ faultedWith c cfCard t ∨ faultedWith c cfDead t) ∧
        (x.nodes = [myNode s] → 64 + cardRows w * dispatchSize w ≤ cSlotBytes w → ctxLive c s = true →
          entryDone e t ∧ ∃ k ≤ cardRows w, messageHere e w 0 k (dispatchSize w) s t)) ∧
    (∀ land out, cardReady e 2 s = some d → (myRank x s).isSome → soundReads env s → noWindows s →
      cardArea c (cRef w 7) (x.nodes.length * cSlotBytes w) s = some land →
      cardArea c (cRef w 10) (mine * cExpRows w * hidden w * (if cExpFp32 w then 4 else 2)) s = some out →
      (expertsDone c (cLayer w) (cHalf w) s = false → Gives (.ret e env) s fun t => RegsOnly [] s t) ∧
      (expertsDone c (cLayer w) (cHalf w) s = true → let k := rdNat (land + 8) 2 s
        Gives (.ret e env) s fun t => counts (CRD_CNT 9) env.busyNs s t ∧
          (entryDone e t ∨ faultedWith c cfCard t ∨ faultedWith c cfDead t) ∧
          (x.nodes = [myNode s] → 64 + k * returnSize w ≤ cSlotBytes w → ctxLive c s = true →
            entryDone e t ∧ messageHere e w 1 k (returnSize w) s t)))

/-- GATHER and COMBINE wait until every package's message of the exchange has landed, and fault the context when one carries another
context or map. GATHER lists each local expert's rows and counts the experts without any; COMBINE adds the kept records of each row
in order, makes a poisoned row NaN, and counts the stale and the cancelled records. -/
def Obligations.CardingReceives : Prop :=
  ∀ (e : EntryRef) (env : UnitEnv) (d : Disp) (land area : Nat) (s : State), let c := e.ctx.toNat; let w := d.words
    let x := cardMap c w s; let mine := (localsOf x ((myRank x s).getD 0)).length
    let got (kind : Nat) := (List.range x.nodes.length).map fun n => arrival c w kind n (land + n * cSlotBytes w) s
    let gatherReady := cardReady e 1 s = some d ∧ cardArea c (cRef w 7) (x.nodes.length * cSlotBytes w) s = some land ∧
      cardArea c (cRef w 9) (mine * cExpRows w * 4) s = some area
    let combineReady := cardReady e 3 s = some d ∧ cardArea c (cRef w 8) (x.nodes.length * cSlotBytes w) s = some land ∧
      cardArea c (cRef w 6) (cardRows w * rowStride (hidden w)) s = some area
    let l := dispatched c w land s
    let ofExpert (k : Nat) := l.filter fun r => r.2.2.1 == k
    let recs := (List.range x.nodes.length).flatMap fun n => (slotRecords (land + n * cSlotBytes w) (returnSize w) s).map fun o =>
      returnAt w (land + n * cSlotBytes w + o) [] s
    let kept := recs.filter fun r => !staleReturn r.2.1 r.2.2.1 s && !cancelledReturn r.2.1 s
    (∀ cmd ∈ [(gatherReady, 0, Instr.gather e env), (combineReady, 1, Instr.combine e env)], cmd.1 →
      (Arrival.mismatch ∉ got cmd.2.1 → Arrival.missing ∈ got cmd.2.1 → Gives cmd.2.2 s fun t =>
        dispAt e t = some { d with st := .quantised } ∧ RegsOnly [] { s with ctxs := t.ctxs } t) ∧
      (Arrival.mismatch ∈ got cmd.2.1 → ctxLive c s = true → Gives cmd.2.2 s fun t =>
        faultedWith c cfCard t ∧ bit CRD_ERR_MAP_MISMATCH t = true)) ∧
    (gatherReady → (∀ a ∈ got 0, a = .here) → env.memUe = [] → env.memCe = [] →
      ((∀ k, (ofExpert k).length ≤ cExpRows w) → Gives (.gather e env) s fun t =>
        entryDone e t ∧ (∀ k < mine, ∀ i r, (ofExpert k)[i]? = some r →
          rdNat (area + (k * cExpRows w + i) * 4) 4 t = (r.1 * 2 ^ 25 + r.2.1 / 64) % 2 ^ 32) ∧
        (∀ b, b < area ∨ area + mine * cExpRows w * 4 ≤ b → rdByte b t = rdByte b s) ∧
        counts (CRD_CNT 7) ((List.range mine).filter fun k => (ofExpert k).isEmpty).length s t ∧
        counts (CRD_CNT 9) env.busyNs s t ∧ SameRegs [CRD_CNT 7, CRD_CNT 9, WV_PATCH_SAT] s t) ∧
      ((∃ k, cExpRows w < (ofExpert k).length) → ctxLive c s = true → Gives (.gather e env) s fun t =>
        faultedWith c cfCard t ∧ bit CRD_ERR_EXP_OVERFLOW t = true)) ∧
    (combineReady → (∀ a ∈ got 1, a = .here) → soundReads env s → Gives (.combine e env) s fun t =>
      entryDone e t ∧ (∀ i < cardRows w, ∀ j < hidden w, rdWord (area + i * rowStride (hidden w) + 4 * j) t =
        if i ∈ routePoison c (cLayer w) (cHalf w) s ∨ (∃ r ∈ kept, r.1 = i ∧ r.2.2.2.1 = true) then fpQnanStd
        else (kept.filter fun r => r.1 == i).foldl (fun a r => fpAdd a (r.2.2.2.2.getD j 0)) 0) ∧
      (∀ b, b < area ∨ area + cardRows w * rowStride (hidden w) ≤ b → rdByte b t = rdByte b s) ∧
      counts (CRD_CNT 5) (recs.filter fun r => staleReturn r.2.1 r.2.2.1 s).length s t ∧
      counts (CRD_CNT 6) (recs.filter fun r => !staleReturn r.2.1 r.2.2.1 s && cancelledReturn r.2.1 s).length s t ∧
      counts (CRD_CNT 9) env.busyNs s t ∧ SameRegs [CRD_CNT 5, CRD_CNT 6, CRD_CNT 9] s t)

/-! ### Beats, weaves and contexts (R99 to R124, R347 to R366) -/

/-- A held KV item names a context that can exist. -/
def itemOwned : KvItem → Prop
  | .page c _ _ _ => c < 64
  | .bobbin c _ _ _ => c < 64
  | _ => True

/-- Nothing of a beat edge but the edge itself is at work: no transfer runs, no operation is outstanding, no prefetch record waits;
and sequences, held items and swap pairs name contexts and regions that exist. -/
def quietEdge (s : State) : Prop :=
  channelsIdle s ∧ s.gld.ops = [] ∧ s.gld.refused = [] ∧ (∀ c, (ctx c s).weave.prefetch = []) ∧
    (∀ d ∈ s.kv.dirs, d.2.ctx < 64) ∧ (∀ x ∈ s.kv.held, itemOwned x.2) ∧ ∀ p ∈ s.swap.pairs, p.2 < 256

/-- No skipped VECTOR entry owes a contribution to a collective at the edge (R265). -/
def noSkips (s : State) : Prop := ∀ c < 64, skipsDue c s = []

/-- A package that has no beats ignores an edge. An edge advances BEAT by one; while an earlier vote is outstanding it
moves no context. Otherwise it counts the beat of every context that ran, collects the overrun reports, and sends the
package's vote: its flag and causes are those of the reports. What a program that runs past the edge wrote in the beat
is in memory after it (R113). That a BEAT_EDGE with a vote acts at once is the model's choice (log 11). -/
def Obligations.BeatEdges : Prop :=
  ∀ (late : List Overrun) (energy : BeatEnergy) (vote : Option Vote) (progs : List ProgReport) (s : State),
    (beating s = false → Gives (.beatEdge ⟨late, progs⟩ energy vote) s fun t => RegsOnly [] s t) ∧
    (beating s = true → Gives (.beatEdge ⟨late, progs⟩ energy vote) s fun t =>
      rd BT_TALLY t = rd BT_TALLY s + 1 ∧
      (s.voteDue = true → t.voteDue = true ∧ (progs = [] → t.ctxs = s.ctxs ∧ t.edge = s.edge ∧ SameMem s t)) ∧
      (s.voteDue = false → t.voteDue = vote.isNone)) ∧
    (∀ (p : ProgReport) (d : Disp) (a : Nat) (bs : List Byte), beating s = true → (∀ x ∈ s.spns, x.2.fence = none) →
      dispAt p.e s = some d → eKind d.words = kVector → (thread (eSpindle d.words) (vThread d.words) s).entry = some p.e →
      byteRuns p.writes = [(a, bs)] → ctxLive p.e.ctx.toNat s = true → mayWrite p.e.ctx.toNat a bs.length s = true →
      noWindows s → noSkips s → Gives (.beatEdge ⟨late, [p]⟩ energy none) s fun t => ∀ b, rdByte b t = rdByte b (wrBytes a bs s)) ∧
    (beating s = true → s.voteDue = false → (∀ x ∈ s.spns, x.2.fence = none) → noSkips s → Gives (.beatEdge ⟨late, []⟩ energy none) s fun t =>
      (∃ v : Vote, handed (.vote v) t ∧ v.replay = s.replayAsk ∧ (v.flag = true ↔ t.edge ≠ []) ∧
        ∀ k < 10, v.causes.getLsbD k = true ↔ ∃ o ∈ t.edge, o.cause.toNat = k) ∧
      (∀ o ∈ late, overrunOk o = true → (∀ c, o.ctx = some c → ctxLive c.toNat s = true) → o ∈ t.edge) ∧
      (∀ c < 64, (ctx c t).step = (ctx c s).step ∧ ctxState c t = ctxState c s) ∧
      (∀ c < 64, ctxExists c s = true → (ctx c s).ran = true → ctxState c s ≠ cxStarting → counts (CTX_ACC c 1) 1 s t) ∧
      SameMem s t)

/-- When any package raised its flag, no schedule beat advances, no step commits, and each reported cause is counted.
When none did, a running step moves to its next schedule beat, or, after its last one, commits: its step number and
the package's epoch advance. When WANT is read rests on log 47. -/
def Obligations.VoteResults : Prop :=
  ∀ (v : Vote) (s : State),
    (s.voteDue = false → Gives (.slipVoteResult v) s fun t => RegsOnly [] s t) ∧
    (s.voteDue = true → quietEdge s → v.replay = 0 → s.replayAsk = 0 →
      ((v.flag = true ∨ s.edge ≠ []) →
          (fld BT_SLIP_LIMIT_LIMIT s = 0 ∨ ∀ c < 64, (ctx c s).slipRun + 1 < fld BT_SLIP_LIMIT_LIMIT s) →
        Gives (.slipVoteResult v) s fun t =>
        t.voteDue = false ∧ t.edge = [] ∧ bit BT_STATUS_HELD t = false ∧ rd CTX_WANT t = v.want ∧
          (∀ c, (ctx c t).step = (ctx c s).step) ∧ (∀ c < 64, rd (WV_STEP c) t = rd (WV_STEP c) s) ∧
          rd KV_EPOCH t = rd KV_EPOCH s ∧
          (∀ k < 10, (v.causes.getLsbD k = true ∨ ∃ o ∈ s.edge, o.cause.toNat = k) → counts (BT_SLIP_CNT k) 1 s t) ∧
          (∀ c : BitVec 6, ctxLive c.toNat s = true → (∃ o ∈ s.edge, o.ctx = some c) → counts (CTX_ACC c.toNat 3) 1 s t)) ∧
      (v.flag = false → s.edge = [] → Gives (.slipVoteResult v) s fun t =>
        t.voteDue = false ∧ bit BT_STATUS_HELD t = false ∧ rd CTX_WANT t = v.want ∧ rd CTX_HOLD t = v.hold ||| holdMask s ∧
        ∀ c < 64, ∀ st, ctxLive c s = true → (ctx c s).ran = true → stepOf c s = some st → bit (CTX_STATE_NEVER_RAN c) s = false →
          (st.beat + 1 < (shapeOf (ctx c s).weave st.shape).len →
            rd (WV_STEP c) t = rd (WV_STEP c) s ∧ ∃ st', stepOf c t = some st' ∧ st'.beat = st.beat + 1 ∧ st'.began = st.began ∧
              st'.shape = st.shape ∧ st'.batch = st.batch) ∧
          ((shapeOf (ctx c s).weave st.shape).len ≤ st.beat + 1 →
            rd (WV_STEP c) t = rd (WV_STEP c) s + 1 ∧ rd KV_EPOCH t = rd KV_EPOCH s + 1 ∧
              ∀ st', stepOf c t = some st' → st'.beat = 0 ∧ st'.began = beat s)))

/-- Late and lost votes and an expired holdover: the first sets VOTE_TIMEOUT and holds, the others unlock the tally, and every loaded
context faults with cause TALLY. A tally frame measures the offset; the 64th good one in ACQUIRE locks. -/
def Obligations.TallyLock : Prop :=
  (∀ s : State, (s.voteDue = true → Gives .voteTimeout s fun t =>
      bit BT_ERR_VOTE_TIMEOUT t = true ∧ bit BT_STATUS_HELD t = true ∧ RegsOnly [BT_ERR, BT_STATUS] s t) ∧
    (s.voteDue = false → Gives .voteTimeout s (fun t => RegsOnly [] s t) ∧ Gives .voteLossTimeout s fun t => RegsOnly [] s t) ∧
    (lockState s ≠ lkHoldover → Gives .holdoverExpired s fun t => RegsOnly [] s t) ∧
    ∀ cmd ∈ [(s.voteDue = true ∧ lockState s ≠ lkUnlocked, Instr.voteLossTimeout),
             (lockState s = lkHoldover, Instr.holdoverExpired)], cmd.1 → Gives cmd.2 s fun t =>
      lockState t = lkUnlocked ∧ t.voteDue = false ∧ t.edge = [] ∧ bit BT_STATUS_HELD t = false ∧
        (cmd.2 = .holdoverExpired → bit BT_ERR_HOLDOVER_EXPIRED t = true) ∧
        ∀ c < 64, ctxLive c s = true → faultedWith c cfTally t) ∧
  ∀ (off : Int) (b : W64) (root : BitVec 10) (hops : BitVec 8) (s : State),
    (s.boot.on = false ∨ bit BT_CTRL_EN s = false ∨ bit BT_CTRL_ROOT s = true → Gives (.tallyFrame off b root hops) s fun t =>
      t.tallyRoot = (if s.boot.on then some root.toNat else s.tallyRoot) ∧ RegsOnly [] { s with tallyRoot := t.tallyRoot } t) ∧
    (s.boot.on = true → bit BT_CTRL_EN s = true → bit BT_CTRL_ROOT s = false → Gives (.tallyFrame off b root hops) s fun t =>
      (rd BT_OFFSET t).setWidth 32 = BitVec.ofInt 32 off ∧ fld BT_STATUS_ROOT_NODE t = root.toNat ∧
        fld BT_STATUS_HOPS t = hops.toNat ∧ t.tallyRoot = some root.toNat ∧ SameRegs [BT_OFFSET, BT_STATUS, BT_TALLY] s t ∧ SameMem s t ∧ t.ctxs = s.ctxs ∧
      (lockState s = lkLocked → lockState t = lkLocked ∧ rd BT_TALLY t = rd BT_TALLY s) ∧
      (lockState s ≠ lkLocked → rd BT_TALLY t = b ∧
        lockState t = if lockState s = lkAcquire ∧ 63 ≤ s.goodOffsets ∧ -4000 ≤ off ∧ off ≤ 4000 then lkLocked else lkAcquire))

/-- STEP records reach the entries that they name, pins past their last step go, and a priming pass whose records have all landed
ends, which takes a context out of STARTING. -/
def Obligations.StepPreparation : Prop :=
  (∀ (c : BitVec 6) (ph : BitVec 8) (st : Step) (p : Phase) (s : State), let c' := c.toNat
    let t0 := templateOf (ctx c' s).weave p; let l := lookup st.lists [] ph.toNat
    stepOf c' s = some st → phaseOf c' ph.toNat s = some p →
    (st.beat + 1 < p.firstBeat ∨ (ctx c' s).ran = false → Gives (.patchStep c ph) s fun t => RegsOnly [] s t) ∧
    (p.firstBeat ≤ st.beat + 1 → (ctx c' s).ran = true → heavyPhase c' p s = false → Gives (.patchStep c ph) s fun t =>
      (∀ (i k : Nat) (d : Disp) (r : W64), l[i]? = some d → t0.patches[k]? = some r → pTiming r = 0 → pEntry r = i → k ∉ d.patched →
        (∀ j r', t0.patches[j]? = some r' → pTiming r' = 0 → pEntry r' = i → j = k) →
        dispAt { ctx := c, phase := ph, idx := i } t =
          some { (patchWrite r (patchValue (patchSource c' st noRoute r s) d.words r) d).1 with patched := d.patched ++ [k] }) ∧
      (∀ (i : Nat) (d : Disp), l[i]? = some d → (∀ r ∈ t0.patches, pTiming r = 0 → pEntry r ≠ i) →
        dispAt { ctx := c, phase := ph, idx := i } t = some d) ∧
      RegsOnly [WV_PATCH_SAT] { s with ctxs := t.ctxs } t)) ∧
  (∀ (c : BitVec 6) (layer : Nat) (s : State), let gone (p : Nat × Nat) : Prop := p.1 = layer ∧ p.2 < (rd (WV_STEP c.toNat) s).toNat
    Gives (.pinExpiry c layer) s fun t =>
      (∀ p, p ∈ (ctx c.toNat t).pins ↔ p ∈ (ctx c.toNat s).pins ∧ ¬gone p) ∧
      ((∃ p ∈ (ctx c.toNat s).pins, gone p) → rd (GAU_PIN c.toNat) t = BitVec.ofNat 64 (ctx c.toNat t).pins.length) ∧
      RegsOnly [GAU_PIN c.toNat] { s with ctxs := t.ctxs } t) ∧
  ∀ (c : BitVec 6) (s : State), let c' := c.toNat
    ((ctx c' s).priming ≠ some [] → Gives (.primingComplete c) s fun t => RegsOnly [] s t) ∧
    ((ctx c' s).priming = some [] → Gives (.primingComplete c) s fun t =>
      ctx c' t = { ctx c' s with priming := none, replaying := false } ∧
        (ctxState c' s = cxStarting → ctxState c' t = if (ctx c' s).ran then cxRunning else if candidates c' s = [] then cxIdle else cxHeld) ∧
        (ctxState c' s ≠ cxStarting → ctxState c' t = ctxState c' s) ∧ RegsOnly [CTX_STATE c'] { s with ctxs := t.ctxs } t)

/-- A load that starts makes a free context LOADING and keeps its address, length and context (log 98); a load in progress keeps a
second one out. It ends with its code and section: an
accepted image leaves the context STARTING at step 0 with the weave of the image, a refused one leaves it FREE. -/
def Obligations.WeaveLoads : Prop :=
  (∀ (v : W32) (s : State), Answers WV_LOAD_CTRL s → v.getLsbD 0 = true →
    let x := written WV_LOAD_CTRL (v.setWidth 64) s; let c := fldOf WV_LOAD_CTRL_CONTEXT x.1
    (bit WV_LOAD_STATUS_BUSY s = true → Gives (.wvLoadStart v) s fun t => RegsOnly [] s t) ∧
    (bit WV_LOAD_STATUS_BUSY s = false → x.2 = false → Gives (.wvLoadStart v) s fun t =>
      rd WV_LOAD_CTRL t = x.1 ∧ bit WV_LOAD_STATUS_BUSY t = true ∧
        t.load = { active := true, inUse := ctxExists c s, waiting := bit SEC_CMD_STATUS_BUSY s
                   addr := fld WV_LOAD_ADDR_ADDR s * 4096, len := (rd WV_LOAD_LEN s).toNat, ctx := c } ∧
        ctxState c t = (if ctxExists c s then ctxState c s else cxLoading) ∧
        RegsOnly [WV_LOAD_CTRL, WV_LOAD_STATUS, CTX_STATE c] { s with load := t.load } t)) ∧
  ∀ s : State, let c := s.load.ctx; let b := s.load.addr
    let r := loadResult b s.load.len c s.load.inUse s; let w := parseWeave (imgAt b s) s
    c < 64 → s.load.active = true → s.load.waiting = false → s.sec.waiting = none → Gives .weaveLoadDone s fun t =>
      bit WV_LOAD_STATUS_BUSY t = false ∧ bit WV_LOAD_CTRL_START t = false ∧ fld WV_LOAD_STATUS_CODE t = r.1 % 256 ∧
      fld WV_LOAD_STATUS_SECTION t = r.2 % 256 ∧ bit TOP_IRQ_STATUS_WV_LOAD t = true ∧ t.load = {} ∧ SameMem s t ∧
      (∀ k, k ≠ c → ctx k t = ctx k s) ∧ (r.1 = 4 → counts (SEC_CNT 0) 1 s t) ∧
      (s.load.inUse = true → ctx c t = ctx c s ∧ ctxState c t = ctxState c s) ∧
      (s.load.inUse = false → ctxState c s = cxLoading →
        (r.1 = 0 → ctxState c t = cxStarting ∧ bit (CTX_STATE_NEVER_RAN c) t = true ∧ (ctx c t).weave = w ∧
          rd (WV_ID c) t = w.id ∧ rd (WV_STEP c) t = 0 ∧ (ctx c t).step = none ∧ ∀ j < 7, rd (CTX_ACC c j) t = 0) ∧
        (r.1 ≠ 0 → ctxState c t = cxFree ∧ ctx c t = ctx c s))

/-- A spill moves a spindle's lagoon to the slot of its context, a restore brings it back, and the residence follows.
A teardown faults a live context with cause TEARDOWN and ends in FREE, with its barriers, channels and windows gone,
and its skeins but those whose completion record was dropped (R216). What survives a teardown rests on log 21. -/
def Obligations.SpillsAndTeardown : Prop :=
  (∀ (r c : BitVec 6) (n a : Nat) (s : State), let r' := r.toNat; let c' := c.toNat
    r ≠ c → Canon s → (ctx c' s).spillWait.contains (n, r') = true → (ctx r' s).resident.contains n = true →
    spillSlot r' n s = some a → spillBlocked r' n s = false → spillBehind r' n s = false →
    retraining a s = false → Gives (.spill r c n) s fun t =>
      landed a (rdBytes (lagoonBase n) lagoonSize s) s t ∧ (ctx r' t).resident = (ctx r' s).resident.erase n ∧
        (ctx r' t).spilled = (ctx r' s).spilled ++ [n] ∧ (n, r') ∉ (ctx c' t).spillWait ∧
        ((ctx r' s).spillers = [] → counts (CTX_ACC r' 2) 1 s t) ∧
        counts (CTX_ACC r' 5) (2064 * 1024) s t ∧ SameRegs [CTX_ACC r' 2, CTX_ACC r' 5] s t ∧ (∀ m, m ≠ n → spn m t = spn m s) ∧
        ∀ x ∈ (spn n t).threads, x.2.ctx = r' → x.2.state = .idle) ∧
  (∀ (c : BitVec 6) (n a : Nat) (s : State), let c' := c.toNat
    Canon s → (ctx c' s).restoreWait.contains n = true → spillSlot c' n s = some a → retraining a s = false → channelsIdle s →
    Gives (.restore c n) s fun t =>
      landed (lagoonBase n) (rdBytes a lagoonSize s) s t ∧ (ctx c' t).resident = (ctx c' s).resident ++ [n] ∧
        (ctx c' t).spilled = (ctx c' s).spilled.erase n ∧ (ctx c' t).restoreWait = (ctx c' s).restoreWait.erase n ∧
        counts (CTX_ACC c' 6) (2064 * 1024) s t ∧ ∀ b ∈ (spn n t).saved, b.ctx ≠ c') ∧
  (∀ (c : BitVec 6) (v : W32) (s : State), let c' := c.toNat
    Answers (CTX_CMD c') s →
    (v.getLsbD 0 = false → Gives (.teardown c v) s fun t => RegsOnly [] s t) ∧
    (v.getLsbD 0 = true → (ctxState c' s = cxFree ∨ ctxState c' s = cxLoading ∨ ctxState c' s = cxTeardown) →
      Gives (.teardown c v) s fun t => bit CTX_ERR_STATE t = true ∧ RegsOnly [CTX_ERR, CTX_ERR_INFO] { s with caps := t.caps } t) ∧
    (v.getLsbD 0 = true → ctxLive c' s = true → Gives (.teardown c v) s fun t =>
      ctxState c' t = cxTeardown ∧ bit (CTX_CMD_TEARDOWN c') t = true ∧ fld (CTX_FAULT_CAUSE c') t = cfTeardown ∧ (ctx c' t).step = none ∧
        (ctx c' t).resident = [] ∧ ∀ k ≠ c', (∀ p ∈ (ctx k s).spillWait, p.2 ≠ c') → ctx k t = ctx k s) ∧
    (v.getLsbD 0 = true → ctxState c' s = cxFaulted → Gives (.teardown c v) s fun t =>
      ctxState c' t = cxTeardown ∧ bit (CTX_CMD_TEARDOWN c') t = true ∧ RegsOnly [CTX_STATE c', CTX_CMD c'] s t)) ∧
  ∀ (c : BitVec 6) (s : State), let c' := c.toNat
    (ctxState c' s ≠ cxTeardown → Gives (.teardownComplete c) s fun t => RegsOnly [] s t) ∧
    (ctxState c' s = cxTeardown → (∀ b ∈ (ctx c' s).bound, b.2 < 256) → (∀ r ∈ (ctx c' s).spills, r < 256) →
      Gives (.teardownComplete c) s fun t =>
      ctxState c' t = cxFree ∧ ctx c' t = {} ∧ (∀ k, k ≠ c' → ctx k t = ctx k s) ∧ chansOf c' t = [] ∧
        (∀ i, (sk i t).ctx = c' → (sk i t).state = .free ∨ (sk i t).lost = true) ∧
        (∀ b ∈ t.bars, b.2.ctx ≠ c') ∧ rd (WV_ID c') t = 0 ∧ rd (WV_STEP c') t = 0 ∧ rd (CTX_CMD c') t = 0 ∧
        fld (CTX_FAULT_CAUSE c') t = 0 ∧
        ∀ w < 4096, bit (GLD_WIN_CFG_VALID w) t = true → fld (GLD_WIN_CFG_CONTEXT w) t ≠ c')

/-! ### Integrity (R85 to R88, R367 to R382) -/

/-- Where an entry's result goes, and the bytes that stand for it there. -/
def outPlace (w : List W32) : Nat := lagoonBase (eSpindle w) + if eKind w = kTensor then tOutDst w else vOutDst w
def outForm (w : List W32) (rows : List W32) : List Byte := outBytes (if eKind w = kTensor then ef w 2 15 12 else vOutFmt w) rows

/-- What the witness computes, and whether it is flagged: a tile's own arithmetic, or a program's result and flag. -/
def witnessed (e : EntryRef) (d : Disp) (result : List W32) (flag : Bool) (env : UnitEnv) (s : State) : List W32 × Bool :=
  if eKind d.words = kTensor then
    ((replayTile e d env s).1, flagged (tileChecks d.words (replayTile e d env s).1 (replayTile e d env s).2))
  else (result, flag || flagged (vectorChecks d.words result []))

/-- The suspect failed (R370): its rows are NaN and SUSPECT_FAIL is set. -/
def suspectFailed (e : EntryRef) (d : Disp) (s t : State) : Prop :=
  entryDone e t ∧ bit INT_ERR_SUSPECT_FAIL t = true ∧
    landed (outPlace d.words) (outForm d.words (List.replicate d.result.length fpQnanStd)) s t

/-- The buddy of a live context is another node that a path leads to, and another operation may be outstanding. -/
def buddyNear (c : Nat) (s : State) : Prop :=
  let node := fld (INT_BUDDY_NODE c) s
  ctxLive c s = true ∧ s.gld.ops.length < 4096 ∧ reachable node s = true ∧ sameDomain node s = true ∧ routable node s

/-- The request has left as a SEND in TC2 with VALUE_A bit 63, to the buddy's context: the header of 1 KiB and the source. -/
def buddySent (c : Nat) (d : Disp) (s t : State) : Prop :=
  let m := buddyMessage c d s
  ∃ p tag o, handed (.packet p) t ∧ op? tag t = some o ∧ o.owner = .buddy ∧ o.payload = (m.flatMap fun w => natToBytes 4 w.toNat) ∧
    p.hdr.tag.toNat = tag ∧ p.hdr.opcode.toNat = ocSend ∧ p.hdr.tc = 2 ∧ p.hdr.valueA.getLsbD 63 = true ∧
    p.hdr.dest.toNat = fld (INT_BUDDY_NODE c) s ∧ p.hdr.msgCtx.toNat = fld (INT_BUDDY_CONTEXT c) s ∧
    p.hdr.length.toNat = 4 * m.length % 2 ^ 32

/-- A suspect takes the lowest free spare as its witness; it waits for one, or without any spare in the package the local replay is
skipped. Equality accepts the suspect's own result; a clean, different replay is
written in its place and strikes the producer; anything else asks the buddy of a tile, or fails. A replay whose fresh reads are
late waits (R130, R147). -/
def witnessing : Prop :=
  ∀ (e : EntryRef) (env : UnitEnv) (result : List W32) (flag : Bool) (d : Disp) (s : State), let c := e.ctx.toNat; let w := d.words
    let n := eSpindle w; let r := witnessed e d result flag env s
    dispAt e s = some d →
    (replayDue d s = false → Gives (.witnessReplay e) s fun t => RegsOnly [] s t) ∧
    (replayDue d s = true → eKind w = kSample → Gives (.witnessReplay e) s fun t =>
      dispAt e t = some { d with count := 1 } ∧ RegsOnly [] { s with ctxs := t.ctxs } t) ∧
    (∀ p x, replayDue d s = true → eKind w ≠ kSample → pickWitness (dieOf s n) s = some p → d.susp = some x →
      Gives (.witnessReplay e) s fun t =>
        dispAt e t = some { d with susp := some { x with witness := some p } } ∧ phState p t = phWitness ∧
          RegsOnly [INT_STRIKES p] { s with ctxs := t.ctxs } t) ∧
    (replayDue d s = true → (eKind w = kTensor ∨ eKind w = kVector) → pickWitness (dieOf s n) s = none →
      (hasSpares s = true → Gives (.witnessReplay e) s fun t => RegsOnly [] s t) ∧
      (hasSpares s = false → (bit (INT_BUDDY_VALID c) s = false ∨ eKind w = kVector) → noWindows s →
        Gives (.witnessReplay e) s fun t => suspectFailed e d s t)) ∧
    ∀ p x, p < 304 → d.st = .suspect → (eKind w = kTensor ∨ eKind w = kVector) → d.susp = some x → x.witness = some p →
      x.local_ = none → x.reef = false → x.producer < 304 → phState p s = phWitness → noWindows s → env.memUe = [] →
      env.memCe = [] →
      (replayWaits e d s = true → Gives (.witnessComplete e result flag env) s fun t => RegsOnly [] s t) ∧
      (replayWaits e d s = false →
      (r.1 = d.result → Gives (.witnessComplete e result flag env) s fun t =>
        entryDone e t ∧ phState p t = phSpare ∧ counts (INT_CNT 1) 1 s t ∧ SameMem s t ∧
          (eKind w = kTensor → counts (SPN_CNT_TILES n) 1 s t ∧ rd (SPN_CNT_ARRAY_CYC n) t = rd (SPN_CNT_ARRAY_CYC n) (countReplay e d env s)) ∧
          SameRegs [INT_STRIKES p, INT_CNT 1, SPN_CNT_TILES n, SPN_CNT_ARRAY_CYC n] s t) ∧
      (r.1 ≠ d.result → r.2 = false → Gives (.witnessComplete e result flag env) s fun t =>
        entryDone e t ∧ (dispAt e t).map (·.result) = some r.1 ∧ landed (outPlace w) (outForm w r.1) s t ∧
          counts (INT_CNT 2) 1 s t ∧ (strikeable x = true → counts (INT_CNT 7) 1 s t)) ∧
      (r.1 ≠ d.result → r.2 = true → (bit (INT_BUDDY_VALID c) s = false ∨ eKind w = kVector) →
        Gives (.witnessComplete e result flag env) s fun t => suspectFailed e d s t) ∧
      (r.1 ≠ d.result → r.2 = true → bit (INT_BUDDY_VALID c) s = true → eKind w = kTensor →
        Gives (.witnessComplete e result flag env) s fun t =>
          dispAt e t = some { d with susp := some { x with local_ := some r.1, buddy := true } } ∧
            counts (INT_CNT 3) 1 s t ∧ (buddyNear c s → buddySent c d s t)))

/-- The buddy's digest accepts the suspect's or the witness's result; another one, a refusal or no answer in time fails it. A late
answer is counted. A package asked as a buddy answers with the digest of its replay, or refuses. -/
def buddies : Prop :=
  (∀ (e : EntryRef) (a : BuddyAnswer) (d : Disp) (s : State), let w := d.words
    dispAt e s = some d → (eKind w = kTensor ∨ eKind w = kVector) →
    (buddyWaits d = false → (Gives (.buddyAnswer e a) s fun t => counts (INT_CNT 5) 1 s t ∧ RegsOnly [INT_CNT 5] s t) ∧
      Gives (.buddyTimeout e) s fun t => RegsOnly [] s t) ∧
    ∀ x, buddyWaits d = true → d.susp = some x → x.producer < 304 → (∀ p, x.witness = some p → p < 304) →
      (∀ y ∈ s.sounds, y.unit < 304) → noWindows s →
      (∀ cmd ∈ [Instr.buddyTimeout e, Instr.buddyAnswer e .refused], Gives cmd s fun t =>
        suspectFailed e d s t ∧ bit INT_ERR_BUDDY_FAIL t = true) ∧
      (Gives (.buddyAnswer e (.digest (resultDigest d.result))) s fun t =>
        entryDone e t ∧ counts (INT_CNT 4) 1 s t ∧ SameMem s t ∧ (eKind w = kTensor → counts (SPN_CNT_TILES (eSpindle w)) 1 s t)) ∧
      (∀ h l, h ≠ resultDigest d.result → x.local_ = some l →
        (h = resultDigest l → Gives (.buddyAnswer e (.digest h)) s fun t =>
          entryDone e t ∧ landed (outPlace w) (outForm w l) s t ∧ counts (INT_CNT 4) 1 s t) ∧
        (h ≠ resultDigest l → Gives (.buddyAnswer e (.digest h)) s fun t => suspectFailed e d s t))) ∧
  ∀ (src : BitVec 10) (tag : W16) (c : BitVec 6) (id : W64) (r : BuddyRequest) (s : State),
    let serves := ctxExists c.toNat s = true ∧ rd (WV_ID c.toNat) s = id ∧ (spares 0 s ≠ [] ∨ spares 1 s ≠ [])
    (∀ rows, serves → buddyRows c.toNat r s = some rows → r.env.memUe = [] → r.env.memCe = [] → Gives (.buddyRequest src tag c id r) s fun t =>
      .buddyAnswer src.toNat tag (some (resultDigest rows)) ∈ t.sent ∧ counts (INT_CNT 6) 1 s t ∧ RegsOnly [INT_CNT 6] s t) ∧
    (¬serves → Gives (.buddyRequest src tag c id r) s fun t => .buddyAnswer src.toNat tag none ∈ t.sent ∧ RegsOnly [] s t)

/-- How a suspect is replayed and judged. SHA-384 is an uninterpreted function (log 3). -/
def Obligations.Suspects : Prop := witnessing ∧ buddies

/-- Logical number n is fenced with a cause; its physical spindle waits for a sounding. -/
def fencedNow (n p cause : Nat) (s t : State) : Prop :=
  (spn n t).fence = some cause ∧ (∀ m, m ≠ n → spn m t = spn m s) ∧ counts (INT_CNT 8) 1 s t ∧ soundPending p t = true ∧ SameMem s t

/-- Strikes expire WIN_BEATS after they were given. A tile that hangs and a write of INT_FENCE fence their logical number, which at
the next edge a spare of the die takes over; without a spare its contexts fault with cause INTEGRITY. -/
def fences : Prop :=
  (∀ (p : Nat) (s : State), let l := (lookup s.strikes [] p).filter fun b => beat s < b + fld INT_STRIKE_CFG_WIN_BEATS s
    Gives (.strikeExpiry p) s fun t =>
      lookup t.strikes [] p = l ∧ fld (INT_STRIKES_COUNT p) t = min l.length 15 ∧
        RegsOnly [INT_STRIKES p] { s with strikes := t.strikes } t) ∧
  (∀ (n : Nat) (s : State),
    (entryOn n s = false → Gives (.hangTimeout n) s fun t => RegsOnly [] s t) ∧
    ∀ p, entryOn n s = true → physOf n s = some p → (spn n s).fence = none → Gives (.hangTimeout n) s fun t => fencedNow n p 2 s t) ∧
  (∀ (v : W32) (s : State), Answers INT_FENCE s → let x := written INT_FENCE (v.setWidth 64) s; let n := fldOf INT_FENCE_SPINDLE x.1
    x.2 = false →
    (v.getLsbD 31 = false → Gives (.intFence v) s fun t => rd INT_FENCE t = x.1 ∧ RegsOnly [INT_FENCE] s t) ∧
    (v.getLsbD 31 = true → physOf n s = none → Gives (.intFence v) s fun t =>
      bit INT_FENCE_GO t = false ∧ fld INT_FENCE_SPINDLE t = n ∧ RegsOnly [INT_FENCE] s t) ∧
    ∀ p, v.getLsbD 31 = true → physOf n s = some p → (spn n s).fence = none → Gives (.intFence v) s fun t => fencedNow n p 3 s t) ∧
  ∀ (late : List Overrun) (energy : BeatEnergy) (n p cause : Nat) (x : Spn) (s : State),
    beating s = true → s.voteDue = false → noSkips s → (s.spns.filter fun y => y.2.fence.isSome) = [(n, x)] → x.fence = some cause →
    physOf n s = some p →
    (∀ q rest, spares (p / 152) s = q :: rest → soundPending q s = false → Gives (.beatEdge ⟨late, []⟩ energy none) s fun t =>
      phState q t = phServing ∧ fld (INT_STRIKES_LOGICAL q) t = n ∧ (phState p t = phWithheld ∨ phState p t = phSounding) ∧
        ∀ c < 64, ctxExists c s = true → (ctx c s).weave.set.contains n = true → (ctx c s).step.isSome → t.replayAsk.getLsbD c = true) ∧
    (spares (p / 152) s = [] → (∀ y ∈ s.sounds, y.unit < 304) → Gives (.beatEdge ⟨late, []⟩ energy none) s fun t =>
      phState p t = phRetired ∧ bit INT_ERR_UNSERVED t = true ∧
        ∀ c < 64, ctxLive c s = true → (ctx c s).weave.set.contains n = true → faultedWith c cfIntegrity t)

/-- A driver's sounding command is refused for a retired or fused spindle, and for a unit while a context exists; otherwise it is
scheduled, after a fence where the spindle serves. A sounding that passes makes its spindle a spare without strikes; one that fails
retires it. -/
def soundings : Prop :=
  (∀ (v : W32) (s : State), Answers INT_SOUND_CMD s → let x := written INT_SOUND_CMD (v.setWidth 64) s
    let k := fldOf INT_SOUND_CMD_KIND x.1; let u := fldOf INT_SOUND_CMD_UNIT x.1; let p := fldOf INT_SOUND_CMD_DIE x.1 * 152 + u
    x.2 = false → v.getLsbD 31 = true →
    (bit INT_STATUS_SOUND_BUSY s = true → Gives (.sounding v) s fun t =>
      bit INT_SOUND_CMD_GO t = false ∧ RegsOnly [INT_SOUND_CMD] s t) ∧
    (bit INT_STATUS_SOUND_BUSY s = false →
      ((k = 0 ∧ u < 152 ∧ (phState p s = phRetired ∨ phState p s = phFused) ∨ 1 ≤ k ∧ k ≤ 3 ∧ anyCtx s = true) →
        Gives (.sounding v) s fun t => fld INT_SOUND_STATUS_RESULT t = 3 ∧ RegsOnly [INT_SOUND_CMD, INT_SOUND_STATUS] s t) ∧
      (k = 0 → u < 152 → phState p s = phServing → physOf (fld (INT_STRIKES_LOGICAL p) s) s = some p →
        (spn (fld (INT_STRIKES_LOGICAL p) s) s).fence = none → Gives (.sounding v) s fun t =>
          fencedNow (fld (INT_STRIKES_LOGICAL p) s) p 3 s t ∧ bit INT_SOUND_STATUS_BUSY t = true) ∧
      (k = 0 → u < 152 → phState p s = phSpare → s.sounds = [] → Gives (.sounding v) s fun t =>
        t.sounds = [{ kind := 0, unit := p, cause := 8 }] ∧ phState p t = phSounding ∧ bit INT_STATUS_SOUND_BUSY t = true ∧
          counts (INT_CNT 10) 1 s t) ∧
      (1 ≤ k → k ≤ 3 → anyCtx s = false → (k = 1 → atollHere s u = true) → s.sounds = [] → Gives (.sounding v) s fun t =>
        t.sounds = [{ kind := k, unit := u, cause := 8 }] ∧ bit INT_STATUS_SOUND_BUSY t = true ∧ counts (INT_CNT 10) 1 s t))) ∧
  ∀ (pass : Bool) (block : BitVec 4) (s : State),
    (bit INT_STATUS_SOUND_BUSY s = false → Gives (.soundingComplete pass block) s fun t => RegsOnly [] s t) ∧
    ∀ x, bit INT_STATUS_SOUND_BUSY s = true → s.sounds = [x] → x.unit < 304 → Gives (.soundingComplete pass block) s fun t =>
      t.sounds = [] ∧ bit INT_STATUS_SOUND_BUSY t = false ∧ fld INT_SOUND_STATUS_RESULT t = (if pass then 1 else 2) ∧
      fld INT_SOUND_STATUS_BLOCK t = (if pass then 0 else block.toNat) ∧
      (x.kind = 0 → pass = true → phState x.unit t = phSpare ∧ fld (INT_STRIKES_COUNT x.unit) t = 0 ∧ lookup t.strikes [] x.unit = []) ∧
      (x.kind = 0 → pass = false → phState x.unit t = phRetired)

/-- Strikes, fences and soundings. A reserved KIND starts nothing (log 19). -/
def Obligations.FencesAndSoundings : Prop := fences ∧ soundings

/-! ### Events: each has its own effect (R276 to R282, R289, R306, R310, R337 to R346, R368 to R376, R426 to R448) -/

/-- Events on ports and links. -/
def linkEvents (s : State) : Prop :=
  (∀ p : BitVec 3, let i := p.toNat
    (Gives (.prsntMate p) s fun t => i < 7 → t.pins.mated.getLsbD i = true) ∧
    (Gives (.prsntRelease p) s fun t => i < 7 → t.pins.mated.getLsbD i = false) ∧
    (portHere s i = true → linkRuns i s = true → Gives (.signalLoss p) s fun t => counts (GLD_PORT_CNT i 3) 1 s t) ∧
    (∀ l : BitVec 5, s.boot.on = true → portHere s i = true → portState i s ≠ pDown → l.toNat ≤ 16 →
      (bit (GLD_PORT_LANES_REPAIRED i) s = true → Gives (.laneRepair p l) s fun t => counts (GLD_PORT_CNT i 3) 1 s t) ∧
      (bit (GLD_PORT_LANES_REPAIRED i) s = false → wearOf (crnOff (CRN_LANE_MAP i)) s < wearLimit →
        Gives (.laneRepair p l) s fun t => rd (CRN_LANE_MAP i) t = BitVec.ofNat 64 (2 ^ 15 + l.toNat))) ∧
    (mayTrain i s = true → portState i s = pDown → Gives (.retrainInterval p) s fun t => portState i t = pTraining) ∧
    (∀ how : TrainEnd, portState i s = pTraining → (port i s).retraining = false → Gives (.portTrainingDone p how) s fun t =>
      (how.ok = true → i ∈ t.boot.trained ∧ i ∉ t.boot.useDefaults) ∧ (how.ok = false → i ∈ t.boot.useDefaults)) ∧
    (portBusy i s = true →
      (Gives (.portRetrainDone p true) s fun t => linkSession i t = linkSession i s ∧
        ((0, i) ∉ s.boot.retrainQ → (port i t).retraining = false)) ∧
      Gives (.portRetrainDone p false) s fun t => i ∈ t.boot.useDefaults)) ∧
  (∀ (pos : BitVec 7) (dir : BitVec 3), s.boot.on = true → dir.toNat < 6 →
    (Gives (.portDownNotice pos dir) s fun t => (pos.toNat, dir.toNat) ∈ t.gld.downLinks) ∧
    Gives (.portUp pos dir) s fun t => (pos.toNat, dir.toNat) ∉ t.gld.downLinks) ∧
  (∀ w : BitVec 12, w.toNat ∈ s.gld.draining → Gives (.windowDrainDone w) s fun t =>
    w.toNat ∉ t.gld.draining ∧ bit (GLD_WIN_CFG_VALID w.toNat) t = false) ∧
  (∀ v : W32, Answers GLD_NODE s → anyCtx s = false → Gives (.gldNodeWrite v) s fun t =>
    fld GLD_NODE_NODE t = fldOf GLD_NODE_NODE (written GLD_NODE (v.setWidth 64) s).1) ∧
  (∀ (c : BitVec 6) (v : W64), let new := (written (GLD_MSG_RING c.toNat) v s).1
    Answers (GLD_MSG_RING c.toNat) s → fldOf (GLD_MSG_RING_VALID c.toNat) new = 0 → Gives (.msgRingWrite c v) s fun t =>
      rd (GLD_MSG_RING c.toNat) t = new) ∧
  ∀ p : Packet, let h := p.hdr; let c := h.msgCtx.toNat; let i := fld (GLD_MSG_STATUS_HEAD c) s
    s.boot.on = true → nodeValid s = true → bit PWR_HAVEN_ACTIVE s = false → h.opcode.toNat = ocSend → h.dest.toNat = myNode s →
    p.crc = packetCrc h p.payload → (sameDomain h.src.toNat s = true ∨ (openPayload h p.payload s).isSome = true) →
    (∀ d ∈ s.gld.history, ¬(d.src = h.src.toNat ∧ d.tag = h.tag.toNat)) → h.valueA.getLsbD 63 = false →
    bit (GLD_MSG_RING_VALID c) s = true → h.length.toNat ≤ slotBytes c s - 64 → alignedOk p = true →
    find? s.gld.sends (sendKey c h.src.toNat h.tag.toNat) = none → slotsUsed c s < ringSlots c s →
    memWaits true (slotAddr c i s) (slotBytes c s) s = false → Gives (.send (.message p)) s fun t =>
      fld (GLD_MSG_STATUS_HEAD c) t = (i + 1) % 65536

/-- Events of replays, fences and soundings. -/
def replayEvents (s : State) : Prop :=
  (∀ (e : EntryRef) (d : Disp) (x : Suspect), let w := d.words
    dispAt e s = some d → d.susp = some x → (eKind w = kTensor ∨ eKind w = kVector) →
    (∀ p, replayDue d s = true → pickWitness (dieOf s (eSpindle w)) s = some p → Gives (.witnessReplay e) s fun t =>
      phState p t = phWitness) ∧
    (∀ (env : UnitEnv) (result : List W32) (flag : Bool) (p : Nat), d.st = .suspect → x.witness = some p → x.local_ = none →
      x.reef = false → phState p s = phWitness → replayWaits e d s = false → env.memUe = [] → env.memCe = [] →
      (witnessed e d result flag env s).1 = d.result → Gives (.witnessComplete e result flag env) s fun t => counts (INT_CNT 1) 1 s t) ∧
    (buddyWaits d = true →
      (Gives (.buddyAnswer e (.digest (resultDigest d.result))) s fun t => counts (INT_CNT 4) 1 s t) ∧
      Gives (.buddyTimeout e) s fun t => bit INT_ERR_BUDDY_FAIL t = true)) ∧
  (∀ (src : BitVec 10) (tag : W16) (c : BitVec 6) (id : W64) (r : BuddyRequest) (rows : List W32),
    ctxExists c.toNat s = true → rd (WV_ID c.toNat) s = id → (spares 0 s ≠ [] ∨ spares 1 s ≠ []) → buddyRows c.toNat r s = some rows →
    Gives (.buddyRequest src tag c id r) s fun t => .buddyAnswer src.toNat tag (some (resultDigest rows)) ∈ t.sent) ∧
  (∀ p : Nat, Gives (.strikeExpiry p) s fun t =>
    lookup t.strikes [] p = (lookup s.strikes [] p).filter fun b => beat s < b + fld INT_STRIKE_CFG_WIN_BEATS s) ∧
  (∀ n p : Nat, entryOn n s = true → physOf n s = some p → Gives (.hangTimeout n) s fun t => (spn n t).fence.isSome = true) ∧
  (∀ v : W32, Answers INT_FENCE s → let x := written INT_FENCE (v.setWidth 64) s
    x.2 = false → v.getLsbD 31 = true → (physOf (fldOf INT_FENCE_SPINDLE x.1) s).isSome = true → Gives (.intFence v) s fun t =>
      (spn (fldOf INT_FENCE_SPINDLE x.1) t).fence.isSome = true) ∧
  (∀ v : W32, Answers INT_SOUND_CMD s → let x := written INT_SOUND_CMD (v.setWidth 64) s
    let k := fldOf INT_SOUND_CMD_KIND x.1; let u := fldOf INT_SOUND_CMD_UNIT x.1
    x.2 = false → v.getLsbD 31 = true → bit INT_STATUS_SOUND_BUSY s = false → 1 ≤ k → k ≤ 3 → anyCtx s = false →
    (k = 1 → atollHere s u = true) → s.sounds = [] → Gives (.sounding v) s fun t =>
      t.sounds = [{ kind := k, unit := u, cause := 8 }] ∧ bit INT_STATUS_SOUND_BUSY t = true) ∧
  ∀ (pass : Bool) (block : BitVec 4), bit INT_STATUS_SOUND_BUSY s = true → s.sounds ≠ [] → Gives (.soundingComplete pass block) s fun t =>
    t.sounds.length + 1 = s.sounds.length ∧ fld INT_SOUND_STATUS_RESULT t = (if pass then 1 else 2)

/-- Events of ferry channels. -/
def channelEvents (s : State) : Prop :=
  (∀ (e : EntryRef) (d : Disp) (n : Nat), let fd : FryDesc := { words := d.words, src := .entry e, step := (rd (WV_STEP e.ctx.toNat) s).toNat }
    ready e kFerry s = some d → n < 64 → chanAt e.ctx.toNat ((d.words.getD 1 0).toNat / 2 ^ 26) s = some n → channelsIdle s →
    (chan n s).shadow = none → (chan n s).state = .idle → (d.words.getD 0 0).getLsbD 27 = false → emptyXfer fd = false →
    fTrigger fd = 0 → isRemote fd = false → chanOut n s = false → Gives (.ferryEntry e) s fun t =>
      (chan n t).state = .running ∧ (chan n t).active = some fd) ∧
  ∀ (ch : BitVec 6) (v : W32), let n := ch.toNat; let x := chan n s; let fd := shadowDesc n s
    Answers (FRY_CH_CMD n) s → onlyChannel n s →
    (isDriver n s = true → x.owner = none → v.getLsbD 0 = true → v.getLsbD 1 = false → v.getLsbD 2 = false → x.shadow = none →
      x.state = .idle → descOk true fd = true → driverOk fd s = true → fTrigger fd = 0 → emptyXfer fd = false → isRemote fd = false →
      Gives (.load ch v) s fun t => (chan n t).state = .running ∧ (chan n t).active = some fd) ∧
    (v.getLsbD 0 = false → v.getLsbD 1 = true → v.getLsbD 2 = false → x.state = .halted →
      (∀ d, x.active = some d → emptyXfer d = false ∧ isRemote d = false) → Gives (.resume ch v true) s fun t =>
        (chan n t).state = .running) ∧
    (v.getLsbD 0 = false → v.getLsbD 1 = false → v.getLsbD 2 = true → isDriver n s = true → x.owner = none → x.state = .running →
      Gives (.abort ch v) s fun t => (chan n t).state = .aborted) ∧
    (∀ d, x.state = .armed → x.active = some d → d.src = .driver → d.words ≠ [] → fTrigger d = 1 → emptyXfer d = false →
      isRemote d = false → x.owner = none → Gives (.timerTrigger ch) s fun t => (chan n t).state = .running) ∧
    (∀ (k0 k1 k2 : Nat) (d : FryDesc), x.state = .running → x.active = some d → x.tries = none → 0 < fld (FRY_CH_CFG_RETRY n) s →
      Gives (.busError ch k0 k1 k2) s fun t => counts (FRY_CNT 3) 1 s t) ∧
    ∀ (ext : List Byte) (ns : Nat) (env : UnitEnv) (d : FryDesc), transferRuns n d s → isRemote d = true → hostBarred d s = false →
      xferWaits n d s = false → env.memUe = [] → remoteDone n d s = true → Gives (.transferComplete ch ext ns env) s fun t =>
        counts (FRY_CNT 0) 1 s t

/-- Events of bring-up, the host link and power. -/
def packageEvents (s : State) : Prop :=
  (∀ clk : Bool, Gives (.perstDeassert clk) s fun t => t.pins.perst = false ∧ t.pins.commonClock = clk) ∧
  (Gives .perstAssert s fun t => t.pins.perst = true) ∧
  (∀ cmd : Byte, s.pins.v48 = true → Gives (.mctpControl cmd) s fun t => .i3cAnswer (0x30 + s.pins.i3cStraps.toNat) cmd.toNat ∈ t.sent) ∧
  (s.boot.on = true →
    (stage s = stPower → Gives .powerGood s fun t => stage t = stRom ∧ t.pins.pwrgd = true) ∧
    (∀ us : Nat, 1 ≤ stage s → stage s ≤ 8 → stageDone (stage s) s = true → bit BRG_CTRL_WARM s = false →
      Gives (.stageComplete us) s fun t => stage t = stage s + 1) ∧
    (∀ x : SelfTest, stage s = stSelftest → s.boot.tested = false → x.harbour = false → Gives (.selftestDone x) s fun t =>
      t.boot.tested = true) ∧
    (s.boot.tested = true → stage s ≠ stHaven → stage s ≠ stFailed → Gives .hotReset s fun t => stage t = stWarm ∧ t.boot.rejoin = 1) ∧
    (∀ (us : Nat) (x : SelfTest) (l : List Nat) (b : W64), stage s = stWarm → belowFloor s = false → s.pwr.thermB = 0 →
      Gives (.warmRejoinDone us x l b) s fun t => stage t = stReady ∧ t.boot.rejoin = 0) ∧
    (∀ (d : BitVec 384) (svn : W16), stage s = stFwFetch → s.boot.fwRuns = false → bit BRG_CTRL_FW_GO s = true → s.fuse.minSvn.toNat ≤ svn.toNat →
      Gives (.fwFetchDone true true svn d) s fun t => t.boot.fwRuns = true ∧ t.boot.fwDigest = d) ∧
    (∀ (p : BitVec 3) (d : BitVec 384) (svn : W16), stage s = stFwFetch → broadcast s = true → p.toNat < 6 → (port p.toNat s).linked = true →
      Gives (.bootOffer p d svn) s fun t => (p.toNat, d, svn) ∈ t.boot.offers) ∧
    (∀ fns : W16, stage s = stReady → fns ≠ 0 → Gives (.hostLinkDown fns) s fun t => t.boot.hostDown = s.boot.hostDown ||| fns) ∧
    (∀ fns : W16, s.pins.perst = false → Gives (.hostLinkUp fns) s fun t => t.boot.hostDown = s.boot.hostDown &&& ~~~fns) ∧
    (s.boot.hostDown ≠ 0 → Gives .hostLossTimeout s fun t => t.hostHeld = [] ∧ bit BRG_ERR_HOST_LOST t = true) ∧
    (∀ m : PowerIn, Gives (.powerSample m) s fun t => fld PWR_MEAS_INST_W t = m.instW % 2 ^ 16) ∧
    (diesDown s = false → bit PWR_STATUS_STEPPING s = true → Gives .vfStepDone s fun t => fld PWR_STATUS_POINT t = s.pwr.stepTo % 32) ∧
    (∀ (die : Bool) (mv : Nat), diesDown s = false → Gives (.droopAlarm die mv true) s fun t => die ∈ t.pwr.droopDies) ∧
    (bit PWR_HAVEN_ACTIVE s = false →
      (belowFloor s = true → Gives .floorTimeout s fun t => bit PWR_HAVEN_ACTIVE t = true ∧ fld PWR_HAVEN_CAUSE t = 1) ∧
      (s.pwr.thermB ≠ 0 → Gives .thermalLimitTimeout s fun t => bit PWR_HAVEN_ACTIVE t = true ∧ fld PWR_HAVEN_CAUSE t = 2))) ∧
  ∀ v : W32,
    (onBus s = true → fusedOff BRG_CTRL s = false →
      (v.getLsbD 2 = true → Gives (.cold v) s fun t => stage t = stPower ∧ bit BRG_STATUS_COLD t = true) ∧
      (v.getLsbD 2 = false → v.getLsbD 1 = true → mayRejoin s = true → Gives (.warm v) s fun t => stage t = stWarm ∧ t.boot.rejoin = 1) ∧
      (v.getLsbD 2 = false → v.getLsbD 1 = false → v.getLsbD 0 = true → stage s ≤ stFwFetch → s.boot.fwRuns = false →
        Gives (.fwGo v) s fun t => bit BRG_CTRL_FW_GO t = true)) ∧
    (Answers PWR_HAVEN s → s.boot.tested = true →
      (v.getLsbD 1 = true → bit PWR_HAVEN_ACTIVE s = false → Gives (.havenEnter v) s fun t =>
        bit PWR_HAVEN_ACTIVE t = true ∧ fld PWR_HAVEN_CAUSE t = 3) ∧
      (v.getLsbD 1 = false → v.getLsbD 0 = true → bit PWR_HAVEN_ACTIVE s = true → exitAllowed s = true →
        Gives (.havenExit v) s fun t => stage t = stWarm ∧ t.boot.rejoin = 1))

/-- An event completes with its own effect: each of the events on ports and links, of replays, fences and soundings,
of ferry channels, and of bring-up, the host link and power, under the conditions of its rule. What the model reads
into bring-up events is log 148's, and into pair sessions log 147's; a sounding that starts at once is log 19's
reading. -/
def Obligations.EventEffects : Prop :=
  ∀ s : State, linkEvents s ∧ replayEvents s ∧ channelEvents s ∧ packageEvents s
end

