-- ==== Sys2Proof/Laws/State.lean ====
section
/-! SUPPORT. Laws/State.lean: each named update leaves every field of the state but its own alone. -/

namespace Sys2Proof.Machine

/-! ### wr -/

@[simp] theorem wr_fuse (o : Nat) (v : W64) (s : State) : (wr o v s).fuse = s.fuse := rfl
@[simp] theorem wr_pins (o : Nat) (v : W64) (s : State) : (wr o v s).pins = s.pins := rfl
@[simp] theorem wr_boot (o : Nat) (v : W64) (s : State) : (wr o v s).boot = s.boot := rfl
@[simp] theorem wr_caps (o : Nat) (v : W64) (s : State) : (wr o v s).caps = s.caps := rfl
@[simp] theorem wr_latches (o : Nat) (v : W64) (s : State) : (wr o v s).latches = s.latches := rfl
@[simp] theorem wr_heldLow (o : Nat) (v : W64) (s : State) : (wr o v s).heldLow = s.heldLow := rfl
@[simp] theorem wr_rdata (o : Nat) (v : W64) (s : State) : (wr o v s).rdata = s.rdata := rfl
@[simp] theorem wr_msix (o : Nat) (v : W64) (s : State) : (wr o v s).msix = s.msix := rfl
@[simp] theorem wr_sent (o : Nat) (v : W64) (s : State) : (wr o v s).sent = s.sent := rfl
@[simp] theorem wr_free (o : Nat) (v : W64) (s : State) : (wr o v s).free = s.free := rfl
@[simp] theorem wr_sec (o : Nat) (v : W64) (s : State) : (wr o v s).sec = s.sec := rfl
@[simp] theorem wr_mem (o : Nat) (v : W64) (s : State) : (wr o v s).mem = s.mem := rfl
@[simp] theorem wr_staples (o : Nat) (v : W64) (s : State) : (wr o v s).staples = s.staples := rfl
@[simp] theorem wr_lagoonBad (o : Nat) (v : W64) (s : State) : (wr o v s).lagoonBad = s.lagoonBad := rfl
@[simp] theorem wr_scrubPos (o : Nat) (v : W64) (s : State) : (wr o v s).scrubPos = s.scrubPos := rfl
@[simp] theorem wr_digests (o : Nat) (v : W64) (s : State) : (wr o v s).digests = s.digests := rfl
@[simp] theorem wr_swap (o : Nat) (v : W64) (s : State) : (wr o v s).swap = s.swap := rfl
@[simp] theorem wr_digestPass (o : Nat) (v : W64) (s : State) : (wr o v s).digestPass = s.digestPass := rfl
@[simp] theorem wr_acc (o : Nat) (v : W64) (s : State) : (wr o v s).acc = s.acc := rfl
@[simp] theorem wr_skeins (o : Nat) (v : W64) (s : State) : (wr o v s).skeins = s.skeins := rfl
@[simp] theorem wr_hank (o : Nat) (v : W64) (s : State) : (wr o v s).hank = s.hank := rfl
@[simp] theorem wr_stops (o : Nat) (v : W64) (s : State) : (wr o v s).stops = s.stops := rfl
@[simp] theorem wr_stopsNext (o : Nat) (v : W64) (s : State) : (wr o v s).stopsNext = s.stopsNext := rfl
@[simp] theorem wr_ringFns (o : Nat) (v : W64) (s : State) : (wr o v s).ringFns = s.ringFns := rfl
@[simp] theorem wr_kv (o : Nat) (v : W64) (s : State) : (wr o v s).kv = s.kv := rfl
@[simp] theorem wr_reefHeld (o : Nat) (v : W64) (s : State) : (wr o v s).reefHeld = s.reefHeld := rfl
@[simp] theorem wr_bars (o : Nat) (v : W64) (s : State) : (wr o v s).bars = s.bars := rfl
@[simp] theorem wr_chans (o : Nat) (v : W64) (s : State) : (wr o v s).chans = s.chans := rfl
@[simp] theorem wr_fryKeys (o : Nat) (v : W64) (s : State) : (wr o v s).fryKeys = s.fryKeys := rfl
@[simp] theorem wr_fryTurn (o : Nat) (v : W64) (s : State) : (wr o v s).fryTurn = s.fryTurn := rfl
@[simp] theorem wr_gld (o : Nat) (v : W64) (s : State) : (wr o v s).gld = s.gld := rfl
@[simp] theorem wr_spns (o : Nat) (v : W64) (s : State) : (wr o v s).spns = s.spns := rfl
@[simp] theorem wr_ctxs (o : Nat) (v : W64) (s : State) : (wr o v s).ctxs = s.ctxs := rfl
@[simp] theorem wr_load (o : Nat) (v : W64) (s : State) : (wr o v s).load = s.load := rfl
@[simp] theorem wr_edge (o : Nat) (v : W64) (s : State) : (wr o v s).edge = s.edge := rfl
@[simp] theorem wr_voteDue (o : Nat) (v : W64) (s : State) : (wr o v s).voteDue = s.voteDue := rfl
@[simp] theorem wr_replayAsk (o : Nat) (v : W64) (s : State) : (wr o v s).replayAsk = s.replayAsk := rfl
@[simp] theorem wr_tallyRoot (o : Nat) (v : W64) (s : State) : (wr o v s).tallyRoot = s.tallyRoot := rfl
@[simp] theorem wr_goodOffsets (o : Nat) (v : W64) (s : State) : (wr o v s).goodOffsets = s.goodOffsets := rfl
@[simp] theorem wr_fenceGo (o : Nat) (v : W64) (s : State) : (wr o v s).fenceGo = s.fenceGo := rfl
@[simp] theorem wr_gone (o : Nat) (v : W64) (s : State) : (wr o v s).gone = s.gone := rfl
@[simp] theorem wr_taintAt (o : Nat) (v : W64) (s : State) : (wr o v s).taintAt = s.taintAt := rfl
@[simp] theorem wr_strikes (o : Nat) (v : W64) (s : State) : (wr o v s).strikes = s.strikes := rfl
@[simp] theorem wr_sounds (o : Nat) (v : W64) (s : State) : (wr o v s).sounds = s.sounds := rfl
@[simp] theorem wr_profiles (o : Nat) (v : W64) (s : State) : (wr o v s).profiles = s.profiles := rfl
@[simp] theorem wr_profCommit (o : Nat) (v : W64) (s : State) : (wr o v s).profCommit = s.profCommit := rfl
@[simp] theorem wr_hostHeld (o : Nat) (v : W64) (s : State) : (wr o v s).hostHeld = s.hostHeld := rfl
@[simp] theorem wr_lostRings (o : Nat) (v : W64) (s : State) : (wr o v s).lostRings = s.lostRings := rfl
@[simp] theorem wr_pwr (o : Nat) (v : W64) (s : State) : (wr o v s).pwr = s.pwr := rfl
@[simp] theorem wr_wear (o : Nat) (v : W64) (s : State) : (wr o v s).wear = s.wear := rfl
@[simp] theorem wr_pending (o : Nat) (v : W64) (s : State) : (wr o v s).pending = s.pending := rfl

/-! ### setFld -/

@[simp] theorem setFld_fuse (f : FRef) (x : Nat) (s : State) : (setFld f x s).fuse = s.fuse := rfl
@[simp] theorem setFld_pins (f : FRef) (x : Nat) (s : State) : (setFld f x s).pins = s.pins := rfl
@[simp] theorem setFld_boot (f : FRef) (x : Nat) (s : State) : (setFld f x s).boot = s.boot := rfl
@[simp] theorem setFld_caps (f : FRef) (x : Nat) (s : State) : (setFld f x s).caps = s.caps := rfl
@[simp] theorem setFld_latches (f : FRef) (x : Nat) (s : State) : (setFld f x s).latches = s.latches := rfl
@[simp] theorem setFld_heldLow (f : FRef) (x : Nat) (s : State) : (setFld f x s).heldLow = s.heldLow := rfl
@[simp] theorem setFld_rdata (f : FRef) (x : Nat) (s : State) : (setFld f x s).rdata = s.rdata := rfl
@[simp] theorem setFld_msix (f : FRef) (x : Nat) (s : State) : (setFld f x s).msix = s.msix := rfl
@[simp] theorem setFld_sent (f : FRef) (x : Nat) (s : State) : (setFld f x s).sent = s.sent := rfl
@[simp] theorem setFld_free (f : FRef) (x : Nat) (s : State) : (setFld f x s).free = s.free := rfl
@[simp] theorem setFld_sec (f : FRef) (x : Nat) (s : State) : (setFld f x s).sec = s.sec := rfl
@[simp] theorem setFld_mem (f : FRef) (x : Nat) (s : State) : (setFld f x s).mem = s.mem := rfl
@[simp] theorem setFld_staples (f : FRef) (x : Nat) (s : State) : (setFld f x s).staples = s.staples := rfl
@[simp] theorem setFld_lagoonBad (f : FRef) (x : Nat) (s : State) : (setFld f x s).lagoonBad = s.lagoonBad := rfl
@[simp] theorem setFld_scrubPos (f : FRef) (x : Nat) (s : State) : (setFld f x s).scrubPos = s.scrubPos := rfl
@[simp] theorem setFld_digests (f : FRef) (x : Nat) (s : State) : (setFld f x s).digests = s.digests := rfl
@[simp] theorem setFld_swap (f : FRef) (x : Nat) (s : State) : (setFld f x s).swap = s.swap := rfl
@[simp] theorem setFld_digestPass (f : FRef) (x : Nat) (s : State) : (setFld f x s).digestPass = s.digestPass := rfl
@[simp] theorem setFld_acc (f : FRef) (x : Nat) (s : State) : (setFld f x s).acc = s.acc := rfl
@[simp] theorem setFld_skeins (f : FRef) (x : Nat) (s : State) : (setFld f x s).skeins = s.skeins := rfl
@[simp] theorem setFld_hank (f : FRef) (x : Nat) (s : State) : (setFld f x s).hank = s.hank := rfl
@[simp] theorem setFld_stops (f : FRef) (x : Nat) (s : State) : (setFld f x s).stops = s.stops := rfl
@[simp] theorem setFld_stopsNext (f : FRef) (x : Nat) (s : State) : (setFld f x s).stopsNext = s.stopsNext := rfl
@[simp] theorem setFld_ringFns (f : FRef) (x : Nat) (s : State) : (setFld f x s).ringFns = s.ringFns := rfl
@[simp] theorem setFld_kv (f : FRef) (x : Nat) (s : State) : (setFld f x s).kv = s.kv := rfl
@[simp] theorem setFld_reefHeld (f : FRef) (x : Nat) (s : State) : (setFld f x s).reefHeld = s.reefHeld := rfl
@[simp] theorem setFld_bars (f : FRef) (x : Nat) (s : State) : (setFld f x s).bars = s.bars := rfl
@[simp] theorem setFld_chans (f : FRef) (x : Nat) (s : State) : (setFld f x s).chans = s.chans := rfl
@[simp] theorem setFld_fryKeys (f : FRef) (x : Nat) (s : State) : (setFld f x s).fryKeys = s.fryKeys := rfl
@[simp] theorem setFld_fryTurn (f : FRef) (x : Nat) (s : State) : (setFld f x s).fryTurn = s.fryTurn := rfl
@[simp] theorem setFld_gld (f : FRef) (x : Nat) (s : State) : (setFld f x s).gld = s.gld := rfl
@[simp] theorem setFld_spns (f : FRef) (x : Nat) (s : State) : (setFld f x s).spns = s.spns := rfl
@[simp] theorem setFld_ctxs (f : FRef) (x : Nat) (s : State) : (setFld f x s).ctxs = s.ctxs := rfl
@[simp] theorem setFld_load (f : FRef) (x : Nat) (s : State) : (setFld f x s).load = s.load := rfl
@[simp] theorem setFld_edge (f : FRef) (x : Nat) (s : State) : (setFld f x s).edge = s.edge := rfl
@[simp] theorem setFld_voteDue (f : FRef) (x : Nat) (s : State) : (setFld f x s).voteDue = s.voteDue := rfl
@[simp] theorem setFld_replayAsk (f : FRef) (x : Nat) (s : State) : (setFld f x s).replayAsk = s.replayAsk := rfl
@[simp] theorem setFld_tallyRoot (f : FRef) (x : Nat) (s : State) : (setFld f x s).tallyRoot = s.tallyRoot := rfl
@[simp] theorem setFld_goodOffsets (f : FRef) (x : Nat) (s : State) : (setFld f x s).goodOffsets = s.goodOffsets := rfl
@[simp] theorem setFld_fenceGo (f : FRef) (x : Nat) (s : State) : (setFld f x s).fenceGo = s.fenceGo := rfl
@[simp] theorem setFld_gone (f : FRef) (x : Nat) (s : State) : (setFld f x s).gone = s.gone := rfl
@[simp] theorem setFld_taintAt (f : FRef) (x : Nat) (s : State) : (setFld f x s).taintAt = s.taintAt := rfl
@[simp] theorem setFld_strikes (f : FRef) (x : Nat) (s : State) : (setFld f x s).strikes = s.strikes := rfl
@[simp] theorem setFld_sounds (f : FRef) (x : Nat) (s : State) : (setFld f x s).sounds = s.sounds := rfl
@[simp] theorem setFld_profiles (f : FRef) (x : Nat) (s : State) : (setFld f x s).profiles = s.profiles := rfl
@[simp] theorem setFld_profCommit (f : FRef) (x : Nat) (s : State) : (setFld f x s).profCommit = s.profCommit := rfl
@[simp] theorem setFld_hostHeld (f : FRef) (x : Nat) (s : State) : (setFld f x s).hostHeld = s.hostHeld := rfl
@[simp] theorem setFld_lostRings (f : FRef) (x : Nat) (s : State) : (setFld f x s).lostRings = s.lostRings := rfl
@[simp] theorem setFld_pwr (f : FRef) (x : Nat) (s : State) : (setFld f x s).pwr = s.pwr := rfl
@[simp] theorem setFld_wear (f : FRef) (x : Nat) (s : State) : (setFld f x s).wear = s.wear := rfl
@[simp] theorem setFld_pending (f : FRef) (x : Nat) (s : State) : (setFld f x s).pending = s.pending := rfl

/-! ### setFlds -/

@[simp] theorem setFlds_fuse (l : List (FRef × Nat)) (s : State) : (setFlds l s).fuse = s.fuse := by
  induction l generalizing s with
  | nil => rfl
  | cons e r ih => exact ih _
@[simp] theorem setFlds_pins (l : List (FRef × Nat)) (s : State) : (setFlds l s).pins = s.pins := by
  induction l generalizing s with
  | nil => rfl
  | cons e r ih => exact ih _
@[simp] theorem setFlds_boot (l : List (FRef × Nat)) (s : State) : (setFlds l s).boot = s.boot := by
  induction l generalizing s with
  | nil => rfl
  | cons e r ih => exact ih _
@[simp] theorem setFlds_caps (l : List (FRef × Nat)) (s : State) : (setFlds l s).caps = s.caps := by
  induction l generalizing s with
  | nil => rfl
  | cons e r ih => exact ih _
@[simp] theorem setFlds_latches (l : List (FRef × Nat)) (s : State) : (setFlds l s).latches = s.latches := by
  induction l generalizing s with
  | nil => rfl
  | cons e r ih => exact ih _
@[simp] theorem setFlds_heldLow (l : List (FRef × Nat)) (s : State) : (setFlds l s).heldLow = s.heldLow := by
  induction l generalizing s with
  | nil => rfl
  | cons e r ih => exact ih _
@[simp] theorem setFlds_rdata (l : List (FRef × Nat)) (s : State) : (setFlds l s).rdata = s.rdata := by
  induction l generalizing s with
  | nil => rfl
  | cons e r ih => exact ih _
@[simp] theorem setFlds_msix (l : List (FRef × Nat)) (s : State) : (setFlds l s).msix = s.msix := by
  induction l generalizing s with
  | nil => rfl
  | cons e r ih => exact ih _
@[simp] theorem setFlds_sent (l : List (FRef × Nat)) (s : State) : (setFlds l s).sent = s.sent := by
  induction l generalizing s with
  | nil => rfl
  | cons e r ih => exact ih _
@[simp] theorem setFlds_free (l : List (FRef × Nat)) (s : State) : (setFlds l s).free = s.free := by
  induction l generalizing s with
  | nil => rfl
  | cons e r ih => exact ih _
@[simp] theorem setFlds_sec (l : List (FRef × Nat)) (s : State) : (setFlds l s).sec = s.sec := by
  induction l generalizing s with
  | nil => rfl
  | cons e r ih => exact ih _
@[simp] theorem setFlds_mem (l : List (FRef × Nat)) (s : State) : (setFlds l s).mem = s.mem := by
  induction l generalizing s with
  | nil => rfl
  | cons e r ih => exact ih _
@[simp] theorem setFlds_staples (l : List (FRef × Nat)) (s : State) : (setFlds l s).staples = s.staples := by
  induction l generalizing s with
  | nil => rfl
  | cons e r ih => exact ih _
@[simp] theorem setFlds_lagoonBad (l : List (FRef × Nat)) (s : State) : (setFlds l s).lagoonBad = s.lagoonBad := by
  induction l generalizing s with
  | nil => rfl
  | cons e r ih => exact ih _
@[simp] theorem setFlds_scrubPos (l : List (FRef × Nat)) (s : State) : (setFlds l s).scrubPos = s.scrubPos := by
  induction l generalizing s with
  | nil => rfl
  | cons e r ih => exact ih _
@[simp] theorem setFlds_digests (l : List (FRef × Nat)) (s : State) : (setFlds l s).digests = s.digests := by
  induction l generalizing s with
  | nil => rfl
  | cons e r ih => exact ih _
@[simp] theorem setFlds_swap (l : List (FRef × Nat)) (s : State) : (setFlds l s).swap = s.swap := by
  induction l generalizing s with
  | nil => rfl
  | cons e r ih => exact ih _
@[simp] theorem setFlds_digestPass (l : List (FRef × Nat)) (s : State) : (setFlds l s).digestPass = s.digestPass := by
  induction l generalizing s with
  | nil => rfl
  | cons e r ih => exact ih _
@[simp] theorem setFlds_acc (l : List (FRef × Nat)) (s : State) : (setFlds l s).acc = s.acc := by
  induction l generalizing s with
  | nil => rfl
  | cons e r ih => exact ih _
@[simp] theorem setFlds_skeins (l : List (FRef × Nat)) (s : State) : (setFlds l s).skeins = s.skeins := by
  induction l generalizing s with
  | nil => rfl
  | cons e r ih => exact ih _
@[simp] theorem setFlds_hank (l : List (FRef × Nat)) (s : State) : (setFlds l s).hank = s.hank := by
  induction l generalizing s with
  | nil => rfl
  | cons e r ih => exact ih _
@[simp] theorem setFlds_stops (l : List (FRef × Nat)) (s : State) : (setFlds l s).stops = s.stops := by
  induction l generalizing s with
  | nil => rfl
  | cons e r ih => exact ih _
@[simp] theorem setFlds_stopsNext (l : List (FRef × Nat)) (s : State) : (setFlds l s).stopsNext = s.stopsNext := by
  induction l generalizing s with
  | nil => rfl
  | cons e r ih => exact ih _
@[simp] theorem setFlds_ringFns (l : List (FRef × Nat)) (s : State) : (setFlds l s).ringFns = s.ringFns := by
  induction l generalizing s with
  | nil => rfl
  | cons e r ih => exact ih _
@[simp] theorem setFlds_kv (l : List (FRef × Nat)) (s : State) : (setFlds l s).kv = s.kv := by
  induction l generalizing s with
  | nil => rfl
  | cons e r ih => exact ih _
@[simp] theorem setFlds_reefHeld (l : List (FRef × Nat)) (s : State) : (setFlds l s).reefHeld = s.reefHeld := by
  induction l generalizing s with
  | nil => rfl
  | cons e r ih => exact ih _
@[simp] theorem setFlds_bars (l : List (FRef × Nat)) (s : State) : (setFlds l s).bars = s.bars := by
  induction l generalizing s with
  | nil => rfl
  | cons e r ih => exact ih _
@[simp] theorem setFlds_chans (l : List (FRef × Nat)) (s : State) : (setFlds l s).chans = s.chans := by
  induction l generalizing s with
  | nil => rfl
  | cons e r ih => exact ih _
@[simp] theorem setFlds_fryKeys (l : List (FRef × Nat)) (s : State) : (setFlds l s).fryKeys = s.fryKeys := by
  induction l generalizing s with
  | nil => rfl
  | cons e r ih => exact ih _
@[simp] theorem setFlds_fryTurn (l : List (FRef × Nat)) (s : State) : (setFlds l s).fryTurn = s.fryTurn := by
  induction l generalizing s with
  | nil => rfl
  | cons e r ih => exact ih _
@[simp] theorem setFlds_gld (l : List (FRef × Nat)) (s : State) : (setFlds l s).gld = s.gld := by
  induction l generalizing s with
  | nil => rfl
  | cons e r ih => exact ih _
@[simp] theorem setFlds_spns (l : List (FRef × Nat)) (s : State) : (setFlds l s).spns = s.spns := by
  induction l generalizing s with
  | nil => rfl
  | cons e r ih => exact ih _
@[simp] theorem setFlds_ctxs (l : List (FRef × Nat)) (s : State) : (setFlds l s).ctxs = s.ctxs := by
  induction l generalizing s with
  | nil => rfl
  | cons e r ih => exact ih _
@[simp] theorem setFlds_load (l : List (FRef × Nat)) (s : State) : (setFlds l s).load = s.load := by
  induction l generalizing s with
  | nil => rfl
  | cons e r ih => exact ih _
@[simp] theorem setFlds_edge (l : List (FRef × Nat)) (s : State) : (setFlds l s).edge = s.edge := by
  induction l generalizing s with
  | nil => rfl
  | cons e r ih => exact ih _
@[simp] theorem setFlds_voteDue (l : List (FRef × Nat)) (s : State) : (setFlds l s).voteDue = s.voteDue := by
  induction l generalizing s with
  | nil => rfl
  | cons e r ih => exact ih _
@[simp] theorem setFlds_replayAsk (l : List (FRef × Nat)) (s : State) : (setFlds l s).replayAsk = s.replayAsk := by
  induction l generalizing s with
  | nil => rfl
  | cons e r ih => exact ih _
@[simp] theorem setFlds_tallyRoot (l : List (FRef × Nat)) (s : State) : (setFlds l s).tallyRoot = s.tallyRoot := by
  induction l generalizing s with
  | nil => rfl
  | cons e r ih => exact ih _
@[simp] theorem setFlds_goodOffsets (l : List (FRef × Nat)) (s : State) : (setFlds l s).goodOffsets = s.goodOffsets := by
  induction l generalizing s with
  | nil => rfl
  | cons e r ih => exact ih _
@[simp] theorem setFlds_fenceGo (l : List (FRef × Nat)) (s : State) : (setFlds l s).fenceGo = s.fenceGo := by
  induction l generalizing s with
  | nil => rfl
  | cons e r ih => exact ih _
@[simp] theorem setFlds_gone (l : List (FRef × Nat)) (s : State) : (setFlds l s).gone = s.gone := by
  induction l generalizing s with
  | nil => rfl
  | cons e r ih => exact ih _
@[simp] theorem setFlds_taintAt (l : List (FRef × Nat)) (s : State) : (setFlds l s).taintAt = s.taintAt := by
  induction l generalizing s with
  | nil => rfl
  | cons e r ih => exact ih _
@[simp] theorem setFlds_strikes (l : List (FRef × Nat)) (s : State) : (setFlds l s).strikes = s.strikes := by
  induction l generalizing s with
  | nil => rfl
  | cons e r ih => exact ih _
@[simp] theorem setFlds_sounds (l : List (FRef × Nat)) (s : State) : (setFlds l s).sounds = s.sounds := by
  induction l generalizing s with
  | nil => rfl
  | cons e r ih => exact ih _
@[simp] theorem setFlds_profiles (l : List (FRef × Nat)) (s : State) : (setFlds l s).profiles = s.profiles := by
  induction l generalizing s with
  | nil => rfl
  | cons e r ih => exact ih _
@[simp] theorem setFlds_profCommit (l : List (FRef × Nat)) (s : State) : (setFlds l s).profCommit = s.profCommit := by
  induction l generalizing s with
  | nil => rfl
  | cons e r ih => exact ih _
@[simp] theorem setFlds_hostHeld (l : List (FRef × Nat)) (s : State) : (setFlds l s).hostHeld = s.hostHeld := by
  induction l generalizing s with
  | nil => rfl
  | cons e r ih => exact ih _
@[simp] theorem setFlds_lostRings (l : List (FRef × Nat)) (s : State) : (setFlds l s).lostRings = s.lostRings := by
  induction l generalizing s with
  | nil => rfl
  | cons e r ih => exact ih _
@[simp] theorem setFlds_pwr (l : List (FRef × Nat)) (s : State) : (setFlds l s).pwr = s.pwr := by
  induction l generalizing s with
  | nil => rfl
  | cons e r ih => exact ih _
@[simp] theorem setFlds_wear (l : List (FRef × Nat)) (s : State) : (setFlds l s).wear = s.wear := by
  induction l generalizing s with
  | nil => rfl
  | cons e r ih => exact ih _
@[simp] theorem setFlds_pending (l : List (FRef × Nat)) (s : State) : (setFlds l s).pending = s.pending := by
  induction l generalizing s with
  | nil => rfl
  | cons e r ih => exact ih _

/-! ### zeroRegs -/

@[simp] theorem zeroRegs_fuse (l : List Nat) (s : State) : (zeroRegs l s).fuse = s.fuse := by
  induction l generalizing s with
  | nil => rfl
  | cons e r ih => exact ih _
@[simp] theorem zeroRegs_pins (l : List Nat) (s : State) : (zeroRegs l s).pins = s.pins := by
  induction l generalizing s with
  | nil => rfl
  | cons e r ih => exact ih _
@[simp] theorem zeroRegs_boot (l : List Nat) (s : State) : (zeroRegs l s).boot = s.boot := by
  induction l generalizing s with
  | nil => rfl
  | cons e r ih => exact ih _
@[simp] theorem zeroRegs_caps (l : List Nat) (s : State) : (zeroRegs l s).caps = s.caps := by
  induction l generalizing s with
  | nil => rfl
  | cons e r ih => exact ih _
@[simp] theorem zeroRegs_latches (l : List Nat) (s : State) : (zeroRegs l s).latches = s.latches := by
  induction l generalizing s with
  | nil => rfl
  | cons e r ih => exact ih _
@[simp] theorem zeroRegs_heldLow (l : List Nat) (s : State) : (zeroRegs l s).heldLow = s.heldLow := by
  induction l generalizing s with
  | nil => rfl
  | cons e r ih => exact ih _
@[simp] theorem zeroRegs_rdata (l : List Nat) (s : State) : (zeroRegs l s).rdata = s.rdata := by
  induction l generalizing s with
  | nil => rfl
  | cons e r ih => exact ih _
@[simp] theorem zeroRegs_msix (l : List Nat) (s : State) : (zeroRegs l s).msix = s.msix := by
  induction l generalizing s with
  | nil => rfl
  | cons e r ih => exact ih _
@[simp] theorem zeroRegs_sent (l : List Nat) (s : State) : (zeroRegs l s).sent = s.sent := by
  induction l generalizing s with
  | nil => rfl
  | cons e r ih => exact ih _
@[simp] theorem zeroRegs_free (l : List Nat) (s : State) : (zeroRegs l s).free = s.free := by
  induction l generalizing s with
  | nil => rfl
  | cons e r ih => exact ih _
@[simp] theorem zeroRegs_sec (l : List Nat) (s : State) : (zeroRegs l s).sec = s.sec := by
  induction l generalizing s with
  | nil => rfl
  | cons e r ih => exact ih _
@[simp] theorem zeroRegs_mem (l : List Nat) (s : State) : (zeroRegs l s).mem = s.mem := by
  induction l generalizing s with
  | nil => rfl
  | cons e r ih => exact ih _
@[simp] theorem zeroRegs_staples (l : List Nat) (s : State) : (zeroRegs l s).staples = s.staples := by
  induction l generalizing s with
  | nil => rfl
  | cons e r ih => exact ih _
@[simp] theorem zeroRegs_lagoonBad (l : List Nat) (s : State) : (zeroRegs l s).lagoonBad = s.lagoonBad := by
  induction l generalizing s with
  | nil => rfl
  | cons e r ih => exact ih _
@[simp] theorem zeroRegs_scrubPos (l : List Nat) (s : State) : (zeroRegs l s).scrubPos = s.scrubPos := by
  induction l generalizing s with
  | nil => rfl
  | cons e r ih => exact ih _
@[simp] theorem zeroRegs_digests (l : List Nat) (s : State) : (zeroRegs l s).digests = s.digests := by
  induction l generalizing s with
  | nil => rfl
  | cons e r ih => exact ih _
@[simp] theorem zeroRegs_swap (l : List Nat) (s : State) : (zeroRegs l s).swap = s.swap := by
  induction l generalizing s with
  | nil => rfl
  | cons e r ih => exact ih _
@[simp] theorem zeroRegs_digestPass (l : List Nat) (s : State) : (zeroRegs l s).digestPass = s.digestPass := by
  induction l generalizing s with
  | nil => rfl
  | cons e r ih => exact ih _
@[simp] theorem zeroRegs_acc (l : List Nat) (s : State) : (zeroRegs l s).acc = s.acc := by
  induction l generalizing s with
  | nil => rfl
  | cons e r ih => exact ih _
@[simp] theorem zeroRegs_skeins (l : List Nat) (s : State) : (zeroRegs l s).skeins = s.skeins := by
  induction l generalizing s with
  | nil => rfl
  | cons e r ih => exact ih _
@[simp] theorem zeroRegs_hank (l : List Nat) (s : State) : (zeroRegs l s).hank = s.hank := by
  induction l generalizing s with
  | nil => rfl
  | cons e r ih => exact ih _
@[simp] theorem zeroRegs_stops (l : List Nat) (s : State) : (zeroRegs l s).stops = s.stops := by
  induction l generalizing s with
  | nil => rfl
  | cons e r ih => exact ih _
@[simp] theorem zeroRegs_stopsNext (l : List Nat) (s : State) : (zeroRegs l s).stopsNext = s.stopsNext := by
  induction l generalizing s with
  | nil => rfl
  | cons e r ih => exact ih _
@[simp] theorem zeroRegs_ringFns (l : List Nat) (s : State) : (zeroRegs l s).ringFns = s.ringFns := by
  induction l generalizing s with
  | nil => rfl
  | cons e r ih => exact ih _
@[simp] theorem zeroRegs_kv (l : List Nat) (s : State) : (zeroRegs l s).kv = s.kv := by
  induction l generalizing s with
  | nil => rfl
  | cons e r ih => exact ih _
@[simp] theorem zeroRegs_reefHeld (l : List Nat) (s : State) : (zeroRegs l s).reefHeld = s.reefHeld := by
  induction l generalizing s with
  | nil => rfl
  | cons e r ih => exact ih _
@[simp] theorem zeroRegs_bars (l : List Nat) (s : State) : (zeroRegs l s).bars = s.bars := by
  induction l generalizing s with
  | nil => rfl
  | cons e r ih => exact ih _
@[simp] theorem zeroRegs_chans (l : List Nat) (s : State) : (zeroRegs l s).chans = s.chans := by
  induction l generalizing s with
  | nil => rfl
  | cons e r ih => exact ih _
@[simp] theorem zeroRegs_fryKeys (l : List Nat) (s : State) : (zeroRegs l s).fryKeys = s.fryKeys := by
  induction l generalizing s with
  | nil => rfl
  | cons e r ih => exact ih _
@[simp] theorem zeroRegs_fryTurn (l : List Nat) (s : State) : (zeroRegs l s).fryTurn = s.fryTurn := by
  induction l generalizing s with
  | nil => rfl
  | cons e r ih => exact ih _
@[simp] theorem zeroRegs_gld (l : List Nat) (s : State) : (zeroRegs l s).gld = s.gld := by
  induction l generalizing s with
  | nil => rfl
  | cons e r ih => exact ih _
@[simp] theorem zeroRegs_spns (l : List Nat) (s : State) : (zeroRegs l s).spns = s.spns := by
  induction l generalizing s with
  | nil => rfl
  | cons e r ih => exact ih _
@[simp] theorem zeroRegs_ctxs (l : List Nat) (s : State) : (zeroRegs l s).ctxs = s.ctxs := by
  induction l generalizing s with
  | nil => rfl
  | cons e r ih => exact ih _
@[simp] theorem zeroRegs_load (l : List Nat) (s : State) : (zeroRegs l s).load = s.load := by
  induction l generalizing s with
  | nil => rfl
  | cons e r ih => exact ih _
@[simp] theorem zeroRegs_edge (l : List Nat) (s : State) : (zeroRegs l s).edge = s.edge := by
  induction l generalizing s with
  | nil => rfl
  | cons e r ih => exact ih _
@[simp] theorem zeroRegs_voteDue (l : List Nat) (s : State) : (zeroRegs l s).voteDue = s.voteDue := by
  induction l generalizing s with
  | nil => rfl
  | cons e r ih => exact ih _
@[simp] theorem zeroRegs_replayAsk (l : List Nat) (s : State) : (zeroRegs l s).replayAsk = s.replayAsk := by
  induction l generalizing s with
  | nil => rfl
  | cons e r ih => exact ih _
@[simp] theorem zeroRegs_tallyRoot (l : List Nat) (s : State) : (zeroRegs l s).tallyRoot = s.tallyRoot := by
  induction l generalizing s with
  | nil => rfl
  | cons e r ih => exact ih _
@[simp] theorem zeroRegs_goodOffsets (l : List Nat) (s : State) : (zeroRegs l s).goodOffsets = s.goodOffsets := by
  induction l generalizing s with
  | nil => rfl
  | cons e r ih => exact ih _
@[simp] theorem zeroRegs_fenceGo (l : List Nat) (s : State) : (zeroRegs l s).fenceGo = s.fenceGo := by
  induction l generalizing s with
  | nil => rfl
  | cons e r ih => exact ih _
@[simp] theorem zeroRegs_gone (l : List Nat) (s : State) : (zeroRegs l s).gone = s.gone := by
  induction l generalizing s with
  | nil => rfl
  | cons e r ih => exact ih _
@[simp] theorem zeroRegs_taintAt (l : List Nat) (s : State) : (zeroRegs l s).taintAt = s.taintAt := by
  induction l generalizing s with
  | nil => rfl
  | cons e r ih => exact ih _
@[simp] theorem zeroRegs_strikes (l : List Nat) (s : State) : (zeroRegs l s).strikes = s.strikes := by
  induction l generalizing s with
  | nil => rfl
  | cons e r ih => exact ih _
@[simp] theorem zeroRegs_sounds (l : List Nat) (s : State) : (zeroRegs l s).sounds = s.sounds := by
  induction l generalizing s with
  | nil => rfl
  | cons e r ih => exact ih _
@[simp] theorem zeroRegs_profiles (l : List Nat) (s : State) : (zeroRegs l s).profiles = s.profiles := by
  induction l generalizing s with
  | nil => rfl
  | cons e r ih => exact ih _
@[simp] theorem zeroRegs_profCommit (l : List Nat) (s : State) : (zeroRegs l s).profCommit = s.profCommit := by
  induction l generalizing s with
  | nil => rfl
  | cons e r ih => exact ih _
@[simp] theorem zeroRegs_hostHeld (l : List Nat) (s : State) : (zeroRegs l s).hostHeld = s.hostHeld := by
  induction l generalizing s with
  | nil => rfl
  | cons e r ih => exact ih _
@[simp] theorem zeroRegs_lostRings (l : List Nat) (s : State) : (zeroRegs l s).lostRings = s.lostRings := by
  induction l generalizing s with
  | nil => rfl
  | cons e r ih => exact ih _
@[simp] theorem zeroRegs_pwr (l : List Nat) (s : State) : (zeroRegs l s).pwr = s.pwr := by
  induction l generalizing s with
  | nil => rfl
  | cons e r ih => exact ih _
@[simp] theorem zeroRegs_wear (l : List Nat) (s : State) : (zeroRegs l s).wear = s.wear := by
  induction l generalizing s with
  | nil => rfl
  | cons e r ih => exact ih _
@[simp] theorem zeroRegs_pending (l : List Nat) (s : State) : (zeroRegs l s).pending = s.pending := by
  induction l generalizing s with
  | nil => rfl
  | cons e r ih => exact ih _

/-! ### setErr -/

@[simp] theorem setErr_fuse (f : FRef) (s : State) : (setErr f s).fuse = s.fuse := rfl
@[simp] theorem setErr_pins (f : FRef) (s : State) : (setErr f s).pins = s.pins := rfl
@[simp] theorem setErr_boot (f : FRef) (s : State) : (setErr f s).boot = s.boot := rfl
@[simp] theorem setErr_caps (f : FRef) (s : State) : (setErr f s).caps = s.caps := rfl
@[simp] theorem setErr_latches (f : FRef) (s : State) : (setErr f s).latches = s.latches := rfl
@[simp] theorem setErr_heldLow (f : FRef) (s : State) : (setErr f s).heldLow = s.heldLow := rfl
@[simp] theorem setErr_rdata (f : FRef) (s : State) : (setErr f s).rdata = s.rdata := rfl
@[simp] theorem setErr_msix (f : FRef) (s : State) : (setErr f s).msix = s.msix := rfl
@[simp] theorem setErr_sent (f : FRef) (s : State) : (setErr f s).sent = s.sent := rfl
@[simp] theorem setErr_free (f : FRef) (s : State) : (setErr f s).free = s.free := rfl
@[simp] theorem setErr_sec (f : FRef) (s : State) : (setErr f s).sec = s.sec := rfl
@[simp] theorem setErr_mem (f : FRef) (s : State) : (setErr f s).mem = s.mem := rfl
@[simp] theorem setErr_staples (f : FRef) (s : State) : (setErr f s).staples = s.staples := rfl
@[simp] theorem setErr_lagoonBad (f : FRef) (s : State) : (setErr f s).lagoonBad = s.lagoonBad := rfl
@[simp] theorem setErr_scrubPos (f : FRef) (s : State) : (setErr f s).scrubPos = s.scrubPos := rfl
@[simp] theorem setErr_digests (f : FRef) (s : State) : (setErr f s).digests = s.digests := rfl
@[simp] theorem setErr_swap (f : FRef) (s : State) : (setErr f s).swap = s.swap := rfl
@[simp] theorem setErr_digestPass (f : FRef) (s : State) : (setErr f s).digestPass = s.digestPass := rfl
@[simp] theorem setErr_acc (f : FRef) (s : State) : (setErr f s).acc = s.acc := rfl
@[simp] theorem setErr_skeins (f : FRef) (s : State) : (setErr f s).skeins = s.skeins := rfl
@[simp] theorem setErr_hank (f : FRef) (s : State) : (setErr f s).hank = s.hank := rfl
@[simp] theorem setErr_stops (f : FRef) (s : State) : (setErr f s).stops = s.stops := rfl
@[simp] theorem setErr_stopsNext (f : FRef) (s : State) : (setErr f s).stopsNext = s.stopsNext := rfl
@[simp] theorem setErr_ringFns (f : FRef) (s : State) : (setErr f s).ringFns = s.ringFns := rfl
@[simp] theorem setErr_kv (f : FRef) (s : State) : (setErr f s).kv = s.kv := rfl
@[simp] theorem setErr_reefHeld (f : FRef) (s : State) : (setErr f s).reefHeld = s.reefHeld := rfl
@[simp] theorem setErr_bars (f : FRef) (s : State) : (setErr f s).bars = s.bars := rfl
@[simp] theorem setErr_chans (f : FRef) (s : State) : (setErr f s).chans = s.chans := rfl
@[simp] theorem setErr_fryKeys (f : FRef) (s : State) : (setErr f s).fryKeys = s.fryKeys := rfl
@[simp] theorem setErr_fryTurn (f : FRef) (s : State) : (setErr f s).fryTurn = s.fryTurn := rfl
@[simp] theorem setErr_gld (f : FRef) (s : State) : (setErr f s).gld = s.gld := rfl
@[simp] theorem setErr_spns (f : FRef) (s : State) : (setErr f s).spns = s.spns := rfl
@[simp] theorem setErr_ctxs (f : FRef) (s : State) : (setErr f s).ctxs = s.ctxs := rfl
@[simp] theorem setErr_load (f : FRef) (s : State) : (setErr f s).load = s.load := rfl
@[simp] theorem setErr_edge (f : FRef) (s : State) : (setErr f s).edge = s.edge := rfl
@[simp] theorem setErr_voteDue (f : FRef) (s : State) : (setErr f s).voteDue = s.voteDue := rfl
@[simp] theorem setErr_replayAsk (f : FRef) (s : State) : (setErr f s).replayAsk = s.replayAsk := rfl
@[simp] theorem setErr_tallyRoot (f : FRef) (s : State) : (setErr f s).tallyRoot = s.tallyRoot := rfl
@[simp] theorem setErr_goodOffsets (f : FRef) (s : State) : (setErr f s).goodOffsets = s.goodOffsets := rfl
@[simp] theorem setErr_fenceGo (f : FRef) (s : State) : (setErr f s).fenceGo = s.fenceGo := rfl
@[simp] theorem setErr_gone (f : FRef) (s : State) : (setErr f s).gone = s.gone := rfl
@[simp] theorem setErr_taintAt (f : FRef) (s : State) : (setErr f s).taintAt = s.taintAt := rfl
@[simp] theorem setErr_strikes (f : FRef) (s : State) : (setErr f s).strikes = s.strikes := rfl
@[simp] theorem setErr_sounds (f : FRef) (s : State) : (setErr f s).sounds = s.sounds := rfl
@[simp] theorem setErr_profiles (f : FRef) (s : State) : (setErr f s).profiles = s.profiles := rfl
@[simp] theorem setErr_profCommit (f : FRef) (s : State) : (setErr f s).profCommit = s.profCommit := rfl
@[simp] theorem setErr_hostHeld (f : FRef) (s : State) : (setErr f s).hostHeld = s.hostHeld := rfl
@[simp] theorem setErr_lostRings (f : FRef) (s : State) : (setErr f s).lostRings = s.lostRings := rfl
@[simp] theorem setErr_pwr (f : FRef) (s : State) : (setErr f s).pwr = s.pwr := rfl
@[simp] theorem setErr_wear (f : FRef) (s : State) : (setErr f s).wear = s.wear := rfl
@[simp] theorem setErr_pending (f : FRef) (s : State) : (setErr f s).pending = s.pending := rfl

/-! ### bump64 -/

@[simp] theorem bump64_fuse (o n : Nat) (s : State) : (bump64 o n s).fuse = s.fuse := rfl
@[simp] theorem bump64_pins (o n : Nat) (s : State) : (bump64 o n s).pins = s.pins := rfl
@[simp] theorem bump64_boot (o n : Nat) (s : State) : (bump64 o n s).boot = s.boot := rfl
@[simp] theorem bump64_caps (o n : Nat) (s : State) : (bump64 o n s).caps = s.caps := rfl
@[simp] theorem bump64_latches (o n : Nat) (s : State) : (bump64 o n s).latches = s.latches := rfl
@[simp] theorem bump64_heldLow (o n : Nat) (s : State) : (bump64 o n s).heldLow = s.heldLow := rfl
@[simp] theorem bump64_rdata (o n : Nat) (s : State) : (bump64 o n s).rdata = s.rdata := rfl
@[simp] theorem bump64_msix (o n : Nat) (s : State) : (bump64 o n s).msix = s.msix := rfl
@[simp] theorem bump64_sent (o n : Nat) (s : State) : (bump64 o n s).sent = s.sent := rfl
@[simp] theorem bump64_free (o n : Nat) (s : State) : (bump64 o n s).free = s.free := rfl
@[simp] theorem bump64_sec (o n : Nat) (s : State) : (bump64 o n s).sec = s.sec := rfl
@[simp] theorem bump64_mem (o n : Nat) (s : State) : (bump64 o n s).mem = s.mem := rfl
@[simp] theorem bump64_staples (o n : Nat) (s : State) : (bump64 o n s).staples = s.staples := rfl
@[simp] theorem bump64_lagoonBad (o n : Nat) (s : State) : (bump64 o n s).lagoonBad = s.lagoonBad := rfl
@[simp] theorem bump64_scrubPos (o n : Nat) (s : State) : (bump64 o n s).scrubPos = s.scrubPos := rfl
@[simp] theorem bump64_digests (o n : Nat) (s : State) : (bump64 o n s).digests = s.digests := rfl
@[simp] theorem bump64_swap (o n : Nat) (s : State) : (bump64 o n s).swap = s.swap := rfl
@[simp] theorem bump64_digestPass (o n : Nat) (s : State) : (bump64 o n s).digestPass = s.digestPass := rfl
@[simp] theorem bump64_acc (o n : Nat) (s : State) : (bump64 o n s).acc = s.acc := rfl
@[simp] theorem bump64_skeins (o n : Nat) (s : State) : (bump64 o n s).skeins = s.skeins := rfl
@[simp] theorem bump64_hank (o n : Nat) (s : State) : (bump64 o n s).hank = s.hank := rfl
@[simp] theorem bump64_stops (o n : Nat) (s : State) : (bump64 o n s).stops = s.stops := rfl
@[simp] theorem bump64_stopsNext (o n : Nat) (s : State) : (bump64 o n s).stopsNext = s.stopsNext := rfl
@[simp] theorem bump64_ringFns (o n : Nat) (s : State) : (bump64 o n s).ringFns = s.ringFns := rfl
@[simp] theorem bump64_kv (o n : Nat) (s : State) : (bump64 o n s).kv = s.kv := rfl
@[simp] theorem bump64_reefHeld (o n : Nat) (s : State) : (bump64 o n s).reefHeld = s.reefHeld := rfl
@[simp] theorem bump64_bars (o n : Nat) (s : State) : (bump64 o n s).bars = s.bars := rfl
@[simp] theorem bump64_chans (o n : Nat) (s : State) : (bump64 o n s).chans = s.chans := rfl
@[simp] theorem bump64_fryKeys (o n : Nat) (s : State) : (bump64 o n s).fryKeys = s.fryKeys := rfl
@[simp] theorem bump64_fryTurn (o n : Nat) (s : State) : (bump64 o n s).fryTurn = s.fryTurn := rfl
@[simp] theorem bump64_gld (o n : Nat) (s : State) : (bump64 o n s).gld = s.gld := rfl
@[simp] theorem bump64_spns (o n : Nat) (s : State) : (bump64 o n s).spns = s.spns := rfl
@[simp] theorem bump64_ctxs (o n : Nat) (s : State) : (bump64 o n s).ctxs = s.ctxs := rfl
@[simp] theorem bump64_load (o n : Nat) (s : State) : (bump64 o n s).load = s.load := rfl
@[simp] theorem bump64_edge (o n : Nat) (s : State) : (bump64 o n s).edge = s.edge := rfl
@[simp] theorem bump64_voteDue (o n : Nat) (s : State) : (bump64 o n s).voteDue = s.voteDue := rfl
@[simp] theorem bump64_replayAsk (o n : Nat) (s : State) : (bump64 o n s).replayAsk = s.replayAsk := rfl
@[simp] theorem bump64_tallyRoot (o n : Nat) (s : State) : (bump64 o n s).tallyRoot = s.tallyRoot := rfl
@[simp] theorem bump64_goodOffsets (o n : Nat) (s : State) : (bump64 o n s).goodOffsets = s.goodOffsets := rfl
@[simp] theorem bump64_fenceGo (o n : Nat) (s : State) : (bump64 o n s).fenceGo = s.fenceGo := rfl
@[simp] theorem bump64_gone (o n : Nat) (s : State) : (bump64 o n s).gone = s.gone := rfl
@[simp] theorem bump64_taintAt (o n : Nat) (s : State) : (bump64 o n s).taintAt = s.taintAt := rfl
@[simp] theorem bump64_strikes (o n : Nat) (s : State) : (bump64 o n s).strikes = s.strikes := rfl
@[simp] theorem bump64_sounds (o n : Nat) (s : State) : (bump64 o n s).sounds = s.sounds := rfl
@[simp] theorem bump64_profiles (o n : Nat) (s : State) : (bump64 o n s).profiles = s.profiles := rfl
@[simp] theorem bump64_profCommit (o n : Nat) (s : State) : (bump64 o n s).profCommit = s.profCommit := rfl
@[simp] theorem bump64_hostHeld (o n : Nat) (s : State) : (bump64 o n s).hostHeld = s.hostHeld := rfl
@[simp] theorem bump64_lostRings (o n : Nat) (s : State) : (bump64 o n s).lostRings = s.lostRings := rfl
@[simp] theorem bump64_pwr (o n : Nat) (s : State) : (bump64 o n s).pwr = s.pwr := rfl
@[simp] theorem bump64_wear (o n : Nat) (s : State) : (bump64 o n s).wear = s.wear := rfl
@[simp] theorem bump64_pending (o n : Nat) (s : State) : (bump64 o n s).pending = s.pending := rfl

/-! ### bump32 -/

@[simp] theorem bump32_fuse (o n : Nat) (s : State) : (bump32 o n s).fuse = s.fuse := rfl
@[simp] theorem bump32_pins (o n : Nat) (s : State) : (bump32 o n s).pins = s.pins := rfl
@[simp] theorem bump32_boot (o n : Nat) (s : State) : (bump32 o n s).boot = s.boot := rfl
@[simp] theorem bump32_caps (o n : Nat) (s : State) : (bump32 o n s).caps = s.caps := rfl
@[simp] theorem bump32_latches (o n : Nat) (s : State) : (bump32 o n s).latches = s.latches := rfl
@[simp] theorem bump32_heldLow (o n : Nat) (s : State) : (bump32 o n s).heldLow = s.heldLow := rfl
@[simp] theorem bump32_rdata (o n : Nat) (s : State) : (bump32 o n s).rdata = s.rdata := rfl
@[simp] theorem bump32_msix (o n : Nat) (s : State) : (bump32 o n s).msix = s.msix := rfl
@[simp] theorem bump32_sent (o n : Nat) (s : State) : (bump32 o n s).sent = s.sent := rfl
@[simp] theorem bump32_free (o n : Nat) (s : State) : (bump32 o n s).free = s.free := rfl
@[simp] theorem bump32_sec (o n : Nat) (s : State) : (bump32 o n s).sec = s.sec := rfl
@[simp] theorem bump32_mem (o n : Nat) (s : State) : (bump32 o n s).mem = s.mem := rfl
@[simp] theorem bump32_staples (o n : Nat) (s : State) : (bump32 o n s).staples = s.staples := rfl
@[simp] theorem bump32_lagoonBad (o n : Nat) (s : State) : (bump32 o n s).lagoonBad = s.lagoonBad := rfl
@[simp] theorem bump32_scrubPos (o n : Nat) (s : State) : (bump32 o n s).scrubPos = s.scrubPos := rfl
@[simp] theorem bump32_digests (o n : Nat) (s : State) : (bump32 o n s).digests = s.digests := rfl
@[simp] theorem bump32_swap (o n : Nat) (s : State) : (bump32 o n s).swap = s.swap := rfl
@[simp] theorem bump32_digestPass (o n : Nat) (s : State) : (bump32 o n s).digestPass = s.digestPass := rfl
@[simp] theorem bump32_acc (o n : Nat) (s : State) : (bump32 o n s).acc = s.acc := rfl
@[simp] theorem bump32_skeins (o n : Nat) (s : State) : (bump32 o n s).skeins = s.skeins := rfl
@[simp] theorem bump32_hank (o n : Nat) (s : State) : (bump32 o n s).hank = s.hank := rfl
@[simp] theorem bump32_stops (o n : Nat) (s : State) : (bump32 o n s).stops = s.stops := rfl
@[simp] theorem bump32_stopsNext (o n : Nat) (s : State) : (bump32 o n s).stopsNext = s.stopsNext := rfl
@[simp] theorem bump32_ringFns (o n : Nat) (s : State) : (bump32 o n s).ringFns = s.ringFns := rfl
@[simp] theorem bump32_kv (o n : Nat) (s : State) : (bump32 o n s).kv = s.kv := rfl
@[simp] theorem bump32_reefHeld (o n : Nat) (s : State) : (bump32 o n s).reefHeld = s.reefHeld := rfl
@[simp] theorem bump32_bars (o n : Nat) (s : State) : (bump32 o n s).bars = s.bars := rfl
@[simp] theorem bump32_chans (o n : Nat) (s : State) : (bump32 o n s).chans = s.chans := rfl
@[simp] theorem bump32_fryKeys (o n : Nat) (s : State) : (bump32 o n s).fryKeys = s.fryKeys := rfl
@[simp] theorem bump32_fryTurn (o n : Nat) (s : State) : (bump32 o n s).fryTurn = s.fryTurn := rfl
@[simp] theorem bump32_gld (o n : Nat) (s : State) : (bump32 o n s).gld = s.gld := rfl
@[simp] theorem bump32_spns (o n : Nat) (s : State) : (bump32 o n s).spns = s.spns := rfl
@[simp] theorem bump32_ctxs (o n : Nat) (s : State) : (bump32 o n s).ctxs = s.ctxs := rfl
@[simp] theorem bump32_load (o n : Nat) (s : State) : (bump32 o n s).load = s.load := rfl
@[simp] theorem bump32_edge (o n : Nat) (s : State) : (bump32 o n s).edge = s.edge := rfl
@[simp] theorem bump32_voteDue (o n : Nat) (s : State) : (bump32 o n s).voteDue = s.voteDue := rfl
@[simp] theorem bump32_replayAsk (o n : Nat) (s : State) : (bump32 o n s).replayAsk = s.replayAsk := rfl
@[simp] theorem bump32_tallyRoot (o n : Nat) (s : State) : (bump32 o n s).tallyRoot = s.tallyRoot := rfl
@[simp] theorem bump32_goodOffsets (o n : Nat) (s : State) : (bump32 o n s).goodOffsets = s.goodOffsets := rfl
@[simp] theorem bump32_fenceGo (o n : Nat) (s : State) : (bump32 o n s).fenceGo = s.fenceGo := rfl
@[simp] theorem bump32_gone (o n : Nat) (s : State) : (bump32 o n s).gone = s.gone := rfl
@[simp] theorem bump32_taintAt (o n : Nat) (s : State) : (bump32 o n s).taintAt = s.taintAt := rfl
@[simp] theorem bump32_strikes (o n : Nat) (s : State) : (bump32 o n s).strikes = s.strikes := rfl
@[simp] theorem bump32_sounds (o n : Nat) (s : State) : (bump32 o n s).sounds = s.sounds := rfl
@[simp] theorem bump32_profiles (o n : Nat) (s : State) : (bump32 o n s).profiles = s.profiles := rfl
@[simp] theorem bump32_profCommit (o n : Nat) (s : State) : (bump32 o n s).profCommit = s.profCommit := rfl
@[simp] theorem bump32_hostHeld (o n : Nat) (s : State) : (bump32 o n s).hostHeld = s.hostHeld := rfl
@[simp] theorem bump32_lostRings (o n : Nat) (s : State) : (bump32 o n s).lostRings = s.lostRings := rfl
@[simp] theorem bump32_pwr (o n : Nat) (s : State) : (bump32 o n s).pwr = s.pwr := rfl
@[simp] theorem bump32_wear (o n : Nat) (s : State) : (bump32 o n s).wear = s.wear := rfl
@[simp] theorem bump32_pending (o n : Nat) (s : State) : (bump32 o n s).pending = s.pending := rfl

/-! ### bumpFld -/

@[simp] theorem bumpFld_fuse (f : FRef) (n : Nat) (s : State) : (bumpFld f n s).fuse = s.fuse := rfl
@[simp] theorem bumpFld_pins (f : FRef) (n : Nat) (s : State) : (bumpFld f n s).pins = s.pins := rfl
@[simp] theorem bumpFld_boot (f : FRef) (n : Nat) (s : State) : (bumpFld f n s).boot = s.boot := rfl
@[simp] theorem bumpFld_caps (f : FRef) (n : Nat) (s : State) : (bumpFld f n s).caps = s.caps := rfl
@[simp] theorem bumpFld_latches (f : FRef) (n : Nat) (s : State) : (bumpFld f n s).latches = s.latches := rfl
@[simp] theorem bumpFld_heldLow (f : FRef) (n : Nat) (s : State) : (bumpFld f n s).heldLow = s.heldLow := rfl
@[simp] theorem bumpFld_rdata (f : FRef) (n : Nat) (s : State) : (bumpFld f n s).rdata = s.rdata := rfl
@[simp] theorem bumpFld_msix (f : FRef) (n : Nat) (s : State) : (bumpFld f n s).msix = s.msix := rfl
@[simp] theorem bumpFld_sent (f : FRef) (n : Nat) (s : State) : (bumpFld f n s).sent = s.sent := rfl
@[simp] theorem bumpFld_free (f : FRef) (n : Nat) (s : State) : (bumpFld f n s).free = s.free := rfl
@[simp] theorem bumpFld_sec (f : FRef) (n : Nat) (s : State) : (bumpFld f n s).sec = s.sec := rfl
@[simp] theorem bumpFld_mem (f : FRef) (n : Nat) (s : State) : (bumpFld f n s).mem = s.mem := rfl
@[simp] theorem bumpFld_staples (f : FRef) (n : Nat) (s : State) : (bumpFld f n s).staples = s.staples := rfl
@[simp] theorem bumpFld_lagoonBad (f : FRef) (n : Nat) (s : State) : (bumpFld f n s).lagoonBad = s.lagoonBad := rfl
@[simp] theorem bumpFld_scrubPos (f : FRef) (n : Nat) (s : State) : (bumpFld f n s).scrubPos = s.scrubPos := rfl
@[simp] theorem bumpFld_digests (f : FRef) (n : Nat) (s : State) : (bumpFld f n s).digests = s.digests := rfl
@[simp] theorem bumpFld_swap (f : FRef) (n : Nat) (s : State) : (bumpFld f n s).swap = s.swap := rfl
@[simp] theorem bumpFld_digestPass (f : FRef) (n : Nat) (s : State) : (bumpFld f n s).digestPass = s.digestPass := rfl
@[simp] theorem bumpFld_acc (f : FRef) (n : Nat) (s : State) : (bumpFld f n s).acc = s.acc := rfl
@[simp] theorem bumpFld_skeins (f : FRef) (n : Nat) (s : State) : (bumpFld f n s).skeins = s.skeins := rfl
@[simp] theorem bumpFld_hank (f : FRef) (n : Nat) (s : State) : (bumpFld f n s).hank = s.hank := rfl
@[simp] theorem bumpFld_stops (f : FRef) (n : Nat) (s : State) : (bumpFld f n s).stops = s.stops := rfl
@[simp] theorem bumpFld_stopsNext (f : FRef) (n : Nat) (s : State) : (bumpFld f n s).stopsNext = s.stopsNext := rfl
@[simp] theorem bumpFld_ringFns (f : FRef) (n : Nat) (s : State) : (bumpFld f n s).ringFns = s.ringFns := rfl
@[simp] theorem bumpFld_kv (f : FRef) (n : Nat) (s : State) : (bumpFld f n s).kv = s.kv := rfl
@[simp] theorem bumpFld_reefHeld (f : FRef) (n : Nat) (s : State) : (bumpFld f n s).reefHeld = s.reefHeld := rfl
@[simp] theorem bumpFld_bars (f : FRef) (n : Nat) (s : State) : (bumpFld f n s).bars = s.bars := rfl
@[simp] theorem bumpFld_chans (f : FRef) (n : Nat) (s : State) : (bumpFld f n s).chans = s.chans := rfl
@[simp] theorem bumpFld_fryKeys (f : FRef) (n : Nat) (s : State) : (bumpFld f n s).fryKeys = s.fryKeys := rfl
@[simp] theorem bumpFld_fryTurn (f : FRef) (n : Nat) (s : State) : (bumpFld f n s).fryTurn = s.fryTurn := rfl
@[simp] theorem bumpFld_gld (f : FRef) (n : Nat) (s : State) : (bumpFld f n s).gld = s.gld := rfl
@[simp] theorem bumpFld_spns (f : FRef) (n : Nat) (s : State) : (bumpFld f n s).spns = s.spns := rfl
@[simp] theorem bumpFld_ctxs (f : FRef) (n : Nat) (s : State) : (bumpFld f n s).ctxs = s.ctxs := rfl
@[simp] theorem bumpFld_load (f : FRef) (n : Nat) (s : State) : (bumpFld f n s).load = s.load := rfl
@[simp] theorem bumpFld_edge (f : FRef) (n : Nat) (s : State) : (bumpFld f n s).edge = s.edge := rfl
@[simp] theorem bumpFld_voteDue (f : FRef) (n : Nat) (s : State) : (bumpFld f n s).voteDue = s.voteDue := rfl
@[simp] theorem bumpFld_replayAsk (f : FRef) (n : Nat) (s : State) : (bumpFld f n s).replayAsk = s.replayAsk := rfl
@[simp] theorem bumpFld_tallyRoot (f : FRef) (n : Nat) (s : State) : (bumpFld f n s).tallyRoot = s.tallyRoot := rfl
@[simp] theorem bumpFld_goodOffsets (f : FRef) (n : Nat) (s : State) : (bumpFld f n s).goodOffsets = s.goodOffsets := rfl
@[simp] theorem bumpFld_fenceGo (f : FRef) (n : Nat) (s : State) : (bumpFld f n s).fenceGo = s.fenceGo := rfl
@[simp] theorem bumpFld_gone (f : FRef) (n : Nat) (s : State) : (bumpFld f n s).gone = s.gone := rfl
@[simp] theorem bumpFld_taintAt (f : FRef) (n : Nat) (s : State) : (bumpFld f n s).taintAt = s.taintAt := rfl
@[simp] theorem bumpFld_strikes (f : FRef) (n : Nat) (s : State) : (bumpFld f n s).strikes = s.strikes := rfl
@[simp] theorem bumpFld_sounds (f : FRef) (n : Nat) (s : State) : (bumpFld f n s).sounds = s.sounds := rfl
@[simp] theorem bumpFld_profiles (f : FRef) (n : Nat) (s : State) : (bumpFld f n s).profiles = s.profiles := rfl
@[simp] theorem bumpFld_profCommit (f : FRef) (n : Nat) (s : State) : (bumpFld f n s).profCommit = s.profCommit := rfl
@[simp] theorem bumpFld_hostHeld (f : FRef) (n : Nat) (s : State) : (bumpFld f n s).hostHeld = s.hostHeld := rfl
@[simp] theorem bumpFld_lostRings (f : FRef) (n : Nat) (s : State) : (bumpFld f n s).lostRings = s.lostRings := rfl
@[simp] theorem bumpFld_pwr (f : FRef) (n : Nat) (s : State) : (bumpFld f n s).pwr = s.pwr := rfl
@[simp] theorem bumpFld_wear (f : FRef) (n : Nat) (s : State) : (bumpFld f n s).wear = s.wear := rfl
@[simp] theorem bumpFld_pending (f : FRef) (n : Nat) (s : State) : (bumpFld f n s).pending = s.pending := rfl

/-! ### wrapFld -/

@[simp] theorem wrapFld_fuse (f : FRef) (n : Nat) (s : State) : (wrapFld f n s).fuse = s.fuse := rfl
@[simp] theorem wrapFld_pins (f : FRef) (n : Nat) (s : State) : (wrapFld f n s).pins = s.pins := rfl
@[simp] theorem wrapFld_boot (f : FRef) (n : Nat) (s : State) : (wrapFld f n s).boot = s.boot := rfl
@[simp] theorem wrapFld_caps (f : FRef) (n : Nat) (s : State) : (wrapFld f n s).caps = s.caps := rfl
@[simp] theorem wrapFld_latches (f : FRef) (n : Nat) (s : State) : (wrapFld f n s).latches = s.latches := rfl
@[simp] theorem wrapFld_heldLow (f : FRef) (n : Nat) (s : State) : (wrapFld f n s).heldLow = s.heldLow := rfl
@[simp] theorem wrapFld_rdata (f : FRef) (n : Nat) (s : State) : (wrapFld f n s).rdata = s.rdata := rfl
@[simp] theorem wrapFld_msix (f : FRef) (n : Nat) (s : State) : (wrapFld f n s).msix = s.msix := rfl
@[simp] theorem wrapFld_sent (f : FRef) (n : Nat) (s : State) : (wrapFld f n s).sent = s.sent := rfl
@[simp] theorem wrapFld_free (f : FRef) (n : Nat) (s : State) : (wrapFld f n s).free = s.free := rfl
@[simp] theorem wrapFld_sec (f : FRef) (n : Nat) (s : State) : (wrapFld f n s).sec = s.sec := rfl
@[simp] theorem wrapFld_mem (f : FRef) (n : Nat) (s : State) : (wrapFld f n s).mem = s.mem := rfl
@[simp] theorem wrapFld_staples (f : FRef) (n : Nat) (s : State) : (wrapFld f n s).staples = s.staples := rfl
@[simp] theorem wrapFld_lagoonBad (f : FRef) (n : Nat) (s : State) : (wrapFld f n s).lagoonBad = s.lagoonBad := rfl
@[simp] theorem wrapFld_scrubPos (f : FRef) (n : Nat) (s : State) : (wrapFld f n s).scrubPos = s.scrubPos := rfl
@[simp] theorem wrapFld_digests (f : FRef) (n : Nat) (s : State) : (wrapFld f n s).digests = s.digests := rfl
@[simp] theorem wrapFld_swap (f : FRef) (n : Nat) (s : State) : (wrapFld f n s).swap = s.swap := rfl
@[simp] theorem wrapFld_digestPass (f : FRef) (n : Nat) (s : State) : (wrapFld f n s).digestPass = s.digestPass := rfl
@[simp] theorem wrapFld_acc (f : FRef) (n : Nat) (s : State) : (wrapFld f n s).acc = s.acc := rfl
@[simp] theorem wrapFld_skeins (f : FRef) (n : Nat) (s : State) : (wrapFld f n s).skeins = s.skeins := rfl
@[simp] theorem wrapFld_hank (f : FRef) (n : Nat) (s : State) : (wrapFld f n s).hank = s.hank := rfl
@[simp] theorem wrapFld_stops (f : FRef) (n : Nat) (s : State) : (wrapFld f n s).stops = s.stops := rfl
@[simp] theorem wrapFld_stopsNext (f : FRef) (n : Nat) (s : State) : (wrapFld f n s).stopsNext = s.stopsNext := rfl
@[simp] theorem wrapFld_ringFns (f : FRef) (n : Nat) (s : State) : (wrapFld f n s).ringFns = s.ringFns := rfl
@[simp] theorem wrapFld_kv (f : FRef) (n : Nat) (s : State) : (wrapFld f n s).kv = s.kv := rfl
@[simp] theorem wrapFld_reefHeld (f : FRef) (n : Nat) (s : State) : (wrapFld f n s).reefHeld = s.reefHeld := rfl
@[simp] theorem wrapFld_bars (f : FRef) (n : Nat) (s : State) : (wrapFld f n s).bars = s.bars := rfl
@[simp] theorem wrapFld_chans (f : FRef) (n : Nat) (s : State) : (wrapFld f n s).chans = s.chans := rfl
@[simp] theorem wrapFld_fryKeys (f : FRef) (n : Nat) (s : State) : (wrapFld f n s).fryKeys = s.fryKeys := rfl
@[simp] theorem wrapFld_fryTurn (f : FRef) (n : Nat) (s : State) : (wrapFld f n s).fryTurn = s.fryTurn := rfl
@[simp] theorem wrapFld_gld (f : FRef) (n : Nat) (s : State) : (wrapFld f n s).gld = s.gld := rfl
@[simp] theorem wrapFld_spns (f : FRef) (n : Nat) (s : State) : (wrapFld f n s).spns = s.spns := rfl
@[simp] theorem wrapFld_ctxs (f : FRef) (n : Nat) (s : State) : (wrapFld f n s).ctxs = s.ctxs := rfl
@[simp] theorem wrapFld_load (f : FRef) (n : Nat) (s : State) : (wrapFld f n s).load = s.load := rfl
@[simp] theorem wrapFld_edge (f : FRef) (n : Nat) (s : State) : (wrapFld f n s).edge = s.edge := rfl
@[simp] theorem wrapFld_voteDue (f : FRef) (n : Nat) (s : State) : (wrapFld f n s).voteDue = s.voteDue := rfl
@[simp] theorem wrapFld_replayAsk (f : FRef) (n : Nat) (s : State) : (wrapFld f n s).replayAsk = s.replayAsk := rfl
@[simp] theorem wrapFld_tallyRoot (f : FRef) (n : Nat) (s : State) : (wrapFld f n s).tallyRoot = s.tallyRoot := rfl
@[simp] theorem wrapFld_goodOffsets (f : FRef) (n : Nat) (s : State) : (wrapFld f n s).goodOffsets = s.goodOffsets := rfl
@[simp] theorem wrapFld_fenceGo (f : FRef) (n : Nat) (s : State) : (wrapFld f n s).fenceGo = s.fenceGo := rfl
@[simp] theorem wrapFld_gone (f : FRef) (n : Nat) (s : State) : (wrapFld f n s).gone = s.gone := rfl
@[simp] theorem wrapFld_taintAt (f : FRef) (n : Nat) (s : State) : (wrapFld f n s).taintAt = s.taintAt := rfl
@[simp] theorem wrapFld_strikes (f : FRef) (n : Nat) (s : State) : (wrapFld f n s).strikes = s.strikes := rfl
@[simp] theorem wrapFld_sounds (f : FRef) (n : Nat) (s : State) : (wrapFld f n s).sounds = s.sounds := rfl
@[simp] theorem wrapFld_profiles (f : FRef) (n : Nat) (s : State) : (wrapFld f n s).profiles = s.profiles := rfl
@[simp] theorem wrapFld_profCommit (f : FRef) (n : Nat) (s : State) : (wrapFld f n s).profCommit = s.profCommit := rfl
@[simp] theorem wrapFld_hostHeld (f : FRef) (n : Nat) (s : State) : (wrapFld f n s).hostHeld = s.hostHeld := rfl
@[simp] theorem wrapFld_lostRings (f : FRef) (n : Nat) (s : State) : (wrapFld f n s).lostRings = s.lostRings := rfl
@[simp] theorem wrapFld_pwr (f : FRef) (n : Nat) (s : State) : (wrapFld f n s).pwr = s.pwr := rfl
@[simp] theorem wrapFld_wear (f : FRef) (n : Nat) (s : State) : (wrapFld f n s).wear = s.wear := rfl
@[simp] theorem wrapFld_pending (f : FRef) (n : Nat) (s : State) : (wrapFld f n s).pending = s.pending := rfl

/-! ### wrByte -/

@[simp] theorem wrByte_fuse (a : Nat) (b : Byte) (s : State) : (wrByte a b s).fuse = s.fuse := rfl
@[simp] theorem wrByte_pins (a : Nat) (b : Byte) (s : State) : (wrByte a b s).pins = s.pins := rfl
@[simp] theorem wrByte_boot (a : Nat) (b : Byte) (s : State) : (wrByte a b s).boot = s.boot := rfl
@[simp] theorem wrByte_regs (a : Nat) (b : Byte) (s : State) : (wrByte a b s).regs = s.regs := rfl
@[simp] theorem wrByte_caps (a : Nat) (b : Byte) (s : State) : (wrByte a b s).caps = s.caps := rfl
@[simp] theorem wrByte_latches (a : Nat) (b : Byte) (s : State) : (wrByte a b s).latches = s.latches := rfl
@[simp] theorem wrByte_heldLow (a : Nat) (b : Byte) (s : State) : (wrByte a b s).heldLow = s.heldLow := rfl
@[simp] theorem wrByte_rdata (a : Nat) (b : Byte) (s : State) : (wrByte a b s).rdata = s.rdata := rfl
@[simp] theorem wrByte_msix (a : Nat) (b : Byte) (s : State) : (wrByte a b s).msix = s.msix := rfl
@[simp] theorem wrByte_sent (a : Nat) (b : Byte) (s : State) : (wrByte a b s).sent = s.sent := rfl
@[simp] theorem wrByte_free (a : Nat) (b : Byte) (s : State) : (wrByte a b s).free = s.free := rfl
@[simp] theorem wrByte_sec (a : Nat) (b : Byte) (s : State) : (wrByte a b s).sec = s.sec := rfl
@[simp] theorem wrByte_staples (a : Nat) (b : Byte) (s : State) : (wrByte a b s).staples = s.staples := rfl
@[simp] theorem wrByte_lagoonBad (a : Nat) (b : Byte) (s : State) : (wrByte a b s).lagoonBad = s.lagoonBad := rfl
@[simp] theorem wrByte_scrubPos (a : Nat) (b : Byte) (s : State) : (wrByte a b s).scrubPos = s.scrubPos := rfl
@[simp] theorem wrByte_digests (a : Nat) (b : Byte) (s : State) : (wrByte a b s).digests = s.digests := rfl
@[simp] theorem wrByte_swap (a : Nat) (b : Byte) (s : State) : (wrByte a b s).swap = s.swap := rfl
@[simp] theorem wrByte_digestPass (a : Nat) (b : Byte) (s : State) : (wrByte a b s).digestPass = s.digestPass := rfl
@[simp] theorem wrByte_acc (a : Nat) (b : Byte) (s : State) : (wrByte a b s).acc = s.acc := rfl
@[simp] theorem wrByte_skeins (a : Nat) (b : Byte) (s : State) : (wrByte a b s).skeins = s.skeins := rfl
@[simp] theorem wrByte_hank (a : Nat) (b : Byte) (s : State) : (wrByte a b s).hank = s.hank := rfl
@[simp] theorem wrByte_stops (a : Nat) (b : Byte) (s : State) : (wrByte a b s).stops = s.stops := rfl
@[simp] theorem wrByte_stopsNext (a : Nat) (b : Byte) (s : State) : (wrByte a b s).stopsNext = s.stopsNext := rfl
@[simp] theorem wrByte_ringFns (a : Nat) (b : Byte) (s : State) : (wrByte a b s).ringFns = s.ringFns := rfl
@[simp] theorem wrByte_kv (a : Nat) (b : Byte) (s : State) : (wrByte a b s).kv = s.kv := rfl
@[simp] theorem wrByte_reefHeld (a : Nat) (b : Byte) (s : State) : (wrByte a b s).reefHeld = s.reefHeld := rfl
@[simp] theorem wrByte_bars (a : Nat) (b : Byte) (s : State) : (wrByte a b s).bars = s.bars := rfl
@[simp] theorem wrByte_chans (a : Nat) (b : Byte) (s : State) : (wrByte a b s).chans = s.chans := rfl
@[simp] theorem wrByte_fryKeys (a : Nat) (b : Byte) (s : State) : (wrByte a b s).fryKeys = s.fryKeys := rfl
@[simp] theorem wrByte_fryTurn (a : Nat) (b : Byte) (s : State) : (wrByte a b s).fryTurn = s.fryTurn := rfl
@[simp] theorem wrByte_gld (a : Nat) (b : Byte) (s : State) : (wrByte a b s).gld = s.gld := rfl
@[simp] theorem wrByte_spns (a : Nat) (b : Byte) (s : State) : (wrByte a b s).spns = s.spns := rfl
@[simp] theorem wrByte_ctxs (a : Nat) (b : Byte) (s : State) : (wrByte a b s).ctxs = s.ctxs := rfl
@[simp] theorem wrByte_load (a : Nat) (b : Byte) (s : State) : (wrByte a b s).load = s.load := rfl
@[simp] theorem wrByte_edge (a : Nat) (b : Byte) (s : State) : (wrByte a b s).edge = s.edge := rfl
@[simp] theorem wrByte_voteDue (a : Nat) (b : Byte) (s : State) : (wrByte a b s).voteDue = s.voteDue := rfl
@[simp] theorem wrByte_replayAsk (a : Nat) (b : Byte) (s : State) : (wrByte a b s).replayAsk = s.replayAsk := rfl
@[simp] theorem wrByte_tallyRoot (a : Nat) (b : Byte) (s : State) : (wrByte a b s).tallyRoot = s.tallyRoot := rfl
@[simp] theorem wrByte_goodOffsets (a : Nat) (b : Byte) (s : State) : (wrByte a b s).goodOffsets = s.goodOffsets := rfl
@[simp] theorem wrByte_fenceGo (a : Nat) (b : Byte) (s : State) : (wrByte a b s).fenceGo = s.fenceGo := rfl
@[simp] theorem wrByte_gone (a : Nat) (b : Byte) (s : State) : (wrByte a b s).gone = s.gone := rfl
@[simp] theorem wrByte_taintAt (a : Nat) (b : Byte) (s : State) : (wrByte a b s).taintAt = s.taintAt := rfl
@[simp] theorem wrByte_strikes (a : Nat) (b : Byte) (s : State) : (wrByte a b s).strikes = s.strikes := rfl
@[simp] theorem wrByte_sounds (a : Nat) (b : Byte) (s : State) : (wrByte a b s).sounds = s.sounds := rfl
@[simp] theorem wrByte_profiles (a : Nat) (b : Byte) (s : State) : (wrByte a b s).profiles = s.profiles := rfl
@[simp] theorem wrByte_profCommit (a : Nat) (b : Byte) (s : State) : (wrByte a b s).profCommit = s.profCommit := rfl
@[simp] theorem wrByte_hostHeld (a : Nat) (b : Byte) (s : State) : (wrByte a b s).hostHeld = s.hostHeld := rfl
@[simp] theorem wrByte_lostRings (a : Nat) (b : Byte) (s : State) : (wrByte a b s).lostRings = s.lostRings := rfl
@[simp] theorem wrByte_pwr (a : Nat) (b : Byte) (s : State) : (wrByte a b s).pwr = s.pwr := rfl
@[simp] theorem wrByte_wear (a : Nat) (b : Byte) (s : State) : (wrByte a b s).wear = s.wear := rfl
@[simp] theorem wrByte_pending (a : Nat) (b : Byte) (s : State) : (wrByte a b s).pending = s.pending := rfl

/-! ### wrBytes -/

@[simp] theorem wrBytes_fuse (a : Nat) (l : List Byte) (s : State) : (wrBytes a l s).fuse = s.fuse := by
  induction l generalizing s a with
  | nil => rfl
  | cons e r ih => exact ih _ _
@[simp] theorem wrBytes_pins (a : Nat) (l : List Byte) (s : State) : (wrBytes a l s).pins = s.pins := by
  induction l generalizing s a with
  | nil => rfl
  | cons e r ih => exact ih _ _
@[simp] theorem wrBytes_boot (a : Nat) (l : List Byte) (s : State) : (wrBytes a l s).boot = s.boot := by
  induction l generalizing s a with
  | nil => rfl
  | cons e r ih => exact ih _ _
@[simp] theorem wrBytes_regs (a : Nat) (l : List Byte) (s : State) : (wrBytes a l s).regs = s.regs := by
  induction l generalizing s a with
  | nil => rfl
  | cons e r ih => exact ih _ _
@[simp] theorem wrBytes_caps (a : Nat) (l : List Byte) (s : State) : (wrBytes a l s).caps = s.caps := by
  induction l generalizing s a with
  | nil => rfl
  | cons e r ih => exact ih _ _
@[simp] theorem wrBytes_latches (a : Nat) (l : List Byte) (s : State) : (wrBytes a l s).latches = s.latches := by
  induction l generalizing s a with
  | nil => rfl
  | cons e r ih => exact ih _ _
@[simp] theorem wrBytes_heldLow (a : Nat) (l : List Byte) (s : State) : (wrBytes a l s).heldLow = s.heldLow := by
  induction l generalizing s a with
  | nil => rfl
  | cons e r ih => exact ih _ _
@[simp] theorem wrBytes_rdata (a : Nat) (l : List Byte) (s : State) : (wrBytes a l s).rdata = s.rdata := by
  induction l generalizing s a with
  | nil => rfl
  | cons e r ih => exact ih _ _
@[simp] theorem wrBytes_msix (a : Nat) (l : List Byte) (s : State) : (wrBytes a l s).msix = s.msix := by
  induction l generalizing s a with
  | nil => rfl
  | cons e r ih => exact ih _ _
@[simp] theorem wrBytes_sent (a : Nat) (l : List Byte) (s : State) : (wrBytes a l s).sent = s.sent := by
  induction l generalizing s a with
  | nil => rfl
  | cons e r ih => exact ih _ _
@[simp] theorem wrBytes_free (a : Nat) (l : List Byte) (s : State) : (wrBytes a l s).free = s.free := by
  induction l generalizing s a with
  | nil => rfl
  | cons e r ih => exact ih _ _
@[simp] theorem wrBytes_sec (a : Nat) (l : List Byte) (s : State) : (wrBytes a l s).sec = s.sec := by
  induction l generalizing s a with
  | nil => rfl
  | cons e r ih => exact ih _ _
@[simp] theorem wrBytes_staples (a : Nat) (l : List Byte) (s : State) : (wrBytes a l s).staples = s.staples := by
  induction l generalizing s a with
  | nil => rfl
  | cons e r ih => exact ih _ _
@[simp] theorem wrBytes_lagoonBad (a : Nat) (l : List Byte) (s : State) : (wrBytes a l s).lagoonBad = s.lagoonBad := by
  induction l generalizing s a with
  | nil => rfl
  | cons e r ih => exact ih _ _
@[simp] theorem wrBytes_scrubPos (a : Nat) (l : List Byte) (s : State) : (wrBytes a l s).scrubPos = s.scrubPos := by
  induction l generalizing s a with
  | nil => rfl
  | cons e r ih => exact ih _ _
@[simp] theorem wrBytes_digests (a : Nat) (l : List Byte) (s : State) : (wrBytes a l s).digests = s.digests := by
  induction l generalizing s a with
  | nil => rfl
  | cons e r ih => exact ih _ _
@[simp] theorem wrBytes_swap (a : Nat) (l : List Byte) (s : State) : (wrBytes a l s).swap = s.swap := by
  induction l generalizing s a with
  | nil => rfl
  | cons e r ih => exact ih _ _
@[simp] theorem wrBytes_digestPass (a : Nat) (l : List Byte) (s : State) : (wrBytes a l s).digestPass = s.digestPass := by
  induction l generalizing s a with
  | nil => rfl
  | cons e r ih => exact ih _ _
@[simp] theorem wrBytes_acc (a : Nat) (l : List Byte) (s : State) : (wrBytes a l s).acc = s.acc := by
  induction l generalizing s a with
  | nil => rfl
  | cons e r ih => exact ih _ _
@[simp] theorem wrBytes_skeins (a : Nat) (l : List Byte) (s : State) : (wrBytes a l s).skeins = s.skeins := by
  induction l generalizing s a with
  | nil => rfl
  | cons e r ih => exact ih _ _
@[simp] theorem wrBytes_hank (a : Nat) (l : List Byte) (s : State) : (wrBytes a l s).hank = s.hank := by
  induction l generalizing s a with
  | nil => rfl
  | cons e r ih => exact ih _ _
@[simp] theorem wrBytes_stops (a : Nat) (l : List Byte) (s : State) : (wrBytes a l s).stops = s.stops := by
  induction l generalizing s a with
  | nil => rfl
  | cons e r ih => exact ih _ _
@[simp] theorem wrBytes_stopsNext (a : Nat) (l : List Byte) (s : State) : (wrBytes a l s).stopsNext = s.stopsNext := by
  induction l generalizing s a with
  | nil => rfl
  | cons e r ih => exact ih _ _
@[simp] theorem wrBytes_ringFns (a : Nat) (l : List Byte) (s : State) : (wrBytes a l s).ringFns = s.ringFns := by
  induction l generalizing s a with
  | nil => rfl
  | cons e r ih => exact ih _ _
@[simp] theorem wrBytes_kv (a : Nat) (l : List Byte) (s : State) : (wrBytes a l s).kv = s.kv := by
  induction l generalizing s a with
  | nil => rfl
  | cons e r ih => exact ih _ _
@[simp] theorem wrBytes_reefHeld (a : Nat) (l : List Byte) (s : State) : (wrBytes a l s).reefHeld = s.reefHeld := by
  induction l generalizing s a with
  | nil => rfl
  | cons e r ih => exact ih _ _
@[simp] theorem wrBytes_bars (a : Nat) (l : List Byte) (s : State) : (wrBytes a l s).bars = s.bars := by
  induction l generalizing s a with
  | nil => rfl
  | cons e r ih => exact ih _ _
@[simp] theorem wrBytes_chans (a : Nat) (l : List Byte) (s : State) : (wrBytes a l s).chans = s.chans := by
  induction l generalizing s a with
  | nil => rfl
  | cons e r ih => exact ih _ _
@[simp] theorem wrBytes_fryKeys (a : Nat) (l : List Byte) (s : State) : (wrBytes a l s).fryKeys = s.fryKeys := by
  induction l generalizing s a with
  | nil => rfl
  | cons e r ih => exact ih _ _
@[simp] theorem wrBytes_fryTurn (a : Nat) (l : List Byte) (s : State) : (wrBytes a l s).fryTurn = s.fryTurn := by
  induction l generalizing s a with
  | nil => rfl
  | cons e r ih => exact ih _ _
@[simp] theorem wrBytes_gld (a : Nat) (l : List Byte) (s : State) : (wrBytes a l s).gld = s.gld := by
  induction l generalizing s a with
  | nil => rfl
  | cons e r ih => exact ih _ _
@[simp] theorem wrBytes_spns (a : Nat) (l : List Byte) (s : State) : (wrBytes a l s).spns = s.spns := by
  induction l generalizing s a with
  | nil => rfl
  | cons e r ih => exact ih _ _
@[simp] theorem wrBytes_ctxs (a : Nat) (l : List Byte) (s : State) : (wrBytes a l s).ctxs = s.ctxs := by
  induction l generalizing s a with
  | nil => rfl
  | cons e r ih => exact ih _ _
@[simp] theorem wrBytes_load (a : Nat) (l : List Byte) (s : State) : (wrBytes a l s).load = s.load := by
  induction l generalizing s a with
  | nil => rfl
  | cons e r ih => exact ih _ _
@[simp] theorem wrBytes_edge (a : Nat) (l : List Byte) (s : State) : (wrBytes a l s).edge = s.edge := by
  induction l generalizing s a with
  | nil => rfl
  | cons e r ih => exact ih _ _
@[simp] theorem wrBytes_voteDue (a : Nat) (l : List Byte) (s : State) : (wrBytes a l s).voteDue = s.voteDue := by
  induction l generalizing s a with
  | nil => rfl
  | cons e r ih => exact ih _ _
@[simp] theorem wrBytes_replayAsk (a : Nat) (l : List Byte) (s : State) : (wrBytes a l s).replayAsk = s.replayAsk := by
  induction l generalizing s a with
  | nil => rfl
  | cons e r ih => exact ih _ _
@[simp] theorem wrBytes_tallyRoot (a : Nat) (l : List Byte) (s : State) : (wrBytes a l s).tallyRoot = s.tallyRoot := by
  induction l generalizing s a with
  | nil => rfl
  | cons e r ih => exact ih _ _
@[simp] theorem wrBytes_goodOffsets (a : Nat) (l : List Byte) (s : State) : (wrBytes a l s).goodOffsets = s.goodOffsets := by
  induction l generalizing s a with
  | nil => rfl
  | cons e r ih => exact ih _ _
@[simp] theorem wrBytes_fenceGo (a : Nat) (l : List Byte) (s : State) : (wrBytes a l s).fenceGo = s.fenceGo := by
  induction l generalizing s a with
  | nil => rfl
  | cons e r ih => exact ih _ _
@[simp] theorem wrBytes_gone (a : Nat) (l : List Byte) (s : State) : (wrBytes a l s).gone = s.gone := by
  induction l generalizing s a with
  | nil => rfl
  | cons e r ih => exact ih _ _
@[simp] theorem wrBytes_taintAt (a : Nat) (l : List Byte) (s : State) : (wrBytes a l s).taintAt = s.taintAt := by
  induction l generalizing s a with
  | nil => rfl
  | cons e r ih => exact ih _ _
@[simp] theorem wrBytes_strikes (a : Nat) (l : List Byte) (s : State) : (wrBytes a l s).strikes = s.strikes := by
  induction l generalizing s a with
  | nil => rfl
  | cons e r ih => exact ih _ _
@[simp] theorem wrBytes_sounds (a : Nat) (l : List Byte) (s : State) : (wrBytes a l s).sounds = s.sounds := by
  induction l generalizing s a with
  | nil => rfl
  | cons e r ih => exact ih _ _
@[simp] theorem wrBytes_profiles (a : Nat) (l : List Byte) (s : State) : (wrBytes a l s).profiles = s.profiles := by
  induction l generalizing s a with
  | nil => rfl
  | cons e r ih => exact ih _ _
@[simp] theorem wrBytes_profCommit (a : Nat) (l : List Byte) (s : State) : (wrBytes a l s).profCommit = s.profCommit := by
  induction l generalizing s a with
  | nil => rfl
  | cons e r ih => exact ih _ _
@[simp] theorem wrBytes_hostHeld (a : Nat) (l : List Byte) (s : State) : (wrBytes a l s).hostHeld = s.hostHeld := by
  induction l generalizing s a with
  | nil => rfl
  | cons e r ih => exact ih _ _
@[simp] theorem wrBytes_lostRings (a : Nat) (l : List Byte) (s : State) : (wrBytes a l s).lostRings = s.lostRings := by
  induction l generalizing s a with
  | nil => rfl
  | cons e r ih => exact ih _ _
@[simp] theorem wrBytes_pwr (a : Nat) (l : List Byte) (s : State) : (wrBytes a l s).pwr = s.pwr := by
  induction l generalizing s a with
  | nil => rfl
  | cons e r ih => exact ih _ _
@[simp] theorem wrBytes_wear (a : Nat) (l : List Byte) (s : State) : (wrBytes a l s).wear = s.wear := by
  induction l generalizing s a with
  | nil => rfl
  | cons e r ih => exact ih _ _
@[simp] theorem wrBytes_pending (a : Nat) (l : List Byte) (s : State) : (wrBytes a l s).pending = s.pending := by
  induction l generalizing s a with
  | nil => rfl
  | cons e r ih => exact ih _ _

/-! ### setMeta -/

@[simp] theorem setMeta_fuse (a : Nat) (m : Meta) (s : State) : (setMeta a m s).fuse = s.fuse := rfl
@[simp] theorem setMeta_pins (a : Nat) (m : Meta) (s : State) : (setMeta a m s).pins = s.pins := rfl
@[simp] theorem setMeta_boot (a : Nat) (m : Meta) (s : State) : (setMeta a m s).boot = s.boot := rfl
@[simp] theorem setMeta_regs (a : Nat) (m : Meta) (s : State) : (setMeta a m s).regs = s.regs := rfl
@[simp] theorem setMeta_caps (a : Nat) (m : Meta) (s : State) : (setMeta a m s).caps = s.caps := rfl
@[simp] theorem setMeta_latches (a : Nat) (m : Meta) (s : State) : (setMeta a m s).latches = s.latches := rfl
@[simp] theorem setMeta_heldLow (a : Nat) (m : Meta) (s : State) : (setMeta a m s).heldLow = s.heldLow := rfl
@[simp] theorem setMeta_rdata (a : Nat) (m : Meta) (s : State) : (setMeta a m s).rdata = s.rdata := rfl
@[simp] theorem setMeta_msix (a : Nat) (m : Meta) (s : State) : (setMeta a m s).msix = s.msix := rfl
@[simp] theorem setMeta_sent (a : Nat) (m : Meta) (s : State) : (setMeta a m s).sent = s.sent := rfl
@[simp] theorem setMeta_free (a : Nat) (m : Meta) (s : State) : (setMeta a m s).free = s.free := rfl
@[simp] theorem setMeta_sec (a : Nat) (m : Meta) (s : State) : (setMeta a m s).sec = s.sec := rfl
@[simp] theorem setMeta_mem (a : Nat) (m : Meta) (s : State) : (setMeta a m s).mem = s.mem := rfl
@[simp] theorem setMeta_lagoonBad (a : Nat) (m : Meta) (s : State) : (setMeta a m s).lagoonBad = s.lagoonBad := rfl
@[simp] theorem setMeta_scrubPos (a : Nat) (m : Meta) (s : State) : (setMeta a m s).scrubPos = s.scrubPos := rfl
@[simp] theorem setMeta_digests (a : Nat) (m : Meta) (s : State) : (setMeta a m s).digests = s.digests := rfl
@[simp] theorem setMeta_swap (a : Nat) (m : Meta) (s : State) : (setMeta a m s).swap = s.swap := rfl
@[simp] theorem setMeta_digestPass (a : Nat) (m : Meta) (s : State) : (setMeta a m s).digestPass = s.digestPass := rfl
@[simp] theorem setMeta_acc (a : Nat) (m : Meta) (s : State) : (setMeta a m s).acc = s.acc := rfl
@[simp] theorem setMeta_skeins (a : Nat) (m : Meta) (s : State) : (setMeta a m s).skeins = s.skeins := rfl
@[simp] theorem setMeta_hank (a : Nat) (m : Meta) (s : State) : (setMeta a m s).hank = s.hank := rfl
@[simp] theorem setMeta_stops (a : Nat) (m : Meta) (s : State) : (setMeta a m s).stops = s.stops := rfl
@[simp] theorem setMeta_stopsNext (a : Nat) (m : Meta) (s : State) : (setMeta a m s).stopsNext = s.stopsNext := rfl
@[simp] theorem setMeta_ringFns (a : Nat) (m : Meta) (s : State) : (setMeta a m s).ringFns = s.ringFns := rfl
@[simp] theorem setMeta_kv (a : Nat) (m : Meta) (s : State) : (setMeta a m s).kv = s.kv := rfl
@[simp] theorem setMeta_reefHeld (a : Nat) (m : Meta) (s : State) : (setMeta a m s).reefHeld = s.reefHeld := rfl
@[simp] theorem setMeta_bars (a : Nat) (m : Meta) (s : State) : (setMeta a m s).bars = s.bars := rfl
@[simp] theorem setMeta_chans (a : Nat) (m : Meta) (s : State) : (setMeta a m s).chans = s.chans := rfl
@[simp] theorem setMeta_fryKeys (a : Nat) (m : Meta) (s : State) : (setMeta a m s).fryKeys = s.fryKeys := rfl
@[simp] theorem setMeta_fryTurn (a : Nat) (m : Meta) (s : State) : (setMeta a m s).fryTurn = s.fryTurn := rfl
@[simp] theorem setMeta_gld (a : Nat) (m : Meta) (s : State) : (setMeta a m s).gld = s.gld := rfl
@[simp] theorem setMeta_spns (a : Nat) (m : Meta) (s : State) : (setMeta a m s).spns = s.spns := rfl
@[simp] theorem setMeta_ctxs (a : Nat) (m : Meta) (s : State) : (setMeta a m s).ctxs = s.ctxs := rfl
@[simp] theorem setMeta_load (a : Nat) (m : Meta) (s : State) : (setMeta a m s).load = s.load := rfl
@[simp] theorem setMeta_edge (a : Nat) (m : Meta) (s : State) : (setMeta a m s).edge = s.edge := rfl
@[simp] theorem setMeta_voteDue (a : Nat) (m : Meta) (s : State) : (setMeta a m s).voteDue = s.voteDue := rfl
@[simp] theorem setMeta_replayAsk (a : Nat) (m : Meta) (s : State) : (setMeta a m s).replayAsk = s.replayAsk := rfl
@[simp] theorem setMeta_tallyRoot (a : Nat) (m : Meta) (s : State) : (setMeta a m s).tallyRoot = s.tallyRoot := rfl
@[simp] theorem setMeta_goodOffsets (a : Nat) (m : Meta) (s : State) : (setMeta a m s).goodOffsets = s.goodOffsets := rfl
@[simp] theorem setMeta_fenceGo (a : Nat) (m : Meta) (s : State) : (setMeta a m s).fenceGo = s.fenceGo := rfl
@[simp] theorem setMeta_gone (a : Nat) (m : Meta) (s : State) : (setMeta a m s).gone = s.gone := rfl
@[simp] theorem setMeta_taintAt (a : Nat) (m : Meta) (s : State) : (setMeta a m s).taintAt = s.taintAt := rfl
@[simp] theorem setMeta_strikes (a : Nat) (m : Meta) (s : State) : (setMeta a m s).strikes = s.strikes := rfl
@[simp] theorem setMeta_sounds (a : Nat) (m : Meta) (s : State) : (setMeta a m s).sounds = s.sounds := rfl
@[simp] theorem setMeta_profiles (a : Nat) (m : Meta) (s : State) : (setMeta a m s).profiles = s.profiles := rfl
@[simp] theorem setMeta_profCommit (a : Nat) (m : Meta) (s : State) : (setMeta a m s).profCommit = s.profCommit := rfl
@[simp] theorem setMeta_hostHeld (a : Nat) (m : Meta) (s : State) : (setMeta a m s).hostHeld = s.hostHeld := rfl
@[simp] theorem setMeta_lostRings (a : Nat) (m : Meta) (s : State) : (setMeta a m s).lostRings = s.lostRings := rfl
@[simp] theorem setMeta_pwr (a : Nat) (m : Meta) (s : State) : (setMeta a m s).pwr = s.pwr := rfl
@[simp] theorem setMeta_wear (a : Nat) (m : Meta) (s : State) : (setMeta a m s).wear = s.wear := rfl
@[simp] theorem setMeta_pending (a : Nat) (m : Meta) (s : State) : (setMeta a m s).pending = s.pending := rfl

/-! ### send -/

@[simp] theorem send_fuse (x : Sent) (s : State) : (send x s).fuse = s.fuse := rfl
@[simp] theorem send_pins (x : Sent) (s : State) : (send x s).pins = s.pins := rfl
@[simp] theorem send_boot (x : Sent) (s : State) : (send x s).boot = s.boot := rfl
@[simp] theorem send_regs (x : Sent) (s : State) : (send x s).regs = s.regs := rfl
@[simp] theorem send_caps (x : Sent) (s : State) : (send x s).caps = s.caps := rfl
@[simp] theorem send_latches (x : Sent) (s : State) : (send x s).latches = s.latches := rfl
@[simp] theorem send_heldLow (x : Sent) (s : State) : (send x s).heldLow = s.heldLow := rfl
@[simp] theorem send_rdata (x : Sent) (s : State) : (send x s).rdata = s.rdata := rfl
@[simp] theorem send_msix (x : Sent) (s : State) : (send x s).msix = s.msix := rfl
@[simp] theorem send_free (x : Sent) (s : State) : (send x s).free = s.free := rfl
@[simp] theorem send_sec (x : Sent) (s : State) : (send x s).sec = s.sec := rfl
@[simp] theorem send_mem (x : Sent) (s : State) : (send x s).mem = s.mem := rfl
@[simp] theorem send_staples (x : Sent) (s : State) : (send x s).staples = s.staples := rfl
@[simp] theorem send_lagoonBad (x : Sent) (s : State) : (send x s).lagoonBad = s.lagoonBad := rfl
@[simp] theorem send_scrubPos (x : Sent) (s : State) : (send x s).scrubPos = s.scrubPos := rfl
@[simp] theorem send_digests (x : Sent) (s : State) : (send x s).digests = s.digests := rfl
@[simp] theorem send_swap (x : Sent) (s : State) : (send x s).swap = s.swap := rfl
@[simp] theorem send_digestPass (x : Sent) (s : State) : (send x s).digestPass = s.digestPass := rfl
@[simp] theorem send_acc (x : Sent) (s : State) : (send x s).acc = s.acc := rfl
@[simp] theorem send_skeins (x : Sent) (s : State) : (send x s).skeins = s.skeins := rfl
@[simp] theorem send_hank (x : Sent) (s : State) : (send x s).hank = s.hank := rfl
@[simp] theorem send_stops (x : Sent) (s : State) : (send x s).stops = s.stops := rfl
@[simp] theorem send_stopsNext (x : Sent) (s : State) : (send x s).stopsNext = s.stopsNext := rfl
@[simp] theorem send_ringFns (x : Sent) (s : State) : (send x s).ringFns = s.ringFns := rfl
@[simp] theorem send_kv (x : Sent) (s : State) : (send x s).kv = s.kv := rfl
@[simp] theorem send_reefHeld (x : Sent) (s : State) : (send x s).reefHeld = s.reefHeld := rfl
@[simp] theorem send_bars (x : Sent) (s : State) : (send x s).bars = s.bars := rfl
@[simp] theorem send_chans (x : Sent) (s : State) : (send x s).chans = s.chans := rfl
@[simp] theorem send_fryKeys (x : Sent) (s : State) : (send x s).fryKeys = s.fryKeys := rfl
@[simp] theorem send_fryTurn (x : Sent) (s : State) : (send x s).fryTurn = s.fryTurn := rfl
@[simp] theorem send_gld (x : Sent) (s : State) : (send x s).gld = s.gld := rfl
@[simp] theorem send_spns (x : Sent) (s : State) : (send x s).spns = s.spns := rfl
@[simp] theorem send_ctxs (x : Sent) (s : State) : (send x s).ctxs = s.ctxs := rfl
@[simp] theorem send_load (x : Sent) (s : State) : (send x s).load = s.load := rfl
@[simp] theorem send_edge (x : Sent) (s : State) : (send x s).edge = s.edge := rfl
@[simp] theorem send_voteDue (x : Sent) (s : State) : (send x s).voteDue = s.voteDue := rfl
@[simp] theorem send_replayAsk (x : Sent) (s : State) : (send x s).replayAsk = s.replayAsk := rfl
@[simp] theorem send_tallyRoot (x : Sent) (s : State) : (send x s).tallyRoot = s.tallyRoot := rfl
@[simp] theorem send_goodOffsets (x : Sent) (s : State) : (send x s).goodOffsets = s.goodOffsets := rfl
@[simp] theorem send_fenceGo (x : Sent) (s : State) : (send x s).fenceGo = s.fenceGo := rfl
@[simp] theorem send_gone (x : Sent) (s : State) : (send x s).gone = s.gone := rfl
@[simp] theorem send_taintAt (x : Sent) (s : State) : (send x s).taintAt = s.taintAt := rfl
@[simp] theorem send_strikes (x : Sent) (s : State) : (send x s).strikes = s.strikes := rfl
@[simp] theorem send_sounds (x : Sent) (s : State) : (send x s).sounds = s.sounds := rfl
@[simp] theorem send_profiles (x : Sent) (s : State) : (send x s).profiles = s.profiles := rfl
@[simp] theorem send_profCommit (x : Sent) (s : State) : (send x s).profCommit = s.profCommit := rfl
@[simp] theorem send_hostHeld (x : Sent) (s : State) : (send x s).hostHeld = s.hostHeld := rfl
@[simp] theorem send_lostRings (x : Sent) (s : State) : (send x s).lostRings = s.lostRings := rfl
@[simp] theorem send_pwr (x : Sent) (s : State) : (send x s).pwr = s.pwr := rfl
@[simp] theorem send_wear (x : Sent) (s : State) : (send x s).wear = s.wear := rfl
@[simp] theorem send_pending (x : Sent) (s : State) : (send x s).pending = s.pending := rfl

/-! ### modKv -/

@[simp] theorem modKv_fuse (f : Kv → Kv) (s : State) : (modKv f s).fuse = s.fuse := rfl
@[simp] theorem modKv_pins (f : Kv → Kv) (s : State) : (modKv f s).pins = s.pins := rfl
@[simp] theorem modKv_boot (f : Kv → Kv) (s : State) : (modKv f s).boot = s.boot := rfl
@[simp] theorem modKv_regs (f : Kv → Kv) (s : State) : (modKv f s).regs = s.regs := rfl
@[simp] theorem modKv_caps (f : Kv → Kv) (s : State) : (modKv f s).caps = s.caps := rfl
@[simp] theorem modKv_latches (f : Kv → Kv) (s : State) : (modKv f s).latches = s.latches := rfl
@[simp] theorem modKv_heldLow (f : Kv → Kv) (s : State) : (modKv f s).heldLow = s.heldLow := rfl
@[simp] theorem modKv_rdata (f : Kv → Kv) (s : State) : (modKv f s).rdata = s.rdata := rfl
@[simp] theorem modKv_msix (f : Kv → Kv) (s : State) : (modKv f s).msix = s.msix := rfl
@[simp] theorem modKv_sent (f : Kv → Kv) (s : State) : (modKv f s).sent = s.sent := rfl
@[simp] theorem modKv_free (f : Kv → Kv) (s : State) : (modKv f s).free = s.free := rfl
@[simp] theorem modKv_sec (f : Kv → Kv) (s : State) : (modKv f s).sec = s.sec := rfl
@[simp] theorem modKv_mem (f : Kv → Kv) (s : State) : (modKv f s).mem = s.mem := rfl
@[simp] theorem modKv_staples (f : Kv → Kv) (s : State) : (modKv f s).staples = s.staples := rfl
@[simp] theorem modKv_lagoonBad (f : Kv → Kv) (s : State) : (modKv f s).lagoonBad = s.lagoonBad := rfl
@[simp] theorem modKv_scrubPos (f : Kv → Kv) (s : State) : (modKv f s).scrubPos = s.scrubPos := rfl
@[simp] theorem modKv_digests (f : Kv → Kv) (s : State) : (modKv f s).digests = s.digests := rfl
@[simp] theorem modKv_swap (f : Kv → Kv) (s : State) : (modKv f s).swap = s.swap := rfl
@[simp] theorem modKv_digestPass (f : Kv → Kv) (s : State) : (modKv f s).digestPass = s.digestPass := rfl
@[simp] theorem modKv_acc (f : Kv → Kv) (s : State) : (modKv f s).acc = s.acc := rfl
@[simp] theorem modKv_skeins (f : Kv → Kv) (s : State) : (modKv f s).skeins = s.skeins := rfl
@[simp] theorem modKv_hank (f : Kv → Kv) (s : State) : (modKv f s).hank = s.hank := rfl
@[simp] theorem modKv_stops (f : Kv → Kv) (s : State) : (modKv f s).stops = s.stops := rfl
@[simp] theorem modKv_stopsNext (f : Kv → Kv) (s : State) : (modKv f s).stopsNext = s.stopsNext := rfl
@[simp] theorem modKv_ringFns (f : Kv → Kv) (s : State) : (modKv f s).ringFns = s.ringFns := rfl
@[simp] theorem modKv_reefHeld (f : Kv → Kv) (s : State) : (modKv f s).reefHeld = s.reefHeld := rfl
@[simp] theorem modKv_bars (f : Kv → Kv) (s : State) : (modKv f s).bars = s.bars := rfl
@[simp] theorem modKv_chans (f : Kv → Kv) (s : State) : (modKv f s).chans = s.chans := rfl
@[simp] theorem modKv_fryKeys (f : Kv → Kv) (s : State) : (modKv f s).fryKeys = s.fryKeys := rfl
@[simp] theorem modKv_fryTurn (f : Kv → Kv) (s : State) : (modKv f s).fryTurn = s.fryTurn := rfl
@[simp] theorem modKv_gld (f : Kv → Kv) (s : State) : (modKv f s).gld = s.gld := rfl
@[simp] theorem modKv_spns (f : Kv → Kv) (s : State) : (modKv f s).spns = s.spns := rfl
@[simp] theorem modKv_ctxs (f : Kv → Kv) (s : State) : (modKv f s).ctxs = s.ctxs := rfl
@[simp] theorem modKv_load (f : Kv → Kv) (s : State) : (modKv f s).load = s.load := rfl
@[simp] theorem modKv_edge (f : Kv → Kv) (s : State) : (modKv f s).edge = s.edge := rfl
@[simp] theorem modKv_voteDue (f : Kv → Kv) (s : State) : (modKv f s).voteDue = s.voteDue := rfl
@[simp] theorem modKv_replayAsk (f : Kv → Kv) (s : State) : (modKv f s).replayAsk = s.replayAsk := rfl
@[simp] theorem modKv_tallyRoot (f : Kv → Kv) (s : State) : (modKv f s).tallyRoot = s.tallyRoot := rfl
@[simp] theorem modKv_goodOffsets (f : Kv → Kv) (s : State) : (modKv f s).goodOffsets = s.goodOffsets := rfl
@[simp] theorem modKv_fenceGo (f : Kv → Kv) (s : State) : (modKv f s).fenceGo = s.fenceGo := rfl
@[simp] theorem modKv_gone (f : Kv → Kv) (s : State) : (modKv f s).gone = s.gone := rfl
@[simp] theorem modKv_taintAt (f : Kv → Kv) (s : State) : (modKv f s).taintAt = s.taintAt := rfl
@[simp] theorem modKv_strikes (f : Kv → Kv) (s : State) : (modKv f s).strikes = s.strikes := rfl
@[simp] theorem modKv_sounds (f : Kv → Kv) (s : State) : (modKv f s).sounds = s.sounds := rfl
@[simp] theorem modKv_profiles (f : Kv → Kv) (s : State) : (modKv f s).profiles = s.profiles := rfl
@[simp] theorem modKv_profCommit (f : Kv → Kv) (s : State) : (modKv f s).profCommit = s.profCommit := rfl
@[simp] theorem modKv_hostHeld (f : Kv → Kv) (s : State) : (modKv f s).hostHeld = s.hostHeld := rfl
@[simp] theorem modKv_lostRings (f : Kv → Kv) (s : State) : (modKv f s).lostRings = s.lostRings := rfl
@[simp] theorem modKv_pwr (f : Kv → Kv) (s : State) : (modKv f s).pwr = s.pwr := rfl
@[simp] theorem modKv_wear (f : Kv → Kv) (s : State) : (modKv f s).wear = s.wear := rfl
@[simp] theorem modKv_pending (f : Kv → Kv) (s : State) : (modKv f s).pending = s.pending := rfl

/-! ### setCtx -/

@[simp] theorem setCtx_fuse (c : Nat) (x : Ctx) (s : State) : (setCtx c x s).fuse = s.fuse := rfl
@[simp] theorem setCtx_pins (c : Nat) (x : Ctx) (s : State) : (setCtx c x s).pins = s.pins := rfl
@[simp] theorem setCtx_boot (c : Nat) (x : Ctx) (s : State) : (setCtx c x s).boot = s.boot := rfl
@[simp] theorem setCtx_regs (c : Nat) (x : Ctx) (s : State) : (setCtx c x s).regs = s.regs := rfl
@[simp] theorem setCtx_caps (c : Nat) (x : Ctx) (s : State) : (setCtx c x s).caps = s.caps := rfl
@[simp] theorem setCtx_latches (c : Nat) (x : Ctx) (s : State) : (setCtx c x s).latches = s.latches := rfl
@[simp] theorem setCtx_heldLow (c : Nat) (x : Ctx) (s : State) : (setCtx c x s).heldLow = s.heldLow := rfl
@[simp] theorem setCtx_rdata (c : Nat) (x : Ctx) (s : State) : (setCtx c x s).rdata = s.rdata := rfl
@[simp] theorem setCtx_msix (c : Nat) (x : Ctx) (s : State) : (setCtx c x s).msix = s.msix := rfl
@[simp] theorem setCtx_sent (c : Nat) (x : Ctx) (s : State) : (setCtx c x s).sent = s.sent := rfl
@[simp] theorem setCtx_free (c : Nat) (x : Ctx) (s : State) : (setCtx c x s).free = s.free := rfl
@[simp] theorem setCtx_sec (c : Nat) (x : Ctx) (s : State) : (setCtx c x s).sec = s.sec := rfl
@[simp] theorem setCtx_mem (c : Nat) (x : Ctx) (s : State) : (setCtx c x s).mem = s.mem := rfl
@[simp] theorem setCtx_staples (c : Nat) (x : Ctx) (s : State) : (setCtx c x s).staples = s.staples := rfl
@[simp] theorem setCtx_lagoonBad (c : Nat) (x : Ctx) (s : State) : (setCtx c x s).lagoonBad = s.lagoonBad := rfl
@[simp] theorem setCtx_scrubPos (c : Nat) (x : Ctx) (s : State) : (setCtx c x s).scrubPos = s.scrubPos := rfl
@[simp] theorem setCtx_digests (c : Nat) (x : Ctx) (s : State) : (setCtx c x s).digests = s.digests := rfl
@[simp] theorem setCtx_swap (c : Nat) (x : Ctx) (s : State) : (setCtx c x s).swap = s.swap := rfl
@[simp] theorem setCtx_digestPass (c : Nat) (x : Ctx) (s : State) : (setCtx c x s).digestPass = s.digestPass := rfl
@[simp] theorem setCtx_acc (c : Nat) (x : Ctx) (s : State) : (setCtx c x s).acc = s.acc := rfl
@[simp] theorem setCtx_skeins (c : Nat) (x : Ctx) (s : State) : (setCtx c x s).skeins = s.skeins := rfl
@[simp] theorem setCtx_hank (c : Nat) (x : Ctx) (s : State) : (setCtx c x s).hank = s.hank := rfl
@[simp] theorem setCtx_stops (c : Nat) (x : Ctx) (s : State) : (setCtx c x s).stops = s.stops := rfl
@[simp] theorem setCtx_stopsNext (c : Nat) (x : Ctx) (s : State) : (setCtx c x s).stopsNext = s.stopsNext := rfl
@[simp] theorem setCtx_ringFns (c : Nat) (x : Ctx) (s : State) : (setCtx c x s).ringFns = s.ringFns := rfl
@[simp] theorem setCtx_kv (c : Nat) (x : Ctx) (s : State) : (setCtx c x s).kv = s.kv := rfl
@[simp] theorem setCtx_reefHeld (c : Nat) (x : Ctx) (s : State) : (setCtx c x s).reefHeld = s.reefHeld := rfl
@[simp] theorem setCtx_bars (c : Nat) (x : Ctx) (s : State) : (setCtx c x s).bars = s.bars := rfl
@[simp] theorem setCtx_chans (c : Nat) (x : Ctx) (s : State) : (setCtx c x s).chans = s.chans := rfl
@[simp] theorem setCtx_fryKeys (c : Nat) (x : Ctx) (s : State) : (setCtx c x s).fryKeys = s.fryKeys := rfl
@[simp] theorem setCtx_fryTurn (c : Nat) (x : Ctx) (s : State) : (setCtx c x s).fryTurn = s.fryTurn := rfl
@[simp] theorem setCtx_gld (c : Nat) (x : Ctx) (s : State) : (setCtx c x s).gld = s.gld := rfl
@[simp] theorem setCtx_spns (c : Nat) (x : Ctx) (s : State) : (setCtx c x s).spns = s.spns := rfl
@[simp] theorem setCtx_load (c : Nat) (x : Ctx) (s : State) : (setCtx c x s).load = s.load := rfl
@[simp] theorem setCtx_edge (c : Nat) (x : Ctx) (s : State) : (setCtx c x s).edge = s.edge := rfl
@[simp] theorem setCtx_voteDue (c : Nat) (x : Ctx) (s : State) : (setCtx c x s).voteDue = s.voteDue := rfl
@[simp] theorem setCtx_replayAsk (c : Nat) (x : Ctx) (s : State) : (setCtx c x s).replayAsk = s.replayAsk := rfl
@[simp] theorem setCtx_tallyRoot (c : Nat) (x : Ctx) (s : State) : (setCtx c x s).tallyRoot = s.tallyRoot := rfl
@[simp] theorem setCtx_goodOffsets (c : Nat) (x : Ctx) (s : State) : (setCtx c x s).goodOffsets = s.goodOffsets := rfl
@[simp] theorem setCtx_fenceGo (c : Nat) (x : Ctx) (s : State) : (setCtx c x s).fenceGo = s.fenceGo := rfl
@[simp] theorem setCtx_gone (c : Nat) (x : Ctx) (s : State) : (setCtx c x s).gone = s.gone := rfl
@[simp] theorem setCtx_taintAt (c : Nat) (x : Ctx) (s : State) : (setCtx c x s).taintAt = s.taintAt := rfl
@[simp] theorem setCtx_strikes (c : Nat) (x : Ctx) (s : State) : (setCtx c x s).strikes = s.strikes := rfl
@[simp] theorem setCtx_sounds (c : Nat) (x : Ctx) (s : State) : (setCtx c x s).sounds = s.sounds := rfl
@[simp] theorem setCtx_profiles (c : Nat) (x : Ctx) (s : State) : (setCtx c x s).profiles = s.profiles := rfl
@[simp] theorem setCtx_profCommit (c : Nat) (x : Ctx) (s : State) : (setCtx c x s).profCommit = s.profCommit := rfl
@[simp] theorem setCtx_hostHeld (c : Nat) (x : Ctx) (s : State) : (setCtx c x s).hostHeld = s.hostHeld := rfl
@[simp] theorem setCtx_lostRings (c : Nat) (x : Ctx) (s : State) : (setCtx c x s).lostRings = s.lostRings := rfl
@[simp] theorem setCtx_pwr (c : Nat) (x : Ctx) (s : State) : (setCtx c x s).pwr = s.pwr := rfl
@[simp] theorem setCtx_wear (c : Nat) (x : Ctx) (s : State) : (setCtx c x s).wear = s.wear := rfl
@[simp] theorem setCtx_pending (c : Nat) (x : Ctx) (s : State) : (setCtx c x s).pending = s.pending := rfl

/-! ### modCtx -/

@[simp] theorem modCtx_fuse (c : Nat) (f : Ctx → Ctx) (s : State) : (modCtx c f s).fuse = s.fuse := rfl
@[simp] theorem modCtx_pins (c : Nat) (f : Ctx → Ctx) (s : State) : (modCtx c f s).pins = s.pins := rfl
@[simp] theorem modCtx_boot (c : Nat) (f : Ctx → Ctx) (s : State) : (modCtx c f s).boot = s.boot := rfl
@[simp] theorem modCtx_regs (c : Nat) (f : Ctx → Ctx) (s : State) : (modCtx c f s).regs = s.regs := rfl
@[simp] theorem modCtx_caps (c : Nat) (f : Ctx → Ctx) (s : State) : (modCtx c f s).caps = s.caps := rfl
@[simp] theorem modCtx_latches (c : Nat) (f : Ctx → Ctx) (s : State) : (modCtx c f s).latches = s.latches := rfl
@[simp] theorem modCtx_heldLow (c : Nat) (f : Ctx → Ctx) (s : State) : (modCtx c f s).heldLow = s.heldLow := rfl
@[simp] theorem modCtx_rdata (c : Nat) (f : Ctx → Ctx) (s : State) : (modCtx c f s).rdata = s.rdata := rfl
@[simp] theorem modCtx_msix (c : Nat) (f : Ctx → Ctx) (s : State) : (modCtx c f s).msix = s.msix := rfl
@[simp] theorem modCtx_sent (c : Nat) (f : Ctx → Ctx) (s : State) : (modCtx c f s).sent = s.sent := rfl
@[simp] theorem modCtx_free (c : Nat) (f : Ctx → Ctx) (s : State) : (modCtx c f s).free = s.free := rfl
@[simp] theorem modCtx_sec (c : Nat) (f : Ctx → Ctx) (s : State) : (modCtx c f s).sec = s.sec := rfl
@[simp] theorem modCtx_mem (c : Nat) (f : Ctx → Ctx) (s : State) : (modCtx c f s).mem = s.mem := rfl
@[simp] theorem modCtx_staples (c : Nat) (f : Ctx → Ctx) (s : State) : (modCtx c f s).staples = s.staples := rfl
@[simp] theorem modCtx_lagoonBad (c : Nat) (f : Ctx → Ctx) (s : State) : (modCtx c f s).lagoonBad = s.lagoonBad := rfl
@[simp] theorem modCtx_scrubPos (c : Nat) (f : Ctx → Ctx) (s : State) : (modCtx c f s).scrubPos = s.scrubPos := rfl
@[simp] theorem modCtx_digests (c : Nat) (f : Ctx → Ctx) (s : State) : (modCtx c f s).digests = s.digests := rfl
@[simp] theorem modCtx_swap (c : Nat) (f : Ctx → Ctx) (s : State) : (modCtx c f s).swap = s.swap := rfl
@[simp] theorem modCtx_digestPass (c : Nat) (f : Ctx → Ctx) (s : State) : (modCtx c f s).digestPass = s.digestPass := rfl
@[simp] theorem modCtx_acc (c : Nat) (f : Ctx → Ctx) (s : State) : (modCtx c f s).acc = s.acc := rfl
@[simp] theorem modCtx_skeins (c : Nat) (f : Ctx → Ctx) (s : State) : (modCtx c f s).skeins = s.skeins := rfl
@[simp] theorem modCtx_hank (c : Nat) (f : Ctx → Ctx) (s : State) : (modCtx c f s).hank = s.hank := rfl
@[simp] theorem modCtx_stops (c : Nat) (f : Ctx → Ctx) (s : State) : (modCtx c f s).stops = s.stops := rfl
@[simp] theorem modCtx_stopsNext (c : Nat) (f : Ctx → Ctx) (s : State) : (modCtx c f s).stopsNext = s.stopsNext := rfl
@[simp] theorem modCtx_ringFns (c : Nat) (f : Ctx → Ctx) (s : State) : (modCtx c f s).ringFns = s.ringFns := rfl
@[simp] theorem modCtx_kv (c : Nat) (f : Ctx → Ctx) (s : State) : (modCtx c f s).kv = s.kv := rfl
@[simp] theorem modCtx_reefHeld (c : Nat) (f : Ctx → Ctx) (s : State) : (modCtx c f s).reefHeld = s.reefHeld := rfl
@[simp] theorem modCtx_bars (c : Nat) (f : Ctx → Ctx) (s : State) : (modCtx c f s).bars = s.bars := rfl
@[simp] theorem modCtx_chans (c : Nat) (f : Ctx → Ctx) (s : State) : (modCtx c f s).chans = s.chans := rfl
@[simp] theorem modCtx_fryKeys (c : Nat) (f : Ctx → Ctx) (s : State) : (modCtx c f s).fryKeys = s.fryKeys := rfl
@[simp] theorem modCtx_fryTurn (c : Nat) (f : Ctx → Ctx) (s : State) : (modCtx c f s).fryTurn = s.fryTurn := rfl
@[simp] theorem modCtx_gld (c : Nat) (f : Ctx → Ctx) (s : State) : (modCtx c f s).gld = s.gld := rfl
@[simp] theorem modCtx_spns (c : Nat) (f : Ctx → Ctx) (s : State) : (modCtx c f s).spns = s.spns := rfl
@[simp] theorem modCtx_load (c : Nat) (f : Ctx → Ctx) (s : State) : (modCtx c f s).load = s.load := rfl
@[simp] theorem modCtx_edge (c : Nat) (f : Ctx → Ctx) (s : State) : (modCtx c f s).edge = s.edge := rfl
@[simp] theorem modCtx_voteDue (c : Nat) (f : Ctx → Ctx) (s : State) : (modCtx c f s).voteDue = s.voteDue := rfl
@[simp] theorem modCtx_replayAsk (c : Nat) (f : Ctx → Ctx) (s : State) : (modCtx c f s).replayAsk = s.replayAsk := rfl
@[simp] theorem modCtx_tallyRoot (c : Nat) (f : Ctx → Ctx) (s : State) : (modCtx c f s).tallyRoot = s.tallyRoot := rfl
@[simp] theorem modCtx_goodOffsets (c : Nat) (f : Ctx → Ctx) (s : State) : (modCtx c f s).goodOffsets = s.goodOffsets := rfl
@[simp] theorem modCtx_fenceGo (c : Nat) (f : Ctx → Ctx) (s : State) : (modCtx c f s).fenceGo = s.fenceGo := rfl
@[simp] theorem modCtx_gone (c : Nat) (f : Ctx → Ctx) (s : State) : (modCtx c f s).gone = s.gone := rfl
@[simp] theorem modCtx_taintAt (c : Nat) (f : Ctx → Ctx) (s : State) : (modCtx c f s).taintAt = s.taintAt := rfl
@[simp] theorem modCtx_strikes (c : Nat) (f : Ctx → Ctx) (s : State) : (modCtx c f s).strikes = s.strikes := rfl
@[simp] theorem modCtx_sounds (c : Nat) (f : Ctx → Ctx) (s : State) : (modCtx c f s).sounds = s.sounds := rfl
@[simp] theorem modCtx_profiles (c : Nat) (f : Ctx → Ctx) (s : State) : (modCtx c f s).profiles = s.profiles := rfl
@[simp] theorem modCtx_profCommit (c : Nat) (f : Ctx → Ctx) (s : State) : (modCtx c f s).profCommit = s.profCommit := rfl
@[simp] theorem modCtx_hostHeld (c : Nat) (f : Ctx → Ctx) (s : State) : (modCtx c f s).hostHeld = s.hostHeld := rfl
@[simp] theorem modCtx_lostRings (c : Nat) (f : Ctx → Ctx) (s : State) : (modCtx c f s).lostRings = s.lostRings := rfl
@[simp] theorem modCtx_pwr (c : Nat) (f : Ctx → Ctx) (s : State) : (modCtx c f s).pwr = s.pwr := rfl
@[simp] theorem modCtx_wear (c : Nat) (f : Ctx → Ctx) (s : State) : (modCtx c f s).wear = s.wear := rfl
@[simp] theorem modCtx_pending (c : Nat) (f : Ctx → Ctx) (s : State) : (modCtx c f s).pending = s.pending := rfl

/-! ### setSk -/

@[simp] theorem setSk_fuse (i : Nat) (x : Skein) (s : State) : (setSk i x s).fuse = s.fuse := rfl
@[simp] theorem setSk_pins (i : Nat) (x : Skein) (s : State) : (setSk i x s).pins = s.pins := rfl
@[simp] theorem setSk_boot (i : Nat) (x : Skein) (s : State) : (setSk i x s).boot = s.boot := rfl
@[simp] theorem setSk_regs (i : Nat) (x : Skein) (s : State) : (setSk i x s).regs = s.regs := rfl
@[simp] theorem setSk_caps (i : Nat) (x : Skein) (s : State) : (setSk i x s).caps = s.caps := rfl
@[simp] theorem setSk_latches (i : Nat) (x : Skein) (s : State) : (setSk i x s).latches = s.latches := rfl
@[simp] theorem setSk_heldLow (i : Nat) (x : Skein) (s : State) : (setSk i x s).heldLow = s.heldLow := rfl
@[simp] theorem setSk_rdata (i : Nat) (x : Skein) (s : State) : (setSk i x s).rdata = s.rdata := rfl
@[simp] theorem setSk_msix (i : Nat) (x : Skein) (s : State) : (setSk i x s).msix = s.msix := rfl
@[simp] theorem setSk_sent (i : Nat) (x : Skein) (s : State) : (setSk i x s).sent = s.sent := rfl
@[simp] theorem setSk_free (i : Nat) (x : Skein) (s : State) : (setSk i x s).free = s.free := rfl
@[simp] theorem setSk_sec (i : Nat) (x : Skein) (s : State) : (setSk i x s).sec = s.sec := rfl
@[simp] theorem setSk_mem (i : Nat) (x : Skein) (s : State) : (setSk i x s).mem = s.mem := rfl
@[simp] theorem setSk_staples (i : Nat) (x : Skein) (s : State) : (setSk i x s).staples = s.staples := rfl
@[simp] theorem setSk_lagoonBad (i : Nat) (x : Skein) (s : State) : (setSk i x s).lagoonBad = s.lagoonBad := rfl
@[simp] theorem setSk_scrubPos (i : Nat) (x : Skein) (s : State) : (setSk i x s).scrubPos = s.scrubPos := rfl
@[simp] theorem setSk_digests (i : Nat) (x : Skein) (s : State) : (setSk i x s).digests = s.digests := rfl
@[simp] theorem setSk_swap (i : Nat) (x : Skein) (s : State) : (setSk i x s).swap = s.swap := rfl
@[simp] theorem setSk_digestPass (i : Nat) (x : Skein) (s : State) : (setSk i x s).digestPass = s.digestPass := rfl
@[simp] theorem setSk_acc (i : Nat) (x : Skein) (s : State) : (setSk i x s).acc = s.acc := rfl
@[simp] theorem setSk_hank (i : Nat) (x : Skein) (s : State) : (setSk i x s).hank = s.hank := rfl
@[simp] theorem setSk_stops (i : Nat) (x : Skein) (s : State) : (setSk i x s).stops = s.stops := rfl
@[simp] theorem setSk_stopsNext (i : Nat) (x : Skein) (s : State) : (setSk i x s).stopsNext = s.stopsNext := rfl
@[simp] theorem setSk_ringFns (i : Nat) (x : Skein) (s : State) : (setSk i x s).ringFns = s.ringFns := rfl
@[simp] theorem setSk_kv (i : Nat) (x : Skein) (s : State) : (setSk i x s).kv = s.kv := rfl
@[simp] theorem setSk_reefHeld (i : Nat) (x : Skein) (s : State) : (setSk i x s).reefHeld = s.reefHeld := rfl
@[simp] theorem setSk_bars (i : Nat) (x : Skein) (s : State) : (setSk i x s).bars = s.bars := rfl
@[simp] theorem setSk_chans (i : Nat) (x : Skein) (s : State) : (setSk i x s).chans = s.chans := rfl
@[simp] theorem setSk_fryKeys (i : Nat) (x : Skein) (s : State) : (setSk i x s).fryKeys = s.fryKeys := rfl
@[simp] theorem setSk_fryTurn (i : Nat) (x : Skein) (s : State) : (setSk i x s).fryTurn = s.fryTurn := rfl
@[simp] theorem setSk_gld (i : Nat) (x : Skein) (s : State) : (setSk i x s).gld = s.gld := rfl
@[simp] theorem setSk_spns (i : Nat) (x : Skein) (s : State) : (setSk i x s).spns = s.spns := rfl
@[simp] theorem setSk_ctxs (i : Nat) (x : Skein) (s : State) : (setSk i x s).ctxs = s.ctxs := rfl
@[simp] theorem setSk_load (i : Nat) (x : Skein) (s : State) : (setSk i x s).load = s.load := rfl
@[simp] theorem setSk_edge (i : Nat) (x : Skein) (s : State) : (setSk i x s).edge = s.edge := rfl
@[simp] theorem setSk_voteDue (i : Nat) (x : Skein) (s : State) : (setSk i x s).voteDue = s.voteDue := rfl
@[simp] theorem setSk_replayAsk (i : Nat) (x : Skein) (s : State) : (setSk i x s).replayAsk = s.replayAsk := rfl
@[simp] theorem setSk_tallyRoot (i : Nat) (x : Skein) (s : State) : (setSk i x s).tallyRoot = s.tallyRoot := rfl
@[simp] theorem setSk_goodOffsets (i : Nat) (x : Skein) (s : State) : (setSk i x s).goodOffsets = s.goodOffsets := rfl
@[simp] theorem setSk_fenceGo (i : Nat) (x : Skein) (s : State) : (setSk i x s).fenceGo = s.fenceGo := rfl
@[simp] theorem setSk_gone (i : Nat) (x : Skein) (s : State) : (setSk i x s).gone = s.gone := rfl
@[simp] theorem setSk_taintAt (i : Nat) (x : Skein) (s : State) : (setSk i x s).taintAt = s.taintAt := rfl
@[simp] theorem setSk_strikes (i : Nat) (x : Skein) (s : State) : (setSk i x s).strikes = s.strikes := rfl
@[simp] theorem setSk_sounds (i : Nat) (x : Skein) (s : State) : (setSk i x s).sounds = s.sounds := rfl
@[simp] theorem setSk_profiles (i : Nat) (x : Skein) (s : State) : (setSk i x s).profiles = s.profiles := rfl
@[simp] theorem setSk_profCommit (i : Nat) (x : Skein) (s : State) : (setSk i x s).profCommit = s.profCommit := rfl
@[simp] theorem setSk_hostHeld (i : Nat) (x : Skein) (s : State) : (setSk i x s).hostHeld = s.hostHeld := rfl
@[simp] theorem setSk_lostRings (i : Nat) (x : Skein) (s : State) : (setSk i x s).lostRings = s.lostRings := rfl
@[simp] theorem setSk_pwr (i : Nat) (x : Skein) (s : State) : (setSk i x s).pwr = s.pwr := rfl
@[simp] theorem setSk_wear (i : Nat) (x : Skein) (s : State) : (setSk i x s).wear = s.wear := rfl
@[simp] theorem setSk_pending (i : Nat) (x : Skein) (s : State) : (setSk i x s).pending = s.pending := rfl

/-! ### modSk -/

@[simp] theorem modSk_fuse (i : Nat) (f : Skein → Skein) (s : State) : (modSk i f s).fuse = s.fuse := rfl
@[simp] theorem modSk_pins (i : Nat) (f : Skein → Skein) (s : State) : (modSk i f s).pins = s.pins := rfl
@[simp] theorem modSk_boot (i : Nat) (f : Skein → Skein) (s : State) : (modSk i f s).boot = s.boot := rfl
@[simp] theorem modSk_regs (i : Nat) (f : Skein → Skein) (s : State) : (modSk i f s).regs = s.regs := rfl
@[simp] theorem modSk_caps (i : Nat) (f : Skein → Skein) (s : State) : (modSk i f s).caps = s.caps := rfl
@[simp] theorem modSk_latches (i : Nat) (f : Skein → Skein) (s : State) : (modSk i f s).latches = s.latches := rfl
@[simp] theorem modSk_heldLow (i : Nat) (f : Skein → Skein) (s : State) : (modSk i f s).heldLow = s.heldLow := rfl
@[simp] theorem modSk_rdata (i : Nat) (f : Skein → Skein) (s : State) : (modSk i f s).rdata = s.rdata := rfl
@[simp] theorem modSk_msix (i : Nat) (f : Skein → Skein) (s : State) : (modSk i f s).msix = s.msix := rfl
@[simp] theorem modSk_sent (i : Nat) (f : Skein → Skein) (s : State) : (modSk i f s).sent = s.sent := rfl
@[simp] theorem modSk_free (i : Nat) (f : Skein → Skein) (s : State) : (modSk i f s).free = s.free := rfl
@[simp] theorem modSk_sec (i : Nat) (f : Skein → Skein) (s : State) : (modSk i f s).sec = s.sec := rfl
@[simp] theorem modSk_mem (i : Nat) (f : Skein → Skein) (s : State) : (modSk i f s).mem = s.mem := rfl
@[simp] theorem modSk_staples (i : Nat) (f : Skein → Skein) (s : State) : (modSk i f s).staples = s.staples := rfl
@[simp] theorem modSk_lagoonBad (i : Nat) (f : Skein → Skein) (s : State) : (modSk i f s).lagoonBad = s.lagoonBad := rfl
@[simp] theorem modSk_scrubPos (i : Nat) (f : Skein → Skein) (s : State) : (modSk i f s).scrubPos = s.scrubPos := rfl
@[simp] theorem modSk_digests (i : Nat) (f : Skein → Skein) (s : State) : (modSk i f s).digests = s.digests := rfl
@[simp] theorem modSk_swap (i : Nat) (f : Skein → Skein) (s : State) : (modSk i f s).swap = s.swap := rfl
@[simp] theorem modSk_digestPass (i : Nat) (f : Skein → Skein) (s : State) : (modSk i f s).digestPass = s.digestPass := rfl
@[simp] theorem modSk_acc (i : Nat) (f : Skein → Skein) (s : State) : (modSk i f s).acc = s.acc := rfl
@[simp] theorem modSk_hank (i : Nat) (f : Skein → Skein) (s : State) : (modSk i f s).hank = s.hank := rfl
@[simp] theorem modSk_stops (i : Nat) (f : Skein → Skein) (s : State) : (modSk i f s).stops = s.stops := rfl
@[simp] theorem modSk_stopsNext (i : Nat) (f : Skein → Skein) (s : State) : (modSk i f s).stopsNext = s.stopsNext := rfl
@[simp] theorem modSk_ringFns (i : Nat) (f : Skein → Skein) (s : State) : (modSk i f s).ringFns = s.ringFns := rfl
@[simp] theorem modSk_kv (i : Nat) (f : Skein → Skein) (s : State) : (modSk i f s).kv = s.kv := rfl
@[simp] theorem modSk_reefHeld (i : Nat) (f : Skein → Skein) (s : State) : (modSk i f s).reefHeld = s.reefHeld := rfl
@[simp] theorem modSk_bars (i : Nat) (f : Skein → Skein) (s : State) : (modSk i f s).bars = s.bars := rfl
@[simp] theorem modSk_chans (i : Nat) (f : Skein → Skein) (s : State) : (modSk i f s).chans = s.chans := rfl
@[simp] theorem modSk_fryKeys (i : Nat) (f : Skein → Skein) (s : State) : (modSk i f s).fryKeys = s.fryKeys := rfl
@[simp] theorem modSk_fryTurn (i : Nat) (f : Skein → Skein) (s : State) : (modSk i f s).fryTurn = s.fryTurn := rfl
@[simp] theorem modSk_gld (i : Nat) (f : Skein → Skein) (s : State) : (modSk i f s).gld = s.gld := rfl
@[simp] theorem modSk_spns (i : Nat) (f : Skein → Skein) (s : State) : (modSk i f s).spns = s.spns := rfl
@[simp] theorem modSk_ctxs (i : Nat) (f : Skein → Skein) (s : State) : (modSk i f s).ctxs = s.ctxs := rfl
@[simp] theorem modSk_load (i : Nat) (f : Skein → Skein) (s : State) : (modSk i f s).load = s.load := rfl
@[simp] theorem modSk_edge (i : Nat) (f : Skein → Skein) (s : State) : (modSk i f s).edge = s.edge := rfl
@[simp] theorem modSk_voteDue (i : Nat) (f : Skein → Skein) (s : State) : (modSk i f s).voteDue = s.voteDue := rfl
@[simp] theorem modSk_replayAsk (i : Nat) (f : Skein → Skein) (s : State) : (modSk i f s).replayAsk = s.replayAsk := rfl
@[simp] theorem modSk_tallyRoot (i : Nat) (f : Skein → Skein) (s : State) : (modSk i f s).tallyRoot = s.tallyRoot := rfl
@[simp] theorem modSk_goodOffsets (i : Nat) (f : Skein → Skein) (s : State) : (modSk i f s).goodOffsets = s.goodOffsets := rfl
@[simp] theorem modSk_fenceGo (i : Nat) (f : Skein → Skein) (s : State) : (modSk i f s).fenceGo = s.fenceGo := rfl
@[simp] theorem modSk_gone (i : Nat) (f : Skein → Skein) (s : State) : (modSk i f s).gone = s.gone := rfl
@[simp] theorem modSk_taintAt (i : Nat) (f : Skein → Skein) (s : State) : (modSk i f s).taintAt = s.taintAt := rfl
@[simp] theorem modSk_strikes (i : Nat) (f : Skein → Skein) (s : State) : (modSk i f s).strikes = s.strikes := rfl
@[simp] theorem modSk_sounds (i : Nat) (f : Skein → Skein) (s : State) : (modSk i f s).sounds = s.sounds := rfl
@[simp] theorem modSk_profiles (i : Nat) (f : Skein → Skein) (s : State) : (modSk i f s).profiles = s.profiles := rfl
@[simp] theorem modSk_profCommit (i : Nat) (f : Skein → Skein) (s : State) : (modSk i f s).profCommit = s.profCommit := rfl
@[simp] theorem modSk_hostHeld (i : Nat) (f : Skein → Skein) (s : State) : (modSk i f s).hostHeld = s.hostHeld := rfl
@[simp] theorem modSk_lostRings (i : Nat) (f : Skein → Skein) (s : State) : (modSk i f s).lostRings = s.lostRings := rfl
@[simp] theorem modSk_pwr (i : Nat) (f : Skein → Skein) (s : State) : (modSk i f s).pwr = s.pwr := rfl
@[simp] theorem modSk_wear (i : Nat) (f : Skein → Skein) (s : State) : (modSk i f s).wear = s.wear := rfl
@[simp] theorem modSk_pending (i : Nat) (f : Skein → Skein) (s : State) : (modSk i f s).pending = s.pending := rfl

/-! ### setSpn -/

@[simp] theorem setSpn_fuse (n : Nat) (x : Spn) (s : State) : (setSpn n x s).fuse = s.fuse := rfl
@[simp] theorem setSpn_pins (n : Nat) (x : Spn) (s : State) : (setSpn n x s).pins = s.pins := rfl
@[simp] theorem setSpn_boot (n : Nat) (x : Spn) (s : State) : (setSpn n x s).boot = s.boot := rfl
@[simp] theorem setSpn_regs (n : Nat) (x : Spn) (s : State) : (setSpn n x s).regs = s.regs := rfl
@[simp] theorem setSpn_caps (n : Nat) (x : Spn) (s : State) : (setSpn n x s).caps = s.caps := rfl
@[simp] theorem setSpn_latches (n : Nat) (x : Spn) (s : State) : (setSpn n x s).latches = s.latches := rfl
@[simp] theorem setSpn_heldLow (n : Nat) (x : Spn) (s : State) : (setSpn n x s).heldLow = s.heldLow := rfl
@[simp] theorem setSpn_rdata (n : Nat) (x : Spn) (s : State) : (setSpn n x s).rdata = s.rdata := rfl
@[simp] theorem setSpn_msix (n : Nat) (x : Spn) (s : State) : (setSpn n x s).msix = s.msix := rfl
@[simp] theorem setSpn_sent (n : Nat) (x : Spn) (s : State) : (setSpn n x s).sent = s.sent := rfl
@[simp] theorem setSpn_free (n : Nat) (x : Spn) (s : State) : (setSpn n x s).free = s.free := rfl
@[simp] theorem setSpn_sec (n : Nat) (x : Spn) (s : State) : (setSpn n x s).sec = s.sec := rfl
@[simp] theorem setSpn_mem (n : Nat) (x : Spn) (s : State) : (setSpn n x s).mem = s.mem := rfl
@[simp] theorem setSpn_staples (n : Nat) (x : Spn) (s : State) : (setSpn n x s).staples = s.staples := rfl
@[simp] theorem setSpn_lagoonBad (n : Nat) (x : Spn) (s : State) : (setSpn n x s).lagoonBad = s.lagoonBad := rfl
@[simp] theorem setSpn_scrubPos (n : Nat) (x : Spn) (s : State) : (setSpn n x s).scrubPos = s.scrubPos := rfl
@[simp] theorem setSpn_digests (n : Nat) (x : Spn) (s : State) : (setSpn n x s).digests = s.digests := rfl
@[simp] theorem setSpn_swap (n : Nat) (x : Spn) (s : State) : (setSpn n x s).swap = s.swap := rfl
@[simp] theorem setSpn_digestPass (n : Nat) (x : Spn) (s : State) : (setSpn n x s).digestPass = s.digestPass := rfl
@[simp] theorem setSpn_acc (n : Nat) (x : Spn) (s : State) : (setSpn n x s).acc = s.acc := rfl
@[simp] theorem setSpn_skeins (n : Nat) (x : Spn) (s : State) : (setSpn n x s).skeins = s.skeins := rfl
@[simp] theorem setSpn_hank (n : Nat) (x : Spn) (s : State) : (setSpn n x s).hank = s.hank := rfl
@[simp] theorem setSpn_stops (n : Nat) (x : Spn) (s : State) : (setSpn n x s).stops = s.stops := rfl
@[simp] theorem setSpn_stopsNext (n : Nat) (x : Spn) (s : State) : (setSpn n x s).stopsNext = s.stopsNext := rfl
@[simp] theorem setSpn_ringFns (n : Nat) (x : Spn) (s : State) : (setSpn n x s).ringFns = s.ringFns := rfl
@[simp] theorem setSpn_kv (n : Nat) (x : Spn) (s : State) : (setSpn n x s).kv = s.kv := rfl
@[simp] theorem setSpn_reefHeld (n : Nat) (x : Spn) (s : State) : (setSpn n x s).reefHeld = s.reefHeld := rfl
@[simp] theorem setSpn_bars (n : Nat) (x : Spn) (s : State) : (setSpn n x s).bars = s.bars := rfl
@[simp] theorem setSpn_chans (n : Nat) (x : Spn) (s : State) : (setSpn n x s).chans = s.chans := rfl
@[simp] theorem setSpn_fryKeys (n : Nat) (x : Spn) (s : State) : (setSpn n x s).fryKeys = s.fryKeys := rfl
@[simp] theorem setSpn_fryTurn (n : Nat) (x : Spn) (s : State) : (setSpn n x s).fryTurn = s.fryTurn := rfl
@[simp] theorem setSpn_gld (n : Nat) (x : Spn) (s : State) : (setSpn n x s).gld = s.gld := rfl
@[simp] theorem setSpn_ctxs (n : Nat) (x : Spn) (s : State) : (setSpn n x s).ctxs = s.ctxs := rfl
@[simp] theorem setSpn_load (n : Nat) (x : Spn) (s : State) : (setSpn n x s).load = s.load := rfl
@[simp] theorem setSpn_edge (n : Nat) (x : Spn) (s : State) : (setSpn n x s).edge = s.edge := rfl
@[simp] theorem setSpn_voteDue (n : Nat) (x : Spn) (s : State) : (setSpn n x s).voteDue = s.voteDue := rfl
@[simp] theorem setSpn_replayAsk (n : Nat) (x : Spn) (s : State) : (setSpn n x s).replayAsk = s.replayAsk := rfl
@[simp] theorem setSpn_tallyRoot (n : Nat) (x : Spn) (s : State) : (setSpn n x s).tallyRoot = s.tallyRoot := rfl
@[simp] theorem setSpn_goodOffsets (n : Nat) (x : Spn) (s : State) : (setSpn n x s).goodOffsets = s.goodOffsets := rfl
@[simp] theorem setSpn_fenceGo (n : Nat) (x : Spn) (s : State) : (setSpn n x s).fenceGo = s.fenceGo := rfl
@[simp] theorem setSpn_gone (n : Nat) (x : Spn) (s : State) : (setSpn n x s).gone = s.gone := rfl
@[simp] theorem setSpn_taintAt (n : Nat) (x : Spn) (s : State) : (setSpn n x s).taintAt = s.taintAt := rfl
@[simp] theorem setSpn_strikes (n : Nat) (x : Spn) (s : State) : (setSpn n x s).strikes = s.strikes := rfl
@[simp] theorem setSpn_sounds (n : Nat) (x : Spn) (s : State) : (setSpn n x s).sounds = s.sounds := rfl
@[simp] theorem setSpn_profiles (n : Nat) (x : Spn) (s : State) : (setSpn n x s).profiles = s.profiles := rfl
@[simp] theorem setSpn_profCommit (n : Nat) (x : Spn) (s : State) : (setSpn n x s).profCommit = s.profCommit := rfl
@[simp] theorem setSpn_hostHeld (n : Nat) (x : Spn) (s : State) : (setSpn n x s).hostHeld = s.hostHeld := rfl
@[simp] theorem setSpn_lostRings (n : Nat) (x : Spn) (s : State) : (setSpn n x s).lostRings = s.lostRings := rfl
@[simp] theorem setSpn_pwr (n : Nat) (x : Spn) (s : State) : (setSpn n x s).pwr = s.pwr := rfl
@[simp] theorem setSpn_wear (n : Nat) (x : Spn) (s : State) : (setSpn n x s).wear = s.wear := rfl
@[simp] theorem setSpn_pending (n : Nat) (x : Spn) (s : State) : (setSpn n x s).pending = s.pending := rfl

/-! ### modSpn -/

@[simp] theorem modSpn_fuse (n : Nat) (f : Spn → Spn) (s : State) : (modSpn n f s).fuse = s.fuse := rfl
@[simp] theorem modSpn_pins (n : Nat) (f : Spn → Spn) (s : State) : (modSpn n f s).pins = s.pins := rfl
@[simp] theorem modSpn_boot (n : Nat) (f : Spn → Spn) (s : State) : (modSpn n f s).boot = s.boot := rfl
@[simp] theorem modSpn_regs (n : Nat) (f : Spn → Spn) (s : State) : (modSpn n f s).regs = s.regs := rfl
@[simp] theorem modSpn_caps (n : Nat) (f : Spn → Spn) (s : State) : (modSpn n f s).caps = s.caps := rfl
@[simp] theorem modSpn_latches (n : Nat) (f : Spn → Spn) (s : State) : (modSpn n f s).latches = s.latches := rfl
@[simp] theorem modSpn_heldLow (n : Nat) (f : Spn → Spn) (s : State) : (modSpn n f s).heldLow = s.heldLow := rfl
@[simp] theorem modSpn_rdata (n : Nat) (f : Spn → Spn) (s : State) : (modSpn n f s).rdata = s.rdata := rfl
@[simp] theorem modSpn_msix (n : Nat) (f : Spn → Spn) (s : State) : (modSpn n f s).msix = s.msix := rfl
@[simp] theorem modSpn_sent (n : Nat) (f : Spn → Spn) (s : State) : (modSpn n f s).sent = s.sent := rfl
@[simp] theorem modSpn_free (n : Nat) (f : Spn → Spn) (s : State) : (modSpn n f s).free = s.free := rfl
@[simp] theorem modSpn_sec (n : Nat) (f : Spn → Spn) (s : State) : (modSpn n f s).sec = s.sec := rfl
@[simp] theorem modSpn_mem (n : Nat) (f : Spn → Spn) (s : State) : (modSpn n f s).mem = s.mem := rfl
@[simp] theorem modSpn_staples (n : Nat) (f : Spn → Spn) (s : State) : (modSpn n f s).staples = s.staples := rfl
@[simp] theorem modSpn_lagoonBad (n : Nat) (f : Spn → Spn) (s : State) : (modSpn n f s).lagoonBad = s.lagoonBad := rfl
@[simp] theorem modSpn_scrubPos (n : Nat) (f : Spn → Spn) (s : State) : (modSpn n f s).scrubPos = s.scrubPos := rfl
@[simp] theorem modSpn_digests (n : Nat) (f : Spn → Spn) (s : State) : (modSpn n f s).digests = s.digests := rfl
@[simp] theorem modSpn_swap (n : Nat) (f : Spn → Spn) (s : State) : (modSpn n f s).swap = s.swap := rfl
@[simp] theorem modSpn_digestPass (n : Nat) (f : Spn → Spn) (s : State) : (modSpn n f s).digestPass = s.digestPass := rfl
@[simp] theorem modSpn_acc (n : Nat) (f : Spn → Spn) (s : State) : (modSpn n f s).acc = s.acc := rfl
@[simp] theorem modSpn_skeins (n : Nat) (f : Spn → Spn) (s : State) : (modSpn n f s).skeins = s.skeins := rfl
@[simp] theorem modSpn_hank (n : Nat) (f : Spn → Spn) (s : State) : (modSpn n f s).hank = s.hank := rfl
@[simp] theorem modSpn_stops (n : Nat) (f : Spn → Spn) (s : State) : (modSpn n f s).stops = s.stops := rfl
@[simp] theorem modSpn_stopsNext (n : Nat) (f : Spn → Spn) (s : State) : (modSpn n f s).stopsNext = s.stopsNext := rfl
@[simp] theorem modSpn_ringFns (n : Nat) (f : Spn → Spn) (s : State) : (modSpn n f s).ringFns = s.ringFns := rfl
@[simp] theorem modSpn_kv (n : Nat) (f : Spn → Spn) (s : State) : (modSpn n f s).kv = s.kv := rfl
@[simp] theorem modSpn_reefHeld (n : Nat) (f : Spn → Spn) (s : State) : (modSpn n f s).reefHeld = s.reefHeld := rfl
@[simp] theorem modSpn_bars (n : Nat) (f : Spn → Spn) (s : State) : (modSpn n f s).bars = s.bars := rfl
@[simp] theorem modSpn_chans (n : Nat) (f : Spn → Spn) (s : State) : (modSpn n f s).chans = s.chans := rfl
@[simp] theorem modSpn_fryKeys (n : Nat) (f : Spn → Spn) (s : State) : (modSpn n f s).fryKeys = s.fryKeys := rfl
@[simp] theorem modSpn_fryTurn (n : Nat) (f : Spn → Spn) (s : State) : (modSpn n f s).fryTurn = s.fryTurn := rfl
@[simp] theorem modSpn_gld (n : Nat) (f : Spn → Spn) (s : State) : (modSpn n f s).gld = s.gld := rfl
@[simp] theorem modSpn_ctxs (n : Nat) (f : Spn → Spn) (s : State) : (modSpn n f s).ctxs = s.ctxs := rfl
@[simp] theorem modSpn_load (n : Nat) (f : Spn → Spn) (s : State) : (modSpn n f s).load = s.load := rfl
@[simp] theorem modSpn_edge (n : Nat) (f : Spn → Spn) (s : State) : (modSpn n f s).edge = s.edge := rfl
@[simp] theorem modSpn_voteDue (n : Nat) (f : Spn → Spn) (s : State) : (modSpn n f s).voteDue = s.voteDue := rfl
@[simp] theorem modSpn_replayAsk (n : Nat) (f : Spn → Spn) (s : State) : (modSpn n f s).replayAsk = s.replayAsk := rfl
@[simp] theorem modSpn_tallyRoot (n : Nat) (f : Spn → Spn) (s : State) : (modSpn n f s).tallyRoot = s.tallyRoot := rfl
@[simp] theorem modSpn_goodOffsets (n : Nat) (f : Spn → Spn) (s : State) : (modSpn n f s).goodOffsets = s.goodOffsets := rfl
@[simp] theorem modSpn_fenceGo (n : Nat) (f : Spn → Spn) (s : State) : (modSpn n f s).fenceGo = s.fenceGo := rfl
@[simp] theorem modSpn_gone (n : Nat) (f : Spn → Spn) (s : State) : (modSpn n f s).gone = s.gone := rfl
@[simp] theorem modSpn_taintAt (n : Nat) (f : Spn → Spn) (s : State) : (modSpn n f s).taintAt = s.taintAt := rfl
@[simp] theorem modSpn_strikes (n : Nat) (f : Spn → Spn) (s : State) : (modSpn n f s).strikes = s.strikes := rfl
@[simp] theorem modSpn_sounds (n : Nat) (f : Spn → Spn) (s : State) : (modSpn n f s).sounds = s.sounds := rfl
@[simp] theorem modSpn_profiles (n : Nat) (f : Spn → Spn) (s : State) : (modSpn n f s).profiles = s.profiles := rfl
@[simp] theorem modSpn_profCommit (n : Nat) (f : Spn → Spn) (s : State) : (modSpn n f s).profCommit = s.profCommit := rfl
@[simp] theorem modSpn_hostHeld (n : Nat) (f : Spn → Spn) (s : State) : (modSpn n f s).hostHeld = s.hostHeld := rfl
@[simp] theorem modSpn_lostRings (n : Nat) (f : Spn → Spn) (s : State) : (modSpn n f s).lostRings = s.lostRings := rfl
@[simp] theorem modSpn_pwr (n : Nat) (f : Spn → Spn) (s : State) : (modSpn n f s).pwr = s.pwr := rfl
@[simp] theorem modSpn_wear (n : Nat) (f : Spn → Spn) (s : State) : (modSpn n f s).wear = s.wear := rfl
@[simp] theorem modSpn_pending (n : Nat) (f : Spn → Spn) (s : State) : (modSpn n f s).pending = s.pending := rfl

/-! ### setThread -/

@[simp] theorem setThread_fuse (n t : Nat) (x : Thread) (s : State) : (setThread n t x s).fuse = s.fuse := rfl
@[simp] theorem setThread_pins (n t : Nat) (x : Thread) (s : State) : (setThread n t x s).pins = s.pins := rfl
@[simp] theorem setThread_boot (n t : Nat) (x : Thread) (s : State) : (setThread n t x s).boot = s.boot := rfl
@[simp] theorem setThread_regs (n t : Nat) (x : Thread) (s : State) : (setThread n t x s).regs = s.regs := rfl
@[simp] theorem setThread_caps (n t : Nat) (x : Thread) (s : State) : (setThread n t x s).caps = s.caps := rfl
@[simp] theorem setThread_latches (n t : Nat) (x : Thread) (s : State) : (setThread n t x s).latches = s.latches := rfl
@[simp] theorem setThread_heldLow (n t : Nat) (x : Thread) (s : State) : (setThread n t x s).heldLow = s.heldLow := rfl
@[simp] theorem setThread_rdata (n t : Nat) (x : Thread) (s : State) : (setThread n t x s).rdata = s.rdata := rfl
@[simp] theorem setThread_msix (n t : Nat) (x : Thread) (s : State) : (setThread n t x s).msix = s.msix := rfl
@[simp] theorem setThread_sent (n t : Nat) (x : Thread) (s : State) : (setThread n t x s).sent = s.sent := rfl
@[simp] theorem setThread_free (n t : Nat) (x : Thread) (s : State) : (setThread n t x s).free = s.free := rfl
@[simp] theorem setThread_sec (n t : Nat) (x : Thread) (s : State) : (setThread n t x s).sec = s.sec := rfl
@[simp] theorem setThread_mem (n t : Nat) (x : Thread) (s : State) : (setThread n t x s).mem = s.mem := rfl
@[simp] theorem setThread_staples (n t : Nat) (x : Thread) (s : State) : (setThread n t x s).staples = s.staples := rfl
@[simp] theorem setThread_lagoonBad (n t : Nat) (x : Thread) (s : State) : (setThread n t x s).lagoonBad = s.lagoonBad := rfl
@[simp] theorem setThread_scrubPos (n t : Nat) (x : Thread) (s : State) : (setThread n t x s).scrubPos = s.scrubPos := rfl
@[simp] theorem setThread_digests (n t : Nat) (x : Thread) (s : State) : (setThread n t x s).digests = s.digests := rfl
@[simp] theorem setThread_swap (n t : Nat) (x : Thread) (s : State) : (setThread n t x s).swap = s.swap := rfl
@[simp] theorem setThread_digestPass (n t : Nat) (x : Thread) (s : State) : (setThread n t x s).digestPass = s.digestPass := rfl
@[simp] theorem setThread_acc (n t : Nat) (x : Thread) (s : State) : (setThread n t x s).acc = s.acc := rfl
@[simp] theorem setThread_skeins (n t : Nat) (x : Thread) (s : State) : (setThread n t x s).skeins = s.skeins := rfl
@[simp] theorem setThread_hank (n t : Nat) (x : Thread) (s : State) : (setThread n t x s).hank = s.hank := rfl
@[simp] theorem setThread_stops (n t : Nat) (x : Thread) (s : State) : (setThread n t x s).stops = s.stops := rfl
@[simp] theorem setThread_stopsNext (n t : Nat) (x : Thread) (s : State) : (setThread n t x s).stopsNext = s.stopsNext := rfl
@[simp] theorem setThread_ringFns (n t : Nat) (x : Thread) (s : State) : (setThread n t x s).ringFns = s.ringFns := rfl
@[simp] theorem setThread_kv (n t : Nat) (x : Thread) (s : State) : (setThread n t x s).kv = s.kv := rfl
@[simp] theorem setThread_reefHeld (n t : Nat) (x : Thread) (s : State) : (setThread n t x s).reefHeld = s.reefHeld := rfl
@[simp] theorem setThread_bars (n t : Nat) (x : Thread) (s : State) : (setThread n t x s).bars = s.bars := rfl
@[simp] theorem setThread_chans (n t : Nat) (x : Thread) (s : State) : (setThread n t x s).chans = s.chans := rfl
@[simp] theorem setThread_fryKeys (n t : Nat) (x : Thread) (s : State) : (setThread n t x s).fryKeys = s.fryKeys := rfl
@[simp] theorem setThread_fryTurn (n t : Nat) (x : Thread) (s : State) : (setThread n t x s).fryTurn = s.fryTurn := rfl
@[simp] theorem setThread_gld (n t : Nat) (x : Thread) (s : State) : (setThread n t x s).gld = s.gld := rfl
@[simp] theorem setThread_ctxs (n t : Nat) (x : Thread) (s : State) : (setThread n t x s).ctxs = s.ctxs := rfl
@[simp] theorem setThread_load (n t : Nat) (x : Thread) (s : State) : (setThread n t x s).load = s.load := rfl
@[simp] theorem setThread_edge (n t : Nat) (x : Thread) (s : State) : (setThread n t x s).edge = s.edge := rfl
@[simp] theorem setThread_voteDue (n t : Nat) (x : Thread) (s : State) : (setThread n t x s).voteDue = s.voteDue := rfl
@[simp] theorem setThread_replayAsk (n t : Nat) (x : Thread) (s : State) : (setThread n t x s).replayAsk = s.replayAsk := rfl
@[simp] theorem setThread_tallyRoot (n t : Nat) (x : Thread) (s : State) : (setThread n t x s).tallyRoot = s.tallyRoot := rfl
@[simp] theorem setThread_goodOffsets (n t : Nat) (x : Thread) (s : State) : (setThread n t x s).goodOffsets = s.goodOffsets := rfl
@[simp] theorem setThread_fenceGo (n t : Nat) (x : Thread) (s : State) : (setThread n t x s).fenceGo = s.fenceGo := rfl
@[simp] theorem setThread_gone (n t : Nat) (x : Thread) (s : State) : (setThread n t x s).gone = s.gone := rfl
@[simp] theorem setThread_taintAt (n t : Nat) (x : Thread) (s : State) : (setThread n t x s).taintAt = s.taintAt := rfl
@[simp] theorem setThread_strikes (n t : Nat) (x : Thread) (s : State) : (setThread n t x s).strikes = s.strikes := rfl
@[simp] theorem setThread_sounds (n t : Nat) (x : Thread) (s : State) : (setThread n t x s).sounds = s.sounds := rfl
@[simp] theorem setThread_profiles (n t : Nat) (x : Thread) (s : State) : (setThread n t x s).profiles = s.profiles := rfl
@[simp] theorem setThread_profCommit (n t : Nat) (x : Thread) (s : State) : (setThread n t x s).profCommit = s.profCommit := rfl
@[simp] theorem setThread_hostHeld (n t : Nat) (x : Thread) (s : State) : (setThread n t x s).hostHeld = s.hostHeld := rfl
@[simp] theorem setThread_lostRings (n t : Nat) (x : Thread) (s : State) : (setThread n t x s).lostRings = s.lostRings := rfl
@[simp] theorem setThread_pwr (n t : Nat) (x : Thread) (s : State) : (setThread n t x s).pwr = s.pwr := rfl
@[simp] theorem setThread_wear (n t : Nat) (x : Thread) (s : State) : (setThread n t x s).wear = s.wear := rfl
@[simp] theorem setThread_pending (n t : Nat) (x : Thread) (s : State) : (setThread n t x s).pending = s.pending := rfl

/-! ### setChan -/

@[simp] theorem setChan_fuse (n : Nat) (x : Channel) (s : State) : (setChan n x s).fuse = s.fuse := rfl
@[simp] theorem setChan_pins (n : Nat) (x : Channel) (s : State) : (setChan n x s).pins = s.pins := rfl
@[simp] theorem setChan_boot (n : Nat) (x : Channel) (s : State) : (setChan n x s).boot = s.boot := rfl
@[simp] theorem setChan_regs (n : Nat) (x : Channel) (s : State) : (setChan n x s).regs = s.regs := rfl
@[simp] theorem setChan_caps (n : Nat) (x : Channel) (s : State) : (setChan n x s).caps = s.caps := rfl
@[simp] theorem setChan_latches (n : Nat) (x : Channel) (s : State) : (setChan n x s).latches = s.latches := rfl
@[simp] theorem setChan_heldLow (n : Nat) (x : Channel) (s : State) : (setChan n x s).heldLow = s.heldLow := rfl
@[simp] theorem setChan_rdata (n : Nat) (x : Channel) (s : State) : (setChan n x s).rdata = s.rdata := rfl
@[simp] theorem setChan_msix (n : Nat) (x : Channel) (s : State) : (setChan n x s).msix = s.msix := rfl
@[simp] theorem setChan_sent (n : Nat) (x : Channel) (s : State) : (setChan n x s).sent = s.sent := rfl
@[simp] theorem setChan_free (n : Nat) (x : Channel) (s : State) : (setChan n x s).free = s.free := rfl
@[simp] theorem setChan_sec (n : Nat) (x : Channel) (s : State) : (setChan n x s).sec = s.sec := rfl
@[simp] theorem setChan_mem (n : Nat) (x : Channel) (s : State) : (setChan n x s).mem = s.mem := rfl
@[simp] theorem setChan_staples (n : Nat) (x : Channel) (s : State) : (setChan n x s).staples = s.staples := rfl
@[simp] theorem setChan_lagoonBad (n : Nat) (x : Channel) (s : State) : (setChan n x s).lagoonBad = s.lagoonBad := rfl
@[simp] theorem setChan_scrubPos (n : Nat) (x : Channel) (s : State) : (setChan n x s).scrubPos = s.scrubPos := rfl
@[simp] theorem setChan_digests (n : Nat) (x : Channel) (s : State) : (setChan n x s).digests = s.digests := rfl
@[simp] theorem setChan_swap (n : Nat) (x : Channel) (s : State) : (setChan n x s).swap = s.swap := rfl
@[simp] theorem setChan_digestPass (n : Nat) (x : Channel) (s : State) : (setChan n x s).digestPass = s.digestPass := rfl
@[simp] theorem setChan_acc (n : Nat) (x : Channel) (s : State) : (setChan n x s).acc = s.acc := rfl
@[simp] theorem setChan_skeins (n : Nat) (x : Channel) (s : State) : (setChan n x s).skeins = s.skeins := rfl
@[simp] theorem setChan_hank (n : Nat) (x : Channel) (s : State) : (setChan n x s).hank = s.hank := rfl
@[simp] theorem setChan_stops (n : Nat) (x : Channel) (s : State) : (setChan n x s).stops = s.stops := rfl
@[simp] theorem setChan_stopsNext (n : Nat) (x : Channel) (s : State) : (setChan n x s).stopsNext = s.stopsNext := rfl
@[simp] theorem setChan_ringFns (n : Nat) (x : Channel) (s : State) : (setChan n x s).ringFns = s.ringFns := rfl
@[simp] theorem setChan_kv (n : Nat) (x : Channel) (s : State) : (setChan n x s).kv = s.kv := rfl
@[simp] theorem setChan_reefHeld (n : Nat) (x : Channel) (s : State) : (setChan n x s).reefHeld = s.reefHeld := rfl
@[simp] theorem setChan_bars (n : Nat) (x : Channel) (s : State) : (setChan n x s).bars = s.bars := rfl
@[simp] theorem setChan_fryKeys (n : Nat) (x : Channel) (s : State) : (setChan n x s).fryKeys = s.fryKeys := rfl
@[simp] theorem setChan_fryTurn (n : Nat) (x : Channel) (s : State) : (setChan n x s).fryTurn = s.fryTurn := rfl
@[simp] theorem setChan_gld (n : Nat) (x : Channel) (s : State) : (setChan n x s).gld = s.gld := rfl
@[simp] theorem setChan_spns (n : Nat) (x : Channel) (s : State) : (setChan n x s).spns = s.spns := rfl
@[simp] theorem setChan_ctxs (n : Nat) (x : Channel) (s : State) : (setChan n x s).ctxs = s.ctxs := rfl
@[simp] theorem setChan_load (n : Nat) (x : Channel) (s : State) : (setChan n x s).load = s.load := rfl
@[simp] theorem setChan_edge (n : Nat) (x : Channel) (s : State) : (setChan n x s).edge = s.edge := rfl
@[simp] theorem setChan_voteDue (n : Nat) (x : Channel) (s : State) : (setChan n x s).voteDue = s.voteDue := rfl
@[simp] theorem setChan_replayAsk (n : Nat) (x : Channel) (s : State) : (setChan n x s).replayAsk = s.replayAsk := rfl
@[simp] theorem setChan_tallyRoot (n : Nat) (x : Channel) (s : State) : (setChan n x s).tallyRoot = s.tallyRoot := rfl
@[simp] theorem setChan_goodOffsets (n : Nat) (x : Channel) (s : State) : (setChan n x s).goodOffsets = s.goodOffsets := rfl
@[simp] theorem setChan_fenceGo (n : Nat) (x : Channel) (s : State) : (setChan n x s).fenceGo = s.fenceGo := rfl
@[simp] theorem setChan_gone (n : Nat) (x : Channel) (s : State) : (setChan n x s).gone = s.gone := rfl
@[simp] theorem setChan_taintAt (n : Nat) (x : Channel) (s : State) : (setChan n x s).taintAt = s.taintAt := rfl
@[simp] theorem setChan_strikes (n : Nat) (x : Channel) (s : State) : (setChan n x s).strikes = s.strikes := rfl
@[simp] theorem setChan_sounds (n : Nat) (x : Channel) (s : State) : (setChan n x s).sounds = s.sounds := rfl
@[simp] theorem setChan_profiles (n : Nat) (x : Channel) (s : State) : (setChan n x s).profiles = s.profiles := rfl
@[simp] theorem setChan_profCommit (n : Nat) (x : Channel) (s : State) : (setChan n x s).profCommit = s.profCommit := rfl
@[simp] theorem setChan_hostHeld (n : Nat) (x : Channel) (s : State) : (setChan n x s).hostHeld = s.hostHeld := rfl
@[simp] theorem setChan_lostRings (n : Nat) (x : Channel) (s : State) : (setChan n x s).lostRings = s.lostRings := rfl
@[simp] theorem setChan_pwr (n : Nat) (x : Channel) (s : State) : (setChan n x s).pwr = s.pwr := rfl
@[simp] theorem setChan_wear (n : Nat) (x : Channel) (s : State) : (setChan n x s).wear = s.wear := rfl
@[simp] theorem setChan_pending (n : Nat) (x : Channel) (s : State) : (setChan n x s).pending = s.pending := rfl

/-! ### modChan -/

@[simp] theorem modChan_fuse (n : Nat) (f : Channel → Channel) (s : State) : (modChan n f s).fuse = s.fuse := rfl
@[simp] theorem modChan_pins (n : Nat) (f : Channel → Channel) (s : State) : (modChan n f s).pins = s.pins := rfl
@[simp] theorem modChan_boot (n : Nat) (f : Channel → Channel) (s : State) : (modChan n f s).boot = s.boot := rfl
@[simp] theorem modChan_regs (n : Nat) (f : Channel → Channel) (s : State) : (modChan n f s).regs = s.regs := rfl
@[simp] theorem modChan_caps (n : Nat) (f : Channel → Channel) (s : State) : (modChan n f s).caps = s.caps := rfl
@[simp] theorem modChan_latches (n : Nat) (f : Channel → Channel) (s : State) : (modChan n f s).latches = s.latches := rfl
@[simp] theorem modChan_heldLow (n : Nat) (f : Channel → Channel) (s : State) : (modChan n f s).heldLow = s.heldLow := rfl
@[simp] theorem modChan_rdata (n : Nat) (f : Channel → Channel) (s : State) : (modChan n f s).rdata = s.rdata := rfl
@[simp] theorem modChan_msix (n : Nat) (f : Channel → Channel) (s : State) : (modChan n f s).msix = s.msix := rfl
@[simp] theorem modChan_sent (n : Nat) (f : Channel → Channel) (s : State) : (modChan n f s).sent = s.sent := rfl
@[simp] theorem modChan_free (n : Nat) (f : Channel → Channel) (s : State) : (modChan n f s).free = s.free := rfl
@[simp] theorem modChan_sec (n : Nat) (f : Channel → Channel) (s : State) : (modChan n f s).sec = s.sec := rfl
@[simp] theorem modChan_mem (n : Nat) (f : Channel → Channel) (s : State) : (modChan n f s).mem = s.mem := rfl
@[simp] theorem modChan_staples (n : Nat) (f : Channel → Channel) (s : State) : (modChan n f s).staples = s.staples := rfl
@[simp] theorem modChan_lagoonBad (n : Nat) (f : Channel → Channel) (s : State) : (modChan n f s).lagoonBad = s.lagoonBad := rfl
@[simp] theorem modChan_scrubPos (n : Nat) (f : Channel → Channel) (s : State) : (modChan n f s).scrubPos = s.scrubPos := rfl
@[simp] theorem modChan_digests (n : Nat) (f : Channel → Channel) (s : State) : (modChan n f s).digests = s.digests := rfl
@[simp] theorem modChan_swap (n : Nat) (f : Channel → Channel) (s : State) : (modChan n f s).swap = s.swap := rfl
@[simp] theorem modChan_digestPass (n : Nat) (f : Channel → Channel) (s : State) : (modChan n f s).digestPass = s.digestPass := rfl
@[simp] theorem modChan_acc (n : Nat) (f : Channel → Channel) (s : State) : (modChan n f s).acc = s.acc := rfl
@[simp] theorem modChan_skeins (n : Nat) (f : Channel → Channel) (s : State) : (modChan n f s).skeins = s.skeins := rfl
@[simp] theorem modChan_hank (n : Nat) (f : Channel → Channel) (s : State) : (modChan n f s).hank = s.hank := rfl
@[simp] theorem modChan_stops (n : Nat) (f : Channel → Channel) (s : State) : (modChan n f s).stops = s.stops := rfl
@[simp] theorem modChan_stopsNext (n : Nat) (f : Channel → Channel) (s : State) : (modChan n f s).stopsNext = s.stopsNext := rfl
@[simp] theorem modChan_ringFns (n : Nat) (f : Channel → Channel) (s : State) : (modChan n f s).ringFns = s.ringFns := rfl
@[simp] theorem modChan_kv (n : Nat) (f : Channel → Channel) (s : State) : (modChan n f s).kv = s.kv := rfl
@[simp] theorem modChan_reefHeld (n : Nat) (f : Channel → Channel) (s : State) : (modChan n f s).reefHeld = s.reefHeld := rfl
@[simp] theorem modChan_bars (n : Nat) (f : Channel → Channel) (s : State) : (modChan n f s).bars = s.bars := rfl
@[simp] theorem modChan_fryKeys (n : Nat) (f : Channel → Channel) (s : State) : (modChan n f s).fryKeys = s.fryKeys := rfl
@[simp] theorem modChan_fryTurn (n : Nat) (f : Channel → Channel) (s : State) : (modChan n f s).fryTurn = s.fryTurn := rfl
@[simp] theorem modChan_gld (n : Nat) (f : Channel → Channel) (s : State) : (modChan n f s).gld = s.gld := rfl
@[simp] theorem modChan_spns (n : Nat) (f : Channel → Channel) (s : State) : (modChan n f s).spns = s.spns := rfl
@[simp] theorem modChan_ctxs (n : Nat) (f : Channel → Channel) (s : State) : (modChan n f s).ctxs = s.ctxs := rfl
@[simp] theorem modChan_load (n : Nat) (f : Channel → Channel) (s : State) : (modChan n f s).load = s.load := rfl
@[simp] theorem modChan_edge (n : Nat) (f : Channel → Channel) (s : State) : (modChan n f s).edge = s.edge := rfl
@[simp] theorem modChan_voteDue (n : Nat) (f : Channel → Channel) (s : State) : (modChan n f s).voteDue = s.voteDue := rfl
@[simp] theorem modChan_replayAsk (n : Nat) (f : Channel → Channel) (s : State) : (modChan n f s).replayAsk = s.replayAsk := rfl
@[simp] theorem modChan_tallyRoot (n : Nat) (f : Channel → Channel) (s : State) : (modChan n f s).tallyRoot = s.tallyRoot := rfl
@[simp] theorem modChan_goodOffsets (n : Nat) (f : Channel → Channel) (s : State) : (modChan n f s).goodOffsets = s.goodOffsets := rfl
@[simp] theorem modChan_fenceGo (n : Nat) (f : Channel → Channel) (s : State) : (modChan n f s).fenceGo = s.fenceGo := rfl
@[simp] theorem modChan_gone (n : Nat) (f : Channel → Channel) (s : State) : (modChan n f s).gone = s.gone := rfl
@[simp] theorem modChan_taintAt (n : Nat) (f : Channel → Channel) (s : State) : (modChan n f s).taintAt = s.taintAt := rfl
@[simp] theorem modChan_strikes (n : Nat) (f : Channel → Channel) (s : State) : (modChan n f s).strikes = s.strikes := rfl
@[simp] theorem modChan_sounds (n : Nat) (f : Channel → Channel) (s : State) : (modChan n f s).sounds = s.sounds := rfl
@[simp] theorem modChan_profiles (n : Nat) (f : Channel → Channel) (s : State) : (modChan n f s).profiles = s.profiles := rfl
@[simp] theorem modChan_profCommit (n : Nat) (f : Channel → Channel) (s : State) : (modChan n f s).profCommit = s.profCommit := rfl
@[simp] theorem modChan_hostHeld (n : Nat) (f : Channel → Channel) (s : State) : (modChan n f s).hostHeld = s.hostHeld := rfl
@[simp] theorem modChan_lostRings (n : Nat) (f : Channel → Channel) (s : State) : (modChan n f s).lostRings = s.lostRings := rfl
@[simp] theorem modChan_pwr (n : Nat) (f : Channel → Channel) (s : State) : (modChan n f s).pwr = s.pwr := rfl
@[simp] theorem modChan_wear (n : Nat) (f : Channel → Channel) (s : State) : (modChan n f s).wear = s.wear := rfl
@[simp] theorem modChan_pending (n : Nat) (f : Channel → Channel) (s : State) : (modChan n f s).pending = s.pending := rfl

/-! ### modPwr -/

@[simp] theorem modPwr_fuse (f : Pwr → Pwr) (s : State) : (modPwr f s).fuse = s.fuse := rfl
@[simp] theorem modPwr_pins (f : Pwr → Pwr) (s : State) : (modPwr f s).pins = s.pins := rfl
@[simp] theorem modPwr_boot (f : Pwr → Pwr) (s : State) : (modPwr f s).boot = s.boot := rfl
@[simp] theorem modPwr_regs (f : Pwr → Pwr) (s : State) : (modPwr f s).regs = s.regs := rfl
@[simp] theorem modPwr_caps (f : Pwr → Pwr) (s : State) : (modPwr f s).caps = s.caps := rfl
@[simp] theorem modPwr_latches (f : Pwr → Pwr) (s : State) : (modPwr f s).latches = s.latches := rfl
@[simp] theorem modPwr_heldLow (f : Pwr → Pwr) (s : State) : (modPwr f s).heldLow = s.heldLow := rfl
@[simp] theorem modPwr_rdata (f : Pwr → Pwr) (s : State) : (modPwr f s).rdata = s.rdata := rfl
@[simp] theorem modPwr_msix (f : Pwr → Pwr) (s : State) : (modPwr f s).msix = s.msix := rfl
@[simp] theorem modPwr_sent (f : Pwr → Pwr) (s : State) : (modPwr f s).sent = s.sent := rfl
@[simp] theorem modPwr_free (f : Pwr → Pwr) (s : State) : (modPwr f s).free = s.free := rfl
@[simp] theorem modPwr_sec (f : Pwr → Pwr) (s : State) : (modPwr f s).sec = s.sec := rfl
@[simp] theorem modPwr_mem (f : Pwr → Pwr) (s : State) : (modPwr f s).mem = s.mem := rfl
@[simp] theorem modPwr_staples (f : Pwr → Pwr) (s : State) : (modPwr f s).staples = s.staples := rfl
@[simp] theorem modPwr_lagoonBad (f : Pwr → Pwr) (s : State) : (modPwr f s).lagoonBad = s.lagoonBad := rfl
@[simp] theorem modPwr_scrubPos (f : Pwr → Pwr) (s : State) : (modPwr f s).scrubPos = s.scrubPos := rfl
@[simp] theorem modPwr_digests (f : Pwr → Pwr) (s : State) : (modPwr f s).digests = s.digests := rfl
@[simp] theorem modPwr_swap (f : Pwr → Pwr) (s : State) : (modPwr f s).swap = s.swap := rfl
@[simp] theorem modPwr_digestPass (f : Pwr → Pwr) (s : State) : (modPwr f s).digestPass = s.digestPass := rfl
@[simp] theorem modPwr_acc (f : Pwr → Pwr) (s : State) : (modPwr f s).acc = s.acc := rfl
@[simp] theorem modPwr_skeins (f : Pwr → Pwr) (s : State) : (modPwr f s).skeins = s.skeins := rfl
@[simp] theorem modPwr_hank (f : Pwr → Pwr) (s : State) : (modPwr f s).hank = s.hank := rfl
@[simp] theorem modPwr_stops (f : Pwr → Pwr) (s : State) : (modPwr f s).stops = s.stops := rfl
@[simp] theorem modPwr_stopsNext (f : Pwr → Pwr) (s : State) : (modPwr f s).stopsNext = s.stopsNext := rfl
@[simp] theorem modPwr_ringFns (f : Pwr → Pwr) (s : State) : (modPwr f s).ringFns = s.ringFns := rfl
@[simp] theorem modPwr_kv (f : Pwr → Pwr) (s : State) : (modPwr f s).kv = s.kv := rfl
@[simp] theorem modPwr_reefHeld (f : Pwr → Pwr) (s : State) : (modPwr f s).reefHeld = s.reefHeld := rfl
@[simp] theorem modPwr_bars (f : Pwr → Pwr) (s : State) : (modPwr f s).bars = s.bars := rfl
@[simp] theorem modPwr_chans (f : Pwr → Pwr) (s : State) : (modPwr f s).chans = s.chans := rfl
@[simp] theorem modPwr_fryKeys (f : Pwr → Pwr) (s : State) : (modPwr f s).fryKeys = s.fryKeys := rfl
@[simp] theorem modPwr_fryTurn (f : Pwr → Pwr) (s : State) : (modPwr f s).fryTurn = s.fryTurn := rfl
@[simp] theorem modPwr_gld (f : Pwr → Pwr) (s : State) : (modPwr f s).gld = s.gld := rfl
@[simp] theorem modPwr_spns (f : Pwr → Pwr) (s : State) : (modPwr f s).spns = s.spns := rfl
@[simp] theorem modPwr_ctxs (f : Pwr → Pwr) (s : State) : (modPwr f s).ctxs = s.ctxs := rfl
@[simp] theorem modPwr_load (f : Pwr → Pwr) (s : State) : (modPwr f s).load = s.load := rfl
@[simp] theorem modPwr_edge (f : Pwr → Pwr) (s : State) : (modPwr f s).edge = s.edge := rfl
@[simp] theorem modPwr_voteDue (f : Pwr → Pwr) (s : State) : (modPwr f s).voteDue = s.voteDue := rfl
@[simp] theorem modPwr_replayAsk (f : Pwr → Pwr) (s : State) : (modPwr f s).replayAsk = s.replayAsk := rfl
@[simp] theorem modPwr_tallyRoot (f : Pwr → Pwr) (s : State) : (modPwr f s).tallyRoot = s.tallyRoot := rfl
@[simp] theorem modPwr_goodOffsets (f : Pwr → Pwr) (s : State) : (modPwr f s).goodOffsets = s.goodOffsets := rfl
@[simp] theorem modPwr_fenceGo (f : Pwr → Pwr) (s : State) : (modPwr f s).fenceGo = s.fenceGo := rfl
@[simp] theorem modPwr_gone (f : Pwr → Pwr) (s : State) : (modPwr f s).gone = s.gone := rfl
@[simp] theorem modPwr_taintAt (f : Pwr → Pwr) (s : State) : (modPwr f s).taintAt = s.taintAt := rfl
@[simp] theorem modPwr_strikes (f : Pwr → Pwr) (s : State) : (modPwr f s).strikes = s.strikes := rfl
@[simp] theorem modPwr_sounds (f : Pwr → Pwr) (s : State) : (modPwr f s).sounds = s.sounds := rfl
@[simp] theorem modPwr_profiles (f : Pwr → Pwr) (s : State) : (modPwr f s).profiles = s.profiles := rfl
@[simp] theorem modPwr_profCommit (f : Pwr → Pwr) (s : State) : (modPwr f s).profCommit = s.profCommit := rfl
@[simp] theorem modPwr_hostHeld (f : Pwr → Pwr) (s : State) : (modPwr f s).hostHeld = s.hostHeld := rfl
@[simp] theorem modPwr_lostRings (f : Pwr → Pwr) (s : State) : (modPwr f s).lostRings = s.lostRings := rfl
@[simp] theorem modPwr_wear (f : Pwr → Pwr) (s : State) : (modPwr f s).wear = s.wear := rfl
@[simp] theorem modPwr_pending (f : Pwr → Pwr) (s : State) : (modPwr f s).pending = s.pending := rfl

/-! ### modGld -/

@[simp] theorem modGld_fuse (f : Gld → Gld) (s : State) : (modGld f s).fuse = s.fuse := rfl
@[simp] theorem modGld_pins (f : Gld → Gld) (s : State) : (modGld f s).pins = s.pins := rfl
@[simp] theorem modGld_boot (f : Gld → Gld) (s : State) : (modGld f s).boot = s.boot := rfl
@[simp] theorem modGld_regs (f : Gld → Gld) (s : State) : (modGld f s).regs = s.regs := rfl
@[simp] theorem modGld_caps (f : Gld → Gld) (s : State) : (modGld f s).caps = s.caps := rfl
@[simp] theorem modGld_latches (f : Gld → Gld) (s : State) : (modGld f s).latches = s.latches := rfl
@[simp] theorem modGld_heldLow (f : Gld → Gld) (s : State) : (modGld f s).heldLow = s.heldLow := rfl
@[simp] theorem modGld_rdata (f : Gld → Gld) (s : State) : (modGld f s).rdata = s.rdata := rfl
@[simp] theorem modGld_msix (f : Gld → Gld) (s : State) : (modGld f s).msix = s.msix := rfl
@[simp] theorem modGld_sent (f : Gld → Gld) (s : State) : (modGld f s).sent = s.sent := rfl
@[simp] theorem modGld_free (f : Gld → Gld) (s : State) : (modGld f s).free = s.free := rfl
@[simp] theorem modGld_sec (f : Gld → Gld) (s : State) : (modGld f s).sec = s.sec := rfl
@[simp] theorem modGld_mem (f : Gld → Gld) (s : State) : (modGld f s).mem = s.mem := rfl
@[simp] theorem modGld_staples (f : Gld → Gld) (s : State) : (modGld f s).staples = s.staples := rfl
@[simp] theorem modGld_lagoonBad (f : Gld → Gld) (s : State) : (modGld f s).lagoonBad = s.lagoonBad := rfl
@[simp] theorem modGld_scrubPos (f : Gld → Gld) (s : State) : (modGld f s).scrubPos = s.scrubPos := rfl
@[simp] theorem modGld_digests (f : Gld → Gld) (s : State) : (modGld f s).digests = s.digests := rfl
@[simp] theorem modGld_swap (f : Gld → Gld) (s : State) : (modGld f s).swap = s.swap := rfl
@[simp] theorem modGld_digestPass (f : Gld → Gld) (s : State) : (modGld f s).digestPass = s.digestPass := rfl
@[simp] theorem modGld_acc (f : Gld → Gld) (s : State) : (modGld f s).acc = s.acc := rfl
@[simp] theorem modGld_skeins (f : Gld → Gld) (s : State) : (modGld f s).skeins = s.skeins := rfl
@[simp] theorem modGld_hank (f : Gld → Gld) (s : State) : (modGld f s).hank = s.hank := rfl
@[simp] theorem modGld_stops (f : Gld → Gld) (s : State) : (modGld f s).stops = s.stops := rfl
@[simp] theorem modGld_stopsNext (f : Gld → Gld) (s : State) : (modGld f s).stopsNext = s.stopsNext := rfl
@[simp] theorem modGld_ringFns (f : Gld → Gld) (s : State) : (modGld f s).ringFns = s.ringFns := rfl
@[simp] theorem modGld_kv (f : Gld → Gld) (s : State) : (modGld f s).kv = s.kv := rfl
@[simp] theorem modGld_reefHeld (f : Gld → Gld) (s : State) : (modGld f s).reefHeld = s.reefHeld := rfl
@[simp] theorem modGld_bars (f : Gld → Gld) (s : State) : (modGld f s).bars = s.bars := rfl
@[simp] theorem modGld_chans (f : Gld → Gld) (s : State) : (modGld f s).chans = s.chans := rfl
@[simp] theorem modGld_fryKeys (f : Gld → Gld) (s : State) : (modGld f s).fryKeys = s.fryKeys := rfl
@[simp] theorem modGld_fryTurn (f : Gld → Gld) (s : State) : (modGld f s).fryTurn = s.fryTurn := rfl
@[simp] theorem modGld_spns (f : Gld → Gld) (s : State) : (modGld f s).spns = s.spns := rfl
@[simp] theorem modGld_ctxs (f : Gld → Gld) (s : State) : (modGld f s).ctxs = s.ctxs := rfl
@[simp] theorem modGld_load (f : Gld → Gld) (s : State) : (modGld f s).load = s.load := rfl
@[simp] theorem modGld_edge (f : Gld → Gld) (s : State) : (modGld f s).edge = s.edge := rfl
@[simp] theorem modGld_voteDue (f : Gld → Gld) (s : State) : (modGld f s).voteDue = s.voteDue := rfl
@[simp] theorem modGld_replayAsk (f : Gld → Gld) (s : State) : (modGld f s).replayAsk = s.replayAsk := rfl
@[simp] theorem modGld_tallyRoot (f : Gld → Gld) (s : State) : (modGld f s).tallyRoot = s.tallyRoot := rfl
@[simp] theorem modGld_goodOffsets (f : Gld → Gld) (s : State) : (modGld f s).goodOffsets = s.goodOffsets := rfl
@[simp] theorem modGld_fenceGo (f : Gld → Gld) (s : State) : (modGld f s).fenceGo = s.fenceGo := rfl
@[simp] theorem modGld_gone (f : Gld → Gld) (s : State) : (modGld f s).gone = s.gone := rfl
@[simp] theorem modGld_taintAt (f : Gld → Gld) (s : State) : (modGld f s).taintAt = s.taintAt := rfl
@[simp] theorem modGld_strikes (f : Gld → Gld) (s : State) : (modGld f s).strikes = s.strikes := rfl
@[simp] theorem modGld_sounds (f : Gld → Gld) (s : State) : (modGld f s).sounds = s.sounds := rfl
@[simp] theorem modGld_profiles (f : Gld → Gld) (s : State) : (modGld f s).profiles = s.profiles := rfl
@[simp] theorem modGld_profCommit (f : Gld → Gld) (s : State) : (modGld f s).profCommit = s.profCommit := rfl
@[simp] theorem modGld_hostHeld (f : Gld → Gld) (s : State) : (modGld f s).hostHeld = s.hostHeld := rfl
@[simp] theorem modGld_lostRings (f : Gld → Gld) (s : State) : (modGld f s).lostRings = s.lostRings := rfl
@[simp] theorem modGld_pwr (f : Gld → Gld) (s : State) : (modGld f s).pwr = s.pwr := rfl
@[simp] theorem modGld_wear (f : Gld → Gld) (s : State) : (modGld f s).wear = s.wear := rfl
@[simp] theorem modGld_pending (f : Gld → Gld) (s : State) : (modGld f s).pending = s.pending := rfl

/-! ### modSec -/

@[simp] theorem modSec_fuse (f : Sec → Sec) (s : State) : (modSec f s).fuse = s.fuse := rfl
@[simp] theorem modSec_pins (f : Sec → Sec) (s : State) : (modSec f s).pins = s.pins := rfl
@[simp] theorem modSec_boot (f : Sec → Sec) (s : State) : (modSec f s).boot = s.boot := rfl
@[simp] theorem modSec_regs (f : Sec → Sec) (s : State) : (modSec f s).regs = s.regs := rfl
@[simp] theorem modSec_caps (f : Sec → Sec) (s : State) : (modSec f s).caps = s.caps := rfl
@[simp] theorem modSec_latches (f : Sec → Sec) (s : State) : (modSec f s).latches = s.latches := rfl
@[simp] theorem modSec_heldLow (f : Sec → Sec) (s : State) : (modSec f s).heldLow = s.heldLow := rfl
@[simp] theorem modSec_rdata (f : Sec → Sec) (s : State) : (modSec f s).rdata = s.rdata := rfl
@[simp] theorem modSec_msix (f : Sec → Sec) (s : State) : (modSec f s).msix = s.msix := rfl
@[simp] theorem modSec_sent (f : Sec → Sec) (s : State) : (modSec f s).sent = s.sent := rfl
@[simp] theorem modSec_free (f : Sec → Sec) (s : State) : (modSec f s).free = s.free := rfl
@[simp] theorem modSec_mem (f : Sec → Sec) (s : State) : (modSec f s).mem = s.mem := rfl
@[simp] theorem modSec_staples (f : Sec → Sec) (s : State) : (modSec f s).staples = s.staples := rfl
@[simp] theorem modSec_lagoonBad (f : Sec → Sec) (s : State) : (modSec f s).lagoonBad = s.lagoonBad := rfl
@[simp] theorem modSec_scrubPos (f : Sec → Sec) (s : State) : (modSec f s).scrubPos = s.scrubPos := rfl
@[simp] theorem modSec_digests (f : Sec → Sec) (s : State) : (modSec f s).digests = s.digests := rfl
@[simp] theorem modSec_swap (f : Sec → Sec) (s : State) : (modSec f s).swap = s.swap := rfl
@[simp] theorem modSec_digestPass (f : Sec → Sec) (s : State) : (modSec f s).digestPass = s.digestPass := rfl
@[simp] theorem modSec_acc (f : Sec → Sec) (s : State) : (modSec f s).acc = s.acc := rfl
@[simp] theorem modSec_skeins (f : Sec → Sec) (s : State) : (modSec f s).skeins = s.skeins := rfl
@[simp] theorem modSec_hank (f : Sec → Sec) (s : State) : (modSec f s).hank = s.hank := rfl
@[simp] theorem modSec_stops (f : Sec → Sec) (s : State) : (modSec f s).stops = s.stops := rfl
@[simp] theorem modSec_stopsNext (f : Sec → Sec) (s : State) : (modSec f s).stopsNext = s.stopsNext := rfl
@[simp] theorem modSec_ringFns (f : Sec → Sec) (s : State) : (modSec f s).ringFns = s.ringFns := rfl
@[simp] theorem modSec_kv (f : Sec → Sec) (s : State) : (modSec f s).kv = s.kv := rfl
@[simp] theorem modSec_reefHeld (f : Sec → Sec) (s : State) : (modSec f s).reefHeld = s.reefHeld := rfl
@[simp] theorem modSec_bars (f : Sec → Sec) (s : State) : (modSec f s).bars = s.bars := rfl
@[simp] theorem modSec_chans (f : Sec → Sec) (s : State) : (modSec f s).chans = s.chans := rfl
@[simp] theorem modSec_fryKeys (f : Sec → Sec) (s : State) : (modSec f s).fryKeys = s.fryKeys := rfl
@[simp] theorem modSec_fryTurn (f : Sec → Sec) (s : State) : (modSec f s).fryTurn = s.fryTurn := rfl
@[simp] theorem modSec_gld (f : Sec → Sec) (s : State) : (modSec f s).gld = s.gld := rfl
@[simp] theorem modSec_spns (f : Sec → Sec) (s : State) : (modSec f s).spns = s.spns := rfl
@[simp] theorem modSec_ctxs (f : Sec → Sec) (s : State) : (modSec f s).ctxs = s.ctxs := rfl
@[simp] theorem modSec_load (f : Sec → Sec) (s : State) : (modSec f s).load = s.load := rfl
@[simp] theorem modSec_edge (f : Sec → Sec) (s : State) : (modSec f s).edge = s.edge := rfl
@[simp] theorem modSec_voteDue (f : Sec → Sec) (s : State) : (modSec f s).voteDue = s.voteDue := rfl
@[simp] theorem modSec_replayAsk (f : Sec → Sec) (s : State) : (modSec f s).replayAsk = s.replayAsk := rfl
@[simp] theorem modSec_tallyRoot (f : Sec → Sec) (s : State) : (modSec f s).tallyRoot = s.tallyRoot := rfl
@[simp] theorem modSec_goodOffsets (f : Sec → Sec) (s : State) : (modSec f s).goodOffsets = s.goodOffsets := rfl
@[simp] theorem modSec_fenceGo (f : Sec → Sec) (s : State) : (modSec f s).fenceGo = s.fenceGo := rfl
@[simp] theorem modSec_gone (f : Sec → Sec) (s : State) : (modSec f s).gone = s.gone := rfl
@[simp] theorem modSec_taintAt (f : Sec → Sec) (s : State) : (modSec f s).taintAt = s.taintAt := rfl
@[simp] theorem modSec_strikes (f : Sec → Sec) (s : State) : (modSec f s).strikes = s.strikes := rfl
@[simp] theorem modSec_sounds (f : Sec → Sec) (s : State) : (modSec f s).sounds = s.sounds := rfl
@[simp] theorem modSec_profiles (f : Sec → Sec) (s : State) : (modSec f s).profiles = s.profiles := rfl
@[simp] theorem modSec_profCommit (f : Sec → Sec) (s : State) : (modSec f s).profCommit = s.profCommit := rfl
@[simp] theorem modSec_hostHeld (f : Sec → Sec) (s : State) : (modSec f s).hostHeld = s.hostHeld := rfl
@[simp] theorem modSec_lostRings (f : Sec → Sec) (s : State) : (modSec f s).lostRings = s.lostRings := rfl
@[simp] theorem modSec_pwr (f : Sec → Sec) (s : State) : (modSec f s).pwr = s.pwr := rfl
@[simp] theorem modSec_wear (f : Sec → Sec) (s : State) : (modSec f s).wear = s.wear := rfl
@[simp] theorem modSec_pending (f : Sec → Sec) (s : State) : (modSec f s).pending = s.pending := rfl

/-! ### modBoot -/

@[simp] theorem modBoot_fuse (f : Boot → Boot) (s : State) : (modBoot f s).fuse = s.fuse := rfl
@[simp] theorem modBoot_pins (f : Boot → Boot) (s : State) : (modBoot f s).pins = s.pins := rfl
@[simp] theorem modBoot_regs (f : Boot → Boot) (s : State) : (modBoot f s).regs = s.regs := rfl
@[simp] theorem modBoot_caps (f : Boot → Boot) (s : State) : (modBoot f s).caps = s.caps := rfl
@[simp] theorem modBoot_latches (f : Boot → Boot) (s : State) : (modBoot f s).latches = s.latches := rfl
@[simp] theorem modBoot_heldLow (f : Boot → Boot) (s : State) : (modBoot f s).heldLow = s.heldLow := rfl
@[simp] theorem modBoot_rdata (f : Boot → Boot) (s : State) : (modBoot f s).rdata = s.rdata := rfl
@[simp] theorem modBoot_msix (f : Boot → Boot) (s : State) : (modBoot f s).msix = s.msix := rfl
@[simp] theorem modBoot_sent (f : Boot → Boot) (s : State) : (modBoot f s).sent = s.sent := rfl
@[simp] theorem modBoot_free (f : Boot → Boot) (s : State) : (modBoot f s).free = s.free := rfl
@[simp] theorem modBoot_sec (f : Boot → Boot) (s : State) : (modBoot f s).sec = s.sec := rfl
@[simp] theorem modBoot_mem (f : Boot → Boot) (s : State) : (modBoot f s).mem = s.mem := rfl
@[simp] theorem modBoot_staples (f : Boot → Boot) (s : State) : (modBoot f s).staples = s.staples := rfl
@[simp] theorem modBoot_lagoonBad (f : Boot → Boot) (s : State) : (modBoot f s).lagoonBad = s.lagoonBad := rfl
@[simp] theorem modBoot_scrubPos (f : Boot → Boot) (s : State) : (modBoot f s).scrubPos = s.scrubPos := rfl
@[simp] theorem modBoot_digests (f : Boot → Boot) (s : State) : (modBoot f s).digests = s.digests := rfl
@[simp] theorem modBoot_swap (f : Boot → Boot) (s : State) : (modBoot f s).swap = s.swap := rfl
@[simp] theorem modBoot_digestPass (f : Boot → Boot) (s : State) : (modBoot f s).digestPass = s.digestPass := rfl
@[simp] theorem modBoot_acc (f : Boot → Boot) (s : State) : (modBoot f s).acc = s.acc := rfl
@[simp] theorem modBoot_skeins (f : Boot → Boot) (s : State) : (modBoot f s).skeins = s.skeins := rfl
@[simp] theorem modBoot_hank (f : Boot → Boot) (s : State) : (modBoot f s).hank = s.hank := rfl
@[simp] theorem modBoot_stops (f : Boot → Boot) (s : State) : (modBoot f s).stops = s.stops := rfl
@[simp] theorem modBoot_stopsNext (f : Boot → Boot) (s : State) : (modBoot f s).stopsNext = s.stopsNext := rfl
@[simp] theorem modBoot_ringFns (f : Boot → Boot) (s : State) : (modBoot f s).ringFns = s.ringFns := rfl
@[simp] theorem modBoot_kv (f : Boot → Boot) (s : State) : (modBoot f s).kv = s.kv := rfl
@[simp] theorem modBoot_reefHeld (f : Boot → Boot) (s : State) : (modBoot f s).reefHeld = s.reefHeld := rfl
@[simp] theorem modBoot_bars (f : Boot → Boot) (s : State) : (modBoot f s).bars = s.bars := rfl
@[simp] theorem modBoot_chans (f : Boot → Boot) (s : State) : (modBoot f s).chans = s.chans := rfl
@[simp] theorem modBoot_fryKeys (f : Boot → Boot) (s : State) : (modBoot f s).fryKeys = s.fryKeys := rfl
@[simp] theorem modBoot_fryTurn (f : Boot → Boot) (s : State) : (modBoot f s).fryTurn = s.fryTurn := rfl
@[simp] theorem modBoot_gld (f : Boot → Boot) (s : State) : (modBoot f s).gld = s.gld := rfl
@[simp] theorem modBoot_spns (f : Boot → Boot) (s : State) : (modBoot f s).spns = s.spns := rfl
@[simp] theorem modBoot_ctxs (f : Boot → Boot) (s : State) : (modBoot f s).ctxs = s.ctxs := rfl
@[simp] theorem modBoot_load (f : Boot → Boot) (s : State) : (modBoot f s).load = s.load := rfl
@[simp] theorem modBoot_edge (f : Boot → Boot) (s : State) : (modBoot f s).edge = s.edge := rfl
@[simp] theorem modBoot_voteDue (f : Boot → Boot) (s : State) : (modBoot f s).voteDue = s.voteDue := rfl
@[simp] theorem modBoot_replayAsk (f : Boot → Boot) (s : State) : (modBoot f s).replayAsk = s.replayAsk := rfl
@[simp] theorem modBoot_tallyRoot (f : Boot → Boot) (s : State) : (modBoot f s).tallyRoot = s.tallyRoot := rfl
@[simp] theorem modBoot_goodOffsets (f : Boot → Boot) (s : State) : (modBoot f s).goodOffsets = s.goodOffsets := rfl
@[simp] theorem modBoot_fenceGo (f : Boot → Boot) (s : State) : (modBoot f s).fenceGo = s.fenceGo := rfl
@[simp] theorem modBoot_gone (f : Boot → Boot) (s : State) : (modBoot f s).gone = s.gone := rfl
@[simp] theorem modBoot_taintAt (f : Boot → Boot) (s : State) : (modBoot f s).taintAt = s.taintAt := rfl
@[simp] theorem modBoot_strikes (f : Boot → Boot) (s : State) : (modBoot f s).strikes = s.strikes := rfl
@[simp] theorem modBoot_sounds (f : Boot → Boot) (s : State) : (modBoot f s).sounds = s.sounds := rfl
@[simp] theorem modBoot_profiles (f : Boot → Boot) (s : State) : (modBoot f s).profiles = s.profiles := rfl
@[simp] theorem modBoot_profCommit (f : Boot → Boot) (s : State) : (modBoot f s).profCommit = s.profCommit := rfl
@[simp] theorem modBoot_hostHeld (f : Boot → Boot) (s : State) : (modBoot f s).hostHeld = s.hostHeld := rfl
@[simp] theorem modBoot_lostRings (f : Boot → Boot) (s : State) : (modBoot f s).lostRings = s.lostRings := rfl
@[simp] theorem modBoot_pwr (f : Boot → Boot) (s : State) : (modBoot f s).pwr = s.pwr := rfl
@[simp] theorem modBoot_wear (f : Boot → Boot) (s : State) : (modBoot f s).wear = s.wear := rfl
@[simp] theorem modBoot_pending (f : Boot → Boot) (s : State) : (modBoot f s).pending = s.pending := rfl

/-! ### modPins -/

@[simp] theorem modPins_fuse (f : Pins → Pins) (s : State) : (modPins f s).fuse = s.fuse := rfl
@[simp] theorem modPins_boot (f : Pins → Pins) (s : State) : (modPins f s).boot = s.boot := rfl
@[simp] theorem modPins_regs (f : Pins → Pins) (s : State) : (modPins f s).regs = s.regs := rfl
@[simp] theorem modPins_caps (f : Pins → Pins) (s : State) : (modPins f s).caps = s.caps := rfl
@[simp] theorem modPins_latches (f : Pins → Pins) (s : State) : (modPins f s).latches = s.latches := rfl
@[simp] theorem modPins_heldLow (f : Pins → Pins) (s : State) : (modPins f s).heldLow = s.heldLow := rfl
@[simp] theorem modPins_rdata (f : Pins → Pins) (s : State) : (modPins f s).rdata = s.rdata := rfl
@[simp] theorem modPins_msix (f : Pins → Pins) (s : State) : (modPins f s).msix = s.msix := rfl
@[simp] theorem modPins_sent (f : Pins → Pins) (s : State) : (modPins f s).sent = s.sent := rfl
@[simp] theorem modPins_free (f : Pins → Pins) (s : State) : (modPins f s).free = s.free := rfl
@[simp] theorem modPins_sec (f : Pins → Pins) (s : State) : (modPins f s).sec = s.sec := rfl
@[simp] theorem modPins_mem (f : Pins → Pins) (s : State) : (modPins f s).mem = s.mem := rfl
@[simp] theorem modPins_staples (f : Pins → Pins) (s : State) : (modPins f s).staples = s.staples := rfl
@[simp] theorem modPins_lagoonBad (f : Pins → Pins) (s : State) : (modPins f s).lagoonBad = s.lagoonBad := rfl
@[simp] theorem modPins_scrubPos (f : Pins → Pins) (s : State) : (modPins f s).scrubPos = s.scrubPos := rfl
@[simp] theorem modPins_digests (f : Pins → Pins) (s : State) : (modPins f s).digests = s.digests := rfl
@[simp] theorem modPins_swap (f : Pins → Pins) (s : State) : (modPins f s).swap = s.swap := rfl
@[simp] theorem modPins_digestPass (f : Pins → Pins) (s : State) : (modPins f s).digestPass = s.digestPass := rfl
@[simp] theorem modPins_acc (f : Pins → Pins) (s : State) : (modPins f s).acc = s.acc := rfl
@[simp] theorem modPins_skeins (f : Pins → Pins) (s : State) : (modPins f s).skeins = s.skeins := rfl
@[simp] theorem modPins_hank (f : Pins → Pins) (s : State) : (modPins f s).hank = s.hank := rfl
@[simp] theorem modPins_stops (f : Pins → Pins) (s : State) : (modPins f s).stops = s.stops := rfl
@[simp] theorem modPins_stopsNext (f : Pins → Pins) (s : State) : (modPins f s).stopsNext = s.stopsNext := rfl
@[simp] theorem modPins_ringFns (f : Pins → Pins) (s : State) : (modPins f s).ringFns = s.ringFns := rfl
@[simp] theorem modPins_kv (f : Pins → Pins) (s : State) : (modPins f s).kv = s.kv := rfl
@[simp] theorem modPins_reefHeld (f : Pins → Pins) (s : State) : (modPins f s).reefHeld = s.reefHeld := rfl
@[simp] theorem modPins_bars (f : Pins → Pins) (s : State) : (modPins f s).bars = s.bars := rfl
@[simp] theorem modPins_chans (f : Pins → Pins) (s : State) : (modPins f s).chans = s.chans := rfl
@[simp] theorem modPins_fryKeys (f : Pins → Pins) (s : State) : (modPins f s).fryKeys = s.fryKeys := rfl
@[simp] theorem modPins_fryTurn (f : Pins → Pins) (s : State) : (modPins f s).fryTurn = s.fryTurn := rfl
@[simp] theorem modPins_gld (f : Pins → Pins) (s : State) : (modPins f s).gld = s.gld := rfl
@[simp] theorem modPins_spns (f : Pins → Pins) (s : State) : (modPins f s).spns = s.spns := rfl
@[simp] theorem modPins_ctxs (f : Pins → Pins) (s : State) : (modPins f s).ctxs = s.ctxs := rfl
@[simp] theorem modPins_load (f : Pins → Pins) (s : State) : (modPins f s).load = s.load := rfl
@[simp] theorem modPins_edge (f : Pins → Pins) (s : State) : (modPins f s).edge = s.edge := rfl
@[simp] theorem modPins_voteDue (f : Pins → Pins) (s : State) : (modPins f s).voteDue = s.voteDue := rfl
@[simp] theorem modPins_replayAsk (f : Pins → Pins) (s : State) : (modPins f s).replayAsk = s.replayAsk := rfl
@[simp] theorem modPins_tallyRoot (f : Pins → Pins) (s : State) : (modPins f s).tallyRoot = s.tallyRoot := rfl
@[simp] theorem modPins_goodOffsets (f : Pins → Pins) (s : State) : (modPins f s).goodOffsets = s.goodOffsets := rfl
@[simp] theorem modPins_fenceGo (f : Pins → Pins) (s : State) : (modPins f s).fenceGo = s.fenceGo := rfl
@[simp] theorem modPins_gone (f : Pins → Pins) (s : State) : (modPins f s).gone = s.gone := rfl
@[simp] theorem modPins_taintAt (f : Pins → Pins) (s : State) : (modPins f s).taintAt = s.taintAt := rfl
@[simp] theorem modPins_strikes (f : Pins → Pins) (s : State) : (modPins f s).strikes = s.strikes := rfl
@[simp] theorem modPins_sounds (f : Pins → Pins) (s : State) : (modPins f s).sounds = s.sounds := rfl
@[simp] theorem modPins_profiles (f : Pins → Pins) (s : State) : (modPins f s).profiles = s.profiles := rfl
@[simp] theorem modPins_profCommit (f : Pins → Pins) (s : State) : (modPins f s).profCommit = s.profCommit := rfl
@[simp] theorem modPins_hostHeld (f : Pins → Pins) (s : State) : (modPins f s).hostHeld = s.hostHeld := rfl
@[simp] theorem modPins_lostRings (f : Pins → Pins) (s : State) : (modPins f s).lostRings = s.lostRings := rfl
@[simp] theorem modPins_pwr (f : Pins → Pins) (s : State) : (modPins f s).pwr = s.pwr := rfl
@[simp] theorem modPins_wear (f : Pins → Pins) (s : State) : (modPins f s).wear = s.wear := rfl
@[simp] theorem modPins_pending (f : Pins → Pins) (s : State) : (modPins f s).pending = s.pending := rfl

end Sys2Proof.Machine
end

