-- ==== Sys2Proof/Laws/Store.lean ====
section
/-! SUPPORT. Laws/Store.lean: what the finite maps of Store.lean answer after a write, and that writes, removals and
filters keep the canonical form. -/

namespace Sys2Proof.Machine

variable {α : Type}

@[simp] theorem lookup_nil (d : α) (k : Nat) : lookup [] d k = d := rfl

theorem lookup_del_same (m : List (Nat × α)) (d : α) (k : Nat) : lookup (del m k) d k = d := by
  induction m with
  | nil => rfl
  | cons e rest ih =>
    obtain ⟨j, v⟩ := e
    by_cases h : j = k
    · simp only [del, h, if_true]; exact ih
    · simp only [del, h, if_false, lookup]; exact ih

theorem lookup_del_other (m : List (Nat × α)) (d : α) {k l : Nat} (h : l ≠ k) : lookup (del m k) d l = lookup m d l := by
  induction m with
  | nil => rfl
  | cons e rest ih =>
    obtain ⟨j, v⟩ := e
    by_cases hj : j = k
    · simp only [del, hj, if_true, lookup, ih]
      rw [if_neg (fun hk => h hk.symm)]
    · simp only [del, hj, if_false, lookup, ih]

theorem lookup_ins_same (m : List (Nat × α)) (d : α) (k : Nat) (v : α) : lookup (ins m k v) d k = v := by
  induction m with
  | nil => simp [ins, lookup]
  | cons e rest ih =>
    obtain ⟨j, w⟩ := e
    by_cases h1 : k < j
    · simp [ins, h1, lookup]
    · by_cases h2 : k = j
      · simp [ins, h2, lookup]
      · have h3 : ¬ j = k := fun h => h2 h.symm
        simp [ins, h1, h2, lookup, h3, ih]

theorem lookup_ins_other (m : List (Nat × α)) (d : α) (v : α) {k l : Nat} (h : l ≠ k) :
    lookup (ins m k v) d l = lookup m d l := by
  induction m with
  | nil => simp [ins, lookup, Ne.symm h]
  | cons e rest ih =>
    obtain ⟨j, w⟩ := e
    by_cases h1 : k < j
    · simp [ins, h1, lookup, Ne.symm h]
    · by_cases h2 : k = j
      · subst h2; simp [ins, lookup, Ne.symm h]
      · simp [ins, h1, h2, lookup, ih]

/-- A map reads the value last written at a key. -/
theorem lookup_put_same [DecidableEq α] (m : List (Nat × α)) (d : α) (k : Nat) (v : α) : lookup (put m d k v) d k = v := by
  unfold put
  by_cases h : v = d
  · simp only [h, if_true]; exact lookup_del_same m d k
  · simp only [h, if_false]; exact lookup_ins_same m d k v

/-- A write at one key leaves every other key alone, whatever that key reads as when unlisted. -/
theorem lookup_put_other [DecidableEq α] (m : List (Nat × α)) (d e : α) (v : α) {k l : Nat} (h : l ≠ k) :
    lookup (put m d k v) e l = lookup m e l := by
  unfold put
  by_cases hv : v = d
  · simp only [hv, if_true]; exact lookup_del_other m e h
  · simp only [hv, if_false]; exact lookup_ins_other m e v h

/-- A canonical map that starts at `lo` starts at every smaller bound. -/
theorem canonFrom_mono [DecidableEq α] {d : Nat → α} {m : List (Nat × α)} {lo hi : Nat} (h : lo ≤ hi)
    (hm : canonFrom d hi m = true) : canonFrom d lo m = true := by
  cases m with
  | nil => rfl
  | cons e rest =>
    obtain ⟨k, v⟩ := e
    simp only [canonFrom, Bool.and_eq_true, decide_eq_true_eq] at hm ⊢
    exact ⟨⟨le_trans h hm.1.1, hm.1.2⟩, hm.2⟩

theorem canonFrom_del [DecidableEq α] {d : Nat → α} {m : List (Nat × α)} {lo : Nat} (k : Nat)
    (hm : canonFrom d lo m = true) : canonFrom d lo (del m k) = true := by
  induction m generalizing lo with
  | nil => rfl
  | cons e rest ih =>
    obtain ⟨j, v⟩ := e
    simp only [canonFrom, Bool.and_eq_true, decide_eq_true_eq] at hm
    by_cases h : j = k
    · simp only [del, h, if_true]
      exact ih (canonFrom_mono (by omega) hm.2)
    · simp only [del, h, if_false, canonFrom, Bool.and_eq_true, decide_eq_true_eq]
      exact ⟨hm.1, ih hm.2⟩

theorem canonFrom_ins [DecidableEq α] {d : Nat → α} {m : List (Nat × α)} {lo k : Nat} {v : α} (hk : lo ≤ k) (hv : v ≠ d k)
    (hm : canonFrom d lo m = true) : canonFrom d lo (ins m k v) = true := by
  induction m generalizing lo with
  | nil => simp [ins, canonFrom, hk, hv]
  | cons e rest ih =>
    obtain ⟨j, w⟩ := e
    simp only [canonFrom, Bool.and_eq_true, decide_eq_true_eq] at hm
    by_cases h1 : k < j
    · simp only [ins, h1, if_true, canonFrom, Bool.and_eq_true, decide_eq_true_eq]
      exact ⟨⟨hk, hv⟩, ⟨by omega, hm.1.2⟩, hm.2⟩
    · by_cases h2 : k = j
      · subst h2
        simp only [ins, lt_irrefl, if_false, if_true, canonFrom, Bool.and_eq_true, decide_eq_true_eq]
        exact ⟨⟨hk, hv⟩, hm.2⟩
      · simp only [ins, h1, h2, if_false, canonFrom, Bool.and_eq_true, decide_eq_true_eq]
        exact ⟨hm.1, ih (by omega) hm.2⟩

/-- A write keeps the canonical form. -/
theorem canon_put [DecidableEq α] {d : Nat → α} {m : List (Nat × α)} (k : Nat) (v : α) (hm : canon d m = true) :
    canon d (put m (d k) k v) = true := by
  unfold put
  by_cases h : v = d k
  · simp only [h, if_true]; exact canonFrom_del k hm
  · simp only [h, if_false]; exact canonFrom_ins (Nat.zero_le k) h hm

theorem canonFrom_filter [DecidableEq α] {d : Nat → α} {m : List (Nat × α)} {lo : Nat} (p : Nat × α → Bool)
    (hm : canonFrom d lo m = true) : canonFrom d lo (m.filter p) = true := by
  induction m generalizing lo with
  | nil => rfl
  | cons e rest ih =>
    obtain ⟨j, v⟩ := e
    simp only [canonFrom, Bool.and_eq_true, decide_eq_true_eq] at hm
    by_cases h : p (j, v) = true
    · simp only [List.filter, h, canonFrom, Bool.and_eq_true, decide_eq_true_eq]
      exact ⟨hm.1, ih hm.2⟩
    · have hf : p (j, v) = false := by simpa using h
      simp only [List.filter, hf]
      exact ih (canonFrom_mono (by omega) hm.2)

/-- Removing entries keeps the canonical form. -/
theorem canon_filter [DecidableEq α] {d : Nat → α} {m : List (Nat × α)} (p : Nat × α → Bool) (hm : canon d m = true) :
    canon d (m.filter p) = true := canonFrom_filter p hm

theorem canon_nil [DecidableEq α] (d : Nat → α) : canon d [] = true := rfl

theorem canon_foldr [DecidableEq α] (d : Nat → α) (m : List (Nat × α)) :
    canon d (m.foldr (fun e r => put r (d e.1) e.1 e.2) []) = true := by
  induction m with
  | nil => rfl
  | cons e rest ih => exact canon_put e.1 e.2 ih

/-- `tidyMap` answers a map in canonical form. -/
theorem canon_tidyMap [DecidableEq α] (d : Nat → α) (m : List (Nat × α)) : canon d (tidyMap d m) = true := by
  unfold tidyMap
  by_cases h : canon d m = true
  · simp only [h, if_true]
  · simp only [h]; exact canon_foldr d m

theorem tidyMap_of_canon [DecidableEq α] {d : Nat → α} {m : List (Nat × α)} (h : canon d m = true) : tidyMap d m = m := by
  unfold tidyMap; simp only [h, if_true]

theorem lookup_foldr [DecidableEq α] (d : Nat → α) (m : List (Nat × α)) (k : Nat) :
    lookup (m.foldr (fun e r => put r (d e.1) e.1 e.2) []) (d k) k = lookup m (d k) k := by
  induction m with
  | nil => rfl
  | cons e rest ih =>
    obtain ⟨j, v⟩ := e
    simp only [List.foldr, lookup]
    by_cases h : j = k
    · subst h; simp only [if_true]; exact lookup_put_same _ _ _ _
    · simp only [h, if_false]
      rw [lookup_put_other _ _ _ _ (Ne.symm h)]; exact ih

/-- `tidyMap` changes what no key reads as. -/
@[simp] theorem lookup_tidyMap [DecidableEq α] (d : Nat → α) (m : List (Nat × α)) (k : Nat) :
    lookup (tidyMap d m) (d k) k = lookup m (d k) k := by
  unfold tidyMap
  by_cases h : canon d m = true
  · simp only [h, if_true]
  · simp only [h]; exact lookup_foldr d m k

end Sys2Proof.Machine
end

