-- ==== Sys2Proof/Laws/Ops.lean ====
section
/-! SUPPORT. Laws/Ops.lean: what the shared operations over registers, fields and memory do, each said once. -/

namespace Sys2Proof.Machine

/-! ### Registers -/

/-- A register reads the value last written. -/
@[simp] theorem rd_wr_same (o : Nat) (v : W64) (s : State) : rd o (wr o v s) = v := lookup_put_same _ _ _ _

/-- A write of one register leaves every other alone. -/
theorem rd_wr_other {o p : Nat} (h : p ≠ o) (v : W64) (s : State) : rd p (wr o v s) = rd p s :=
  lookup_put_other _ _ _ _ h

theorem rd_wr (o p : Nat) (v : W64) (s : State) : rd p (wr o v s) = if p = o then v else rd p s := by
  by_cases h : p = o
  · subst h; simp
  · rw [if_neg h, rd_wr_other h]

/-- Registers read from a state with the same register list. -/
theorem rd_congr {s t : State} (h : t.regs = s.regs) (o : Nat) : rd o t = rd o s := by unfold rd; rw [h]

theorem rd_zeroRegs_of_mem {l : List Nat} {o : Nat} (h : o ∈ l) (s : State) : rd o (zeroRegs l s) = 0 := by
  have hz : ∀ (l : List Nat) (s : State), rd o s = 0 → rd o (zeroRegs l s) = 0 := by
    intro l
    induction l with
    | nil => intro s hs; exact hs
    | cons p r ih =>
      intro s hs
      refine ih (wr p 0 s) ?_
      rw [rd_wr]; split
      · rfl
      · exact hs
  induction l generalizing s with
  | nil => simp at h
  | cons p r ih =>
    rcases List.mem_cons.mp h with h | h
    · subst h; exact hz r _ (rd_wr_same o 0 s)
    · exact ih h _

theorem rd_zeroRegs_of_not_mem {l : List Nat} {o : Nat} (h : o ∉ l) (s : State) : rd o (zeroRegs l s) = rd o s := by
  induction l generalizing s with
  | nil => rfl
  | cons p r ih =>
    have hp : o ≠ p := fun e => h (by simp [e])
    have hr : o ∉ r := fun e => h (by simp [e])
    exact (ih hr (wr p 0 s)).trans (rd_wr_other hp 0 s)

/-! ### Fields -/

theorem getLsbD_setFldOf (f : FRef) (x : Nat) (v : W64) (i : Nat) (hi : i < 64) :
    (setFldOf f x v).getLsbD i = if f.lo ≤ i ∧ i < f.hi + 1 then x.testBit (i - f.lo) else v.getLsbD i := by
  simp only [setFldOf, BitVec.getLsbD_or, BitVec.getLsbD_and, BitVec.getLsbD_not, BitVec.getLsbD_ofNat,
    Nat.testBit_shiftLeft, Nat.testBit_two_pow_sub_one, Nat.testBit_mod_two_pow, hi, decide_true, Bool.true_and]
  by_cases h1 : f.lo ≤ i
  · by_cases h2 : i < f.hi + 1
    · have h3 : i - f.lo < f.hi + 1 - f.lo := by omega
      simp [h1, h2, h3]
    · have h3 : ¬ i - f.lo < f.hi + 1 - f.lo := by omega
      simp [h1, h2, h3]
  · simp [h1]

theorem testBit_fldOf (f : FRef) (v : W64) (i : Nat) :
    (fldOf f v).testBit i = (decide (i < f.hi + 1 - f.lo) && v.getLsbD (f.lo + i)) := by
  simp only [fldOf, Nat.testBit_mod_two_pow, Nat.testBit_shiftRight, BitVec.testBit_toNat]

/-- A field reads the value last written to it, cut to its width. -/
theorem fldOf_setFldOf_same (f : FRef) (x : Nat) (v : W64) (h : f.hi < 64) :
    fldOf f (setFldOf f x v) = x % 2 ^ (f.hi + 1 - f.lo) := by
  apply Nat.eq_of_testBit_eq
  intro i
  rw [testBit_fldOf, Nat.testBit_mod_two_pow]
  by_cases hi : i < f.hi + 1 - f.lo
  · rw [getLsbD_setFldOf _ _ _ _ (by omega)]
    have h1 : f.lo ≤ f.lo + i ∧ f.lo + i < f.hi + 1 := by omega
    simp [hi, h1]
  · simp [hi]

/-- A field that shares no bit with a written one keeps its value. -/
theorem fldOf_setFldOf_disjoint (f g : FRef) (x : Nat) (v : W64) (hg : g.hi < 64) (h : f.hi < g.lo ∨ g.hi < f.lo) :
    fldOf g (setFldOf f x v) = fldOf g v := by
  apply Nat.eq_of_testBit_eq
  intro i
  rw [testBit_fldOf, testBit_fldOf]
  by_cases hi : i < g.hi + 1 - g.lo
  · rw [getLsbD_setFldOf _ _ _ _ (by omega)]
    have h1 : ¬ (f.lo ≤ g.lo + i ∧ g.lo + i < f.hi + 1) := by omega
    rw [if_neg h1]
  · simp [hi]

/-- The same for fields of registers in a state. -/
theorem fld_setFld_same (f : FRef) (x : Nat) (s : State) (h : f.hi < 64) :
    fld f (setFld f x s) = x % 2 ^ (f.hi + 1 - f.lo) := by
  simp only [fld, setFld, rd_wr_same]; exact fldOf_setFldOf_same f x _ h

theorem fld_setFld_disjoint (f g : FRef) (x : Nat) (s : State) (hg : g.hi < 64) (h : f.hi < g.lo ∨ g.hi < f.lo) :
    fld g (setFld f x s) = fld g s := by
  unfold fld setFld
  rw [rd_wr]
  split
  · rename_i e; rw [e]; exact fldOf_setFldOf_disjoint f g x _ hg h
  · rfl

theorem fld_setFld_other (f g : FRef) (x : Nat) (s : State) (h : g.off ≠ f.off) : fld g (setFld f x s) = fld g s := by
  unfold fld setFld; rw [rd_wr_other h]

theorem rd_setFld_other {o : Nat} (f : FRef) (x : Nat) (s : State) (h : o ≠ f.off) : rd o (setFld f x s) = rd o s :=
  rd_wr_other h _ s

theorem fld_wr_other (f : FRef) {o : Nat} (v : W64) (s : State) (h : f.off ≠ o) : fld f (wr o v s) = fld f s := by
  unfold fld; rw [rd_wr_other h]

theorem fld_congr {s t : State} (h : t.regs = s.regs) (f : FRef) : fld f t = fld f s := by
  unfold fld; rw [rd_congr h]

theorem bit_congr {s t : State} (h : t.regs = s.regs) (f : FRef) : bit f t = bit f s := by
  unfold bit; rw [fld_congr h]

/-! ### Memory -/

@[simp] theorem rdByte_wrByte_same (a : Nat) (b : Byte) (s : State) : rdByte a (wrByte a b s) = b :=
  lookup_put_same _ _ _ _

theorem rdByte_wrByte_other {a c : Nat} (h : c ≠ a) (b : Byte) (s : State) : rdByte c (wrByte a b s) = rdByte c s :=
  lookup_put_other _ _ _ _ h

/-- A byte written by `wrBytes` reads back; every other byte is as before. -/
theorem rdByte_wrBytes (a : Nat) (l : List Byte) (s : State) (c : Nat) :
    rdByte c (wrBytes a l s) = if a ≤ c ∧ c < a + l.length then l.getD (c - a) 0 else rdByte c s := by
  induction l generalizing a s with
  | nil =>
    have h : ¬ (a ≤ c ∧ c < a + ([] : List Byte).length) := by simp
    rw [if_neg h]; rfl
  | cons b r ih =>
    simp only [wrBytes, ih, List.length_cons]
    by_cases h1 : a + 1 ≤ c ∧ c < a + 1 + r.length
    · have h2 : a ≤ c ∧ c < a + (r.length + 1) := by omega
      have h3 : c - a = (c - (a + 1)) + 1 := by omega
      rw [if_pos h1, if_pos h2, h3]; simp
    · rw [if_neg h1]
      by_cases h4 : c = a
      · subst h4
        have h2 : c ≤ c ∧ c < c + (r.length + 1) := by omega
        rw [if_pos h2]; simp
      · have h2 : ¬ (a ≤ c ∧ c < a + (r.length + 1)) := by omega
        rw [if_neg h2, rdByte_wrByte_other h4]

/-- The memory operations keep the canonical form. -/
theorem wrByte_wf (a : Nat) (b : Byte) (s : State) (h : Memory.wf s.mem = true) : Memory.wf (wrByte a b s).mem = true :=
  canon_put (d := fun _ => memDefault) a b h

theorem wrBytes_wf (a : Nat) (l : List Byte) (s : State) (h : Memory.wf s.mem = true) :
    Memory.wf (wrBytes a l s).mem = true := by
  induction l generalizing a s with
  | nil => exact h
  | cons b r ih => exact ih _ _ (wrByte_wf a b s h)

theorem wrNat_wf (a n v : Nat) (s : State) (h : Memory.wf s.mem = true) : Memory.wf (wrNat a n v s).mem = true :=
  wrBytes_wf a _ s h

theorem wrWord_wf (a : Nat) (v : W32) (s : State) (h : Memory.wf s.mem = true) : Memory.wf (wrWord a v s).mem = true :=
  wrNat_wf a 4 _ s h

theorem foldl_setMeta_mem (l : List Nat) (s : State) : (l.foldl (fun s p => setMeta p {} s) s).mem = s.mem := by
  induction l generalizing s with
  | nil => rfl
  | cons p r ih => exact (ih _).trans rfl

theorem wrSound_wf (a : Nat) (bs : List Byte) (s : State) (h : Memory.wf s.mem = true) :
    Memory.wf (wrSound a bs s).mem = true := by
  unfold wrSound; rw [foldl_setMeta_mem]; exact wrBytes_wf a bs s h

theorem wipe_wf (a n : Nat) (s : State) (h : Memory.wf s.mem = true) : Memory.wf (wipe a n s).mem = true :=
  canon_filter _ h

theorem copyRange_wf (src dst n : Nat) (s : State) (h : Memory.wf s.mem = true) :
    Memory.wf (copyRange src dst n s).mem = true := by
  have hf : ∀ (l : List Host.Cell) (s : State), Memory.wf s.mem = true →
      Memory.wf (l.foldl (fun s c => wrByte (c.1 - src + dst) c.2 s) s).mem = true := by
    intro l
    induction l with
    | nil => intro s hs; exact hs
    | cons c r ih => intro s hs; exact ih _ (wrByte_wf _ _ s hs)
  exact hf _ _ (canon_filter (d := fun _ => memDefault) _ h)

/-! ### The form of every command's effect -/

/-- The state after a command whose effect is `f`. -/
def after (f : State → State) (s : State) : State := { tidy (irqSettle s (f s)) with pending := s.pending }

theorem run_eq (f : State → State) (s : State) : run f s = .next (after f s) := rfl

theorem irqSettle_cases (b s : State) :
    ∃ m l, irqSettle b s = { s with msix := m, sent := l } := by
  unfold irqSettle
  dsimp only
  split
  · unfold sendMsi; dsimp only; split
    · exact ⟨_, s.sent, rfl⟩
    · exact ⟨s.msix, _, rfl⟩
  · exact ⟨s.msix, s.sent, rfl⟩

@[simp] theorem after_pending (f : State → State) (s : State) : (after f s).pending = s.pending := by
  have h : ∀ (x : State) (p : List Instr), ({ x with pending := p } : State).pending = p := fun _ _ => rfl
  unfold after
  exact h _ _

/-- What a command does to registers is what its effect does. -/
@[simp] theorem rd_after (o : Nat) (f : State → State) (s : State) : rd o (after f s) = rd o (f s) := by
  obtain ⟨m, l, h⟩ := irqSettle_cases s (f s)
  unfold after tidy; rw [h]
  exact lookup_tidyMap rstVal _ o

@[simp] theorem fld_after (x : FRef) (f : State → State) (s : State) : fld x (after f s) = fld x (f s) := by
  unfold fld; rw [rd_after]

@[simp] theorem bit_after (x : FRef) (f : State → State) (s : State) : bit x (after f s) = bit x (f s) := by
  unfold bit; rw [fld_after]

@[simp] theorem rdByte_after (a : Nat) (f : State → State) (s : State) : rdByte a (after f s) = rdByte a (f s) := by
  obtain ⟨m, l, h⟩ := irqSettle_cases s (f s)
  unfold after tidy; rw [h]
  exact lookup_tidyMap (fun _ => memDefault) _ a

@[simp] theorem metaAt_after (a : Nat) (f : State → State) (s : State) : metaAt a (after f s) = metaAt a (f s) := by
  obtain ⟨m, l, h⟩ := irqSettle_cases s (f s)
  unfold after tidy; rw [h]
  exact lookup_tidyMap (fun _ => ({} : Meta)) _ (stapleOf a)

theorem after_wf (f : State → State) (s : State) :
    canon rstVal (after f s).regs = true ∧ Memory.wf (after f s).mem = true ∧
      canon (fun _ => ({} : Meta)) (after f s).staples = true ∧ canon (fun _ => 0) (after f s).wear = true :=
  ⟨canon_tidyMap _ _, canon_tidyMap _ _, canon_tidyMap _ _, canon_tidyMap _ _⟩

end Sys2Proof.Machine
end

