-- ==== Sys2Proof/Laws/Bus.lean ====
section
/-! SUPPORT. Laws/Bus.lean: what an access of a whole register does, and where the indexed registers that commands write
stand in the register map. -/

namespace Sys2Proof.Machine

/-- A running package that answers at offset `o`: powered, firmware running, the instance present and its die up. -/
def answers (o : Nat) (s : State) : Bool :=
  onBus s && blocksUp s && !fusedOff o s && !(inDies o && diesDown s)

theorem answers_onBus {o : Nat} {s : State} (h : answers o s = true) : onBus s = true := by
  unfold answers at h; simp only [Bool.and_eq_true] at h; exact h.1.1.1

theorem hit_of_answers {o off size : Nat} {wide : Bool} {s : State} (h : answers off s = true)
    (hr : regHold off = some (o, wide)) :
    hit off size s =
      if off = o && size = (if wide then 8 else 4) then .reg o wide .full
      else if wide && size = 4 && off = o then .reg o wide .low
      else if wide && size = 4 && off = o + 4 then .reg o wide .high
      else .badSize := by
  unfold answers at h
  simp only [Bool.and_eq_true, Bool.not_eq_true'] at h
  unfold hit
  rw [h.1.1.2, h.1.2, h.2, hr]
  simp

/-- A 32-bit register takes a 4-byte access at its offset. -/
theorem hit_full32 {o : Nat} {s : State} (h : answers o s = true) (hr : regHold o = some (o, false)) :
    hit o 4 s = .reg o false .full := by
  rw [hit_of_answers h hr]; simp

/-- A 64-bit register takes an 8-byte access at its offset. -/
theorem hit_full64 {o : Nat} {s : State} (h : answers o s = true) (hr : regHold o = some (o, true)) :
    hit o 8 s = .reg o true .full := by
  rw [hit_of_answers h hr]; simp

theorem low32_mask (v : W32) : (v.setWidth 64 : W64) &&& 4294967295#64 = v.setWidth 64 := by
  apply BitVec.eq_of_toNat_eq
  have h : v.toNat < 2 ^ 32 := v.isLt
  have h2 : (4294967295#64).toNat = 2 ^ 32 - 1 := rfl
  have h1 : v.toNat % 2 ^ 64 = v.toNat := Nat.mod_eq_of_lt (by omega)
  simp only [BitVec.toNat_and, BitVec.toNat_setWidth]
  rw [h2, h1, Nat.and_two_pow_sub_one_eq_mod, Nat.mod_eq_of_lt h]

/-- A 32-bit write of a register that answers has the register's own effect. -/
theorem driverWrite_full32 {o : Nat} {s : State} (v : W32) (h : answers o s = true) (hr : regHold o = some (o, false)) :
    driverWrite o 4 (v.setWidth 64) s = regWrite true o (v.setWidth 64) { s with acc := o } := by
  have hb := answers_onBus h
  unfold driverWrite busWrite
  rw [hb, hit_full32 h hr]
  simp only [Bool.not_true, Bool.false_eq_true, if_false]
  exact congrArg (fun x => regWrite _ _ x _) (low32_mask v)

theorem busWrite_full32 {o : Nat} {s : State} (ok : Bool) (v : W32) (h : answers o s = true)
    (hr : regHold o = some (o, false)) :
    busWrite ok o 4 (v.setWidth 64) s = regWrite ok o (v.setWidth 64) { s with acc := o } := by
  have hb := answers_onBus h
  unfold busWrite
  rw [hb, hit_full32 h hr]
  simp only [Bool.not_true, Bool.false_eq_true, if_false]
  exact congrArg (fun x => regWrite _ _ x _) (low32_mask v)

/-- A 64-bit write of a register that answers has the register's own effect. -/
theorem driverWrite_full64 {o : Nat} {s : State} (v : W64) (h : answers o s = true) (hr : regHold o = some (o, true)) :
    driverWrite o 8 v s = regWrite true o v { s with acc := o } := by
  have hb := answers_onBus h
  unfold driverWrite busWrite
  rw [hb, hit_full64 h hr]
  simp

theorem write32_eq {o : Nat} {s : State} (v : W32) (h : answers o s = true) (hr : regHold o = some (o, false)) :
    write32 o v s = .next (after (fun s => regWrite true o (v.setWidth 64) { s with acc := o }) s) := by
  unfold write32
  rw [run_eq]
  unfold after
  rw [driverWrite_full32 v h hr]

theorem write64_eq {o : Nat} {s : State} (v : W64) (h : answers o s = true) (hr : regHold o = some (o, true)) :
    write64 o v s = .next (after (fun s => regWrite true o v { s with acc := o }) s) := by
  unfold write64
  rw [run_eq]
  unfold after
  rw [driverWrite_full64 v h hr]

/-! ### Indexed registers in the map -/

/-- Membership in a range of one index. -/
theorem inDims_one (d st n : Nat) (h : 0 < st): inDims d [(st, n)] = decide (d < st * n ∧ d % st = 0) := by
  simp only [inDims]
  have h1 : d / st < n ↔ d < st * n := by rw [Nat.div_lt_iff_lt_mul h, Nat.mul_comm]
  have h2 : d - d / st * st = d % st := by have := Nat.mod_add_div d st; rw [Nat.mul_comm] ; omega
  by_cases hd : d / st < n
  · rw [if_pos hd, h2]; have := h1.mp hd; simp only [this, true_and]; rfl
  · rw [if_neg hd]; have := mt h1.mpr hd; simp [this]

/-- The row of a table that offset `off` is an instance of. -/
def look (off : Nat) (l : List RegD) : Option RegD := l.find? fun d => d.base ≤ off && inDims (off - d.base) d.dims
theorem look_skip0 {off b : Nat} {w : Bool} {fl : List Fld} {l : List RegD} (h : off ≠ b) :
    look off (⟨b, w, [], fl⟩ :: l) = look off l := by
  unfold look; rw [List.find?_cons_of_neg]
  simp only [inDims, Bool.and_eq_true, decide_eq_true_eq, beq_iff_eq]; omega
theorem look_skip1 {off b st n : Nat} {w : Bool} {fl : List Fld} {l : List RegD} (hs : 0 < st)
    (h : off < b ∨ st * n ≤ off - b ∨ (off - b) % st ≠ 0) :
    look off (⟨b, w, [(st, n)], fl⟩ :: l) = look off l := by
  unfold look; rw [List.find?_cons_of_neg]
  rw [inDims_one _ _ _ hs]; simp only [Bool.and_eq_true, decide_eq_true_eq]; omega
theorem look_hit1 {off b st n : Nat} {w : Bool} {fl : List Fld} {l : List RegD} (hs : 0 < st)
    (h : b ≤ off ∧ off - b < st * n ∧ (off - b) % st = 0) :
    look off (⟨b, w, [(st, n)], fl⟩ :: l) = some ⟨b, w, [(st, n)], fl⟩ := by
  unfold look; rw [List.find?_cons_of_pos]
  rw [inDims_one _ _ _ hs]; simp only [Bool.and_eq_true, decide_eq_true_eq]; omega

theorem regHold_of_regDesc {o : Nat} {d : RegD} (h4 : o % 4 = 0) (h : regDesc o = some d) : regHold o = some (o, d.wide) := by
  unfold regHold
  have e : o / 4 * 4 = o := by omega
  dsimp only
  rw [e, h]
theorem regHold_REEF_CTRL : ∀ n : Fin 8, regHold (REEF_CTRL n) = some (REEF_CTRL n, false) := by decide +kernel
theorem regHold_FRY_CH_CMD : ∀ n : Fin 64, regHold (FRY_CH_CMD n) = some (FRY_CH_CMD n, false) := by decide +kernel
theorem regHold_CTX_CMD : ∀ n : Fin 64, regHold (CTX_CMD n) = some (CTX_CMD n, false) := by decide +kernel
theorem regHold_CTX_SPILL : ∀ (c : Fin 64) (k : Fin 8), regHold (CTX_SPILL c k) = some (CTX_SPILL c k, false) := by
  decide +kernel
theorem regHold_GLD_MSG_RING : ∀ n : Fin 64, regHold (GLD_MSG_RING n) = some (GLD_MSG_RING n, true) := by decide +kernel
theorem regHold_SKN_CTX_RANGE : ∀ n : Fin 64, regHold (SKN_CTX_RANGE n) = some (SKN_CTX_RANGE n, true) := by decide +kernel
theorem regHold_MEM_BIND : ∀ (c : Fin 64) (w : Fin 32), regHold (MEM_BIND c w) = some (MEM_BIND c w, false) := by
  decide +kernel
theorem regHold_SPN_CTRL (n : Nat) (hn : n < 288) : regHold (SPN_CTRL n) = some (SPN_CTRL n, false) := by
  refine regHold_of_regDesc (d := ⟨0x1000004, false, [(0x10000, 288)], [⟨1, 1, .wo, 0, []⟩, ⟨0, 0, .wo, 0, []⟩]⟩)
    (by unfold SPN_CTRL; omega) ?_
  unfold SPN_CTRL
  have hb : blockTab (0x1000004 + 0x10000 * n) = spnRegs := by
    unfold blockTab
    repeat (first | rw [if_pos (by omega)] | rw [if_neg (by omega)])
  change look (0x1000004 + 0x10000 * n) (blockTab (0x1000004 + 0x10000 * n)) = _
  rw [hb]; unfold spnRegs
  repeat rw [look_skip1 (by decide) (by omega)]
  exact look_hit1 (by decide) (by omega)

theorem regHold_SKN_QCFG_CTL (n : Nat) (hn : n < 4096) : regHold (SKN_QCFG_CTL n) = some (SKN_QCFG_CTL n, true) := by
  refine regHold_of_regDesc (d := ⟨0x408008, true, [(0x10, 4096)], [⟨63, 63, .rw, 0, []⟩, ⟨35, 32, .rw, 0, [(13, 15)]⟩, ⟨27, 24, .rw, 0, []⟩, ⟨21, 16, .rw, 0, []⟩, ⟨11, 0, .rw, 0, []⟩]⟩)
    (by unfold SKN_QCFG_CTL; omega) ?_
  unfold SKN_QCFG_CTL
  have hb : blockTab (0x408008 + 0x10 * n) = sknRegs := by
    unfold blockTab
    repeat (first | rw [if_pos (by omega)] | rw [if_neg (by omega)])
  change look (0x408008 + 0x10 * n) (blockTab (0x408008 + 0x10 * n)) = _
  rw [hb]; unfold sknRegs
  repeat (first | rw [look_skip0 (by omega)] | rw [look_skip1 (by decide) (by omega)])
  exact look_hit1 (by decide) (by omega)

theorem regHold_SKN_Q_DOORBELL (n : Nat) (hn : n < 4096) : regHold (SKN_Q_DOORBELL n) = some (SKN_Q_DOORBELL n, false) := by
  refine regHold_of_regDesc (d := ⟨0x440000, false, [(0x40, 4096)], [⟨15, 0, .rw, 0, []⟩]⟩)
    (by unfold SKN_Q_DOORBELL; omega) ?_
  unfold SKN_Q_DOORBELL
  have hb : blockTab (0x440000 + 0x40 * n) = sknRegs := by
    unfold blockTab
    repeat (first | rw [if_pos (by omega)] | rw [if_neg (by omega)])
  change look (0x440000 + 0x40 * n) (blockTab (0x440000 + 0x40 * n)) = _
  rw [hb]; unfold sknRegs
  repeat (first | rw [look_skip0 (by omega)] | rw [look_skip1 (by decide) (by omega)])
  exact look_hit1 (by decide) (by omega)

theorem regHold_SKN_Q_RING_TAIL (n : Nat) (hn : n < 4096) : regHold (SKN_Q_RING_TAIL n) = some (SKN_Q_RING_TAIL n, true) := by
  refine regHold_of_regDesc (d := ⟨0x440008, true, [(0x40, 4096)], [⟨63, 46, .wo, 0, []⟩, ⟨45, 30, .wo, 0, []⟩, ⟨15, 0, .wo, 0, []⟩]⟩)
    (by unfold SKN_Q_RING_TAIL; omega) ?_
  unfold SKN_Q_RING_TAIL
  have hb : blockTab (0x440008 + 0x40 * n) = sknRegs := by
    unfold blockTab
    repeat (first | rw [if_pos (by omega)] | rw [if_neg (by omega)])
  change look (0x440008 + 0x40 * n) (blockTab (0x440008 + 0x40 * n)) = _
  rw [hb]; unfold sknRegs
  repeat (first | rw [look_skip0 (by omega)] | rw [look_skip1 (by decide) (by omega)])
  exact look_hit1 (by decide) (by omega)

end Sys2Proof.Machine
end

