-- ==== Sys2Proof/Laws/Run.lean ====
section
/-! SUPPORT. Laws/Run.lean: what every command does around its own effect: the outcome is the effect, made canonical, with
the interrupt messages it causes; what the effect leaves alone, the command leaves alone. -/

namespace Sys2Proof.Machine

open Sys2Proof.Safety

theorem answers_iff {o : Nat} {s : State} (h : Answers o s) : answers o s = true := by
  unfold answers; rw [h.1, h.2.1, h.2.2.1, h.2.2.2]; rfl

/-- Interrupt messages apart, a command leaves in `rest` what its effect leaves there. -/
theorem rest_after' (f : State → State) (s : State) : rest (after f s) = { rest (f s) with pending := s.pending } := by
  obtain ⟨m, l, e⟩ := irqSettle_cases s (f s)
  have hp : ∀ x : State, rest { tidy x with pending := s.pending } = { rest x with pending := s.pending } := fun _ => rfl
  unfold after
  rw [hp, e]
  rfl

theorem rest_after {f : State → State} {s : State} (h : rest (f s) = rest s) : rest (after f s) = rest s := by
  rw [rest_after', h]; rfl

theorem sameMem_after {f : State → State} {s : State} (h : SameMem s (f s)) : SameMem s (after f s) := by
  intro a; simpa using h a

theorem wearOf_after (k : Nat) (f : State → State) (s : State) : wearOf k (after f s) = wearOf k (f s) := by
  obtain ⟨m, l, e⟩ := irqSettle_cases s (f s)
  unfold after tidy; rw [e]
  exact lookup_tidyMap (fun _ => 0) _ k

theorem sameWear_after {f : State → State} {s : State} (h : SameWear s (f s)) : SameWear s (after f s) := by
  intro k; rw [wearOf_after]; exact h k

theorem sameRegs_after {f : State → State} {s : State} {l : List Nat} (h : SameRegs l s (f s)) :
    SameRegs l s (after f s) := by
  intro o ho; rw [rd_after]; exact h o ho

theorem regsOnly_after {f : State → State} {s : State} {l : List Nat} (h : RegsOnly l s (f s)) :
    RegsOnly l s (after f s) :=
  ⟨rest_after h.1, sameMem_after h.2.1, sameWear_after h.2.2.1, sameRegs_after h.2.2.2⟩

/-- A state that differs in its registers and in what the model records of the access. -/
theorem regsOnly_of {l : List Nat} {s t : State} (h : ∃ r a d, t = { s with regs := r, acc := a, rdata := d })
    (hr : SameRegs l s t) : RegsOnly l s t := by
  obtain ⟨r, a, d, rfl⟩ := h
  exact ⟨rfl, fun _ => ⟨rfl, rfl⟩, fun _ => rfl, hr⟩

theorem of_run {f : State → State} {s t : State} (h : run f s = .next t) : ∃ f, t = after f s :=
  ⟨f, (Host.Outcome.next.inj h).symm⟩

theorem of_if {p : Prop} [Decidable p] {x : Fault} {f : State → State} {s t : State}
    (h : (if p then Host.Outcome.fault x else run f s) = .next t) : ∃ f, t = after f s := by
  split at h
  · cases h
  · exact of_run h

end Sys2Proof.Machine
end

