-- ==== Sys2Proof/Laws/Frames.lean ====
section
/-! SUPPORT. Laws/Frames.lean: effects that change nothing but listed registers, and how they compose; what the clear
operations and the plain store leave alone. -/

namespace Sys2Proof.Machine

open Sys2Proof.Safety

/-- The effect `f` changes no register outside `l`, and beside registers only what the model records of the access. -/
def RegEffect (l : List Nat) (f : State → State) : Prop :=
  ∀ s, (∃ r a d, f s = { s with regs := r, acc := a, rdata := d }) ∧ SameRegs l s (f s)

theorem RegEffect.regsOnly {l : List Nat} {f : State → State} (h : RegEffect l f) (s : State) : RegsOnly l s (f s) :=
  regsOnly_of (h s).1 (h s).2

theorem RegEffect.after {l : List Nat} {f : State → State} (h : RegEffect l f) (s : State) : RegsOnly l s (after f s) :=
  regsOnly_after (h.regsOnly s)

theorem RegEffect.mono {l m : List Nat} {f : State → State} (hf : RegEffect l f) (h : l ⊆ m) : RegEffect m f :=
  fun s => ⟨(hf s).1, fun p hp => (hf s).2 p fun x => hp (h x)⟩

theorem regEffect_id (l : List Nat) : RegEffect l fun s => s := fun s => ⟨⟨s.regs, s.acc, s.rdata, rfl⟩, fun _ _ => rfl⟩

theorem regEffect_acc (l : List Nat) (n : Nat) : RegEffect l fun s => { s with acc := n } :=
  fun s => ⟨⟨s.regs, n, s.rdata, rfl⟩, fun _ _ => rfl⟩

theorem RegEffect.comp {l : List Nat} {f g : State → State} (hf : RegEffect l f) (hg : RegEffect l g) :
    RegEffect l fun s => g (f s) := by
  intro s
  obtain ⟨⟨r, a, d, e⟩, h⟩ := hf s
  obtain ⟨⟨r', a', d', e'⟩, h'⟩ := hg (f s)
  refine ⟨⟨r', a', d', ?_⟩, fun p hp => (h' p hp).trans (h p hp)⟩
  show g (f s) = _
  rw [e', e]

theorem RegEffect.ite {l : List Nat} {f g : State → State} (p : State → Prop) [∀ s, Decidable (p s)] (hf : RegEffect l f)
    (hg : RegEffect l g) : RegEffect l fun s => if p s then f s else g s := by
  intro s
  by_cases h : p s
  · simp only [h, if_true]; exact hf s
  · simp only [h, if_false]; exact hg s

theorem RegEffect.foldl {α : Type} {l : List Nat} {f : State → α → State} (xs : List α)
    (h : ∀ x ∈ xs, RegEffect l fun s => f s x) : RegEffect l fun s => xs.foldl f s := by
  induction xs with
  | nil => exact regEffect_id l
  | cons x xs ih => exact (h x (by simp)).comp (ih fun y hy => h y (by simp [hy]))

theorem regEffect_wr (o : Nat) (v : W64) : RegEffect [o] (wr o v) :=
  fun s => ⟨⟨_, s.acc, s.rdata, rfl⟩, fun p hp => rd_wr_other (by simpa using hp) _ _⟩

theorem regEffect_setFld (f : FRef) (x : Nat) : RegEffect [f.off] (setFld f x) := fun s => regEffect_wr _ _ s

theorem regEffect_setFlds (l : List (FRef × Nat)) : RegEffect (l.map fun p => p.1.off) (setFlds l) :=
  RegEffect.foldl l fun p hp =>
    (regEffect_setFld p.1 p.2).mono (List.cons_subset.mpr ⟨List.mem_map.mpr ⟨p, hp, rfl⟩, List.nil_subset _⟩)

theorem regEffect_zeroRegs (l : List Nat) : RegEffect l (zeroRegs l) :=
  RegEffect.foldl l fun o ho => (regEffect_wr o 0).mono (List.cons_subset.mpr ⟨ho, List.nil_subset _⟩)

/-- A bit of TOP_ERR, with the offset of the access, changes no other register. -/
theorem regEffect_topErr (f : FRef) (x : Nat) (hf : f.off = TOP_ERR) : RegEffect [TOP_ERR, TOP_ERR_ADDR] (topErr f x) := by
  have h1 : RegEffect [TOP_ERR, TOP_ERR_ADDR] (setErr f) := (regEffect_setFld f 1).mono (by simp [hf])
  have h2 : RegEffect [TOP_ERR, TOP_ERR_ADDR] (setFlds [(TOP_ERR_ADDR_OFFSET, x)]) :=
    (regEffect_setFlds _).mono (by simp [TOP_ERR_ADDR_OFFSET])
  unfold topErr raiseLatch
  exact RegEffect.ite _ (h2.comp h1) h1

/-- The plain store changes the register, and TOP_ERR with its offset for a reserved encoding. -/
theorem regEffect_store (o : Nat) (v : W64) : RegEffect [o, TOP_ERR, TOP_ERR_ADDR] (store o v) := by
  intro s
  have h2 : RegEffect [o, TOP_ERR, TOP_ERR_ADDR] (rsvEnc (written o v s).2) := by
    intro t
    unfold rsvEnc
    split
    · exact (regEffect_topErr TOP_ERR_RSV_ENC t.acc rfl).mono (by simp) t
    · exact regEffect_id _ t
  exact RegEffect.comp ((regEffect_wr o (written o v s).1).mono (by simp)) h2 s

/-- A 32-bit write of a register that answers completes; a property of its effect is a property of the command. -/
theorem gives_write32 {o : Nat} {s : State} {c : Instr} {v : W32} {P : State → Prop} (h : Answers o s)
    (hr : regHold o = some (o, false)) (hc : exec c s = write32 o v s)
    (hp : P (after (fun s => regWrite true o (v.setWidth 64) { s with acc := o }) s)) : Gives c s P :=
  ⟨_, hc.trans (write32_eq v (answers_iff h) hr), hp⟩

theorem gives_write64 {o : Nat} {s : State} {c : Instr} {v : W64} {P : State → Prop} (h : Answers o s)
    (hr : regHold o = some (o, true)) (hc : exec c s = write64 o v s)
    (hp : P (after (fun s => regWrite true o v { s with acc := o }) s)) : Gives c s P :=
  ⟨_, hc.trans (write64_eq v (answers_iff h) hr), hp⟩

theorem wbit_setWidth (v : W32) (i : Nat) : wbit (v.setWidth 64) i = v.getLsbD i := by
  unfold wbit
  rw [BitVec.getLsbD_setWidth]
  by_cases h : i < 64
  · simp [h]
  · have : v.getLsbD i = false := BitVec.getLsbD_of_ge _ _ (by omega)
    simp [this]

theorem rd_clearCapture (i : Nat) (s : State) (p : Nat) : rd p (clearCapture i s) = if p = i then 0 else rd p s := by
  unfold clearCapture
  exact rd_wr i p 0 s

end Sys2Proof.Machine
end

