-- ==== Sys2Proof/Tests/Slice0.lean ====
section
/-! SUPPORT. Tests/Slice0.lean: ill-formed commands, witnesses of the hypotheses of the statements, and single steps whose results
the manual gives. -/

namespace Sys2Proof.Tests

set_option Elab.async false

open Sys2Proof.Machine Sys2Proof.Safety

/-! ### Ill-formed commands -/

theorem test_wf_size : (Instr.registerWrite 0x10 3 0).wellFormed = false := by decide
theorem test_wf_bar : (Instr.registerWrite 0x3FFFFFC 8 0).wellFormed = false := by decide
theorem test_wf_read : (Instr.rcCounterRead 0x10 2).wellFormed = false := by decide
theorem test_wf_access : (Instr.unmappedAccess true 0x3FFFFFF 2 0).wellFormed = false := by decide
theorem test_wf_vf : (Instr.vfInvalidAccess 0 false 0 4 0).wellFormed = false := by decide
theorem test_wf_low : (Instr.lowWordRead 4).wellFormed = false := by decide
theorem test_wf_high : (Instr.highWordRead 8).wellFormed = false := by decide
theorem test_wf_spindle : (Instr.hangTimeout 288).wellFormed = false := by decide
theorem test_wf_participant : (Instr.wait ⟨0, 0⟩ 360 .self).wellFormed = false := by decide
theorem test_wf_physical : (Instr.strikeExpiry 304).wellFormed = false := by decide
theorem test_wf_command : (Instr.nop 0 []).wellFormed = false := by decide
theorem test_wf_stop_image : (Instr.stopLoad 0 (List.replicate 16 0) []).wellFormed = false := by decide
theorem test_wf_prompt : (Instr.promptSliceStaged 0 0 none).wellFormed = false := by decide
theorem test_wf_port : (Instr.signalLoss 7).wellFormed = false := by decide
theorem test_wf_offer : (Instr.bootOffer 6 0 0).wellFormed = false := by decide
theorem test_wf_rail : (Instr.railTimeout 0).wellFormed = false := by decide

/-! ### States for the witnesses -/

/-- The state after a command, when it answers one. -/
def after (c : Instr) (s : State) : State :=
  match exec c s with
  | .next t => t
  | _ => s

/-- A package in service: READY, firmware running, tally locked. -/
def up : State :=
  { setFlds [(BRG_STATUS_STAGE, stReady), (BT_STATUS_LOCK, lkLocked), (BT_CTRL_EN, 1)] State.reset with
    boot := { on := true, fwRuns := true, tested := true, everLocked := true } }

/-- No state of a spindle is listed, so no retain window is open. -/
theorem no_windows {s : State} (h : s.spns = []) : noWindows s := fun n => by simp [spn, h, lookup]

/-! ### Queue, registers, interrupts -/

theorem test_front : step { up with pending := [.voteTimeout, .getVersion] } = exec .voteTimeout { up with pending := [.getVersion] } := rfl

theorem test_canon_up : Canon up := by unfold Canon; decide +kernel

/-- Every register that a statement's write addresses answers in a package in service. -/
theorem test_answers : ∀ o ∈ plain32 ++ plain64.map (· + 4) ++ [GAU_CTRL, SPN_CTRL 287, REEF_CTRL 7, KV_CTRL, SMP_CTRL, CRD_CTRL, SYN_CTRL,
    FRY_CTRL, INT_CTRL, PWR_CTRL, CTX_CTRL, MEM_CTRL, TOP_IRQ_MASK, BT_BEAT_LEN, MEM_BIND 63 31, CTX_SPILL 63 7, SKN_CTX_RANGE 63,
    GLD_CTRL, MEM_RGN_CFG 255, GLD_WIN_CFG 4095, GLD_NODE, SMP_PROF_CTRL, WV_LOAD_CTRL, CTX_CMD 63, INT_FENCE, INT_SOUND_CMD,
    SEC_CMD, MEM_SWAP_CTRL, BRG_RETRAIN, FRY_CH_CMD 63, BRG_CTRL, PWR_HAVEN, PWR_CAP_HOST], Answers o up := by
  unfold Answers plain32 plain64; decide +kernel

/-- R12: a write of 1 clears a W1C flag and a write of 0 leaves it. -/
theorem test_write_one_clears : rd TOP_ERR (after (.registerWrite (BitVec.ofNat 26 TOP_ERR) 4 1) (wr TOP_ERR 3 up)) = 2 := by
  decide +kernel

theorem test_illegal_size : Answers TOP_ERR up ∧ regHold TOP_ERR = some (TOP_ERR, false) ∧
    bit TOP_ERR_SIZE (after (.illegalSizeAccess false (BitVec.ofNat 26 TOP_ERR) 8 0) up) = true := by unfold Answers; decide +kernel

/-- An offset without a register, and an offset of a fused-off instance. -/
theorem test_unmapped : onBus up = true ∧ blocksUp up = true ∧ regHold 0x3FFFFF0 = none ∧ (inDies 0x3FFFFF0 && diesDown up) = false ∧
    fusedOff (SPN_CTRL 287) { up with fuse := { up.fuse with code := 2 } } = true := by decide +kernel

theorem test_vf_invalid : onBus up = true ∧ vfTarget 1 0xFFFF0 4 up = none := by decide +kernel

/-- A 64-bit register, with its high half latched by a read of the low half (R9). -/
def counted : State := wr BRG_FW_ADDR 0x500000007 up
theorem test_word_halves : Answers BRG_FW_ADDR counted ∧ Answers (BRG_FW_ADDR + 4) counted ∧ regHold BRG_FW_ADDR = some (BRG_FW_ADDR, true) ∧
    regHold (BRG_FW_ADDR + 4) = some (BRG_FW_ADDR, true) ∧ readClears BRG_FW_ADDR = false ∧ (regVal BRG_FW_ADDR counted).2 = counted ∧
    find? (after (.lowWordRead (BitVec.ofNat 26 BRG_FW_ADDR)) counted).latches BRG_FW_ADDR = some 5 := by unfold Answers; decide +kernel

theorem test_read_clears : ∃ o ∈ regTab.map (·.base), readClears o = true ∧ Answers o up ∧ (regHold o).map (·.1) = some o := by
  unfold Answers; decide +kernel

/-! ### The cairn, clears, locks -/

theorem test_cairn : let o := CRN_RETIRE 31
    isCairn o = true ∧ onBus up = true ∧ fusedOff o up = false ∧ regHold o = some (o, true) ∧ 100000 ≤ wearOf (o - 0x20000)
      { up with wear := [(o - 0x20000, 100000)] } := by decide +kernel

theorem test_clears : ∀ x ∈ counterClears 287 7 1 ++ counterClears 0 0 6, Answers x.2.1 up := by unfold Answers; decide +kernel

/-- A counter holds at its greatest value (R53), and a clear zeroes it (R52). -/
theorem test_counter_holds : rd (KV_CNT 0) (bump64 (KV_CNT 0) 5 (wr (KV_CNT 0) 0xFFFFFFFFFFFFFFFE up)) = 0xFFFFFFFFFFFFFFFF := by
  decide +kernel

/-- A context that exists, and one whose configuration is free. -/
def one : State := setState 5 cxIdle up
theorem test_locked : ctxExists 5 one = true ∧ ctxExists 63 one = false ∧ anyCtx one = true ∧ anyCtx up = false ∧ servingCtx one = true ∧
    servingCtx up = false ∧ fldOf GLD_CTRL_EN 1 = fld GLD_CTRL_EN (setFld GLD_CTRL_EN 1 up) := by decide +kernel

theorem test_beat_len_locked : bit BT_ERR_LEN_LOCKED (after (.beatLenWrite 10000) one) = true ∧
    rd BT_BEAT_LEN (after (.beatLenWrite 10000) one) = rd BT_BEAT_LEN one := by decide +kernel

theorem test_region : let o := MEM_RGN_CFG 255
    0x101000 ≤ o ∧ o < 0x103000 ∧ regHold o = some (o, false) ∧ (region 255 (bumpFld (MEM_RGN_CFG_BINDS 255) 1 up)).binds = 1 ∧
      (region 255 (setFld (MEM_RGN_BASE_BASE 255) 0x10 up)).base ≠ (region 255 up).base ∧ (region 255 up).valid = false ∧
      regionRules 255 (setFlds [(MEM_RGN_CFG_VALID 255, 1), (MEM_RGN_CFG_KIND 255, kHome), (MEM_RGN_SIZE_SIZE 255, 1)] up) = false := by
  decide +kernel

/-- A window with an operation landing in it. -/
def landing0 : State := { setFld (GLD_WIN_CFG_VALID 7) 1 up with gld := { up.gld with landings := [{ src := 1, tag := 1, window := 7 }] } }

theorem test_window : Answers (GLD_WIN_CFG 4095) landing0 ∧ (landing0.gld.landings.any fun l => l.window == 7) = true ∧
    bit (GLD_WIN_CFG_VALID 7) landing0 = true ∧ bit (GLD_WIN_CFG_VALID 8) landing0 = false ∧
    7 ∈ (after (.winCfgWrite (BitVec.ofNat 26 (GLD_WIN_CFG 7)) 4 0) landing0).gld.draining := by unfold Answers; decide +kernel

/-- A mesh of 4 × 4 × 8 is the largest that GLD_NODE takes (R284); a region of SCRATCH kind can hold a message ring. -/
def scratch : State :=
  { setFlds [(MEM_RGN_CFG_VALID 3, 1), (MEM_RGN_CFG_KIND 3, kScratch), (MEM_RGN_BASE_BASE 3, 0x1000), (MEM_RGN_SIZE_SIZE 3, 0x100)] one with
    ctxs := [(5, { bound := [(0, 3)] })] }
theorem test_ring_ok : boundKind 5 kScratch 0x1000000 0x1000 scratch = true ∧ boundKind 5 kScratch 0x2000000 0x1000 scratch = false ∧
    Answers (GLD_MSG_RING 63) scratch := by unfold Answers; decide +kernel

theorem test_gauge_and_tally : Answers GAU_CTRL up ∧ Answers BT_CTRL up ∧ lockState up ≠ lkUnlocked ∧ ctxLive 5 (setState 5 cxRunning up) = true ∧ lockState State.reset = lkUnlocked ∧
    tallySource up = false := by
  unfold Answers; decide +kernel

/-! ### Bring-up and management -/

/-- Everything for a cold boot but the 48 V. -/
def waiting48 : State := { State.reset with pins := { State.reset.pins with mainEn := true, enShort := true } }
theorem test_may_start : mayStart { waiting48.pins with v48 := true } waiting48 ∧ ¬mayStart waiting48.pins waiting48 := by unfold mayStart; decide +kernel

/-- The package in stage k. -/
def at_ (k : Nat) : State := { setFld BRG_STATUS_STAGE k up with boot := { on := true } }
theorem test_power_stage : (at_ stPower).boot.on = true ∧ stage (at_ stPower) = stPower := by decide +kernel

theorem test_stage_ends : stageDone (stage (at_ 1)) (at_ 1) = true ∧ stageDone (stage (at_ stSelftest)) (at_ stSelftest) = false ∧
    stageDone (stage up) up = false := by decide +kernel

def fetching : State := at_ stFwFetch
theorem test_native_fetch : onBus fetching = true ∧ fusedOff BRG_CTRL fetching = false ∧ fetching.boot.fwRuns = false ∧
    stage fetching = stFwFetch ∧ bit BRG_CTRL_FW_GO (setFld BRG_CTRL_FW_GO 1 fetching) = true ∧ fetching.boot.offers = [] := by decide +kernel

def offered : State := setPort 5 { linked := true } (setFld CRN_BOOT_CFG_SOURCE 1 fetching)
theorem test_broadcast : broadcast offered = true ∧ (port 5 offered).linked = true ∧ offered.boot.asked = none ∧ bit BRG_CTRL_FW_GO offered = false := by decide +kernel

theorem test_selftest : (at_ stSelftest).boot.on = true ∧ stage (at_ stSelftest) = stSelftest ∧ (at_ stSelftest).boot.tested = false ∧ atollHere (at_ stSelftest) 7 = true := by
  decide +kernel

theorem test_rejoin_begins : Answers BRG_CTRL up ∧ up.boot.tested = true ∧ stage up ≠ stHaven ∧ stage up = stReady ∧ onBus up = true ∧
    fusedOff BRG_CTRL up = false := by
  unfold Answers; decide +kernel

/-- A warm rejoin with a cap at the floor and below it. -/
def warm (cap : Nat) : State := setFlds [(BRG_STATUS_STAGE, stWarm), (PWR_CAP_HOST_WATTS, cap)] up
theorem test_rejoin_ends : bit PWR_HAVEN_ACTIVE (warm 1500) = false ∧ belowFloor (warm 1500) = false ∧ belowFloor (warm 1) = true ∧
    (warm 1500).pwr.thermB = 0 := by decide +kernel

/-- Two host writes held for function 1 and one for function 15, of a skein in service. -/
def held : State :=
  { up with boot := { up.boot with hostDown := 0x8002 }, skeins := [(4, { state := .decode })]
            hostHeld := [(1, 4, 0, [1]), (15, 4, 8, [2]), (1, 4, 16, [3])] }
theorem test_host_link : held.boot.on = true ∧ held.pins.perst = false ∧ stage held = stReady ∧ held.boot.hostDown ≠ 0 ∧
    skLive (sk 4 held) = true ∧ (after (.hostLinkUp 2) held).sent = [.hostWrite 1 0 [1], .hostWrite 1 16 [3]] ∧
    (sk 4 (after .hostLossTimeout held)).state = .faulted := by decide +kernel

theorem test_mctp : { up with pins := { up.pins with v48 := true } }.pins.v48 = true := rfl

/-- A retrain of atoll 7, and of port 6. -/
theorem test_retrain : Answers BRG_RETRAIN up ∧ up.boot.tested = true ∧ up.boot.retrainQ = [] ∧ atollHere up 7 = true ∧ atollFailed 7 up = false ∧
    bit BRG_RETRAIN_STATUS_ATOLL_BUSY up = false ∧ bit PWR_HAVEN_ACTIVE up = false ∧
    bit BRG_RETRAIN_STATUS_PORT_BUSY up = false := by unfold Answers; decide +kernel

/-- Atoll 7 retrains and atoll 4 asks; port 5 retrains and ports 5 and 4 ask. -/
theorem test_retrain_busy : let s := setFlds [(BRG_RETRAIN_STATUS_ATOLL_BUSY, 1), (BRG_RETRAIN_STATUS_ATOLL, 7)] up
    let t := setFlds [(BRG_RETRAIN_STATUS_PORT_BUSY, 1), (BRG_RETRAIN_STATUS_PORT, 5)] up
    Answers BRG_RETRAIN s ∧ atollHere s 4 = true ∧ fld BRG_RETRAIN_STATUS_ATOLL s = 7 ∧ Answers BRG_RETRAIN t ∧ portHere t 4 = true ∧
      fld BRG_RETRAIN_STATUS_PORT t = 5 ∧ portHere t 5 = true := by unfold Answers; decide +kernel

/-! ### Power and security -/

theorem test_power_caps : Answers PWR_CAP_HOST up ∧ up.boot.on = true ∧ partLimit up < 2 ^ 16 - 1 ∧ bit PWR_HAVEN_ACTIVE up = false ∧
    belowFloor (setFld PWR_CAP_HOST_WATTS 1 up) = true ∧ bit PWR_HAVEN_ACTIVE (setFld PWR_HAVEN_ACTIVE 1 up) = true := by
  unfold Answers; decide +kernel

/-- A V/F step under way, to point 3. -/
def stepping : State := { setFld PWR_STATUS_STEPPING 1 up with pwr := { up.pwr with stepTo := 3 } }
theorem test_points : stepping.boot.on = true ∧ diesDown stepping = false ∧ bit PWR_STATUS_STEPPING stepping = true ∧
    fld PWR_STATUS_POINT (after .vfStepDone stepping) = 3 := by decide +kernel

/-- A sample below every limit, one at THERM_LIMIT, and one that trips at 115 °C. -/
theorem test_thermal : up.boot.on = true ∧ ¬(115 * 16 ≤ max (max (105 * 16 : Int) (max 0 0)) (max 0 (max 0 0))) ∧
    (115 * 16 ≤ max (max (0 : Int) (max 0 0)) (max 0 (max 0 (115 * 16)))) := by decide

theorem test_haven : Answers PWR_HAVEN up ∧ up.boot.tested = true ∧ bit PWR_HAVEN_ACTIVE up = false ∧ up.gld.ops = [] ∧
    up.sec.waiting = none ∧ belowFloor (setFld PWR_CAP_HOST_WATTS 1 up) = true ∧ { up with pwr := { up.pwr with thermB := 63 } }.pwr.thermB ≠ 0 := by
  unfold Answers; decide +kernel

theorem test_haven_exit : let s := setFlds [(PWR_HAVEN_ACTIVE, 1), (PWR_CAP_HOST_WATTS, 1500)] up
    bit PWR_HAVEN_ACTIVE s = true ∧ exitAllowed s = true ∧ ¬(bit PWR_HAVEN_ACTIVE up = true ∧ exitAllowed up = true) ∧
      up.gld.refused = [] := by decide +kernel

theorem test_security : ∀ op ∈ [1, 2, 3, 4, 5], startsSec op (0x80000000 + BitVec.ofNat 32 (op * 2 ^ 24)) ∧
    (written SEC_CMD ((0x80000000 + BitVec.ofNat 32 (op * 2 ^ 24) : W32).setWidth 64) up).2 = false := by
  unfold startsSec; decide +kernel

theorem test_mailbox_states : Answers SEC_CMD up ∧ bit SEC_CMD_STATUS_BUSY up = false ∧ bit WV_LOAD_STATUS_BUSY up = false ∧
    bit WV_LOAD_STATUS_BUSY (setFld WV_LOAD_STATUS_BUSY 1 up) = true ∧ secBlob up = none := by unfold Answers; decide +kernel

/-- A busy tenant; a STAGE region with a key blob for another part. -/
def staged : State :=
  wrNat 0x1000004 1 1 (wrNat 0x1000000 4 0x4B574B51 { setFlds [(MEM_RGN_CFG_VALID 3, 1), (MEM_RGN_CFG_KIND 3, kStage),
    (MEM_RGN_BASE_BASE 3, 0x1000), (MEM_RGN_SIZE_SIZE 3, 0x100), (SEC_CMD_ADDR_ADDR, 0x1000)] up with
    skeins := [(4, { state := .decode, tenant := 9 })], fuse := { up.fuse with identityDigest := 7, minSvn := 2, advances := 1 } })
theorem test_keys : tenantBusy 9 staged = true ∧ tenantBusy 8 staged = false ∧ (∃ b ok, secBlob staged = some (b, ok) ∧
    bnum b 8 8 ≠ staged.fuse.identity.toNat ∧ bnum b 0 4 = 0x4B574B51 ∧ bnum b 4 1 = 1 ∧ bnum b 6 2 < 64 ∧
    allZero (bslice b 5 1) = true ∧ allZero (bslice b 0x71 15) = true ∧ allZero (bslice b 0xB0 80) = true) :=
  ⟨by decide +kernel, by decide +kernel, rdBytes 0x1000000 256 staged, true, by decide +kernel⟩

/-- A wrapped key for this part, of a model and of a tenant that has no skein in service, where it unwraps. -/
def mine (kind index : Nat) : State := wrNat 0x1000008 8 7 (wrNat 0x1000006 2 index (wrNat 0x1000004 1 kind staged))
theorem test_key_loads (key : BitVec 256) (h : ∀ b s, unwrapKey b s = some key) : ∀ f ∈ [(1, 63), (2, 8), (2, 9)], let s := mine f.1 f.2
    ∃ b, secBlob s = some (b, true) ∧ bnum b 8 8 = s.fuse.identity.toNat ∧ bnum b 0 4 = 0x4B574B51 ∧ allZero (bslice b 5 1) = true ∧
      allZero (bslice b 0x71 15) = true ∧ allZero (bslice b 0xB0 80) = true ∧ unwrapKey b s = some key ∧ bnum b 4 1 = f.1 ∧ bnum b 6 2 = f.2 ∧
      tenantBusy f.2 s = decide (f = (2, 9)) := by
  intro f hf
  refine ⟨rdBytes 0x1000000 256 (mine f.1 f.2), ?_⟩
  simp only [h]
  revert f
  decide +kernel

theorem test_svn : fld SEC_SVN_FW staged ≤ staged.fuse.minSvn.toNat ∧ staged.fuse.minSvn.toNat < fld SEC_SVN_FW (setFld SEC_SVN_FW 3 staged) ∧
    staged.fuse.advances ≠ 0 ∧ up.fuse.minSvn.toNat < 65535 := by decide +kernel

theorem test_spdm : up.boot.on = true ∧ stIdentity ≤ stage up ∧ up.boot.fwRuns = true ∧ measValue 2 up = some (1, digestBytes up.boot.fwDigest) ∧
    measurement 0 up = none ∧ (∃ k < 4, k ∉ up.sec.sessions) ∧ (∀ k < 4, k ∈ { up.sec with sessions := [0, 1, 2, 3] }.sessions) ∧ 4 < (5 : BitVec 3).toNat ∧ up.sec.sessions = [] := by
  exact ⟨by decide +kernel, by decide +kernel, by decide +kernel, rfl, rfl, by decide +kernel, by decide +kernel, by decide, rfl⟩

/-! ### Barriers and threads -/

/-- Context 5 runs with barrier 0 of two participants, spindle 0 and ferry-side index 359, and a ready thread on spindle 0. -/
def bar0 : BarUnit := { ctx := 5, index := 0, parts := [0, 359] }
def sync (b : BarUnit) (th : Thread) : State :=
  { setState 5 cxRunning up with bars := [(255, b)], spns := [(0, { threads := [(7, th)] })] }
def ready5 : Thread := { state := .ready, ctx := 5 }

theorem channels_idle {s : State} (h : s.chans = []) (w : s.gld.waiting = []) : channelsIdle s := ⟨fun x hx => by simp [h] at hx, w⟩

/-- Context 5 runs a step of one phase with these entries. -/
def lab (es : List (List W32)) : State :=
  let c : Ctx := { ran := true, step := some { lists := [(0, es.map fun l => { words := l })] }
                   weave := { shapes := [{ len := 1, maxRows := 8, maxPtok := 8, phases := [{ firstBeat := 0, beats := 1, config := 0, powerClass := 0, template := 0, reserve := 0, slotCyc := 0 }] }] } }
  { setState 5 cxRunning up with ctxs := [(5, c)] }
def e0 : EntryRef := { ctx := 5, phase := 0, idx := 0 }

/-- A SYNC entry of spindle 0 for barrier 0, in a step of context 5. -/
def syncE (op skip : Nat) : List W32 := [BitVec.ofNat 32 (kSync * 2 ^ 28 + skip * 2 ^ 27), BitVec.ofNat 32 (op * 2 ^ 28)]
def syncing (op skip : Nat) : State := { lab [syncE op skip] with bars := [(255, bar0)] }

theorem test_barriers : let s := sync bar0 ready5
    ctxLive 5 s = true ∧ unitOf 5 0 s = some 255 ∧ channelsIdle s ∧ (barUnit 255 s).ctx = 5 ∧ full bar0.parts (bar0.cur ++ [359]) = false ∧
      mayArrive 5 0 0 (.thread 7 []) [0] s ∧ mayWait 5 0 0 (.thread 7 []) [1] s := by
  refine ⟨by decide +kernel, by decide +kernel, channels_idle rfl rfl, by decide +kernel, by decide +kernel, ?_, ?_⟩ <;>
    (simp only [mayArrive, mayWait]; decide +kernel)

/-- SYNC entries of the three operations whose turn it is; with SKIP, and without. -/
theorem test_sync_entries : ∀ op < 3, ∀ skip < 2, let s := syncing op skip
    ctxLive 5 s = true ∧ unitOf 5 0 s = some 255 ∧ (syncReady e0 5 0 0 [op] s).isSome = true ∧
      (dispAt e0 s).map (fun d => eSkip d.words) = some (decide (skip = 1)) := by decide +kernel

/-- A thread of context 5 that may write the SCRATCH region, one with an operation out, and one of another context. -/
theorem test_arrival_threads : (let s := { setFlds [(MEM_RGN_CFG_VALID 3, 1), (MEM_RGN_CFG_KIND 3, kScratch), (MEM_RGN_BASE_BASE 3, 0x1000), (MEM_RGN_SIZE_SIZE 3, 0x100)]
        (sync bar0 { ready5 with entry := some e0 }) with ctxs := [(5, { bound := [(0, 3)] })] }
      ctxLive 5 s = true ∧ unitOf 5 0 s = some 255 ∧ (thread 0 7 s).state = .ready ∧ (thread 0 7 s).ctx = 5 ∧ (thread 0 7 s).ops = [] ∧
        (thread 0 7 s).entry = some e0 ∧ mayWrite 5 0x1000000 1 s = true ∧ retainHit 0x1000000 1 s = none) ∧
    (thread 0 7 (sync bar0 { ready5 with ops := [1] })).ops ≠ [] ∧
    (let s := setState 6 cxRunning (sync bar0 { ready5 with ctx := 6 })
     (thread 0 7 s).state = .ready ∧ (thread 0 7 s).ctx = 6 ∧ ctxLive 6 s = true ∧ ctxLive 5 s = true) := by decide +kernel

theorem test_barrier_clauses : let b := { bar0 with cur := [0] }
    359 ∈ b.parts ∧ 359 ∉ b.cur ∧ full b.parts (b.cur ++ [359]) = true ∧ b.remote = false ∧ b.nodes = [] ∧ full b.parts b.early = false ∧
      0 ∈ b.cur ∧ 0 ∉ b.early ∧ 0 ∈ { b with early := [0] }.early ∧ 1 ∉ b.parts := by decide

theorem test_syn_errors : rd SYN_ERR (sync bar0 ready5) = 0 ∧ SYN_ERR_INFO ∉ (sync bar0 ready5).caps := by decide +kernel

/-- R317: a participant that arrives twice is held for the next round. -/
theorem test_early : (barUnit 255 (after (.arrive ⟨5, 0⟩ 0 (.thread 7 [])) (sync { bar0 with cur := [0] } ready5))).early = [0] := by decide +kernel

theorem test_barrier_messages : let b := { bar0 with nodes := [0, 127], remote := true, round := 1, last := [(0 * 16 + agentOf (waiterOf (.thread 7 [])), 0)] }
    (find? b.last (0 * 16 + agentOf (waiterOf (.thread 7 [])))).getD b.round < b.round ∧ ¬(find? b.last (359 * 16 + agentOf (waiterOf .self))).getD b.round < b.round ∧ b.nodes ≠ maskList 1 ∧
      b.nodes = maskList (BitVec.ofNat 128 (2 ^ 127 + 1)) ∧ full b.parts b.early = false ∧ genOf b = true ∧
      full b.nodes (addOnce (nodeVec true { b with nodes1 := [0] }) 127) = true ∧ ¬(true = genOf b ∧ full b.nodes (addOnce (nodeVec true b) 127) = true) := by
  decide +kernel

theorem test_watch : let s := sync bar0 ready5
    (thread 0 7 s).state ≠ .idle ∧ lagoonAt (lagoonBase 0 + 0x1FFFF8) = some 0 ∧ (lagoonBase 0 + 0x1FFFF8) % 8 = 0 ∧
      rdNat (lagoonBase 0 + 0x1FFFF8) 8 s = (0 : W64).toNat ∧ lagoonAt 0 = none ∧ boundKind 5 kScratch 0 8 s = false ∧ ctxLive 5 s = true := by
  decide +kernel

theorem test_thread_waits : ∀ th ∈ [{ ready5 with state := .waitMem }, { ready5 with state := .waitMem, pkgFence := true }, ready5,
    { ready5 with ops := [1] }], (thread 0 7 (sync bar0 th)) = th ∧ ctxLive 5 (sync bar0 th) = true ∧ recvReady 5 (sync bar0 th) = false := by
  decide +kernel

/-- Accesses to a word of SCRATCH, to an address that no tier holds, to an atoll that retrains, to a staple under restore, and a load and
a store of a locked output. -/
theorem test_accesses : let s := { setFlds [(MEM_RGN_CFG_VALID 3, 1), (MEM_RGN_CFG_KIND 3, kScratch), (MEM_RGN_BASE_BASE 3, 0x1000), (MEM_RGN_SIZE_SIZE 3, 0x100)]
        (sync bar0 { ready5 with entry := some e0 }) with ctxs := [(5, { bound := [(0, 3)] })] }
    let a : Access := { addr := 0x1000000, len := 8 }
    let far : Access := { addr := 0x7FFFFFFFFFF8, len := 8 }
    accessWaits (some a) s = false ∧ rangeMapped a.addr.toNat a.len s = true ∧ mayRead 5 a.addr.toNat a.len s = true ∧ ctxLive 5 s = true ∧
      readBad (some a) s = [] ∧ readBad (some a) (setMeta 0x1000000 { crcBad := true } s) ≠ [] ∧ ownLoad 0 (some a) = false ∧
      ownLoad 0 (some { addr := BitVec.ofNat 48 (lagoonBase 0 + 8), len := 8 }) = true ∧
      accessWaits (some far) s = false ∧ rangeMapped far.addr.toNat far.len s = false ∧
      accessWaits (some a) (setFld (atollFld 0) 1 s) = true ∧ accessWaits (some a) (setMeta 0x1000000 { restoring := true } s) = true ∧
      (let u := modSpn 3 (fun x => { x with locks := [(e0, 0x40, 64)] }) s
       let b : Access := { addr := BitVec.ofNat 48 (lagoonBase 3 + 0x7C), len := 8 }
       accessWaits (some b) u = true ∧ accessWaits (some { b with store := some [1] }) u = false) ∧
      (thread 0 7 s).state = .ready ∧ (thread 0 7 s).pkgFence = false ∧ (thread 0 7 s).access = none ∧ (thread 0 7 s).walk = none ∧
      (thread 0 7 s).entry = some e0 ∧ mayWrite 5 0x1000000 1 s = true ∧ retainHit 0x1000000 1 s = none ∧ lagoonAt 0x1000000 = none := by
  decide +kernel

/-- A message waits at the consumer index of context 5's ring. -/
def posted : State :=
  (setFlds [(GLD_MSG_RING_VALID 5, 1), (GLD_MSG_RING_ADDR 5, 0x1000), (GLD_MSG_RING_ORDER 5, 1),
    (GLD_MSG_STATUS_HEAD 5, 1)] (sync bar0 ready5))
theorem test_recv : recvReady 5 posted = true ∧ (thread 0 7 posted).state = .ready := by decide +kernel

/-- R68, R129: an access that meets an uncorrectable staple leaves the thread ready, poisons the staple and counts it. -/
theorem test_access_uncorrectable : memUnit 0x1000 = some 0 ∧
    (let t := after (.memoryAccessComplete 0 7 ⟨.uncorrectable 0x1000, none⟩) (sync bar0 ready5)
     (thread 0 7 t).state = .ready ∧ (metaAt 0x1000 t).poison = true ∧ rd (MEM_CNT_UE 0) t = 1 ∧ rd (SPN_CNT_SWITCH 0) t = 1 ∧
       bit (SPN_ERR_STAPLE_CRC 0) t = true) := by decide +kernel

/-! ### Operations and messages -/

/-- Node 5 of a ring of eight, both straits UP, with window 0 of context 5: a page of memory for every operation. -/
def fab : State :=
  { setFlds [(GLD_NODE_VALID, 1), (GLD_NODE_NODE, 5), (GLD_NODE_DX_M1, 7), (GLD_PORT_STATUS_STATE 0, pUp), (GLD_PORT_STATUS_ROLE 0, 0),
      (GLD_PORT_STATUS_STATE 1, pUp), (GLD_PORT_STATUS_ROLE 1, 1), (GLD_WIN_CFG_VALID 0, 1), (GLD_WIN_CFG_PERM 0, 31),
      (GLD_WIN_CFG_CONTEXT 0, 5), (GLD_WIN_BASE_BASE 0, 0x1000), (GLD_WIN_SIZE_SIZE 0, 1)] (setState 5 cxRunning up) with
    gld := { up.gld with keys := [(0, 0xABC)] } }

def hdr (oc : Nat) : ReqHeader :=
  { opcode := BitVec.ofNat 5 oc, tc := 1, order := 0, retx := false, fenced := false, dest := 5, src := 4, window := 0, tag := 9, dir := 0
    offset := 0xFF8, length := 8, pktOff := 0, key := 0xABC, subop := 0, sigOp := if oc = ocPutSignal || oc = ocSignal then 2 else 0
    msgCtx := 5, srcCtx := 3, group := 0, sigOffset := 0, valueA := 7, valueB := 0 }

def packetOf (h : ReqHeader) (bs : List Byte) : Packet := mkPacket h bs

theorem routable_of {n : Nat} {s : State} (h : ∀ tie < 8, (match pathOf (ownPos s) (posOf n) tie s with
    | some x => (outHop (myNode s) n x.1 x.2 0 s).isSome
    | none => false) = true) : routable n s := by
  refine .inr fun tie ht => ?_
  have := h tie ht
  cases hp : pathOf (ownPos s) (posOf n) tie s with
  | none => simp [hp] at this
  | some x => exact ⟨x, rfl, by simpa [hp] using this⟩

/-- A barrier message of another root finds its way to it; a message of an own barrier, and one that goes on by both straits. -/
theorem test_barrier_routes : routable (myNode fab / 512 * 512 + rootOf (maskList 3)) fab ∧ rootOf (maskList 3) ≠ ownPos fab ∧
    (let s := setFld GLD_NODE_NODE 0 fab
     rootOf (maskList 0x23) = ownPos s ∧ treeDirs 0 (maskList 0x23) s = [(0, 0), (0, 1)] ∧ (portOfRole 0 s).isSome = true ∧ (portOfRole 1 s).isSome = true) :=
  ⟨routable_of (by decide +kernel), by decide +kernel, by decide +kernel⟩

/-- The last 8 bytes of the window are inside it (R290); the request passes every check. -/
theorem accepted_of {oc : Nat} {h : ReqHeader} {bs : List Byte} (s : State) (hw : s.spns = [])
    (hd : s.boot.on = true ∧ nodeValid s = true ∧ bit PWR_HAVEN_ACTIVE s = false ∧ h.opcode.toNat = oc ∧
      (if oc = ocMcast then h.src.toNat ≠ myNode s ∧ ownPos s ∈ groupOf h.group.toNat s else h.dest.toNat = myNode s) ∧
      (∀ d ∈ s.gld.history, ¬(d.src = h.src.toNat ∧ d.tag = h.tag.toNat)) ∧
      landing? h.src.toNat h.tag.toNat s = none ∧ windowOk h s = true ∧ h.window.toNat ∉ s.gld.draining ∧
      alignedOk (packetOf h bs) = true ∧
      spilledAt (fld (GLD_WIN_CFG_CONTEXT h.window.toNat) s) (winBase h.window.toNat s + h.offset.toNat) s = false ∧
      countersUsed s < 2048 ∧ packetWaits (packetOf h bs) s = false ∧ (∀ tie < 8, (match pathOf (ownPos s) (posOf h.src.toNat) tie s with
        | some x => (outHop (myNode s) h.src.toNat x.1 x.2 0 s).isSome
        | none => false) = true) ∧ (carries oc = true → h.pktOff = 0 ∧ bs.length = h.length.toNat)) :
    accepted oc (packetOf h bs) s := by
  obtain ⟨a, b, hv, c, d, e, f, g, i, j, k, l, w, r, m⟩ := hd
  exact ⟨a, b, hv, c, d, rfl, e, f, g, i, j, k, l, w, .inr (routable_of r), m, no_windows hw⟩

def eight : List Byte := [1, 2, 3, 4, 5, 6, 7, 8]
theorem test_put : accepted ocPut (packetOf (hdr ocPut) eight) fab := accepted_of fab rfl (by decide +kernel)
theorem test_put_signal : accepted ocPutSignal (packetOf (hdr ocPutSignal) eight) fab := accepted_of fab rfl (by decide +kernel)
theorem test_signal : accepted ocSignal (packetOf (hdr ocSignal) []) fab := accepted_of fab rfl (by decide +kernel)
theorem test_get : accepted ocGet (packetOf (hdr ocGet) []) fab ∧ ∀ q ∈ staplesOf 0x1000FF8 8, stapleOk q fab = true :=
  ⟨accepted_of fab rfl (by decide +kernel), by decide +kernel⟩
theorem test_reduce : accepted ocReduce (packetOf (hdr ocReduce) eight) fab ∧ lagoonAt 0x1000FF8 = none ∧
    ∃ q ∈ staplesOf 0x1000FF8 8, stapleOk q (setMeta 0x1000000 { poison := true } fab) = false :=
  ⟨accepted_of fab rfl (by decide +kernel), by decide +kernel, by decide +kernel⟩
theorem test_reduce_reserved : accepted ocReduce (packetOf { hdr ocReduce with subop := 4 } eight) fab := accepted_of fab rfl (by decide +kernel)
theorem test_atomic : ∀ k < 3, accepted ocAtomic (packetOf { hdr ocAtomic with subop := BitVec.ofNat 4 k } []) fab := by
  intro k hk
  interval_cases k <;> exact accepted_of fab rfl (by decide +kernel)
/-- Group 0 has this package as a member. -/
def fabGroup : State := wr (GLD_MCAST 0 0) 32 fab
theorem test_mcast : accepted ocMcast (packetOf (hdr ocMcast) eight) fabGroup := accepted_of fabGroup rfl (by decide +kernel)

/-- R299: an ATOMIC add returns the old value and leaves the sum. -/
theorem test_atomic_adds : rdNat 0x1000FF8 8 (after (.atomic (packetOf (hdr ocAtomic) []) false) (wrNat 0x1000FF8 8 (2 ^ 64 - 1) fab)) = 6 := by
  decide +kernel

/-- A PUT that a SEND carries from the other domain, where the pair session with its source opens it. -/
theorem test_carried (h : ∀ a b c, Config.pairOpen a b c = some c) :
    let s : State := { fab with sec := { fab.sec with pairs := [(hdr ocPut).src.toNat] } }
    openPayload (hdr ocPut) eight s = some eight ∧ accepted ocPut (mkPacket (hdr ocPut) eight) s :=
  ⟨by simp [openPayload, h], accepted_of _ rfl (by decide +kernel)⟩

/-- A remote node, with which a pair session may be established, and whose packets are discarded before. -/
theorem test_pairs : sameDomain 0x204 fab = false ∧ isNode 0x204 = true ∧ fab.sec.pairs.length < 128 ∧ 0x204 ∉ fab.sec.pairs ∧
    openPayload { hdr ocSend with src := 0x204 } eight fab = none := by decide +kernel

/-- A bad CRC, a window past its end, and a duplicate. -/
theorem test_target_refuses : fab.boot.on = true ∧ nodeValid fab = true ∧ (hdr ocPut).dest.toNat = myNode fab ∧
    { packetOf (hdr ocPut) eight with crc := 0 }.crc ≠ packetCrc (hdr ocPut) eight ∧
    ¬windowAdmits { hdr ocPut with offset := 0xFF9 } fab ∧ ¬windowAdmits { hdr ocGet with key := 1 } fab ∧
    ownPos fabGroup ∈ groupOf (hdr ocMcast).group.toNat fabGroup ∧ (hdr ocMcast).src.toNat ≠ myNode fabGroup ∧
    (∃ d ∈ { fab with gld := { fab.gld with history := [{ src := 4, tag := 9, value := 0 }] } }.gld.history,
      d.src = (hdr ocPut).src.toNat ∧ d.tag = (hdr ocPut).tag.toNat) := by
  unfold windowAdmits; decide +kernel

/-- The ring of context 5 has two slots of a page: one is free, and then none. -/
def ring (head : Nat) : State :=
  setFlds [(GLD_MSG_RING_VALID 5, 1), (GLD_MSG_RING_ADDR 5, 0x2000), (GLD_MSG_RING_ORDER 5, 1), (GLD_MSG_STATUS_HEAD 5, head)] fab
theorem test_send : let p := packetOf (hdr ocSend) eight
    p.hdr.opcode.toNat = ocSend ∧ p.hdr.dest.toNat = myNode (ring 1) ∧ p.crc = packetCrc p.hdr p.payload ∧ (ring 1).gld.history = [] ∧
      p.hdr.valueA.getLsbD 63 = false ∧ bit (GLD_MSG_RING_VALID 5) (ring 1) = true ∧ p.hdr.length.toNat ≤ slotBytes 5 (ring 1) - 64 ∧
      alignedOk p = true ∧ memWaits true (slotAddr 5 1 (ring 1)) (slotBytes 5 (ring 1)) (ring 1) = false ∧ find? (ring 1).gld.sends (sendKey 5 4 9) = none ∧ landing? 4 9 (ring 1) = none ∧
      slotsUsed 5 (ring 1) < ringSlots 5 (ring 1) ∧ sameDomain 4 (ring 1) = true ∧ (ring 1).spns = [] ∧ p.hdr.pktOff = 0 ∧ p.payload.length = p.hdr.length.toNat ∧
      ringSlots 5 (ring 2) ≤ slotsUsed 5 (ring 2) ∧ bit (GLD_MSG_RING_VALID 5) fab = false := by decide +kernel

/-- An operation to a reachable node and one to a node that is not. -/
def ops (reach : Bool) : State := setFld ⟨GLD_REACH 0, 4, 4⟩ reach.toNat fab
def opTo4 : FabricOp := { spindle := none, thread := 0, ctx := 5, hdr := { hdr ocPut with dest := 4, src := 0 }, payload := eight }
theorem test_issue : (ops true).gld.ops.length < 4096 ∧ opTo4.hdr.opcode.toNat ≠ ocMcast ∧ ctxLive 5 (ops true) = true ∧
    issueVerdict opTo4 (ops true) = (none, false) ∧ issueVerdict opTo4 (ops false) = (some stTargetDead, false) ∧
    (thread 0 7 (sync bar0 ready5)).state = .ready := by decide +kernel
/-- A SEND to a remote node, with port 6 UP. -/
theorem test_issue_far : let s := setFld (GLD_PORT_STATUS_STATE 6) pUp (ops true)
    let o : FabricOp := { opTo4 with hdr := { hdr ocSend with dest := 0x204, src := 0 } }
    issueVerdict o s = (none, false) ∧ sameDomain 0x204 s = false ∧ routable 0x204 s ∧ ctxLive 5 s = true ∧ s.gld.ops.length < 4096 ∧
      channelsIdle s :=
  ⟨by decide +kernel, by decide +kernel, .inl (by decide +kernel), by decide +kernel, by decide +kernel, channels_idle rfl rfl⟩

/-- Operation 9 to node 4 is outstanding. -/
def outstanding (oc : Nat) : State :=
  { fab with gld := { fab.gld with ops := [(9, { hdr := { hdr oc with dest := 4, src := 5 }, payload := eight, owner := .thread 0 7, ctx := 5 })] } }
def answer4 (oc st : Nat) (bs : List Byte) : RespPacket :=
  let r : RespPacket := { opcode := BitVec.ofNat 5 oc, tc := 0, status := BitVec.ofNat 4 st, dest := 5, src := 4, tag := 9, nakReason := 0
                          pktOff := 0, value := 3, data := bs, crc := 0 }
  { r with crc := respCrc r }
theorem test_responses : ∀ oc ∈ [ocPut, ocGet, ocAtomic], let s := outstanding oc
    s.boot.on = true ∧ nodeValid s = true ∧ (answer4 ocAck 0 []).dest.toNat = myNode s ∧ respOk (answer4 ocAck 0 []) = true ∧
      (op? 9 s).isSome ∧ noLeave 9 s ∧ (op? 9 s).map (fun o => opOffs o.hdr) = some [0] ∧
      0 < fld GLD_TIMEOUT_E2E_RETRY s := by unfold noLeave; decide +kernel

/-- Node 4 answers and is answered; the operations may go out again, and nothing else waits. -/
theorem test_fabric_paths : routable 4 fab ∧ routable 4 (ops true) ∧ channelsIdle (ops true) ∧ channelsIdle (ops false) ∧
    ∀ oc, channelsIdle (outstanding oc) ∧ (outstanding oc).gld.stalled = [] ∧ (outstanding oc).gld.waiting = [] :=
  ⟨routable_of (by decide +kernel), routable_of (by decide +kernel), channels_idle rfl rfl, channels_idle rfl rfl, fun _ => ⟨channels_idle rfl rfl, rfl, rfl⟩⟩
theorem test_again : ∀ oc ∈ [ocPut, ocAtomic], let s := outstanding oc
    let o : FabOp := { hdr := { hdr oc with dest := 4, src := 5 }, payload := eight, owner := .thread 0 7, ctx := 5 }
    op? 9 s = some o ∧ leads o s ∧ leads { o with way := true, hdr := { o.hdr with dest := 0x204 } } (setFld (GLD_PORT_STATUS_STATE 6) pUp s) ∧
      lookup o.retries 0 0 < fld GLD_TIMEOUT_E2E_RETRY s ∧ fld GLD_TIMEOUT_E2E_RETRY s ≤ lookup { o with retries := [(0, 255)] }.retries 0 0 ∧
      (4, 0) ∈ addOnce o.acks (4, 0) := by
  unfold leads; decide +kernel
/-- A thread waits for the operation, and at a FENCE for the last of its operations. -/
theorem test_waiters : ∀ th ∈ [{ ready5 with state := .waitRemote }, { ready5 with state := .waitRemote, fence := true, ops := [9] }],
    (thread 0 7 (sync bar0 th)).state = .waitRemote ∧ (thread 0 7 (sync bar0 th)).recv = false ∧ (thread 0 7 (sync bar0 th)).arriving = none ∧
      removeOnce (thread 0 7 (sync bar0 th)).ops 9 = [] := by decide +kernel

/-- R294: the DATA of a GET completes it. -/
theorem test_get_completes : op? 9 (after (.data (answer4 ocData 0 eight)) (outstanding ocGet)) = none := by decide +kernel

/-! ### Ports, links, routes -/

/-- Strait 5 in a state. -/
def link (st : Nat) : State :=
  setFlds [(GLD_CTRL_EN, 1), (GLD_PORT_STATUS_STATE 5, st), (GLD_PORT_STATUS_ROLE 5, 7)]
    { fab with pins := { fab.pins with mated := 0x7F }, boot := { fab.boot with trained := [5] } }
theorem test_ports : portHere (link pUp) 5 = true ∧ (link pUp).boot.retrainQ = [] ∧ trainedPort 5 (link pIdentify) ∧
    portState 5 (link pTraining) ≠ pDown ∧ bit (GLD_PORT_LANES_REPAIRED 5) (link pUp) = false ∧
    bit (GLD_PORT_LANES_REPAIRED 5) (setFld (GLD_PORT_LANES_REPAIRED 5) 1 (link pUp)) = true ∧
    bit BRG_RETRAIN_STATUS_PORT_BUSY (link pUp) = false ∧ mayTrain 5 (link pDown) = true ∧ portState 5 (link pDown) = pDown ∧
    stLinkTrain ≤ stage (link pDown) := by unfold trainedPort; decide +kernel

theorem test_training : portState 5 (link pTraining) = pTraining ∧ (port 5 (link pTraining)).retraining = false ∧
    5 ∈ (link pTraining).boot.trained ∧ stage (at_ stLinkTrain) < stReady ∧
    portBusy 5 (after (.retrainRequest 0x80000005) (link pUp)) = true := by decide +kernel

theorem test_codewords : ((0 : BitVec 9).toNat = (port 5 (link pUp)).rxNext) ∧ trainedPort 5 (link pUp) ∧
    (port 5 (link pUp)).rxFails + 1 < fld GLD_TIMEOUT_LINK_RETRY (link pUp) ∧ (port 5 (link pUp)).queue = [] ∧
    (let s := setPort 5 { replay := [{ seq := 3, vc := 0, msg := .mctp (.digestPeer 0), final := true }] } (link pUp)
     ((port 5 s).replay.filter fun w => w.seq == 3 || seqAhead w.seq 3).length = 1 ∧ (port 5 s).fails + 1 < fld GLD_TIMEOUT_LINK_RETRY s) := by unfold trainedPort; decide +kernel

theorem test_link_sessions : linkSession 5 (link pUp) < lsSecure ∧ (link pUp).fuse.identity.toNat < (1 : W64).toNat ∧ linkSession 5 (setFld (SEC_LINK_STATE 5) lsSecure (link pUp)) = lsSecure ∧
    bit SEC_CTRL_PEER_MATCH (setFld SEC_CTRL_PEER_MATCH 1 (link pUp)) = true := by decide +kernel

/-- The checks of a link session: the fused root is that of digest 0. -/
theorem test_link_checks : let s := setFld SEC_CTRL_PEER_MATCH 1 (link pUp)
    chainOk { valid := true, root := 0 } s = true ∧ chainOk { valid := true, root := 1 } s = false ∧ chainOk { valid := false, root := 0 } s = false ∧
      measOk { firmware := s.boot.fwDigest, slots := Config.sha384 (slotTable s) } s = true ∧
      measOk { firmware := s.boot.fwDigest + 1, slots := 0 } s = false :=
  ⟨by decide +kernel, by decide +kernel, by decide +kernel, by simp [measOk], by decide +kernel⟩

theorem test_ports_idle : ∀ k, channelsIdle (link k) ∧ (link k).boot.retrainQ = [] := fun _ => ⟨channels_idle rfl rfl, rfl⟩
theorem test_notices : (3, 1) ∉ up.gld.downLinks ∧ (3, 1) ∈ { up.gld with downLinks := [(3, 1)] }.downLinks ∧ up.gld.ops = [] ∧ channelsIdle up ∧ portState 0 fab = pUp :=
  ⟨by decide +kernel, by decide +kernel, rfl, channels_idle rfl rfl, by decide +kernel⟩

/-! ### Package memory -/

theorem test_drain : let s := { up with gld := { up.gld with draining := [0, 4095] } }
    (4095 : BitVec 12).toNat ∈ s.gld.draining ∧ bit (GLD_WIN_CFG_VALID 0) (after (.windowDrainDone 0) s) = false ∧ up.boot.on = true := by
  decide +kernel

/-- HOME region 1 in the shoal and WEIGHT region 255 of a page in atoll 0, as the only pair of the list. -/
def pair (f : List (FRef × Nat)) : State :=
  setFlds ([(MEM_RGN_CFG_VALID 1, 1), (MEM_RGN_CFG_KIND 1, kHome), (MEM_RGN_BASE_BASE 1, 0x10000000), (MEM_RGN_SIZE_SIZE 1, 1),
    (MEM_RGN_CFG_VALID 255, 1), (MEM_RGN_CFG_KIND 255, kWeight), (MEM_RGN_BASE_BASE 255, 0x1000), (MEM_RGN_SIZE_SIZE 255, 1),
    (MEM_RGN_CFG_HOME 255, 1), (MEM_SWAP_PAIR_SRC 0, 1), (MEM_SWAP_PAIR_DST 0, 255), (MEM_SWAP_CTRL_COUNT, 1)] ++ f) up
theorem test_swap_start : let s := pair []
    let v : W32 := 0x101
    Answers MEM_SWAP_CTRL s ∧ v.getLsbD 0 = true ∧ (written MEM_SWAP_CTRL (v.setWidth 64) s).2 = false ∧
      swapPairs (wr MEM_SWAP_CTRL (written MEM_SWAP_CTRL (v.setWidth 64) s).1 s) = [(1, 255)] ∧ swapCheck (1, 255) s = 0 ∧
      swapCheck (255, 1) s = 3 ∧ swapCheck (1, 255) (pair [(MEM_RGN_CFG_BINDS 255, 1)]) = 1 ∧ holdsLeave .swap s = false ∧
      waitsLeave .swap s = false ∧ belowFloor s = false ∧ belowFloor (pair [(PWR_CAP_HOST_WATTS, 1)]) = true := by
  unfold Answers; decide +kernel

def copying : State :=
  { pair [(MEM_SWAP_STATUS_BUSY, 1)] with
    swap := { active := true, pairs := [(1, 255)], next := 0, copying := true }, pwr := { up.pwr with held := [{ kind := .swap, peak := 0 }] } }
theorem test_swap_copy : Canon copying ∧ copying.swap.copying = true ∧ leaveActive .swap copying = true ∧ copying.swap.pairs[copying.swap.next]? = some (1, 255) ∧
    firstBad (region 1 copying).base (region 1 copying).size copying = none ∧ (memUnit (region 1 copying).base).isSome ∧
    0 < (region 1 copying).size := by unfold Canon; decide +kernel

/-- A poisoned staple of a sealed WEIGHT region, with its home. -/
def poisoned : State := setMeta 0x1000000 { poison := true } (pair [(MEM_RGN_CFG_SEALED 255, 1), (MEM_CTRL_ATOLL_SCRUB, 1), (MEM_CTRL_SHOAL_SCRUB, 1)])
theorem test_restore : Canon poisoned ∧ (metaAt 0x1000000 poisoned).poison = true ∧ regionAt 0x1000000 poisoned = some 255 ∧
    (region 1 poisoned).kind = kHome ∧ stapleOk 0x010000000000 poisoned = true ∧
    stapleOk 0x010000000000 (setMeta 0x010000000000 { poison := true } poisoned) = false ∧
    (metaAt 0x1000000 (after (.stapleRestore 0x1000123 true) poisoned)).poison = false := by unfold Canon; decide +kernel
theorem test_scrub : memUnit 0x1000000 = some 0 ∧ memUnit 0x010000000000 = some 8 ∧ unitUp 0x1000000 poisoned = true ∧
    bit MEM_CTRL_ATOLL_SCRUB poisoned = true ∧ bit MEM_CTRL_SHOAL_SCRUB poisoned = true ∧ bit PWR_HAVEN_ACTIVE poisoned = false := by
  decide +kernel

theorem test_digest : let s := { poisoned with digestPass := { poisoned.digestPass with active := true, covered := [255] }, digests := [(255, 7)]
                                               ctxs := [(5, { bound := [(31, 255)] })] }
    s.digestPass.active = true ∧ s.digestPass.covered = [255] ∧ find? s.digests 255 = some 7 ∧ (region 255 s).sealedBit = true ∧
      find? (ctx 5 s).bound 31 = some 255 ∧ poisoned.digestPass.active = false := by decide +kernel

theorem test_atoll : atollHere up 7 = true ∧ atollFailed 7 up = false ∧ shoalFailed 3 up = false ∧ up.boot.retrainQ = [] ∧
    atollFailed 7 (after (.atollFailure 7) up) = true := by decide +kernel
theorem test_atoll_retrain : let s := setFlds [(BRG_RETRAIN_STATUS_ATOLL_BUSY, 1), (BRG_RETRAIN_STATUS_ATOLL, 7)] up
    bit BRG_RETRAIN_STATUS_ATOLL_BUSY s = true ∧ s.boot.atollRetry = false ∧ { s.boot with atollRetry := true }.atollRetry = true ∧
      atollHere s (fld BRG_RETRAIN_STATUS_ATOLL s) = true := by decide +kernel

/-! ### A step of context 5, ferry transfers -/

/-- Descriptor words for one run of 16 bytes from 0x1000000 to 0x2000008, with a trigger; SKIP is bit 27 of word 0. -/
def copy16 (skip trigger count : Nat) : List W32 :=
  (BitVec.ofNat 32 (kFerry * 2 ^ 28 + skip * 2 ^ 27) :: BitVec.ofNat 32 (trigger * 2 ^ 24) :: [0x1000000, 0, 0x2000008, 0, BitVec.ofNat 32 (trigger * 2 ^ 24 + 16)]) ++
    [BitVec.ofNat 32 count, 0, 0, 1, 0, 0, 1, 0, 0]

/-- Channel 7 of context 5, index 0. -/
def chan7 (skip trigger : Nat) (x : Channel) : State := { lab [copy16 skip trigger 1] with chans := [(7, { x with owner := some (5, 0) })] }
theorem test_ferry_entries : ∀ f ∈ [(0, 0), (0, 1), (1, 0)], ∃ d, ready e0 kFerry (chan7 f.1 f.2 {}) = some d ∧
    let s := chan7 f.1 f.2 {}
    let fd : FryDesc := { words := d.words, src := .entry e0 }
    chanAt 5 ((d.words.getD 1 0).toNat / 2 ^ 26) s = some 7 ∧ (d.words.getD 0 0).getLsbD 27 = decide (f.1 = 1) ∧ emptyXfer fd = false ∧
      fTrigger fd = f.2 ∧ (timerLate 7 fd s).1 = false ∧ fArrive fd = false ∧ isRemote fd = false ∧ chanOut 7 s = false ∧ (chan 7 s).state = .idle := by
  intro f hf
  simp only [List.mem_cons, List.not_mem_nil, or_false] at hf
  rcases hf with rfl | rfl | rfl
  · exact ⟨{ words := copy16 0 0 1 }, by decide +kernel⟩
  · exact ⟨{ words := copy16 0 1 1 }, by decide +kernel⟩
  · exact ⟨{ words := copy16 1 0 1 }, by decide +kernel⟩
theorem test_ferry_idle : channelsIdle (chan7 0 0 {}) ∧ (chan 7 (chan7 0 0 {})).shadow = none :=
  ⟨⟨fun x hx => by simp [chan7] at hx; rw [hx], rfl⟩, rfl⟩

/-- A driver channel with the same descriptor. -/
def driver (x : Channel) : State := { setFld (FRY_CH_CFG_DRIVER 7) 1 (pair [(MEM_RGN_CFG_KIND 1, kStage), (MEM_RGN_BASE_BASE 1, 0x2000),
  (MEM_RGN_CFG_KIND 255, kStage)]) with chans := [(7, x)] }
def loaded (count : Nat) : Channel := { words := (List.range 16).zip (copy16 0 0 count) }
theorem only_channel {x : Channel} {s : State} (h : s.chans = [(7, x)]) (w : s.gld.waiting = []) : onlyChannel 7 s :=
  ⟨fun y hy _ => by rw [h] at hy; simp only [List.mem_singleton] at hy; subst hy; simp [chan, h, lookup], w⟩

theorem test_ferry_load : let s := driver (loaded 1)
    let fd := shadowDesc 7 s
    Answers (FRY_CH_CMD 7) s ∧ isDriver 7 s = true ∧ descOk true fd = true ∧ driverOk fd s = true ∧ fTrigger fd = 0 ∧ emptyXfer fd = false ∧
      (chan 7 s).shadow = none ∧ driverOk (shadowDesc 7 { up with chans := s.chans }) { up with chans := s.chans } = false := by
  unfold Answers; decide +kernel

/-- A transfer of one run in the package by a driver channel, from host memory, and to it. -/
def moving (src dst : Nat) : FryDesc :=
  { words := [0, 0, BitVec.ofNat 32 src, BitVec.ofNat 32 (src / 2 ^ 32), BitVec.ofNat 32 dst, BitVec.ofNat 32 (dst / 2 ^ 32), 16, 1, 0, 0, 1, 0, 0, 1, 0, 0]
    src := .driver }
def running (d : FryDesc) : State := driver { state := .running, active := some d }
theorem test_transfers : ∀ d ∈ [moving 0x1000000 0x2000008, moving (2 * 2 ^ 62 + 0x30) 0x2000008, moving 0x1000000 (2 * 2 ^ 62 + 0x30)], ∃ r, let s := running d
      (chan 7 s).state = .running ∧ (chan 7 s).active = some d ∧ (chan 7 s).shadow = none ∧ ownerCtx 7 s = none ∧ fArrive d = false ∧
        isRemote d = false ∧ xferWaits 7 d s = false ∧ runsOf d = [r] ∧ fRun d = 16 ∧ overlaps d [r] = false ∧ hostAllowed s = true ∧
        (spaceOf (fSrc d) = 0 → ferryMay 7 false r.src 16 s = true ∧ failParts r.src.toNat 16 [] s = []) ∧
        (spaceOf (fDst d) = 0 → ferryMay 7 true r.dst 16 s = true) := by
  intro d hd
  simp only [List.mem_cons, List.not_mem_nil, or_false] at hd
  rcases hd with rfl | rfl | rfl
  · exact ⟨⟨0x1000000, 0x2000008⟩, by decide +kernel⟩
  · exact ⟨⟨0x30, 0x2000008⟩, by decide +kernel⟩
  · exact ⟨⟨0x1000000, 0x30⟩, by decide +kernel⟩
theorem runs_of {d : FryDesc} {x : Channel} {s : State} (h : s.chans = [(7, x)]) (w : s.gld.waiting = []) (n : s.spns = [])
    (hx : x.state = .running ∧ x.active = some d ∧ x.shadow = none) (hd : d.src = .driver) (ha : fArrive d = false) (ho : ownerCtx 7 s = none)
    (hb : driverBarred d s = false) (he : emptyXfer d = false) : transferRuns 7 d s := by
  have hc : chan 7 s = x := by simp [chan, h, lookup]
  refine ⟨by rw [hc]; exact hx.1, by rw [hc]; exact hx.2.1, by simp [hd], by simp [hc, hx.2.2], only_channel h w, no_windows n, by simp [chanOut, ho], ha, hb, he⟩
theorem test_transfer_runs : transferRuns 7 (moving 0x1000000 0x2000008) (running (moving 0x1000000 0x2000008)) :=
  runs_of rfl rfl rfl ⟨rfl, rfl, rfl⟩ rfl (by decide +kernel) (by decide +kernel) (by decide +kernel) (by decide +kernel)

/-- In the ring of eight, with node 4 within reach: a PUT to it and a GET from it, which one operation each performs. -/
def far (s : State) : State :=
  setFlds [(GLD_NODE_VALID, 1), (GLD_NODE_NODE, 5), (GLD_NODE_DX_M1, 7), (GLD_PORT_STATUS_STATE 0, pUp), (GLD_PORT_STATUS_ROLE 0, 0),
    (GLD_PORT_STATUS_STATE 1, pUp), (GLD_PORT_STATUS_ROLE 1, 1), (⟨GLD_REACH 0, 4, 4⟩, 1)] s
def node4 : Nat := 2 ^ 62 + 4 * 2 ^ 52 + 0x30
def putting : FryDesc := moving 0x1000000 node4
def getting : FryDesc := moving node4 0x2000008
def farRun (d : FryDesc) (ops : List (Nat × FabOp)) : State :=
  { far (driver { state := .running, active := some d, next := 1 }) with gld := { up.gld with ops := ops } }
def ferryGetOp : FabOp := { hdr := { hdr ocGet with dest := 4, src := 5, tc := 3, length := 16 }, payload := [], owner := .ferry 7 0, ctx := 64 }
theorem test_remote_runs : (∀ ops, ops = [] ∨ ops = [(9, ferryGetOp)] → transferRuns 7 getting (farRun getting ops)) ∧
    isRemote getting = true ∧ hostBarred getting (farRun getting []) = false ∧ xferWaits 7 getting (farRun getting []) = false ∧
    remoteDone 7 getting (farRun getting []) = true ∧ pieceCount getting = 1 ∧ remoteDone 7 getting (farRun getting [(9, ferryGetOp)]) = false := by
  refine ⟨fun ops h => ?_, by decide +kernel⟩
  rcases h with rfl | rfl <;>
    exact runs_of rfl rfl rfl ⟨rfl, rfl, rfl⟩ rfl (by decide +kernel) (by decide +kernel) (by decide +kernel) (by decide +kernel)
theorem test_remote_data : let s := farRun getting [(9, ferryGetOp)]
    let r := answer4 ocData 0 (eight ++ eight)
    s.boot.on = true ∧ nodeValid s = true ∧ r.dest.toNat = myNode s ∧ respOk r = true ∧ op? 9 s = some ferryGetOp ∧ r.src = ferryGetOp.hdr.dest ∧
      opOffs ferryGetOp.hdr = [r.pktOff.toNat] ∧ noLeave 9 s ∧ s.gld.stalled = [] ∧ spaceOf (fDst getting) = 0 ∧
      overlaps getting (runsOf getting) = false ∧ 0 ≤ (pieceOf getting 0).1.dst := by unfold noLeave; decide +kernel

/-- The driver's channel may load the GET; a FERRY entry of context 5 may put bytes of its SCRATCH region. -/
def farLoad : State := far (driver { words := (List.range 16).zip getting.words })
def putWords : List W32 := BitVec.ofNat 32 (kFerry * 2 ^ 28) :: putting.words.drop 1
def farEntry : State :=
  let s := far { setFlds [(MEM_RGN_CFG_VALID 3, 1), (MEM_RGN_CFG_KIND 3, kScratch), (MEM_RGN_BASE_BASE 3, 0x1000), (MEM_RGN_SIZE_SIZE 3, 0x100)] (lab [putWords]) with
    chans := [(7, { owner := some (5, 0) })] }
  { s with ctxs := s.ctxs.map fun x => (x.1, { x.2 with bound := [(0, 3)] }) }
/-- The same PUT, running, its operation completed. -/
def putFerry : FryDesc := { words := putWords, src := .entry e0 }
def farPut : State := { farEntry with chans := [(7, { owner := some (5, 0), state := .running, active := some putFerry, next := 1 })] }
theorem test_put_runs : transferRuns 7 putFerry farPut ∧ isRemote putFerry = true ∧ hostBarred putFerry farPut = false ∧
    xferWaits 7 putFerry farPut = false ∧ remoteDone 7 putFerry farPut = true :=
  ⟨⟨rfl, rfl, by simp [putFerry], by simp [farPut, chan, lookup], only_channel rfl rfl, no_windows rfl, by decide +kernel⟩, by decide +kernel⟩
theorem test_remote_ready : remoteReady 7 (shadowDesc 7 farLoad) (runAt (shadowDesc 7 farLoad) 0) farLoad ∧
    remoteReady 7 { words := putWords, src := .entry e0 } (runAt { words := putWords, src := .entry e0 } 0) farEntry := by
  refine ⟨⟨by decide +kernel, by decide +kernel, by decide +kernel, by decide +kernel, by decide +kernel, by decide +kernel, by decide +kernel,
      by decide +kernel, by decide +kernel, by decide +kernel, by decide +kernel, by decide +kernel, .inr (routable_of (by decide +kernel)),
      by decide +kernel, by decide +kernel⟩,
    ⟨by decide +kernel, by decide +kernel, by decide +kernel, by decide +kernel, by decide +kernel, by decide +kernel, by decide +kernel,
      by decide +kernel, by decide +kernel, by decide +kernel, by decide +kernel, by decide +kernel, .inr (routable_of (by decide +kernel)),
      by decide +kernel, by decide +kernel⟩⟩
theorem test_remote_accepted : descOk true (shadowDesc 7 farLoad) = true ∧ driverOk (shadowDesc 7 farLoad) farLoad = true ∧ Answers (FRY_CH_CMD 7) farLoad ∧
    (ready e0 kFerry farEntry).map (·.words) = some putWords ∧ chanAt 5 ((putWords.getD 1 0).toNat / 2 ^ 26) farEntry = some 7 := by
  unfold Answers; decide +kernel

/-- R334: sixteen bytes copied. -/
theorem test_transfer_copies : rdNat 0x2000008 8 (after (.transferComplete 7 [] 0 {}) (wrNat 0x1000000 8 0x1122334455667788
    (running (moving 0x1000000 0x2000008)))) = 0x1122334455667788 := by decide +kernel

/-- The channel's commands. -/
theorem test_ferry_commands : let d := moving 0x1000000 0x2000008
    (chan 7 (driver { state := .halted, active := some d })).state = .halted ∧ emptyXfer d = false ∧
      (chan 7 (driver { state := .aborted })).shadow = none ∧
      ctxLive 5 (chan7 0 0 { state := .halted }) = true ∧ (chan 7 (chan7 0 0 { state := .halted })).owner = some (5, 0) ∧
      fTrigger { d with words := copy16 0 1 1 } = 1 ∧ (copy16 0 1 1) ≠ [] := by decide +kernel

/-- R342: the first error response is retried; the one after three retries halts the channel. -/
theorem test_bus_error : let d := moving 0x1000000 0x2000008
    let s := running d
    let u := { s with chans := [(7, { state := .running, active := some d, tries := some (0, 3) })] }
    runIndex d 0 0 0 = 0 ∧ fld (FRY_CH_CFG_RETRY 7) s = 3 ∧ (chan 7 (after (.busError 7 0 0 0) s)).tries = some (0, 1) ∧
      (chan 7 (after (.busError 7 0 0 0) u)).state = .halted := by decide +kernel

/-! ### KV pages -/

def kd : KvDesc := { fmt := 8, headDim := 64, heads := 1, cls := 0, layers := 1, atolls := [0, 1], window := 0, sink := 0 }
def bob : Bobbin := { atoll := 0, frame := 0, page := 7, state := .flushing, basePage := 0, fill := 256 }
def open1 : Bobbin := { bob with page := 8, state := .opened, basePage := 1, fill := 64, carry := some (0, 0, 64) }

/-- Context 5 with KV regions of 256 staples in atolls 0 and 1, pages of 16 staples, and sequence 4 at head granule 3. -/
def kvs (bobs : List Bobbin) : State :=
  let s := setFlds ((List.range 2).flatMap (fun a => [(MEM_RGN_CFG_VALID (8 + a), 1), (MEM_RGN_CFG_KIND (8 + a), kKv),
      (MEM_RGN_BASE_BASE (8 + a), a * (atollSize / 4096) + 0x1000), (MEM_RGN_SIZE_SIZE (8 + a), 256), (KV_POOL_PAGES a 0, 4), (KV_POOL_BOBBINS a 0, 4)]) ++
    [(KV_CLASS_PAGE_STAPLES 0, 16), (KV_CLASS_BOBBIN_STAPLES 0, 20), (KV_SHARD_CMD0_CONTEXT, 5), (KV_SHARD_CMD0_PAGES, 2), (KV_LEAVES_COUNT, 8)]) (lab [])
  let c := ctx 5 s
  let d : Dir := { ctx := 5, atolls := [0, 1], pages := 4, skein := 4, bobbins := bobs, reserved := [(1, 0, 2)] }
  { s with
    ctxs := [(5, { c with weave := { c.weave with kv := some kd }
                          step := some { batch := [{ skein := 4, prefill := true, row := 0, rows := 256, base := 256, frames := [(1, 1, 3)] }] } })]
    skeins := [(4, { state := .prefill, ctx := 5, dir := 3 })]
    kv := { heads := { next := 4, limit := 9 }, bobs := [(0, { limit := 4 }), (4, { limit := 4 })], pages := [(0, { next := 2, limit := 4 }), (4, { next := 2, limit := 4 })], dirs := [(3, d)]
            cfg := poolRegs.map fun o => (o, rd o s) } }

theorem test_kv_build : Answers KV_CTRL (kvs []) ∧ anyCtx (kvs []) = true ∧ anyCtx up = false ∧ anyCtx (setState 5 cxFree (kvs [])) = false ∧
    (let t := after (.build 1) (setState 5 cxFree (kvs []))
     (buildAtoll 0 t).1 = true ∧ pageStaples 0 t ≠ 0) ∧ atollHere (kvs []) 0 = true ∧ { up with kv := { up.kv with building := true } }.kv.building = true := by
  unfold Answers; decide +kernel
theorem test_shards : Answers KV_SHARD_CMD2 (kvs []) ∧ (shardMake (kvs [])).1 = 0 ∧ (shardMake up).1 ≠ 0 := by unfold Answers; decide +kernel
theorem test_flush : flushingBob (dir 3 (kvs [bob, open1])) = some bob ∧ (ctx 5 (kvs [bob, open1])).weave.kv = some kd ∧
    (dir 3 (kvs [bob, open1])).bobbins.find? (fun b => !b.dropped && b.carry.isSome) = some open1 := by decide +kernel
theorem test_pages : let s := kvs []
    let d := dir (sk 4 s).dir s
    ∃ st b, stepOf (sk 4 s).ctx s = some st ∧ (st.batch.find? fun b => b.skein == 4 && b.prefill) = some b ∧ d.firstPage ≤ 1 ∧
      (b.frames.find? fun f => f.1 == 1 - d.firstPage) = some (1, 1, 3) ∧ find? d.reserved 1 = some (0, 2) ∧
      (let d9 := { d with firstPage := 9 }
       1 < d9.firstPage ∧ 256 * 1 < b.base + b.rows ∧ b.base < 256 * 1 + 256) :=
  ⟨_, _, rfl, rfl, by decide +kernel⟩
theorem test_prefill_bobbin : let s := kvs [{ open1 with basePage := 2 }]
    let d := dir (sk 4 s).dir s
    d.firstPage ≤ 2 ∧ openBob d = some { open1 with basePage := 2 } ∧ (ctx d.ctx s).weave.kv = some kd ∧
      (∃ st b, stepOf (sk 4 s).ctx s = some st ∧ (st.batch.find? fun b => b.skein == 4 && b.prefill) = some b ∧
        (b.frames.find? fun f => f.1 == 2 - d.firstPage) = none) := ⟨by decide +kernel, by decide +kernel, by decide +kernel, _, _, rfl, rfl, by decide +kernel⟩
theorem test_leaf_repair : let s := kvs []
    let s := { s with kv := { s.kv with dirs := s.kv.dirs.map fun x => (x.1, { x.2 with leaves := [6] }) } }
    let s := setMeta (leafStaple 1 6 s) { poison := true } s
    0 < (dir 3 s).leaves.length ∧ stapleOk (leafStaple 1 ((dir 3 s).leaves.getD 0 0) s) s = false ∧
      stapleOk (leafStaple 0 ((dir 3 s).leaves.getD 0 0) s) s = true := by decide +kernel
theorem test_directory_repair : let s := setMeta (headStaple 1 3) { poison := true } (kvs [])
    (find? s.kv.dirs 3).isSome ∧ stapleOk (headStaple 1 3) s = false ∧ stapleOk (headStaple 0 3) s = true ∧
      stapleOk (headStaple 0 3) (setMeta (headStaple 0 3) { poison := true } s) = false ∧ (dir 3 s).atolls = [0, 1] ∧
      skLive (sk 4 s) = true := by decide +kernel

/-! ### Queues -/

/-- Queue 4095 of context 5 with one command rung; skein 4 in a state, of generation 9; context 5 has 8 skeins. -/
def queued (st : SkState) (fs : List (FRef × Nat)) : State :=
  { setFlds ([(SKN_QCFG_CTL_EN 4095, 1), (SKN_QCFG_CTL_CONTEXT 4095, 5), (SKN_Q_DOORBELL_TAIL 4095, 1), (SKN_CTX_RANGE_COUNT 5, 8)] ++ fs) (kvs []) with
    skeins := [(4, { state := st, gen := 9, ctx := 5, dir := 3, left := true, recorded := true })] }
/-- A command for skein 4 of generation 9. -/
def cmd (op w2 : Nat) : CmdWords :=
  ([op * 2 ^ 24 + 4, 9 * 2 ^ 16, w2, 0, 2, 16] ++ List.replicate 10 0).map (BitVec.ofNat 32)

theorem test_queue : queueReads 4095 (queued .decode []) ∧ entrySound (cSkein (cmd 2 0)) (queued .decode []) ∧ qCtx 4095 (queued .decode []) = 5 := by
  unfold queueReads entrySound; decide +kernel
theorem test_commands : (∀ op ≤ 5, cmdOp (cmd op 1) = op) ∧ cw (cmd 5 255) 2 7 0 ≠ 0 ∧
    testSkeinCtx 5 (cSkein (cmd 2 0)) (cGen (cmd 2 0)) notFree (queued .decode []) = rcOk ∧
    testSkeinCtx 5 (cSkein (cmd 2 0)) (cGen (cmd 2 0)) notFree (queued .faulted []) = rcOk ∧
    testSkein 5 (cSkein (cmd 3 0)) (cGen (cmd 3 0)) retirable (queued .done []) = rcOk ∧
    testSkeinCtx 5 (cSkein (cmd 2 0)) (cGen (cmd 2 0)) notFree (queued .free []) ≠ rcOk ∧
    ctxServes 5 (queued .decode []) = true ∧ ctxServes 5 (setState 5 cxTeardown (queued .decode [])) = false := by decide +kernel

/-- Skein 4 in every state that a cancel distinguishes, and a part whose host memory needs a stream that it has not. -/
theorem test_cancel_states : ∀ st ∈ [SkState.admitted, .decode, .done, .faulted, .cancelling, .free], let s := queued st []
    (sk 4 s).state = st ∧ (sk 4 s).gen.toNat = fldOf SKN_CTRL_GEN (BitVec.ofNat 64 (2 ^ 63 + 9 * 2 ^ 32 + 4)) ∧
      (st ≠ .free → ctxServes (sk 4 s).ctx s = true ∧ testSkeinCtx 5 4 9 notFree s = rcOk) ∧
      hostAllowed (setFld SEC_CTRL_REQUIRE_IDE 1 s) = false ∧ ctxServes 5 (setState 5 cxTeardown s) = false := by decide +kernel

theorem test_admission : let s := queued .free []
    let full := { s with kv := { s.kv with heads := {} } }
    let first := testSkeinCtx 5 4 9 (fun k => k.state == .free)
    first s = rcOk ∧ first (queued .decode []) ≠ rcOk ∧ admitFields 5 (cmd 1 0) s = rcOk ∧ admitFields 5 (cmd 1 (7 * 2 ^ 16)) s ≠ rcOk ∧
      (newDir 5 4 (cmd 1 0) s).1 = rcOk ∧ (newDir 5 4 (cmd 1 0) full).1 ≠ rcOk := by decide +kernel

/-- A ring that is full by the bell is not beyond it; one more is. -/
theorem test_pages_of_queues : let s := queued .decode [(SKN_Q_HEAD_HEAD 4095, 65530), (SKN_Q_RING_TAIL_SKEIN 4095, 0)]
    Answers (SKN_Q_DOORBELL 4095) s ∧ Answers (SKN_Q_RING_TAIL 4095) s ∧ Answers (SKN_QCFG_CTL 4095) s ∧ Answers SKN_CTRL s ∧ Answers SKN_HANK_ADD s ∧
      (10 + 65536 - fld (SKN_Q_HEAD_HEAD 4095) s) % 65536 = qSize 4095 s ∧ qSize 4095 s < (11 + 65536 - fld (SKN_Q_HEAD_HEAD 4095) s) % 65536 ∧
      inRange 5 7 s = true ∧ inRange 5 8 s = false ∧ (sk 4 s).gen.toNat = 9 ∧
      (written (SKN_QCFG_CTL 4095) (2 ^ 63) s).2 = false ∧ bit (SKN_QCFG_CTL_EN 4095) up = false ∧
      balance 7 (after (.sknHankAdd 0x7FFFFFFFFFFF) (setFld (SKN_HANK_CAP_CAP 0) 5 s)) = 0 := by unfold Answers; decide +kernel

/-- A prompt of five tokens of tenant 0 to stage, and a completion record that is due. -/
def waitingPrompt (keys : List (Nat × BitVec 256)) : State :=
  { up with skeins := [(4, { state := .admitted, promptLen := 5 }), (5, { state := .done, due := some { status := 1, cause := 0 } })]
            sec := { up.sec with tenantKeys := keys } }
theorem test_prompts : let s := waitingPrompt [(0, 77)]
    stages (sk 4 s) = true ∧ fnUp 0 s = true ∧ hostAllowed s = true ∧ find? s.sec.tenantKeys (sk 4 s).tenant = some 77 ∧
      openChunks (requestKey 77 []) 5 0 [] = some [] ∧ stageUse s ≤ 1048576 ∧ find? (waitingPrompt []).sec.tenantKeys 0 = none ∧
      (sk 5 s).due = some { status := 1, cause := 0 } ∧ ringFree (sk 5 s) ≠ 0 :=
  ⟨by decide +kernel, by decide +kernel, by decide +kernel, rfl, rfl, by decide +kernel, rfl, rfl, by decide +kernel⟩

/-! ### Spindles and reefs -/

/-- The step of `lab` with entry 0 in some progress, a WEIGHT region of a page bound to weave region 0, a placement entry with
neither ply, and a spare spindle. -/
def tile (d : Disp) : State :=
  let s := setFlds [(MEM_RGN_CFG_VALID 2, 1), (MEM_RGN_CFG_KIND 2, kWeight), (MEM_RGN_BASE_BASE 2, 0x1000), (MEM_RGN_SIZE_SIZE 2, 0x100),
    (MEM_RGN_CFG_VALID 3, 1), (MEM_RGN_CFG_KIND 3, kScratch), (MEM_RGN_BASE_BASE 3, 0x2000), (MEM_RGN_SIZE_SIZE 3, 0x100),
    (INT_STRIKES_STATE 303, phSpare)] (lab [])
  let c := ctx 5 s
  { s with ctxs := [(5, { c with bound := [(0, 2), (1, 3)], step := some { lists := [(0, [d])] }
                                 weave := { c.weave with places := [{ base := 0, ply1 := none, ply2 := none, scale := 0x3F800000, fmt := 8, wreg := 0, blocks := 8 }]
                                                         adapters := [{ rank := 1, wreg := 1, alpha := 0, aLagoon := 0x3000, bLagoon := 0x4000, aOff := 0, bOff := 0 }] } })] }
def nanDoc : W32 := 0x7FC00000

/-- TENSOR on spindle 0, BF16 by BF16, one block, one row, output FP32 at 0x1000, no magnitude check. -/
def tensorW (live adapter : Nat) : List W32 :=
  [kTensor * 2 ^ 28, 0, 8 * 2 ^ 28 + 8 * 2 ^ 24 + 9 * 2 ^ 12 + 1, 2 ^ 22 + live * 2 ^ 12, 0x3F800000, 0x800, 0x1000, 0, adapter * 2 ^ 16, 0, 0, 0, 127 * 2 ^ 24, 0, 0, 0]
def tensor (st : DispSt) (live adapter : Nat) (result : List W32) : Disp := { words := tensorW live adapter, st := st, result := result }

theorem test_tensor : let d := tensor .waiting 1 0 []
    ready e0 kTensor (tile d) = some d ∧ idle d = false ∧ lockedAt 0 0x800 64 (tile d) = false ∧ (tileShard 5 d.words (tile d)).isSome ∧
      (∀ sh, tileShard 5 d.words (tile d) = some sh → shardFits sh = true) ∧ idle (tensor .waiting 0 0 []) = true ∧
      (ready e0 kTensor (tile (tensor .waiting 0 0 []))).isSome := by
  refine ⟨by decide +kernel, by decide +kernel, by decide +kernel, by decide +kernel, ?_, by decide +kernel, by decide +kernel⟩
  intro sh h
  have h2 : tileShard 5 (tensor .waiting 1 0 []).words (tile (tensor .waiting 1 0 [])) = some { base := 0x1000000, size := 0x100000, ent := { base := 0, ply1 := none, ply2 := none, scale := 0x3F800000, fmt := 8, wreg := 0, blocks := 8 }, fmt := .bf16 } := by
    decide +kernel
  rw [h2] at h; cases h; decide +kernel
/-- Nothing holds the tile or its repeat up; while its lagoon is not restored both wait. -/
def awaited (d : Disp) : State := { tile d with ctxs := (tile d).ctxs.map fun x => (x.1, { x.2 with restoreWait := [0] }) }
theorem test_tile_stalls : (let d := tensor .waiting 1 0 []
      d.susp = none ∧ (spn 0 (tile d)).windows.length < 2 ∧ tileStall 5 d.words (startWiden 5 d.words (tile d)) (tile d) = none ∧
        (tileStall 5 d.words (startWiden 5 d.words (awaited d)) (awaited d)).isSome ∧ (ready e0 kTensor (awaited d)).isSome) ∧
    (let d := tensor .repeating 1 0 []
     repeatStall 5 d (tile d) = none ∧ (repeatStall 5 d (awaited d)).isSome ∧ dispAt e0 (awaited d) = some d) := by decide +kernel
theorem test_sound_reads : soundReads {} (tile (tensor .waiting 1 0 [])) := by
  refine ⟨rfl, rfl, rfl, rfl, rfl, rfl, fun x hx => ?_⟩
  have h : (tile (tensor .waiting 1 0 [])).staples = [] := by decide +kernel
  simp [h] at hx
theorem test_repeat : let d := tensor .repeating 1 0 []
    dispAt e0 (tile d) = some d ∧ d.susp = none ∧ (tileShard 5 d.words (tile d)).isSome := by decide +kernel
theorem test_adapter : let d := tensor .committing 1 1 [1]
    dispAt e0 (tile d) = some d ∧ (tileAdapter 5 d.words (tile d)).isSome ∧ d.count = 0 ∧ d.poisoned = [] := by decide +kernel
theorem test_tile_complete : let d := tensor .committing 1 0 [0x3F800000]
    let f := tensor .committing 1 0 [nanDoc]
    dispAt e0 (tile d) = some d ∧ eKind d.words = kTensor ∧ tAdapter d.words = 0 ∧ retainHit (lagoonBase 0 + 0x1000) 4 (tile d) = none ∧
      flagged (tileChecks d.words d.result d.poisoned) = false ∧ flagged (tileChecks f.words f.result f.poisoned) = true ∧ hasSpares (tile f) = true := by
  decide +kernel
theorem test_window_close : let d := tensor .done 1 0 []
    let s := { tile d with spns := [(0, { windows := [(e0, 0x800, 0x840)] })] }
    dispAt e0 s = some d ∧ d.st = .done ∧ (spn 0 (after (.retainWindowClose e0) s)).windows = [] := by decide +kernel

/-- A VECTOR entry of one row of one element on thread 7, FP32 out at 0x1000; NOP. -/
def vectorD (st : DispSt) (live : Nat) : Disp :=
  { words := [kVector * 2 ^ 28, 0, 7 * 2 ^ 13 + 9 * 2 ^ 9, 2 ^ 22 + live * 2 ^ 12, 0x800, 0x1000, 0x1000, 1, 2, 3, 2 ^ 16, 0, 0, 0, 0, 0], st := st }
theorem test_vector : let d := vectorD .waiting 1
    ready e0 kVector (tile d) = some d ∧ idle d = false ∧ (thread 0 7 (tile d)).state = .idle ∧ lockedAt 0 0x800 0x800 (tile d) = false ∧
      idle (vectorD .waiting 0) = true ∧ (ready e0 kVector (tile (vectorD .waiting 0))).isSome ∧
      (ready e0 kNop (tile { words := List.replicate 16 0 })).isSome := by decide +kernel
/-- A skipped entry of a program that owes no collective. -/
theorem test_vector_skipped (h : ∀ a b, Config.programSends a b = []) : owedSends 5 (vectorD .waiting 0).words (tile (vectorD .waiting 0)) = [] := by
  simp [owedSends, h]
theorem test_vector_here : lagoonHere 5 0 (tile (vectorD .waiting 1)) = true := by decide +kernel
def ended : State := { tile (vectorD .committing 1) with spns := [(0, { threads := [(7, { state := .ready, entry := some e0, ctx := 5 })] })] }
theorem test_program_end : let d := vectorD .committing 1
    let ws : List (Nat × Byte) := (List.range 4).map fun i => (lagoonBase 0 + 0x1000 + i, (natToBytes 4 0x3F800000).getD i 0)
    let s := ended
    dispAt e0 s = some d ∧ (thread 0 7 s).entry = some e0 ∧ (thread 0 7 s).state = .ready ∧ ctxLive 5 s = true ∧
      byteRuns ws = [(lagoonBase 0 + 0x1000, natToBytes 4 0x3F800000)] ∧ mayWrite 5 0x2000000 4 s = true ∧
      mergesBad e0 d (wrBytes 0x2000000 (natToBytes 4 0x3F800000) s) = false ∧ flagged (vectorChecks d.words [0x3F800000] []) = false ∧
      byteRuns [] = [] ∧ mergesBad e0 d s = false ∧ d.susp = none := by decide +kernel
/-- The program merges two empty records of 64 elements. -/
theorem test_program_merges : let m : MergeOp := { dim := 64, records := [0x2000000, 0x2001000], shard := 1, out := 0x2002000 }
    (mergeBytes m ended).length = 272 ∧ mayWrite 5 m.out (mergeBytes m ended).length ended = true ∧
      mergesBad e0 (vectorD .committing 1) (wrBytes m.out (mergeBytes m ended) ended) = false := by decide +kernel

/-- A REEF entry of engine 7 for one row, K and V in BF16 with one head of 64; sequence 4 is in the batch. -/
def reefD (op : Nat) (fmt : Nat) (st : DispSt) (epochs : List (Nat × Nat)) : Disp :=
  { words := [kReef * 2 ^ 28, BitVec.ofNat 32 (op * 2 ^ 28 + 128 * 2 ^ 20), BitVec.ofNat 32 (fmt * 2 ^ 28), 2 ^ 22 + 2 ^ 12, 0x3F800000, 0, 0, BitVec.ofNat 32 (4 * op), 0x800, 0x1000,
              0x3F800000, 0x3F800000, 0, 0, 0x2000, 2 ^ 27]
    st := st, epochs := epochs }
def reef (d : Disp) : State :=
  let s := tile d
  let k := kvs [bob]
  { s with kv := k.kv, skeins := k.skeins
           ctxs := s.ctxs.map fun x => (x.1, { x.2 with weave := { x.2.weave with kv := some kd }
                                                        step := some { lists := [(0, [d])], batch := [{ skein := 4, prefill := false, row := 0, rows := 1 }] } }) }
theorem test_reef_start : let d := reefD 0 8 .waiting []
    engineReady e0 0 7 (reef d) = some d ∧ idle d = false ∧ fmtWrong 5 d.words (reef d) = false ∧
      fmtWrong 5 (reefD 0 9 .waiting []).words (reef (reefD 0 9 .waiting [])) = true ∧ ctxLive 5 (reef d) = true ∧
      (engineReady e0 0 7 (reef (reefD 0 9 .waiting []))).isSome := by decide +kernel
theorem test_reef_row : let d := reefD 0 8 .committing [(7, 0)]
    let s := reef d
    dispAt e0 s = some d ∧ rOp d.words = 0 ∧ (d.epochs.any fun p => p.1 == 7) = true ∧ lookup d.reefRows 0 7 = 0 ∧
      rowStep d.words 0 s = stepLow 5 s ∧ rowSeq 5 d.words 0 s = some (3, 1) ∧ (∀ b ∈ (dir 3 s).bobbins, b.carry = none) ∧
      fld (atollFld 7) s = 0 ∧ specOk (rowSpec d.words 0 s) = true ∧ 0 + 1 = mLive d.words ∧ carryDue (rowSeq 5 d.words 0 s) 7 s = false ∧
      rowLocked d.words 0 s = false := by decide +kernel
theorem test_reef_bwd : let d := reefD 1 8 .waiting []
    let s := reef d
    engineReady e0 1 7 s = some d ∧ fmtWrong 5 d.words s = false ∧ (∀ r < mLive d.words, bwdLocked d.words r s = false ∧ rowStep d.words r s = stepLow 5 s ∧
      rdNat (gradRow d.words r) 4 s / 2 ^ 12 = stepLow 5 s ∧ specOk (rowSpec d.words r s) = true) ∧ (gradRegion 5 d.words s).isSome ∧
      (sk (rRowBase d.words) s).length = 0 ∧ (bwdSeq 5 d.words s).isSome ∧ carryDue (bwdSeq 5 d.words s) 7 s = false ∧ fld (atollFld 7) s = 0 := by decide +kernel

/-! ### Sampling and carding -/

/-- A SAMPLE entry for the only row of a vocabulary of four; logits at 0x2000000, input at 0x800 and output at 0xC00 of spindle 0. -/
def sampleD (live : Nat) : Disp :=
  { words := [kSample * 2 ^ 28, BitVec.ofNat 32 (2 ^ 22 + live * 2 ^ 12), 3, 0, 2 ^ 27, 1, 2 ^ 27 + 16, 2 ^ 27 + 32, 0x800, 0xC00, 0, 0, 0, 0, 0, 0] }
def sampling (x : Nat) : State :=
  let s := reef (sampleD 1)
  wrNat 0x2000008 4 x { s with skeins := [(4, { state := .decode, ctx := 5, dir := 3, sampled := true })] }
theorem test_sample : let d := sampleD 1
    let s := sampling 0x40000000
    ready e0 kSample s = some d ∧ idle d = false ∧ inputsLocked d.words s = false ∧ sRowsLive d.words = 1 ∧ (stepOf 5 s).isSome ∧
      ((stepOf 5 s).map fun st => rowPart st.batch (sRowBase d.words)) = some (some { skein := 4, prefill := false, row := 0, rows := 1 }) ∧
      (sk 4 s).sampled = true ∧ logitAddr 5 d.words (sRowBase d.words) s = some 0x2000000 ∧ idle (sampleD 0) = true ∧ hasSpares s = true ∧
      (ready e0 kSample (reef (sampleD 0))).isSome := by decide +kernel
/-- R235: greedy sampling takes the largest logit; R238: a NaN is not sampled. -/
theorem test_sample_row : sampleRow profile0 [0, 0, 0x40000000, 0] (fun _ => true) [] 0 = .token 2 false ∧
    sampleRow profile0 [0, 0, nanDoc, 0] (fun _ => true) [] 0 = .nonfinite := by decide +kernel

/-- Profile 3 staged and committed with words 0 to 7. -/
def committing (ws : List W32) : State :=
  { setFlds [(SMP_PROF_CTRL_COMMIT, 1), (SMP_STATUS_PROF_BUSY, 1)] up with profCommit := some (3, ws) }
theorem test_profiles : Answers SMP_PROF_CTRL up ∧ up.profCommit = none ∧ profOk (0x80000000 :: profile0.drop 1) = true ∧
    profOk [] = false ∧ profNamed 3 (committing []) = false ∧ (committing []).profCommit.isSome := by unfold Answers; decide +kernel

/-- A map of one expert on one node, and CARD entries of half 0 for one row of one block. -/
def oneMap (node : Nat) : List Byte :=
  natToBytes 4 1 ++ List.replicate 60 0 ++ natToBytes 4 0 ++ natToBytes 4 0x70000 ++ natToBytes 4 96 ++ natToBytes 4 100 ++ List.replicate 16 0 ++
    natToBytes 4 node ++ natToBytes 4 0
def cardD (op rows : Nat) : Disp :=
  { words := ([kCard * 2 ^ 28, op * 2 ^ 28, 8 * 2 ^ 2 + 2, 2 ^ 22 + 2 ^ 12 + 1, 0] ++ (List.range 6).map (fun i => 2 ^ 27 + i) ++
      [rows * 2 ^ 16 + 1, 0x3F800000, 0, 0, 0]).map (BitVec.ofNat 32) }
def card (op rows node : Nat) : State :=
  let s := reef (cardD op rows)
  { setFlds [(GLD_WIN_BASE_BASE 0xF8A, 0x2002), (GLD_WIN_BASE_BASE 0xF8B, 0x2003)] s with
    ctxs := s.ctxs.map fun x => (x.1, { x.2 with maps := oneMap node }) }
theorem test_card_sends : ∀ op ∈ [0, 2], let d := cardD op 16
    let s := card op 16 0x3FF
    let x := cardMap 5 d.words s
    cardReady e0 op s = some d ∧ (myRank x s).isSome ∧ myRank (cardMap 5 d.words (card op 16 3)) (card op 16 3) = none ∧ x.nodes = [myNode s] ∧
      (cardArea 5 (cRef d.words 5) (cardRows d.words * rowStride x.experts) s).isSome ∧
      (cardArea 5 (cRef d.words 6) (cardRows d.words * rowStride (hidden d.words)) s).isSome ∧
      (cardArea 5 (cRef d.words 7) (x.nodes.length * cSlotBytes d.words) s).isSome ∧
      (cardArea 5 (cRef d.words 10) ((localsOf x 0).length * cExpRows d.words * hidden d.words * 2) s).isSome ∧ expertsDone 5 0 0 s = true ∧
      64 + cardRows d.words * dispatchSize d.words ≤ cSlotBytes d.words ∧ ctxLive 5 s = true := by decide +kernel

/-- A dispatch message or a return message of step 0 from the package itself has landed; of tag 7, or 8. -/
def landedCard (op kind tag k rows : Nat) : State :=
  let s := card op rows 0x3FF
  let a := 0x2002000 + 0x1000 * kind
  wrNat (a + 64) 4 (k * 2 ^ 17) (wrNat (a + 8) 4 (tag * 2 ^ 16 + k) (wrNat (a + 4) 4 (kind * 2 ^ 30 + 5 * 2 ^ 24 + 0x3FF) s))
theorem test_card_receives : ∀ f ∈ [(1, 0), (3, 1)], let d := cardD f.1 16
    let at_ := 0x2002000 + 0x1000 * f.2
    arrival 5 d.words f.2 0 at_ (landedCard f.1 f.2 7 1 16) = .here ∧ arrival 5 d.words f.2 0 at_ (wrNat at_ 4 1 (landedCard f.1 f.2 7 1 16)) = .missing ∧
      arrival 5 d.words f.2 0 at_ (landedCard f.1 f.2 8 1 16) = .mismatch ∧ cardReady e0 f.1 (landedCard f.1 f.2 7 1 16) = some d ∧
      cardArea 5 (cRef d.words (7 + f.2)) (cSlotBytes d.words) (landedCard f.1 f.2 7 1 16) = some at_ := by decide +kernel
theorem test_gather_lists : (dispatched 5 (cardD 1 16).words 0x2002000 (landedCard 1 0 7 1 16)).length = 1 ∧
    cExpRows (cardD 1 0).words < (dispatched 5 (cardD 1 0).words 0x2002000 (landedCard 1 0 7 1 0)).length ∧
    (cardArea 5 (cRef (cardD 1 16).words 9) 64 (landedCard 1 0 7 1 16)).isSome ∧
    (cardArea 5 (cRef (cardD 3 16).words 6) 4096 (landedCard 3 1 7 1 16)).isSome := by decide +kernel

/-! ### Beats, weaves and contexts -/

/-- Context 5 at beat 0 of a shape of `len` beats, the package waiting for a vote. -/
def voting (len : Nat) (own : List Overrun) : State :=
  let s := lab [tensorW 1 0]
  { s with voteDue := true, edge := own, ctxs := s.ctxs.map fun x => (x.1, { x.2 with weave := { x.2.weave with shapes := x.2.weave.shapes.map fun h => { h with len := len } } }) }
theorem quiet_of {s : State} (x : Ctx) (hc : s.ctxs = [(5, x)]) (hp : x.weave.prefetch = []) (h1 : s.chans = []) (h2 : s.gld.ops = [] ∧ s.gld.refused = [] ∧ s.gld.waiting = [])
    (h3 : s.kv.dirs = [] ∧ s.kv.held = [] ∧ s.swap.pairs = []) : quietEdge s := by
  refine ⟨channels_idle h1 h2.2.2, h2.1, h2.2.1, fun c => ?_, by simp [h3.1], by simp [h3.2.1], by simp [h3.2.2]⟩
  simp only [ctx, lookup, hc]
  by_cases h : 5 = c <;> simp [h, hp]
theorem test_votes : beating up = true ∧ beating State.reset = false ∧ (voting 2 []).voteDue = true ∧ quietEdge (voting 2 []) ∧ up.voteDue = false ∧
    up.spns = [] ∧ (voting 2 []).replayAsk = 0 ∧ (∀ c < 64, (ctx c (voting 2 [])).slipRun + 1 < fld BT_SLIP_LIMIT_LIMIT (voting 2 [])) ∧ noSkips up ∧ ctxLive 5 (voting 2 []) = true ∧
    (ctx 5 (voting 2 [])).ran = true ∧ bit (CTX_STATE_NEVER_RAN 5) (voting 2 []) = false :=
  ⟨by decide +kernel, by decide +kernel, rfl, quiet_of _ rfl rfl rfl ⟨rfl, rfl, rfl⟩ ⟨rfl, rfl, rfl⟩, rfl, rfl, rfl, by decide +kernel, by unfold noSkips; decide +kernel, by decide +kernel,
    by decide +kernel, by decide +kernel⟩
/-- A context at its last beat and one before it. -/
theorem test_beats : ∀ f ∈ [(1, false), (2, true)], let s := voting f.1 []
    ∃ st, stepOf 5 s = some st ∧ decide (st.beat + 1 < (shapeOf (ctx 5 s).weave st.shape).len) = f.2 := by
  intro f hf
  simp only [List.mem_cons, List.not_mem_nil, or_false] at hf
  rcases hf with rfl | rfl <;> exact ⟨_, rfl, by decide +kernel⟩
theorem test_overrun : let o : Overrun := { cause := 9, ctx := some 5 }
    o ∈ (voting 1 [o]).edge ∧ overrunOk o = true ∧ o.cause.toNat < 10 ∧ ctxLive 5 (voting 1 [o]) = true ∧ quietEdge (voting 1 [o]) :=
  ⟨by simp [voting], by decide, by decide, by decide +kernel, quiet_of _ rfl rfl rfl ⟨rfl, rfl, rfl⟩ ⟨rfl, rfl, rfl⟩⟩

/-- A program that runs past the edge wrote four bytes of SCRATCH. -/
theorem test_program_writes : let p : ProgReport := { e := e0, writes := (List.range 4).map fun i => (0x2000000 + i, 7) }
    beating ended = true ∧ (∀ x ∈ ended.spns, x.2.fence = none) ∧ dispAt p.e ended = some (vectorD .committing 1) ∧
      (thread 0 7 ended).entry = some p.e ∧ byteRuns p.writes = [(0x2000000, [7, 7, 7, 7])] ∧ ctxLive 5 ended = true ∧ mayWrite 5 0x2000000 4 ended = true ∧
      noWindows ended ∧ noSkips ended := by
  refine ⟨by decide +kernel, by decide +kernel, by decide +kernel, by decide +kernel, by decide +kernel, by decide +kernel, by decide +kernel,
    fun n => ?_, by unfold noSkips; decide +kernel⟩
  by_cases h : n = 0 <;> simp [ended, spn, lookup, h, eq_comm]

/-- The tally in ACQUIRE with 63 good offsets, and in HOLDOVER. -/
def tally (k good : Nat) : State := { setFld BT_STATUS_LOCK k up with goodOffsets := good }
theorem test_tally : lockState (tally lkHoldover 0) = lkHoldover ∧ lockState (tally lkAcquire 63) = lkAcquire ∧ lockState up = lkLocked ∧
    bit BT_CTRL_EN up = true ∧ bit BT_CTRL_ROOT up = false ∧ lockState (voting 1 []) ≠ lkUnlocked := by decide +kernel
/-- R120: an offset of 4 µs still counts as good. -/
theorem test_tally_locks : lockState (after (.tallyFrame (-4000) 9 1 2) (tally lkAcquire 63)) = lkLocked ∧
    lockState (after (.tallyFrame (-4001) 9 1 2) (tally lkAcquire 63)) = lkAcquire := by decide +kernel

/-- A STEP record that writes 5 to M_LIVE of entry 0. -/
def record : W64 := BitVec.ofNat 64 (3 * 2 ^ 44 + 12 * 2 ^ 39 + 9 * 2 ^ 34 + 5)
def prepared : State :=
  let s := voting 2 []
  { s with ctxs := s.ctxs.map fun x => (x.1, { x.2 with weave := { x.2.weave with templates := [{ entries := [tensorW 1 0], patches := [record] }] }
                                                        pins := [(3, 0), (3, 1)], priming := some [] }) }
theorem test_patches : pTiming record = 0 ∧ pEntry record = 0 ∧ (∃ p, phaseOf 5 0 prepared = some p ∧
    (templateOf (ctx 5 prepared).weave p).patches = [record] ∧ heavyPhase 5 p prepared = false ∧ p.firstBeat ≤ 1) ∧
    (dispAt e0 (after (.patchStep 5 0) prepared)).map (fun d => mLive d.words) = some 5 := by
  exact ⟨by decide, by decide, ⟨{ firstBeat := 0, beats := 1, config := 0, powerClass := 0, template := 0, reserve := 0, slotCyc := 0 }, by decide +kernel⟩, by decide +kernel⟩
theorem test_pins : (∃ p ∈ (ctx 5 prepared).pins, p.1 = 3 ∧ p.2 < (rd (WV_STEP 5) (wr (WV_STEP 5) 1 prepared)).toNat) ∧ (3, 1) ∈ (ctx 5 prepared).pins ∧
    (ctx 5 prepared).priming = some [] ∧ ctxState 5 (setState 5 cxStarting prepared) = cxStarting ∧ (ctx 5 (voting 2 [])).priming ≠ some [] := by decide +kernel

theorem test_load : Answers WV_LOAD_CTRL up ∧ (written WV_LOAD_CTRL 1 up).2 = false ∧ bit WV_LOAD_STATUS_BUSY up = false ∧
    (let s := { setState 0 cxLoading up with load := { active := true } }
     s.load.ctx < 64 ∧ s.load.active = true ∧ s.load.waiting = false ∧ s.sec.waiting = none ∧ ctxState 0 s = cxLoading ∧
       loadResult s.load.addr s.load.len s.load.ctx s.load.inUse s = (1, 0xFF)) := by unfold Answers; decide +kernel

/-- Context 5 holds lagoon 0 and has a spill region in the shoal; context 6 waits for the lagoon. -/
def spilling : State :=
  { setFlds [(MEM_RGN_CFG_VALID 4, 1), (MEM_RGN_CFG_KIND 4, kSpill), (MEM_RGN_BASE_BASE 4, 0x10000000), (MEM_RGN_SIZE_SIZE 4, 0x1000), (MEM_RGN_CFG_OWNER 4, 5)]
      (setState 6 cxRunning (setState 5 cxHeld up)) with
    ctxs := [(5, { weave := { set := [0] }, spills := [4], resident := [0] }), (6, { spillWait := [(0, 5)] })] }
def restoring : State := { spilling with ctxs := [(5, { weave := { set := [0] }, spills := [4], spilled := [0], restoreWait := [0] })] }
theorem test_spill : Canon spilling ∧ (ctx 6 spilling).spillWait.contains (0, 5) = true ∧ (ctx 5 spilling).resident.contains 0 = true ∧
    spillSlot 5 0 spilling = some 0x010000010000 ∧ spillBlocked 5 0 spilling = false ∧ spillBehind 5 0 spilling = false ∧ retraining 0x010000010000 spilling = false := by
  unfold Canon; decide +kernel
theorem test_spill_restore : Canon restoring ∧ (ctx 5 restoring).restoreWait.contains 0 = true ∧ spillSlot 5 0 restoring = some 0x010000010000 ∧
    channelsIdle restoring := ⟨by unfold Canon; decide +kernel, by decide +kernel, by decide +kernel, channels_idle rfl rfl⟩
theorem test_teardown : Answers (CTX_CMD 5) one ∧ ctxLive 5 one = true ∧ ctxState 5 up = cxFree ∧
    (let s := setState 5 cxTeardown spilling
     ctxState 5 s = cxTeardown ∧ (∀ b ∈ (ctx 5 s).bound, b.2 < 256) ∧ ∀ r ∈ (ctx 5 s).spills, r < 256) := by unfold Answers; decide +kernel
/-- R148: the spill area of context 5 lies in shoal module 0. -/
theorem test_shoal : spilling.boot.on = true ∧ shoalFailed 0 spilling = false ∧ ctxLive 5 spilling = true ∧
    (∃ r ∈ (ctx 5 spilling).spills, r < 256 ∧ (region r spilling).valid = true ∧ shoalAt (region r spilling).base = some 0) ∧
    (region 4 spilling).kind = kSpill ∧ shoalAt (region 4 spilling).base = some 0 := by decide +kernel

/-! ### Integrity -/

/-- A suspect tile produced by spindle 0, with a witness on spindle 303 or a buddy asked; a SAMPLE entry's suspect. -/
def suspect (kind : Nat) (x : Suspect) : Disp :=
  { words := (if kind = kTensor then tensorW 1 0 else if kind = kVector then (vectorD .waiting 1).words else (sampleD 1).words), st := .suspect
    result := [nanDoc], susp := some x }
def suspects (d : Disp) (fs : List (FRef × Nat)) : State := setFlds ((INT_STRIKES_LOGICAL 0, 0) :: fs) (tile d)
def seen : Suspect := { gauge := true, producer := 0, witness := some 303 }
theorem test_witness : (∀ k ∈ [kTensor, kVector, kSample], let d := suspect k { gauge := true }
      dispAt e0 (suspects d []) = some d ∧ replayDue d (suspects d []) = true ∧ eKind d.words = k) ∧
    pickWitness (dieOf (suspects (suspect kTensor { gauge := true }) []) 0) (suspects (suspect kTensor { gauge := true }) []) = some 303 ∧
    replayDue (suspect kTensor seen) (suspects (suspect kTensor seen) [(INT_STRIKES_STATE 303, phWitness)]) = false ∧
    (∀ st ∈ [phWithheld, phWitness], let d := suspect kTensor { gauge := true }
      let s := suspects d [(INT_STRIKES_STATE 303, st)]
      replayDue d s = true ∧ pickWitness (dieOf s 0) s = none ∧ hasSpares s = decide (st = phWitness) ∧ bit (INT_BUDDY_VALID 5) s = false) := by decide +kernel
theorem test_replays : ∀ k ∈ [kTensor, kVector], let d := suspect k seen
    let s := suspects d [(INT_STRIKES_STATE 303, phWitness)]
    dispAt e0 s = some d ∧ (eKind d.words = kTensor ∨ eKind d.words = kVector) ∧ phState 303 s = phWitness ∧ strikeable seen = true ∧
      bit (INT_BUDDY_VALID 5) s = false ∧ bit (INT_BUDDY_VALID 5) (setFld (INT_BUDDY_VALID 5) 1 s) = true := by decide +kernel
/-- While the atoll of its weights retrains, a tile's replay waits for its fresh reads. -/
theorem reads_some (e : List W32) (sh : Shard) (w : Nat) (hs : sh.stage = []) (hk : 0 < tKBlocks e) (hn : 0 < baseBytes sh.fmt) :
    atollReads e sh w ≠ [] := by
  have hm : (sh.base + sh.ent.base + Config.weightBlock sh.ent.blocks (tKBlocks e) 0 0 % sh.ent.blocks * baseBytes sh.fmt, baseBytes sh.fmt, 0) ∈
      atollReads e sh w := by
    refine List.mem_filter.2 ⟨List.mem_flatMap.2 ⟨0, by simp, List.mem_flatMap.2 ⟨0, by simpa using hk, by simp [blockReads]⟩⟩, ?_⟩
    exact List.any_eq_true.2 ⟨0, by simpa using hn, by simp [readAt, hs]⟩
  exact List.ne_nil_of_mem hm
def bf16Shard : Shard :=
  { base := 0x1000000, size := 0x100000, ent := { base := 0, ply1 := none, ply2 := none, scale := 0x3F800000, fmt := 8, wreg := 0, blocks := 8 }, fmt := .bf16 }
theorem test_replay_waits : let d := suspect kTensor seen
    replayWaits e0 d (suspects d []) = false ∧ replayWaits e0 d (suspects d [(atollFld 0, 1)]) = true := by
  refine ⟨by decide +kernel, ?_⟩
  have h : freshShard 5 (tensorW 1 0) (suspects (suspect kTensor seen) [(atollFld 0, 1)]) = some bf16Shard := by
    decide +kernel
  have hr : retraining bf16Shard.base (suspects (suspect kTensor seen) [(atollFld 0, 1)]) = true := by decide +kernel
  have hw : eKind (tensorW 1 0) = kTensor := by decide
  simp only [replayWaits, suspect, if_true, show e0.ctx.toNat = 5 from rfl, hw]
  simp only [suspect, if_true] at h hr
  simp [h, readStall, hr, reads_some (tensorW 1 0) bf16Shard 0 rfl (by decide) (by decide)]
/-- The witness of a program answers the same NaN row, another row, or a flagged one; a tile's own arithmetic gives zeros here. -/
theorem test_verdicts : (witnessed e0 (suspect kVector seen) [nanDoc] true {} up).1 = [nanDoc] ∧
    (let r := witnessed e0 (suspect kVector seen) [0] false {} up
     r.1 ≠ [nanDoc] ∧ r.2 = false) ∧
    (let r := witnessed e0 (suspect kVector seen) [nanDoc, nanDoc] true {} up
     r.1 ≠ [nanDoc] ∧ r.2 = true) := by decide +kernel

theorem test_buddies : ∀ k ∈ [kTensor, kVector], let d := suspect k { seen with buddy := true, local_ := some [0] }
    dispAt e0 (suspects d []) = some d ∧ buddyWaits d = true ∧ buddyWaits (suspect k seen) = false ∧ d.susp = some { seen with buddy := true, local_ := some [0] } ∧
      (suspects d []).sounds = [] := by decide +kernel
theorem test_asked : ctxExists 5 one = true ∧ rd (WV_ID 5) one = 0 ∧ spares 0 (setFld (INT_STRIKES_STATE 3) phSpare one) ≠ [] ∧ ctxExists 7 one = false := by
  decide +kernel

/-- A request to context 5 that a spare of this package can replay, its bound weights being here; and node 4 of the ring as the
buddy of a suspect that was flagged twice. -/
def asked : BuddyRequest := { step := 0, words := tensorW 1 0, source := List.replicate 16 0 }
theorem test_serves : (buddyRows 5 asked (suspects (suspect kTensor seen) [])).isSome = true ∧
    ctxExists 5 (suspects (suspect kTensor seen) []) = true ∧ spares 1 (suspects (suspect kTensor seen) []) ≠ [] := by
  refine ⟨?_, by decide +kernel⟩
  have h : freshShard 5 asked.words (suspects (suspect kTensor seen) []) = some bf16Shard := by decide +kernel
  have ha : tileAdapter 5 asked.words (suspects (suspect kTensor seen) []) = none := by decide +kernel
  simp [buddyRows, replayRows, h, ha]
theorem test_buddy_near : buddyNear 5 (far (setFlds [(INT_BUDDY_VALID 5, 1), (INT_BUDDY_NODE 5, 4)] (suspects (suspect kTensor seen) []))) :=
  ⟨by decide +kernel, by decide +kernel, by decide +kernel, by decide +kernel, routable_of (by decide +kernel)⟩

/-- Context 5 of spindle 0, which physical spindle 0 serves; with a spare, or without. -/
def fence (spare : Bool) : State :=
  let s := suspects (tensor .quantised 1 0 []) [(INT_STRIKES_STATE 303, if spare then phSpare else phRetired), (INT_STRIKES_STATE 151, if spare then phSpare else phRetired)]
  { s with ctxs := s.ctxs.map fun x => (x.1, { x.2 with weave := { x.2.weave with set := [0] } }) }
theorem test_fences : entryOn 0 (fence true) = true ∧ entryOn 1 (fence true) = false ∧ physOf 0 (fence true) = some 0 ∧ physOf 7 (fence true) = none ∧
    (spn 0 (fence true)).fence = none ∧ spares 0 (fence true) = [151] ∧ spares 0 (fence false) = [] ∧ soundPending 151 (fence true) = false ∧
    Answers INT_FENCE (fence true) ∧ (written INT_FENCE 0x80000000 (fence true)).2 = false ∧ (written INT_FENCE 7 (fence true)).2 = false := by
  unfold Answers; decide +kernel
theorem test_fence_edge : let s := { fence true with spns := [(0, { fence := some 2 })] }
    beating s = true ∧ s.voteDue = false ∧ (s.spns.filter fun y => y.2.fence.isSome) = [(0, { fence := some 2 })] ∧ physOf 0 s = some 0 ∧
      ctxExists 5 s = true ∧ (ctx 5 s).weave.set.contains 0 = true ∧ (ctx 5 s).step.isSome := by decide +kernel
theorem test_strikes : ((lookup { up with strikes := [(3, [0, 1])] }.strikes [] 3).filter fun b =>
    beat up < b + fld INT_STRIKE_CFG_WIN_BEATS up) = [0, 1] := by decide +kernel

/-- Spindle 150 is retired; the commands sound a serving spindle, the retired one, a spare one, and shoal module 1. -/
def sounds : State := setFld (INT_STRIKES_STATE 150) phRetired (fence true)
theorem test_soundings : Answers INT_SOUND_CMD sounds ∧ (written INT_SOUND_CMD 0x80000000 sounds).2 = false ∧ (written INT_SOUND_CMD 0x80000096 sounds).2 = false ∧
    (written INT_SOUND_CMD 0x80010097 sounds).2 = false ∧ (written INT_SOUND_CMD 0x82000001 sounds).2 = false ∧ (0x80000000 : W32).getLsbD 31 = true ∧ bit INT_STATUS_SOUND_BUSY sounds = false ∧
    phState 0 sounds = phServing ∧ fld (INT_STRIKES_LOGICAL 0) sounds = 0 ∧ physOf 0 sounds = some 0 ∧ phState 150 sounds = phRetired ∧
    phState 303 sounds = phSpare ∧ anyCtx sounds = true ∧ anyCtx up = false ∧ sounds.sounds = [] ∧
    fldOf INT_SOUND_CMD_KIND (written INT_SOUND_CMD (0x82000001) sounds).1 = 2 ∧
    fldOf INT_SOUND_CMD_DIE (written INT_SOUND_CMD (0x80010097) sounds).1 * 152 + fldOf INT_SOUND_CMD_UNIT (written INT_SOUND_CMD (0x80010097) sounds).1 = 303 := by
  unfold Answers; decide +kernel
theorem test_sounding_ends : let s := { setFld INT_STATUS_SOUND_BUSY 1 up with sounds := [{ kind := 0, unit := 303, cause := 8 }] }
    bit INT_STATUS_SOUND_BUSY s = true ∧ s.sounds = [{ kind := 0, unit := 303, cause := 8 }] ∧
      phState 303 (after (.soundingComplete true 0) s) = phSpare ∧ phState 303 (after (.soundingComplete false 3) s) = phRetired := by decide +kernel

/-! ### A weave image -/

/-- An image of a NOP in the only phase of one shape, offered at address 0 to context 5, which has a spill region. -/
def weaveWords : List (Nat × Nat) :=
  [(0, 0x56574B51), (4, 1), (8, 0x100), (0xC, 6), (0x10, 0x7000), (0x18, 0xABC), (0x20, 0xFA0007), (0x24, 0x4E200004), (0x28, 1), (0x30, 5)] ++
    ([(1, 64), (2, 112), (3, 192), (5, 64), (7, 1), (8, 64)].zip (List.range 6)).flatMap (fun x =>
      [(0x100 + 64 * x.2, x.1.1), (0x104 + 64 * x.2, x.1.2), (0x108 + 64 * x.2, 0x1000 * (x.2 + 1))]) ++
    [(0x2000, 1), (0x2008, 64), (0x2040, 0x40102), (0x2044, 16), (0x2048, 96), (0x2060, 0x20000), (0x2068, 1000), (0x3000, 1), (0x3004, 64),
     (0x3040, 128), (0x3044, 1), (0x5000, 32)]
def offeredWeave : State :=
  let s := setFlds [(MEM_RGN_CFG_VALID 4, 1), (MEM_RGN_CFG_KIND 4, kSpill), (MEM_RGN_BASE_BASE 4, 0x10000000), (MEM_RGN_SIZE_SIZE 4, 0x1000), (MEM_RGN_CFG_OWNER 4, 5),
    (CTX_SPILL_VALID 5 0, 1), (CTX_SPILL_REGION 5 0, 4)] (setState 5 cxLoading up)
  { s with sec := { s.sec with slots := [(1, [])] }, load := { active := true, ctx := 5, len := 0x7000 }
           mem := (weaveWords.foldl (fun t x => wrNat x.1 4 x.2 t) s).mem }
/-- Where the signature and digests hold and the sections name no spindle, the load of the image is accepted. -/
theorem test_load_accepted (h1 : ∀ k m g, Config.ecdsaOk k m g = true) (h2 : ∀ l n, Config.sha384Range l n = 0) (h3 : ∀ d, Config.phaseSpindles d = [])
    (h4 : ∀ d, Config.progSpindles d = []) (h5 : ∀ a b c, Config.lagoonRegionsOk a b c = true) : loadResult offeredWeave.load.addr offeredWeave.load.len offeredWeave.load.ctx offeredWeave.load.inUse offeredWeave = (0, 0) := by
  simp only [loadResult, sectionFault, parseWeave, digestRange, lagoonFaults, unservedFaults, h1, h2, h3, h4, h5]
  decide +kernel
theorem test_load_offered : offeredWeave.load.active = true ∧ ctxState offeredWeave.load.ctx offeredWeave = cxLoading ∧ offeredWeave.load.waiting = false ∧ offeredWeave.sec.waiting = none := by decide +kernel

/-! ### Events with their own effect: every clause of `EventEffects` at a state that meets its conditions -/

/-- Presence pins, a lost lane, lane repair, and the trainings of strait 5. -/
theorem test_link_events : let s := link pUp
    portHere s 5 = true ∧ linkRuns 5 s = true ∧ rd (GLD_PORT_CNT 5 3) (after (.signalLoss 5) s) = 1 ∧
    (after (.prsntMate 6) up).pins.mated.getLsbD 6 = true ∧ (after (.prsntRelease 0) s).pins.mated.getLsbD 0 = false ∧
    wearOf (crnOff (CRN_LANE_MAP 5)) s < wearLimit ∧ rd (CRN_LANE_MAP 5) (after (.laneRepair 5 16) s) = 2 ^ 15 + 16 ∧
    rd (GLD_PORT_CNT 5 3) (after (.laneRepair 5 16) (setFld (GLD_PORT_LANES_REPAIRED 5) 1 s)) = 1 ∧
    mayTrain 5 (link pDown) = true ∧ portState 5 (after (.retrainInterval 5) (link pDown)) = pTraining := by decide +kernel
theorem test_training_events : let s := after (.retrainRequest 0x80000005) (link pUp)
    portBusy 5 s = true ∧ (0, 5) ∉ s.boot.retrainQ ∧ (port 5 (after (.portRetrainDone 5 true) s)).retraining = false ∧
    5 ∈ (after (.portRetrainDone 5 false) s).boot.useDefaults ∧ 5 ∈ (after (.portTrainingDone 5 { ok := false }) (link pTraining)).boot.useDefaults := by
  decide +kernel
theorem test_route_events : (5, 3) ∈ (after (.portDownNotice 5 3) fab).gld.downLinks ∧
    (5, 3) ∉ (after (.portUp 5 3) { fab with gld := { fab.gld with downLinks := [(5, 3)] } }).gld.downLinks ∧
    (let s := { fab with gld := { fab.gld with draining := [0] } }
     0 ∉ (after (.windowDrainDone 0) s).gld.draining ∧ bit (GLD_WIN_CFG_VALID 0) (after (.windowDrainDone 0) s) = false) ∧
    Answers GLD_NODE up ∧ anyCtx up = false ∧ fld GLD_NODE_NODE (after (.gldNodeWrite 0x7) up) = 7 ∧
    fldOf (GLD_MSG_RING_VALID 5) (written (GLD_MSG_RING 5) 0 (ring 1)).1 = 0 ∧ rd (GLD_MSG_RING 5) (after (.msgRingWrite 5 0) (ring 1)) = 0 ∧
    fld (GLD_MSG_STATUS_HEAD 5) (after (.send (.message (packetOf (hdr ocSend) eight))) (ring 1)) = 2 := by
  unfold Answers; decide +kernel

/-- Suspects and strikes. -/
theorem test_replay_starts : phState 303 (after (.witnessReplay e0) (suspects (suspect kTensor { gauge := true }) [])) = phWitness := by decide +kernel
theorem test_replay_ends : let d := suspect kVector seen
    let s := suspects d [(INT_STRIKES_STATE 303, phWitness)]
    replayWaits e0 d s = false ∧ (witnessed e0 d [nanDoc] true {} s).1 = d.result ∧
      rd (INT_CNT 1) (after (.witnessComplete e0 [nanDoc] true {}) s) = 1 := by decide +kernel
theorem test_buddy_fails : let d := suspect kTensor { seen with buddy := true, local_ := some [0] }
    bit INT_ERR_BUDDY_FAIL (after (.buddyTimeout e0) (suspects d [])) = true := by decide +kernel
theorem test_strike_expires :
    lookup (after (.strikeExpiry 3) { setFlds [(INT_STRIKE_CFG_WIN_BEATS, 4), (BT_TALLY_BEAT, 9)] up with strikes := [(3, [4, 5, 8])] }).strikes [] 3 = [8] := by
  decide +kernel
theorem test_fence_events : let s := fence true
    (spn 0 (after (.hangTimeout 0) s)).fence.isSome = true ∧ (spn 0 (after (.intFence 0x80000000) s)).fence.isSome = true := by decide +kernel
theorem test_sounding_events : (written INT_SOUND_CMD ((0x81000007 : W32).setWidth 64) up).2 = false ∧ atollHere up 7 = true ∧ Answers INT_SOUND_CMD up ∧
    (after (.sounding 0x81000007) up).sounds.map (fun x => (x.kind, x.cause)) = [(1, 8)] := by unfold Answers; decide +kernel
theorem test_sounding_result : fld INT_SOUND_STATUS_RESULT (after (.soundingComplete false 3) (after (.sounding 0x82000001) up)) = 2 := by decide +kernel

/-! Ferry channels. -/
theorem test_channel_events : let d := moving 0x1000000 0x2000008
    (chan 7 (after (.ferryEntry e0) (chan7 0 0 {}))).state = .running ∧ (chan 7 (after (.load 7 1) (driver (loaded 1)))).state = .running ∧
    (chan 7 (after (.resume 7 2 true) (driver { state := .halted, active := some d }))).state = .running ∧
    (chan 7 (after (.abort 7 4) (running d))).state = .aborted ∧
    (let f : FryDesc := { words := copy16 0 1 1, src := .driver }
     fTrigger f = 1 ∧ emptyXfer f = false ∧ isRemote f = false ∧ (chan 7 (after (.timerTrigger 7) (driver { state := .armed, active := some f }))).state = .running) ∧
    rd (FRY_CNT 3) (after (.busError 7 0 0 0) (running d)) = 1 ∧
    rd (FRY_CNT 0) (after (.transferComplete 7 [] 0 {}) (farRun getting [])) = 1 := by decide +kernel

/-! Bring-up, the host link and power. -/
theorem test_bringup_events : (after (.perstDeassert true) up).pins.commonClock = true ∧ (after .perstAssert up).pins.perst = true ∧
    (let s := { up with pins := { up.pins with v48 := true, i3cStraps := 3 } }
     .i3cAnswer 0x33 7 ∈ (after (.mctpControl 7) s).sent) ∧
    stage (after .powerGood (at_ stPower)) = stRom ∧ (after .powerGood (at_ stPower)).pins.pwrgd = true ∧
    (∀ k ∈ [1, 2], stageDone (stage (at_ k)) (at_ k) = true ∧ bit BRG_CTRL_WARM (at_ k) = false ∧ stage (after (.stageComplete 5) (at_ k)) = k + 1) ∧
    stage (after .hotReset up) = stWarm ∧ (after .hotReset up).boot.rejoin = 1 := by decide +kernel
theorem test_image_events : (after (.fwFetchDone true true 9 77) (setFld BRG_CTRL_FW_GO 1 fetching)).boot.fwDigest = 77 ∧
    (5, 7, 9) ∈ (after (.bootOffer 5 7 9) offered).boot.offers ∧ bit BRG_CTRL_FW_GO (after (.fwGo 1) fetching) = true ∧
    stage fetching ≤ stFwFetch := by decide +kernel
theorem test_host_events : (after (.hostLinkDown 0x4) up).boot.hostDown = 4 ∧ (after (.hostLinkUp 2) held).boot.hostDown = 0x8000 ∧
    (after .hostLossTimeout held).hostHeld = [] ∧ bit BRG_ERR_HOST_LOST (after .hostLossTimeout held) = true := by decide +kernel
theorem test_power_events : fld PWR_MEAS_INST_W (after (.powerSample { instW := 65537, spinW := 0, avgMsW := 0 }) up) = 1 ∧
    diesDown up = false ∧ true ∈ (after (.droopAlarm true 40 true) up).pwr.droopDies ∧
    fld PWR_HAVEN_CAUSE (after .floorTimeout (setFld PWR_CAP_HOST_WATTS 1 up)) = 1 ∧
    fld PWR_HAVEN_CAUSE (after .thermalLimitTimeout { up with pwr := { up.pwr with thermB := 63 } }) = 2 ∧
    fld PWR_HAVEN_CAUSE (after (.havenEnter 2) up) = 3 ∧
    stage (after (.havenExit 1) (setFlds [(PWR_HAVEN_ACTIVE, 1), (PWR_CAP_HOST_WATTS, 1500)] up)) = stWarm ∧
    bit BRG_STATUS_COLD (after (.cold 4) up) = true ∧ mayRejoin up = true ∧ stage (after (.warm 2) up) = stWarm := by decide +kernel

end Sys2Proof.Tests
end

section
/-! PROOFS. Fields written one after another, and what a command leaves of a part of the state that its effect changed. -/

namespace Sys2Proof.Machine

open Sys2Proof.Safety

/-! ### Fields written one after another -/

/-- Two fields that share no bit. -/
abbrev FRef.Apart (f g : FRef) : Prop := f.off ≠ g.off ∨ f.hi < g.lo ∨ g.hi < f.lo

theorem fld_setFld_apart {f g : FRef} (h : f.Apart g) (hg : g.hi < 64) (x : Nat) (s : State) :
    fld g (setFld f x s) = fld g s := by
  rcases h with h | h
  · exact fld_setFld_other f g x s h.symm
  · exact fld_setFld_disjoint f g x s hg h

theorem fld_setFlds_apart {g : FRef} (hg : g.hi < 64) {l : List (FRef × Nat)} (h : ∀ p ∈ l, p.1.Apart g) (s : State) :
    fld g (setFlds l s) = fld g s := by
  induction l generalizing s with
  | nil => rfl
  | cons p l ih =>
    calc fld g (setFlds (p :: l) s) = fld g (setFld p.1 p.2 s) := ih (fun q hq => h q (by simp [hq])) _
      _ = fld g s := fld_setFld_apart (h p (by simp)) hg _ _

/-- Of fields that share no bit, each reads what was written to it, whatever is written to the others. -/
theorem fld_setFlds_of_mem {f : FRef} {x : Nat} {l : List (FRef × Nat)} (hl : l.Pairwise fun p q => q.1.Apart p.1)
    (hf : f.hi < 64) (h : (f, x) ∈ l) (s : State) : fld f (setFlds l s) = x % 2 ^ (f.hi + 1 - f.lo) := by
  induction l generalizing s with
  | nil => simp at h
  | cons p l ih =>
    obtain ⟨hp, hl⟩ := List.pairwise_cons.mp hl
    rcases List.mem_cons.mp h with rfl | h
    · calc fld f (setFlds ((f, x) :: l) s) = fld f (setFld f x s) := fld_setFlds_apart hf hp _
        _ = x % 2 ^ (f.hi + 1 - f.lo) := fld_setFld_same f x s hf
    · exact ih hl h _

/-! ### What a command leaves of a part of the state that its effect changed -/

@[simp] theorem after_load (f : State → State) (s : State) : (after f s).load = (f s).load := by
  obtain ⟨m, l, h⟩ := irqSettle_cases s (f s)
  unfold after tidy; rw [h]

@[simp] theorem after_ctxs (f : State → State) (s : State) : (after f s).ctxs = (f s).ctxs := by
  obtain ⟨m, l, h⟩ := irqSettle_cases s (f s)
  unfold after tidy; rw [h]

@[simp] theorem ctx_after (c : Nat) (f : State → State) (s : State) : ctx c (after f s) = ctx c (f s) := by
  unfold ctx; rw [after_ctxs]

@[simp] theorem ctxState_after (c : Nat) (f : State → State) (s : State) : ctxState c (after f s) = ctxState c (f s) :=
  fld_after _ f s

theorem after_congr {f g : State → State} {s : State} (h : f s = g s) : after f s = after g s := by
  unfold after; rw [h]

theorem counts_after {o n : Nat} {f : State → State} {s : State} (h : counts o n s (f s)) : counts o n s (after f s) :=
  (rd_after o f s).trans h

/-- A command differs from any state with its queue in no more than its effect does. -/
theorem regsOnly_after_of {l : List Nat} {f : State → State} {s b : State} (hp : b.pending = s.pending)
    (h : RegsOnly l b (f s)) : RegsOnly l b (after f s) := by
  obtain ⟨hrest, hmem, hwear, hregs⟩ := h
  refine ⟨?_, fun a => ?_, fun k => ?_, fun o ho => ?_⟩
  · rw [rest_after', hrest, ← hp]; rfl
  · rw [rdByte_after, metaAt_after]; exact hmem a
  · rw [wearOf_after]; exact hwear k
  · rw [rd_after]; exact hregs o ho

/-! ### Effects on registers, one after another -/

theorem RegEffect.of_mem {l : List Nat} {o : Nat} {f : State → State} (hf : RegEffect [o] f) (h : o ∈ l) : RegEffect l f :=
  hf.mono (List.cons_subset.mpr ⟨h, List.nil_subset _⟩)

theorem regsOnly_trans {l : List Nat} {s t u : State} (h : RegsOnly l s t) (h' : RegsOnly l t u) : RegsOnly l s u := by
  obtain ⟨hrest, hmem, hwear, hregs⟩ := h
  obtain ⟨hrest', hmem', hwear', hregs'⟩ := h'
  exact ⟨hrest'.trans hrest, fun a => ⟨(hmem' a).1.trans (hmem a).1, (hmem' a).2.trans (hmem a).2⟩,
    fun k => (hwear' k).trans (hwear k), fun o ho => (hregs' o ho).trans (hregs o ho)⟩

theorem sameMem_of_regsOnly {l : List Nat} {s t : State} (h : RegsOnly l s t) : SameMem s t := h.2.1

theorem sameRegs_of_regsOnly {l : List Nat} {s t : State} (h : RegsOnly l s t) : SameRegs l s t := h.2.2.2

theorem rest_ctxs (s : State) : (rest s).ctxs = s.ctxs := rfl

theorem rest_sec (s : State) : (rest s).sec = s.sec := rfl

theorem rest_load (s : State) : (rest s).load = s.load := rfl

theorem ctx_of_regsOnly {l : List Nat} {s t : State} (h : RegsOnly l s t) (k : Nat) : ctx k t = ctx k s := by
  unfold ctx; rw [← rest_ctxs t, h.1, rest_ctxs]

theorem sec_of_regsOnly {l : List Nat} {s t : State} (h : RegsOnly l s t) : t.sec = s.sec := by
  rw [← rest_sec t, h.1, rest_sec]

theorem load_of_regsOnly {l : List Nat} {s t : State} (h : RegsOnly l s t) : t.load = s.load := by
  rw [← rest_load t, h.1, rest_load]

/-! ### Contexts -/

@[simp] theorem ctx_setCtx_same (c : Nat) (x : Ctx) (s : State) : ctx c (setCtx c x s) = x := lookup_put_same _ _ _ _

theorem ctx_setCtx_other {c k : Nat} (h : k ≠ c) (x : Ctx) (s : State) : ctx k (setCtx c x s) = ctx k s :=
  lookup_put_other _ _ _ _ h

theorem ctxState_setState (c st : Nat) (h : st < 8) (s : State) : ctxState c (setState c st s) = st :=
  (fld_setFld_same (CTX_STATE_STATE c) st s (by simp [CTX_STATE_STATE])).trans (Nat.mod_eq_of_lt h)

theorem regEffect_setState (c st : Nat) : RegEffect [CTX_STATE c] (setState c st) := regEffect_setFld _ st

end Sys2Proof.Machine
end

section
/-! PROOFS. Loads of weave images: their start, the context that an accepted image creates, and their end (R100, R101). -/

namespace Sys2Proof.Machine

open Sys2Proof.Safety

/-- Contexts put alike into states that differ in registers only. -/
theorem regsOnly_setCtx {l : List Nat} {s t : State} (c : Nat) (x : Ctx) (h : RegsOnly l s t) :
    RegsOnly l (setCtx c x s) (setCtx c x t) := by
  obtain ⟨hrest, hmem, hwear, hregs⟩ := h
  have hset : ∀ u, rest (setCtx c x u) = setCtx c x (rest u) := fun _ => rfl
  exact ⟨by rw [hset, hset, hrest], hmem, hwear, hregs⟩

/-- Memory, the security unit and every context but c are as they were. -/
def KeepsBeside (c : Nat) (s t : State) : Prop := SameMem s t ∧ t.sec = s.sec ∧ ∀ k, k ≠ c → ctx k t = ctx k s

theorem keepsBeside_of_regsOnly (c : Nat) {l : List Nat} {s t : State} (h : RegsOnly l s t) : KeepsBeside c s t :=
  ⟨sameMem_of_regsOnly h, sec_of_regsOnly h, fun k _ => ctx_of_regsOnly h k⟩

theorem keepsBeside_setCtx (c : Nat) (x : Ctx) (s : State) : KeepsBeside c s (setCtx c x s) :=
  ⟨fun _ => ⟨rfl, rfl⟩, rfl, fun _ hk => ctx_setCtx_other hk x s⟩

theorem keepsBeside_trans {c : Nat} {s t u : State} (h : KeepsBeside c s t) (h' : KeepsBeside c t u) : KeepsBeside c s u := by
  obtain ⟨hmem, hsec, hctx⟩ := h
  obtain ⟨hmem', hsec', hctx'⟩ := h'
  exact ⟨fun a => ⟨(hmem' a).1.trans (hmem a).1, (hmem' a).2.trans (hmem a).2⟩, hsec'.trans hsec,
    fun k hk => (hctx' k hk).trans (hctx k hk)⟩

/-! ### The start of a load (R101, log 98) -/

theorem regWrite_WV_LOAD_CTRL (ok : Bool) (v : W64) (s : State) : regWrite ok WV_LOAD_CTRL v s = loadStart v s := rfl

theorem regHold_WV_LOAD_CTRL : regHold WV_LOAD_CTRL = some (WV_LOAD_CTRL, false) := by decide +kernel

/-- A write without a reserved encoding stores its value and reports nothing. -/
theorem store_of_not_reserved {o : Nat} {v : W64} {s : State} (h : (written o v s).2 = false) :
    store o v s = wr o (written o v s).1 s := by
  simp [store, rsvEnc, h]

theorem loadStart_busy {v : W64} {s : State} (hv : wbit v 0 = true) (hb : bit WV_LOAD_STATUS_BUSY s = true) :
    loadStart v s = s := by
  simp [loadStart, hv, hb]

/-- Puts a load in progress. -/
def setLoad (l : Load) (s : State) : State := { s with load := l }

/-- The load that a START of context c takes (log 98). -/
def takenLoad (c : Nat) (s : State) : Load :=
  { active := true, inUse := ctxExists c s, waiting := bit SEC_CMD_STATUS_BUSY s
    addr := fld WV_LOAD_ADDR_ADDR s * 4096, len := (rd WV_LOAD_LEN s).toNat, ctx := c }

/-- A START sets BUSY, and its context becomes LOADING unless it is in use. -/
def markLoading (c : Nat) (used : Bool) (s : State) : State :=
  let s := setFld WV_LOAD_STATUS_BUSY 1 s
  if used then s else setState c cxLoading s

theorem loadStart_of_start {v : W64} {s : State} (hv : wbit v 0 = true) (hb : bit WV_LOAD_STATUS_BUSY s = false) :
    let s' := store WV_LOAD_CTRL v s; let c := fld WV_LOAD_CTRL_CONTEXT s'
    loadStart v s = markLoading c (ctxExists c s') (setLoad (takenLoad c s') s') := by
  unfold loadStart
  rw [hv, hb]
  rfl

/-- A write of WV_LOAD_CTRL reaches nothing that a START reads beside its own fields. -/
theorem takenLoad_wr_WV_LOAD_CTRL (c : Nat) (x : W64) (s : State) :
    takenLoad c (wr WV_LOAD_CTRL x s) = takenLoad c s := by
  have hother : ∀ f : FRef, f.off ≠ WV_LOAD_CTRL → fld f (wr WV_LOAD_CTRL x s) = fld f s :=
    fun f h => fld_wr_other f x s h
  have hstate : (CTX_STATE_STATE c).off ≠ WV_LOAD_CTRL := by
    simp only [CTX_STATE_STATE, CTX_STATE, WV_LOAD_CTRL]; omega
  unfold takenLoad ctxExists ctxState bit
  rw [hother _ hstate, hother _ (by decide), hother _ (by decide), rd_wr_other (by decide)]

/-- A START while no load runs, without a reserved encoding. -/
theorem loadStart_idle {v : W64} {s : State} (hv : wbit v 0 = true) (hb : bit WV_LOAD_STATUS_BUSY s = false)
    (hr : (written WV_LOAD_CTRL v s).2 = false) :
    let x := (written WV_LOAD_CTRL v s).1; let c := fldOf WV_LOAD_CTRL_CONTEXT x
    loadStart v s = markLoading c (ctxExists c s) (setLoad (takenLoad c s) (wr WV_LOAD_CTRL x s)) := by
  intro x c
  have hc : fld WV_LOAD_CTRL_CONTEXT (wr WV_LOAD_CTRL x s) = c := congrArg _ (rd_wr_same _ _ _)
  have hload := takenLoad_wr_WV_LOAD_CTRL c x s
  have hused : ctxExists c (wr WV_LOAD_CTRL x s) = ctxExists c s := congrArg Load.inUse hload
  rw [loadStart_of_start hv hb, store_of_not_reserved hr, hc, hload, hused]

theorem regEffect_markLoading (c : Nat) (used : Bool) : RegEffect [WV_LOAD_STATUS, CTX_STATE c] (markLoading c used) := by
  have hbusy : RegEffect [WV_LOAD_STATUS, CTX_STATE c] (setFld WV_LOAD_STATUS_BUSY 1) :=
    (regEffect_setFld _ 1).of_mem (by simp [WV_LOAD_STATUS_BUSY])
  have hstate : RegEffect [WV_LOAD_STATUS, CTX_STATE c] (setState c cxLoading) := (regEffect_setState c _).of_mem (by simp)
  cases used
  · exact hbusy.comp hstate
  · exact hbusy

theorem ctxState_markLoading (c : Nat) (used : Bool) (s : State) :
    ctxState c (markLoading c used s) = if used then ctxState c s else cxLoading := by
  cases used
  · exact ctxState_setState c cxLoading (by decide) _
  · exact fld_setFld_other _ _ _ s (by simp only [CTX_STATE_STATE, CTX_STATE, WV_LOAD_STATUS_BUSY, WV_LOAD_STATUS]; omega)

theorem busy_markLoading (c : Nat) (used : Bool) (s : State) : bit WV_LOAD_STATUS_BUSY (markLoading c used s) = true := by
  have hset : bit WV_LOAD_STATUS_BUSY (setFld WV_LOAD_STATUS_BUSY 1 s) = true := by
    unfold bit; rw [fld_setFld_same _ _ _ (by decide)]; rfl
  cases used
  · unfold bit at hset ⊢
    rw [markLoading, if_neg (by decide), setState, fld_setFld_other, hset]
    simp only [CTX_STATE_STATE, CTX_STATE, WV_LOAD_STATUS_BUSY, WV_LOAD_STATUS]; omega
  · exact hset

/-- A START while no load runs keeps what it was given, sets BUSY and takes a free context. -/
theorem loadStart_effect {v : W64} {s : State} (hv : wbit v 0 = true) (hb : bit WV_LOAD_STATUS_BUSY s = false)
    (hr : (written WV_LOAD_CTRL v s).2 = false) :
    let x := (written WV_LOAD_CTRL v s).1; let c := fldOf WV_LOAD_CTRL_CONTEXT x; let u := loadStart v s
    rd WV_LOAD_CTRL u = x ∧ bit WV_LOAD_STATUS_BUSY u = true ∧ u.load = takenLoad c s ∧
      ctxState c u = (if ctxExists c s then ctxState c s else cxLoading) ∧
      RegsOnly [WV_LOAD_CTRL, WV_LOAD_STATUS, CTX_STATE c] (setLoad (takenLoad c s) s) u := by
  intro x c u
  have hu : u = markLoading c (ctxExists c s) (wr WV_LOAD_CTRL x (setLoad (takenLoad c s) s)) := loadStart_idle hv hb hr
  have hctrl : WV_LOAD_CTRL ∉ [WV_LOAD_STATUS, CTX_STATE c] := by
    simp only [List.mem_cons, List.not_mem_nil, or_false, WV_LOAD_CTRL, WV_LOAD_STATUS, CTX_STATE]; omega
  have hstate : (CTX_STATE_STATE c).off ≠ WV_LOAD_CTRL := by
    simp only [CTX_STATE_STATE, CTX_STATE, WV_LOAD_CTRL]; omega
  have heffect := (regEffect_wr WV_LOAD_CTRL x).of_mem (l := [WV_LOAD_CTRL, WV_LOAD_STATUS, CTX_STATE c]) (by simp)
    |>.comp ((regEffect_markLoading c (ctxExists c s)).mono (by simp))
  have hframe := heffect.regsOnly (setLoad (takenLoad c s) s)
  rw [← hu] at hframe
  refine ⟨?_, ?_, load_of_regsOnly hframe, ?_, hframe⟩
  · rw [hu, (regEffect_markLoading c _ _).2 _ hctrl, rd_wr_same]
  · rw [hu, busy_markLoading]
  · rw [hu, ctxState_markLoading]
    exact congrArg (fun n => if ctxExists c s then n else cxLoading) (fld_wr_other _ _ _ hstate)

/-- A START while a load runs is discarded (R101). -/
theorem gives_wvLoadStart_busy {v : W32} {s : State} (ha : Answers WV_LOAD_CTRL s) (hv : v.getLsbD 0 = true)
    (hb : bit WV_LOAD_STATUS_BUSY s = true) : Gives (.wvLoadStart v) s fun t => RegsOnly [] s t := by
  refine gives_write32 ha regHold_WV_LOAD_CTRL rfl (regsOnly_after ?_)
  have hkept : loadStart (v.setWidth 64) { s with acc := WV_LOAD_CTRL } = { s with acc := WV_LOAD_CTRL } :=
    loadStart_busy ((wbit_setWidth v 0).trans hv) hb
  rw [regWrite_WV_LOAD_CTRL, hkept]
  exact (regEffect_acc [] WV_LOAD_CTRL).regsOnly s

/-- A START while no load runs, as a command. -/
theorem gives_wvLoadStart_idle {v : W32} {s : State} (ha : Answers WV_LOAD_CTRL s) (hv : v.getLsbD 0 = true)
    (hb : bit WV_LOAD_STATUS_BUSY s = false) (hr : (written WV_LOAD_CTRL (v.setWidth 64) s).2 = false) :
    let x := (written WV_LOAD_CTRL (v.setWidth 64) s).1; let c := fldOf WV_LOAD_CTRL_CONTEXT x
    Gives (.wvLoadStart v) s fun t =>
      rd WV_LOAD_CTRL t = x ∧ bit WV_LOAD_STATUS_BUSY t = true ∧ t.load = takenLoad c s ∧
        ctxState c t = (if ctxExists c s then ctxState c s else cxLoading) ∧
        RegsOnly [WV_LOAD_CTRL, WV_LOAD_STATUS, CTX_STATE c] { s with load := t.load } t := by
  intro x c
  obtain ⟨hctrl, hbusy, hload, hstate, hframe⟩ :=
    loadStart_effect (s := { s with acc := WV_LOAD_CTRL }) ((wbit_setWidth v 0).trans hv) hb hr
  refine gives_write32 ha regHold_WV_LOAD_CTRL rfl ?_
  simp only [regWrite_WV_LOAD_CTRL, rd_after, bit_after, after_load, ctxState_after]
  refine ⟨hctrl, hbusy, hload, hstate, ?_⟩
  rw [hload]
  exact regsOnly_after_of rfl hframe

/-! ### The context that an accepted image creates (R100, R124, R133, R348, R351, R363) -/

/-- CTX_SET: the spindles of the weave. -/
def setRegs (c : Nat) (w : Weave) (s : State) : State :=
  (List.range 9).foldl (fun s j =>
    wr (CTX_SET c j) (BitVec.ofNat 64 ((w.set.filter fun n => n / 32 = j).foldl (fun t n => t + 2 ^ (n % 32)) 0)) s) s

/-- GAU_THR_SET: the thresholds of the weave. -/
def thrRegs (c : Nat) (w : Weave) (s : State) : State :=
  (List.range 15).foldl (fun s k => wr (GAU_THR_SET c (k + 1)) ((w.thr.getD k 0xFFFFFFFF).setWidth 64) s) s

/-- The registers of context c that its weave sets, and then its state. -/
def weaveRegs (c : Nat) (w : Weave) (s : State) : State :=
  setState c cxStarting (setFld (CTX_STATE_NEVER_RAN c) 1 (setFld (GAU_BUD_CFG_FRAC c) w.frac (thrRegs c w (setRegs c w s))))

/-- The registers that `weaveRegs` writes. -/
def weaveRegList (c : Nat) : List Nat :=
  (List.range 9).map (CTX_SET c) ++ (List.range 15).map (fun k => GAU_THR_SET c (k + 1)) ++ [GAU_BUD_CFG c, CTX_STATE c]

/-- The registers that start at 0 or hold the weave's name. -/
def freshRegs (c : Nat) (w : Weave) (s : State) : State :=
  zeroRegs ((List.range 7).map (CTX_ACC c)) (wr (WV_ID c) w.id (wr (WV_STEP c) 0 s))

/-- Each of the spill regions counts a binding. -/
def bindSpills (rs : List Nat) (s : State) : State := rs.foldl (fun s r => bumpFld (MEM_RGN_CFG_BINDS r) 1 s) s

/-- The context that weave w starts as, on spill regions rs. -/
def freshCtx (w : Weave) (rs : List Nat) (s : State) : Ctx :=
  { weave := w, spills := rs, fbEn := bit GAU_CTRL_FB_EN s, thr0 := (rd GAU_THR_DEFAULT s).setWidth 32 }

theorem createCtx_eq (c : Nat) (w : Weave) (s : State) :
    let rs := (spillRegions c w.set.length s).getD []; let s' := bindSpills rs s
    createCtx c w s = weaveRegs c w (freshRegs c w (setCtx c (freshCtx w rs s') s')) := rfl

theorem regEffect_bumpFld (f : FRef) (n : Nat) : RegEffect [f.off] (bumpFld f n) := fun s => regEffect_setFld f _ s

theorem regEffect_bindSpills (rs : List Nat) : RegEffect (rs.map MEM_RGN_CFG) (bindSpills rs) :=
  RegEffect.foldl rs fun r hr => (regEffect_bumpFld (MEM_RGN_CFG_BINDS r) 1).of_mem (List.mem_map_of_mem (f := MEM_RGN_CFG) hr)

theorem regEffect_freshRegs (c : Nat) (w : Weave) :
    RegEffect (WV_STEP c :: WV_ID c :: (List.range 7).map (CTX_ACC c)) (freshRegs c w) :=
  (((regEffect_wr (WV_STEP c) 0).of_mem (by simp)).comp ((regEffect_wr (WV_ID c) w.id).of_mem (by simp))).comp
    ((regEffect_zeroRegs _).mono fun o ho => by simp [ho])

theorem regEffect_setRegs (c : Nat) (w : Weave) : RegEffect ((List.range 9).map (CTX_SET c)) (setRegs c w) :=
  RegEffect.foldl _ fun _ hj => (regEffect_wr _ _).of_mem (List.mem_map_of_mem hj)

theorem regEffect_thrRegs (c : Nat) (w : Weave) :
    RegEffect ((List.range 15).map fun k => GAU_THR_SET c (k + 1)) (thrRegs c w) :=
  RegEffect.foldl _ fun _ hk => (regEffect_wr _ _).of_mem (List.mem_map_of_mem (f := fun k => GAU_THR_SET c (k + 1)) hk)

theorem regEffect_weaveRegs (c : Nat) (w : Weave) : RegEffect (weaveRegList c) (weaveRegs c w) := by
  have hset : RegEffect (weaveRegList c) (setRegs c w) :=
    (regEffect_setRegs c w).mono fun o ho => by simp only [weaveRegList, List.mem_append, ho, true_or]
  have hthr : RegEffect (weaveRegList c) (thrRegs c w) :=
    (regEffect_thrRegs c w).mono fun o ho => by simp only [weaveRegList, List.mem_append, ho, true_or, or_true]
  have hfrac : RegEffect (weaveRegList c) (setFld (GAU_BUD_CFG_FRAC c) w.frac) :=
    (regEffect_setFld _ _).of_mem (by simp [weaveRegList, GAU_BUD_CFG_FRAC])
  have hran : RegEffect (weaveRegList c) (setFld (CTX_STATE_NEVER_RAN c) 1) :=
    (regEffect_setFld _ _).of_mem (by simp [weaveRegList, CTX_STATE_NEVER_RAN])
  have hstate : RegEffect (weaveRegList c) (setState c cxStarting) :=
    (regEffect_setState c _).of_mem (by simp [weaveRegList])
  have hall := (((hset.comp hthr).comp hfrac).comp hran).comp hstate
  exact hall

/-- The registers that `freshRegs` writes. -/
def freshRegList (c : Nat) : List Nat := WV_STEP c :: WV_ID c :: (List.range 7).map (CTX_ACC c)

/-- Creating a context puts a fresh one on the weave, and beside it changes registers only. -/
theorem createCtx_frame (c : Nat) (w : Weave) (s : State) :
    let rs := (spillRegions c w.set.length s).getD []
    RegsOnly (rs.map MEM_RGN_CFG ++ freshRegList c ++ weaveRegList c) (setCtx c (freshCtx w rs (bindSpills rs s)) s)
      (createCtx c w s) := by
  intro rs
  have hbind := (regEffect_bindSpills rs).mono (m := rs.map MEM_RGN_CFG ++ freshRegList c ++ weaveRegList c)
    fun o ho => by simp only [List.mem_append, ho, true_or]
  have hfresh := (regEffect_freshRegs c w).mono (m := rs.map MEM_RGN_CFG ++ freshRegList c ++ weaveRegList c)
    fun o ho => by simp only [List.mem_append, ho, freshRegList, true_or, or_true]
  have hweave := (regEffect_weaveRegs c w).mono (m := rs.map MEM_RGN_CFG ++ freshRegList c ++ weaveRegList c)
    fun o ho => by simp only [List.mem_append, ho, or_true]
  rw [createCtx_eq]
  exact regsOnly_trans (regsOnly_setCtx c _ (hbind.regsOnly s)) ((hfresh.comp hweave).regsOnly _)

theorem createCtx_keeps (c : Nat) (w : Weave) (s : State) : KeepsBeside c s (createCtx c w s) :=
  keepsBeside_trans (keepsBeside_setCtx c _ s) (keepsBeside_of_regsOnly c (createCtx_frame c w s))

theorem rd_weaveRegs_other {c o : Nat} (w : Weave) (s : State) (h : o ∉ weaveRegList c) :
    rd o (weaveRegs c w s) = rd o s := sameRegs_of_regsOnly ((regEffect_weaveRegs c w).regsOnly s) o h

/-- The weave's registers lie in the blocks GAU and CTX, below the activity counters. -/
theorem mem_weaveRegList_bounds {c o : Nat} (hc : c < 64) (h : o ∈ weaveRegList c) : 0x70000 ≤ o ∧ o < 0x804000 := by
  simp only [weaveRegList, List.mem_append, List.mem_map, List.mem_range, List.mem_cons, List.not_mem_nil, or_false] at h
  rcases h with (⟨j, hj, rfl⟩ | ⟨k, hk, rfl⟩) | rfl | rfl
  · simp only [CTX_SET]; omega
  · simp only [GAU_THR_SET]; omega
  · simp only [GAU_BUD_CFG]; omega
  · simp only [CTX_STATE]; omega

theorem ctxState_weaveRegs (c : Nat) (w : Weave) (s : State) : ctxState c (weaveRegs c w s) = cxStarting :=
  ctxState_setState c cxStarting (by decide) _

theorem neverRan_weaveRegs (c : Nat) (w : Weave) (s : State) : bit (CTX_STATE_NEVER_RAN c) (weaveRegs c w s) = true := by
  have hlast : fld (CTX_STATE_NEVER_RAN c) (weaveRegs c w s) =
      fld (CTX_STATE_NEVER_RAN c) (setFld (CTX_STATE_NEVER_RAN c) 1 _) :=
    fld_setFld_disjoint (CTX_STATE_STATE c) _ _ _ (by simp [CTX_STATE_NEVER_RAN])
      (by simp [CTX_STATE_STATE, CTX_STATE_NEVER_RAN])
  unfold bit
  rw [hlast, fld_setFld_same _ _ _ (by simp [CTX_STATE_NEVER_RAN])]
  simp [CTX_STATE_NEVER_RAN]

/-- A created context starts at step 0 of its weave, with its activity counters at 0 (R124, R351). -/
theorem rd_createCtx {c : Nat} (hc : c < 64) (w : Weave) (s : State) :
    rd (WV_ID c) (createCtx c w s) = w.id ∧ rd (WV_STEP c) (createCtx c w s) = 0 ∧
      ∀ j < 7, rd (CTX_ACC c j) (createCtx c w s) = 0 := by
  have hacc : ∀ o < 0x804000, o ∉ (List.range 7).map (CTX_ACC c) := by
    intro o ho h
    obtain ⟨j, -, rfl⟩ := List.mem_map.mp h
    simp only [CTX_ACC] at ho; omega
  rw [createCtx_eq]
  refine ⟨?_, ?_, fun j hj => ?_⟩
  · rw [rd_weaveRegs_other _ _ fun h => by have := mem_weaveRegList_bounds hc h; simp only [WV_ID] at this; omega]
    rw [freshRegs, rd_zeroRegs_of_not_mem (hacc _ (by simp only [WV_ID]; omega)), rd_wr_same]
  · rw [rd_weaveRegs_other _ _ fun h => by have := mem_weaveRegList_bounds hc h; simp only [WV_STEP] at this; omega]
    rw [freshRegs, rd_zeroRegs_of_not_mem (hacc _ (by simp only [WV_STEP]; omega)),
      rd_wr_other (by simp only [WV_STEP, WV_ID]; omega), rd_wr_same]
  · rw [rd_weaveRegs_other _ _ fun h => by have := mem_weaveRegList_bounds hc h; simp only [CTX_ACC] at this; omega]
    exact rd_zeroRegs_of_mem (List.mem_map_of_mem (List.mem_range.mpr hj)) _

/-- The created context: STARTING, never run, on its weave, with no step in progress. -/
theorem createCtx_starts (c : Nat) (w : Weave) (s : State) :
    ctxState c (createCtx c w s) = cxStarting ∧ bit (CTX_STATE_NEVER_RAN c) (createCtx c w s) = true ∧
      (ctx c (createCtx c w s)).weave = w ∧ (ctx c (createCtx c w s)).step = none := by
  have hctx := ctx_of_regsOnly (createCtx_frame c w s) c
  rw [ctx_setCtx_same] at hctx
  rw [hctx]
  exact ⟨ctxState_weaveRegs c w _, neverRan_weaveRegs c w _, rfl, rfl⟩

/-! ### The end of a load (R100, log 98) -/

/-- What the load in progress, which ended with a code, makes of its context. -/
def loadedCtx (code : Nat) (s : State) : State :=
  if s.load.inUse then s
  else if ctxState s.load.ctx s != cxLoading then s
  else if code = 0 then createCtx s.load.ctx (parseWeave (imgAt s.load.addr s) s) s
  else setState s.load.ctx cxFree s

/-- A rejected signature is counted (R425). -/
def countSignature (code : Nat) (s : State) : State := if code = 4 then bump64 (SEC_CNT 0) 1 s else s

/-- The result that the load in progress reports. -/
def loadCode (s : State) : Nat × Nat := loadResult s.load.addr s.load.len s.load.ctx s.load.inUse s

/-- The fields by which a load reports its end. -/
def endFlds (r : Nat × Nat) : List (FRef × Nat) :=
  [(WV_LOAD_STATUS_BUSY, 0), (WV_LOAD_STATUS_CODE, r.1), (WV_LOAD_STATUS_SECTION, r.2), (WV_LOAD_CTRL_START, 0),
   (TOP_IRQ_STATUS_WV_LOAD, 1)]

/-- The registers that the end of a load writes, beside those of the context. -/
def endRegs : List Nat := [SEC_CNT 0, WV_LOAD_STATUS, WV_LOAD_CTRL, TOP_IRQ_STATUS]

theorem regEffect_countSignature (n : Nat) : RegEffect endRegs (countSignature n) :=
  RegEffect.ite (fun _ => n = 4) (fun s => ((regEffect_wr (SEC_CNT 0) _).of_mem (by simp [endRegs])) s) (regEffect_id _)

theorem endFlds_apart (r : Nat × Nat) : (endFlds r).Pairwise fun p q => q.1.Apart p.1 := by
  simp [endFlds, FRef.Apart, WV_LOAD_STATUS_BUSY, WV_LOAD_STATUS_CODE, WV_LOAD_STATUS_SECTION, WV_LOAD_CTRL_START,
    TOP_IRQ_STATUS_WV_LOAD, WV_LOAD_STATUS, WV_LOAD_CTRL, TOP_IRQ_STATUS]

/-- The context of a load: an image for a context in use, or whose context is no longer LOADING, leaves it alone; an
accepted one is created, a refused one is FREE. -/
theorem loadedCtx_cases (n : Nat) (s : State) :
    ((s.load.inUse = true ∨ ctxState s.load.ctx s ≠ cxLoading) ∧ loadedCtx n s = s) ∨
      n = 0 ∧ loadedCtx n s = createCtx s.load.ctx (parseWeave (imgAt s.load.addr s) s) s ∨
      n ≠ 0 ∧ loadedCtx n s = setState s.load.ctx cxFree s := by
  unfold loadedCtx
  by_cases hu : s.load.inUse = true
  · exact .inl ⟨.inl hu, if_pos hu⟩
  rw [if_neg hu]
  by_cases hs : ctxState s.load.ctx s = cxLoading
  · rw [if_neg (by simp [hs])]
    by_cases hn : n = 0
    · exact .inr (.inl ⟨hn, if_pos hn⟩)
    · exact .inr (.inr ⟨hn, if_neg hn⟩)
  · exact .inl ⟨.inr hs, if_pos (by simpa using hs)⟩

/-- Memory, the security unit and every other context are as they were. -/
theorem loadedCtx_keeps (n : Nat) (s : State) : KeepsBeside s.load.ctx s (loadedCtx n s) := by
  rcases loadedCtx_cases n s with ⟨-, h⟩ | ⟨-, h⟩ | ⟨-, h⟩ <;> rw [h]
  · exact ⟨fun _ => ⟨rfl, rfl⟩, rfl, fun _ _ => rfl⟩
  · exact createCtx_keeps _ _ s
  · exact keepsBeside_of_regsOnly _ ((regEffect_setState s.load.ctx cxFree).regsOnly s)

/-- A rejected signature touches no counter but by counting it. -/
theorem rd_SEC_CNT_loadedCtx {n : Nat} (hn : n ≠ 0) (s : State) : rd (SEC_CNT 0) (loadedCtx n s) = rd (SEC_CNT 0) s := by
  rcases loadedCtx_cases n s with ⟨-, h⟩ | ⟨h0, -⟩ | ⟨-, h⟩
  · rw [h]
  · exact absurd h0 hn
  · rw [h]; exact rd_setFld_other _ _ _ (by simp only [SEC_CNT, CTX_STATE_STATE, CTX_STATE]; omega)

theorem loadedCtx_loading {n : Nat} {s : State} (hu : s.load.inUse = false) (hs : ctxState s.load.ctx s = cxLoading) :
    loadedCtx n s = if n = 0 then createCtx s.load.ctx (parseWeave (imgAt s.load.addr s) s) s
      else setState s.load.ctx cxFree s := by
  unfold loadedCtx; simp [hu, hs]

theorem settleSec_of_none {s : State} (h : s.sec.waiting = none) : settleSec s = s := by
  unfold settleSec; rw [h]

section LoadInProgress

variable {s : State} (ha : s.load.active = true) (hw : s.load.waiting = false)
include ha hw

theorem loadDone_eq :
    loadDone s =
      setFlds (endFlds (loadCode s)) (countSignature (loadCode s).1 (setLoad {} (loadedCtx (loadCode s).1 s))) := by
  have hcomm : ∀ n t, setLoad {} (countSignature n t) = countSignature n (setLoad {} t) := by
    intro n t; unfold countSignature; split <;> rfl
  rw [← hcomm]
  unfold loadDone
  rw [ha, hw]
  rfl

/-- Beside what becomes of its context, the end of a load changes only registers and the load in progress. -/
theorem loadDone_frame : RegsOnly endRegs (setLoad {} (loadedCtx (loadCode s).1 s)) (loadDone s) := by
  have hend : RegEffect endRegs (setFlds (endFlds (loadCode s))) :=
    (regEffect_setFlds _).mono (by simp [endFlds, endRegs, WV_LOAD_STATUS_BUSY, WV_LOAD_STATUS_CODE,
      WV_LOAD_STATUS_SECTION, WV_LOAD_CTRL_START, TOP_IRQ_STATUS_WV_LOAD])
  rw [loadDone_eq ha hw]
  exact regsOnly_trans ((regEffect_countSignature _).regsOnly _) (hend.regsOnly _)

/-- A load that ends reports its code and section, and no load is in progress. -/
theorem loadDone_reports :
    let r := loadCode s; let u := loadDone s
    bit WV_LOAD_STATUS_BUSY u = false ∧ bit WV_LOAD_CTRL_START u = false ∧ fld WV_LOAD_STATUS_CODE u = r.1 % 256 ∧
      fld WV_LOAD_STATUS_SECTION u = r.2 % 256 ∧ bit TOP_IRQ_STATUS_WV_LOAD u = true := by
  intro r u
  have hfld : ∀ f x, (f, x) ∈ endFlds r → f.hi < 64 → fld f u = x % 2 ^ (f.hi + 1 - f.lo) := by
    intro f x h hf
    have hu : u = setFlds (endFlds r) _ := loadDone_eq ha hw
    rw [hu]
    exact fld_setFlds_of_mem (endFlds_apart r) hf h _
  unfold bit
  rw [hfld WV_LOAD_STATUS_BUSY 0 (by simp [endFlds]) (by decide), hfld WV_LOAD_CTRL_START 0 (by simp [endFlds]) (by decide),
    hfld WV_LOAD_STATUS_CODE r.1 (by simp [endFlds]) (by decide),
    hfld WV_LOAD_STATUS_SECTION r.2 (by simp [endFlds]) (by decide),
    hfld TOP_IRQ_STATUS_WV_LOAD 1 (by simp [endFlds]) (by decide)]
  exact ⟨rfl, rfl, rfl, rfl, rfl⟩

theorem loadDone_counts (h4 : (loadCode s).1 = 4) : counts (SEC_CNT 0) 1 s (loadDone s) := by
  have hother : SEC_CNT 0 ∉ (endFlds (loadCode s)).map fun p => p.1.off := by
    simp [endFlds, SEC_CNT, WV_LOAD_STATUS_BUSY, WV_LOAD_STATUS_CODE, WV_LOAD_STATUS_SECTION, WV_LOAD_CTRL_START,
      TOP_IRQ_STATUS_WV_LOAD, WV_LOAD_STATUS, WV_LOAD_CTRL, TOP_IRQ_STATUS]
  unfold counts
  rw [loadDone_eq ha hw, (regEffect_setFlds _ _).2 _ hother, h4, countSignature, if_pos rfl, bump64, rd_wr_same]
  change BitVec.ofNat 64 (min ((rd (SEC_CNT 0) (loadedCtx 4 s)).toNat + 1) _) = _
  rw [rd_SEC_CNT_loadedCtx (by decide)]

theorem loadDone_load : (loadDone s).load = {} := by
  rw [load_of_regsOnly (loadDone_frame ha hw)]; rfl

theorem loadDone_keeps : KeepsBeside s.load.ctx s (loadDone s) := by
  have hset : ∀ t, KeepsBeside s.load.ctx t (setLoad {} t) := fun _ => ⟨fun _ => ⟨rfl, rfl⟩, rfl, fun _ _ => rfl⟩
  exact keepsBeside_trans (keepsBeside_trans (loadedCtx_keeps _ s) (hset _))
    (keepsBeside_of_regsOnly _ (loadDone_frame ha hw))

/-- Of contexts, and of the registers past WV_LOAD_STATUS, the end of a load leaves what `loadedCtx` does. -/
theorem loadDone_leaves :
    (∀ k, ctx k (loadDone s) = ctx k (loadedCtx (loadCode s).1 s)) ∧
      ∀ o, 0x60014 ≤ o → rd o (loadDone s) = rd o (loadedCtx (loadCode s).1 s) := by
  have hframe := loadDone_frame ha hw
  refine ⟨fun k => ctx_of_regsOnly hframe k, fun o ho => sameRegs_of_regsOnly hframe o fun h => ?_⟩
  simp only [endRegs, SEC_CNT, WV_LOAD_STATUS, WV_LOAD_CTRL, TOP_IRQ_STATUS, List.mem_cons, List.not_mem_nil, or_false] at h
  omega

theorem ctxState_loadDone (k : Nat) :
    ctxState k (loadDone s) = ctxState k (loadedCtx (loadCode s).1 s) :=
  congrArg (fldOf (CTX_STATE_STATE k)) ((loadDone_leaves ha hw).2 (CTX_STATE k) (by simp only [CTX_STATE]; omega))

theorem loadDone_inUse (hu : s.load.inUse = true) :
    ctx s.load.ctx (loadDone s) = ctx s.load.ctx s ∧ ctxState s.load.ctx (loadDone s) = ctxState s.load.ctx s := by
  have hkept : loadedCtx (loadCode s).1 s = s := if_pos hu
  rw [(loadDone_leaves ha hw).1, ctxState_loadDone ha hw, hkept]
  exact ⟨rfl, rfl⟩

/-- An accepted image leaves its context STARTING at step 0, with the weave of the image. -/
theorem loadDone_accepted (hc : s.load.ctx < 64) (hu : s.load.inUse = false)
    (hs : ctxState s.load.ctx s = cxLoading) (h0 : (loadCode s).1 = 0) :
    let c := s.load.ctx; let w := parseWeave (imgAt s.load.addr s) s; let u := loadDone s
    ctxState c u = cxStarting ∧ bit (CTX_STATE_NEVER_RAN c) u = true ∧ (ctx c u).weave = w ∧ rd (WV_ID c) u = w.id ∧
      rd (WV_STEP c) u = 0 ∧ (ctx c u).step = none ∧ ∀ j < 7, rd (CTX_ACC c j) u = 0 := by
  intro c w u
  have hnew : loadedCtx (loadCode s).1 s = createCtx c w s := by rw [loadedCtx_loading hu hs, if_pos h0]
  obtain ⟨hctx, hrd⟩ := loadDone_leaves ha hw
  obtain ⟨hstate, hran, hweave, hstep⟩ := createCtx_starts c w s
  obtain ⟨hid, hsteps, hacc⟩ := rd_createCtx hc w s
  rw [hnew] at hrd
  have hstateReg := hrd (CTX_STATE c) (by simp only [CTX_STATE]; omega)
  have hctxc : ctx c u = ctx c (createCtx c w s) := (hctx c).trans (congrArg (ctx c) hnew)
  refine ⟨(congrArg _ hstateReg).trans hstate, ?_, by rw [hctxc, hweave], ?_, ?_, by rw [hctxc, hstep], fun j hj => ?_⟩
  · rw [← hran]; exact congrArg (fun x => fldOf (CTX_STATE_NEVER_RAN c) x != 0) hstateReg
  · exact (hrd _ (by simp only [WV_ID]; omega)).trans hid
  · exact (hrd _ (by simp only [WV_STEP]; omega)).trans hsteps
  · exact (hrd _ (by simp only [CTX_ACC]; omega)).trans (hacc j hj)

/-- A refused image leaves its context FREE and as it was. -/
theorem loadDone_refused (hu : s.load.inUse = false) (hs : ctxState s.load.ctx s = cxLoading) (hn : (loadCode s).1 ≠ 0) :
    ctxState s.load.ctx (loadDone s) = cxFree ∧ ctx s.load.ctx (loadDone s) = ctx s.load.ctx s := by
  rw [ctxState_loadDone ha hw, (loadDone_leaves ha hw).1, loadedCtx_loading hu hs, if_neg hn]
  exact ⟨ctxState_setState _ cxFree (by decide) s, rfl⟩

/-- While no SEC command waits, the end of a load is all that its command does. -/
theorem exec_weaveLoadDone (hn : s.sec.waiting = none) :
    exec .weaveLoadDone s = .next (after loadDone s) := by
  obtain ⟨-, hsec, -⟩ := loadDone_keeps ha hw
  have hsettle : settleSec (loadDone s) = loadDone s := settleSec_of_none (by rw [hsec, hn])
  have hexec : exec .weaveLoadDone s = .next (after (fun s => settleSec (loadDone s)) s) := rfl
  exact hexec.trans (congrArg Host.Outcome.next (after_congr hsettle))

end LoadInProgress

/-- Settles O56: what a START takes follows from the write itself; what the end of a load leaves follows from the three
things that can become of its context (`loadedCtx_cases`) and from the registers by which it reports (`loadDone_frame`). -/
theorem weaveLoads : Obligations.WeaveLoads := by
  refine ⟨fun v s hans hv => ⟨gives_wvLoadStart_busy hans hv, gives_wvLoadStart_idle hans hv⟩, ?_⟩
  intro s c b r w hc ha hw hn
  obtain ⟨hbusy, hstart, hcode, hsection, hirq⟩ := loadDone_reports ha hw
  obtain ⟨hmem, -, hctx⟩ := loadDone_keeps ha hw
  refine ⟨_, exec_weaveLoadDone ha hw hn, ?_⟩
  simp only [bit_after, fld_after, rd_after, ctx_after, ctxState_after, after_load]
  exact ⟨hbusy, hstart, hcode, hsection, hirq, loadDone_load ha hw, sameMem_after hmem, hctx,
    fun h4 => counts_after (loadDone_counts ha hw h4), loadDone_inUse ha hw,
    fun hu hs => ⟨loadDone_accepted ha hw hc hu hs, loadDone_refused ha hw hu hs⟩⟩

end Sys2Proof.Machine
end

section
/-! PROOFS. Retrains of an atoll that fails while it retrains (R147, R440). -/

namespace Sys2Proof.Machine

open Sys2Proof.Safety

/-! ### The end of an atoll retrain -/

/-- Commits that land touch contexts, and nothing else. -/
theorem commitLands_ctxs (a : Nat) (s : State) : ∃ x, commitLands a s = { s with ctxs := x } := by
  refine List.foldlRecOn (motive := fun u : State => ∃ x, u = { s with ctxs := x }) (existing s) _ ⟨s.ctxs, rfl⟩ ?_
  rintro _ ⟨x, rfl⟩ c -
  split
  · exact ⟨_, rfl⟩
  · exact ⟨x, rfl⟩

/-- Without a waiting request no atoll retrain starts. -/
theorem atollNext_of_no_request {s : State} (h : s.boot.retrainQ = []) : atollNext s = s := by
  simp [atollNext, nextQueued, h]

/-- The fields that the end of an atoll's retrain writes: a failed atoll stays so. -/
def retrainEndFlds (s : State) : List (FRef × Nat) :=
  let a := fld BRG_RETRAIN_STATUS_ATOLL s
  [(BRG_RETRAIN_STATUS_ATOLL_BUSY, 0), (BRG_RETRAIN_STATUS_ATOLL, 0), (atollFld a, if atollFailed a s then 2 else 0)]

/-- A retrain that ends well, with none waiting, writes its fields and lets the commits land. -/
theorem atollRetrained_true {s : State} (hbusy : bit BRG_RETRAIN_STATUS_ATOLL_BUSY s = true)
    (hq : s.boot.retrainQ = []) : ∃ x, atollRetrained true s = setFlds (retrainEndFlds s) { s with ctxs := x } := by
  let a := fld BRG_RETRAIN_STATUS_ATOLL s
  obtain ⟨x, hland⟩ := commitLands_ctxs a s
  have hset : atollRetrained true s = atollNext (setFlds (retrainEndFlds s) (commitLands a s)) := by
    unfold atollRetrained; rw [hbusy]; rfl
  rw [hset, hland]
  exact ⟨x, atollNext_of_no_request (by rw [setFlds_boot]; exact hq)⟩

/-- Where the engines hold nothing, nothing goes out. -/
theorem fld_releaseHeld_of_none {s : State} (h : s.reefHeld = []) (f : FRef) : fld f (releaseHeld s) = fld f s := by
  unfold releaseHeld
  rw [h]
  rfl

/-- What follows the end of a swap list is a report in PWR_LEAVE, which reaches no atoll's field of MEM_STATUS. -/
theorem afterSwap_keeps (f : State → State) (s : State) {a : Nat} (ha : a < 8) :
    fld (atollFld a) (afterSwap f s) = fld (atollFld a) (f s) ∧ (afterSwap f s).reefHeld = (f s).reefHeld := by
  have hreport : fld (atollFld a) (reportLeave (f s)) = fld (atollFld a) (f s) :=
    fld_setFlds_apart (by simp only [atollFld]; omega)
      (by simp [FRef.Apart, atollFld, PWR_LEAVE_COMMITTED_W, PWR_LEAVE_WAITING, PWR_LEAVE, MEM_STATUS]) _
  unfold afterSwap
  dsimp only
  split
  · exact ⟨hreport, setFlds_reefHeld _ _⟩
  · exact ⟨rfl, rfl⟩

/-- The atoll of a retrain that ends well reads UP, unless it has failed meanwhile: then it goes on reading FAILED (R147). -/
theorem atollRetrainDone_status {s t : State} (hbusy : bit BRG_RETRAIN_STATUS_ATOLL_BUSY s = true)
    (hq : s.boot.retrainQ = []) (hheld : s.reefHeld = []) (ht : exec (.atollRetrainDone true) s = .next t) :
    fld (atollFld (fld BRG_RETRAIN_STATUS_ATOLL s)) t = if atollFailed (fld BRG_RETRAIN_STATUS_ATOLL s) s then 2 else 0 := by
  set a := fld BRG_RETRAIN_STATUS_ATOLL s
  have ha : a < 8 := Nat.mod_lt _ (by decide)
  obtain ⟨x, hend⟩ := atollRetrained_true hbusy hq
  have hval : fld (atollFld a) (atollRetrained true s) = if atollFailed a s then 2 else 0 := by
    have hwidth : 2 * a + 1 + 1 - 2 * a = 2 := by omega
    rw [hend]
    refine (fld_setFld_same (atollFld a) _ _ (by simp only [atollFld]; omega)).trans ?_
    simp only [atollFld, hwidth]
    change (if atollFailed a s then 2 else 0) % 2 ^ 2 = _
    split <;> rfl
  have hnone : (atollRetrained true s).reefHeld = [] := by rw [hend, setFlds_reefHeld]; exact hheld
  obtain ⟨hfld, hreef⟩ := afterSwap_keeps (atollRetrained true) s ha
  cases (Host.Outcome.next.inj ht : after (fun s => releaseHeld (afterSwap (atollRetrained true) s)) s = t)
  rw [fld_after, fld_releaseHeld_of_none (hreef.trans hnone), hfld, hval]

/-! ### An atoll that fails while it retrains -/

/-- A package on its main rails: atoll 0 starts a retrain, and fails before the retrain has ended. -/
def failedInRetrain : State :=
  let s := after (fun s => atollNext (queueRetrain 1 0 s)) { State.reset with boot := { on := true } }
  after (afterSwap (atollFail 0)) s

/-- ATOLL_RETRAIN and then ATOLL_FAILURE lead there. -/
theorem failedInRetrain_reached :
    Gives (.atollRetrain 0) { State.reset with boot := { on := true } } fun s =>
      Gives (.atollFailure 0) s fun t => t = failedInRetrain :=
  ⟨_, rfl, _, rfl, rfl⟩

theorem failedInRetrain_state :
    bit BRG_RETRAIN_STATUS_ATOLL_BUSY failedInRetrain = true ∧ failedInRetrain.boot.retrainQ = [] ∧
      failedInRetrain.reefHeld = [] ∧
      atollFailed (fld BRG_RETRAIN_STATUS_ATOLL failedInRetrain) failedInRetrain = true := by
  decide +kernel

/-- Refutes O38: its last clause has the atoll of a retrain that ends well read 0 in MEM_STATUS in every state, but an atoll
that has failed while it retrained goes on reading FAILED, as R147 says. -/
theorem not_atollsAndModules : ¬ Obligations.AtollsAndModules := by
  rintro ⟨-, -, -, hdone⟩
  obtain ⟨hbusy, hq, hheld, hfailed⟩ := failedInRetrain_state
  obtain ⟨⟨t, ht, -, hup, -⟩, -⟩ := hdone failedInRetrain hbusy hq hheld
  have hstatus := atollRetrainDone_status hbusy hq hheld ht
  rw [if_pos hfailed, hup] at hstatus
  exact absurd hstatus (by decide)

end Sys2Proof.Machine
end

section
/-! PROOFS. Packets on their way (R276, R285, R294, R303): what passing them on changes, and that an answer for a node that can be
reached is handed on. -/

namespace Sys2Proof.Machine

open Sys2Proof.Safety

/-! ### What passing packets on changes -/

/-- From s to t packets were passed on: ports, the combining table, the record of what left, the counter of free values, and of the
registers those in `l`. -/
def Routed (l : List Nat) (s t : State) : Prop :=
  (∃ r m n p c, t = { s with regs := r, sent := m, free := n, gld := { s.gld with ports := p, combine := c } }) ∧ SameRegs l s t

theorem routed_refl (l : List Nat) (s : State) : Routed l s s :=
  ⟨⟨s.regs, s.sent, s.free, s.gld.ports, s.gld.combine, rfl⟩, fun _ _ => rfl⟩

theorem Routed.trans {l : List Nat} {s t u : State} (h : Routed l s t) (h' : Routed l t u) : Routed l s u := by
  obtain ⟨⟨r, m, n, p, c, rfl⟩, hr⟩ := h
  obtain ⟨⟨r', m', n', p', c', rfl⟩, hr'⟩ := h'
  exact ⟨⟨r', m', n', p', c', rfl⟩, fun o ho => (hr' o ho).trans (hr o ho)⟩

theorem Routed.mono {l k : List Nat} {s t : State} (h : Routed l s t) (hk : l ⊆ k) : Routed k s t :=
  ⟨h.1, fun o ho => h.2 o fun hm => ho (hk hm)⟩

theorem Routed.gld {l : List Nat} {s t : State} (h : Routed l s t) :
    t.gld.history = s.gld.history ∧ t.gld.keys = s.gld.keys ∧ t.gld.rejects = s.gld.rejects := by
  obtain ⟨⟨r, m, n, p, c, rfl⟩, -⟩ := h
  exact ⟨rfl, rfl, rfl⟩

theorem routed_foldl {α : Type} {l : List Nat} {f : State → α → State} (h : ∀ s x, Routed l s (f s x)) (xs : List α) (s : State) :
    Routed l s (xs.foldl f s) := by
  induction xs generalizing s with
  | nil => exact routed_refl l s
  | cons x xs ih => exact (h s x).trans (ih _)

theorem routed_send (m : Sent) (s : State) : Routed [] s (send m s) :=
  ⟨⟨s.regs, _, s.free, s.gld.ports, s.gld.combine, rfl⟩, fun _ _ => rfl⟩

theorem routed_setPort (p : Nat) (x : Port) (s : State) : Routed [] s (setPort p x s) :=
  ⟨⟨s.regs, s.sent, s.free, _, s.gld.combine, rfl⟩, fun _ _ => rfl⟩

theorem routed_setCombine (l : List Combine) (s : State) : Routed [] s (setCombine l s) :=
  ⟨⟨s.regs, s.sent, s.free, s.gld.ports, _, rfl⟩, fun _ _ => rfl⟩

theorem routed_free (n : Nat) (s : State) : Routed [] s { s with free := n } :=
  ⟨⟨s.regs, s.sent, n, s.gld.ports, s.gld.combine, rfl⟩, fun _ _ => rfl⟩

theorem routed_bump64 (o n : Nat) (s : State) : Routed [o] s (bump64 o n s) :=
  ⟨⟨_, s.sent, s.free, s.gld.ports, s.gld.combine, rfl⟩, fun _ hp => rd_wr_other (by simpa using hp) _ _⟩

/-! ### Ports -/

@[simp] theorem port_setPort (p : Nat) (x : Port) (s : State) : port p (setPort p x s) = x := lookup_put_same _ _ _ _

/-- The message m has left the package, or waits in port p. -/
def AtPort (p : Nat) (m : Sent) (s : State) : Prop := m ∈ s.sent ∨ m ∈ (port p s).queue.map (·.msg)

theorem lookup_mem_or {α : Type} (m : List (Nat × α)) (d : α) (k : Nat) : lookup m d k = d ∨ (k, lookup m d k) ∈ m := by
  induction m with
  | nil => exact .inl rfl
  | cons e rest ih =>
    obtain ⟨j, v⟩ := e
    by_cases h : j = k
    · right; simp [lookup, h]
    · simp only [lookup, h, if_false, List.mem_cons]
      exact ih.imp_right .inr

theorem handed_of_atPort {p : Nat} {m : Sent} {s : State} (h : AtPort p m s) : handed m s := by
  refine h.imp_right fun hq => ?_
  obtain ⟨q, hq, hm⟩ := List.mem_map.mp hq
  rcases lookup_mem_or s.gld.ports {} p with hd | hp
  · rw [port, hd] at hq
    simp at hq
  · exact ⟨_, hp, q, hq, hm⟩

theorem atPort_send {p : Nat} {m : Sent} {s : State} (h : AtPort p m s) (x : Sent) : AtPort p m (send x s) :=
  h.imp_left fun hm => List.mem_append_left _ hm

/-- A change of port p that keeps its queue keeps every message. -/
theorem atPort_setPort {p : Nat} {m : Sent} {s : State} {x : Port} (h : AtPort p m s) (hx : x.queue = (port p s).queue) :
    AtPort p m (setPort p x s) :=
  h.imp_right fun hq => by rw [port_setPort, hx]; exact hq

theorem groupUnits_spec (p n : Nat) (s : State) :
    Routed [] s (groupUnits p n s) ∧ ∀ m, AtPort p m s → AtPort p m (groupUnits p n s) := by
  unfold groupUnits
  dsimp only
  split
  · exact ⟨routed_refl _ _, fun _ h => h⟩
  split
  · exact ⟨routed_setPort _ _ _, fun _ h => atPort_setPort h rfl⟩
  have htag := (routed_send (.linkTag p (groupNonce p (port p s).txGroup s)) s).trans
    (routed_setPort p { port p s with txFill := (port p s).txFill + n - 63, txGroup := (port p s).txGroup + 1 } _)
  have hkeep (m : Sent) (h : AtPort p m s) := atPort_setPort
    (x := { port p s with txFill := (port p s).txFill + n - 63, txGroup := (port p s).txGroup + 1 })
    (atPort_send h (.linkTag p (groupNonce p (port p s).txGroup s))) rfl
  split
  · exact ⟨htag.trans (routed_send _ _), fun m h => atPort_send (hkeep m h) _⟩
  · exact ⟨htag, hkeep⟩

/-- What a codeword takes from the queue has left with it, or stays there with fewer units. -/
theorem atPort_codeword {p i : Nat} {q : Queued} {s : State} {x : Port} (hq : (port p s).queue[i]? = some q)
    (hx : x.queue = if q.units ≤ 10 then (port p s).queue.eraseIdx i else (port p s).queue.set i { q with units := q.units - 10 })
    {m : Sent} (h : AtPort p m s) :
    AtPort p m (if q.units ≤ 10 then send q.msg (setPort p x s) else setPort p x s) := by
  obtain ⟨hi, hqi⟩ := List.getElem?_eq_some_iff.mp hq
  split_ifs at hx ⊢ with hfinal
  · rcases h with h | h
    · exact .inl (List.mem_append_left _ h)
    · obtain ⟨q', hq', rfl⟩ := List.mem_map.mp h
      obtain ⟨j, hj, rfl⟩ := List.mem_iff_getElem.mp hq'
      by_cases hij : j = i
      · subst hij
        left
        rw [hqi]
        exact List.mem_append_right _ (List.mem_singleton_self _)
      · right
        show _ ∈ (port p (setPort p x s)).queue.map (·.msg)
        rw [port_setPort, hx]
        exact List.mem_map_of_mem (List.mem_eraseIdx_iff_getElem.mpr ⟨j, hj, hij, rfl⟩)
  · refine h.imp_right fun hm => ?_
    have hset : x.queue.map (·.msg) = (port p s).queue.map (·.msg) := by
      rw [hx, List.map_set]
      exact List.ext_getElem (by simp) fun j hj hj' => by
        simp only [List.getElem_set, List.getElem_map]
        split_ifs with hij
        · subst hij; rw [hqi]
        · rfl
    rw [port_setPort, hset]
    exact hm

theorem drainPort_spec (f p : Nat) (s : State) :
    Routed [] s (drainPort f p s) ∧ ∀ m, AtPort p m s → AtPort p m (drainPort f p s) := by
  induction f generalizing s with
  | zero => exact ⟨routed_refl _ _, fun _ h => h⟩
  | succ f ih =>
    unfold drainPort
    dsimp only
    split
    · exact ⟨routed_refl _ _, fun _ h => h⟩
    split
    · exact ⟨routed_refl _ _, fun _ h => h⟩
    next tc turns _ =>
    split
    · exact ⟨routed_refl _ _, fun _ h => h⟩
    next q hq =>
    simp only [decide_eq_true_eq]
    generalize hx : ({ port p s with queue := _, turns := turns, replay := _, txNext := _ } : Port) = x
    have hsent : Routed [] s (if q.units ≤ 10 then send q.msg (setPort p x s) else setPort p x s) := by
      split
      · exact (routed_setPort p x s).trans (routed_send _ _)
      · exact routed_setPort p x s
    obtain ⟨hgroup, hkeep⟩ := groupUnits_spec p (min 10 q.units) (if q.units ≤ 10 then send q.msg (setPort p x s) else setPort p x s)
    obtain ⟨hrest, hkeep'⟩ := ih (groupUnits p (min 10 q.units) (if q.units ≤ 10 then send q.msg (setPort p x s) else setPort p x s))
    exact ⟨(hsent.trans hgroup).trans hrest, fun m hm => hkeep' m (hkeep m (atPort_codeword hq (by rw [← hx]) hm))⟩

theorem post_spec (p v : Nat) (m : Sent) (s : State) : Routed [] s (post p v m s) ∧ handed m (post p v m s) := by
  obtain ⟨hdrain, hkeep⟩ := drainPort_spec 256 p
    (modPort p (fun x => { x with queue := x.queue ++ [{ msg := m, vc := v, units := linkUnits m }] }) s)
  exact ⟨(routed_setPort _ _ _).trans hdrain, handed_of_atPort (hkeep m (.inr (by simp [modPort])))⟩

theorem leaveBy_spec {hop : Option (Nat × Nat)} (h : hop.isSome = true) (m : Sent) (s : State) :
    Routed [] s (leaveBy hop m s) ∧ handed m (leaveBy hop m s) := by
  obtain ⟨⟨p, v⟩, rfl⟩ := Option.isSome_iff_exists.mp h
  exact post_spec p v m s

theorem routed_leaveBy (hop : Option (Nat × Nat)) (m : Sent) (s : State) : Routed [GLD_CNT 6] s (leaveBy hop m s) := by
  cases hop with
  | none => exact routed_bump64 _ _ _
  | some x => exact (post_spec x.1 x.2 m s).1.mono (List.nil_subset _)

/-! ### Copies and held packets that go on -/

theorem routed_release (e : Combine) (s : State) : Routed [GLD_CNT 6] s (release e s) := by
  unfold release
  split
  · exact routed_refl _ _
  · exact routed_leaveBy _ _ _

theorem routed_closeEntries (h : ReqHeader) (keep : Combine → Bool) (s : State) :
    Routed [GLD_CNT 6] s (closeEntries h keep s) := by
  unfold closeEntries
  dsimp only
  split
  · exact routed_refl _ _
  · exact (routed_foldl (fun s e => routed_release e s) _ s).trans ((routed_setCombine _ _).mono (List.nil_subset _))

theorem routed_emit (p : Packet) (s : State) : Routed [GLD_CNT 6] s (emit p s) := by
  unfold emit
  refine (routed_closeEntries p.hdr (fun _ => false) s).trans ?_
  extract_lets t
  split
  · exact (routed_send _ _).mono (List.nil_subset _)
  · exact routed_leaveBy _ _ _

theorem routed_emitTree (p : Packet) (members : List Nat) (s : State) : Routed [GLD_CNT 6] s (emitTree p members s) :=
  routed_foldl (fun _ _ => routed_leaveBy _ _ _) _ s

theorem routed_emitMcast (p : Packet) (s : State) : Routed [GLD_CNT 6] s (emitMcast p s) := by
  unfold emitMcast
  dsimp only
  split
  · exact routed_foldl (fun s o => routed_emitTree _ _ s) _ s
  · exact routed_emitTree _ _ _

theorem routed_sendPkt (o : FabOp) (k : Nat) (retx : Bool) (s : State) : Routed [GLD_CNT 6] s (sendPkt o k retx s) := by
  unfold sendPkt
  extract_lets h pay hk p t
  split
  · exact routed_leaveBy _ _ _
  split
  · have hcopies : Routed [GLD_CNT 6] s t := (routed_closeEntries h (fun _ => false) s).trans (routed_emitMcast p _)
    split
    · exact hcopies.trans ((routed_send _ _).mono (List.nil_subset _))
    · exact hcopies
  · exact routed_emit _ _

theorem routed_sendOp (o : FabOp) (s : State) : Routed [GLD_CNT 6] s (sendOp o s) :=
  routed_foldl (fun s k => routed_sendPkt o k false s) _ s

end Sys2Proof.Machine
end

section
/-! PROOFS. Answers of a target (R285, R294): one whose node can be reached is handed on, and nothing else changes. -/

namespace Sys2Proof.Machine

open Sys2Proof.Safety

/-! ### What paths depend on -/

/-- The router of t stands as that of s: the own node, the ports, and the links known DOWN. -/
def SameRouter (s t : State) : Prop :=
  t.gld.downLinks = s.gld.downLinks ∧ rd GLD_NODE t = rd GLD_NODE s ∧ ∀ p < 7, rd (GLD_PORT_STATUS p) t = rd (GLD_PORT_STATUS p) s

/-- A change of no register of the router. -/
theorem sameRouter_of_regs {l : List Nat} {s t : State} (hd : t.gld.downLinks = s.gld.downLinks) (h : SameRegs l s t)
    (hn : GLD_NODE ∉ l) (hp : ∀ p < 7, GLD_PORT_STATUS p ∉ l) : SameRouter s t :=
  ⟨hd, h _ hn, fun p h7 => h _ (hp p h7)⟩

section
variable {s t : State} (h : SameRouter s t)
include h

theorem myNode_congr : myNode t = myNode s := by
  obtain ⟨-, hn, -⟩ := h
  simp only [myNode, fld, GLD_NODE_NODE, hn]

theorem dimSize_congr (k : Nat) : dimSize k t = dimSize k s := by
  obtain ⟨-, hn, -⟩ := h
  simp only [dimSize, fld, GLD_NODE_DX_M1, GLD_NODE_DY_M1, GLD_NODE_DZ_M1, hn]

theorem portUpNow_congr {p : Nat} (hp : p < 7) : portUpNow p t = portUpNow p s := by
  obtain ⟨-, -, hports⟩ := h
  simp only [portUpNow, portState, fld, GLD_PORT_STATUS_STATE, hports p hp]

theorem sameDomain_congr (n : Nat) : sameDomain n t = sameDomain n s := by
  simp only [sameDomain, myNode_congr h]

theorem ownPos_congr : ownPos t = ownPos s := by
  simp only [ownPos, myNode_congr h]

theorem stride_congr (k : Nat) : stride k t = stride k s := by
  simp only [stride, dimSize_congr h]

theorem coord_congr (pos k : Nat) : coord pos k t = coord pos k s := by
  simp only [coord, stride_congr h, dimSize_congr h]

theorem stepPos_congr (pos role : Nat) : stepPos pos role t = stepPos pos role s := by
  simp only [stepPos, coord_congr h, stride_congr h, dimSize_congr h]

theorem portOfRole_congr (role : Nat) : portOfRole role t = portOfRole role s := by
  unfold portOfRole
  refine List.find?_congr fun p hp => ?_
  have h7 : p < 7 := by have := List.mem_range.mp hp; omega
  rw [portUpNow_congr h h7]
  simp only [fld, GLD_PORT_STATUS_ROLE, h.2.2 p h7]

theorem linkUp_congr (pos role : Nat) : linkUp pos role t = linkUp pos role s := by
  simp only [linkUp, stepPos_congr h, ownPos_congr h, portOfRole_congr h, h.1]

theorem pathClear_congr (role n pos : Nat) : pathClear t role n pos = pathClear s role n pos := by
  induction n generalizing pos with
  | zero => rfl
  | succ n ih => simp only [pathClear, linkUp_congr h, stepPos_congr h, ih]

theorem pickDir_congr (pos k x : Nat) (tie : Bool) : pickDir pos k x tie t = pickDir pos k x tie s := by
  simp only [pickDir, coord_congr h, dimSize_congr h, pathClear_congr h]

theorem pathDims_congr (dst tie : Nat) (l : List Nat) (pos : Nat) : pathDims dst tie t l pos = pathDims dst tie s l pos := by
  induction l generalizing pos with
  | nil => rfl
  | cons k rest ih => simp only [pathDims, coord_congr h, stride_congr h, pickDir_congr h, ih]

theorem pathOf_congr (src dst tie : Nat) : pathOf src dst tie t = pathOf src dst tie s := by
  simp only [pathOf, pathDims_congr h]

/-- Whether a packet finds a way out does not depend on its source and class. -/
theorem outHop_isSome_congr (src src' node order dir tc tc' : Nat) :
    (outHop src node order dir tc t).isSome = (outHop src' node order dir tc' s).isSome := by
  simp only [outHop, sameDomain_congr h, portUpNow_congr h (by decide : 6 < 7), ownPos_congr h, coord_congr h, portOfRole_congr h]
  split
  · split <;> rfl
  · split
    · rfl
    · simp only [Option.isSome_map]

theorem routable_congr {node : Nat} (hr : routable node s) : routable node t := by
  rcases hr with ⟨hd, h6⟩ | hpath
  · left
    rw [sameDomain_congr h, portUpNow_congr h (by decide)]
    exact ⟨hd, h6⟩
  · refine .inr fun tie htie => ?_
    obtain ⟨x, hx, hout⟩ := hpath tie htie
    rw [pathOf_congr h, ownPos_congr h]
    exact ⟨x, hx, by rw [outHop_isSome_congr h _ (myNode s) _ _ _ _ 0]; exact hout⟩

theorem answerable_congr {p : Packet} (ha : answerable p s) : answerable p t := by
  unfold answerable
  rw [myNode_congr h]
  exact ha.imp_right (routable_congr h)

end

/-! ### Answers -/

/-- Each bit of the direction is 0 or 1, and a value is drawn. -/
theorem tieBits_spec (tc : Nat) (s : State) :
    (tieBits tc s).1 < 8 ∧ (tieBits tc s).2 = { s with free := s.free + 1 } := by
  have hbits {a b c : Nat} (ha : a < 2) (hb : b < 2) (hc : c < 2) : a + b * 2 + c * 4 < 8 := by omega
  refine ⟨hbits ?_ ?_ ?_, rfl⟩
  all_goals
    dsimp only [freeVal]
    split
    · split_ifs <;> omega
    · omega

/-- What is routed to a node that can be reached leaves. -/
theorem routeFrom_spec {node : Nat} {s : State} (h : routable node s) (src tc : Nat) (m : Sent) :
    Routed [] s (routeFrom src node tc m s) ∧ handed m (routeFrom src node tc m s) := by
  obtain ⟨htie, hfree⟩ := tieBits_spec tc s
  unfold routeFrom
  generalize tieBits tc s = x at htie hfree
  obtain ⟨tie, u⟩ := x
  have hu : SameRouter s u := by
    subst hfree
    exact ⟨rfl, rfl, fun _ _ => rfl⟩
  have hsu : Routed [] s u := by subst hfree; exact routed_free _ s
  have hleave {hop : Option (Nat × Nat)} (hop_some : hop.isSome = true) :
      Routed [] s (leaveBy hop m u) ∧ handed m (leaveBy hop m u) :=
    (leaveBy_spec hop_some m u).imp_left hsu.trans
  have houter (hd : sameDomain node s = false) (h6 : portUpNow 6 s = true) (o d : Nat) :
      (outHop src node o d tc u).isSome = true := by
    rw [outHop_isSome_congr hu src src _ _ _ _ tc]
    simp [outHop, hd, h6]
  dsimp only
  split
  next o d hpath =>
    rcases h with ⟨hd, h6⟩ | h
    · exact hleave (houter hd h6 o d)
    · obtain ⟨x, hx, hout⟩ := h tie htie
      rw [pathOf_congr hu, ownPos_congr hu, hx] at hpath
      obtain rfl := Option.some.inj hpath
      exact hleave (by rw [outHop_isSome_congr hu _ (myNode s) _ _ _ _ 0]; exact hout)
  next hpath =>
    rcases h with ⟨hd, h6⟩ | h
    · rw [sameDomain_congr hu, hd]
      exact hleave (houter hd h6 0 0)
    · obtain ⟨x, hx, -⟩ := h tie htie
      rw [pathOf_congr hu, ownPos_congr hu, hx] at hpath
      cases hpath

theorem emitResp_spec {r : RespPacket} {s : State} (h : r.dest.toNat = myNode s ∨ routable r.dest.toNat s) :
    Routed [] s (emitResp r s) ∧ handed (.resp r) (emitResp r s) := by
  unfold emitResp
  split
  next => exact ⟨routed_send _ _, .inl (List.mem_append_right _ (List.mem_singleton_self _))⟩
  next hown => exact routeFrom_spec (h.resolve_left hown) _ _ _

/-- A response to a packet reaches the packet's source. -/
theorem answered_emitResp {p : Packet} {r : RespPacket} {s : State} (h : answerable p s) (hdest : r.dest = p.hdr.src)
    (htag : r.tag = p.hdr.tag) {oc st : Nat} (hoc : r.opcode.toNat = oc) (hst : r.status.toNat = st) :
    Routed [] s (emitResp (mkResp r) s) ∧ answered p oc st r.value r.data (emitResp (mkResp r) s) := by
  obtain ⟨hrouted, hhanded⟩ := emitResp_spec (s := s) (r := mkResp r) (by rw [mkResp, hdest]; exact h)
  exact ⟨hrouted, mkResp r, hhanded, hoc, hst, hdest, htag, rfl, rfl⟩

theorem ackPkt_spec {p : Packet} {s : State} (h : answerable p s) {st : Nat} (hst : st < 16) (v : W64) :
    Routed [] s (ackPkt p st v s) ∧ answered p ocAck st v [] (ackPkt p st v s) := by
  unfold ackPkt answer
  exact answered_emitResp h rfl rfl (by simp [ocAck]) (by simpa using hst)

/-- A NAK other than BUSY is not counted. -/
theorem nakPkt_spec {p : Packet} {s : State} (h : answerable p s) {reason : Nat} (hr : reason ≠ 1) :
    Routed [] s (nakPkt p reason s) ∧ answered p ocNak 0 0 [] (nakPkt p reason s) := by
  unfold nakPkt
  rw [if_neg hr]
  exact answered_emitResp h rfl rfl (by simp [ocNak]) (by simp)

/-! ### What a command leaves of an answer -/

@[simp] theorem after_gld (f : State → State) (s : State) : (after f s).gld = (f s).gld := by
  obtain ⟨m, l, h⟩ := irqSettle_cases s (f s)
  unfold after tidy; rw [h]

@[simp] theorem after_free (f : State → State) (s : State) : (after f s).free = (f s).free := by
  obtain ⟨m, l, h⟩ := irqSettle_cases s (f s)
  unfold after tidy; rw [h]

@[simp] theorem after_spns (f : State → State) (s : State) : (after f s).spns = (f s).spns := by
  obtain ⟨m, l, h⟩ := irqSettle_cases s (f s)
  unfold after tidy; rw [h]

@[simp] theorem after_lagoonBad (f : State → State) (s : State) : (after f s).lagoonBad = (f s).lagoonBad := by
  obtain ⟨m, l, h⟩ := irqSettle_cases s (f s)
  unfold after tidy; rw [h]

@[simp] theorem after_sec (f : State → State) (s : State) : (after f s).sec = (f s).sec := by
  obtain ⟨m, l, h⟩ := irqSettle_cases s (f s)
  unfold after tidy; rw [h]

/-- After a command an interrupt message may follow what has left. -/
theorem irqSettle_sends (b s : State) : ∃ m l, irqSettle b s = { s with msix := m, sent := s.sent ++ l } := by
  have hnone (m : List (Nat × MsixEntry)) : ({ s with msix := m } : State) = { s with msix := m, sent := s.sent ++ [] } := by
    rw [List.append_nil]
  unfold irqSettle sendMsi
  dsimp only
  split
  · split
    · exact ⟨_, [], hnone _⟩
    · exact ⟨s.msix, _, rfl⟩
  · exact ⟨s.msix, [], hnone _⟩

theorem handed_after {m : Sent} {f : State → State} {s : State} (h : handed m (f s)) : handed m (after f s) := by
  obtain ⟨x, l, hirq⟩ := irqSettle_sends s (f s)
  unfold handed after tidy
  rw [hirq]
  exact h.imp_left fun hm => List.mem_append_left l hm

theorem answered_after {p : Packet} {oc st : Nat} {v : W64} {bs : List Byte} {f : State → State} {s : State}
    (h : answered p oc st v bs (f s)) : answered p oc st v bs (after f s) := by
  obtain ⟨r, hr, hrest⟩ := h
  exact ⟨r, handed_after hr, hrest⟩

theorem fabricOnly_after {l : List Nat} {f : State → State} {s : State} (h : fabricOnly l s (f s)) :
    fabricOnly l s (after f s) := by
  obtain ⟨hrest, hregs, hwear⟩ := h
  refine ⟨?_, sameRegs_after hregs, sameWear_after hwear⟩
  rw [rest_after', hrest, after_gld, after_free, after_spns, after_lagoonBad]
  rfl

/-! ### Effects on the fabric's own state -/

theorem fabricOnly_trans {l : List Nat} {s t u : State} (h : fabricOnly l s t) (h' : fabricOnly l t u) : fabricOnly l s u := by
  obtain ⟨hrest, hregs, hwear⟩ := h
  obtain ⟨hrest', hregs', hwear'⟩ := h'
  have hset : rest { t with gld := u.gld, spns := u.spns, lagoonBad := u.lagoonBad, free := u.free } =
    { rest t with gld := u.gld, spns := u.spns, lagoonBad := u.lagoonBad, free := u.free } := rfl
  exact ⟨by rw [hrest', hset, hrest]; rfl, fun o ho => (hregs' o ho).trans (hregs o ho), fun k => (hwear' k).trans (hwear k)⟩

theorem fabricOnly_mono {l k : List Nat} {s t : State} (h : fabricOnly l s t) (hk : l ⊆ k) : fabricOnly k s t :=
  ⟨h.1, fun o ho => h.2.1 o fun hm => ho (hk hm), h.2.2⟩

theorem sameMem_trans {s t u : State} (h : SameMem s t) (h' : SameMem t u) : SameMem s u :=
  fun a => ⟨(h' a).1.trans (h a).1, (h' a).2.trans (h a).2⟩

/-- From s to t the fabric's own state changed, with what it counts and sends, and no memory; the links known DOWN are the same. -/
def GldOnly (l : List Nat) (s t : State) : Prop :=
  RegsOnly l { s with gld := t.gld, free := t.free } t ∧ t.gld.downLinks = s.gld.downLinks

theorem Routed.gldOnly {l : List Nat} {s t : State} (h : Routed l s t) : GldOnly l s t := by
  obtain ⟨⟨r, m, n, p, c, rfl⟩, hr⟩ := h
  exact ⟨⟨rfl, fun _ => ⟨rfl, rfl⟩, fun _ => rfl, hr⟩, rfl⟩

theorem GldOnly.trans {l : List Nat} {s t u : State} (h : GldOnly l s t) (h' : GldOnly l t u) : GldOnly l s u := by
  obtain ⟨⟨hrest, hmem, hwear, hregs⟩, hd⟩ := h
  obtain ⟨⟨hrest', hmem', hwear', hregs'⟩, hd'⟩ := h'
  have hset : rest { t with gld := u.gld, free := u.free } = { rest t with gld := u.gld, free := u.free } := rfl
  exact ⟨⟨by rw [hrest', hset, hrest]; rfl, sameMem_trans hmem hmem', fun k => (hwear' k).trans (hwear k),
    fun o ho => (hregs' o ho).trans (hregs o ho)⟩, hd'.trans hd⟩

theorem GldOnly.mono {l k : List Nat} {s t : State} (h : GldOnly l s t) (hk : l ⊆ k) : GldOnly k s t :=
  ⟨⟨h.1.1, h.1.2.1, h.1.2.2.1, fun o ho => h.1.2.2.2 o fun hm => ho (hk hm)⟩, h.2⟩

/-- A change of registers. -/
theorem gldOnly_of_regEffect {l : List Nat} {f : State → State} (h : RegEffect l f) (s : State) : GldOnly l s (f s) := by
  obtain ⟨⟨r, a, d, he⟩, hr⟩ := h s
  rw [he] at hr ⊢
  exact ⟨⟨rfl, fun _ => ⟨rfl, rfl⟩, fun _ => rfl, hr⟩, rfl⟩

/-- A change of the fabric's state other than of the links known DOWN. -/
theorem gldOnly_modGld {f : Gld → Gld} {s : State} (h : (f s.gld).downLinks = s.gld.downLinks) : GldOnly [] s (modGld f s) :=
  ⟨⟨rfl, fun _ => ⟨rfl, rfl⟩, fun _ => rfl, fun _ _ => rfl⟩, h⟩

theorem GldOnly.fabricOnly {l : List Nat} {s t : State} (h : GldOnly l s t) : fabricOnly l s t := by
  obtain ⟨⟨hrest, -, hwear, hregs⟩, -⟩ := h
  refine ⟨?_, hregs, hwear⟩
  have hspns : (rest t).spns = s.spns := by rw [hrest]; rfl
  have hbad : (rest t).lagoonBad = s.lagoonBad := by rw [hrest]; rfl
  have hset : rest { s with gld := t.gld, spns := t.spns, lagoonBad := t.lagoonBad, free := t.free } =
    { rest { s with gld := t.gld, free := t.free } with spns := (rest t).spns, lagoonBad := (rest t).lagoonBad } := rfl
  rw [hset, hspns, hbad, hrest]
  rfl

theorem GldOnly.sameMem {l : List Nat} {s t : State} (h : GldOnly l s t) : SameMem s t := h.1.2.1

theorem GldOnly.sameRegs {l : List Nat} {s t : State} (h : GldOnly l s t) : SameRegs l s t := h.1.2.2.2

theorem GldOnly.sameRouter {l : List Nat} {s t : State} (h : GldOnly l s t) (hn : GLD_NODE ∉ l)
    (hp : ∀ p < 7, GLD_PORT_STATUS p ∉ l) : SameRouter s t := sameRouter_of_regs h.2 h.sameRegs hn hp

/-- What a command whose effect stays within the fabric leaves alone. -/
theorem GldOnly.regsOnly_after {l : List Nat} {f : State → State} {s : State} (h : GldOnly l s (f s)) :
    RegsOnly l { s with gld := (after f s).gld, free := (after f s).free } (after f s) := by
  rw [after_gld, after_free]
  exact regsOnly_after_of rfl h.1

end Sys2Proof.Machine
end

section
/-! PROOFS. What a target refuses (R290, R309, R311). -/

namespace Sys2Proof.Machine

open Sys2Proof.Safety

/-! ### A request that arrives -/

/-- Counting what could not go on reaches none of the registers that a request at its target depends on. -/
theorem groupOf_routed {s u : State} (h : Routed [GLD_CNT 6] s u) (g : Nat) : groupOf g u = groupOf g s := by
  have hrd (k : Nat) : rd (GLD_MCAST g k) u = rd (GLD_MCAST g k) s :=
    h.2 _ (by simp only [List.mem_singleton, GLD_MCAST, GLD_CNT]; omega)
  simp only [groupOf, hrd]

theorem sameRouter_routed {s u : State} (h : Routed [GLD_CNT 6] s u) : SameRouter s u :=
  h.gldOnly.sameRouter (by simp [GLD_NODE, GLD_CNT]) fun p _ => by
    simp only [List.mem_singleton, GLD_PORT_STATUS, GLD_CNT]; omega

/-- A request that arrives as its opcode at a package whose fabric serves (R284, R399). -/
theorem arrivePacket_eq {oc : Nat} {p : Packet} {s : State} (hon : s.boot.on = true) (hvalid : nodeValid s = true)
    (hhaven : bit PWR_HAVEN_ACTIVE s = false) (hoc : p.hdr.opcode.toNat = oc) (hold : Bool) (perform : State → State) :
    arrivePacket oc p hold perform s =
      if oc = ocMcast then
        let u := if p.hdr.src.toNat = myNode s then s else emitMcast p (closeEntries p.hdr (fun _ => false) s)
        if (groupOf p.hdr.group.toNat u).contains (ownPos u) then perform u else u
      else if p.hdr.dest.toNat = myNode s then perform s else forward p hold s := by
  simp [arrivePacket, hon, hvalid, hhaven, hoc]

/-- A request for this package is performed here; copies of a multicast have gone on (R303). -/
theorem arrivePacket_here {oc : Nat} {p : Packet} {s : State} (hon : s.boot.on = true) (hvalid : nodeValid s = true)
    (hhaven : bit PWR_HAVEN_ACTIVE s = false) (hoc : p.hdr.opcode.toNat = oc)
    (hdest : if oc = ocMcast then p.hdr.src.toNat ≠ myNode s ∧ ownPos s ∈ groupOf p.hdr.group.toNat s
      else p.hdr.dest.toNat = myNode s) :
    ∃ u, Routed [GLD_CNT 6] s u ∧ (oc ≠ ocMcast → u = s) ∧ ∀ hold perform, arrivePacket oc p hold perform s = perform u := by
  have harrive := arrivePacket_eq hon hvalid hhaven hoc
  by_cases hm : oc = ocMcast
  · rw [if_pos hm] at hdest
    obtain ⟨hsrc, hmember⟩ := hdest
    have hu : Routed [GLD_CNT 6] s (emitMcast p (closeEntries p.hdr (fun _ => false) s)) :=
      (routed_closeEntries _ _ _).trans (routed_emitMcast _ _)
    refine ⟨_, hu, fun h => absurd hm h, fun hold perform => ?_⟩
    rw [harrive, if_pos hm, if_neg hsrc]
    dsimp only
    rw [groupOf_routed hu, ownPos_congr (sameRouter_routed hu), if_pos (List.contains_iff_mem.mpr hmember)]
  · rw [if_neg hm] at hdest
    exact ⟨s, routed_refl _ _, fun _ => rfl, fun hold perform => by rw [harrive, if_neg hm, if_pos hdest]⟩

/-- The commands that bring a request to a window, each with its opcode. -/
def windowRequests (p : Packet) (hold : Bool) : List (Instr × Nat) :=
  [(.put p, ocPut), (.putSignal p, ocPutSignal), (.signal p, ocSignal), (.get p, ocGet), (.reduce p, ocReduce),
   (.atomic p hold, ocAtomic), (.mcastPut p, ocMcast)]

theorem badSubop_of_not_performs {p : Packet} {s : State} (h : performs p s = false) (oc top : Nat) :
    badSubop oc top p s = false := by
  unfold badSubop
  rw [h, Bool.and_false]

/-- A request that its target does not perform is judged by the checks of its window, whatever it would do. -/
theorem exec_windowRequest {p : Packet} {hold : Bool} {s : State} (h : performs p s = false) {x : Instr × Nat}
    (hx : x ∈ windowRequests p hold) :
    ∃ held perform, exec x.1 s = run (arrivePacket x.2 p held (atWindow p perform)) s := by
  have hno := badSubop_of_not_performs h
  simp only [windowRequests, List.mem_cons, List.not_mem_nil, or_false] at hx
  rcases hx with rfl | rfl | rfl | rfl | rfl | rfl | rfl
  · exact ⟨_, _, rfl⟩
  · exact ⟨_, _, rfl⟩
  · exact ⟨_, _, rfl⟩
  · exact ⟨_, _, rfl⟩
  · exact ⟨_, serveReduce p, if_neg (by rw [hno]; exact Bool.false_ne_true)⟩
  · exact ⟨_, serveAtomic p, if_neg (by rw [hno]; exact Bool.false_ne_true)⟩
  · exact ⟨_, _, rfl⟩

/-! ### The checks at a window -/

/-- Whether the target holds the result of the packet's operation (R309). -/
def dup (p : Packet) (s : State) : Bool := s.gld.history.any fun d => d.src == p.hdr.src.toNat && d.tag == p.hdr.tag.toNat

theorem dup_iff (p : Packet) (s : State) :
    dup p s = true ↔ ∃ d ∈ s.gld.history, d.src = p.hdr.src.toNat ∧ d.tag = p.hdr.tag.toNat := by
  simp [dup]

theorem dup_eq_false {p : Packet} {s : State} (h : ∀ d ∈ s.gld.history, ¬(d.src = p.hdr.src.toNat ∧ d.tag = p.hdr.tag.toNat)) :
    dup p s = false :=
  Bool.eq_false_iff.mpr fun hd => by
    obtain ⟨d, hmem, hd⟩ := (dup_iff p s).mp hd
    exact h d hmem hd

theorem atWindow_of_badCrc {p : Packet} {s : State} (h : p.crc ≠ packetCrc p.hdr p.payload) (perform : State → State) :
    atWindow p perform s = nakPkt p 0 s := by
  simp [atWindow, h]

theorem atWindow_of_not_windowOk {p : Packet} {s : State} (h : p.crc = packetCrc p.hdr p.payload) (hd : dup p s = false)
    (hw : windowOk p.hdr s = false) (perform : State → State) : atWindow p perform s = rejectOp p s := by
  unfold dup at hd
  simp [atWindow, h, hd, hw]

/-- A duplicate is acknowledged with the result of the operation that it repeats. -/
theorem atWindow_of_dup {p : Packet} {s : State} (h : p.crc = packetCrc p.hdr p.payload) (hd : dup p s = true)
    (hget : p.hdr.opcode.toNat ≠ ocGet) :
    ∃ d ∈ s.gld.history, d.src = p.hdr.src.toNat ∧ d.tag = p.hdr.tag.toNat ∧
      ∀ perform, atWindow p perform s = ackPkt p stOk d.value (bump64 (GLD_CNT 8) 1 s) := by
  have hany : (s.gld.history.any fun d => d.src == p.hdr.src.toNat && d.tag == p.hdr.tag.toNat) = true := hd
  obtain ⟨d, hfind⟩ := Option.isSome_iff_exists.mp (List.find?_isSome.mpr (List.any_eq_true.mp hany))
  have hmatch := List.find?_some hfind
  simp only [Bool.and_eq_true, beq_iff_eq] at hmatch
  exact ⟨d, List.mem_of_find?_eq_some hfind, hmatch.1, hmatch.2, fun perform => by simp [atWindow, h, hany, hget, hfind]⟩

theorem performs_of_badCrc {p : Packet} {s : State} (h : p.crc ≠ packetCrc p.hdr p.payload) : performs p s = false := by
  simp [performs, h]

theorem performs_of_dup {p : Packet} {s : State} (h : dup p s = true) : performs p s = false := by
  unfold dup at h
  simp [performs, h]

theorem performs_of_not_windowOk {p : Packet} {s : State} (h : windowOk p.hdr s = false) : performs p s = false := by
  simp [performs, h]

/-- What passes the tests of R290 is admitted. -/
theorem windowAdmits_of_windowOk {h : ReqHeader} {s : State} (hw : windowOk h s = true) : windowAdmits h s := by
  simp only [windowOk, Bool.and_eq_true, beq_iff_eq, decide_eq_true_eq, Bool.or_eq_true, Bool.not_eq_true'] at hw
  obtain ⟨⟨⟨⟨hvalid, hkey⟩, hperm⟩, hrange⟩, hsig⟩ := hw
  refine ⟨hvalid, hkey, hperm, le_trans ?_ hrange, fun hoc => ?_⟩
  · simp only [opRange]
    split <;> omega
  · refine hsig.resolve_left ?_
    simp [signals, counted, hoc]

theorem windowOk_routed {s u : State} (h : Routed [GLD_CNT 6] s u) (hdr : ReqHeader) : windowOk hdr u = windowOk hdr s := by
  obtain ⟨-, hkeys, -⟩ := h.gld
  have hcfg (w : Nat) : rd (GLD_WIN_CFG w) u = rd (GLD_WIN_CFG w) s :=
    h.2 _ (by simp only [List.mem_singleton, GLD_WIN_CFG, GLD_CNT]; omega)
  have hsize (w : Nat) : rd (GLD_WIN_SIZE w) u = rd (GLD_WIN_SIZE w) s :=
    h.2 _ (by simp only [List.mem_singleton, GLD_WIN_SIZE, GLD_CNT]; omega)
  have hvalid (w : Nat) : bit (GLD_WIN_CFG_VALID w) u = bit (GLD_WIN_CFG_VALID w) s := by
    simp only [bit, fld, GLD_WIN_CFG_VALID, hcfg]
  have hperm (w : Nat) : fld (GLD_WIN_CFG_PERM w) u = fld (GLD_WIN_CFG_PERM w) s := by
    simp only [fld, GLD_WIN_CFG_PERM, hcfg]
  have hwin (w : Nat) : winSize w u = winSize w s := by simp only [winSize, fld, GLD_WIN_SIZE_SIZE, hsize]
  unfold windowOk
  dsimp only
  rw [hvalid, hperm, hwin, hkeys]

theorem dup_routed {s u : State} (h : Routed [GLD_CNT 6] s u) (p : Packet) : dup p u = dup p s := by
  unfold dup
  rw [h.gld.1]

/-! ### Refusals -/

/-- The registers that a refused operation reaches. -/
def rejectRegs : List Nat := [GLD_ERR, GLD_ERR_INFO, GLD_CNT 5]

theorem regEffect_gldErr (f : FRef) (hf : f.off = GLD_ERR) (c st node : Nat) :
    RegEffect [GLD_ERR, GLD_ERR_INFO] (gldErr f c st node) := by
  have herr : RegEffect [GLD_ERR, GLD_ERR_INFO] (setErr f) := (regEffect_setFld f 1).mono (by simp [hf])
  have hinfo : RegEffect [GLD_ERR, GLD_ERR_INFO]
      (setFlds [(GLD_ERR_INFO_CONTEXT, c), (GLD_ERR_INFO_STATUS, st), (GLD_ERR_INFO_NODE, node)]) :=
    (regEffect_setFlds _).mono (by simp [GLD_ERR_INFO_CONTEXT, GLD_ERR_INFO_STATUS, GLD_ERR_INFO_NODE])
  unfold gldErr raiseLatch
  exact RegEffect.ite _ (hinfo.comp herr) herr

theorem regEffect_bump64 (o n : Nat) : RegEffect [o] (bump64 o n) := fun s => regEffect_wr _ _ s

theorem bit_setErr {f : FRef} (h : f.hi < 64) (hw : f.lo ≤ f.hi) (s : State) : bit f (setErr f s) = true := by
  unfold bit setErr
  rw [fld_setFld_same f 1 s h, Nat.mod_eq_of_lt (Nat.one_lt_two_pow (by omega))]
  rfl

theorem bit_gldErr {f : FRef} (h : f.hi < 64) (hw : f.lo ≤ f.hi) (c st node : Nat) (s : State) :
    bit f (gldErr f c st node s) = true := by
  unfold gldErr raiseLatch
  split <;> exact bit_setErr h hw _

theorem counts_bump64 (o n : Nat) (s : State) : counts o n s (bump64 o n s) := rd_wr_same _ _ _

theorem counts_zero {o : Nat} {s t : State} (h : rd o t = rd o s) : counts o 0 s t := by
  unfold counts
  rw [h, Nat.add_zero, Nat.min_eq_left (by have := (rd o s).isLt; omega), BitVec.ofNat_toNat, BitVec.setWidth_eq]

/-- A refused operation is counted once, whichever of its packets comes. -/
def countReject (p : Packet) (s : State) : State :=
  let h := { p.hdr with pktOff := 0, retx := false }
  if s.gld.rejects.contains h then s
  else bump64 (GLD_CNT 5) 1 (modGld (fun g => { g with rejects := h :: g.rejects.filter fun x => !(x.src == h.src && x.tag == h.tag) }) s)

theorem countReject_spec (p : Packet) (s : State) :
    GldOnly rejectRegs s (countReject p s) ∧
      counts (GLD_CNT 5) (if s.gld.rejects.contains { p.hdr with pktOff := 0, retx := false } then 0 else 1) s (countReject p s) := by
  unfold countReject
  dsimp only
  split
  · exact ⟨(routed_refl _ _).gldOnly, counts_zero rfl⟩
  · exact ⟨((gldOnly_modGld rfl).mono (List.nil_subset _)).trans
      (gldOnly_of_regEffect ((regEffect_bump64 (GLD_CNT 5) 1).mono (by simp [rejectRegs])) _), counts_bump64 _ _ _⟩

/-- The target refuses an operation: the flag, one count, the answer. -/
theorem rejectOp_spec {p : Packet} {s : State} (h : answerable p s) :
    GldOnly rejectRegs s (rejectOp p s) ∧ answered p ocAck stWindowFault 0 [] (rejectOp p s) ∧
      bit GLD_ERR_WINDOW_REJECT (rejectOp p s) = true ∧
      counts (GLD_CNT 5) (if s.gld.rejects.contains { p.hdr with pktOff := 0, retx := false } then 0 else 1) s (rejectOp p s) := by
  let c := fld (GLD_WIN_CFG_CONTEXT p.hdr.window.toNat) s
  let t := gldErr GLD_ERR_WINDOW_REJECT c stWindowFault p.hdr.src.toNat (countReject p s)
  have hreject : rejectOp p s = ackPkt p stWindowFault 0 t := rfl
  obtain ⟨hcount, hcounts⟩ := countReject_spec p s
  have hflag : RegEffect [GLD_ERR, GLD_ERR_INFO] (gldErr GLD_ERR_WINDOW_REJECT c stWindowFault p.hdr.src.toNat) := regEffect_gldErr _ rfl _ _ _
  have ht : GldOnly rejectRegs s t := hcount.trans (gldOnly_of_regEffect (hflag.mono (by simp [rejectRegs])) _)
  have hrouter : SameRouter s t := ht.sameRouter (by simp [rejectRegs, GLD_NODE, GLD_ERR, GLD_ERR_INFO, GLD_CNT]) fun q hq => by
    simp only [rejectRegs, List.mem_cons, List.not_mem_nil, or_false, GLD_PORT_STATUS, GLD_ERR, GLD_ERR_INFO, GLD_CNT]; omega
  obtain ⟨hack, hans⟩ := ackPkt_spec (answerable_congr hrouter h) (by decide : stWindowFault < 16) 0
  have hrd (o : Nat) : rd o (rejectOp p s) = rd o t := hack.2 o List.not_mem_nil
  refine ⟨ht.trans (hack.gldOnly.mono (List.nil_subset _)), hans, ?_, ?_⟩
  · unfold bit fld
    rw [hrd]
    exact bit_gldErr (by decide) (by decide) _ _ _ _
  · unfold counts at hcounts ⊢
    rw [hrd, ← hcounts]
    exact (hflag _).2 _ (by simp [GLD_ERR, GLD_ERR_INFO, GLD_CNT])

/-- A request at its target that the checks of its window do not let it perform: its effect is what they answer, once its copies
have gone on. -/
theorem gives_windowRequest {p : Packet} {hold : Bool} {s : State} (hon : s.boot.on = true) (hvalid : nodeValid s = true)
    (hhaven : bit PWR_HAVEN_ACTIVE s = false) {x : Instr × Nat} (hx : x ∈ windowRequests p hold)
    (hoc : p.hdr.opcode.toNat = x.2)
    (hdest : if x.2 = ocMcast then p.hdr.src.toNat ≠ myNode s ∧ ownPos s ∈ groupOf p.hdr.group.toNat s
      else p.hdr.dest.toNat = myNode s)
    (hno : performs p s = false) {P : State → Prop}
    (hP : ∀ f u, Routed [GLD_CNT 6] s u → (∃ perform, f s = atWindow p perform u) → P (after f s)) : Gives x.1 s P := by
  obtain ⟨held, perform, hexec⟩ := exec_windowRequest hno hx
  obtain ⟨u, hu, -, harrive⟩ := arrivePacket_here hon hvalid hhaven hoc hdest
  exact ⟨_, hexec, hP _ u hu ⟨perform, harrive held _⟩⟩

/-- The counter that passing copies on may reach is none of those that a refusal or a duplicate counts in. -/
theorem counts_of_routed {k n : Nat} (hk : k ≠ 6) {s u t : State} (h : Routed [GLD_CNT 6] s u) (hc : counts (GLD_CNT k) n u t) :
    counts (GLD_CNT k) n s t := by
  unfold counts
  rw [← h.2 (GLD_CNT k) (by simp only [List.mem_singleton, GLD_CNT]; omega)]
  exact hc

theorem targetRefuses_holds : targetRefuses := by
  intro p hold s h hon hvalid hhaven hans x hx hoc hdest
  have hgives {P : State → Prop} := gives_windowRequest (P := P) hon hvalid hhaven hx hoc hdest
  have hans' {u : State} (hu : Routed [GLD_CNT 6] s u) : answerable p u := answerable_congr (sameRouter_routed hu) hans
  refine ⟨fun hcrc => ?_, fun hcrc hnew hwin => ?_, fun hget hcrc hold' => ?_⟩
  · refine hgives (performs_of_badCrc hcrc) fun f u hu ⟨perform, hf⟩ => ?_
    rw [atWindow_of_badCrc hcrc] at hf
    obtain ⟨hnak, hanswer⟩ := nakPkt_spec (hans' hu) (by decide : (0 : Nat) ≠ 1)
    rw [← hf] at hnak hanswer
    have hall : GldOnly [GLD_CNT 6] s (f s) := hu.gldOnly.trans (hnak.gldOnly.mono (List.nil_subset _))
    exact ⟨answered_after hanswer, fabricOnly_after hall.fabricOnly, sameMem_after hall.sameMem⟩
  · have hbad : windowOk p.hdr s = false := Bool.eq_false_iff.mpr fun hw => hwin (windowAdmits_of_windowOk hw)
    refine hgives (performs_of_not_windowOk hbad) fun f u hu ⟨perform, hf⟩ => ?_
    rw [atWindow_of_not_windowOk hcrc ((dup_routed hu p).trans (dup_eq_false hnew)) ((windowOk_routed hu _).trans hbad)] at hf
    obtain ⟨hreject, hanswer, hflag, hcounts⟩ := rejectOp_spec (hans' hu)
    rw [← hf] at hreject hanswer hflag hcounts
    obtain ⟨-, -, hrejects⟩ := hu.gld
    rw [hrejects] at hcounts
    have hall : GldOnly [GLD_ERR, GLD_ERR_INFO, GLD_CNT 5, GLD_CNT 6] s (f s) :=
      (hu.gldOnly.mono (by simp)).trans (hreject.mono (by simp [rejectRegs]))
    exact ⟨answered_after hanswer, by rw [bit_after]; exact hflag, counts_after (counts_of_routed (by decide) hu hcounts),
      fabricOnly_after hall.fabricOnly, sameMem_after hall.sameMem⟩
  · have hdup : dup p s = true := (dup_iff p s).mpr hold'
    refine hgives (performs_of_dup hdup) fun f u hu ⟨perform, hf⟩ => ?_
    obtain ⟨d, hd, hsrc, htag, hack⟩ := atWindow_of_dup hcrc ((dup_routed hu p).trans hdup) (by rw [hoc]; exact hget)
    rw [hack] at hf
    have hbump : Routed [GLD_CNT 8] u (bump64 (GLD_CNT 8) 1 u) := routed_bump64 _ _ _
    have hrouter : SameRouter u (bump64 (GLD_CNT 8) 1 u) := hbump.gldOnly.sameRouter (by simp [GLD_NODE, GLD_CNT]) fun q _ => by
      simp only [List.mem_singleton, GLD_PORT_STATUS, GLD_CNT]; omega
    obtain ⟨hacked, hanswer⟩ := ackPkt_spec (answerable_congr hrouter (hans' hu)) (by decide : stOk < 16) d.value
    rw [← hf] at hacked hanswer
    obtain ⟨hhist, -, -⟩ := hu.gld
    have hall : GldOnly [GLD_CNT 6, GLD_CNT 8] s (f s) := (hu.gldOnly.mono (by simp)).trans
      ((hbump.gldOnly.mono (by simp)).trans (hacked.gldOnly.mono (List.nil_subset _)))
    have hcounts : counts (GLD_CNT 8) 1 u (f s) := (hacked.2 _ List.not_mem_nil).trans (counts_bump64 _ _ _)
    exact ⟨⟨d, hhist ▸ hd, hsrc, htag, answered_after hanswer⟩, counts_after (counts_of_routed (by decide) hu hcounts),
      fabricOnly_after hall.fabricOnly, sameMem_after hall.sameMem⟩

end Sys2Proof.Machine
end

section
/-! PROOFS. What a unit's write leaves (R79, R128, R340), and a target that serves a request and stays as it was otherwise. -/

namespace Sys2Proof.Machine

open Sys2Proof.Safety

/-! ### Bytes that land -/

theorem landed_append {a : Nat} {bs cs : List Byte} {s m t : State} (hc : landed (a + bs.length) cs s m) (hb : landed a bs m t) :
    landed a (bs ++ cs) s t := by
  intro b
  rw [hb b, hc b, List.length_append]
  by_cases hlow : a ≤ b ∧ b < a + bs.length
  · rw [if_pos hlow, if_pos (by omega), List.getD_append _ _ _ _ (by omega)]
  · rw [if_neg hlow]
    by_cases hhigh : a + bs.length ≤ b ∧ b < a + bs.length + cs.length
    · rw [if_pos hhigh, if_pos (by omega), List.getD_append_right _ _ _ _ (by omega), Nat.sub_sub]
    · rw [if_neg hhigh, if_neg (by omega)]

theorem landed_of_sameMem {a : Nat} {bs : List Byte} {s t u v : State} (h : SameMem s t) (hl : landed a bs t u) (h' : SameMem u v) :
    landed a bs s v := by
  intro b
  rw [(h' b).1, hl b, (h b).1]

theorem landed_nil (a : Nat) (s : State) : landed a [] s s := by
  intro b
  rw [if_neg (by simp)]

/-! ### Entries of finite maps -/

theorem mem_of_mem_del {α : Type} {m : List (Nat × α)} {k : Nat} {x : Nat × α} (h : x ∈ del m k) : x ∈ m := by
  induction m with
  | nil => exact h
  | cons e rest ih =>
    obtain ⟨j, v⟩ := e
    by_cases hj : j = k
    · simp only [del, hj, if_true] at h
      exact List.mem_cons_of_mem _ (ih h)
    · simp only [del, hj, if_false, List.mem_cons] at h
      exact List.mem_cons.mpr (h.imp_right ih)

theorem mem_of_mem_ins {α : Type} {m : List (Nat × α)} {k : Nat} {v : α} {x : Nat × α} (h : x ∈ ins m k v) : x = (k, v) ∨ x ∈ m := by
  induction m with
  | nil => exact .inl (List.mem_singleton.mp h)
  | cons e rest ih =>
    obtain ⟨j, w⟩ := e
    unfold ins at h
    split_ifs at h with hlt heq
    · exact List.mem_cons.mp h
    · exact (List.mem_cons.mp h).imp_right (List.mem_cons_of_mem _)
    · rcases List.mem_cons.mp h with h | h
      · exact .inr (h ▸ List.mem_cons_self)
      · exact (ih h).imp_right (List.mem_cons_of_mem _)

theorem mem_of_mem_put {α : Type} [DecidableEq α] {m : List (Nat × α)} {d : α} {k : Nat} {v : α} {x : Nat × α}
    (h : x ∈ put m d k v) : x = (k, v) ∨ x ∈ m := by
  unfold put at h
  split at h
  · exact .inr (mem_of_mem_del h)
  · exact mem_of_mem_ins h

/-! ### A unit's write -/

/-- No thread waits in RECV. -/
def noRecv (s : State) : Prop := ∀ x ∈ s.spns, ∀ y ∈ x.2.threads, y.2.recv = false

theorem noRecv_of_spns {s t : State} (h : t.spns = s.spns) (hr : noRecv s) : noRecv t := by
  unfold noRecv
  rw [h]
  exact hr

theorem noWindows_of_spns {s t : State} (h : t.spns = s.spns) (hw : noWindows s) : noWindows t := fun n => by
  unfold spn
  rw [h]
  exact hw n

/-- From s to t a unit wrote bytes to memory: the rest of memory reads as before, and of the spindles only staged weights may be
gone. -/
def UnitWrote (a : Nat) (bs : List Byte) (s t : State) : Prop :=
  (∃ m q b n, t = { s with mem := m, staples := q, lagoonBad := b, spns := n }) ∧ landed a bs s t ∧
    (noWindows s → noWindows t) ∧ (noRecv s → noRecv t)

theorem spn_modSpn (m n : Nat) (f : Spn → Spn) (s : State) : spn n (modSpn m f s) = if n = m then f (spn m s) else spn n s := by
  unfold modSpn setSpn spn
  split
  next h => rw [h]; exact lookup_put_same _ _ _ _
  next h => exact lookup_put_other _ _ _ _ h

/-- Staged weights that are dropped leave windows and threads alone. -/
theorem unstage_spec (a n : Nat) (s : State) :
    (∃ x, unstage a n s = { s with spns := x }) ∧ (noWindows s → noWindows (unstage a n s)) ∧ (noRecv s → noRecv (unstage a n s)) := by
  unfold unstage
  split
  · exact ⟨⟨s.spns, rfl⟩, id, id⟩
  next m _ =>
  split
  · exact ⟨⟨s.spns, rfl⟩, id, id⟩
  refine ⟨⟨_, rfl⟩, fun hw k => ?_, fun hr x hx y hy => ?_⟩
  · rw [spn_modSpn]
    split
    · exact hw m
    · exact hw k
  · rcases mem_of_mem_put hx with rfl | hx
    · have hy : y ∈ (spn m s).threads := hy
      rcases lookup_mem_or s.spns {} m with hd | hm
      · rw [spn, hd] at hy
        simp at hy
      · exact hr _ hm y hy
    · exact hr x hx y hy

theorem wrBytes_eq (a : Nat) (bs : List Byte) (s : State) : ∃ m, wrBytes a bs s = { s with mem := m } := by
  induction bs generalizing a s with
  | nil => exact ⟨s.mem, rfl⟩
  | cons b rest ih => exact ih (a + 1) (wrByte a b s)

/-- A write to whole staples or parts of them refreshes or fails their checks. -/
theorem markStaples_eq (f : State → Nat → State) (hf : ∀ s p, ∃ q, f s p = { s with staples := q }) (l : List Nat) (s : State) :
    ∃ q, l.foldl f s = { s with staples := q } := by
  induction l generalizing s with
  | nil => exact ⟨s.staples, rfl⟩
  | cons p l ih =>
    obtain ⟨q, hq⟩ := hf s p
    obtain ⟨q', hq'⟩ := ih (f s p)
    rw [hq] at hq'
    exact ⟨q', by rw [List.foldl_cons, hq, hq']⟩

theorem wrLagoon_spec (a : Nat) (bs : List Byte) (s : State) : UnitWrote a bs s (wrLagoon a bs s) := by
  obtain ⟨⟨x, hx⟩, hwin, hrecv⟩ := unstage_spec a bs.length s
  obtain ⟨m, hm⟩ := wrBytes_eq a bs (unstage a bs.length s)
  have hspns : (wrLagoon a bs s).spns = (unstage a bs.length s).spns := wrBytes_spns _ _ _
  have hland : landed a bs s (wrBytes a bs (unstage a bs.length s)) := fun b => by
    rw [rdByte_wrBytes, hx]
    rfl
  refine ⟨⟨m, s.staples, s.lagoonBad.filter fun w => !(a ≤ w * 8 && w * 8 + 8 ≤ a + bs.length), x, ?_⟩, hland,
    fun h => noWindows_of_spns hspns (hwin h), fun h => noRecv_of_spns hspns (hrecv h)⟩
  unfold wrLagoon
  dsimp only
  rw [hm, hx]

theorem wrMerge_spec (a : Nat) (bs : List Byte) (s : State) : UnitWrote a bs s (wrMerge a bs false s) := by
  unfold wrMerge
  split
  · exact wrLagoon_spec a bs s
  · obtain ⟨m, hm⟩ := wrBytes_eq a bs s
    have hland : landed a bs s (wrBytes a bs s) := rdByte_wrBytes a bs s
    rw [hm] at hland ⊢
    dsimp only
    obtain ⟨q, hq⟩ := markStaples_eq (fun s p => if false = true then failStaple p s
      else if (decide (a ≤ p) && decide (p + 4096 ≤ a + bs.length)) = true then setMeta p {} s
      else if stapleOk p s = true then s else failStaple p s)
      (fun s p => by split_ifs <;> exact ⟨_, rfl⟩) (staplesOf a bs.length) { s with mem := m }
    rw [hq]
    exact ⟨⟨m, q, s.lagoonBad, s.spns, rfl⟩, hland, id, id⟩

/-- Without an open retain window a unit's write lands. -/
theorem wrUnit_spec {s : State} (h : noWindows s) (a : Nat) (bs : List Byte) : UnitWrote a bs s (wrUnit a bs false s) := by
  have hnone : retainHit a bs.length s = none := by
    unfold retainHit
    split
    · rfl
    · dsimp only
      rw [h]
      rfl
  unfold wrUnit
  rw [hnone]
  exact wrMerge_spec a bs s

/-! ### What serving a packet changes -/

/-- From s to t a packet was served: the fabric's own state, memory, what staged weights there were, and the registers in `l`. -/
def Serving (l : List Nat) (s t : State) : Prop :=
  fabricOnly l s t ∧ t.gld.downLinks = s.gld.downLinks ∧ (noWindows s → noWindows t) ∧ (noRecv s → noRecv t)

theorem Serving.sameRegs {l : List Nat} {s t : State} (h : Serving l s t) : SameRegs l s t := h.1.2.1

theorem Serving.noWindows {l : List Nat} {s t : State} (h : Serving l s t) : noWindows s → noWindows t := h.2.2.1

theorem Serving.noRecv {l : List Nat} {s t : State} (h : Serving l s t) : noRecv s → noRecv t := h.2.2.2

theorem UnitWrote.landed {a : Nat} {bs : List Byte} {s t : State} (h : UnitWrote a bs s t) : landed a bs s t := h.2.1

theorem Serving.trans {l : List Nat} {s t u : State} (h : Serving l s t) (h' : Serving l t u) : Serving l s u :=
  ⟨fabricOnly_trans h.1 h'.1, h'.2.1.trans h.2.1, h'.noWindows ∘ h.noWindows, h'.noRecv ∘ h.noRecv⟩

theorem Serving.mono {l k : List Nat} {s t : State} (h : Serving l s t) (hk : l ⊆ k) : Serving k s t :=
  ⟨fabricOnly_mono h.1 hk, h.2⟩

theorem GldOnly.serving {l : List Nat} {s t : State} (h : GldOnly l s t) : Serving l s t := by
  have hspns : (rest t).spns = s.spns := by rw [h.1.1]; rfl
  exact ⟨h.fabricOnly, h.2, noWindows_of_spns hspns, noRecv_of_spns hspns⟩

theorem UnitWrote.serving {a : Nat} {bs : List Byte} {s t : State} (h : UnitWrote a bs s t) : Serving [] s t := by
  obtain ⟨⟨m, q, b, n, rfl⟩, -, hwin, hrecv⟩ := h
  exact ⟨⟨rfl, fun _ _ => rfl, fun _ => rfl⟩, rfl, hwin, hrecv⟩

theorem Serving.sameRouter {l : List Nat} {s t : State} (h : Serving l s t) (hn : GLD_NODE ∉ l)
    (hp : ∀ p < 7, GLD_PORT_STATUS p ∉ l) : SameRouter s t := sameRouter_of_regs h.2.1 h.sameRegs hn hp

/-! ### An operation is complete -/

theorem gldOnly_remember (src tag : Nat) (v : W64) (s : State) : GldOnly [] s (remember src tag v s) := gldOnly_modGld rfl

theorem gldOnly_dropLanding (src tag : Nat) (s : State) : GldOnly [] s (dropLanding src tag s) := gldOnly_modGld rfl

/-- An operation without a signal is counted and remembered, and its landing is over. -/
theorem gldOnly_served {h : ReqHeader} (hs : signals h = false) (v : W64) (s : State) : GldOnly [GLD_CNT 1] s (served h v s) := by
  have hoc : (h.opcode.toNat == ocPutSignal) = false := by
    by_contra hne
    simp [signals, counted] at hs
    simp_all
  have hstale : countStale h s = s := by simp [countStale, hoc]
  unfold served
  simp only [hs, Bool.false_eq_true, if_false, hstale]
  exact ((gldOnly_dropLanding _ _ s).mono (List.nil_subset _)).trans
    ((gldOnly_of_regEffect (regEffect_bump64 (GLD_CNT 1) 1) _).trans ((gldOnly_remember _ _ _ _).mono (List.nil_subset _)))

/-- A single packet holds all of its operation's bytes. -/
theorem landedBytes_single {l : Landing} {n : Nat} (h : l.pieces = [(0, n)]) : landedBytes l = n := by
  simp [landedBytes, h, sortBy, insertBy, distinct]

end Sys2Proof.Machine
end

section
/-! PROOFS. A message at its receive ring (R306, R307, R421): what lands in the slot, and what turns it away. -/

namespace Sys2Proof.Machine

open Sys2Proof.Safety

/-! ### A message at its ring -/

/-- What a message's packet reads as here: its payload, opened where it came from another domain; none where it cannot be. -/
def plainOf (p : Packet) (s : State) : Option (List Byte) :=
  if sameDomain p.hdr.src.toNat s then some p.payload else openPayload p.hdr p.payload s

/-- A message, new here, for a context of this package (R371 keeps bit 63 of VALUE_A for buddies). -/
def newMessage (p : Packet) (s : State) : Prop :=
  p.crc = packetCrc p.hdr p.payload ∧ dup p s = false ∧ p.hdr.valueA[63] = false

theorem landSend_of_sealed {p : Packet} {s : State} (hcrc : p.crc = packetCrc p.hdr p.payload) (hp : plainOf p s = none) :
    landSend p s = s := by
  unfold plainOf at hp
  simp [landSend, hcrc, hp]

theorem landSend_of_noRing {p : Packet} {s : State} (h : newMessage p s) (hp : (plainOf p s).isSome = true)
    (hring : bit (GLD_MSG_RING_VALID p.hdr.msgCtx.toNat) s = false) : landSend p s = ackPkt p stWindowFault 0 s := by
  obtain ⟨hcrc, hnew, hbuddy⟩ := h
  unfold plainOf at hp
  unfold dup at hnew
  simp [landSend, hcrc, Option.isNone_eq_false_iff.mpr hp, hnew, hbuddy, hring]

/-- A message's first packet, which its ring takes if it has room. -/
def ringTakes (p : Packet) (s : State) : Prop :=
  let h := p.hdr; let c := h.msgCtx.toNat
  bit (GLD_MSG_RING_VALID c) s = true ∧ h.length.toNat ≤ slotBytes c s - 64 ∧ alignedOk p = true ∧
    find? s.gld.sends (sendKey c h.src.toNat h.tag.toNat) = none

theorem landSend_of_full {p : Packet} {s : State} (h : newMessage p s) (hp : (plainOf p s).isSome = true) (hr : ringTakes p s)
    (hfull : ringSlots p.hdr.msgCtx.toNat s ≤ slotsUsed p.hdr.msgCtx.toNat s) : landSend p s = nakPkt p 2 s := by
  obtain ⟨hcrc, hnew, hbuddy⟩ := h
  obtain ⟨hring, hlen, halign, hsend⟩ := hr
  unfold plainOf at hp
  unfold dup at hnew
  simp [landSend, hcrc, Option.isNone_eq_false_iff.mpr hp, hnew, hbuddy, hring, halign, hsend, hfull, Nat.not_lt.mpr hlen]

/-- The slot at HEAD is reserved for a message (R306). -/
def reserveSlot (p : Packet) (s : State) : State :=
  let h := p.hdr; let c := h.msgCtx.toNat; let i := fld (GLD_MSG_STATUS_HEAD c) s
  setFld (GLD_MSG_STATUS_HEAD c) (i + 1) (modGld (fun g => { g with sends := ins g.sends (sendKey c h.src.toNat h.tag.toNat) i }) s)

/-- The packet is noted as landed. -/
def noteMessage (p : Packet) (s : State) : State :=
  let h := p.hdr
  modGld (fun g => { g with landings :=
    { src := h.src.toNat, tag := h.tag.toNat, window := 4096, pieces := [(h.pktOff.toNat, p.payload.length)] } :: g.landings })
    (dropLanding h.src.toNat h.tag.toNat s)

/-- The slot is no longer in flight. -/
def closeSlot (p : Packet) (s : State) : State :=
  let h := p.hdr
  modGld (fun g => { g with sends := del g.sends (sendKey h.msgCtx.toNat h.src.toNat h.tag.toNat) }) s

/-- Bytes 4 to 63 of a message's slot. -/
def slotHeader (h : ReqHeader) : List Byte :=
  natToBytes 4 h.srcCtx.toNat ++ natToBytes 4 h.length.toNat ++ natToBytes 4 (h.valueA.toNat % 2 ^ 32) ++ List.replicate 48 0

/-- Word 0 of a slot: the phase and the source. -/
def slotWord0 (h : ReqHeader) (phase : Bool) : List Byte := natToBytes 4 (phase.toNat * 2 ^ 31 + h.src.toNat)

/-- A message of one packet lands: its slot is reserved, its bytes come first and the phase last, and a thread in RECV wakes. -/
theorem landSend_lands {p : Packet} {s : State} (h : newMessage p s) (hdom : sameDomain p.hdr.src.toNat s = true) (hr : ringTakes p s)
    (hland : landing? p.hdr.src.toNat p.hdr.tag.toNat s = none)
    (hroom : slotsUsed p.hdr.msgCtx.toNat s < ringSlots p.hdr.msgCtx.toNat s)
    (hmem : memWaits true (slotAddr p.hdr.msgCtx.toNat (fld (GLD_MSG_STATUS_HEAD p.hdr.msgCtx.toNat) s) s)
      (slotBytes p.hdr.msgCtx.toNat s) s = false)
    (hoff : p.hdr.pktOff = 0) (hlen : p.payload.length = p.hdr.length.toNat) :
    let c := p.hdr.msgCtx.toNat; let i := fld (GLD_MSG_STATUS_HEAD c) s; let s1 := reserveSlot p s; let a := slotAddr c i s1
    let s2 := noteMessage p (wrUnit (a + 64) p.payload false s1)
    landSend p s = wakeRecv c (ackPkt p stOk 0 (served { p.hdr with sigOp := 0 } 0 (closeSlot p
      (wrUnit a (slotWord0 p.hdr (slotPhase c i s2)) false (wrUnit (a + 4) (slotHeader p.hdr) false s2))))) := by
  obtain ⟨hcrc, hnew, hbuddy⟩ := h
  obtain ⟨hring, hfits, halign, hsend⟩ := hr
  unfold dup at hnew
  have hland1 : landing? p.hdr.src.toNat p.hdr.tag.toNat (reserveSlot p s) = none := hland
  unfold reserveSlot at hland1
  dsimp only at hland1
  have hwhole : landedBytes { src := p.hdr.src.toNat, tag := p.hdr.tag.toNat, window := 4096, pieces := [(0, p.hdr.length.toNat)] } =
      p.hdr.length.toNat :=
    landedBytes_single rfl
  simp [landSend, hcrc, hdom, hnew, hbuddy, hring, halign, hsend, Nat.not_le.mpr hroom, Nat.not_lt.mpr hfits, hmem, hland1, hoff, hwhole, hlen,
    reserveSlot, noteMessage, closeSlot, slotHeader, slotWord0]

/-! ### What a message leaves -/

theorem length_natToBytes (n v : Nat) : (natToBytes n v).length = n := by
  induction n generalizing v with
  | zero => rfl
  | succ n ih => simp [natToBytes, ih]

theorem length_slotHeader (h : ReqHeader) : (slotHeader h).length = 60 := by
  simp [slotHeader, length_natToBytes]

theorem length_slotWord0 (h : ReqHeader) (phase : Bool) : (slotWord0 h phase).length = 4 := length_natToBytes _ _

/-- A slot's place and phase depend on the ring's register alone. -/
theorem slot_congr {c : Nat} {s t : State} (h : rd (GLD_MSG_RING c) t = rd (GLD_MSG_RING c) s) (i : Nat) :
    slotAddr c i t = slotAddr c i s ∧ slotPhase c i t = slotPhase c i s := by
  simp only [slotAddr, slotPhase, ringSlots, slotBytes, fld, GLD_MSG_RING_ADDR, GLD_MSG_RING_ORDER, GLD_MSG_RING_SLOT, h, and_self]

theorem reserveSlot_spec (p : Packet) (s : State) :
    GldOnly [GLD_MSG_STATUS p.hdr.msgCtx.toNat] s (reserveSlot p s) ∧
      fld (GLD_MSG_STATUS_HEAD p.hdr.msgCtx.toNat) (reserveSlot p s) =
        (fld (GLD_MSG_STATUS_HEAD p.hdr.msgCtx.toNat) s + 1) % 65536 :=
  ⟨((gldOnly_modGld rfl).mono (List.nil_subset _)).trans (gldOnly_of_regEffect (regEffect_setFld _ _) _),
    fld_setFld_same (GLD_MSG_STATUS_HEAD _) _ _ (by simp [GLD_MSG_STATUS_HEAD])⟩

theorem gldOnly_noteMessage (p : Packet) (s : State) : GldOnly [] s (noteMessage p s) :=
  (gldOnly_dropLanding _ _ s).trans (gldOnly_modGld rfl)

theorem gldOnly_closeSlot (p : Packet) (s : State) : GldOnly [] s (closeSlot p s) := gldOnly_modGld rfl

/-- Where no thread waits in RECV, a message wakes none. -/
theorem wakeRecv_of_noRecv {s : State} (h : noRecv s) (c : Nat) : wakeRecv c s = s := by
  have hnone : (s.spns.flatMap fun p => (p.2.threads.filter fun t => t.2.ctx == c && t.2.recv).map fun t => (p.1, t.1)) = [] := by
    refine List.flatMap_eq_nil_iff.mpr fun p hp => List.map_eq_nil_iff.mpr (List.filter_eq_nil_iff.mpr fun t ht => ?_)
    simp [h p hp t ht]
  unfold wakeRecv
  rw [hnone]

/-- The registers that a message reaches. -/
def messageRegs (c : Nat) : List Nat := [GLD_CNT 1, GLD_MSG_STATUS c]

/-- A packet served here is acknowledged, as long as its source could be answered before. -/
theorem ack_of_serving {l : List Nat} {p : Packet} {s t : State} (h : Serving l s t) (hn : GLD_NODE ∉ l)
    (hp : ∀ q < 7, GLD_PORT_STATUS q ∉ l) (hans : answerable p s) :
    Serving l s (ackPkt p stOk 0 t) ∧ SameMem t (ackPkt p stOk 0 t) ∧ SameRegs [] t (ackPkt p stOk 0 t) ∧
      answered p ocAck stOk 0 [] (ackPkt p stOk 0 t) := by
  obtain ⟨hack, hanswer⟩ := ackPkt_spec (answerable_congr (h.sameRouter hn hp) hans) (by decide : stOk < 16) 0
  exact ⟨h.trans (hack.gldOnly.serving.mono (List.nil_subset _)), hack.gldOnly.sameMem, hack.2, hanswer⟩

/-- The bytes of a message's slot. -/
def slotBytesOf (h : ReqHeader) (phase : Bool) (payload : List Byte) : List Byte := slotWord0 h phase ++ (slotHeader h ++ payload)

/-- Writes a message into the slot at `a`: its bytes first, the phase last. -/
def writeSlot (p : Packet) (a : Nat) (phase : Bool) (s : State) : State :=
  wrUnit a (slotWord0 p.hdr phase) false (wrUnit (a + 4) (slotHeader p.hdr) false (noteMessage p (wrUnit (a + 64) p.payload false s)))

/-- A slot written holds the message, and the registers stay. -/
theorem writeSlot_spec {s : State} (hwin : noWindows s) (p : Packet) (a : Nat) (phase : Bool) :
    Serving [] s (writeSlot p a phase s) ∧ landed a (slotBytesOf p.hdr phase p.payload) s (writeSlot p a phase s) := by
  unfold writeSlot
  have hpay := wrUnit_spec hwin (a + 64) p.payload
  have hnote := gldOnly_noteMessage p (wrUnit (a + 64) p.payload false s)
  set s1 := noteMessage p (wrUnit (a + 64) p.payload false s)
  have hserve1 : Serving [] s s1 := hpay.serving.trans hnote.serving
  have hhdr := wrUnit_spec (hserve1.noWindows hwin) (a + 4) (slotHeader p.hdr)
  set s2 := wrUnit (a + 4) (slotHeader p.hdr) false s1
  have hserve2 : Serving [] s s2 := hserve1.trans hhdr.serving
  have hword := wrUnit_spec (hserve2.noWindows hwin) a (slotWord0 p.hdr phase)
  have hl1 : landed (a + 64) p.payload s s1 := landed_of_sameMem (fun _ => ⟨rfl, rfl⟩) hpay.landed hnote.sameMem
  have hl2 : landed (a + 4) (slotHeader p.hdr ++ p.payload) s s2 :=
    landed_append (by rw [length_slotHeader]; exact hl1) hhdr.landed
  exact ⟨hserve2.trans hword.serving, landed_append (by rw [length_slotWord0]; exact hl2) hword.landed⟩

/-- Place and phase of the slot are those that the ring had before. -/
theorem landSend_writes {p : Packet} {s : State} (h : newMessage p s) (hdom : sameDomain p.hdr.src.toNat s = true) (hr : ringTakes p s)
    (hland : landing? p.hdr.src.toNat p.hdr.tag.toNat s = none)
    (hroom : slotsUsed p.hdr.msgCtx.toNat s < ringSlots p.hdr.msgCtx.toNat s)
    (hmem : memWaits true (slotAddr p.hdr.msgCtx.toNat (fld (GLD_MSG_STATUS_HEAD p.hdr.msgCtx.toNat) s) s)
      (slotBytes p.hdr.msgCtx.toNat s) s = false)
    (hoff : p.hdr.pktOff = 0) (hlen : p.payload.length = p.hdr.length.toNat) (hwin : noWindows s) :
    let c := p.hdr.msgCtx.toNat; let i := fld (GLD_MSG_STATUS_HEAD c) s
    landSend p s = wakeRecv c (ackPkt p stOk 0 (served { p.hdr with sigOp := 0 } 0 (closeSlot p
      (writeSlot p (slotAddr c i s) (slotPhase c i s) (reserveSlot p s))))) := by
  intro c i
  have hsend := landSend_lands h hdom hr hland hroom hmem hoff hlen
  dsimp only at hsend
  obtain ⟨hreserve, -⟩ := reserveSlot_spec p s
  have hring1 : rd (GLD_MSG_RING c) (reserveSlot p s) = rd (GLD_MSG_RING c) s :=
    hreserve.sameRegs _ (by simp only [List.mem_singleton, GLD_MSG_RING, GLD_MSG_STATUS]; omega)
  rw [(slot_congr hring1 i).1] at hsend
  have hpay := wrUnit_spec (hreserve.serving.noWindows hwin) (slotAddr c i s + 64) p.payload
  have hring2 := ((hpay.serving.trans (gldOnly_noteMessage p _).serving).sameRegs (GLD_MSG_RING c) List.not_mem_nil).trans hring1
  rw [(slot_congr hring2 i).2] at hsend
  exact hsend

/-- A message that its ring takes lands whole, in the slot at HEAD, and is acknowledged. -/
theorem landSend_spec {p : Packet} {s : State} (h : newMessage p s) (hdom : sameDomain p.hdr.src.toNat s = true) (hr : ringTakes p s)
    (hland : landing? p.hdr.src.toNat p.hdr.tag.toNat s = none)
    (hroom : slotsUsed p.hdr.msgCtx.toNat s < ringSlots p.hdr.msgCtx.toNat s)
    (hmem : memWaits true (slotAddr p.hdr.msgCtx.toNat (fld (GLD_MSG_STATUS_HEAD p.hdr.msgCtx.toNat) s) s)
      (slotBytes p.hdr.msgCtx.toNat s) s = false)
    (hoff : p.hdr.pktOff = 0) (hlen : p.payload.length = p.hdr.length.toNat) (hoc : p.hdr.opcode.toNat = ocSend)
    (hwin : noWindows s) (hrecv : noRecv s) (hans : answerable p s) :
    let c := p.hdr.msgCtx.toNat; let i := fld (GLD_MSG_STATUS_HEAD c) s
    Serving (messageRegs c) s (landSend p s) ∧ answered p ocAck stOk 0 [] (landSend p s) ∧
      landed (slotAddr c i s) (slotBytesOf p.hdr (slotPhase c i s) p.payload) s (landSend p s) ∧
      fld (GLD_MSG_STATUS_HEAD c) (landSend p s) = (i + 1) % 65536 := by
  intro c i
  have hsend := landSend_writes h hdom hr hland hroom hmem hoff hlen hwin
  dsimp only at hsend
  obtain ⟨hreserve, hhead⟩ := reserveSlot_spec p s
  obtain ⟨hwrite, hbytes⟩ := writeSlot_spec (hreserve.serving.noWindows hwin) p (slotAddr c i s) (slotPhase c i s)
  set s1 := reserveSlot p s
  set s2 := writeSlot p (slotAddr c i s) (slotPhase c i s) s1
  have hclose : GldOnly [GLD_CNT 1] s2 _ := ((gldOnly_closeSlot p s2).mono (List.nil_subset _)).trans
    (gldOnly_served (h := { p.hdr with sigOp := 0 }) (by simp [signals, counted, hoc, ocSend, ocSignal, ocPutSignal, ocReduce, ocMcast]) 0 _)
  set s3 := served { p.hdr with sigOp := 0 } 0 (closeSlot p s2)
  have hserve3 : Serving [GLD_CNT 1] s1 s3 := (hwrite.mono (List.nil_subset _)).trans hclose.serving
  have hall : Serving (messageRegs c) s s3 := (hreserve.serving.mono (by simp [messageRegs, c])).trans (hserve3.mono (by simp [messageRegs]))
  obtain ⟨hserve, hsame, hregs, hanswer⟩ := ack_of_serving hall
    (by simp only [messageRegs, List.mem_cons, List.not_mem_nil, or_false, GLD_NODE, GLD_CNT, GLD_MSG_STATUS]; omega)
    (fun q hq => by simp only [messageRegs, List.mem_cons, List.not_mem_nil, or_false, GLD_PORT_STATUS, GLD_CNT, GLD_MSG_STATUS]; omega)
    hans
  rw [wakeRecv_of_noRecv (hserve.noRecv hrecv)] at hsend
  rw [hsend]
  have hstatus : rd (GLD_MSG_STATUS c) (ackPkt p stOk 0 s3) = rd (GLD_MSG_STATUS c) s1 :=
    (hregs _ List.not_mem_nil).trans (hserve3.sameRegs _ (by simp only [List.mem_singleton, GLD_MSG_STATUS, GLD_CNT]; omega))
  have hfld : fld (GLD_MSG_STATUS_HEAD c) (ackPkt p stOk 0 s3) = fld (GLD_MSG_STATUS_HEAD c) s1 :=
    congrArg (fldOf (GLD_MSG_STATUS_HEAD c)) hstatus
  exact ⟨hserve, hanswer, landed_of_sameMem hreserve.sameMem hbytes (sameMem_trans hclose.sameMem hsame), hfld.trans hhead⟩

end Sys2Proof.Machine
end

section
/-! PROOFS. Messages, and packets that a causeway transfer carried here, from their arrival on (R306 to R308, R421). -/

namespace Sys2Proof.Machine

open Sys2Proof.Safety

theorem gives_message {p : Packet} {s : State} (hon : s.boot.on = true) (hvalid : nodeValid s = true)
    (hhaven : bit PWR_HAVEN_ACTIVE s = false) (hoc : p.hdr.opcode.toNat = ocSend) (hdest : p.hdr.dest.toNat = myNode s)
    {P : State → Prop} (hP : ∀ f, f s = landSend p s → P (after f s)) : Gives (.send (.message p)) s P :=
  ⟨_, rfl, hP _ (by rw [arrivePacket_eq hon hvalid hhaven hoc, if_neg (by decide), if_pos hdest])⟩

/-- What a message's packet does at its ring (R306, R421). -/
theorem messages_land (p : Packet) (s : State) (hon : s.boot.on = true) (hvalid : nodeValid s = true)
    (hhaven : bit PWR_HAVEN_ACTIVE s = false) (hoc : p.hdr.opcode.toNat = ocSend) (hdest : p.hdr.dest.toNat = myNode s)
    (hnew : newMessage p s) (hwin : noWindows s) (hans : answerable p s) :
    let h := p.hdr; let c := h.msgCtx.toNat; let i := fld (GLD_MSG_STATUS_HEAD c) s; let a := slotAddr c i s
    (plainOf p s = none → Gives (.send (.message p)) s fun t => RegsOnly [] s t) ∧
    ((plainOf p s).isSome = true →
      (ringTakes p s → landing? h.src.toNat h.tag.toNat s = none →
        (slotsUsed c s < ringSlots c s → memWaits true a (slotBytes c s) s = false → sameDomain h.src.toNat s = true →
          h.pktOff = 0 → p.payload.length = h.length.toNat → noRecv s → Gives (.send (.message p)) s fun t =>
            landed a (slotBytesOf h (slotPhase c i s) p.payload) s t ∧ fld (GLD_MSG_STATUS_HEAD c) t = (i + 1) % 65536 ∧
              answered p ocAck stOk 0 [] t ∧ fabricOnly (messageRegs c) s t) ∧
        (ringSlots c s ≤ slotsUsed c s → Gives (.send (.message p)) s fun t =>
          answered p ocNak 0 0 [] t ∧ RegsOnly [] { s with gld := t.gld, free := t.free } t)) ∧
      (bit (GLD_MSG_RING_VALID c) s = false → Gives (.send (.message p)) s fun t =>
        answered p ocAck stWindowFault 0 [] t ∧ RegsOnly [] { s with gld := t.gld, free := t.free } t)) := by
  intro h c i a
  have hgives {P : State → Prop} := gives_message (P := P) hon hvalid hhaven hoc hdest
  refine ⟨fun hsealed => ?_, fun hplain => ⟨fun htakes hland => ⟨fun hroom hmem hdom hoff hlen hrecv => ?_, fun hfull => ?_⟩, fun hring => ?_⟩⟩
  · refine hgives fun f hf => regsOnly_after ?_
    rw [hf, landSend_of_sealed hnew.1 hsealed]
    exact (regEffect_id []).regsOnly s
  · refine hgives fun f hf => ?_
    obtain ⟨hserve, hanswer, hbytes, hhead⟩ := landSend_spec hnew hdom htakes hland hroom hmem hoff hlen hoc hwin hrecv hans
    rw [← hf] at hserve hanswer hbytes hhead
    exact ⟨fun b => (rdByte_after b f s).trans (hbytes b), (fld_after _ _ _).trans hhead, answered_after hanswer, fabricOnly_after hserve.1⟩
  · refine hgives fun f hf => ?_
    obtain ⟨hnak, hanswer⟩ := nakPkt_spec hans (by decide : (2 : Nat) ≠ 1)
    rw [← landSend_of_full hnew hplain htakes hfull, ← hf] at hnak hanswer
    exact ⟨answered_after hanswer, hnak.gldOnly.regsOnly_after⟩
  · refine hgives fun f hf => ?_
    obtain ⟨hack, hanswer⟩ := ackPkt_spec hans (by decide : stWindowFault < 16) 0
    rw [← landSend_of_noRing hnew hplain hring, ← hf] at hack hanswer
    exact ⟨answered_after hanswer, hack.gldOnly.regsOnly_after⟩

/-! ### A packet that a causeway transfer carried here -/

/-- A packet that passes the checks of its window is performed. -/
theorem atWindow_of_accepted {oc : Nat} {p : Packet} {s : State} (h : accepted oc p s) (perform : State → State) :
    atWindow p perform s = perform s := by
  obtain ⟨-, -, -, -, -, hcrc, hnew, hland, hwin, hdrain, halign, hspill, hcount, hwait, -⟩ := h
  have hdup := dup_eq_false hnew
  unfold dup at hdup
  simp [atWindow, hcrc, hdup, hwin, hdrain, halign, hspill, Nat.not_le.mpr hcount, hwait]

/-- An accepted PUT of one packet lands its bytes and is acknowledged. -/
theorem land_put_spec {p : Packet} {s : State} (h : accepted ocPut p s) :
    Serving [GLD_CNT 1] s (land p s) ∧ landed (landAddr p.hdr s) p.payload s (land p s) ∧ answered p ocAck stOk 0 [] (land p s) := by
  obtain ⟨-, -, -, hoc, -, -, -, hland, -, -, -, -, -, -, hans, hpay, hwin⟩ := h
  obtain ⟨hoff, hlen⟩ := hpay (by decide)
  let l : Landing :=
    { src := p.hdr.src.toNat, tag := p.hdr.tag.toNat, window := p.hdr.window.toNat, counter := counted p.hdr, pieces := [(0, p.hdr.length.toNat)] }
  let u := if p.payload.isEmpty then s else wrUnit (landAddr p.hdr s) p.payload false s
  let note (g : Gld) : Gld := { g with landings := l :: g.landings.filter fun x => !(x.src == p.hdr.src.toNat && x.tag == p.hdr.tag.toNat) }
  have hwhole : landedBytes l = p.hdr.length.toNat := landedBytes_single rfl
  have hland' : land p s = ackPkt p stOk 0 (served p.hdr 0 (modGld note u)) := by
    unfold land
    simp [hland, hoc, carries, hoff, hlen, ocPut, ocReduce, l, note, u, landAddr, hwhole]
  have hwrote : UnitWrote (landAddr p.hdr s) p.payload s u := by
    unfold u
    split
    next hempty =>
      rw [List.isEmpty_iff.mp hempty]
      exact ⟨⟨s.mem, s.staples, s.lagoonBad, s.spns, rfl⟩, landed_nil _ _, id, id⟩
    · exact wrUnit_spec hwin _ _
  have hdone : GldOnly [GLD_CNT 1] u (served p.hdr 0 (modGld note u)) := ((gldOnly_modGld rfl).mono (List.nil_subset _)).trans
    (gldOnly_served (by simp [signals, counted, hoc, ocPut, ocSignal, ocPutSignal, ocReduce, ocMcast]) 0 _)
  obtain ⟨hserve, hsame, -, hanswer⟩ := ack_of_serving ((hwrote.serving.mono (List.nil_subset _)).trans hdone.serving)
    (by simp [GLD_NODE, GLD_CNT]) (fun q _ => by simp only [List.mem_singleton, GLD_PORT_STATUS, GLD_CNT]; omega) hans
  rw [hland']
  exact ⟨hserve, landed_of_sameMem (fun _ => ⟨rfl, rfl⟩) hwrote.landed (sameMem_trans hdone.sameMem hsame), hanswer⟩

/-- A carried packet that opens under its pair session is judged at its window as the packet it holds. -/
theorem carriedArrives_eq {q : Packet} {pay : List Byte} {s : State} (hon : s.boot.on = true) (hvalid : nodeValid s = true)
    (hhaven : bit PWR_HAVEN_ACTIVE s = false) (hoc : q.hdr.opcode.toNat = ocPut) (hdest : q.hdr.dest.toNat = myNode s)
    (hcrc : q.crc = packetCrc q.hdr q.payload) (hopen : openPayload q.hdr q.payload s = some pay) :
    carriedArrives q s = atWindow (mkPacket q.hdr pay) (land (mkPacket q.hdr pay)) s := by
  simp [carriedArrives, hon, hvalid, hhaven, hoc, hdest, hcrc, hopen, ocPut, ocGet]

/-- A PUT that a causeway transfer carried here lands its bytes (R308). -/
theorem carried_put_lands (q : Packet) (pay : List Byte) (s : State) (hon : s.boot.on = true) (hvalid : nodeValid s = true)
    (hhaven : bit PWR_HAVEN_ACTIVE s = false) (hoc : q.hdr.opcode.toNat = ocPut) (hcrc : q.crc = packetCrc q.hdr q.payload)
    (hopen : openPayload q.hdr q.payload s = some pay) (hacc : accepted ocPut (mkPacket q.hdr pay) s) :
    Gives (.send (.causeway q)) s fun t =>
      landed (landAddr q.hdr s) pay s t ∧ answered q ocAck stOk 0 [] t ∧ fabricOnly [GLD_CNT 1] s t := by
  have hdest : q.hdr.dest.toNat = myNode s := by
    obtain ⟨-, -, -, -, hdest, -⟩ := hacc
    rwa [if_neg (by decide)] at hdest
  obtain ⟨hserve, hbytes, hanswer⟩ := land_put_spec hacc
  rw [← atWindow_of_accepted hacc (land _), ← carriedArrives_eq hon hvalid hhaven hoc hdest hcrc hopen] at hserve hbytes hanswer
  exact ⟨after (carriedArrives q) s, rfl, fun b => (rdByte_after b _ s).trans (hbytes b),
    answered_after (p := q) hanswer, fabricOnly_after hserve.1⟩

end Sys2Proof.Machine
end

section
/-! PROOFS. Pair sessions (R421): what a context's fault keeps of them. -/

namespace Sys2Proof.Machine

open Sys2Proof.Safety

/-! ### What keeps the pair sessions -/

/-- No ferry channel is armed or running, and no operation waits for room. -/
def Quiet (s : State) : Prop := (∀ x ∈ s.chans, x.2.state ≠ .armed ∧ x.2.state ≠ .running) ∧ s.gld.waiting = []

/-- From s to t the pair sessions and their count stay, and a ferry at rest stays at rest. -/
def KeepsPairs (s t : State) : Prop :=
  t.sec.pairs = s.sec.pairs ∧ rd SEC_OFFING_PAIRS t = rd SEC_OFFING_PAIRS s ∧ (Quiet s → Quiet t)

theorem keepsPairs_refl (s : State) : KeepsPairs s s := ⟨rfl, rfl, id⟩

theorem KeepsPairs.trans {s t u : State} (h : KeepsPairs s t) (h' : KeepsPairs t u) : KeepsPairs s u :=
  ⟨h'.1.trans h.1, h'.2.1.trans h.2.1, h'.2.2 ∘ h.2.2⟩

theorem keepsPairs_foldl {α : Type} {f : State → α → State} (h : ∀ s x, KeepsPairs s (f s x)) (xs : List α) (s : State) :
    KeepsPairs s (xs.foldl f s) := by
  induction xs generalizing s with
  | nil => exact keepsPairs_refl s
  | cons x xs ih => exact (h s x).trans (ih _)

/-- A change elsewhere. -/
theorem keepsPairs_of {s t : State} (hsec : t.sec = s.sec) (hregs : t.regs = s.regs) (hchans : t.chans = s.chans)
    (hwait : t.gld.waiting = s.gld.waiting) : KeepsPairs s t := by
  refine ⟨by rw [hsec], rd_congr hregs _, fun hq => ?_⟩
  unfold Quiet
  rw [hchans, hwait]
  exact hq

theorem keepsPairs_of_regEffect {l : List Nat} {f : State → State} (h : RegEffect l f) (hl : SEC_OFFING_PAIRS ∉ l) (s : State) :
    KeepsPairs s (f s) := by
  obtain ⟨⟨r, a, d, he⟩, hr⟩ := h s
  rw [he] at hr ⊢
  exact ⟨rfl, hr _ hl, id⟩

theorem keepsPairs_setFld {f : FRef} (hf : f.off ≠ SEC_OFFING_PAIRS) (x : Nat) (s : State) : KeepsPairs s (setFld f x s) :=
  keepsPairs_of_regEffect (regEffect_setFld f x) (by simpa using hf.symm) s

theorem keepsPairs_setFlds {l : List (FRef × Nat)} (hl : ∀ p ∈ l, p.1.off ≠ SEC_OFFING_PAIRS) (s : State) :
    KeepsPairs s (setFlds l s) :=
  keepsPairs_of_regEffect (regEffect_setFlds l) (by
    rintro hmem
    obtain ⟨p, hp, hoff⟩ := List.mem_map.mp hmem
    exact hl p hp hoff) s

theorem keepsPairs_bump64 {o : Nat} (ho : o ≠ SEC_OFFING_PAIRS) (n : Nat) (s : State) : KeepsPairs s (bump64 o n s) :=
  keepsPairs_of_regEffect (regEffect_bump64 o n) (by simpa using ho.symm) s

theorem keepsPairs_raiseErr {f : FRef} (hf : f.off ≠ SEC_OFFING_PAIRS) {flds : List (FRef × Nat)}
    (hl : ∀ p ∈ flds, p.1.off ≠ SEC_OFFING_PAIRS) (info : Nat) (s : State) : KeepsPairs s (raiseErr f info flds s) := by
  have herr (u : State) : KeepsPairs u (setErr f u) := keepsPairs_setFld hf 1 u
  unfold raiseErr
  split
  · exact ((keepsPairs_setFlds hl s).trans (keepsPairs_of rfl rfl rfl rfl)).trans (herr _)
  · exact herr s

theorem keepsPairs_routed {s t : State} (h : Routed [GLD_CNT 6] s t) : KeepsPairs s t := by
  obtain ⟨⟨r, m, n, p, c, rfl⟩, hr⟩ := h
  exact ⟨rfl, hr _ (by simp [SEC_OFFING_PAIRS, GLD_CNT]), id⟩

theorem keepsPairs_send (m : Sent) (s : State) : KeepsPairs s (send m s) := keepsPairs_of rfl rfl rfl rfl

theorem keepsPairs_modKv (f : Kv → Kv) (s : State) : KeepsPairs s (modKv f s) := keepsPairs_of rfl rfl rfl rfl

theorem keepsPairs_setSk (i : Nat) (k : Skein) (s : State) : KeepsPairs s (setSk i k s) := keepsPairs_of rfl rfl rfl rfl

theorem keepsPairs_modCtx (c : Nat) (f : Ctx → Ctx) (s : State) : KeepsPairs s (modCtx c f s) := keepsPairs_of rfl rfl rfl rfl

theorem keepsPairs_setThread (n t : Nat) (x : Thread) (s : State) : KeepsPairs s (setThread n t x s) := keepsPairs_of rfl rfl rfl rfl

theorem keepsPairs_modPwr (f : Pwr → Pwr) (s : State) : KeepsPairs s (modPwr f s) := keepsPairs_of rfl rfl rfl rfl

theorem keepsPairs_modGld {f : Gld → Gld} {s : State} (h : (f s.gld).waiting = s.gld.waiting) : KeepsPairs s (modGld f s) :=
  keepsPairs_of rfl rfl rfl h

/-- A channel that is neither armed nor running after a change, if it was neither before. -/
theorem keepsPairs_setChan {n : Nat} {x : Channel} {s : State}
    (h : Quiet s → x.state ≠ .armed ∧ x.state ≠ .running) : KeepsPairs s (setChan n x s) :=
  ⟨rfl, rfl, fun hq => ⟨fun y hy => (mem_of_mem_put hy).elim (fun he => he ▸ h hq) (hq.1 y), hq.2⟩⟩

theorem chan_of_quiet {s : State} (h : Quiet s) (n : Nat) : (chan n s).state ≠ .armed ∧ (chan n s).state ≠ .running := by
  rcases lookup_mem_or s.chans {} n with hd | hm
  · rw [chan, hd]
    decide
  · exact h.1 _ hm

/-! ### A context's fault (R360) -/

theorem keepsPairs_freeWitnesses (st : Step) (s : State) : KeepsPairs s (freeWitnesses st s) := by
  have hfree (p : Nat) (u : State) : KeepsPairs u (freeWitness p u) := by
    unfold freeWitness
    split
    · exact keepsPairs_setFld (by simp only [INT_STRIKES_STATE, INT_STRIKES, SEC_OFFING_PAIRS]; omega) _ _
    · exact keepsPairs_refl u
  refine keepsPairs_foldl (fun u d => ?_) _ s
  split
  · split
    · exact hfree _ u
    · exact keepsPairs_refl u
  · exact keepsPairs_refl u

theorem keepsPairs_unwalk (d : Disp) (s : State) : KeepsPairs s (unwalk d s) :=
  keepsPairs_foldl (fun _ _ => keepsPairs_modKv _ _) _ s

theorem keepsPairs_kvDiscard (h : Nat) (b : BatchSk) (e : Nat) (s : State) : KeepsPairs s (kvDiscard h b e s) := by
  unfold kvDiscard
  extract_lets d u v
  have hu : KeepsPairs s u := by
    unfold u
    split
    · split
      · exact keepsPairs_refl s
      · exact keepsPairs_modKv _ _
    · exact keepsPairs_refl s
  have hv : KeepsPairs s v := hu.trans (keepsPairs_foldl (fun _ _ => keepsPairs_modKv _ _) _ _)
  split
  · exact hv.trans ((keepsPairs_modKv _ _).trans (keepsPairs_modKv _ _))
  · exact hv

theorem keepsPairs_clearSpindles (c : Nat) (s : State) : KeepsPairs s (clearSpindles c s) := by
  have hwalks := keepsPairs_foldl (f := fun s e => modKv (fun v => { v with walkers := removeOnce v.walkers e }) s)
    (fun _ _ => keepsPairs_modKv _ _) (walksOf c s) s
  refine hwalks.trans ⟨rfl, rfl, fun ⟨hchans, hwait⟩ => ⟨hchans, ?_⟩⟩
  have hnone : ∀ l : List FabricOp, l = [] → (l.filter fun o => o.ctx.toNat != c) = [] := by rintro _ rfl; rfl
  exact hnone _ hwait

theorem keepsPairs_unwalkLists (ls : List (Nat × List Disp)) (s : State) :
    KeepsPairs s (ls.foldl (fun s l => l.2.foldl (fun s d => unwalk d s) s) s) :=
  keepsPairs_foldl (fun u l => keepsPairs_foldl (fun _ _ => keepsPairs_unwalk _ _) l.2 u) ls s

theorem keepsPairs_discardBatch (e : Nat) (l : List BatchSk) (s : State) :
    KeepsPairs s (l.foldl (fun s b => kvDiscard (sk b.skein s).dir b e s) s) :=
  keepsPairs_foldl (fun _ _ => keepsPairs_kvDiscard _ _ _ _) l s

theorem keepsPairs_dropStep (c e : Nat) (s : State) : KeepsPairs s (dropStep c e s) := by
  unfold dropStep
  extract_lets x u v
  have hu : KeepsPairs s u := by
    unfold u
    split
    · exact keepsPairs_refl s
    · next st _ =>
      exact ((keepsPairs_freeWitnesses st s).trans (keepsPairs_unwalkLists st.lists _)).trans
        (keepsPairs_discardBatch e st.batch _)
  have hv : KeepsPairs s v := hu.trans (keepsPairs_discardBatch e x.next u)
  exact (hv.trans (keepsPairs_of rfl rfl rfl rfl)).trans (keepsPairs_clearSpindles c _)

theorem keepsPairs_wakeStalled (n : Nat) (s : State) : KeepsPairs s (wakeStalled n s) := by
  induction n generalizing s with
  | zero => exact keepsPairs_refl s
  | succ n ih =>
    unfold wakeStalled
    split
    · exact keepsPairs_refl s
    · refine KeepsPairs.trans ?_ (ih _)
      split
      · exact (keepsPairs_modGld rfl).trans (keepsPairs_setThread _ _ _ _)
      · exact keepsPairs_modGld rfl

theorem keepsPairs_cancelOps (c : Nat) (s : State) : KeepsPairs s (cancelOps c s) :=
  KeepsPairs.trans (keepsPairs_of rfl rfl rfl rfl) (keepsPairs_wakeStalled _ _)

theorem keepsPairs_abortChans (c : Nat) (s : State) : KeepsPairs s (abortChans c s) :=
  keepsPairs_foldl (fun _ _ => keepsPairs_setChan fun _ => ⟨by simp, by simp⟩) _ s

theorem keepsPairs_faultSkein (i cause : Nat) (s : State) : KeepsPairs s (faultSkein i cause s) := by
  unfold faultSkein
  dsimp only
  split
  · exact (keepsPairs_setSk _ _ s).trans (keepsPairs_bump64 (by decide) _ _)
  · exact keepsPairs_refl s

theorem keepsPairs_hostWrite (i fn addr : Nat) (bs : List Byte) (s : State) : KeepsPairs s (hostWrite i fn addr bs s) := by
  unfold hostWrite
  split <;> exact keepsPairs_of rfl rfl rfl rfl

theorem keepsPairs_ringLost (i : Nat) (s : State) : KeepsPairs s (ringLost i s) := by
  have hfault (u : State) : KeepsPairs u (ringFault i u) :=
    (keepsPairs_setFld (by decide) 1 u).trans (keepsPairs_faultSkein _ _ _)
  unfold ringLost
  split
  · exact (keepsPairs_setFld (by decide) 1 s).trans (hfault _)
  · exact hfault s

theorem keepsPairs_putRecord (i : Nat) (ws : List W32) (s : State) : KeepsPairs s (putRecord i ws s) := by
  unfold putRecord
  dsimp only
  split
  · exact keepsPairs_ringLost i s
  · exact (keepsPairs_hostWrite _ _ _ _ s).trans (keepsPairs_setSk _ _ _)

theorem keepsPairs_writeCompletion (i : Nat) (s : State) : KeepsPairs s (writeCompletion i s) := by
  unfold writeCompletion
  dsimp only
  split
  · exact keepsPairs_refl s
  split
  · exact keepsPairs_refl s
  · exact (keepsPairs_putRecord _ _ s).trans (keepsPairs_setSk _ _ _)

theorem keepsPairs_setPhases (i : Nat) (s : State) : KeepsPairs s (setPhases i s) := by
  unfold setPhases
  dsimp only
  split
  · exact keepsPairs_refl s
  split
  · exact (keepsPairs_setSk _ _ s).trans (keepsPairs_ringLost _ _)
  · exact (keepsPairs_foldl (fun _ _ => keepsPairs_hostWrite _ _ _ _ _) _ s).trans (keepsPairs_of rfl rfl rfl rfl)

theorem keepsPairs_leaveInFault (i : Nat) (s : State) : KeepsPairs s (leaveInFault i s) := by
  have hleave : KeepsPairs s (leaveFaulted i s) := by
    unfold leaveFaulted
    dsimp only
    split
    · exact (keepsPairs_setSk _ _ s).trans (keepsPairs_writeCompletion _ _)
    · exact keepsPairs_refl s
  have hshards (u : State) : KeepsPairs u (releaseShards i u) := by
    unfold releaseShards
    dsimp only
    split
    · exact keepsPairs_refl u
    · exact keepsPairs_send _ u
  unfold leaveInFault
  dsimp only
  split
  · exact (hleave.trans (hshards _)).trans (keepsPairs_setPhases _ _)
  · exact keepsPairs_refl s

theorem keepsPairs_lagoonsFreed (r : Nat) (ns : List Nat) (s : State) : KeepsPairs s (lagoonsFreed r ns s) :=
  keepsPairs_of rfl rfl rfl rfl

theorem keepsPairs_setState (c st : Nat) (s : State) : KeepsPairs s (setState c st s) :=
  keepsPairs_setFld (by simp only [CTX_STATE_STATE, CTX_STATE, SEC_OFFING_PAIRS]; omega) _ s

theorem keepsPairs_ctxFault (c : Nat) (s : State) : KeepsPairs s (ctxErr CTX_ERR_FAULT c s) :=
  keepsPairs_raiseErr (by decide) (by simp [CTX_ERR_INFO_CONTEXT, CTX_ERR_INFO, SEC_OFFING_PAIRS]) _ s

theorem keepsPairs_faultSkeins (is : List Nat) (cause : Nat) (s : State) :
    KeepsPairs s (is.foldl (fun s i =>
      leaveInFault i (if (sk i s).state == .done then s else faultSkein i cause s)) s) := by
  refine keepsPairs_foldl (fun u i => ?_) is s
  split
  · exact keepsPairs_leaveInFault i u
  · exact (keepsPairs_faultSkein _ _ u).trans (keepsPairs_leaveInFault _ _)

theorem keepsPairs_faultFields (c spindle cause : Nat) (s : State) :
    KeepsPairs s (setFlds [(CTX_FAULT_SPINDLE c, spindle), (CTX_FAULT_CAUSE c, cause)] s) :=
  keepsPairs_setFlds (by
    simp only [List.forall_mem_cons, CTX_FAULT_SPINDLE, CTX_FAULT_CAUSE, CTX_FAULT, SEC_OFFING_PAIRS]
    exact ⟨by omega, by omega, by simp⟩) s

theorem keepsPairs_faultCtx (c cause : Nat) (spindle : Option Nat) (s : State) : KeepsPairs s (faultCtx c cause spindle s) := by
  unfold faultCtx
  split
  · extract_lets s1 s2 s3 s4 s5 s6
    have h1 : KeepsPairs s s1 := keepsPairs_dropStep _ _ s
    have h2 : KeepsPairs s1 s2 := (keepsPairs_cancelOps _ _).trans (keepsPairs_abortChans _ _)
    have h3 : KeepsPairs s2 s3 := keepsPairs_faultSkeins _ _ _
    have h4 : KeepsPairs s3 s4 := keepsPairs_lagoonsFreed _ _ _
    have h5 : KeepsPairs s4 s5 := keepsPairs_modCtx _ _ _
    have h6 : KeepsPairs s5 s6 := keepsPairs_faultFields _ _ _ _
    exact ((h1.trans h2).trans (h3.trans h4)).trans ((h5.trans h6).trans
      ((keepsPairs_setState _ _ _).trans (keepsPairs_ctxFault _ _)))
  · exact keepsPairs_refl s

end Sys2Proof.Machine
end

section
/-! PROOFS. The end of an SPDM exchange (R421): the pair session stands, whatever waited for it; and with it, what targets refuse and
what lands there. -/

namespace Sys2Proof.Machine

open Sys2Proof.Safety

/-! ### The end of an operation (R311, R312) -/

theorem keepsPairs_reportLeave (s : State) : KeepsPairs s (reportLeave s) :=
  keepsPairs_setFlds (by simp [PWR_LEAVE_COMMITTED_W, PWR_LEAVE_WAITING, PWR_LEAVE, SEC_OFFING_PAIRS]) s

theorem keepsPairs_releaseLeave (k : LeaveKind) (done : Bool) (s : State) : KeepsPairs s (releaseLeave k done s) := by
  unfold releaseLeave
  split
  · split
    · exact (keepsPairs_modPwr _ s).trans (keepsPairs_reportLeave _)
    · exact keepsPairs_refl s
  · extract_lets u v
    have hv : KeepsPairs u v := by
      unfold v
      split
      · split
        · exact keepsPairs_modPwr _ u
        · exact keepsPairs_refl u
      · exact keepsPairs_refl u
    exact ((keepsPairs_modPwr _ s).trans hv).trans (keepsPairs_reportLeave v)

theorem statusErr_off (st : Nat) : (statusErr st).off = GLD_ERR := by
  unfold statusErr
  split
  · rfl
  split
  · rfl
  split <;> rfl

theorem keepsPairs_statusFlags (st c node : Nat) (s : State) : KeepsPairs s (statusFlags st c node s) := by
  unfold statusFlags
  split
  · exact keepsPairs_refl s
  · have herr := keepsPairs_of_regEffect (regEffect_gldErr _ (statusErr_off st) c st node) (by decide) s
    dsimp only
    split
    · exact herr.trans (keepsPairs_send _ _)
    · exact herr

theorem keepsPairs_threadFaultIn (n t c status : Nat) (s : State) : KeepsPairs s (threadFaultIn n t c status s) := by
  unfold threadFaultIn spnErr
  refine (keepsPairs_raiseErr ?_ ?_ _ s).trans (keepsPairs_faultCtx _ _ _ _)
  · simp only [SPN_ERR_THREAD_FAULT, SPN_ERR, SEC_OFFING_PAIRS]; omega
  · simp only [List.forall_mem_cons, SPN_ERR_INFO_CONTEXT, SPN_ERR_INFO_SLOT, SPN_ERR_INFO, SEC_OFFING_PAIRS]
    exact ⟨by omega, by omega, by simp⟩

theorem keepsPairs_fryErr {f : FRef} (hf : f.off ≠ SEC_OFFING_PAIRS) (n : Nat) (s : State) : KeepsPairs s (fryErr f n s) :=
  keepsPairs_raiseErr hf (by
    simp [FRY_ERR_INFO_CONTEXT, FRY_ERR_INFO_DRIVER, FRY_ERR_INFO_CHANNEL, FRY_ERR_INFO_CAUSE, FRY_ERR_INFO, SEC_OFFING_PAIRS]) _ s

theorem keepsPairs_haltChan (n : Nat) (s : State) : KeepsPairs s (haltChan n s) :=
  (keepsPairs_setChan fun _ => ⟨by simp, by simp⟩).trans ((keepsPairs_fryErr (by decide) n _).trans (keepsPairs_bump64 (by decide) _ _))

/-- A transfer's piece that did not arrive (R341). -/
theorem keepsPairs_deliverFerry {st : Nat} (hst : st ≠ stOk) (n i : Nat) (bs : List Byte) (s : State) :
    KeepsPairs s (deliverFerry n i st bs s) := by
  unfold deliverFerry
  split
  · exact keepsPairs_refl s
  · rw [if_pos (by simpa using hst)]
    have herr := keepsPairs_fryErr (f := FRY_ERR_REMOTE) (by decide) n s
    dsimp only
    split
    · exact herr.trans (keepsPairs_faultCtx _ _ _ _)
    · have hredo := herr.trans (keepsPairs_setChan (n := n)
        (x := { chan n (fryErr FRY_ERR_REMOTE n s) with redo := (chan n (fryErr FRY_ERR_REMOTE n s)).redo ++ [i] })
        fun hq => chan_of_quiet hq n)
      split
      · exact hredo.trans (keepsPairs_haltChan n _)
      · exact hredo

/-- An operation that did not end well touches no pair session, whoever issued it. -/
theorem keepsPairs_deliver {st : Nat} (hst : st ≠ stOk) (o : FabOp) (tag : Nat) (bs : List Byte) (s : State) :
    KeepsPairs s (deliver o tag st bs s) := by
  unfold deliver
  split
  · unfold deliverThread
    rw [if_pos (by simpa using hst)]
    exact (keepsPairs_setThread _ _ _ s).trans (keepsPairs_threadFaultIn _ _ _ _ _)
  · exact keepsPairs_deliverFerry hst _ _ bs s
  · exact keepsPairs_refl s
  · exact keepsPairs_refl s
  · rw [if_neg hst]
    exact keepsPairs_faultCtx _ _ _ s

theorem keepsPairs_finishOp {st : Nat} (hst : st ≠ stOk) (tag : Nat) (bs : List Byte) (s : State) :
    KeepsPairs s (finishOp tag st bs s) := by
  unfold finishOp
  split
  · exact keepsPairs_refl s
  · next o _ =>
    extract_lets u v
    have hu : KeepsPairs s u := keepsPairs_modGld rfl
    have hv : KeepsPairs u v := by
      unfold v
      split
      · exact keepsPairs_releaseLeave _ _ u
      · exact keepsPairs_refl u
    exact (hu.trans hv).trans (((keepsPairs_statusFlags _ _ _ v).trans (keepsPairs_deliver hst o tag bs _)).trans
      (keepsPairs_wakeStalled 1 _))

theorem keepsPairs_settleCauseway (s : State) : KeepsPairs s (settleCauseway s) := by
  unfold settleCauseway
  extract_lets node u v
  have hu : KeepsPairs s u := keepsPairs_foldl (fun _ _ => keepsPairs_finishOp (by decide) _ _ _) _ s
  have hv : KeepsPairs u v := keepsPairs_modGld rfl
  refine (hu.trans hv).trans (keepsPairs_foldl (fun w o => ?_) _ v)
  split
  · exact KeepsPairs.trans (keepsPairs_modGld rfl) (keepsPairs_routed (routed_sendOp _ _))
  · exact keepsPairs_refl w

/-! ### The ferry at rest -/

theorem fireTriggers_of_quiet {s : State} (h : Quiet s) : fireTriggers s = s := by
  have hstep (x : Nat × Channel) : (fun s (x : Nat × Channel) =>
      let h := chan x.1 s
      match h.state, h.active with
      | .armed, some d => if triggered x.1 d s && !chanOut x.1 s then startChan x.1 s else s
      | _, _ => s) s x = s := by
    have hstate := (chan_of_quiet h x.1).1
    dsimp only
    split
    · contradiction
    · rfl
  unfold fireTriggers
  exact List.foldl_fixed' hstep s.chans

theorem drainEmpty_of_quiet {s : State} (h : Quiet s) (n : Nat) : drainEmpty n s = s := by
  cases n with
  | zero => rfl
  | succ n =>
    unfold drainEmpty
    split
    · rfl
    · next x hx =>
      have hrunning := List.find?_some hx
      simp [(h.1 x (List.mem_of_find?_eq_some hx)).2] at hrunning

theorem pickChan_of_quiet {s : State} (h : Quiet s) : pickChan s = none := by
  have hno (n : Nat) : mayServe n s = false := by
    have hstate := (chan_of_quiet h n).2
    unfold mayServe
    dsimp only
    split
    · contradiction
    · rfl
  unfold pickChan
  simp [hno, sortBy]

/-- With the ferry at rest and no operation waiting for room, there is nothing to do for them. -/
theorem settleFerry_of_quiet {s : State} (h : Quiet s) : settleFerry s = s := by
  unfold settleFerry
  rw [fireTriggers_of_quiet h, drainEmpty_of_quiet h]
  dsimp only
  rw [h.2]
  simp [issueWaiting, pumpFerry, pickChan_of_quiet h]

/-! ### The session -/

/-- A session opened: it is there, with those before it, and counted if it is new. -/
theorem openPair_spec {node : Nat} {s : State} (hroom : s.sec.pairs.length < 128 ∨ node ∈ s.sec.pairs) :
    node ∈ (openPair node s).sec.pairs ∧ (∀ n ∈ s.sec.pairs, n ∈ (openPair node s).sec.pairs) ∧
      (node ∉ s.sec.pairs → fld SEC_OFFING_PAIRS_PAIRS (openPair node s) = s.sec.pairs.length + 1) := by
  unfold openPair
  by_cases hmem : node ∈ s.sec.pairs
  · rw [if_pos (by simp [hmem])]
    exact ⟨hmem, fun _ => id, (absurd hmem ·)⟩
  · have hlt : s.sec.pairs.length < 128 := hroom.resolve_right hmem
    rw [if_neg (by simp [hmem, hlt])]
    refine ⟨List.mem_append_right _ (List.mem_singleton_self node), fun n hn => List.mem_append_left _ hn, fun _ => ?_⟩
    rw [fld_setFld_same _ _ _ (by decide)]
    simp only [List.length_append, List.length_singleton, SEC_OFFING_PAIRS_PAIRS]
    omega

theorem quiet_openPair {node : Nat} {s : State} (h : Quiet s) : Quiet (openPair node s) := by
  unfold openPair
  split
  · exact h
  · exact h

theorem quiet_of_channelsIdle {s : State} (h : channelsIdle s) : Quiet s :=
  ⟨fun x hx => by rw [h.1 x hx]; decide, h.2⟩

/-- The end of a pair session's SPDM exchange (R421). -/
theorem pair_established {node : BitVec 10} {s : State} (hon : s.boot.on = true) (hvalid : nodeValid s = true)
    (hhaven : bit PWR_HAVEN_ACTIVE s = false) (hdom : sameDomain node.toNat s = false) (hnode : isNode node.toNat = true)
    (hroom : s.sec.pairs.length < 128 ∨ node.toNat ∈ s.sec.pairs) (hidle : channelsIdle s) :
    Gives (.send (.pairSpdm node true)) s fun t =>
      node.toNat ∈ t.sec.pairs ∧ (∀ n ∈ s.sec.pairs, n ∈ t.sec.pairs) ∧
        (node.toNat ∉ s.sec.pairs → fld SEC_OFFING_PAIRS_PAIRS t = s.sec.pairs.length + 1) := by
  have harrives : pairArrives node.toNat true s = settleCauseway (openPair node.toNat s) := by
    simp [pairArrives, hon, hvalid, hhaven, hdom, hnode]
  obtain ⟨hpairs, hcount, hquiet⟩ := keepsPairs_settleCauseway (openPair node.toNat s)
  have hsettled : settleFerry (pairArrives node.toNat true s) = settleCauseway (openPair node.toNat s) := by
    rw [harrives]
    exact settleFerry_of_quiet (hquiet (quiet_openPair (quiet_of_channelsIdle hidle)))
  refine ⟨after (fun s => settleFerry (pairArrives node.toNat true s)) s, rfl, ?_⟩
  have hfld : fld SEC_OFFING_PAIRS_PAIRS (settleCauseway (openPair node.toNat s)) = fld SEC_OFFING_PAIRS_PAIRS (openPair node.toNat s) :=
    congrArg (fldOf SEC_OFFING_PAIRS_PAIRS) hcount
  dsimp only
  rw [after_sec, fld_after, hsettled, hpairs, hfld]
  exact openPair_spec hroom

/-! ### What a target refuses, and what lands there -/

theorem messageRing_holds : messageRing := by
  refine ⟨?_, fun _ _ => pair_established, carried_put_lands⟩
  intro p s h c i a hon hvalid hhaven hoc hdest hcrc hfresh hplainSend hwin hans
  have hnew : newMessage p s := ⟨hcrc, dup_eq_false hfresh, by rw [← BitVec.getLsbD_eq_getElem]; exact hplainSend⟩
  obtain ⟨hsealed, hlands⟩ := messages_land p s hon hvalid hhaven hoc hdest hnew hwin hans
  refine ⟨fun hdom hopen => hsealed ((if_neg (Bool.eq_false_iff.mp hdom)).trans hopen), fun hplain => ?_⟩
  have hsome : (plainOf p s).isSome = true := by
    unfold plainOf
    split
    · rfl
    · next hdom => exact hplain.resolve_left hdom
  obtain ⟨hring, hnoRing⟩ := hlands hsome
  refine ⟨fun hring1 hlen halign hsend hland => ?_, hnoRing⟩
  obtain ⟨hlanded, hfull⟩ := hring ⟨hring1, hlen, halign, hsend⟩ hland
  refine ⟨fun hroom hmem hdom hoff hlength hrecv => ?_, hfull⟩
  simpa only [slotBytesOf, slotWord0, slotHeader, messageRegs, List.append_assoc] using hlanded hroom hmem hdom hoff hlength hrecv

/-- Settles O31: what a window refuses or has performed already is decided before anything of it is performed
(`targetRefuses_holds`); a message's landing, a carried PUT and a new pair session are each followed to their end. -/
theorem targetsAndMessages : Obligations.TargetsAndMessages := ⟨targetRefuses_holds, messageRing_holds⟩

end Sys2Proof.Machine
end

section
/-! PROOFS. A thread's arrival at a barrier (R298, R317, R318, R322): the FENCE that it performs leaves its mark on the thread. -/

namespace Sys2Proof.Machine

open Sys2Proof.Safety

/-! ### Threads and barrier units after a write -/

@[simp] theorem thread_setThread_same (n t : Nat) (x : Thread) (s : State) : thread n t (setThread n t x s) = x := by
  unfold thread setThread
  rw [spn_modSpn, if_pos rfl]
  exact lookup_put_same _ _ _ _

@[simp] theorem barUnit_setUnit_same (u : Nat) (b : BarUnit) (s : State) : barUnit u (setUnit u b s) = b :=
  lookup_ins_same _ _ _ _

/-! ### An arrival that leaves the round open -/

/-- Thread t of spindle n has performed a FENCE with no operation out: its next operation carries FENCED (R298). -/
def markFenced (n t : Nat) (s : State) : State := setThread n t { thread n t s with fenced := true } s

/-- Participant p, by its agent k, has arrived in the current round of unit u (R321). -/
def countArrival (u p k : Nat) (s : State) : State :=
  let b := barUnit u s
  setUnit u { b with cur := b.cur ++ [p], last := ins b.last (p * 16 + k) b.round } s

theorem fenceThread_of_noOps {n t : Nat} {s : State} (hready : (thread n t s).state = .ready) (hops : (thread n t s).ops = []) :
    fenceThread n t s = markFenced n t s := by
  simp [fenceThread, markFenced, hready, hops]

@[simp] theorem ctxLive_markFenced (c n t : Nat) (s : State) : ctxLive c (markFenced n t s) = ctxLive c s := rfl

@[simp] theorem unitOf_markFenced (c i n t : Nat) (s : State) : unitOf c i (markFenced n t s) = unitOf c i s := rfl

@[simp] theorem barUnit_markFenced (u n t : Nat) (s : State) : barUnit u (markFenced n t s) = barUnit u s := rfl

theorem threadWrites_nil (n t : Nat) (s : State) : threadWrites n t [] s = s := by
  unfold threadWrites
  split <;> rfl

theorem completeLocal_of_open {u : Nat} {s : State} (h : full (barUnit u s).parts (barUnit u s).cur = false) (n : Nat) :
    completeLocal n u s = s := by
  cases n with
  | zero => rfl
  | succ n => simp [completeLocal, h]

theorem arriveUnit_of_open {u p : Nat} {s : State} (hcur : p ∉ (barUnit u s).cur)
    (hopen : full (barUnit u s).parts ((barUnit u s).cur ++ [p]) = false) (k : Nat) :
    arriveUnit u p k s = countArrival u p k s := by
  have hnew : completeLocal 3 u (countArrival u p k s) = countArrival u p k s :=
    completeLocal_of_open (by simpa [countArrival] using hopen) 3
  unfold arriveUnit
  dsimp only
  rw [if_pos (by simpa using hcur)]
  exact hnew

/-- The arrival of a participant that is missing in a round, and not the last one missing. -/
theorem arrive_of_open {c i p u : Nat} {s : State} (hlive : ctxLive c s = true) (hunit : unitOf c i s = some u)
    (hpart : p ∈ (barUnit u s).parts) (hcur : p ∉ (barUnit u s).cur)
    (hopen : full (barUnit u s).parts ((barUnit u s).cur ++ [p]) = false) (who : Waiter) :
    arrive c i p who s = countArrival u p (agentOf who) s := by
  simp [arrive, hlive, hunit, hpart, arriveUnit_of_open hcur hopen]

/-- A thread without operations out, whose writes are in place, performs its FENCE and is counted (R318). -/
theorem threadArrives_of_open {c i p u t : Nat} {s : State} (hlive : ctxLive c s = true) (hunit : unitOf c i s = some u)
    (hready : (thread p t s).state = .ready) (hctx : (thread p t s).ctx = c) (hops : (thread p t s).ops = [])
    (hpart : p ∈ (barUnit u s).parts) (hcur : p ∉ (barUnit u s).cur)
    (hopen : full (barUnit u s).parts ((barUnit u s).cur ++ [p]) = false) :
    threadArrives c i p t [] false s = countArrival u p (1 + t) (markFenced p t s) := by
  have hstill : (thread p t (markFenced p t s)).state = .ready := by simpa [markFenced] using hready
  have hcount : arrive c i p (.thread t) (markFenced p t s) = countArrival u p (1 + t) (markFenced p t s) :=
    arrive_of_open (by simpa using hlive) (by simpa using hunit) (by simpa using hpart) (by simpa using hcur) (by simpa using hopen) _
  simp [threadArrives, threadWrites_nil, fenceThread_of_noOps hready hops, arriveFenced, hready, hctx, hstill, hcount]

/-- ARRIVE of a thread: beside its unit, the FENCED mark of the thread is all that changes. -/
theorem exec_arrive_of_open {c : BitVec 6} {i : Byte} {p u : Nat} {th : BitVec 3} {s : State} (hlive : ctxLive c.toNat s = true)
    (hunit : unitOf c.toNat i.toNat s = some u) (hidle : channelsIdle s)
    (hmay : mayArrive c.toNat i.toNat p (.thread th []) [0] s) (hpart : p ∈ (barUnit u s).parts) (hcur : p ∉ (barUnit u s).cur)
    (hopen : full (barUnit u s).parts ((barUnit u s).cur ++ [p]) = false) :
    exec (.arrive ⟨c, i⟩ p (.thread th [])) s =
      .next (after (fun s => countArrival u p (1 + th.toNat) (markFenced p th.toNat s)) s) := by
  obtain ⟨hready, hctx, hops, -⟩ := hmay
  have hquiet : Quiet (countArrival u p (1 + th.toNat) (markFenced p th.toNat s)) := quiet_of_channelsIdle hidle
  have heffect : settleFerry (threadArrives c.toNat i.toNat p th.toNat [] false s) =
      countArrival u p (1 + th.toNat) (markFenced p th.toNat s) := by
    rw [threadArrives_of_open hlive hunit hready hctx hops hpart hcur hopen, settleFerry_of_quiet hquiet]
  exact congrArg Host.Outcome.next (after_congr
    (f := fun s => settleFerry (threadArrives c.toNat i.toNat p th.toNat [] false s))
    (g := fun s => countArrival u p (1 + th.toNat) (markFenced p th.toNat s)) heffect)

/-- After it the thread carries the mark, whatever it carried before. -/
theorem arrive_marks_fenced {c : BitVec 6} {i : Byte} {p u : Nat} {th : BitVec 3} {s t : State} (hlive : ctxLive c.toNat s = true)
    (hunit : unitOf c.toNat i.toNat s = some u) (hidle : channelsIdle s)
    (hmay : mayArrive c.toNat i.toNat p (.thread th []) [0] s) (hpart : p ∈ (barUnit u s).parts) (hcur : p ∉ (barUnit u s).cur)
    (hopen : full (barUnit u s).parts ((barUnit u s).cur ++ [p]) = false)
    (ht : exec (.arrive ⟨c, i⟩ p (.thread th [])) s = .next t) : (thread p th.toNat t).fenced = true := by
  rw [exec_arrive_of_open hlive hunit hidle hmay hpart hcur hopen] at ht
  have hspns : t.spns = (markFenced p th.toNat s).spns := by rw [← Host.Outcome.next.inj ht, after_spns]; rfl
  have hthread : thread p th.toNat t = thread p th.toNat (markFenced p th.toNat s) := by unfold thread spn; rw [hspns]
  rw [hthread]
  simp [markFenced]

/-! ### A thread without the mark -/

/-- A thread that arrives without the mark is not left as it was. -/
theorem not_barrierArrivals_of_unmarked {c : BitVec 6} {i : Byte} {p u : Nat} {th : BitVec 3} {s : State}
    (hlive : ctxLive c.toNat s = true) (hunit : unitOf c.toNat i.toNat s = some u) (hidle : channelsIdle s)
    (hbar : (barUnit u s).ctx = c.toNat) (hmay : mayArrive c.toNat i.toNat p (.thread th []) [0] s)
    (hpart : p ∈ (barUnit u s).parts) (hcur : p ∉ (barUnit u s).cur)
    (hopen : full (barUnit u s).parts ((barUnit u s).cur ++ [p]) = false) (hunmarked : (thread p th.toNat s).fenced = false) :
    ¬ barrierArrivals := by
  intro harrivals
  obtain ⟨-, hclauses, -⟩ := harrivals c i p u (.thread th []) s hlive hunit hidle hbar
  obtain ⟨-, hleaves, -⟩ := hclauses hmay
  obtain ⟨t, ht, -, -, -, hspns⟩ := hleaves hpart hcur hopen
  have hmarked := arrive_marks_fenced hlive hunit hidle hmay hpart hcur hopen ht
  have hsame : thread p th.toNat t = thread p th.toNat s := by unfold thread spn; rw [hspns]
  rw [hsame, hunmarked] at hmarked
  contradiction

/-- Context 5 runs with a barrier of spindle 0 and one more participant; thread 7 of the spindle is ready and has issued nothing. -/
def unmarkedThread : State :=
  { setState 5 cxRunning State.reset with
    boot := { on := true }
    bars := [(255, { ctx := 5, index := 0, parts := [0, 359] })]
    spns := [(0, { threads := [(7, { state := .ready, ctx := 5 })] })] }

/-- Refutes O27: an arrival that leaves the round open is to leave every thread as it was, but a thread performs a FENCE before
its arrival (R318), and that marks it: its next operation carries FENCED (R298). -/
theorem not_barriers : ¬ Obligations.Barriers := by
  rintro ⟨harrivals, -⟩
  have hlive : ctxLive (5 : BitVec 6).toNat unmarkedThread = true := by decide +kernel
  have hunit : unitOf (5 : BitVec 6).toNat (0 : Byte).toNat unmarkedThread = some 255 := by decide +kernel
  have hidle : channelsIdle unmarkedThread := ⟨fun _ hx => absurd hx List.not_mem_nil, rfl⟩
  have hready : mayArrive (5 : BitVec 6).toNat (0 : Byte).toNat 0 (.thread 7 []) [0] unmarkedThread :=
    ⟨by decide +kernel, by decide +kernel, by decide +kernel, rfl⟩
  exact not_barrierArrivals_of_unmarked hlive hunit hidle (by decide +kernel) hready (by decide +kernel) (by decide +kernel)
    (by decide +kernel) (by decide +kernel) harrivals

end Sys2Proof.Machine
end

section
/-! PROOFS. The queue, the state at reset, and the canonical form, which every command keeps. -/

namespace Sys2Proof.Machine
open Sys2Proof.Safety

/-- Every command that completes has the form of an effect, made canonical. -/
theorem exec_next_form {c : Instr} {s t : State} (h : exec c s = .next t) : ∃ f, t = after f s := by
  cases c with
  | reduce p => exact of_if h
  | atomic p hold => exact of_if h
  | send p =>
    have hs : execSend p s = .next t := h
    unfold execSend at hs
    split at hs <;> exact of_run hs
  | _ => unfold exec at h; exact of_run h

/-- Settles O2: every command that completes runs an effect, after which the queue is put back. -/
theorem queueKept : Obligations.QueueKept := by
  intro c s t h
  obtain ⟨f, rfl⟩ := exec_next_form h
  exact after_pending f s

/-- Settles O4: an idle step changes nothing, and a command's effect is made canonical. -/
theorem canonKept : Obligations.CanonKept := by
  intro s t hs h
  unfold step at h
  split at h
  · cases h
    exact hs
  · obtain ⟨f, rfl⟩ := exec_next_form h
    exact after_wf f _

/-- Settles O1: both cases of `step`. -/
theorem stepRunsFront : Obligations.StepRunsFront := by
  refine ⟨fun c l s => rfl, fun s h => ?_⟩
  unfold step
  rw [h]

theorem resetRegs_hold_reset_fields : ∀ d ∈ regTab, ∀ f ∈ d.flds, fldOf ⟨d.base, f.hi, f.lo⟩ (rstVal d.base) = f.rst := by
  decide +kernel

/-- Settles O3: the state at reset lists no register and no byte, so each reads its reset value. -/
theorem resetState : Obligations.ResetState :=
  ⟨⟨rfl, rfl, rfl, rfl⟩, rfl, rfl, fun _ => rfl, resetRegs_hold_reset_fields⟩

end Sys2Proof.Machine
end

section
/-! PROOFS. What a write leaves in the fields of a register (R12, R13). -/

namespace Sys2Proof.Machine

open Sys2Proof.Safety

/-- The field as a reference into a register value. -/
abbrev Fld.ref (f : Fld) : FRef := ⟨0, f.hi, f.lo⟩

/-- The written value is one that the manual reserves, in a field that takes values. -/
abbrev Fld.Reserved (f : Fld) (v : W64) : Prop :=
  (f.acc = .rw ∨ f.acc = .wp) ∧ ∃ b ∈ f.bad, b.1 ≤ fldOf f.ref v ∧ fldOf f.ref v ≤ b.2

/-- Fields of one register: within 64 bits, and no two share a bit. -/
abbrev FieldsApart (fs : List Fld) : Prop :=
  (∀ f ∈ fs, f.hi < 64) ∧ fs.Pairwise fun f g => f.hi < g.lo ∨ g.hi < f.lo

theorem regTab_fieldsApart : ∀ d ∈ regTab, FieldsApart d.flds := by decide +kernel

theorem fldOf_lt (f : FRef) (v : W64) : fldOf f v < 2 ^ (f.hi + 1 - f.lo) := Nat.mod_lt _ (by positivity)

/-- A field reads alike in words whose bits agree there. -/
theorem fldOf_congr {f : FRef} {v w : W64} (h : ∀ i < 64, f.lo ≤ i → i ≤ f.hi → v.getLsbD i = w.getLsbD i) :
    fldOf f v = fldOf f w := by
  apply Nat.eq_of_testBit_eq
  intro i
  rw [testBit_fldOf, testBit_fldOf]
  by_cases hi : i < f.hi + 1 - f.lo
  · by_cases h64 : f.lo + i < 64
    · rw [h _ h64 (by omega) (by omega)]
    · rw [BitVec.getLsbD_of_ge _ _ (by omega), BitVec.getLsbD_of_ge _ _ (by omega)]
  · simp [hi]

/-! ### One field -/

theorem writeField_other (f : Fld) (v : W64) (r : W64 × Bool) {i : Nat} (hi : i < 64) (h : ¬(f.lo ≤ i ∧ i ≤ f.hi)) :
    (writeField f v r).1.getLsbD i = r.1.getLsbD i := by
  have hset : ∀ x, (setFldOf f.ref x r.1).getLsbD i = r.1.getLsbD i := fun x => by
    rw [getLsbD_setFldOf _ _ _ _ hi, if_neg fun k => h ⟨k.1, by have := k.2; dsimp at this; omega⟩]
  unfold writeField
  cases f.acc with
  | rw => dsimp only; split <;> simp [hset]
  | wp => dsimp only; split <;> simp [hset]
  | w1c => exact hset _
  | w1s => exact hset _
  | ro => rfl
  | wo => rfl
  | rc => rfl

theorem fldOf_writeField {f : Fld} (hf : f.hi < 64) (v : W64) (r : W64 × Bool) :
    fldOf f.ref (writeField f v r).1 = fieldAfter f (fldOf f.ref r.1) (fldOf f.ref v) := by
  have hset : ∀ x < 2 ^ (f.hi + 1 - f.lo), fldOf f.ref (setFldOf f.ref x r.1) = x := fun x hx =>
    (fldOf_setFldOf_same f.ref x r.1 hf).trans (Nat.mod_eq_of_lt hx)
  unfold writeField fieldAfter
  cases f.acc with
  | rw => dsimp only; split <;> simp [hset _ (fldOf_lt f.ref v)]
  | wp => dsimp only; split <;> simp [hset _ (fldOf_lt f.ref v)]
  | w1c => exact hset _ (Nat.and_lt_two_pow _ (Nat.xor_lt_two_pow (by simp) (fldOf_lt f.ref v)))
  | w1s => exact hset _ (Nat.or_lt_two_pow (fldOf_lt f.ref r.1) (fldOf_lt f.ref v))
  | ro => rfl
  | wo => rfl
  | rc => rfl

theorem any_bad_iff (f : Fld) (x : Nat) :
    (f.bad.any fun b => b.1 ≤ x && x ≤ b.2) = true ↔ ∃ b ∈ f.bad, b.1 ≤ x ∧ x ≤ b.2 := by
  simp only [List.any_eq_true, Bool.and_eq_true, decide_eq_true_eq]

theorem writeField_notes (f : Fld) (v : W64) (r : W64 × Bool) :
    (writeField f v r).2 = true ↔ r.2 = true ∨ f.Reserved v := by
  unfold writeField Fld.Reserved
  rw [← any_bad_iff]
  cases f.acc with
  | rw => dsimp only; split <;> simp [*]
  | wp => dsimp only; split <;> simp [*]
  | w1c => simp
  | w1s => simp
  | ro => simp
  | wo => simp
  | rc => simp

/-! ### Every field of a register -/

/-- The fold of `applyFields` from any word on. -/
def writeFields (fs : List Fld) (v : W64) (r : W64 × Bool) : W64 × Bool := fs.foldl (fun r f => writeField f v r) r

theorem applyFields_eq (fs : List Fld) (old v : W64) : applyFields fs old v = writeFields fs v (old, false) := rfl

theorem writeFields_other {fs : List Fld} (v : W64) (r : W64 × Bool) {i : Nat} (hi : i < 64)
    (h : ∀ f ∈ fs, ¬(f.lo ≤ i ∧ i ≤ f.hi)) : (writeFields fs v r).1.getLsbD i = r.1.getLsbD i := by
  induction fs generalizing r with
  | nil => rfl
  | cons f fs ih =>
    exact (ih _ fun g hg => h g (by simp [hg])).trans (writeField_other f v r hi (h f (by simp)))

theorem writeFields_notes (fs : List Fld) (v : W64) (r : W64 × Bool) :
    (writeFields fs v r).2 = true ↔ r.2 = true ∨ ∃ f ∈ fs, f.Reserved v := by
  induction fs generalizing r with
  | nil => simp [writeFields]
  | cons f fs ih =>
    show (writeFields fs v (writeField f v r)).2 = true ↔ _
    rw [ih, writeField_notes, or_assoc, List.exists_mem_cons_iff]

/-- Each field takes what its access type gives it: the others share no bit with it. -/
theorem fldOf_writeFields {fs : List Fld} (h : FieldsApart fs) (v : W64) (r : W64 × Bool) {f : Fld} (hf : f ∈ fs) :
    fldOf f.ref (writeFields fs v r).1 = fieldAfter f (fldOf f.ref r.1) (fldOf f.ref v) := by
  induction fs generalizing r with
  | nil => cases hf
  | cons g fs ih =>
    obtain ⟨h64, hp⟩ := h
    obtain ⟨hg, hp⟩ := List.pairwise_cons.mp hp
    show fldOf f.ref (writeFields fs v (writeField g v r)).1 = _
    rcases List.mem_cons.mp hf with rfl | hf'
    · rw [← fldOf_writeField (h64 f (by simp)) v r]
      refine fldOf_congr fun i hi h1 h2 => writeFields_other v _ hi fun k hk hb => ?_
      rcases hg k hk with h | h <;> (dsimp at h1 h2; omega)
    · rw [ih ⟨fun k hk => h64 k (by simp [hk]), hp⟩ _ hf']
      refine congrArg (fieldAfter f · _) (fldOf_congr fun i hi h1 h2 => writeField_other g v r hi fun hb => ?_)
      rcases hg f hf' with h | h <;> (dsimp at h1 h2; omega)

/-- Settles O5: the fields of every register are apart, so what is written to one is not seen in another. -/
theorem fieldsByAccessType : Obligations.FieldsByAccessType := by
  intro d hd old new
  have h := regTab_fieldsApart d hd
  rw [applyFields_eq]
  refine ⟨fun f hf => fldOf_writeFields h new _ hf, fun i hi hn => writeFields_other new _ hi hn, ?_⟩
  rw [writeFields_notes]
  exact or_iff_right Bool.false_ne_true

end Sys2Proof.Machine
end

section
/-! PROOFS. Accesses over BAR0 (R9 to R14, R18, R53): what an access hits, and what reads and writes of any register leave. -/

namespace Sys2Proof.Machine

open Sys2Proof.Safety

/-! ### Reserved encodings -/

/-- A register without an RW or WP field that has reserved encodings notes none. -/
theorem written_notes_none {o : Nat} {d : RegD} (hd : regDesc o = some d)
    (h : ∀ f ∈ d.flds, (f.acc = .rw ∨ f.acc = .wp) → f.bad = []) (v : W64) (s : State) : (written o v s).2 = false := by
  unfold written
  rw [hd]
  dsimp only
  rw [applyFields_eq, ← Bool.not_eq_true, writeFields_notes]
  rintro (h' | ⟨f, hf, ha, b, hb, -⟩)
  · cases h'
  · rw [h f hf ha] at hb; cases hb

/-- What a write leaves depends on the register's value alone. -/
theorem written_congr {o : Nat} {s t : State} (h : rd o t = rd o s) (v : W64) : written o v t = written o v s := by
  unfold written; rw [h]

theorem store_of_not_noted {o : Nat} {v : W64} {s : State} (h : (written o v s).2 = false) :
    store o v s = wr o (written o v s).1 s := by
  unfold store rsvEnc; simp [h]

theorem store_of_noted {o : Nat} {v : W64} {s : State} (h : (written o v s).2 = true) :
    store o v s = topErr TOP_ERR_RSV_ENC s.acc (wr o (written o v s).1 s) := by
  unfold store rsvEnc; simp [h]

/-! ### TOP_ERR -/

theorem bit_raiseLatch {f : FRef} (h : f.hi < 64) (hw : f.lo ≤ f.hi) (l : List (FRef × Nat)) (s : State) :
    bit f (raiseLatch f l s) = true := by
  unfold raiseLatch
  split <;> exact bit_setErr h hw _

theorem rd_topErr_other {o : Nat} {f : FRef} (hf : f.off = TOP_ERR) (h : o ≠ TOP_ERR) (h' : o ≠ TOP_ERR_ADDR) (x : Nat) (s : State) :
    rd o (topErr f x s) = rd o s :=
  (regEffect_topErr f x hf s).2 o (by simp [h, h'])

/-- The offset is latched when no error was pending (R18). -/
theorem topErr_offset {f : FRef} (hf : f.off = TOP_ERR) (x : Nat) (s : State) :
    (rd TOP_ERR s = 0 → fld TOP_ERR_ADDR_OFFSET (topErr f x s) = x % 2 ^ 26) ∧
      (rd TOP_ERR s ≠ 0 → rd TOP_ERR_ADDR (topErr f x s) = rd TOP_ERR_ADDR s) := by
  have hne : TOP_ERR_ADDR ≠ f.off := by rw [hf]; decide
  unfold topErr raiseLatch
  rw [hf]
  refine ⟨fun h => ?_, fun h => ?_⟩
  · rw [if_pos h]
    exact (fld_setFld_other _ _ _ _ hne).trans (fld_setFld_same TOP_ERR_ADDR_OFFSET x s (by decide))
  · rw [if_neg h]
    exact rd_setFld_other f 1 s hne

/-! ### What an access hits -/

theorem hit_badSize {off o size : Nat} {wide : Bool} {s : State} (h : Answers off s) (hr : regHold off = some (o, wide))
    (hfull : ¬(off = o ∧ size = if wide then 8 else 4)) (hword : ¬(wide = true ∧ size = 4 ∧ (off = o ∨ off = o + 4))) :
    hit off size s = .badSize := by
  rw [hit_of_answers (answers_iff h) hr, if_neg (by simpa using hfull), if_neg (by simp; tauto), if_neg (by simp; tauto)]

theorem hit_unmapped {off size : Nat} {s : State} (hb : blocksUp s = true)
    (h : fusedOff off s = true ∨ ((inDies off && diesDown s) = false ∧ regHold off = none)) : hit off size s = .unmapped := by
  unfold hit
  rw [hb]
  rcases h with h | ⟨h, hr⟩
  · simp [h]
  · rw [h, hr]; cases fusedOff off s <;> simp

theorem hit_full {o : Nat} {wide : Bool} {s : State} (h : Answers o s) (hr : regHold o = some (o, wide)) :
    hit o (if wide then 8 else 4) s = .reg o wide .full := by
  rw [hit_of_answers (answers_iff h) hr]; simp

theorem hit_low {o : Nat} {s : State} (h : Answers o s) (hr : regHold o = some (o, true)) : hit o 4 s = .reg o true .low := by
  rw [hit_of_answers (answers_iff h) hr]; simp

theorem hit_high {o : Nat} {s : State} (h : Answers (o + 4) s) (hr : regHold (o + 4) = some (o, true)) :
    hit (o + 4) 4 s = .reg o true .high := by
  rw [hit_of_answers (answers_iff h) hr]; simp

theorem driverWrite_of_hit {off size : Nat} {s : State} (h : onBus s = true) (v : W64) :
    driverWrite off size v s = match hit off size s with
      | .silent => s
      | .unmapped => topErr TOP_ERR_UNMAPPED off s
      | .badSize => topErr TOP_ERR_SIZE off s
      | .reg o wide .full => regWrite true o (if wide then v else v &&& 0xFFFFFFFF) { s with acc := off }
      | .reg o _ .low => { s with heldLow := ins s.heldLow o (v.setWidth 32) }
      | .reg o _ .high =>
        regWrite true o ((v &&& 0xFFFFFFFF) <<< 32 ||| joinLow o s) { s with acc := off, heldLow := del s.heldLow o } := by
  unfold driverWrite busWrite; rw [h]; rfl

theorem busRead_of_hit {off size : Nat} {s : State} (h : onBus s = true) :
    busRead off size s = match hit off size s with
      | .silent => returned 0 s
      | .unmapped => returned 0 (topErr TOP_ERR_UNMAPPED off s)
      | .badSize => returned 0 (topErr TOP_ERR_SIZE off s)
      | .reg o _ .full => readFull o s
      | .reg o _ .low => readLow o s
      | .reg o _ .high => readHigh o s := by
  unfold busRead; rw [h]; rfl

/-- The state in which a write takes effect: the offset of the access is recorded. -/
def accessed (o : Nat) (s : State) : State := { s with acc := o }

@[simp] theorem rd_accessed (p o : Nat) (s : State) : rd p (accessed o s) = rd p s := rfl

@[simp] theorem fld_accessed (f : FRef) (o : Nat) (s : State) : fld f (accessed o s) = fld f s := rfl

@[simp] theorem bit_accessed (f : FRef) (o : Nat) (s : State) : bit f (accessed o s) = bit f s := rfl

theorem regEffect_accessed (l : List Nat) (o : Nat) : RegEffect l (accessed o) := regEffect_acc l o

/-- A write of a whole register that answers has the register's own effect. -/
theorem driverWrite_full {o : Nat} {wide : Bool} {s : State} (h : Answers o s) (hr : regHold o = some (o, wide)) (v : W64) :
    driverWrite o (if wide then 8 else 4) v s = regWrite true o (if wide then v else v &&& 0xFFFFFFFF) (accessed o s) := by
  rw [driverWrite_of_hit h.1, hit_full h hr]; rfl

theorem driverWrite_word {o : Nat} {s : State} (h : Answers o s) (hr : regHold o = some (o, false)) (v : W32) :
    driverWrite o 4 (v.setWidth 64) s = regWrite true o (v.setWidth 64) (accessed o s) :=
  (driverWrite_full h hr _).trans (congrArg (regWrite true o · _) (low32_mask v))

/-- A command gives what its effect gives. -/
theorem gives_run {c : Instr} {f : State → State} {s : State} {P : State → Prop} (hc : exec c s = run f s) (hp : P (after f s)) :
    Gives c s P := ⟨after f s, hc.trans (run_eq f s), hp⟩

/-- The same with an effect that acts alike on the state. -/
theorem gives_run_of {c : Instr} {f g : State → State} {s : State} {P : State → Prop} (hc : exec c s = run f s) (he : f s = g s)
    (hp : P (after g s)) : Gives c s P := gives_run hc (by rw [after_congr he]; exact hp)

/-- The same with the state that the effect leads to. -/
theorem gives_run_to {c : Instr} {f : State → State} {s u : State} {P : State → Prop} (hc : exec c s = run f s) (he : f s = u)
    (hp : P (after (fun _ => u) s)) : Gives c s P := gives_run_of (g := fun _ => u) hc he hp

@[simp] theorem after_rdata (f : State → State) (s : State) : (after f s).rdata = (f s).rdata := by
  obtain ⟨m, l, h⟩ := irqSettle_cases s (f s)
  unfold after tidy; rw [h]

@[simp] theorem after_latches (f : State → State) (s : State) : (after f s).latches = (f s).latches := by
  obtain ⟨m, l, h⟩ := irqSettle_cases s (f s)
  unfold after tidy; rw [h]

@[simp] theorem after_heldLow (f : State → State) (s : State) : (after f s).heldLow = (f s).heldLow := by
  obtain ⟨m, l, h⟩ := irqSettle_cases s (f s)
  unfold after tidy; rw [h]

/-! ### Accesses that no register takes -/

/-- An access that is answered by a bit of TOP_ERR. -/
def refusedAccess (f : FRef) (wr : Bool) (off : Nat) (s : State) : State :=
  if wr then topErr f off s else returned 0 (topErr f off s)

theorem regEffect_returned (l : List Nat) (v : W64) : RegEffect l (returned v) :=
  fun s => ⟨⟨s.regs, s.acc, v, rfl⟩, fun _ _ => rfl⟩

theorem regs_refusedAccess (f : FRef) (wr : Bool) (off : Nat) (s : State) :
    (refusedAccess f wr off s).regs = (topErr f off s).regs := by
  unfold refusedAccess; cases wr <;> rfl

/-- What such an access leaves (R18). -/
theorem refusedAccess_spec {f : FRef} (hf : f.off = TOP_ERR) (h : f.hi < 64) (hw : f.lo ≤ f.hi) (wr : Bool) (off : BitVec 26)
    (s : State) : let t := after (refusedAccess f wr off.toNat) s
    bit f t = true ∧ RegsOnly [TOP_ERR, TOP_ERR_ADDR] s t ∧ (wr = false → t.rdata = 0) ∧
      (rd TOP_ERR s = 0 → fld TOP_ERR_ADDR_OFFSET t = off.toNat) ∧
      (rd TOP_ERR s ≠ 0 → rd TOP_ERR_ADDR t = rd TOP_ERR_ADDR s) := by
  have hregs := regs_refusedAccess f wr off.toNat s
  obtain ⟨h0, h1⟩ := topErr_offset hf off.toNat s
  have heff : RegEffect [TOP_ERR, TOP_ERR_ADDR] (refusedAccess f wr off.toNat) := by
    unfold refusedAccess
    cases wr
    · exact (regEffect_topErr f _ hf).comp (regEffect_returned _ 0)
    · exact regEffect_topErr f _ hf
  refine ⟨?_, heff.after s, fun hwr => ?_, fun hz => ?_, fun hz => ?_⟩
  · rw [bit_after, bit_congr hregs]; exact bit_raiseLatch h hw _ s
  · rw [after_rdata, hwr]; rfl
  · rw [fld_after, fld_congr hregs, h0 hz, Nat.mod_eq_of_lt off.isLt]
  · rw [rd_after, rd_congr hregs, h1 hz]

/-- A read or a write by offset and size. -/
def accessBy (wr : Bool) (off size : Nat) (v : W64) (s : State) : State :=
  if wr then driverWrite off size v s else busRead off size s

theorem accessBy_badSize {off size : Nat} {s : State} (hbus : onBus s = true) (h : hit off size s = .badSize) (wr : Bool) (v : W64) :
    accessBy wr off size v s = refusedAccess TOP_ERR_SIZE wr off s := by
  unfold accessBy; rw [driverWrite_of_hit hbus, busRead_of_hit hbus, h]; rfl

theorem accessBy_unmapped {off size : Nat} {s : State} (hbus : onBus s = true) (h : hit off size s = .unmapped) (wr : Bool)
    (v : W64) : accessBy wr off size v s = refusedAccess TOP_ERR_UNMAPPED wr off s := by
  unfold accessBy; rw [driverWrite_of_hit hbus, busRead_of_hit hbus, h]; rfl

theorem exec_illegalSizeAccess (wr : Bool) (off : BitVec 26) (size : Nat) (v : W64) (s : State) :
    exec (.illegalSizeAccess wr off size v) s = run (accessBy wr off.toNat size v) s := rfl

theorem exec_unmappedAccess (wr : Bool) (off : BitVec 26) (size : Nat) (v : W64) (s : State) :
    exec (.unmappedAccess wr off size v) s = run (accessBy wr off.toNat size v) s := rfl

theorem illegalSizes_holds : illegalSizes := fun wr off size v s _ _ ha hr hfull hword =>
  gives_run_of (exec_illegalSizeAccess wr off size v s) (accessBy_badSize ha.1 (hit_badSize ha hr hfull hword) wr v)
    (refusedAccess_spec rfl (by decide) (by decide) wr off s)

theorem unmappedAccesses_holds : unmappedAccesses := fun wr off size v s hbus hup h =>
  gives_run_of (exec_unmappedAccess wr off size v s) (accessBy_unmapped hbus (hit_unmapped hup h) wr v)
    (refusedAccess_spec rfl (by decide) (by decide) wr off s)

/-- Settles O7: such accesses hit `badSize` or `unmapped`, which only TOP_ERR tells of. -/
theorem illegalAccesses : Obligations.IllegalAccesses := ⟨illegalSizes_holds, unmappedAccesses_holds⟩

/-! ### Plain registers -/

theorem regHold_plain32 : ∀ o ∈ plain32, regHold o = some (o, false) := by decide +kernel

theorem regWrite_plain32 {o : Nat} (ho : o ∈ plain32) (v : W64) (s : State) : regWrite true o v s = store o v s := by
  simp only [plain32, List.mem_cons, List.not_mem_nil, or_false] at ho
  rcases ho with h | h | h | h | h | h | h | h | h | h | h | h | h | h | h | h | h | h | h | h | h | h | h | h | h | h | h | h |
    h | h | h <;> (subst h; exact rfl)

theorem plain32_off_lt : ∀ o ∈ plain32, o < 2 ^ 26 ∧ o ≠ TOP_ERR_ADDR := by decide +kernel

/-- TOP_ERR has W1C fields only. -/
theorem written_TOP_ERR (v : W64) (s : State) : (written TOP_ERR v s).2 = false :=
  written_notes_none (d := (regDesc TOP_ERR).get (by decide +kernel)) (by simp) (by decide +kernel) v s

/-- A write stored, and what TOP_ERR tells of it. -/
theorem store_spec {o : Nat} (ho : o ≠ TOP_ERR_ADDR) (v : W64) (s : State) (htop : o = TOP_ERR → (written o v s).2 = false) :
    let t := store o v s
    let w := written o v s
    rd o t = w.1 ∧ (w.2 = false → RegsOnly [o] s t) ∧
      (w.2 = true → bit TOP_ERR_RSV_ENC t = true ∧ RegsOnly [o, TOP_ERR, TOP_ERR_ADDR] s t) := by
  refine ⟨?_, fun h => ?_, fun h => ⟨?_, (regEffect_store o v).regsOnly s⟩⟩
  · cases h : (written o v s).2
    · rw [store_of_not_noted h]; exact rd_wr_same _ _ _
    · rw [store_of_noted h, rd_topErr_other rfl (fun e => by rw [htop e] at h; cases h) ho]
      exact rd_wr_same _ _ _
  · rw [store_of_not_noted h]; exact (regEffect_wr _ _).regsOnly s
  · rw [store_of_noted h]; exact bit_raiseLatch (by decide) (by decide) _ _

/-- Settles O6: each of these registers is written by `store` alone. -/
theorem plainRegisterWrite : Obligations.PlainRegisterWrite := by
  intro o ho v s ha
  obtain ⟨hlt, haddr⟩ := plain32_off_lt o ho
  have hoff : (BitVec.ofNat 26 o).toNat = o := by rw [BitVec.toNat_ofNat, Nat.mod_eq_of_lt hlt]
  have he : driverWrite (BitVec.ofNat 26 o).toNat 4 v s = store o (v &&& 0xFFFFFFFF) { s with acc := o } := by
    rw [hoff, driverWrite_of_hit ha.1, hit_full32 (answers_iff ha) (regHold_plain32 o ho)]
    exact regWrite_plain32 ho _ _
  obtain ⟨h1, h2, h3⟩ := store_spec haddr (v &&& 0xFFFFFFFF) { s with acc := o } fun e => e ▸ written_TOP_ERR _ _
  refine gives_run rfl ⟨?_, fun h => ?_, fun h => ?_⟩
  · rw [rd_after, he]; exact h1
  · exact regsOnly_after (he ▸ h2 h)
  · obtain ⟨hb, hr⟩ := h3 h
    exact ⟨by rw [bit_after, he]; exact hb, regsOnly_after (he ▸ hr)⟩

end Sys2Proof.Machine
end

section
/-! PROOFS. Interrupt messages (R472, R474): when a command sends vector 0, and when it sends none. -/

namespace Sys2Proof.Machine

open Sys2Proof.Safety

theorem bitsOf_lt (l : List Bool) : bitsOf l < 2 ^ l.length := by
  induction l with
  | nil => decide
  | cons b l ih =>
    have hb : b.toNat ≤ 1 := Bool.toNat_le b
    simp only [bitsOf, List.length_cons, Nat.pow_succ]
    omega

theorem reefMap_lt (s : State) : reefMap s < 2 ^ 8 := by
  unfold reefMap
  split
  · decide
  · exact (bitsOf_lt _).trans_le (by simp)

theorem blockErr_lt (s : State) : blockErr s < 2 ^ 17 := (bitsOf_lt _).trans_le (by simp [blockErrs])

theorem irqStatus_lt (s : State) : irqStatus s < 2 ^ 32 := by
  have h1 := reefMap_lt s
  have h2 := blockErr_lt s
  unfold irqStatus
  omega

theorem irqEnabled_lt (s : State) : irqEnabled s < 2 ^ 32 :=
  (Nat.and_le_left.trans_lt (irqStatus_lt s) : irqStatus s &&& (rd TOP_IRQ_MASK s).toNat < 2 ^ 32)

/-- No bit of a word is also a bit of its complement. -/
theorem and_xor_ones {b : Nat} (h : b < 2 ^ 32) : b &&& (b ^^^ 0xFFFFFFFF) = 0 := by
  apply Nat.eq_of_testBit_eq
  intro i
  rw [Nat.testBit_and, Nat.testBit_xor, Nat.zero_testBit, show (0xFFFFFFFF : Nat) = 2 ^ 32 - 1 from rfl, Nat.testBit_two_pow_sub_one]
  by_cases hi : i < 32
  · simp [hi]
  · rw [Nat.testBit_lt_two_pow (h.trans_le (Nat.pow_le_pow_right (by decide) (by omega)))]
    rfl

/-- Where no enabled bit becomes 1, no message is sent. -/
theorem irqSettle_quiet {b s : State} (h : irqEnabled s = irqEnabled b) : irqSettle b s = s := by
  unfold irqSettle
  exact if_neg (by rw [h, and_xor_ones (irqEnabled_lt b)]; decide)

theorem irqEnabled_congr {s t : State} (hr : t.regs = s.regs) (hf : t.fuse = s.fuse) (hb : t.boot = s.boot) :
    irqEnabled t = irqEnabled s := by
  have hd : diesDown t = diesDown s := by unfold diesDown stage; rw [fld_congr hr, hb]
  have hrd : ∀ o, rd o t = rd o s := rd_congr hr
  have hm : reefMap t = reefMap s := by unfold reefMap atollHere isS; simp only [hd, hrd, hf]
  have he : blockErr t = blockErr s := by unfold blockErr anySpnErr; simp only [hd, hrd, hr]
  unfold irqEnabled irqStatus
  rw [hm, he, hrd, hrd]

/-- A command that leaves the registers, the fuses and the bring-up alone sends no interrupt message. -/
theorem after_messages {f : State → State} {s : State} (hr : (f s).regs = s.regs) (hf : (f s).fuse = s.fuse)
    (hb : (f s).boot = s.boot) : (after f s).sent = (f s).sent ∧ (after f s).msix = (f s).msix := by
  have h := irqSettle_quiet (irqEnabled_congr hr hf hb)
  unfold after tidy
  rw [h]
  exact ⟨rfl, rfl⟩

/-- Settles O8: without a target the access changes nothing but the data returned. -/
theorem virtualFunctionInvalid : Obligations.VirtualFunctionInvalid := by
  intro fn wr off size v s hbus hnone
  have he : vfAccess fn.toNat wr off.toNat size v s = if wr then s else returned 0 s := by
    unfold vfAccess; rw [hbus, hnone]; rfl
  have heff : RegEffect [] fun s => if wr then s else returned 0 s := by
    cases wr
    · exact regEffect_returned [] 0
    · exact regEffect_id []
  have hsame : ∀ t : State, (if wr then t else returned 0 t).regs = t.regs ∧ (if wr then t else returned 0 t).fuse = t.fuse ∧
      (if wr then t else returned 0 t).boot = t.boot ∧ (if wr then t else returned 0 t).sent = t.sent ∧
      (if wr then t else returned 0 t).msix = t.msix := fun t => by cases wr <;> exact ⟨rfl, rfl, rfl, rfl, rfl⟩
  obtain ⟨hr, hf, hb, hs, hm⟩ := hsame s
  obtain ⟨h1, h2⟩ := after_messages (f := fun s => if wr then s else returned 0 s) hr hf hb
  refine gives_run_of rfl he ⟨heff.after s, h1.trans hs, h2.trans hm, fun hw => ?_⟩
  rw [after_rdata, hw]
  rfl

/-! ### TOP_IRQ_MASK -/

theorem any_del {α : Type} {m : List (Nat × α)} {k : Nat} {p : Nat × α → Bool} (h : ∀ v, p (k, v) = false) :
    (del m k).any p = m.any p := by
  induction m with
  | nil => rfl
  | cons e m ih =>
    obtain ⟨j, v⟩ := e
    by_cases hj : j = k
    · subst hj; simp [del, ih, h]
    · simp [del, hj, ih]

theorem any_ins {α : Type} {m : List (Nat × α)} {k : Nat} {v : α} {p : Nat × α → Bool} (h : ∀ v, p (k, v) = false) :
    (ins m k v).any p = m.any p := by
  induction m with
  | nil => simp [ins, h]
  | cons e m ih =>
    obtain ⟨j, w⟩ := e
    by_cases h1 : k < j
    · simp [ins, h1, h]
    · by_cases h2 : k = j
      · subst h2; simp [ins, h]
      · simp [ins, h1, h2, ih]

/-- A write at a key that the test does not count. -/
theorem any_put {α : Type} [DecidableEq α] {m : List (Nat × α)} {d : α} {k : Nat} {v : α} {p : Nat × α → Bool}
    (h : ∀ v, p (k, v) = false) : (put m d k v).any p = m.any p := by
  unfold put
  split
  · exact any_del h
  · exact any_ins h

theorem irqStatus_wr_TOP_IRQ_MASK (v : W64) (s : State) : irqStatus (wr TOP_IRQ_MASK v s) = irqStatus s := by
  have hrd : ∀ o, o ≠ TOP_IRQ_MASK → rd o (wr TOP_IRQ_MASK v s) = rd o s := fun o h => rd_wr_other h v s
  have hd : diesDown (wr TOP_IRQ_MASK v s) = diesDown s := by
    unfold diesDown stage fld; rw [hrd _ (by decide)]; rfl
  have hm : reefMap (wr TOP_IRQ_MASK v s) = reefMap s := by
    unfold reefMap
    rw [hd]
    congr 2
    refine List.map_congr_left fun a _ => ?_
    rw [hrd _ (by unfold REEF_ERR TOP_IRQ_MASK; omega)]
    rfl
  have he : blockErr (wr TOP_IRQ_MASK v s) = blockErr s := by
    have hmap : blockErrs.map (fun o => rd o (wr TOP_IRQ_MASK v s) != 0) = blockErrs.map fun o => rd o s != 0 :=
      List.map_congr_left fun o ho => by rw [hrd o fun e => by rw [e] at ho; revert ho; decide]
    have hspn : anySpnErr (wr TOP_IRQ_MASK v s) = anySpnErr s := any_put fun _ => rfl
    unfold blockErr
    rw [hmap, hspn, hd]
  unfold irqStatus
  rw [hm, he, hrd _ (by decide)]

theorem regHold_TOP_IRQ_MASK : regHold TOP_IRQ_MASK = some (TOP_IRQ_MASK, false) := by decide +kernel

theorem written_TOP_IRQ_MASK (v : W64) (s : State) : (written TOP_IRQ_MASK v s).2 = false :=
  written_notes_none (d := (regDesc TOP_IRQ_MASK).get (by decide +kernel)) (by simp) (by decide +kernel) v s

theorem regWrite_TOP_IRQ_MASK (v : W64) (s : State) :
    regWrite true TOP_IRQ_MASK v s = wr TOP_IRQ_MASK (written TOP_IRQ_MASK v s).1 s := by
  have h : regWrite true TOP_IRQ_MASK v s = store TOP_IRQ_MASK v s := rfl
  rw [h, store_of_not_noted (written_TOP_IRQ_MASK v s)]

/-! ### What `irqSettle` sends -/

theorem irqSettle_sends_vector {b s : State} (h : irqEnabled s &&& (irqEnabled b ^^^ 0xFFFFFFFF) ≠ 0) :
    irqSettle b s = sendMsi 0 0 s := by
  unfold irqSettle
  exact if_pos (bne_iff_ne.mpr h)

theorem sendMsi_open {fn vec : Nat} {s : State} (h : (lookup s.msix {} (fn * 2 + vec)).masked = false) :
    sendMsi fn vec s = send (.msi fn vec) s := by
  unfold sendMsi
  exact if_neg (by rw [h]; decide)

theorem sendMsi_masked {fn vec : Nat} {s : State} (h : (lookup s.msix {} (fn * 2 + vec)).masked = true) :
    (sendMsi fn vec s).sent = s.sent ∧ (lookup (sendMsi fn vec s).msix {} (fn * 2 + vec)).pend = true := by
  unfold sendMsi
  dsimp only
  rw [if_pos h]
  exact ⟨rfl, by rw [lookup_put_same]⟩

theorem irqSettle_of_none {b s : State} (h : irqEnabled s &&& (irqEnabled b ^^^ 0xFFFFFFFF) = 0) : irqSettle b s = s := by
  unfold irqSettle
  exact if_neg (by rw [h]; decide)

/-- The messages of a command are those of its effect, and what `irqSettle` makes of them. -/
theorem after_sent_msix (f : State → State) (s : State) :
    (after f s).sent = (irqSettle s (f s)).sent ∧ (after f s).msix = (irqSettle s (f s)).msix := by
  have h : ∀ (x : State) (p : List Instr), ({ tidy x with pending := p } : State).sent = x.sent ∧
      ({ tidy x with pending := p } : State).msix = x.msix := fun _ _ => ⟨rfl, rfl⟩
  exact h _ _

/-- Settles O11: the mask is the only register that changes, so the status bits are those from before. -/
theorem interruptMask : Obligations.InterruptMask := by
  intro v s ha
  refine gives_write32 ha regHold_TOP_IRQ_MASK rfl ?_
  rw [after_congr (g := fun s => wr TOP_IRQ_MASK (written TOP_IRQ_MASK (v.setWidth 64) s).1 { s with acc := TOP_IRQ_MASK })
    (regWrite_TOP_IRQ_MASK _ _)]
  generalize hg : (fun s : State => wr TOP_IRQ_MASK (written TOP_IRQ_MASK (v.setWidth 64) s).1 { s with acc := TOP_IRQ_MASK }) = g
  have hgs : g s = wr TOP_IRQ_MASK (written TOP_IRQ_MASK (v.setWidth 64) s).1 { s with acc := TOP_IRQ_MASK } := by rw [← hg]
  have hmask : rd TOP_IRQ_MASK (g s) = (written TOP_IRQ_MASK (v.setWidth 64) s).1 := by rw [hgs]; exact rd_wr_same _ _ _
  have hstat : irqStatus (g s) = irqStatus s := by rw [hgs]; exact irqStatus_wr_TOP_IRQ_MASK _ _
  have honly : RegsOnly [TOP_IRQ_MASK] s (g s) := by
    rw [hgs]; exact ((regEffect_acc _ _).comp (regEffect_wr _ _)).regsOnly s
  have hmsix : (g s).msix = s.msix := by rw [hgs]; rfl
  have hsent : (g s).sent = s.sent := by rw [hgs]; rfl
  obtain ⟨h1, h2⟩ := after_sent_msix g s
  have hnew : irqEnabled (g s) = irqStatus s &&& (rd TOP_IRQ_MASK (g s)).toNat := by unfold irqEnabled; rw [hstat]
  dsimp only
  rw [rd_after, ← hnew, h1, h2]
  refine ⟨hmask, regsOnly_after honly, fun hz => ?_, fun hn hm => ?_, fun hn hm => ?_⟩
  · rw [irqSettle_of_none hz]
    exact ⟨hsent, hmsix⟩
  · rw [irqSettle_sends_vector hn, sendMsi_open (by rw [hmsix]; exact hm)]
    exact ⟨congrArg (fun l => l ++ [Sent.msi 0 0]) hsent, hmsix⟩
  · rw [irqSettle_sends_vector hn]
    obtain ⟨h3, h4⟩ := sendMsi_masked (fn := 0) (vec := 0) (s := g s) (by rw [hmsix]; exact hm)
    exact ⟨h3.trans hsent, h4⟩

end Sys2Proof.Machine
end

section
/-! PROOFS. 64-bit registers in halves, and reads that clear (R10, R53). -/

namespace Sys2Proof.Machine

open Sys2Proof.Safety
set_option Elab.async false

/-! ### The value of a register -/

/-- At most a free value has been drawn. -/
def FreeOnly (s t : State) : Prop := ∃ n, t = { s with free := n }

theorem freeOnly_refl (s : State) : FreeOnly s s := ⟨s.free, rfl⟩

theorem freeOnly_freeVal (s : State) : FreeOnly s (freeVal s).2 := ⟨_, rfl⟩

theorem freeOnly_posIndex (n : Nat) (s : State) : FreeOnly s (posIndex n s).2 := by
  unfold posIndex
  dsimp only
  split
  · exact freeOnly_refl s
  · split
    · exact freeOnly_refl s
    · exact freeOnly_freeVal s

theorem freeOnly_posVal (n : Nat) (second : Bool) (s : State) : FreeOnly s (posVal n second s).2 := by
  have h := freeOnly_posIndex n s
  unfold posVal
  dsimp only
  split <;> exact h

theorem freeOnly_regVal (o : Nat) (s : State) : FreeOnly s (regVal o s).2 := by
  unfold regVal
  split
  · unfold phaseRead
    split
    · exact freeOnly_refl s
    · exact freeOnly_freeVal s
  split
  · exact freeOnly_posVal _ _ s
  split
  · unfold bufKib
    dsimp only
    split
    · exact freeOnly_refl s
    · exact freeOnly_freeVal s
  · exact freeOnly_refl s

theorem FreeOnly.rd {s t : State} (h : FreeOnly s t) (o : Nat) : rd o t = rd o s := by
  obtain ⟨n, rfl⟩ := h; rfl

theorem FreeOnly.latches {s t : State} (h : FreeOnly s t) : t.latches = s.latches := by
  obtain ⟨n, rfl⟩ := h; rfl

theorem readClears_BT_PHASE : readClears BT_PHASE = false := by decide +kernel

theorem readClears_BT_TALLY : readClears BT_TALLY = false := by decide +kernel

theorem readClears_FRY_STATUS : readClears FRY_STATUS = false := by decide +kernel

theorem readClears_FRY_CH_POS : ∀ n < 64, readClears (FRY_CH_POS n) = false ∧ readClears (FRY_CH_POS n + 8) = false := by
  decide +kernel

/-- No counter that clears draws a free value. -/
theorem regVal_of_readClears {o : Nat} (h : readClears o = true) (s : State) : regVal o s = (liveVal o s, s) := by
  have hphase : o ≠ BT_PHASE := fun e => by rw [e, readClears_BT_PHASE] at h; cases h
  have hfry : o ≠ FRY_STATUS := fun e => by rw [e, readClears_FRY_STATUS] at h; cases h
  have hpos : ¬(FRY_CH_POS 0 ≤ o ∧ o < FRY_CH_POS 64 ∧ ((o - FRY_CH_POS 0) % 0x80 = 0 ∨ (o - FRY_CH_POS 0) % 0x80 = 8)) := by
    rintro ⟨h0, h1, h2⟩
    unfold FRY_CH_POS at h0 h1 h2
    obtain ⟨h3, h4⟩ := readClears_FRY_CH_POS ((o - 0x781010) / 0x80) (by omega)
    unfold FRY_CH_POS at h3 h4
    rcases h2 with h2 | h2
    · rw [show 0x781010 + 0x80 * ((o - 0x781010) / 0x80) = o by omega, h] at h3; cases h3
    · rw [show 0x781010 + 0x80 * ((o - 0x781010) / 0x80) + 8 = o by omega, h] at h4; cases h4
  unfold regVal
  rw [if_neg hphase, if_neg, if_neg hfry]
  simp only [Bool.and_eq_true, Bool.or_eq_true, decide_eq_true_eq]
  exact fun ⟨⟨⟨a, b⟩, c⟩, _⟩ => hpos ⟨a, b, c⟩

/-! ### Maps of latches -/

theorem find?_ins_same {α : Type} (m : List (Nat × α)) (k : Nat) (v : α) : find? (ins m k v) k = some v := by
  induction m with
  | nil => simp [ins, find?]
  | cons e m ih =>
    obtain ⟨j, w⟩ := e
    by_cases h1 : k < j
    · simp [ins, h1, find?]
    · by_cases h2 : k = j
      · subst h2; simp [ins, find?]
      · simp [ins, h1, h2, find?, Ne.symm h2, ih]

theorem find?_del_same {α : Type} (m : List (Nat × α)) (k : Nat) : find? (del m k) k = none := by
  induction m with
  | nil => rfl
  | cons e m ih =>
    obtain ⟨j, v⟩ := e
    by_cases h : j = k
    · simp [del, h, ih]
    · simp [del, h, find?, ih]

/-! ### Words -/

/-- The value that a read returns and latches. -/
theorem readLow_spec {o : Nat} (s : State) (hp : o ≠ BT_TALLY) :
    let t := readLow o s
    t.rdata = (regRead o s).1 &&& 0xFFFFFFFF ∧ find? t.latches o = some (((regRead o s).1 >>> 32).setWidth 32) ∧
      t.regs = (clearOnRead o (regRead o s).2).regs := by
  have hclear : ∀ (w : W64) (t : State), (returned w (clearOnRead o t)).rdata = w ∧
      (returned w (clearOnRead o t)).latches = t.latches ∧ (returned w (clearOnRead o t)).regs = (clearOnRead o t).regs :=
    fun w t => by unfold clearOnRead; cases readClears o <;> exact ⟨rfl, rfl, rfl⟩
  have hregs : ∀ (l : List (Nat × W32)) (t : State), (clearOnRead o { t with latches := l }).regs = (clearOnRead o t).regs :=
    fun l t => by unfold clearOnRead; cases readClears o <;> rfl
  unfold readLow
  dsimp only
  rw [if_neg hp]
  obtain ⟨h1, h2, h3⟩ := hclear ((regRead o s).1 &&& 0xFFFFFFFF)
    { (regRead o s).2 with latches := ins (regRead o s).2.latches o (((regRead o s).1 >>> 32).setWidth 32) }
  exact ⟨h1, by rw [h2]; exact find?_ins_same _ _ _, h3.trans (hregs _ _)⟩

theorem readHigh_latched {o : Nat} {s : State} {h : W32} (hl : find? s.latches o = some h) :
    readHigh o s = returned (h.setWidth 64) { s with latches := del s.latches o } := by
  unfold readHigh; rw [hl]

theorem readHigh_current {o : Nat} {s : State} (hl : find? s.latches o = none) :
    readHigh o s = returned ((regRead o s).1 >>> 32) (regRead o s).2 := by
  unfold readHigh; rw [hl]

theorem toNat_ofNat_26 {o : Nat} (h : o < 2 ^ 26) : (BitVec.ofNat 26 o).toNat = o := by
  rw [BitVec.toNat_ofNat, Nat.mod_eq_of_lt h]

theorem busRead_low {o : Nat} {s : State} (ha : Answers o s) (hr : regHold o = some (o, true)) : busRead o 4 s = readLow o s := by
  rw [busRead_of_hit ha.1, hit_low ha hr]

theorem busRead_high {o : Nat} {s : State} (ha : Answers (o + 4) s) (hr : regHold (o + 4) = some (o, true)) :
    busRead (o + 4) 4 s = readHigh o s := by
  rw [busRead_of_hit ha.1, hit_high ha hr]

theorem busRead_full {o : Nat} {wide : Bool} {s : State} (ha : Answers o s) (hr : regHold o = some (o, wide)) :
    busRead o (if wide then 8 else 4) s = readFull o s := by
  rw [busRead_of_hit ha.1, hit_full ha hr]

/-- A write of a low word is held. -/
theorem driverWrite_low {o : Nat} {s : State} (ha : Answers o s) (hr : regHold o = some (o, true)) (v : W64) :
    driverWrite o 4 v s = { s with heldLow := ins s.heldLow o (v.setWidth 32) } := by
  rw [driverWrite_of_hit ha.1, hit_low ha hr]

theorem driverWrite_high {o : Nat} {s : State} (ha : Answers (o + 4) s) (hr : regHold (o + 4) = some (o, true)) (v : W64) :
    driverWrite (o + 4) 4 v s =
      regWrite true o ((v &&& 0xFFFFFFFF) <<< 32 ||| joinLow o s) { s with acc := o + 4, heldLow := del s.heldLow o } := by
  rw [driverWrite_of_hit ha.1, hit_high ha hr]

theorem regHold_plain64 : ∀ o ∈ plain64, o + 4 < 2 ^ 26 ∧ regHold (o + 4) = some (o, true) := by decide +kernel

theorem regWrite_plain64 {o : Nat} (ho : o ∈ plain64) (v : W64) (s : State) : regWrite true o v s = store o v s := by
  simp only [plain64, List.mem_cons, List.not_mem_nil, or_false] at ho
  rcases ho with h | h | h <;> (subst h; exact rfl)

theorem written_plain64 {o : Nat} (ho : o ∈ plain64) (v : W64) (s : State) : (written o v s).2 = false := by
  have h : ∀ o ∈ plain64, ∃ d, regDesc o = some d ∧ ∀ f ∈ d.flds, (f.acc = .rw ∨ f.acc = .wp) → f.bad = [] := by
    simp only [plain64, List.forall_mem_cons, List.not_mem_nil, false_implies, implies_true, and_true]
    exact ⟨⟨(regDesc BRG_FW_ADDR).get (by decide +kernel), by simp, by decide +kernel⟩,
      ⟨(regDesc SEC_CMD_ADDR).get (by decide +kernel), by simp, by decide +kernel⟩,
      ⟨(regDesc WV_LOAD_ADDR).get (by decide +kernel), by simp, by decide +kernel⟩⟩
  obtain ⟨d, hd, hf⟩ := h o ho
  exact written_notes_none hd hf v s

theorem wordHalves_holds : wordHalves := by
  refine ⟨?_, ?_, ?_, ?_, ?_⟩
  · intro o s ha hr hc hp hv
    obtain ⟨h1, h2, h3⟩ := readLow_spec s hp
    have h4 : (clearOnRead o.toNat (regRead o.toNat s).2).regs = s.regs := by
      unfold clearOnRead regRead; rw [hc, hv]; rfl
    refine gives_run_to rfl (busRead_low ha hr) ⟨?_, ?_, fun p => ?_⟩
    · rw [after_rdata]; exact h1
    · rw [after_latches]; exact h2
    · rw [rd_after]; exact rd_congr (h3.trans h4) p
  · intro o s h hlt ha hr hl
    refine gives_run_to rfl ((congrArg (busRead · 4 s) (toNat_ofNat_26 hlt)).trans ((busRead_high ha hr).trans (readHigh_latched hl))) ⟨?_, ?_, fun p => ?_⟩
    · rw [after_rdata]; rfl
    · rw [after_latches]; rfl
    · rw [rd_after]; rfl
  · intro o s hlt ha hr hl
    have hf : FreeOnly s (regRead o s).2 := freeOnly_regVal o s
    refine gives_run_to rfl ((congrArg (busRead · 4 s) (toNat_ofNat_26 hlt)).trans ((busRead_high ha hr).trans (readHigh_current hl))) ⟨?_, ?_, fun p => ?_⟩
    · rw [after_rdata]; rfl
    · rw [after_latches]; exact hf.latches
    · rw [rd_after]; exact hf.rd p
  · intro o v s ha hr
    refine gives_run_to rfl (driverWrite_low ha hr _) ⟨?_, fun p => ?_⟩
    · rw [after_heldLow]
      exact (find?_ins_same _ _ _).trans (congrArg some (by simp))
    · rw [rd_after]; rfl
  · intro o ho v s ha
    obtain ⟨hlt, hr⟩ := regHold_plain64 o ho
    have hw : (v.setWidth 64 &&& 0xFFFFFFFF : W64) = v.setWidth 64 := low32_mask v
    have he : driverWrite (BitVec.ofNat 26 (o + 4)).toNat 4 (v.setWidth 64) s =
        wr o (written o (v.setWidth 64 <<< 32 ||| joinLow o s) s).1 { s with acc := o + 4, heldLow := del s.heldLow o } := by
      rw [toNat_ofNat_26 hlt, driverWrite_high ha hr, hw, regWrite_plain64 ho, store_of_not_noted (written_plain64 ho _ _)]
      exact congrArg (fun x => wr o x.1 _) (written_congr rfl _)
    refine gives_run_to rfl he ⟨?_, ?_, ?_, ?_⟩
    · rw [rd_after]; exact rd_wr_same _ _ _
    · rw [after_heldLow]; exact find?_del_same _ _
    · exact sameMem_after fun _ => ⟨rfl, rfl⟩
    · exact sameRegs_after fun p hp => rd_wr_other (by simpa using hp) _ _

theorem counterReads_holds : counterReads := by
  intro o wide s ha hr hc
  have hne : o.toNat ≠ BT_PHASE := fun e => by rw [e, readClears_BT_PHASE] at hc; cases hc
  have htally : o.toNat ≠ BT_TALLY := fun e => by rw [e, readClears_BT_TALLY] at hc; cases hc
  have hstate : (regRead o.toNat s).2 = s := by unfold regRead; rw [regVal_of_readClears hc]
  have hclear : clearOnRead o.toNat s = wr o.toNat 0 s := by unfold clearOnRead; rw [hc]; rfl
  constructor
  · have he : busRead o.toNat (if wide then 8 else 4) s = returned (regRead o.toNat s).1 (wr o.toNat 0 s) := by
      rw [busRead_full ha hr]; unfold readFull; rw [if_neg hne]; dsimp only; rw [hstate, hclear]
    refine gives_run_to rfl he ⟨?_, ?_, regsOnly_after (((regEffect_wr _ _).comp (regEffect_returned _ _)).regsOnly s)⟩
    · rw [after_rdata]; rfl
    · rw [rd_after]; exact rd_wr_same _ _ _
  · rintro rfl
    obtain ⟨h1, h2, h3⟩ := readLow_spec s htally
    rw [hstate, hclear] at h3
    refine gives_run_to rfl (busRead_low ha hr) ⟨?_, ?_, sameRegs_after fun p hp => ?_, ?_⟩
    · rw [after_rdata]; exact h1
    · rw [rd_after, rd_congr h3]; exact rd_wr_same _ _ _
    · rw [rd_congr h3]; exact rd_wr_other (by simpa using hp) _ _
    · rw [after_latches]; exact h2

/-- Settles O9: each access hits the whole register or one of its words. -/
theorem registerReads : Obligations.RegisterReads := ⟨wordHalves_holds, counterReads_holds⟩

end Sys2Proof.Machine
end

section
/-! PROOFS. A package in service, on which the model is evaluated where a statement fails. -/

namespace Sys2Proof.Machine

open Sys2Proof.Safety

/-- The state to which a command leads, when it answers one. -/
def result (c : Instr) (s : State) : State :=
  match exec c s with
  | .next t => t
  | _ => s

theorem eq_result {c : Instr} {s t : State} (h : exec c s = .next t) : t = result c s := by unfold result; rw [h]

/-- What a command gives, its result satisfies. -/
theorem result_of_gives {c : Instr} {s : State} {P : State → Prop} (h : Gives c s P) : P (result c s) := by
  obtain ⟨t, ht, hp⟩ := h
  exact eq_result ht ▸ hp

/-- A package in service: on its main rails, firmware running, self-test passed, in READY with its tally locked. -/
def servicePackage : State :=
  { setFlds [(BRG_STATUS_STAGE, stReady), (BT_STATUS_LOCK, lkLocked), (BT_CTRL_EN, 1)] State.reset with
    boot := { on := true, fwRuns := true, tested := true, everLocked := true } }

end Sys2Proof.Machine
end

section
/-! PROOFS. SKN_CTX_RANGE of a context that exists (R226): a write that is discarded still notes a reserved encoding (R13). -/

namespace Sys2Proof.Machine

open Sys2Proof.Safety
set_option Elab.async false

/-- Context 5 exists, so its skein range is locked. -/
def lockedRange : State := setState 5 cxIdle servicePackage

/-- A range of no skein, with the reserved value 127 in DRAFTS. -/
def reservedDrafts : W64 := 0x7F000000000000

theorem lockedRange_state : Answers (SKN_CTX_RANGE 5) lockedRange ∧ ctxExists 5 lockedRange = true ∧ rd TOP_ERR lockedRange = 0 ∧
    fldOf (SKN_CTX_RANGE_BASE 5) reservedDrafts + fldOf (SKN_CTX_RANGE_COUNT 5) reservedDrafts ≤ 262144 := by
  unfold Answers; decide +kernel

theorem reservedDrafts_noted : rd TOP_ERR (result (.ctxRangeWrite 5 reservedDrafts) lockedRange) = 2 := by decide +kernel

/-- Refutes O12: a range within the skein table is to be discarded without a trace while the context exists, but DRAFTS above 64 is a
reserved encoding, and TOP_ERR.RSV_ENC tells of it. -/
theorem not_configurationWrites : ¬ Obligations.ConfigurationWrites := by
  rintro ⟨-, -, -, -, hrange, -⟩
  obtain ⟨ha, hexists, hzero, hfits⟩ := lockedRange_state
  obtain ⟨-, -, hlocked, -⟩ := result_of_gives (hrange 5 reservedDrafts lockedRange ha)
  obtain ⟨-, -, -, hregs⟩ := hlocked hexists hfits
  have h := hregs TOP_ERR List.not_mem_nil
  rw [reservedDrafts_noted, hzero] at h
  exact absurd h (by decide)

end Sys2Proof.Machine
end

section
/-! PROOFS. Writes of memory regions and of fabric windows (R132, R134, R289, R291). -/

namespace Sys2Proof.Machine

open Sys2Proof.Safety

@[simp] theorem after_digests (f : State → State) (s : State) : (after f s).digests = (f s).digests := by
  obtain ⟨m, l, h⟩ := irqSettle_cases s (f s)
  unfold after tidy; rw [h]

/-! ### What such a write reads -/

theorem regEffect_rsvEnc (b : Bool) : RegEffect [TOP_ERR, TOP_ERR_ADDR] (rsvEnc b) := fun s => by
  unfold rsvEnc
  cases b
  · exact regEffect_id _ s
  · exact regEffect_topErr TOP_ERR_RSV_ENC s.acc rfl s

theorem region_congr {s t : State} (h : ∀ o, 0x101000 ≤ o → o < 0x103000 → rd o t = rd o s) {r : Nat} (hr : r < 256) :
    region r t = region r s := by
  have hf : ∀ f : FRef, 0x101000 ≤ f.off → f.off < 0x103000 → fld f t = fld f s := fun f h1 h2 => by unfold fld; rw [h _ h1 h2]
  have hcfg : 0x101000 ≤ MEM_RGN_CFG r ∧ MEM_RGN_CFG r < 0x103000 := by unfold MEM_RGN_CFG; omega
  have hbase : 0x101000 ≤ MEM_RGN_BASE r ∧ MEM_RGN_BASE r < 0x103000 := by unfold MEM_RGN_BASE; omega
  have hsize : 0x101000 ≤ MEM_RGN_SIZE r ∧ MEM_RGN_SIZE r < 0x103000 := by unfold MEM_RGN_SIZE; omega
  unfold region bit
  rw [hf (MEM_RGN_CFG_VALID r) hcfg.1 hcfg.2, hf (MEM_RGN_CFG_KIND r) hcfg.1 hcfg.2, hf (MEM_RGN_BASE_BASE r) hbase.1 hbase.2,
    hf (MEM_RGN_SIZE_SIZE r) hsize.1 hsize.2, hf (MEM_RGN_CFG_OWNER r) hcfg.1 hcfg.2, hf (MEM_RGN_CFG_SEALED r) hcfg.1 hcfg.2,
    hf (MEM_RGN_CFG_BINDS r) hcfg.1 hcfg.2, hf (MEM_RGN_CFG_HOME r) hcfg.1 hcfg.2]

theorem regionRules_congr {s t : State} (hfuse : t.fuse = s.fuse) (h : ∀ o, 0x101000 ≤ o → o < 0x103000 → rd o t = rd o s) {r : Nat}
    (hr : r < 256) : regionRules r t = regionRules r s := by
  have hall : ((List.range 256).filter (· != r)).map (fun i => region i t) =
      ((List.range 256).filter (· != r)).map (fun i => region i s) :=
    List.map_congr_left fun i hi => region_congr h (List.mem_range.mp (List.mem_of_mem_filter hi))
  have harea : ∀ a, areaOf a t = areaOf a s := fun a => by unfold areaOf atollHere isS; rw [hfuse]
  unfold regionRules
  rw [region_congr h hr, hall]
  simp only [harea]

/-- Digests put alike into states that differ in registers only. -/
theorem regsOnly_setDigests {l : List Nat} {s t : State} (d : List (Nat × BitVec 384)) (h : RegsOnly l s t) :
    RegsOnly l { s with digests := d } { t with digests := d } := by
  obtain ⟨hrest, hmem, hwear, hregs⟩ := h
  exact ⟨congrArg (fun x : State => { x with digests := d }) hrest, hmem, hwear, hregs⟩

/-! ### Regions -/

/-- What a write of the region register at o with the outcome `w` refuses (R132). -/
def regionRefuses (o : Nat) (w : W64) (s : State) : Prop :=
  let r := (o - 0x101000) / 0x20
  (region r s).binds ≠ 0 ∨ ((region r (wr o w s)).valid = true ∧ regionRules r (wr o w s) = false)

/-- What breaks a region's seal (R134). -/
def regionBreaks (o : Nat) (w : W64) (s : State) : Prop :=
  let g := region ((o - 0x101000) / 0x20) s
  let g' := region ((o - 0x101000) / 0x20) (wr o w s)
  g.base ≠ g'.base ∨ g.size ≠ g'.size ∨ g.kind ≠ g'.kind ∨ g'.valid = false

section
variable {o : Nat} (hlo : 0x101000 ≤ o) (hhi : o < 0x103000) (v : W64) (s : State)
include hlo hhi

/-- The three ends of a write of a region register. -/
theorem rgnWrite_cases :
    let r := (o - 0x101000) / 0x20
    let s1 := rsvEnc (written o v s).2 s
    let t := wr o (written o v s).1 s1
    (regionRefuses o (written o v s).1 s → rgnWrite o v s = raiseLatch MEM_ERR_RGN [(MEM_ERR_ADDR_STAPLE, r)] s1) ∧
    (¬regionRefuses o (written o v s).1 s → regionBreaks o (written o v s).1 s → rgnWrite o v s = clearSealed r t) ∧
    (¬regionRefuses o (written o v s).1 s → ¬regionBreaks o (written o v s).1 s → rgnWrite o v s = t) := by
  have hr : (o - 0x101000) / 0x20 < 256 := by omega
  have heff := regEffect_rsvEnc (written o v s).2 s
  have hfuse : (rsvEnc (written o v s).2 s).fuse = s.fuse := by obtain ⟨⟨_, _, _, h⟩, -⟩ := heff; rw [h]
  have hrd : ∀ p, 0x101000 ≤ p → p < 0x103000 →
      rd p (wr o (written o v s).1 (rsvEnc (written o v s).2 s)) = rd p (wr o (written o v s).1 s) := fun p h1 h2 => by
    have htop : p ≠ TOP_ERR ∧ p ≠ TOP_ERR_ADDR := by unfold TOP_ERR TOP_ERR_ADDR; omega
    rw [rd_wr, rd_wr, heff.2 p (by simp [htop])]
  unfold regionRefuses regionBreaks rgnWrite
  dsimp only
  rw [show MEM_RGN_BASE 0 = 0x101000 from rfl, region_congr hrd hr, regionRules_congr (by exact hfuse) hrd hr]
  simp only [Bool.or_eq_true, Bool.and_eq_true, bne_iff_ne, Bool.not_eq_true', ne_eq, or_assoc]
  exact ⟨fun h => if_pos h, fun h h' => (if_neg h).trans (if_pos h'), fun h h' => (if_neg h).trans (if_neg h')⟩

/-- What a write of a region register leaves beside its own effect. -/
theorem rgnWrite_frame : RegsOnly [o, MEM_RGN_CFG ((o - 0x101000) / 0x20), MEM_ERR, MEM_ERR_ADDR, TOP_ERR, TOP_ERR_ADDR]
    { s with digests := (rgnWrite o v s).digests } (rgnWrite o v s) := by
  obtain ⟨hrefuse, hbreak, hkeep⟩ := rgnWrite_cases hlo hhi v s
  have henc := (regEffect_rsvEnc (written o v s).2).mono
    (m := [o, MEM_RGN_CFG ((o - 0x101000) / 0x20), MEM_ERR, MEM_ERR_ADDR, TOP_ERR, TOP_ERR_ADDR]) (by simp)
  have hwr := henc.comp (RegEffect.of_mem (regEffect_wr o (written o v s).1) (by simp))
  have hsame : ∀ f, RegEffect [o, MEM_RGN_CFG ((o - 0x101000) / 0x20), MEM_ERR, MEM_ERR_ADDR, TOP_ERR, TOP_ERR_ADDR] f →
      rgnWrite o v s = f s → RegsOnly [o, MEM_RGN_CFG ((o - 0x101000) / 0x20), MEM_ERR, MEM_ERR_ADDR, TOP_ERR, TOP_ERR_ADDR]
        { s with digests := (rgnWrite o v s).digests } (rgnWrite o v s) := fun f hf he => by
    rw [he, show (f s).digests = s.digests by obtain ⟨⟨_, _, _, h⟩, -⟩ := hf s; rw [h]]
    exact hf.regsOnly s
  by_cases h1 : regionRefuses o (written o v s).1 s
  · refine hsame (fun t => raiseLatch MEM_ERR_RGN [(MEM_ERR_ADDR_STAPLE, (o - 0x101000) / 0x20)] (rsvEnc (written o v s).2 t))
      (henc.comp ?_) (hrefuse h1)
    have herr : RegEffect [o, MEM_RGN_CFG ((o - 0x101000) / 0x20), MEM_ERR, MEM_ERR_ADDR, TOP_ERR, TOP_ERR_ADDR]
        (setErr MEM_ERR_RGN) := RegEffect.of_mem (regEffect_setFld MEM_ERR_RGN 1) (by simp [MEM_ERR_RGN])
    unfold raiseLatch
    exact RegEffect.ite _ (((regEffect_setFlds _).mono (by simp [MEM_ERR_ADDR_STAPLE])).comp herr) herr
  · by_cases h2 : regionBreaks o (written o v s).1 s
    · rw [hbreak h1 h2]
      unfold clearSealed
      have hseal : RegEffect [o, MEM_RGN_CFG ((o - 0x101000) / 0x20), MEM_ERR, MEM_ERR_ADDR, TOP_ERR, TOP_ERR_ADDR]
          (setFld (MEM_RGN_CFG_SEALED ((o - 0x101000) / 0x20)) 0) :=
        RegEffect.of_mem (regEffect_setFld _ 0) (by simp [MEM_RGN_CFG_SEALED])
      exact regsOnly_trans (regsOnly_setDigests _ (hwr.regsOnly s)) (hseal.regsOnly _)
    · exact hsame _ hwr (hkeep h1 h2)
/-- A discarded write leaves its register and the digests, and tells of it. -/
theorem rgnWrite_of_refused (h : regionRefuses o (written o v s).1 s) :
    bit MEM_ERR_RGN (rgnWrite o v s) = true ∧ rd o (rgnWrite o v s) = rd o s ∧ (rgnWrite o v s).digests = s.digests := by
  have henc := regEffect_rsvEnc (written o v s).2
  have herr : RegEffect [MEM_ERR, MEM_ERR_ADDR] (setErr MEM_ERR_RGN) :=
    RegEffect.of_mem (regEffect_setFld MEM_ERR_RGN 1) (by simp [MEM_ERR_RGN])
  have hlatch : RegEffect [MEM_ERR, MEM_ERR_ADDR] (raiseLatch MEM_ERR_RGN [(MEM_ERR_ADDR_STAPLE, (o - 0x101000) / 0x20)]) := by
    unfold raiseLatch
    exact RegEffect.ite _ (((regEffect_setFlds _).mono (by simp [MEM_ERR_ADDR_STAPLE])).comp herr) herr
  have hne : o ∉ [MEM_ERR, MEM_ERR_ADDR] ∧ o ∉ [TOP_ERR, TOP_ERR_ADDR] := by
    simp only [List.mem_cons, List.not_mem_nil, or_false, MEM_ERR, MEM_ERR_ADDR, TOP_ERR, TOP_ERR_ADDR]; omega
  rw [(rgnWrite_cases hlo hhi v s).1 h]
  refine ⟨bit_raiseLatch (by decide) (by decide) _ _, ((hlatch _).2 o hne.1).trans ((henc s).2 o hne.2), ?_⟩
  obtain ⟨⟨_, _, _, h1⟩, -⟩ := hlatch (rsvEnc (written o v s).2 s)
  obtain ⟨⟨_, _, _, h2⟩, -⟩ := henc s
  rw [h1, h2]

theorem rgnWrite_of_kept (h : ¬regionRefuses o (written o v s).1 s) (hb : ¬regionBreaks o (written o v s).1 s) :
    rd o (rgnWrite o v s) = (written o v s).1 ∧ (rgnWrite o v s).digests = s.digests := by
  rw [(rgnWrite_cases hlo hhi v s).2.2 h hb]
  refine ⟨rd_wr_same _ _ _, ?_⟩
  obtain ⟨⟨_, _, _, h1⟩, -⟩ := regEffect_rsvEnc (written o v s).2 s
  rw [h1]; rfl

theorem rgnWrite_of_broken (h : ¬regionRefuses o (written o v s).1 s) (hb : regionBreaks o (written o v s).1 s) :
    let r := (o - 0x101000) / 0x20
    fld (MEM_RGN_CFG_SEALED r) (rgnWrite o v s) = 0 ∧ (rgnWrite o v s).digests = del s.digests r ∧
      rd o (rgnWrite o v s) = if o = MEM_RGN_CFG r then setFldOf (MEM_RGN_CFG_SEALED r) 0 (written o v s).1 else (written o v s).1 := by
  rw [(rgnWrite_cases hlo hhi v s).2.1 h hb]
  unfold clearSealed
  refine ⟨fld_setFld_same _ _ _ (by simp [MEM_RGN_CFG_SEALED]), ?_, ?_⟩
  · obtain ⟨⟨_, _, _, h1⟩, -⟩ := regEffect_rsvEnc (written o v s).2 s
    rw [h1]; rfl
  · unfold setFld
    rw [rd_wr, show (MEM_RGN_CFG_SEALED ((o - 0x101000) / 0x20)).off = MEM_RGN_CFG ((o - 0x101000) / 0x20) from rfl]
    split
    · rename_i e
      exact congrArg _ (e ▸ rd_wr_same o (written o v s).1 _)
    · exact rd_wr_same _ _ _

theorem regWrite_region (ok : Bool) : regWrite ok o v s = rgnWrite o v s := by
  unfold regWrite
  rw [if_neg (by omega), if_neg (by omega), if_neg (by omega), if_neg (by unfold SEC_CMD; omega), if_neg (by omega), if_neg (by omega),
    if_neg (by unfold BT_CTRL; omega), if_neg (by unfold BT_BEAT_LEN; omega), if_neg (by unfold WV_LOAD_CTRL; omega),
    if_neg (by unfold GAU_CTRL; omega), if_neg (by omega), if_neg (by omega), if_pos (by omega)]
  unfold memWrite
  rw [if_neg (by unfold MEM_CTRL; omega), if_neg (by unfold MEM_SCRUB_RATE; omega), if_neg (by unfold MEM_SWAP_CTRL; omega),
    if_pos (by simp; omega)]
end

theorem regionWrites_holds : regionWrites := by
  intro o wide v s hlo hhi ha hr
  have he : driverWrite o.toNat (if wide then 8 else 4) v s =
      rgnWrite o.toNat (if wide then v else v &&& 0xFFFFFFFF) (accessed o.toNat s) := by
    rw [driverWrite_full ha hr]
    exact regWrite_region hlo hhi _ _ true
  generalize (if wide then v else v &&& 0xFFFFFFFF) = v' at he ⊢
  have hframe := rgnWrite_frame hlo hhi v' (accessed o.toNat s)
  have hrefuse := rgnWrite_of_refused hlo hhi v' (accessed o.toNat s)
  have hkeep := rgnWrite_of_kept hlo hhi v' (accessed o.toNat s)
  have hbreak := rgnWrite_of_broken hlo hhi v' (accessed o.toNat s)
  generalize rgnWrite o.toNat v' (accessed o.toNat s) = t at *
  have hafter : RegsOnly [o.toNat, MEM_RGN_CFG ((o.toNat - 0x101000) / 0x20), MEM_ERR, MEM_ERR_ADDR, TOP_ERR, TOP_ERR_ADDR]
      { s with digests := t.digests } (after (fun _ => t) s) := regsOnly_after_of rfl hframe
  obtain ⟨hrest, hmem, hwear, hregs⟩ := hafter
  refine gives_run_to rfl he ?_
  simp only [rd_after, bit_after, fld_after, after_digests]
  exact ⟨hrefuse, hkeep, hbreak, hrest, hwear, hregs, hmem⟩

/-! ### Windows -/

/-- A row of two indices that ends below the offset. -/
theorem look_skip2 {off b st n st' n' : Nat} {w : Bool} {fl : List Fld} {l : List RegD} (hs : 0 < st) (h : off < b ∨ st * n ≤ off - b) :
    look off (⟨b, w, [(st, n), (st', n')], fl⟩ :: l) = look off l := by
  unfold look
  rw [List.find?_cons_of_neg]
  simp only [inDims, Bool.and_eq_true, decide_eq_true_eq]
  rintro ⟨h1, h2⟩
  rcases h with h | h
  · omega
  · rw [if_neg (by rw [not_lt]; exact (Nat.le_div_iff_mul_le hs).mpr (by rw [Nat.mul_comm]; exact h))] at h2
    cases h2

theorem blockTab_gld {o : Nat} (h : 0x600000 ≤ o) (h' : o < 0x700000) : blockTab o = gldRegs := by
  unfold blockTab
  rw [if_neg (by omega), if_neg (by omega), if_pos (by omega), if_neg (by omega), if_neg (by omega)]

/-- The rows of window w. -/
theorem regDesc_window {w : Nat} (hw : w < 4096) :
    regDesc (GLD_WIN_BASE w) = some ⟨0x610000, true, [(0x20, 4096)], [⟨47, 12, .rw, 0, []⟩]⟩ ∧
    regDesc (GLD_WIN_SIZE w) = some ⟨0x610008, true, [(0x20, 4096)], [⟨39, 12, .rw, 0, []⟩]⟩ ∧
    regDesc (GLD_WIN_CFG w) = some ⟨0x610010, false, [(0x20, 4096)], [⟨31, 31, .rw, 0, []⟩, ⟨30, 25, .rw, 0, []⟩, ⟨24, 20, .rw, 0, []⟩]⟩ ∧
    regDesc (GLD_WIN_KEY w) = some ⟨0x610014, false, [(0x20, 4096)], [⟨31, 0, .wo, 0, []⟩]⟩ := by
  have hskip : ∀ o l, 0x610000 ≤ o → look o (gldRegs.take 18 ++ l) = look o l := fun o l ho => by
    simp only [gldRegs, List.take_succ_cons, List.take_zero, List.cons_append, List.nil_append]
    repeat (first | rw [look_skip0 (by omega)] | rw [look_skip1 (by decide) (by omega)] | rw [look_skip2 (by decide) (by omega)])
  have hrows : ∀ o, 0x610000 ≤ o → o < 0x700000 → regDesc o = look o (gldRegs.drop 18) := fun o h1 h2 => by
    rw [← hskip o _ h1, List.take_append_drop, ← blockTab_gld (by omega) h2]; rfl
  unfold GLD_WIN_BASE GLD_WIN_SIZE GLD_WIN_CFG GLD_WIN_KEY
  refine ⟨?_, ?_, ?_, ?_⟩
  · rw [hrows _ (by omega) (by omega)]
    exact look_hit1 (by decide) (by omega)
  · rw [hrows _ (by omega) (by omega)]
    exact (look_skip1 (by decide) (by omega)).trans (look_hit1 (by decide) (by omega))
  · rw [hrows _ (by omega) (by omega)]
    exact (look_skip1 (by decide) (by omega)).trans ((look_skip1 (by decide) (by omega)).trans (look_hit1 (by decide) (by omega)))
  · rw [hrows _ (by omega) (by omega)]
    exact (look_skip1 (by decide) (by omega)).trans ((look_skip1 (by decide) (by omega)).trans
      ((look_skip1 (by decide) (by omega)).trans (look_hit1 (by decide) (by omega))))

theorem regHold_window {w : Nat} (hw : w < 4096) :
    regHold (GLD_WIN_BASE w) = some (GLD_WIN_BASE w, true) ∧ regHold (GLD_WIN_SIZE w) = some (GLD_WIN_SIZE w, true) ∧
    regHold (GLD_WIN_CFG w) = some (GLD_WIN_CFG w, false) ∧ regHold (GLD_WIN_KEY w) = some (GLD_WIN_KEY w, false) := by
  obtain ⟨h1, h2, h3, h4⟩ := regDesc_window hw
  exact ⟨regHold_of_regDesc (by unfold GLD_WIN_BASE; omega) h1, regHold_of_regDesc (by unfold GLD_WIN_SIZE; omega) h2,
    regHold_of_regDesc (by unfold GLD_WIN_CFG; omega) h3, regHold_of_regDesc (by unfold GLD_WIN_KEY; omega) h4⟩

/-- No register of a window has reserved encodings. -/
theorem written_window {w : Nat} (hw : w < 4096) {o : Nat} (ho : o ∈ [GLD_WIN_BASE w, GLD_WIN_SIZE w, GLD_WIN_CFG w, GLD_WIN_KEY w])
    (v : W64) (s : State) : (written o v s).2 = false := by
  obtain ⟨h1, h2, h3, h4⟩ := regDesc_window hw
  simp only [List.mem_cons, List.not_mem_nil, or_false] at ho
  rcases ho with rfl | rfl | rfl | rfl
  · exact written_notes_none h1 (by simp) v s
  · exact written_notes_none h2 (by simp) v s
  · exact written_notes_none h3 (by simp) v s
  · exact written_notes_none h4 (by simp) v s

theorem regWrite_gld {o : Nat} (h : 0x600000 ≤ o) (h' : o < 0x700000) (ok : Bool) (v : W64) (s : State) :
    regWrite ok o v s = gldWrite o v s := by
  unfold regWrite
  rw [if_neg (by omega), if_neg (by omega), if_neg (by omega), if_neg (by unfold SEC_CMD; omega), if_neg (by omega), if_neg (by omega),
    if_neg (by unfold BT_CTRL; omega), if_neg (by unfold BT_BEAT_LEN; omega), if_neg (by unfold WV_LOAD_CTRL; omega),
    if_neg (by unfold GAU_CTRL; omega), if_neg (by omega), if_neg (by omega), if_neg (by omega), if_neg (by omega), if_neg (by omega),
    if_neg (by omega), if_neg (by omega), if_neg (by omega), if_pos (by omega)]

theorem regWrite_window {o : Nat} (h : 0x610000 ≤ o) (h' : o < 0x630000) (ok : Bool) (v : W64) (s : State) :
    regWrite ok o v s = winWrite o v s := by
  rw [regWrite_gld (by omega) (by omega)]
  unfold gldWrite
  rw [if_neg (by unfold GLD_CTRL; omega), if_neg (by unfold GLD_NODE; omega), if_neg (by simp; omega), if_neg (by simp; omega), if_pos h]

section
variable {w : Nat} (hw : w < 4096) (v : W64) (s : State)
include hw

/-- A write to a window that is VALID, other than one that clears it, is discarded. -/
theorem winWrite_discarded {o : Nat} (ho : o ∈ [GLD_WIN_BASE w, GLD_WIN_SIZE w, GLD_WIN_CFG w, GLD_WIN_KEY w])
    (hvalid : bit (GLD_WIN_CFG_VALID w) s = true) (hv : o = GLD_WIN_CFG w → v.getLsbD 31 = true) : winWrite o v s = s := by
  have hnote := written_window hw ho v s
  have hidx : (o - 0x610000) / 0x20 = w ∧ ((o - 0x610000) % 0x20 = 0x10 → o = GLD_WIN_CFG w) := by
    simp only [List.mem_cons, List.not_mem_nil, or_false] at ho
    unfold GLD_WIN_BASE GLD_WIN_SIZE GLD_WIN_CFG GLD_WIN_KEY at ho
    unfold GLD_WIN_CFG
    omega
  unfold winWrite
  dsimp only
  rw [hidx.1, if_pos hvalid, if_neg]
  · unfold discarded rsvEnc; rw [hnote]; rfl
  · rw [Bool.and_eq_true, decide_eq_true_eq, Bool.not_eq_true']
    rintro ⟨h1, h2⟩
    rw [hv (hidx.2 h1)] at h2; cases h2

/-- Base and size of a window that is not VALID are stored. -/
theorem winWrite_stored {o : Nat} (ho : o = GLD_WIN_BASE w ∨ o = GLD_WIN_SIZE w)
    (hvalid : bit (GLD_WIN_CFG_VALID w) s = false) : winWrite o v s = wr o (written o v s).1 s := by
  have hnote := written_window hw (o := o) (by simp; tauto) v s
  have hidx : (o - 0x610000) / 0x20 = w ∧ (o - 0x610000) % 0x20 ≠ 0x10 ∧ (o - 0x610000) % 0x20 ≠ 0x14 := by
    unfold GLD_WIN_BASE GLD_WIN_SIZE at ho; omega
  unfold winWrite
  dsimp only
  rw [hidx.1, if_neg (by rw [hvalid]; decide), if_neg hidx.2.2, if_neg (by simp [hidx.2.1]), store_of_not_noted hnote]

omit hw in
theorem winWrite_key (hvalid : bit (GLD_WIN_CFG_VALID w) s = false) :
    winWrite (GLD_WIN_KEY w) v s = modGld (fun g => { g with keys := put g.keys 0 w (v.setWidth 32) }) s := by
  have hidx : (GLD_WIN_KEY w - 0x610000) / 0x20 = w ∧ (GLD_WIN_KEY w - 0x610000) % 0x20 = 0x14 := by unfold GLD_WIN_KEY; omega
  unfold winWrite
  dsimp only
  rw [hidx.1, if_neg (by rw [hvalid]; decide), if_pos hidx.2]

omit hw in
theorem winWrite_clears (hvalid : bit (GLD_WIN_CFG_VALID w) s = true) (hv : v.getLsbD 31 = false) :
    winWrite (GLD_WIN_CFG w) v s = drainWindow w s := by
  have hidx : (GLD_WIN_CFG w - 0x610000) / 0x20 = w ∧ (GLD_WIN_CFG w - 0x610000) % 0x20 = 0x10 := by unfold GLD_WIN_CFG; omega
  unfold winWrite
  dsimp only
  rw [hidx.1, if_pos hvalid, if_pos (by rw [hidx.2, hv]; rfl)]

/-- Whether the window may be registered with the fields written (R289). -/
def mayRegister (w : Nat) (new : W64) (s : State) : Prop :=
  w < 0xF80 ∧ windowRangeOk (fldOf (GLD_WIN_CFG_CONTEXT w) new) (fldOf (GLD_WIN_CFG_PERM w) new) (winBase w s) (winSize w s) s = true

theorem winWrite_registers (hvalid : bit (GLD_WIN_CFG_VALID w) s = false)
    (hv : v.getLsbD 31 = true → mayRegister w (written (GLD_WIN_CFG w) v s).1 s) :
    winWrite (GLD_WIN_CFG w) v s = wr (GLD_WIN_CFG w) (written (GLD_WIN_CFG w) v s).1 s := by
  have hnote := written_window hw (o := GLD_WIN_CFG w) (by simp) v s
  have hidx : (GLD_WIN_CFG w - 0x610000) / 0x20 = w ∧ (GLD_WIN_CFG w - 0x610000) % 0x20 = 0x10 := by unfold GLD_WIN_CFG; omega
  unfold winWrite
  dsimp only
  rw [hidx.1, hidx.2, if_neg (by rw [hvalid]; decide), if_neg (by decide), store_of_not_noted hnote]
  split
  · rename_i h
    obtain ⟨hlt, hrange⟩ := hv (Bool.and_eq_true_iff.mp h).2
    exact if_pos (by rw [hrange, decide_eq_true hlt]; rfl)
  · rfl

omit hw in
theorem winWrite_refused (hvalid : bit (GLD_WIN_CFG_VALID w) s = false) (hv : v.getLsbD 31 = true)
    (hmay : ¬mayRegister w (written (GLD_WIN_CFG w) v s).1 s) :
    winWrite (GLD_WIN_CFG w) v s =
      gldErr GLD_ERR_WINDOW_CFG (fldOf (GLD_WIN_CFG_CONTEXT w) (written (GLD_WIN_CFG w) v s).1) 0 0 s := by
  have hidx : (GLD_WIN_CFG w - 0x610000) / 0x20 = w ∧ (GLD_WIN_CFG w - 0x610000) % 0x20 = 0x10 := by unfold GLD_WIN_CFG; omega
  unfold winWrite
  dsimp only
  rw [hidx.1, hidx.2, if_neg (by rw [hvalid]; decide), if_neg (by decide), if_pos (by rw [hv]; rfl), if_neg]
  rw [Bool.and_eq_true, decide_eq_true_eq]
  exact hmay
end

@[simp] theorem after_gld_keys (f : State → State) (s : State) : (after f s).gld.keys = (f s).gld.keys := by rw [after_gld]

/-- A change of the fabric's own state beside listed registers. -/
theorem regsOnly_modGld (l : List Nat) (f : Gld → Gld) (s : State) : RegsOnly l { s with gld := (modGld f s).gld } (modGld f s) :=
  ⟨rfl, fun _ => ⟨rfl, rfl⟩, fun _ => rfl, fun _ _ => rfl⟩

/-- A window's VALID is cleared, at once or once it has drained. -/
theorem drainWindow_spec (w : Nat) (s : State) :
    ((s.gld.landings.any fun l => l.window == w) = true →
      w ∈ (drainWindow w s).gld.draining ∧ bit (GLD_WIN_CFG_VALID w) (drainWindow w s) = bit (GLD_WIN_CFG_VALID w) s) ∧
    ((s.gld.landings.any fun l => l.window == w) = false → bit (GLD_WIN_CFG_VALID w) (drainWindow w s) = false) ∧
    RegsOnly [GLD_WIN_CFG w, GLD_ERR, GLD_ERR_INFO] { s with gld := (drainWindow w s).gld } (drainWindow w s) := by
  unfold drainWindow withdrawWindow
  cases h : s.gld.landings.any fun l => l.window == w
  · rw [if_neg (by decide)]
    refine ⟨fun h => Bool.noConfusion h, fun _ => ?_, ((regEffect_setFld (GLD_WIN_CFG_VALID w) 0).mono (by simp [GLD_WIN_CFG_VALID])).regsOnly _⟩
    unfold bit
    rw [fld_setFld_same _ _ _ (by simp [GLD_WIN_CFG_VALID])]; rfl
  · rw [if_pos rfl]
    refine ⟨fun _ => ⟨?_, rfl⟩, fun h => Bool.noConfusion h, regsOnly_modGld _ _ s⟩
    show w ∈ addOnce s.gld.draining w
    unfold addOnce
    split
    · assumption
    · simp

/-- Base, size and key of a window. -/
theorem window_operands {w : Nat} (hw : w < 4096) {s : State} {x : Nat × Nat} (ha : Answers x.1 s) (v : W64)
    (hx : x ∈ [(GLD_WIN_BASE w, 8), (GLD_WIN_SIZE w, 8), (GLD_WIN_KEY w, 4)]) :
    let t := driverWrite (BitVec.ofNat 26 x.1).toNat x.2 v s
    (bit (GLD_WIN_CFG_VALID w) s = true → RegsOnly [] s t) ∧
    (bit (GLD_WIN_CFG_VALID w) s = false → x.2 = 8 → rd x.1 t = (written x.1 v s).1 ∧ RegsOnly [x.1] s t) ∧
    (bit (GLD_WIN_CFG_VALID w) s = false → x.2 = 4 → lookup t.gld.keys 0 w = v.setWidth 32 ∧
      (∀ k, k ≠ w → lookup t.gld.keys 0 k = lookup s.gld.keys 0 k) ∧ RegsOnly [] { s with gld := t.gld } t) := by
  obtain ⟨hbase, hsize, -, hkey⟩ := regHold_window hw
  have hwide : ∀ o, o = GLD_WIN_BASE w ∨ o = GLD_WIN_SIZE w → Answers o s → regHold o = some (o, true) →
      let t := driverWrite (BitVec.ofNat 26 o).toNat 8 v s
      (bit (GLD_WIN_CFG_VALID w) s = true → RegsOnly [] s t) ∧
      (bit (GLD_WIN_CFG_VALID w) s = false → rd o t = (written o v s).1 ∧ RegsOnly [o] s t) := fun o ho ha hr => by
    have hrange : 0x610000 ≤ o ∧ o < 0x630000 := by unfold GLD_WIN_BASE GLD_WIN_SIZE at ho; omega
    have he : driverWrite (BitVec.ofNat 26 o).toNat 8 v s = winWrite o v (accessed o s) := by
      rw [toNat_ofNat_26 (by omega)]
      exact (driverWrite_full ha hr v).trans (regWrite_window hrange.1 hrange.2 _ _ _)
    dsimp only
    rw [he]
    refine ⟨fun hv => ?_, fun hv => ?_⟩
    · rw [winWrite_discarded hw v (accessed o s) (by simp; tauto) hv fun e => by
        unfold GLD_WIN_BASE GLD_WIN_SIZE GLD_WIN_CFG at *; omega]
      exact (regEffect_accessed [] o).regsOnly s
    · rw [winWrite_stored hw v (accessed o s) ho hv]
      exact ⟨rd_wr_same _ _ _, ((regEffect_accessed _ o).comp (regEffect_wr o _)).regsOnly s⟩
  simp only [List.mem_cons, List.not_mem_nil, or_false] at hx
  rcases hx with rfl | rfl | rfl
  · obtain ⟨h1, h2⟩ := hwide _ (.inl rfl) ha hbase
    exact ⟨h1, fun h _ => h2 h, fun _ h => by cases h⟩
  · obtain ⟨h1, h2⟩ := hwide _ (.inr rfl) ha hsize
    exact ⟨h1, fun h _ => h2 h, fun _ h => by cases h⟩
  · have hlt : GLD_WIN_KEY w < 2 ^ 26 := by unfold GLD_WIN_KEY; omega
    have hrange : 0x610000 ≤ GLD_WIN_KEY w ∧ GLD_WIN_KEY w < 0x630000 := by unfold GLD_WIN_KEY; omega
    have he : driverWrite (BitVec.ofNat 26 (GLD_WIN_KEY w)).toNat 4 v s =
        winWrite (GLD_WIN_KEY w) (v &&& 0xFFFFFFFF) (accessed (GLD_WIN_KEY w) s) := by
      rw [toNat_ofNat_26 hlt]
      exact (driverWrite_full ha hkey v).trans (regWrite_window hrange.1 hrange.2 _ _ _)
    dsimp only
    rw [he]
    refine ⟨fun hv => ?_, fun _ h => absurd h (by decide), fun hv _ => ?_⟩
    · rw [winWrite_discarded hw _ (accessed (GLD_WIN_KEY w) s) (by simp) hv fun e => by unfold GLD_WIN_KEY GLD_WIN_CFG at e; omega]
      exact (regEffect_accessed [] _).regsOnly s
    · rw [winWrite_key _ (accessed (GLD_WIN_KEY w) s) hv]
      refine ⟨(lookup_put_same _ _ _ _).trans (BitVec.eq_of_toNat_eq ?_), fun k hk => lookup_put_other _ _ _ _ hk,
        rfl, fun _ => ⟨rfl, rfl⟩, fun _ => rfl, fun _ _ => rfl⟩
      simp only [BitVec.toNat_setWidth, BitVec.toNat_and]
      rw [show ((0xFFFFFFFF : W64)).toNat = 2 ^ 32 - 1 from rfl, Nat.and_two_pow_sub_one_eq_mod, Nat.mod_mod]

/-- The configuration of a window. -/
theorem window_configuration {w : Nat} (hw : w < 4096) (v : W64) (s : State) :
    let o := GLD_WIN_CFG w
    let new := (written o v s).1
    let t := winWrite o v s
    (bit (GLD_WIN_CFG_VALID w) s = true → v.getLsbD 31 = true → RegsOnly [] s t) ∧
    (bit (GLD_WIN_CFG_VALID w) s = true → v.getLsbD 31 = false → (s.gld.landings.any fun l => l.window == w) = true →
      w ∈ t.gld.draining ∧ bit (GLD_WIN_CFG_VALID w) t = true) ∧
    (bit (GLD_WIN_CFG_VALID w) s = true → v.getLsbD 31 = false → (s.gld.landings.any fun l => l.window == w) = false →
      bit (GLD_WIN_CFG_VALID w) t = false) ∧
    (bit (GLD_WIN_CFG_VALID w) s = false → v.getLsbD 31 = true → mayRegister w new s → rd o t = new) ∧
    (bit (GLD_WIN_CFG_VALID w) s = false → v.getLsbD 31 = true → ¬mayRegister w new s →
      rd o t = rd o s ∧ bit GLD_ERR_WINDOW_CFG t = true) ∧
    (bit (GLD_WIN_CFG_VALID w) s = false → v.getLsbD 31 = false → rd o t = new) ∧
    RegsOnly [o, GLD_ERR, GLD_ERR_INFO] { s with gld := t.gld } t := by
  obtain ⟨hdrain, hclear, hframe⟩ := drainWindow_spec w s
  have hdis := winWrite_discarded hw v s (o := GLD_WIN_CFG w) (by simp)
  have hreg := winWrite_registers hw v s
  have href := winWrite_refused (w := w) v s
  have hout : GLD_WIN_CFG w ∉ [GLD_ERR, GLD_ERR_INFO] := by
    simp only [List.mem_cons, List.not_mem_nil, or_false, GLD_WIN_CFG, GLD_ERR, GLD_ERR_INFO]; omega
  have herr := regEffect_gldErr GLD_ERR_WINDOW_CFG rfl (fldOf (GLD_WIN_CFG_CONTEXT w) (written (GLD_WIN_CFG w) v s).1) 0 0
  have hgld : ∀ {l : List Nat} {f : State → State}, RegEffect l f → RegsOnly l { s with gld := (f s).gld } (f s) := fun {l f} hf => by
    rw [show (f s).gld = s.gld by obtain ⟨⟨_, _, _, h⟩, -⟩ := hf s; rw [h]]
    exact hf.regsOnly s
  dsimp only
  refine ⟨fun h1 h2 => ?_, fun h1 h2 h3 => ?_, fun h1 h2 h3 => ?_, fun h1 h2 h3 => ?_, fun h1 h2 h3 => ?_, fun h1 h2 => ?_, ?_⟩
  · rw [hdis h1 fun _ => h2]
    exact (regEffect_id []).regsOnly s
  · rw [winWrite_clears v s h1 h2]
    obtain ⟨h4, h5⟩ := hdrain h3
    exact ⟨h4, h5.trans h1⟩
  · rw [winWrite_clears v s h1 h2]; exact hclear h3
  · rw [hreg h1 fun _ => h3]; exact rd_wr_same _ _ _
  · rw [href h1 h2 h3]
    exact ⟨(herr s).2 _ hout, bit_gldErr (by decide) (by decide) _ _ _ _⟩
  · rw [hreg h1 fun h => by rw [h2] at h; cases h]; exact rd_wr_same _ _ _
  · cases h1 : bit (GLD_WIN_CFG_VALID w) s <;> cases h2 : v.getLsbD 31
    · rw [hreg h1 fun h => by rw [h2] at h; cases h]
      exact hgld (RegEffect.of_mem (regEffect_wr _ _) (by simp))
    · by_cases h3 : mayRegister w (written (GLD_WIN_CFG w) v s).1 s
      · rw [hreg h1 fun _ => h3]
        exact hgld (RegEffect.of_mem (regEffect_wr _ _) (by simp))
      · rw [href h1 h2 h3]
        exact hgld (herr.mono (by simp))
    · rw [winWrite_clears v s h1 h2]; exact hframe
    · rw [hdis h1 fun _ => h2]
      exact hgld (regEffect_id _)

theorem windowRegistration_holds : windowRegistration := by
  constructor
  · intro w v s hw x hx ha
    obtain ⟨h1, h2, h3⟩ := window_operands hw ha v hx
    refine gives_run rfl ⟨fun h => regsOnly_after (h1 h), fun h h' => ?_, fun h h' => ?_⟩
    · obtain ⟨h4, h5⟩ := h2 h h'
      exact ⟨by rw [rd_after]; exact h4, regsOnly_after h5⟩
    · obtain ⟨h4, h5, h6⟩ := h3 h h'
      rw [after_gld]
      exact ⟨h4, h5, regsOnly_after_of rfl h6⟩
  · intro w v s hw ha
    obtain ⟨-, -, hcfg, -⟩ := regHold_window hw
    have hlt : 0x610000 ≤ GLD_WIN_CFG w ∧ GLD_WIN_CFG w < 0x630000 := by unfold GLD_WIN_CFG; omega
    have he : driverWrite (BitVec.ofNat 26 (GLD_WIN_CFG w)).toNat 4 (v.setWidth 64) s =
        winWrite (GLD_WIN_CFG w) (v.setWidth 64) (accessed (GLD_WIN_CFG w) s) := by
      rw [toNat_ofNat_26 (by omega), driverWrite_word ha hcfg, regWrite_window hlt.1 hlt.2]
    have hv : (v.setWidth 64 : W64).getLsbD 31 = v.getLsbD 31 := wbit_setWidth v 31
    have h := window_configuration hw (v.setWidth 64) (accessed (GLD_WIN_CFG w) s)
    dsimp only at h
    rw [hv] at h
    generalize winWrite (GLD_WIN_CFG w) (v.setWidth 64) { s with acc := GLD_WIN_CFG w } = t at *
    obtain ⟨h1, h2, h3, h4, h5, h6, h7⟩ := h
    refine gives_run_to rfl he ?_
    simp only [rd_after, bit_after, after_gld]
    exact ⟨fun a b => regsOnly_after (h1 a b), h2, h3, h4, h5, h6, regsOnly_after_of rfl h7⟩

/-- Settles O13: the three ends of a write of a region, and the five of a write to a window. -/
theorem regionsAndWindows : Obligations.RegionsAndWindows := ⟨regionWrites_holds, windowRegistration_holds⟩

end Sys2Proof.Machine
end

section
/-! PROOFS. The SPDM responder (R405, R407 to R409). -/

namespace Sys2Proof.Machine

open Sys2Proof.Safety

/-- A running responder acts on the request. -/
theorem spdm_running {s : State} (hon : s.boot.on = true) (hst : stIdentity ≤ stage s) (hfw : s.boot.fwRuns = true) (rom : Bool)
    (f : State → State) : spdm rom f s = f s := by
  unfold spdm
  rw [if_neg (by simp [hon, hst]), if_pos (by simp [hfw])]

/-- What a request whose effect is `f` gives while the responder runs. -/
theorem gives_spdm {c : Instr} {rom : Bool} {f : State → State} {s u : State} {P : State → Prop} (hon : s.boot.on = true)
    (hst : stIdentity ≤ stage s) (hfw : s.boot.fwRuns = true) (hc : exec c s = run (spdm rom f) s) (he : f s = u)
    (hp : P (after (fun _ => u) s)) : Gives c s P :=
  gives_run_to hc ((spdm_running hon hst hfw rom f).trans he) hp

theorem regsOnly_weaken {l m : List Nat} {s t : State} (h : RegsOnly l s t) (hm : l ⊆ m := by simp) : RegsOnly m s t := by
  obtain ⟨hrest, hmem, hwear, hregs⟩ := h
  exact ⟨hrest, hmem, hwear, fun o ho => hregs o fun hl => ho (hm hl)⟩

theorem regsOnly_reply (code : Nat) (bs : List Byte) (s : State) : RegsOnly [] s (reply code bs s) :=
  ⟨rfl, fun _ => ⟨rfl, rfl⟩, fun _ => rfl, fun _ _ => rfl⟩

/-- A request that is answered by one message changes nothing else. -/
theorem answersWith_reply {c : Instr} {rom : Bool} {f : State → State} {s : State} {code : Nat} {bs : List Byte}
    {P : List Byte → Prop} (hon : s.boot.on = true) (hst : stIdentity ≤ stage s) (hfw : s.boot.fwRuns = true)
    (hc : exec c s = run (spdm rom f) s) (he : f s = reply code bs s) (hp : P bs) : answersWith c s code P := by
  refine gives_spdm hon hst hfw hc he ⟨regsOnly_after (regsOnly_reply code bs s), bs, ?_, hp⟩
  exact (after_messages (f := fun _ => reply code bs s) rfl rfl rfl).1

theorem measured_block {i : Nat} {s : State} {bs : List Byte} (h : measurement i s = some bs) (hi : i ≠ 0xFF) :
    measured i s = reply spMeasurements (bs ++ identitySign bs s) s := by
  unfold measured
  rw [if_neg hi, h]

theorem measured_none {i : Nat} {s : State} (h : measurement i s = none) (hi : i ≠ 0xFF) :
    measured i s = reply spError [seInvalid] s := by
  unfold measured
  rw [if_neg hi, h]

theorem keyExchanged_full {s : State} (h : ∀ k < 4, k ∈ s.sec.sessions) (nonce : BitVec 256) :
    keyExchanged nonce s = reply spError [seBusy] s := by
  have hnone : (List.range 4).find? (fun i => !s.sec.sessions.contains i) = none := by
    rw [List.find?_eq_none]
    intro k hk
    simpa using h k (List.mem_range.mp hk)
  unfold keyExchanged
  rw [hnone]

/-- The state after a session was opened and answered. -/
def sessionOpened (k : Nat) (nonce : BitVec 256) (s : State) : State :=
  reply spKeyExchange (BitVec.ofNat 8 k :: identitySign (natToBytes 32 nonce.toNat) s)
    (modSec (fun x => { x with sessions := x.sessions ++ [k] }) s)

theorem keyExchanged_free {s : State} (h : ∃ k < 4, k ∉ s.sec.sessions) (nonce : BitVec 256) :
    ∃ k < 4, k ∉ s.sec.sessions ∧ keyExchanged nonce s = sessionOpened k nonce s := by
  have hsome : ((List.range 4).find? fun i => !s.sec.sessions.contains i).isSome := by
    rw [List.find?_isSome]
    obtain ⟨k, hk, hn⟩ := h
    exact ⟨k, List.mem_range.mpr hk, by simpa using hn⟩
  obtain ⟨k, hk⟩ := Option.isSome_iff_exists.mp hsome
  refine ⟨k, List.mem_range.mp (List.mem_of_find?_eq_some hk), by simpa using List.find?_some hk, ?_⟩
  unfold keyExchanged
  rw [hk]
  rfl

theorem inSession_of_mem {k : Nat} {s : State} (h : k ∈ s.sec.sessions) (f : State → State) : inSession k f s = f s :=
  if_pos (by simpa using h)

theorem inSession_of_not_mem {k : Nat} {s : State} (h : k ∉ s.sec.sessions) (f : State → State) :
    inSession k f s = reply spError [seInvalid] s := if_neg (by simpa using h)

theorem ideKeyed_refused {k : Nat} {s : State} (h : s.sec.sessions = [] ∨ 4 < k) (on : Bool) :
    ideKeyed k on s = reply spError [seInvalid] s := by
  unfold ideKeyed
  rw [if_pos (by rcases h with h | h <;> simp [h])]

/-- The keyed streams after IDE_KM has keyed or dropped one. -/
def ideStreams (k : Nat) (on : Bool) (x : Sec) : Sec :=
  { x with ide := if on then addOnce x.ide k else x.ide.filter (· != k) }

theorem ideKeyed_taken {k : Nat} {s : State} (h : s.sec.sessions ≠ []) (hk : k ≤ 4) (on : Bool) :
    ideKeyed k on s = modSec (ideStreams k on) s := by
  unfold ideKeyed
  rw [if_neg (by simp [h, hk])]
  rfl

theorem mem_addOnce (l : List Nat) (k : Nat) : k ∈ addOnce l k := by
  unfold addOnce
  split
  · assumption
  · simp

/-- A change of the security state alone. -/
theorem regsOnly_modSec (f : Sec → Sec) (s : State) :
    RegsOnly [] { s with sec := (after (fun _ => modSec f s) s).sec } (after (fun _ => modSec f s) s) := by
  rw [after_sec]
  exact regsOnly_after_of rfl ⟨rfl, fun _ => ⟨rfl, rfl⟩, fun _ => rfl, fun _ _ => rfl⟩

/-- Settles O26: each request is one of the responder's answers, or one change of its sessions or streams. -/
theorem spdmResponder : Obligations.SpdmResponder := by
  intro s hon hst hfw
  have reply' {c : Instr} {rom : Bool} {f : State → State} {code : Nat} {bs : List Byte} {P : List Byte → Prop}
      (hc : exec c s = run (spdm rom f) s) (he : f s = reply code bs s) (hp : P bs) : answersWith c s code P :=
    answersWith_reply hon hst hfw hc he hp
  refine ⟨reply' (rom := true) (f := reply spVersion [0x12]) rfl rfl rfl,
    reply' (rom := true) (f := certificate 0) rfl rfl rfl, fun slot hslot => ?_,
    fun nonce => reply' (rom := false) (f := challenged nonce) rfl rfl rfl, fun i bs h hi => ?_,
    reply' (rom := false) (f := measured 0xFF) rfl rfl rfl, fun i h hi => ?_, fun nonce h => ?_, fun nonce h => ?_,
    fun k h => ?_, fun k h => ⟨?_, ?_⟩, fun k h => ?_, fun st on h => ?_, fun st hst4 hs => ⟨?_, ?_⟩, fun st on h => ?_⟩
  · have hn : slot.toNat ≠ 0 := fun e => hslot (BitVec.eq_of_toNat_eq e)
    exact reply' (rom := true) (f := certificate slot.toNat) rfl (if_neg hn) rfl
  · exact reply' (rom := false) (f := measured i.toNat) rfl
      (measured_block h fun e => hi (BitVec.eq_of_toNat_eq e)) rfl
  · exact reply' (rom := false) (f := measured i.toNat) rfl
      (measured_none h fun e => hi (BitVec.eq_of_toNat_eq e)) rfl
  · exact reply' (rom := false) (f := keyExchanged nonce) rfl (keyExchanged_full h nonce) rfl
  · obtain ⟨k, hk, hnew, he⟩ := keyExchanged_free h nonce
    refine gives_spdm hon hst hfw (rom := false) (f := keyExchanged nonce) rfl he ⟨k, hk, hnew, ?_, ?_⟩
    · rw [after_sec]; rfl
    · rw [after_sec]
      exact regsOnly_after_of rfl ⟨rfl, fun _ => ⟨rfl, rfl⟩, fun _ => rfl, fun _ _ => rfl⟩
  · exact reply' (rom := false) (f := inSession k.toNat (reply spHeartbeat [])) rfl (inSession_of_mem h _) rfl
  · exact reply' (rom := false) (f := inSession k.toNat (reply spHeartbeat [])) rfl (inSession_of_not_mem h _) rfl
  · exact reply' (rom := false) (f := inSession k.toNat fun s => bump64 (SEC_CNT 5) 1 (reply spKeyUpdate [] s)) rfl
      (inSession_of_not_mem h _) rfl
  · refine gives_spdm hon hst hfw (rom := false)
      (f := inSession k.toNat fun s => bump64 (SEC_CNT 5) 1 (reply spKeyUpdate [] s)) rfl (inSession_of_mem h _) ⟨?_, ?_⟩
    · exact regsOnly_after (regsOnly_trans (regsOnly_weaken (regsOnly_reply spKeyUpdate [] s)) ((regEffect_bump64 _ 1).regsOnly _))
    · exact counts_after (counts_bump64 (SEC_CNT 5) 1 _)
  · exact reply' (rom := false) (f := ideKeyed st.toNat on) rfl (ideKeyed_refused (.inr h) on) rfl
  · refine gives_spdm hon hst hfw (rom := false) (f := ideKeyed st.toNat true) rfl (ideKeyed_taken hs hst4 true)
      ⟨?_, regsOnly_modSec _ s⟩
    rw [after_sec]; exact mem_addOnce s.sec.ide _
  · refine gives_spdm hon hst hfw (rom := false) (f := ideKeyed st.toNat false) rfl (ideKeyed_taken hs hst4 false)
      ⟨?_, regsOnly_modSec _ s⟩
    rw [after_sec]; simp [modSec, ideStreams]
  · exact reply' (rom := false) (f := ideKeyed st.toNat on) rfl (ideKeyed_refused (.inl h) on) rfl

end Sys2Proof.Machine
end

section
/-! PROOFS. The mailbox, keys and security versions (R407, R410 to R416). -/

namespace Sys2Proof.Machine

open Sys2Proof.Safety

@[simp] theorem after_fuse (f : State → State) (s : State) : (after f s).fuse = (f s).fuse := by
  obtain ⟨m, l, h⟩ := irqSettle_cases s (f s)
  unfold after tidy; rw [h]

theorem bit_setFld_one {f : FRef} (h : f.hi < 64) (hw : f.lo = f.hi) (s : State) : bit f (setFld f 1 s) = true := by
  unfold bit
  rw [fld_setFld_same f 1 s h, hw]
  simp

/-! ### Commands do not look at the offset of the access -/

/-- An effect that neither reads nor writes the recorded offset. -/
def AccBlind (f : State → State) : Prop := ∀ o s, f (accessed o s) = accessed o (f s)

/-- The same for a command of the mailbox, which has a code too. -/
def CodeBlind (f : State → Nat × State) : Prop := ∀ o s, f (accessed o s) = Prod.map id (accessed o) (f s)

theorem AccBlind.ite {f g : State → State} {p : State → Prop} [∀ s, Decidable (p s)] (hp : ∀ o s, p (accessed o s) ↔ p s)
    (hf : AccBlind f) (hg : AccBlind g) : AccBlind fun s => if p s then f s else g s := by
  intro o s
  by_cases h : p s
  · simp only [h, (hp o s).mpr h, if_true]; exact hf o s
  · simp only [h, (hp o s).not.mpr h, if_false]; exact hg o s

theorem AccBlind.foldl {α : Type} {f : State → α → State} (h : ∀ x, AccBlind fun s => f s x) (xs : List α) :
    AccBlind fun s => xs.foldl f s := by
  intro o s
  induction xs generalizing s with
  | nil => rfl
  | cons x xs ih => exact (congrArg (xs.foldl f) (h x o s)).trans (ih _)

theorem accBlind_setFld (f : FRef) (x : Nat) : AccBlind (setFld f x) := fun _ _ => rfl

theorem accBlind_setFlds (l : List (FRef × Nat)) : AccBlind (setFlds l) :=
  AccBlind.foldl (f := fun s (p : FRef × Nat) => setFld p.1 p.2 s) (fun _ _ _ => rfl) l

theorem accBlind_raiseLatch (f : FRef) (l : List (FRef × Nat)) : AccBlind (raiseLatch f l) :=
  AccBlind.ite (p := fun s => rd f.off s = 0) (f := fun s => setErr f (setFlds l s)) (fun _ _ => Iff.rfl)
    (fun o s => congrArg (setErr f) (accBlind_setFlds l o s)) fun _ _ => rfl

theorem accBlind_putSlot (n : Nat) (k : Option (List Byte)) : AccBlind (putSlot n k) :=
  AccBlind.ite (p := fun s => slotKey n s = k) (f := fun s => s) (fun _ _ => Iff.rfl) (fun _ _ => rfl) <|
    AccBlind.ite (p := fun s => wearOf (slotWear n) s ≥ wearLimit) (fun _ _ => Iff.rfl) (accBlind_raiseLatch _ _) fun _ _ => rfl

theorem accBlind_putSeq (q : W32) : AccBlind (putSeq q) :=
  AccBlind.ite (p := fun s => s.sec.slotSeq = q) (f := fun s => s) (fun _ _ => Iff.rfl) (fun _ _ => rfl) <|
    AccBlind.ite (p := fun s => wearOf 0x7000 s ≥ wearLimit) (fun _ _ => Iff.rfl) (accBlind_raiseLatch _ _) fun _ _ => rfl

theorem accBlind_wrSound (a : Nat) (bs : List Byte) : AccBlind (wrSound a bs) := by
  intro o s
  have hbytes : wrBytes a bs (accessed o s) = accessed o (wrBytes a bs s) := by
    induction bs generalizing a s with
    | nil => rfl
    | cons b bs ih => exact ih (a + 1) (wrByte a b s)
  unfold wrSound
  rw [hbytes]
  exact AccBlind.foldl (f := fun s p => setMeta p {} s) (fun _ _ _ => rfl) _ o _

@[simp] theorem sec_accessed (o : Nat) (s : State) : (accessed o s).sec = s.sec := rfl

@[simp] theorem fuse_accessed (o : Nat) (s : State) : (accessed o s).fuse = s.fuse := rfl

@[simp] theorem secBlob_accessed (o : Nat) (s : State) : secBlob (accessed o s) = secBlob s := rfl

@[simp] theorem slotKey_accessed (n o : Nat) (s : State) : slotKey n (accessed o s) = slotKey n s := rfl

@[simp] theorem slotValid_accessed (n o : Nat) (s : State) : slotValid n (accessed o s) = slotValid n s := rfl

@[simp] theorem unwrapKey_accessed (b : List Byte) (o : Nat) (s : State) : unwrapKey b (accessed o s) = unwrapKey b s := rfl

@[simp] theorem tenantBusy_accessed (t o : Nat) (s : State) : tenantBusy t (accessed o s) = tenantBusy t s := rfl

@[simp] theorem region_accessed (r o : Nat) (s : State) : region r (accessed o s) = region r s := rfl

@[simp] theorem rdBytes_accessed (a n o : Nat) (s : State) : rdBytes a n (accessed o s) = rdBytes a n s := rfl

@[simp] theorem stapleOk_accessed (a o : Nat) (s : State) : stapleOk a (accessed o s) = stapleOk a s := rfl

/-- SLOT_WRITE's writes of the slots. -/
def slotStored (op slot : Nat) (key : List Byte) (s : State) : State :=
  if op = 1 then putSlot slot (some key) s
  else if slot = 1 then (List.range 15).foldl (fun s n => putSlot (n + 1) none s) s
  else putSlot slot none s

theorem accBlind_slotStored (op slot : Nat) (key : List Byte) : AccBlind (slotStored op slot key) := by
  unfold slotStored
  split
  · exact accBlind_putSlot _ _
  · split
    · exact AccBlind.foldl (f := fun s n => putSlot (n + 1) none s) (fun _ => accBlind_putSlot _ _) _
    · exact accBlind_putSlot _ _

/-- The fields of a slot blob that no blob may have. -/
def slotBadFormat (b : List Byte) : Bool :=
  bnum b 0 4 != 0x4B534B51 || !(bnum b 4 1 == 1 || bnum b 4 1 == 2) || bnum b 5 1 = 0 || bnum b 5 1 > 15 || !allZero (bslice b 6 2) ||
    !allZero (bslice b 0x75 11) || (bnum b 4 1 == 2 && !allZero (bslice b 0x14 97))

/-- The key that must have signed a slot blob: its own for the first owner key, else the owner's. -/
def blobSigner (b : List Byte) (s : State) : Option (List Byte) :=
  if bnum b 4 1 == 1 && bnum b 5 1 == 1 && !slotValid 1 s then some (bslice b 0x14 97) else slotKey 1 s

/-- SLOT_WRITE with the signer's key known. -/
def slotVerdict (b : List Byte) (ok : Bool) (k : List Byte) (s : State) : Nat × State :=
  if !ok || !Config.ecdsaOk k (Config.sha384 (b.take 0x80)) (bslice b 0x80 96) then (scAuth, s)
  else if (BitVec.ofNat 32 (bnum b 0x10 4) : W32).toNat ≤ s.sec.slotSeq.toNat then (scSeq, s)
  else (scOk, putSeq (BitVec.ofNat 32 (bnum b 0x10 4)) (slotStored (bnum b 4 1) (bnum b 5 1) (bslice b 0x14 97) s))

theorem slotWrite_of_blob {s : State} {b : List Byte} {ok : Bool} (h : secBlob s = some (b, ok)) :
    slotWrite s = if slotBadFormat b then (scFormat, s) else if bnum b 8 8 != s.fuse.identity.toNat then (scTarget, s)
      else match blobSigner b s with
      | none => (scNoKey, s)
      | some k => slotVerdict b ok k s := by
  unfold slotWrite; rw [h]; rfl

theorem codeBlind_slotVerdict (b : List Byte) (ok : Bool) (k : List Byte) : CodeBlind (slotVerdict b ok k) := by
  intro o s
  unfold slotVerdict
  rw [sec_accessed]
  split_ifs
  · rfl
  · rfl
  · exact congrArg (Prod.mk scOk)
      ((congrArg (putSeq _) (accBlind_slotStored _ _ _ o s)).trans (accBlind_putSeq _ o _))

theorem codeBlind_slotWrite : CodeBlind slotWrite := by
  intro o s
  have hblob : secBlob (accessed o s) = secBlob s := rfl
  have hsigner (b : List Byte) : blobSigner b (accessed o s) = blobSigner b s := rfl
  cases hb : secBlob s with
  | none =>
    have hnone (t : State) (h : secBlob t = none) : slotWrite t = (scRegion, t) := by unfold slotWrite; rw [h]
    rw [hnone s hb, hnone _ (hblob.trans hb)]
    rfl
  | some x =>
    rw [slotWrite_of_blob hb, slotWrite_of_blob (hblob.trans hb), hsigner, fuse_accessed]
    cases blobSigner x.1 s with
    | none => dsimp only; split_ifs <;> rfl
    | some k =>
      dsimp only
      split_ifs
      · rfl
      · rfl
      · exact codeBlind_slotVerdict _ _ _ o s

theorem codeBlind_keyLoad : CodeBlind keyLoad := by
  intro o s
  unfold keyLoad
  rw [secBlob_accessed, fuse_accessed]
  cases secBlob s with
  | none => rfl
  | some x =>
    dsimp only
    rw [unwrapKey_accessed, tenantBusy_accessed]
    generalize (if x.2 = true then unwrapKey x.1 s else none) = key
    cases key <;> dsimp only <;> split_ifs <;> rfl

theorem codeBlind_keyClear (arg : Nat) : CodeBlind (keyClear arg) := by
  intro o s
  unfold keyClear
  dsimp only
  rw [tenantBusy_accessed]
  split_ifs
  all_goals rfl

theorem codeBlind_svnAdvance : CodeBlind svnAdvance := by
  intro o s
  unfold svnAdvance
  dsimp only
  rw [fld_accessed, fuse_accessed]
  split_ifs
  all_goals rfl

/-! ### UNSEAL, at any sizes

The sizes of a page, a chunk and a chunk with its tag page are kept as variables, so that a conditional on them is never evaluated. -/

/-- `unsealChunks` with page size `P`, chunk size `C` and chunk stride `S`. -/
def chunksAt (P C S : Nat) (key : BitVec 256) (id : Nat) (aad : List Byte) (src dst len : Nat) : Nat → Nat → State → Bool × State
  | 0, _, s => (true, s)
  | n + 1, i, s =>
    let a := src + P + i * S
    let m := min C (len - i * C)
    let nonce : BitVec 96 := BitVec.ofNat 96 (id + i % 2 ^ 32 * 2 ^ 64)
    let sound : Bool := (staplesOf a (m + P)).all fun p => stapleOk p s
    match (if sound then Config.gcmOpen key nonce aad (rdBytes a m s) (rdBytes (a + m) 16 s) else none) with
    | none => (false, s)
    | some p => chunksAt P C S key id aad src dst len n (i + 1) (wrSound (dst + i * C) (p.take m) s)

theorem unsealChunks_eq : unsealChunks = chunksAt 4096 1048576 1052672 := by
  delta unsealChunks chunksAt
  rfl

/-- The chunk at index `i`, decrypted; none when a staple or its tag fails. -/
def chunkText (P C S : Nat) (key : BitVec 256) (id : Nat) (aad : List Byte) (src len i : Nat) (s : State) : Option (List Byte) :=
  if (staplesOf (src + P + i * S) (min C (len - i * C) + P)).all fun p => stapleOk p s then
    Config.gcmOpen key (BitVec.ofNat 96 (id + i % 2 ^ 32 * 2 ^ 64)) aad (rdBytes (src + P + i * S) (min C (len - i * C)) s)
      (rdBytes (src + P + i * S + min C (len - i * C)) 16 s)
  else none

theorem chunksAt_succ (P C S : Nat) (key : BitVec 256) (id : Nat) (aad : List Byte) (src dst len n i : Nat) (s : State) :
    chunksAt P C S key id aad src dst len (n + 1) i s = match chunkText P C S key id aad src len i s with
      | none => (false, s)
      | some p => chunksAt P C S key id aad src dst len n (i + 1) (wrSound (dst + i * C) (p.take (min C (len - i * C))) s) := rfl

theorem chunksAt_accessed (P C S : Nat) (key : BitVec 256) (id : Nat) (aad : List Byte) (src dst len n i o : Nat) (s : State) :
    chunksAt P C S key id aad src dst len n i (accessed o s) =
      ((chunksAt P C S key id aad src dst len n i s).1, accessed o (chunksAt P C S key id aad src dst len n i s).2) := by
  induction n generalizing i s with
  | zero => rfl
  | succ n ih =>
    have htext : chunkText P C S key id aad src len i (accessed o s) = chunkText P C S key id aad src len i s := rfl
    rw [chunksAt_succ, chunksAt_succ, htext]
    cases chunkText P C S key id aad src len i s with
    | none => rfl
    | some p =>
      dsimp only
      rw [accBlind_wrSound _ _ o s]
      exact ih _ _

@[simp] theorem digestRange_accessed (a n o : Nat) (s : State) : digestRange a n (accessed o s) = digestRange a n s := rfl

theorem accBlind_bump64 (o n : Nat) : AccBlind (bump64 o n) := fun p s => by
  unfold bump64
  rw [rd_accessed]
  rfl

theorem accBlind_sealRegion (r : Nat) : AccBlind (sealRegion r) := fun o s => by
  unfold sealRegion
  dsimp only
  rw [region_accessed, accBlind_setFlds, digestRange_accessed]
  generalize digestRange _ _ _ = d
  exact accBlind_setFld (MEM_RGN_CFG_SEALED r) 1 o { setFlds _ s with digests := ins s.digests r d }

theorem accBlind_clearSealed (r : Nat) : AccBlind (clearSealed r) := fun _ _ => rfl

theorem accBlind_invalidate (r : Nat) : AccBlind (invalidate r) := fun _ _ => rfl

/-- UNSEAL of an image whose header, regions and key pass, at the sizes of `chunksAt`. -/
def imageOpened (P C S : Nat) (key : BitVec 256) (hdr : List Byte) (a r dst len chunks : Nat) (s : State) : Nat × State :=
  let x := chunksAt P C S key (bnum hdr 8 8) (hdr.take 128) a dst len chunks 0 s
  if !x.1 then (scAuth, invalidate r x.2)
  else if (digestRange dst len x.2).toNat != bnum hdr 0x18 48 then (scDigest, invalidate r x.2)
  else (scOk, bump64 (SEC_CNT 2) len (sealRegion r x.2))

theorem codeBlind_imageOpened (P C S : Nat) (key : BitVec 256) (hdr : List Byte) (a r dst len chunks : Nat) :
    CodeBlind (imageOpened P C S key hdr a r dst len chunks) := by
  intro o s
  unfold imageOpened
  rw [chunksAt_accessed]
  generalize chunksAt _ _ _ _ _ _ _ _ _ _ _ _ = x
  dsimp only
  rw [digestRange_accessed, accBlind_invalidate, accBlind_sealRegion, accBlind_bump64]
  split_ifs <;> rfl

/-- The end of UNSEAL, whether a key is in the slot or not. -/
theorem imageEnd_accessed (q : Option (BitVec 256)) (hdr : List Byte) (a r b len chunks o : Nat) (s u : State) :
    (match q with
      | none => (scNoKey, accessed o s)
      | some key =>
        match chunksAt 4096 1048576 1052672 key (bnum hdr 8 8) (List.take 128 hdr) a b len chunks 0 (accessed o u) with
        | (ok, s) =>
          if (!ok) = true then (scAuth, invalidate r s)
          else if ((digestRange b len s).toNat != bnum hdr 24 48) = true then (scDigest, invalidate r s)
          else (scOk, bump64 (SEC_CNT 2) len (sealRegion r s))) =
    Prod.map id (accessed o) (match q with
      | none => (scNoKey, s)
      | some key =>
        match chunksAt 4096 1048576 1052672 key (bnum hdr 8 8) (List.take 128 hdr) a b len chunks 0 u with
        | (ok, s) =>
          if (!ok) = true then (scAuth, invalidate r s)
          else if ((digestRange b len s).toNat != bnum hdr 24 48) = true then (scDigest, invalidate r s)
          else (scOk, bump64 (SEC_CNT 2) len (sealRegion r s))) := by
  cases q with
  | none => rfl
  | some key => exact codeBlind_imageOpened 4096 1048576 1052672 key hdr a r b len chunks o u

theorem codeBlind_unsealImage (arg : Nat) : CodeBlind (unsealImage arg) := by
  intro o s
  unfold unsealImage
  dsimp -iota -proj only
  rw [fld_accessed, region_accessed, region_accessed, rdBytes_accessed, stapleOk_accessed, sec_accessed, unsealChunks_eq,
    accBlind_clearSealed]
  generalize (bnum _ 16 8 + 1048575) / 1048576 = chunks
  generalize (!(region (arg / 2 ^ 16 % 256) s).valid || _ || _ || _) = badSource
  generalize (!stapleOk _ s || _ || _ || _ || _) = badHeader
  generalize (!(region (arg / 2 ^ 8 % 256) s).valid || _ || _ || _ || _) = badTarget
  cases badSource
  case true => rfl
  cases badHeader
  case true => rfl
  cases badTarget
  case true => rfl
  iterate 6 rw [if_neg Bool.false_ne_true]
  exact imageEnd_accessed (find? s.sec.modelKeys (arg % 64)) _ _ _ _ _ chunks o s _

/-! ### The codes -/

theorem code_slotWrite (s : State) : (slotWrite s).1 < 10 := by
  cases hb : secBlob s with
  | none => unfold slotWrite; rw [hb]; dsimp only; decide
  | some x =>
    rw [slotWrite_of_blob hb]
    unfold slotVerdict
    cases blobSigner x.1 s <;> dsimp only <;> split_ifs <;> dsimp only <;> decide

theorem code_keyLoad (s : State) : (keyLoad s).1 < 10 := by
  unfold keyLoad
  cases secBlob s with
  | none => dsimp only; decide
  | some x =>
    dsimp only
    generalize (if x.2 = true then unwrapKey x.1 s else none) = key
    cases key <;> dsimp only <;> split_ifs <;> dsimp only <;> decide

theorem code_keyClear (arg : Nat) (s : State) : (keyClear arg s).1 < 10 := by
  unfold keyClear
  dsimp only
  split_ifs <;> dsimp only <;> decide

theorem code_svnAdvance (s : State) : (svnAdvance s).1 < 10 := by
  unfold svnAdvance
  dsimp only
  split_ifs <;> dsimp only <;> decide

theorem code_imageOpened (P C S : Nat) (key : BitVec 256) (hdr : List Byte) (a r dst len chunks : Nat) (s : State) :
    (imageOpened P C S key hdr a r dst len chunks s).1 < 10 := by
  unfold imageOpened
  dsimp only
  split_ifs <;> dsimp only <;> decide

theorem code_imageEnd (q : Option (BitVec 256)) (hdr : List Byte) (a r b len chunks : Nat) (s u : State) :
    (match q with
      | none => (scNoKey, s)
      | some key =>
        match chunksAt 4096 1048576 1052672 key (bnum hdr 8 8) (List.take 128 hdr) a b len chunks 0 u with
        | (ok, s) =>
          if (!ok) = true then (scAuth, invalidate r s)
          else if ((digestRange b len s).toNat != bnum hdr 24 48) = true then (scDigest, invalidate r s)
          else (scOk, bump64 (SEC_CNT 2) len (sealRegion r s))).1 < 10 := by
  cases q with
  | none => dsimp only; decide
  | some key => exact code_imageOpened 4096 1048576 1052672 key hdr a r b len chunks u

theorem code_unsealImage (arg : Nat) (s : State) : (unsealImage arg s).1 < 10 := by
  unfold unsealImage
  rw [unsealChunks_eq]
  dsimp -iota -proj only
  generalize (bnum _ 16 8 + 1048575) / 1048576 = chunks
  generalize (!(region (arg / 2 ^ 16 % 256) s).valid || _ || _ || _) = badSource
  generalize (!stapleOk _ s || _ || _ || _ || _) = badHeader
  generalize (!(region (arg / 2 ^ 8 % 256) s).valid || _ || _ || _ || _) = badTarget
  cases badSource
  case true => exact (by decide : scRegion < 10)
  cases badHeader
  case true => exact (by decide : scFormat < 10)
  cases badTarget
  case true => exact (by decide : scRegion < 10)
  iterate 3 rw [if_neg Bool.false_ne_true]
  exact code_imageEnd (find? s.sec.modelKeys (arg % 64)) _ _ _ _ _ chunks s _

/-! ### The mailbox -/

/-- The fields that the end of a command writes. -/
def secEndFlds (n : Nat) : List (FRef × Nat) :=
  [(SEC_CMD_STATUS_BUSY, 0), (SEC_CMD_STATUS_CODE, n), (SEC_CMD_START, 0), (TOP_IRQ_STATUS_SEC_CMD, 1)]

/-- A command of the mailbox ends: its result and, unless it is OK, its error. -/
def secEnd (e : Option FRef) (r : Nat × State) : State :=
  setFlds (secEndFlds r.1)
    (match e with
    | some f => if r.1 = scOk then r.2 else setErr f r.2
    | none => r.2)

theorem runSec_slotWrite {v : W64} (h : fldOf SEC_CMD_OP v = 1) (s : State) :
    runSec v s = secEnd (some SEC_ERR_SLOT) (slotWrite s) := by
  unfold runSec; rw [if_pos h]; rfl

theorem runSec_keyLoad {v : W64} (h : fldOf SEC_CMD_OP v = 2) (s : State) :
    runSec v s = secEnd (some SEC_ERR_UNWRAP) (keyLoad s) := by
  unfold runSec; rw [if_neg (by rw [h]; decide), if_pos h]; rfl

theorem runSec_keyClear {v : W64} (h : fldOf SEC_CMD_OP v = 3) (s : State) :
    runSec v s = secEnd none (keyClear (fldOf SEC_CMD_ARG v) s) := by
  unfold runSec; rw [if_neg (by rw [h]; decide), if_neg (by rw [h]; decide), if_pos h]; rfl

theorem runSec_unsealImage {v : W64} (h : fldOf SEC_CMD_OP v = 4) (s : State) :
    runSec v s = secEnd (some SEC_ERR_UNSEAL) (unsealImage (fldOf SEC_CMD_ARG v) s) := by
  unfold runSec; rw [if_neg (by rw [h]; decide), if_neg (by rw [h]; decide), if_neg (by rw [h]; decide), if_pos h]; rfl

theorem runSec_svnAdvance {v : W64} (h : fldOf SEC_CMD_OP v = 5) (s : State) :
    runSec v s = secEnd none (svnAdvance s) := by
  unfold runSec
  rw [if_neg (by rw [h]; decide), if_neg (by rw [h]; decide), if_neg (by rw [h]; decide), if_neg (by rw [h]; decide), if_pos h]; rfl

theorem secEndFlds_apart (n : Nat) : (secEndFlds n).Pairwise fun p q => q.1.Apart p.1 := by
  simp [secEndFlds, FRef.Apart, SEC_CMD_STATUS_BUSY, SEC_CMD_STATUS_CODE, SEC_CMD_START, TOP_IRQ_STATUS_SEC_CMD,
    SEC_CMD_STATUS, SEC_CMD, TOP_IRQ_STATUS]

/-- The state that a command's end starts from: with the error set that a bad code calls for. -/
theorem secEnd_cases (e : Option FRef) (r : Nat × State) :
    ∃ u, secEnd e r = setFlds (secEndFlds r.1) u ∧ (u = r.2 ∨ ∃ f ∈ e, u = setErr f r.2) ∧
      (r.1 ≠ scOk → ∀ f ∈ e, u = setErr f r.2) := by
  unfold secEnd
  cases e with
  | none => exact ⟨_, rfl, .inl rfl, fun _ f hf => by cases hf⟩
  | some f =>
    by_cases h : r.1 = scOk
    · exact ⟨_, rfl, .inl (if_pos h), fun hn => absurd h hn⟩
    · refine ⟨_, rfl, .inr ⟨f, rfl, if_neg h⟩, fun _ g hg => ?_⟩
      cases hg
      exact if_neg h

/-- What a command's end leaves. -/
theorem secEnd_spec {e : Option FRef} (he : ∀ f ∈ e, f.off = SEC_ERR ∧ f.hi < 64 ∧ f.lo = f.hi) {r : Nat × State} (hr : r.1 < 10) :
    let t := secEnd e r
    bit SEC_CMD_STATUS_BUSY t = false ∧ fld SEC_CMD_STATUS_CODE t = r.1 ∧ bit TOP_IRQ_STATUS_SEC_CMD t = true ∧
      t.sec = r.2.sec ∧ t.fuse = r.2.fuse ∧ t.digests = r.2.digests ∧ SameMem r.2 t ∧
      (r.1 ≠ scOk → ∀ f ∈ e, bit f t = true) := by
  obtain ⟨u, ht, hu, hbad⟩ := secEnd_cases e r
  have hfld : ∀ f x, (f, x) ∈ secEndFlds r.1 → f.hi < 64 → fld f (secEnd e r) = x % 2 ^ (f.hi + 1 - f.lo) := by
    intro f x h hf
    rw [ht]
    exact fld_setFlds_of_mem (secEndFlds_apart _) hf h _
  have hkeep : u.sec = r.2.sec ∧ u.fuse = r.2.fuse ∧ u.digests = r.2.digests ∧ SameMem r.2 u := by
    rcases hu with rfl | ⟨f, -, rfl⟩
    · exact ⟨rfl, rfl, rfl, fun _ => ⟨rfl, rfl⟩⟩
    · exact ⟨rfl, rfl, rfl, fun _ => ⟨rfl, rfl⟩⟩
  obtain ⟨hsec, hfuse, hdigests, hmem⟩ := hkeep
  refine ⟨?_, ?_, ?_, ?_, ?_, ?_, ?_, fun hn f hf => ?_⟩
  · unfold bit; rw [hfld SEC_CMD_STATUS_BUSY 0 (by simp [secEndFlds]) (by decide)]; rfl
  · rw [hfld SEC_CMD_STATUS_CODE r.1 (by simp [secEndFlds]) (by decide)]
    exact Nat.mod_eq_of_lt (hr.trans (by decide))
  · unfold bit; rw [hfld TOP_IRQ_STATUS_SEC_CMD 1 (by simp [secEndFlds]) (by decide)]; rfl
  · rw [ht, setFlds_sec, hsec]
  · rw [ht, setFlds_fuse, hfuse]
  · rw [ht, setFlds_digests, hdigests]
  · rw [ht]
    exact sameMem_trans hmem ((regEffect_setFlds _).regsOnly u).2.1
  · obtain ⟨hoff, hhi, hlo⟩ := he f hf
    unfold bit
    rw [ht, fld_setFlds_apart hhi, hbad hn f hf, setErr, fld_setFld_same f 1 _ hhi, hlo]
    · simp
    · intro p hp
      refine .inl ?_
      rw [hoff]
      simp only [secEndFlds, List.mem_cons, List.not_mem_nil, or_false] at hp
      rcases hp with rfl | rfl | rfl | rfl
      · exact (by decide : SEC_CMD_STATUS ≠ SEC_ERR)
      · exact (by decide : SEC_CMD_STATUS ≠ SEC_ERR)
      · exact (by decide : SEC_CMD ≠ SEC_ERR)
      · exact (by decide : TOP_IRQ_STATUS ≠ SEC_ERR)

theorem written_notes_congr (o : Nat) (v : W64) (s t : State) : (written o v s).2 = (written o v t).2 := by
  unfold written
  cases regDesc o with
  | none => rfl
  | some d =>
    dsimp only
    rw [applyFields_eq, applyFields_eq, Bool.eq_iff_iff, writeFields_notes, writeFields_notes]

theorem regHold_SEC_CMD : regHold SEC_CMD = some (SEC_CMD, false) := by decide +kernel

theorem regWrite_SEC_CMD (v : W64) (s : State) : regWrite true SEC_CMD v s = secCmdWrite v s := rfl

section
variable {v : W64} {s : State} (hstart : wbit v 31 = true)
include hstart

theorem secCmdWrite_busy (hb : bit SEC_CMD_STATUS_BUSY s = true) (hw : (written SEC_CMD v s).2 = false) :
    secCmdWrite v s = s := by
  unfold secCmdWrite discarded rsvEnc
  rw [hstart, hb, hw]
  rfl

theorem secCmdWrite_started (hb : bit SEC_CMD_STATUS_BUSY s = false) (hw : (written SEC_CMD v s).2 = false) :
    let u := wr SEC_CMD (written SEC_CMD v s).1 s
    secCmdWrite v s = if bit WV_LOAD_STATUS_BUSY s then
        setFlds [(SEC_CMD_START, 1), (SEC_CMD_STATUS_BUSY, 1)] (modSec (fun x => { x with waiting := some (v.setWidth 32) }) u)
      else runSec v u := by
  intro u
  have hload : bit WV_LOAD_STATUS_BUSY u = bit WV_LOAD_STATUS_BUSY s := by
    unfold bit fld; rw [rd_wr_other (by decide)]
  unfold secCmdWrite
  rw [hstart, hb, store_of_not_noted hw]
  change (if false = true then _ else if false = true then _ else if (written SEC_CMD v u).2 = true then _ else
    if bit WV_LOAD_STATUS_BUSY u = true then _ else _) = _
  rw [written_notes_congr SEC_CMD v u s, hw, hload]
  rfl

end

/-- A command of the mailbox whose function is `F`, with `e` for its error. -/
theorem gives_mailbox {c : Instr} {v : W32} {s : State} {F : State → Nat × State} {e : Option FRef} (ha : Answers SEC_CMD s)
    (hw : (written SEC_CMD (v.setWidth 64) s).2 = false) (hv : v.getLsbD 31 = true) (hc : exec c s = write32 SEC_CMD v s)
    (hrun : ∀ u, runSec (v.setWidth 64) u = secEnd e (F u)) (hF : CodeBlind F) (hcode : ∀ u, (F u).1 < 10)
    (he : ∀ f ∈ e, f.off = SEC_ERR ∧ f.hi < 64 ∧ f.lo = f.hi) :
    let r := F (wr SEC_CMD (written SEC_CMD (v.setWidth 64) s).1 s)
    Gives c s fun t =>
      (bit SEC_CMD_STATUS_BUSY s = false → bit WV_LOAD_STATUS_BUSY s = false →
        bit SEC_CMD_STATUS_BUSY t = false ∧ fld SEC_CMD_STATUS_CODE t = r.1 ∧ bit TOP_IRQ_STATUS_SEC_CMD t = true ∧
        t.sec = r.2.sec ∧ t.fuse = r.2.fuse ∧ t.digests = r.2.digests ∧ SameMem r.2 t ∧
        (r.1 ≠ scOk → ∀ f ∈ e, bit f t = true)) ∧
      (bit SEC_CMD_STATUS_BUSY s = true → RegsOnly [] s t) ∧
      (bit SEC_CMD_STATUS_BUSY s = false → bit WV_LOAD_STATUS_BUSY s = true →
        bit SEC_CMD_STATUS_BUSY t = true ∧ t.sec = { s.sec with waiting := some v } ∧
          RegsOnly [SEC_CMD, SEC_CMD_STATUS] { s with sec := t.sec } t) := by
  intro r
  have hstart : wbit (v.setWidth 64) 31 = true := (wbit_setWidth v 31).trans hv
  have hw' : (written SEC_CMD (v.setWidth 64) (accessed SEC_CMD s)).2 = false := hw
  refine gives_write32 ha regHold_SEC_CMD hc ⟨fun hb hl => ?_, fun hb => ?_, fun hb hl => ?_⟩
  · have hend : regWrite true SEC_CMD (v.setWidth 64) (accessed SEC_CMD s) = secEnd e (Prod.map id (accessed SEC_CMD) r) := by
      rw [regWrite_SEC_CMD, secCmdWrite_started (s := accessed SEC_CMD s) hstart hb hw', bit_accessed, hl, if_neg Bool.false_ne_true, hrun]
      exact congrArg (secEnd e) (hF SEC_CMD (wr SEC_CMD (written SEC_CMD (v.setWidth 64) s).1 s))
    have hspec := secEnd_spec he (r := Prod.map id (accessed SEC_CMD) r) (hcode _)
    rw [← hend] at hspec
    obtain ⟨h1, h2, h3, h4, h5, h6, h7, h8⟩ := hspec
    refine ⟨?_, ?_, ?_, ?_, ?_, ?_, ?_, ?_⟩
    · rw [bit_after]; exact h1
    · rw [fld_after]; exact h2
    · rw [bit_after]; exact h3
    · rw [after_sec]; exact h4
    · rw [after_fuse]; exact h5
    · rw [after_digests]; exact h6
    · intro a; rw [rdByte_after, metaAt_after]; exact h7 a
    · intro hn f hf; rw [bit_after]; exact h8 hn f hf
  · have hsame : regWrite true SEC_CMD (v.setWidth 64) (accessed SEC_CMD s) = accessed SEC_CMD s :=
      secCmdWrite_busy (s := accessed SEC_CMD s) hstart hb hw'
    refine regsOnly_after ?_
    change RegsOnly [] s (regWrite true SEC_CMD (v.setWidth 64) (accessed SEC_CMD s))
    rw [hsame]
    exact (regEffect_accessed [] SEC_CMD).regsOnly s
  · have hwait : regWrite true SEC_CMD (v.setWidth 64) (accessed SEC_CMD s) =
        setFlds [(SEC_CMD_START, 1), (SEC_CMD_STATUS_BUSY, 1)] (modSec (fun x => { x with waiting := some v })
          (wr SEC_CMD (written SEC_CMD (v.setWidth 64) s).1 (accessed SEC_CMD s))) := by
      rw [regWrite_SEC_CMD, secCmdWrite_started (s := accessed SEC_CMD s) hstart hb hw', bit_accessed, hl, if_pos rfl,
        BitVec.setWidth_setWidth_of_le _ (by decide), BitVec.setWidth_eq]
      rfl
    refine ⟨?_, ?_, ?_⟩
    · rw [bit_after]
      refine (congrArg (bit SEC_CMD_STATUS_BUSY) hwait).trans ?_
      exact bit_setFld_one (by decide) rfl _
    · rw [after_sec]
      exact (congrArg State.sec hwait).trans (setFlds_sec _ _)
    · refine regsOnly_after_of rfl ?_
      rw [after_sec]
      change RegsOnly _ { s with sec := (regWrite true SEC_CMD (v.setWidth 64) (accessed SEC_CMD s)).sec }
        (regWrite true SEC_CMD (v.setWidth 64) (accessed SEC_CMD s))
      rw [hwait, setFlds_sec]
      exact (((regEffect_accessed _ SEC_CMD).comp ((regEffect_wr SEC_CMD _).mono (by simp))).comp
        ((regEffect_setFlds [(SEC_CMD_START, 1), (SEC_CMD_STATUS_BUSY, 1)]).mono (by simp [SEC_CMD_START, SEC_CMD_STATUS_BUSY])))
        |>.regsOnly { s with sec := { s.sec with waiting := some v } }

theorem securityMailbox_holds : securityMailbox := by
  intro v s ha hw s0 arg x hx hstart
  simp only [List.mem_cons, List.not_mem_nil, or_false] at hx
  rcases hx with rfl | rfl | rfl | rfl | rfl <;> obtain ⟨hv, hop⟩ := hstart
  · exact gives_mailbox ha hw hv rfl (runSec_slotWrite hop) codeBlind_slotWrite code_slotWrite
      (by simp [SEC_ERR_SLOT])
  · exact gives_mailbox ha hw hv rfl (runSec_keyLoad hop) codeBlind_keyLoad code_keyLoad (by simp [SEC_ERR_UNWRAP])
  · exact gives_mailbox ha hw hv rfl (runSec_keyClear hop) (codeBlind_keyClear _) (code_keyClear _) (by simp)
  · exact gives_mailbox ha hw hv rfl (runSec_unsealImage hop) (codeBlind_unsealImage _) (code_unsealImage _)
      (by simp [SEC_ERR_UNSEAL])
  · exact gives_mailbox ha hw hv rfl (runSec_svnAdvance hop) codeBlind_svnAdvance code_svnAdvance (by simp)

/-! ### Keys and the fused minimum -/

/-- KEY_CLEAR of a use and an index. -/
def clearKey (use ix : Nat) (s : State) : Nat × State :=
  if !(use == 1 || use == 2) || (use == 1 && ix ≥ 64) then (scFormat, s)
  else if use = 2 && tenantBusy ix s then (scBusy, s)
  else (scOk, modSec (fun x =>
    if use = 1 then { x with modelKeys := del x.modelKeys ix } else { x with tenantKeys := del x.tenantKeys ix }) s)

theorem keyClear_eq (arg : Nat) (s : State) : keyClear arg s = clearKey (arg / 2 ^ 12 % 4) (arg % 2 ^ 12) s := rfl

theorem clearKey_spec (use ix : Nat) (s : State) : let r := clearKey use ix s
    (use = 1 → ix < 64 → r.1 = scOk ∧ find? r.2.sec.modelKeys ix = none ∧ r.2.sec.tenantKeys = s.sec.tenantKeys) ∧
    (use = 2 → tenantBusy ix s = false → r.1 = scOk ∧ find? r.2.sec.tenantKeys ix = none) ∧
    (use = 2 → tenantBusy ix s = true → r = (scBusy, s)) ∧ (use ≠ 1 → use ≠ 2 → r = (scFormat, s)) := by
  refine ⟨fun hu hi => ?_, fun hu hb => ?_, fun hu hb => ?_, fun h1 h2 => ?_⟩
  · subst hu
    have hr : clearKey 1 ix s = (scOk, modSec (fun x => { x with modelKeys := del x.modelKeys ix }) s) := by
      unfold clearKey; rw [if_neg (by simpa using hi), if_neg (by simp)]; rfl
    rw [hr]
    exact ⟨rfl, find?_del_same _ _, rfl⟩
  · subst hu
    have hr : clearKey 2 ix s = (scOk, modSec (fun x => { x with tenantKeys := del x.tenantKeys ix }) s) := by
      unfold clearKey; rw [if_neg (by simp), if_neg (by simp [hb])]; rfl
    rw [hr]
    exact ⟨rfl, find?_del_same _ _⟩
  · subst hu
    unfold clearKey
    rw [if_neg (by simp), if_pos (by simp [hb])]
  · unfold clearKey
    rw [if_pos (by simp [h1, h2])]

/-- The fields of a key blob that no blob may have. -/
def keyBadFormat (b : List Byte) : Bool :=
  bnum b 0 4 != 0x4B574B51 || !(bnum b 4 1 == 1 || bnum b 4 1 == 2) || bnum b 6 2 ≥ (if bnum b 4 1 = 1 then 64 else 4096) ||
    !allZero (bslice b 5 1) || !allZero (bslice b 0x71 15) || !allZero (bslice b 0xB0 80)

/-- The security state with a key in a slot. -/
def withKey (use ix : Nat) (k : BitVec 256) (x : Sec) : Sec :=
  if use = 1 then { x with modelKeys := ins x.modelKeys ix k } else { x with tenantKeys := ins x.tenantKeys ix k }

theorem keyLoad_of_target {s : State} {b : List Byte} {ok : Bool} (h : secBlob s = some (b, ok)) (hf : keyBadFormat b = false)
    (ht : bnum b 8 8 ≠ s.fuse.identity.toNat) : keyLoad s = (scTarget, s) := by
  unfold keyBadFormat at hf
  unfold keyLoad
  rw [h]
  dsimp only
  rw [if_neg (by rw [hf]; exact Bool.false_ne_true), if_pos (bne_iff_ne.mpr ht)]

theorem keyLoad_of_key {s : State} {b : List Byte} {k : BitVec 256} (h : secBlob s = some (b, true)) (hf : keyBadFormat b = false)
    (ht : bnum b 8 8 = s.fuse.identity.toNat) (hk : unwrapKey b s = some k) :
    keyLoad s = if bnum b 4 1 = 2 && tenantBusy (bnum b 6 2) s then (scBusy, s)
      else (scOk, bump64 (SEC_CNT 1) 1 (modSec (withKey (bnum b 4 1) (bnum b 6 2) k) s)) := by
  unfold keyBadFormat at hf
  unfold keyLoad
  rw [h]
  dsimp only
  rw [if_neg (by rw [hf]; exact Bool.false_ne_true), if_neg (by simp [ht]), if_pos rfl, hk]
  rfl

theorem keyBadFormat_false {b : List Byte} (hmagic : bnum b 0 4 = 0x4B574B51) (h5 : allZero (bslice b 5 1) = true)
    (h71 : allZero (bslice b 0x71 15) = true) (hB0 : allZero (bslice b 0xB0 80) = true)
    (hu : bnum b 4 1 = 1 ∧ bnum b 6 2 < 64 ∨ bnum b 4 1 = 2 ∧ bnum b 6 2 < 4096) : keyBadFormat b = false := by
  unfold keyBadFormat
  rw [hmagic, h5, h71, hB0]
  rcases hu with ⟨hu, hi⟩ | ⟨hu, hi⟩ <;> simp [hu, hi]

theorem modelKey_loaded {s : State} {b : List Byte} {k : BitVec 256} (h : secBlob s = some (b, true)) (hf : keyBadFormat b = false)
    (ht : bnum b 8 8 = s.fuse.identity.toNat) (hk : unwrapKey b s = some k) (hu : bnum b 4 1 = 1) :
    (keyLoad s).1 = scOk ∧ find? (keyLoad s).2.sec.modelKeys (bnum b 6 2) = some k ∧
      (keyLoad s).2.sec.tenantKeys = s.sec.tenantKeys := by
  rw [keyLoad_of_key h hf ht hk, if_neg (by simp [hu]), hu]
  exact ⟨rfl, find?_ins_same _ _ _, rfl⟩

theorem tenantKey_loaded {s : State} {b : List Byte} {k : BitVec 256} (h : secBlob s = some (b, true)) (hf : keyBadFormat b = false)
    (ht : bnum b 8 8 = s.fuse.identity.toNat) (hk : unwrapKey b s = some k) (hu : bnum b 4 1 = 2)
    (hb : tenantBusy (bnum b 6 2) s = false) :
    (keyLoad s).1 = scOk ∧ find? (keyLoad s).2.sec.tenantKeys (bnum b 6 2) = some k ∧
      (keyLoad s).2.sec.modelKeys = s.sec.modelKeys := by
  rw [keyLoad_of_key h hf ht hk, if_neg (by simp [hb]), hu]
  exact ⟨rfl, find?_ins_same _ _ _, rfl⟩

theorem svnAdvance_spec (s : State) :
    (fld SEC_SVN_FW s ≤ s.fuse.minSvn.toNat → svnAdvance s = (scOk, s)) ∧
    (s.fuse.minSvn.toNat < fld SEC_SVN_FW s → s.fuse.advances = 0 → svnAdvance s = (scFuses, s)) ∧
    (s.fuse.minSvn.toNat < fld SEC_SVN_FW s → s.fuse.advances ≠ 0 → (svnAdvance s).1 = scOk ∧
      (svnAdvance s).2.fuse.minSvn.toNat = fld SEC_SVN_FW s ∧ (svnAdvance s).2.fuse.advances = s.fuse.advances - 1) := by
  have hfw : (BitVec.ofNat 16 (fld SEC_SVN_FW s)).toNat = fld SEC_SVN_FW s := by
    rw [BitVec.toNat_ofNat]
    exact Nat.mod_eq_of_lt (fldOf_lt SEC_SVN_FW _)
  unfold svnAdvance
  dsimp only
  rw [hfw]
  refine ⟨fun h => if_pos h, fun h ha => ?_, fun h ha => ?_⟩
  · rw [if_neg (Nat.not_le.mpr h), if_pos ha]
  · rw [if_neg (Nat.not_le.mpr h), if_neg ha]
    exact ⟨rfl, hfw, rfl⟩

theorem keysAndSvn_holds : keysAndSvn := by
  refine ⟨fun arg s => clearKey_spec (arg / 2 ^ 12 % 4) (arg % 2 ^ 12) s, fun s b ok hblob ht hmagic hu hi h5 h71 hB0 => ?_,
    fun s b k hblob ht hmagic h5 h71 hB0 hk => ⟨fun hu hi => ?_, fun hu hi hb => ?_, fun hu hi hb => ?_⟩, fun s hblob => ?_,
    svnAdvance_spec⟩
  · exact keyLoad_of_target hblob (keyBadFormat_false hmagic h5 h71 hB0 (.inl ⟨hu, hi⟩)) ht
  · exact modelKey_loaded hblob (keyBadFormat_false hmagic h5 h71 hB0 (.inl ⟨hu, hi⟩)) ht hk hu
  · exact tenantKey_loaded hblob (keyBadFormat_false hmagic h5 h71 hB0 (.inr ⟨hu, hi⟩)) ht hk hu hb
  · rw [keyLoad_of_key hblob (keyBadFormat_false hmagic h5 h71 hB0 (.inr ⟨hu, hi⟩)) ht hk, if_pos (by simp [hu, hb])]
  · constructor
    · unfold slotWrite; rw [hblob]
    · unfold keyLoad; rw [hblob]

/-- Settles O25: the mailbox runs a started command to its end, and each command does what its rule says of keys and fuses. -/
theorem securityCommands : Obligations.SecurityCommands := ⟨securityMailbox_holds, keysAndSvn_holds⟩

end Sys2Proof.Machine
end

section
/-! PROOFS. The thermal limit and trip, the governor's operating points and droop alarms (R390, R391, R397). -/

namespace Sys2Proof.Machine

open Sys2Proof.Safety

@[simp] theorem after_boot (f : State → State) (s : State) : (after f s).boot = (f s).boot := by
  obtain ⟨m, l, h⟩ := irqSettle_cases s (f s)
  unfold after tidy; rw [h]

@[simp] theorem after_pins (f : State → State) (s : State) : (after f s).pins = (f s).pins := by
  obtain ⟨m, l, h⟩ := irqSettle_cases s (f s)
  unfold after tidy; rw [h]

@[simp] theorem after_pwr (f : State → State) (s : State) : (after f s).pwr = (f s).pwr := by
  obtain ⟨m, l, h⟩ := irqSettle_cases s (f s)
  unfold after tidy; rw [h]

@[simp] theorem after_skeins (f : State → State) (s : State) : (after f s).skeins = (f s).skeins := by
  obtain ⟨m, l, h⟩ := irqSettle_cases s (f s)
  unfold after tidy; rw [h]

/-! ### Power off -/

theorem lookup_filter_keys {α : Type} (p : Nat → Bool) (d : α) (k : Nat) (m : List (Nat × α)) :
    lookup (m.filter fun e => p e.1) d k = if p k then lookup m d k else d := by
  induction m with
  | nil => simp [lookup]
  | cons e m ih =>
    obtain ⟨j, v⟩ := e
    by_cases hj : j = k
    · subst hj
      cases hp : p j <;> simp [lookup, hp, ih]
    · cases hp : p j <;> simp [lookup, hp, ih, hj]

/-- Only the cairn bank keeps its registers (R427, R452). -/
theorem rd_powerOff (o : Nat) (s : State) : rd o (powerOff s) = if isCairn o then rd o s else rstVal o :=
  lookup_filter_keys isCairn (rstVal o) o s.regs

/-! ### Effects on registers and the governor's own state -/

/-- An effect on the listed registers and on the governor's own state only. -/
def PwrEffect (l : List Nat) (f : State → State) : Prop := ∀ s, RegsOnly l { s with pwr := (f s).pwr } (f s)

theorem RegEffect.pwr {l : List Nat} {f : State → State} (h : RegEffect l f) : PwrEffect l f := fun s => by
  obtain ⟨⟨r, a, d, e⟩, -⟩ := h s
  have hp : (f s).pwr = s.pwr := by rw [e]
  rw [hp]
  exact h.regsOnly s

theorem pwrEffect_modPwr (l : List Nat) (f : Pwr → Pwr) : PwrEffect l (modPwr f) :=
  fun _ => ⟨rfl, fun _ => ⟨rfl, rfl⟩, fun _ => rfl, fun _ _ => rfl⟩

theorem regsOnly_setPwr {l : List Nat} {s t : State} (p : Pwr) (h : RegsOnly l s t) :
    RegsOnly l { s with pwr := p } { t with pwr := p } := by
  obtain ⟨hrest, hmem, hwear, hregs⟩ := h
  exact ⟨congrArg (fun x : State => { x with pwr := p }) hrest, hmem, hwear, hregs⟩

theorem PwrEffect.comp {l : List Nat} {f g : State → State} (hf : PwrEffect l f) (hg : PwrEffect l g) :
    PwrEffect l fun s => g (f s) := fun s =>
  have h : RegsOnly l { s with pwr := (g (f s)).pwr } { f s with pwr := (g (f s)).pwr } :=
    regsOnly_setPwr (s := { s with pwr := (f s).pwr }) (g (f s)).pwr (hf s)
  regsOnly_trans h (hg (f s))

theorem PwrEffect.ite {l : List Nat} {f g : State → State} (p : State → Prop) [∀ s, Decidable (p s)] (hf : PwrEffect l f)
    (hg : PwrEffect l g) : PwrEffect l fun s => if p s then f s else g s := by
  intro s
  by_cases h : p s
  · simp only [h, if_true]; exact hf s
  · simp only [h, if_false]; exact hg s

theorem PwrEffect.after {l : List Nat} {f : State → State} (h : PwrEffect l f) (s : State) :
    RegsOnly l { s with pwr := (after f s).pwr } (after f s) := by
  rw [after_pwr]
  exact regsOnly_after_of rfl (h s)

/-! ### A thermal sample (R397) -/

/-- Sensor group `k` reports `v`. -/
def reportTemp (k : Nat) (v : Int) (s : State) : State :=
  setFlds [(PWR_TEMP_VALID k, 1), (PWR_TEMP_DEG k, (v % 65536).toNat)] s

/-- Every sensor group is reported. -/
def reportTemps (x : ThermIn) (s : State) : State :=
  reportTemp 0 x.die0 (reportTemp 1 x.die1 (reportTemp 2 x.harbour (reportTemp 3 x.base
    (reportTemp 4 x.inlet (reportTemp 5 x.outlet s)))))

/-- The hottest junction. -/
def junction (x : ThermIn) : Int := max x.die0 (max x.die1 x.harbour)

/-- The hottest sensor. -/
def hottestOf (x : ThermIn) : Int := max (junction x) (max x.base (max x.inlet x.outlet))

/-- The thresholds of a sample act on the throttle. -/
def throttled (x : ThermIn) (s : State) : State :=
  let thr : Int := s.pwr.throttleC * 16
  let athr : Int := s.pwr.atollC * 16
  throttle (junction x ≥ thr) (x.base ≥ athr) (junction x < thr - 48) (x.base < athr - 48)
    (modPwr (fun p => { p with hottest := junction x, doubleRefresh := x.base > 85 * 16 }) s)

/-- A junction at its limit forces 63 bubbles and the lowest point. -/
def junctionLimit (x : ThermIn) (s : State) : State :=
  if junction x ≥ 105 * 16 then setErr PWR_ERR_THERM_LIMIT (modPwr (fun p => { p with thermB := 63, allowed := 0 }) s)
  else modPwr (fun p => { p with thermB := 0 }) s

/-- A coolant inlet that is too warm. -/
def coolantLimit (x : ThermIn) (s : State) : State := if x.inlet > 45 * 16 then setErr PWR_ERR_COOLANT s else s

/-- Throttle and bubbles, as PWR_STATUS shows them. -/
def showThermal (s : State) : State :=
  setFlds [(PWR_STATUS_THROTTLE, (s.pwr.throttling || s.pwr.throttlingBase || s.pwr.thermB != 0).toNat), (PWR_STATUS_BUBBLES, bubbles s)] s

theorem thermal_of_trip {x : ThermIn} (h : hottestOf x ≥ 115 * 16) (s : State) : thermal x s = thermalTrip s := if_pos h

theorem thermal_of_cool {x : ThermIn} (h : ¬hottestOf x ≥ 115 * 16) (s : State) :
    thermal x s = showThermal (coolantLimit x (junctionLimit x (throttled x (reportTemps x s)))) := by
  unfold hottestOf junction at h
  unfold thermal showThermal coolantLimit junctionLimit throttled reportTemps reportTemp junction
  dsimp only
  rw [if_neg h]

theorem RegEffect.then {l : List Nat} {f g h : State → State} (hf : RegEffect l f) (hg : RegEffect l g)
    (e : ∀ s, h s = g (f s)) : RegEffect l h := by
  rw [funext e]
  exact hf.comp hg

theorem regEffect_reportTemp (k : Nat) (v : Int) : RegEffect [PWR_TEMP k] (reportTemp k v) :=
  (regEffect_setFlds _).mono fun o ho => by
    simpa [PWR_TEMP_VALID, PWR_TEMP_DEG] using ho

theorem regEffect_reportTemps (x : ThermIn) : RegEffect ((List.range 6).map PWR_TEMP) (reportTemps x) := by
  have h (k : Nat) (hk : k < 6) (v : Int) : RegEffect ((List.range 6).map PWR_TEMP) (reportTemp k v) :=
    (regEffect_reportTemp k v).of_mem (List.mem_map_of_mem (List.mem_range.mpr hk))
  have h45 := (h 5 (by decide) x.outlet).comp (h 4 (by decide) x.inlet)
  have h23 := (h 3 (by decide) x.base).comp (h 2 (by decide) x.harbour)
  have h01 := (h 1 (by decide) x.die1).comp (h 0 (by decide) x.die0)
  exact (h45.comp h23).then h01 fun s => rfl

theorem throttle_spec (a b c d : Bool) (s : State) : ∃ f, throttle a b c d s = modPwr f s := by
  unfold throttle
  exact ⟨_, rfl⟩

theorem pwrEffect_throttle (a b c d : Bool) : PwrEffect [] (throttle a b c d) := fun s => by
  obtain ⟨f, hf⟩ := throttle_spec a b c d s
  rw [hf]
  exact pwrEffect_modPwr [] f s

theorem pwrEffect_throttled (x : ThermIn) : PwrEffect [] (throttled x) := fun s =>
  ((pwrEffect_modPwr [] _).comp (pwrEffect_throttle _ _ _ _)) s

theorem pwrEffect_junctionLimit (x : ThermIn) : PwrEffect [PWR_ERR] (junctionLimit x) :=
  PwrEffect.ite (fun _ => junction x ≥ 105 * 16)
    ((pwrEffect_modPwr _ _).comp (regEffect_setFld PWR_ERR_THERM_LIMIT 1).pwr) (pwrEffect_modPwr _ _)

theorem regEffect_coolantLimit (x : ThermIn) : RegEffect [PWR_ERR] (coolantLimit x) :=
  RegEffect.ite (fun _ => x.inlet > 45 * 16) (regEffect_setFld PWR_ERR_COOLANT 1) (regEffect_id _)

theorem regEffect_showThermal : RegEffect [PWR_STATUS] showThermal := fun s =>
  ((regEffect_setFlds _).mono fun o ho => by simpa [PWR_STATUS_THROTTLE, PWR_STATUS_BUBBLES] using ho) s

theorem PwrEffect.fld {l : List Nat} {f : State → State} (h : PwrEffect l f) {g : FRef} (hg : g.off ∉ l) (s : State) :
    fld g (f s) = fld g s := congrArg (fldOf g) ((h s).2.2.2 g.off hg)

theorem RegEffect.fld {l : List Nat} {f : State → State} (h : RegEffect l f) {g : FRef} (hg : g.off ∉ l) (s : State) :
    fld g (f s) = fld g s := congrArg (fldOf g) ((h s).2 g.off hg)

theorem RegEffect.pwr_eq {l : List Nat} {f : State → State} (h : RegEffect l f) (s : State) : (f s).pwr = s.pwr := by
  obtain ⟨⟨r, a, d, e⟩, -⟩ := h s
  rw [e]

/-- What a sample below the trip leads to. -/
def sampled (x : ThermIn) (s : State) : State :=
  showThermal (coolantLimit x (junctionLimit x (throttled x (reportTemps x s))))

theorem PwrEffect.mono {l m : List Nat} {f : State → State} (hf : PwrEffect l f) (h : l ⊆ m) : PwrEffect m f := fun s => by
  obtain ⟨hrest, hmem, hwear, hregs⟩ := hf s
  exact ⟨hrest, hmem, hwear, fun o ho => hregs o fun hl => ho (h hl)⟩

theorem pwrEffect_sampled (x : ThermIn) :
    PwrEffect ((List.range 6).map PWR_TEMP ++ [PWR_ERR, PWR_STATUS]) (sampled x) := by
  have hreport := (regEffect_reportTemps x).pwr.mono (List.subset_append_left _ [PWR_ERR, PWR_STATUS])
  have hthrottled := (pwrEffect_throttled x).mono (List.nil_subset ((List.range 6).map PWR_TEMP ++ [PWR_ERR, PWR_STATUS]))
  have herr : [PWR_ERR] ⊆ (List.range 6).map PWR_TEMP ++ [PWR_ERR, PWR_STATUS] := by simp
  have hstatus : [PWR_STATUS] ⊆ (List.range 6).map PWR_TEMP ++ [PWR_ERR, PWR_STATUS] := by simp
  exact (((hreport.comp hthrottled).comp ((pwrEffect_junctionLimit x).mono herr)).comp
    ((regEffect_coolantLimit x).pwr.mono herr)).comp (regEffect_showThermal.pwr.mono hstatus)

/-- The reports reach the end of the sample. -/
theorem fld_sampled {g : FRef} (h : g.off ≠ PWR_ERR) (h' : g.off ≠ PWR_STATUS) (x : ThermIn) (s : State) :
    fld g (sampled x s) = fld g (reportTemps x s) := by
  have herr : g.off ∉ [PWR_ERR] := by simpa using h
  unfold sampled
  rw [regEffect_showThermal.fld (by simpa using h'), (regEffect_coolantLimit x).fld herr,
    (pwrEffect_junctionLimit x).fld herr, (pwrEffect_throttled x).fld (by simp)]

theorem fld_reportTemp {k : Nat} (v : Int) (s : State) :
    fld (PWR_TEMP_DEG k) (reportTemp k v s) = (v % 65536).toNat ∧ fld (PWR_TEMP_VALID k) (reportTemp k v s) = 1 := by
  have hapart : [(PWR_TEMP_VALID k, 1), (PWR_TEMP_DEG k, (v % 65536).toNat)].Pairwise fun p q => q.1.Apart p.1 := by
    simp [FRef.Apart, PWR_TEMP_VALID, PWR_TEMP_DEG]
  unfold reportTemp
  constructor
  · rw [fld_setFlds_of_mem hapart (by decide : (15 : Nat) < 64) (by simp : (PWR_TEMP_DEG k, (v % 65536).toNat) ∈ _)]
    simp only [PWR_TEMP_DEG]
    omega
  · rw [fld_setFlds_of_mem hapart (by decide : (31 : Nat) < 64) (by simp : (PWR_TEMP_VALID k, 1) ∈ _)]
    simp [PWR_TEMP_VALID]

theorem fld_reportTemps_die0 (x : ThermIn) (s : State) :
    fld (PWR_TEMP_DEG 0) (reportTemps x s) = (x.die0 % 65536).toNat ∧ fld (PWR_TEMP_VALID 0) (reportTemps x s) = 1 :=
  fld_reportTemp x.die0 _

theorem fld_reportTemps_inlet (x : ThermIn) (s : State) : fld (PWR_TEMP_DEG 4) (reportTemps x s) = (x.inlet % 65536).toNat := by
  unfold reportTemps
  rw [(regEffect_reportTemp 0 _).fld (by decide), (regEffect_reportTemp 1 _).fld (by decide),
    (regEffect_reportTemp 2 _).fld (by decide), (regEffect_reportTemp 3 _).fld (by decide), (fld_reportTemp _ _).1]

theorem sampled_pwr (x : ThermIn) (s : State) :
    (sampled x s).pwr = (junctionLimit x (throttled x (reportTemps x s))).pwr := by
  unfold sampled
  rw [regEffect_showThermal.pwr_eq, (regEffect_coolantLimit x).pwr_eq]

theorem junctionLimit_hot {x : ThermIn} (h : junction x ≥ 105 * 16) (s : State) :
    bit PWR_ERR_THERM_LIMIT (junctionLimit x s) = true ∧ (junctionLimit x s).pwr.thermB = 63 ∧
      (junctionLimit x s).pwr.allowed = 0 := by
  unfold junctionLimit
  rw [if_pos h]
  exact ⟨bit_setErr (by decide) (by decide) _, rfl, rfl⟩

theorem junctionLimit_cool {x : ThermIn} (h : ¬junction x ≥ 105 * 16) (s : State) : (junctionLimit x s).pwr.thermB = 0 := by
  unfold junctionLimit
  rw [if_neg h]
  rfl

theorem bit_coolantLimit_other (x : ThermIn) (s : State) :
    bit PWR_ERR_THERM_LIMIT (coolantLimit x s) = bit PWR_ERR_THERM_LIMIT s := by
  have h : fld PWR_ERR_THERM_LIMIT (setErr PWR_ERR_COOLANT s) = fld PWR_ERR_THERM_LIMIT s :=
    fld_setFld_apart (by decide +revert) (by decide) 1 s
  unfold coolantLimit bit
  split
  · rw [h]
  · rfl

theorem bit_showThermal {f : FRef} (h : f.off = PWR_ERR) (s : State) : bit f (showThermal s) = bit f s := by
  unfold bit
  rw [regEffect_showThermal.fld (by rw [h]; decide)]

theorem execThermalSample_eq (x : ThermIn) (s : State) :
    exec (.thermalSample x) s = run (fun s => if s.boot.on then thermal x s else s) s := rfl

/-- Settles O23: a sample is the trip, or its steps one after the other, each on registers of its own. -/
theorem thermalSample : Obligations.ThermalSample := by
  unfold Obligations.ThermalSample
  intro x s hon
  by_cases htrip : hottestOf x ≥ 115 * 16
  · have he : (if s.boot.on then thermal x s else s) = thermalTrip s := by rw [if_pos hon, thermal_of_trip htrip]
    refine gives_run_to (execThermalSample_eq x s) he ⟨fun _ => ⟨?_, ?_, ?_, fun o => ?_⟩, fun h => absurd htrip h⟩
    · rw [after_boot]; rfl
    · rw [after_pins]; rfl
    · rw [after_boot]; rfl
    · rw [rd_after]; exact rd_powerOff o s
  · have he : (if s.boot.on then thermal x s else s) = sampled x s := by rw [if_pos hon, thermal_of_cool htrip]; rfl
    have hdie := fld_reportTemps_die0 x s
    refine gives_run_of (g := sampled x) (execThermalSample_eq x s) he ⟨fun h => absurd h htrip, fun _ => ⟨?_, ?_, ?_, ?_, ?_, ?_, ?_⟩⟩
    · rw [fld_after, fld_sampled (by decide) (by decide), hdie.1]
    · rw [bit_after, bit, fld_sampled (by decide) (by decide), hdie.2]; rfl
    · rw [fld_after, fld_sampled (by decide) (by decide), fld_reportTemps_inlet]
    · intro hot
      obtain ⟨hbit, hbubbles, hpoint⟩ := junctionLimit_hot (x := x) hot (throttled x (reportTemps x s))
      rw [bit_after, after_pwr, sampled_pwr]
      exact ⟨by unfold sampled; rw [bit_showThermal rfl, bit_coolantLimit_other, hbit], hbubbles, hpoint⟩
    · intro cool
      rw [after_pwr, sampled_pwr]
      exact junctionLimit_cool (fun h => by unfold junction at h; omega) _
    · intro warm
      rw [bit_after]
      unfold sampled
      rw [bit_showThermal rfl, coolantLimit, if_pos warm]
      exact bit_setErr (by decide) (by decide) _
    · exact (pwrEffect_sampled x).after s

end Sys2Proof.Machine
end

section
/-! PROOFS. The cold boot, power-down and rail failures (R428, R461, R462, R465, R466). -/

namespace Sys2Proof.Machine

open Sys2Proof.Safety

/-- A message of the effect reaches the state after the command. -/
theorem mem_sent_after {m : Sent} {f : State → State} {s : State} (h : m ∈ (f s).sent) : m ∈ (after f s).sent := by
  obtain ⟨x, l, hirq⟩ := irqSettle_sends s (f s)
  unfold after tidy
  rw [hirq]
  exact List.mem_append_left _ h

theorem sameRegs_of_powerOff {s : State} (o : Nat) (h : isCairn o = true) : rd o (powerOff s) = rd o s := by
  rw [rd_powerOff, if_pos h]

theorem fld_powerOff {f : FRef} (h : isCairn f.off = true) (s : State) : fld f (powerOff s) = fld f s :=
  congrArg (fldOf f) (sameRegs_of_powerOff f.off h)

/-! ### What a cold boot takes from the cairn bank -/

/-- Port `p` takes its role default. -/
def takeRole (p : Nat) (s : State) : State :=
  if portHere s p then
    setFlds [(GLD_PORT_ROLE_VALID p, fld (CRN_PORT_ROLE_VALID p) s), (GLD_PORT_ROLE_ROLE p, fld (CRN_PORT_ROLE_ROLE p) s)] s
  else s

/-- The host's cap takes its default, clamped. -/
def takeCap (s : State) : State :=
  setFld PWR_CAP_HOST_WATTS (min (fld CRN_CAP_DEFAULT_WATTS s) (partLimit s))
    (if fld CRN_CAP_DEFAULT_WATTS s > partLimit s then setErr PWR_ERR_CAP_CLAMP s else s)

theorem fromCairn_eq (s : State) : fromCairn s = takeCap ((List.range 7).foldl (fun s p => takeRole p s) s) := rfl

theorem regEffect_takeRole (p : Nat) : RegEffect [GLD_PORT_ROLE p] (takeRole p) :=
  RegEffect.ite (fun s => portHere s p = true)
    (fun s => ((regEffect_setFlds _).mono fun o ho => by simpa [GLD_PORT_ROLE_VALID, GLD_PORT_ROLE_ROLE] using ho) s)
    (regEffect_id _)

theorem regEffect_takeRoles (l : List Nat) : RegEffect (l.map GLD_PORT_ROLE) fun s => l.foldl (fun s p => takeRole p s) s :=
  RegEffect.foldl l fun p hp => (regEffect_takeRole p).of_mem (List.mem_map_of_mem hp)

theorem regEffect_takeCap : RegEffect [PWR_ERR, PWR_CAP_HOST] takeCap := by
  have herr : RegEffect [PWR_ERR, PWR_CAP_HOST] fun s => if fld CRN_CAP_DEFAULT_WATTS s > partLimit s then setErr PWR_ERR_CAP_CLAMP s else s :=
    RegEffect.ite (fun s => fld CRN_CAP_DEFAULT_WATTS s > partLimit s)
      ((regEffect_setFld PWR_ERR_CAP_CLAMP 1).of_mem (by decide)) (regEffect_id _)
  intro s
  exact (herr.comp ((regEffect_setFld PWR_CAP_HOST_WATTS (min (fld CRN_CAP_DEFAULT_WATTS s) (partLimit s))).of_mem (by decide))) s

theorem regEffect_fromCairn : RegEffect ((List.range 7).map GLD_PORT_ROLE ++ [PWR_ERR, PWR_CAP_HOST]) fromCairn :=
  ((regEffect_takeRoles _).mono (List.subset_append_left _ _)).then (regEffect_takeCap.mono (List.subset_append_right _ _))
    fromCairn_eq

theorem regEffect_unmatedLoss : RegEffect ((List.range 7).map GLD_PORT_STATUS) unmatedLoss :=
  RegEffect.foldl _ fun p hp => RegEffect.ite (fun s => (portHere s p && !s.pins.mated.getLsbD p) = true)
    ((regEffect_setFld (GLD_PORT_STATUS_CAUSE p) pcLoss).of_mem (List.mem_map_of_mem (f := GLD_PORT_STATUS) hp)) (regEffect_id _)

theorem RegEffect.fuse_eq {l : List Nat} {f : State → State} (h : RegEffect l f) (s : State) : (f s).fuse = s.fuse := by
  obtain ⟨⟨r, a, d, e⟩, -⟩ := h s
  rw [e]

theorem portHere_congr {s t : State} (h : t.fuse = s.fuse) (p : Nat) : portHere t p = portHere s p := by
  unfold portHere isS
  rw [h]

theorem partLimit_congr {s t : State} (h : t.fuse = s.fuse) : partLimit t = partLimit s := by
  unfold partLimit
  rw [h]

theorem fld_takeRole {p : Nat} {s : State} (h : portHere s p = true) :
    fld (GLD_PORT_ROLE_ROLE p) (takeRole p s) = fld (CRN_PORT_ROLE_ROLE p) s := by
  have hlt : fld (CRN_PORT_ROLE_ROLE p) s < 2 ^ 3 := fldOf_lt _ _
  rw [takeRole, if_pos h, fld_setFlds_of_mem (f := GLD_PORT_ROLE_ROLE p) (x := fld (CRN_PORT_ROLE_ROLE p) s)
    (by simp [FRef.Apart, GLD_PORT_ROLE_VALID, GLD_PORT_ROLE_ROLE]) (by decide : (2 : Nat) < 64) (by simp)]
  exact Nat.mod_eq_of_lt hlt

theorem GLD_PORT_ROLE_inj {p q : Nat} (h : GLD_PORT_ROLE p = GLD_PORT_ROLE q) : p = q := by
  unfold GLD_PORT_ROLE at h; omega

theorem CRN_PORT_ROLE_ne_GLD_PORT_ROLE {p : Nat} (hp : p < 7) (q : Nat) : CRN_PORT_ROLE p ≠ GLD_PORT_ROLE q := by
  unfold CRN_PORT_ROLE GLD_PORT_ROLE; omega

/-- Every port that is present ends with its own default. -/
theorem fld_takeRoles {p : Nat} (hp : p < 7) {l : List Nat} (hl : l.Nodup) (hmem : p ∈ l) {s : State} (h : portHere s p = true) :
    fld (GLD_PORT_ROLE_ROLE p) (l.foldl (fun s q => takeRole q s) s) = fld (CRN_PORT_ROLE_ROLE p) s := by
  induction l generalizing s with
  | nil => simp at hmem
  | cons q l ih =>
    obtain ⟨hq, hl⟩ := List.nodup_cons.mp hl
    have hkeep : fld (CRN_PORT_ROLE_ROLE p) (takeRole q s) = fld (CRN_PORT_ROLE_ROLE p) s :=
      (regEffect_takeRole q).fld (fun h => CRN_PORT_ROLE_ne_GLD_PORT_ROLE hp q (List.mem_singleton.mp h)) s
    rw [List.foldl_cons]
    by_cases hpq : p = q
    · subst hpq
      have hrest : GLD_PORT_ROLE p ∉ l.map GLD_PORT_ROLE := fun hin => by
        obtain ⟨r, hr, e⟩ := List.mem_map.mp hin
        exact hq (GLD_PORT_ROLE_inj e ▸ hr)
      rw [(regEffect_takeRoles l).fld hrest, fld_takeRole h]
    · have hhere : portHere (takeRole q s) p = true := (portHere_congr ((regEffect_takeRole q).fuse_eq s) p).trans h
      rw [ih hl (List.mem_of_ne_of_mem hpq hmem) hhere, hkeep]

theorem partLimit_lt (s : State) : partLimit s < 2 ^ 16 := by
  unfold partLimit
  split
  · decide
  · split <;> decide

theorem fld_takeCap (s : State) :
    fld PWR_CAP_HOST_WATTS (takeCap s) = min (fld CRN_CAP_DEFAULT_WATTS s) (partLimit s) := by
  rw [takeCap, fld_setFld_same _ _ _ (by decide)]
  exact Nat.mod_eq_of_lt (Nat.lt_of_le_of_lt (Nat.min_le_right _ _) (partLimit_lt s))

/-! ### A cold boot -/

/-- What a cold boot makes of the package without power. -/
def bootUp (s : State) : State := unmatedLoss (fromCairn (setFlds [(BRG_STATUS_STAGE, stPower), (BRG_STATUS_COLD, 1)] s))

/-- The package without power, with its rails on. -/
def poweredAnew (s : State) : State := modBoot (fun b => { b with on := true }) (powerOff s)

theorem coldBoot_eq (s : State) : coldBoot s = bootUp (poweredAnew s) := rfl

/-- The registers that a cold boot writes. -/
def coldRegs : List Nat :=
  (BRG_STATUS :: ((List.range 7).map GLD_PORT_ROLE ++ [PWR_ERR, PWR_CAP_HOST])) ++ (List.range 7).map GLD_PORT_STATUS

theorem regEffect_bootUp : RegEffect coldRegs bootUp := by
  have hstage : RegEffect coldRegs (setFlds [(BRG_STATUS_STAGE, stPower), (BRG_STATUS_COLD, 1)]) :=
    (regEffect_setFlds _).mono (by decide)
  have hcairn : RegEffect coldRegs fromCairn := regEffect_fromCairn.mono (by decide)
  exact (hstage.comp hcairn).then (regEffect_unmatedLoss.mono (List.subset_append_right _ _)) fun s => rfl

theorem coldRegs_not_cairn : ∀ o ∈ coldRegs, isCairn o = false := by decide

theorem fld_bootUp_status {f : FRef} (h : f.off = BRG_STATUS) (s : State) :
    fld f (bootUp s) = fld f (setFlds [(BRG_STATUS_STAGE, stPower), (BRG_STATUS_COLD, 1)] s) := by
  unfold bootUp
  rw [regEffect_unmatedLoss.fld (by rw [h]; decide), regEffect_fromCairn.fld (by rw [h]; decide)]

theorem rd_coldBoot_cairn {o : Nat} (h : isCairn o = true) (s : State) : rd o (coldBoot s) = rd o s := by
  have hne : o ∉ coldRegs := fun hin => by simp [coldRegs_not_cairn o hin] at h
  rw [coldBoot_eq, (regEffect_bootUp _).2 o hne]
  exact sameRegs_of_powerOff o h

theorem fld_coldBoot_cap (s : State) :
    fld PWR_CAP_HOST_WATTS (coldBoot s) = min (fld CRN_CAP_DEFAULT_WATTS s) (partLimit s) := by
  have hcap : fld CRN_CAP_DEFAULT_WATTS (poweredAnew s) = fld CRN_CAP_DEFAULT_WATTS s := fld_powerOff (by decide) s
  rw [coldBoot_eq, bootUp, regEffect_unmatedLoss.fld (by decide), fromCairn_eq, fld_takeCap,
    (regEffect_takeRoles _).fld (by decide), (regEffect_setFlds _).fld (by decide), hcap,
    partLimit_congr ((regEffect_takeRoles _).fuse_eq _), partLimit_congr ((regEffect_setFlds _).fuse_eq _)]
  rfl

theorem role_offsets : ∀ p < 7, isCairn (CRN_PORT_ROLE_ROLE p).off = true ∧
    (GLD_PORT_ROLE_ROLE p).off ∉ (List.range 7).map GLD_PORT_STATUS ∧ (GLD_PORT_ROLE_ROLE p).off ∉ [PWR_ERR, PWR_CAP_HOST] ∧
    (CRN_PORT_ROLE_ROLE p).off ∉ [(BRG_STATUS_STAGE, stPower), (BRG_STATUS_COLD, 1)].map fun p => p.1.off := by decide

theorem fld_coldBoot_role {p : Nat} (hp : p < 7) {s : State} (h : portHere s p = true) :
    fld (GLD_PORT_ROLE_ROLE p) (coldBoot s) = fld (CRN_PORT_ROLE_ROLE p) s := by
  obtain ⟨hcairn, hloss, hcap, hstage⟩ := role_offsets p hp
  have hrole : fld (CRN_PORT_ROLE_ROLE p) (poweredAnew s) = fld (CRN_PORT_ROLE_ROLE p) s := fld_powerOff hcairn s
  rw [coldBoot_eq, bootUp, regEffect_unmatedLoss.fld hloss, fromCairn_eq, regEffect_takeCap.fld hcap,
    fld_takeRoles hp List.nodup_range (List.mem_range.mpr hp), (regEffect_setFlds _).fld hstage, hrole]
  exact (portHere_congr ((regEffect_setFlds _).fuse_eq _) p).trans h

/-- What a cold boot promises. -/
def ColdStarted (s t : State) : Prop :=
  t.boot.on = true ∧ stage t = stPower ∧ bit BRG_STATUS_COLD t = true ∧
    t.skeins = [] ∧ t.ctxs = [] ∧ (∀ a, rdByte a t = memDefault) ∧ (∀ o, isCairn o = true → rd o t = rd o s) ∧
    SameWear s t ∧ fld PWR_CAP_HOST_WATTS t = min (fld CRN_CAP_DEFAULT_WATTS s) (partLimit s) ∧
    ∀ p < 7, portHere s p = true → fld (GLD_PORT_ROLE_ROLE p) t = fld (CRN_PORT_ROLE_ROLE p) s

theorem coldStarted_coldBoot {s b : State} {f : State → State} (h : f b = coldBoot s) : ColdStarted s (after f b) := by
  have hstatus (s : State) : fld BRG_STATUS_STAGE (bootUp s) = stPower ∧ fld BRG_STATUS_COLD (bootUp s) = 1 := by
    rw [fld_bootUp_status rfl, fld_bootUp_status rfl]
    exact ⟨fld_setFlds_of_mem (x := stPower) (by simp [FRef.Apart, BRG_STATUS_STAGE, BRG_STATUS_COLD]) (by decide) (by simp) s,
      fld_setFlds_of_mem (x := 1) (by simp [FRef.Apart, BRG_STATUS_STAGE, BRG_STATUS_COLD]) (by decide) (by simp) s⟩
  obtain ⟨hstage, hcold⟩ := hstatus (poweredAnew s)
  obtain ⟨⟨r, a, d, e⟩, -⟩ := regEffect_bootUp (poweredAnew s)
  refine ⟨?_, ?_, ?_, ?_, ?_, fun a => ?_, fun o ho => ?_, fun k => ?_, ?_, fun p hp hhere => ?_⟩
  · rw [after_boot, h, coldBoot_eq, e]; rfl
  · unfold stage; rw [fld_after, h, coldBoot_eq, hstage]
  · rw [bit_after, h, bit, coldBoot_eq, hcold]; rfl
  · rw [after_skeins, h, coldBoot_eq, e]; rfl
  · rw [after_ctxs, h, coldBoot_eq, e]; rfl
  · rw [rdByte_after, h, coldBoot_eq, e]; rfl
  · rw [rd_after, h]; exact rd_coldBoot_cairn ho s
  · rw [wearOf_after, h, coldBoot_eq, e]; rfl
  · rw [fld_after, h]; exact fld_coldBoot_cap s
  · rw [fld_after, h]; exact fld_coldBoot_role hp hhere

/-! ### Supply events -/

/-- The package with its pins as given. -/
def withPins (p : Pins) (s : State) : State := { s with pins := p }

theorem coldStarted_withPins {p : Pins} {s t : State} (h : ColdStarted (withPins p s) t) : ColdStarted s t := h

theorem tryPower_start {p : Pins} {s : State} (h : mayStart p s) : tryPower (withPins p s) = coldBoot (withPins p s) := by
  obtain ⟨h48, hmain, hshort, htrip, hassert, hon⟩ := h
  unfold tryPower withPins
  rw [if_pos]
  simp [h48, hmain, hshort, htrip, hassert, hon]

theorem tryPower_idle {p : Pins} {s : State} (h : ¬mayStart p s) : tryPower (withPins p s) = withPins p s := by
  unfold tryPower
  rw [if_neg]
  intro hall
  simp only [withPins, Bool.and_eq_true, Bool.not_eq_true'] at hall
  obtain ⟨⟨⟨⟨⟨h48, hmain⟩, hshort⟩, htrip⟩, hassert⟩, hon⟩ := hall
  exact h ⟨h48, hmain, hshort, htrip, hassert, hon⟩

/-- A supply event that changes the pins to `p` starts a cold boot or changes the pins alone. -/
theorem gives_supply {c : Instr} {f : State → State} {p : Pins} {s : State} (hc : exec c s = run f s)
    (hf : f s = tryPower (withPins p s)) :
    Gives c s fun t => (mayStart p s → ColdStarted s t) ∧
      (¬mayStart p s → rest t = { rest s with pins := p } ∧ SameMem s t ∧ SameWear s t ∧ SameRegs [] s t) := by
  refine gives_run hc ⟨fun h => ?_, fun h => ?_⟩
  · exact coldStarted_withPins (coldStarted_coldBoot (hf.trans (tryPower_start h)))
  · have he : f s = withPins p s := hf.trans (tryPower_idle h)
    refine ⟨?_, fun a => ?_, fun k => ?_, fun o _ => ?_⟩
    · rw [rest_after', he]; rfl
    · rw [rdByte_after, metaAt_after, he]; exact ⟨rfl, rfl⟩
    · rw [wearOf_after, he]; rfl
    · rw [rd_after, he]; rfl

theorem coldBootStarts_holds : coldBootStarts := by
  unfold coldBootStarts
  intro s x hx
  simp only [List.mem_cons, List.not_mem_nil, or_false] at hx
  rcases hx with rfl | rfl | rfl
  · exact gives_supply (f := fun s => tryPower (modPins (fun p => { p with v48 := true }) s)) rfl rfl
  · exact gives_supply (f := fun s => tryPower (modPins (fun p => { p with mainEn := true }) s)) rfl rfl
  · exact gives_supply (f := fun s => tryPower (modPins (fun p => { p with enShort := true }) s)) rfl rfl

/-! ### Power-down -/

/-- The package without power, with the given pins and boot state. -/
def offWith (p : Pins) (b : Boot) (s : State) : State := { powerOff s with pins := p, boot := b }

/-- Power-down promises the same of every cause: what is off the cairn bank is gone. -/
theorem gives_powerDown {c : Instr} {f : State → State} {p : Pins} {b : Boot} {s : State} (hc : exec c s = run f s)
    (hf : f s = offWith p b s) (hon : b.on = false) (hgd : p.pwrgd = false) (htrip : p.thermTrip = false) :
    Gives c s fun t =>
      t.boot.on = false ∧ t.pins.pwrgd = false ∧ t.pins.thermTrip = false ∧ t.skeins = [] ∧ t.ctxs = [] ∧ t.spns = [] ∧
      (∀ a, rdByte a t = memDefault) ∧ (∀ o, rd o t = if isCairn o then rd o s else rstVal o) ∧ SameWear s t ∧
      t.fuse = s.fuse ∧ t.sec.slots = s.sec.slots ∧ t.sec.slotSeq = s.sec.slotSeq := by
  refine gives_run_to hc hf ⟨?_, ?_, ?_, ?_, ?_, ?_, fun a => ?_, fun o => ?_, fun k => ?_, ?_, ?_, ?_⟩
  · rw [after_boot]; exact hon
  · rw [after_pins]; exact hgd
  · rw [after_pins]; exact htrip
  · rw [after_skeins]; rfl
  · rw [after_ctxs]; rfl
  · rw [after_spns]; rfl
  · rw [rdByte_after]; rfl
  · rw [rd_after]; exact rd_powerOff o s
  · rw [wearOf_after]; rfl
  · rw [after_fuse]; rfl
  · rw [after_sec]; rfl
  · rw [after_sec]; rfl

theorem powerDowns_holds : powerDowns := by
  unfold powerDowns
  intro c hc s
  simp only [List.mem_cons, List.not_mem_nil, or_false] at hc
  rcases hc with rfl | rfl | rfl
  · exact gives_powerDown (f := fun s => modPins (fun p => { p with mainEn := false }) (mainOff s)) rfl rfl rfl rfl rfl
  · exact gives_powerDown (f := fun s => modPins (fun p => { p with enShort := false }) (mainOff s)) rfl rfl rfl rfl rfl
  · exact gives_powerDown (f := vLost) rfl rfl rfl rfl rfl

/-- The package after a rail group failed. -/
def railsOff (g : Nat) (s : State) : State :=
  send (.mctp (.railFail g)) (modBoot (fun b => { b with needReassert := true }) (powerOff s))

theorem railFailures_holds : railFailures := by
  unfold railFailures
  intro g s hon hstage
  have he : railFail g.toNat s = railsOff g.toNat s := if_pos (by simp [hon, hstage])
  refine gives_run_to (f := railFail g.toNat) rfl he ⟨?_, ?_, ?_, ?_, fun o => ?_⟩
  · rw [after_boot]; rfl
  · rw [after_boot]; rfl
  · rw [after_boot]; rfl
  · refine mem_sent_after ?_
    exact List.mem_append_right _ (List.mem_singleton.mpr rfl)
  · rw [rd_after]; exact rd_powerOff o s

/-- Settles O16: power off leaves the cairn bank, and a cold boot takes its defaults from it. -/
theorem coldBoot_holds : Obligations.ColdBoot := ⟨coldBootStarts_holds, powerDowns_holds, railFailures_holds⟩

end Sys2Proof.Machine
end

section
/-! PROOFS. Boot images from the host and from a neighbour (R432, R433). -/

namespace Sys2Proof.Machine

open Sys2Proof.Safety

/-! ### What enters a port -/

/-- Messages have entered or left ports, and nothing else has changed. -/
def Posted (s t : State) : Prop := ∃ m p, t = { s with sent := m, gld := { s.gld with ports := p } }

theorem posted_refl (s : State) : Posted s s := ⟨s.sent, s.gld.ports, rfl⟩

theorem Posted.trans {s t u : State} (h : Posted s t) (h' : Posted t u) : Posted s u := by
  obtain ⟨m, p, rfl⟩ := h
  obtain ⟨m', p', rfl⟩ := h'
  exact ⟨m', p', rfl⟩

theorem posted_send (m : Sent) (s : State) : Posted s (send m s) := ⟨_, s.gld.ports, rfl⟩

theorem posted_setPort (p : Nat) (x : Port) (s : State) : Posted s (setPort p x s) := ⟨s.sent, _, rfl⟩

theorem posted_foldl {α : Type} {f : State → α → State} (h : ∀ s x, Posted s (f s x)) (l : List α) (s : State) :
    Posted s (l.foldl f s) := by
  induction l generalizing s with
  | nil => exact posted_refl s
  | cons x l ih => exact (h s x).trans (ih (f s x))

theorem posted_groupUnits (p n : Nat) (s : State) : Posted s (groupUnits p n s) := by
  unfold groupUnits
  dsimp only
  split
  · exact posted_refl s
  split
  · exact posted_setPort p _ s
  have htag := (posted_send (.linkTag p (groupNonce p (port p s).txGroup s)) s).trans
    (posted_setPort p { port p s with txFill := (port p s).txFill + n - 63, txGroup := (port p s).txGroup + 1 } _)
  split
  · exact htag.trans (posted_send _ _)
  · exact htag

theorem posted_drainPort (f p : Nat) (s : State) : Posted s (drainPort f p s) := by
  induction f generalizing s with
  | zero => exact posted_refl s
  | succ f ih =>
    unfold drainPort
    dsimp only
    split
    · exact posted_refl s
    split
    · exact posted_refl s
    split
    · exact posted_refl s
    next q _ =>
    simp only [decide_eq_true_eq]
    generalize ({ port p s with queue := _, turns := _, replay := _, txNext := _ } : Port) = x
    refine (?_ : Posted s _).trans ((posted_groupUnits p _ _).trans (ih _))
    split
    · exact (posted_setPort p x s).trans (posted_send _ _)
    · exact posted_setPort p x s

theorem posted_post (p v : Nat) (m : Sent) (s : State) : Posted s (post p v m s) :=
  (posted_setPort p _ s).trans (posted_drainPort 256 p _)

/-- A frame that was posted is handed on. -/
theorem handed_sendBoot (p : Nat) (request : Bool) (d : BitVec 384) (svn : W16) (s : State) :
    handed (.boot p request d svn) (sendBoot p request d svn s) := (post_spec p 0 _ s).2

theorem Posted.rd {s t : State} (h : Posted s t) (o : Nat) : rd o t = rd o s := by obtain ⟨m, p, rfl⟩ := h; rfl

theorem Posted.fld {s t : State} (h : Posted s t) (f : FRef) : fld f t = fld f s := congrArg (fldOf f) (h.rd f.off)

theorem Posted.boot {s t : State} (h : Posted s t) : t.boot = s.boot := by obtain ⟨m, p, rfl⟩ := h; rfl

theorem Posted.sameMem {s t : State} (h : Posted s t) : SameMem s t := by
  obtain ⟨m, p, rfl⟩ := h; exact fun _ => ⟨rfl, rfl⟩

theorem RegEffect.boot_eq {l : List Nat} {f : State → State} (h : RegEffect l f) (s : State) : (f s).boot = s.boot := by
  obtain ⟨⟨r, a, d, e⟩, -⟩ := h s
  rw [e]

theorem RegEffect.sameMem {l : List Nat} {f : State → State} (h : RegEffect l f) (s : State) : SameMem s (f s) :=
  (h.regsOnly s).2.1

/-! ### An image that runs -/

/-- The registers of an image that runs. -/
def imageFlds (src : Nat) (svn : W16) : List (FRef × Nat) :=
  [(SEC_SVN_FW, svn.toNat), (BRG_STATUS_SOURCE, src), (BRG_CTRL_FW_GO, 0)]

/-- The firmware runs, and its registers say so. -/
def imageRuns (src : Nat) (svn : W16) (d : BitVec 384) (s : State) : State :=
  setFlds (imageFlds src svn) (modBoot (fun b => { b with fwRuns := true, fwDigest := d, asked := none }) s)

theorem posted_runImage (src : Nat) (svn : W16) (d : BitVec 384) (s : State) :
    Posted (imageRuns src svn d s) (runImage src svn d s) := by
  have h : runImage src svn d s = if broadcast (imageRuns src svn d s) then
      ((List.range 6).filter fun p => (port p (imageRuns src svn d s)).linked).foldl (fun s p => sendBoot p false d svn s)
        (imageRuns src svn d s)
    else imageRuns src svn d s := rfl
  rw [h]
  split
  · exact posted_foldl (fun s p => posted_post p 0 _ s) _ _
  · exact posted_refl _

theorem imageRuns_spec {src : Nat} (hsrc : src < 2) (svn : W16) (d : BitVec 384) (s : State) :
    (imageRuns src svn d s).boot.fwRuns = true ∧ (imageRuns src svn d s).boot.fwDigest = d ∧
      fld SEC_SVN_FW (imageRuns src svn d s) = svn.toNat ∧ fld BRG_STATUS_SOURCE (imageRuns src svn d s) = src ∧
      bit BRG_CTRL_FW_GO (imageRuns src svn d s) = false ∧ SameMem s (imageRuns src svn d s) := by
  have hapart : (imageFlds src svn).Pairwise fun p q => q.1.Apart p.1 := by
    simp [imageFlds, FRef.Apart, SEC_SVN_FW, BRG_STATUS_SOURCE, BRG_CTRL_FW_GO, SEC_SVN, BRG_STATUS, BRG_CTRL]
  have hfld {f : FRef} {x : Nat} (hf : f.hi < 64) (h : (f, x) ∈ imageFlds src svn) :
      fld f (imageRuns src svn d s) = x % 2 ^ (f.hi + 1 - f.lo) := fld_setFlds_of_mem hapart hf h _
  have hboot := (regEffect_setFlds (imageFlds src svn)).boot_eq
    (modBoot (fun b => { b with fwRuns := true, fwDigest := d, asked := none }) s)
  refine ⟨congrArg Boot.fwRuns hboot, congrArg Boot.fwDigest hboot, ?_, ?_, ?_, ?_⟩
  · rw [hfld (x := svn.toNat) (by decide) (by simp [imageFlds])]
    exact Nat.mod_eq_of_lt svn.isLt
  · rw [hfld (x := src) (by decide) (by simp [imageFlds])]
    exact Nat.mod_eq_of_lt hsrc
  · rw [bit, hfld (f := BRG_CTRL_FW_GO) (x := 0) (by decide) (by simp [imageFlds])]
    rfl
  · exact (regEffect_setFlds (imageFlds src svn)).sameMem
      (modBoot (fun b => { b with fwRuns := true, fwDigest := d, asked := none }) s)

theorem runImage_spec {src : Nat} (hsrc : src < 2) (svn : W16) (d : BitVec 384) (s : State) :
    (runImage src svn d s).boot.fwRuns = true ∧ (runImage src svn d s).boot.fwDigest = d ∧
      fld SEC_SVN_FW (runImage src svn d s) = svn.toNat ∧ fld BRG_STATUS_SOURCE (runImage src svn d s) = src ∧
      bit BRG_CTRL_FW_GO (runImage src svn d s) = false ∧ SameMem s (runImage src svn d s) := by
  have h := posted_runImage src svn d s
  obtain ⟨hruns, hdigest, hsvn, hsource, hgo, hmem⟩ := imageRuns_spec hsrc svn d s
  exact ⟨h.boot ▸ hruns, h.boot ▸ hdigest, (h.fld _).trans hsvn, (h.fld _).trans hsource,
    (congrArg (· != 0) (h.fld BRG_CTRL_FW_GO)).trans hgo, sameMem_trans hmem h.sameMem⟩

/-! ### Asking a neighbour -/

/-- Asking leaves the package as it is, or names an offer of a strait below 6, the lowest one, and asks it. -/
theorem askImage_spec (s : State) :
    askImage s = s ∨ ∃ q o, q < 6 ∧ o ∈ s.boot.offers ∧ o.1 = q ∧ (∀ x ∈ s.boot.offers, x.1 < 6 → q ≤ x.1) ∧
      askImage s = sendBoot q true o.2.1 o.2.2 (modBoot (fun b => { b with asked := some q }) s) := by
  unfold askImage
  split
  · exact .inl rfl
  split
  · exact .inl rfl
  next q hq =>
  split
  next o ho =>
    have hoq : o.1 = q := by simpa using List.find?_some ho
    refine .inr ⟨q, o, ?_, List.mem_of_find?_eq_some ho, hoq, fun x hx hx6 => ?_, rfl⟩
    · exact List.mem_range.mp (List.mem_of_find?_eq_some hq)
    · exact Nat.le_of_not_lt fun hlt => by
        have hnone := (List.find?_range_eq_some.mp hq).2.2 x.1 hlt
        simp only [List.any_eq_false, Bool.not_eq_true'] at hnone
        simpa using hnone x hx
  · exact .inl rfl

theorem askImage_keeps (s : State) : (askImage s).boot.fwRuns = s.boot.fwRuns ∧ (askImage s).boot.offers = s.boot.offers ∧
    (∀ o, rd o (askImage s) = rd o s) ∧ SameMem s (askImage s) := by
  rcases askImage_spec s with h | ⟨q, o, -, -, -, -, h⟩
  · rw [h]; exact ⟨rfl, rfl, fun _ => rfl, fun _ => ⟨rfl, rfl⟩⟩
  · have hp : Posted _ (sendBoot q true o.2.1 o.2.2 (modBoot (fun b => { b with asked := some q }) s)) := posted_post q 0 _ _
    rw [h]
    exact ⟨by rw [hp.boot]; rfl, by rw [hp.boot]; rfl, fun x => (hp.rd x).trans rfl, sameMem_trans (fun _ => ⟨rfl, rfl⟩) hp.sameMem⟩

/-! ### The image of a native fetch -/

/-- A register below BRG's end answers also while no firmware runs. -/
theorem driverWrite_BRG_CTRL {s : State} (h : onBus s = true) (hf : fusedOff BRG_CTRL s = false) (v : W32) :
    driverWrite BRG_CTRL 4 (v.setWidth 64) s = brgCtrl (v.setWidth 64) (accessed BRG_CTRL s) := by
  have hhold : regHold BRG_CTRL = some (BRG_CTRL, false) := by decide +kernel
  have hhit : hit BRG_CTRL 4 s = .reg BRG_CTRL false .full := by
    unfold hit
    rw [hf, hhold]
    rfl
  rw [driverWrite_of_hit h, hhit]
  exact congrArg (regWrite true BRG_CTRL · _) (low32_mask v)

/-- FW_GO is set, and no neighbour is asked any more. -/
def goes (s : State) : State := setFld BRG_CTRL_FW_GO 1 (modBoot (fun b => { b with asked := none }) s)

theorem brgCtrl_go {v : W32} {s : State} (hcold : v.getLsbD 2 = false) (hwarm : v.getLsbD 1 = false) (hgo : v.getLsbD 0 = true)
    (hstage : stage s = stFwFetch) (hruns : s.boot.fwRuns = false) : brgCtrl (v.setWidth 64) s = goes s := by
  unfold brgCtrl
  rw [wbit_setWidth, wbit_setWidth, wbit_setWidth, hcold, hwarm, hgo, hstage, hruns]
  rfl

theorem goes_spec (s : State) : bit BRG_CTRL_FW_GO (goes s) = true ∧ (goes s).boot.asked = none ∧
    RegsOnly [BRG_CTRL] { s with boot := (goes s).boot } (goes s) :=
  ⟨bit_setFld_one (by decide) rfl _, rfl,
    (regEffect_setFld BRG_CTRL_FW_GO 1).regsOnly (modBoot (fun b => { b with asked := none }) s)⟩

/-- Whether an image may run. -/
def imageGood (readOk sigOk : Bool) (svn : W16) (s : State) : Bool := readOk && sigOk && decide (s.fuse.minSvn.toNat ≤ svn.toNat)

theorem imageGood_iff {readOk sigOk : Bool} {svn : W16} {s : State} :
    imageGood readOk sigOk svn s = true ↔ readOk = true ∧ sigOk = true ∧ s.fuse.minSvn.toNat ≤ svn.toNat := by
  simp [imageGood, and_assoc]

/-- The error of an image that may not run. -/
def imageErr (readOk : Bool) : FRef := if readOk then BRG_ERR_FW_AUTH else BRG_ERR_FW_FETCH

/-- A fetched image that may not run: FW_GO clears. -/
def fetchFails (readOk : Bool) (s : State) : State := setFld BRG_CTRL_FW_GO 0 (setErr (imageErr readOk) s)

section
variable {s : State} (hon : s.boot.on = true) (hstage : stage s = stFwFetch) (hruns : s.boot.fwRuns = false)
  (readOk sigOk : Bool) (svn : W16) (d : BitVec 384)
include hon hstage hruns

theorem fetchDone_go (hgo : bit BRG_CTRL_FW_GO s = true) : fetchDone readOk sigOk svn d s =
    if imageGood readOk sigOk svn s then runImage 0 svn d s else askImage (fetchFails readOk s) := by
  unfold fetchDone
  rw [if_neg (by simp [hon, hstage, hruns])]
  dsimp only
  rw [if_pos hgo]
  rfl

theorem fetchDone_asked {q : Nat} (hgo : bit BRG_CTRL_FW_GO s = false) (hasked : s.boot.asked = some q) :
    fetchDone readOk sigOk svn d s = if imageGood readOk sigOk svn s then runImage 1 svn d s
      else askImage (setErr (imageErr readOk)
        (modBoot (fun b => { b with asked := none, offers := b.offers.filter fun o => o.1 != q }) s)) := by
  unfold fetchDone
  rw [if_neg (by simp [hon, hstage, hruns])]
  dsimp only
  rw [if_neg (by simp [hgo]), hasked]
  rfl

end

theorem imageErr_off (readOk : Bool) : (imageErr readOk).off = BRG_ERR := by cases readOk <;> rfl

theorem fetchFails_spec (readOk : Bool) (s : State) : (fetchFails readOk s).boot = s.boot ∧ SameMem s (fetchFails readOk s) ∧
    bit BRG_CTRL_FW_GO (fetchFails readOk s) = false ∧ bit (imageErr readOk) (fetchFails readOk s) = true := by
  refine ⟨rfl, fun _ => ⟨rfl, rfl⟩, ?_, ?_⟩
  · unfold fetchFails bit
    rw [fld_setFld_same _ _ _ (by decide)]
    rfl
  · have hapart : (imageErr readOk).off ≠ BRG_CTRL_FW_GO.off := by rw [imageErr_off]; decide
    unfold fetchFails bit
    rw [fld_setFld_other _ _ _ _ hapart]
    exact bit_setErr (by cases readOk <;> decide) (by cases readOk <;> decide) s

theorem nativeFetches_holds : nativeFetches := by
  unfold nativeFetches
  refine ⟨fun v s hcold hwarm hgo hbus hfused hstage hruns => ?_, fun readOk sigOk svn d s hon hstage hruns hgo hoffers => ?_⟩
  · have he : driverWrite BRG_CTRL 4 (v.setWidth 64) s = goes (accessed BRG_CTRL s) :=
      (driverWrite_BRG_CTRL hbus hfused v).trans (brgCtrl_go (s := accessed BRG_CTRL s) hcold hwarm hgo hstage hruns)
    obtain ⟨hbit, hasked, hregs⟩ := goes_spec (accessed BRG_CTRL s)
    refine gives_run_to (f := driverWrite BRG_CTRL 4 (v.setWidth 64)) rfl he ⟨?_, ?_, ?_⟩
    · rw [bit_after]; exact hbit
    · rw [after_boot]; exact hasked
    · rw [after_boot]
      exact regsOnly_after_of rfl hregs
  · have he := fetchDone_go hon hstage hruns readOk sigOk svn d hgo
    by_cases hgood : imageGood readOk sigOk svn s = true
    · rw [if_pos hgood] at he
      obtain ⟨hrun, hdigest, hsvn, hsource, hclear, hmem⟩ := runImage_spec (src := 0) (by decide) svn d s
      refine gives_run_to (f := fetchDone readOk sigOk svn d) rfl he ⟨?_, ?_, fun _ => ⟨?_, ?_, ?_, ?_⟩, fun h => absurd (imageGood_iff.mp hgood) h⟩
      · rw [bit_after]; exact hclear
      · exact sameMem_after hmem
      · rw [after_boot]; exact hrun
      · rw [after_boot]; exact hdigest
      · rw [fld_after]; exact hsvn
      · rw [fld_after]; exact hsource
    · rw [if_neg hgood] at he
      obtain ⟨hboot, hmem, hclear, herr⟩ := fetchFails_spec readOk s
      obtain ⟨hruns', -, hrd, hmem'⟩ := askImage_keeps (fetchFails readOk s)
      have hbit (f : FRef) : bit f (askImage (fetchFails readOk s)) = bit f (fetchFails readOk s) :=
        congrArg (fun v => fldOf f v != 0) (hrd f.off)
      refine gives_run_to (f := fetchDone readOk sigOk svn d) rfl he ⟨?_, ?_, fun h => absurd (imageGood_iff.mpr h) hgood, fun _ => ⟨?_, ?_⟩⟩
      · rw [bit_after]; exact (hbit _).trans hclear
      · exact sameMem_after (sameMem_trans hmem hmem')
      · rw [after_boot]; exact hruns'.trans ((congrArg Boot.fwRuns hboot).trans hruns)
      · rw [bit_after]; exact (hbit _).trans herr

/-! ### Broadcast boot -/

/-- The offer of port `p` is known. -/
def offerKnown (p : Nat) (d : BitVec 384) (svn : W16) (s : State) : State :=
  modBoot (fun b => { b with offers := b.offers.filter (fun o => o.1 != p) ++ [(p, d, svn)] }) s

/-- With an offer of a strait below 6 at hand, one is asked. -/
theorem askImage_asks {s : State} (hruns : s.boot.fwRuns = false) (hasked : s.boot.asked = none) (hgo : bit BRG_CTRL_FW_GO s = false)
    {x : Nat × BitVec 384 × W16} (hx : x ∈ s.boot.offers) (hx6 : x.1 < 6) :
    ∃ q o, o ∈ s.boot.offers ∧ o.1 = q ∧ (∀ x ∈ s.boot.offers, x.1 < 6 → q ≤ x.1) ∧
      askImage s = sendBoot q true o.2.1 o.2.2 (modBoot (fun b => { b with asked := some q }) s) := by
  rcases askImage_spec s with h | ⟨q, o, -, ho, hoq, hmin, h⟩
  · exfalso
    have hsome : ((List.range 6).find? fun p => s.boot.offers.any fun o => o.1 == p).isSome = true :=
      List.find?_isSome.mpr ⟨x.1, List.mem_range.mpr hx6, List.any_eq_true.mpr ⟨x, hx, by simp⟩⟩
    obtain ⟨q, hq⟩ := Option.isSome_iff_exists.mp hsome
    have hany : (s.boot.offers.find? fun o => o.1 == q).isSome = true := by
      obtain ⟨o, ho, hoq⟩ := List.any_eq_true.mp (List.find?_some (p := fun p => s.boot.offers.any fun o => o.1 == p) hq)
      exact List.find?_isSome.mpr ⟨o, ho, hoq⟩
    obtain ⟨o, ho⟩ := Option.isSome_iff_exists.mp hany
    have he : askImage s = sendBoot q true o.2.1 o.2.2 (modBoot (fun b => { b with asked := some q }) s) := by
      unfold askImage
      rw [if_neg (by simp [hruns, hasked, hgo]), hq]
      dsimp only
      rw [ho]
    have hboot := (posted_post q 0 (.boot q true o.2.1 o.2.2) (modBoot (fun b => { b with asked := some q }) s)).boot
    have : s.boot.asked = some q := by
      rw [← h, he]; exact congrArg Boot.asked hboot
    rw [hasked] at this
    exact absurd this (by simp)
  · exact ⟨q, o, ho, hoq, hmin, h⟩

theorem broadcastBoots_holds : broadcastBoots := by
  unfold broadcastBoots
  refine ⟨fun p d svn s hon hstage hcast hp hlinked hruns hasked hgo => ?_, fun readOk sigOk svn d q s hon hstage hruns hgo hasked => ?_⟩
  · have hoffered : offered p.toNat d svn s = askImage (offerKnown p.toNat d svn s) := by
      unfold offered
      rw [if_neg (by simp [hon, hstage, hcast, hlinked]; omega)]
      rfl
    have hnew : (p.toNat, d, svn) ∈ (offerKnown p.toNat d svn s).boot.offers :=
      List.mem_append_right _ (List.mem_singleton.mpr rfl)
    obtain ⟨q, o, ho, hoq, hmin, hask⟩ := askImage_asks (s := offerKnown p.toNat d svn s) hruns hasked hgo hnew hp
    have hposted := posted_post q 0 (.boot q true o.2.1 o.2.2) (modBoot (fun b => { b with asked := some q }) (offerKnown p.toNat d svn s))
    refine gives_run_to (f := offered p.toNat d svn) rfl (hoffered.trans hask) ⟨?_, q, ?_, ⟨o.2.1, o.2.2, ?_⟩, hmin _ hnew hp, ?_, ?_⟩
    · rw [after_boot, after_gld]
      refine regsOnly_after_of rfl ?_
      obtain ⟨m, x, e⟩ := hposted
      rw [sendBoot, e]
      exact ⟨rfl, fun _ => ⟨rfl, rfl⟩, fun _ => rfl, fun _ _ => rfl⟩
    · rw [after_boot, sendBoot, hposted.boot]; rfl
    · exact handed_after (handed_sendBoot q true o.2.1 o.2.2 _)
    · intro x hx hx6
      by_cases hxp : x.1 = p.toNat
      · rw [hxp]; exact hmin _ hnew hp
      · exact hmin x (List.mem_append_left _ (List.mem_filter.mpr ⟨hx, by simpa using hxp⟩)) hx6
    · rcases List.mem_append.mp ho with h | h
      · exact .inr ⟨o, (List.mem_filter.mp h).1, hoq⟩
      · rw [List.mem_singleton.mp h] at hoq
        exact .inl hoq.symm
  · have he := fetchDone_asked hon hstage hruns readOk sigOk svn d hgo hasked
    by_cases hgood : imageGood readOk sigOk svn s = true
    · rw [if_pos hgood] at he
      obtain ⟨hrun, hdigest, -, hsource, -, -⟩ := runImage_spec (src := 1) (by decide) svn d s
      refine gives_run_to (f := fetchDone readOk sigOk svn d) rfl he ⟨fun _ => ⟨?_, ?_, ?_⟩, fun h => absurd (imageGood_iff.mp hgood) h⟩
      · rw [after_boot]; exact hrun
      · rw [after_boot]; exact hdigest
      · rw [fld_after]; exact hsource
    · rw [if_neg hgood] at he
      generalize hu : setErr (imageErr readOk) _ = u at he
      have hboot : u.boot = { s.boot with asked := none, offers := s.boot.offers.filter fun o => o.1 != q } := by rw [← hu]; rfl
      obtain ⟨hruns', hoffers, -, -⟩ := askImage_keeps u
      have hother : ∀ o ∈ u.boot.offers, o.1 ≠ q := fun o ho => by
        rw [hboot] at ho
        simpa using (List.mem_filter.mp ho).2
      refine gives_run_to (f := fetchDone readOk sigOk svn d) rfl he ⟨fun h => absurd (imageGood_iff.mpr h) hgood, fun _ => ⟨?_, ?_, ?_⟩⟩
      · rw [after_boot, hruns', hboot]; exact hruns
      · rw [after_boot, hoffers]; exact hother
      · rw [after_boot]
        rcases askImage_spec u with h | ⟨x, o, -, ho, hox, -, h⟩
        · rw [h, hboot]; simp
        · rw [h, sendBoot, (posted_post x 0 _ _).boot]
          intro heq
          exact hother o ho (hox.trans (Option.some.inj heq))

/-- Settles O17: an image that passes runs, and one that does not leaves its error and its offer behind. -/
theorem bootImages : Obligations.BootImages := ⟨nativeFetches_holds, broadcastBoots_holds⟩

end Sys2Proof.Machine
end

section
/-! PROOFS. The commands of a queue: NOP, CANCEL, RETIRE, REPRIORITISE and STOP_LOAD (R217, R218, R222, R223). -/

namespace Sys2Proof.Machine

open Sys2Proof.Safety

/-! ### The skein table -/

@[simp] theorem sk_setSk_same (i : Nat) (k : Skein) (s : State) : sk i (setSk i k s) = k := lookup_put_same _ _ _ _

theorem sk_setSk_other {i j : Nat} (h : j ≠ i) (k : Skein) (s : State) : sk j (setSk i k s) = sk j s :=
  lookup_put_other _ _ _ _ h

theorem sk_congr {s t : State} (h : t.skeins = s.skeins) (i : Nat) : sk i t = sk i s := by
  unfold sk
  rw [h]

@[simp] theorem sk_after (i : Nat) (f : State → State) (s : State) : sk i (after f s) = sk i (f s) :=
  sk_congr (after_skeins f s) i

/-- With both copies sound a read of an entry changes nothing (R212). -/
theorem tableRead_of_sound {i : Nat} {s : State} (h : entrySound i s) : tableRead i s = s := by
  unfold tableRead mirrorCheck
  rw [h.1, h.2]
  rfl

theorem regsOnly_setSk (l : List Nat) (i : Nat) (k : Skein) (s : State) :
    RegsOnly l { s with skeins := (setSk i k s).skeins } (setSk i k s) :=
  ⟨rfl, fun _ => ⟨rfl, rfl⟩, fun _ => rfl, fun _ _ => rfl⟩

/-! ### The result of a command (R217, R218) -/

/-- A refusal is counted and shown. -/
def qRefusal (q code : Nat) (s : State) : State :=
  if code = rcOk then s else bump64 (SKN_CNT 1) 1 (setFld (SKN_Q_STATUS_CODE q) code s)

/-- The message that carries the result to the command's slot. -/
def qMessage (q code : Nat) (s : State) : Sent :=
  .hostWrite (fld (SKN_QCFG_CTL_FUNCTION q) s)
    (fld (SKN_QCFG_ADDR_ADDR q) s * 4096 + fld (SKN_Q_HEAD_HEAD q) s % qSize q s * 64 + 60) (natToBytes 4 (2 ^ 31 + code))

theorem qResult_eq (q code : Nat) (s : State) :
    qResult q code s = wrapFld (SKN_Q_HEAD_HEAD q) 1 (qRefusal q code (send (qMessage q code s) s)) := rfl

theorem regEffect_qRefusal (q code : Nat) : RegEffect [SKN_Q_STATUS q, SKN_CNT 1] (qRefusal q code) := by
  have hbump : RegEffect [SKN_Q_STATUS q, SKN_CNT 1] fun s => bump64 (SKN_CNT 1) 1 (setFld (SKN_Q_STATUS_CODE q) code s) :=
    ((regEffect_setFld (SKN_Q_STATUS_CODE q) code).of_mem (by simp [SKN_Q_STATUS_CODE])).comp
      ((regEffect_bump64 (SKN_CNT 1) 1).of_mem (by simp))
  exact RegEffect.ite (fun _ => code = rcOk) (regEffect_id _) hbump

theorem regEffect_wrapFld (f : FRef) (n : Nat) : RegEffect [f.off] (wrapFld f n) := fun s => regEffect_setFld f _ s

@[simp] theorem rd_send (o : Nat) (m : Sent) (s : State) : rd o (send m s) = rd o s := rfl

@[simp] theorem fld_send (f : FRef) (m : Sent) (s : State) : fld f (send m s) = fld f s := congrArg (fldOf f) (rd_send f.off m s)

theorem regsOnly_send {l : List Nat} (m : Sent) (s : State) : RegsOnly l s (send m s) :=
  ⟨rfl, fun _ => ⟨rfl, rfl⟩, fun _ => rfl, fun _ _ => rfl⟩

theorem regsOnly_qResult (q code : Nat) (s : State) :
    RegsOnly [SKN_Q_HEAD q, SKN_Q_STATUS q, SKN_CNT 1] s (qResult q code s) := by
  rw [qResult_eq]
  have hrefuse := ((regEffect_qRefusal q code).mono (m := [SKN_Q_HEAD q, SKN_Q_STATUS q, SKN_CNT 1]) (by simp)).comp
    ((regEffect_wrapFld (SKN_Q_HEAD_HEAD q) 1).of_mem (by simp [SKN_Q_HEAD_HEAD]))
  exact regsOnly_trans (regsOnly_send _ s) (hrefuse.regsOnly _)

/-- A command that succeeds changes the head of its queue alone. -/
theorem regsOnly_qResult_ok (q : Nat) (s : State) : RegsOnly [SKN_Q_HEAD q] s (qResult q rcOk s) := by
  rw [qResult_eq]
  exact regsOnly_trans (regsOnly_send _ s) ((regEffect_wrapFld (SKN_Q_HEAD_HEAD q) 1).regsOnly _)

@[simp] theorem skeins_qResult (q code : Nat) (s : State) : (qResult q code s).skeins = s.skeins :=
  (congrArg State.skeins (regsOnly_qResult q code s).1 : (rest (qResult q code s)).skeins = (rest s).skeins)

@[simp] theorem stopsNext_qResult (q code : Nat) (s : State) : (qResult q code s).stopsNext = s.stopsNext :=
  (congrArg State.stopsNext (regsOnly_qResult q code s).1 : (rest (qResult q code s)).stopsNext = (rest s).stopsNext)

/-- The registers that a queue's result depends on. -/
def queueRegs (q : Nat) : List Nat := [SKN_Q_HEAD q, SKN_QCFG_CTL q, SKN_QCFG_ADDR q, SKN_CNT 1]

theorem queueRegs_apart {q : Nat} (hq : q < 4096) : SKN_Q_STATUS q ≠ SKN_CNT 1 ∧ SKN_Q_STATUS q ≠ SKN_Q_HEAD q ∧
    SKN_CNT 1 ≠ SKN_Q_HEAD q := by
  unfold SKN_Q_STATUS SKN_CNT SKN_Q_HEAD
  omega

/-- The result is written, the head moves on, and a refusal is shown and counted. -/
theorem resultWritten_qResult {q code : Nat} (hq : q < 4096) (hcode : code < 256) {s t b : State} {f : State → State}
    (hregs : ∀ o ∈ queueRegs q, rd o t = rd o s) (hf : f b = qResult q code t) : resultWritten q code s (after f b) := by
  obtain ⟨hsc, hsh, hch⟩ := queueRegs_apart hq
  have hfld {x : FRef} (hx : x.off ∈ queueRegs q) : fld x t = fld x s := congrArg (fldOf x) (hregs x.off hx)
  have hhead : fld (SKN_Q_HEAD_HEAD q) t = fld (SKN_Q_HEAD_HEAD q) s := hfld (by simp [queueRegs, SKN_Q_HEAD_HEAD])
  have hmsg : qMessage q code t = qMessage q code s := by
    unfold qMessage qSize
    rw [hhead, hfld (x := SKN_QCFG_CTL_FUNCTION q) (by simp [queueRegs, SKN_QCFG_CTL_FUNCTION]),
      hfld (x := SKN_QCFG_ADDR_ADDR q) (by simp [queueRegs, SKN_QCFG_ADDR_ADDR]),
      hfld (x := SKN_QCFG_CTL_ORDER q) (by simp [queueRegs, SKN_QCFG_CTL_ORDER])]
  have hrefusal := regEffect_qRefusal q code
  have hwrap := regEffect_wrapFld (SKN_Q_HEAD_HEAD q) 1
  refine ⟨?_, ?_, fun hne => ⟨?_, ?_⟩⟩
  · refine mem_sent_after ?_
    have hsent : (qResult q code t).sent = t.sent ++ [qMessage q code s] := by
      rw [qResult_eq, hmsg]
      obtain ⟨⟨r, a, d, e⟩, -⟩ := hrefusal (send (qMessage q code s) t)
      rw [e]; rfl
    rw [hf, hsent]
    exact List.mem_append_right _ (List.mem_singleton.mpr rfl)
  · rw [fld_after, hf, qResult_eq, wrapFld, fld_setFld_same _ _ _ (by decide : (15 : Nat) < 64),
      hrefusal.fld (by simp [SKN_Q_HEAD_HEAD, hsh.symm, hch.symm])]
    rw [fld_send, hhead]
    rfl
  · rw [fld_after, hf, qResult_eq, hwrap.fld (by simp [SKN_Q_STATUS_CODE, SKN_Q_HEAD_HEAD, hsh]), qRefusal, if_neg hne,
      (regEffect_bump64 (SKN_CNT 1) 1).fld (by simp [SKN_Q_STATUS_CODE, hsc]),
      fld_setFld_same _ _ _ (by decide : (7 : Nat) < 64)]
    exact Nat.mod_eq_of_lt hcode
  · unfold counts
    rw [rd_after, hf, qResult_eq, (hwrap _).2 _ (by simp [SKN_Q_HEAD_HEAD, hch]), qRefusal, if_neg hne]
    refine (counts_bump64 (SKN_CNT 1) 1 _).trans ?_
    rw [rd_setFld_other _ _ _ (Ne.symm hsc : SKN_CNT 1 ≠ SKN_Q_STATUS q)]
    rw [rd_send, hregs (SKN_CNT 1) (by simp [queueRegs])]

/-! ### What a queue executes -/

theorem qCommand_run {q op : Nat} {w : CmdWords} {f : State → Nat × State} {s : State} (hready : qReady q s = true)
    (hhost : hostAllowed s = true) (hop : cmdOp w = op) (h5 : op ≤ 5) {code : Nat} {t : State} (hf : f s = (code, t)) :
    qCommand q w op f s = qResult q code t := by
  unfold qCommand
  rw [if_neg (by simp [hready]), if_neg (by simp [hhost]), if_neg (by omega), if_neg (by simp [hop]), hf]

theorem qCommand_reserved {q op : Nat} {w : CmdWords} {f : State → Nat × State} {s : State} (hready : qReady q s = true)
    (hhost : hostAllowed s = true) (hop : 5 < cmdOp w) : qCommand q w op f s = qResult q rcOpcode s := by
  unfold qCommand
  rw [if_neg (by simp [hready]), if_neg (by simp [hhost]), if_pos hop]

theorem gives_refuses {q code : Nat} (hq : q < 4096) (hcode : code < 256) {c : Instr} {f : State → State} {s : State}
    (hc : exec c s = run f s) (hf : f s = qResult q code s) : Gives c s (refuses q code s) :=
  gives_run hc ⟨resultWritten_qResult hq hcode (fun _ _ => rfl) hf, regsOnly_after (hf ▸ regsOnly_qResult q code s)⟩

/-- A command that succeeds and changes skein `i` alone. -/
theorem gives_skein {q i : Nat} (hq : q < 4096) {k : Skein} {c : Instr} {f : State → State} {s : State}
    (hc : exec c s = run f s) (hf : f s = qResult q rcOk (setSk i k s)) :
    Gives c s fun t => resultWritten q rcOk s t ∧ sk i t = k ∧ skeinOnly i s t ∧
      RegsOnly [SKN_Q_HEAD q] { s with skeins := t.skeins } t := by
  have hsk (j : Nat) : sk j (qResult q rcOk (setSk i k s)) = sk j (setSk i k s) := sk_congr (skeins_qResult q rcOk _) j
  refine gives_run hc ⟨resultWritten_qResult (t := setSk i k s) hq (by decide) (fun _ _ => rfl) hf, ?_, fun j hj => ?_, ?_⟩
  · rw [sk_after, hf, hsk, sk_setSk_same]
  · rw [sk_after, hf, hsk, sk_setSk_other hj]
  · rw [after_skeins, hf, skeins_qResult]
    refine regsOnly_after_of rfl ?_
    rw [hf]
    exact regsOnly_trans (regsOnly_setSk _ i k s) (regsOnly_qResult_ok q _)

theorem testSkein_lt (c i : Nat) (g : W16) (ok : Skein → Bool) (s : State) : testSkein c i g ok s < 256 := by
  unfold testSkein
  split
  · decide
  split
  · decide
  split <;> decide

theorem testSkeinCtx_lt (c i : Nat) (g : W16) (ok : Skein → Bool) (s : State) : testSkeinCtx c i g ok s < 256 := by
  unfold testSkeinCtx
  dsimp only
  split
  · exact testSkein_lt c i g ok s
  split <;> decide

section
variable {w : CmdWords} {s : State} (hs : entrySound (cSkein w) s)
include hs

theorem cancelCmd_refused (q : Nat) (h : testSkeinCtx (qCtx q s) (cSkein w) (cGen w) notFree s ≠ rcOk) :
    cancelCmd q w s = (testSkeinCtx (qCtx q s) (cSkein w) (cGen w) notFree s, s) := by
  unfold cancelCmd
  rw [tableRead_of_sound hs]
  exact if_pos (by simpa using h)

theorem cancelCmd_reached (q : Nat) (h : testSkeinCtx (qCtx q s) (cSkein w) (cGen w) notFree s = rcOk) :
    cancelCmd q w s = cancelSkein (cSkein w) s := by
  unfold cancelCmd
  rw [tableRead_of_sound hs]
  exact if_neg (by simpa using h)

theorem retireCmd_eq (q : Nat) : retireCmd q w s =
    if testSkein (qCtx q s) (cSkein w) (cGen w) retirable s != rcOk then (testSkein (qCtx q s) (cSkein w) (cGen w) retirable s, s)
    else (rcOk, freeSkein (cSkein w) s) := by
  unfold retireCmd
  rw [tableRead_of_sound hs]

theorem reprioCmd_eq (q : Nat) : reprioCmd q w s =
    if testSkeinCtx (qCtx q s) (cSkein w) (cGen w) notFree s != rcOk then
      (testSkeinCtx (qCtx q s) (cSkein w) (cGen w) notFree s, s)
    else (rcOk, modSk (cSkein w) (fun k => { k with prio := cw w 2 31 29, deadline := cDeadline w }) s) := by
  unfold reprioCmd
  rw [tableRead_of_sound hs]

end

/-- A cancel reaches a skein that is at work. -/
theorem cancelSkein_reaches {i : Nat} {s : State} (h : (sk i s).state ∈ [SkState.admitted, .prefill, .decode, .paused]) :
    cancelSkein i s = (rcOk, setSk i { sk i s with state := .cancelling, cancelled := some (beat s) } s) := by
  unfold cancelSkein
  dsimp only
  simp only [List.mem_cons, List.not_mem_nil, or_false] at h
  rcases h with h | h | h | h <;> rw [h]

theorem cancelSkein_complete {i : Nat} {s : State} (h : (sk i s).state ∈ [SkState.done, .faulted]) :
    cancelSkein i s = (rcComplete, s) := by
  unfold cancelSkein
  dsimp only
  simp only [List.mem_cons, List.not_mem_nil, or_false] at h
  rcases h with h | h <;> rw [h]

theorem cancelSkein_cancelling {i : Nat} {s : State} (h : (sk i s).state = .cancelling) :
    cancelSkein i s = (rcCancelling, s) := by
  unfold cancelSkein
  dsimp only
  rw [h]

theorem cancelCommand_holds : cancelCommand := by
  intro q w s n c i code ⟨hready, hhost⟩ hop hs
  have hrun {r : Nat} {t : State} (h : cancelCmd n w s = (r, t)) : qCommand n w 2 (cancelCmd n w) s = qResult n r t :=
    qCommand_run hready hhost hop (by decide) h
  refine ⟨fun hcode => ?_, fun hcode hst => ?_, fun hcode hst => ?_, fun hcode hst => ?_⟩
  · exact gives_refuses q.isLt (testSkeinCtx_lt _ _ _ _ _) rfl (hrun (cancelCmd_refused hs n hcode))
  · exact gives_skein q.isLt rfl (hrun ((cancelCmd_reached hs n hcode).trans (cancelSkein_reaches hst)))
  · exact gives_refuses q.isLt (by decide) rfl (hrun ((cancelCmd_reached hs n hcode).trans (cancelSkein_complete hst)))
  · exact gives_refuses q.isLt (by decide) rfl (hrun ((cancelCmd_reached hs n hcode).trans (cancelSkein_cancelling hst)))

theorem retireCommand_holds : retireCommand := by
  intro q w s n i code ⟨hready, hhost⟩ hop hs
  have hrun {r : Nat} {t : State} (h : retireCmd n w s = (r, t)) : qCommand n w 3 (retireCmd n w) s = qResult n r t :=
    qCommand_run hready hhost hop (by decide) h
  refine ⟨fun hcode => ?_, fun hcode => ?_⟩
  · exact gives_skein q.isLt rfl (hrun ((retireCmd_eq hs n).trans (if_neg (by simpa using hcode))))
  · exact gives_refuses q.isLt (testSkein_lt _ _ _ _ _) rfl (hrun ((retireCmd_eq hs n).trans (if_pos (by simpa using hcode))))

theorem reprioritiseCommand_holds : reprioritiseCommand := by
  intro q w s n i code ⟨hready, hhost⟩ hop hs
  have hrun {r : Nat} {t : State} (h : reprioCmd n w s = (r, t)) : qCommand n w 4 (reprioCmd n w) s = qResult n r t :=
    qCommand_run hready hhost hop (by decide) h
  refine ⟨fun hcode => ?_, fun hcode => ?_⟩
  · exact gives_skein q.isLt rfl (hrun ((reprioCmd_eq hs n).trans (if_neg (by simpa using hcode))))
  · exact gives_refuses q.isLt (testSkeinCtx_lt _ _ _ _ _) rfl (hrun ((reprioCmd_eq hs n).trans (if_pos (by simpa using hcode))))

/-- The state that holds a parsed image for the context's next step boundary. -/
def stopHeld (k : Nat) (img : List W32) (s : State) : State := { s with stopsNext := put s.stopsNext {} k (parseStops img) }

@[simp] theorem after_stopsNext (f : State → State) (s : State) : (after f s).stopsNext = (f s).stopsNext := by
  obtain ⟨m, l, h⟩ := irqSettle_cases s (f s)
  unfold after tidy; rw [h]

theorem gives_stopHeld {q k : Nat} (hq : q < 4096) {img : List W32} {c : Instr} {f : State → State} {s : State}
    (hc : exec c s = run f s) (hf : f s = qResult q rcOk (stopHeld k img s)) :
    Gives c s fun t => resultWritten q rcOk s t ∧ lookup t.stopsNext {} k = parseStops img ∧
      (∀ j, j ≠ k → lookup t.stopsNext {} j = lookup s.stopsNext {} j) ∧
      RegsOnly [SKN_Q_HEAD q] { s with stopsNext := t.stopsNext } t := by
  refine gives_run hc ⟨resultWritten_qResult (t := stopHeld k img s) hq (by decide) (fun _ _ => rfl) hf, ?_, fun j hj => ?_, ?_⟩
  · rw [after_stopsNext, hf, stopsNext_qResult]; exact lookup_put_same _ _ _ _
  · rw [after_stopsNext, hf, stopsNext_qResult]; exact lookup_put_other _ _ _ _ hj
  · rw [after_stopsNext, hf, stopsNext_qResult]
    refine regsOnly_after_of rfl ?_
    rw [hf]
    exact regsOnly_qResult_ok q _

theorem stopLoadCommand_holds : stopLoadCommand := by
  intro q w img s n c set ⟨hready, hhost⟩ hop
  have hrun {r : Nat} {t : State} (h : stopLoadCmd n w img s = (r, t)) :
      qCommand n w 5 (stopLoadCmd n w img) s = qResult n r t := qCommand_run hready hhost hop (by decide) h
  refine ⟨fun hset hserves => ?_, fun hset => ?_, fun hset hserves => ?_⟩
  · refine gives_stopHeld (k := c * 256 + set) q.isLt rfl (hrun ?_)
    exact (if_neg hset).trans (if_neg (by simpa using hserves))
  · exact gives_refuses q.isLt (by decide) rfl (hrun (if_pos hset))
  · exact gives_refuses q.isLt (by decide) rfl (hrun ((if_neg hset).trans (if_pos (by simpa using hserves))))

theorem nopCommand_holds : nopCommand := by
  intro q w s n ⟨hready, hhost⟩
  refine ⟨fun hop => ?_, fun hop => ?_⟩
  · have he : qCommand n w 0 (fun s => (rcOk, s)) s = qResult n rcOk s := qCommand_run hready hhost hop (by decide) rfl
    refine gives_run rfl ⟨resultWritten_qResult q.isLt (by decide) (fun _ _ => rfl) he, regsOnly_after ?_⟩
    rw [he]
    exact regsOnly_qResult_ok n s
  · exact gives_refuses q.isLt (by decide) rfl (qCommand_reserved hready hhost hop)

/-- Settles O42: a command that fails a test leaves its code, and one that passes changes the skein or the stop set it names. -/
theorem queueCommands : Obligations.QueueCommands :=
  ⟨nopCommand_holds, cancelCommand_holds, retireCommand_holds, reprioritiseCommand_holds, stopLoadCommand_holds⟩

end Sys2Proof.Machine
end

section
/-! PROOFS. ADMIT (R195, R218, R219). -/

namespace Sys2Proof.Machine

open Sys2Proof.Safety

/-! ### Allocation -/

/-- Nothing has changed but the KV pools and directories and the counts of context `c`. -/
def KvTaken (c : Nat) (s t : State) : Prop := (∃ r v, t = { s with regs := r, kv := v }) ∧ SameRegs [KV_CTX c] s t

theorem KvTaken.trans {c : Nat} {s t u : State} (h : KvTaken c s t) (h' : KvTaken c t u) : KvTaken c s u := by
  obtain ⟨⟨r, v, rfl⟩, hr⟩ := h
  obtain ⟨⟨r', v', rfl⟩, hr'⟩ := h'
  exact ⟨⟨r', v', rfl⟩, fun o ho => (hr' o ho).trans (hr o ho)⟩

theorem kvTaken_refl (c : Nat) (s : State) : KvTaken c s s := ⟨⟨s.regs, s.kv, rfl⟩, fun _ _ => rfl⟩

theorem kvTaken_modKv (c : Nat) (f : Kv → Kv) (s : State) : KvTaken c s (modKv f s) := ⟨⟨s.regs, _, rfl⟩, fun _ _ => rfl⟩

theorem kvTaken_bumpFld {c : Nat} {f : FRef} (hf : f.off = KV_CTX c) (n : Nat) (s : State) : KvTaken c s (bumpFld f n s) :=
  ⟨⟨_, s.kv, rfl⟩, fun o ho => rd_setFld_other f _ s (by rw [hf]; simpa using ho)⟩

theorem kvTaken_allocHead {c h : Nat} {s t : State} (e : allocHead s = some (h, t)) : KvTaken c s t := by
  unfold allocHead at e
  split at e
  · cases e
  · cases e
    exact kvTaken_modKv c _ s

theorem kvTaken_allocLeaves {c n : Nat} {l : List Nat} {s t : State} (e : allocLeaves n s = some (l, t)) : KvTaken c s t := by
  induction n generalizing l s with
  | zero => cases e; exact kvTaken_refl c _
  | succ n ih =>
    unfold allocLeaves at e
    split at e
    · cases e
    split at e
    · cases e
    next heq =>
      cases e
      exact (kvTaken_modKv c _ s).trans (ih heq)

theorem kvTaken_allocPage {c a k f : Nat} {s t : State} (e : allocPage c a k s = some (f, t)) : KvTaken c s t := by
  unfold allocPage at e
  split at e
  · cases e
  · cases e
    exact (kvTaken_modKv c _ s).trans (kvTaken_bumpFld rfl 1 _)

theorem kvTaken_allocBobbin {c a k f : Nat} {s t : State} (e : allocBobbin c a k s = some (f, t)) : KvTaken c s t := by
  unfold allocBobbin at e
  split at e
  · cases e
  · cases e
    exact (kvTaken_modKv c _ s).trans (kvTaken_bumpFld rfl 1 _)

/-- A directory of sequence `i` of context `c` stands at head `h`. -/
def DirMade (c i h : Nat) (s t : State) : Prop := KvTaken c s t ∧ (dir h t).skein = i ∧ (dir h t).ctx = c

theorem dirMade_setDir {c i h : Nat} {d : Dir} {s t : State} (ht : KvTaken c s t) (hi : d.skein = i) (hc : d.ctx = c) :
    DirMade c i h s (bumpFld (KV_CTX_SEQUENCES c) 1 (setDir h d t)) := by
  have hd : dir h (bumpFld (KV_CTX_SEQUENCES c) 1 (setDir h d t)) = d := lookup_put_same t.kv.dirs {} h d
  refine ⟨(ht.trans (kvTaken_modKv c _ t)).trans (kvTaken_bumpFld rfl 1 _), ?_, ?_⟩
  · rw [hd, hi]
  · rw [hd, hc]

theorem code_refused {n : Nat} {P : Prop} (h : n < 256) (hn : n ≠ rcOk) : n < 256 ∧ (n = rcOk → P) := ⟨h, fun e => absurd e hn⟩

theorem admitDir_spec {c : Nat} {kd : KvDesc} {i : Nat} {g : W16} {first pages maxlen shard shards1 home : Nat} {s t : State}
    {code h : Nat} (e : admitDir c kd i g first pages maxlen shard shards1 home s = (code, h, t)) :
    code < 256 ∧ (code = rcOk → DirMade c i h s t) := by
  unfold admitDir at e
  split at e
  · cases e; exact code_refused (by decide) (by decide)
  next hhead =>
  split at e
  · cases e; exact code_refused (by decide) (by decide)
  next hleaves =>
  dsimp only at e
  split at e
  · cases e; exact code_refused (by decide) (by decide)
  next hpage =>
  split at e
  · cases e; exact code_refused (by decide) (by decide)
  next hbob =>
    cases e
    exact ⟨by decide, fun _ => dirMade_setDir ((((kvTaken_allocHead hhead).trans (kvTaken_allocLeaves hleaves)).trans
      (kvTaken_allocPage hpage)).trans (kvTaken_allocBobbin hbob)) rfl rfl⟩

theorem newDir_spec {c i : Nat} {w : CmdWords} {s t : State} {code h : Nat} (e : newDir c i w s = (code, h, t)) :
    code < 256 ∧ (code = rcOk → DirMade c i h s t) := by
  unfold newDir at e
  dsimp only at e
  split at e
  · exact admitDir_spec e
  split at e
  · cases e; exact code_refused (by decide) (by decide)
  next hhead =>
  split at e
  · cases e; exact code_refused (by decide) (by decide)
  · cases e
    exact ⟨by decide, fun _ => dirMade_setDir (kvTaken_allocHead hhead) rfl rfl⟩

/-! ### The entry that ADMIT fills -/

/-- The entry of a skein that queue `q` admits, with its directory at head `h`. -/
def admitted (q h : Nat) (w : CmdWords) (s : State) : Skein :=
  { state := .admitted, tenant := fld (SKN_QCFG_CTL_TENANT q) s, prio := cw w 2 31 29, ctx := qCtx q s, gen := cGen w
    profile := cw w 2 11 0, deadline := cDeadline w, maxlen := cw w 5 23 0, stopSet := cw w 2 23 16, dir := h
    shards1 := cw w 2 28 24, mask := cw w 3 15 0, promptLen := cw w 4 23 0, admitBeat := beat s % 2 ^ 40
    ringAddr := cw64 w 10, ringOrder := cw w 12 3 0, fn := fld (SKN_QCFG_CTL_FUNCTION q) s
    seed := BitVec.ofNat 64 (cw64 w 13), promptAddr := BitVec.ofNat 64 (cw64 w 8) }

section
variable {q : Nat} {w : CmdWords} {s : State} (hs : entrySound (cSkein w) s)
include hs

theorem admitCmd_refused (h : testSkeinCtx (qCtx q s) (cSkein w) (cGen w) (fun k => k.state == .free) s ≠ rcOk) :
    admitCmd q w s = (testSkeinCtx (qCtx q s) (cSkein w) (cGen w) (fun k => k.state == .free) s, s) := by
  unfold admitCmd
  dsimp only
  rw [tableRead_of_sound hs]
  exact if_pos (by simpa using h)

variable (hfirst : testSkeinCtx (qCtx q s) (cSkein w) (cGen w) (fun k => k.state == .free) s = rcOk)
include hfirst

theorem admitCmd_unfit (h : admitFields (qCtx q s) w s ≠ rcOk) : admitCmd q w s = (admitFields (qCtx q s) w s, s) := by
  unfold admitCmd
  dsimp only
  rw [tableRead_of_sound hs]
  exact (if_neg (by simpa using hfirst)).trans (if_pos (by simpa using h))

variable (hfields : admitFields (qCtx q s) w s = rcOk) {code h : Nat} {t : State}
  (hdir : newDir (qCtx q s) (cSkein w) w s = (code, h, t))
include hfields hdir

theorem admitCmd_full (hcode : code ≠ rcOk) : admitCmd q w s = (code, s) := by
  unfold admitCmd
  dsimp only
  rw [tableRead_of_sound hs]
  refine (if_neg (by simpa using hfirst)).trans ((if_neg (by simpa using hfields)).trans ?_)
  rw [hdir]
  exact if_pos (by simpa using hcode)

theorem admitCmd_admits (hcode : code = rcOk) :
    admitCmd q w s = (rcOk, bump64 (SKN_CNT 0) 1 (setSk (cSkein w) (admitted q h w s) t)) := by
  unfold admitCmd
  dsimp only
  rw [tableRead_of_sound hs]
  refine (if_neg (by simpa using hfirst)).trans ((if_neg (by simpa using hfields)).trans ?_)
  rw [hdir]
  exact if_neg (by simpa using hcode)

end

theorem admitFields_lt (c : Nat) (w : CmdWords) (s : State) : admitFields c w s < 256 := by
  unfold admitFields
  dsimp only
  split
  · decide
  split
  · decide
  split <;> decide

/-- The registers of a context's KV counts are not those of a queue. -/
theorem kvCtx_apart {c q : Nat} (hc : c < 64) (hq : q < 4096) :
    (∀ o ∈ queueRegs q, o ∉ [KV_CTX c] ∧ o ≠ SKN_CNT 0) ∧ SKN_CNT 0 ∉ [KV_CTX c] ∧ SKN_CNT 0 ≠ SKN_Q_HEAD q := by
  simp only [queueRegs, List.mem_cons, List.not_mem_nil, or_false, forall_eq_or_imp, forall_eq]
  unfold SKN_Q_HEAD SKN_QCFG_CTL SKN_QCFG_ADDR SKN_CNT KV_CTX
  omega

theorem qCtx_lt (q : Nat) (s : State) : qCtx q s < 64 := fldOf_lt _ _

@[simp] theorem after_kv (f : State → State) (s : State) : (after f s).kv = (f s).kv := by
  obtain ⟨m, l, h⟩ := irqSettle_cases s (f s)
  unfold after tidy; rw [h]

theorem dir_congr {s t : State} (h : t.kv = s.kv) (k : Nat) : dir k t = dir k s := by
  unfold dir
  rw [h]

/-- What ADMIT promises of the skein that it fills. -/
theorem gives_admits {q : BitVec 12} {w : CmdWords} {s : State} (hready : qReady q.toNat s = true) (hhost : hostAllowed s = true)
    (hop : cmdOp w = 1) {h : Nat} {t : State} (hdir : DirMade (qCtx q.toNat s) (cSkein w) h s t)
    (hcmd : admitCmd q.toNat w s = (rcOk, bump64 (SKN_CNT 0) 1 (setSk (cSkein w) (admitted q.toNat h w s) t))) :
    Gives (.admitSkein q w) s fun u => resultWritten q.toNat rcOk s u ∧ counts (SKN_CNT 0) 1 s u ∧ skeinOnly (cSkein w) s u ∧
      sk (cSkein w) u = admitted q.toNat h w s ∧ (dir h u).skein = cSkein w ∧ (dir h u).ctx = qCtx q.toNat s ∧ SameMem s u := by
  obtain ⟨⟨⟨r, v, ht⟩, hregs⟩, hskein, hctx⟩ := hdir
  obtain ⟨hqueue, hcnt, hhead⟩ := kvCtx_apart (qCtx_lt q.toNat s) q.isLt
  generalize hu : bump64 (SKN_CNT 0) 1 (setSk (cSkein w) (admitted q.toNat h w s) t) = u at hcmd
  have he := qCommand_run hready hhost hop (by decide) hcmd
  have husk : u.skeins = (setSk (cSkein w) (admitted q.toNat h w s) t).skeins := by rw [← hu]; rfl
  have hukv : u.kv = t.kv := by rw [← hu]; rfl
  have hmem : SameMem s u := by rw [← hu, ht]; exact fun _ => ⟨rfl, rfl⟩
  have htsk : t.skeins = s.skeins := by rw [ht]
  have hqueue' : ∀ o ∈ queueRegs q.toNat, rd o u = rd o s := fun o ho => by
    obtain ⟨hkv, hne⟩ := hqueue o ho
    rw [← hu]
    exact ((regEffect_bump64 (SKN_CNT 0) 1 _).2 o (by simpa using hne)).trans (hregs o hkv)
  have hresult := regsOnly_qResult_ok q.toNat u
  have hkv : (qResult q.toNat rcOk u).kv = u.kv := (congrArg State.kv hresult.1 : (rest _).kv = (rest u).kv)
  refine gives_run (f := qCommand q.toNat w 1 (admitCmd q.toNat w)) rfl
    ⟨resultWritten_qResult q.isLt (by decide) hqueue' he, ?_, fun j hj => ?_, ?_, ?_, ?_, ?_⟩
  · have hzero : rd (SKN_CNT 0) t = rd (SKN_CNT 0) s := hregs _ hcnt
    unfold counts
    rw [rd_after, he, hresult.2.2.2 _ (by simpa using hhead), ← hu]
    refine (counts_bump64 (SKN_CNT 0) 1 _).trans ?_
    rw [← hzero]; rfl
  · rw [sk_after, he, sk_congr (skeins_qResult _ _ _), sk_congr husk, sk_setSk_other hj, sk_congr htsk]
  · rw [sk_after, he, sk_congr (skeins_qResult _ _ _), sk_congr husk, sk_setSk_same]
  · rw [dir_congr (after_kv _ s), he, dir_congr hkv, dir_congr hukv, hskein]
  · rw [dir_congr (after_kv _ s), he, dir_congr hkv, dir_congr hukv, hctx]
  · refine sameMem_after ?_
    rw [he]
    exact sameMem_trans hmem hresult.2.1

/-- A queue without a command to read, or without a host, leaves no result. -/
theorem gives_admission_refused {q : BitVec 12} {w : CmdWords} {s : State} (hready : qReady q.toNat s = true)
    (hhost : hostAllowed s = true) (hop : cmdOp w = 1) {code : Nat} (hcode : code < 256) (hcmd : admitCmd q.toNat w s = (code, s)) :
    Gives (.admitSkein q w) s (refuses q.toNat code s) :=
  gives_refuses q.isLt hcode rfl (qCommand_run hready hhost hop (by decide) hcmd)

/-- Settles O43: the tests come one after the other, and only the last one that passes allocates. -/
theorem admission : Obligations.Admission := by
  intro q w s n c i first ⟨hready, hhost⟩ hop hs
  obtain ⟨code, h, t, hdir⟩ : ∃ code h t, newDir c i w s = (code, h, t) := ⟨_, _, _, rfl⟩
  obtain ⟨hlt, hmade⟩ := newDir_spec hdir
  have hcode : (newDir c i w s).1 = code := by rw [hdir]
  refine ⟨fun hfirst => ?_, fun hfirst hfields => ?_, fun hfirst hfields hfull => ?_, fun hfirst hfields hok => ?_⟩
  · exact gives_admission_refused hready hhost hop (testSkeinCtx_lt _ _ _ _ _) (admitCmd_refused hs hfirst)
  · exact gives_admission_refused hready hhost hop (admitFields_lt _ _ _) (admitCmd_unfit hs hfirst hfields)
  · rw [hcode] at hfull ⊢
    exact gives_admission_refused hready hhost hop hlt (admitCmd_full hs hfirst hfields hdir hfull)
  · rw [hcode] at hok
    obtain ⟨u, he, hresult, hcnt, honly, hsk, hskein, hctx, hmem⟩ :=
      gives_admits hready hhost hop (hmade hok) (admitCmd_admits hs hfirst hfields hdir hok)
    refine ⟨u, he, ?_⟩
    dsimp only
    rw [hsk]
    exact ⟨hresult, hcnt, honly, rfl, rfl, rfl, rfl, rfl, rfl, rfl, rfl, rfl, rfl, rfl, rfl, rfl, rfl, rfl, rfl, hskein, hctx, hmem⟩

end Sys2Proof.Machine
end

section
/-! PROOFS. Queue pages, direct cancels and balances (R226 to R229, R481, R482). -/

namespace Sys2Proof.Machine

open Sys2Proof.Safety

/-! ### What a write leaves in a field -/

theorem fldOf_written {o : Nat} {d : RegD} (hd : regDesc o = some d) (ha : FieldsApart d.flds) {f : Fld} (hf : f ∈ d.flds)
    (v : W64) (s : State) : fldOf f.ref (written o v s).1 = fieldAfter f (fldOf f.ref (rd o s)) (fldOf f.ref v) := by
  unfold written
  rw [hd]
  dsimp only
  rw [applyFields_eq]
  exact fldOf_writeFields ha v (rd o s, false) hf

/-! ### The registers of a queue -/

theorem blockTab_skn {o : Nat} (h : 0x400000 ≤ o) (h' : o < 0x500000) : blockTab o = sknRegs := by
  unfold blockTab
  rw [if_neg (by omega), if_pos (by omega), if_neg (by omega), if_neg (by omega), if_neg (by omega), if_neg (by omega)]

/-- SKN_QCFG_CTL of every queue. -/
def qcfgDesc : RegD :=
  ⟨0x408008, true, [(0x10, 4096)], [⟨63, 63, .rw, 0, []⟩, ⟨35, 32, .rw, 0, [(13, 15)]⟩, ⟨27, 24, .rw, 0, []⟩, ⟨21, 16, .rw, 0, []⟩,
    ⟨11, 0, .rw, 0, []⟩]⟩

theorem regDesc_SKN_QCFG_CTL {n : Nat} (hn : n < 4096) : regDesc (SKN_QCFG_CTL n) = some qcfgDesc := by
  unfold SKN_QCFG_CTL
  change look (0x408008 + 0x10 * n) (blockTab (0x408008 + 0x10 * n)) = _
  rw [blockTab_skn (by omega) (by omega)]
  unfold sknRegs
  repeat (first | rw [look_skip0 (by omega)] | rw [look_skip1 (by decide) (by omega)])
  exact look_hit1 (by decide) (by omega)

/-- EN takes the bit written. -/
theorem fld_written_EN {n : Nat} (hn : n < 4096) (v : W64) (s : State) :
    fldOf (SKN_QCFG_CTL_EN n) (written (SKN_QCFG_CTL n) v s).1 = fldOf (SKN_QCFG_CTL_EN n) v :=
  fldOf_written (regDesc_SKN_QCFG_CTL hn) (by decide) (f := ⟨63, 63, .rw, 0, []⟩) (by simp [qcfgDesc]) v s

theorem regWrite_skn {o : Nat} (h : 0x400000 ≤ o) (h' : o < 0x500000) (ok : Bool) (v : W64) (s : State) :
    regWrite ok o v s = sknWrite ok o v s := by
  unfold regWrite
  rw [if_neg (by omega), if_neg (by omega), if_neg (by omega), if_neg (by unfold SEC_CMD; omega), if_neg (by omega), if_neg (by omega),
    if_neg (by unfold BT_CTRL; omega), if_neg (by unfold BT_BEAT_LEN; omega), if_neg (by unfold WV_LOAD_CTRL; omega),
    if_neg (by unfold GAU_CTRL; omega), if_neg (by omega), if_neg (by omega), if_neg (by omega), if_neg (by omega), if_neg (by omega),
    if_pos (by omega)]

section
variable {n : Nat} (hn : n < 4096) (ok : Bool) (v : W64) (s : State)
include hn

theorem regWrite_SKN_QCFG_CTL : regWrite ok (SKN_QCFG_CTL n) v s = qcfgCtl n v s := by
  rw [regWrite_skn (by unfold SKN_QCFG_CTL; omega) (by unfold SKN_QCFG_CTL; omega)]
  unfold sknWrite SKN_QCFG_CTL
  rw [if_neg (by unfold SKN_CTRL; omega), if_neg (by unfold SKN_HANK_ADD; omega), if_neg (by simp; omega), if_pos (by simp; omega)]
  dsimp only
  rw [if_neg (by omega), show (0x408008 + 0x10 * n - 0x408000) / 0x10 = n by omega]

theorem sknWrite_page {r : Nat} (hr : r < 0x40) : sknWrite ok (0x440000 + 0x40 * n + r) v s =
    if r = 0 then qDoorbell n v ok s else if r = 8 then qRingTail n v s else s := by
  unfold sknWrite
  rw [if_neg (by unfold SKN_CTRL; omega), if_neg (by unfold SKN_HANK_ADD; omega), if_neg (by simp; omega), if_neg (by simp; omega),
    if_pos (by omega)]
  unfold qWrite
  dsimp only
  rw [show (0x440000 + 0x40 * n + r - 0x440000) / 0x40 = n by omega, show (0x440000 + 0x40 * n + r - 0x440000) % 0x40 = r by omega]

theorem regWrite_SKN_Q_DOORBELL : regWrite ok (SKN_Q_DOORBELL n) v s = qDoorbell n v ok s := by
  rw [regWrite_skn (by unfold SKN_Q_DOORBELL; omega) (by unfold SKN_Q_DOORBELL; omega)]
  exact sknWrite_page hn ok v s (r := 0) (by decide)

theorem regWrite_SKN_Q_RING_TAIL : regWrite ok (SKN_Q_RING_TAIL n) v s = qRingTail n v s := by
  rw [regWrite_skn (by unfold SKN_Q_RING_TAIL; omega) (by unfold SKN_Q_RING_TAIL; omega)]
  have h := sknWrite_page hn ok v s (r := 8) (by decide)
  rw [show SKN_Q_RING_TAIL n = 0x440000 + 0x40 * n + 8 by unfold SKN_Q_RING_TAIL; omega, h]
  rfl

end

/-! ### Doorbells (R229, R481) -/

/-- The fields that a doorbell within the ring writes. -/
def bellFlds (q tail : Nat) (ringOk : Bool) : List (FRef × Nat) :=
  (if ringOk then [] else [(SKN_Q_STATUS_FAULT q, 1)]) ++ [(SKN_Q_DOORBELL_TAIL q, tail), (SKN_Q_STATUS_BAD_TAIL q, 0)]

/-- A doorbell that the queue takes. -/
def bellTaken (q tail : Nat) (ringOk : Bool) (s : State) : State := setFlds (bellFlds q tail ringOk) s

theorem bellFlds_apart (q tail : Nat) (ok : Bool) : (bellFlds q tail ok).Pairwise fun x y => y.1.Apart x.1 := by
  cases ok <;>
    simp [bellFlds, FRef.Apart, SKN_Q_STATUS_FAULT, SKN_Q_DOORBELL_TAIL, SKN_Q_STATUS_BAD_TAIL]

theorem qDoorbell_disabled {q : Nat} {s : State} (h : bit (SKN_QCFG_CTL_EN q) s = false) (v : W64) (ok : Bool) :
    qDoorbell q v ok s = s := if_pos (by simp [h])

section
variable {q : Nat} {v : W64} {s : State} (h : bit (SKN_QCFG_CTL_EN q) s = true) (ok : Bool)
include h

theorem qDoorbell_beyond (ht : qSize q s < (fldOf (SKN_Q_DOORBELL_TAIL q) v + 65536 - fld (SKN_Q_HEAD_HEAD q) s) % 65536) :
    qDoorbell q v ok s = setFld (SKN_Q_STATUS_BAD_TAIL q) 1 s := (if_neg (by simp [h])).trans (if_pos ht)

theorem qDoorbell_within (ht : (fldOf (SKN_Q_DOORBELL_TAIL q) v + 65536 - fld (SKN_Q_HEAD_HEAD q) s) % 65536 ≤ qSize q s) :
    qDoorbell q v ok s = bellTaken q (fldOf (SKN_Q_DOORBELL_TAIL q) v) ok s :=
  (if_neg (by simp [h])).trans (if_neg (Nat.not_lt.mpr ht))

end

theorem bellTaken_spec {q tail : Nat} (ht : tail < 65536) (ok : Bool) (s : State) :
    fld (SKN_Q_DOORBELL_TAIL q) (bellTaken q tail ok s) = tail ∧ bit (SKN_Q_STATUS_BAD_TAIL q) (bellTaken q tail ok s) = false ∧
      (ok = true → bit (SKN_Q_STATUS_FAULT q) (bellTaken q tail ok s) = bit (SKN_Q_STATUS_FAULT q) s) ∧
      (ok = false → bit (SKN_Q_STATUS_FAULT q) (bellTaken q tail ok s) = true) ∧
      RegsOnly [SKN_Q_DOORBELL q, SKN_Q_STATUS q] s (bellTaken q tail ok s) := by
  have hapart := bellFlds_apart q tail ok
  refine ⟨?_, ?_, fun hok => ?_, fun hok => ?_, ?_⟩
  · exact (fld_setFlds_of_mem (x := tail) hapart (by decide : (15 : Nat) < 64) (by simp [bellFlds]) s).trans (Nat.mod_eq_of_lt ht)
  · have h0 := fld_setFlds_of_mem (f := SKN_Q_STATUS_BAD_TAIL q) (x := 0) hapart (by decide : (29 : Nat) < 64) (by simp [bellFlds]) s
    unfold bit bellTaken
    rw [h0]
    rfl
  · subst hok
    unfold bit bellTaken
    rw [fld_setFlds_apart (by decide : (30 : Nat) < 64)]
    simp [bellFlds, FRef.Apart, SKN_Q_STATUS_FAULT, SKN_Q_DOORBELL_TAIL, SKN_Q_STATUS_BAD_TAIL]
  · have h1 := fld_setFlds_of_mem (f := SKN_Q_STATUS_FAULT q) (x := 1) hapart (by decide : (30 : Nat) < 64) (by simp [bellFlds, hok]) s
    unfold bit bellTaken
    rw [h1]
    rfl
  · refine ((regEffect_setFlds _).mono fun o ho => ?_).regsOnly s
    cases ok
    · simp [bellFlds, SKN_Q_STATUS_FAULT, SKN_Q_DOORBELL_TAIL, SKN_Q_STATUS_BAD_TAIL] at ho ⊢
      tauto
    · simpa [bellFlds, SKN_Q_DOORBELL_TAIL, SKN_Q_STATUS_BAD_TAIL] using ho

/-- A write of a word that ends as the operand says. -/
theorem busWrite_word {o : Nat} {s : State} (h : Answers o s) (hr : regHold o = some (o, false)) (ok : Bool) (v : W32) :
    busWrite ok o 4 (v.setWidth 64) s = regWrite ok o (v.setWidth 64) (accessed o s) := by
  have hhit : hit o 4 s = .reg o false .full := hit_full h hr
  unfold busWrite
  rw [h.1, hhit]
  exact congrArg (regWrite ok o · _) (low32_mask v)

theorem doorbells (q : BitVec 12) (v : W32) (ok : Bool) (s : State) (ha : Answers (SKN_Q_DOORBELL q.toNat) s) :
    let n := q.toNat; let tail := fldOf (SKN_Q_DOORBELL_TAIL n) (v.setWidth 64)
    (bit (SKN_QCFG_CTL_EN n) s = false → Gives (.qDoorbell q ⟨v, ok⟩) s fun t => RegsOnly [] s t) ∧
    (bit (SKN_QCFG_CTL_EN n) s = true → qSize n s < (tail + 65536 - fld (SKN_Q_HEAD_HEAD n) s) % 65536 →
      Gives (.qDoorbell q ⟨v, ok⟩) s fun t => bit (SKN_Q_STATUS_BAD_TAIL n) t = true ∧ RegsOnly [SKN_Q_STATUS n] s t) ∧
    (bit (SKN_QCFG_CTL_EN n) s = true → (tail + 65536 - fld (SKN_Q_HEAD_HEAD n) s) % 65536 ≤ qSize n s →
      Gives (.qDoorbell q ⟨v, ok⟩) s fun t => fld (SKN_Q_DOORBELL_TAIL n) t = tail ∧ bit (SKN_Q_STATUS_BAD_TAIL n) t = false ∧
        (ok = true → bit (SKN_Q_STATUS_FAULT n) t = bit (SKN_Q_STATUS_FAULT n) s) ∧
        (ok = false → bit (SKN_Q_STATUS_FAULT n) t = true) ∧ RegsOnly [SKN_Q_DOORBELL n, SKN_Q_STATUS n] s t) := by
  intro n tail
  have hrun : exec (.qDoorbell q ⟨v, ok⟩) s = run (busWrite ok (SKN_Q_DOORBELL n) 4 (v.setWidth 64)) s := rfl
  have hbus : busWrite ok (SKN_Q_DOORBELL n) 4 (v.setWidth 64) s = qDoorbell n (v.setWidth 64) ok (accessed (SKN_Q_DOORBELL n) s) :=
    (busWrite_word ha (regHold_SKN_Q_DOORBELL n q.isLt) ok v).trans (regWrite_SKN_Q_DOORBELL q.isLt ok _ _)
  have hacc (l : List Nat) : RegsOnly l s (accessed (SKN_Q_DOORBELL n) s) := (regEffect_accessed l _).regsOnly s
  refine ⟨fun hen => ?_, fun hen ht => ?_, fun hen ht => ?_⟩
  · exact gives_run_to hrun (hbus.trans (qDoorbell_disabled (s := accessed (SKN_Q_DOORBELL n) s) hen _ _)) (regsOnly_after (hacc []))
  · refine gives_run_to hrun (hbus.trans (qDoorbell_beyond (s := accessed (SKN_Q_DOORBELL n) s) hen ok ht)) ⟨?_, regsOnly_after ?_⟩
    · rw [bit_after]
      exact bit_setFld_one (by decide : (29 : Nat) < 64) rfl _
    · exact regsOnly_trans (hacc _) ((regEffect_setFld (SKN_Q_STATUS_BAD_TAIL n) 1).regsOnly _)
  · obtain ⟨htail, hbad, hfault, hnofault, hregs⟩ := bellTaken_spec (q := n) (tail := tail) (fldOf_lt _ _) ok (accessed (SKN_Q_DOORBELL n) s)
    refine gives_run_to hrun (hbus.trans (qDoorbell_within (s := accessed (SKN_Q_DOORBELL n) s) hen ok ht)) ⟨?_, ?_, fun h => ?_, fun h => ?_, regsOnly_after ?_⟩
    · rw [fld_after]; exact htail
    · rw [bit_after]; exact hbad
    · rw [bit_after]; exact hfault h
    · rw [bit_after]; exact hnofault h
    · exact regsOnly_trans (hacc _) hregs

/-! ### Ring tails, and queues that start and stop -/

/-- A write of a wide register that ends as its own effect does. -/
theorem write64_to {o : Nat} {s u : State} (h : Answers o s) (hr : regHold o = some (o, true)) {v : W64}
    (he : regWrite true o v (accessed o s) = u) : driverWrite o 8 v s = u := (driverWrite_full (wide := true) h hr v).trans he

theorem entrySound_accessed {i o : Nat} {s : State} (h : entrySound i s) : entrySound i (accessed o s) := h

/-- The tail of a skein's ring moves. -/
def ringMoved (i : Nat) (v : W64) (s : State) : State := setSk i { sk i s with ringTail := v.setWidth 16 } s

theorem ringTail_bits (q : Nat) (v : W64) : BitVec.ofNat 16 (fldOf (SKN_Q_RING_TAIL_TAIL q) v) = v.setWidth 16 := by
  apply BitVec.eq_of_toNat_eq
  rw [BitVec.toNat_ofNat, BitVec.toNat_setWidth]
  simp [fldOf, SKN_Q_RING_TAIL_TAIL]

theorem qRingTail_reaches {q : Nat} {v : W64} {s : State} (hr : inRange (qCtx q s) (fldOf (SKN_Q_RING_TAIL_SKEIN q) v) s = true)
    (hs : entrySound (fldOf (SKN_Q_RING_TAIL_SKEIN q) v) s)
    (hg : (sk (fldOf (SKN_Q_RING_TAIL_SKEIN q) v) s).gen.toNat = fldOf (SKN_Q_RING_TAIL_GEN q) v) :
    qRingTail q v s = ringMoved (fldOf (SKN_Q_RING_TAIL_SKEIN q) v) v s := by
  unfold qRingTail
  dsimp only
  rw [if_pos (by simp [hr, hg]), tableRead_of_sound hs, ringTail_bits]
  rfl

theorem qRingTail_misses {q : Nat} {v : W64} {s : State} (h : ¬(inRange (qCtx q s) (fldOf (SKN_Q_RING_TAIL_SKEIN q) v) s = true ∧
    (sk (fldOf (SKN_Q_RING_TAIL_SKEIN q) v) s).gen.toNat = fldOf (SKN_Q_RING_TAIL_GEN q) v)) : qRingTail q v s = s :=
  if_neg (by simpa using h)

theorem ringTails (q : BitVec 12) (v : W64) (s : State) (ha : Answers (SKN_Q_RING_TAIL q.toNat) s) :
    let n := q.toNat; let i := fldOf (SKN_Q_RING_TAIL_SKEIN n) v
    (inRange (qCtx n s) i s = true → entrySound i s → (sk i s).gen.toNat = fldOf (SKN_Q_RING_TAIL_GEN n) v →
      Gives (.qRingTail q v) s fun t =>
        sk i t = { sk i s with ringTail := v.setWidth 16 } ∧ skeinOnly i s t ∧ RegsOnly [] { s with skeins := t.skeins } t) ∧
    (¬(inRange (qCtx n s) i s = true ∧ (sk i s).gen.toNat = fldOf (SKN_Q_RING_TAIL_GEN n) v) →
      Gives (.qRingTail q v) s fun t => RegsOnly [] s t) := by
  intro n i
  have hto {u : State} (he : qRingTail n v (accessed (SKN_Q_RING_TAIL n) s) = u) :
      driverWrite (SKN_Q_RING_TAIL n) 8 v s = u :=
    write64_to ha (regHold_SKN_Q_RING_TAIL n q.isLt) ((regWrite_SKN_Q_RING_TAIL q.isLt true v _).trans he)
  refine ⟨fun hr hs hg => ?_, fun h => ?_⟩
  · have he := hto (qRingTail_reaches (s := accessed (SKN_Q_RING_TAIL n) s) hr (entrySound_accessed hs) hg)
    refine gives_run_to (f := driverWrite (SKN_Q_RING_TAIL n) 8 v) rfl he ⟨?_, fun j hj => ?_, ?_⟩
    · rw [sk_after]; exact sk_setSk_same _ _ _
    · rw [sk_after]; exact sk_setSk_other hj _ _
    · rw [after_skeins]
      exact regsOnly_after_of rfl ⟨rfl, fun _ => ⟨rfl, rfl⟩, fun _ => rfl, fun _ _ => rfl⟩
  · have he := hto (qRingTail_misses (s := accessed (SKN_Q_RING_TAIL n) s) h)
    exact gives_run_to (f := driverWrite (SKN_Q_RING_TAIL n) 8 v) rfl he (regsOnly_after ((regEffect_accessed [] _).regsOnly s))

/-- The registers of a queue's page and configuration. -/
def pageRegs (q : Nat) : List Nat := [SKN_QCFG_CTL q, SKN_Q_HEAD q, SKN_Q_DOORBELL q, SKN_Q_STATUS q]

/-- The fields of a queue that starts, and of one that stops. -/
def startFlds (q : Nat) : List (FRef × Nat) :=
  [(SKN_Q_HEAD_HEAD q, 0), (SKN_Q_DOORBELL_TAIL q, 0), (SKN_Q_STATUS_EN q, 1), (SKN_Q_STATUS_FAULT q, 0)]
def stopFlds (q : Nat) : List (FRef × Nat) := [(SKN_Q_HEAD_HEAD q, 0), (SKN_Q_DOORBELL_TAIL q, 0), (SKN_Q_STATUS_EN q, 0)]

theorem pageFlds_apart {q : Nat} {l : List (FRef × Nat)} (hl : l = startFlds q ∨ l = stopFlds q) :
    (l.Pairwise fun x y => y.1.Apart x.1) ∧ l.map (fun p => p.1.off) ⊆ pageRegs q ∧
      SKN_QCFG_CTL q ∉ l.map (fun p => p.1.off) ∧ (SKN_Q_HEAD_HEAD q, 0) ∈ l ∧ (SKN_Q_DOORBELL_TAIL q, 0) ∈ l := by
  have hpage : SKN_Q_DOORBELL q ≠ SKN_Q_HEAD q ∧ SKN_Q_STATUS q ≠ SKN_Q_HEAD q ∧ SKN_Q_STATUS q ≠ SKN_Q_DOORBELL q := by
    unfold SKN_Q_DOORBELL SKN_Q_HEAD SKN_Q_STATUS; omega
  have hcfg : SKN_QCFG_CTL q ≠ SKN_Q_HEAD q ∧ SKN_QCFG_CTL q ≠ SKN_Q_DOORBELL q ∧ SKN_QCFG_CTL q ≠ SKN_Q_STATUS q := by
    unfold SKN_QCFG_CTL SKN_Q_DOORBELL SKN_Q_HEAD SKN_Q_STATUS; omega
  obtain ⟨h1, h2, h3⟩ := hpage
  obtain ⟨c1, c2, c3⟩ := hcfg
  rcases hl with rfl | rfl <;>
    simp [startFlds, stopFlds, pageRegs, FRef.Apart, SKN_Q_HEAD_HEAD, SKN_Q_DOORBELL_TAIL, SKN_Q_STATUS_EN, SKN_Q_STATUS_FAULT, h1, h2, h3,
      c1, c2, c3]

section
variable {q : Nat} {v : W64} {s : State} (hw : (written (SKN_QCFG_CTL q) v s).2 = false)
include hw

theorem qcfgCtl_runs (hen : bit (SKN_QCFG_CTL_EN q) s = true) (hv : wbit v 63 = true) : qcfgCtl q v s = s := by
  unfold qcfgCtl discarded rsvEnc
  rw [if_pos hen, if_pos hv, hw]
  rfl

theorem qcfgCtl_stops (hen : bit (SKN_QCFG_CTL_EN q) s = true) (hv : wbit v 63 = false) :
    qcfgCtl q v s = setFlds (stopFlds q) (wr (SKN_QCFG_CTL q) (written (SKN_QCFG_CTL q) v s).1 s) := by
  unfold qcfgCtl
  rw [if_pos hen, if_neg (by simp [hv]), store_of_not_noted hw]
  rfl

variable (hq : q < 4096)
include hq

omit hw in
theorem bit_EN_wr : bit (SKN_QCFG_CTL_EN q) (wr (SKN_QCFG_CTL q) (written (SKN_QCFG_CTL q) v s).1 s) = wbit v 63 := by
  have hfld : fld (SKN_QCFG_CTL_EN q) (wr (SKN_QCFG_CTL q) (written (SKN_QCFG_CTL q) v s).1 s) = fldOf (SKN_QCFG_CTL_EN q) v := by
    unfold fld
    rw [show (SKN_QCFG_CTL_EN q).off = SKN_QCFG_CTL q from rfl, rd_wr_same, fld_written_EN hq]
  have htest : fldOf (SKN_QCFG_CTL_EN q) v = (v.getLsbD 63).toNat := by
    have := Nat.toNat_testBit v.toNat 63
    rw [BitVec.getLsbD, this]
    simp [fldOf, SKN_QCFG_CTL_EN, Nat.shiftRight_eq_div_pow]
  unfold bit wbit
  rw [hfld, htest]
  cases v.getLsbD 63 <;> rfl

theorem qcfgCtl_starts (hen : bit (SKN_QCFG_CTL_EN q) s = false) (hv : wbit v 63 = true) :
    qcfgCtl q v s = setFlds (startFlds q) (wr (SKN_QCFG_CTL q) (written (SKN_QCFG_CTL q) v s).1 s) := by
  unfold qcfgCtl
  rw [if_neg (by simp [hen]), store_of_not_noted hw]
  exact if_pos ((bit_EN_wr hq).trans hv)

end

/-- What a start and a stop have in common. -/
theorem queue_switched {q : Nat} {l : List (FRef × Nat)} (hl : l = startFlds q ∨ l = stopFlds q) (x : W64) (s : State) :
    let u := setFlds l (wr (SKN_QCFG_CTL q) x s)
    rd (SKN_QCFG_CTL q) u = x ∧ fld (SKN_Q_HEAD_HEAD q) u = 0 ∧ fld (SKN_Q_DOORBELL_TAIL q) u = 0 ∧ RegsOnly (pageRegs q) s u := by
  obtain ⟨hapart, hsub, hcfg, hhead, hbell⟩ := pageFlds_apart hl
  refine ⟨?_, ?_, ?_, ?_⟩
  · rw [(regEffect_setFlds l _).2 _ hcfg, rd_wr_same]
  · exact (fld_setFlds_of_mem hapart (by decide : (15 : Nat) < 64) hhead _).trans (Nat.zero_mod _)
  · exact (fld_setFlds_of_mem hapart (by decide : (15 : Nat) < 64) hbell _).trans (Nat.zero_mod _)
  · exact (((regEffect_wr (SKN_QCFG_CTL q) x).of_mem (by simp [pageRegs])).comp ((regEffect_setFlds l).mono hsub)).regsOnly s

theorem queueSwitches (q : BitVec 12) (v : W64) (s : State) (ha : Answers (SKN_QCFG_CTL q.toNat) s)
    (hw : (written (SKN_QCFG_CTL q.toNat) v s).2 = false) : let n := q.toNat
    (bit (SKN_QCFG_CTL_EN n) s = false → v.getLsbD 63 = true → Gives (.queueEnable q v) s fun t =>
      rd (SKN_QCFG_CTL n) t = (written (SKN_QCFG_CTL n) v s).1 ∧ bit (SKN_QCFG_CTL_EN n) t = true ∧
        fld (SKN_Q_HEAD_HEAD n) t = 0 ∧ fld (SKN_Q_DOORBELL_TAIL n) t = 0 ∧ bit (SKN_Q_STATUS_EN n) t = true ∧
        RegsOnly [SKN_QCFG_CTL n, SKN_Q_HEAD n, SKN_Q_DOORBELL n, SKN_Q_STATUS n] s t) ∧
    (bit (SKN_QCFG_CTL_EN n) s = true → v.getLsbD 63 = false → Gives (.queueDisable q v) s fun t =>
      bit (SKN_QCFG_CTL_EN n) t = false ∧ fld (SKN_Q_HEAD_HEAD n) t = 0 ∧ fld (SKN_Q_DOORBELL_TAIL n) t = 0 ∧
        RegsOnly [SKN_QCFG_CTL n, SKN_Q_HEAD n, SKN_Q_DOORBELL n, SKN_Q_STATUS n] s t) ∧
    (bit (SKN_QCFG_CTL_EN n) s = true → v.getLsbD 63 = true → Gives (.queueEnable q v) s fun t => RegsOnly [] s t) := by
  intro n
  have hto {u : State} (he : qcfgCtl n v (accessed (SKN_QCFG_CTL n) s) = u) : driverWrite (SKN_QCFG_CTL n) 8 v s = u :=
    write64_to ha (regHold_SKN_QCFG_CTL n q.isLt) ((regWrite_SKN_QCFG_CTL q.isLt true v _).trans he)
  have hw' : (written (SKN_QCFG_CTL n) v (accessed (SKN_QCFG_CTL n) s)).2 = false := hw
  have hen {l : List (FRef × Nat)} (hl : l = startFlds n ∨ l = stopFlds n) :
      bit (SKN_QCFG_CTL_EN n) (setFlds l (wr (SKN_QCFG_CTL n) (written (SKN_QCFG_CTL n) v s).1 (accessed (SKN_QCFG_CTL n) s))) = wbit v 63 := by
    rw [← bit_EN_wr q.isLt]
    exact congrArg (· != 0) ((regEffect_setFlds l).fld (pageFlds_apart hl).2.2.1 _)
  have hacc (l : List Nat) : RegsOnly l s (accessed (SKN_QCFG_CTL n) s) := (regEffect_accessed l _).regsOnly s
  refine ⟨fun h hv => ?_, fun h hv => ?_, fun h hv => ?_⟩
  · obtain ⟨hrd, hhead, hbell, hregs⟩ := queue_switched (q := n) (.inl rfl) (written (SKN_QCFG_CTL n) v s).1 (accessed (SKN_QCFG_CTL n) s)
    refine gives_run_to (f := driverWrite (SKN_QCFG_CTL n) 8 v) rfl (hto (qcfgCtl_starts (s := accessed (SKN_QCFG_CTL n) s) hw' q.isLt h hv))
      ⟨?_, ?_, ?_, ?_, ?_, regsOnly_after (regsOnly_trans (hacc _) hregs)⟩
    · rw [rd_after]; exact hrd
    · rw [bit_after]; exact (hen (.inl rfl)).trans hv
    · rw [fld_after]; exact hhead
    · rw [fld_after]; exact hbell
    · rw [bit_after]
      have hone := fld_setFlds_of_mem (f := SKN_Q_STATUS_EN n) (x := 1) (pageFlds_apart (q := n) (.inl rfl)).1 (by decide : (31 : Nat) < 64)
        (by simp [startFlds]) (wr (SKN_QCFG_CTL n) (written (SKN_QCFG_CTL n) v s).1 (accessed (SKN_QCFG_CTL n) s))
      exact congrArg (· != 0) hone
  · obtain ⟨-, hhead, hbell, hregs⟩ := queue_switched (q := n) (.inr rfl) (written (SKN_QCFG_CTL n) v s).1 (accessed (SKN_QCFG_CTL n) s)
    refine gives_run_to (f := driverWrite (SKN_QCFG_CTL n) 8 v) rfl (hto (qcfgCtl_stops (s := accessed (SKN_QCFG_CTL n) s) hw' h hv))
      ⟨?_, ?_, ?_, regsOnly_after (regsOnly_trans (hacc _) hregs)⟩
    · rw [bit_after]; exact (hen (.inr rfl)).trans hv
    · rw [fld_after]; exact hhead
    · rw [fld_after]; exact hbell
  · exact gives_run_to (f := driverWrite (SKN_QCFG_CTL n) 8 v) rfl (hto (qcfgCtl_runs (s := accessed (SKN_QCFG_CTL n) s) hw' h hv))
      (regsOnly_after (hacc []))

/-! ### Balances (R226) -/

@[simp] theorem after_hank (f : State → State) (s : State) : (after f s).hank = (f s).hank := by
  obtain ⟨m, l, h⟩ := irqSettle_cases s (f s)
  unfold after tidy; rw [h]

theorem fldOf_AMOUNT (v : W64) : BitVec.ofNat 48 (fldOf SKN_HANK_ADD_AMOUNT v) = v.setWidth 48 := by
  apply BitVec.eq_of_toNat_eq
  rw [BitVec.toNat_ofNat, BitVec.toNat_setWidth]
  simp [fldOf, SKN_HANK_ADD_AMOUNT]

/-- A tenant's balance after an addition, as the register holds it. -/
def hankAfter (v : W64) (s : State) : Int :=
  (BitVec.ofInt 56 (min (balance (fldOf SKN_HANK_ADD_TENANT v) s + (v.setWidth 48).toInt * 256)
    (fld (SKN_HANK_CAP_CAP (fldOf SKN_HANK_ADD_TENANT v)) s * 256 : Nat))).toInt

/-- The tenant's balance takes a value. -/
def hankSet (n : Nat) (x : Int) (s : State) : State := { s with hank := put s.hank 0 n x }

theorem hankAddWrite_eq (v : W64) (s : State) : hankAddWrite v s = hankSet (fldOf SKN_HANK_ADD_TENANT v) (hankAfter v s) s := by
  unfold hankAddWrite hankAdd hankSet hankAfter hankWrap
  dsimp only
  rw [fldOf_AMOUNT, Nat.cast_mul]
  rfl

theorem hankAdds (v : W64) (s : State) (ha : Answers SKN_HANK_ADD s) : let n := fldOf SKN_HANK_ADD_TENANT v
    Gives (.sknHankAdd v) s fun t => balance n t = hankAfter v s ∧ (∀ m, m ≠ n → balance m t = balance m s) ∧
      RegsOnly [] { s with hank := t.hank } t := by
  intro n
  have hhold : regHold SKN_HANK_ADD = some (SKN_HANK_ADD, true) := by decide +kernel
  have he : driverWrite SKN_HANK_ADD 8 v s = hankSet n (hankAfter v s) (accessed SKN_HANK_ADD s) :=
    write64_to ha hhold (hankAddWrite_eq v _)
  refine gives_run_to (f := driverWrite SKN_HANK_ADD 8 v) rfl he ⟨?_, fun m hm => ?_, ?_⟩
  · unfold balance; rw [after_hank]; exact lookup_put_same _ _ _ _
  · unfold balance; rw [after_hank]; exact lookup_put_other _ _ _ _ hm
  · rw [after_hank]
    exact regsOnly_after_of rfl ⟨rfl, fun _ => ⟨rfl, rfl⟩, fun _ => rfl, fun _ _ => rfl⟩

/-! ### Direct cancels (R223, R227, R482) -/

/-- The fields of SKN_CTRL. -/
def sknCtrlDesc : RegD := ⟨0x400000, true, [], [⟨63, 63, .w1s, 0, []⟩, ⟨47, 32, .rw, 0, []⟩, ⟨17, 0, .rw, 0, []⟩]⟩

theorem regDesc_SKN_CTRL : regDesc SKN_CTRL = some sknCtrlDesc := by decide +kernel

/-- SKN_CTRL holds the word written, with CANCEL clear. -/
def cancelAsked (v : W64) (s : State) : State := setFld SKN_CTRL_CANCEL 0 (wr SKN_CTRL (written SKN_CTRL v s).1 s)

/-- The result of a direct cancel is shown. -/
def cancelShown (code : Nat) (s : State) : State := setFlds [(SKN_CANCEL_STATUS_BUSY, 0), (SKN_CANCEL_STATUS_CODE, code)] s

theorem cancelAsked_flds (v : W64) (s : State) : fld SKN_CTRL_SKEIN (cancelAsked v s) = fldOf SKN_CTRL_SKEIN v ∧
    fld SKN_CTRL_GEN (cancelAsked v s) = fldOf SKN_CTRL_GEN v := by
  have hskein : fldOf SKN_CTRL_SKEIN (written SKN_CTRL v s).1 = fldOf SKN_CTRL_SKEIN v :=
    fldOf_written regDesc_SKN_CTRL (by decide) (f := ⟨17, 0, .rw, 0, []⟩) (by simp [sknCtrlDesc]) v s
  have hgen : fldOf SKN_CTRL_GEN (written SKN_CTRL v s).1 = fldOf SKN_CTRL_GEN v :=
    fldOf_written regDesc_SKN_CTRL (by decide) (f := ⟨47, 32, .rw, 0, []⟩) (by simp [sknCtrlDesc]) v s
  have hrd (f : FRef) (hf : f.off = SKN_CTRL) : fld f (wr SKN_CTRL (written SKN_CTRL v s).1 s) = fldOf f (written SKN_CTRL v s).1 := by
    unfold fld
    rw [hf, rd_wr_same]
  unfold cancelAsked
  rw [fld_setFld_apart (.inr (.inr (by decide))) (by decide), fld_setFld_apart (.inr (.inr (by decide))) (by decide), hrd _ rfl, hrd _ rfl]
  exact ⟨hskein, hgen⟩

theorem regEffect_cancelAsked (v : W64) : RegEffect [SKN_CTRL] (cancelAsked v) := fun s =>
  ((regEffect_wr SKN_CTRL (written SKN_CTRL v s).1).comp (regEffect_setFld SKN_CTRL_CANCEL 0)) s

theorem regEffect_cancelShown (code : Nat) : RegEffect [SKN_CANCEL_STATUS] (cancelShown code) :=
  (regEffect_setFlds _).mono fun o ho => by simpa [SKN_CANCEL_STATUS_BUSY, SKN_CANCEL_STATUS_CODE] using ho

theorem cancelShown_flds {code : Nat} (h : code < 256) (s : State) : fld SKN_CANCEL_STATUS_CODE (cancelShown code s) = code ∧
    bit SKN_CANCEL_STATUS_BUSY (cancelShown code s) = false := by
  have hapart : [(SKN_CANCEL_STATUS_BUSY, 0), (SKN_CANCEL_STATUS_CODE, code)].Pairwise fun x y => y.1.Apart x.1 := by
    simp [FRef.Apart, SKN_CANCEL_STATUS_BUSY, SKN_CANCEL_STATUS_CODE]
  constructor
  · exact (fld_setFlds_of_mem (x := code) hapart (by decide) (by simp) s).trans (Nat.mod_eq_of_lt h)
  · exact congrArg (· != 0) (fld_setFlds_of_mem (f := SKN_CANCEL_STATUS_BUSY) (x := 0) hapart (by decide) (by simp) s)

theorem sknCtrl_cancel {v : W64} {s : State} (hv : v.getLsbD 63 = true) : sknCtrl v s = directCancel (cancelAsked v s) := by
  have hstore : store SKN_CTRL v s = wr SKN_CTRL (written SKN_CTRL v s).1 s :=
    store_of_not_noted (written_notes_none regDesc_SKN_CTRL (by decide) v s)
  unfold sknCtrl
  rw [hstore]
  exact if_pos hv

/-- Code and state of a direct cancel of a word, in the order of its tests; the tests look at `s`. -/
def cancelCase (v : W64) (s u : State) : Nat × State :=
  if (sk (fldOf SKN_CTRL_SKEIN v) s).gen.toNat != fldOf SKN_CTRL_GEN v then (rcStale, u)
  else if (sk (fldOf SKN_CTRL_SKEIN v) s).state == .free then (rcState, u)
  else if !ctxServes (sk (fldOf SKN_CTRL_SKEIN v) s).ctx s then (rcContext, u)
  else cancelSkein (fldOf SKN_CTRL_SKEIN v) u

theorem directCancel_asked {v : W64} {s : State} (hs : entrySound (fldOf SKN_CTRL_SKEIN v) s) :
    directCancel (cancelAsked v s) = cancelShown (cancelCase v s (cancelAsked v s)).1 (cancelCase v s (cancelAsked v s)).2 := by
  obtain ⟨hskein, hgen⟩ := cancelAsked_flds v s
  have hsk : sk (fldOf SKN_CTRL_SKEIN v) (cancelAsked v s) = sk (fldOf SKN_CTRL_SKEIN v) s := rfl
  have hsound : entrySound (fldOf SKN_CTRL_SKEIN v) (cancelAsked v s) := hs
  have hserves (c : Nat) : ctxServes c (cancelAsked v s) = ctxServes c s := by
    have hstate : ctxState c (cancelAsked v s) = ctxState c s :=
      (regEffect_cancelAsked v).fld (by simp [CTX_STATE_STATE]; unfold CTX_STATE SKN_CTRL; omega) s
    unfold ctxServes ctxExists
    rw [hstate]
  unfold directCancel
  dsimp only
  rw [hskein, tableRead_of_sound hsound, hgen, hsk, hserves]
  rfl

section
variable {v : W64} {s : State} (u : State) (hgen : (sk (fldOf SKN_CTRL_SKEIN v) s).gen.toNat = fldOf SKN_CTRL_GEN v)

theorem cancelCase_stale (h : (sk (fldOf SKN_CTRL_SKEIN v) s).gen.toNat ≠ fldOf SKN_CTRL_GEN v) :
    cancelCase v s u = (rcStale, u) := if_pos (by simpa using h)

include hgen

theorem cancelCase_free (h : (sk (fldOf SKN_CTRL_SKEIN v) s).state = .free) : cancelCase v s u = (rcState, u) :=
  (if_neg (by simpa using hgen)).trans (if_pos (by simpa using h))

variable (h : (sk (fldOf SKN_CTRL_SKEIN v) s).state ≠ .free)
include h

theorem cancelCase_context (hc : ctxServes (sk (fldOf SKN_CTRL_SKEIN v) s).ctx s = false) : cancelCase v s u = (rcContext, u) :=
  (if_neg (by simpa using hgen)).trans ((if_neg (by simpa using h)).trans (if_pos (by simpa using hc)))

theorem cancelCase_reaches (hc : ctxServes (sk (fldOf SKN_CTRL_SKEIN v) s).ctx s = true) :
    cancelCase v s u = cancelSkein (fldOf SKN_CTRL_SKEIN v) u :=
  (if_neg (by simpa using hgen)).trans ((if_neg (by simpa using h)).trans (if_neg (by simpa using hc)))

end

theorem regWrite_SKN_CTRL (v : W64) (s : State) : regWrite true SKN_CTRL v s = sknCtrl v s := by
  rw [regWrite_skn (by decide) (by decide)]
  unfold sknWrite
  rw [if_pos rfl]

theorem RegsOnly.skeins_eq {l : List Nat} {s t : State} (h : RegsOnly l s t) : t.skeins = s.skeins := by
  have hs : (rest t).skeins = (rest s).skeins := congrArg State.skeins h.1
  exact hs

/-- A direct cancel that ends with a code and skein table as given. -/
theorem gives_directCancel {v : W64} {s : State} (ha : Answers SKN_CTRL s) (hv : v.getLsbD 63 = true) {code : Nat} (hcode : code < 256)
    {t : State} (he : directCancel (cancelAsked v (accessed SKN_CTRL s)) = cancelShown code t)
    (hregs : RegsOnly [SKN_CTRL] { s with skeins := t.skeins } t) :
    Gives (.directCancel v) s fun u => u.skeins = t.skeins ∧
      fld SKN_CANCEL_STATUS_CODE u = code ∧ bit SKN_CANCEL_STATUS_BUSY u = false ∧
        RegsOnly [SKN_CTRL, SKN_CANCEL_STATUS] { s with skeins := u.skeins } u := by
  have hhold : regHold SKN_CTRL = some (SKN_CTRL, true) := by decide +kernel
  have hto : driverWrite SKN_CTRL 8 v s = cancelShown code t := by
    refine write64_to ha hhold ?_
    rw [regWrite_SKN_CTRL, sknCtrl_cancel hv, he]
  obtain ⟨hshown, hbusy⟩ := cancelShown_flds hcode t
  have hshow := (regEffect_cancelShown code).regsOnly t
  have hskeins : (cancelShown code t).skeins = t.skeins := RegsOnly.skeins_eq hshow
  refine gives_run_to (f := driverWrite SKN_CTRL 8 v) rfl hto ⟨?_, ?_, ?_, ?_⟩
  · rw [after_skeins, hskeins]
  · rw [fld_after]; exact hshown
  · rw [bit_after]; exact hbusy
  · rw [after_skeins, hskeins]
    exact regsOnly_after_of rfl (regsOnly_trans (regsOnly_weaken hregs) (regsOnly_weaken hshow))

theorem regsOnly_cancelAsked (v : W64) (s : State) : RegsOnly [SKN_CTRL] s (cancelAsked v (accessed SKN_CTRL s)) :=
  regsOnly_trans ((regEffect_accessed _ _).regsOnly s) ((regEffect_cancelAsked v).regsOnly _)

theorem regsOnly_setSkeins {l : List Nat} {s t : State} (x : List (Nat × Skein)) (h : RegsOnly l s t) :
    RegsOnly l { s with skeins := x } { t with skeins := x } := by
  obtain ⟨hrest, hmem, hwear, hregs⟩ := h
  exact ⟨congrArg (fun z : State => { z with skeins := x }) hrest, hmem, hwear, hregs⟩

theorem directCancels_holds : directCancels := by
  intro v s i shows ha hv hs
  have hcases : directCancel (cancelAsked v (accessed SKN_CTRL s)) =
      cancelShown (cancelCase v s (cancelAsked v (accessed SKN_CTRL s))).1 (cancelCase v s (cancelAsked v (accessed SKN_CTRL s))).2 :=
    directCancel_asked (s := accessed SKN_CTRL s) hs
  have hregs := regsOnly_cancelAsked v s
  have hgives {code : Nat} (hcode : code < 256) {t : State} (he : directCancel (cancelAsked v (accessed SKN_CTRL s)) = cancelShown code t)
      (honly : RegsOnly [SKN_CTRL] { s with skeins := t.skeins } t) := gives_directCancel ha hv hcode he honly
  generalize cancelAsked v (accessed SKN_CTRL s) = u at hcases hregs hgives
  have hskeins : u.skeins = s.skeins := RegsOnly.skeins_eq hregs
  have hsk : sk i u = sk i s := sk_congr hskeins i
  have hbeat : beat u = beat s := congrArg BitVec.toNat (hregs.2.2.2 BT_TALLY (by decide))
  -- a cancel that shows a code and leaves the table as it is
  have hshows {code : Nat} (hcode : code < 256) (hcase : cancelCase v s u = (code, u)) :
      Gives (.directCancel v) s fun t => shows code t ∧ t.skeins = s.skeins := by
    rw [hcase] at hcases
    obtain ⟨t, ht, hsame, hshown, hbusy, honly⟩ := hgives hcode hcases (by rw [hskeins]; exact hregs)
    exact ⟨t, ht, ⟨hshown, hbusy, honly⟩, hsame.trans hskeins⟩
  refine ⟨fun hgen => hshows (by decide) (cancelCase_stale u hgen), fun hgen => ⟨fun hst => hshows (by decide) (cancelCase_free u hgen hst),
    fun hst hserves => hshows (by decide) (cancelCase_context u hgen hst hserves), fun hserves => ⟨fun hst => ?_, fun hst => ?_, fun hst => ?_⟩⟩⟩
  · have hfree : (sk i s).state ≠ .free := fun h => by rw [h] at hst; simp at hst
    exact hshows (by decide) ((cancelCase_reaches u hgen hfree hserves).trans (cancelSkein_complete (by rw [hsk]; exact hst)))
  · have hfree : (sk i s).state ≠ .free := fun h => by rw [h] at hst; simp at hst
    exact hshows (by decide) ((cancelCase_reaches u hgen hfree hserves).trans (cancelSkein_cancelling (by rw [hsk]; exact hst)))
  · have hfree : (sk i s).state ≠ .free := fun h => by rw [h] at hst; simp at hst
    rw [(cancelCase_reaches u hgen hfree hserves).trans (cancelSkein_reaches (by rw [hsk]; exact hst))] at hcases
    obtain ⟨t, ht, hsame, hshown, hbusy, honly⟩ := hgives (by decide : rcOk < 256) hcases
      (regsOnly_trans (regsOnly_setSkeins _ hregs) (regsOnly_setSk _ _ _ u))
    refine ⟨t, ht, ?_, fun j hj => ?_, hshown, hbusy, honly⟩
    · rw [sk_congr hsame, sk_setSk_same, hsk, hbeat]
    · rw [sk_congr hsame, sk_setSk_other hj, sk_congr hskeins]

/-- Settles O44: each register of a queue's page acts on that queue alone, and SKN_CTRL on the skein that it names. -/
theorem queuePages : Obligations.QueuePages :=
  ⟨fun q v ok s => doorbells q v ok s, fun q v s => ringTails q v s, fun q v s => queueSwitches q v s, directCancels_holds,
    fun v s => hankAdds v s⟩

end Sys2Proof.Machine
end

section
/-! PROOFS. Prompt slices and completion records that waited (R216, R219, R220, R227, R417, R448). -/

namespace Sys2Proof.Machine

open Sys2Proof.Safety

/-! ### Faults of a skein -/

/-- Registers aside, a fault changes its skein alone. -/
def SkeinFault (i : Nat) (l : List Nat) (s t : State) : Prop :=
  skeinOnly i s t ∧ RegsOnly l { s with skeins := t.skeins } t

/-- The entry of a skein that its own fault moves to FAULTED. -/
def faultedEntry (cause : Nat) (k : Skein) : Skein :=
  { k with state := .faulted, cause := cause
           due := if k.due.isSome then some { status := 3, cause := cause } else none }

theorem faultSkein_live {i : Nat} {s : State} (h : skLive (sk i s) = true) (cause : Nat) :
    faultSkein i cause s = bump64 (SKN_CNT 4) 1 (setSk i (faultedEntry cause (sk i s)) s) := if_pos h

theorem faultSkein_dead {i : Nat} {s : State} (h : skLive (sk i s) = false) (cause : Nat) : faultSkein i cause s = s :=
  if_neg (by simp [h])

@[simp] theorem sk_bump64 (i o n : Nat) (s : State) : sk i (bump64 o n s) = sk i s := rfl

@[simp] theorem sk_setErr (i : Nat) (f : FRef) (s : State) : sk i (setErr f s) = sk i s := rfl

theorem sk_faultSkein_same {i : Nat} {s : State} (h : skLive (sk i s) = true) (cause : Nat) :
    sk i (faultSkein i cause s) = faultedEntry cause (sk i s) := by
  rw [faultSkein_live h, sk_bump64, sk_setSk_same]

theorem sk_faultSkein_other {i j : Nat} (h : j ≠ i) (cause : Nat) (s : State) : sk j (faultSkein i cause s) = sk j s := by
  cases hl : skLive (sk i s)
  · rw [faultSkein_dead hl]
  · rw [faultSkein_live hl, sk_bump64, sk_setSk_other h]

theorem regsOnly_faultSkein (i cause : Nat) (s : State) :
    RegsOnly [SKN_CNT 4] { s with skeins := (faultSkein i cause s).skeins } (faultSkein i cause s) := by
  cases hl : skLive (sk i s)
  · rw [faultSkein_dead hl]; exact (regEffect_id _).regsOnly s
  · rw [faultSkein_live hl]
    exact regsOnly_trans (regsOnly_setSk _ i (faultedEntry cause (sk i s)) s) ((regEffect_bump64 (SKN_CNT 4) 1).regsOnly _)

/-- A fault leaves a skein that is not live. -/
theorem skLive_faultSkein (i cause : Nat) (s : State) : skLive (sk i (faultSkein i cause s)) = false := by
  cases hl : skLive (sk i s)
  · rw [faultSkein_dead hl]; exact hl
  · rw [sk_faultSkein_same hl]; rfl

/-! ### Prompt slices (R219, R417) -/

theorem skLive_of_stages {k : Skein} (h : stages k = true) : skLive k = true := by
  unfold stages at h
  simp only [Bool.and_eq_true, Bool.or_eq_true, beq_iff_eq] at h
  obtain ⟨(h | h) | h, -⟩ := h <;> simp [skLive, h]

/-- The position from which the next slice is staged. -/
def stagePos (k : Skein) : Nat := k.promptPos + k.staged.length

/-- The tokens of a slice, decrypted. -/
def openSlice (key : BitVec 256) (k : Skein) (n : Nat) (b : List Byte) : Option (List W32) :=
  openChunks (requestKey key (b.take 32)) k.promptLen (stagePos k / 1024)
    ((List.range n).map fun m => promptChunk b (stagePos k / 1024 + m))

/-- The entry after a slice was staged. -/
def stagedEntry (b : List Byte) (ts : List W32) (k : Skein) : Skein :=
  { k with reqId := b.take 32, staged := k.staged ++ ts.take (k.promptLen - stagePos k) }

section
variable {i n : Nat} {s : State} (hst : stages (sk i s) = true) (hfn : fnUp (sk i s).fn s = true) (hhost : hostAllowed s = true)
  (hs : entrySound i s)
include hst hfn hhost hs

theorem promptStaged_unread : promptStaged i n none s = promptFail i false s := by
  unfold promptStaged
  dsimp only
  rw [if_pos hst, tableRead_of_sound hs, if_neg (by simp [hst, hfn]), hhost]
  rfl

variable (b : List Byte)

theorem promptStaged_unkeyed (hkey : find? s.sec.tenantKeys (sk i s).tenant = none) :
    promptStaged i n (some b) s = promptFail i true s := by
  unfold promptStaged
  dsimp only
  rw [if_pos hst, tableRead_of_sound hs, if_neg (by simp [hst, hfn]), hhost]
  dsimp only
  rw [hkey]

theorem promptStaged_keyed {key : BitVec 256} (hkey : find? s.sec.tenantKeys (sk i s).tenant = some key) {ts : List W32}
    (hts : openSlice key (sk i s) n b = some ts)
    (hroom : stageUse s + (ts.take ((sk i s).promptLen - stagePos (sk i s))).length ≤ 1048576) :
    promptStaged i n (some b) s = setSk i (stagedEntry b ts (sk i s)) s := by
  unfold openSlice stagePos at hts
  unfold stagePos at hroom
  unfold promptStaged
  dsimp only
  rw [if_pos hst, tableRead_of_sound hs, if_neg (by simp [hst, hfn]), hhost]
  dsimp only
  rw [hkey]
  dsimp only
  rw [hts]
  dsimp only
  rw [if_neg (by omega)]
  rfl

end

theorem regEffect_setErr (f : FRef) : RegEffect [f.off] (setErr f) := regEffect_setFld f 1

/-- The registers of a prompt that failed its tag. -/
def promptErrs (s : State) : State := setErr SKN_ERR_PROMPT_FAULT (bump64 (SEC_CNT 3) 1 (setErr SEC_ERR_STREAM_AUTH s))

theorem regEffect_promptErrs : RegEffect [SEC_ERR, SEC_CNT 3, SKN_ERR] promptErrs :=
  (((regEffect_setErr SEC_ERR_STREAM_AUTH).of_mem (by simp [SEC_ERR_STREAM_AUTH])).comp
    ((regEffect_bump64 (SEC_CNT 3) 1).of_mem (by simp))).comp ((regEffect_setErr SKN_ERR_PROMPT_FAULT).of_mem (by simp [SKN_ERR_PROMPT_FAULT]))

theorem promptErrs_spec (s : State) : bit SEC_ERR_STREAM_AUTH (promptErrs s) = true ∧ bit SKN_ERR_PROMPT_FAULT (promptErrs s) = true ∧
    counts (SEC_CNT 3) 1 s (promptErrs s) := by
  refine ⟨?_, bit_setErr (by decide) (by decide) _, ?_⟩
  · unfold promptErrs bit
    rw [(regEffect_setErr SKN_ERR_PROMPT_FAULT).fld (g := SEC_ERR_STREAM_AUTH) (by decide),
      (regEffect_bump64 (SEC_CNT 3) 1).fld (g := SEC_ERR_STREAM_AUTH) (by decide)]
    exact bit_setErr (by decide) (by decide) s
  · unfold promptErrs counts
    rw [(regEffect_setErr SKN_ERR_PROMPT_FAULT _).2 _ (by decide)]
    refine (counts_bump64 (SEC_CNT 3) 1 (setErr SEC_ERR_STREAM_AUTH s)).trans ?_
    rw [(regEffect_setErr SEC_ERR_STREAM_AUTH s).2 (SEC_CNT 3) (by decide)]

theorem rd_faultSkein {o : Nat} (h : o ≠ SKN_CNT 4) (i cause : Nat) (s : State) : rd o (faultSkein i cause s) = rd o s :=
  (regsOnly_faultSkein i cause s).2.2.2 o (by simpa using h)

theorem bit_faultSkein {f : FRef} (h : f.off ≠ SKN_CNT 4) (i cause : Nat) (s : State) : bit f (faultSkein i cause s) = bit f s :=
  congrArg (fun v => fldOf f v != 0) (rd_faultSkein h i cause s)

theorem promptSlices (i : BitVec 18) (n : Nat) (b : List Byte) (s : State) (hst : stages (sk i.toNat s) = true)
    (hfn : fnUp (sk i.toNat s).fn s = true) (hhost : hostAllowed s = true) (hs : entrySound i.toNat s) :
    let k := sk i.toNat s
    let pos := k.promptPos + k.staged.length
    (∀ key ts, find? s.sec.tenantKeys k.tenant = some key →
      openChunks (requestKey key (b.take 32)) k.promptLen (pos / 1024) ((List.range n).map fun m => promptChunk b (pos / 1024 + m)) = some ts →
      stageUse s + (ts.take (k.promptLen - pos)).length ≤ 1048576 → Gives (.promptSliceStaged i n (some b)) s fun t =>
        sk i.toNat t = { k with reqId := b.take 32, staged := k.staged ++ ts.take (k.promptLen - pos) } ∧
          skeinOnly i.toNat s t ∧ RegsOnly [] { s with skeins := t.skeins } t) ∧
    (find? s.sec.tenantKeys k.tenant = none → Gives (.promptSliceStaged i n (some b)) s fun t =>
      (sk i.toNat t).state = .faulted ∧ (sk i.toNat t).cause = fcContext ∧ bit SEC_ERR_STREAM_AUTH t = true ∧
        bit SKN_ERR_PROMPT_FAULT t = true ∧ counts (SEC_CNT 3) 1 s t ∧ skeinOnly i.toNat s t) ∧
    Gives (.promptSliceStaged i n none) s fun t =>
      (sk i.toNat t).state = .faulted ∧ bit SKN_ERR_PROMPT_FAULT t = true ∧ skeinOnly i.toNat s t ∧
        RegsOnly [SKN_ERR, SKN_CNT 4] { s with skeins := t.skeins } t := by
  intro k pos
  refine ⟨fun key ts hkey hts hroom => ?_, fun hkey => ?_, ?_⟩
  · have he := promptStaged_keyed hst hfn hhost hs b hkey hts hroom
    refine gives_run_to (f := promptStaged i.toNat n (some b)) rfl he ⟨?_, fun j hj => ?_, ?_⟩
    · rw [sk_after]; exact sk_setSk_same _ _ _
    · rw [sk_after]; exact sk_setSk_other hj _ _
    · rw [after_skeins]
      exact regsOnly_after_of rfl (regsOnly_setSk _ _ _ s)
  · have he : promptStaged i.toNat n (some b) s = faultSkein i.toNat fcContext (promptErrs s) :=
      promptStaged_unkeyed hst hfn hhost hs b hkey
    obtain ⟨hauth, hprompt, hcnt⟩ := promptErrs_spec s
    have hlive : skLive (sk i.toNat (promptErrs s)) = true := skLive_of_stages hst
    refine gives_run_to (f := promptStaged i.toNat n (some b)) rfl he ⟨?_, ?_, ?_, ?_, ?_, fun j hj => ?_⟩
    · rw [sk_after, sk_faultSkein_same hlive]; rfl
    · rw [sk_after, sk_faultSkein_same hlive]; rfl
    · rw [bit_after, bit_faultSkein (by decide)]; exact hauth
    · rw [bit_after, bit_faultSkein (by decide)]; exact hprompt
    · unfold counts
      rw [rd_after, rd_faultSkein (by decide)]
      exact hcnt
    · rw [sk_after, sk_faultSkein_other hj]; rfl
  · have he : promptStaged i.toNat n none s = faultSkein i.toNat fcContext (setErr SKN_ERR_PROMPT_FAULT s) :=
      promptStaged_unread hst hfn hhost hs
    have hlive : skLive (sk i.toNat (setErr SKN_ERR_PROMPT_FAULT s)) = true := skLive_of_stages hst
    refine gives_run_to (f := promptStaged i.toNat n none) rfl he ⟨?_, ?_, fun j hj => ?_, ?_⟩
    · rw [sk_after, sk_faultSkein_same hlive]; rfl
    · rw [bit_after, bit_faultSkein (by decide)]
      exact bit_setErr (by decide) (by decide) s
    · rw [sk_after, sk_faultSkein_other hj]; rfl
    · rw [after_skeins]
      have herr := regsOnly_setSkeins (faultSkein i.toNat fcContext (setErr SKN_ERR_PROMPT_FAULT s)).skeins
        ((regEffect_setErr SKN_ERR_PROMPT_FAULT).regsOnly s)
      refine regsOnly_after_of rfl (regsOnly_trans (regsOnly_weaken herr ?_) (regsOnly_weaken (regsOnly_faultSkein _ _ _)))
      simp [SKN_ERR_PROMPT_FAULT]

/-! ### Completion records that waited (R216, R220, R221) -/

theorem ringFails_of_allowed {i : Nat} {s : State} (hl : i ∉ s.lostRings) (hhost : hostAllowed s = true) : ringFails i s = false := by
  unfold ringFails
  simp [hl, hhost]

theorem hostWrite_up {fn : Nat} {s : State} (h : fnUp fn s = true) (i addr : Nat) (bs : List Byte) :
    hostWrite i fn addr bs s = send (.hostWrite fn addr bs) s := if_pos h

/-- The words of the record that completes skein `i`. -/
def completionWords (i : Nat) (c : Completion) (s : State) : List W32 :=
  let k := sk i s
  [recWord0 k 1 0 false k.narrow, BitVec.ofNat 32 (i * 2 ^ 14), 0, (rd (WV_STEP k.ctx) s).setWidth 32,
   BitVec.ofNat 32 (c.status + c.cause * 256), BitVec.ofNat 32 k.length, BitVec.ofNat 32 k.outTokens,
   BitVec.ofNat 32 (k.narrowSteps + c.stopIndex * 256), 0, 0, 0, 0, 0, 0, 0, 0]

/-- The record is no longer due. -/
def recordDone (k : Skein) : Skein := { k with due := none, recorded := true }

theorem writeCompletion_due {i : Nat} {s : State} {c : Completion} (hdue : (sk i s).due = some c) (hfree : ringFree (sk i s) ≠ 0) :
    writeCompletion i s = modSk i recordDone (putRecord i (completionWords i c s) s) := by
  unfold writeCompletion
  dsimp only
  rw [hdue]
  exact if_neg hfree

theorem length_wordsBytes (ws : List W32) : (wordsBytes ws).length = 4 * ws.length := by
  induction ws with
  | nil => rfl
  | cons w ws ih =>
    have h : wordsBytes (w :: ws) = natToBytes 4 w.toNat ++ wordsBytes ws := rfl
    rw [h, List.length_append, ih, length_natToBytes, List.length_cons]
    omega

theorem length_withPhase (p : Bool) (ws : List W32) : (withPhase p ws).length = ws.length := by cases ws <;> rfl

/-- Where a skein's next record goes. -/
def recordAddr (k : Skein) : Nat := k.ringAddr + k.ringHead.toNat % ringSize k * 64

/-- The entry after a record was put. -/
def recordPut (ws : List W32) (k : Skein) : Skein :=
  { k with ringHead := k.ringHead + 1
           ringPhase := if k.ringHead.toNat % ringSize k + 1 = ringSize k then !k.ringPhase else k.ringPhase
           unset := k.unset ++ [(recordAddr k, wordsBytes ((withPhase k.ringPhase ws).take 1))] }

theorem putRecord_up {i : Nat} {s : State} (hf : ringFails i s = false) (hfn : fnUp (sk i s).fn s = true) (ws : List W32) :
    putRecord i ws s = setSk i (recordPut ws (sk i s))
      (send (.hostWrite (sk i s).fn (recordAddr (sk i s)) (wordsBytes (withPhase (!(sk i s).ringPhase) ws))) s) := by
  unfold putRecord
  dsimp only
  rw [if_neg (by simp [hf]), hostWrite_up hfn]
  rfl

/-- Only messages have left. -/
def Sends (s t : State) : Prop := ∃ m, t = { s with sent := s.sent ++ m }

theorem sends_foldl_hostWrite {fn : Nat} {s : State} (h : fnUp fn s = true) (i : Nat) (l : List (Nat × List Byte)) :
    Sends s (l.foldl (fun s u => hostWrite i fn u.1 u.2 s) s) := by
  induction l generalizing s with
  | nil => exact ⟨[], by rw [List.append_nil]; rfl⟩
  | cons u l ih =>
    rw [List.foldl_cons, hostWrite_up h]
    obtain ⟨m, hm⟩ := ih (s := send (.hostWrite fn u.1 u.2) s) h
    exact ⟨.hostWrite fn u.1 u.2 :: m, by rw [hm]; unfold send; rw [List.append_assoc]; rfl⟩

/-- A vector is due for the function of a skein. -/
def ringDue (fn : Nat) (s : State) : State := { s with ringFns := s.ringFns ||| BitVec.ofNat 16 (2 ^ fn) }

/-- The phases of a skein's records are set. -/
theorem setPhases_up {i : Nat} {s : State} (hu : (sk i s).unset ≠ []) (hf : ringFails i s = false)
    (hfn : fnUp (sk i s).fn s = true) :
    ∃ u, Sends s u ∧ setPhases i s = ringDue (sk i s).fn (setSk i { sk i s with unset := [] } u) := by
  refine ⟨_, sends_foldl_hostWrite hfn i (sk i s).unset, ?_⟩
  unfold setPhases
  dsimp only
  rw [if_neg (by simpa using hu), if_neg (by simp [hf])]
  rfl

/-- Nothing has changed but the skein table, the vectors due and the messages that left. -/
def TableOnly (s t : State) : Prop := ∃ k r m, t = { s with skeins := k, ringFns := r, sent := m }

theorem TableOnly.trans {s t u : State} (h : TableOnly s t) (h' : TableOnly t u) : TableOnly s u := by
  obtain ⟨k, r, m, rfl⟩ := h
  obtain ⟨k', r', m', rfl⟩ := h'
  exact ⟨k', r', m', rfl⟩

theorem TableOnly.of_sends {s t : State} (h : Sends s t) : TableOnly s t := by
  obtain ⟨m, rfl⟩ := h
  exact ⟨s.skeins, s.ringFns, _, rfl⟩

theorem tableOnly_send (m : Sent) (s : State) : TableOnly s (send m s) := ⟨s.skeins, s.ringFns, _, rfl⟩

theorem tableOnly_setSk (i : Nat) (k : Skein) (s : State) : TableOnly s (setSk i k s) := ⟨_, s.ringFns, s.sent, rfl⟩

theorem tableOnly_ringDue (fn : Nat) (s : State) : TableOnly s (ringDue fn s) := ⟨s.skeins, _, s.sent, rfl⟩

theorem TableOnly.regsOnly {s t : State} (h : TableOnly s t) : RegsOnly [] { s with skeins := t.skeins, ringFns := t.ringFns } t := by
  obtain ⟨k, r, m, rfl⟩ := h
  exact ⟨rfl, fun _ => ⟨rfl, rfl⟩, fun _ => rfl, fun _ _ => rfl⟩

/-- The entry after a completion record was written whole. -/
def completed (ws : List W32) (k : Skein) : Skein := { recordDone (recordPut ws k) with unset := [] }

@[simp] theorem after_ringFns (f : State → State) (s : State) : (after f s).ringFns = (f s).ringFns := by
  obtain ⟨m, l, h⟩ := irqSettle_cases s (f s)
  unfold after tidy; rw [h]

section
variable {i : Nat} {s : State} {c : Completion} (hdue : (sk i s).due = some c) (hfree : ringFree (sk i s) ≠ 0)
  (hfn : fnUp (sk i s).fn s = true) (hs : entrySound i s)
include hdue hfree hfn hs

theorem completionWrite_ok : completionWrite i true s = setPhases i (writeCompletion i s) := by
  have htable : (if (sk i s).due.isSome then tableRead i s else s) = s := by rw [tableRead_of_sound hs, ite_self]
  unfold completionWrite
  dsimp only
  rw [htable, if_neg (by simp [hdue, hfree, hfn])]
  rfl

theorem completionWrite_failed : completionWrite i false s = modSk i recordDone (ringFault i s) := by
  have htable : (if (sk i s).due.isSome then tableRead i s else s) = s := by rw [tableRead_of_sound hs, ite_self]
  unfold completionWrite
  dsimp only
  rw [htable, if_neg (by simp [hdue, hfree, hfn])]
  rfl

omit hs in
/-- A record that reaches the host, with its phase: messages aside, the entry and the vector due change. -/
theorem completion_up (hf : ringFails i s = false) {t : State} (ht : setPhases i (writeCompletion i s) = t) :
    sk i t = completed (completionWords i c s) (sk i s) ∧ skeinOnly i s t ∧
    .hostWrite (sk i s).fn (recordAddr (sk i s)) (wordsBytes (withPhase (!(sk i s).ringPhase) (completionWords i c s))) ∈ t.sent ∧
    RegsOnly [] { s with skeins := t.skeins, ringFns := t.ringFns } t := by
  rw [writeCompletion_due hdue hfree, putRecord_up hf hfn] at ht
  generalize completionWords i c s = ws at ht ⊢
  generalize hm : Sent.hostWrite (sk i s).fn (recordAddr (sk i s)) (wordsBytes (withPhase (!(sk i s).ringPhase) ws)) = m at ht ⊢
  generalize hv : modSk i recordDone (setSk i (recordPut ws (sk i s)) (send m s)) = v at ht
  have hsk : sk i v = recordDone (recordPut ws (sk i s)) := by rw [← hv, modSk, sk_setSk_same, sk_setSk_same]
  have hother (j : Nat) (hj : j ≠ i) : sk j v = sk j s := by rw [← hv, modSk, sk_setSk_other hj, sk_setSk_other hj]; rfl
  have hunset : (sk i v).unset ≠ [] := by rw [hsk]; simp [recordDone, recordPut]
  have hfails : ringFails i v = false := by
    rw [← hf]
    unfold ringFails
    rw [hsk, ← hv]
    rfl
  have hup : fnUp (sk i v).fn v = true := by rw [hsk, ← hv]; exact hfn
  obtain ⟨u, ⟨x, hu⟩, he⟩ := setPhases_up hunset hfails hup
  have huv : u.skeins = v.skeins := by rw [hu]
  rw [he] at ht
  have hts : t.skeins = (setSk i { sk i v with unset := [] } u).skeins := by rw [← ht]; rfl
  refine ⟨?_, fun j hj => ?_, ?_, ?_⟩
  · rw [sk_congr hts, sk_setSk_same, hsk]; rfl
  · rw [sk_congr hts, sk_setSk_other hj, sk_congr huv, hother j hj]
  · rw [← ht, hu, ← hv]
    exact List.mem_append_left _ (List.mem_append_right _ (List.mem_singleton.mpr rfl))
  · refine TableOnly.regsOnly ?_
    rw [← ht]
    refine TableOnly.trans ?_ ((TableOnly.of_sends ⟨x, hu⟩).trans ((tableOnly_setSk _ _ _).trans (tableOnly_ringDue _ _)))
    rw [← hv]
    exact (tableOnly_send m s).trans ((tableOnly_setSk _ _ _).trans (tableOnly_setSk _ _ _))

omit hs hfn in
/-- A record that the host may not take: the skein faults, and the record is no longer due. -/
theorem completion_lost (hf : ringFails i s = true) :
    setPhases i (writeCompletion i s) = setPhases i (modSk i recordDone (ringLost i s)) := by
  rw [writeCompletion_due hdue hfree]
  unfold putRecord
  dsimp only
  rw [if_pos hf]

end

/-- What a failed record leaves: nothing due, the fault shown. -/
def RecordLost (i : Nat) (s t : State) : Prop :=
  (sk i t).due = none ∧ (sk i t).recorded = true ∧ bit SKN_ERR_RING_FAULT t = true ∧
    ((sk i s).state = .done → (sk i t).state = .faulted ∧ (sk i t).cause = fcContext) ∧ skeinOnly i s t ∧ skLive (sk i t) = false

theorem recordLost_ringFault {i : Nat} {s b : State} (hsk : ∀ j, sk j b = sk j s) : RecordLost i s (modSk i recordDone (ringFault i b)) := by
  have hsame : sk i (modSk i recordDone (ringFault i b)) = recordDone (sk i (ringFault i b)) := sk_setSk_same _ _ _
  have hb : sk i (setErr SKN_ERR_RING_FAULT b) = sk i s := hsk i
  refine ⟨by rw [hsame]; rfl, by rw [hsame]; rfl, ?_, fun hdone => ?_, fun j hj => ?_, ?_⟩
  · have hbit : bit SKN_ERR_RING_FAULT (ringFault i b) = true :=
      (bit_faultSkein (by decide) i fcContext _).trans (bit_setErr (by decide) (by decide) b)
    exact hbit
  · have hlive : skLive (sk i (setErr SKN_ERR_RING_FAULT b)) = true := by rw [hb]; simp [skLive, hdone]
    rw [hsame, ringFault, sk_faultSkein_same hlive]
    exact ⟨rfl, rfl⟩
  · rw [modSk, sk_setSk_other hj, ringFault, sk_faultSkein_other hj]
    exact hsk j
  · rw [hsame]
    exact skLive_faultSkein i fcContext _

/-- Setting the phases of a skein that faulted drops them. -/
theorem setPhases_lost {i : Nat} {s t : State} (h : RecordLost i s t) (hf : ringFails i t = true) :
    RecordLost i s (setPhases i t) := by
  obtain ⟨hdue, hrec, hbit, hdone, honly, hlive⟩ := h
  unfold setPhases
  dsimp only
  split
  · exact ⟨hdue, hrec, hbit, hdone, honly, hlive⟩
  rw [ringLost, ringFault]
  generalize hv : setErr SKN_ERR_RING_FAULT _ = v
  have hsk : sk i v = { sk i t with unset := [] } := by
    rw [← hv]
    split
    · exact sk_setSk_same _ _ _
    · exact sk_setSk_same _ _ _
  have hother (j : Nat) (hj : j ≠ i) : sk j v = sk j t := by
    rw [← hv]
    split
    · exact sk_setSk_other hj _ _
    · exact sk_setSk_other hj _ _
  have hset : bit SKN_ERR_RING_FAULT v = true := by rw [← hv]; exact bit_setErr (by decide) (by decide) _
  have hdead : skLive (sk i v) = false := by rw [hsk]; exact hlive
  rw [faultSkein_dead hdead]
  refine ⟨by rw [hsk]; exact hdue, by rw [hsk]; exact hrec, hset, fun h => by rw [hsk]; exact hdone h, fun j hj => ?_, hdead⟩
  rw [hother j hj, honly j hj]

theorem ringFails_of_refused {i : Nat} {s : State} (hhost : hostAllowed s = false) (hfn : fnUp (sk i s).fn s = true) :
    ringFails i s = true := by
  unfold ringFails
  simp [hhost, hfn]

/-- A failed record changes neither the host's leave nor the state of a function. -/
theorem ringLost_host {i : Nat} {s : State} (hhost : hostAllowed s = false) (hfn : fnUp (sk i s).fn s = true) :
    let t := modSk i recordDone (ringLost i s)
    hostAllowed t = false ∧ fnUp (sk i t).fn t = true := by
  have hlost : ringLost i s = ringFault i (setErr SEC_ERR_IDE s) := by
    unfold ringLost
    rw [if_pos (by simp [hhost, hfn])]
  have hregs := regsOnly_faultSkein i fcContext (setErr SKN_ERR_RING_FAULT (setErr SEC_ERR_IDE s))
  rw [hlost]
  have hsec : (ringFault i (setErr SEC_ERR_IDE s)).sec = s.sec := (congrArg State.sec hregs.1 : (rest _).sec = (rest _).sec)
  have hboot : (ringFault i (setErr SEC_ERR_IDE s)).boot = s.boot := (congrArg State.boot hregs.1 : (rest _).boot = (rest _).boot)
  have hctrl : bit SEC_CTRL_REQUIRE_IDE (ringFault i (setErr SEC_ERR_IDE s)) = bit SEC_CTRL_REQUIRE_IDE s := by
    rw [ringFault, bit_faultSkein (by decide)]
    exact congrArg (· != 0) ((fld_setFld_other _ _ 1 _ (by decide)).trans (fld_setFld_other _ _ 1 s (by decide)))
  have hk : (sk i (ringFault i (setErr SEC_ERR_IDE s))).fn = (sk i s).fn := by
    rw [ringFault]
    cases hl : skLive (sk i (setErr SKN_ERR_RING_FAULT (setErr SEC_ERR_IDE s)))
    · rw [faultSkein_dead hl]; rfl
    · rw [sk_faultSkein_same hl]; rfl
  constructor
  · rw [← hhost]
    unfold hostAllowed
    rw [← hctrl, ← hsec]
    rfl
  · rw [modSk, sk_setSk_same, recordDone, hk, ← hfn]
    unfold fnUp
    rw [← hboot]
    rfl

theorem completions (i : BitVec 18) (c : Completion) (s : State) (hdue : (sk i.toNat s).due = some c) (hfree : ringFree (sk i.toNat s) ≠ 0)
    (hfn : fnUp (sk i.toNat s).fn s = true) (hs : entrySound i.toNat s) (hlost : i.toNat ∉ s.lostRings) :
    let k := sk i.toNat s
    (hostAllowed s = true → Gives (.completionRecordWrite i true) s fun t =>
      (sk i.toNat t).due = none ∧ (sk i.toNat t).recorded = true ∧ (sk i.toNat t).ringHead = k.ringHead + 1 ∧
        (sk i.toNat t).unset = [] ∧
        (∃ b, .hostWrite k.fn (k.ringAddr + k.ringHead.toNat % ringSize k * 64) b ∈ t.sent ∧ b.length = 64) ∧
        skeinOnly i.toNat s t ∧ RegsOnly [] { s with skeins := t.skeins, ringFns := t.ringFns } t) ∧
    (∀ ok, ok = false ∨ hostAllowed s = false → Gives (.completionRecordWrite i ok) s fun t =>
      (sk i.toNat t).due = none ∧ (sk i.toNat t).recorded = true ∧ bit SKN_ERR_RING_FAULT t = true ∧
        (k.state = .done → (sk i.toNat t).state = .faulted ∧ (sk i.toNat t).cause = fcContext) ∧ skeinOnly i.toNat s t) := by
  intro k
  refine ⟨fun hhost => ?_, fun ok hok => ?_⟩
  · obtain ⟨hsk, honly, hsent, hregs⟩ := completion_up hdue hfree hfn (ringFails_of_allowed hlost hhost) rfl
    refine gives_run_to (f := completionWrite i.toNat true) rfl (completionWrite_ok hdue hfree hfn hs) ?_
    generalize setPhases i.toNat (writeCompletion i.toNat s) = u at hsk honly hsent hregs ⊢
    have hsk' : sk i.toNat (after (fun _ => u) s) = completed (completionWords i.toNat c s) k := (sk_after _ _ _).trans hsk
    refine ⟨?_, ?_, ?_, ?_, ⟨_, mem_sent_after hsent, ?_⟩, fun j hj => ?_, ?_⟩
    · rw [hsk']; rfl
    · rw [hsk']; rfl
    · rw [hsk']; rfl
    · rw [hsk']; rfl
    · rw [length_wordsBytes, length_withPhase]; rfl
    · rw [sk_after]; exact honly j hj
    · rw [after_skeins, after_ringFns]
      exact regsOnly_after_of rfl hregs
  · have hgives {f : State → State} (hf : completionWrite i.toNat ok s = f s) (h : RecordLost i.toNat s (f s)) :
        Gives (.completionRecordWrite i ok) s fun t =>
          (sk i.toNat t).due = none ∧ (sk i.toNat t).recorded = true ∧ bit SKN_ERR_RING_FAULT t = true ∧
          (k.state = .done → (sk i.toNat t).state = .faulted ∧ (sk i.toNat t).cause = fcContext) ∧ skeinOnly i.toNat s t := by
      obtain ⟨hdue, hrec, hbit, hdone, honly, -⟩ := h
      refine gives_run_of (f := completionWrite i.toNat ok) (g := f) rfl hf ⟨?_, ?_, ?_, fun h => ?_, fun j hj => ?_⟩
      · rw [sk_after]; exact hdue
      · rw [sk_after]; exact hrec
      · rw [bit_after]; exact hbit
      · rw [sk_after]; exact hdone h
      · rw [sk_after]; exact honly j hj
    cases ok with
    | false =>
      exact hgives (f := fun s => modSk i.toNat recordDone (ringFault i.toNat s)) (completionWrite_failed hdue hfree hfn hs)
        (recordLost_ringFault fun _ => rfl)
    | true =>
      have hhost : hostAllowed s = false := hok.resolve_left (by decide)
      obtain ⟨hhost', hfn'⟩ := ringLost_host hhost hfn
      have hsteps := (completionWrite_ok hdue hfree hfn hs).trans (completion_lost hdue hfree (ringFails_of_refused hhost hfn))
      refine hgives (f := fun s => setPhases i.toNat (modSk i.toNat recordDone (ringLost i.toNat s))) hsteps ?_
      refine setPhases_lost ?_ (ringFails_of_refused hhost' hfn')
      exact recordLost_ringFault fun j => by split <;> rfl

/-- Settles O45: a slice is staged or faults its skein, and a record reaches the host whole or faults its skein. -/
theorem promptsAndCompletions : Obligations.PromptsAndCompletions :=
  ⟨fun i n b s => promptSlices i n b s, fun i c s => completions i c s⟩

end Sys2Proof.Machine
end

section
/-! PROOFS. Variant swaps (R142 to R144): the checks of a list, its start, and the copies of its pairs. -/

namespace Sys2Proof.Machine

open Sys2Proof.Safety

@[simp] theorem after_swap (f : State → State) (s : State) : (after f s).swap = (f s).swap := by
  obtain ⟨m, l, h⟩ := irqSettle_cases s (f s)
  unfold after tidy; rw [h]

/-! ### Effects on registers, the swap list and the governor's own state -/

/-- From s to t the listed registers, the swap list and the governor's own state may change. -/
def SwapOnly (l : List Nat) (s t : State) : Prop := RegsOnly l { s with swap := t.swap, pwr := t.pwr } t

theorem SwapOnly.trans {l : List Nat} {s t u : State} (h : SwapOnly l s t) (h' : SwapOnly l t u) : SwapOnly l s u := by
  obtain ⟨hrest, hmem, hwear, hregs⟩ := h
  have hset : RegsOnly l { s with swap := u.swap, pwr := u.pwr } { t with swap := u.swap, pwr := u.pwr } :=
    ⟨congrArg (fun x : State => { x with swap := u.swap, pwr := u.pwr }) hrest, hmem, hwear, hregs⟩
  exact regsOnly_trans hset h'

theorem RegEffect.swapOnly {l : List Nat} {f : State → State} (h : RegEffect l f) (s : State) : SwapOnly l s (f s) := by
  obtain ⟨⟨r, a, d, e⟩, -⟩ := h s
  have hs : (f s).swap = s.swap := by rw [e]
  have hp : (f s).pwr = s.pwr := by rw [e]
  unfold SwapOnly
  rw [hs, hp]
  exact h.regsOnly s

theorem SwapOnly.mono {l m : List Nat} {s t : State} (h : SwapOnly l s t) (hlm : l ⊆ m) : SwapOnly m s t := regsOnly_weaken h hlm

theorem swapOnly_modPwr (l : List Nat) (f : Pwr → Pwr) (s : State) : SwapOnly l s (modPwr f s) :=
  ⟨rfl, fun _ => ⟨rfl, rfl⟩, fun _ => rfl, fun _ _ => rfl⟩

/-- The state with another swap list. -/
def withSwap (x : Swap) (s : State) : State := { s with swap := x }

theorem swapOnly_withSwap (l : List Nat) (x : Swap) (s : State) : SwapOnly l s (withSwap x s) :=
  ⟨rfl, fun _ => ⟨rfl, rfl⟩, fun _ => rfl, fun _ _ => rfl⟩

theorem SwapOnly.after {l : List Nat} {s u : State} (h : SwapOnly l s u) : SwapOnly l s (after (fun _ => u) s) := by
  unfold SwapOnly
  rw [after_swap, after_pwr]
  exact regsOnly_after_of rfl h

/-! ### The end of a list, and a request for leave -/

/-- The state in which a list's leave and request are withdrawn. -/
def swapDropped (s : State) : State :=
  modPwr (fun p => { p with held := p.held.filter (fun l => l.kind != .swap)
                            queue := p.queue.filter (fun l => l.kind != .swap) }) (withSwap {} s)

/-- What MEM_SWAP_STATUS tells at the end of a list. -/
def swapEndFields (code : Nat) : List (FRef × Nat) :=
  [(MEM_SWAP_STATUS_BUSY, 0), (MEM_SWAP_STATUS_LEAVE_WAIT, 0), (MEM_SWAP_STATUS_CODE, code), (MEM_SWAP_CTRL_START, 0),
    (TOP_IRQ_STATUS_MEM_SWAP, 1)]

theorem swapEndFields_apart (code : Nat) : (swapEndFields code).Pairwise fun p q => q.1.Apart p.1 := by
  simp [swapEndFields, FRef.Apart, MEM_SWAP_STATUS_BUSY, MEM_SWAP_STATUS_LEAVE_WAIT, MEM_SWAP_STATUS_CODE, MEM_SWAP_CTRL_START,
    TOP_IRQ_STATUS_MEM_SWAP, MEM_SWAP_STATUS, MEM_SWAP_CTRL, TOP_IRQ_STATUS]

theorem swapEndFields_offs (code : Nat) :
    (swapEndFields code).map (·.1.off) ⊆ [MEM_SWAP_CTRL, MEM_SWAP_STATUS, TOP_IRQ_STATUS] := by
  simp [swapEndFields, MEM_SWAP_STATUS_BUSY, MEM_SWAP_STATUS_LEAVE_WAIT, MEM_SWAP_STATUS_CODE, MEM_SWAP_CTRL_START,
    TOP_IRQ_STATUS_MEM_SWAP]

theorem endSwap_eq (code : Nat) (s : State) : endSwap code s = setFlds (swapEndFields code) (swapDropped s) := rfl

theorem endSwap_swapOnly (code : Nat) (s : State) :
    SwapOnly [MEM_SWAP_CTRL, MEM_SWAP_STATUS, TOP_IRQ_STATUS] s (endSwap code s) :=
  ((swapOnly_withSwap _ _ s).trans (swapOnly_modPwr _ _ _)).trans
    (((regEffect_setFlds (swapEndFields code)).mono (swapEndFields_offs code)).swapOnly _)

theorem fld_endSwap_code {code : Nat} (h : code < 256) (s : State) : fld MEM_SWAP_STATUS_CODE (endSwap code s) = code := by
  rw [endSwap_eq, fld_setFlds_of_mem (f := MEM_SWAP_STATUS_CODE) (x := code) (swapEndFields_apart code) (by decide) (by simp [swapEndFields])]
  exact Nat.mod_eq_of_lt h

theorem bit_endSwap_busy (code : Nat) (s : State) : bit MEM_SWAP_STATUS_BUSY (endSwap code s) = false := by
  rw [endSwap_eq]
  unfold bit
  rw [fld_setFlds_of_mem (f := MEM_SWAP_STATUS_BUSY) (x := 0) (swapEndFields_apart code) (by decide) (by simp [swapEndFields])]
  rfl

theorem bit_endSwap_irq (code : Nat) (s : State) : bit TOP_IRQ_STATUS_MEM_SWAP (endSwap code s) = true := by
  rw [endSwap_eq]
  unfold bit
  rw [fld_setFlds_of_mem (f := TOP_IRQ_STATUS_MEM_SWAP) (x := 1) (swapEndFields_apart code) (by decide) (by simp [swapEndFields])]
  rfl

theorem endSwap_inactive (code : Nat) (s : State) : (endSwap code s).swap.active = false := by
  rw [endSwap_eq, setFlds_swap]; rfl

theorem regEffect_reportLeave : RegEffect [PWR_LEAVE] reportLeave := fun s => by
  exact ((regEffect_setFlds _).mono (by simp [PWR_LEAVE_COMMITTED_W, PWR_LEAVE_WAITING])) s

/-! ### A write of MEM_SWAP_CTRL -/

theorem swapCheck_eq (a b : Nat) (s : State) : swapCheck (a, b) s =
    if ¬((region a s).valid = true ∧ (region a s).kind = kHome ∧ (region b s).valid = true ∧ (region b s).kind = kWeight) then 3
    else if (region b s).binds ≠ 0 then 1 else if (region a s).size ≠ (region b s).size then 2 else 0 := by
  unfold swapCheck
  simp only [Bool.not_eq_true', Bool.and_eq_false_iff, bne_iff_ne, beq_eq_false_iff_ne]
  refine if_congr ?_ rfl rfl
  simp only [not_and_or, Bool.not_eq_true, or_assoc]

theorem swapCheck_lt (p : Nat × Nat) (s : State) : swapCheck p s < 256 := by
  rw [swapCheck_eq]
  split
  · decide
  split
  · decide
  split <;> decide

theorem swapCheck_wr {p : Nat × Nat} (h : p.1 < 256 ∧ p.2 < 256) (w : W64) (s : State) :
    swapCheck p (wr MEM_SWAP_CTRL w s) = swapCheck p s := by
  have hregs : ∀ o, 0x101000 ≤ o → o < 0x103000 → rd o (wr MEM_SWAP_CTRL w s) = rd o s := fun o h1 _ =>
    rd_wr_other (by unfold MEM_SWAP_CTRL; omega) _ _
  unfold swapCheck
  rw [region_congr hregs h.1, region_congr hregs h.2]

theorem swapPairs_lt {p : Nat × Nat} {s : State} (h : p ∈ swapPairs s) : p.1 < 256 ∧ p.2 < 256 := by
  obtain ⟨i, -, rfl⟩ := List.mem_map.mp h
  exact ⟨fldOf_lt _ _, fldOf_lt _ _⟩

/-- Bit 0 is no part of COUNT, the only field with reserved encodings. -/
theorem written_swap_start {v : W64} {s : State} (h : (written MEM_SWAP_CTRL v s).2 = false) :
    (written MEM_SWAP_CTRL (v &&& ~~~(1 : W64)) s).2 = false := by
  have hdesc : ∃ d, regDesc MEM_SWAP_CTRL = some d ∧ ∀ f ∈ d.flds, (f.acc = .rw ∨ f.acc = .wp) → 1 ≤ f.lo :=
    ⟨⟨0x100020, false, [], [⟨13, 8, .rw, 0, [(0, 0), (33, 63)]⟩, ⟨0, 0, .w1s, 0, []⟩]⟩, by decide +kernel, by decide⟩
  obtain ⟨d, hd, hlo⟩ := hdesc
  have hnotes (x : W64) : (written MEM_SWAP_CTRL x s).2 = true ↔ ∃ f ∈ d.flds, f.Reserved x := by
    unfold written
    rw [hd]
    dsimp only
    rw [applyFields_eq, writeFields_notes]
    exact or_iff_right Bool.false_ne_true
  rw [← Bool.not_eq_true, hnotes] at h ⊢
  rintro ⟨f, hf, hacc, b, hb, hin⟩
  refine h ⟨f, hf, hacc, b, hb, ?_⟩
  have hsame : fldOf f.ref (v &&& ~~~(1 : W64)) = fldOf f.ref v := fldOf_congr fun i hi h1 _ => by
    have h0 : i ≠ 0 := by have := hlo f hf hacc; dsimp at h1; omega
    have h1 : (1#64).getLsbD i = false := by rw [BitVec.getLsbD_one]; simp [h0]
    rw [BitVec.getLsbD_and, BitVec.getLsbD_not, show (1 : W64) = 1#64 from rfl, h1]
    simp [hi]
  rwa [hsame] at hin

theorem regWrite_MEM_SWAP_CTRL (v : W64) (s : State) : regWrite true MEM_SWAP_CTRL v s = swapCtrl v s := rfl

/-- The pairs that the write starts. -/
abbrev startedPairs (v : W64) (s : State) : List (Nat × Nat) := swapPairs (wr MEM_SWAP_CTRL (written MEM_SWAP_CTRL v s).1 s)

theorem startedPairs_check (v : W64) (s : State) (i : Nat) :
    swapCheck ((startedPairs v s).getD i (0, 0)) (wr MEM_SWAP_CTRL (written MEM_SWAP_CTRL v s).1 s) =
    swapCheck ((startedPairs v s).getD i (0, 0)) s := by
  refine swapCheck_wr ?_ _ _
  by_cases hi : i < (startedPairs v s).length
  · rw [List.getD_eq_getElem _ _ hi]
    exact swapPairs_lt (List.getElem_mem hi)
  · rw [List.getD_eq_default _ _ (by omega)]
    decide

section
variable {v : W64} {s : State} (hnote : (written MEM_SWAP_CTRL v s).2 = false)
include hnote

theorem swapCtrl_busy (hbusy : bit MEM_SWAP_STATUS_BUSY s = true) : RegsOnly [MEM_SWAP_CTRL] s (swapCtrl v s) := by
  unfold swapCtrl
  rw [if_pos hbusy, store_of_not_noted (written_swap_start hnote)]
  exact (regEffect_wr _ _).regsOnly s

variable (hidle : bit MEM_SWAP_STATUS_BUSY s = false) (hstart : wbit v 0 = true)
include hidle hstart

theorem swapCtrl_refused {i : Nat} (hi : i < (startedPairs v s).length) (hbad : swapCheck ((startedPairs v s).getD i (0, 0)) s ≠ 0)
    (hfirst : ∀ j < i, swapCheck ((startedPairs v s).getD j (0, 0)) s = 0) :
    swapCtrl v s = endSwap (swapCheck ((startedPairs v s).getD i (0, 0)) s)
      (setFld MEM_SWAP_STATUS_PAIR i (wr MEM_SWAP_CTRL (written MEM_SWAP_CTRL v s).1 s)) := by
  have hfind : (List.range (startedPairs v s).length).find? (fun i => swapCheck ((startedPairs v s).getD i (0, 0))
      (wr MEM_SWAP_CTRL (written MEM_SWAP_CTRL v s).1 s) != 0) = some i := by
    rw [List.find?_range_eq_some]
    simp only [startedPairs_check]
    exact ⟨by simpa using hbad, List.mem_range.mpr hi, fun j hj => by simpa using hfirst j hj⟩
  unfold swapCtrl
  rw [if_neg (by simp [hidle]), store_of_not_noted hnote]
  dsimp only
  rw [if_pos hstart, hfind]
  dsimp only
  rw [startedPairs_check]

/-- The fields of a list that waits for leave. -/
def swapWaitFields : List (FRef × Nat) :=
  [(MEM_SWAP_STATUS_BUSY, 1), (MEM_SWAP_STATUS_LEAVE_WAIT, 1), (MEM_SWAP_STATUS_PAIR, 0), (MEM_SWAP_STATUS_CODE, 0)]

/-- The state in which a list waits and its leave has been asked for. -/
def swapWaits (ps : List (Nat × Nat)) (s : State) : State :=
  reportLeave (modPwr (fun p => { p with queue := p.queue ++ [{ kind := .swap, peak := 60000 }] })
    (setFlds swapWaitFields (withSwap { active := true, pairs := ps } s)))

theorem swapCtrl_waits (hps : startedPairs v s ≠ []) (hall : ∀ p ∈ startedPairs v s, swapCheck p s = 0)
    (hheld : holdsLeave .swap s = false) (hwait : waitsLeave .swap s = false) :
    swapCtrl v s = swapWaits (startedPairs v s) (wr MEM_SWAP_CTRL (written MEM_SWAP_CTRL v s).1 s) := by
  have hfind : (List.range (startedPairs v s).length).find? (fun i => swapCheck ((startedPairs v s).getD i (0, 0))
      (wr MEM_SWAP_CTRL (written MEM_SWAP_CTRL v s).1 s) != 0) = none := by
    rw [List.find?_eq_none]
    intro i hi
    have hi := List.mem_range.mp hi
    rw [startedPairs_check, List.getD_eq_getElem _ _ hi, hall _ (List.getElem_mem hi)]
    decide
  unfold swapCtrl
  rw [if_neg (by simp [hidle]), store_of_not_noted hnote]
  dsimp only
  rw [if_pos hstart, hfind]
  dsimp only
  rw [if_neg (by simpa using hps)]
  unfold askLeave swapWaits withSwap
  have hpwr (l : List (FRef × Nat)) (x : Swap) (w : W64) :
      (setFlds l { wr MEM_SWAP_CTRL w s with swap := x }).pwr = s.pwr := by rw [setFlds_pwr]; rfl
  rw [if_neg (by unfold holdsLeave waitsLeave; rw [hpwr]; unfold holdsLeave at hheld; unfold waitsLeave at hwait; simp [hheld, hwait])]
  rfl
end

theorem swapWaits_spec (ps : List (Nat × Nat)) (s : State) :
    (swapWaits ps s).swap = { active := true, pairs := ps } ∧ bit MEM_SWAP_STATUS_BUSY (swapWaits ps s) = true ∧
      bit MEM_SWAP_STATUS_LEAVE_WAIT (swapWaits ps s) = true ∧ waitsLeave .swap (swapWaits ps s) = true ∧
      SwapOnly [MEM_SWAP_CTRL, MEM_SWAP_STATUS, PWR_LEAVE] s (swapWaits ps s) := by
  have hbit {f : FRef} (hf : (f, 1) ∈ swapWaitFields) (h64 : f.hi < 64) (hone : f.hi = f.lo) (hoff : f.off ≠ PWR_LEAVE) :
      bit f (swapWaits ps s) = true := by
    unfold bit swapWaits fld
    rw [(regEffect_reportLeave _).2 _ (by simpa using hoff)]
    change (fld f (setFlds swapWaitFields (withSwap { active := true, pairs := ps } s)) != 0) = true
    rw [fld_setFlds_of_mem (f := f) (x := 1) (by decide) h64 hf, hone]
    simp
  refine ⟨?_, hbit (by simp [swapWaitFields]) (by decide) rfl (by decide), hbit (by simp [swapWaitFields]) (by decide) rfl (by decide), ?_, ?_⟩
  · unfold swapWaits reportLeave
    rw [setFlds_swap, modPwr_swap, setFlds_swap]
    rfl
  · unfold swapWaits reportLeave waitsLeave
    rw [setFlds_pwr]
    simp [modPwr]
  · unfold swapWaits
    exact (((swapOnly_withSwap _ _ s).trans (((regEffect_setFlds swapWaitFields).mono (by decide)).swapOnly _)).trans
      (swapOnly_modPwr _ _ _)).trans ((regEffect_reportLeave.mono (by simp)).swapOnly _)

/-- What a write leaves that ends its list at pair i. -/
theorem swapRefused_spec {code : Nat} (hcode : code < 256) (i : Nat) (s : State) :
    let t := endSwap code (setFld MEM_SWAP_STATUS_PAIR i s)
    fld MEM_SWAP_STATUS_CODE t = code ∧ fld MEM_SWAP_STATUS_PAIR t = i % 32 ∧ bit MEM_SWAP_STATUS_BUSY t = false ∧
      bit TOP_IRQ_STATUS_MEM_SWAP t = true ∧ t.swap.active = false ∧
      SwapOnly [MEM_SWAP_CTRL, MEM_SWAP_STATUS, TOP_IRQ_STATUS] s t := by
  refine ⟨fld_endSwap_code hcode _, ?_, bit_endSwap_busy _ _, bit_endSwap_irq _ _, endSwap_inactive _ _, ?_⟩
  · rw [endSwap_eq, fld_setFlds_apart (g := MEM_SWAP_STATUS_PAIR) (by decide) (by
      simp [swapEndFields, FRef.Apart, MEM_SWAP_STATUS_BUSY, MEM_SWAP_STATUS_LEAVE_WAIT, MEM_SWAP_STATUS_CODE, MEM_SWAP_STATUS_PAIR,
        MEM_SWAP_CTRL_START, TOP_IRQ_STATUS_MEM_SWAP, MEM_SWAP_STATUS, MEM_SWAP_CTRL, TOP_IRQ_STATUS])]
    exact fld_setFld_same MEM_SWAP_STATUS_PAIR i s (by decide)
  · exact SwapOnly.trans (((regEffect_setFld MEM_SWAP_STATUS_PAIR i).mono (by decide)).swapOnly s) (endSwap_swapOnly _ _)

theorem swapListStartRule_holds : swapListStartRule := by
  intro v s ha hstart hnote
  have hdrive : driverWrite MEM_SWAP_CTRL 4 (v.setWidth 64) s = swapCtrl (v.setWidth 64) (accessed MEM_SWAP_CTRL s) :=
    (driverWrite_word ha (by decide +kernel) v).trans (regWrite_MEM_SWAP_CTRL _ _)
  have hwbit : wbit (v.setWidth 64) 0 = true := (wbit_setWidth v 0).trans hstart
  have hwr := (regEffect_accessed [MEM_SWAP_CTRL] MEM_SWAP_CTRL).swapOnly s |>.trans
    ((regEffect_wr MEM_SWAP_CTRL (written MEM_SWAP_CTRL (v.setWidth 64) s).1).swapOnly (accessed MEM_SWAP_CTRL s))
  refine ⟨fun hbusy => ?_, fun hidle => ⟨fun i hi hbad hfirst => ?_, fun hps hall hheld hwait => ?_⟩⟩
  · exact gives_run_to (f := driverWrite MEM_SWAP_CTRL 4 (v.setWidth 64)) rfl hdrive
      (regsOnly_after_of rfl (swapCtrl_busy (s := accessed MEM_SWAP_CTRL s) hnote hbusy))
  · have he := hdrive.trans (swapCtrl_refused (s := accessed MEM_SWAP_CTRL s) hnote hidle hwbit hi hbad hfirst)
    obtain ⟨hcode, hpair, hbusy, hirq, hend, honly⟩ := swapRefused_spec (swapCheck_lt _ (accessed MEM_SWAP_CTRL s)) i
      (wr MEM_SWAP_CTRL (written MEM_SWAP_CTRL (v.setWidth 64) s).1 (accessed MEM_SWAP_CTRL s))
    refine gives_run_to (f := driverWrite MEM_SWAP_CTRL 4 (v.setWidth 64)) rfl he ⟨?_, ?_, ?_, ?_, ?_, ?_⟩
    · rw [fld_after]; exact hcode
    · rw [fld_after]; exact hpair
    · rw [bit_after]; exact hbusy
    · rw [bit_after]; exact hirq
    · rw [after_swap]; exact hend
    · exact ((hwr.mono (by simp)).trans honly).after
  · have he := hdrive.trans (swapCtrl_waits (s := accessed MEM_SWAP_CTRL s) hnote hidle hwbit hps hall hheld hwait)
    obtain ⟨hswap, hbusy, hleave, hask, honly⟩ := swapWaits_spec (startedPairs (v.setWidth 64) (accessed MEM_SWAP_CTRL s))
      (wr MEM_SWAP_CTRL (written MEM_SWAP_CTRL (v.setWidth 64) s).1 (accessed MEM_SWAP_CTRL s))
    refine gives_run_to (f := driverWrite MEM_SWAP_CTRL 4 (v.setWidth 64)) rfl he ⟨?_, ?_, ?_, ?_, ?_, ?_, ?_, ?_⟩
    · rw [after_swap]; exact congrArg Swap.active hswap
    · rw [after_swap]; exact congrArg Swap.pairs hswap
    · rw [after_swap]; exact congrArg Swap.next hswap
    · rw [after_swap]; exact congrArg Swap.copying hswap
    · rw [bit_after]; exact hbusy
    · rw [bit_after]; exact hleave
    · unfold waitsLeave; rw [after_pwr]; exact hask
    · exact ((hwr.mono (by simp)).trans honly).after

/-! ### Copies of a range -/

theorem lookup_of_canonFrom {α : Type} [DecidableEq α] {d : Nat → α} {m : List (Nat × α)} {lo k : Nat} (h : canonFrom d lo m = true)
    (hk : k < lo) (e : α) : lookup m e k = e := by
  induction m generalizing lo with
  | nil => rfl
  | cons c m ih =>
    obtain ⟨j, v⟩ := c
    simp only [canonFrom, Bool.and_eq_true, decide_eq_true_eq] at h
    obtain ⟨⟨hlo, -⟩, hrest⟩ := h
    rw [lookup, if_neg (by omega)]
    exact ih hrest (by omega)

/-- Cells in order, each put where its range is copied to. -/
theorem rdByte_putCells {src lo : Nat} {l : List Host.Cell} (h : canonFrom (fun _ => memDefault) lo l = true) (hsrc : ∀ c ∈ l, src ≤ c.1)
    (dst a : Nat) (s : State) : rdByte a (l.foldl (fun s c => wrByte (c.1 - src + dst) c.2 s) s) =
      if dst ≤ a then lookup l (rdByte a s) (a - dst + src) else rdByte a s := by
  induction l generalizing s lo with
  | nil => simp
  | cons c l ih =>
    obtain ⟨j, v⟩ := c
    simp only [canonFrom, Bool.and_eq_true, decide_eq_true_eq] at h
    obtain ⟨-, hrest⟩ := h
    have hj : src ≤ j := hsrc (j, v) (by simp)
    rw [List.foldl_cons, ih hrest fun c hc => hsrc c (by simp [hc])]
    by_cases ha : dst ≤ a
    · rw [if_pos ha, if_pos ha, lookup]
      by_cases hk : j = a - dst + src
      · rw [if_pos hk, ← hk, lookup_of_canonFrom hrest (by omega), show j - src + dst = a by omega, rdByte_wrByte_same]
      · rw [if_neg hk, rdByte_wrByte_other (by omega)]
    · rw [if_neg ha, if_neg ha, rdByte_wrByte_other (by dsimp only; omega)]

/-- A copied range reads as the range it was copied from did before; nothing else of memory changes. -/
theorem rdByte_copyRange {s : State} (h : Memory.wf s.mem = true) (src dst n a : Nat) :
    rdByte a (copyRange src dst n s) = if dst ≤ a ∧ a < dst + n then rdByte (src + (a - dst)) s else rdByte a s := by
  have hcells : ∀ k, lookup (s.mem.filter fun c => decide (src ≤ c.1) && decide (c.1 < src + n)) memDefault k =
      if src ≤ k ∧ k < src + n then rdByte k s else memDefault := fun k => by
    rw [lookup_filter_keys (fun k => decide (src ≤ k) && decide (k < src + n))]
    simp [rdByte]
  have hbase : rdByte a { s with mem := s.mem.filter (fun c => !(decide (dst ≤ c.1) && decide (c.1 < dst + n))) } =
      if dst ≤ a ∧ a < dst + n then memDefault else rdByte a s := by
    unfold rdByte
    dsimp only
    rw [lookup_filter_keys (fun k => !(decide (dst ≤ k) && decide (k < dst + n)))]
    by_cases ha : dst ≤ a ∧ a < dst + n
    · rw [if_pos ha, if_neg (by simp [ha])]
    · rw [if_neg ha, if_pos (by simp only [Bool.not_eq_true', Bool.and_eq_false_iff, decide_eq_false_iff_not]; omega)]
  unfold copyRange
  dsimp only
  rw [rdByte_putCells (lo := 0) (canon_filter (d := fun _ => memDefault) _ h) (fun c hc => by
    have := (List.mem_filter.mp hc).2
    simp only [Bool.and_eq_true, decide_eq_true_eq] at this
    exact this.1), hbase]
  by_cases ha : dst ≤ a ∧ a < dst + n
  · rw [if_pos ha.1, if_pos ha, if_pos ha, hcells, if_pos (by omega), show a - dst + src = src + (a - dst) by omega]
  · rw [if_neg ha, if_neg ha]
    split
    · rename_i hle
      rw [lookup_filter_keys (fun k => decide (src ≤ k) && decide (k < src + n)), if_neg (by simp; omega)]
    · rfl

/-- A copy changes bytes alone. -/
theorem copyRange_eq (src dst n : Nat) (s : State) : ∃ m, copyRange src dst n s = { s with mem := m } := by
  have hput : ∀ (l : List Host.Cell) (u : State), (∃ m, u = { s with mem := m }) →
      ∃ m, l.foldl (fun s c => wrByte (c.1 - src + dst) c.2 s) u = { s with mem := m } := by
    intro l
    induction l with
    | nil => exact fun u h => h
    | cons c l ih =>
      rintro u ⟨m, rfl⟩
      exact ih _ ⟨_, rfl⟩
  exact hput _ _ ⟨_, rfl⟩

/-! ### The end of a pair -/

/-- The n bytes from a copied to b, with sound checks. -/
def pairMoved (a b n : Nat) (s : State) : State := swapCopied.wrSoundRange b n (copyRange a b n s)

theorem pairMoved_eq (a b n : Nat) (s : State) : ∃ m l, pairMoved a b n s = { s with mem := m, staples := l } := by
  obtain ⟨m, h⟩ := copyRange_eq a b n s
  unfold pairMoved
  rw [h]
  exact ⟨_, _, rfl⟩

theorem rdByte_pairMoved {s : State} (h : Memory.wf s.mem = true) (a b n i : Nat) :
    rdByte i (pairMoved a b n s) = if b ≤ i ∧ i < b + n then rdByte (a + (i - b)) s else rdByte i s :=
  rdByte_copyRange h a b n i

/-- The destination names its home and is sealed. -/
def pairSealed (src dst : Nat) (s : State) : State := sealRegion dst (setFld (MEM_RGN_CFG_HOME dst) src s)

/-- The state with the digest of region r. -/
def noteDigest (r : Nat) (d : BitVec 384) (s : State) : State := { s with digests := ins s.digests r d }

@[simp] theorem fld_noteDigest (f : FRef) (r : Nat) (d : BitVec 384) (s : State) : fld f (noteDigest r d s) = fld f s := rfl

theorem sealRegion_eq (r : Nat) (s : State) : sealRegion r s =
    setFld (MEM_RGN_CFG_SEALED r) 1 (noteDigest r (digestRange (region r s).base (region r s).size s)
      (setFlds [(INT_DIGEST_STAT_RESULT r, 0), (INT_DIGEST_STAT_PASSES r, 0)] s)) := by
  unfold sealRegion noteDigest
  rw [setFlds_digests]

theorem pairSealed_spec {src dst : Nat} (hsrc : src < 256) (hdst : dst < 256) (s : State) :
    let t := pairSealed src dst s
    fld (MEM_RGN_CFG_HOME dst) t = src ∧ bit (MEM_RGN_CFG_SEALED dst) t = true ∧
      find? t.digests dst = some (digestRange (region dst s).base (region dst s).size s) ∧ t.mem = s.mem := by
  have hwrote : fld (MEM_RGN_CFG_HOME dst) (setFld (MEM_RGN_CFG_HOME dst) src s) = src :=
    by
    rw [fld_setFld_same _ _ _ (show 27 < 64 by decide), Nat.mod_eq_of_lt]
    simpa [MEM_RGN_CFG_HOME] using hsrc
  have hregion : (region dst (setFld (MEM_RGN_CFG_HOME dst) src s)).base = (region dst s).base ∧
      (region dst (setFld (MEM_RGN_CFG_HOME dst) src s)).size = (region dst s).size :=
    by
      unfold region
      dsimp only
      rw [fld_setFld_other _ (MEM_RGN_BASE_BASE dst) _ _ (by simp only [MEM_RGN_BASE_BASE, MEM_RGN_BASE, MEM_RGN_CFG_HOME, MEM_RGN_CFG]; omega),
        fld_setFld_other _ (MEM_RGN_SIZE_SIZE dst) _ _ (by simp only [MEM_RGN_SIZE_SIZE, MEM_RGN_SIZE, MEM_RGN_CFG_HOME, MEM_RGN_CFG]; omega)]
      exact ⟨rfl, rfl⟩
  have hdigest (a n : Nat) : digestRange a n (setFld (MEM_RGN_CFG_HOME dst) src s) = digestRange a n s := rfl
  unfold pairSealed
  rw [sealRegion_eq, hregion.1, hregion.2, hdigest]
  refine ⟨?_, bit_setFld_one (f := MEM_RGN_CFG_SEALED dst) (show 19 < 64 by decide) rfl _, ?_, ?_⟩
  · rw [fld_setFld_disjoint _ (MEM_RGN_CFG_HOME dst) _ _ (show 27 < 64 by decide) (Or.inl (show 19 < 20 by decide))]
    rw [fld_noteDigest]
    refine Eq.trans ?_ hwrote
    refine fld_setFlds_apart (g := MEM_RGN_CFG_HOME dst) (show 27 < 64 by decide) (fun p hp => Or.inl ?_) _
    simp only [List.mem_cons, List.not_mem_nil, or_false] at hp
    rcases hp with rfl | rfl <;>
      simp only [INT_DIGEST_STAT_RESULT, INT_DIGEST_STAT_PASSES, INT_DIGEST_STAT, MEM_RGN_CFG_HOME, MEM_RGN_CFG] <;> omega
  · rw [setFld_digests, noteDigest]
    exact find?_ins_same _ _ _
  · rw [setFld_mem, noteDigest]
    exact (setFlds_mem _ _).trans rfl

/-! ### A copy that ends -/

/-- A copy that may end: its list runs under an active leave, and no unit of the pair retrains. -/
def pairRuns (src dst : Nat) (s : State) : Prop :=
  s.swap.active = true ∧ s.swap.copying = true ∧ leaveActive .swap s = true ∧ s.swap.pairs[s.swap.next]? = some (src, dst) ∧
    retraining (region src s).base s = false ∧ retraining (region dst s).base s = false

section
variable {src dst : Nat} {s : State} (h : pairRuns src dst s)
include h

theorem swapCopied_failed : swapCopied .failed s = endSwap 6 s := by
  obtain ⟨h1, h2, h3, h4, h5, h6⟩ := h
  unfold swapCopied
  rw [if_neg (by simp [h1, h2, h3]), h4]
  dsimp only
  rw [if_neg (by simp [h5, h6]), if_neg (by simp)]

/-- The state in which a pair is complete. -/
def pairDone (src dst : Nat) (s : State) : State :=
  pairSealed src dst (pairMoved (region src s).base (region dst s).base (region src s).size s)

theorem swapCopied_ok (hgood : firstBad (region src s).base (region src s).size s = none) :
    swapCopied .ok s = if s.swap.pairs.length ≤ s.swap.next + 1 then endSwap 0 (pairDone src dst s)
      else setFld MEM_SWAP_STATUS_PAIR (s.swap.next + 1) (withSwap { s.swap with next := s.swap.next + 1 } (pairDone src dst s)) := by
  have hswap : (pairDone src dst s).swap = s.swap := by
    obtain ⟨m, l, hm⟩ := pairMoved_eq (region src s).base (region dst s).base (region src s).size s
    unfold pairDone pairSealed
    rw [sealRegion_eq, setFld_swap, noteDigest, hm]
    exact (setFlds_swap _ _).trans rfl
  obtain ⟨h1, h2, h3, h4, h5, h6⟩ := h
  unfold swapCopied
  rw [if_neg (by simp [h1, h2, h3]), h4]
  dsimp only
  rw [if_neg (by simp [h5, h6]), if_neg (by simp), hgood]
  dsimp only
  change (if (pairDone src dst s).swap.next + 1 ≥ (pairDone src dst s).swap.pairs.length then endSwap 0 (pairDone src dst s) else
    setFld MEM_SWAP_STATUS_PAIR ((pairDone src dst s).swap.next + 1)
      (withSwap { (pairDone src dst s).swap with next := (pairDone src dst s).swap.next + 1 } (pairDone src dst s))) = _
  rw [hswap]

/-- An uncorrectable error of the source ends the list at its first bad staple. -/
theorem swapCopied_sourceUe {u : State} {b : Nat}
    (hu : u = if (firstBad (region src s).base (region src s).size s).isNone then uncorrectable (region src s).base s else s)
    (hbad : firstBad (region src s).base (region src s).size u = some b) :
    swapCopied .sourceUe s = endSwap 5 (pairMoved (region src s).base (region dst s).base (b - (region src s).base) u) := by
  obtain ⟨h1, h2, h3, h4, h5, h6⟩ := h
  unfold swapCopied
  rw [if_neg (by simp [h1, h2, h3]), h4]
  dsimp only
  rw [if_neg (by simp [h5, h6]), show (CopyEnd.sourceUe == CopyEnd.sourceUe) = true from rfl, Bool.true_and, ← hu, hbad]
  rfl
end

/-! ### An uncorrectable error -/

theorem memUnit_lt {a u : Nat} (h : memUnit a = some u) : u < 12 := by
  unfold memUnit atollAt shoalAt at h
  split at h
  next n hn =>
    split at hn
    · cases hn; cases h
      rename_i hlt
      have := Nat.div_lt_of_lt_mul (Nat.mul_comm 8 atollSize ▸ hlt)
      omega
    · cases hn
  next =>
    split at h
    · rename_i hin
      simp only [Option.map_some, Option.some.injEq] at h
      simp only [Bool.and_eq_true, decide_eq_true_eq] at hin
      have := Nat.div_lt_of_lt_mul (m := a - 0x010000000000) (n := shoalSize) (k := 4) (by unfold shoalSize; omega)
      omega
    · cases h

/-- The staple that holds a is poisoned, and its restore begins where it has a home copy. -/
def staplePoisoned (a : Nat) (s : State) : State := setMeta a { metaAt a s with poison := true, restoring := hasHome a s } s

/-- What the registers tell of an uncorrectable error of unit u at address a. -/
def ueTold (u a : Nat) (s : State) : State :=
  memErr (if u < 8 then MEM_ERR_ATOLL_UE else MEM_ERR_SHOAL_UE) (a / 4096 * 4096) (bump64 (MEM_CNT_UE u) 1 s)

theorem uncorrectable_eq {a u : Nat} (h : memUnit a = some u) (s : State) : uncorrectable a s = ueTold u a (staplePoisoned a s) := by
  unfold uncorrectable
  rw [h]
  rfl

theorem regEffect_memErr {f : FRef} (hf : f.off = MEM_ERR) (a : Nat) : RegEffect [MEM_ERR, MEM_ERR_ADDR] (memErr f a) := by
  have herr : RegEffect [MEM_ERR, MEM_ERR_ADDR] (setErr f) := RegEffect.of_mem (regEffect_setFld f 1) (by simp [hf])
  unfold memErr raiseLatch
  exact RegEffect.ite _ (((regEffect_setFlds _).mono (by simp [MEM_ERR_ADDR_STAPLE])).comp herr) herr

theorem ueBit_off (u : Nat) : (if u < 8 then MEM_ERR_ATOLL_UE else MEM_ERR_SHOAL_UE).off = MEM_ERR := by split <;> rfl

theorem regEffect_ueTold (u a : Nat) : RegEffect [MEM_CNT_UE u, MEM_ERR, MEM_ERR_ADDR] (ueTold u a) :=
  (RegEffect.of_mem (regEffect_bump64 (MEM_CNT_UE u) 1) (by simp)).comp ((regEffect_memErr (ueBit_off u) _).mono (by simp))

theorem mem_ins_self {α : Type} (m : List (Nat × α)) (k : Nat) (v : α) : (k, v) ∈ ins m k v := by
  induction m with
  | nil => simp [ins]
  | cons c m ih =>
    unfold ins
    split
    · simp
    split
    · simp
    · simp [ih]

/-- After an uncorrectable error at the start of a range, the range has a bad staple. -/
theorem firstBad_staplePoisoned {k n : Nat} (hn : 0 < n) (s : State) : ∃ b, firstBad (k * 4096) n (staplePoisoned (k * 4096) s) = some b := by
  have hmem : (k, { metaAt (k * 4096) s with poison := true, restoring := hasHome (k * 4096) s }) ∈
      (staplePoisoned (k * 4096) s).staples := by
    unfold staplePoisoned setMeta put
    dsimp only
    rw [if_neg (fun h => Bool.noConfusion (congrArg Meta.poison h)), show stapleOf (k * 4096) = k by unfold stapleOf; omega]
    exact mem_ins_self _ _ _
  unfold firstBad
  rw [← Option.isSome_iff_exists, Option.isSome_map, List.find?_isSome]
  exact ⟨_, hmem, by simp [hn]⟩

theorem firstBad_ueTold (u a b n : Nat) (s : State) : firstBad b n (ueTold u a s) = firstBad b n s := by
  obtain ⟨⟨_, _, _, h⟩, -⟩ := regEffect_ueTold u a s
  rw [h]
  rfl

/-- A source with an uncorrectable error has a bad staple, and its registers tell of it. -/
theorem sourceUe_spec {a n : Nat} (ha : a % 4096 = 0) (hu : (memUnit a).isSome) (hn : 0 < n) {dst : Nat} (hdst : dst < 256) (s : State) :
    let v := if (firstBad a n s).isNone then uncorrectable a s else s
    (∃ b, firstBad a n v = some b) ∧ bit (MEM_RGN_CFG_SEALED dst) v = bit (MEM_RGN_CFG_SEALED dst) s := by
  obtain ⟨u, hu⟩ := Option.isSome_iff_exists.mp hu
  have hlt := memUnit_lt hu
  cases hf : firstBad a n s with
  | some b => exact ⟨⟨b, hf⟩, rfl⟩
  | none =>
    obtain ⟨k, rfl⟩ : ∃ k, a = k * 4096 := ⟨a / 4096, by omega⟩
    dsimp only
    rw [if_pos (by simp), uncorrectable_eq hu, firstBad_ueTold]
    refine ⟨firstBad_staplePoisoned hn s, ?_⟩
    unfold bit fld
    rw [(regEffect_ueTold u (k * 4096) _).2 _ (by
      simp only [List.mem_cons, List.not_mem_nil, or_false, MEM_RGN_CFG_SEALED, MEM_RGN_CFG, MEM_CNT_UE, MEM_ERR, MEM_ERR_ADDR]; omega)]
    rfl

/-- The end of a pair's copy also tells what is left of the leaves. -/
theorem afterSwap_swapOnly (f : State → State) (s : State) : SwapOnly [PWR_LEAVE] (f s) (afterSwap f s) := by
  unfold afterSwap
  dsimp only
  split
  · exact regEffect_reportLeave.swapOnly _
  · exact (regEffect_id [PWR_LEAVE]).swapOnly _

theorem SwapOnly.fld_eq {l : List Nat} {s t : State} (h : SwapOnly l s t) {f : FRef} (hf : f.off ∉ l) : fld f t = fld f s :=
  congrArg (fldOf f) (h.2.2.2 f.off hf)

theorem SwapOnly.bit_eq {l : List Nat} {s t : State} (h : SwapOnly l s t) {f : FRef} (hf : f.off ∉ l) : bit f t = bit f s := by
  unfold bit
  rw [h.fld_eq hf]

/-- It touches neither list, digests nor memory. -/
theorem afterSwap_rest (g : State → State) (s : State) :
    (afterSwap g s).swap = (g s).swap ∧ (afterSwap g s).digests = (g s).digests ∧ (afterSwap g s).mem = (g s).mem ∧
      (afterSwap g s).staples = (g s).staples := by
  unfold afterSwap
  dsimp only
  split
  · unfold reportLeave
    rw [setFlds_swap, setFlds_digests, setFlds_mem, setFlds_staples]
    exact ⟨rfl, rfl, rfl, rfl⟩
  · exact ⟨rfl, rfl, rfl, rfl⟩

@[simp] theorem after_mem (f : State → State) (s : State) : (after f s).mem = tidyMap (fun _ => memDefault) (f s).mem := by
  obtain ⟨m, l, h⟩ := irqSettle_cases s (f s)
  unfold after tidy; rw [h]

theorem endSwap_mem (code : Nat) (s : State) : (endSwap code s).mem = s.mem := by rw [endSwap_eq, setFlds_mem]; rfl
theorem endSwap_digests (code : Nat) (s : State) : (endSwap code s).digests = s.digests := by rw [endSwap_eq, setFlds_digests]; rfl

/-- What the last pair, or one before it, leaves of the pair done. -/
theorem pairEnd_spec {x : Swap} (last : Prop) [Decidable last] (u : State) :
    let t := if last then endSwap 0 u else setFld MEM_SWAP_STATUS_PAIR x.next (withSwap x u)
    SwapOnly [MEM_SWAP_CTRL, MEM_SWAP_STATUS, TOP_IRQ_STATUS] u t ∧ t.mem = u.mem ∧ t.digests = u.digests ∧
      (last → t.swap.active = false ∧ bit MEM_SWAP_STATUS_BUSY t = false ∧ fld MEM_SWAP_STATUS_CODE t = 0 ∧
        bit TOP_IRQ_STATUS_MEM_SWAP t = true) ∧ (¬last → t.swap = x) := by
  by_cases hl : last
  · simp only [hl, if_true, not_true_eq_false, false_implies, and_true]
    exact ⟨endSwap_swapOnly _ _, endSwap_mem _ _, endSwap_digests _ _,
      fun _ => ⟨endSwap_inactive _ _, bit_endSwap_busy _ _, fld_endSwap_code (by decide) _, bit_endSwap_irq _ _⟩⟩
  · simp only [hl, if_false, false_implies, true_and]
    exact ⟨(swapOnly_withSwap _ x u).trans (((regEffect_setFld MEM_SWAP_STATUS_PAIR _).mono (by decide)).swapOnly _), rfl, rfl,
      fun _ => rfl⟩

theorem pairMoved_congr {a b n : Nat} {s : State} (r : Nat) :
    region r (pairMoved a b n s) = region r s ∧ (pairMoved a b n s).digests = s.digests := by
  obtain ⟨m, l, h⟩ := pairMoved_eq a b n s
  rw [h]
  exact ⟨rfl, rfl⟩

theorem swapCopy_holds : swapCopy := by
  refine ⟨swapCheck_eq, fun src dst s hcanon hsrc hdst hact hcopying hleave hpair hr1 hr2 => ?_⟩
  have hruns : pairRuns src dst s := ⟨hact, hcopying, hleave, hpair, hr1, hr2⟩
  obtain ⟨-, hwf, -, -⟩ := hcanon
  refine ⟨fun hgood => ?_, fun hunit hsize => ?_, ?_⟩
  · let g := region src s
    let h := region dst s
    let u := pairMoved g.base h.base g.size s
    have he := swapCopied_ok hruns hgood
    obtain ⟨hhome, hseal, hdig, hmem⟩ := pairSealed_spec hsrc hdst u
    obtain ⟨honly, hmem', hdigs, hlast, hnext⟩ := pairEnd_spec (x := { s.swap with next := s.swap.next + 1 })
      (s.swap.pairs.length ≤ s.swap.next + 1) (pairDone src dst s)
    dsimp only at honly hmem' hdigs hlast hnext
    rw [← he] at honly hmem' hdigs hlast hnext
    obtain ⟨hswap', hdigs', hmem'', -⟩ := afterSwap_rest (swapCopied .ok) s
    have hall : SwapOnly [MEM_SWAP_CTRL, MEM_SWAP_STATUS, TOP_IRQ_STATUS, PWR_LEAVE] (pairDone src dst s) (afterSwap (swapCopied .ok) s) :=
      (honly.mono (by simp)).trans ((afterSwap_swapOnly _ s).mono (by simp))
    have hbytes : (afterSwap (swapCopied .ok) s).mem = u.mem := (hmem''.trans hmem').trans hmem
    have hwf' : Memory.wf u.mem = true := copyRange_wf _ _ _ s hwf
    have htidy : (after (afterSwap (swapCopied .ok)) s).mem = u.mem := by
      rw [after_mem, hbytes, tidyMap_of_canon hwf']
    refine gives_run (f := afterSwap (swapCopied .ok)) rfl ⟨fun i => ?_, ?_, ?_, ?_, fun hl => ⟨?_, ?_, ?_, ?_⟩, fun hl => ?_⟩
    · refine Eq.trans ?_ (rdByte_pairMoved hwf g.base h.base g.size i)
      unfold rdByte
      rw [htidy]
    · rw [fld_after, hall.fld_eq (f := MEM_RGN_CFG_HOME dst) (by
        simp only [List.mem_cons, List.not_mem_nil, or_false, MEM_RGN_CFG_HOME, MEM_RGN_CFG, MEM_SWAP_CTRL, MEM_SWAP_STATUS, TOP_IRQ_STATUS, PWR_LEAVE]; omega)]
      exact hhome
    · rw [bit_after, hall.bit_eq (f := MEM_RGN_CFG_SEALED dst) (by
        simp only [List.mem_cons, List.not_mem_nil, or_false, MEM_RGN_CFG_SEALED, MEM_RGN_CFG, MEM_SWAP_CTRL, MEM_SWAP_STATUS, TOP_IRQ_STATUS, PWR_LEAVE]; omega)]
      exact hseal
    · rw [after_digests, hdigs', hdigs]
      refine hdig.trans ?_
      unfold digestRange
      rw [htidy, (pairMoved_congr dst).1]
    · rw [after_swap, hswap']; exact (hlast hl).1
    · rw [bit_after, (afterSwap_swapOnly _ s).bit_eq (by decide)]; exact (hlast hl).2.1
    · rw [fld_after, (afterSwap_swapOnly _ s).fld_eq (by decide)]; exact (hlast hl).2.2.1
    · rw [bit_after, (afterSwap_swapOnly _ s).bit_eq (by decide)]; exact (hlast hl).2.2.2
    · rw [after_swap, hswap']; exact hnext hl
  · have halign : (region src s).base % 4096 = 0 := Nat.mul_mod_left _ _
    obtain ⟨⟨b, hbad⟩, hseal⟩ := sourceUe_spec halign hunit hsize hdst s
    have he := swapCopied_sourceUe hruns rfl hbad
    obtain ⟨hswap', -, -, -⟩ := afterSwap_rest (swapCopied .sourceUe) s
    refine gives_run (f := afterSwap (swapCopied .sourceUe)) rfl ⟨?_, ?_, ?_⟩
    · rw [after_swap, hswap', he]; exact endSwap_inactive _ _
    · rw [fld_after, (afterSwap_swapOnly _ s).fld_eq (by decide), he]; exact fld_endSwap_code (by decide) _
    · rw [bit_after, (afterSwap_swapOnly _ s).bit_eq (f := MEM_RGN_CFG_SEALED dst) (by
        simp only [List.mem_singleton, MEM_RGN_CFG_SEALED, MEM_RGN_CFG, PWR_LEAVE]; omega), he, (endSwap_swapOnly _ _).bit_eq (f := MEM_RGN_CFG_SEALED dst) (by
        simp only [List.mem_cons, List.not_mem_nil, or_false, MEM_RGN_CFG_SEALED, MEM_RGN_CFG, MEM_SWAP_CTRL, MEM_SWAP_STATUS, TOP_IRQ_STATUS]; omega)]
      obtain ⟨m, l, hm⟩ := pairMoved_eq (region src s).base (region dst s).base (b - (region src s).base)
        (if (firstBad (region src s).base (region src s).size s).isNone then uncorrectable (region src s).base s else s)
      rw [hm]
      exact hseal
  · obtain ⟨hswap', -, -, -⟩ := afterSwap_rest (swapCopied .failed) s
    have he := swapCopied_failed hruns
    refine gives_run (f := afterSwap (swapCopied .failed)) rfl ⟨?_, ?_, ?_⟩
    · rw [after_swap, hswap', he]; exact endSwap_inactive _ _
    · rw [fld_after, (afterSwap_swapOnly _ s).fld_eq (by decide), he]; exact fld_endSwap_code (by decide) _
    · refine sameMem_after ?_
      have honly := ((endSwap_swapOnly 6 s).mono (m := [MEM_SWAP_CTRL, MEM_SWAP_STATUS, TOP_IRQ_STATUS, PWR_LEAVE]) (by simp)).trans
        ((he ▸ afterSwap_swapOnly (swapCopied .failed) s).mono (by simp))
      exact fun a => honly.2.1 a

/-- Settles O36: a list's checks in order, and the copies of its pairs. -/
theorem swapLists : Obligations.SwapLists := ⟨swapListStartRule_holds, swapCopy_holds⟩

end Sys2Proof.Machine
end

section
/-! PROOFS. Events complete with their own effect: a suspect whose witness is no spindle of the package. -/

namespace Sys2Proof.Machine

open Sys2Proof.Safety
set_option Elab.async false

/-- The physical number whose strike register lies where MEM_RGN_BASE(0) lies; the package has spindles up to 303. -/
def strayNumber : Nat := 130048

/-- A tile of one row and one block of 16, in BF16, from placement entry 0. -/
def strayWords : List W32 :=
  [kTensor * 2 ^ 28, 0, 8 * 2 ^ 28 + 8 * 2 ^ 24 + 9 * 2 ^ 12 + 1, 2 ^ 22 + 2 ^ 12, 0x3F800000, 0x800, 0x1000, 0, 0, 0, 0, 0, 127 * 2 ^ 24, 0, 0, 0]

/-- Its NaN result is a suspect, whose witness is the stray number. -/
def strayTile : Disp :=
  { words := strayWords, st := .suspect, result := List.replicate 128 fpQnanStd, susp := some { gauge := true, witness := some strayNumber } }

def strayEntry : EntryRef := { ctx := 5, phase := 0, idx := 0 }

/-- Context 5 has the tile in its step; region 0, its shard, begins where the stray number's state says: at 0x40000000. -/
def strayWitness : State :=
  { setFld (INT_STRIKES_STATE strayNumber) phWitness servicePackage with
    ctxs := [(5, { weave := { places := [{ base := 0, ply1 := none, ply2 := none, scale := 0x3F800000, fmt := 8, wreg := 0, blocks := 1 }] }
                   bound := [(0, 0)], step := some { lists := [(0, [strayTile])] } })] }

/-- The staple there is bad. -/
def strayEnv : UnitEnv := { badStaples := [0x40000000] }

/-- The witness is freed, and region 0 begins at 0x20000000. -/
def strayFreed : State := freeWitness strayNumber strayWitness

/-- The shard of the tile, with its base. -/
def strayShard (base : Nat) : Shard :=
  { base := base, size := 0, ent := { base := 0, ply1 := none, ply2 := none, scale := 0x3F800000, fmt := 8, wreg := 0, blocks := 1 }, fmt := .bf16 }

theorem freshShard_stray : freshShard 5 strayWords strayWitness = some (strayShard 0x40000000) ∧
    freshShard 5 strayWords strayFreed = some (strayShard 0x20000000) := by
  constructor <;> decide +kernel

/-- A shard of one block has it where it begins, whatever the order of its blocks. -/
theorem tileReads_stray (base : Nat) : tileReads strayWords (strayShard base) 0 =
    (List.range 128).flatMap fun _ => (List.range 1).flatMap fun _ => blockReads (strayShard base) 0 0 := by
  have hblock (kb b col : Nat) : Config.weightBlock 1 kb b col % 1 = 0 := Nat.mod_one _
  unfold tileReads
  simp only [show (strayShard base).ent.blocks = 1 from rfl, hblock]
  rfl

theorem atollReads_stray (base : Nat) : atollReads strayWords (strayShard base) 0 = tileReads strayWords (strayShard base) 0 := by
  unfold atollReads
  refine List.filter_eq_self.mpr fun r hr => List.any_eq_true.mpr ⟨0, ?_, ?_⟩
  · rw [tileReads_stray] at hr
    simp only [List.mem_flatMap] at hr
    obtain ⟨_, -, _, -, hr⟩ := hr
    have : r = (base + 0 + 0 * 32, 32, 0) := by simpa [blockReads, strayShard, baseBytes, fmtScaled] using hr
    rw [this]
    simp
  · simp [readAt, strayShard]

theorem badReads_stray : (!(badReads strayWords (strayShard 0x40000000) 0 strayEnv strayWitness).isEmpty) = true ∧
    (!(badReads strayWords (strayShard 0x20000000) 0 strayEnv strayFreed).isEmpty) = false := by
  unfold badReads
  simp only [atollReads_stray, tileReads_stray]
  constructor <;> decide +kernel

/-- On the bad staple the replay is the NaN row of the suspect; once the witness is freed, it reads zeros. -/
theorem replayTile_stray : (replayTile strayEntry strayTile strayEnv strayWitness).1 = strayTile.result ∧
    replayTile strayEntry strayTile strayEnv strayFreed = (List.replicate 128 0, []) := by
  have hcols (base : Nat) (s : State) (n : Nat) : weightCol (strayShard base) 0 1 n s = [weightBlk (strayShard base) 0 0 s] := by
    have hblock (kb b col : Nat) : Config.weightBlock 1 kb b col % 1 = 0 := Nat.mod_one _
    unfold weightCol
    simp only [show (strayShard base).ent.blocks = 1 from rfl, hblock]
    rfl
  unfold replayTile replayRows
  simp only [show strayTile.words = strayWords from rfl, show strayTile.widen = 0 from rfl, show strayEntry.ctx.toNat = 5 from rfl,
    freshShard_stray.1, freshShard_stray.2, badReads_stray.1, badReads_stray.2]
  unfold runTile
  simp only [show tilePlies strayWords (strayShard 0x40000000) 0 = 0 from rfl, show tilePlies strayWords (strayShard 0x20000000) 0 = 0 from rfl,
    show tKBlocks strayWords = 1 from rfl, hcols]
  constructor <;> decide +kernel

theorem replayWaits_stray : replayWaits strayEntry strayTile strayWitness = false := by
  have hread : readStall strayWords (strayShard 0x40000000) 0 strayWitness = none := by
    have hup : retraining (strayShard 0x40000000).base strayWitness = false := by decide +kernel
    unfold readStall
    rw [hup]
    rfl
  unfold replayWaits
  rw [show strayEntry.ctx.toNat = 5 from rfl, show strayTile.words = strayWords from rfl, freshShard_stray.1]
  dsimp only
  rw [show strayTile.widen = 0 from rfl, hread]
  rfl

theorem witnessComplete_stray : witnessComplete strayEntry [] false strayEnv strayWitness =
    outcome strayEntry (List.replicate 128 0) (flagged (tileChecks strayWords (List.replicate 128 0) []))
      (countReplay strayEntry strayTile strayEnv strayFreed) := by
  unfold witnessComplete
  rw [show dispAt strayEntry strayWitness = some strayTile by decide +kernel]
  dsimp only
  rw [if_neg (by decide), if_neg (by decide), show strayTile.susp.bind (·.witness) = some strayNumber from rfl]
  dsimp only
  rw [replayWaits_stray, if_neg (by decide +kernel), if_pos (by decide),
    show memEnv strayEnv (freeWitness strayNumber strayWitness) = strayFreed from rfl, replayTile_stray.2]
  rfl

/-- Refutes O60: freeing a witness that is no spindle of the package moves the region that holds the tile's weights, so the replay
that equals the suspect's result before is another one when it ends, and is not counted as equal. -/
theorem not_eventEffects : ¬ Obligations.EventEffects := by
  intro h
  obtain ⟨-, hreplays, -, -⟩ := h strayWitness
  obtain ⟨hsuspect, -⟩ := hreplays
  have hdisp : dispAt strayEntry strayWitness = some strayTile := by decide +kernel
  obtain ⟨-, hends, -⟩ := hsuspect strayEntry strayTile { gauge := true, witness := some strayNumber } hdisp rfl (Or.inl (by decide))
  have hsame : (witnessed strayEntry strayTile [] false strayEnv strayWitness).1 = strayTile.result := by
    unfold witnessed
    rw [if_pos (by decide)]
    exact replayTile_stray.1
  obtain ⟨t, ht, hcount⟩ :=
    hends strayEnv [] false strayNumber rfl rfl rfl rfl (by decide +kernel) replayWaits_stray rfl rfl hsame
  have hrun : t = after (witnessComplete strayEntry [] false strayEnv) strayWitness :=
    Host.Outcome.next.inj (ht.symm.trans (run_eq _ _))
  rw [counts, hrun, rd_after, witnessComplete_stray] at hcount
  exact absurd hcount (by decide +kernel)

end Sys2Proof.Machine
end

section
/-! PROOFS. Faults of several contexts: a suspect of one whose witness is no spindle of the package keeps another one alive. -/

namespace Sys2Proof.Machine

open Sys2Proof.Safety
set_option Elab.async false

/-- The physical number whose strike register lies where CTX_STATE(1) lies; the package has spindles up to 303. -/
def strayContext : Nat := 1965089

/-- Contexts 0 and 1 are STARTING; a suspect of context 0 has the stray number as its witness, so that freeing the witness
leaves context 1 LOADING. -/
def strayPair : State :=
  { setFlds [(CTX_STATE_STATE 0, cxStarting), (CTX_STATE_STATE 1, cxStarting)] servicePackage with
    ctxs := [(0, { bound := [(0, 0)]
                   step := some { lists := [(0, [{ words := [], st := .suspect, susp := some { witness := some strayContext } }])] } }),
             (1, { bound := [(0, 0)] })] }

theorem ctxLive_strayPair : ctxLive 0 strayPair = true ∧ ctxLive 1 strayPair = true := by decide +kernel

/-- A vote is outstanding. -/
def strayVote : State := { strayPair with voteDue := true }

/-- Refutes O54: when the vote is lost, context 0 faults first and leaves context 1 LOADING, which then does not fault. -/
theorem not_tallyLock : ¬ Obligations.TallyLock := by
  intro h
  obtain ⟨hvotes, -⟩ := h
  obtain ⟨-, -, -, hlost⟩ := hvotes strayVote
  have hgives := hlost _ (List.mem_cons_self ..) (by decide +kernel)
  obtain ⟨-, -, -, -, -, hall⟩ := result_of_gives hgives
  exact absurd (hall 1 (by decide) (by decide +kernel)).1 (by decide +kernel)

/-- Refutes O15: the same when BT_CTRL.EN is cleared. -/
theorem not_gaugeAndTallyControl : ¬ Obligations.GaugeAndTallyControl := by
  intro h
  have hgives := h.2 0 strayPair (by unfold Answers; decide +kernel)
  obtain ⟨-, -, hall, -⟩ := result_of_gives hgives
  exact absurd (hall (by decide) (by decide +kernel) 1 (by decide) (by decide +kernel)).1 (by decide +kernel)

/-- A junction is at its limit. -/
def strayHot : State := { strayPair with pwr := { thermB := 63 } }

/-- Refutes O24: the same on entry into haven mode. -/
theorem not_haven : ¬ Obligations.Haven := by
  intro h
  obtain ⟨hentry, -⟩ := h
  have hgives := hentry 0 strayHot (by decide +kernel) (by decide +kernel) (.thermalLimitTimeout, 2, strayHot.pwr.thermB ≠ 0)
    (by simp) (by decide)
  obtain ⟨-, -, -, -, -, -, hall, -⟩ := result_of_gives hgives
  exact absurd (hall 1 (by decide) (by decide +kernel)).1 (by decide +kernel)

end Sys2Proof.Machine
end

section
/-! PROOFS. The end of a digest pass: contexts that a mismatch faults. -/

namespace Sys2Proof.Machine

open Sys2Proof.Safety
set_option Elab.async false

/-- A digest that region 0 does not have. -/
def otherDigest : BitVec 384 := ~~~Config.sha384Range [] 4096

/-- Region 0 is a sealed WEIGHT region of one staple. -/
def straySealed : State :=
  setFlds [(MEM_RGN_CFG_VALID 0, 1), (MEM_RGN_CFG_KIND 0, kWeight), (MEM_RGN_CFG_SEALED 0, 1), (MEM_RGN_SIZE_SIZE 0, 1)] strayPair

/-- A pass over it ends, and finds another digest than the one recorded. -/
def strayPass : State := { straySealed with digests := [(0, otherDigest)], digestPass := { active := true, covered := [0] } }

theorem digestRange_strayPass : digestRange (region 0 strayPass).base (region 0 strayPass).size strayPass ≠ otherDigest := by
  have h : digestRange (region 0 strayPass).base (region 0 strayPass).size strayPass = Config.sha384Range [] 4096 := by
    rw [show (region 0 strayPass).base = 0 by decide +kernel, show (region 0 strayPass).size = 4096 by decide +kernel]
    rfl
  rw [h, otherDigest]
  generalize Config.sha384Range [] 4096 = x
  intro he
  have hbit := congrArg (BitVec.getLsbD · 0) he
  simp at hbit

/-- What a pass does with region r when its digest is not the one recorded. -/
def passMissed (r : Nat) (s : State) : State :=
  let g := region r s
  let p := digestRange g.base g.size s
  let s := (boundTo r s).foldl (fun s b =>
    if bit (INT_BUDDY_VALID b.1) s then
      send (.passDigest (fld (INT_BUDDY_NODE b.1) s) (fld (INT_BUDDY_CONTEXT b.1) s) b.1 b.2 p false) s
    else s) s
  let s := setFlds [(INT_DIGEST_STAT_RESULT r, 2), (INT_DIGEST_STAT_PASSES r, fld (INT_DIGEST_STAT_PASSES r) s + 1)] s
  let cs := boundTo r s
  cs.foldl (fun s b => faultCtx b.1 cfIntegrity none s)
    (digestTaint 1 r (intErr INT_ERR_DIGEST ((cs.map (·.1)).headD 0) 0 (clearSealed r s)))

theorem passRegion_missed {r : Nat} {d : BitVec 384} {s : State} (hd : find? s.digests r = some d)
    (hsealed : (region r s).valid = true ∧ (region r s).kind = kWeight ∧ (region r s).sealedBit = true)
    (hne : digestRange (region r s).base (region r s).size s ≠ d) : passRegion r s = passMissed r s := by
  obtain ⟨h1, h2, h3⟩ := hsealed
  unfold passRegion passMissed
  rw [hd]
  dsimp only
  rw [if_neg (by simp [h1, h2, h3]), if_neg hne, if_neg hne]

/-- Refutes O37: context 0 faults first and leaves context 1 LOADING, which then does not fault. -/
theorem not_memoryHealth : ¬ Obligations.MemoryHealth := by
  intro h
  obtain ⟨-, hpass, -⟩ := h.2
  obtain ⟨t, ht, -, -, -, hall⟩ := hpass 0 otherDigest strayPass rfl rfl (by decide) rfl (by decide +kernel) (by decide +kernel) (by decide +kernel)
  obtain ⟨-, -, -, hfaulted⟩ := hall digestRange_strayPass
  have hstate := hfaulted (1, 0) (by decide +kernel) (by decide +kernel)
  have hrun : t = after passEnd strayPass := Host.Outcome.next.inj (ht.symm.trans (run_eq _ _))
  rw [hrun, ctxState, fld_after] at hstate
  have hmissed := passRegion_missed (r := 0) (s := strayPass) rfl (by decide +kernel) digestRange_strayPass
  have hend : fld (CTX_STATE_STATE 1) (passEnd strayPass) = fld (CTX_STATE_STATE 1) (passMissed 0 strayPass) := by
    unfold passEnd
    rw [if_neg (by decide), show strayPass.digestPass.covered = [0] from rfl, List.foldl_cons, List.foldl_nil, hmissed]
    generalize passMissed 0 strayPass = u
    rfl
  rw [hend] at hstate
  exact absurd hstate (by decide +kernel)

end Sys2Proof.Machine
end

section
/-! PROOFS. A beat edge with two reports of one spindle (R146). -/

namespace Sys2Proof.Machine

open Sys2Proof.Safety
set_option Elab.async false

/-- Spindle 3 reports that it waits for memory, with cause k. -/
def stallReport (k : BitVec 4) : Overrun := { cause := BitVec.ofNat 4 ovStall, ctx := none, stall := some k, spindle := some 3 }

/-- Refutes O52: of two stall reports of one spindle the first stands, and the other is not among the reports of the edge. -/
theorem not_beatEdges : ¬ Obligations.BeatEdges := by
  intro h
  obtain ⟨-, -, -, hedge⟩ := h [stallReport 1, stallReport 2] {} none [] servicePackage
  have hskips : noSkips servicePackage := fun c _ => rfl
  obtain ⟨-, hall, -⟩ := result_of_gives (hedge (by decide +kernel) (by decide +kernel) (by decide +kernel) hskips)
  exact absurd (hall (stallReport 2) (by simp) (by decide) (fun _ hc => by cases hc)) (by decide +kernel)

end Sys2Proof.Machine
end

section
/-! PROOFS. A vote result at which one context commits and another one faults at its first grant. -/

namespace Sys2Proof.Machine

open Sys2Proof.Safety
set_option Elab.async false

/-- The physical number whose strike register lies where KV_EPOCH lies; the package has spindles up to 303. -/
def strayEpoch : Nat := 653320

/-- Context 0 ends its step; context 1 begins to run with a binding that no region meets, and a suspect of it has the stray number
as its witness. -/
def strayCommit : State :=
  { setFlds [(CTX_STATE_STATE 0, cxRunning), (CTX_STATE_STATE 1, cxStarting), (CTX_STATE_NEVER_RAN 1, 1),
      (INT_STRIKES_STATE strayEpoch, phWitness)] (wr CTX_WANT 2 servicePackage) with
    voteDue := true
    ctxs := [(0, { step := some {}, ran := true }),
             (1, { weave := { wregs := [{ kind := kWeight, hint := 0, size := 4096 }] }
                   step := some { lists := [(0, [{ words := [], st := .suspect, susp := some { witness := some strayEpoch } }])] } })] }

def strayResult : Vote := { flag := false, causes := 0, want := 0, hold := 0, replay := 0 }

/-- Refutes O53: freeing the witness at the fault of context 1 changes the epoch that the commit of context 0 advanced. -/
theorem not_voteResults : ¬ Obligations.VoteResults := by
  intro h
  obtain ⟨-, hvote⟩ := h strayResult strayCommit
  have hquiet : quietEdge strayCommit := by
    refine ⟨⟨by decide +kernel, rfl⟩, rfl, rfl, fun c => ?_, by decide +kernel, ?_, by decide +kernel⟩
    · match c with
      | 0 => rfl
      | 1 => rfl
      | c + 2 => rfl
    · intro x hx
      cases hx
  obtain ⟨-, hgood⟩ := hvote rfl hquiet rfl rfl
  obtain ⟨-, -, -, -, hall⟩ := result_of_gives (hgood rfl rfl)
  obtain ⟨-, hcommit⟩ := hall 0 (by decide) {} (by decide +kernel) rfl rfl (by decide +kernel)
  obtain ⟨-, hepoch, -⟩ := hcommit (by decide)
  exact absurd hepoch (by decide +kernel)

end Sys2Proof.Machine
end

section
/-! PROOFS. A warm rejoin of a package with a suspect whose witness is no spindle of it. -/

namespace Sys2Proof.Machine

open Sys2Proof.Safety
set_option Elab.async false

/-- Context 0 has a suspect whose witness is the stray number, whose strike register lies where MEM_RGN_BASE(0) lies. -/
def strayRejoin : State :=
  { setFlds [(CTX_STATE_STATE 0, cxStarting), (INT_STRIKES_STATE strayNumber, phWitness)] servicePackage with
    ctxs := [(0, { step := some { lists := [(0, [{ words := [], st := .suspect, susp := some { witness := some strayNumber } }])] } })] }

/-- Refutes O19: freeing the witness at the teardown of context 0 moves region 0. -/
theorem not_warmRejoin : ¬ Obligations.WarmRejoin := by
  intro h
  obtain ⟨-, hreset, -⟩ := h.1
  obtain ⟨-, -, -, -, -, -, -, hregions, -⟩ := result_of_gives (hreset strayRejoin rfl rfl (by decide +kernel) (by decide +kernel))
  exact absurd (hregions 0 (by decide)).1 (by decide +kernel)

end Sys2Proof.Machine
end

section
/-! PROOFS. A fence without a spare at a beat edge: of two contexts on the number the first one's fault keeps the second alive. -/

namespace Sys2Proof.Machine

open Sys2Proof.Safety
set_option Elab.async false

/-- Logical number 0, with a cause to be fenced. -/
def fencedSpn : Spn := { fence := some 1 }

/-- Contexts 0 and 1 are STARTING on logical number 0, which spindle 0 serves and which is fenced; no spindle is a spare, and a
suspect of context 0 has as its witness the number whose strike register lies where CTX_STATE(1) lies. -/
def strayFence : State :=
  { setFlds [(CTX_STATE_STATE 0, cxStarting), (CTX_STATE_STATE 1, cxStarting), (INT_STRIKES_STATE 0, phServing),
      (INT_STRIKES_LOGICAL 0, 0)] servicePackage with
    spns := [(0, fencedSpn)]
    ctxs := [(0, { weave := { set := [0] }
                   step := some { lists := [(0, [{ words := [], st := .suspect, susp := some { witness := some strayContext } }])] } }),
             (1, { weave := { set := [0] } })] }

/-- Refutes O59: freeing the witness at the fault of context 0 leaves context 1 LOADING, which then does not fault. -/
theorem not_fencesAndSoundings : ¬ Obligations.FencesAndSoundings := by
  intro h
  obtain ⟨⟨-, -, -, hedge⟩, -⟩ := h
  have hskips : noSkips strayFence := by
    intro c _
    match c with
    | 0 => rfl
    | 1 => rfl
    | c + 2 => rfl
  obtain ⟨-, hnone⟩ := hedge [] {} 0 0 1 fencedSpn strayFence (by decide +kernel) rfl hskips rfl rfl (by decide +kernel)
  obtain ⟨-, -, hall⟩ := result_of_gives (hnone (by decide +kernel) (fun _ hy => by cases hy))
  exact absurd (hall 1 (by decide) (by decide +kernel) (by decide +kernel)).1 (by decide +kernel)

end Sys2Proof.Machine
end

section
/-! PROOFS. A causeway transfer whose leave was refused, with a fault at the next change of a cap. -/

namespace Sys2Proof.Machine

open Sys2Proof.Safety
set_option Elab.async false

/-- The physical number whose strike register lies where GLD_NODE lies; the package has spindles up to 303. -/
def strayNode : Nat := 1439745

/-- A unit's operation of context 0. -/
def unitOp : FabOp := { hdr := hdr0, payload := [], owner := .unit, ctx := 0 }

/-- Context 0 runs with a suspect whose witness is the stray number; a causeway transfer of it was refused leave. -/
def strayRefused : State :=
  { setFlds [(CTX_STATE_STATE 0, cxRunning), (INT_STRIKES_STATE strayNode, phWitness)] servicePackage with
    gld := { ops := [(0, unitOp)], refused := [0] }
    ctxs := [(0, { step := some { lists := [(0, [{ words := [], st := .suspect, susp := some { witness := some strayNode } }])] } })] }

/-- Refutes O21: freeing the witness at the fault of context 0 changes GLD_NODE. -/
theorem not_powerCaps : ¬ Obligations.PowerCaps := by
  intro h
  obtain ⟨-, hbmc, -⟩ := h
  obtain ⟨-, -, -, hnode, -⟩ := result_of_gives (hbmc 0 strayRefused (by decide +kernel))
  exact absurd hnode (by decide +kernel)

end Sys2Proof.Machine
end

section
/-! PROOFS. A port that leaves UP for IDENTIFY, with an operation that then has no path to its target. -/

namespace Sys2Proof.Machine

open Sys2Proof.Safety
set_option Elab.async false

/-- The physical number whose strike register lies where GLD_PORT_STATUS(0) lies; the package has spindles up to 303. -/
def strayPort : Nat := 1441792

/-- Port 0 is UP and retrains, an operation of context 0 has a target out of reach, and a suspect of context 0 has the stray number
as its witness. -/
def strayUp : State :=
  { setFlds [(CTX_STATE_STATE 0, cxRunning), (GLD_PORT_STATUS_STATE 0, pUp), (BRG_RETRAIN_STATUS_PORT_BUSY, 1),
      (BRG_RETRAIN_STATUS_PORT, 0)] servicePackage with
    gld := { ops := [(0, { unitOp with hdr := { hdr0 with dest := 5 } })] }
    ctxs := [(0, { step := some { lists := [(0, [{ words := [], st := .suspect, susp := some { witness := some strayPort } }])] } })] }

/-- Refutes O33: the port goes to IDENTIFY, context 0 faults with its operation, and freeing the witness leaves the port in
TRAINING. -/
theorem not_ports : ¬ Obligations.Ports := by
  intro h
  obtain ⟨-, hretrain⟩ := h.2 0 strayUp (by decide +kernel) rfl ⟨(fun _ hx => by cases hx), rfl⟩
  obtain ⟨hback, -⟩ := hretrain (by decide +kernel)
  obtain ⟨hstate, -, -⟩ := result_of_gives (hback (by decide +kernel))
  exact absurd hstate (by decide +kernel)

end Sys2Proof.Machine
end

section
/-! PROOFS. An ID frame at a port that leaves UP, with an operation that then has no path to its target. -/

namespace Sys2Proof.Machine

open Sys2Proof.Safety
set_option Elab.async false

/-- An ID frame that names nothing. -/
def blankFrame : IdFrame := { kind := 0, node := 0, code := 0, port := 0, role := 0, identity := 0, lock := 0 }

/-- Refutes O34: the port goes to IDENTIFY, context 0 faults with its operation, and freeing the witness leaves the port in
TRAINING. -/
theorem not_linkLayer : ¬ Obligations.LinkLayer := by
  intro h
  obtain ⟨hframe, -⟩ := h.2 0 strayUp ⟨by decide +kernel, by decide +kernel⟩ ⟨(fun _ hx => by cases hx), rfl⟩
  obtain ⟨-, -, -, -, -, hleave, -⟩ := result_of_gives (hframe blankFrame)
  exact absurd (hleave (by decide +kernel) (by decide +kernel)) (by decide +kernel)

end Sys2Proof.Machine
end

section
/-! PROOFS. A PORT_DOWN notice, with an operation that has no path to its target. -/

namespace Sys2Proof.Machine

open Sys2Proof.Safety
set_option Elab.async false

/-- The physical number whose strike register lies where GLD_REACH(0) lies; the package has spindles up to 303. -/
def strayReach : Nat := 1439752

/-- The package of position 30 in a domain of 16 by 8, all ports DOWN: only bit 30 of GLD_REACH is set. An operation of context 0
has a target out of reach, and a suspect of context 0 has the stray number as its witness. -/
def strayAlone : State :=
  { setFlds [(CTX_STATE_STATE 0, cxRunning), (GLD_NODE_VALID, 1), (GLD_NODE_DX_M1, 15), (GLD_NODE_DY_M1, 7),
      (GLD_NODE_NODE, 30)] servicePackage with
    gld := { ops := [(0, { unitOp with hdr := { hdr0 with dest := 5 } })] }
    ctxs := [(0, { step := some { lists := [(0, [{ words := [], st := .suspect, susp := some { witness := some strayReach } }])] } })] }

/-- Refutes O35: GLD_REACH takes the reachable positions, then context 0 faults with its operation, and freeing the witness changes
GLD_REACH(0). -/
theorem not_routeState : ¬ Obligations.RouteState := by
  intro h
  obtain ⟨hdown, -⟩ := h.1 0 0 strayAlone (by decide +kernel) (by decide) ⟨(fun _ hx => by cases hx), rfl⟩
  obtain ⟨-, -, hreach, -⟩ := result_of_gives hdown
  exact absurd (hreach 0 (by decide)) (by decide +kernel)

end Sys2Proof.Machine
end

section
/-! PROOFS. The data of a ferry channel's GET that comes in haven mode (R399, R402). -/

namespace Sys2Proof.Machine

open Sys2Proof.Safety
set_option Elab.async false

/-- One run of no bytes within the package, placed by an entry. -/
def blankXfer : FryDesc := { words := [0, 0, 0, 0, 0, 0, 0, 1, 0, 0, 1, 0, 0, 1, 0, 0], src := .entry { ctx := 0, phase := 0, idx := 0 } }

/-- A GET of no bytes that channel 0 issued. -/
def ferryGet : FabOp := { hdr := { hdr0 with opcode := 3 }, payload := [], owner := .ferry 0 0, ctx := 0 }

/-- The answer to it. -/
def ferryData : RespPacket :=
  mkResp { opcode := 17, tc := 0, status := 0, dest := 0, src := 0, tag := 0, nakReason := 0, pktOff := 0, value := 0, data := [], crc := 0 }

/-- Haven mode, entered while channel 0 runs with its GET outstanding. -/
def havenGet : State :=
  { setFlds [(GLD_NODE_VALID, 1), (GLD_NODE_NODE, 0), (PWR_HAVEN_ACTIVE, 1)] servicePackage with
    gld := { ops := [(0, ferryGet)] }
    chans := [(0, { state := .running, active := some blankXfer, next := 1 })] }

theorem transferRuns_havenGet : transferRuns 0 blankXfer havenGet := by
  refine ⟨rfl, rfl, fun i hi => (by cases hi), fun e he => (by cases he), ⟨fun x hx _ => ?_, rfl⟩, fun _ => rfl, rfl, rfl, ?_, ?_⟩
  · rw [List.mem_singleton.mp hx]
    rfl
  · decide +kernel
  · decide +kernel

/-- Refutes O39: a package in haven mode takes no response (R399), and the operation stays outstanding. -/
theorem not_ferryTransfer : ¬ Obligations.FerryTransfer := by
  intro h
  obtain ⟨-, -, hget⟩ := h
  obtain ⟨-, hdone, -⟩ := result_of_gives (hget ferryData ferryGet 0 0 blankXfer havenGet rfl (by decide +kernel) (by decide +kernel)
    (by decide +kernel) rfl rfl rfl rfl rfl rfl (by decide +kernel) ⟨rfl, rfl⟩ rfl rfl transferRuns_havenGet rfl (by decide +kernel)
    (by decide +kernel) (by decide +kernel) (by decide +kernel))
  exact absurd hdone (by decide +kernel)

end Sys2Proof.Machine
end

section
/-! PROOFS. What an operation performs at its target: its bytes, its signal, its count and its answer (R290 to R303). -/

namespace Sys2Proof.Machine

open Sys2Proof.Safety

/-! ### A signal and the threads it wakes (R297, R328) -/

theorem Serving.refl (s : State) : Serving [] s s := ⟨⟨rfl, fun _ _ => rfl, fun _ => rfl⟩, rfl, id, id⟩

/-- A thread that changes but does not begin to wait in RECV. -/
theorem serving_setThread {n t : Nat} {x : Thread} {s : State} (h : noRecv s → x.recv = false) : Serving [] s (setThread n t x s) := by
  refine ⟨⟨rfl, fun _ _ => rfl, fun _ => rfl⟩, rfl, fun hw k => ?_, fun hr e he y hy => ?_⟩
  · unfold setThread
    rw [spn_modSpn]
    split
    · exact hw n
    · exact hw k
  · rcases mem_of_mem_put he with rfl | he
    · rcases mem_of_mem_put hy with rfl | hy
      · exact h hr
      · rcases lookup_mem_or s.spns {} n with hd | hm
        · rw [spn, hd] at hy
          simp at hy
        · exact hr _ hm y hy
    · exact hr e he y hy

theorem recv_of_noRecv {s : State} (h : noRecv s) (n t : Nat) : (thread n t s).recv = false := by
  unfold thread
  rcases lookup_mem_or (spn n s).threads {} t with hd | hm
  · rw [hd]
  · unfold spn at hm ⊢
    rcases lookup_mem_or s.spns {} n with hd | hn
    · rw [hd] at hm
      simp at hm
    · exact h _ hn _ hm

/-- From s to t a signal counted the watches it met and woke threads. -/
def Woken (s t : State) : Prop := Serving [SYN_CNT 2] s t ∧ SameMem s t

theorem Woken.refl (s : State) : Woken s s := ⟨(Serving.refl s).mono (List.nil_subset _), fun _ => ⟨rfl, rfl⟩⟩

theorem Woken.trans {s t u : State} (h : Woken s t) (h' : Woken t u) : Woken s u := ⟨h.1.trans h'.1, sameMem_trans h.2 h'.2⟩

theorem woken_foldl {α : Type} {f : State → α → State} (h : ∀ s x, Woken s (f s x)) (xs : List α) (s : State) :
    Woken s (xs.foldl f s) := by
  induction xs generalizing s with
  | nil => exact Woken.refl s
  | cons x xs ih => exact (h s x).trans (ih _)

theorem woken_wake (n t : Nat) (s : State) : Woken s (wake n t s) := by
  unfold wake
  dsimp only
  split
  · have hset := serving_setThread (n := n) (t := t) (x := { thread n t s with state := .ready, watch := none }) (s := s)
      fun h => recv_of_noRecv h n t
    exact ⟨hset.mono (List.nil_subset _), fun _ => ⟨rfl, rfl⟩⟩
  · exact Woken.refl s

theorem woken_signalFired (a : Nat) (s : State) : Woken s (signalFired a s) := by
  refine woken_foldl (fun u p => woken_foldl (fun v t => ?_) _ u) _ s
  split
  · split
    · have hcount := gldOnly_of_regEffect (regEffect_bump64 (SYN_CNT 2) 1) v
      have hbump : Woken v (bump64 (SYN_CNT 2) 1 v) := ⟨hcount.serving, hcount.sameMem⟩
      dsimp only
      split
      · exact hbump.trans (woken_wake _ _ _)
      · exact hbump
    · exact Woken.refl v
  · exact Woken.refl v

/-- Where an operation's signal word lies. -/
def signalAddr (h : ReqHeader) (s : State) : Nat := winBase h.window.toNat s + h.sigOffset.toNat

/-- A signal writes its word, and nothing else of memory. -/
theorem fireSignal_spec {h : ReqHeader} {s : State} (hsig : h.sigOp ≠ 0) (hwin : noWindows s) :
    Serving [SYN_CNT 2] s (fireSignal h s) ∧
      landed (signalAddr h s) (signalBytes h (rdNat (signalAddr h s) 8 s)) s (fireSignal h s) := by
  have hwrote := wrUnit_spec hwin (signalAddr h s) (signalBytes h (rdNat (signalAddr h s) 8 s))
  have hwoken := woken_signalFired (signalAddr h s / 8 * 8)
    (wrUnit (signalAddr h s) (signalBytes h (rdNat (signalAddr h s) 8 s)) false s)
  have heq : fireSignal h s = signalFired (signalAddr h s / 8 * 8)
      (wrUnit (signalAddr h s) (signalBytes h (rdNat (signalAddr h s) 8 s)) false s) := by
    unfold fireSignal
    rw [if_neg hsig]
    rfl
  rw [heq]
  exact ⟨(hwrote.serving.mono (List.nil_subset _)).trans hwoken.1,
    landed_of_sameMem (fun _ => ⟨rfl, rfl⟩) hwrote.landed hwoken.2⟩

/-! ### The end of an operation at its target -/

/-- The counter of stale carding records, which a PUT_SIGNAL may reach (R260). -/
def staleRegs (h : ReqHeader) : List Nat := if h.opcode.toNat = ocPutSignal then [CRD_CNT 5] else []

theorem gldOnly_countStale (h : ReqHeader) (s : State) : GldOnly (staleRegs h) s (countStale h s) := by
  have hsame : GldOnly [] s s := gldOnly_modGld (f := id) rfl
  unfold staleRegs
  by_cases hoc : h.opcode.toNat = ocPutSignal
  · rw [if_pos hoc]
    unfold countStale
    dsimp only
    split
    · exact gldOnly_of_regEffect (regEffect_bump64 _ _) s
    · exact hsame.mono (List.nil_subset _)
  · rw [if_neg hoc]
    have hstale : countStale h s = s := by simp [countStale, hoc]
    rw [hstale]
    exact hsame

/-- The registers that an operation reaches when it is complete. -/
def servedRegs (h : ReqHeader) : List Nat := GLD_CNT 1 :: staleRegs h

/-- What follows the signal: counts, and the end of the landing. -/
theorem served_spec (h : ReqHeader) (v : W64) (s : State) :
    let u := if signals h then fireSignal h s else s
    GldOnly (servedRegs h) u (served h v s) ∧ counts (GLD_CNT 1) 1 u (served h v s) := by
  intro u
  have hstale := gldOnly_countStale h u
  have hdrop := gldOnly_dropLanding h.src.toNat h.tag.toNat (countStale h u)
  have hrd : rd (GLD_CNT 1) (dropLanding h.src.toNat h.tag.toNat (countStale h u)) = rd (GLD_CNT 1) u :=
    (hdrop.sameRegs _ List.not_mem_nil).trans (hstale.sameRegs _ (by
      unfold staleRegs
      split
      · simp [GLD_CNT, CRD_CNT]
      · exact List.not_mem_nil))
  refine ⟨(hstale.mono (List.subset_cons_self _ _)).trans ((hdrop.mono (List.nil_subset _)).trans
    ((gldOnly_of_regEffect (regEffect_bump64 (GLD_CNT 1) 1) _ |>.mono (by simp)).trans
      ((gldOnly_remember h.src.toNat h.tag.toNat v _).mono (List.nil_subset _)))), ?_⟩
  have hcount := counts_bump64 (GLD_CNT 1) 1 (dropLanding h.src.toNat h.tag.toNat (countStale h u))
  unfold counts at hcount ⊢
  rw [hrd] at hcount
  exact hcount

end Sys2Proof.Machine
end

section
/-! PROOFS. PUT, PUT_SIGNAL, SIGNAL and MCAST_PUT at their target (R292 to R297, R303). -/

namespace Sys2Proof.Machine

open Sys2Proof.Safety

/-! ### A packet that lands -/

/-- The bytes that a packet leaves at its address. -/
def landPay (p : Packet) (s : State) : List Byte :=
  if p.hdr.opcode.toNat = ocReduce then reduceBytes p.hdr.subop.toNat (landAddr p.hdr s) p.payload s else p.payload

/-- The bytes are in place. -/
def landWrote (p : Packet) (s : State) : State :=
  if carries p.hdr.opcode.toNat && !(landPay p s).isEmpty then wrUnit (landAddr p.hdr s) (landPay p s) false s else s

/-- A landing of one packet. -/
def oneLanding (p : Packet) : Landing :=
  { src := p.hdr.src.toNat, tag := p.hdr.tag.toNat, window := p.hdr.window.toNat, counter := counted p.hdr
    pieces := [(p.hdr.pktOff.toNat, p.payload.length)] }

/-- The landings that stay when the packet is noted. -/
def otherLandings (p : Packet) (g : Gld) : List Landing :=
  g.landings.filter fun x => !(x.src == p.hdr.src.toNat && x.tag == p.hdr.tag.toNat)

/-- The packet is noted among the landings. -/
def noteLanding (p : Packet) (s : State) : State :=
  modGld (fun g => { g with landings := oneLanding p :: otherLandings p g }) s

/-- A packet that is all of its operation writes its bytes, completes the operation, and is acknowledged. -/
theorem land_eq {oc : Nat} {p : Packet} {s : State} (h : accepted oc p s) :
    land p s = ackPkt p stOk 0 (served p.hdr 0 (noteLanding p (landWrote p s))) := by
  obtain ⟨-, -, -, hoc, -, -, -, hland, -, -, -, -, -, -, -, hpay, -⟩ := h
  have hwhole : (!carries p.hdr.opcode.toNat || decide (landedBytes (oneLanding p) ≥ p.hdr.length.toNat)) = true := by
    rw [hoc]
    by_cases hc : carries oc = true
    · obtain ⟨hoff, hlen⟩ := hpay hc
      have hone : landedBytes (oneLanding p) = p.hdr.length.toNat := landedBytes_single (by simp [oneLanding, hoff, hlen])
      simp [hone]
    · simp [hc]
  have hlist : ([] : List (Nat × Nat)).contains (p.hdr.pktOff.toNat, p.payload.length) = false := rfl
  unfold land
  simp only [hland, Option.getD_none, hlist, Bool.false_eq_true, if_false, List.nil_append]
  exact congrArg (ackPkt p stOk 0) (if_pos hwhole)

theorem landWrote_spec {p : Packet} {s : State} (hc : carries p.hdr.opcode.toNat = true) (hwin : noWindows s) :
    UnitWrote (landAddr p.hdr s) (landPay p s) s (landWrote p s) := by
  unfold landWrote
  split
  · exact wrUnit_spec hwin _ _
  next hempty =>
    have hnil : landPay p s = [] := by simpa [hc] using hempty
    rw [hnil]
    exact ⟨⟨s.mem, s.staples, s.lagoonBad, s.spns, rfl⟩, landed_nil _ _, id, id⟩

theorem landWrote_of_not_carries {p : Packet} (hc : carries p.hdr.opcode.toNat = false) (s : State) : landWrote p s = s := by
  simp [landWrote, hc]

theorem gldOnly_noteLanding (p : Packet) (s : State) : GldOnly [] s (noteLanding p s) := gldOnly_modGld rfl

/-- What is in place before the operation is complete. -/
theorem landNoted_serving {p : Packet} {s : State} (hwin : noWindows s) : Serving [] s (noteLanding p (landWrote p s)) := by
  refine Serving.trans ?_ (gldOnly_noteLanding p _).serving
  by_cases hc : carries p.hdr.opcode.toNat = true
  · exact (landWrote_spec hc hwin).serving
  · rw [landWrote_of_not_carries (by simpa using hc)]
    exact Serving.refl s

theorem landNoted_landed {p : Packet} {s : State} (hc : carries p.hdr.opcode.toNat = true) (hwin : noWindows s) :
    landed (landAddr p.hdr s) (landPay p s) s (noteLanding p (landWrote p s)) :=
  landed_of_sameMem (fun _ => ⟨rfl, rfl⟩) (landWrote_spec hc hwin).landed (gldOnly_noteLanding p _).sameMem

/-- The end of a landing is acknowledged. -/
theorem ack_served {l : List Nat} {p : Packet} {s t : State} (h : Serving (servedRegs p.hdr ++ l) s t) (hl : l ⊆ [SYN_CNT 2])
    (hcount : counts (GLD_CNT 1) 1 s t) (hans : answerable p s) :
    Serving (servedRegs p.hdr ++ l) s (ackPkt p stOk 0 t) ∧ SameMem t (ackPkt p stOk 0 t) ∧
      answered p ocAck stOk 0 [] (ackPkt p stOk 0 t) ∧ counts (GLD_CNT 1) 1 s (ackPkt p stOk 0 t) := by
  have hno (o : Nat) (h1 : o ≠ GLD_CNT 1) (h2 : o ≠ CRD_CNT 5)
      (h3 : o ≠ SYN_CNT 2) : o ∉ servedRegs p.hdr ++ l := by
    intro hm
    rcases List.mem_append.mp hm with hm | hm
    · unfold servedRegs staleRegs at hm
      split at hm <;> simp_all
    · exact h3 (List.mem_singleton.mp (hl hm))
  obtain ⟨hserve, hsame, hregs, hanswer⟩ := ack_of_serving h (hno _ (by decide) (by decide) (by decide))
    (fun q hq => hno _ (by simp only [GLD_PORT_STATUS, GLD_CNT]; omega)
      (by simp only [GLD_PORT_STATUS, CRD_CNT]; omega) (by simp only [GLD_PORT_STATUS, SYN_CNT]; omega)) hans
  refine ⟨hserve, hsame, hanswer, ?_⟩
  unfold counts at hcount ⊢
  rw [hregs _ List.not_mem_nil, hcount]

end Sys2Proof.Machine
end

section
/-! PROOFS. One-sided writes and signals, by opcode (R292 to R297, R303). -/

namespace Sys2Proof.Machine

open Sys2Proof.Safety

/-! ### By the operation's signal -/

/-- An operation without a signal lands its bytes. -/
theorem land_unsignalled {oc : Nat} {p : Packet} {s : State} (h : accepted oc p s) (hc : carries oc = true)
    (hs : signals p.hdr = false) :
    Serving [GLD_CNT 1] s (land p s) ∧ landed (landAddr p.hdr s) (landPay p s) s (land p s) ∧
      answered p ocAck stOk 0 [] (land p s) ∧ counts (GLD_CNT 1) 1 s (land p s) := by
  rw [land_eq h]
  obtain ⟨-, -, -, hoc, -, -, -, -, -, -, -, -, -, -, hans, -, hwin⟩ := h
  rw [← hoc] at hc
  have hnoted := landNoted_serving (p := p) hwin
  have hbytes := landNoted_landed hc hwin
  set m := noteLanding p (landWrote p s)
  have hstale : staleRegs p.hdr = [] := if_neg fun hps => by simp [signals, counted, hps] at hs
  obtain ⟨hend, hcount⟩ := served_spec p.hdr 0 m
  simp only [hs, Bool.false_eq_true, if_false, servedRegs, hstale] at hend hcount
  have hall : Serving (servedRegs p.hdr ++ []) s (served p.hdr 0 m) := by
    rw [List.append_nil, servedRegs, hstale]
    exact (hnoted.mono (List.nil_subset _)).trans hend.serving
  have hcnt : counts (GLD_CNT 1) 1 s (served p.hdr 0 m) := by
    unfold counts at hcount ⊢
    rw [hcount, hnoted.sameRegs _ List.not_mem_nil]
  obtain ⟨hserve, hsame, hanswer, hcnt'⟩ := ack_served hall (List.nil_subset _) hcnt hans
  rw [List.append_nil, servedRegs, hstale] at hserve
  exact ⟨hserve, landed_of_sameMem (fun _ => ⟨rfl, rfl⟩) hbytes (sameMem_trans hend.sameMem hsame), hanswer, hcnt'⟩

/-- The state at which an operation's signal is performed: its bytes, if it has any, are in place. -/
def dataPlaced (p : Packet) (s m : State) : Prop :=
  if carries p.hdr.opcode.toNat then landed (landAddr p.hdr s) (landPay p s) s m else SameMem s m

/-- An operation with a signal performs it after its bytes. -/
theorem land_signalled {oc : Nat} {p : Packet} {s : State} (h : accepted oc p s) (hs : signals p.hdr = true) (hsig : p.hdr.sigOp ≠ 0) :
    Serving (servedRegs p.hdr ++ [SYN_CNT 2]) s (land p s) ∧
      (∃ m, dataPlaced p s m ∧
        landed (signalAddr p.hdr s) (signalBytes p.hdr (rdNat (signalAddr p.hdr s) 8 m)) m (land p s)) ∧
      answered p ocAck stOk 0 [] (land p s) ∧ counts (GLD_CNT 1) 1 s (land p s) := by
  rw [land_eq h]
  obtain ⟨-, -, -, hoc, -, -, -, -, -, -, -, -, -, -, hans, -, hwin⟩ := h
  have hnoted := landNoted_serving (p := p) hwin
  have hplaced : dataPlaced p s (noteLanding p (landWrote p s)) := by
    unfold dataPlaced
    split
    next hc => exact landNoted_landed hc hwin
    next hc =>
      rw [landWrote_of_not_carries (by simpa using hc)]
      exact (gldOnly_noteLanding p s).sameMem
  set m := noteLanding p (landWrote p s)
  have haddr : signalAddr p.hdr m = signalAddr p.hdr s := by
    simp only [signalAddr, winBase, fld, hnoted.sameRegs _ List.not_mem_nil]
  obtain ⟨hfire, hword⟩ := fireSignal_spec hsig (hnoted.noWindows hwin)
  rw [haddr] at hword
  obtain ⟨hend, hcount⟩ := served_spec p.hdr 0 m
  simp only [hs, if_true] at hend hcount
  set u := fireSignal p.hdr m
  have hu : Serving [SYN_CNT 2] s u := (hnoted.mono (List.nil_subset _)).trans hfire
  have hall : Serving (servedRegs p.hdr ++ [SYN_CNT 2]) s (served p.hdr 0 m) :=
    (hu.mono (List.subset_append_right _ _)).trans (hend.serving.mono (List.subset_append_left _ _))
  have hcnt : counts (GLD_CNT 1) 1 s (served p.hdr 0 m) := by
    unfold counts at hcount ⊢
    rw [hcount, hu.sameRegs _ (by decide)]
  obtain ⟨hserve, hsame, hanswer, hcnt'⟩ := ack_served hall (List.Subset.refl _) hcnt hans
  exact ⟨hserve, ⟨m, hplaced, landed_of_sameMem (fun _ => ⟨rfl, rfl⟩) hword (sameMem_trans hend.sameMem hsame)⟩, hanswer, hcnt'⟩

/-! ### A multicast packet passes on before it lands (R303) -/

theorem rd_routed {s u : State} (h : Routed [GLD_CNT 6] s u) {o : Nat} (ho : o ≠ GLD_CNT 6) : rd o u = rd o s :=
  h.2 o (by simpa using ho)

theorem winBase_routed {s u : State} (h : Routed [GLD_CNT 6] s u) (w : Nat) : winBase w u = winBase w s := by
  simp only [winBase, fld, GLD_WIN_BASE_BASE]
  rw [rd_routed h (by simp only [GLD_WIN_BASE, GLD_CNT]; omega)]

theorem memWaits_routed {s u : State} (h : Routed [GLD_CNT 6] s u) (write : Bool) (a n : Nat) :
    memWaits write a n u = memWaits write a n s := by
  have hmem : rd MEM_STATUS u = rd MEM_STATUS s := rd_routed h (by decide)
  have hretrain (b : Nat) : retraining b u = retraining b s := by
    simp only [retraining, fld, atollFld, hmem]
  obtain ⟨⟨r, m, n, p, c, rfl⟩, -⟩ := h
  simp only [memWaits, hretrain]
  rfl

theorem accepted_routed {oc : Nat} {p : Packet} {s u : State} (h : Routed [GLD_CNT 6] s u) (ha : accepted oc p s) : accepted oc p u := by
  have hnode : rd GLD_NODE u = rd GLD_NODE s := rd_routed h (by decide)
  have hvalid' : nodeValid u = nodeValid s := by simp only [nodeValid, bit, fld, GLD_NODE_VALID, hnode]
  have hmy : myNode u = myNode s := by simp only [myNode, fld, GLD_NODE_NODE, hnode]
  have hhaven' : bit PWR_HAVEN_ACTIVE u = bit PWR_HAVEN_ACTIVE s := by
    simp only [bit, fld, PWR_HAVEN_ACTIVE, rd_routed h (o := PWR_HAVEN) (by decide)]
  have hctx : fld (GLD_WIN_CFG_CONTEXT p.hdr.window.toNat) u = fld (GLD_WIN_CFG_CONTEXT p.hdr.window.toNat) s := by
    simp only [fld, GLD_WIN_CFG_CONTEXT]
    rw [rd_routed h (by simp only [GLD_WIN_CFG, GLD_CNT]; omega)]
  have hwaits : packetWaits p u = packetWaits p s := by
    simp only [packetWaits, winBase_routed h, memWaits_routed h]
  obtain ⟨hon, hvalid, hhaven, hoc, hdest, hcrc, hnew, hland, hwin, hdrain, halign, hspill, hcount, hwait, hans, hpay, hwins⟩ := ha
  have hans' := answerable_congr (sameRouter_routed h) hans
  have hwin' := (windowOk_routed h p.hdr).trans hwin
  have hwait' := hwaits.trans hwait
  have hdest' : if oc = ocMcast then p.hdr.src.toNat ≠ myNode u ∧ ownPos u ∈ groupOf p.hdr.group.toNat u
      else p.hdr.dest.toNat = myNode u := by
    simp only [ownPos, groupOf_routed h, hmy]
    exact hdest
  have hbase := winBase_routed h p.hdr.window.toNat
  rw [← hvalid'] at hvalid
  rw [← hhaven'] at hhaven
  rw [← hbase, ← hctx] at hspill
  obtain ⟨⟨r, m, n, q, c, rfl⟩, -⟩ := h
  exact ⟨hon, hvalid, hhaven, hoc, hdest', hcrc, hnew, hland, hwin', hdrain, halign, hspill, hcount, hwait', hans', hpay, hwins⟩

/-- A multicast packet from elsewhere goes on to the rest of its tree, and then lands here. -/
theorem mcast_spec {p : Packet} {s : State} (h : accepted ocMcast p s) :
    ∃ u, Routed [GLD_CNT 6] s u ∧ accepted ocMcast p u ∧ landArrives ocMcast p s = land p u := by
  obtain ⟨hon, hvalid, hhaven, hoc, hdest, -⟩ := id h
  rw [if_pos rfl] at hdest
  obtain ⟨hsrc, hmember⟩ := hdest
  have hrouted : Routed [GLD_CNT 6] s (emitMcast p (closeEntries p.hdr (fun _ => false) s)) :=
    (routed_closeEntries _ _ s).trans (routed_emitMcast p _)
  have hacc := accepted_routed hrouted h
  have hin : (groupOf p.hdr.group.toNat (emitMcast p (closeEntries p.hdr (fun _ => false) s))).contains
      (ownPos (emitMcast p (closeEntries p.hdr (fun _ => false) s))) = true := by
    obtain ⟨-, -, -, -, hdest', -⟩ := hacc
    rw [if_pos rfl] at hdest'
    simpa using hdest'.2
  refine ⟨_, hrouted, hacc, ?_⟩
  unfold landArrives
  rw [arrivePacket_eq hon hvalid hhaven hoc, if_pos rfl]
  simp only [if_neg hsrc]
  rw [if_pos hin, atWindow_of_accepted hacc]

end Sys2Proof.Machine
end

section
/-! PROOFS. PUT, PUT_SIGNAL, SIGNAL and MCAST_PUT as commands (R292 to R297, R303). -/

namespace Sys2Proof.Machine

open Sys2Proof.Safety

/-- An operation for this package is performed. -/
theorem arrive_accepted {oc : Nat} {p : Packet} {s : State} (h : accepted oc p s) (hoc : oc ≠ ocMcast) (hold : Bool)
    (perform : State → State) : arrivePacket oc p hold (atWindow p perform) s = perform s := by
  obtain ⟨hon, hvalid, hhaven, hop, hdest, -⟩ := id h
  rw [if_neg hoc] at hdest
  rw [arrivePacket_eq hon hvalid hhaven hop, if_neg hoc, if_pos hdest, atWindow_of_accepted h]

/-- What holds of the effect of a command holds of its result, as far as memory, the fabric and counts go. -/
theorem landed_after {a : Nat} {bs : List Byte} {f : State → State} {s m : State} (h : landed a bs m (f s)) : landed a bs m (after f s) :=
  fun b => (rdByte_after b f s).trans (h b)

theorem landPay_of_opcode {p : Packet} {s : State} {oc : Nat} (hoc : p.hdr.opcode.toNat = oc) (hr : oc ≠ ocReduce) :
    landPay p s = p.payload := if_neg (by rw [hoc]; exact hr)

theorem opcode_of_accepted {oc : Nat} {p : Packet} {s : State} (h : accepted oc p s) : p.hdr.opcode.toNat = oc := by
  obtain ⟨-, -, -, hoc, -⟩ := h
  exact hoc

theorem signals_eq {p : Packet} {oc : Nat} (hoc : p.hdr.opcode.toNat = oc) :
    signals p.hdr = (oc == ocSignal || (oc == ocPutSignal || ((oc == ocReduce || oc == ocMcast) && p.hdr.sigOp != 0))) := by
  unfold signals counted
  rw [hoc]

theorem put_gives {p : Packet} {s : State} (h : accepted ocPut p s) : Gives (.put p) s fun t =>
    landed (landAddr p.hdr s) p.payload s t ∧ answered p ocAck stOk 0 [] t ∧ counts (GLD_CNT 1) 1 s t ∧ fabricOnly [GLD_CNT 1] s t := by
  have hoc := opcode_of_accepted h
  obtain ⟨hserve, hbytes, hanswer, hcount⟩ := land_unsignalled h rfl (by rw [signals_eq hoc]; rfl)
  rw [landPay_of_opcode hoc (by decide)] at hbytes
  have hf : landArrives ocPut p s = land p s := arrive_accepted h (by decide) _ _
  rw [← hf] at hserve hbytes hanswer hcount
  exact ⟨_, rfl, landed_after hbytes, answered_after hanswer, counts_after hcount, fabricOnly_after hserve.1⟩

/-- The signal word, once the packet's bytes are in place. -/
theorem landed_of_placed {p : Packet} {s m : State} {oc : Nat} (hoc : p.hdr.opcode.toNat = oc) (hr : oc ≠ ocReduce)
    (hc : carries oc = true) (h : dataPlaced p s m) : landed (landAddr p.hdr s) p.payload s m := by
  unfold dataPlaced at h
  rwa [if_pos (by rw [hoc]; exact hc), landPay_of_opcode hoc hr] at h

theorem putSignal_gives {p : Packet} {s : State} (h : accepted ocPutSignal p s) (hsig : p.hdr.sigOp ≠ 0) :
    Gives (.putSignal p) s fun t =>
      (∃ m, landed (landAddr p.hdr s) p.payload s m ∧
        landed (signalAddr p.hdr s) (signalBytes p.hdr (rdNat (signalAddr p.hdr s) 8 m)) m t) ∧
      answered p ocAck stOk 0 [] t ∧ fabricOnly [GLD_CNT 1, CRD_CNT 5, SYN_CNT 2] s t := by
  have hoc := opcode_of_accepted h
  obtain ⟨hserve, ⟨m, hdata, hword⟩, hanswer, -⟩ := land_signalled h (by rw [signals_eq hoc]; rfl) hsig
  have hf : landArrives ocPutSignal p s = land p s := arrive_accepted h (by decide) _ _
  rw [servedRegs, staleRegs, if_pos hoc] at hserve
  rw [← hf] at hserve hword hanswer
  exact ⟨_, rfl, ⟨m, landed_of_placed hoc (by decide) rfl hdata, landed_after hword⟩, answered_after hanswer, fabricOnly_after hserve.1⟩

theorem signal_gives {p : Packet} {s : State} (h : accepted ocSignal p s) (hsig : p.hdr.sigOp ≠ 0) :
    Gives (.signal p) s fun t =>
      landed (signalAddr p.hdr s) (signalBytes p.hdr (rdNat (signalAddr p.hdr s) 8 s)) s t ∧ answered p ocAck stOk 0 [] t ∧
        fabricOnly [GLD_CNT 1, SYN_CNT 2] s t := by
  have hoc := opcode_of_accepted h
  obtain ⟨hserve, ⟨m, hdata, hword⟩, hanswer, -⟩ := land_signalled h (by rw [signals_eq hoc]; rfl) hsig
  have hsame : SameMem s m := by
    unfold dataPlaced at hdata
    rwa [if_neg (by rw [hoc]; decide)] at hdata
  have hold : rdNat (signalAddr p.hdr s) 8 m = rdNat (signalAddr p.hdr s) 8 s := by
    simp only [rdNat, rdBytes, fun b => (hsame b).1]
  have hf : landArrives ocSignal p s = land p s := arrive_accepted h (by decide) _ _
  rw [servedRegs, staleRegs, if_neg (by rw [hoc]; decide)] at hserve
  rw [hold] at hword
  rw [← hf] at hserve hword hanswer
  exact ⟨_, rfl, landed_after (landed_of_sameMem hsame hword fun _ => ⟨rfl, rfl⟩), answered_after hanswer, fabricOnly_after hserve.1⟩

/-- What multicast leaves alone, with what passing the packet on leaves alone. -/
theorem fabricOnly_of_mcast {l : List Nat} {p : Packet} {s u t : State} (hoc : p.hdr.opcode.toNat = ocMcast) (h : Routed [GLD_CNT 6] s u)
    (ht : Serving (servedRegs p.hdr ++ l) u t) : fabricOnly ([GLD_CNT 1, GLD_CNT 6] ++ l) s t := by
  rw [servedRegs, staleRegs, if_neg (by rw [hoc]; decide)] at ht
  refine fabricOnly_trans (fabricOnly_mono h.gldOnly.fabricOnly (by simp)) (fabricOnly_mono ht.1 ?_)
  exact List.append_subset.mpr ⟨by simp, List.subset_append_right _ _⟩

theorem mcastPut_gives {p : Packet} {s : State} (h : accepted ocMcast p s) : Gives (.mcastPut p) s fun t =>
    (p.hdr.sigOp = 0 → landed (landAddr p.hdr s) p.payload s t) ∧
      (p.hdr.sigOp ≠ 0 → ∃ m, landed (landAddr p.hdr s) p.payload s m ∧
        landed (signalAddr p.hdr s) (signalBytes p.hdr (rdNat (signalAddr p.hdr s) 8 m)) m t) ∧
      answered p ocAck stOk 0 [] t ∧ counts (GLD_CNT 1) 1 s t ∧
      fabricOnly ([GLD_CNT 1, GLD_CNT 6] ++ if p.hdr.sigOp = 0 then [] else [SYN_CNT 2]) s t := by
  have hoc := opcode_of_accepted h
  obtain ⟨u, hrouted, hacc, hf⟩ := mcast_spec h
  have hsame := hrouted.gldOnly.sameMem
  have hland : landAddr p.hdr u = landAddr p.hdr s := by simp only [landAddr, winBase_routed hrouted]
  have hsign : signalAddr p.hdr u = signalAddr p.hdr s := by simp only [signalAddr, winBase_routed hrouted]
  have hsignals := signals_eq hoc
  by_cases hsig : p.hdr.sigOp = 0
  · obtain ⟨hserve, hbytes, hanswer, hcount⟩ := land_unsignalled hacc rfl (by rw [hsignals, hsig]; rfl)
    rw [landPay_of_opcode hoc (by decide), hland] at hbytes
    have hserve' : Serving (servedRegs p.hdr ++ []) u (land p u) := hserve.mono (by simp [servedRegs])
    rw [← hf] at hserve' hbytes hanswer hcount
    refine ⟨_, rfl, fun _ => landed_after (landed_of_sameMem hsame hbytes fun _ => ⟨rfl, rfl⟩), fun hne => absurd hsig hne,
      answered_after hanswer, counts_after (counts_of_routed (by decide) hrouted hcount), ?_⟩
    rw [if_pos hsig]
    exact fabricOnly_after (fabricOnly_of_mcast hoc hrouted hserve')
  · obtain ⟨hserve, ⟨m, hdata, hword⟩, hanswer, hcount⟩ :=
      land_signalled hacc (by rw [hsignals]; simpa [ocMcast, ocSignal, ocPutSignal, ocReduce] using hsig) hsig
    have hbytes := landed_of_placed hoc (by decide) rfl hdata
    rw [hland] at hbytes
    rw [hsign] at hword
    rw [← hf] at hserve hword hanswer hcount
    refine ⟨_, rfl, fun he => absurd he hsig, fun _ => ⟨m, landed_of_sameMem hsame hbytes fun _ => ⟨rfl, rfl⟩, landed_after hword⟩,
      answered_after hanswer, counts_after (counts_of_routed (by decide) hrouted hcount), ?_⟩
    rw [if_neg hsig]
    exact fabricOnly_after (fabricOnly_of_mcast hoc hrouted hserve)

/-- Settles O29, opcode by opcode: the bytes, then the signal, then the answer. -/
theorem putsAndSignals : Obligations.PutsAndSignals :=
  fun _ _ => ⟨put_gives, mcastPut_gives, putSignal_gives, signal_gives⟩

end Sys2Proof.Machine
end

section
/-! PROOFS. GET, REDUCE and ATOMIC at their target (R292, R299, R302). -/

namespace Sys2Proof.Machine

open Sys2Proof.Safety

/-! ### What a request reads -/

theorem lagoonUe_of_sound {a n : Nat} {s : State} (h : (lagoonAt a).isSome → lagoonFails a n s = false) (hdr : ReqHeader) :
    lagoonUe hdr a n s = s := by
  unfold lagoonUe
  split
  next m hm => rw [h (by rw [hm]; rfl)]; rfl
  next => rfl

/-- The range that a request reads passes its checks. -/
def rangeSound (a n : Nat) (s : State) : Prop :=
  if (lagoonAt a).isSome then lagoonFails a n s = false else ∀ q ∈ staplesOf a n, stapleOk q s = true

theorem lagoon_of_rangeSound {a n : Nat} {s : State} (h : rangeSound a n s) : (lagoonAt a).isSome → lagoonFails a n s = false := by
  intro hl
  unfold rangeSound at h
  rwa [if_pos hl] at h

theorem any_bad_of_rangeSound {a n : Nat} {s : State} (h : rangeSound a n s) (hl : lagoonAt a = none) :
    ((staplesOf a n).any fun q => !stapleOk q s) = false := by
  unfold rangeSound at h
  rw [if_neg (by simp [hl])] at h
  simpa using h

/-- An answer reaches the packet's source. -/
theorem answer_spec {p : Packet} {s : State} (h : answerable p s) {oc st : Nat} (hoc : oc < 32) (hst : st < 16) (v : W64)
    (bs : List Byte) (k : Nat) : Routed [] s (answer p oc st v bs k s) ∧ answered p oc st v bs (answer p oc st v bs k s) := by
  unfold answer
  exact answered_emitResp h rfl rfl (by simpa using hoc) (by simpa using hst)

/-! ### GET -/

theorem pktOffs_single {n : Nat} (h : n ≤ 4096) : pktOffs n = [0] := by
  unfold pktOffs
  split
  · rfl
  · have hone : (n + 4095) / 4096 = 1 := by omega
    rw [hone]
    rfl

/-- A GET of one packet over a sound range is served and answered with the bytes. -/
theorem serveGet_eq {p : Packet} {s : State} (h : accepted ocGet p s) (hlen : p.hdr.length.toNat ≤ 4096)
    (hsound : rangeSound (winBase p.hdr.window.toNat s + p.hdr.offset.toNat) p.hdr.length.toNat s) :
    let t := served p.hdr 0 s
    serveGet p s = answer p ocData stOk 0
      (rdBytes (winBase p.hdr.window.toNat s + p.hdr.offset.toNat) p.hdr.length.toNat t) 0 t := by
  intro t
  obtain ⟨-, -, -, -, -, -, hnew, -⟩ := h
  have hagain : (s.gld.history.any fun d => d.src == p.hdr.src.toNat && d.tag == p.hdr.tag.toNat) = false := by
    simpa using hnew
  have hbad : (lagoonFails (winBase p.hdr.window.toNat s + p.hdr.offset.toNat) p.hdr.length.toNat s &&
      (lagoonAt (winBase p.hdr.window.toNat s + p.hdr.offset.toNat)).isSome ||
      ((lagoonAt (winBase p.hdr.window.toNat s + p.hdr.offset.toNat)).isNone &&
        (staplesOf (winBase p.hdr.window.toNat s + p.hdr.offset.toNat) p.hdr.length.toNat).any fun q => !stapleOk q s)) = false := by
    cases hl : lagoonAt (winBase p.hdr.window.toNat s + p.hdr.offset.toNat) with
    | none => simpa using any_bad_of_rangeSound hsound hl
    | some m => simp [lagoon_of_rangeSound hsound (by rw [hl]; rfl)]
  unfold serveGet
  simp only [lagoonUe_of_sound (lagoon_of_rangeSound hsound), hbad, hagain, Bool.and_false, Bool.false_eq_true, if_false,
    pktOffs_single hlen, List.foldl_cons, List.foldl_nil, Nat.sub_zero, Nat.min_eq_right hlen, Nat.add_zero]
  rfl

theorem get_gives {p : Packet} {s : State} (h : accepted ocGet p s) (hlen : p.hdr.length.toNat ≤ 4096)
    (hsound : rangeSound (winBase p.hdr.window.toNat s + p.hdr.offset.toNat) p.hdr.length.toNat s) : Gives (.get p) s fun t =>
      answered p ocData stOk 0 (rdBytes (winBase p.hdr.window.toNat s + p.hdr.offset.toNat) p.hdr.length.toNat s) t ∧ SameMem s t ∧
        fabricOnly [GLD_CNT 1] s t := by
  have hf : getArrives p s = serveGet p s := arrive_accepted h (by decide) _ _
  rw [serveGet_eq h hlen hsound] at hf
  have hoc := opcode_of_accepted h
  obtain ⟨-, -, -, -, -, -, -, -, -, -, -, -, -, -, hans, -⟩ := h
  have hend := gldOnly_served (h := p.hdr) (by rw [signals_eq hoc]; rfl) 0 s
  set t := served p.hdr 0 s
  have hans' : answerable p t := answerable_congr (hend.sameRouter (by decide) fun q hq => by
    simp only [List.mem_singleton, GLD_PORT_STATUS, GLD_CNT]; omega) hans
  have hbytes : rdBytes (winBase p.hdr.window.toNat s + p.hdr.offset.toNat) p.hdr.length.toNat t =
      rdBytes (winBase p.hdr.window.toNat s + p.hdr.offset.toNat) p.hdr.length.toNat s := by
    simp only [rdBytes, fun b => (hend.sameMem b).1]
  rw [hbytes] at hf
  obtain ⟨hrouted, hanswer⟩ := answer_spec hans' (oc := ocData) (st := stOk) (by decide) (by decide) 0
    (rdBytes (winBase p.hdr.window.toNat s + p.hdr.offset.toNat) p.hdr.length.toNat s) 0
  rw [← hf] at hrouted hanswer
  have hall := hend.trans (hrouted.gldOnly.mono (List.nil_subset _))
  exact ⟨_, rfl, answered_after hanswer, sameMem_after hall.sameMem, fabricOnly_after hall.fabricOnly⟩

/-! ### REDUCE -/

theorem not_badSubop {oc top : Nat} {p : Packet} (h : p.hdr.subop.toNat ≤ top) (s : State) : badSubop oc top p s = false := by
  simp [badSubop, Nat.not_lt.mpr h]

theorem serveReduce_of_sound {p : Packet} {s : State} (h : rangeSound (landAddr p.hdr s) p.payload.length s) :
    serveReduce p s = land p s := by
  have hbad : (if (lagoonAt (landAddr p.hdr s)).isSome = true then lagoonFails (landAddr p.hdr s) p.payload.length s
      else (staplesOf (landAddr p.hdr s) p.payload.length).any fun q => !stapleOk q s) = false := by
    split
    next hl => exact lagoon_of_rangeSound h hl
    next hl => exact any_bad_of_rangeSound h (by simpa using hl)
  unfold serveReduce
  dsimp only
  unfold landAddr at hbad
  exact if_neg (by rw [hbad]; exact Bool.false_ne_true)

theorem execReduce_eq {p : Packet} {s : State} (hsub : p.hdr.subop.toNat ≤ 3) :
    exec (.reduce p) s = run (arrivePacket ocReduce p false (atWindow p (serveReduce p))) s :=
  if_neg (by rw [not_badSubop hsub]; decide)

theorem landPay_of_reduce {p : Packet} (hoc : p.hdr.opcode.toNat = ocReduce) (s : State) :
    landPay p s = reduceBytes p.hdr.subop.toNat (landAddr p.hdr s) p.payload s := if_pos hoc

/-- A REDUCE over sound elements combines them, and performs its signal if it has one. -/
theorem reduce_gives {p : Packet} {s : State} (h : accepted ocReduce p s) (hsub : p.hdr.subop.toNat ≤ 3)
    (hsound : rangeSound (landAddr p.hdr s) p.payload.length s) :
    let bs := reduceBytes p.hdr.subop.toNat (landAddr p.hdr s) p.payload s
    Gives (.reduce p) s fun t =>
      (p.hdr.sigOp = 0 → landed (landAddr p.hdr s) bs s t) ∧
        (p.hdr.sigOp ≠ 0 → ∃ m, landed (landAddr p.hdr s) bs s m ∧
          landed (signalAddr p.hdr s) (signalBytes p.hdr (rdNat (signalAddr p.hdr s) 8 m)) m t) ∧
        answered p ocAck stOk 0 [] t ∧ fabricOnly (GLD_CNT 1 :: if p.hdr.sigOp = 0 then [] else [SYN_CNT 2]) s t := by
  intro bs
  have hoc := opcode_of_accepted h
  have hsignals := signals_eq hoc
  have hf : arrivePacket ocReduce p false (atWindow p (serveReduce p)) s = land p s :=
    (arrive_accepted h (by decide) _ _).trans (serveReduce_of_sound hsound)
  by_cases hsig : p.hdr.sigOp = 0
  · obtain ⟨hserve, hbytes, hanswer, -⟩ := land_unsignalled h rfl (by rw [hsignals, hsig]; rfl)
    rw [landPay_of_reduce hoc] at hbytes
    rw [← hf] at hserve hbytes hanswer
    refine ⟨_, execReduce_eq hsub, fun _ => landed_after hbytes, fun hne => absurd hsig hne, answered_after hanswer, ?_⟩
    rw [if_pos hsig]
    exact fabricOnly_after hserve.1
  · obtain ⟨hserve, ⟨m, hdata, hword⟩, hanswer, -⟩ :=
      land_signalled h (by rw [hsignals]; simpa [ocReduce, ocSignal, ocPutSignal] using hsig) hsig
    unfold dataPlaced at hdata
    rw [if_pos (by rw [hoc]; rfl), landPay_of_reduce hoc] at hdata
    rw [servedRegs, staleRegs, if_neg (by rw [hoc]; decide)] at hserve
    rw [← hf] at hserve hword hanswer
    refine ⟨_, execReduce_eq hsub, fun he => absurd he hsig, fun _ => ⟨m, hdata, landed_after hword⟩, answered_after hanswer, ?_⟩
    rw [if_neg hsig]
    exact fabricOnly_after hserve.1

/-- A REDUCE over a failing staple is answered POISON, without an effect. -/
theorem reduce_poison_gives {p : Packet} {s : State} (h : accepted ocReduce p s) (hsub : p.hdr.subop.toNat ≤ 3)
    (hl : lagoonAt (landAddr p.hdr s) = none) (hbad : ∃ q ∈ staplesOf (landAddr p.hdr s) p.payload.length, stapleOk q s = false) :
    Gives (.reduce p) s fun t => answered p ocAck stPoison 0 [] t ∧ SameMem s t ∧ fabricOnly [] s t := by
  have hany : ((staplesOf (landAddr p.hdr s) p.payload.length).any fun q => !stapleOk q s) = true := by simpa using hbad
  have hserve : serveReduce p s = ackPkt p stPoison 0 s := by
    have hue := lagoonUe_of_sound (a := landAddr p.hdr s) (n := p.payload.length) (s := s) (fun hs => by simp [hl] at hs) p.hdr
    unfold serveReduce
    dsimp only
    unfold landAddr at hue hany hl
    rw [hue, if_pos (by simpa [hl] using hany)]
  have hf : arrivePacket ocReduce p false (atWindow p (serveReduce p)) s = ackPkt p stPoison 0 s :=
    (arrive_accepted h (by decide) _ _).trans hserve
  obtain ⟨-, -, -, -, -, -, -, -, -, -, -, -, -, -, hans, -⟩ := h
  obtain ⟨hrouted, hanswer⟩ := ackPkt_spec hans (by decide : stPoison < 16) 0
  rw [← hf] at hrouted hanswer
  exact ⟨_, execReduce_eq hsub, answered_after hanswer, sameMem_after hrouted.gldOnly.sameMem, fabricOnly_after hrouted.gldOnly.fabricOnly⟩

/-! ### ATOMIC -/

theorem noWindows_of_accepted {oc : Nat} {p : Packet} {s : State} (h : accepted oc p s) : noWindows s := by
  obtain ⟨-, -, -, -, -, -, -, -, -, -, -, -, -, -, -, -, hwin⟩ := h
  exact hwin

/-- The word that an ATOMIC reaches. -/
def atomicAddr (h : ReqHeader) (s : State) : Nat := winBase h.window.toNat s + h.offset.toNat

def atomicOld (h : ReqHeader) (s : State) : W64 := BitVec.ofNat 64 (rdNat (atomicAddr h s) 8 s)

/-- The word is changed as SUBOP says. -/
def atomicWrote (h : ReqHeader) (s : State) : State :=
  if h.subop = 0 then wrUnit (atomicAddr h s) (natToBytes 8 (atomicOld h s + h.valueA).toNat) false s
  else if atomicOld h s = h.valueB then wrUnit (atomicAddr h s) (natToBytes 8 h.valueA.toNat) false s else s

theorem execAtomic_eq {p : Packet} {s : State} (hsub : p.hdr.subop.toNat ≤ 1) (hold : Bool) :
    exec (.atomic p hold) s = run (arrivePacket ocAtomic p hold (atWindow p (serveAtomic p))) s :=
  if_neg (by rw [not_badSubop hsub]; decide)

theorem serveAtomic_eq {p : Packet} {s : State} (hsound : (lagoonAt (atomicAddr p.hdr s)).isSome → lagoonFails (atomicAddr p.hdr s) 8 s = false) :
    serveAtomic p s = ackPkt p stOk (atomicOld p.hdr s) (served p.hdr (atomicOld p.hdr s) (atomicWrote p.hdr s)) := by
  have hue := lagoonUe_of_sound hsound p.hdr
  unfold serveAtomic
  dsimp only
  unfold atomicAddr at hue
  rw [hue]
  rfl

/-- An ATOMIC whose word was written in some way, or not, is counted and answered with the old value. -/
theorem atomic_gives {p : Packet} {s : State} (h : accepted ocAtomic p s)
    (hsound : (lagoonAt (atomicAddr p.hdr s)).isSome → lagoonFails (atomicAddr p.hdr s) 8 s = false) (hold : Bool)
    (hsub : p.hdr.subop.toNat ≤ 1) (hwrote : Serving [] s (atomicWrote p.hdr s)) :
    Gives (.atomic p hold) s fun t =>
      SameMem (atomicWrote p.hdr s) t ∧ answered p ocAck stOk (atomicOld p.hdr s) [] t ∧ fabricOnly [GLD_CNT 1] s t := by
  have hf : arrivePacket ocAtomic p hold (atWindow p (serveAtomic p)) s =
      ackPkt p stOk (atomicOld p.hdr s) (served p.hdr (atomicOld p.hdr s) (atomicWrote p.hdr s)) :=
    (arrive_accepted h (by decide) _ _).trans (serveAtomic_eq hsound)
  have hoc := opcode_of_accepted h
  obtain ⟨-, -, -, -, -, -, -, -, -, -, -, -, -, -, hans, -⟩ := h
  have hend := gldOnly_served (h := p.hdr) (by rw [signals_eq hoc]; rfl) (atomicOld p.hdr s) (atomicWrote p.hdr s)
  set t := served p.hdr (atomicOld p.hdr s) (atomicWrote p.hdr s)
  have hserve : Serving [GLD_CNT 1] s t := (hwrote.mono (List.nil_subset _)).trans hend.serving
  have hans' : answerable p t := answerable_congr (hserve.sameRouter (by decide) fun q hq => by
    simp only [List.mem_singleton, GLD_PORT_STATUS, GLD_CNT]; omega) hans
  obtain ⟨hrouted, hanswer⟩ := ackPkt_spec hans' (by decide : stOk < 16) (atomicOld p.hdr s)
  have hsame := sameMem_trans hend.sameMem hrouted.gldOnly.sameMem
  have hall := hserve.trans (hrouted.gldOnly.serving.mono (List.nil_subset _))
  rw [← hf] at hsame hanswer hall
  exact ⟨_, execAtomic_eq hsub hold, sameMem_trans hsame fun a => ⟨rdByte_after a _ s, metaAt_after a _ s⟩, answered_after hanswer, fabricOnly_after hall.1⟩

/-! ### The reserved SUBOPs -/

theorem performs_of_accepted {oc : Nat} {p : Packet} {s : State} (h : accepted oc p s) : performs p s = true := by
  obtain ⟨-, -, -, -, -, hcrc, hnew, hland, hwin, hdrain, halign, hspill, hcount, hwait, -⟩ := h
  have hdup := dup_eq_false hnew
  unfold dup at hdup
  simp [performs, hcrc, hdup, hland, hwin, hdrain, halign, hspill, Nat.not_le.mpr hcount, hwait]

theorem badSubop_of_accepted {oc top : Nat} {p : Packet} {s : State} (h : accepted oc p s) (hoc : oc ≠ ocMcast)
    (hsub : top < p.hdr.subop.toNat) : badSubop oc top p s = true := by
  have hperf := performs_of_accepted h
  obtain ⟨hon, hvalid, hhaven, hop, hdest, -⟩ := h
  rw [if_neg hoc] at hdest
  simp [badSubop, hon, hvalid, hhaven, hop, hdest, hperf, hsub]

/-- An ATOMIC that writes its word. -/
theorem atomic_write_gives {p : Packet} {s : State} (h : accepted ocAtomic p s)
    (hsound : (lagoonAt (atomicAddr p.hdr s)).isSome → lagoonFails (atomicAddr p.hdr s) 8 s = false) (hold : Bool)
    (hsub : p.hdr.subop.toNat ≤ 1) {bs : List Byte} (heq : atomicWrote p.hdr s = wrUnit (atomicAddr p.hdr s) bs false s) :
    Gives (.atomic p hold) s fun t => landed (atomicAddr p.hdr s) bs s t ∧ answered p ocAck stOk (atomicOld p.hdr s) [] t ∧
      fabricOnly [GLD_CNT 1] s t := by
  have hwrote := wrUnit_spec (noWindows_of_accepted h) (atomicAddr p.hdr s) bs
  rw [← heq] at hwrote
  obtain ⟨t, ht, hsame, hrest⟩ := atomic_gives h hsound hold hsub hwrote.serving
  exact ⟨t, ht, landed_of_sameMem (fun _ => ⟨rfl, rfl⟩) hwrote.landed hsame, hrest⟩

theorem atomicWrote_swap {h : ReqHeader} {s : State} (h1 : h.subop = 1) (hv : atomicOld h s = h.valueB) :
    atomicWrote h s = wrUnit (atomicAddr h s) (natToBytes 8 h.valueA.toNat) false s := by
  unfold atomicWrote
  rw [if_neg (by rw [h1]; decide), if_pos hv]

theorem atomicWrote_keep {h : ReqHeader} {s : State} (h1 : h.subop = 1) (hv : atomicOld h s ≠ h.valueB) : atomicWrote h s = s := by
  unfold atomicWrote
  rw [if_neg (by rw [h1]; decide), if_neg hv]

/-- Settles O30, opcode by opcode; a reserved SUBOP is met before the operation is performed. -/
theorem getReduceAtomic : Obligations.GetReduceAtomic := by
  intro p s
  refine ⟨get_gives, reduce_gives, reduce_poison_gives, fun h hsound hold => ⟨fun h0 => ?_, fun h1 hv => ?_, fun h1 hv => ?_⟩,
    fun h hsub => if_pos (badSubop_of_accepted h (by decide) hsub), fun h hold hsub => if_pos (badSubop_of_accepted h (by decide) hsub)⟩
  · exact atomic_write_gives h hsound hold (by rw [h0]; decide) (if_pos h0)
  · exact atomic_write_gives h hsound hold (by rw [h1]; decide) (atomicWrote_swap h1 hv)
  · have heq := atomicWrote_keep h1 hv
    have hgives := atomic_gives h hsound hold (by rw [h1]; decide) (by rw [heq]; exact Serving.refl s)
    rwa [heq] at hgives

end Sys2Proof.Machine
end

section
/-! PROOFS. What the trouble of a context keeps: a fault (R360), and operations that end badly (R311), with it. -/

namespace Sys2Proof.Machine

open Sys2Proof.Safety

/-! ### Registers, but that a witness is free again (R369) -/

/-- The field of the register at `o` in which INT_STRIKES holds a spindle's phase. -/
def phaseAt (o : Nat) : FRef := ⟨o, 31, 29⟩

/-- The register at `o` stays, but that a spindle that was a witness may be a spare again. A suspect may name any witness. -/
def KeepsReg (o : Nat) (s t : State) : Prop :=
  rd o t = rd o s ∨
    (INT_STRIKES 0 ≤ o ∧ fld (phaseAt o) s = phWitness ∧ fld (phaseAt o) t = phSpare ∧
      ∀ f : FRef, f.off = o → f.hi < 29 → fld f t = fld f s)

theorem keepsReg_refl (o : Nat) (s : State) : KeepsReg o s s := .inl rfl

theorem fld_congr_rd {f : FRef} {s t : State} (h : rd f.off t = rd f.off s) : fld f t = fld f s := by
  unfold fld
  rw [h]

theorem KeepsReg.trans {o : Nat} {s t u : State} (h : KeepsReg o s t) (h' : KeepsReg o t u) : KeepsReg o s u := by
  rcases h with h | ⟨ho, hw, hp, hf⟩
  · rcases h' with h' | ⟨ho, hw, hp, hf⟩
    · exact .inl (h'.trans h)
    · exact .inr ⟨ho, by rw [← hw]; exact (fld_congr_rd h).symm, hp, fun f hfo hhi =>
        (hf f hfo hhi).trans (fld_congr_rd (hfo.symm ▸ h))⟩
  · rcases h' with h' | ⟨_, hw', -, -⟩
    · exact .inr ⟨ho, hw, (fld_congr_rd h').trans hp, fun f hfo hhi => (fld_congr_rd (hfo.symm ▸ h')).trans (hf f hfo hhi)⟩
    · rw [hp] at hw'
      exact absurd hw' (by decide)

/-- Below the strike registers nothing else happens. -/
theorem KeepsReg.rd_low {o : Nat} {s t : State} (h : KeepsReg o s t) (ho : o < INT_STRIKES 0) : rd o t = rd o s :=
  h.resolve_right fun hr => absurd hr.1 (by omega)

theorem KeepsReg.fld_low {f : FRef} {s t : State} (h : KeepsReg f.off s t) (ho : f.off < INT_STRIKES 0) : fld f t = fld f s :=
  fld_congr_rd (h.rd_low ho)

/-- A field below the phase stays. -/
theorem KeepsReg.fld_eq {f : FRef} {s t : State} (h : KeepsReg f.off s t) (hf : f.hi < 29) : fld f t = fld f s :=
  h.elim fld_congr_rd fun hr => hr.2.2.2 f rfl hf

/-- A register whose top bits do not read as a witness stays. -/
theorem KeepsReg.rd_of_phase {o : Nat} {s t : State} (h : KeepsReg o s t) (hp : fld (phaseAt o) s ≠ phWitness) : rd o t = rd o s :=
  h.resolve_right fun hr => hp hr.2.1

theorem top_bit_of_phase (o : Nat) (s : State) : fld ⟨o, 31, 31⟩ s = fld (phaseAt o) s / 4 := by
  simp only [fld, fldOf, phaseAt, Nat.shiftRight_eq_div_pow]
  omega

/-- Bit 31 stays: a witness and a spare both have 0 there. -/
theorem KeepsReg.top_bit {o : Nat} {s t : State} (h : KeepsReg o s t) : fld ⟨o, 31, 31⟩ t = fld ⟨o, 31, 31⟩ s := by
  rcases h with h | ⟨-, hw, hp, -⟩
  · exact fld_congr_rd h
  · rw [top_bit_of_phase, top_bit_of_phase, hw, hp]
    rfl

theorem keepsReg_freeWitness (o p : Nat) (s : State) : KeepsReg o s (freeWitness p s) := by
  unfold freeWitness
  split
  · next hw =>
    by_cases ho : o = INT_STRIKES p
    · subst ho
      refine .inr ⟨Nat.le_add_right _ _, by simpa [phState, INT_STRIKES_STATE, phaseAt] using hw,
        fld_setFld_same (INT_STRIKES_STATE p) phSpare s (show 31 < 64 by decide), fun f hfo hhi => ?_⟩
      exact fld_setFld_disjoint (INT_STRIKES_STATE p) f phSpare s (by omega) (.inr (show f.hi < 29 from hhi))
    · exact .inl (rd_setFld_other _ _ _ ho)
  · exact keepsReg_refl o s

/-! ### The frame -/

/-- Registers below the context bank that a fault, or an operation that ends badly, writes. -/
def troubleRegs : List Nat :=
  [SKN_CNT 4, SKN_ERR, SEC_ERR, GLD_ERR, GLD_ERR_INFO, GLD_CNT 6, PWR_LEAVE, FRY_ERR, FRY_ERR_INFO, FRY_CNT 4]

/-- A state without the fields that a context's trouble may change. -/
def untroubled (s : State) : State :=
  { s with
    regs := [], caps := [], acc := 0, rdata := 0, sent := [], free := 0, skeins := [], ringFns := 0, kv := {}, reefHeld := []
    bars := [], chans := [], gld := {}, spns := [], ctxs := [], hostHeld := []
    pwr := { s.pwr with held := [], queue := [], refused := [], hist := [] } }

/-- From s to t only a context's trouble: the registers of `l` and of the context bank on, and the fields of contexts, skeins,
spindles, channels, operations and leaves. -/
def Troubled (l : List Nat) (s t : State) : Prop :=
  (∀ o < 0x800000, o ∉ l → KeepsReg o s t) ∧ untroubled t = untroubled s ∧ (s.pwr.queue = [] → t.pwr.queue = [])

theorem troubled_refl (l : List Nat) (s : State) : Troubled l s s := ⟨fun o _ _ => keepsReg_refl o s, rfl, id⟩

theorem Troubled.trans {l : List Nat} {s t u : State} (h : Troubled l s t) (h' : Troubled l t u) : Troubled l s u :=
  ⟨fun o ho hl => (h.1 o ho hl).trans (h'.1 o ho hl), h'.2.1.trans h.2.1, h'.2.2 ∘ h.2.2⟩

theorem Troubled.mono {l m : List Nat} {s t : State} (h : Troubled l s t) (hm : l ⊆ m) : Troubled m s t :=
  ⟨fun o ho hl => h.1 o ho fun hmem => hl (hm hmem), h.2⟩

theorem Troubled.keepsReg {l : List Nat} {s t : State} (h : Troubled l s t) {o : Nat} (ho : o < 0x800000) (hl : o ∉ l) :
    KeepsReg o s t := h.1 o ho hl

theorem Troubled.mem_eq {l : List Nat} {s t : State} (h : Troubled l s t) : t.mem = s.mem := (congrArg State.mem h.2.1 :)

theorem Troubled.staples_eq {l : List Nat} {s t : State} (h : Troubled l s t) : t.staples = s.staples :=
  (congrArg State.staples h.2.1 :)

theorem Troubled.boot_eq {l : List Nat} {s t : State} (h : Troubled l s t) : t.boot = s.boot := (congrArg State.boot h.2.1 :)

theorem Troubled.swap_eq {l : List Nat} {s t : State} (h : Troubled l s t) : t.swap = s.swap := (congrArg State.swap h.2.1 :)

theorem Troubled.sec_eq {l : List Nat} {s t : State} (h : Troubled l s t) : t.sec = s.sec := (congrArg State.sec h.2.1 :)

theorem Troubled.fuse_eq {l : List Nat} {s t : State} (h : Troubled l s t) : t.fuse = s.fuse := (congrArg State.fuse h.2.1 :)

theorem Troubled.sameMem {l : List Nat} {s t : State} (h : Troubled l s t) : SameMem s t := by
  intro a
  unfold rdByte metaAt
  rw [h.mem_eq, h.staples_eq]
  exact ⟨rfl, rfl⟩

theorem troubled_foldl {α : Type} {l : List Nat} {f : State → α → State} (h : ∀ s x, Troubled l s (f s x)) (xs : List α) (s : State) :
    Troubled l s (xs.foldl f s) := by
  induction xs generalizing s with
  | nil => exact troubled_refl l s
  | cons x xs ih => exact (h s x).trans (ih _)

/-- A change of the fields that trouble may change, with no register. -/
theorem troubled_of {l : List Nat} {s t : State} (hregs : t.regs = s.regs) (h : untroubled t = untroubled s)
    (hq : s.pwr.queue = [] → t.pwr.queue = []) : Troubled l s t :=
  ⟨fun o _ _ => .inl (rd_congr hregs o), h, hq⟩

theorem troubled_of_regEffect {l m : List Nat} {f : State → State} (h : RegEffect m f) (hm : ∀ o ∈ m, 0x800000 ≤ o ∨ o ∈ l)
    (s : State) : Troubled l s (f s) := by
  obtain ⟨⟨r, a, d, he⟩, hr⟩ := h s
  refine ⟨fun o ho hl => .inl (hr o fun hmem => ?_), by rw [he]; rfl, by rw [he]; exact id⟩
  exact (hm o hmem).elim (by omega) hl

theorem troubled_setFld {l : List Nat} {f : FRef} (hf : 0x800000 ≤ f.off ∨ f.off ∈ l) (x : Nat) (s : State) :
    Troubled l s (setFld f x s) :=
  troubled_of_regEffect (regEffect_setFld f x) (by simpa using hf) s

theorem troubled_setFlds {l : List Nat} {fs : List (FRef × Nat)} (hf : ∀ p ∈ fs, 0x800000 ≤ p.1.off ∨ p.1.off ∈ l) (s : State) :
    Troubled l s (setFlds fs s) :=
  troubled_of_regEffect (regEffect_setFlds fs) (by
    intro o ho
    obtain ⟨p, hp, rfl⟩ := List.mem_map.mp ho
    exact hf p hp) s

theorem troubled_bump64 {l : List Nat} {o : Nat} (ho : o ∈ l) (n : Nat) (s : State) : Troubled l s (bump64 o n s) :=
  troubled_of_regEffect (regEffect_bump64 o n) (by simpa using .inr ho) s

theorem troubled_raiseErr {l : List Nat} {f : FRef} (hf : 0x800000 ≤ f.off ∨ f.off ∈ l) {fs : List (FRef × Nat)}
    (hfs : ∀ p ∈ fs, 0x800000 ≤ p.1.off ∨ p.1.off ∈ l) (info : Nat) (s : State) : Troubled l s (raiseErr f info fs s) := by
  have herr (u : State) : Troubled l u (setErr f u) := troubled_setFld hf 1 u
  unfold raiseErr
  split
  · exact ((troubled_setFlds hfs s).trans (troubled_of rfl rfl id)).trans (herr _)
  · exact herr s

theorem troubled_routed {l m : List Nat} {s t : State} (h : Routed m s t) (hm : m ⊆ l) : Troubled l s t := by
  obtain ⟨⟨r, m, n, p, c, rfl⟩, hr⟩ := h
  exact ⟨fun o _ hl => .inl (hr o fun hmem => hl (hm hmem)), rfl, id⟩

section Leaves

variable (l : List Nat) (s : State)

theorem troubled_send (m : Sent) : Troubled l s (send m s) := troubled_of rfl rfl id

theorem troubled_modKv (f : Kv → Kv) : Troubled l s (modKv f s) := troubled_of rfl rfl id

theorem troubled_setSk (i : Nat) (k : Skein) : Troubled l s (setSk i k s) := troubled_of rfl rfl id

theorem troubled_modCtx (c : Nat) (f : Ctx → Ctx) : Troubled l s (modCtx c f s) := troubled_of rfl rfl id

theorem troubled_setThread (n t : Nat) (x : Thread) : Troubled l s (setThread n t x s) := troubled_of rfl rfl id

theorem troubled_modGld (f : Gld → Gld) : Troubled l s (modGld f s) := troubled_of rfl rfl id

theorem troubled_setChan (n : Nat) (x : Channel) : Troubled l s (setChan n x s) := troubled_of rfl rfl id

end Leaves

/-! ### A context's fault (R360) -/

theorem troubled_freeWitness (l : List Nat) (p : Nat) (s : State) : Troubled l s (freeWitness p s) := by
  refine ⟨fun o _ _ => keepsReg_freeWitness o p s, ?_, ?_⟩ <;> unfold freeWitness <;> split
  · rfl
  · rfl
  · exact id
  · exact id

theorem troubled_freeWitnesses (l : List Nat) (st : Step) (s : State) : Troubled l s (freeWitnesses st s) := by
  refine troubled_foldl (fun u d => ?_) _ s
  split
  · split
    · exact troubled_freeWitness l _ u
    · exact troubled_refl l u
  · exact troubled_refl l u

theorem troubled_unwalk (l : List Nat) (d : Disp) (s : State) : Troubled l s (unwalk d s) :=
  troubled_foldl (fun _ _ => troubled_modKv _ _ _) _ s

theorem troubled_kvDiscard (l : List Nat) (h : Nat) (b : BatchSk) (e : Nat) (s : State) : Troubled l s (kvDiscard h b e s) := by
  unfold kvDiscard
  extract_lets d u v
  have hu : Troubled l s u := by
    unfold u
    split
    · split
      · exact troubled_refl l s
      · exact troubled_modKv l _ _
    · exact troubled_refl l s
  have hv : Troubled l s v := hu.trans (troubled_foldl (fun _ _ => troubled_modKv l _ _) _ _)
  split
  · exact hv.trans ((troubled_modKv l _ _).trans (troubled_modKv l _ _))
  · exact hv

theorem troubled_clearSpindles (l : List Nat) (c : Nat) (s : State) : Troubled l s (clearSpindles c s) :=
  (troubled_foldl (f := fun s e => modKv (fun v => { v with walkers := removeOnce v.walkers e }) s)
    (fun _ _ => troubled_modKv l _ _) (walksOf c s) s).trans (troubled_of rfl rfl id)

theorem troubled_discardBatch (l : List Nat) (e : Nat) (bs : List BatchSk) (s : State) :
    Troubled l s (bs.foldl (fun s b => kvDiscard (sk b.skein s).dir b e s) s) :=
  troubled_foldl (fun _ _ => troubled_kvDiscard l _ _ _ _) bs s

theorem troubled_dropStep (l : List Nat) (c e : Nat) (s : State) : Troubled l s (dropStep c e s) := by
  unfold dropStep
  extract_lets x u v
  have hu : Troubled l s u := by
    unfold u
    split
    · exact troubled_refl l s
    · next st _ =>
      exact ((troubled_freeWitnesses l st s).trans
        (troubled_foldl (fun u y => troubled_foldl (fun _ _ => troubled_unwalk l _ _) y.2 u) st.lists _)).trans
        (troubled_discardBatch l e st.batch _)
  have hv : Troubled l s v := hu.trans (troubled_discardBatch l e x.next u)
  exact (hv.trans (troubled_of rfl rfl id)).trans (troubled_clearSpindles l c _)

theorem troubled_wakeStalled (l : List Nat) (n : Nat) (s : State) : Troubled l s (wakeStalled n s) := by
  induction n generalizing s with
  | zero => exact troubled_refl l s
  | succ n ih =>
    unfold wakeStalled
    split
    · exact troubled_refl l s
    · refine Troubled.trans ?_ (ih _)
      split
      · exact (troubled_modGld l _ _).trans (troubled_setThread l _ _ _ _)
      · exact troubled_modGld l _ _

theorem filter_nil_of_nil {α : Type} (p : α → Bool) {xs : List α} (h : xs = []) : xs.filter p = [] := by
  rw [h]
  rfl

theorem troubled_cancelOps (l : List Nat) (c : Nat) (s : State) : Troubled l s (cancelOps c s) := by
  unfold cancelOps
  extract_lets gone kept g p u
  exact Troubled.trans (t := u) (troubled_of rfl rfl (filter_nil_of_nil _)) (troubled_wakeStalled l _ _)

theorem troubled_abortChans (l : List Nat) (c : Nat) (s : State) : Troubled l s (abortChans c s) :=
  troubled_foldl (fun _ _ => troubled_setChan l _ _ _) _ s

theorem troubled_faultSkein (i cause : Nat) (s : State) : Troubled troubleRegs s (faultSkein i cause s) := by
  unfold faultSkein
  dsimp only
  split
  · exact (troubled_setSk _ s _ _).trans (troubled_bump64 (by decide) _ _)
  · exact troubled_refl _ s

theorem troubled_hostWrite (l : List Nat) (i fn addr : Nat) (bs : List Byte) (s : State) : Troubled l s (hostWrite i fn addr bs s) := by
  unfold hostWrite
  split <;> exact troubled_of rfl rfl id

theorem troubled_ringLost (i : Nat) (s : State) : Troubled troubleRegs s (ringLost i s) := by
  have hfault (u : State) : Troubled troubleRegs u (ringFault i u) :=
    (troubled_setFld (.inr (by decide)) 1 u).trans (troubled_faultSkein _ _ _)
  unfold ringLost
  split
  · exact (troubled_setFld (.inr (by decide)) 1 s).trans (hfault _)
  · exact hfault s

theorem troubled_putRecord (i : Nat) (ws : List W32) (s : State) : Troubled troubleRegs s (putRecord i ws s) := by
  unfold putRecord
  dsimp only
  split
  · exact troubled_ringLost i s
  · exact (troubled_hostWrite _ _ _ _ _ s).trans (troubled_setSk _ _ _ _)

theorem troubled_writeCompletion (i : Nat) (s : State) : Troubled troubleRegs s (writeCompletion i s) := by
  unfold writeCompletion
  dsimp only
  split
  · exact troubled_refl _ s
  split
  · exact troubled_refl _ s
  · exact (troubled_putRecord _ _ s).trans (troubled_setSk _ _ _ _)

theorem troubled_setPhases (i : Nat) (s : State) : Troubled troubleRegs s (setPhases i s) := by
  unfold setPhases
  dsimp only
  split
  · exact troubled_refl _ s
  split
  · exact (troubled_setSk _ s _ _).trans (troubled_ringLost _ _)
  · exact (troubled_foldl (fun _ _ => troubled_hostWrite _ _ _ _ _ _) _ s).trans (troubled_of rfl rfl id)

theorem troubled_leaveInFault (i : Nat) (s : State) : Troubled troubleRegs s (leaveInFault i s) := by
  have hleave : Troubled troubleRegs s (leaveFaulted i s) := by
    unfold leaveFaulted
    dsimp only
    split
    · exact (troubled_setSk _ s _ _).trans (troubled_writeCompletion _ _)
    · exact troubled_refl _ s
  have hshards (u : State) : Troubled troubleRegs u (releaseShards i u) := by
    unfold releaseShards
    dsimp only
    split
    · exact troubled_refl _ u
    · exact troubled_send _ u _
  unfold leaveInFault
  dsimp only
  split
  · exact (hleave.trans (hshards _)).trans (troubled_setPhases _ _)
  · exact troubled_refl _ s

theorem troubled_faultSkeins (is : List Nat) (cause : Nat) (s : State) :
    Troubled troubleRegs s (is.foldl (fun s i =>
      leaveInFault i (if (sk i s).state == .done then s else faultSkein i cause s)) s) := by
  refine troubled_foldl (fun u i => ?_) is s
  split
  · exact troubled_leaveInFault i u
  · exact (troubled_faultSkein _ _ u).trans (troubled_leaveInFault _ _)

theorem troubled_lagoonsFreed (l : List Nat) (r : Nat) (ns : List Nat) (s : State) : Troubled l s (lagoonsFreed r ns s) :=
  troubled_of rfl rfl id

theorem troubled_ctxErr {l : List Nat} {f : FRef} (hf : f.off = CTX_ERR) (c : Nat) (s : State) : Troubled l s (ctxErr f c s) := by
  have hhigh : 0x800000 ≤ f.off := by
    rw [hf]
    decide
  exact troubled_raiseErr (.inl hhigh) (by simp [CTX_ERR_INFO_CONTEXT, CTX_ERR_INFO]) _ s

theorem troubled_setState (l : List Nat) (c st : Nat) (s : State) : Troubled l s (setState c st s) :=
  troubled_setFld (.inl (by simp only [CTX_STATE_STATE, CTX_STATE]; omega)) _ s

theorem troubled_faultFields (l : List Nat) (c spindle cause : Nat) (s : State) :
    Troubled l s (setFlds [(CTX_FAULT_SPINDLE c, spindle), (CTX_FAULT_CAUSE c, cause)] s) :=
  troubled_setFlds (by
    simp only [List.forall_mem_cons, CTX_FAULT_SPINDLE, CTX_FAULT_CAUSE, CTX_FAULT]
    exact ⟨.inl (by omega), .inl (by omega), by simp⟩) s

theorem troubled_faultCtx (c cause : Nat) (spindle : Option Nat) (s : State) :
    Troubled troubleRegs s (faultCtx c cause spindle s) := by
  unfold faultCtx
  split
  · extract_lets s1 s2 s3 s4 s5 s6
    have h1 : Troubled troubleRegs s s1 := troubled_dropStep _ _ _ s
    have h2 : Troubled troubleRegs s1 s2 := (troubled_cancelOps _ _ _).trans (troubled_abortChans _ _ _)
    have h3 : Troubled troubleRegs s2 s3 := troubled_faultSkeins _ _ _
    have h4 : Troubled troubleRegs s3 s4 := troubled_lagoonsFreed _ _ _ _
    have h5 : Troubled troubleRegs s4 s5 := troubled_modCtx _ _ _ _
    have h6 : Troubled troubleRegs s5 s6 := troubled_faultFields _ _ _ _ _
    exact ((h1.trans h2).trans (h3.trans h4)).trans ((h5.trans h6).trans
      ((troubled_setState _ _ _ _).trans (troubled_ctxErr rfl _ _)))
  · exact troubled_refl _ s

/-! ### The end of an operation that did not go well (R311, R312) -/

theorem troubled_modPwr {l : List Nat} {f : Pwr → Pwr} {s : State} (h : untroubled (modPwr f s) = untroubled s)
    (hq : s.pwr.queue = [] → (f s.pwr).queue = []) : Troubled l s (modPwr f s) := troubled_of rfl h hq

theorem troubled_reportLeave (s : State) : Troubled troubleRegs s (reportLeave s) :=
  troubled_setFlds (by simp [PWR_LEAVE_COMMITTED_W, PWR_LEAVE_WAITING, troubleRegs]) s

theorem troubled_releaseLeave (k : LeaveKind) (done : Bool) (s : State) : Troubled troubleRegs s (releaseLeave k done s) := by
  unfold releaseLeave
  split
  · split
    · exact (troubled_modPwr rfl (filter_nil_of_nil _)).trans (troubled_reportLeave _)
    · exact troubled_refl _ s
  · extract_lets u v
    have hv : Troubled troubleRegs u v := by
      unfold v
      split
      · split
        · exact troubled_modPwr rfl id
        · exact troubled_refl _ u
      · exact troubled_refl _ u
    exact (Troubled.trans (troubled_modPwr rfl id) hv).trans (troubled_reportLeave v)

theorem troubled_statusFlags (st c node : Nat) (s : State) : Troubled troubleRegs s (statusFlags st c node s) := by
  unfold statusFlags
  split
  · exact troubled_refl _ s
  · have herr : Troubled troubleRegs s (gldErr (statusErr st) c st node s) :=
      troubled_of_regEffect (regEffect_gldErr _ (statusErr_off st) c st node) (by decide) s
    dsimp only
    split
    · exact herr.trans (troubled_send _ _ _)
    · exact herr

theorem troubled_threadFaultIn (n t c status : Nat) (s : State) : Troubled troubleRegs s (threadFaultIn n t c status s) := by
  unfold threadFaultIn spnErr
  refine (troubled_raiseErr (.inl ?_) ?_ _ s).trans (troubled_faultCtx _ _ _ _)
  · simp only [SPN_ERR_THREAD_FAULT, SPN_ERR]; omega
  · simp only [List.forall_mem_cons, SPN_ERR_INFO_CONTEXT, SPN_ERR_INFO_SLOT, SPN_ERR_INFO]
    exact ⟨.inl (by omega), .inl (by omega), by simp⟩

theorem troubled_fryErr {f : FRef} (hf : f.off = FRY_ERR) (n : Nat) (s : State) : Troubled troubleRegs s (fryErr f n s) := by
  have hmem : f.off ∈ troubleRegs := by
    rw [hf]
    decide
  exact troubled_raiseErr (.inr hmem) (by
    simp [FRY_ERR_INFO_CONTEXT, FRY_ERR_INFO_DRIVER, FRY_ERR_INFO_CHANNEL, FRY_ERR_INFO_CAUSE, troubleRegs]) _ s

theorem troubled_haltChan (n : Nat) (s : State) : Troubled troubleRegs s (haltChan n s) :=
  (troubled_setChan _ _ _ _).trans ((troubled_fryErr rfl n _).trans (troubled_bump64 (by decide) _ _))

/-- A transfer's piece that did not arrive (R341). -/
theorem troubled_deliverFerry {st : Nat} (hst : st ≠ stOk) (n i : Nat) (bs : List Byte) (s : State) :
    Troubled troubleRegs s (deliverFerry n i st bs s) := by
  unfold deliverFerry
  split
  · exact troubled_refl _ s
  · rw [if_pos (by simpa using hst)]
    have herr := troubled_fryErr (f := FRY_ERR_REMOTE) rfl n s
    dsimp only
    split
    · exact herr.trans (troubled_faultCtx _ _ _ _)
    · have hredo := herr.trans (troubled_setChan troubleRegs _ n
        { chan n (fryErr FRY_ERR_REMOTE n s) with redo := (chan n (fryErr FRY_ERR_REMOTE n s)).redo ++ [i] })
      split
      · exact hredo.trans (troubled_haltChan n _)
      · exact hredo

theorem troubled_deliver {st : Nat} (hst : st ≠ stOk) (o : FabOp) (tag : Nat) (bs : List Byte) (s : State) :
    Troubled troubleRegs s (deliver o tag st bs s) := by
  unfold deliver
  split
  · unfold deliverThread
    rw [if_pos (by simpa using hst)]
    exact (troubled_setThread _ s _ _ _).trans (troubled_threadFaultIn _ _ _ _ _)
  · exact troubled_deliverFerry hst _ _ bs s
  · exact troubled_refl _ s
  · exact troubled_refl _ s
  · rw [if_neg hst]
    exact troubled_faultCtx _ _ _ s

theorem troubled_finishOp {st : Nat} (hst : st ≠ stOk) (tag : Nat) (bs : List Byte) (s : State) :
    Troubled troubleRegs s (finishOp tag st bs s) := by
  unfold finishOp
  split
  · exact troubled_refl _ s
  · next o _ =>
    extract_lets u v
    have hu : Troubled troubleRegs s u := troubled_modGld _ _ _
    have hv : Troubled troubleRegs u v := by
      unfold v
      split
      · exact troubled_releaseLeave _ _ u
      · exact troubled_refl _ u
    exact (hu.trans hv).trans (((troubled_statusFlags _ _ _ v).trans (troubled_deliver hst o tag bs _)).trans
      (troubled_wakeStalled _ 1 _))

theorem troubled_settleCauseway (s : State) : Troubled troubleRegs s (settleCauseway s) := by
  unfold settleCauseway
  extract_lets node u v
  have hu : Troubled troubleRegs s u := troubled_foldl (fun _ _ => troubled_finishOp (by decide) _ _ _) _ s
  have hv : Troubled troubleRegs u v := troubled_modGld _ _ _
  refine (hu.trans hv).trans (troubled_foldl (fun w o => ?_) _ v)
  split
  · exact Troubled.trans (troubled_modGld _ _ _) (troubled_routed (routed_sendOp _ _) (by decide))
  · exact troubled_refl _ w

end Sys2Proof.Machine
end

section
/-! PROOFS. The governor's sample, its operating points and droop alarms (R385 to R396, R401 to R403). -/

namespace Sys2Proof.Machine

open Sys2Proof.Safety

/-! ### What a sample's decisions keep -/

/-- From s to t the governor decided: below the strike registers only those of `l` changed, and caps, energy, bubbles of the cap and
the allowed point stay. -/
def Governed (l : List Nat) (s t : State) : Prop :=
  (∀ o < INT_STRIKES 0, o ∉ l → rd o t = rd o s) ∧ t.fuse = s.fuse ∧ t.pwr.restUj = s.pwr.restUj ∧ t.pwr.capB = s.pwr.capB ∧
    t.pwr.allowed = s.pwr.allowed

theorem governed_refl (l : List Nat) (s : State) : Governed l s s := ⟨fun _ _ _ => rfl, rfl, rfl, rfl, rfl⟩

theorem Governed.trans {l : List Nat} {s t u : State} (h : Governed l s t) (h' : Governed l t u) : Governed l s u := by
  obtain ⟨hr, hfuse, hrest, hcap, hall⟩ := h
  obtain ⟨hr', hfuse', hrest', hcap', hall'⟩ := h'
  exact ⟨fun o ho hl => (hr' o ho hl).trans (hr o ho hl), hfuse'.trans hfuse, hrest'.trans hrest, hcap'.trans hcap, hall'.trans hall⟩

theorem Governed.mono {l m : List Nat} {s t : State} (h : Governed l s t) (hm : l ⊆ m) : Governed m s t :=
  ⟨fun o ho hl => h.1 o ho fun hmem => hl (hm hmem), h.2⟩

theorem governed_foldl {α : Type} {l : List Nat} {f : State → α → State} (h : ∀ s x, Governed l s (f s x)) (xs : List α) (s : State) :
    Governed l s (xs.foldl f s) := by
  induction xs generalizing s with
  | nil => exact governed_refl l s
  | cons x xs ih => exact (h s x).trans (ih _)

theorem governed_of_regEffect {l m : List Nat} {f : State → State} (h : RegEffect m f) (hm : ∀ o ∈ m, INT_STRIKES 0 ≤ o ∨ o ∈ l)
    (s : State) : Governed l s (f s) := by
  obtain ⟨⟨r, a, d, he⟩, hr⟩ := h s
  refine ⟨fun o ho hl => hr o fun hmem => ?_, by rw [he], by rw [he], by rw [he], by rw [he]⟩
  exact (hm o hmem).elim (by omega) hl

theorem governed_setFld {l : List Nat} {f : FRef} (hf : INT_STRIKES 0 ≤ f.off ∨ f.off ∈ l) (x : Nat) (s : State) :
    Governed l s (setFld f x s) :=
  governed_of_regEffect (regEffect_setFld f x) (by simpa using hf) s

theorem governed_setFlds {l : List Nat} {fs : List (FRef × Nat)} (hf : ∀ p ∈ fs, INT_STRIKES 0 ≤ p.1.off ∨ p.1.off ∈ l) (s : State) :
    Governed l s (setFlds fs s) :=
  governed_of_regEffect (regEffect_setFlds fs) (by
    intro o ho
    obtain ⟨p, hp, rfl⟩ := List.mem_map.mp ho
    exact hf p hp) s

theorem governed_bump64 {l : List Nat} {o : Nat} (ho : o ∈ l) (n : Nat) (s : State) : Governed l s (bump64 o n s) :=
  governed_of_regEffect (regEffect_bump64 o n) (by simpa using .inr ho) s

/-- A change of no register, no fuse and of other fields of the governor. -/
theorem governed_of {l : List Nat} {s t : State} (hregs : t.regs = s.regs) (hfuse : t.fuse = s.fuse)
    (hrest : t.pwr.restUj = s.pwr.restUj) (hcap : t.pwr.capB = s.pwr.capB) (hall : t.pwr.allowed = s.pwr.allowed) : Governed l s t :=
  ⟨fun o _ _ => rd_congr hregs o, hfuse, hrest, hcap, hall⟩

theorem governed_posted {l : List Nat} {s t : State} (h : Posted s t) : Governed l s t := by
  obtain ⟨m, p, rfl⟩ := h
  exact governed_of rfl rfl rfl rfl rfl

theorem governed_troubled {l : List Nat} {s t : State} (h : Troubled l s t) : Governed l s t := by
  have hpwr := congrArg State.pwr h.2.1
  exact ⟨fun o ho hl => (h.keepsReg (Nat.lt_trans ho (by decide)) hl).rd_low ho, h.fuse_eq, (congrArg Pwr.restUj hpwr :),
    (congrArg Pwr.capB hpwr :), (congrArg Pwr.allowed hpwr :)⟩

theorem Governed.fld {l : List Nat} {s t : State} (h : Governed l s t) {f : FRef} (ho : f.off < INT_STRIKES 0) (hl : f.off ∉ l) :
    fld f t = fld f s := fld_congr_rd (h.1 f.off ho hl)

/-- Registers that the governor's decisions write. -/
def governRegs : List Nat :=
  [PWR_STATUS, PWR_LEAVE, PWR_ERR, PWR_CNT 0, PWR_CNT 2, PWR_CNT 4, TOP_IRQ_STATUS]

theorem capEff_congr {s t : State} (hf : t.fuse = s.fuse) (hh : fld PWR_CAP_HOST_WATTS t = fld PWR_CAP_HOST_WATTS s)
    (hb : fld PWR_CAP_BMC_WATTS t = fld PWR_CAP_BMC_WATTS s) : capEff t = capEff s := by
  unfold capEff partLimit
  rw [hf, hh, hb]

theorem Governed.capEff {l : List Nat} {s t : State} (h : Governed l s t) (hh : PWR_CAP_HOST ∉ l) (hb : PWR_CAP_BMC ∉ l) :
    capEff t = capEff s :=
  capEff_congr h.2.1 (h.fld (by decide) hh) (h.fld (by decide) hb)

theorem Governed.belowFloor {l : List Nat} {s t : State} (h : Governed l s t) (hh : PWR_CAP_HOST ∉ l) (hb : PWR_CAP_BMC ∉ l) :
    belowFloor t = belowFloor s := by
  unfold Sys2Proof.Machine.belowFloor
  rw [h.capEff hh hb, h.2.1]

/-! ### The decisions -/

theorem governed_reportLeave (s : State) : Governed governRegs s (reportLeave s) :=
  governed_setFlds (by simp [PWR_LEAVE_COMMITTED_W, PWR_LEAVE_WAITING, governRegs]) s

theorem governed_clearSealed (l : List Nat) (r : Nat) (s : State) : Governed l s (clearSealed r s) :=
  Governed.trans (governed_of rfl rfl rfl rfl rfl)
    (governed_setFld (.inl (by simp only [MEM_RGN_CFG_SEALED, MEM_RGN_CFG, INT_STRIKES]; omega)) 0 _)

theorem governed_grantLeave (x : Leave) (s : State) : Governed governRegs s (grantLeave x s) := by
  have hgrant (u : State) : Governed governRegs u (onGrant x.kind u) := by
    unfold onGrant
    split
    · have hwait (v : State) : Governed governRegs v (setFld MEM_SWAP_STATUS_LEAVE_WAIT 0 v) := governed_setFld (.inl (by decide)) 0 v
      exact (Governed.trans (governed_of rfl rfl rfl rfl rfl) (hwait _)).trans
        (governed_foldl (fun _ _ => governed_clearSealed _ _ _) _ _)
    · exact governed_refl _ u
  unfold grantLeave
  exact (Governed.trans (governed_of rfl rfl rfl rfl rfl) (governed_bump64 (by decide) 1 _)).trans (hgrant _)

theorem governed_serveQueue (q : List Leave) (b : Bool) (s : State) : Governed governRegs s (serveQueue q b s) := by
  induction q generalizing b s with
  | nil => exact governed_refl _ s
  | cons x q ih =>
    unfold serveQueue
    split
    · exact ih b s
    · split
      · exact (governed_grantLeave x s).trans (ih b _)
      · exact ih _ s

/-- The fields that the end of a swap list writes (R142 to R144). -/
def swapEnded (code : Nat) : List (FRef × Nat) :=
  [(MEM_SWAP_STATUS_BUSY, 0), (MEM_SWAP_STATUS_LEAVE_WAIT, 0), (MEM_SWAP_STATUS_CODE, code), (MEM_SWAP_CTRL_START, 0),
    (TOP_IRQ_STATUS_MEM_SWAP, 1)]

theorem swapEnded_apart (code : Nat) : (swapEnded code).Pairwise fun p q => q.1.Apart p.1 := by
  simp [swapEnded, FRef.Apart, MEM_SWAP_STATUS_BUSY, MEM_SWAP_STATUS_LEAVE_WAIT, MEM_SWAP_STATUS_CODE, MEM_SWAP_CTRL_START,
    TOP_IRQ_STATUS_MEM_SWAP, MEM_SWAP_STATUS, MEM_SWAP_CTRL, TOP_IRQ_STATUS]

/-- The swap list is over, with a code. -/
def SwapOver (code : Nat) (s : State) : Prop :=
  s.swap.active = false ∧ bit MEM_SWAP_STATUS_BUSY s = false ∧ fld MEM_SWAP_STATUS_CODE s = code

theorem endSwap_over {code : Nat} (hc : code < 256) (s : State) : SwapOver code (endSwap code s) := by
  have hfld {f : FRef} {x : Nat} (hhi : f.hi < 64) (hmem : (f, x) ∈ swapEnded code) :
      fld f (endSwap code s) = x % 2 ^ (f.hi + 1 - f.lo) := fld_setFlds_of_mem (swapEnded_apart code) hhi hmem _
  refine ⟨?_, ?_, ?_⟩
  · obtain ⟨⟨r, a, d, he⟩, -⟩ := regEffect_setFlds (swapEnded code) (modPwr (fun p =>
      { p with held := p.held.filter (fun l => l.kind != .swap), queue := p.queue.filter (fun l => l.kind != .swap) }) { s with swap := {} })
    unfold endSwap
    rw [swapEnded] at he
    rw [he]
    rfl
  · unfold bit
    rw [hfld (x := 0) (by decide) (by simp [swapEnded])]
    rfl
  · rw [hfld (x := code) (by decide) (by simp [swapEnded])]
    exact Nat.mod_eq_of_lt hc

theorem endSwap_queue (code : Nat) (s : State) :
    (endSwap code s).pwr.queue = s.pwr.queue.filter fun l => l.kind != .swap := by
  obtain ⟨⟨r, a, d, he⟩, -⟩ := regEffect_setFlds (swapEnded code) (modPwr (fun p =>
    { p with held := p.held.filter (fun l => l.kind != .swap), queue := p.queue.filter (fun l => l.kind != .swap) }) { s with swap := {} })
  unfold endSwap
  rw [swapEnded] at he
  rw [he]
  rfl

theorem governed_endSwap (code : Nat) (s : State) : Governed governRegs s (endSwap code s) := by
  have hset (u : State) : Governed governRegs u (setFlds (swapEnded code) u) := governed_setFlds (by
    simp [swapEnded, MEM_SWAP_STATUS_BUSY, MEM_SWAP_STATUS_LEAVE_WAIT, MEM_SWAP_STATUS_CODE, MEM_SWAP_CTRL_START,
      TOP_IRQ_STATUS_MEM_SWAP, MEM_SWAP_STATUS, MEM_SWAP_CTRL, INT_STRIKES, governRegs]) u
  unfold endSwap
  exact Governed.trans (governed_of rfl rfl rfl rfl rfl) (hset _)

/-! ### Requests refused below the floor (R396) -/

/-- The refused causeway transfers are noted. -/
def noteRefused (q : List Leave) (s : State) : State :=
  q.foldl (fun s l => match l.kind with
    | .causeway t => { s with gld := { s.gld with refused := s.gld.refused ++ [t] } }
    | _ => s) s

theorem noteRefused_eq (q : List Leave) (s : State) : noteRefused q s = { s with gld := (noteRefused q s).gld } := by
  unfold noteRefused
  induction q generalizing s with
  | nil => rfl
  | cons l q ih =>
    rw [List.foldl_cons]
    split <;> rw [ih]

theorem governed_noteRefused (l : List Nat) (q : List Leave) (s : State) : Governed l s (noteRefused q s) := by
  rw [noteRefused_eq]
  exact governed_of rfl rfl rfl rfl rfl

theorem noteRefused_pwr (q : List Leave) (s : State) : (noteRefused q s).pwr = s.pwr := by
  rw [noteRefused_eq]

theorem noteRefused_regs (q : List Leave) (s : State) : (noteRefused q s).regs = s.regs := by
  rw [noteRefused_eq]

theorem noteRefused_swap (q : List Leave) (s : State) : (noteRefused q s).swap = s.swap := by
  rw [noteRefused_eq]

/-- What waits is refused, with the flag and the count. -/
def refuseQueue (s : State) : State :=
  setErr PWR_ERR_LEAVE_REFUSED (bump64 (PWR_CNT 2) s.pwr.queue.length (modPwr (fun p =>
    { p with queue := []
             refused := (p.refused.filter fun l => !s.pwr.queue.any fun x => x.kind == l.kind) ++
               s.pwr.queue.filter fun l => leaveRank l.kind == 0 }) s))

/-- A swap list among what was refused ends with LEAVE. -/
def refuseSwap (q : List Leave) (s : State) : State := if q.any (fun l => l.kind == .swap) then endSwap 4 s else s

theorem refuseAll_eq {s : State} (h : s.pwr.queue.isEmpty = false) :
    refuseAll s = noteRefused s.pwr.queue (refuseSwap s.pwr.queue (refuseQueue s)) := by
  unfold refuseAll refuseSwap refuseQueue noteRefused
  rw [h]
  rfl

theorem refuseQueue_queue (s : State) : (refuseQueue s).pwr.queue = [] := rfl

theorem governed_refuseQueue (s : State) : Governed governRegs s (refuseQueue s) :=
  Governed.trans (Governed.trans (governed_of rfl rfl rfl rfl rfl) (governed_bump64 (by decide) _ _))
    (governed_setFld (.inr (by decide)) 1 _)

theorem governed_refuseSwap (q : List Leave) (s : State) : Governed governRegs s (refuseSwap q s) := by
  unfold refuseSwap
  split
  · exact governed_endSwap 4 s
  · exact governed_refl _ s

theorem bit_refuseSwap (q : List Leave) (s : State) : bit PWR_ERR_LEAVE_REFUSED (refuseSwap q s) = bit PWR_ERR_LEAVE_REFUSED s := by
  unfold refuseSwap
  split
  · have hset : fld PWR_ERR_LEAVE_REFUSED (endSwap 4 s) = fld PWR_ERR_LEAVE_REFUSED s :=
      (fld_setFlds_apart (l := swapEnded 4) (by decide) (by
        simp [swapEnded, FRef.Apart, PWR_ERR_LEAVE_REFUSED, MEM_SWAP_STATUS_BUSY, MEM_SWAP_STATUS_LEAVE_WAIT,
          MEM_SWAP_STATUS_CODE, MEM_SWAP_CTRL_START, TOP_IRQ_STATUS_MEM_SWAP, MEM_SWAP_STATUS, MEM_SWAP_CTRL, TOP_IRQ_STATUS,
          PWR_ERR]) _).trans rfl
    unfold bit
    rw [hset]
  · rfl

theorem refuseSwap_queue {q : List Leave} {s : State} (h : s.pwr.queue = []) : (refuseSwap q s).pwr.queue = [] := by
  unfold refuseSwap
  split
  · rw [endSwap_queue, h]
    rfl
  · exact h

/-- Below the floor nothing waits any more, and a swap list that waited is over with LEAVE. -/
theorem refuseAll_spec (s : State) :
    Governed governRegs s (refuseAll s) ∧ (refuseAll s).pwr.queue = [] ∧
      (s.pwr.queue ≠ [] → bit PWR_ERR_LEAVE_REFUSED (refuseAll s) = true) ∧
      (waitsLeave .swap s = true → SwapOver 4 (refuseAll s)) := by
  cases hq : s.pwr.queue.isEmpty with
  | true =>
    have hnil := List.isEmpty_iff.mp hq
    have he : refuseAll s = s := if_pos hq
    rw [he]
    refine ⟨governed_refl _ s, hnil, fun h => absurd hnil h, fun h => ?_⟩
    rw [waitsLeave, hnil] at h
    simp at h
  | false =>
    have hbit : bit PWR_ERR_LEAVE_REFUSED (refuseQueue s) = true := bit_setErr (by decide) (by decide) _
    rw [refuseAll_eq hq]
    refine ⟨?_, ?_, fun _ => ?_, fun h => ?_⟩
    · exact ((governed_refuseQueue s).trans (governed_refuseSwap _ _)).trans (governed_noteRefused _ _ _)
    · rw [noteRefused_pwr]
      exact refuseSwap_queue (refuseQueue_queue s)
    · rw [bit_congr (noteRefused_regs _ _), bit_refuseSwap, hbit]
    · have hswap : refuseSwap s.pwr.queue (refuseQueue s) = endSwap 4 (refuseQueue s) := if_pos h
      obtain ⟨hactive, hbusy, hcode⟩ := endSwap_over (code := 4) (by decide) (refuseQueue s)
      rw [hswap]
      refine ⟨?_, ?_, ?_⟩
      · rw [noteRefused_swap, hactive]
      · rw [bit_congr (noteRefused_regs _ _), hbusy]
      · rw [fld_congr (noteRefused_regs _ _), hcode]

/-- Every leave that is held goes on. -/
def unpaused (s : State) : State := modPwr (fun p => { p with held := p.held.map fun l => { l with paused := false } }) s

theorem resumeLeaves_eq (s : State) :
    resumeLeaves s = if capFits s && s.pwr.held.any (·.paused) then drainPort 256 6 (unpaused s) else s := rfl

theorem governed_resumeLeaves (s : State) : Governed governRegs s (resumeLeaves s) := by
  rw [resumeLeaves_eq]
  split
  · exact Governed.trans (t := unpaused s) (governed_of rfl rfl rfl rfl rfl) (governed_posted (posted_drainPort _ _ _))
  · exact governed_refl _ s

theorem resumeLeaves_queue (s : State) : (resumeLeaves s).pwr.queue = s.pwr.queue := by
  rw [resumeLeaves_eq]
  split
  · obtain ⟨m, p, he⟩ := posted_drainPort 256 6 (unpaused s)
    rw [he]
    rfl
  · rfl

/-- The tensor phases that were refused are requested again (R396). -/
def askAgain (s : State) : State :=
  modPwr (fun p => { p with queue := p.queue ++ p.refused.filter fun l => !p.queue.any fun x => x.kind == l.kind, refused := [] }) s

theorem settleLeave_eq (s : State) : settleLeave s = reportLeave (if belowFloor s then refuseAll s
    else serveQueue (sortBy (leaveBefore (askAgain s)) (askAgain s).pwr.queue) false (askAgain s)) := rfl

theorem governed_settleLeave (s : State) : Governed governRegs s (settleLeave s) := by
  rw [settleLeave_eq]
  refine Governed.trans ?_ (governed_reportLeave _)
  split
  · exact (refuseAll_spec s).1
  · exact Governed.trans (t := askAgain s) (governed_of rfl rfl rfl rfl rfl) (governed_serveQueue _ _ _)

theorem settleLeave_below {s : State} (h : belowFloor s = true) : settleLeave s = reportLeave (refuseAll s) := by
  unfold settleLeave
  rw [if_pos h]

/-! ### The target point (R391) -/

theorem targetPoint_below (m : PowerIn) {s : State} (h : belowFloor s = true) : targetPoint m s = 0 := if_pos h

theorem getD_find?_le {p : Nat → Bool} {n : Nat} : (((List.range (n + 1)).reverse).find? p).getD 0 ≤ n := by
  cases h : ((List.range (n + 1)).reverse).find? p with
  | none => exact Nat.zero_le n
  | some v =>
    have hv : v ∈ (List.range (n + 1)).reverse := List.mem_of_find?_eq_some h
    have hlt : v < n + 1 := List.mem_range.mp (List.mem_reverse.mp hv)
    exact Nat.le_of_lt_succ hlt

theorem targetPoint_le (m : PowerIn) (s : State) : targetPoint m s ≤ min (fld PWR_CTRL_POINT_MAX s) s.pwr.allowed := by
  unfold targetPoint
  split
  · exact Nat.zero_le _
  · exact getD_find?_le

theorem governed_startStep (x : Nat) (s : State) : Governed governRegs s (startStep x s) :=
  (Governed.trans (governed_of rfl rfl rfl rfl rfl) (governed_bump64 (by decide) 1 _)).trans (governed_setFld (.inr (by decide)) 1 _)

/-- The start of a step leaves the other fields of PWR_STATUS. -/
theorem fld_startStep {f : FRef} (hf : f.hi < 64) (h : PWR_STATUS_STEPPING.Apart f) (hc : f.off ≠ PWR_CNT 4) (x : Nat) (s : State) :
    fld f (startStep x s) = fld f s :=
  (fld_setFld_apart h hf 1 _).trans (fld_congr_rd ((regEffect_bump64 (PWR_CNT 4) 1 _).2 f.off (by simpa using hc)))

theorem startStep_queue (x : Nat) (s : State) : (startStep x s).pwr.queue = s.pwr.queue := rfl

theorem startStep_swap (x : Nat) (s : State) : (startStep x s).swap = s.swap := rfl

/-- The target is taken: it stands in PWR_STATUS, and a step may start. -/
theorem takeTarget_spec (us x : Nat) (s : State) :
    ∃ p, (p.queue = s.pwr.queue ∧ p.restUj = s.pwr.restUj ∧ p.capB = s.pwr.capB ∧ p.allowed = s.pwr.allowed) ∧
      (takeTarget us x s = { setFld PWR_STATUS_TARGET x s with pwr := p } ∨
        takeTarget us x s = startStep x { setFld PWR_STATUS_TARGET x s with pwr := p }) := by
  unfold takeTarget
  extract_lets cur old u v
  split
  · exact ⟨v.pwr, ⟨rfl, rfl, rfl, rfl⟩, .inl rfl⟩
  split
  · exact ⟨v.pwr, ⟨rfl, rfl, rfl, rfl⟩, .inr rfl⟩
  split
  · exact ⟨v.pwr, ⟨rfl, rfl, rfl, rfl⟩, .inr rfl⟩
  · exact ⟨v.pwr, ⟨rfl, rfl, rfl, rfl⟩, .inl rfl⟩

theorem governed_takeTarget (us x : Nat) (s : State) : Governed governRegs s (takeTarget us x s) := by
  obtain ⟨p, ⟨-, hrest, hcap, hall⟩, he⟩ := takeTarget_spec us x s
  have hset : Governed governRegs s { setFld PWR_STATUS_TARGET x s with pwr := p } :=
    (governed_setFld (.inr (by decide)) x s).trans (governed_of rfl rfl hrest hcap hall)
  rcases he with he | he <;> rw [he]
  · exact hset
  · exact hset.trans (governed_startStep x _)

theorem takeTarget_queue (us x : Nat) (s : State) : (takeTarget us x s).pwr.queue = s.pwr.queue := by
  obtain ⟨p, ⟨hq, -⟩, he | he⟩ := takeTarget_spec us x s <;> rw [he] <;> exact hq

theorem takeTarget_swap (us x : Nat) (s : State) : (takeTarget us x s).swap = s.swap := by
  obtain ⟨p, -, he | he⟩ := takeTarget_spec us x s <;> rw [he] <;> rfl

/-- Any field but the target, the step and its count stays. -/
theorem fld_takeTarget {f : FRef} (hf : f.hi < 64) (h : PWR_STATUS_STEPPING.Apart f) (h' : PWR_STATUS_TARGET.Apart f)
    (hc : f.off ≠ PWR_CNT 4) (us x : Nat) (s : State) : fld f (takeTarget us x s) = fld f s := by
  have hset (p : Pwr) : fld f { setFld PWR_STATUS_TARGET x s with pwr := p } = fld f s := fld_setFld_apart h' hf x s
  obtain ⟨p, -, he | he⟩ := takeTarget_spec us x s <;> rw [he]
  · exact hset p
  · rw [fld_startStep hf h hc]
    exact hset p

theorem fld_takeTarget_target (us x : Nat) (s : State) : fld PWR_STATUS_TARGET (takeTarget us x s) = x % 32 := by
  have hset (p : Pwr) : fld PWR_STATUS_TARGET { setFld PWR_STATUS_TARGET x s with pwr := p } = x % 32 :=
    fld_setFld_same PWR_STATUS_TARGET x s (by decide)
  obtain ⟨p, -, he | he⟩ := takeTarget_spec us x s <;> rw [he]
  · exact hset p
  · rw [fld_startStep (by decide) (.inr (.inl (by decide))) (by decide)]
    exact hset p

end Sys2Proof.Machine
end

section
/-! PROOFS. A sample of the governor and what it records; operating points and droop alarms (R390 to R393, R401 to R403). -/

namespace Sys2Proof.Machine

open Sys2Proof.Safety

/-! ### What a sample changes in haven mode -/

/-- From s to t nothing but the registers of `l`, the governor's own state and the fabric's. -/
def TickOnly (l : List Nat) (s t : State) : Prop := RegsOnly l { s with pwr := t.pwr, gld := t.gld } t

theorem TickOnly.trans {l : List Nat} {s t u : State} (h : TickOnly l s t) (h' : TickOnly l t u) : TickOnly l s u := by
  obtain ⟨hrest, hmem, hwear, hregs⟩ := h
  have hmoved : RegsOnly l { s with pwr := u.pwr, gld := u.gld } { t with pwr := u.pwr, gld := u.gld } :=
    ⟨congrArg (fun x : State => { x with pwr := u.pwr, gld := u.gld }) hrest, hmem, hwear, hregs⟩
  exact regsOnly_trans hmoved h'

theorem TickOnly.mono {l m : List Nat} {s t : State} (h : TickOnly l s t) (hm : l ⊆ m) : TickOnly m s t :=
  ⟨h.1, h.2.1, h.2.2.1, fun o ho => h.2.2.2 o fun hl => ho (hm hl)⟩

theorem tickOnly_refl (l : List Nat) (s : State) : TickOnly l s s := ⟨rfl, fun _ => ⟨rfl, rfl⟩, fun _ => rfl, fun _ _ => rfl⟩

theorem tickOnly_foldl {α : Type} {l : List Nat} {f : State → α → State} (h : ∀ s x, TickOnly l s (f s x)) (xs : List α) (s : State) :
    TickOnly l s (xs.foldl f s) := by
  induction xs generalizing s with
  | nil => exact tickOnly_refl l s
  | cons x xs ih => exact (h s x).trans (ih _)

theorem tickOnly_regEffect {l : List Nat} {f : State → State} (h : RegEffect l f) (s : State) : TickOnly l s (f s) := by
  obtain ⟨⟨r, a, d, he⟩, hr⟩ := h s
  rw [he] at hr ⊢
  exact ⟨rfl, fun _ => ⟨rfl, rfl⟩, fun _ => rfl, hr⟩

theorem tickOnly_posted (l : List Nat) {s t : State} (h : Posted s t) : TickOnly l s t := by
  obtain ⟨m, p, rfl⟩ := h
  exact ⟨rfl, fun _ => ⟨rfl, rfl⟩, fun _ => rfl, fun _ _ => rfl⟩

theorem tickOnly_modPwr (l : List Nat) (f : Pwr → Pwr) (s : State) : TickOnly l s (modPwr f s) :=
  ⟨rfl, fun _ => ⟨rfl, rfl⟩, fun _ => rfl, fun _ _ => rfl⟩

theorem tickOnly_modGld (l : List Nat) (f : Gld → Gld) (s : State) : TickOnly l s (modGld f s) :=
  ⟨rfl, fun _ => ⟨rfl, rfl⟩, fun _ => rfl, fun _ _ => rfl⟩

/-! ### The ID frames and the held FETCH_ADDs of a sample (R280, R301) -/

/-- What a sample paces, before the governor measures. -/
def paced (m : PowerIn) (s : State) : State := releaseAdds none (idTick (max 1 (m.elapsedNs / 1000)) s)

/-- What a sample paces: messages leave, and a discarded one is counted. The governor's state stays. -/
def Paced (s t : State) : Prop := TickOnly [GLD_CNT 6] s t ∧ t.pwr = s.pwr ∧ t.swap = s.swap ∧ t.fuse = s.fuse

theorem Paced.trans {s t u : State} (h : Paced s t) (h' : Paced t u) : Paced s u :=
  ⟨h.1.trans h'.1, h'.2.1.trans h.2.1, h'.2.2.1.trans h.2.2.1, h'.2.2.2.trans h.2.2.2⟩

theorem paced_refl (s : State) : Paced s s := ⟨tickOnly_refl _ s, rfl, rfl, rfl⟩

theorem paced_foldl {α : Type} {f : State → α → State} (h : ∀ s x, Paced s (f s x)) (xs : List α) (s : State) :
    Paced s (xs.foldl f s) := by
  induction xs generalizing s with
  | nil => exact paced_refl s
  | cons x xs ih => exact (h s x).trans (ih _)

theorem paced_posted {s t : State} (h : Posted s t) : Paced s t := by
  refine ⟨tickOnly_posted _ h, ?_, ?_, ?_⟩ <;> obtain ⟨m, p, rfl⟩ := h <;> rfl

theorem paced_leaveBy (hop : Option (Nat × Nat)) (m : Sent) (s : State) : Paced s (leaveBy hop m s) := by
  unfold leaveBy
  split
  · exact paced_posted (posted_post _ _ _ s)
  · exact ⟨tickOnly_regEffect (regEffect_bump64 _ 1) s, rfl, rfl, rfl⟩

theorem paced_modGld (f : Gld → Gld) (s : State) : Paced s (modGld f s) := ⟨tickOnly_modGld _ f s, rfl, rfl, rfl⟩

theorem paced_idTick (us : Nat) (s : State) : Paced s (idTick us s) := by
  have hsend (u : State) : Paced u (sendIds u) := by
    refine paced_foldl (fun u p => ?_) _ u
    split
    · exact paced_posted (posted_post _ _ _ u)
    · exact paced_refl u
  unfold idTick
  dsimp only
  split
  · exact (paced_modGld _ s).trans (hsend _)
  · exact paced_modGld _ s

theorem paced_paced (m : PowerIn) (s : State) : Paced s (paced m s) := by
  have hrelease (e : Combine) (u : State) : Paced u (release e u) := by
    unfold release
    split
    · exact paced_refl u
    · exact paced_leaveBy _ _ u
  have hadds (u : State) : Paced u (releaseAdds none u) := by
    unfold releaseAdds
    exact (paced_modGld _ _).trans (paced_foldl (fun _ _ => hrelease _ _) _ _)
  exact (paced_idTick _ s).trans (hadds _)

theorem Paced.rd {s t : State} (h : Paced s t) {o : Nat} (ho : o ≠ GLD_CNT 6) : rd o t = rd o s :=
  h.1.2.2.2 o (by simpa using ho)

theorem Paced.fld {s t : State} (h : Paced s t) {f : FRef} (ho : f.off ≠ GLD_CNT 6) : fld f t = fld f s := fld_congr_rd (h.rd ho)

/-! ### The measurements of a sample -/

/-- Energy and power are recorded; what waits for leave stays. -/
theorem takeMeasure_spec (m : PowerIn) (s : State) :
    TickOnly [PWR_ENERGY, PWR_MEAS] s (takeMeasure m s) ∧
      rd PWR_ENERGY (takeMeasure m s) = BitVec.ofNat 64 ((rd PWR_ENERGY s).toNat + (s.pwr.restUj + m.energyUj) / 1000) ∧
      fld PWR_MEAS_INST_W (takeMeasure m s) = m.instW % 2 ^ 16 ∧ (takeMeasure m s).pwr.restUj = (s.pwr.restUj + m.energyUj) % 1000 := by
  have hset : TickOnly [PWR_ENERGY, PWR_MEAS] s (setFld PWR_MEAS_INST_W m.instW s) :=
    tickOnly_regEffect ((regEffect_setFld PWR_MEAS_INST_W m.instW).mono (by simp [PWR_MEAS_INST_W])) s
  have hwr (v : W64) (u : State) : TickOnly [PWR_ENERGY, PWR_MEAS] u (wr PWR_ENERGY v u) :=
    tickOnly_regEffect ((regEffect_wr PWR_ENERGY v).mono (by simp)) u
  refine ⟨(hset.trans (hwr _ _)).trans (tickOnly_modPwr _ _ _), ?_, ?_, rfl⟩
  · exact rd_wr_same PWR_ENERGY _ (setFld PWR_MEAS_INST_W m.instW s)
  · exact (fld_wr_other PWR_MEAS_INST_W _ _ (by decide)).trans (fld_setFld_same PWR_MEAS_INST_W _ _ (by decide))

theorem takeMeasure_pwr (m : PowerIn) (s : State) :
    (takeMeasure m s).pwr.queue = s.pwr.queue ∧ (takeMeasure m s).pwr.capB = s.pwr.capB ∧
      (takeMeasure m s).pwr.allowed = s.pwr.allowed ∧ (takeMeasure m s).pwr.guardW = s.pwr.guardW ∧
      (takeMeasure m s).swap = s.swap ∧ (takeMeasure m s).fuse = s.fuse := ⟨rfl, rfl, rfl, rfl, rfl, rfl⟩

theorem takeMeasure_held (m : PowerIn) (s : State) : (takeMeasure m s).pwr.held.length = s.pwr.held.length := by
  rw [← List.length_range (n := s.pwr.held.length)]
  unfold takeMeasure
  show (((List.range s.pwr.held.length).filterMap _).length) = _
  rw [List.length_filterMap_eq_countP, List.countP_eq_length.mpr]
  intro i hi
  dsimp only
  split
  · next hnone =>
    have hlen : s.pwr.held.length ≤ i := List.getElem?_eq_none_iff.mp hnone
    exact absurd (List.mem_range.mp hi) (by omega)
  · rfl

/-! ### A sample outside haven mode -/

/-- The time of a sample in µs. -/
def sampleUs (m : PowerIn) : Nat := max 1 (m.elapsedNs / 1000)

/-- What the sample counts before it measures. -/
def sampleCounts (m : PowerIn) (s : State) : State :=
  let s := bump64 (PWR_CNT 5) (if bubbles s = 0 then 0 else m.elapsedNs * bubbles s / 64) s
  bump64 (PWR_CNT 6) (if s.pwr.throttling || s.pwr.throttlingBase then m.elapsedNs else 0) s

/-- Requests have waited for another sample, and the late ones are counted. -/
def sampleWaits (m : PowerIn) (s : State) : State :=
  let s := modPwr (fun p => { p with queue := p.queue.map fun l => { l with waited := l.waited + sampleUs m } }) s
  let late := s.pwr.queue.filter fun l => l.waited ≥ 10000 && !l.counted
  bump64 (PWR_CNT 1) late.length (modPwr (fun p => { p with
    queue := p.queue.map fun l => if l.waited ≥ 10000 then { l with counted := true } else l }) s)

/-- The bubbles of the cap, and what is left of a droop. -/
def sampleBubbles (m : PowerIn) (s : State) : State :=
  let lim := (capEff s).1 - s.pwr.guardW
  modPwr (fun p => { p with
    capB := if m.instW > lim then min 63 (ceilDiv (64 * (m.instW - lim)) m.spinW) else p.capB - sampleUs m
    droopHold := p.droopHold - sampleUs m
    droopB := if p.droopDies.isEmpty && p.droopHold = 0 then p.droopB - 8 * sampleUs m else p.droopB }) s

/-- What the sample measures. -/
def sampleHead (m : PowerIn) (s : State) : State :=
  sampleBubbles m (sampleWaits m (takeMeasure m (sampleCounts m (takeConfig s))))

/-- What the sample decides on leave. -/
def sampleLeave (s : State) : State := settleLeave (resumeLeaves (setFld PWR_STATUS_BELOW_FLOOR (belowFloor s).toNat s))

/-- The levels that PWR_STATUS shows. -/
def showLevels (s : State) : State :=
  setFlds [(PWR_STATUS_BUBBLES, bubbles s), (PWR_STATUS_DROOP, (s.pwr.droopB != 0).toNat)] s

theorem powerSample_eq (m : PowerIn) (s : State) :
    powerSample m s = showLevels (takeTarget (sampleUs m) (targetPoint m (sampleLeave (sampleHead m s))) (sampleLeave (sampleHead m s))) :=
  rfl

/-- Registers that a sample writes before it decides. -/
def measureRegs : List Nat := [PWR_CNT 5, PWR_CNT 6, PWR_CNT 1, PWR_ENERGY, PWR_MEAS]

theorem regEffect_sampleCounts (m : PowerIn) : RegEffect [PWR_CNT 5, PWR_CNT 6] (sampleCounts m) := fun u =>
  (((regEffect_bump64 (PWR_CNT 5) (if bubbles u = 0 then 0 else m.elapsedNs * bubbles u / 64)).mono (by simp)).comp
    ((regEffect_bump64 (PWR_CNT 6) (if u.pwr.throttling || u.pwr.throttlingBase then m.elapsedNs else 0)).mono (by simp))) u

theorem takeConfig_spec (s : State) :
    (takeConfig s).pwr.guardW = fld PWR_GUARD_WATTS s ∧ (takeConfig s).pwr.queue = s.pwr.queue ∧
      (takeConfig s).pwr.restUj = s.pwr.restUj ∧ (takeConfig s).pwr.capB = s.pwr.capB ∧
      (takeConfig s).pwr.allowed = s.pwr.allowed ∧ (takeConfig s).swap = s.swap ∧ (takeConfig s).fuse = s.fuse :=
  ⟨rfl, rfl, rfl, rfl, rfl, rfl, rfl⟩

/-- The state of a sample once it has measured. -/
def metered (m : PowerIn) (s : State) : State := takeMeasure m (sampleCounts m (takeConfig s))

/-- The measurements of a sample touch no cap and no target. -/
theorem metered_spec (m : PowerIn) (s : State) :
    (∀ o, o ∉ measureRegs → rd o (metered m s) = rd o s) ∧
    rd PWR_ENERGY (metered m s) = BitVec.ofNat 64 ((rd PWR_ENERGY s).toNat + (s.pwr.restUj + m.energyUj) / 1000) ∧
    fld PWR_MEAS_INST_W (metered m s) = m.instW % 2 ^ 16 := by
  have hbefore {o : Nat} (ho : o ∉ [PWR_CNT 5, PWR_CNT 6]) : rd o (sampleCounts m (takeConfig s)) = rd o s :=
    (regEffect_sampleCounts m (takeConfig s)).2 o ho
  have hpwr : (sampleCounts m (takeConfig s)).pwr = (takeConfig s).pwr := (regEffect_sampleCounts m).pwr_eq _
  obtain ⟨hmeas, henergy, hinst, -⟩ := takeMeasure_spec m (sampleCounts m (takeConfig s))
  obtain ⟨-, -, hrest, -⟩ := takeConfig_spec s
  refine ⟨fun o ho => ?_, ?_, hinst⟩
  · simp only [measureRegs, List.mem_cons, List.not_mem_nil, or_false, not_or] at ho
    obtain ⟨h5, h6, -, he, hm⟩ := ho
    exact (hmeas.2.2.2 o (by simp [he, hm])).trans (hbefore (by simp [h5, h6]))
  · unfold metered
    rw [henergy, hbefore (by decide), hpwr, hrest]

theorem metered_pwr (m : PowerIn) (s : State) :
    (metered m s).pwr.queue = s.pwr.queue ∧ (metered m s).pwr.capB = s.pwr.capB ∧
      (metered m s).pwr.allowed = s.pwr.allowed ∧ (metered m s).pwr.guardW = fld PWR_GUARD_WATTS s ∧
      (metered m s).pwr.restUj = (s.pwr.restUj + m.energyUj) % 1000 ∧
      (metered m s).swap = s.swap ∧ (metered m s).fuse = s.fuse := by
  have hpwr : (sampleCounts m (takeConfig s)).pwr = (takeConfig s).pwr := (regEffect_sampleCounts m).pwr_eq _
  have hother : (sampleCounts m (takeConfig s)).swap = s.swap ∧ (sampleCounts m (takeConfig s)).fuse = s.fuse := by
    obtain ⟨⟨r, a, d, he⟩, -⟩ := regEffect_sampleCounts m (takeConfig s)
    rw [he]
    exact ⟨rfl, rfl⟩
  obtain ⟨hguard, hqueue, hrest, hcap, hall, -, -⟩ := takeConfig_spec s
  obtain ⟨-, -, -, hrest'⟩ := takeMeasure_spec m (sampleCounts m (takeConfig s))
  obtain ⟨hqueue', hcap', hall', hguard', hswap', hfuse'⟩ := takeMeasure_pwr m (sampleCounts m (takeConfig s))
  rw [hpwr] at hqueue' hcap' hall' hguard' hrest'
  rw [hrest] at hrest'
  exact ⟨hqueue'.trans hqueue, hcap'.trans hcap, hall'.trans hall, hguard'.trans hguard, hrest', hswap'.trans hother.1,
    hfuse'.trans hother.2⟩

theorem sampleWaits_spec (m : PowerIn) (s : State) :
    (∀ o, o ≠ PWR_CNT 1 → rd o (sampleWaits m s) = rd o s) ∧ (sampleWaits m s).swap = s.swap ∧ (sampleWaits m s).fuse = s.fuse ∧
      ∃ q, (sampleWaits m s).pwr = { s.pwr with queue := q } ∧ (q = [] ↔ s.pwr.queue = []) ∧
        q.any (fun l => l.kind == .swap) = s.pwr.queue.any fun l => l.kind == .swap := by
  refine ⟨fun o ho => rd_wr_other ho _ _, rfl, rfl, (s.pwr.queue.map fun l => { l with waited := l.waited + sampleUs m }).map fun l =>
        if l.waited ≥ 10000 then { l with counted := true } else l, rfl, by simp, ?_⟩
  rw [List.any_map, List.any_map]
  congr 1
  funext l
  simp only [Function.comp_apply]
  split <;> rfl

theorem sampleBubbles_spec (m : PowerIn) (s : State) :
    ∃ h b, sampleBubbles m s = { s with pwr := { s.pwr with
      capB := if (capEff s).1 - s.pwr.guardW < m.instW then
        min 63 (ceilDiv (64 * (m.instW - ((capEff s).1 - s.pwr.guardW))) m.spinW) else s.pwr.capB - sampleUs m
      droopHold := h
      droopB := b } } := ⟨_, _, rfl⟩

/-- The measurements and the levels of a sample touch no cap and no target, and requests go on waiting. -/
theorem sampleHead_spec (m : PowerIn) (s : State) :
    (∀ o, o ∉ measureRegs → rd o (sampleHead m s) = rd o s) ∧
    rd PWR_ENERGY (sampleHead m s) = BitVec.ofNat 64 ((rd PWR_ENERGY s).toNat + (s.pwr.restUj + m.energyUj) / 1000) ∧
    fld PWR_MEAS_INST_W (sampleHead m s) = m.instW % 2 ^ 16 ∧ (sampleHead m s).pwr.restUj = (s.pwr.restUj + m.energyUj) % 1000 ∧
    (sampleHead m s).fuse = s.fuse ∧ (sampleHead m s).pwr.allowed = s.pwr.allowed := by
  obtain ⟨hregs, henergy, hinst⟩ := metered_spec m s
  obtain ⟨-, -, hall, -, hrest, -, hfuse⟩ := metered_pwr m s
  obtain ⟨hregs', -, hfuse', q, hpwr', -, -⟩ := sampleWaits_spec m (metered m s)
  obtain ⟨h, b, he⟩ := sampleBubbles_spec m (sampleWaits m (metered m s))
  have hrd (o : Nat) : rd o (sampleHead m s) = rd o (sampleWaits m (metered m s)) := rd_congr (by
    show (sampleBubbles m (sampleWaits m (metered m s))).regs = _
    rw [he]) o
  have hhead : sampleHead m s = sampleBubbles m (sampleWaits m (metered m s)) := rfl
  refine ⟨fun o ho => ?_, ?_, ?_, ?_, ?_, ?_⟩
  · rw [hrd, hregs' o fun h => ho (by simp [h, measureRegs]), hregs o ho]
  · rw [hrd, hregs' _ (by decide), henergy]
  · exact (fld_congr_rd (f := PWR_MEAS_INST_W) ((hrd _).trans (hregs' _ (by decide)))).trans hinst
  · rw [hhead, he]
    dsimp only
    rw [hpwr', hrest]
  · rw [hhead, he]
    exact hfuse'.trans hfuse
  · rw [hhead, he]
    dsimp only
    rw [hpwr', hall]

/-- The bubbles of the cap as a sample gives them (R392). -/
theorem sampleHead_capB (m : PowerIn) (s : State) :
    let lim := (capEff s).1 - fld PWR_GUARD_WATTS s
    (sampleHead m s).pwr.capB =
      if lim < m.instW then min 63 (ceilDiv (64 * (m.instW - lim)) m.spinW) else s.pwr.capB - sampleUs m := by
  obtain ⟨hregs, -, -⟩ := metered_spec m s
  obtain ⟨-, hcapB, -, hguard, -, -, hfuse⟩ := metered_pwr m s
  obtain ⟨hregs', -, hfuse', q, hpwr', -, -⟩ := sampleWaits_spec m (metered m s)
  obtain ⟨h, b, he⟩ := sampleBubbles_spec m (sampleWaits m (metered m s))
  have hsame {f : FRef} (hf : f.off ∉ measureRegs) (h1 : f.off ≠ PWR_CNT 1) : fld f (sampleWaits m (metered m s)) = fld f s :=
    fld_congr_rd ((hregs' f.off h1).trans (hregs f.off hf))
  have hcap : capEff (sampleWaits m (metered m s)) = capEff s :=
    capEff_congr (hfuse'.trans hfuse) (hsame (by decide) (by decide)) (hsame (by decide) (by decide))
  have hhead : sampleHead m s = sampleBubbles m (sampleWaits m (metered m s)) := rfl
  rw [hhead, he]
  dsimp only
  rw [hcap, hpwr']
  dsimp only
  rw [hcapB, hguard]

/-- Whether anything waits, and whether a swap list does, is not a matter of the time waited. -/
theorem sampleHead_queue (m : PowerIn) (s : State) :
    ((sampleHead m s).pwr.queue = [] ↔ s.pwr.queue = []) ∧ waitsLeave .swap (sampleHead m s) = waitsLeave .swap s := by
  obtain ⟨hqueue, -⟩ := metered_pwr m s
  obtain ⟨-, -, -, q, hpwr', hnil, hany⟩ := sampleWaits_spec m (metered m s)
  obtain ⟨h, b, he⟩ := sampleBubbles_spec m (sampleWaits m (metered m s))
  have hq : (sampleHead m s).pwr.queue = q := by
    have hhead : sampleHead m s = sampleBubbles m (sampleWaits m (metered m s)) := rfl
    rw [hhead, he]
    dsimp only
    rw [hpwr']
  rw [hqueue] at hnil hany
  unfold waitsLeave
  rw [hq]
  exact ⟨hnil, hany⟩

end Sys2Proof.Machine
end

section
/-! PROOFS. The power governor: its sample, its operating points and droop alarms (R385 to R396, R401 to R403). -/

namespace Sys2Proof.Machine

open Sys2Proof.Safety

/-! ### The decisions of a sample -/

theorem governed_sampleLeave (s : State) : Governed governRegs s (sampleLeave s) :=
  ((governed_setFld (.inr (by decide)) _ s).trans (governed_resumeLeaves _)).trans (governed_settleLeave _)

theorem swapOver_of {code : Nat} {s t : State} (h : SwapOver code s) (hswap : t.swap = s.swap)
    (hbusy : fld MEM_SWAP_STATUS_BUSY t = fld MEM_SWAP_STATUS_BUSY s) (hcode : fld MEM_SWAP_STATUS_CODE t = fld MEM_SWAP_STATUS_CODE s) :
    SwapOver code t := by
  obtain ⟨hactive, hbusy', hcode'⟩ := h
  refine ⟨by rw [hswap, hactive], ?_, hcode.trans hcode'⟩
  unfold bit at hbusy' ⊢
  rw [hbusy, hbusy']

/-- What a decision below the floor leaves (R396). -/
def RefusedBelow (queued swapping : Prop) (t : State) : Prop :=
  t.pwr.queue = [] ∧ (queued → bit PWR_ERR_LEAVE_REFUSED t = true) ∧ (swapping → SwapOver 4 t)

/-- What keeps it. -/
theorem RefusedBelow.congr {p q : Prop} {s t : State} (h : RefusedBelow p q s) (hqueue : s.pwr.queue = [] → t.pwr.queue = [])
    (hswap : t.swap = s.swap) (hflag : fld PWR_ERR_LEAVE_REFUSED t = fld PWR_ERR_LEAVE_REFUSED s)
    (hbusy : fld MEM_SWAP_STATUS_BUSY t = fld MEM_SWAP_STATUS_BUSY s) (hcode : fld MEM_SWAP_STATUS_CODE t = fld MEM_SWAP_STATUS_CODE s) :
    RefusedBelow p q t := by
  obtain ⟨hnil, hbit, hover⟩ := h
  refine ⟨hqueue hnil, fun hp => ?_, fun hq => swapOver_of (hover hq) hswap hbusy hcode⟩
  have hb := hbit hp
  unfold bit at hb ⊢
  rw [hflag, hb]

theorem RefusedBelow.of_regEffect {p q : Prop} {l : List Nat} {f : State → State} {s : State} (h : RefusedBelow p q s)
    (hf : RegEffect l f) (herr : PWR_ERR ∉ l) (hmem : MEM_SWAP_STATUS ∉ l) : RefusedBelow p q (f s) := by
  obtain ⟨⟨r, a, d, he⟩, -⟩ := hf s
  exact h.congr (by rw [he]; exact id) (by rw [he]) (hf.fld (g := PWR_ERR_LEAVE_REFUSED) herr s)
    (hf.fld (g := MEM_SWAP_STATUS_BUSY) hmem s) (hf.fld (g := MEM_SWAP_STATUS_CODE) hmem s)

theorem sampleLeave_below {s : State} (h : belowFloor s = true) :
    RefusedBelow (s.pwr.queue ≠ []) (waitsLeave .swap s = true) (sampleLeave s) := by
  obtain ⟨u, hu⟩ : ∃ u, u = resumeLeaves (setFld PWR_STATUS_BELOW_FLOOR (belowFloor s).toNat s) := ⟨_, rfl⟩
  have hgov : Governed governRegs s u := by
    rw [hu]
    exact (governed_setFld (.inr (by decide)) _ s).trans (governed_resumeLeaves _)
  have hbelow : belowFloor u = true := (hgov.belowFloor (by decide) (by decide)).trans h
  have hqueue : u.pwr.queue = s.pwr.queue := by
    rw [hu, resumeLeaves_queue]
    rfl
  have he : sampleLeave s = reportLeave (refuseAll u) := by
    rw [hu] at hbelow ⊢
    exact settleLeave_below hbelow
  obtain ⟨-, hnil, hbit, hover⟩ := refuseAll_spec u
  unfold waitsLeave at hover
  rw [hqueue] at hbit hover
  have hbase : RefusedBelow (s.pwr.queue ≠ []) (waitsLeave .swap s = true) (refuseAll u) := ⟨hnil, hbit, hover⟩
  rw [he]
  exact hbase.of_regEffect regEffect_reportLeave (by decide) (by decide)

theorem RefusedBelow.takeTarget {p q : Prop} {s : State} (h : RefusedBelow p q s) (us x : Nat) : RefusedBelow p q (takeTarget us x s) :=
  h.congr (fun hq => (takeTarget_queue us x s).trans hq) (takeTarget_swap us x s)
    (fld_takeTarget (by decide) (.inl (by decide)) (.inl (by decide)) (by decide) us x s)
    (fld_takeTarget (by decide) (.inl (by decide)) (.inl (by decide)) (by decide) us x s)
    (fld_takeTarget (by decide) (.inl (by decide)) (.inl (by decide)) (by decide) us x s)

theorem regEffect_showLevels : RegEffect [PWR_STATUS] showLevels := fun s =>
  (regEffect_setFlds [(PWR_STATUS_BUBBLES, bubbles s), (PWR_STATUS_DROOP, (s.pwr.droopB != 0).toNat)]).mono
    (by simp [PWR_STATUS_BUBBLES, PWR_STATUS_DROOP]) s

theorem RefusedBelow.troubled {p q : Prop} {s t : State} (h : RefusedBelow p q s) (ht : Troubled troubleRegs s t) :
    RefusedBelow p q t :=
  h.congr ht.2.2 ht.swap_eq ((ht.keepsReg (by decide) (by decide)).fld_low (by decide))
    (ht.keepsReg (o := MEM_SWAP_STATUS) (by decide) (by decide)).top_bit
    ((ht.keepsReg (by decide) (by decide)).fld_eq (by decide))

theorem governed_showLevels (s : State) : Governed governRegs s (showLevels s) :=
  governed_setFlds (by simp [PWR_STATUS_BUBBLES, PWR_STATUS_DROOP, governRegs]) s

theorem fld_showLevels_bubbles (s : State) : fld PWR_STATUS_BUBBLES (showLevels s) = bubbles s % 64 :=
  fld_setFlds_of_mem (l := [(PWR_STATUS_BUBBLES, bubbles s), (PWR_STATUS_DROOP, (s.pwr.droopB != 0).toNat)])
    (by simp [FRef.Apart, PWR_STATUS_BUBBLES, PWR_STATUS_DROOP]) (by decide) (by simp) s

theorem fld_showLevels_target (s : State) : fld PWR_STATUS_TARGET (showLevels s) = fld PWR_STATUS_TARGET s :=
  fld_setFlds_apart (by decide) (by
    simp [FRef.Apart, PWR_STATUS_TARGET, PWR_STATUS_BUBBLES, PWR_STATUS_DROOP]) s

/-- What a sample decides, from what it measured. -/
theorem powerSample_spec (m : PowerIn) (s : State) :
    Governed governRegs (sampleHead m s) (powerSample m s) ∧
    (belowFloor s = true → RefusedBelow (s.pwr.queue ≠ []) (waitsLeave .swap s = true) (powerSample m s) ∧
      fld PWR_STATUS_BUBBLES (powerSample m s) = 63 ∧ fld PWR_STATUS_TARGET (powerSample m s) = 0) ∧
    fld PWR_STATUS_TARGET (powerSample m s) ≤ fld PWR_CTRL_POINT_MAX s ∧
    fld PWR_STATUS_TARGET (powerSample m s) ≤ s.pwr.allowed := by
  obtain ⟨u, hu⟩ : ∃ u, u = sampleLeave (sampleHead m s) := ⟨_, rfl⟩
  obtain ⟨v, hv⟩ : ∃ v, v = takeTarget (sampleUs m) (targetPoint m u) u := ⟨_, rfl⟩
  have he : powerSample m s = showLevels v := by rw [hv, hu, powerSample_eq]
  have hleave : Governed governRegs (sampleHead m s) u := hu ▸ governed_sampleLeave _
  have htake : Governed governRegs u v := hv ▸ governed_takeTarget _ _ _
  obtain ⟨hregs, -, -, -, hfuse, hall⟩ := sampleHead_spec m s
  have hbelow : belowFloor (sampleHead m s) = belowFloor s := by
    have hcap : capEff (sampleHead m s) = capEff s :=
      capEff_congr hfuse (fld_congr_rd (hregs _ (by decide))) (fld_congr_rd (hregs _ (by decide)))
    unfold belowFloor
    rw [hcap, hfuse]
  have hbelowU : belowFloor u = belowFloor s := (hleave.belowFloor (by decide) (by decide)).trans hbelow
  have hbelowV : belowFloor v = belowFloor s := (htake.belowFloor (by decide) (by decide)).trans hbelowU
  have htarget : fld PWR_STATUS_TARGET (showLevels v) = targetPoint m u % 32 := by
    rw [fld_showLevels_target, hv, fld_takeTarget_target]
  have hmax : fld PWR_CTRL_POINT_MAX u = fld PWR_CTRL_POINT_MAX s :=
    (hleave.fld (by decide) (by decide)).trans (fld_congr_rd (hregs _ (by decide)))
  have hallU : u.pwr.allowed = s.pwr.allowed := hleave.2.2.2.2.trans hall
  have hle : targetPoint m u % 32 ≤ min (fld PWR_CTRL_POINT_MAX s) s.pwr.allowed := by
    rw [← hmax, ← hallU]
    exact (Nat.mod_le _ _).trans (targetPoint_le m u)
  rw [he, htarget]
  refine ⟨(hleave.trans htake).trans (governed_showLevels v), fun hb => ⟨?_, ?_, ?_⟩, hle.trans (Nat.min_le_left _ _),
    hle.trans (Nat.min_le_right _ _)⟩
  · obtain ⟨hqueue, hswap⟩ := sampleHead_queue m s
    have hdone := sampleLeave_below (hbelow.trans hb)
    rw [← hu, hswap, ne_eq, hqueue] at hdone
    have htaken := hdone.takeTarget (sampleUs m) (targetPoint m u)
    rw [← hv] at htaken
    exact htaken.of_regEffect regEffect_showLevels (by decide) (by decide)
  · have hb63 : bubbles v = 63 := if_pos (hbelowV.trans hb)
    rw [fld_showLevels_bubbles, hb63]
  · rw [targetPoint_below m (hbelowU.trans hb)]

/-! ### The sample as a command -/

theorem powerTick_on {m : PowerIn} {s : State} (h : s.boot.on = true) :
    powerTick m s = if bit PWR_HAVEN_ACTIVE (paced m s) then reportLeave (takeMeasure m (takeConfig (paced m s)))
      else settlePower (powerSample m (paced m s)) := by
  unfold powerTick
  rw [if_neg (by simp [h])]
  rfl

theorem reportLeave_same (s : State) : (reportLeave s).pwr = s.pwr ∧ ∀ o, o ≠ PWR_LEAVE → rd o (reportLeave s) = rd o s := by
  exact ⟨regEffect_reportLeave.pwr_eq s, fun o ho => (regEffect_reportLeave s).2 o (by simpa using ho)⟩

theorem ceilDiv_eq {a b : Nat} (h : b ≠ 0) : ceilDiv a b = (a + b - 1) / b := if_neg h

/-- A sample of the governor (R385 to R396, R401 to R403). -/
theorem governorSample_holds : governorSample := by
  intro m s hon
  have hpace := paced_paced m s
  have hhaven : bit PWR_HAVEN_ACTIVE (paced m s) = bit PWR_HAVEN_ACTIVE s := by
    unfold bit
    rw [hpace.fld (by decide)]
  have hrd {o : Nat} (ho : o ≠ GLD_CNT 6) : rd o (paced m s) = rd o s := hpace.rd ho
  have hpwr : (paced m s).pwr = s.pwr := hpace.2.1
  cases hh : bit PWR_HAVEN_ACTIVE s with
  | true =>
    have he : powerTick m s = reportLeave (takeMeasure m (takeConfig (paced m s))) := by
      rw [powerTick_on hon, if_pos (hhaven.trans hh)]
    obtain ⟨hmeas, henergy, hinst, hrest⟩ := takeMeasure_spec m (takeConfig (paced m s))
    obtain ⟨hqueue, hcap, -⟩ := takeMeasure_pwr m (takeConfig (paced m s))
    obtain ⟨hreport, hkeep⟩ := reportLeave_same (takeMeasure m (takeConfig (paced m s)))
    obtain ⟨-, hcQueue, hcRest, hcCap, -⟩ := takeConfig_spec (paced m s)
    have hcfg (o : Nat) : rd o (takeConfig (paced m s)) = rd o (paced m s) := rfl
    have henergyS : rd PWR_ENERGY (powerTick m s) = BitVec.ofNat 64 ((rd PWR_ENERGY s).toNat + (s.pwr.restUj + m.energyUj) / 1000) := by
      rw [he, hkeep _ (by decide), henergy, hcfg, hrd (by decide), hcRest, hpwr]
    have honly : TickOnly [PWR_ENERGY, PWR_MEAS, PWR_LEAVE, GLD_CNT 6] s (powerTick m s) := by
      rw [he]
      exact ((hpace.1.mono (by simp)).trans (tickOnly_modPwr _ _ _)).trans
        ((hmeas.mono (by simp)).trans ((tickOnly_regEffect regEffect_reportLeave _).mono (by simp)))
    have hpowered : (powerTick m s).pwr = (takeMeasure m (takeConfig (paced m s))).pwr := by rw [he, hreport]
    refine gives_run (f := powerTick m) rfl ⟨?_, ?_, ?_, fun _ => ⟨?_, ?_, ?_, ?_⟩, fun h => by simp at h, fun h => by simp at h, fun h => by simp at h,
      fun h => by simp at h, ?_⟩
    · rw [rd_after, henergyS]
    · rw [after_pwr, hpowered, hrest, hcRest, hpwr]
    · rw [fld_after, he]
      exact (fld_congr_rd (hkeep _ (by decide))).trans hinst
    · rw [after_pwr, hpowered, hqueue, hcQueue, hpwr]
    · rw [after_pwr, hpowered, hcap, hcCap, hpwr]
    · rw [after_pwr, hpowered, takeMeasure_held]
      show (paced m s).pwr.held.length = _
      rw [hpwr]
    · rw [after_pwr, after_gld]
      exact regsOnly_after_of rfl honly
    · rw [rd_after]
      exact honly.2.2.2 _ (by decide)
  | false =>
    have he : powerTick m s = settleCauseway (powerSample m (paced m s)) := by
      rw [powerTick_on hon, if_neg (by rw [hhaven, hh]; decide)]
      rfl
    obtain ⟨hregs, henergy, hinst, hrest, hfuse, hall⟩ := sampleHead_spec m (paced m s)
    obtain ⟨hgov, hbelow, hmax, hallowed⟩ := powerSample_spec m (paced m s)
    have hcapB := sampleHead_capB m (paced m s)
    have htrouble : Troubled troubleRegs (powerSample m (paced m s)) (powerTick m s) := he ▸ troubled_settleCauseway _
    have hall' : Governed (governRegs ++ troubleRegs) (sampleHead m (paced m s)) (powerTick m s) :=
      (hgov.mono (List.subset_append_left _ _)).trans ((governed_troubled htrouble).mono (List.subset_append_right _ _))
    have hstatus {f : FRef} (hf : f.off = PWR_STATUS) : fld f (powerTick m s) = fld f (powerSample m (paced m s)) :=
      (governed_troubled htrouble).fld (by rw [hf]; decide) (by rw [hf]; decide)
    obtain ⟨hlow, -, hrest', hcapB', -⟩ := hall'
    have hcapEff : capEff (paced m s) = capEff s := capEff_congr hpace.2.2.2 (hpace.fld (by decide)) (hpace.fld (by decide))
    have hfloor : belowFloor (paced m s) = belowFloor s := by
      unfold belowFloor
      rw [hcapEff, hpace.2.2.2]
    have hwaits : waitsLeave .swap (paced m s) = waitsLeave .swap s := by
      unfold waitsLeave
      rw [hpwr]
    rw [hfloor, hwaits, hpwr] at hbelow
    refine gives_run (f := powerTick m) rfl ⟨?_, ?_, ?_, fun h => by simp at h, fun _ hb => ?_, fun _ => ?_, fun _ hb => ?_, fun _ => ?_, ?_⟩
    · rw [rd_after, hlow _ (by decide) (by decide), henergy, hrd (by decide), hpwr]
    · rw [after_pwr, hrest', hrest, hpwr]
    · rw [fld_after]
      exact (fld_congr_rd (hlow PWR_MEAS (by decide) (by decide))).trans hinst
    · obtain ⟨hqueue, hbit, hover⟩ := (hbelow hb).1.troubled htrouble
      refine ⟨by rw [after_pwr, hqueue], fun hq => by rw [bit_after, hbit hq], fun hw => ?_⟩
      obtain ⟨hactive, hbusy, hcode⟩ := hover hw
      exact ⟨by rw [after_swap, hactive], by rw [bit_after, hbusy], by rw [fld_after, hcode]⟩
    · rw [after_pwr, hcapB', hcapB, hcapEff, hpace.fld (by decide), hpwr]
      by_cases hz : m.spinW = 0
      · exact .inr hz
      · rw [ceilDiv_eq hz]
        exact .inl rfl
    · obtain ⟨-, hbub, htar⟩ := hbelow hb
      exact ⟨by rw [fld_after, hstatus rfl, hbub], by rw [fld_after, hstatus rfl, htar]⟩
    · rw [fld_after, hstatus rfl, ← hpwr, ← hpace.fld (f := PWR_CTRL_POINT_MAX) (by decide)]
      exact ⟨hmax, hallowed⟩
    · rw [rd_after, hlow _ (by decide) (by decide), hregs _ (by decide), hrd (by decide)]

end Sys2Proof.Machine
end

section
/-! PROOFS. The governor's operating points and droop alarms (R391, R393). -/

namespace Sys2Proof.Machine

open Sys2Proof.Safety

theorem whileDies_of_power {f : State → State} {s : State} (hon : s.boot.on = true) (hdies : diesDown s = false) :
    whileDies f s = f s := by
  unfold whileDies
  rw [hon, hdies]
  rfl

/-! ### The end of a V/F step -/

/-- The point that a step led to. -/
def pointReached (s : State) : State := setFlds [(PWR_STATUS_POINT, s.pwr.stepTo), (PWR_STATUS_STEPPING, 0)] s

theorem pwrEffect_pointReached : PwrEffect [PWR_STATUS, PWR_CNT 4] pointReached := fun s =>
  ((regEffect_setFlds [(PWR_STATUS_POINT, s.pwr.stepTo), (PWR_STATUS_STEPPING, 0)]).mono
    (by simp [PWR_STATUS_POINT, PWR_STATUS_STEPPING])).pwr s

theorem pwrEffect_startStep (x : Nat) : PwrEffect [PWR_STATUS, PWR_CNT 4] (startStep x) :=
  ((pwrEffect_modPwr _ _).comp ((regEffect_bump64 (PWR_CNT 4) 1).mono (by simp)).pwr).comp
    ((regEffect_setFld PWR_STATUS_STEPPING 1).mono (by simp [PWR_STATUS_STEPPING])).pwr

theorem pointReached_spec (s : State) :
    fld PWR_STATUS_POINT (pointReached s) = s.pwr.stepTo % 32 ∧ bit PWR_STATUS_STEPPING (pointReached s) = false ∧
      fld PWR_STATUS_TARGET (pointReached s) = fld PWR_STATUS_TARGET s := by
  have hapart : [(PWR_STATUS_POINT, s.pwr.stepTo), (PWR_STATUS_STEPPING, 0)].Pairwise fun p q => q.1.Apart p.1 := by
    simp [FRef.Apart, PWR_STATUS_POINT, PWR_STATUS_STEPPING]
  refine ⟨fld_setFlds_of_mem hapart (by decide) (by simp) s, ?_, fld_setFlds_apart (by decide) (by
    simp [FRef.Apart, PWR_STATUS_TARGET, PWR_STATUS_POINT, PWR_STATUS_STEPPING]) s⟩
  unfold bit pointReached
  rw [fld_setFlds_of_mem hapart (by decide) (by simp : (PWR_STATUS_STEPPING, 0) ∈ _)]
  rfl

theorem vfStepEnd_stepping {s : State} (h : bit PWR_STATUS_STEPPING s = true) :
    vfStepEnd s = if fld PWR_STATUS_TARGET s < s.pwr.stepTo then startStep (fld PWR_STATUS_TARGET s) (pointReached s)
      else pointReached s := by
  rw [← (pointReached_spec s).2.2]
  exact if_pos h

theorem bit_startStep (x : Nat) (s : State) : bit PWR_STATUS_STEPPING (startStep x s) = true := bit_setErr (by decide) (by decide) _

/-! ### Droop alarms -/

/-- A droop alarm as the governor takes it. -/
def droopTaken (die : Bool) (mv : Nat) (active : Bool) (s : State) : State :=
  if active then
    bump64 (PWR_CNT 3) (if s.pwr.droopDies.contains die then 0 else 1)
      (modPwr (fun p => { p with droopDies := addOnce p.droopDies die
                                 droopB := max p.droopB (min 63 (8 * ceilDiv mv 10)) }) s)
  else modPwr (fun p => { p with droopDies := p.droopDies.filter (· != die), droopHold := 2 }) s

theorem droop_eq (die : Bool) (mv : Nat) (active : Bool) (s : State) :
    droop die mv active s = showLevels (droopTaken die mv active s) := rfl

theorem droop_pwr (die : Bool) (mv : Nat) (active : Bool) (s : State) :
    (droop die mv active s).pwr = (droopTaken die mv active s).pwr := regEffect_showLevels.pwr_eq _

theorem pwrEffect_droop_active (die : Bool) (mv : Nat) : PwrEffect [PWR_STATUS, PWR_CNT 3] (droop die mv true) := fun s =>
  (((pwrEffect_modPwr _ _).comp ((regEffect_bump64 (PWR_CNT 3) (if s.pwr.droopDies.contains die then 0 else 1)).mono (by simp)).pwr).comp
    (regEffect_showLevels.mono (by simp)).pwr) s

theorem pwrEffect_droop_over (die : Bool) (mv : Nat) : PwrEffect [PWR_STATUS] (droop die mv false) := fun s =>
  ((pwrEffect_modPwr _ _).comp regEffect_showLevels.pwr) s

/-- Operating points and droop alarms (R391, R393). -/
theorem pointsAndDroop_holds : pointsAndDroop := by
  refine ⟨fun s hon hdies hstep => ?_, fun die mv s hon hdies => ?_, fun die mv s hon hdies => ?_⟩
  · obtain ⟨hpoint, hidle, -⟩ := pointReached_spec s
    have he := (whileDies_of_power (f := vfStepEnd) hon hdies).trans (vfStepEnd_stepping hstep)
    by_cases hlow : fld PWR_STATUS_TARGET s < s.pwr.stepTo
    · rw [if_pos hlow] at he
      refine gives_run_of (g := fun s => startStep (fld PWR_STATUS_TARGET s) (pointReached s)) rfl he ⟨?_, ?_, ?_⟩
      · rw [fld_after, fld_startStep (by decide) (.inr (.inl (by decide))) (by decide), hpoint]
      · rw [bit_after, bit_startStep]
        simp [hlow]
      · rw [after_pwr]
        exact regsOnly_after_of rfl ((pwrEffect_pointReached.comp (pwrEffect_startStep (fld PWR_STATUS_TARGET s))) s)
    · rw [if_neg hlow] at he
      refine gives_run_of (g := pointReached) rfl he ⟨?_, ?_, pwrEffect_pointReached.after s⟩
      · rw [fld_after, hpoint]
      · rw [bit_after, hidle]
        simp [hlow]
  · refine gives_run_of (g := droop die mv true) rfl (whileDies_of_power hon hdies) ⟨?_, ?_, fun hnew => ?_,
      (pwrEffect_droop_active die mv).after s⟩
    · rw [after_pwr, droop_pwr]
      rfl
    · rw [after_pwr, droop_pwr]
      show die ∈ addOnce s.pwr.droopDies die
      unfold addOnce
      split
      · assumption
      · simp
    · have hcount : rd (PWR_CNT 3) (droopTaken die mv true s) = BitVec.ofNat 64 (min ((rd (PWR_CNT 3) s).toNat + 1) (2 ^ 64 - 1)) := by
        unfold droopTaken
        rw [if_pos rfl, hnew]
        exact rd_wr_same _ _ _
      rw [rd_after, droop_eq, (regEffect_showLevels _).2 _ (by decide), hcount]
  · refine gives_run_of (g := droop die mv false) rfl (whileDies_of_power hon hdies) ⟨?_, ?_, ?_,
      (pwrEffect_droop_over die mv).after s⟩
    · rw [after_pwr, droop_pwr]
      rfl
    · rw [after_pwr, droop_pwr]
      rfl
    · rw [after_pwr, droop_pwr]
      show die ∉ s.pwr.droopDies.filter (· != die)
      simp

/-- Settles O22: a sample measures, decides and then lets causeway transfers go on or end; a step's end and an alarm write the
levels alone. -/
theorem governor : Obligations.Governor := ⟨governorSample_holds, pointsAndDroop_holds⟩

end Sys2Proof.Machine
end

section
/-! PROOFS. The host link and management (R426, R448, R458, R460). -/

namespace Sys2Proof.Machine

open Sys2Proof.Safety

/-! ### The link goes down and returns -/

/-- The link of functions is down, and with it every host session. -/
def linkGone (fns : W16) (s : State) : State := linkDown fns (bump64 (BRG_CNT 3) 1 s)

theorem hostDown_ready {fns : W16} {s : State} (hon : s.boot.on = true) (hready : stage s = stReady) (hfns : fns ≠ 0) :
    hostDown fns s = linkGone fns s :=
  if_pos (by simpa [hon, hready] using hfns)

/-- What waited for functions whose link is back goes out. -/
def heldSent (due : List (Nat × Nat × Nat × List Byte)) (s : State) : State :=
  due.foldl (fun s h => send (.hostWrite h.1 h.2.2.1 h.2.2.2) s) s

theorem heldSent_eq (due : List (Nat × Nat × Nat × List Byte)) (s : State) :
    heldSent due s = { s with sent := s.sent ++ due.map fun h => .hostWrite h.1 h.2.2.1 h.2.2.2 } := by
  unfold heldSent
  induction due generalizing s with
  | nil => simp
  | cons h due ih =>
    rw [List.foldl_cons, ih]
    simp [send]

/-- The link of functions is back. -/
def linkBack (fns : W16) (s : State) : State :=
  { s with
    sent := s.sent ++ (s.hostHeld.filter fun h => fns.getLsbD h.1).map fun h => .hostWrite h.1 h.2.2.1 h.2.2.2
    hostHeld := s.hostHeld.filter fun h => !fns.getLsbD h.1
    boot := { s.boot with hostDown := s.boot.hostDown &&& ~~~fns } }

theorem hostUp_allowed {fns : W16} {s : State} (hon : s.boot.on = true) (hperst : s.pins.perst = false) (hall : hostAllowed s = true) :
    hostUp fns s = linkBack fns s := by
  unfold hostUp
  rw [if_neg (by simp [hon, hperst])]
  dsimp only
  rw [if_pos hall]
  have hsent := heldSent_eq (s.hostHeld.filter fun h => fns.getLsbD h.1) s
  unfold heldSent at hsent
  rw [hsent]
  rfl

/-! ### The link stays away (R448) -/

theorem sk_ringFault_other {i j : Nat} (h : j ≠ i) (s : State) : sk j (ringFault i s) = sk j s := sk_faultSkein_other h _ _

/-- A skein that is live, or faulted already, is faulted by its lost records. -/
theorem ringFault_faulted {i : Nat} {s : State} (h : skLive (sk i s) = true ∨ (sk i s).state = .faulted) :
    (sk i (ringFault i s)).state = .faulted := by
  cases hl : skLive (sk i s) with
  | true => exact congrArg Skein.state (sk_faultSkein_same (s := setErr SKN_ERR_RING_FAULT s) hl fcContext)
  | false =>
    have hsame : ringFault i s = setErr SKN_ERR_RING_FAULT s := faultSkein_dead (s := setErr SKN_ERR_RING_FAULT s) hl fcContext
    rw [hsame, sk_setErr]
    exact h.resolve_left (by simp [hl])

theorem faulted_faultSkein {i : Nat} {s : State} (h : (sk i s).state = .faulted) (j cause : Nat) :
    (sk i (faultSkein j cause s)).state = .faulted := by
  by_cases hj : i = j
  · subst hj
    rw [faultSkein_dead (by simp [skLive, h])]
    exact h
  · rw [sk_faultSkein_other hj]
    exact h

theorem faulted_ringFault {i : Nat} {s : State} (h : (sk i s).state = .faulted) (j : Nat) : (sk i (ringFault j s)).state = .faulted :=
  faulted_faultSkein (s := setErr SKN_ERR_RING_FAULT s) h j fcContext

theorem faulted_ringFaults {i : Nat} {s : State} (h : (sk i s).state = .faulted) (l : List Nat) :
    (sk i (l.foldl (fun s i => ringFault i s) s)).state = .faulted := by
  induction l generalizing s with
  | nil => exact h
  | cons j l ih => exact ih (faulted_ringFault h j)

theorem ringFaults_faulted {i : Nat} {l : List Nat} (hi : i ∈ l) {s : State}
    (h : skLive (sk i s) = true ∨ (sk i s).state = .faulted) : (sk i (l.foldl (fun s i => ringFault i s) s)).state = .faulted := by
  induction l generalizing s with
  | nil => simp at hi
  | cons j l ih =>
    by_cases hj : i = j
    · subst hj
      exact faulted_ringFaults (ringFault_faulted h) l
    · refine ih ((List.mem_cons.mp hi).resolve_left hj) ?_
      rw [sk_ringFault_other hj]
      exact h

theorem faulted_promptFails {i : Nat} {s : State} (h : (sk i s).state = .faulted) (l : List (Nat × Skein)) :
    (sk i (l.foldl (fun s k => promptFail k.1 false s) s)).state = .faulted := by
  induction l generalizing s with
  | nil => exact h
  | cons k l ih => exact ih (faulted_faultSkein (s := setErr SKN_ERR_PROMPT_FAULT s) h k.1 fcContext)

/-- What is held is lost: the records' skeins fault, and so do those whose prompts are to be read. -/
def heldLost (s : State) : State :=
  { (s.hostHeld.map (·.2.1)).eraseDups.foldl (fun s i => ringFault i s) s with hostHeld := [] }

/-- The skeins whose prompts cannot be read. -/
def readsLost (s : State) : State :=
  (s.skeins.filter fun k => !fnUp k.2.fn s && stages k.2).foldl (fun s k => promptFail k.1 false s) s

theorem hostLost_down {s : State} (hon : s.boot.on = true) (hdown : s.boot.hostDown ≠ 0) :
    hostLost s = setErr BRG_ERR_HOST_LOST (readsLost (heldLost s)) :=
  if_neg (by simpa [hon] using hdown)

theorem readsLost_hostHeld (s : State) : (readsLost s).hostHeld = s.hostHeld := by
  have hfail (l : List (Nat × Skein)) (u : State) : (l.foldl (fun s k => promptFail k.1 false s) u).hostHeld = u.hostHeld := by
    induction l generalizing u with
    | nil => rfl
    | cons k l ih =>
      rw [List.foldl_cons, ih]
      show (faultSkein k.1 fcContext (setErr SKN_ERR_PROMPT_FAULT u)).hostHeld = u.hostHeld
      unfold faultSkein
      dsimp only
      split <;> rfl
  exact hfail _ s

@[simp] theorem after_hostHeld (f : State → State) (s : State) : (after f s).hostHeld = (f s).hostHeld := by
  obtain ⟨m, l, h⟩ := irqSettle_cases s (f s)
  unfold after tidy
  rw [h]

/-- No interrupt message where neither the registers nor what the dies' power follows from change. -/
theorem after_sent_of_quiet {f : State → State} {s : State} (hr : (f s).regs = s.regs) (hf : (f s).fuse = s.fuse)
    (hb : (f s).boot.rejoin = s.boot.rejoin) : (after f s).sent = (f s).sent := by
  have hd : diesDown (f s) = diesDown s := by unfold diesDown stage; rw [fld_congr hr, hb]
  have hrd : ∀ o, rd o (f s) = rd o s := rd_congr hr
  have hm : reefMap (f s) = reefMap s := by unfold reefMap atollHere isS; simp only [hd, hrd, hf]
  have he : blockErr (f s) = blockErr s := by unfold blockErr anySpnErr; simp only [hd, hrd, hr]
  have hirq : irqEnabled (f s) = irqEnabled s := by unfold irqEnabled irqStatus; rw [hm, he, hrd, hrd]
  unfold after tidy
  rw [irqSettle_quiet hirq]

/-- The host link and management (R426, R448, R458, R460). -/
theorem hostLinks_holds : hostLinks := by
  refine ⟨fun clk s => ?_, fun fns s hon hready hfns => ?_, fun fns s hon hperst hall => ?_, fun s hon hdown => ?_,
    fun cmd s h48 => ?_⟩
  · exact gives_run (f := perstOff clk) rfl (regsOnly_after_of (f := perstOff clk) rfl ⟨rfl, fun _ => ⟨rfl, rfl⟩, fun _ => rfl, fun _ _ => rfl⟩)
  · refine gives_run_of (g := linkGone fns) rfl (hostDown_ready hon hready hfns) ⟨?_, ?_, ?_, ?_, ?_⟩
    · rw [after_boot]; rfl
    · rw [after_sec]; rfl
    · rw [after_sec]; rfl
    · exact counts_after (f := linkGone fns) (counts_bump64 (BRG_CNT 3) 1 s)
    · rw [after_boot, after_sec]
      exact regsOnly_after_of rfl ⟨rfl, fun _ => ⟨rfl, rfl⟩, fun _ => rfl, (regEffect_bump64 (BRG_CNT 3) 1 s).2⟩
  · refine gives_run_of (g := linkBack fns) rfl (hostUp_allowed hon hperst hall) ⟨?_, ?_, ?_, ?_⟩
    · rw [after_boot]; rfl
    · rw [after_hostHeld]; rfl
    · exact after_sent_of_quiet (f := linkBack fns) rfl rfl rfl
    · rw [after_boot, after_hostHeld]
      exact regsOnly_after_of rfl ⟨rfl, fun _ => ⟨rfl, rfl⟩, fun _ => rfl, fun _ _ => rfl⟩
  · refine gives_run_of (g := fun s => setErr BRG_ERR_HOST_LOST (readsLost (heldLost s))) rfl (hostLost_down hon hdown)
      ⟨?_, ?_, fun h hmem hlive => ?_⟩
    · rw [after_hostHeld]
      exact readsLost_hostHeld (heldLost s)
    · rw [bit_after]
      exact bit_setErr (by decide) (by decide) _
    · rw [sk_after]
      have hfault := ringFaults_faulted (i := h.2.1) (l := (s.hostHeld.map (·.2.1)).eraseDups)
        (List.mem_eraseDups.mpr (List.mem_map_of_mem hmem)) (.inl hlive)
      exact faulted_promptFails (s := heldLost s) hfault _
  · have he : mctpControl cmd.toNat s = send (.i3cAnswer (i3cAddress s) cmd.toNat) s := if_pos h48
    refine gives_run_of (g := fun s => send (.i3cAnswer (i3cAddress s) cmd.toNat) s) rfl he ⟨?_, ?_⟩
    · exact after_sent_of_quiet (f := fun s => send (.i3cAnswer (i3cAddress s) cmd.toNat) s) rfl rfl rfl
    · exact regsOnly_after_of rfl ⟨rfl, fun _ => ⟨rfl, rfl⟩, fun _ => rfl, fun _ _ => rfl⟩

end Sys2Proof.Machine
end

section
/-! PROOFS. Retrain requests for atolls and ports (R440), and what a change of routes keeps (R310). -/

namespace Sys2Proof.Machine

open Sys2Proof.Safety

/-! ### A change of routes (R310) -/

/-- Registers below the context bank that a change of routes writes. -/
def routeRegs : List Nat := GLD_REACH 0 :: GLD_REACH 1 :: BT_STATUS :: troubleRegs

theorem trouble_subset_route : troubleRegs ⊆ routeRegs := by
  intro o ho
  simp only [routeRegs, List.mem_cons]
  exact .inr (.inr (.inr ho))

theorem troubled_posted (l : List Nat) {s t : State} (h : Posted s t) : Troubled l s t := by
  obtain ⟨m, p, rfl⟩ := h
  exact troubled_of rfl rfl id

theorem troubled_setReach (s : State) : Troubled routeRegs s (setReach s) :=
  (troubled_of_regEffect (regEffect_wr (GLD_REACH 0) _) (by simp [routeRegs]) s).trans
    (troubled_of_regEffect (regEffect_wr (GLD_REACH 1) _) (by simp [routeRegs]) _)

theorem troubled_deadXfers (s : State) : Troubled troubleRegs s (deadXfers s) :=
  troubled_foldl (fun u n => troubled_fryErr rfl n u) _ s

theorem troubled_dropHeld (s : State) : Troubled troubleRegs s (dropHeld s) := by
  unfold dropHeld
  extract_lets dead gone n k u
  have hu : Troubled troubleRegs s u := troubled_modGld _ _ _
  split
  · exact hu
  · exact hu.trans (troubled_bump64 (by decide) _ u)

theorem posted_sendIds (s : State) : Posted s (sendIds s) := by
  refine posted_foldl (fun u p => ?_) _ s
  split
  · exact posted_post _ _ _ u
  · exact posted_refl u

theorem troubled_checkRoot (s : State) : Troubled routeRegs s (checkRoot s) := by
  have hlock : Troubled routeRegs s (setFld BT_STATUS_LOCK lkHoldover s) :=
    troubled_setFld (.inr (by simp [routeRegs, BT_STATUS_LOCK])) _ s
  have hset : Troubled routeRegs s (setLock lkHoldover s) := by
    unfold setLock
    split
    · exact troubled_refl _ s
    · exact hlock.trans (troubled_posted _ (posted_sendIds _))
  unfold checkRoot
  split
  · exact hset
  · exact troubled_refl _ s

theorem troubled_routeChanged (s : State) : Troubled routeRegs s (routeChanged s) := by
  have hops (l : List (Nat × FabOp)) (u : State) :
      Troubled troubleRegs u (l.foldl (fun s o => finishOp o.1 stTargetDead [] s) u) :=
    troubled_foldl (fun _ _ => troubled_finishOp (by decide) _ _ _) l u
  unfold routeChanged
  exact (troubled_setReach s).trans ((((troubled_deadXfers _).trans (hops _ _)).trans (troubled_dropHeld _)).mono
    trouble_subset_route |>.trans (troubled_checkRoot _))

/-! ### A port starts to train (R436) -/

/-- A flood leaves the registers. -/
theorem posted_flood (m : Sent) (s : State) : Posted s (flood m s) := by
  refine posted_foldl (fun u p => ?_) _ s
  split
  · exact posted_post _ _ _ u
  · exact posted_refl u

/-- The state of a port as it moves. -/
def portMoved (p st cause role : Nat) (s : State) : State :=
  setFlds [(GLD_PORT_STATUS_STATE p, st), (GLD_PORT_STATUS_CAUSE p, cause), (GLD_PORT_STATUS_ROLE p, role)] s

theorem portState_portMoved {p st : Nat} (hst : st < 8) (cause role : Nat) (s : State) :
    portState p (portMoved p st cause role s) = st := by
  have h : portState p (portMoved p st cause role s) = st % 2 ^ 3 :=
    fld_setFlds_of_mem (l := [(GLD_PORT_STATUS_STATE p, st), (GLD_PORT_STATUS_CAUSE p, cause), (GLD_PORT_STATUS_ROLE p, role)]) (by
      simp [FRef.Apart, GLD_PORT_STATUS_STATE, GLD_PORT_STATUS_CAUSE, GLD_PORT_STATUS_ROLE]) (show 31 < 64 by decide) (by simp) s
  rw [h]
  exact Nat.mod_eq_of_lt hst

/-- ROLE in force once a port has moved. -/
def roleAt (p st : Nat) (s : State) : Nat := if st = pUp then fld (GLD_PORT_ROLE_ROLE p) s else 7

/-- A port moves; to UP and from UP the routes change with it. -/
theorem movePort_spec (p st cause : Nat) (s : State) :
    movePort p st cause s = portMoved p st cause (roleAt p st s) s ∨
      ∃ u, Posted (portMoved p st cause (roleAt p st s) s) u ∧ movePort p st cause s = routeChanged u := by
  have hflood (m : Sent) := posted_flood m (portMoved p st cause (roleAt p st s) s)
  unfold movePort
  dsimp only
  split
  · exact .inr ⟨_, hflood _, rfl⟩
  split
  · exact .inr ⟨_, hflood _, rfl⟩
  · exact .inl rfl

theorem troubled_movePort (p st cause : Nat) (s : State) : Troubled (GLD_PORT_STATUS p :: routeRegs) s (movePort p st cause s) := by
  have hmoved : Troubled (GLD_PORT_STATUS p :: routeRegs) s (portMoved p st cause (roleAt p st s) s) := troubled_setFlds (by
    simp [GLD_PORT_STATUS_STATE, GLD_PORT_STATUS_CAUSE, GLD_PORT_STATUS_ROLE]) s
  rcases movePort_spec p st cause s with he | ⟨u, hu, he⟩ <;> rw [he]
  · exact hmoved
  · exact (hmoved.trans (troubled_posted _ hu)).trans ((troubled_routeChanged u).mono (by simp))

/-- The port is in the state to which it moved, whatever ended with its routes. -/
theorem portState_movePort {p st : Nat} (hp : p < 7) (hst : st < 8) (hw : st ≠ phWitness) (cause : Nat) (s : State) :
    portState p (movePort p st cause s) = st := by
  rcases movePort_spec p st cause s with he | ⟨u, hu, he⟩ <;> rw [he]
  · exact portState_portMoved hst _ _ s
  · have hsame : portState p u = st := (hu.fld _).trans (portState_portMoved hst _ _ s)
    have hlow : GLD_PORT_STATUS p < 0x800000 := by simp only [GLD_PORT_STATUS]; omega
    have hfree : GLD_PORT_STATUS p ∉ routeRegs := by
      simp only [GLD_PORT_STATUS, routeRegs, troubleRegs, GLD_REACH, BT_STATUS, SKN_CNT, SKN_ERR, SEC_ERR, GLD_ERR, GLD_ERR_INFO,
        GLD_CNT, PWR_LEAVE, FRY_ERR, FRY_ERR_INFO, FRY_CNT, List.mem_cons, List.not_mem_nil, or_false]
      omega
    have hkeep := ((troubled_routeChanged u).keepsReg hlow hfree).rd_of_phase (fun hphase => hw (hsame.symm.trans hphase))
    exact (fld_congr_rd hkeep).trans hsame

end Sys2Proof.Machine
end

section
/-! PROOFS. Retrain requests for atolls and ports (R440). -/

namespace Sys2Proof.Machine

open Sys2Proof.Safety

/-! ### A write of BRG_RETRAIN -/

/-- The field table of BRG_RETRAIN. -/
def retrainDesc : RegD := ⟨0x10024, false, [], [⟨31, 31, .w1s, 0, []⟩, ⟨24, 24, .rw, 0, []⟩, ⟨2, 0, .rw, 0, []⟩]⟩

theorem regDesc_BRG_RETRAIN : regDesc BRG_RETRAIN = some retrainDesc := by decide +kernel

theorem regHold_BRG_RETRAIN : regHold BRG_RETRAIN = some (BRG_RETRAIN, false) := by decide +kernel

/-- The request is stored, and GO reads 0 again. -/
def retrainAsked (v : W64) (s : State) : State := setFld BRG_RETRAIN_GO 0 (wr BRG_RETRAIN (written BRG_RETRAIN v s).1 s)

theorem regEffect_retrainAsked (v : W64) : RegEffect [BRG_RETRAIN] (retrainAsked v) := fun s =>
  ((regEffect_wr BRG_RETRAIN (written BRG_RETRAIN v s).1).comp (regEffect_setFld BRG_RETRAIN_GO 0)) s

theorem retrainAsked_flds (v : W64) (s : State) :
    fld BRG_RETRAIN_KIND (retrainAsked v s) = fldOf BRG_RETRAIN_KIND v ∧
      fld BRG_RETRAIN_INDEX (retrainAsked v s) = fldOf BRG_RETRAIN_INDEX v := by
  have hrd (f : FRef) (hf : f.off = BRG_RETRAIN) :
      fld f (wr BRG_RETRAIN (written BRG_RETRAIN v s).1 s) = fldOf f (written BRG_RETRAIN v s).1 := by
    unfold fld
    rw [hf, rd_wr_same]
  have hkind : fldOf BRG_RETRAIN_KIND (written BRG_RETRAIN v s).1 = fldOf BRG_RETRAIN_KIND v :=
    fldOf_written regDesc_BRG_RETRAIN (by decide) (f := ⟨24, 24, .rw, 0, []⟩) (by simp [retrainDesc]) v s
  have hindex : fldOf BRG_RETRAIN_INDEX (written BRG_RETRAIN v s).1 = fldOf BRG_RETRAIN_INDEX v :=
    fldOf_written regDesc_BRG_RETRAIN (by decide) (f := ⟨2, 0, .rw, 0, []⟩) (by simp [retrainDesc]) v s
  unfold retrainAsked
  rw [fld_setFld_apart (.inr (.inr (by decide))) (by decide), fld_setFld_apart (.inr (.inr (by decide))) (by decide), hrd _ rfl, hrd _ rfl]
  exact ⟨hkind, hindex⟩

/-- A request for a unit that is there is put in the queue, and what can start starts. -/
theorem brgRetrain_eq {v : W64} {s : State} (hok : fldOf BRG_RETRAIN_KIND v = 1 ∨ fldOf BRG_RETRAIN_INDEX v ≠ 7)
    (hgo : wbit v 31 = true) (htested : s.boot.tested = true)
    (hhere : (if fldOf BRG_RETRAIN_KIND v = 0 then portHere s (fldOf BRG_RETRAIN_INDEX v) else atollHere s (fldOf BRG_RETRAIN_INDEX v)) = true) :
    brgRetrain v s =
      atollNext (portNext (queueRetrain (fldOf BRG_RETRAIN_KIND v) (fldOf BRG_RETRAIN_INDEX v) (retrainAsked v s))) := by
  have hbad : (!(fldOf BRG_RETRAIN_KIND v == 1) && fldOf BRG_RETRAIN_INDEX v == 7) = false := by
    rcases hok with h | h <;> simp [h]
  have hstore : store BRG_RETRAIN v s = wr BRG_RETRAIN (written BRG_RETRAIN v s).1 s :=
    store_of_not_noted (written_notes_none regDesc_BRG_RETRAIN (by simp [retrainDesc]) v s)
  obtain ⟨hkind, hindex⟩ := retrainAsked_flds v s
  obtain ⟨⟨r, a, d, he⟩, -⟩ := regEffect_retrainAsked v s
  have hboot : (retrainAsked v s).boot = s.boot := by rw [he]
  have hfuse : (retrainAsked v s).fuse = s.fuse := by rw [he]
  have hp (i : Nat) : portHere (retrainAsked v s) i = portHere s i := by unfold portHere isS; rw [hfuse]
  have ha (i : Nat) : atollHere (retrainAsked v s) i = atollHere s i := by unfold atollHere isS; rw [hfuse]
  have hgone : (!(retrainAsked v s).boot.tested || (if fld BRG_RETRAIN_KIND (retrainAsked v s) = 0
      then !portHere (retrainAsked v s) (fld BRG_RETRAIN_INDEX (retrainAsked v s))
      else !atollHere (retrainAsked v s) (fld BRG_RETRAIN_INDEX (retrainAsked v s)))) = false := by
    rw [hboot, htested, hkind, hindex, hp, ha]
    by_cases hk : fldOf BRG_RETRAIN_KIND v = 0
    · rw [if_pos hk] at hhere ⊢
      rw [hhere]
      rfl
    · rw [if_neg hk] at hhere ⊢
      rw [hhere]
      rfl
  unfold brgRetrain
  dsimp only
  rw [hbad, hgo, if_pos (by decide : (true && !false) = true), if_neg (by decide : ¬false = true), hstore, ← retrainAsked,
    if_neg (by rw [hgone]; decide), hkind, hindex]

/-! ### The queue of requests -/

/-- The queue holds one request alone. -/
def queuedAlone (k i : Nat) (s : State) : State := setQueued { s with boot := { s.boot with retrainQ := [(k, i)] } }

/-- The queue is empty. -/
def queueEmpty (s : State) : State := setQueued { s with boot := { s.boot with retrainQ := [] } }

/-- Whether the unit of a request retrains already. -/
def retrains (k i : Nat) (s : State) : Bool :=
  if k = 0 then bit BRG_RETRAIN_STATUS_PORT_BUSY s && fld BRG_RETRAIN_STATUS_PORT s == i
  else bit BRG_RETRAIN_STATUS_ATOLL_BUSY s && fld BRG_RETRAIN_STATUS_ATOLL s == i

theorem queueRetrain_merges {k i : Nat} {s : State} (h : retrains k i s = true) : queueRetrain k i s = s := if_pos h

theorem queueRetrain_queues {k i : Nat} {s : State} (h : retrains k i s = false) (hq : s.boot.retrainQ = []) :
    queueRetrain k i s = queuedAlone k i s := by
  have he : queueRetrain k i s = setQueued { s with boot := { s.boot with retrainQ := addOnce s.boot.retrainQ (k, i) } } :=
    if_neg (by rw [← retrains, h]; decide)
  rw [he, hq]
  rfl

theorem queuedAlone_spec (k i : Nat) (s : State) : (queuedAlone k i s).boot = { s.boot with retrainQ := [(k, i)] } ∧
    (queuedAlone k i s).fuse = s.fuse ∧ (queuedAlone k i s).pins = s.pins ∧
    (∀ o, o ≠ BRG_RETRAIN_STATUS → rd o (queuedAlone k i s) = rd o s) ∧
    ∀ f : FRef, f.off = BRG_RETRAIN_STATUS → f.hi < 64 → 7 < f.lo → fld f (queuedAlone k i s) = fld f s := by
  refine ⟨rfl, rfl, rfl, fun o ho => rd_setFld_other BRG_RETRAIN_STATUS_QUEUED _ _ ho, fun f _ hhi hlo => ?_⟩
  exact fld_setFld_apart (f := BRG_RETRAIN_STATUS_QUEUED) (.inr (.inl hlo)) hhi _ _

/-- No request of a kind waits. -/
theorem nextQueued_none {k : Nat} {can : Nat → Bool} {s : State} (h : (s.boot.retrainQ.all fun q => q.1 != k) = true) :
    nextQueued k can s = (none, s) := if_pos h

theorem find?_single {i : Nat} (hi : i < 8) {p : Nat → Bool} (hp : ∀ j, p j = true ↔ j = i) : (List.range 8).find? p = some i := by
  rw [List.find?_range_eq_some]
  refine ⟨(hp i).mpr rfl, List.mem_range.mpr hi, fun j hj => ?_⟩
  have hne : ¬p j = true := fun h => absurd ((hp j).mp h) (by omega)
  simpa using hne

/-- The only request is of a unit that can retrain: it leaves the queue. -/
theorem nextQueued_alone {k i : Nat} (hi : i < 8) {can : Nat → Bool} {s : State} (hq : s.boot.retrainQ = [(k, i)])
    (hcan : can i = true) : nextQueued k can s = (some i, queueEmpty s) := by
  have hfind : ((List.range 8).find? fun j => s.boot.retrainQ.contains (k, j) && can j) = some i :=
    find?_single hi fun j => by
      rw [hq]
      simp only [List.contains_cons, List.contains_nil, Bool.or_false, Bool.and_eq_true, beq_iff_eq, Prod.mk.injEq, true_and]
      exact ⟨fun h => h.1, fun h => ⟨h, h ▸ hcan⟩⟩
  have hall : (s.boot.retrainQ.all fun q => q.1 != k) = false := by
    rw [hq]
    simp
  have hrest : (s.boot.retrainQ.filter fun q => !(q.1 == k && decide (q.2 ≤ i))) = [] := by
    rw [hq]
    simp
  unfold nextQueued
  dsimp only
  rw [hfind, hall, if_neg (by decide)]
  unfold queueEmpty
  rw [← hrest]
  rfl

theorem portNext_idle {s : State} (h : bit BRG_RETRAIN_STATUS_PORT_BUSY s = true ∨ (s.boot.retrainQ.all fun q => q.1 != 0) = true) :
    portNext s = s := by
  unfold portNext
  split
  · rfl
  · next hb =>
    rw [nextQueued_none (h.resolve_left hb)]

theorem atollNext_idle {s : State} (h : bit BRG_RETRAIN_STATUS_ATOLL_BUSY s = true ∨ (s.boot.retrainQ.all fun q => q.1 != 1) = true) :
    atollNext s = s := by
  unfold atollNext
  split
  · rfl
  · next hb =>
    have hbusy : ¬bit BRG_RETRAIN_STATUS_ATOLL_BUSY s = true := fun hx => hb (by rw [hx]; rfl)
    rw [nextQueued_none (h.resolve_left hbusy)]

/-! ### A retrain starts -/

/-- An atoll leaves for its retrain. -/
def atollStarts (a : Nat) (s : State) : State :=
  setFlds [(atollFld a, 1), (BRG_RETRAIN_STATUS_ATOLL_BUSY, 1), (BRG_RETRAIN_STATUS_ATOLL, a)]
    (bump64 (BRG_CNT 1) 1 { s with boot := { s.boot with atollRetry := false } })

theorem atollNext_starts {a : Nat} {s : State} (hbusy : bit BRG_RETRAIN_STATUS_ATOLL_BUSY s = false)
    (hhaven : bit PWR_HAVEN_ACTIVE s = false) (hq : s.boot.retrainQ = [(1, a)]) (hhere : atollHere s a = true)
    (hfail : atollFailed a s = false) : atollNext s = atollStarts a (queueEmpty s) := by
  have ha : a < 8 := by
    unfold atollHere at hhere
    simp only [Bool.and_eq_true, decide_eq_true_eq] at hhere
    exact hhere.1
  unfold atollNext
  rw [hbusy, hhaven, if_neg (by decide), nextQueued_alone ha hq (by rw [hhere, hfail]; rfl)]
  rfl

theorem atollFlds_apart {a : Nat} : [(atollFld a, 1), (BRG_RETRAIN_STATUS_ATOLL_BUSY, 1), (BRG_RETRAIN_STATUS_ATOLL, a)].Pairwise
    fun p q => q.1.Apart p.1 := by
  simp [FRef.Apart, atollFld, BRG_RETRAIN_STATUS_ATOLL_BUSY, BRG_RETRAIN_STATUS_ATOLL, MEM_STATUS, BRG_RETRAIN_STATUS]

theorem atollStarts_spec {a : Nat} (ha : a < 8) (s : State) :
    bit BRG_RETRAIN_STATUS_ATOLL_BUSY (atollStarts a s) = true ∧ fld BRG_RETRAIN_STATUS_ATOLL (atollStarts a s) = a ∧
      counts (BRG_CNT 1) 1 s (atollStarts a s) ∧ SameMem s (atollStarts a s) := by
  refine ⟨?_, ?_, ?_, fun x => ⟨rfl, rfl⟩⟩
  · unfold bit atollStarts
    rw [fld_setFlds_of_mem atollFlds_apart (by decide) (by simp : (BRG_RETRAIN_STATUS_ATOLL_BUSY, 1) ∈ _)]
    rfl
  · unfold atollStarts
    rw [fld_setFlds_of_mem atollFlds_apart (by decide) (by simp : (BRG_RETRAIN_STATUS_ATOLL, a) ∈ _)]
    exact Nat.mod_eq_of_lt ha
  · have hcnt (u : State) : rd (BRG_CNT 1) (setFlds [(atollFld a, 1), (BRG_RETRAIN_STATUS_ATOLL_BUSY, 1), (BRG_RETRAIN_STATUS_ATOLL, a)] u) =
        rd (BRG_CNT 1) u := (regEffect_setFlds _ u).2 _ (by
      simp [atollFld, BRG_RETRAIN_STATUS_ATOLL_BUSY, BRG_RETRAIN_STATUS_ATOLL, MEM_STATUS, BRG_RETRAIN_STATUS, BRG_CNT])
    exact (hcnt _).trans (rd_wr_same _ _ _)

/-- A port's retrain is counted, and BRG_RETRAIN_STATUS shows it. -/
def portClaimed (p : Nat) (s : State) : State :=
  setFlds [(BRG_RETRAIN_STATUS_PORT_BUSY, 1), (BRG_RETRAIN_STATUS_PORT, p)] (bump64 (BRG_CNT 0) 1 (bump64 (GLD_PORT_CNT p 2) 1 s))

theorem regEffect_portClaimed (p : Nat) : RegEffect [BRG_RETRAIN_STATUS, BRG_CNT 0, GLD_PORT_CNT p 2] (portClaimed p) :=
  (((regEffect_bump64 (GLD_PORT_CNT p 2) 1).mono (by simp)).comp ((regEffect_bump64 (BRG_CNT 0) 1).mono (by simp))).comp
    ((regEffect_setFlds _).mono (by simp [BRG_RETRAIN_STATUS_PORT_BUSY, BRG_RETRAIN_STATUS_PORT]))

/-- The state in which a port leaves for its retrain. -/
def portReady (p : Nat) (s : State) : State :=
  modPort p (fun x => { x with retraining := true, fails := 0, rxFails := 0 }) (portClaimed p s)

theorem portReady_eq (p : Nat) (s : State) : ∃ g, portReady p s = { portClaimed p s with gld := g } := ⟨_, rfl⟩

theorem portNext_starts {p : Nat} {s : State} (hp : p < 8) (hbusy : bit BRG_RETRAIN_STATUS_PORT_BUSY s = false)
    (hq : s.boot.retrainQ = [(0, p)]) (hmay : mayTrain p s = true) : portNext s = train p (portReady p (queueEmpty s)) := by
  unfold portNext
  rw [hbusy, if_neg (by decide), nextQueued_alone hp hq hmay]
  rfl

theorem portClaimed_spec {p : Nat} (hp : p < 8) (s : State) :
    fld BRG_RETRAIN_STATUS_PORT_BUSY (portClaimed p s) = 1 ∧ fld BRG_RETRAIN_STATUS_PORT (portClaimed p s) = p := by
  have hapart : [(BRG_RETRAIN_STATUS_PORT_BUSY, 1), (BRG_RETRAIN_STATUS_PORT, p)].Pairwise fun x y => y.1.Apart x.1 := by
    simp [FRef.Apart, BRG_RETRAIN_STATUS_PORT_BUSY, BRG_RETRAIN_STATUS_PORT]
  unfold portClaimed
  refine ⟨(fld_setFlds_of_mem hapart (by decide) (by simp : (BRG_RETRAIN_STATUS_PORT_BUSY, 1) ∈ _) _).trans rfl, ?_⟩
  exact (fld_setFlds_of_mem hapart (by decide) (by simp : (BRG_RETRAIN_STATUS_PORT, p) ∈ _) _).trans (Nat.mod_eq_of_lt hp)

theorem portReady_boot (p : Nat) (s : State) : (portReady p s).boot = s.boot := by
  obtain ⟨g, hg⟩ := portReady_eq p s
  rw [hg]
  exact (regEffect_portClaimed p).boot_eq s

theorem sameMem_setGld (g : Gld) (s : State) : SameMem s { s with gld := g } := fun _ => ⟨rfl, rfl⟩

theorem portReady_sameMem (p : Nat) (s : State) : SameMem s (portReady p s) := by
  obtain ⟨g, hg⟩ := portReady_eq p s
  rw [hg]
  exact sameMem_trans ((regEffect_portClaimed p).sameMem s) (sameMem_setGld g _)

theorem portReady_regs (p : Nat) (s : State) : (portReady p s).regs = (portClaimed p s).regs := by
  obtain ⟨g, hg⟩ := portReady_eq p s
  rw [hg]

theorem train_spec {p : Nat} (hp : p < 7) (s : State) :
    Troubled (GLD_PORT_LANES p :: GLD_PORT_STATUS p :: routeRegs) s (train p s) ∧ portState p (train p s) = pTraining := by
  have hlanes (x y : Nat) : Troubled (GLD_PORT_LANES p :: GLD_PORT_STATUS p :: routeRegs) s
      (setFlds [(GLD_PORT_LANES_REPAIRED p, x), (GLD_PORT_LANES_LANE p, y)] s) := troubled_setFlds (by
    simp [GLD_PORT_LANES_REPAIRED, GLD_PORT_LANES_LANE]) s
  refine ⟨(hlanes _ _).trans ((troubled_movePort _ _ _ _).mono (List.subset_cons_self _ _)), ?_⟩
  exact portState_movePort hp (by decide) (by decide) _ _

end Sys2Proof.Machine
end

section
/-! PROOFS. Retrain requests (R440), and the host link with them. -/

namespace Sys2Proof.Machine

open Sys2Proof.Safety

/-- What a retrain request comes to, from the request as it is stored. -/
def retrainServed (k i : Nat) (u : State) : State := atollNext (portNext (queueRetrain k i u))

/-- A request as stored differs from before in BRG_RETRAIN alone. -/
structure Asked (s u : State) : Prop where
  only : RegsOnly [BRG_RETRAIN] s u
  boot : u.boot = s.boot
  fuse : u.fuse = s.fuse
  pins : u.pins = s.pins
  gld : u.gld = s.gld

theorem asked_of_write (v : W64) (s : State) : Asked s (retrainAsked v (accessed BRG_RETRAIN s)) := by
  obtain ⟨⟨r, a, d, he⟩, -⟩ := regEffect_retrainAsked v (accessed BRG_RETRAIN s)
  exact ⟨regsOnly_trans ((regEffect_accessed _ _).regsOnly s) ((regEffect_retrainAsked v).regsOnly _), by rw [he]; rfl, by rw [he]; rfl,
    by rw [he]; rfl, by rw [he]; rfl⟩

theorem Asked.fld {s u : State} (h : Asked s u) {f : FRef} (hf : f.off ≠ BRG_RETRAIN) : fld f u = fld f s :=
  fld_congr_rd (h.only.2.2.2 f.off (by simpa using hf))

theorem Asked.bit {s u : State} (h : Asked s u) {f : FRef} (hf : f.off ≠ BRG_RETRAIN) : bit f u = bit f s := by
  unfold Sys2Proof.Machine.bit
  rw [h.fld hf]

theorem fldOf_KIND (v : W32) : fldOf BRG_RETRAIN_KIND (v.setWidth 64) = (v.getLsbD 24).toNat := by
  have h := wbit_setWidth v 24
  unfold wbit at h
  rw [← h, BitVec.getLsbD, Nat.testBit_eq_decide_div_mod_eq]
  have hbit : fldOf BRG_RETRAIN_KIND (v.setWidth 64) = (v.setWidth 64).toNat / 2 ^ 24 % 2 := by
    simp only [fldOf, BRG_RETRAIN_KIND, Nat.shiftRight_eq_div_pow]
    rfl
  rw [hbit]
  generalize (v.setWidth 64).toNat / 2 ^ 24 = n
  rcases Nat.mod_two_eq_zero_or_one n with h2 | h2 <;> rw [h2] <;> rfl

/-- A retrain request as a command: its effect is that of the request as stored. -/
theorem gives_retrain {v : W32} {s : State} {k : Nat} {P : State → Prop} (ha : Answers BRG_RETRAIN s) (htested : s.boot.tested = true)
    (hgo : v.getLsbD 31 = true) (hk : fldOf BRG_RETRAIN_KIND (v.setWidth 64) = k)
    (hhere : (if k = 0 then portHere s (fldOf BRG_RETRAIN_INDEX (v.setWidth 64)) else
      atollHere s (fldOf BRG_RETRAIN_INDEX (v.setWidth 64))) = true)
    (hok : k = 1 ∨ fldOf BRG_RETRAIN_INDEX (v.setWidth 64) ≠ 7)
    (hp : ∀ f : State → State, ∀ u, Asked s u → f s = retrainServed k (fldOf BRG_RETRAIN_INDEX (v.setWidth 64)) u → P (after f s)) :
    Gives (.retrainRequest v) s P := by
  subst hk
  refine gives_write32 ha regHold_BRG_RETRAIN rfl (hp _ _ (asked_of_write (v.setWidth 64) s) ?_)
  have hwrite : regWrite true BRG_RETRAIN (v.setWidth 64) (accessed BRG_RETRAIN s) = brgRetrain (v.setWidth 64) (accessed BRG_RETRAIN s) := rfl
  exact hwrite.trans (brgRetrain_eq hok (by rw [wbit_setWidth, hgo]) htested hhere)

/-- A request merges with the retrain that already runs for its unit. -/
theorem retrain_merges {k i : Nat} {s u : State} (h : Asked s u) (hq : s.boot.retrainQ = []) (hr : retrains k i s = true) :
    retrainServed k i u = u := by
  have hru : retrains k i u = true := by
    unfold retrains at hr ⊢
    rw [h.bit (by decide), h.fld (by decide), h.bit (by decide), h.fld (by decide)]
    exact hr
  have hnone : (u.boot.retrainQ.all fun q => q.1 != 0) = true ∧ (u.boot.retrainQ.all fun q => q.1 != 1) = true := by
    rw [h.boot, hq]
    exact ⟨rfl, rfl⟩
  unfold retrainServed
  rw [queueRetrain_merges hru, portNext_idle (.inr hnone.1), atollNext_idle (.inr hnone.2)]

/-- A request that another retrain holds up is queued. -/
theorem retrain_queued {k i : Nat} {s u : State} (h : Asked s u) (hq : s.boot.retrainQ = []) (hk : k = 0 ∨ k = 1)
    (hr : retrains k i s = false)
    (hbusy : bit (if k = 0 then BRG_RETRAIN_STATUS_PORT_BUSY else BRG_RETRAIN_STATUS_ATOLL_BUSY) s = true) :
    retrainServed k i u = queuedAlone k i u := by
  have hru : retrains k i u = false := by
    unfold retrains at hr ⊢
    rw [h.bit (by decide), h.fld (by decide), h.bit (by decide), h.fld (by decide)]
    exact hr
  obtain ⟨hboot, -, -, -, hfld⟩ := queuedAlone_spec k i u
  have hbit {f : FRef} (hf : f.off = BRG_RETRAIN_STATUS) (hhi : f.hi < 64) (hlo : 7 < f.lo) : bit f (queuedAlone k i u) = bit f s := by
    have hu : bit f u = bit f s := h.bit (by rw [hf]; decide)
    rw [← hu]
    exact congrArg (· != 0) (hfld f hf hhi hlo)
  have hkinds (x : Nat) (hx : k ≠ x) : ((queuedAlone k i u).boot.retrainQ.all fun q => q.1 != x) = true := by
    rw [hboot]
    simp [hx]
  unfold retrainServed
  rw [queueRetrain_queues hru (by rw [h.boot, hq])]
  rcases hk with rfl | rfl
  · rw [portNext_idle (.inl ((hbit rfl (by decide) (by decide)).trans hbusy)), atollNext_idle (.inr (hkinds 1 (by decide)))]
  · rw [portNext_idle (.inr (hkinds 0 (by decide))), atollNext_idle (.inl ((hbit rfl (by decide) (by decide)).trans hbusy))]

/-- What a request alone in the queue changes. -/
theorem regsOnly_queued (k i : Nat) {s u : State} (h : Asked s u) :
    RegsOnly [BRG_RETRAIN, BRG_RETRAIN_STATUS] { s with boot := (queuedAlone k i u).boot } (queuedAlone k i u) := by
  obtain ⟨hrest, hmem, hwear, hregs⟩ := h.only
  have hset : RegsOnly [BRG_RETRAIN, BRG_RETRAIN_STATUS] { u with boot := { u.boot with retrainQ := [(k, i)] } } (queuedAlone k i u) :=
    ((regEffect_setFld BRG_RETRAIN_STATUS_QUEUED _).mono (by simp [BRG_RETRAIN_STATUS_QUEUED])).regsOnly _
  have hbase : RegsOnly [BRG_RETRAIN, BRG_RETRAIN_STATUS] { s with boot := (queuedAlone k i u).boot }
      { u with boot := { u.boot with retrainQ := [(k, i)] } } :=
    ⟨congrArg (fun x : State => { x with boot := { u.boot with retrainQ := [(k, i)] } }) hrest, hmem, hwear,
      fun o ho => hregs o fun hm => ho (by simp only [List.mem_cons, List.not_mem_nil, or_false] at hm ⊢; exact .inl hm)⟩
  exact regsOnly_trans hbase hset

/-! ### What starts at once -/

/-- An atoll that is present and up starts to retrain at once. -/
theorem retrain_atoll {i : Nat} {s u : State} (h : Asked s u) (hq : s.boot.retrainQ = []) (hhere : atollHere s i = true)
    (hfail : atollFailed i s = false) (hbusy : bit BRG_RETRAIN_STATUS_ATOLL_BUSY s = false) (hhaven : bit PWR_HAVEN_ACTIVE s = false) :
    retrainServed 1 i u = atollStarts i (queueEmpty (queuedAlone 1 i u)) := by
  have hru : retrains 1 i u = false := by
    unfold retrains
    rw [if_neg (by decide), h.bit (by decide), hbusy]
    rfl
  obtain ⟨hboot, hfuse, -, hrd, hfld⟩ := queuedAlone_spec 1 i u
  have hbusyQ : bit BRG_RETRAIN_STATUS_ATOLL_BUSY (queuedAlone 1 i u) = false := by
    have hu : bit BRG_RETRAIN_STATUS_ATOLL_BUSY u = false := (h.bit (by decide)).trans hbusy
    rw [← hu]
    exact congrArg (· != 0) (hfld _ rfl (by decide) (by decide))
  have hhavenQ : bit PWR_HAVEN_ACTIVE (queuedAlone 1 i u) = false := by
    have hu : bit PWR_HAVEN_ACTIVE u = false := (h.bit (by decide)).trans hhaven
    rw [← hu]
    exact congrArg (· != 0) (fld_congr_rd (hrd _ (by decide)))
  have hhereQ : atollHere (queuedAlone 1 i u) i = true := by
    unfold atollHere isS at hhere ⊢
    rw [hfuse, h.fuse]
    exact hhere
  have hfailQ : atollFailed i (queuedAlone 1 i u) = false := by
    unfold atollFailed at hfail ⊢
    rw [fld_congr_rd (hrd (atollFld i).off (by simp only [atollFld]; decide)), h.fld (by simp only [atollFld]; decide)]
    exact hfail
  unfold retrainServed
  rw [queueRetrain_queues hru (by rw [h.boot, hq]), portNext_idle (.inr (by rw [hboot]; rfl)),
    atollNext_starts hbusyQ hhavenQ (by rw [hboot]) hhereQ hfailQ]

theorem queueEmpty_rd {o : Nat} (ho : o ≠ BRG_RETRAIN_STATUS) (s : State) : rd o (queueEmpty s) = rd o s :=
  rd_setFld_other BRG_RETRAIN_STATUS_QUEUED _ _ ho

theorem queueEmpty_sameMem (s : State) : SameMem s (queueEmpty s) := fun _ => ⟨rfl, rfl⟩

theorem queuedAlone_sameMem (k i : Nat) (s : State) : SameMem s (queuedAlone k i s) := fun _ => ⟨rfl, rfl⟩

/-- Whether a port may train is not a matter of the request. -/
theorem mayTrain_congr {p : Nat} {s t : State} (hon : t.boot.on = s.boot.on) (hfuse : t.fuse = s.fuse) (hpins : t.pins = s.pins)
    (hgld : rd GLD_CTRL t = rd GLD_CTRL s) (hstage : rd BRG_STATUS t = rd BRG_STATUS s)
    (hsrc : rd CRN_BOOT_CFG t = rd CRN_BOOT_CFG s) : mayTrain p t = mayTrain p s := by
  have hg : bit GLD_CTRL_EN t = bit GLD_CTRL_EN s := congrArg (fun v => fldOf GLD_CTRL_EN v != 0) hgld
  have hs : stage t = stage s := congrArg (fldOf BRG_STATUS_STAGE) hstage
  have hb : bit CRN_BOOT_CFG_SOURCE t = bit CRN_BOOT_CFG_SOURCE s := congrArg (fun v => fldOf CRN_BOOT_CFG_SOURCE v != 0) hsrc
  unfold mayTrain trains portHere isS
  rw [hon, hfuse, hpins, hg, hs, hb]

/-- A port that may train leaves for its retrain at once. -/
theorem retrain_port {i : Nat} {s u : State} (h : Asked s u) (hq : s.boot.retrainQ = []) (hi : i < 7) (hmay : mayTrain i s = true)
    (hbusy : bit BRG_RETRAIN_STATUS_PORT_BUSY s = false) :
    retrainServed 0 i u = train i (portReady i (queueEmpty (queuedAlone 0 i u))) := by
  have hru : retrains 0 i u = false := by
    unfold retrains
    rw [if_pos rfl, h.bit (by decide), hbusy]
    rfl
  obtain ⟨hboot, hfuse, hpins, hrd, hfld⟩ := queuedAlone_spec 0 i u
  have hbusyQ : bit BRG_RETRAIN_STATUS_PORT_BUSY (queuedAlone 0 i u) = false := by
    have hu : bit BRG_RETRAIN_STATUS_PORT_BUSY u = false := (h.bit (by decide)).trans hbusy
    rw [← hu]
    exact congrArg (· != 0) (hfld _ rfl (by decide) (by decide))
  have hsame {o : Nat} (ho : o ≠ BRG_RETRAIN_STATUS) (ho' : o ≠ BRG_RETRAIN) : rd o (queuedAlone 0 i u) = rd o s :=
    (hrd o ho).trans (h.only.2.2.2 o (by simpa using ho'))
  have hmayQ : mayTrain i (queuedAlone 0 i u) = true := by
    rw [mayTrain_congr (s := s) (by rw [hboot, h.boot]) (hfuse.trans h.fuse) (hpins.trans h.pins) (hsame (by decide) (by decide))
      (hsame (by decide) (by decide)) (hsame (by decide) (by decide))]
    exact hmay
  have hdone : ((train i (portReady i (queueEmpty (queuedAlone 0 i u)))).boot.retrainQ.all fun q => q.1 != 1) = true := by
    rw [(train_spec hi _).1.boot_eq, portReady_boot]
    rfl
  unfold retrainServed
  rw [queueRetrain_queues hru (by rw [h.boot, hq]), portNext_starts (by omega) hbusyQ (by rw [hboot]) hmayQ, atollNext_idle (.inr hdone)]

theorem retrain_port_spec {i : Nat} (hi : i < 7) (s : State) :
    let t := train i (portReady i s)
    bit BRG_RETRAIN_STATUS_PORT_BUSY t = true ∧ fld BRG_RETRAIN_STATUS_PORT t = i ∧ portState i t = pTraining ∧ SameMem s t := by
  obtain ⟨htrouble, hstate⟩ := train_spec hi (portReady i s)
  obtain ⟨hbusy, hport⟩ := portClaimed_spec (p := i) (by omega) s
  have hfree : BRG_RETRAIN_STATUS ∉ GLD_PORT_LANES i :: GLD_PORT_STATUS i :: routeRegs := by
    simp only [List.mem_cons, GLD_PORT_LANES, GLD_PORT_STATUS, not_or]
    refine ⟨?_, ?_, by decide⟩ <;> unfold BRG_RETRAIN_STATUS <;> omega
  have hkeep {f : FRef} (hf : f.off = BRG_RETRAIN_STATUS) : fld f (train i (portReady i s)) = fld f (portClaimed i s) := by
    have hreg : KeepsReg f.off (portReady i s) (train i (portReady i s)) := by
      rw [hf]
      exact htrouble.keepsReg (by decide) hfree
    exact (hreg.fld_low (by rw [hf]; decide)).trans (fld_congr (portReady_regs i s) f)
  refine ⟨?_, (hkeep rfl).trans hport, hstate, sameMem_trans (portReady_sameMem i s) htrouble.sameMem⟩
  unfold bit
  rw [hkeep rfl, hbusy]
  rfl

/-- Retrain requests (R440). -/
theorem retrainRequests_holds : retrainRequests := by
  intro v s ha htested hgo hq
  obtain ⟨i, hi⟩ : ∃ i, i = fldOf BRG_RETRAIN_INDEX (v.setWidth 64) := ⟨_, rfl⟩
  rw [← hi]
  have hi8 : i < 8 := hi ▸ Nat.mod_lt _ (by decide)
  refine ⟨fun h24 hhere => ?_, fun h24 hlt => ?_⟩
  · have hkind : fldOf BRG_RETRAIN_KIND (v.setWidth 64) = 1 := by rw [fldOf_KIND, h24]; rfl
    have gives {P : State → Prop} (hp : ∀ f : State → State, ∀ u, Asked s u → f s = retrainServed 1 i u → P (after f s)) :
        Gives (.retrainRequest v) s P :=
      gives_retrain ha htested hgo hkind (by rw [if_neg (by decide), ← hi]; exact hhere) (.inl rfl) (by rw [← hi]; exact hp)
    refine ⟨fun hfail hbusy hhaven => gives fun f u hu hf => ?_, fun hbusy hsame => gives fun f u hu hf => ?_,
      fun hbusy hother => gives fun f u hu hf => ?_⟩
    · rw [retrain_atoll hu hq hhere hfail hbusy hhaven] at hf
      obtain ⟨hb, hatoll, hcount, hmem⟩ := atollStarts_spec hi8 (queueEmpty (queuedAlone 1 i u))
      obtain ⟨-, -, -, hrd, -⟩ := queuedAlone_spec 1 i u
      rw [← hf] at hb hatoll hcount hmem
      have hcnt : rd (BRG_CNT 1) (queueEmpty (queuedAlone 1 i u)) = rd (BRG_CNT 1) s := by
        rw [queueEmpty_rd (by decide), hrd _ (by decide), hu.only.2.2.2 _ (by decide)]
      refine ⟨by rw [bit_after, hb], by rw [fld_after, hatoll], ?_, sameMem_after ?_⟩
      · rw [rd_after, ← hcnt]
        exact hcount
      · exact sameMem_trans (sameMem_trans hu.only.2.1 (queuedAlone_sameMem 1 i u)) (sameMem_trans (queueEmpty_sameMem _) hmem)
    · have hr : retrains 1 i s = true := by
        unfold retrains
        rw [if_neg (by decide), hbusy, hsame]
        simp
      rw [retrain_merges hu hq hr] at hf
      exact regsOnly_after (by rw [hf]; exact hu.only)
    · have hr : retrains 1 i s = false := by
        unfold retrains
        rw [if_neg (by decide), hbusy]
        simpa using hother
      rw [retrain_queued hu hq (.inr rfl) hr hbusy] at hf
      have honly := regsOnly_queued 1 i hu
      rw [← hf] at honly
      refine ⟨by rw [after_boot, hf, (queuedAlone_spec 1 i u).1], ?_⟩
      rw [after_boot]
      exact regsOnly_after_of rfl honly
  · have hkind : fldOf BRG_RETRAIN_KIND (v.setWidth 64) = 0 := by rw [fldOf_KIND, h24]; rfl
    have gives {P : State → Prop} (hhere : portHere s i = true)
        (hp : ∀ f : State → State, ∀ u, Asked s u → f s = retrainServed 0 i u → P (after f s)) : Gives (.retrainRequest v) s P :=
      gives_retrain ha htested hgo hkind (by rw [if_pos rfl, ← hi]; exact hhere) (.inr (by omega)) (by rw [← hi]; exact hp)
    refine ⟨fun hmay hbusy => ?_, fun hhere hbusy hsame => gives hhere fun f u hu hf => ?_,
      fun hhere hbusy hother => gives hhere fun f u hu hf => ?_⟩
    · have hhere : portHere s i = true := by
        unfold mayTrain at hmay
        simp only [Bool.and_eq_true] at hmay
        exact hmay.1.1.1.2
      refine gives hhere fun f u hu hf => ?_
      rw [retrain_port hu hq hlt hmay hbusy] at hf
      obtain ⟨hb, hport, hstate, hmem⟩ := retrain_port_spec hlt (queueEmpty (queuedAlone 0 i u))
      rw [← hf] at hb hport hstate hmem
      refine ⟨by rw [bit_after, hb], by rw [fld_after, hport], (fld_after _ f s).trans hstate, fun _ => sameMem_after ?_⟩
      exact sameMem_trans (sameMem_trans hu.only.2.1 (queuedAlone_sameMem 0 i u)) (sameMem_trans (queueEmpty_sameMem _) hmem)
    · have hr : retrains 0 i s = true := by
        unfold retrains
        rw [if_pos rfl, hbusy, hsame]
        simp
      rw [retrain_merges hu hq hr] at hf
      exact regsOnly_after (by rw [hf]; exact hu.only)
    · have hr : retrains 0 i s = false := by
        unfold retrains
        rw [if_pos rfl, hbusy]
        simpa using hother
      rw [retrain_queued hu hq (.inl rfl) hr hbusy] at hf
      have honly := regsOnly_queued 0 i hu
      rw [← hf] at honly
      refine ⟨by rw [after_boot, hf, (queuedAlone_spec 0 i u).1], ?_⟩
      rw [after_boot]
      exact regsOnly_after_of rfl honly

/-- Settles O20: each link event is one step; a retrain request merges, is queued, or starts at once. -/
theorem hostAndRetrain : Obligations.HostAndRetrain := ⟨hostLinks_holds, retrainRequests_holds⟩

end Sys2Proof.Machine
end

section
/-! PROOFS. GLD_NODE and receive rings (R283, R284, R306). -/

namespace Sys2Proof.Machine

open Sys2Proof.Safety

/-! ### The ports take a new position (R281, R282) -/

/-- Registers below the context bank that an evaluation of the ports writes. -/
def portRegs : List Nat := (List.range 7).map GLD_PORT_STATUS ++ routeRegs

theorem troubled_evalPort {p : Nat} (hp : p < 7) (s : State) : Troubled portRegs s (evalPort p s) := by
  have hmove (st cause : Nat) : Troubled portRegs s (movePort p st cause s) :=
    (troubled_movePort p st cause s).mono (List.cons_subset.mpr
      ⟨List.mem_append_left _ (List.mem_map_of_mem (List.mem_range.mpr hp)), List.subset_append_right _ _⟩)
  unfold evalPort
  dsimp only
  split
  · split
    · exact troubled_refl _ s
    · exact hmove _ _
  split
  · split
    · exact troubled_refl _ s
    · exact hmove _ _
  · exact troubled_refl _ s

theorem troubled_foldl_mem {α : Type} {l : List Nat} {f : State → α → State} {xs : List α} (h : ∀ x ∈ xs, ∀ s, Troubled l s (f s x))
    (s : State) : Troubled l s (xs.foldl f s) := by
  induction xs generalizing s with
  | nil => exact troubled_refl l s
  | cons x xs ih => exact (h x (by simp) s).trans (ih (fun y hy => h y (by simp [hy])) _)

theorem mem_of_mem_insertBy {α : Type} {lt : α → α → Bool} {a x : α} {l : List α} (h : x ∈ insertBy lt a l) : x = a ∨ x ∈ l := by
  induction l with
  | nil => simpa [insertBy] using h
  | cons b l ih =>
    unfold insertBy at h
    split at h
    · simpa using h
    · rcases List.mem_cons.mp h with rfl | h
      · simp
      · rcases ih h with rfl | h <;> simp [*]

theorem mem_of_mem_sortBy {α : Type} {lt : α → α → Bool} {x : α} {l : List α} (h : x ∈ sortBy lt l) : x ∈ l := by
  induction l with
  | nil => exact h
  | cons a l ih => exact List.mem_cons.mpr ((mem_of_mem_insertBy h).imp_right ih)

/-- The errors that ports raise as they leave UP together are the fabric's alone. -/
theorem troubled_cutErrs (l : List Nat) (goDown : Bool) (s : State) : Troubled troubleRegs s (cutErrs l goDown s) := by
  have herr (f : FRef) (hf : f.off = GLD_ERR) (c st n : Nat) (u : State) : Troubled troubleRegs u (gldErr f c st n u) :=
    troubled_of_regEffect (regEffect_gldErr f hf c st n) (by decide) u
  unfold cutErrs
  extract_lets cut dead down
  refine troubled_foldl_mem (fun e he u => herr _ ?_ _ _ _ u) s
  have hmem : e ∈ down ++ dead := mem_of_mem_sortBy he
  rcases List.mem_append.mp hmem with hd | hd
  · unfold down at hd
    split at hd
    · obtain ⟨p, -, rfl⟩ := List.mem_map.mp hd
      rfl
    · simp at hd
  · obtain ⟨o, -, rfl⟩ := List.mem_map.mp hd
    rfl

theorem troubled_evalPorts (s : State) : Troubled portRegs s (evalPorts s) := by
  unfold evalPorts
  refine ((troubled_cutErrs _ _ s).mono fun o ho => List.mem_append_right _ (trouble_subset_route ho)).trans
    (troubled_foldl_mem (fun p hp u => ?_) _)
  split
  · exact troubled_evalPort (List.mem_range.mp hp) u
  · exact troubled_refl _ u

end Sys2Proof.Machine
end

section
/-! PROOFS. Writes of GLD_NODE and of receive rings (R283, R284, R306). -/

namespace Sys2Proof.Machine

open Sys2Proof.Safety

/-! ### GLD_NODE (R283, R284) -/

/-- Whether the dimensions that a value of GLD_NODE gives take more than 128 nodes. -/
def meshTooBig (x : W64) : Bool :=
  128 < (fldOf GLD_NODE_DX_M1 x + 1) * (fldOf GLD_NODE_DY_M1 x + 1) * (fldOf GLD_NODE_DZ_M1 x + 1)

/-- A value of GLD_NODE with the dimensions of another. -/
def keepMesh (old x : W64) : W64 :=
  setFldOf GLD_NODE_DX_M1 (fldOf GLD_NODE_DX_M1 old) (setFldOf GLD_NODE_DY_M1 (fldOf GLD_NODE_DY_M1 old)
    (setFldOf GLD_NODE_DZ_M1 (fldOf GLD_NODE_DZ_M1 old) x))

/-- What a write of GLD_NODE stores where no context exists. -/
def nodeValue (v : W64) (s : State) : W64 :=
  if meshTooBig (written GLD_NODE v s).1 then keepMesh (rd GLD_NODE s) (written GLD_NODE v s).1 else (written GLD_NODE v s).1

/-- The register as stored, and a reserved encoding noted. -/
def nodeStored (v : W64) (s : State) : State :=
  rsvEnc ((written GLD_NODE v s).2 || meshTooBig (written GLD_NODE v s).1) (wr GLD_NODE (nodeValue v s) s)

/-- What follows from a new position. -/
def nodeSettled (s : State) : State := evalPorts (sendIds (routeChanged (modGld (fun g => { g with downLinks := [] }) s)))

theorem nodeWrite_free {v : W64} {s : State} (h : anyCtx s = false) : nodeWrite v s = nodeSettled (nodeStored v s) := by
  unfold nodeWrite
  dsimp only
  rw [if_neg (by rw [h]; decide)]
  rfl

theorem nodeWrite_locked {v : W64} {s : State} (h : anyCtx s = true) :
    nodeWrite v s = rsvEnc ((written GLD_NODE v s).2 || meshTooBig (written GLD_NODE v s).1) (gldErr GLD_ERR_CFG_LOCKED 0 0 0 s) := by
  unfold nodeWrite
  dsimp only
  rw [if_pos h]
  rfl

theorem troubled_nodeSettled (s : State) : Troubled portRegs s (nodeSettled s) := by
  have hroute : Troubled portRegs (modGld (fun g => { g with downLinks := [] }) s)
      (routeChanged (modGld (fun g => { g with downLinks := [] }) s)) :=
    (troubled_routeChanged _).mono (List.subset_append_right _ _)
  exact (((troubled_modGld portRegs s _).trans hroute).trans (troubled_posted _ (posted_sendIds _))).trans (troubled_evalPorts _)

theorem bit_rsvEnc {b : Bool} (h : b = true) (s : State) : bit TOP_ERR_RSV_ENC (rsvEnc b s) = true := by
  subst h
  exact bit_raiseLatch (by decide) (by decide) _ _

theorem fldOf_keepMesh (old x : W64) :
    fldOf GLD_NODE_NODE (keepMesh old x) = fldOf GLD_NODE_NODE x ∧ fldOf GLD_NODE_DX_M1 (keepMesh old x) = fldOf GLD_NODE_DX_M1 old ∧
      fldOf GLD_NODE_DY_M1 (keepMesh old x) = fldOf GLD_NODE_DY_M1 old ∧
      fldOf GLD_NODE_DZ_M1 (keepMesh old x) = fldOf GLD_NODE_DZ_M1 old := by
  have hlt (f : FRef) (v : W64) : fldOf f v < 2 ^ (f.hi + 1 - f.lo) := Nat.mod_lt _ (Nat.two_pow_pos _)
  have hsame {f : FRef} (hf : f.hi < 64) (v y : W64) : fldOf f (setFldOf f (fldOf f v) y) = fldOf f v := by
    rw [fldOf_setFldOf_same f _ y hf, Nat.mod_eq_of_lt (hlt f v)]
  have hother {f g : FRef} (hg : g.hi < 64) (h : f.hi < g.lo ∨ g.hi < f.lo) (n : Nat) (y : W64) :
      fldOf g (setFldOf f n y) = fldOf g y := fldOf_setFldOf_disjoint f g n y hg h
  unfold keepMesh
  refine ⟨?_, hsame (by decide) _ _, ?_, ?_⟩
  · rw [hother (by decide) (.inr (by decide)), hother (by decide) (.inr (by decide)), hother (by decide) (.inr (by decide))]
  · rw [hother (by decide) (.inr (by decide)), hsame (by decide)]
  · rw [hother (by decide) (.inr (by decide)), hother (by decide) (.inr (by decide)), hsame (by decide)]

/-- The fields below the phase of a strike register are what the write stored. -/
theorem fld_nodeSettled {f : FRef} (hf : f.off = GLD_NODE) (hhi : f.hi < 29) (v : W64) (s : State) :
    fld f (nodeSettled (nodeStored v s)) = fldOf f (nodeValue v s) := by
  have hkeep : KeepsReg f.off (nodeStored v s) (nodeSettled (nodeStored v s)) := by
    rw [hf]
    exact (troubled_nodeSettled _).keepsReg (by decide) (by decide +kernel)
  have hrd : rd GLD_NODE (nodeStored v s) = nodeValue v s :=
    ((regEffect_rsvEnc _ _).2 GLD_NODE (by decide)).trans (rd_wr_same _ _ _)
  rw [hkeep.fld_eq hhi]
  unfold fld
  rw [hf, hrd]

theorem bit_RSV_ENC_nodeSettled {v : W64} {s : State} (h : meshTooBig (written GLD_NODE v s).1 = true) :
    bit TOP_ERR_RSV_ENC (nodeSettled (nodeStored v s)) = true := by
  have hkeep : fld TOP_ERR_RSV_ENC (nodeSettled (nodeStored v s)) = fld TOP_ERR_RSV_ENC (nodeStored v s) :=
    ((troubled_nodeSettled _).keepsReg (by decide) (by decide +kernel)).fld_low (by decide)
  have hbit : bit TOP_ERR_RSV_ENC (nodeStored v s) = true := bit_rsvEnc (by rw [h, Bool.or_true]) _
  unfold bit at hbit ⊢
  rw [hkeep, hbit]

theorem nodeStored_sameMem (v : W64) (s : State) : SameMem s (nodeStored v s) :=
  sameMem_trans ((regEffect_wr GLD_NODE (nodeValue v s)).sameMem s) ((regEffect_rsvEnc _).sameMem _)

theorem regHold_GLD_NODE : regHold GLD_NODE = some (GLD_NODE, false) := by decide +kernel

/-- A locked write raises its errors alone. -/
theorem node_locked_spec (b : Bool) (s : State) :
    bit GLD_ERR_CFG_LOCKED (rsvEnc b (gldErr GLD_ERR_CFG_LOCKED 0 0 0 s)) = true ∧
      RegsOnly [GLD_ERR, GLD_ERR_INFO, TOP_ERR, TOP_ERR_ADDR] s (rsvEnc b (gldErr GLD_ERR_CFG_LOCKED 0 0 0 s)) := by
  have hlock : bit GLD_ERR_CFG_LOCKED (gldErr GLD_ERR_CFG_LOCKED 0 0 0 s) = true := bit_gldErr (by decide) (by decide) _ _ _ _
  have hsame : fld GLD_ERR_CFG_LOCKED (rsvEnc b (gldErr GLD_ERR_CFG_LOCKED 0 0 0 s)) =
      fld GLD_ERR_CFG_LOCKED (gldErr GLD_ERR_CFG_LOCKED 0 0 0 s) := (regEffect_rsvEnc b).fld (by decide) _
  refine ⟨?_, regsOnly_trans (((regEffect_gldErr GLD_ERR_CFG_LOCKED rfl 0 0 0).mono (by simp)).regsOnly s)
    (((regEffect_rsvEnc b).mono (by simp)).regsOnly _)⟩
  unfold bit at hlock ⊢
  rw [hsame, hlock]

/-- Writes of GLD_NODE (R283, R284). -/
theorem nodeWrites (v : W32) (s : State) (ha : Answers GLD_NODE s) : Gives (.gldNodeWrite v) s fun t =>
    let new := (written GLD_NODE (v.setWidth 64) s).1
    let big := 128 < (fldOf GLD_NODE_DX_M1 new + 1) * (fldOf GLD_NODE_DY_M1 new + 1) * (fldOf GLD_NODE_DZ_M1 new + 1)
    (anyCtx s = true → bit GLD_ERR_CFG_LOCKED t = true ∧ (big → bit TOP_ERR_RSV_ENC t = true) ∧
      RegsOnly [GLD_ERR, GLD_ERR_INFO, TOP_ERR, TOP_ERR_ADDR] s t) ∧
    (anyCtx s = false → ¬big → fld GLD_NODE_NODE t = fldOf GLD_NODE_NODE new ∧ fld GLD_NODE_DX_M1 t = fldOf GLD_NODE_DX_M1 new ∧
      fld GLD_NODE_DY_M1 t = fldOf GLD_NODE_DY_M1 new ∧ fld GLD_NODE_DZ_M1 t = fldOf GLD_NODE_DZ_M1 new) ∧
    (anyCtx s = false → big → fld GLD_NODE_NODE t = fldOf GLD_NODE_NODE new ∧ fld GLD_NODE_DX_M1 t = fld GLD_NODE_DX_M1 s ∧
      fld GLD_NODE_DY_M1 t = fld GLD_NODE_DY_M1 s ∧ fld GLD_NODE_DZ_M1 t = fld GLD_NODE_DZ_M1 s ∧
      bit TOP_ERR_RSV_ENC t = true) ∧
    (s.gld.ops = [] → SameMem s t) := by
  obtain ⟨u, hu⟩ : ∃ u, u = accessed GLD_NODE s := ⟨_, rfl⟩
  have hacc : RegsOnly [GLD_ERR, GLD_ERR_INFO, TOP_ERR, TOP_ERR_ADDR] s u := hu ▸ (regEffect_accessed _ _).regsOnly s
  have hctx : anyCtx u = anyCtx s := by rw [hu]; rfl
  have hwritten : written GLD_NODE (v.setWidth 64) u = written GLD_NODE (v.setWidth 64) s := written_congr (by rw [hu]; rfl) _
  have hrdN : rd GLD_NODE u = rd GLD_NODE s := by rw [hu]; rfl
  have he : driverWrite GLD_NODE 4 (v.setWidth 64) s = nodeWrite (v.setWidth 64) u := by
    rw [driverWrite_word ha regHold_GLD_NODE, regWrite_gld (by decide) (by decide), hu]
    rfl
  cases hany : anyCtx s with
  | true =>
    rw [nodeWrite_locked (hctx.trans hany), hwritten] at he
    obtain ⟨hlock, honly⟩ := node_locked_spec ((written GLD_NODE (v.setWidth 64) s).2 || meshTooBig (written GLD_NODE (v.setWidth 64) s).1) u
    have hall := regsOnly_trans hacc honly
    have hbig (hb : meshTooBig (written GLD_NODE (v.setWidth 64) s).1 = true) := bit_rsvEnc
      (b := (written GLD_NODE (v.setWidth 64) s).2 || meshTooBig (written GLD_NODE (v.setWidth 64) s).1) (by rw [hb, Bool.or_true])
      (gldErr GLD_ERR_CFG_LOCKED 0 0 0 u)
    rw [← he] at hlock hall hbig
    refine gives_run (f := fun s => driverWrite GLD_NODE 4 (v.setWidth 64) s) rfl
      ⟨fun _ => ⟨?_, fun hb => ?_, regsOnly_after hall⟩, fun h => by simp at h, fun h => by simp at h, fun _ => sameMem_after hall.2.1⟩
    · rw [bit_after, hlock]
    · rw [bit_after]
      exact hbig (decide_eq_true hb)
  | false =>
    rw [nodeWrite_free (hctx.trans hany)] at he
    have hmem := sameMem_trans (sameMem_trans hacc.2.1 (nodeStored_sameMem (v.setWidth 64) u)) (troubled_nodeSettled _).sameMem
    have hfld {f : FRef} (hf : f.off = GLD_NODE) (hhi : f.hi < 29) := fld_nodeSettled hf hhi (v.setWidth 64) u
    have hrsv (hb : meshTooBig (written GLD_NODE (v.setWidth 64) u).1 = true) := bit_RSV_ENC_nodeSettled hb
    simp only [← he] at hmem hfld hrsv
    unfold nodeValue at hfld
    simp only [hwritten, hrdN] at hfld hrsv
    refine gives_run (f := fun s => driverWrite GLD_NODE 4 (v.setWidth 64) s) rfl
      ⟨fun h => by simp at h, fun _ hb => ?_, fun _ hb => ?_, fun _ => sameMem_after hmem⟩
    · have hsmall : ¬meshTooBig (written GLD_NODE (v.setWidth 64) s).1 = true := fun h => hb (of_decide_eq_true h)
      simp only [if_neg hsmall] at hfld
      simp only [fld_after]
      exact ⟨hfld rfl (by decide), hfld rfl (by decide), hfld rfl (by decide), hfld rfl (by decide)⟩
    · have hbig : meshTooBig (written GLD_NODE (v.setWidth 64) s).1 = true := decide_eq_true hb
      obtain ⟨hnode, hx, hy, hz⟩ := fldOf_keepMesh (rd GLD_NODE s) (written GLD_NODE (v.setWidth 64) s).1
      simp only [if_pos hbig] at hfld
      simp only [fld_after, bit_after]
      exact ⟨(hfld rfl (by decide)).trans hnode, (hfld rfl (by decide)).trans hx, (hfld rfl (by decide)).trans hy,
        (hfld rfl (by decide)).trans hz, hrsv hbig⟩

/-! ### Receive rings (R306) -/

/-- The ring of a context starts empty. -/
def ringCleared (c : Nat) (s : State) : State :=
  modGld (fun g => { g with recvHeld := put g.recvHeld 0 c 0, sends := g.sends.filter fun k => k.1 / 2 ^ 26 != c }) s

/-- Whether a ring lies in a SCRATCH region bound to its context. -/
def ringFits (c : Nat) (new : W64) (s : State) : Bool :=
  boundKind c kScratch (fldOf (GLD_MSG_RING_ADDR c) new * 4096)
    (2 ^ fldOf (GLD_MSG_RING_ORDER c) new * 2 ^ (12 + fldOf (GLD_MSG_RING_SLOT c) new)) s

section
variable {c : Nat} {v : W64} {s : State}

theorem ringWrite_dropped (h : fldOf (GLD_MSG_RING_VALID c) (written (GLD_MSG_RING c) v s).1 = 0) :
    ringWrite c v s = rsvEnc (written (GLD_MSG_RING c) v s).2 (wr (GLD_MSG_RING c) (written (GLD_MSG_RING c) v s).1 s) := if_pos h

theorem ringWrite_registers (h : fldOf (GLD_MSG_RING_VALID c) (written (GLD_MSG_RING c) v s).1 ≠ 0)
    (hfit : ringFits c (written (GLD_MSG_RING c) v s).1 s = true) :
    ringWrite c v s = rsvEnc (written (GLD_MSG_RING c) v s).2 (wr (GLD_MSG_RING c) (written (GLD_MSG_RING c) v s).1
      (wr (GLD_MSG_STATUS c) 0 (ringCleared c s))) := (if_neg h).trans (if_pos hfit)

theorem ringWrite_refused (h : fldOf (GLD_MSG_RING_VALID c) (written (GLD_MSG_RING c) v s).1 ≠ 0)
    (hfit : ringFits c (written (GLD_MSG_RING c) v s).1 s = false) :
    ringWrite c v s = gldErr GLD_ERR_WINDOW_CFG c 0 0 (rsvEnc (written (GLD_MSG_RING c) v s).2 s) :=
  (if_neg h).trans (if_neg fun hx => absurd (hfit.symm.trans hx) (by decide))

end

theorem regWrite_GLD_MSG_RING {c : Nat} (hc : c < 64) (v : W64) (s : State) : regWrite true (GLD_MSG_RING c) v s = ringWrite c v s := by
  rw [regWrite_gld (by unfold GLD_MSG_RING; omega) (by unfold GLD_MSG_RING; omega)]
  have hidx : (GLD_MSG_RING c - 0x603000) / 0x10 = c := by unfold GLD_MSG_RING; omega
  unfold gldWrite
  rw [if_neg (by unfold GLD_MSG_RING GLD_CTRL; omega), if_neg (by unfold GLD_MSG_RING GLD_NODE; omega),
    if_neg (by unfold GLD_MSG_RING; simp),
    if_pos (by unfold GLD_MSG_RING; simp; omega), hidx]

/-- Writes of receive rings (R306). -/
theorem ringWrites (c : BitVec 6) (v : W64) (s : State) (ha : Answers (GLD_MSG_RING c.toNat) s) : Gives (.msgRingWrite c v) s fun t =>
    let o := GLD_MSG_RING c.toNat
    let new := (written o v s).1
    let ok := boundKind c.toNat kScratch (fldOf (GLD_MSG_RING_ADDR c.toNat) new * 4096)
      (2 ^ fldOf (GLD_MSG_RING_ORDER c.toNat) new * 2 ^ (12 + fldOf (GLD_MSG_RING_SLOT c.toNat) new)) s
    let valid := fldOf (GLD_MSG_RING_VALID c.toNat) new ≠ 0
    (valid → ok = true → rd o t = new ∧ rd (GLD_MSG_STATUS c.toNat) t = 0) ∧
    (valid → ok = false → rd o t = rd o s ∧ bit GLD_ERR_WINDOW_CFG t = true) ∧
    (¬valid → rd o t = new) ∧
    SameRegs [o, GLD_MSG_STATUS c.toNat, GLD_ERR, GLD_ERR_INFO, TOP_ERR, TOP_ERR_ADDR] s t ∧ SameMem s t := by
  obtain ⟨n, hn⟩ : ∃ n, n = c.toNat := ⟨_, rfl⟩
  have hc : n < 64 := by
    have := c.isLt
    omega
  rw [← hn] at ha ⊢
  obtain ⟨u, hu⟩ : ∃ u, u = accessed (GLD_MSG_RING n) s := ⟨_, rfl⟩
  have hfree : GLD_MSG_RING n ∉ [TOP_ERR, TOP_ERR_ADDR] ∧ GLD_MSG_STATUS n ∉ [TOP_ERR, TOP_ERR_ADDR] ∧
      GLD_MSG_RING n ∉ [GLD_ERR, GLD_ERR_INFO] ∧ GLD_MSG_RING n ≠ GLD_MSG_STATUS n := by
    simp only [List.mem_cons, List.not_mem_nil, or_false, GLD_MSG_RING, GLD_MSG_STATUS, TOP_ERR, TOP_ERR_ADDR, GLD_ERR, GLD_ERR_INFO]
    omega
  obtain ⟨hring, hstatus, hring', hne⟩ := hfree
  have hacc : SameRegs [GLD_MSG_RING n, GLD_MSG_STATUS n, GLD_ERR, GLD_ERR_INFO, TOP_ERR, TOP_ERR_ADDR] s u ∧ SameMem s u := by
    rw [hu]
    exact ⟨fun _ _ => rfl, fun _ => ⟨rfl, rfl⟩⟩
  have hrd : rd (GLD_MSG_RING n) u = rd (GLD_MSG_RING n) s := by rw [hu]; rfl
  have hwritten : written (GLD_MSG_RING n) v u = written (GLD_MSG_RING n) v s := written_congr hrd v
  have hfits (x : W64) : ringFits n x u = ringFits n x s := by rw [hu]; rfl
  have he : driverWrite (GLD_MSG_RING n) 8 v s = ringWrite n v u := by
    exact write64_to ha (regHold_GLD_MSG_RING ⟨n, hc⟩) (by rw [regWrite_GLD_MSG_RING hc, hu])
  have hexec : exec (.msgRingWrite c v) s = run (driverWrite (GLD_MSG_RING n) 8 v) s := by rw [hn]; rfl
  have hrsv (b : Bool) {l : List Nat} (hl : [TOP_ERR, TOP_ERR_ADDR] ⊆ l) (x : State) : SameRegs l x (rsvEnc b x) ∧ SameMem x (rsvEnc b x) :=
    ⟨((regEffect_rsvEnc b).mono hl x).2, (regEffect_rsvEnc b).sameMem x⟩
  have hstored {x : State} (hx : SameMem s x ∧ SameRegs [GLD_MSG_RING n, GLD_MSG_STATUS n, GLD_ERR, GLD_ERR_INFO, TOP_ERR, TOP_ERR_ADDR] s x)
      (hw : driverWrite (GLD_MSG_RING n) 8 v s = x) :
      SameRegs [GLD_MSG_RING n, GLD_MSG_STATUS n, GLD_ERR, GLD_ERR_INFO, TOP_ERR, TOP_ERR_ADDR] s (after (driverWrite (GLD_MSG_RING n) 8 v) s) ∧
      SameMem s (after (driverWrite (GLD_MSG_RING n) 8 v) s) := by
    rw [← hw] at hx
    exact ⟨sameRegs_after hx.2, sameMem_after hx.1⟩
  by_cases hvalid : fldOf (GLD_MSG_RING_VALID n) (written (GLD_MSG_RING n) v s).1 = 0
  · rw [ringWrite_dropped (by rw [hwritten]; exact hvalid), hwritten] at he
    have hwr := regEffect_wr (GLD_MSG_RING n) (written (GLD_MSG_RING n) v s).1
    have hdone := hrsv (written (GLD_MSG_RING n) v s).2
      (l := [GLD_MSG_RING n, GLD_MSG_STATUS n, GLD_ERR, GLD_ERR_INFO, TOP_ERR, TOP_ERR_ADDR]) (by simp) (wr (GLD_MSG_RING n) (written (GLD_MSG_RING n) v s).1 u)
    have hall : SameMem s (driverWrite (GLD_MSG_RING n) 8 v s) ∧
        SameRegs [GLD_MSG_RING n, GLD_MSG_STATUS n, GLD_ERR, GLD_ERR_INFO, TOP_ERR, TOP_ERR_ADDR] s (driverWrite (GLD_MSG_RING n) 8 v s) := by
      rw [he]
      exact ⟨sameMem_trans hacc.2 (sameMem_trans (hwr.sameMem u) hdone.2),
        fun o ho => (hdone.1 o ho).trans (((hwr.mono (by simp) u).2 o ho).trans (hacc.1 o ho))⟩
    refine gives_run hexec ⟨fun h => absurd hvalid h, fun h => absurd hvalid h, fun _ => ?_, hstored hall rfl⟩
    rw [rd_after, he, (regEffect_rsvEnc _ _).2 _ hring, rd_wr_same]
  · cases hfit : ringFits n (written (GLD_MSG_RING n) v s).1 s with
    | true =>
      rw [ringWrite_registers (by rw [hwritten]; exact hvalid) (by rw [hwritten, hfits, hfit]), hwritten] at he
      have hwr := regEffect_wr (GLD_MSG_RING n) (written (GLD_MSG_RING n) v s).1
      have hst := regEffect_wr (GLD_MSG_STATUS n) 0
      have hclear : SameMem u (ringCleared n u) ∧ ∀ o, rd o (ringCleared n u) = rd o u := ⟨fun _ => ⟨rfl, rfl⟩, fun _ => rfl⟩
      have hdone := hrsv (written (GLD_MSG_RING n) v s).2
        (l := [GLD_MSG_RING n, GLD_MSG_STATUS n, GLD_ERR, GLD_ERR_INFO, TOP_ERR, TOP_ERR_ADDR]) (by simp)
        (wr (GLD_MSG_RING n) (written (GLD_MSG_RING n) v s).1 (wr (GLD_MSG_STATUS n) 0 (ringCleared n u)))
      have hall : SameMem s (driverWrite (GLD_MSG_RING n) 8 v s) ∧
          SameRegs [GLD_MSG_RING n, GLD_MSG_STATUS n, GLD_ERR, GLD_ERR_INFO, TOP_ERR, TOP_ERR_ADDR] s (driverWrite (GLD_MSG_RING n) 8 v s) := by
        rw [he]
        refine ⟨sameMem_trans (sameMem_trans hacc.2 hclear.1) (sameMem_trans (hst.sameMem _) (sameMem_trans (hwr.sameMem _) hdone.2)),
          fun o ho => ?_⟩
        calc rd o _ = _ := hdone.1 o ho
          _ = _ := (hwr.mono (by simp) _).2 o ho
          _ = _ := (hst.mono (by simp) _).2 o ho
          _ = rd o u := hclear.2 o
          _ = rd o s := hacc.1 o ho
      refine gives_run hexec ⟨fun _ _ => ⟨?_, ?_⟩, fun _ h => ?_, fun h => absurd hvalid h, hstored hall rfl⟩
      · rw [rd_after, he, (regEffect_rsvEnc _ _).2 _ hring, rd_wr_same]
      · rw [rd_after, he, (regEffect_rsvEnc _ _).2 _ hstatus, rd_wr_other hne.symm, rd_wr_same]
      · exact absurd (hfit.symm.trans h) (by decide)
    | false =>
      rw [ringWrite_refused (by rw [hwritten]; exact hvalid) (by rw [hwritten, hfits, hfit]), hwritten] at he
      have herr := regEffect_gldErr GLD_ERR_WINDOW_CFG rfl n 0 0
      have hdone := hrsv (written (GLD_MSG_RING n) v s).2
        (l := [GLD_MSG_RING n, GLD_MSG_STATUS n, GLD_ERR, GLD_ERR_INFO, TOP_ERR, TOP_ERR_ADDR]) (by simp) u
      have hall : SameMem s (driverWrite (GLD_MSG_RING n) 8 v s) ∧
          SameRegs [GLD_MSG_RING n, GLD_MSG_STATUS n, GLD_ERR, GLD_ERR_INFO, TOP_ERR, TOP_ERR_ADDR] s (driverWrite (GLD_MSG_RING n) 8 v s) := by
        rw [he]
        exact ⟨sameMem_trans hacc.2 (sameMem_trans hdone.2 (herr.sameMem _)),
          fun o ho => ((herr.mono (by simp) _).2 o ho).trans ((hdone.1 o ho).trans (hacc.1 o ho))⟩
      refine gives_run hexec ⟨fun _ h => ?_, fun _ _ => ⟨?_, ?_⟩, fun h => absurd hvalid h, hstored hall rfl⟩
      · exact absurd (hfit.symm.trans h) (by decide)
      · rw [rd_after, he, (herr _).2 _ hring', (regEffect_rsvEnc _ _).2 _ hring, hrd]
      · rw [bit_after, he]
        exact bit_gldErr (by decide) (by decide) _ _ _ _

/-- Settles O14: what follows from a new position touches no field of GLD_NODE; a ring write has three outcomes. -/
theorem fabricIdentityAndRings : Obligations.FabricIdentityAndRings := ⟨nodeWrites, ringWrites⟩

end Sys2Proof.Machine
end

section
/-! PROOFS. The stages of bring-up (R429, R432 to R438), and the start of a waiting rejoin (R442). -/

namespace Sys2Proof.Machine

open Sys2Proof.Safety

/-! ### What the ports do as a stage begins -/

/-- Registers below the context bank that the ports of a stage write. -/
def stagePortRegs : List Nat := (List.range 7).map GLD_PORT_LANES ++ portRegs

theorem portStatus_mem {p : Nat} (hp : p < 7) : GLD_PORT_STATUS p ∈ portRegs :=
  List.mem_append_left _ (List.mem_map_of_mem (List.mem_range.mpr hp))

theorem troubled_move {p : Nat} (hp : p < 7) (st cause : Nat) (s : State) : Troubled stagePortRegs s (movePort p st cause s) :=
  (troubled_movePort p st cause s).mono (List.cons_subset.mpr ⟨List.mem_append_right _ (portStatus_mem hp),
    fun _ ho => List.mem_append_right _ (List.mem_append_right _ ho)⟩)

theorem troubled_train {p : Nat} (hp : p < 7) (s : State) : Troubled stagePortRegs s (train p s) :=
  (train_spec hp s).1.mono (List.cons_subset.mpr ⟨List.mem_append_left _ (List.mem_map_of_mem (List.mem_range.mpr hp)),
    List.cons_subset.mpr ⟨List.mem_append_right _ (portStatus_mem hp), fun _ ho => List.mem_append_right _ (List.mem_append_right _ ho)⟩⟩)

theorem troubled_startTraining {p : Nat} (hp : p < 7) (s : State) : Troubled stagePortRegs s (startTraining p s) := by
  unfold startTraining
  split
  · exact troubled_train hp s
  · exact troubled_refl _ s

theorem troubled_modPort (l : List Nat) (p : Nat) (f : Port → Port) (s : State) : Troubled l s (modPort p f s) := troubled_modGld l s _

theorem troubled_linkTrain (s : State) : Troubled stagePortRegs s (linkTrain s) := by
  refine troubled_foldl_mem (fun p hp u => ?_) s
  have hp7 := List.mem_range.mp hp
  split
  · exact troubled_refl _ u
  split
  · split
    · exact ((troubled_modPort _ _ _ u).trans (troubled_move hp7 _ _ _)).trans (troubled_posted _ (posted_post _ _ _ _))
    · exact troubled_modPort _ _ _ u
  split
  · exact troubled_startTraining hp7 u
  · exact troubled_move hp7 _ _ u

/-- What a stage does once it has begun. -/
def stageActs (k : Nat) (s : State) : State :=
  if k = stFwFetch then
    if broadcast s then (List.range 6).foldl (fun s p => startTraining p s) s else s
  else if k = stLinkTrain then linkTrain s
  else if k = stDiscover then evalPorts s
  else s

theorem beginStage_eq (k : Nat) (s : State) : beginStage k s = stageActs k (setStage k s) := rfl

theorem troubled_stageActs (k : Nat) (s : State) : Troubled stagePortRegs s (stageActs k s) := by
  unfold stageActs
  split
  · split
    · exact troubled_foldl_mem (fun p hp u => troubled_startTraining (Nat.lt_succ_of_lt (List.mem_range.mp hp)) u) s
    · exact troubled_refl _ s
  split
  · exact troubled_linkTrain s
  split
  · exact (troubled_evalPorts s).mono (List.subset_append_right _ _)
  · exact troubled_refl _ s

/-! ### A stage ends -/

theorem stage_setStage {k : Nat} (hk : k < 16) (s : State) : stage (setStage k s) = k := by
  have h : stage (setStage k s) = k % 2 ^ 4 := fld_setFld_same BRG_STATUS_STAGE k s (by decide)
  rw [h]
  exact Nat.mod_eq_of_lt hk

/-- The end of stage `k` is kept, and the measurements of ATTEST are recorded. -/
def stageKept (us k : Nat) (s : State) : State :=
  if k = stAttest then finalMeas (setFld (BRG_STAGE_US_US k) us s) else setFld (BRG_STAGE_US_US k) us s

theorem stageEnd_done {s : State} (hon : s.boot.on = true) (hdone : stageDone (stage s) s = true) (us : Nat) :
    stageEnd us s = stageActs (stage s + 1) (setStage (stage s + 1) (stageKept us (stage s) s)) := by
  unfold stageEnd
  dsimp only
  rw [if_neg (by rw [hon, hdone]; decide)]
  rfl

theorem stageEnd_waits {s : State} (hdone : stageDone (stage s) s = false) (us : Nat) : stageEnd us s = s :=
  if_pos (by rw [hdone]; simp)

theorem stageKept_regs (us k : Nat) (s : State) : (stageKept us k s).regs = (setFld (BRG_STAGE_US_US k) us s).regs := by
  unfold stageKept
  split <;> rfl

theorem stageKept_sameMem (us k : Nat) (s : State) : SameMem s (stageKept us k s) := by
  unfold stageKept
  split <;> exact fun _ => ⟨rfl, rfl⟩

theorem stageKept_boot (us k : Nat) (s : State) : (stageKept us k s).boot = s.boot := by
  unfold stageKept
  split <;> rfl

/-- BRG registers are none that the ports of a stage write. -/
theorem brg_free {o : Nat} (h : BRG_STATUS ≤ o) (h' : o < 0x10200) : o ∉ stagePortRegs := by
  simp only [stagePortRegs, portRegs, routeRegs, troubleRegs, List.mem_append, List.mem_map, List.mem_range, List.mem_cons, List.not_mem_nil,
    GLD_PORT_LANES, GLD_PORT_STATUS, GLD_REACH, BT_STATUS, SKN_CNT, SKN_ERR, SEC_ERR, GLD_ERR, GLD_ERR_INFO, GLD_CNT, PWR_LEAVE, FRY_ERR,
    FRY_ERR_INFO, FRY_CNT, or_false, not_or, not_exists, not_and]
  unfold BRG_STATUS at h
  refine ⟨fun x _ => ?_, fun x _ => ?_, ?_⟩ <;> omega

/-- What a stage leaves as it ends. -/
theorem stageEnd_spec {s : State} (hon : s.boot.on = true) (hdone : stageDone (stage s) s = true) (hk : stage s ≤ 8) (us : Nat) :
    stage (stageEnd us s) = stage s + 1 ∧ fld (BRG_STAGE_US_US (stage s)) (stageEnd us s) = us % 2 ^ 32 ∧
      SameMem s (stageEnd us s) ∧ (stageEnd us s).boot = s.boot ∧ bit BRG_CTRL_WARM (stageEnd us s) = bit BRG_CTRL_WARM s := by
  obtain ⟨k, hkeq⟩ : ∃ k, k = stage s := ⟨_, rfl⟩
  rw [stageEnd_done hon hdone, ← hkeq]
  rw [← hkeq] at hk
  obtain ⟨u, hu⟩ : ∃ u, u = setStage (k + 1) (stageKept us k s) := ⟨_, rfl⟩
  have hacts := troubled_stageActs (k + 1) u
  have hlow {f : FRef} (ho : BRG_STATUS ≤ f.off) (ho' : f.off < 0x10200) : fld f (stageActs (k + 1) u) = fld f u :=
    (hacts.keepsReg (by omega) (brg_free ho ho')).fld_low (by unfold INT_STRIKES; omega)
  have hset {f : FRef} (hf : f.off ≠ BRG_STATUS) : fld f u = fld f (setFld (BRG_STAGE_US_US k) us s) := by
    rw [hu]
    exact (fld_setFld_other BRG_STATUS_STAGE f _ _ hf).trans (fld_congr (stageKept_regs us k s) f)
  rw [← hu]
  refine ⟨?_, ?_, ?_, ?_, ?_⟩
  · have hstage : stage u = k + 1 := by rw [hu, stage_setStage (by omega)]
    exact (hlow (f := BRG_STATUS_STAGE) (by decide) (by decide)).trans hstage
  · rw [hlow (by simp only [BRG_STAGE_US_US, BRG_STAGE_US, BRG_STATUS]; omega) (by simp only [BRG_STAGE_US_US, BRG_STAGE_US]; omega),
      hset (by simp only [BRG_STAGE_US_US, BRG_STAGE_US, BRG_STATUS]; omega)]
    exact fld_setFld_same (BRG_STAGE_US_US k) us s (show 31 < 64 by decide)
  · refine sameMem_trans (sameMem_trans (stageKept_sameMem us k s) ?_) hacts.sameMem
    rw [hu]
    exact fun _ => ⟨rfl, rfl⟩
  · rw [hacts.boot_eq, hu]
    exact stageKept_boot us k s
  · unfold bit
    rw [hlow (f := BRG_CTRL_WARM) (by decide) (by decide), hset (by decide),
      fld_setFld_other _ _ _ _ (by simp only [BRG_CTRL_WARM, BRG_CTRL, BRG_STAGE_US_US, BRG_STAGE_US]; omega)]

end Sys2Proof.Machine
end

section
/-! PROOFS. A warm rejoin that waited for SELFTEST (R442), and the stages with it. -/

namespace Sys2Proof.Machine

open Sys2Proof.Safety

/-- BRG_STATUS and BRG_CTRL read as before. -/
def BrgKept (s t : State) : Prop := rd BRG_STATUS t = rd BRG_STATUS s ∧ rd BRG_CTRL t = rd BRG_CTRL s

theorem brgKept_refl (s : State) : BrgKept s s := ⟨rfl, rfl⟩

theorem BrgKept.trans {s t u : State} (h : BrgKept s t) (h' : BrgKept t u) : BrgKept s u := ⟨h'.1.trans h.1, h'.2.trans h.2⟩

theorem brgKept_of_regs {s t : State} (h : t.regs = s.regs) : BrgKept s t := ⟨rd_congr h _, rd_congr h _⟩

theorem brgKept_of_regEffect {l : List Nat} {f : State → State} (h : RegEffect l f) (hs : BRG_STATUS ∉ l) (hc : BRG_CTRL ∉ l)
    (s : State) : BrgKept s (f s) := ⟨(h s).2 _ hs, (h s).2 _ hc⟩

theorem brgKept_of_troubled {s t : State} (h : Troubled stagePortRegs s t) : BrgKept s t :=
  ⟨(h.keepsReg (by decide) (brg_free (by decide) (by decide))).rd_low (by decide),
    (h.keepsReg (by decide) (brg_free (by decide) (by decide))).rd_low (by decide)⟩

theorem brgKept_foldl_mem {α : Type} {f : State → α → State} {xs : List α} (h : ∀ x ∈ xs, ∀ s, BrgKept s (f s x)) (s : State) :
    BrgKept s (xs.foldl f s) := by
  induction xs generalizing s with
  | nil => exact brgKept_refl s
  | cons x xs ih => exact (h x (by simp) s).trans (ih (fun y hy => h y (by simp [hy])) _)

theorem brgKept_raiseLatch {f : FRef} {flds : List (FRef × Nat)} (h : ∀ g ∈ f :: flds.map (·.1), g.off ≠ BRG_STATUS ∧ g.off ≠ BRG_CTRL)
    (s : State) : BrgKept s (raiseLatch f flds s) := by
  have hflag (u : State) : BrgKept u (setFld f 1 u) := brgKept_of_regEffect (regEffect_setFld f 1)
    (by simpa using (h f (by simp)).1.symm) (by simpa using (h f (by simp)).2.symm) u
  have hflds (u : State) : BrgKept u (setFlds flds u) :=
    brgKept_of_regEffect (regEffect_setFlds flds)
      (fun hm => by
        obtain ⟨q, hq, heq⟩ := List.mem_map.mp hm
        exact (h q.1 (by simp only [List.mem_cons, List.mem_map]; exact .inr ⟨q, hq, rfl⟩)).1 heq)
      (fun hm => by
        obtain ⟨q, hq, heq⟩ := List.mem_map.mp hm
        exact (h q.1 (by simp only [List.mem_cons, List.mem_map]; exact .inr ⟨q, hq, rfl⟩)).2 heq) u
  unfold raiseLatch
  split
  · exact (hflds s).trans (hflag _)
  · exact hflag s

theorem brgKept_buildPools (a : Nat) (s : State) : BrgKept s (buildPools a s) := by
  refine brgKept_foldl_mem (fun k _ u => ?_) s
  split
  · exact brgKept_refl u
  · exact brgKept_of_regs rfl

/-- Entering the frames of the pools leaves the stage alone. -/
theorem brgKept_kvEnter (s : State) : BrgKept s (kvEnter s) := by
  have hmodKv (f : Kv → Kv) (u : State) : BrgKept u (modKv f u) := brgKept_of_regs rfl
  have hctx (u : State) : BrgKept u (zeroRegs ((List.range 64).map KV_CTX) u) :=
    brgKept_of_regEffect (regEffect_zeroRegs _) (by decide) (by decide) u
  refine (((hmodKv _ s).trans (hctx _)).trans (hmodKv _ _)).trans (brgKept_foldl_mem (fun a _ u => ?_) _)
  split
  · exact brgKept_refl u
  · obtain ⟨ok, err⟩ := buildAtoll a u
    have herr (v : State) (x : Nat) : BrgKept u v → BrgKept u
        (if err then modKv (fun y => { y with bad := y.bad ++ [a] }) (raiseLatch KV_ERR_POOL_SIZE [(KV_ERR_ADDR_STAPLE, x)] v) else v) :=
      fun hv => by
        split
        · exact (hv.trans (brgKept_raiseLatch (by simp only [List.map]; decide) v)).trans (hmodKv _ _)
        · exact hv
    dsimp only
    split
    · exact (herr u _ (brgKept_refl u)).trans (brgKept_buildPools a _)
    · exact herr u _ (brgKept_refl u)

theorem brgKept_buildStart (s : State) : BrgKept s (buildStart s) := by
  have hmodKv (f : Kv → Kv) (u : State) : BrgKept u (modKv f u) := brgKept_of_regs rfl
  unfold buildStart
  split
  · exact brgKept_raiseLatch (by decide) s
  · exact (((brgKept_kvEnter s).trans (hmodKv _ _)).trans
      (brgKept_of_regEffect (regEffect_setFld KV_STATUS_READY 0) (by decide) (by decide) _)).trans
      (brgKept_of_regEffect (regEffect_setFld KV_CTRL_BUILD 1) (by decide) (by decide) _)

theorem brgKept_retrainAll (s : State) : BrgKept s (retrainAll s) := by
  have habandon (u : State) : BrgKept u (abandonAtoll u) := by
    unfold abandonAtoll
    split
    · exact brgKept_of_regEffect (regEffect_setFlds _) (by simp [BRG_RETRAIN_STATUS_ATOLL_BUSY, BRG_RETRAIN_STATUS_ATOLL, atollFld,
        BRG_RETRAIN_STATUS, BRG_STATUS, MEM_STATUS]) (by simp [BRG_RETRAIN_STATUS_ATOLL_BUSY, BRG_RETRAIN_STATUS_ATOLL, atollFld,
        BRG_RETRAIN_STATUS, BRG_CTRL, MEM_STATUS]) u
    · exact brgKept_refl u
  have hqueue (u : State) : BrgKept u (setFlds
      [(BRG_RETRAIN_STATUS_PORT_BUSY, 0), (BRG_RETRAIN_STATUS_PORT, 0), (BRG_RETRAIN_STATUS_QUEUED, 0)] u) :=
    brgKept_of_regEffect (regEffect_setFlds _) (by decide) (by decide) u
  have hboot (f : Boot → Boot) (u : State) : BrgKept u (modBoot f u) := brgKept_of_regs rfl
  unfold retrainAll
  refine (((habandon s).trans (hboot _ _)).trans (hqueue _)).trans (brgKept_foldl_mem (fun p hp u => ?_) _)
  have hlink : BrgKept u (setFld (SEC_LINK_STATE p) lsNone (setPort p {} u)) :=
    BrgKept.trans (t := setPort p {} u) (brgKept_of_regs rfl) (brgKept_of_regEffect (regEffect_setFld (SEC_LINK_STATE p) lsNone)
      (by simp only [SEC_LINK_STATE, SEC_LINK, BRG_STATUS, List.mem_singleton]; omega)
      (by simp only [SEC_LINK_STATE, SEC_LINK, BRG_CTRL, List.mem_singleton]; omega) _)
  split
  · exact brgKept_refl u
  · dsimp only
    split
    · exact hlink.trans (brgKept_of_troubled (troubled_train (List.mem_range.mp hp) _))
    · exact hlink

/-- What a rejoin puts into registers as it starts. -/
def rejoinFlds : List (FRef × Nat) :=
  [(INT_STATUS_SOUND_BUSY, 0), (INT_SOUND_STATUS_BUSY, 0), (BRG_STATUS_STAGE, stWarm), (BRG_STATUS_COLD, 0), (BRG_CTRL_WARM, 0),
    (PWR_HAVEN_ACTIVE, 0), (PWR_HAVEN_CAUSE, 0), (PWR_HAVEN_EXIT, 0), (PWR_STATUS_HAVEN, 0), (PWR_STATUS_POINT, 0),
    (PWR_STATUS_TARGET, 0), (PWR_STATUS_STEPPING, 0), (SEC_OFFING_PAIRS_PAIRS, 0)]

theorem rejoinFlds_apart : rejoinFlds.Pairwise fun p q => q.1.Apart p.1 := by
  unfold rejoinFlds FRef.Apart
  decide

/-- What a rejoin leaves of the stage, from the state in which every context is gone. -/
def rejoinFrom (haven : Bool) (s : State) : State :=
  let s := setFlds rejoinFlds s
  let s := (List.range 10).foldl (fun s k => wr (BRG_STAGE_US k) 0 s) s
  let s := modSec (fun x => { x with sessions := [], ide := [], pairs := [] }) s
  let s := modPins (fun p => { p with havenLow := false }) s
  let s := if s.pwr.clrDue then zeroRegs ((List.range 8).map PWR_CNT) s else s
  let s := modPwr (fun p => { p with avg := none, stepTo := 0, higherUs := 0, clrDue := false }) s
  let s := modBoot (fun b => { b with rejoin := 1, fromHaven := b.fromHaven || haven, trained := [] }) s
  let s := if bit KV_STATUS_READY s then buildStart s else s
  bump64 (BRG_CNT 2) 1 (retrainAll s)

theorem warmStart_eq (s : State) : ∃ u, warmStart s = rejoinFrom (bit PWR_HAVEN_ACTIVE s) u := ⟨_, rfl⟩

theorem brgKept_rejoinFrom (haven : Bool) (s : State) : BrgKept (setFlds rejoinFlds s) (rejoinFrom haven s) := by
  have hus (u : State) : BrgKept u ((List.range 10).foldl (fun s k => wr (BRG_STAGE_US k) 0 s) u) :=
    brgKept_foldl_mem (fun k _ x => brgKept_of_regEffect (regEffect_wr (BRG_STAGE_US k) 0)
      (by simp only [BRG_STAGE_US, BRG_STATUS, List.mem_singleton]; omega)
      (by simp only [BRG_STAGE_US, BRG_CTRL, List.mem_singleton]; omega) x) u
  have hcnt (u : State) : BrgKept u (zeroRegs ((List.range 8).map PWR_CNT) u) :=
    brgKept_of_regEffect (regEffect_zeroRegs _) (by decide) (by decide) u
  have hbump (u : State) : BrgKept u (bump64 (BRG_CNT 2) 1 u) := brgKept_of_regEffect (regEffect_bump64 _ 1) (by decide) (by decide) u
  unfold rejoinFrom
  extract_lets a b c d e f g h
  have hb : BrgKept a b := hus a
  have hd : BrgKept b d := brgKept_of_regs rfl
  have he : BrgKept d e := by
    unfold e
    split
    · exact hcnt d
    · exact brgKept_refl d
  have hg : BrgKept e g := brgKept_of_regs rfl
  have hh : BrgKept g h := by
    unfold h
    split
    · exact brgKept_buildStart g
    · exact brgKept_refl g
  exact ((hb.trans (hd.trans he)).trans (hg.trans hh)).trans ((brgKept_retrainAll h).trans (hbump _))

/-- A rejoin has started: the stage is WARM, and the request is taken. -/
theorem warmStart_spec (s : State) : stage (warmStart s) = stWarm ∧ bit BRG_CTRL_WARM (warmStart s) = false := by
  obtain ⟨u, hu⟩ := warmStart_eq s
  obtain ⟨hstatus, hctrl⟩ := brgKept_rejoinFrom (bit PWR_HAVEN_ACTIVE s) u
  have hstage : fld BRG_STATUS_STAGE (setFlds rejoinFlds u) = stWarm % 2 ^ 4 :=
    fld_setFlds_of_mem rejoinFlds_apart (by decide) (by simp [rejoinFlds]) u
  have hwarm : fld BRG_CTRL_WARM (setFlds rejoinFlds u) = 0 % 2 ^ 1 :=
    fld_setFlds_of_mem rejoinFlds_apart (by decide) (by simp [rejoinFlds]) u
  rw [hu]
  generalize bit PWR_HAVEN_ACTIVE s = haven at hstatus hctrl
  refine ⟨(fld_congr_rd (f := BRG_STATUS_STAGE) hstatus).trans hstage, ?_⟩
  unfold bit
  rw [fld_congr_rd (f := BRG_CTRL_WARM) hctrl, hwarm]
  rfl

/-! ### The stages as commands -/

/-- Every rail group is in regulation, and PWRGD is released. -/
def powered (s : State) : State :=
  setStage stRom (modPins (fun p => { p with pwrgd := true }) (modBoot (fun b => { b with rails := railOrder }) s))

theorem powerGood_eq {s : State} (hon : s.boot.on = true) (hstage : stage s = stPower) : powerGood s = powered s := by
  unfold powerGood
  rw [if_pos (by rw [hon, hstage]; rfl)]
  rfl

theorem settleWarm_quiet {s : State} (h : bit BRG_CTRL_WARM s = false ∨ s.boot.tested = false) : settleWarm s = s := by
  unfold settleWarm
  split
  · next hw =>
    have hno : mayRejoin s = false := by
      unfold mayRejoin
      rw [h.resolve_left (by rw [hw]; decide), Bool.and_false, Bool.false_and, Bool.false_and]
    unfold warmTrigger
    rw [hno]
    rfl
  · rfl

theorem settleWarm_rejoins {s : State} (hwarm : bit BRG_CTRL_WARM s = true) (hon : s.boot.on = true) (htested : s.boot.tested = true)
    (hstage : stage s ≤ 9) : settleWarm s = warmStart s := by
  have hmay : mayRejoin s = true := by
    unfold mayRejoin
    rw [hon, htested]
    have hh : stage s ≠ stHaven := by unfold stHaven; omega
    have hf : stage s ≠ stFailed := by unfold stFailed; omega
    simp [hh, hf]
  unfold settleWarm warmTrigger
  rw [if_pos hwarm, if_pos hmay]

/-- The stages of bring-up (R429, R432 to R438, R442). -/
theorem stagesInOrder_holds : stagesInOrder := by
  refine ⟨fun s hon hstage => ?_, fun us s hon hlow hhigh => ?_⟩
  · refine gives_run_of (g := powered) rfl (powerGood_eq hon hstage) ⟨?_, ?_, ?_, ?_⟩
    · exact (fld_after BRG_STATUS_STAGE powered s).trans (stage_setStage (by decide) _)
    · rw [after_pins]; rfl
    · rw [after_boot]; rfl
    · rw [after_pins, after_boot]
      exact regsOnly_after_of rfl ((regEffect_setFld BRG_STATUS_STAGE stRom).regsOnly _)
  · obtain ⟨f, hf⟩ : ∃ f : State → State, f = fun s => settleWarm (stageEnd us s) := ⟨_, rfl⟩
    have hexec : exec (.stageComplete us) s = run f s := by rw [hf]; rfl
    have hfs : f s = settleWarm (stageEnd us s) := by rw [hf]
    have hended : (stageEnd us s).boot = s.boot ∧ bit BRG_CTRL_WARM (stageEnd us s) = bit BRG_CTRL_WARM s ∧
        stage (stageEnd us s) ≤ 9 := by
      cases hdone : stageDone (stage s) s with
      | true =>
        obtain ⟨hstage, -, -, hboot, hwarm⟩ := stageEnd_spec hon hdone hhigh us
        exact ⟨hboot, hwarm, by omega⟩
      | false =>
        rw [stageEnd_waits hdone]
        exact ⟨rfl, rfl, by omega⟩
    obtain ⟨hboot, hwarm, hle⟩ := hended
    refine gives_run hexec ⟨fun hquiet => ?_, fun hw htested => ?_⟩
    · rw [settleWarm_quiet (by rw [hboot, hwarm]; exact hquiet)] at hfs
      refine ⟨fun hdone => ?_, fun hdone => ?_⟩
      · obtain ⟨hstage, hus, hmem, -, -⟩ := stageEnd_spec hon hdone hhigh us
        rw [← hfs] at hstage hus hmem
        exact ⟨(fld_after BRG_STATUS_STAGE f s).trans hstage, by rw [fld_after, hus], fun _ => sameMem_after hmem⟩
      · rw [stageEnd_waits hdone] at hfs
        exact regsOnly_after (by rw [hfs]; exact (regEffect_id []).regsOnly s)
    · rw [settleWarm_rejoins (hwarm.trans hw) (by rw [hboot, hon]) (by rw [hboot, htested]) hle] at hfs
      obtain ⟨hstage, htaken⟩ := warmStart_spec (stageEnd us s)
      rw [← hfs] at hstage htaken
      exact ⟨(fld_after BRG_STATUS_STAGE f s).trans hstage, by rw [bit_after, htaken]⟩

end Sys2Proof.Machine
end

section
/-! PROOFS. The self-test's report (R434, R435). -/

namespace Sys2Proof.Machine

open Sys2Proof.Safety
set_option Elab.async false

/-! ### What the report leaves alone -/

/-- Only the listed registers, the wear counters, and what serves power and swaps change. -/
def TestOnly (l : List Nat) (s t : State) : Prop :=
  (∀ o ∉ l, rd o t = rd o s) ∧ t.boot = s.boot ∧ t.sec = s.sec ∧ t.fuse = s.fuse ∧ t.skeins = s.skeins ∧ t.kv = s.kv

theorem testOnly_refl (l : List Nat) (s : State) : TestOnly l s s := ⟨fun _ _ => rfl, rfl, rfl, rfl, rfl, rfl⟩

theorem TestOnly.trans {l : List Nat} {s t u : State} (h : TestOnly l s t) (h' : TestOnly l t u) : TestOnly l s u := by
  obtain ⟨hr, hb, hs, hf, hk, hv⟩ := h
  obtain ⟨hr', hb', hs', hf', hk', hv'⟩ := h'
  exact ⟨fun o ho => (hr' o ho).trans (hr o ho), hb'.trans hb, hs'.trans hs, hf'.trans hf, hk'.trans hk, hv'.trans hv⟩

theorem testOnly_of_regEffect {l m : List Nat} {f : State → State} (h : RegEffect l f) (hsub : l ⊆ m) (s : State) :
    TestOnly m s (f s) := by
  obtain ⟨⟨r, a, d, he⟩, hr⟩ := h s
  refine ⟨fun o ho => hr o fun hm => ho (hsub hm), ?_, ?_, ?_, ?_, ?_⟩ <;> rw [he]

theorem TestOnly.mono {l m : List Nat} {s t : State} (h : TestOnly l s t) (hsub : l ⊆ m) : TestOnly m s t :=
  ⟨fun o ho => h.1 o fun hm => ho (hsub hm), h.2⟩

theorem testOnly_foldl_mem {α : Type} {l : List Nat} {f : State → α → State} {xs : List α}
    (h : ∀ x ∈ xs, ∀ s, TestOnly l s (f s x)) (s : State) : TestOnly l s (xs.foldl f s) := by
  induction xs generalizing s with
  | nil => exact testOnly_refl l s
  | cons x xs ih => exact (h x (by simp) s).trans (ih (fun y hy => h y (by simp [hy])) _)

theorem TestOnly.fld_eq {l : List Nat} {s t : State} (h : TestOnly l s t) {f : FRef} (hf : f.off ∉ l) : fld f t = fld f s :=
  fld_congr_rd (h.1 f.off hf)

/-! ### Spindles -/

/-- The registers that the test of the spindles writes. -/
def spindleTestRegs : List Nat :=
  [CRN_ERR, CRN_ERR_ADDR, BRG_SELFTEST] ++ (List.range 32).map CRN_RETIRE ++ (List.range 304).map INT_STRIKES

theorem mem_spindleTestRegs {o : Nat} (h : o ∈ spindleTestRegs) :
    o = BRG_SELFTEST ∨ CRN_ERR ≤ o ∧ o < 0x23000 ∨ INT_STRIKES 0 ≤ o ∧ o < 0x83000 := by
  simp only [spindleTestRegs, List.mem_append, List.mem_map, List.mem_range, List.mem_cons, List.not_mem_nil, or_false, CRN_RETIRE,
    INT_STRIKES, CRN_ERR, CRN_ERR_ADDR, BRG_SELFTEST] at h ⊢
  obtain (h | ⟨r, hr, rfl⟩) | ⟨p, hp, rfl⟩ := h <;> omega

theorem testOnly_wear {o k : Nat} (ho : o ∈ spindleTestRegs) (v : W64) (s : State) :
    TestOnly spindleTestRegs s (wearWrite k false (wr o v) s) := by
  unfold wearWrite
  split
  · have hflag : RegEffect [CRN_ERR] (setErr CRN_ERR_WORN) := regEffect_setFld _ 1
    unfold raiseLatch
    split
    · exact (testOnly_of_regEffect (regEffect_setFlds _) (by simp [CRN_ERR_ADDR_KEY, CRN_ERR_ADDR_OFFSET, spindleTestRegs]) s).trans
        (testOnly_of_regEffect hflag (by simp [spindleTestRegs]) _)
    · exact testOnly_of_regEffect hflag (by simp [spindleTestRegs]) s
  · refine TestOnly.trans (t := { s with wear := put s.wear 0 k (wearOf k s + 1) }) ⟨fun _ _ => rfl, rfl, rfl, rfl, rfl, rfl⟩ ?_
    exact testOnly_of_regEffect (regEffect_wr o v) (by simpa using ho) _

theorem testOnly_crnPut {o : Nat} (ho : o ∈ spindleTestRegs) (v : W64) (s : State) : TestOnly spindleTestRegs s (crnPut o v s) := by
  unfold crnPut
  split
  · exact testOnly_refl _ s
  · exact testOnly_wear ho v s

theorem testOnly_retire (p cause : Nat) (s : State) : TestOnly spindleTestRegs s (retire p cause s) := by
  unfold retire
  split
  · exact testOnly_of_regEffect (regEffect_setFld CRN_ERR_RETIRE_FULL 1) (by decide) s
  · next r hr =>
    have hlt : r < 32 := List.mem_range.mp (List.mem_of_find?_eq_some hr)
    refine testOnly_crnPut ?_ _ s
    simp only [spindleTestRegs, List.mem_append, List.mem_map, List.mem_range]
    exact .inl (.inr ⟨r, hlt, rfl⟩)

theorem testOnly_setPh {p : Nat} (hp : p < 304) (st n : Nat) (s : State) : TestOnly spindleTestRegs s (setPh p st n s) := by
  have hmem : INT_STRIKES p ∈ spindleTestRegs := by
    simp only [spindleTestRegs, List.mem_append, List.mem_map, List.mem_range]
    exact .inr ⟨p, hp, rfl⟩
  exact testOnly_of_regEffect (regEffect_setFlds _) (by simp [INT_STRIKES_STATE, INT_STRIKES_LOGICAL, hmem]) s

theorem testOnly_mapDie {d : Nat} (hd : d < 2) (bad : List Nat) (s : State) : TestOnly spindleTestRegs s (mapDie d bad s) := by
  have hstep {xs : List Nat} (hxs : ∀ p ∈ xs, p < 304) {f : Nat × State → Nat → Nat × State}
      (hf : ∀ p < 304, ∀ a, TestOnly spindleTestRegs a.2 (f a p).2) (a : Nat × State) :
      TestOnly spindleTestRegs a.2 (xs.foldl f a).2 := by
    induction xs generalizing a with
    | nil => exact testOnly_refl _ _
    | cons x xs ih => exact (hf x (hxs x (by simp)) a).trans (ih (fun y hy => hxs y (by simp [hy])) _)
  unfold mapDie
  refine hstep (fun p hp => ?_) (fun p hp a => ?_) (0, s)
  · obtain ⟨i, hi, rfl⟩ := List.mem_map.mp hp
    have := List.mem_range.mp hi
    omega
  · obtain ⟨n, u⟩ := a
    dsimp only
    split
    · exact testOnly_setPh hp _ _ u
    split
    · exact testOnly_setPh hp _ _ u
    split
    · exact testOnly_setPh hp _ _ u
    split
    · exact testOnly_setPh hp _ _ u
    · exact testOnly_setPh hp _ _ u

theorem testOnly_testSpindles (x : SelfTest) (s : State) : TestOnly spindleTestRegs s (testSpindles x s) := by
  unfold testSpindles mapSpindles
  extract_lets bad u n
  have hu : TestOnly spindleTestRegs s u := testOnly_foldl_mem (fun p _ v => testOnly_retire p 9 v) s
  have hset (v : State) :
      TestOnly spindleTestRegs v (setFlds [(BRG_SELFTEST_FAIL_DIE0, n 0), (BRG_SELFTEST_FAIL_DIE1, n 1)] v) :=
    testOnly_of_regEffect (regEffect_setFlds _) (by simp [BRG_SELFTEST_FAIL_DIE0, BRG_SELFTEST_FAIL_DIE1, spindleTestRegs]) v
  exact (hu.trans (hset u)).trans ((testOnly_mapDie (by decide) bad _).trans (testOnly_mapDie (by decide) bad _))

/-! ### Keys and memory -/

theorem find?_ins_isSome {α : Type} {m : List (Nat × α)} {j : Nat} (h : (find? m j).isSome = true) (k : Nat) (v : α) :
    (find? (ins m k v) j).isSome = true := by
  induction m with
  | nil => simp [find?] at h
  | cons e m ih =>
    obtain ⟨i, w⟩ := e
    grind [find?, ins]

/-- Only the security unit's state and the free values change. -/
def KeysOnly (s t : State) : Prop := ∃ x n, t = { s with sec := x, free := n }

theorem newKey_free (s : State) : ∃ n, (newKey s).2 = { s with free := n } := ⟨s.free + 1 + 1 + 1 + 1, rfl⟩

/-- Units without a key get one, and the others keep theirs. -/
theorem keys_fold (us : List Nat) (s : State) (f : State → Nat → State)
    (hf : ∀ v u, f v u = modSec (fun x => { x with memKeys := ins x.memKeys u (newKey v).1 }) (newKey v).2) :
    KeysOnly s (us.foldl f s) ∧ ∀ j, j ∈ us ∨ (find? s.sec.memKeys j).isSome = true →
      (find? (us.foldl f s).sec.memKeys j).isSome = true := by
  induction us generalizing s with
  | nil => exact ⟨⟨s.sec, s.free, rfl⟩, fun j hj => hj.resolve_left (by simp)⟩
  | cons u us ih =>
    obtain ⟨n, hn⟩ := newKey_free s
    obtain ⟨⟨x, m, hx⟩, hkeys⟩ := ih (f s u)
    have hstep : (f s u).sec.memKeys = ins s.sec.memKeys u (newKey s).1 := by rw [hf, hn]; rfl
    refine ⟨⟨x, m, ?_⟩, fun j hj => hkeys j ?_⟩
    · rw [List.foldl_cons, hx, hf, hn]
      rfl
    · rw [hstep]
      rcases hj with hj | hj
      · rcases List.mem_cons.mp hj with rfl | hj
        · exact .inr (by rw [find?_ins_same]; rfl)
        · exact .inl hj
      · exact .inr (find?_ins_isSome hj _ _)

theorem newKeys_spec (s : State) : KeysOnly s (newKeys s) ∧
    (∀ a < 8, atollHere s a = true → (find? (newKeys s).sec.memKeys a).isSome = true) ∧
      (find? (newKeys s).sec.memKeys 8).isSome = true := by
  obtain ⟨honly, hkeys⟩ := keys_fold ((List.range 9).filter fun u => u = 8 || atollHere s u) s
    (fun s u => let (k, s) := newKey s; modSec (fun x => { x with memKeys := ins x.memKeys u k }) s) (fun _ _ => rfl)
  refine ⟨honly, fun a ha hhere => hkeys a (.inl ?_), hkeys 8 (.inl ?_)⟩
  · simp only [List.mem_filter, List.mem_range, hhere, Bool.or_true, and_true]
    omega
  · simp

/-- Registers that the initialisation of memory clears. -/
def initClears (o : Nat) : Bool :=
  (MEM_RGN_BASE 0 ≤ o && o < MEM_RGN_BASE 256) || (INT_TAINT_EVT 0 ≤ o && o < INT_TAINT_EVT 16)

/-- What the initialisation puts into registers. -/
def initFlds : List (FRef × Nat) :=
  [(KV_STATUS_READY, 0), (KV_CTRL_BUILD, 0), (INT_TAINT_STATUS_HEAD, 0), (INT_TAINT_STATUS_WRAPS, 0)]

theorem initMemory_regs (s : State) : (initMemory s).regs = (setFlds initFlds (resetRegs initClears s)).regs := rfl

theorem initMemory_boot (s : State) : (initMemory s).boot = s.boot := rfl
theorem initMemory_sec (s : State) : (initMemory s).sec = s.sec := rfl
theorem initMemory_fuse (s : State) : (initMemory s).fuse = s.fuse := rfl
theorem initMemory_skeins (s : State) : (initMemory s).skeins = [] := rfl
theorem initMemory_dirs (s : State) : (initMemory s).kv.dirs = [] := rfl

theorem rd_resetRegs (p : Nat → Bool) (o : Nat) (s : State) : rd o (resetRegs p s) = if p o then rstVal o else rd o s := by
  have h := lookup_filter_keys (fun k => !p k) (rstVal o) o s.regs
  unfold rd resetRegs
  rw [h]
  cases p o <;> rfl

theorem region_reset : ∀ r < 256, fldOf (MEM_RGN_CFG_VALID r) (rstVal (MEM_RGN_CFG r)) = 0 := by decide +kernel

/-- After the initialisation no region is valid. -/
theorem initMemory_invalid {r : Nat} (hr : r < 256) (s : State) : bit (MEM_RGN_CFG_VALID r) (initMemory s) = false := by
  have hset : fld (MEM_RGN_CFG_VALID r) (setFlds initFlds (resetRegs initClears s)) =
      fld (MEM_RGN_CFG_VALID r) (resetRegs initClears s) :=
    (regEffect_setFlds initFlds).fld (by
      simp only [initFlds, List.map, MEM_RGN_CFG_VALID, MEM_RGN_CFG, KV_STATUS_READY, KV_CTRL_BUILD, INT_TAINT_STATUS_HEAD,
        INT_TAINT_STATUS_WRAPS, KV_STATUS, KV_CTRL, INT_TAINT_STATUS, List.mem_cons, List.not_mem_nil, or_false]
      omega) _
  have hclears : initClears (MEM_RGN_CFG r) = true := by
    unfold initClears MEM_RGN_CFG MEM_RGN_BASE
    simp
    omega
  have hzero : fld (MEM_RGN_CFG_VALID r) (resetRegs initClears s) = 0 := by
    show fldOf (MEM_RGN_CFG_VALID r) (rd (MEM_RGN_CFG r) (resetRegs initClears s)) = 0
    rw [rd_resetRegs, if_pos hclears, region_reset r hr]
  unfold bit
  rw [fld_congr (initMemory_regs s), hset, hzero]
  rfl

theorem initMemory_notReady (s : State) : bit KV_STATUS_READY (initMemory s) = false := by
  have h : fld KV_STATUS_READY (setFlds initFlds (resetRegs initClears s)) = 0 % 2 ^ 1 :=
    fld_setFlds_of_mem (by unfold initFlds FRef.Apart; decide) (by decide) (by simp [initFlds]) _
  unfold bit
  rw [fld_congr (initMemory_regs s), h]
  rfl

theorem initMemory_stage (s : State) : stage (initMemory s) = stage s := by
  have hset : fld BRG_STATUS_STAGE (setFlds initFlds (resetRegs initClears s)) = fld BRG_STATUS_STAGE (resetRegs initClears s) :=
    (regEffect_setFlds initFlds).fld (by decide) _
  have hreset : rd BRG_STATUS (resetRegs initClears s) = rd BRG_STATUS s := by
    rw [rd_resetRegs, if_neg (by decide)]
  exact (fld_congr (initMemory_regs s) _).trans (hset.trans (fld_congr_rd (f := BRG_STATUS_STAGE) hreset))

end Sys2Proof.Machine
end

section
/-! PROOFS. Failed atolls and shoal modules of the self-test (R147, R148, R434), and bring-up's stages. -/

namespace Sys2Proof.Machine

open Sys2Proof.Safety

/-- No region is valid, and no directory holds pages. -/
def NoContents (s : State) : Prop := (∀ r < 256, bit (MEM_RGN_CFG_VALID r) s = false) ∧ s.kv.dirs = []

/-- The registers that a failed memory unit writes. -/
def memFailRegs : List Nat := [MEM_STATUS, MEM_ERR, MEM_ERR_ADDR, MEM_SWAP_STATUS, MEM_SWAP_CTRL, TOP_IRQ_STATUS]

theorem TestOnly.noContents {l : List Nat} {s t : State} (h : TestOnly l s t) (hl : ∀ r < 256, MEM_RGN_CFG r ∉ l)
    (hs : NoContents s) : NoContents t := by
  obtain ⟨hregions, hdirs⟩ := hs
  refine ⟨fun r hr => ?_, by rw [h.2.2.2.2.2, hdirs]⟩
  unfold bit
  rw [h.fld_eq (f := MEM_RGN_CFG_VALID r) (hl r hr)]
  exact hregions r hr

theorem region_not_failReg (r : Nat) : MEM_RGN_CFG r ∉ memFailRegs := by
  simp only [memFailRegs, MEM_RGN_CFG, MEM_STATUS, MEM_ERR, MEM_ERR_ADDR, MEM_SWAP_STATUS, MEM_SWAP_CTRL, TOP_IRQ_STATUS, List.mem_cons,
    List.not_mem_nil, or_false]
  omega

theorem regionsWhere_empty {s : State} (h : NoContents s) (p : Region → Bool) : regionsWhere p s = [] := by
  unfold regionsWhere
  rw [List.filter_eq_nil_iff]
  intro r hr
  have hvalid : (region r s).valid = false := h.1 r (List.mem_range.mp hr)
  simp [hvalid]

theorem loseRegions_none {also : Nat → State → Bool} {s : State} (h : ∀ c, also c s = false) (kill : Region → Bool) :
    loseRegions [] kill also s = s := by
  unfold loseRegions
  dsimp only [List.filter_nil, List.foldl_nil]
  generalize existing s = cs
  induction cs with
  | nil => rfl
  | cons c cs ih =>
    rw [List.foldl_cons, List.any_nil, if_neg (by decide), h c, if_neg (by decide)]
    exact ih

theorem testOnly_endSwap (code : Nat) (s : State) : TestOnly [MEM_SWAP_STATUS, MEM_SWAP_CTRL, TOP_IRQ_STATUS] s (endSwap code s) :=
  TestOnly.trans (t := modPwr (fun p => { p with held := p.held.filter (fun l => l.kind != .swap)
                                                 queue := p.queue.filter (fun l => l.kind != .swap) }) { s with swap := {} })
    ⟨fun _ _ => rfl, rfl, rfl, rfl, rfl, rfl⟩ (testOnly_of_regEffect (regEffect_setFlds (swapEnded code)) (by simp only [swapEnded, List.map]; decide) _)

theorem testOnly_failSwap (touches : Region → Bool) (s : State) :
    TestOnly [MEM_SWAP_STATUS, MEM_SWAP_CTRL, TOP_IRQ_STATUS] s (failSwap touches s) := by
  unfold failSwap
  split
  · exact testOnly_endSwap 6 s
  · exact testOnly_refl _ s

/-- A memory unit is marked as failed, and a swap that touches it stops. -/
def unitFailed (f g : FRef) (addr : Nat) (on : Region → Bool) (s : State) : State := failSwap on (memErr g addr (setFld f 2 s))

theorem testOnly_memErr {g : FRef} (hg : g.off = MEM_ERR) (addr : Nat) (on : Region → Bool) (s : State) :
    TestOnly [MEM_ERR, MEM_ERR_ADDR, MEM_SWAP_STATUS, MEM_SWAP_CTRL, TOP_IRQ_STATUS] s (failSwap on (memErr g addr s)) :=
  (testOnly_of_regEffect (regEffect_memErr hg addr) (by simp) s).trans ((testOnly_failSwap on _).mono (by simp))

theorem testOnly_unitFailed {f g : FRef} (hf : f.off = MEM_STATUS) (hg : g.off = MEM_ERR) (addr : Nat) (on : Region → Bool) (s : State) :
    TestOnly memFailRegs s (unitFailed f g addr on s) :=
  (testOnly_of_regEffect (regEffect_setFld f 2) (by simp [hf, memFailRegs]) s).trans
    ((testOnly_memErr hg addr on _).mono (by simp [memFailRegs]))

theorem status_unitFailed {f g : FRef} (hg : g.off = MEM_ERR) {h : FRef} (hh : h.off = MEM_STATUS) (addr : Nat) (on : Region → Bool)
    (s : State) : fld h (unitFailed f g addr on s) = fld h (setFld f 2 s) :=
  (testOnly_memErr hg addr on _).fld_eq (by rw [hh]; decide)

theorem atollFail_fails {a : Nat} {s : State} (hon : s.boot.on = true) (hhere : atollHere s a = true) (hfailed : atollFailed a s = false)
    (hno : NoContents s) :
    atollFail a s = unitFailed (atollFld a) MEM_ERR_ATOLL_FAIL (atollBase a) (fun g => atollAt g.base == some a) s := by
  obtain ⟨u, hu⟩ : ∃ u, u = unitFailed (atollFld a) MEM_ERR_ATOLL_FAIL (atollBase a) (fun g => atollAt g.base == some a) s := ⟨_, rfl⟩
  have hnou : NoContents u := by
    rw [hu]
    exact (testOnly_unitFailed rfl rfl _ _ s).noContents (fun r _ => region_not_failReg r) hno
  have hlose : atollFail a s = loseRegions (regionsWhere (fun g => atollAt g.base == some a) u) (fun _ => true)
      (fun c s => ((ctx c s).bound.any fun b => (regionsWhere (fun g => atollAt g.base == some a) u).contains b.2) || kvIn c a s) u := by
    unfold atollFail
    rw [if_neg (by rw [hon, hhere, hfailed]; decide), hu]
    rfl
  rw [hlose, regionsWhere_empty hnou, loseRegions_none (fun c => by simp [kvIn, hnou.2]), hu]

theorem shoalFail_fails {m : Nat} {s : State} (hon : s.boot.on = true) (hm : m < 4) (hfailed : shoalFailed m s = false)
    (hno : NoContents s) :
    shoalFail m s = unitFailed (shoalFld m) MEM_ERR_SHOAL_FAIL (shoalBase m) (fun g => shoalAt g.base == some m) s := by
  obtain ⟨u, hu⟩ : ∃ u, u = unitFailed (shoalFld m) MEM_ERR_SHOAL_FAIL (shoalBase m) (fun g => shoalAt g.base == some m) s := ⟨_, rfl⟩
  have hnou : NoContents u := by
    rw [hu]
    exact (testOnly_unitFailed rfl rfl _ _ s).noContents (fun r _ => region_not_failReg r) hno
  have hlose : shoalFail m s = loseRegions (regionsWhere (fun g => shoalAt g.base == some m) u) (fun g => g.kind == kHome || g.kind == kSpill)
      (fun c s => (ctx c s).spills.any fun r => (regionsWhere (fun g => shoalAt g.base == some m) u).contains r) u := by
    unfold shoalFail
    rw [if_neg (by rw [hon, hfailed]; simp; omega), hu]
    rfl
  rw [hlose, regionsWhere_empty hnou, loseRegions_none (fun c => by simp), hu]

/-! ### Several units fail -/

/-- Two-bit fields of MEM_STATUS for units stay as they are where they read FAILED. -/
theorem failed_stays {f g : FRef} (hg : g.hi < 64) (hwidth : g.hi + 1 - g.lo = 2) (h : f = g ∨ f.Apart g) {s : State} (hs : fld g s = 2) :
    fld g (setFld f 2 s) = 2 := by
  rcases h with rfl | h
  · rw [fld_setFld_same f 2 s hg, hwidth]
    rfl
  · rw [fld_setFld_apart h hg, hs]

theorem atollFld_meets (a b : Nat) : atollFld b = atollFld a ∨ (atollFld b).Apart (atollFld a) := by
  by_cases h : b = a
  · exact .inl (by rw [h])
  · refine .inr (.inr ?_)
    show 2 * b + 1 < 2 * a ∨ 2 * a + 1 < 2 * b
    omega

theorem shoalFld_apart_atollFld (m : Nat) {a : Nat} (ha : a < 8) : (shoalFld m).Apart (atollFld a) := by
  refine .inr ?_
  show 24 + 2 * m + 1 < 2 * a ∨ 2 * a + 1 < 24 + 2 * m
  omega

/-- What failing units leave: the atolls that had failed, and those of a list, read FAILED. -/
def FailedFrom (as : List Nat) (s t : State) : Prop :=
  TestOnly memFailRegs s t ∧ ∀ a < 8, a ∈ as ∨ atollFailed a s = true → atollFailed a t = true

theorem failedFrom_refl (s : State) : FailedFrom [] s s := ⟨testOnly_refl _ s, fun _ _ h => h.resolve_left (by simp)⟩

theorem FailedFrom.trans {as bs : List Nat} {s t u : State} (h : FailedFrom as s t) (h' : FailedFrom bs t u) :
    FailedFrom (as ++ bs) s u := by
  refine ⟨h.1.trans h'.1, fun a ha hfail => h'.2 a ha ?_⟩
  rcases hfail with hmem | hs
  · rcases List.mem_append.mp hmem with hmem | hmem
    · exact .inr (h.2 a ha (.inl hmem))
    · exact .inl hmem
  · exact .inr (h.2 a ha (.inr hs))

theorem failedFrom_noContents {as : List Nat} {s t : State} (h : FailedFrom as s t) (hs : NoContents s) : NoContents t :=
  h.1.noContents (fun r _ => region_not_failReg r) hs

theorem failedFrom_atoll {a : Nat} {s : State} (hon : s.boot.on = true) (hhere : atollHere s a = true) (hno : NoContents s) :
    FailedFrom [a] s (atollFail a s) := by
  have hlt : a < 8 := by
    unfold atollHere at hhere
    simp only [Bool.and_eq_true, decide_eq_true_eq] at hhere
    exact hhere.1
  by_cases hfailed : atollFailed a s = true
  · have hsame : atollFail a s = s := by
      unfold atollFail
      rw [if_pos (by rw [hfailed]; simp)]
    rw [hsame]
    refine ⟨testOnly_refl _ s, fun b _ h => h.elim (fun hb => ?_) id⟩
    rw [List.mem_singleton.mp hb]
    exact hfailed
  · rw [atollFail_fails hon hhere (by simpa using hfailed) hno]
    refine ⟨testOnly_unitFailed rfl rfl _ _ s, fun b hb h => ?_⟩
    have hhi : (atollFld b).hi < 64 := by show 2 * b + 1 < 64; omega
    have hwidth : (atollFld b).hi + 1 - (atollFld b).lo = 2 := by show 2 * b + 1 + 1 - 2 * b = 2; omega
    unfold atollFailed
    rw [status_unitFailed (g := MEM_ERR_ATOLL_FAIL) rfl (h := atollFld b) rfl, beq_iff_eq]
    rcases h with h | h
    · rw [List.mem_singleton.mp h] at hhi hwidth ⊢
      rw [fld_setFld_same _ 2 s hhi, hwidth]
      rfl
    · exact failed_stays hhi hwidth (atollFld_meets b a) (beq_iff_eq.mp h)

theorem failedFrom_shoal {m : Nat} {s : State} (hon : s.boot.on = true) (hm : m < 4) (hno : NoContents s) :
    FailedFrom [] s (shoalFail m s) := by
  by_cases hfailed : shoalFailed m s = true
  · have hsame : shoalFail m s = s := by
      unfold shoalFail
      rw [if_pos (by rw [hfailed]; simp)]
    rw [hsame]
    exact failedFrom_refl s
  · rw [shoalFail_fails hon hm (by simpa using hfailed) hno]
    refine ⟨testOnly_unitFailed rfl rfl _ _ s, fun b hb h => ?_⟩
    unfold atollFailed
    rw [status_unitFailed (g := MEM_ERR_SHOAL_FAIL) rfl (h := atollFld b) rfl, beq_iff_eq]
    exact failed_stays (by show 2 * b + 1 < 64; omega) (by show 2 * b + 1 + 1 - 2 * b = 2; omega)
      (.inr (shoalFld_apart_atollFld m hb)) (beq_iff_eq.mp (h.resolve_left (by simp)))

theorem failedFrom_foldl {fail : State → Nat → State} {marks : Nat → List Nat} {P : Nat → Prop} {x : Fuse}
    (h : ∀ i s, P i → NoContents s → s.boot.on = true → s.fuse = x → FailedFrom (marks i) s (fail s i)) {l : List Nat}
    (hl : ∀ i ∈ l, P i) {s : State} (hno : NoContents s) (hon : s.boot.on = true) (hfuse : s.fuse = x) : FailedFrom (l.flatMap marks) s (l.foldl fail s) := by
  induction l generalizing s with
  | nil => exact failedFrom_refl s
  | cons i l ih =>
    have hi := h i s (hl i (by simp)) hno hon hfuse
    exact hi.trans (ih (fun j hj => hl j (by simp [hj])) (failedFrom_noContents hi hno) (by rw [hi.1.2.1, hon])
      (by rw [hi.1.2.2.2.1, hfuse]))

/-! ### The report -/

/-- Atolls that failed and are present. -/
def atollsFound (x : SelfTest) (s : State) : List Nat := x.atolls.filter fun a => atollHere s a

/-- Shoal modules that failed. -/
def shoalsFound (x : SelfTest) : List Nat := x.shoals.filter (· < 4)

/-- Memory after the test of the spindles, with new keys. -/
def testBegun (x : SelfTest) (s : State) : State := testSpindles x (initMemory (newKeys s))

/-- The units that failed have been taken out of use. -/
def unitsTested (x : SelfTest) (s : State) : State :=
  (shoalsFound x).foldl (fun s m => shoalFail m s) ((atollsFound x (testBegun x s)).foldl (fun s a => atollFail a s) (testBegun x s))

/-- The counts of BRG_SELFTEST for memory. -/
def memCounts (as ms : List Nat) : List (FRef × Nat) :=
  [(BRG_SELFTEST_ATOLL_FAIL, unitMask as), (BRG_SELFTEST_SHOAL_FAIL, unitMask ms)]

/-- The test of a package whose harbour dies are sound. -/
def reported (x : SelfTest) (s : State) : State :=
  modBoot (fun b => { b with tested := true })
    (setFlds (memCounts (atollsFound x (testBegun x s)) (shoalsFound x)) (unitsTested x s))

theorem selfTested_sound {x : SelfTest} {s : State} (hon : s.boot.on = true) (hstage : stage s = stSelftest) (hnot : s.boot.tested = false)
    (hx : x.harbour = false) : selfTested x s = reported x s := by
  unfold selfTested
  rw [if_neg (by rw [hon, hstage, hnot]; decide), if_neg (by rw [hx]; decide)]
  rfl

theorem selfTested_harbour {x : SelfTest} {s : State} (hon : s.boot.on = true) (hstage : stage s = stSelftest) (hnot : s.boot.tested = false)
    (hx : x.harbour = true) : selfTested x s = setErr BRG_ERR_SELFTEST (setStage stFailed s) := by
  unfold selfTested
  rw [if_neg (by rw [hon, hstage, hnot]; decide), if_pos hx]

theorem spindleTest_free {o : Nat} (h : o ≠ BRG_SELFTEST) (h' : o < CRN_ERR ∨ 0x83000 ≤ o) : o ∉ spindleTestRegs := fun hm => by
  have hmem := mem_spindleTestRegs hm
  unfold CRN_ERR INT_STRIKES BRG_SELFTEST at *
  omega

/-- The report starts from memory without contents. -/
theorem testBegun_spec (x : SelfTest) (s : State) :
    NoContents (testBegun x s) ∧ (testBegun x s).boot = s.boot ∧ (testBegun x s).fuse = s.fuse ∧ (testBegun x s).skeins = [] ∧
      (testBegun x s).sec = (newKeys s).sec ∧ stage (testBegun x s) = stage s ∧ bit KV_STATUS_READY (testBegun x s) = false := by
  obtain ⟨k, n, hkeys⟩ := (newKeys_spec s).1
  obtain ⟨u, hu⟩ : ∃ u, u = newKeys s := ⟨_, rfl⟩
  have hboot : u.boot = s.boot := by rw [hu, hkeys]
  have hfuse : u.fuse = s.fuse := by rw [hu, hkeys]
  have hstage : stage u = stage s := fld_congr (by rw [hu, hkeys]) BRG_STATUS_STAGE
  have honly := testOnly_testSpindles x (initMemory u)
  have hready : fld KV_STATUS_READY (testSpindles x (initMemory u)) = fld KV_STATUS_READY (initMemory u) :=
    honly.fld_eq (spindleTest_free (by decide) (by decide))
  unfold testBegun
  rw [← hu]
  refine ⟨honly.noContents (fun r _ => ?_) ⟨fun r hr => initMemory_invalid hr u, initMemory_dirs u⟩, ?_, ?_, ?_, ?_, ?_, ?_⟩
  · exact spindleTest_free (by unfold MEM_RGN_CFG BRG_SELFTEST; omega) (by unfold MEM_RGN_CFG CRN_ERR; omega)
  · rw [honly.2.1, initMemory_boot, hboot]
  · rw [honly.2.2.2.1, initMemory_fuse, hfuse]
  · rw [honly.2.2.2.2.1, initMemory_skeins]
  · rw [honly.2.2.1, initMemory_sec]
  · have hkept : stage (testSpindles x (initMemory u)) = stage (initMemory u) :=
      honly.fld_eq (f := BRG_STATUS_STAGE) (spindleTest_free (by decide) (by decide))
    rw [hkept, initMemory_stage, hstage]
  · unfold bit
    rw [hready]
    exact initMemory_notReady u

theorem atollHere_congr {s t : State} (h : t.fuse = s.fuse) (a : Nat) : atollHere t a = atollHere s a := by
  unfold atollHere isS
  rw [h]

/-- The units that failed are marked, and nothing else of the report's subject changes. -/
theorem unitsTested_spec {s : State} (hon : s.boot.on = true) (x : SelfTest) :
    FailedFrom (atollsFound x s) (testBegun x s) (unitsTested x s) := by
  obtain ⟨hno, hboot, hfuse, -, -, -, -⟩ := testBegun_spec x s
  obtain ⟨u, hu⟩ : ∃ u, u = testBegun x s := ⟨_, rfl⟩
  have hfound : atollsFound x u = atollsFound x s := List.filter_congr fun a _ => atollHere_congr (by rw [hu, hfuse]) a
  unfold unitsTested
  rw [← hu] at hno hboot hfuse ⊢
  have honu : u.boot.on = true := by rw [hboot, hon]
  have hatolls : FailedFrom (atollsFound x u) u ((atollsFound x u).foldl (fun s a => atollFail a s) u) := by
    have h := failedFrom_foldl (fail := fun s a => atollFail a s) (marks := fun a => [a]) (P := fun a => atollHere u a = true)
      (fun a v ha hv hv' hf => failedFrom_atoll hv' ((atollHere_congr hf a).trans ha) hv)
      (l := atollsFound x u) (fun a ha => (List.mem_filter.mp ha).2) hno honu rfl
    simpa using h
  have hshoals := failedFrom_foldl (fail := fun s m => shoalFail m s) (marks := fun _ => []) (P := fun m => m < 4)
    (fun m v hm hv hv' _ => failedFrom_shoal hv' hm hv) (l := shoalsFound x)
    (fun m hm => by simpa using (List.mem_filter.mp hm).2) (failedFrom_noContents hatolls hno) (by rw [hatolls.1.2.1, honu]) rfl
  have hnone : (shoalsFound x).flatMap (fun _ => ([] : List Nat)) = [] := by simp
  have h := hatolls.trans hshoals
  rw [hnone, List.append_nil] at h
  rw [← hfound]
  exact h

theorem memCounts_apart (as ms : List Nat) : (memCounts as ms).Pairwise fun p q => q.1.Apart p.1 := by
  simp [memCounts, FRef.Apart, BRG_SELFTEST_ATOLL_FAIL, BRG_SELFTEST_SHOAL_FAIL]

theorem atollsFound_begun (x : SelfTest) (s : State) : atollsFound x (testBegun x s) = atollsFound x s :=
  List.filter_congr fun a _ => atollHere_congr (testBegun_spec x s).2.2.1 a

/-- Only BRG_SELFTEST and the flag of the test differ from the state in which every unit is tested. -/
theorem reported_regs (x : SelfTest) (s : State) :
    (reported x s).regs = (setFlds (memCounts (atollsFound x s) (shoalsFound x)) (unitsTested x s)).regs := by
  unfold reported
  rw [modBoot_regs, atollsFound_begun]

theorem fld_reported {f : FRef} (hf : f.off ≠ BRG_SELFTEST) (x : SelfTest) (s : State) : fld f (reported x s) = fld f (unitsTested x s) :=
  (fld_congr (reported_regs x s) f).trans ((regEffect_setFlds _).fld (by
    simpa [memCounts, BRG_SELFTEST_ATOLL_FAIL, BRG_SELFTEST_SHOAL_FAIL] using hf) _)

theorem count_reported {f : FRef} {n : Nat} (hf : f.hi < 64) (x : SelfTest) (s : State)
    (hmem : (f, n) ∈ memCounts (atollsFound x s) (shoalsFound x)) : fld f (reported x s) = n % 2 ^ (f.hi + 1 - f.lo) :=
  (fld_congr (reported_regs x s) f).trans (fld_setFlds_of_mem (memCounts_apart _ _) hf hmem _)

theorem reported_boot (x : SelfTest) (s : State) : (reported x s).boot = { (unitsTested x s).boot with tested := true } := by
  unfold reported
  show { (setFlds _ (unitsTested x s)).boot with tested := true } = _
  rw [(regEffect_setFlds _).boot_eq]

theorem RegEffect.skeins_eq {l : List Nat} {f : State → State} (h : RegEffect l f) (s : State) : (f s).skeins = s.skeins := by
  obtain ⟨⟨r, a, d, e⟩, -⟩ := h s
  rw [e]

theorem RegEffect.sec_eq {l : List Nat} {f : State → State} (h : RegEffect l f) (s : State) : (f s).sec = s.sec := by
  obtain ⟨⟨r, a, d, e⟩, -⟩ := h s
  rw [e]

theorem reported_skeins (x : SelfTest) (s : State) : (reported x s).skeins = (unitsTested x s).skeins := by
  unfold reported
  rw [modBoot_skeins, (regEffect_setFlds _).skeins_eq]

theorem reported_sec (x : SelfTest) (s : State) : (reported x s).sec = (unitsTested x s).sec := by
  unfold reported
  rw [modBoot_sec, (regEffect_setFlds _).sec_eq]

theorem fld_unitsTested {s : State} (hon : s.boot.on = true) (x : SelfTest) {f : FRef} (hf : f.off ∉ memFailRegs) :
    fld f (unitsTested x s) = fld f (testBegun x s) := (unitsTested_spec hon x).1.fld_eq hf

/-- The self-test ends in FAILED, or with its report (R434, R435). -/
theorem selfTestReport_holds : selfTestReport := by
  intro x s hon hstage hnot
  cases hx : x.harbour with
  | true =>
    refine gives_run_of (g := fun s => setErr BRG_ERR_SELFTEST (setStage stFailed s)) rfl (selfTested_harbour hon hstage hnot hx)
      ⟨fun _ => ⟨?_, ?_, ?_⟩, fun h => absurd h (by decide)⟩
    · have hkept : stage (setErr BRG_ERR_SELFTEST (setStage stFailed s)) = stage (setStage stFailed s) :=
        fld_setFld_other BRG_ERR_SELFTEST BRG_STATUS_STAGE 1 _ (by decide)
      exact (fld_after BRG_STATUS_STAGE _ s).trans (hkept.trans (stage_setStage (by decide) s))
    · rw [bit_after]
      exact bit_setErr (by decide) (by decide) _
    · rw [after_boot]
      exact hnot
  | false =>
    obtain ⟨hno, hboot, -, hskeins, hsec, hbegun, hready⟩ := testBegun_spec x s
    obtain ⟨honly, hfailed⟩ := unitsTested_spec hon x
    obtain ⟨-, hboot', hsec', -, hskeins', hkv'⟩ := honly
    refine gives_run_of (g := reported x) rfl (selfTested_sound hon hstage hnot hx)
      ⟨fun h => absurd h (by decide), fun _ => ⟨?_, ?_, ?_, ?_, ?_, ?_, ?_, ?_, ?_, ?_⟩⟩
    · rw [after_boot, reported_boot]
    · have hkept : stage (reported x s) = stage (testBegun x s) :=
        (fld_reported (f := BRG_STATUS_STAGE) (by decide) x s).trans (fld_unitsTested (f := BRG_STATUS_STAGE) hon x (by decide))
      exact (fld_after BRG_STATUS_STAGE _ s).trans (hkept.trans (hbegun.trans hstage))
    · rw [fld_after]
      exact count_reported (by decide) x s (by simp [memCounts, atollsFound])
    · rw [fld_after]
      exact count_reported (by decide) x s (by simp [memCounts, shoalsFound])
    · intro a ha hhere
      have hlt : a < 8 := by
        unfold atollHere at hhere
        simp only [Bool.and_eq_true, decide_eq_true_eq] at hhere
        exact hhere.1
      have h := hfailed a hlt (.inl (List.mem_filter.mpr ⟨ha, hhere⟩))
      unfold atollFailed at h ⊢
      rw [fld_after, fld_reported (f := atollFld a) (show MEM_STATUS ≠ BRG_SELFTEST by decide)]
      exact h
    · intro r hr
      show bit (MEM_RGN_CFG_VALID r) (after (reported x) s) = false
      rw [bit_after]
      unfold bit
      rw [fld_reported (f := MEM_RGN_CFG_VALID r) (by simp only [MEM_RGN_CFG_VALID, MEM_RGN_CFG, BRG_SELFTEST]; omega),
        fld_unitsTested hon x (f := MEM_RGN_CFG_VALID r) (region_not_failReg r)]
      exact hno.1 r hr
    · intro i
      have hnone : sk i (after (reported x) s) = {} := by
        unfold sk
        rw [after_skeins, reported_skeins, hskeins', hskeins]
        rfl
      rw [hnone]
      exact ⟨rfl, rfl⟩
    · rw [bit_after]
      unfold bit
      rw [fld_reported (f := KV_STATUS_READY) (by decide), fld_unitsTested hon x (f := KV_STATUS_READY) (by decide)]
      exact hready
    · intro a ha hhere
      rw [after_sec, reported_sec, hsec', hsec]
      exact (newKeys_spec s).2.1 a ha hhere
    · rw [after_sec, reported_sec, hsec', hsec]
      exact (newKeys_spec s).2.2

/-- Settles O18: the stages end in their order, and the self-test's report follows from what memory holds as it begins. -/
theorem bringUpStages : Obligations.BringUpStages := ⟨stagesInOrder_holds, selfTestReport_holds⟩

end Sys2Proof.Machine
end

section
/-! PROOFS. A load from the end of the shoal into the lagoon of spindle 0 (R68, R71, R76). -/

namespace Sys2Proof.Machine

open Sys2Proof.Safety
set_option Elab.async false

/-- A load of the shoal's last 8 bytes and of the first 8 of the lagoon of spindle 0. -/
def straddlingLoad : Access := { addr := 0x01FFFFFFFFF8, len := 16 }

/-- Thread 0 of spindle 0 runs in context 0, to which a SCRATCH region is bound that holds the shoal's last staple and the lagoon's
first; of the two only the lagoon's first fails its check. -/
def shoalEdge : State :=
  { setFlds [(MEM_RGN_CFG_VALID 0, 1), (MEM_RGN_CFG_KIND 0, kScratch), (MEM_RGN_BASE_BASE 0, 0x01FFFFFFF), (MEM_RGN_SIZE_SIZE 0, 2)]
      servicePackage with
    spns := [(0, { threads := [(0, { state := .ready })] })]
    ctxs := [(0, { bound := [(0, 0)] })]
    staples := [(0x020000000, { crcBad := true })] }

theorem straddlingLoad_allowed : rangeMapped straddlingLoad.addr.toNat straddlingLoad.len shoalEdge = true ∧
    mayRead 0 straddlingLoad.addr.toNat straddlingLoad.len shoalEdge = true := by decide +kernel

theorem straddlingLoad_fails : readBad (some straddlingLoad) shoalEdge ≠ [] := by decide +kernel

/-- Refutes O28: what fails lies in the lagoon behind the shoal, so that SPN_ERR.LAGOON_UE reports it, and not STAPLE_CRC. -/
theorem not_threads : ¬ Obligations.Threads := by
  intro h
  obtain ⟨-, hwaits⟩ := h
  obtain ⟨hended, -⟩ := hwaits 0 0 shoalEdge
  obtain ⟨-, -, hreported, -⟩ := hended (.inl rfl) rfl rfl rfl
  obtain ⟨-, hbad, -⟩ := hreported straddlingLoad (by decide +kernel) rfl rfl
  obtain ⟨-, hcrc, -⟩ := result_of_gives (hbad straddlingLoad_allowed (by decide +kernel) straddlingLoad_fails)
  exact absurd hcrc (by decide +kernel)

end Sys2Proof.Machine
end

section
/-! PROOFS. STEP records, pins and the end of priming (R47, R111, R112, R350). -/

namespace Sys2Proof.Machine

open Sys2Proof.Safety

theorem setAt_eq_set {α : Type} (l : List α) (i : Nat) (v : α) : setAt l i v = l.set i v := by
  induction l generalizing i with
  | nil => rfl
  | cons a l ih =>
    cases i with
    | zero => rfl
    | succ i => exact congrArg (a :: ·) (ih i)

theorem getElem?_setAt_other {α : Type} (l : List α) {i j : Nat} (h : i ≠ j) (v : α) : (setAt l i v)[j]? = l[j]? := by
  rw [setAt_eq_set, List.getElem?_set_ne h]

theorem getElem?_setAt_same {α : Type} {l : List α} {i : Nat} {a : α} (h : l[i]? = some a) (v : α) : (setAt l i v)[i]? = some v := by
  rw [setAt_eq_set, List.getElem?_set_self (List.getElem?_eq_some_iff.mp h).1]

/-! ### A list of records -/

section
variable (c : Nat) (st : Step) (routed : Nat → Nat → Nat) (timing : Nat) (want : Disp → W64 → Bool) (t : Template) (s : State)

/-- One record of a phase is applied to its list. -/
def patchOne (acc : List Disp × Nat) (i : Nat) : List Disp × Nat :=
  match t.patches[i]? with
  | none => acc
  | some p =>
    match acc.1[pEntry p]? with
    | none => acc
    | some d =>
      if pTiming p != timing || d.patched.contains i || !want d p then acc
      else
        let r := patchWrite p (patchValue (patchSource c st routed p s) d.words p) d
        (setAt acc.1 (pEntry p) { r.1 with patched := r.1.patched ++ [i] }, acc.2 + r.2.toNat)

theorem patchList_eq (l : List Disp) :
    patchList c st routed timing want t l s = (List.range t.patches.length).foldl (patchOne c st routed timing want t s) (l, 0) := rfl

/-- Record k of the timing is one of entry i. -/
def RecordFor (k i : Nat) : Prop := ∃ p, t.patches[k]? = some p ∧ pTiming p = timing ∧ pEntry p = i

variable {c st routed timing want t s}

theorem patchOne_other {k i : Nat} (h : ¬RecordFor timing t k i) (acc : List Disp × Nat) :
    (patchOne c st routed timing want t s acc k).1[i]? = acc.1[i]? := by
  unfold patchOne
  split
  · rfl
  · next p hp =>
    split
    · rfl
    · next d hd =>
      split
      · rfl
      · next hgo =>
        refine getElem?_setAt_other _ (fun hi => h ⟨p, hp, ?_, hi⟩) _
        simp only [Bool.or_eq_true, bne_iff_ne, not_or, not_not] at hgo
        exact hgo.1.1

theorem patchOne_own {k : Nat} {p : W64} {d : Disp} {acc : List Disp × Nat} (hp : t.patches[k]? = some p) (htiming : pTiming p = timing)
    (hd : acc.1[pEntry p]? = some d) (hnew : k ∉ d.patched) (hwant : want d p = true) :
    (patchOne c st routed timing want t s acc k).1[pEntry p]? =
      some { (patchWrite p (patchValue (patchSource c st routed p s) d.words p) d).1 with
        patched := (patchWrite p (patchValue (patchSource c st routed p s) d.words p) d).1.patched ++ [k] } := by
  have hgo : (pTiming p != timing || d.patched.contains k || !want d p) = false := by simp [htiming, hnew, hwant]
  unfold patchOne
  rw [hp]
  dsimp only
  rw [hd]
  dsimp only
  rw [hgo]
  exact getElem?_setAt_same hd _

theorem patches_other {ks : List Nat} {i : Nat} (h : ∀ k ∈ ks, ¬RecordFor timing t k i) (acc : List Disp × Nat) :
    (ks.foldl (patchOne c st routed timing want t s) acc).1[i]? = acc.1[i]? := by
  induction ks generalizing acc with
  | nil => rfl
  | cons k ks ih => exact (ih (fun j hj => h j (by simp [hj])) _).trans (patchOne_other (h k (by simp)) acc)

/-- An entry that one record of the timing names takes that record. -/
theorem patchList_own {l : List Disp} {k : Nat} {p : W64} {d : Disp} (hp : t.patches[k]? = some p) (htiming : pTiming p = timing)
    (hd : l[pEntry p]? = some d) (hnew : k ∉ d.patched) (hwant : want d p = true)
    (honly : ∀ j, RecordFor timing t j (pEntry p) → j = k) :
    (patchList c st routed timing want t l s).1[pEntry p]? =
      some { (patchWrite p (patchValue (patchSource c st routed p s) d.words p) d).1 with
        patched := (patchWrite p (patchValue (patchSource c st routed p s) d.words p) d).1.patched ++ [k] } := by
  have hk : k ∈ List.range t.patches.length := List.mem_range.mpr (List.getElem?_eq_some_iff.mp hp).1
  obtain ⟨before, rest, hsplit⟩ := List.append_of_mem hk
  have hnodup := List.nodup_range (n := t.patches.length)
  rw [hsplit, List.nodup_append] at hnodup
  obtain ⟨-, htail, hdisj⟩ := hnodup
  have hbefore : ∀ j ∈ before, ¬RecordFor timing t j (pEntry p) := fun j hj hr => hdisj j hj k (by simp) (honly j hr)
  have hrest : ∀ j ∈ rest, ¬RecordFor timing t j (pEntry p) := fun j hj hr =>
    (List.nodup_cons.mp htail).1 (honly j hr ▸ hj)
  rw [patchList_eq, hsplit, List.foldl_append, List.foldl_cons, patches_other hrest]
  exact patchOne_own hp htiming ((patches_other hbefore (l, 0)).trans hd) hnew hwant

/-- An entry that no record of the timing names stays as it is. -/
theorem patchList_other {l : List Disp} {i : Nat} (h : ∀ p ∈ t.patches, pTiming p = timing → pEntry p ≠ i) :
    (patchList c st routed timing want t l s).1[i]? = l[i]? := by
  rw [patchList_eq]
  exact patches_other (fun k _ ⟨p, hp, ht, he⟩ => h p (List.mem_of_getElem? hp) ht he) (l, 0)

end

theorem patchWrite_patched (p : W64) (v : Nat) (d : Disp) : (patchWrite p v d).1.patched = d.patched := by
  unfold patchWrite
  dsimp only
  split
  · rfl
  split <;> rfl

/-! ### A step's record -/

/-- The list of a phase of c's step is replaced, and the records that saturated are counted. -/
def patchesIn (c ph : Nat) (r : List Disp × Nat) (s : State) : State :=
  bump32 WV_PATCH_SAT r.2 (modStep c (fun x => { x with lists := put x.lists [] ph r.1 }) s)

theorem ctx_patchesIn (c ph : Nat) (r : List Disp × Nat) (s : State) :
    ctx c (patchesIn c ph r s) = { ctx c s with step := (ctx c s).step.map fun x => { x with lists := put x.lists [] ph r.1 } } :=
  ctx_setCtx_same _ _ _

theorem dispAt_patchesIn {c : BitVec 6} {ph : BitVec 8} {st : Step} (r : List Disp × Nat) {s : State} (hst : stepOf c.toNat s = some st)
    (i : Nat) : dispAt { ctx := c, phase := ph, idx := i } (patchesIn c.toNat ph.toNat r s) = r.1[i]? := by
  have hstep : (ctx c.toNat s).step = some st := hst
  unfold dispAt
  rw [ctx_patchesIn, hstep]
  show (lookup (put st.lists [] ph.toNat r.1) [] ph.toNat)[i]? = _
  rw [lookup_put_same]

theorem regsOnly_wr_ctxs (o : Nat) (v : W64) (x : List (Nat × Ctx)) (s : State) :
    RegsOnly [o] { s with ctxs := (wr o v { s with ctxs := x }).ctxs } (wr o v { s with ctxs := x }) :=
  (regEffect_wr o v).regsOnly { s with ctxs := x }

theorem modStep_eq (c : Nat) (f : Step → Step) (s : State) : ∃ x, modStep c f s = { s with ctxs := x } := ⟨_, rfl⟩

theorem bump32_eq (o n : Nat) (s : State) : ∃ v, bump32 o n s = wr o v s := ⟨_, rfl⟩

theorem patchesIn_eq (c ph : Nat) (r : List Disp × Nat) (s : State) :
    ∃ x v, patchesIn c ph r s = wr WV_PATCH_SAT v { s with ctxs := x } := by
  obtain ⟨x, hx⟩ := modStep_eq c (fun x => { x with lists := put x.lists [] ph r.1 }) s
  obtain ⟨v, hv⟩ := bump32_eq WV_PATCH_SAT r.2 { s with ctxs := x }
  exact ⟨x, v, by unfold patchesIn; rw [hx, hv]⟩

theorem regsOnly_patchesIn (c ph : Nat) (r : List Disp × Nat) (s : State) :
    RegsOnly [WV_PATCH_SAT] { s with ctxs := (patchesIn c ph r s).ctxs } (patchesIn c ph r s) := by
  obtain ⟨x, v, hx⟩ := patchesIn_eq c ph r s
  rw [hx]
  exact regsOnly_wr_ctxs WV_PATCH_SAT v x s

theorem dispAt_congr {e : EntryRef} {s t : State} (h : ctx e.ctx.toNat t = ctx e.ctx.toNat s) : dispAt e t = dispAt e s := by
  unfold dispAt
  rw [h]

theorem dispAt_after (e : EntryRef) (f : State → State) (s : State) : dispAt e (after f s) = dispAt e (f s) :=
  dispAt_congr (ctx_after _ f s)

/-- The records of a phase that is not due. -/
theorem patchStep_waits {c ph : Nat} {st : Step} {p : Phase} {s : State} (hst : stepOf c s = some st) (hp : phaseOf c ph s = some p)
    (h : st.beat + 1 < p.firstBeat ∨ (ctx c s).ran = false) : patchStep c ph s = s := by
  unfold patchStep
  rw [hst, hp]
  dsimp only
  refine if_neg fun hgo => ?_
  simp only [Bool.and_eq_true, decide_eq_true_eq] at hgo
  rcases h with h | h
  · omega
  · rw [h] at hgo
    exact absurd hgo.2 (by decide)

/-- The records of a light phase that is due: they reach the list, and no leave is asked for. -/
theorem patchStep_due {c ph : Nat} {st : Step} {p : Phase} {s : State} (hst : stepOf c s = some st) (hp : phaseOf c ph s = some p)
    (hdue : p.firstBeat ≤ st.beat + 1) (hran : (ctx c s).ran = true) (hlight : heavyPhase c p s = false) :
    patchStep c ph s = patchesIn c ph (patchList c st noRoute 0 anyEntry (templateOf (ctx c s).weave p) (lookup st.lists [] ph) s) s := by
  have happly : applyPatches c ph 0 noRoute anyEntry s =
      patchesIn c ph (patchList c st noRoute 0 anyEntry (templateOf (ctx c s).weave p) (lookup st.lists [] ph) s) s := by
    unfold applyPatches
    rw [hst, hp]
    rfl
  have hgo : patchStep c ph s = askPhase c ph (applyPatches c ph 0 noRoute anyEntry s) := by
    unfold patchStep
    rw [hst, hp]
    exact if_pos (by rw [hran]; simpa using hdue)
  obtain ⟨u, hu⟩ : ∃ u, u = patchesIn c ph (patchList c st noRoute 0 anyEntry (templateOf (ctx c s).weave p) (lookup st.lists [] ph) s) s :=
    ⟨_, rfl⟩
  rw [hgo, happly, ← hu]
  have hctx : ∃ f : Step → Step, (∀ x, (f x).shape = x.shape) ∧ ctx c u = { ctx c s with step := (ctx c s).step.map f } := by
    rw [hu]
    refine ⟨_, ?_, ctx_patchesIn c ph _ s⟩
    exact fun _ => rfl
  obtain ⟨f, hf, hctx⟩ := hctx
  have hweave : (ctx c u).weave = (ctx c s).weave := by rw [hctx]
  have hphase : phaseOf c ph u = some p := by
    have hst' : (ctx c s).step = some st := hst
    have hstu : (ctx c u).step = some (f st) := by rw [hctx, hst']; rfl
    unfold phaseOf stepOf at hp ⊢
    rw [hst'] at hp
    rw [hstu, hweave]
    dsimp only at hp ⊢
    rw [hf]
    exact hp
  have hlight' : heavyPhase c p u = false := by
    unfold heavyPhase at hlight ⊢
    rw [hweave]
    exact hlight
  unfold askPhase
  rw [hphase]
  exact if_neg (by rw [hlight']; decide)

/-! ### Pins and priming -/

/-- The pins of c that a layer's expiry leaves. -/
def pinsLeft (c layer : Nat) (s : State) : List (Nat × Nat) :=
  (ctx c s).pins.filter fun p => p.1 != layer || (rd (WV_STEP c) s).toNat ≤ p.2

/-- Pins have gone. -/
def pinsCut (c layer : Nat) (s : State) : State :=
  wr (GAU_PIN c) (BitVec.ofNat 64 (pinsLeft c layer s).length) (modCtx c (fun x => { x with pins := pinsLeft c layer s }) s)

theorem pinExpiry_eq (c layer : Nat) (s : State) :
    pinExpiry c layer s = if (pinsLeft c layer s).length = (ctx c s).pins.length then s else pinsCut c layer s := rfl

theorem mem_pinsLeft (c layer : Nat) (s : State) (p : Nat × Nat) :
    p ∈ pinsLeft c layer s ↔ p ∈ (ctx c s).pins ∧ ¬(p.1 = layer ∧ p.2 < (rd (WV_STEP c) s).toNat) := by
  unfold pinsLeft
  rw [List.mem_filter]
  simp only [Bool.or_eq_true, bne_iff_ne, decide_eq_true_eq, not_and_or, not_lt]

theorem pins_pinsCut (c layer : Nat) (s : State) : (ctx c (pinsCut c layer s)).pins = pinsLeft c layer s := by
  have h : ctx c (pinsCut c layer s) = { ctx c s with pins := pinsLeft c layer s } := ctx_setCtx_same _ _ _
  rw [h]

/-- A priming pass has ended. -/
def primed (c : Nat) (s : State) : State := modCtx c (fun x => { x with priming := none, replaying := false }) s

theorem endPriming_open {c : Nat} {s : State} (h : (ctx c s).priming ≠ some []) : endPriming c s = s := by
  unfold endPriming
  split
  · next he => exact absurd he h
  · rfl

/-- The state that a context takes as its priming pass ends. -/
def primedState (c : Nat) (s : State) : Nat := if (ctx c s).ran then cxRunning else if candidates c s = [] then cxIdle else cxHeld

theorem endPriming_ends {c : Nat} {s : State} (h : (ctx c s).priming = some []) :
    endPriming c s = if ctxState c s = cxStarting then setState c (primedState c s) (primed c s) else primed c s := by
  unfold endPriming
  rw [h]
  show (if (ctxState c s != cxStarting) = true then primed c s else _) = _
  by_cases hs : ctxState c s = cxStarting
  · rw [if_neg (by rw [hs]; decide), if_pos hs]
    have hcand : candidates c (primed c s) = candidates c s := rfl
    show setState c (if (ctx c s).ran then cxRunning else if (candidates c (primed c s)).isEmpty then cxIdle else cxHeld) (primed c s) = _
    rw [hcand]
    unfold primedState
    simp only [List.isEmpty_iff]
  · rw [if_pos (by simpa using hs), if_neg hs]

/-! ### The commands -/

theorem fld_setState {c st : Nat} (h : st < 8) (s : State) : ctxState c (setState c st s) = st :=
  (fld_setFld_same (CTX_STATE_STATE c) st s (show 31 < 64 by decide)).trans (Nat.mod_eq_of_lt h)

theorem primedState_lt (c : Nat) (s : State) : primedState c s < 8 := by
  unfold primedState
  split
  · decide
  split <;> decide

theorem primed_facts (c : Nat) (s : State) : ctx c (primed c s) = { ctx c s with priming := none, replaying := false } ∧
    ctxState c (primed c s) = ctxState c s ∧ ∃ x, primed c s = { s with ctxs := x } :=
  ⟨ctx_setCtx_same _ _ _, rfl, _, rfl⟩

theorem regsOnly_setFld_ctxs (f : FRef) (n : Nat) (x : List (Nat × Ctx)) (s : State) :
    RegsOnly [f.off] { s with ctxs := (setFld f n { s with ctxs := x }).ctxs } (setFld f n { s with ctxs := x }) :=
  (regEffect_setFld f n).regsOnly { s with ctxs := x }

theorem endPriming_spec {c : Nat} {s : State} (h : (ctx c s).priming = some []) :
    ctx c (endPriming c s) = { ctx c s with priming := none, replaying := false } ∧
      (ctxState c s = cxStarting → ctxState c (endPriming c s) = primedState c s) ∧
      (ctxState c s ≠ cxStarting → ctxState c (endPriming c s) = ctxState c s) ∧
      RegsOnly [CTX_STATE c] { s with ctxs := (endPriming c s).ctxs } (endPriming c s) := by
  obtain ⟨hctx, hstate, x, hx⟩ := primed_facts c s
  rw [endPriming_ends h]
  split
  · next hs =>
    have hsame : ctx c (setState c (primedState c s) (primed c s)) = ctx c (primed c s) := rfl
    refine ⟨hsame.trans hctx, fun _ => fld_setState (primedState_lt c s) _, fun hn => absurd hs hn, ?_⟩
    rw [hx]
    exact regsOnly_setFld_ctxs (CTX_STATE_STATE c) _ x s
  · next hs =>
    refine ⟨hctx, fun hn => absurd hn hs, fun _ => hstate, ?_⟩
    rw [hx]
    exact (regEffect_id _).regsOnly _

/-- Settles O55: records go to the one entry each names, and a pass ends once nothing of it is to come. -/
theorem stepPreparation : Obligations.StepPreparation := by
  refine ⟨fun c ph st p s hst hp => ⟨fun hwait => ?_, fun hdue hran hlight => ?_⟩, fun c layer s => ?_, fun c s => ⟨fun h => ?_, fun h => ?_⟩⟩
  · exact gives_run_of (g := fun s => s) rfl (patchStep_waits hst hp hwait) (regsOnly_after_of rfl ((regEffect_id []).regsOnly s))
  · obtain ⟨r, hr⟩ : ∃ r, r = patchList c.toNat st noRoute 0 anyEntry (templateOf (ctx c.toNat s).weave p) (lookup st.lists [] ph.toNat) s :=
      ⟨_, rfl⟩
    have heq := patchStep_due hst hp hdue hran hlight
    rw [← hr] at heq
    refine gives_run_of (g := patchesIn c.toNat ph.toNat r) rfl heq ⟨fun i k d w hd hw htiming hentry hnew honly => ?_, fun i d hd hnone => ?_, ?_⟩
    · rw [dispAt_after, dispAt_patchesIn r hst, hr, ← hentry]
      rw [← hentry] at hd
      have h := patchList_own (c := c.toNat) (st := st) (routed := noRoute) (s := s) (want := anyEntry) hw htiming hd hnew rfl
        (fun j ⟨w', hw', ht', he'⟩ => honly j w' hw' ht' (he'.trans hentry))
      rw [patchWrite_patched] at h
      exact h
    · rw [dispAt_after, dispAt_patchesIn r hst, hr, patchList_other hnone, hd]
    · rw [after_ctxs]
      exact regsOnly_after_of rfl (regsOnly_patchesIn c.toNat ph.toNat r s)
  · by_cases hlen : (pinsLeft c.toNat layer s).length = (ctx c.toNat s).pins.length
    · have hsame : pinsLeft c.toNat layer s = (ctx c.toNat s).pins := List.filter_sublist.eq_of_length hlen
      refine gives_run_of (g := fun s => s) rfl ((pinExpiry_eq _ _ s).trans (if_pos hlen)) ⟨fun q => ?_, fun ⟨q, hq, hgone⟩ => ?_, ?_⟩
      · rw [ctx_after, ← mem_pinsLeft, hsame]
      · rw [← hsame] at hq
        exact absurd hgone ((mem_pinsLeft _ _ _ _).mp hq).2
      · rw [after_ctxs]
        exact regsOnly_after_of rfl ((regEffect_id _).regsOnly s)
    · refine gives_run_of (g := pinsCut c.toNat layer) rfl ((pinExpiry_eq _ _ s).trans (if_neg hlen)) ⟨fun q => ?_, fun _ => ?_, ?_⟩
      · rw [ctx_after, pins_pinsCut]
        exact mem_pinsLeft _ _ _ _
      · rw [ctx_after, pins_pinsCut, rd_after]
        exact rd_wr_same _ _ _
      · rw [after_ctxs]
        exact regsOnly_after_of rfl (regsOnly_wr_ctxs _ _ _ s)
  · exact gives_run_of (g := fun s => s) rfl (endPriming_open h) (regsOnly_after_of rfl ((regEffect_id []).regsOnly s))
  · obtain ⟨hctx, hstarting, hother, hregs⟩ := endPriming_spec h
    refine gives_run (f := endPriming c.toNat) rfl ⟨?_, fun hs => ?_, fun hs => ?_, ?_⟩
    · rw [ctx_after, hctx]
    · exact (fld_after (CTX_STATE_STATE c.toNat) _ s).trans (hstarting hs)
    · exact (fld_after (CTX_STATE_STATE c.toNat) _ s).trans (hother hs)
    · rw [after_ctxs]
      exact regsOnly_after_of rfl hregs

end Sys2Proof.Machine
end

section
/-! PROOFS. A timeout of an operation whose context faults with it (R298, R311, R312). -/

namespace Sys2Proof.Machine

open Sys2Proof.Safety
set_option Elab.async false

/-- The physical number whose strike register lies where GLD_CNT(7) lies; the package has spindles up to 303. -/
def strayTimeouts : Nat := 1439822

/-- An operation of a unit of context 0 towards the package itself. -/
def ownOp : FabOp := { unitOp with hdr := { hdr0 with opcode := 1 } }

/-- An acknowledgement for it. -/
def ownAck : RespPacket :=
  mkResp { opcode := 16, tc := 0, status := 0, dest := 0, src := 0, tag := 0, nakReason := 0, pktOff := 0, value := 0, data := [], crc := 0 }

/-- Context 0 runs with the operation outstanding; 2^30 timeouts are counted, and a suspect of context 0 has the stray number as its
witness. -/
def strayTimedOut : State :=
  { setFlds [(CTX_STATE_STATE 0, cxRunning), (GLD_NODE_VALID, 1), (GLD_NODE_NODE, 0), (GLD_CNT_COUNT 7, 2 ^ 30)] servicePackage with
    gld := { ops := [(0, ownOp)] }
    ctxs := [(0, { step := some { lists := [(0, [{ words := [], st := .suspect, susp := some { witness := some strayTimeouts } }])] } })] }

/-- Refutes O32: the timeout is counted, then context 0 faults with its operation, and freeing the witness halves the count. -/
theorem not_operations : ¬ Obligations.Operations := by
  intro h
  obtain ⟨-, hresponses⟩ := h
  obtain ⟨-, -, -, -, -, htimeout⟩ := hresponses ownAck ownOp strayTimedOut rfl (by decide +kernel) (by decide +kernel) (by decide +kernel)
    (by decide +kernel) rfl (by decide +kernel) rfl ⟨rfl, rfl⟩ ⟨(fun _ hx => by cases hx), rfl⟩ rfl
  obtain ⟨-, hcount, -⟩ := result_of_gives (htimeout false)
  unfold counts at hcount
  exact absurd hcount (by decide +kernel)

end Sys2Proof.Machine
end

section
/-! PROOFS. A ROUTE entry with a list beyond its slot (R259), whose context then faults. -/

namespace Sys2Proof.Machine

open Sys2Proof.Safety
set_option Elab.async false

/-- The physical number whose strike register lies where CRD_CNT(9) lies; the package has spindles up to 303. -/
def strayCard : Nat := 1308754

/-- A ROUTE entry without rows; its slots have no room even for a header. -/
def routeSmall : Disp := { words := [BitVec.ofNat 32 (kCard * 2 ^ 28)] }

/-- The entry. -/
def firstEntry : EntryRef := { ctx := 0, phase := 0, idx := 0 }

/-- Context 0 runs it on a map of this node alone; the engine has been busy for 2^30 ns, and a suspect of the same phase has the stray
number as its witness. -/
def strayRoute : State :=
  { setFlds [(CTX_STATE_STATE 0, cxRunning), (GLD_NODE_VALID, 1), (GLD_NODE_NODE, 0), (CRD_CNT_COUNT 9, 2 ^ 30)] servicePackage with
    ctxs := [(0, { ran := true, bound := [(0, 0)]
                   weave := { shapes := [{ len := 1, maxRows := 1, maxPtok := 1
                                           phases := [{ firstBeat := 0, beats := 1, config := 0, powerClass := 0, template := 0, reserve := 0
                                                        slotCyc := 0 }] }] }
                   step := some { lists := [(0, [routeSmall, { words := [], st := .suspect, susp := some { witness := some strayCard } }])] } })] }

/-- What the unit meets while it runs: nothing. -/
def quietUnit : UnitEnv := { busyNs := 0 }

theorem strayRoute_sound : soundReads quietUnit strayRoute := ⟨rfl, rfl, rfl, rfl, rfl, rfl, fun x hx => by cases hx⟩

/-- Refutes O50: the busy time is counted, then context 0 faults, and freeing the witness halves the count. -/
theorem not_cardingSends : ¬ Obligations.CardingSends := by
  intro h
  obtain ⟨-, hroute, -⟩ := h firstEntry quietUnit routeSmall strayRoute
  obtain ⟨-, -, hbusy, -⟩ := result_of_gives (hroute 0 0 (by decide +kernel) (by decide +kernel) strayRoute_sound (fun _ => rfl)
    (by decide +kernel) (by decide +kernel))
  unfold counts at hbusy
  exact absurd hbusy (by decide +kernel)

end Sys2Proof.Machine
end

section
/-! PROOFS. A driver channel's GET, while the list of channels is out of order (R339). -/

namespace Sys2Proof.Machine

open Sys2Proof.Safety
set_option Elab.async false

/-- A channel of the driver whose shadow words are a GET of 8 bytes from the own node into host memory. -/
def loadGet : Channel := { words := [(3, 0x40000000), (5, 0x80000000), (6, 8), (7, 1), (10, 1), (13, 1)] }

/-- Channel 3 with that transfer stands behind channel 5 in the list; an earlier operation of channel 3 still holds half of the
buffer. -/
def unorderedChans : State :=
  { setFlds [(GLD_NODE_VALID, 1), (GLD_NODE_NODE, 0), (FRY_CH_CFG_DRIVER 3, 1), (FRY_CH_CFG_QUOTA 3, 255)] servicePackage with
    gld := { ops := [(0, { unitOp with hdr := { hdr0 with length := BitVec.ofNat 32 (2 ^ 19) }, owner := .ferry 3 0 })] }
    chans := [(5, {}), (3, loadGet)] }

/-- The run of the transfer. -/
def ownRun : Run := { src := 0, dst := 0 }

theorem remoteReady_unorderedChans : remoteReady 3 (shadowDesc 3 unorderedChans) ownRun unorderedChans := by
  refine ⟨by decide +kernel, by decide +kernel, by decide +kernel, by decide +kernel, by decide +kernel, by decide +kernel,
    by decide +kernel, by decide +kernel, by decide +kernel, by decide +kernel, by decide +kernel, by decide +kernel,
    .inl (by decide +kernel), fun h => absurd h (by decide +kernel), fun h => absurd h (by decide +kernel)⟩

/-- Refutes O40: a write to channel 3 leaves it twice in the list; its operation then counts twice in the buffer, which seems full, and
no GET is issued. -/
theorem not_ferryChannels : ¬ Obligations.FerryChannels := by
  intro h
  obtain ⟨-, hcommands⟩ := h
  obtain ⟨hload, -⟩ := hcommands 3 1 unorderedChans (by unfold Answers; decide +kernel)
  obtain ⟨hstarts, -⟩ := hload (by decide +kernel) rfl (by decide) (by decide) (by decide)
    ⟨fun x hx => by simp only [unorderedChans, List.mem_cons, List.not_mem_nil, or_false] at hx; rcases hx with rfl | rfl <;> rfl, rfl⟩
  obtain ⟨-, hremote⟩ := hstarts rfl (by decide +kernel) (by decide +kernel) (by decide +kernel) (by decide +kernel) rfl
  obtain ⟨-, -, p, tag, o, -, -, -, -, -, -, -, -, -, hcount⟩ := result_of_gives (hremote ownRun remoteReady_unorderedChans)
  unfold counts at hcount
  exact absurd hcount (by decide +kernel)

end Sys2Proof.Machine
end

section
/-! PROOFS. The build of the KV pools, and shard directories (R184, R185, R204, R206, R209). -/

namespace Sys2Proof.Machine

open Sys2Proof.Safety

/-! ### What the KV unit may touch -/

/-- Nothing has changed but the KV unit's own state and the registers listed. -/
def KvOnly (l : List Nat) (s t : State) : Prop := (∃ r v, t = { s with regs := r, kv := v }) ∧ SameRegs l s t

theorem kvOnly_refl (l : List Nat) (s : State) : KvOnly l s s := ⟨⟨s.regs, s.kv, rfl⟩, fun _ _ => rfl⟩

theorem kvOnly_modKv (l : List Nat) (f : Kv → Kv) (s : State) : KvOnly l s (modKv f s) := ⟨⟨s.regs, _, rfl⟩, fun _ _ => rfl⟩

theorem kvOnly_setFld {l : List Nat} {f : FRef} (hf : f.off ∈ l) (n : Nat) (s : State) : KvOnly l s (setFld f n s) :=
  ⟨⟨_, s.kv, rfl⟩, fun _ ho => rd_setFld_other f _ s fun e => ho (e ▸ hf)⟩

theorem kvOnly_bump64 {l : List Nat} {o : Nat} (ho : o ∈ l) (n : Nat) (s : State) : KvOnly l s (bump64 o n s) :=
  ⟨⟨_, s.kv, rfl⟩, fun _ hp => (regEffect_bump64 o n s).2 _ (List.mem_singleton.not.mpr fun (e : _ = o) => hp (e ▸ ho))⟩

namespace KvOnly

variable {l m : List Nat} {s t u : State}

theorem trans (h : KvOnly l s t) (h' : KvOnly l t u) : KvOnly l s u := by
  obtain ⟨⟨r, v, rfl⟩, hr⟩ := h
  obtain ⟨⟨r', v', rfl⟩, hr'⟩ := h'
  exact ⟨⟨r', v', rfl⟩, fun o ho => (hr' o ho).trans (hr o ho)⟩

theorem mono (h : KvOnly l s t) (hsub : l ⊆ m) : KvOnly m s t := ⟨h.1, fun o ho => h.2 o fun hm => ho (hsub hm)⟩

theorem regsOnly (h : KvOnly l s t) : RegsOnly l { s with kv := t.kv } t := by
  obtain ⟨⟨r, v, rfl⟩, hr⟩ := h
  exact regsOnly_of ⟨r, s.acc, s.rdata, rfl⟩ hr

theorem sameMem (h : KvOnly l s t) : SameMem s t := by
  obtain ⟨⟨r, v, rfl⟩, _⟩ := h
  exact fun _ => ⟨rfl, rfl⟩

theorem fuse_eq (h : KvOnly l s t) : t.fuse = s.fuse := by
  obtain ⟨⟨r, v, rfl⟩, _⟩ := h
  rfl

theorem pending_eq (h : KvOnly l s t) : t.pending = s.pending := by
  obtain ⟨⟨r, v, rfl⟩, _⟩ := h
  rfl

theorem fld_eq (h : KvOnly l s t) {f : FRef} (hf : f.off ∉ l) : fld f t = fld f s := fld_congr_rd (h.2 _ hf)

end KvOnly

theorem kvOnly_foldl_mem {α : Type} {l : List Nat} {f : State → α → State} {xs : List α} (h : ∀ x ∈ xs, ∀ s, KvOnly l s (f s x)) (s : State) :
    KvOnly l s (xs.foldl f s) := by
  induction xs generalizing s with
  | nil => exact kvOnly_refl l s
  | cons x xs ih => exact (h x (by simp) s).trans (ih (fun y hy => h y (by simp [hy])) _)

theorem kvOnly_setFlds {l : List Nat} {flds : List (FRef × Nat)} (h : ∀ p ∈ flds, p.1.off ∈ l) (s : State) : KvOnly l s (setFlds flds s) :=
  kvOnly_foldl_mem (fun p hp u => kvOnly_setFld (h p hp) p.2 u) s

theorem kvOnly_zeroRegs (l : List Nat) (s : State) : KvOnly l s (zeroRegs l s) := by
  refine kvOnly_foldl_mem (fun o ho u => ⟨⟨_, u.kv, rfl⟩, fun p hp => rd_wr_other (fun (e : p = o) => hp (e ▸ ho)) _ _⟩) s

theorem kvOnly_raiseLatch {l : List Nat} {f : FRef} {flds : List (FRef × Nat)} (h : ∀ g ∈ f :: flds.map (·.1), g.off ∈ l) (s : State) :
    KvOnly l s (raiseLatch f flds s) := by
  have hflag (u : State) : KvOnly l u (setErr f u) := kvOnly_setFld (h f (by simp)) 1 u
  unfold raiseLatch
  split
  · exact (kvOnly_setFlds (fun p hp => h p.1 (by simp only [List.mem_cons, List.mem_map]; exact .inr ⟨p, hp, rfl⟩)) s).trans (hflag _)
  · exact hflag s

/-- Each element of a list finds its own turn in a fold, and no other turn undoes it. -/
theorem foldl_each {α β : Type} {f : β → α → β} {inv : β → Prop} {P : α → β → Prop} (hinv : ∀ b a, inv b → inv (f b a))
    (hown : ∀ b a, inv b → P a (f b a)) (hkeep : ∀ b a c, inv b → c ≠ a → P a b → P a (f b c)) (xs : List α) {b : β} (hb : inv b) :
    inv (xs.foldl f b) ∧ ∀ a, a ∈ xs ∨ P a b → P a (xs.foldl f b) := by
  classical
  induction xs generalizing b with
  | nil => exact ⟨hb, fun a ha => ha.elim (fun h => absurd h (by simp)) id⟩
  | cons x xs ih =>
    refine ⟨(ih (hinv b x hb)).1, fun a ha => (ih (hinv b x hb)).2 a ?_⟩
    by_cases e : a = x
    · exact .inr (e ▸ hown b a hb)
    · rcases ha with h | h
      · exact .inl ((List.mem_cons.mp h).resolve_left e)
      · exact .inr (hkeep b a x hb (Ne.symm e) h)

/-! ### The build (R184, R185) -/

def buildErrRegs : List Nat := [KV_ERR, KV_ERR_ADDR]

/-- A state in which the build of the pools has gone on from `u`, with the configuration that `u` holds. -/
def Building (u t : State) : Prop :=
  KvOnly buildErrRegs u t ∧ t.kv.cfg = u.kv.cfg ∧ t.kv.dirs = u.kv.dirs ∧ t.kv.held = u.kv.held ∧ t.kv.leaves = u.kv.leaves ∧
    t.kv.heads = u.kv.heads

theorem building_refl (u : State) : Building u u := ⟨kvOnly_refl _ u, rfl, rfl, rfl, rfl, rfl⟩

theorem Building.trans {s t u : State} (h : Building s t) (h' : Building t u) : Building s u :=
  ⟨h.1.trans h'.1, h'.2.1.trans h.2.1, h'.2.2.1.trans h.2.2.1, h'.2.2.2.1.trans h.2.2.2.1, h'.2.2.2.2.1.trans h.2.2.2.2.1,
    h'.2.2.2.2.2.trans h.2.2.2.2.2⟩

theorem kvCfg_congr {s t : State} (h : t.kv.cfg = s.kv.cfg) (f : FRef) : kvCfg f t = kvCfg f s := by
  unfold kvCfg; rw [h]

theorem pageStaples_congr {s t : State} (h : t.kv.cfg = s.kv.cfg) (k : Nat) : pageStaples k t = pageStaples k s := kvCfg_congr h _

theorem poolPages_congr {s t : State} (h : t.kv.cfg = s.kv.cfg) (a k : Nat) : poolPages a k t = poolPages a k s := kvCfg_congr h _

theorem poolBobbins_congr {s t : State} (h : t.kv.cfg = s.kv.cfg) (a k : Nat) : poolBobbins a k t = poolBobbins a k s :=
  kvCfg_congr h _

theorem kvRegion_congr {s t : State} (h : ∀ r < 256, region r t = region r s) (a : Nat) : kvRegion a t = kvRegion a s := by
  unfold kvRegion
  rw [List.map_congr_left fun r hr => h r (List.mem_range.mp hr)]

theorem buildAtoll_congr {s t : State} (hcfg : t.kv.cfg = s.kv.cfg) (hrgn : ∀ r < 256, region r t = region r s) (a : Nat) :
    buildAtoll a t = buildAtoll a s := by
  unfold buildAtoll classStart classStaples bobStaples
  simp only [kvRegion_congr hrgn, poolPages_congr hcfg, poolBobbins_congr hcfg, pageStaples_congr hcfg, kvCfg_congr hcfg]

/-- The frames of class `k` of atoll `a` stand on their lists, with the configuration that `u` holds. -/
def FramesEntered (u : State) (a k : Nat) (t : State) : Prop :=
  pageStaples k u ≠ 0 →
    pagePool a k t = { next := 0, limit := poolPages a k u } ∧ bobPool a k t = { next := 0, limit := poolBobbins a k u }

/-- The frames of one class are entered. -/
def enterFrames (a : Nat) (s : State) (k : Nat) : State :=
  modKv (fun v => { v with
    pages := put v.pages {} (a * 4 + k) { next := 0, limit := poolPages a k s }
    bobs := put v.bobs {} (a * 4 + k) { next := 0, limit := poolBobbins a k s } }) s

theorem buildPools_eq (a : Nat) (s : State) :
    buildPools a s = (List.range 4).foldl (fun s k => if pageStaples k s = 0 then s else enterFrames a s k) s := rfl

theorem building_enterFrames (a : Nat) (s : State) (k : Nat) : Building s (enterFrames a s k) :=
  ⟨kvOnly_modKv _ _ s, rfl, rfl, rfl, rfl, rfl⟩

theorem framesEntered_own {u s : State} (h : s.kv.cfg = u.kv.cfg) (a k : Nat) : FramesEntered u a k (enterFrames a s k) := by
  intro _
  rw [← poolPages_congr h a k, ← poolBobbins_congr h a k]
  exact ⟨lookup_put_same _ _ _ _, lookup_put_same _ _ _ _⟩

theorem framesEntered_other {u s : State} {a k b j : Nat} (hne : a * 4 + k ≠ b * 4 + j) (h : FramesEntered u a k s) :
    FramesEntered u a k (enterFrames b s j) := by
  intro hk
  obtain ⟨hp, hb⟩ := h hk
  exact ⟨(lookup_put_other _ _ _ _ hne).trans hp, (lookup_put_other _ _ _ _ hne).trans hb⟩

theorem building_buildPools (a : Nat) {u s : State} (h : Building u s) : Building u (buildPools a s) ∧
    ∀ k < 4, FramesEntered u a k (buildPools a s) := by
  have hinv (b : State) (k : Nat) (hb : Building u b) : Building u (if pageStaples k b = 0 then b else enterFrames a b k) := by
    split
    · exact hb
    · exact hb.trans (building_enterFrames a b k)
  obtain ⟨hfin, heach⟩ := foldl_each (inv := Building u) (P := FramesEntered u a) hinv
    (fun b k hb => by
      split
      next h0 => exact fun hk => absurd ((pageStaples_congr hb.2.1 k).symm.trans h0) hk
      · exact framesEntered_own hb.2.1 a k)
    (fun b k j _ hne hk => by
      split
      · exact hk
      · exact framesEntered_other (by omega) hk)
    (List.range 4) h
  rw [buildPools_eq]
  exact ⟨hfin, fun k hk => heach k (.inl (List.mem_range.mpr hk))⟩

theorem framesEntered_buildPools {u s : State} {a b k : Nat} (hk : k < 4) (hne : a ≠ b) (h : FramesEntered u a k s) :
    FramesEntered u a k (buildPools b s) := by
  rw [buildPools_eq]
  refine List.foldlRecOn (motive := FramesEntered u a k) (List.range 4) _ h fun t ht j hj => ?_
  have hj4 := List.mem_range.mp hj
  split
  · exact ht
  · exact framesEntered_other (by omega) ht

/-- One atoll's turn in the build. -/
def enterAtoll (s : State) (a : Nat) : State :=
  if !atollHere s a then s
  else
    let s' := if (buildAtoll a s).2 then
      modKv (fun v => { v with bad := v.bad ++ [a] })
        (raiseLatch KV_ERR_POOL_SIZE [(KV_ERR_ADDR_STAPLE, ((kvRegion a s).map (·.base / 4096)).getD 0)] s) else s
    if (buildAtoll a s).1 then buildPools a s' else s'

/-- The configuration is taken. -/
def cfgTaken (s : State) : State :=
  modKv (fun v => { v with cfg := poolRegs.foldl (fun m o => put m 0 o (rd o s)) [] }) s

/-- Every list, as R185 starts it: empty, with the leaves and the head granules in their pools. -/
def listsEmptied (leaves : Nat) (v : Kv) : Kv :=
  { v with pages := [], bobs := [], bad := [], held := [], dirs := [], leaves := { next := 0, limit := leaves }
           heads := { next := 0, limit := 262144 } }

/-- The configuration is taken and every list is emptied. -/
def emptied (s : State) : State :=
  modKv (listsEmptied (kvCfg KV_LEAVES_COUNT (cfgTaken s))) (zeroRegs ((List.range 64).map KV_CTX) (cfgTaken s))

theorem kvEnter_eq (s : State) : kvEnter s = (List.range 8).foldl enterAtoll (emptied s) := rfl

theorem building_refused (a : Nat) {u s : State} (err : Bool) (x : Nat) (h : Building u s) :
    Building u (if err then modKv (fun v => { v with bad := v.bad ++ [a] }) (raiseLatch KV_ERR_POOL_SIZE [(KV_ERR_ADDR_STAPLE, x)] s)
      else s) := by
  have hraised : KvOnly buildErrRegs s (raiseLatch KV_ERR_POOL_SIZE [(KV_ERR_ADDR_STAPLE, x)] s) :=
    kvOnly_raiseLatch (by simp only [List.map]; decide) s
  have hkv : (raiseLatch KV_ERR_POOL_SIZE [(KV_ERR_ADDR_STAPLE, x)] s).kv = s.kv := by
    unfold raiseLatch
    split <;> rfl
  split
  · refine h.trans ⟨hraised.trans (kvOnly_modKv _ _ _), ?_⟩
    generalize raiseLatch KV_ERR_POOL_SIZE [(KV_ERR_ADDR_STAPLE, x)] s = t at hkv
    unfold modKv
    rw [← hkv]
    exact ⟨rfl, rfl, rfl, rfl, rfl⟩
  · exact h

theorem Building.regions {u t : State} (h : Building u t) {r : Nat} (hr : r < 256) : region r t = region r u :=
  region_congr (fun o h1 h2 => h.1.2 o (by unfold buildErrRegs KV_ERR KV_ERR_ADDR; simp; omega)) hr

theorem Building.verdict {u t : State} (h : Building u t) (a : Nat) : buildAtoll a t = buildAtoll a u :=
  buildAtoll_congr h.2.1 (fun _ hr => h.regions hr) a

theorem Building.here {u t : State} (h : Building u t) (a : Nat) : atollHere t a = atollHere u a := atollHere_congr h.1.fuse_eq a

/-- What one atoll's turn leaves: its frames on their lists. -/
def AtollEntered (u : State) (a : Nat) (t : State) : Prop :=
  a < 8 → atollHere u a = true → (buildAtoll a u).1 = true → ∀ k < 4, FramesEntered u a k t

theorem building_enterAtoll {u s : State} (a : Nat) (h : Building u s) : Building u (enterAtoll s a) ∧ AtollEntered u a (enterAtoll s a) := by
  unfold enterAtoll AtollEntered
  rw [h.here]
  split
  next hgone => exact ⟨h, fun _ hh => by rw [hh] at hgone; exact absurd hgone (by decide)⟩
  dsimp only
  rw [h.verdict]
  have hr := building_refused a (buildAtoll a u).2 (((kvRegion a s).map (·.base / 4096)).getD 0) h
  split
  · exact ⟨(building_buildPools a hr).1, fun _ _ _ => (building_buildPools a hr).2⟩
  next hbad => exact ⟨hr, fun _ _ hok => absurd hok hbad⟩

theorem framesEntered_refused (b : Nat) {u s : State} (err : Bool) (x a k : Nat) (h : FramesEntered u a k s) :
    FramesEntered u a k (if err then modKv (fun v => { v with bad := v.bad ++ [b] }) (raiseLatch KV_ERR_POOL_SIZE [(KV_ERR_ADDR_STAPLE, x)] s)
      else s) := by
  split
  · have hkv : (raiseLatch KV_ERR_POOL_SIZE [(KV_ERR_ADDR_STAPLE, x)] s).kv = s.kv := by
      unfold raiseLatch
      split <;> rfl
    intro hk
    unfold pagePool bobPool modKv
    rw [hkv]
    exact h hk
  · exact h

theorem atollEntered_other {u s : State} {a b : Nat} (hne : b ≠ a) (h : AtollEntered u a s) : AtollEntered u a (enterAtoll s b) := by
  intro ha hhere hok k hk
  have hs := h ha hhere hok k hk
  unfold enterAtoll
  split
  · exact hs
  dsimp only
  have hr := framesEntered_refused b (buildAtoll b s).2 (((kvRegion b s).map (·.base / 4096)).getD 0) a k hs
  split
  · exact framesEntered_buildPools hk (Ne.symm hne) hr
  · exact hr

/-- The build from `s`: the configuration is taken, and the frames of every atoll that passes stand on their lists. -/
theorem kvEnter_spec (s : State) : Building (emptied s) (kvEnter s) ∧ ∀ a < 8, AtollEntered (emptied s) a (kvEnter s) := by
  rw [kvEnter_eq]
  obtain ⟨hfin, heach⟩ := foldl_each (inv := Building (emptied s)) (P := AtollEntered (emptied s)) (f := enterAtoll)
    (fun _ a h => (building_enterAtoll a h).1) (fun _ a h => (building_enterAtoll a h).2)
    (fun _ _ _ _ hne h => atollEntered_other hne h) (List.range 8) (building_refl (emptied s))
  exact ⟨hfin, fun a ha => heach a (.inl (List.mem_range.mpr ha))⟩

theorem kvOnly_emptied (s : State) : KvOnly ((List.range 64).map KV_CTX) s (emptied s) := by
  unfold emptied
  exact ((kvOnly_modKv _ _ s).trans (kvOnly_zeroRegs _ _)).trans (kvOnly_modKv _ _ _)

theorem lookup_taken (s : State) {l : List Nat} {o : Nat} (h : o ∈ l) :
    lookup (l.foldl (fun m o => put m 0 o (rd o s)) []) 0 o = rd o s :=
  (foldl_each (inv := fun _ => True) (P := fun o m => lookup m 0 o = rd o s) (fun _ _ _ => trivial) (fun m o _ => lookup_put_same m 0 o _)
    (fun m _ _ _ hne h => (lookup_put_other m 0 _ _ (Ne.symm hne)).trans h) l (b := []) trivial).2 o (.inl h)

theorem emptied_kv (s : State) : (emptied s).kv = listsEmptied (kvCfg KV_LEAVES_COUNT (cfgTaken s)) (cfgTaken s).kv := by
  show listsEmptied _ (zeroRegs _ _).kv = _
  rw [zeroRegs_kv]

theorem cfgTaken_cfg (s : State) {o : Nat} (h : o ∈ poolRegs) : lookup (cfgTaken s).kv.cfg 0 o = rd o s := lookup_taken s h

theorem emptied_cfg (s : State) {o : Nat} (h : o ∈ poolRegs) : lookup (emptied s).kv.cfg 0 o = rd o s := by
  rw [emptied_kv]
  exact cfgTaken_cfg s h

theorem emptied_leaves (s : State) : (emptied s).kv.leaves = { next := 0, limit := fld KV_LEAVES_COUNT s } := by
  have h : kvCfg KV_LEAVES_COUNT (cfgTaken s) = fld KV_LEAVES_COUNT s := by
    unfold kvCfg
    rw [cfgTaken_cfg s (show KV_LEAVES_COUNT.off ∈ poolRegs from List.mem_cons_self)]
    rfl
  rw [emptied_kv, h]
  rfl

theorem KvOnly.regsOnly_accessed {l : List Nat} {o : Nat} {s t : State} (h : KvOnly l (accessed o s) t) :
    RegsOnly l { s with kv := t.kv } t := by
  obtain ⟨⟨r, v, rfl⟩, hr⟩ := h
  exact regsOnly_of ⟨r, o, s.rdata, rfl⟩ hr

/-- The registers that a build writes. -/
def buildRegs : List Nat := [KV_CTRL, KV_STATUS, KV_ERR, KV_ERR_ADDR] ++ (List.range 64).map KV_CTX

theorem kvCtx_buildRegs : (List.range 64).map KV_CTX ⊆ buildRegs := fun _ h => List.mem_append_right _ h

theorem buildErrRegs_buildRegs : buildErrRegs ⊆ buildRegs := fun o h => List.mem_append_left _ (by
  unfold buildErrRegs at h
  simp only [List.mem_cons] at h ⊢
  tauto)

/-- The build goes on. -/
def goesOn (s : State) : State := setFld KV_CTRL_BUILD 1 (setFld KV_STATUS_READY 0 (modKv (fun v => { v with building := true }) s))

theorem goesOn_kv (s : State) : (goesOn s).kv = { s.kv with building := true } := rfl

theorem kvOnly_goesOn (s : State) : KvOnly buildRegs s (goesOn s) :=
  (kvOnly_modKv _ _ s).trans ((kvOnly_setFld (f := KV_STATUS_READY) (List.mem_append_left _ (by decide)) 0 _).trans
    (kvOnly_setFld (f := KV_CTRL_BUILD) (List.mem_append_left _ (by decide)) 1 _))

theorem goesOn_bits (s : State) : bit KV_STATUS_READY (goesOn s) = false ∧ bit KV_CTRL_BUILD (goesOn s) = true := by
  refine ⟨?_, bit_setFld_one (by decide) (by decide) _⟩
  have h : fld KV_STATUS_READY (goesOn s) = 0 :=
    (fld_setFld_other KV_CTRL_BUILD KV_STATUS_READY 1 _ (by decide)).trans (fld_setFld_same KV_STATUS_READY 0 _ (by decide))
  unfold bit
  rw [h]
  rfl

/-- The build has entered every frame and goes on. -/
def buildBegun (s : State) : State := goesOn (kvEnter s)

theorem buildStart_free {s : State} (h : anyCtx s = false) : buildStart s = buildBegun s := by
  unfold buildStart
  rw [h]
  rfl

theorem kvOnly_buildBegun (s : State) : KvOnly buildRegs s (buildBegun s) :=
  (((kvOnly_emptied s).mono kvCtx_buildRegs).trans ((kvEnter_spec s).1.1.mono buildErrRegs_buildRegs)).trans (kvOnly_goesOn _)

theorem kvCtrl_build {v : W64} (h0 : wbit v 0 = true) (h1 : wbit v 1 = false) (h2 : wbit v 2 = false) (s : State) :
    kvCtrl v s = buildStart s := by
  unfold kvCtrl
  rw [h0, h1, h2]
  rfl

theorem driverWrite_build {v : W32} {s : State} (h : Answers KV_CTRL s) (h0 : v.getLsbD 0 = true) (h1 : v.getLsbD 1 = false)
    (h2 : v.getLsbD 2 = false) : driverWrite KV_CTRL 4 (v.setWidth 64) s = buildStart (accessed KV_CTRL s) := by
  rw [driverWrite_word h (by decide)]
  show kvCtrl _ _ = _
  refine kvCtrl_build ?_ ?_ ?_ _ <;> simpa only [wbit_setWidth]

/-- The build is refused while a context exists. -/
theorem build_locked {v : W32} {s : State} (h : Answers KV_CTRL s) (h0 : v.getLsbD 0 = true) (h1 : v.getLsbD 1 = false)
    (h2 : v.getLsbD 2 = false) (hctx : anyCtx s = true) :
    Gives (.build v) s fun t => bit KV_ERR_CFG_LOCKED t = true ∧ RegsOnly [KV_ERR] s t := by
  have he : driverWrite KV_CTRL 4 (v.setWidth 64) s = raiseLatch KV_ERR_CFG_LOCKED [] (accessed KV_CTRL s) := by
    rw [driverWrite_build h h0 h1 h2]
    unfold buildStart
    exact if_pos hctx
  have hkv : (raiseLatch KV_ERR_CFG_LOCKED [] (accessed KV_CTRL s)).kv = s.kv := by
    unfold raiseLatch
    split <;> rfl
  have honly : KvOnly [KV_ERR] (accessed KV_CTRL s) (raiseLatch KV_ERR_CFG_LOCKED [] (accessed KV_CTRL s)) :=
    kvOnly_raiseLatch (by decide) _
  have hregs := honly.regsOnly_accessed
  rw [hkv] at hregs
  refine gives_run_of (g := fun s => raiseLatch KV_ERR_CFG_LOCKED [] (accessed KV_CTRL s)) rfl he ⟨?_, regsOnly_after hregs⟩
  rw [bit_after]
  exact bit_raiseLatch (by decide) (by decide) _ _

/-- The build takes the configuration and enters every frame. -/
theorem build_begins {v : W32} {s : State} (h : Answers KV_CTRL s) (h0 : v.getLsbD 0 = true) (h1 : v.getLsbD 1 = false)
    (h2 : v.getLsbD 2 = false) (hctx : anyCtx s = false) : Gives (.build v) s fun t =>
      t.kv.building = true ∧ bit KV_STATUS_READY t = false ∧ bit KV_CTRL_BUILD t = true ∧ t.kv.dirs = [] ∧ t.kv.held = [] ∧
        t.kv.leaves = { next := 0, limit := fld KV_LEAVES_COUNT s } ∧ t.kv.heads = { next := 0, limit := 262144 } ∧
        (∀ o ∈ poolRegs, lookup t.kv.cfg 0 o = rd o s) ∧
        (∀ a < 8, ∀ k < 4, atollHere s a = true → (buildAtoll a t).1 = true → pageStaples k t ≠ 0 →
          pagePool a k t = { next := 0, limit := poolPages a k t } ∧ bobPool a k t = { next := 0, limit := poolBobbins a k t }) ∧
        RegsOnly ([KV_CTRL, KV_STATUS, KV_ERR, KV_ERR_ADDR] ++ (List.range 64).map KV_CTX) { s with kv := t.kv } t := by
  have he : driverWrite KV_CTRL 4 (v.setWidth 64) s = buildBegun (accessed KV_CTRL s) :=
    (driverWrite_build h h0 h1 h2).trans (buildStart_free hctx)
  obtain ⟨u, hu⟩ : ∃ u, u = accessed KV_CTRL s := ⟨_, rfl⟩
  obtain ⟨⟨-, hcfg, hdirs, hheld, hleaves, hheads⟩, hframes⟩ := kvEnter_spec u
  have hbegun := kvOnly_buildBegun u
  have hemptied := kvOnly_emptied u
  rw [← hu] at he
  refine gives_run_to rfl he ?_
  have hregs : RegsOnly buildRegs { s with kv := (buildBegun u).kv } (buildBegun u) := by
    rw [hu] at hbegun ⊢
    exact hbegun.regsOnly_accessed
  unfold buildBegun at hbegun hregs ⊢
  have htaken := fun o ho => emptied_cfg u (o := o) ho
  have hleaves' := emptied_leaves u
  have hkv := emptied_kv u
  have hus : u.regs = s.regs ∧ u.fuse = s.fuse := by rw [hu]; exact ⟨rfl, rfl⟩
  clear he hu
  generalize kvEnter u = w at *
  generalize emptied u = e at *
  obtain ⟨t, ht⟩ : ∃ t, t = after (fun _ => goesOn w) s := ⟨_, rfl⟩
  have htkv : t.kv = { w.kv with building := true } := by rw [ht, after_kv, goesOn_kv]
  have htregs (o : Nat) : rd o t = rd o (goesOn w) := by rw [ht]; exact rd_after o _ s
  have htbit (f : FRef) : bit f t = bit f (goesOn w) := by rw [ht]; exact bit_after f _ s
  obtain ⟨hready, hbuild⟩ := goesOn_bits w
  have htonly : RegsOnly buildRegs { s with kv := t.kv } t := by
    rw [ht, after_kv]
    exact regsOnly_after_of rfl hregs
  rw [← ht]
  refine ⟨by rw [htkv], (htbit _).trans hready, (htbit _).trans hbuild, ?_, ?_, ?_, ?_, fun o ho => ?_,
    fun a ha k hk hhere hok hpage => ?_, htonly⟩
  · rw [htkv]
    exact hdirs.trans (by rw [hkv]; rfl)
  · rw [htkv]
    exact hheld.trans (by rw [hkv]; rfl)
  · rw [htkv]
    exact hleaves.trans (by rw [hleaves', fld_congr hus.1])
  · rw [htkv]
    exact hheads.trans (by rw [hkv]; rfl)
  · rw [htkv]
    exact (congrArg (lookup · 0 o) hcfg).trans ((htaken o ho).trans (rd_congr hus.1 o))
  · have htcfg : t.kv.cfg = e.kv.cfg := by rw [htkv]; exact hcfg
    have hrgn : ∀ r < 256, region r t = region r e := fun r hr =>
      region_congr (fun o hlo hhi => by
        have ho : o ∉ buildRegs := by
          unfold buildRegs KV_CTRL KV_STATUS KV_ERR KV_ERR_ADDR KV_CTX
          simp only [List.cons_append, List.nil_append, List.mem_cons, List.mem_map, List.mem_range]
          omega
        have ho' : o ∉ (List.range 64).map KV_CTX := by unfold KV_CTX; simp; omega
        exact (htregs o).trans ((hbegun.2 o ho).trans (hemptied.2 o ho').symm)) hr
    have hhere' : atollHere e a = true := by
      rw [atollHere_congr hemptied.fuse_eq, atollHere_congr hus.2]
      exact hhere
    rw [buildAtoll_congr htcfg hrgn] at hok
    rw [pageStaples_congr htcfg] at hpage
    rw [poolPages_congr htcfg, poolBobbins_congr htcfg]
    unfold pagePool bobPool
    rw [htkv]
    exact hframes a ha ha hhere' hok k hk hpage

end Sys2Proof.Machine
end

section
/-! PROOFS. The end of a build, and the shard directories that are made and released (R185, R204, R206, R209). -/

namespace Sys2Proof.Machine

open Sys2Proof.Safety

/-! ### The end of a build -/

/-- The build has ended. -/
def buildOver (s : State) : State :=
  irqEvent TOP_IRQ_STATUS_KV_BUILD (setFlds [(KV_STATUS_READY, 1), (KV_CTRL_BUILD, 0)] (modKv (fun v => { v with building := false }) s))

theorem bit_setFld_zero {f : FRef} (h : f.hi < 64) (s : State) : bit f (setFld f 0 s) = false := by
  have h0 : fld f (setFld f 0 s) = 0 := (fld_setFld_same f 0 s h).trans (Nat.zero_mod _)
  unfold bit
  rw [h0]
  rfl

theorem bit_setFld_other (f g : FRef) (n : Nat) (s : State) (h : g.off ≠ f.off) : bit g (setFld f n s) = bit g s := by
  have hf := fld_setFld_other f g n s h
  unfold bit
  rw [hf]

theorem build_ends {s : State} (h : s.kv.building = true) : Gives .kvBuildComplete s fun t =>
    bit KV_STATUS_READY t = true ∧ bit KV_CTRL_BUILD t = false ∧ bit TOP_IRQ_STATUS_KV_BUILD t = true ∧
      RegsOnly [KV_STATUS, KV_CTRL, TOP_IRQ_STATUS] { s with kv := { s.kv with building := false } } t := by
  have he : buildEnd s = buildOver s := by
    unfold buildEnd
    rw [h]
    rfl
  have honly : KvOnly [KV_STATUS, KV_CTRL, TOP_IRQ_STATUS] s (buildOver s) :=
    ((kvOnly_modKv _ _ s).trans (kvOnly_setFlds (by simp only [List.forall_mem_cons]; decide) _)).trans
      (kvOnly_setFld (f := TOP_IRQ_STATUS_KV_BUILD) (by decide) 1 _)
  refine gives_run_of (g := buildOver) rfl he ⟨?_, ?_, ?_, regsOnly_after_of rfl honly.regsOnly⟩
  · rw [bit_after]
    exact (bit_setFld_other TOP_IRQ_STATUS_KV_BUILD KV_STATUS_READY 1 _ (by decide)).trans
      ((bit_setFld_other KV_CTRL_BUILD KV_STATUS_READY 0 _ (by decide)).trans (bit_setFld_one (by decide) (by decide) _))
  · rw [bit_after]
    exact (bit_setFld_other TOP_IRQ_STATUS_KV_BUILD KV_CTRL_BUILD 1 _ (by decide)).trans (bit_setFld_zero (by decide) _)
  · rw [bit_after]
    exact bit_setFld_one (by decide) (by decide) _

/-! ### Shard directories that are made (R209) -/

/-- The same result with the offset of an access noted. -/
def noted {α : Type} (o : Nat) (x : α × State) : α × State := (x.1, accessed o x.2)

theorem allocHead_accessed (o : Nat) (s : State) : allocHead (accessed o s) = (allocHead s).map (noted o) := by
  unfold allocHead
  show (match poolTake s.kv.heads with | none => none | some (f, p) => _) = _
  cases poolTake s.kv.heads <;> rfl

theorem modKv_accessed (f : Kv → Kv) (o : Nat) (s : State) : modKv f (accessed o s) = accessed o (modKv f s) := rfl

theorem allocLeaves_accessed (o n : Nat) (s : State) : allocLeaves n (accessed o s) = (allocLeaves n s).map (noted o) := by
  induction n generalizing s with
  | zero => rfl
  | succ n ih =>
    unfold allocLeaves
    show (match poolTake s.kv.leaves with | none => none | some (f, p) => _) = _
    cases poolTake s.kv.leaves with
    | none => rfl
    | some x =>
      dsimp only
      rw [modKv_accessed, ih]
      cases allocLeaves n (modKv (fun v => { v with leaves := x.2 }) s) <;> rfl

theorem allocPage_accessed (c a k o : Nat) (s : State) : allocPage c a k (accessed o s) = (allocPage c a k s).map (noted o) := by
  unfold allocPage
  show (match poolTake (pagePool a k s) with | none => none | some (f, p) => _) = _
  cases poolTake (pagePool a k s) <;> rfl

theorem shardFrames_accessed (c cls : Nat) (atolls : List Nat) (start n u o : Nat) (s : State) :
    shardFrames c cls atolls start n u (accessed o s) = (shardFrames c cls atolls start n u s).map (noted o) := by
  induction n generalizing u s with
  | zero => rfl
  | succ n ih =>
    unfold shardFrames
    dsimp only
    rw [allocPage_accessed]
    cases allocPage c (atolls.getD ((start + u) % atolls.length) 0) cls s with
    | none => rfl
    | some x =>
      dsimp only [Option.map, noted]
      rw [ih]
      cases shardFrames c cls atolls start n (u + 1) x.2 <;> rfl

theorem shardMake_accessed (o : Nat) (s : State) :
    shardMake (accessed o s) = ((shardMake s).1, (shardMake s).2.1, accessed o (shardMake s).2.2) := by
  unfold shardMake
  have hexists (c : Nat) : ctxExists c (accessed o s) = ctxExists c s := rfl
  have hctx (c : Nat) : ctx c (accessed o s) = ctx c s := rfl
  simp only [fld_accessed, hexists, hctx]
  rw [allocHead_accessed]
  cases allocHead s with
  | none => rfl
  | some x =>
    dsimp only [Option.map, noted]
    cases (if ctxExists (fld KV_SHARD_CMD0_CONTEXT s) s then (ctx (fld KV_SHARD_CMD0_CONTEXT s) s).weave.kv else none) with
    | none => rfl
    | some kd =>
      dsimp only
      rw [allocLeaves_accessed]
      cases allocLeaves (leavesNeeded (fld KV_SHARD_CMD0_PAGES s)) x.2 with
      | none => rfl
      | some y =>
        dsimp only [Option.map, noted]
        rw [shardFrames_accessed]
        cases shardFrames (fld KV_SHARD_CMD0_CONTEXT s) kd.cls kd.atolls (x.1 % kd.atolls.length) (fld KV_SHARD_CMD0_PAGES s) 0 y.2 <;> rfl

theorem length_allocLeaves {n : Nat} {l : List Nat} {s t : State} (e : allocLeaves n s = some (l, t)) : l.length = n := by
  induction n generalizing l s with
  | zero => cases e; rfl
  | succ n ih =>
    unfold allocLeaves at e
    split at e
    · cases e
    split at e
    · cases e
    next heq =>
      cases e
      exact congrArg (· + 1) (ih heq)

theorem shardFrames_spec {c cls start n u : Nat} {atolls : List Nat} {l : List (Nat × Nat × Nat)} {s t : State}
    (e : shardFrames c cls atolls start n u s = some (l, t)) : KvTaken c s t ∧ l.map (·.1) = List.range' u n := by
  induction n generalizing u l s with
  | zero => cases e; exact ⟨kvTaken_refl c _, rfl⟩
  | succ n ih =>
    unfold shardFrames at e
    dsimp only at e
    split at e
    · cases e
    next hpage =>
    split at e
    · cases e
    next hrest =>
      cases e
      obtain ⟨htaken, hkeys⟩ := ih hrest
      exact ⟨(kvTaken_allocPage hpage).trans htaken, congrArg (u :: ·) hkeys⟩

/-- The shard directory that KV_SHARD_CMD asks for, with a frame reserved for each of its pages. -/
def ShardDir (s : State) (d : Dir) : Prop :=
  d.ctx = fld KV_SHARD_CMD0_CONTEXT s ∧ d.firstPage = fld KV_SHARD_CMD0_FIRST_PAGE s ∧ d.pages = fld KV_SHARD_CMD0_PAGES s ∧
    d.shard = fld KV_SHARD_CMD0_SHARD s ∧ d.skein = fld KV_SHARD_CMD1_SKEIN s ∧ d.leaves.length = leavesNeeded d.pages ∧
    d.reserved.map (·.1) = List.range d.pages

theorem shardMake_spec (s : State) : (shardMake s).1 < 4 ∧ ((shardMake s).1 ≠ 0 → (shardMake s).2.2 = s) ∧
    ((shardMake s).1 = 0 → KvTaken (fld KV_SHARD_CMD0_CONTEXT s) s (shardMake s).2.2 ∧ ShardDir s (dir (shardMake s).2.1 (shardMake s).2.2)) := by
  have hfail (n : Nat) (h : n < 4) (h0 : n ≠ 0) : ∀ r : Nat × Nat × State, r = (n, 0, s) → r.1 < 4 ∧ (r.1 ≠ 0 → r.2.2 = s) ∧
      (r.1 = 0 → KvTaken (fld KV_SHARD_CMD0_CONTEXT s) s r.2.2 ∧ ShardDir s (dir r.2.1 r.2.2)) := by
    rintro _ rfl
    exact ⟨h, fun _ => rfl, fun e => absurd e h0⟩
  unfold shardMake
  dsimp only
  split
  · exact hfail 1 (by decide) (by decide) _ rfl
  next hhead =>
  split
  · exact hfail 2 (by decide) (by decide) _ rfl
  split
  · exact hfail 3 (by decide) (by decide) _ rfl
  next hleaves =>
  split
  · exact hfail 2 (by decide) (by decide) _ rfl
  next hframes =>
  obtain ⟨htaken, hkeys⟩ := shardFrames_spec hframes
  refine ⟨Nat.zero_lt_succ 3, fun h => absurd rfl h, fun _ => ⟨?_, ?_⟩⟩
  · exact ((((kvTaken_allocHead hhead).trans (kvTaken_allocLeaves hleaves)).trans htaken).trans (kvTaken_modKv _ _ _)).trans
      (kvTaken_bumpFld rfl 1 _)
  · have hlen := length_allocLeaves hleaves
    show ShardDir s (lookup (put _ {} _ _) {} _)
    rw [lookup_put_same]
    exact ⟨rfl, rfl, rfl, rfl, rfl, hlen, hkeys.trans List.range_eq_range'.symm⟩

/-- The command shows its result. -/
def shardShown (code h : Nat) (s : State) : State :=
  irqEvent TOP_IRQ_STATUS_KV_SHARD
    (setFlds [(KV_SHARD_CMD3_STATUS, code), (KV_SHARD_CMD3_HEAD, h), (KV_SHARD_CMD2_START, 0)] s)

theorem kvOnly_shardShown (code h : Nat) (s : State) : KvOnly [KV_SHARD_CMD2, KV_SHARD_CMD3, TOP_IRQ_STATUS] s (shardShown code h s) :=
  (kvOnly_setFlds (by simp only [List.forall_mem_cons]; decide) s).trans
    (kvOnly_setFld (f := TOP_IRQ_STATUS_KV_SHARD) (by decide) 1 _)

theorem shardShown_kv (code h : Nat) (s : State) : (shardShown code h s).kv = s.kv := by
  unfold shardShown irqEvent
  rw [setFld_kv, setFlds_kv]

theorem shardShown_spec {code : Nat} (hcode : code < 4) (h : Nat) (s : State) :
    fld KV_SHARD_CMD3_STATUS (shardShown code h s) = code ∧ bit TOP_IRQ_STATUS_KV_SHARD (shardShown code h s) = true := by
  refine ⟨?_, bit_setFld_one (by decide) (by decide) _⟩
  refine (fld_setFld_other TOP_IRQ_STATUS_KV_SHARD KV_SHARD_CMD3_STATUS 1 _ (by decide)).trans ?_
  refine (fld_setFlds_of_mem (x := code) ?_ (by decide) (by simp) s).trans (Nat.mod_eq_of_lt hcode)
  simp [FRef.Apart, KV_SHARD_CMD3_STATUS, KV_SHARD_CMD3_HEAD, KV_SHARD_CMD2_START, KV_SHARD_CMD2, KV_SHARD_CMD3]

theorem driverWrite_shard {v : W64} {s : State} (h : Answers KV_SHARD_CMD2 s) (h0 : v.getLsbD 0 = true) :
    driverWrite KV_SHARD_CMD2 8 v s = shardCreate (accessed KV_SHARD_CMD2 s) := by
  refine write64_to h (by decide) ?_
  show shardCmd KV_SHARD_CMD2 v _ = _
  unfold shardCmd
  exact (if_pos rfl).trans (if_pos h0)

theorem shardCreate_eq {code h : Nat} {s t : State} (e : shardMake s = (code, h, t)) :
    shardCreate s = shardShown code h (if code = 0 then t else raiseLatch KV_ERR_SHARD [] t) := by
  unfold shardCreate shardShown
  rw [e]

/-- A creation that succeeds leaves the directory with its frames reserved. -/
theorem shardCreate_made {v : W64} {s : State} (h : Answers KV_SHARD_CMD2 s) (h0 : v.getLsbD 0 = true) (hcode : (shardMake s).1 = 0) :
    Gives (.shardCreate v) s fun t => fld KV_SHARD_CMD3_STATUS t = 0 ∧ bit TOP_IRQ_STATUS_KV_SHARD t = true ∧
      let d := dir (shardMake s).2.1 t
      d.ctx = fld KV_SHARD_CMD0_CONTEXT s ∧ d.firstPage = fld KV_SHARD_CMD0_FIRST_PAGE s ∧ d.pages = fld KV_SHARD_CMD0_PAGES s ∧
        d.shard = fld KV_SHARD_CMD0_SHARD s ∧ d.skein = fld KV_SHARD_CMD1_SKEIN s ∧ d.leaves.length = leavesNeeded d.pages ∧
        d.reserved.map (·.1) = List.range d.pages ∧ SameMem s t := by
  obtain ⟨htaken, hdir⟩ := (shardMake_spec s).2.2 hcode
  have hmem := KvOnly.sameMem htaken
  have he : driverWrite KV_SHARD_CMD2 8 v s = shardShown 0 (shardMake s).2.1 (accessed KV_SHARD_CMD2 (shardMake s).2.2) := by
    rw [driverWrite_shard h h0, shardCreate_eq (shardMake_accessed _ s), if_pos hcode, hcode]
  generalize (shardMake s).2.1 = n at *
  generalize (shardMake s).2.2 = u at *
  obtain ⟨hstatus, hirq⟩ := shardShown_spec (show 0 < 4 by decide) n (accessed KV_SHARD_CMD2 u)
  have hkv : (shardShown 0 n (accessed KV_SHARD_CMD2 u)).kv = u.kv := by
    exact shardShown_kv 0 n _
  have hmem' : SameMem s (shardShown 0 n (accessed KV_SHARD_CMD2 u)) := sameMem_trans hmem (kvOnly_shardShown 0 n _).sameMem
  refine gives_run_to rfl he ⟨?_, ?_, ?_⟩
  · rw [fld_after]; exact hstatus
  · rw [bit_after]; exact hirq
  · have hd : dir n (after (fun _ => shardShown 0 n (accessed KV_SHARD_CMD2 u)) s) = dir n u := by
      unfold dir
      rw [after_kv, hkv]
    dsimp only
    rw [hd]
    obtain ⟨hctx, hfirst, hpages, hshard, hskein, hlen, hres⟩ := hdir
    exact ⟨hctx, hfirst, hpages, hshard, hskein, hlen, hres, sameMem_after hmem'⟩

/-- A creation that fails allocates nothing. -/
theorem shardCreate_refused {v : W64} {s : State} (h : Answers KV_SHARD_CMD2 s) (h0 : v.getLsbD 0 = true) (hcode : (shardMake s).1 ≠ 0) :
    Gives (.shardCreate v) s fun t => fld KV_SHARD_CMD3_STATUS t = (shardMake s).1 ∧ bit KV_ERR_SHARD t = true ∧
      bit TOP_IRQ_STATUS_KV_SHARD t = true ∧ RegsOnly [KV_SHARD_CMD2, KV_SHARD_CMD3, KV_ERR, TOP_IRQ_STATUS] s t := by
  obtain ⟨hlt, hsame, -⟩ := shardMake_spec s
  have he : driverWrite KV_SHARD_CMD2 8 v s =
      shardShown (shardMake s).1 (shardMake s).2.1 (raiseLatch KV_ERR_SHARD [] (accessed KV_SHARD_CMD2 s)) := by
    rw [driverWrite_shard h h0, shardCreate_eq (shardMake_accessed _ s), if_neg hcode, hsame hcode]
  generalize (shardMake s).1 = code at *
  generalize (shardMake s).2.1 = n at *
  obtain ⟨u, hu⟩ : ∃ u, u = raiseLatch KV_ERR_SHARD [] (accessed KV_SHARD_CMD2 s) := ⟨_, rfl⟩
  have hraised : KvOnly [KV_ERR] (accessed KV_SHARD_CMD2 s) u := hu ▸ kvOnly_raiseLatch (by decide) _
  have herr : bit KV_ERR_SHARD u = true := hu ▸ bit_raiseLatch (by decide) (by decide) _ _
  have hukv : u.kv = s.kv := by
    rw [hu]
    unfold raiseLatch
    split <;> rfl
  rw [← hu] at he
  obtain ⟨hstatus, hirq⟩ := shardShown_spec hlt n u
  have hshown := kvOnly_shardShown code n u
  have hkv : (shardShown code n u).kv = s.kv := by
    rw [shardShown_kv, hukv]
  have hregs := ((hraised.mono (m := [KV_SHARD_CMD2, KV_SHARD_CMD3, KV_ERR, TOP_IRQ_STATUS]) (by decide)).trans
    (hshown.mono (by decide))).regsOnly_accessed
  rw [hkv] at hregs
  refine gives_run_to rfl he ⟨?_, ?_, ?_, regsOnly_after_of rfl hregs⟩
  · rw [fld_after]; exact hstatus
  · rw [bit_after]
    have hkept := hshown.fld_eq (f := KV_ERR_SHARD) (by decide)
    unfold bit at herr ⊢
    rw [hkept]
    exact herr
  · rw [bit_after]; exact hirq

/-! ### Shard directories that are released (R204, R206, R209) -/

theorem kvOnly_holdItem (l : List Nat) (e : Nat) (i : KvItem) (s : State) : KvOnly l s (holdItem e i s) := kvOnly_modKv _ _ _

theorem kvOnly_giveEpoch (l : List Nat) (h e : Nat) (s : State) : KvOnly l s (giveEpoch h e s) := kvOnly_modKv _ _ _

theorem kvOnly_setDir (l : List Nat) (h : Nat) (d : Dir) (s : State) : KvOnly l s (setDir h d s) := kvOnly_modKv _ _ _

/-- A drop in directory `h`: of registers only the count of items changes, and no other directory does. -/
def DropsIn (h : Nat) (s t : State) : Prop := KvOnly [KV_CNT 4] s t ∧ ∀ k, k ≠ h → dir k t = dir k s

theorem dropsIn_refl (h : Nat) (s : State) : DropsIn h s s := ⟨kvOnly_refl _ s, fun _ _ => rfl⟩

theorem DropsIn.trans {h : Nat} {s t u : State} (ht : DropsIn h s t) (hu : DropsIn h t u) : DropsIn h s u :=
  ⟨ht.1.trans hu.1, fun k hk => (hu.2 k hk).trans (ht.2 k hk)⟩

theorem dropsIn_foldl {α : Type} {h : Nat} {f : State → α → State} (hf : ∀ x s, DropsIn h s (f s x)) (xs : List α) (s : State) :
    DropsIn h s (xs.foldl f s) := by
  induction xs generalizing s with
  | nil => exact dropsIn_refl h s
  | cons x xs ih => exact (hf x s).trans (ih _)

theorem dropsIn_ite {h : Nat} {s t u : State} {p : Prop} [Decidable p] (ht : DropsIn h s t) (hu : DropsIn h s u) :
    DropsIn h s (if p then t else u) := by
  split
  · exact ht
  · exact hu

theorem dropsIn_holdItem (h e : Nat) (i : KvItem) (s : State) : DropsIn h s (holdItem e i s) := ⟨kvOnly_modKv _ _ _, fun _ _ => rfl⟩

theorem dropsIn_giveEpoch (h k e : Nat) (s : State) : DropsIn h s (giveEpoch k e s) := ⟨kvOnly_modKv _ _ _, fun _ _ => rfl⟩

theorem dropsIn_count (h : Nat) (s : State) : DropsIn h s (bump64 (KV_CNT 4) 1 s) := ⟨kvOnly_bump64 (by simp) 1 s, fun _ _ => rfl⟩

theorem dropsIn_setDir (h : Nat) (d : Dir) (s : State) : DropsIn h s (setDir h d s) :=
  ⟨kvOnly_modKv _ _ _, fun _ hk => lookup_put_other _ _ _ _ hk⟩

theorem dropsIn_held (h e : Nat) (i : KvItem) (s : State) : DropsIn h s (bump64 (KV_CNT 4) 1 (holdItem e i s)) :=
  (dropsIn_holdItem h e i s).trans (dropsIn_count h _)

theorem dropsIn_dropPage (h u e : Nat) (s : State) : DropsIn h s (dropPage h u e s) := by
  unfold dropPage
  dsimp only
  split
  · exact dropsIn_refl h s
  split
  · exact dropsIn_refl h s
  · exact (dropsIn_setDir h _ _).trans (dropsIn_held h _ _ _)

theorem dropsIn_dropDir (h e : Nat) (s : State) : DropsIn h s (dropDir h e s) := by
  have hepoch : DropsIn h s (if e < unpublished h then giveEpoch h e s else s) :=
    dropsIn_ite (dropsIn_giveEpoch h h e s) (dropsIn_refl h s)
  unfold dropDir
  dsimp only
  split
  · exact hepoch
  · refine DropsIn.trans ?_ (dropsIn_setDir h _ _)
    refine DropsIn.trans ?_ (dropsIn_held h _ _ _)
    refine DropsIn.trans ?_ (dropsIn_foldl (fun x u => dropsIn_held h _ _ _) _ _)
    refine DropsIn.trans ?_ (dropsIn_foldl (fun x u => dropsIn_holdItem h _ _ _) _ _)
    refine DropsIn.trans (hepoch.trans (dropsIn_foldl (fun x u => dropsIn_dropPage h _ _ _) _ _)) (dropsIn_foldl (fun b u => ?_) _ _)
    split
    · exact dropsIn_ite (dropsIn_refl h u) (dropsIn_held h _ _ _)
    · exact (dropsIn_ite (dropsIn_refl h u) (dropsIn_held h _ _ _)).trans (dropsIn_holdItem h _ _ _)

/-- A directory that is dropped is marked so. -/
theorem dropped_dropDir (h e : Nat) (s : State) : (dir h (dropDir h e s)).dropped = true := by
  unfold dropDir
  dsimp only
  split
  next hd =>
    split
    · exact hd
    · exact hd
  · rw [show ∀ f u, dir h (modDir h f u) = f (dir h u) from fun f u => lookup_put_same _ _ _ _]

theorem mem_of_find? {α : Type} {m : List (Nat × α)} {k : Nat} {v : α} (h : find? m k = some v) : (k, v) ∈ m := by
  induction m with
  | nil => cases h
  | cons x m ih =>
    obtain ⟨j, w⟩ := x
    unfold find? at h
    split at h
    next hj =>
      cases h
      rw [hj]
      exact List.mem_cons_self
    · exact List.mem_cons_of_mem _ (ih h)

theorem lookup_of_find? {α : Type} {m : List (Nat × α)} {d : α} {k : Nat} {v : α} (h : find? m k = some v) : lookup m d k = v := by
  induction m with
  | nil => cases h
  | cons x m ih =>
    obtain ⟨j, w⟩ := x
    unfold find? at h
    unfold lookup
    split at h
    next hj => cases h; exact if_pos hj
    next hj => exact (if_neg hj).trans (ih h)

/-- A release drops the shard directories of its sequence. -/
theorem shardRelease_drops (i : BitVec 18) (g : W16) (node : BitVec 10) (s : State) : Gives (.shardRelease i g node) s fun t =>
    (∀ h d, find? s.kv.dirs h = some d → d.skein = i.toNat → d.skeinGen = g → d.home = node.toNat → d.shard ≠ d.shards1 →
      (dir h t).dropped = true) ∧ RegsOnly [KV_CNT 4] { s with kv := t.kv } t := by
  obtain ⟨hs, heq⟩ : ∃ hs, hs = (s.kv.dirs.filter fun x =>
    x.2.skein == i.toNat && x.2.skeinGen == g && x.2.home == node.toNat && x.2.shard != x.2.shards1 && !x.2.dropped).map (·.1) := ⟨_, rfl⟩
  have he : shardRelease i.toNat g node.toNat s = hs.foldl (fun s h => dropDir h (unpublished h) s) s := by
    unfold shardRelease
    rw [heq]
  obtain ⟨honly, heach⟩ := foldl_each (inv := KvOnly [KV_CNT 4] s) (P := fun h t => (dir h t).dropped = true)
    (f := fun s h => dropDir h (unpublished h) s) (fun b h hb => hb.trans (dropsIn_dropDir h _ b).1)
    (fun b h _ => dropped_dropDir h _ b) (fun b h k _ hne hb => by rw [(dropsIn_dropDir k _ b).2 h hne.symm]; exact hb) hs
    (kvOnly_refl _ s)
  refine gives_run_to rfl he ⟨fun h d hfind hskein hgen hhome hshard => ?_, ?_⟩
  · have hd : dir h (after (fun _ => hs.foldl (fun s h => dropDir h (unpublished h) s) s) s) =
        dir h (hs.foldl (fun s h => dropDir h (unpublished h) s) s) := by
      unfold dir
      rw [after_kv]
    rw [hd]
    refine heach h ?_
    cases hdr : d.dropped with
    | true =>
      right
      show (lookup s.kv.dirs {} h).dropped = true
      rw [lookup_of_find? hfind]
      exact hdr
    | false =>
      left
      rw [heq]
      exact List.mem_map.mpr ⟨(h, d), List.mem_filter.mpr ⟨mem_of_find? hfind, by simp [hskein, hgen, hhome, hshard, hdr]⟩, rfl⟩
  · rw [after_kv]
    exact regsOnly_after_of rfl honly.regsOnly

theorem kvBuildAndShards_holds : kvBuildAndShards :=
  ⟨fun _ _ h h0 h1 h2 => ⟨build_locked h h0 h1 h2, build_begins h h0 h1 h2⟩, fun _ h => build_ends h,
    fun _ _ h h0 => ⟨shardCreate_made h h0, shardCreate_refused h h0⟩, shardRelease_drops⟩

end Sys2Proof.Machine
end

section
/-! PROOFS. Flushes, carries, prefill pages and the repair of directory staples (R193, R200 to R202, R209). -/

namespace Sys2Proof.Machine

open Sys2Proof.Safety

/-! ### Writes of memory leave registers and directories alone -/

/-- Memory may have changed; registers and the KV unit's own state have not. -/
def StoredOnly (s t : State) : Prop := t.regs = s.regs ∧ t.kv = s.kv

theorem storedOnly_refl (s : State) : StoredOnly s s := ⟨rfl, rfl⟩

theorem StoredOnly.trans {s t u : State} (h : StoredOnly s t) (h' : StoredOnly t u) : StoredOnly s u :=
  ⟨h'.1.trans h.1, h'.2.trans h.2⟩

theorem storedOnly_foldl {α : Type} {f : State → α → State} (h : ∀ x s, StoredOnly s (f s x)) (xs : List α) (s : State) :
    StoredOnly s (xs.foldl f s) := by
  induction xs generalizing s with
  | nil => exact storedOnly_refl s
  | cons x xs ih => exact (h x s).trans (ih _)

theorem storedOnly_setMeta (a : Nat) (m : Meta) (s : State) : StoredOnly s (setMeta a m s) := ⟨rfl, rfl⟩

theorem storedOnly_failStaple (a : Nat) (s : State) : StoredOnly s (failStaple a s) := ⟨rfl, rfl⟩

theorem storedOnly_wrByte (a : Nat) (b : Byte) (s : State) : StoredOnly s (wrByte a b s) := ⟨rfl, rfl⟩

theorem storedOnly_wrBytes (a : Nat) (l : List Byte) (s : State) : StoredOnly s (wrBytes a l s) := ⟨wrBytes_regs a l s, wrBytes_kv a l s⟩

theorem storedOnly_wrSound (a : Nat) (l : List Byte) (s : State) : StoredOnly s (wrSound a l s) :=
  (storedOnly_wrBytes a l s).trans (storedOnly_foldl (fun _ _ => storedOnly_setMeta _ _ _) _ _)

theorem storedOnly_freshStaples (a n : Nat) (s : State) : StoredOnly s (freshStaples a n s) :=
  storedOnly_foldl (fun _ _ => storedOnly_setMeta _ _ _) _ s

theorem storedOnly_moveBytes (src dst n : Nat) (s : State) : StoredOnly s (moveBytes src dst n s) := by
  obtain ⟨m, hm⟩ := copyRange_eq src dst n s
  have hcopy : StoredOnly s (copyRange src dst n s) := by rw [hm]; exact ⟨rfl, rfl⟩
  refine hcopy.trans (storedOnly_foldl (fun p u => ?_) _ _)
  split
  · exact storedOnly_refl u
  · exact storedOnly_failStaple p u

theorem storedOnly_moveVecs (k : KvShape) (src dst : TokRef) (n kind head : Nat) (s : State) :
    StoredOnly s (moveVecs k src dst n kind head s) := by
  unfold moveVecs
  dsimp only
  split
  · exact ((storedOnly_moveBytes _ _ _ s).trans (storedOnly_moveBytes _ _ _ _)).trans
      (storedOnly_foldl (fun _ _ => storedOnly_wrByte _ _ _) _ _)
  · exact (storedOnly_moveBytes _ _ _ s).trans
      (storedOnly_foldl (fun _ _ => storedOnly_foldl (fun _ _ => storedOnly_failStaple _ _) _ _) _ _)

theorem storedOnly_moveSlots (kd : KvDesc) (src srcT srcSlot dst dstT dstSlot n : Nat) (s : State) :
    StoredOnly s (moveSlots kd src srcT srcSlot dst dstT dstSlot n s) :=
  storedOnly_foldl (fun _ _ => storedOnly_foldl (fun _ _ => storedOnly_foldl (fun _ _ => storedOnly_moveVecs _ _ _ _ _ _ _) _ _) _ _) _ s

theorem storedOnly_wrMerge (a : Nat) (bs : List Byte) (s : State) : StoredOnly s (wrMerge a bs false s) := by
  obtain ⟨⟨m, q, b, n, h⟩, -, -, -⟩ := wrMerge_spec a bs s
  rw [h]
  exact ⟨rfl, rfl⟩

theorem storedOnly_bobImage (kd : KvDesc) (data : List Byte) (dst lo hi : Nat) (s : State) : StoredOnly s (bobImage kd data dst lo hi s) := by
  refine storedOnly_foldl (fun l u => storedOnly_foldl (fun kind u => storedOnly_foldl (fun head u => ?_) _ _) _ _) _ s
  dsimp only
  split
  · exact (storedOnly_wrMerge _ _ _).trans (storedOnly_wrMerge _ _ _)
  · exact storedOnly_wrMerge _ _ _

theorem StoredOnly.sameRegs {s t : State} (h : StoredOnly s t) (l : List Nat) : SameRegs l s t := fun o _ => rd_congr h.1 o

theorem StoredOnly.dir_eq {s t : State} (h : StoredOnly s t) (k : Nat) : dir k t = dir k s := by
  unfold dir
  rw [h.2]

theorem StoredOnly.bobAddr_eq {s t : State} (h : StoredOnly s t) (a k f : Nat) : bobAddr a k f t = bobAddr a k f s := by
  have hcfg : t.kv.cfg = s.kv.cfg := by rw [h.2]
  have hrgn : kvRegion a t = kvRegion a s := kvRegion_congr (fun _ hr => region_congr (fun o _ _ => rd_congr h.1 o) hr) a
  unfold bobAddr classStart classStaples bobStaples
  simp only [hrgn, poolPages_congr hcfg, poolBobbins_congr hcfg, pageStaples_congr hcfg, kvCfg_congr hcfg]

theorem sameMem_after_of {f : State → State} {s u : State} (h : SameMem u (f s)) : SameMem u (after f s) := fun a => by
  rw [rdByte_after, metaAt_after]
  exact h a

theorem dir_after (h : Nat) (f : State → State) (s : State) : dir h (after f s) = dir h (f s) := by
  unfold dir
  rw [after_kv]

theorem dir_setDir_same (h : Nat) (d : Dir) (s : State) : dir h (setDir h d s) = d := lookup_put_same _ _ _ _

theorem landed_wrSound (a : Nat) (bs : List Byte) (s : State) : landed a bs s (wrSound a bs s) := by
  intro b
  have hmeta (l : List Nat) (u : State) : rdByte b (l.foldl (fun s p => setMeta p {} s) u) = rdByte b u := by
    induction l generalizing u with
    | nil => rfl
    | cons x l ih => exact ih _
  unfold wrSound
  rw [hmeta, rdByte_wrBytes]

/-! ### Flushes and carries (R200, R201) -/

/-- The 256 slots of a bobbin have been copied to its page. -/
def flushCopied (d : Dir) (b : Bobbin) (kd : KvDesc) (s : State) : State :=
  moveSlots kd (bobAddr b.atoll d.cls b.frame s) 320 0 (pageAddr b.atoll d.cls b.page s) 256 0 256
    (freshStaples (pageAddr b.atoll d.cls b.page s) (pageUsed kd) s)

/-- The directory with the flushed page added and the bobbin dropped, in one generation. -/
def flushedDir (d : Dir) (b : Bobbin) : Dir :=
  { setBob { b with dropped := true, dropGen := d.gen + 1, flushed := true } d with
    pend := true, ents := ins d.ents (b.basePage - d.firstPage) { atoll := b.atoll, frame := b.page, addGen := d.gen + 1 } }

/-- The flush is entered, and the bobbin held until the generation is published. -/
def flushEntered (h : Nat) (d : Dir) (b : Bobbin) (s : State) : State :=
  bump64 (KV_CNT 0) 1 (bump64 (KV_CNT 4) 1 (holdItem (unpublished h) (.bobbin d.ctx b.atoll d.cls b.frame) (setDir h (flushedDir d b) s)))

theorem flushDone_eq {h : Nat} {b : Bobbin} {kd : KvDesc} {s : State} (hb : flushingBob (dir h s) = some b)
    (hkd : (ctx (dir h s).ctx s).weave.kv = some kd) (hdrop : (dir h s).dropped = false)
    (hup : retraining (pageAddr b.atoll (dir h s).cls b.page s) s = false) :
    flushDone h s = flushEntered h (dir h s) b (flushCopied (dir h s) b kd s) := by
  unfold flushDone flushEntered flushedDir flushCopied
  dsimp only
  rw [hb, hkd]
  dsimp only
  rw [hdrop, hup]
  rw [if_neg (by decide), (storedOnly_freshStaples _ _ s).bobAddr_eq]


theorem flush_completes (h : BitVec 18) (b : Bobbin) (kd : KvDesc) (s : State) (hb : flushingBob (dir h.toNat s) = some b)
    (hkd : (ctx (dir h.toNat s).ctx s).weave.kv = some kd) (hdrop : (dir h.toNat s).dropped = false)
    (hup : retraining (pageAddr b.atoll (dir h.toNat s).cls b.page s) s = false) : Gives (.flushComplete h) s fun t =>
      find? (dir h.toNat t).ents (b.basePage - (dir h.toNat s).firstPage) =
          some { atoll := b.atoll, frame := b.page, addGen := (dir h.toNat s).gen + 1 } ∧
        (dir h.toNat t).pend = true ∧
        (unpublished h.toNat, .bobbin (dir h.toNat s).ctx b.atoll (dir h.toNat s).cls b.frame) ∈ t.kv.held ∧ counts (KV_CNT 0) 1 s t ∧
        SameMem (flushCopied (dir h.toNat s) b kd s) t ∧ SameRegs [KV_CNT 0, KV_CNT 4] s t := by
  obtain ⟨u, hu⟩ : ∃ u, u = flushCopied (dir h.toNat s) b kd s := ⟨_, rfl⟩
  have hstored : StoredOnly s u := by
    rw [hu]
    exact (storedOnly_freshStaples _ _ s).trans (storedOnly_moveSlots _ _ _ _ _ _ _ _ _)
  have he := flushDone_eq hb hkd hdrop hup
  rw [← hu] at he ⊢
  generalize dir h.toNat s = d at *
  have honly : KvOnly [KV_CNT 0, KV_CNT 4] u (flushEntered h.toNat d b u) :=
    (((kvOnly_setDir _ _ _ u).trans (kvOnly_holdItem _ _ _ _)).trans (kvOnly_bump64 (by simp) 1 _)).trans (kvOnly_bump64 (by simp) 1 _)
  have hkv : (flushEntered h.toNat d b u).kv =
      (holdItem (unpublished h.toNat) (.bobbin d.ctx b.atoll d.cls b.frame) (setDir h.toNat (flushedDir d b) u)).kv := by
    unfold flushEntered
    rw [bump64_kv, bump64_kv]
  have hdir : dir h.toNat (flushEntered h.toNat d b u) = flushedDir d b := by
    unfold dir
    rw [hkv]
    exact lookup_put_same _ _ _ _
  refine gives_run_to rfl he ⟨?_, ?_, ?_, ?_, sameMem_after_of (f := fun _ => flushEntered h.toNat d b u) honly.sameMem, fun o ho => ?_⟩
  · rw [dir_after, hdir]
    exact find?_ins_same _ _ _
  · rw [dir_after, hdir]
    rfl
  · rw [after_kv, hkv]
    exact List.mem_append_right _ (List.mem_singleton.mpr rfl)
  · refine counts_after (f := fun _ => flushEntered h.toNat d b u) (?_ : counts (KV_CNT 0) 1 s (flushEntered h.toNat d b u))
    have hcount : rd (KV_CNT 0) (bump64 (KV_CNT 4) 1 (holdItem (unpublished h.toNat) (.bobbin d.ctx b.atoll d.cls b.frame)
        (setDir h.toNat (flushedDir d b) u))) = rd (KV_CNT 0) s :=
      (rd_wr_other (by decide) _ _).trans (rd_congr hstored.1 _)
    unfold counts
    rw [← hcount]
    exact counts_bump64 (KV_CNT 0) 1 _
  · rw [rd_after]
    exact (honly.2 o ho).trans (rd_congr hstored.1 o)

/-- The directory of a bobbin whose carry has landed. -/
def carriedDir (d : Dir) (b : Bobbin) : Dir := setBob { b with carry := none } d

theorem carryDone_eq {h : Nat} {b : Bobbin} {kd : KvDesc} {a f n : Nat} {s : State}
    (hb : (dir h s).bobbins.find? (fun b => !b.dropped && b.carry.isSome) = some b) (hc : b.carry = some (a, f, n))
    (hkd : (ctx (dir h s).ctx s).weave.kv = some kd) (hsrc : retraining (bobAddr a (dir h s).cls f s) s = false)
    (hdst : retraining (bobAddr b.atoll (dir h s).cls b.frame s) s = false) :
    carryDone h s = setDir h (carriedDir (dir h s) b)
      (moveSlots kd (bobAddr a (dir h s).cls f s) 320 256 (bobAddr b.atoll (dir h s).cls b.frame s) 320 0 n s) := by
  unfold carryDone
  dsimp only
  rw [hb, hkd]
  dsimp only
  split
  next a' f' n' hc' =>
    rw [hc] at hc'
    cases hc'
    exact if_neg (by rw [hsrc, hdst]; decide)
  next hc' => rw [hc] at hc'; cases hc'

theorem carry_lands (h : BitVec 18) (b : Bobbin) (kd : KvDesc) (a f n : Nat) (s : State)
    (hb : (dir h.toNat s).bobbins.find? (fun b => !b.dropped && b.carry.isSome) = some b) (hc : b.carry = some (a, f, n))
    (hkd : (ctx (dir h.toNat s).ctx s).weave.kv = some kd) (hsrc : retraining (bobAddr a (dir h.toNat s).cls f s) s = false)
    (hdst : retraining (bobAddr b.atoll (dir h.toNat s).cls b.frame s) s = false) : Gives (.carryLanded h) s fun t =>
      (∀ x ∈ (dir h.toNat t).bobbins, x.basePage = b.basePage → x.dropped = false → x.carry = none) ∧
        SameMem (moveSlots kd (bobAddr a (dir h.toNat s).cls f s) 320 256 (bobAddr b.atoll (dir h.toNat s).cls b.frame s) 320 0 n s) t ∧
        SameRegs [] s t := by
  have he := carryDone_eq hb hc hkd hsrc hdst
  have hstored := storedOnly_moveSlots kd (bobAddr a (dir h.toNat s).cls f s) 320 256 (bobAddr b.atoll (dir h.toNat s).cls b.frame s) 320 0 n s
  generalize moveSlots kd (bobAddr a (dir h.toNat s).cls f s) 320 256 (bobAddr b.atoll (dir h.toNat s).cls b.frame s) 320 0 n s = u at *
  have hmem : SameMem u (setDir h.toNat (carriedDir (dir h.toNat s) b) u) := (kvOnly_setDir [] _ _ u).sameMem
  have hregs (o : Nat) : rd o (setDir h.toNat (carriedDir (dir h.toNat s) b) u) = rd o s := rd_congr hstored.1 o
  refine gives_run_to rfl he ⟨fun x hx hbase hdrop => ?_, sameMem_after_of (f := fun _ => setDir h.toNat (carriedDir (dir h.toNat s) b) u) hmem, fun o _ => (rd_after o _ s).trans (hregs o)⟩
  · rw [dir_after, dir_setDir_same] at hx
    obtain ⟨y, -, hxy⟩ := List.mem_map.mp hx
    split at hxy
    · rw [← hxy]
    next hno =>
      subst hxy
      exact absurd (by simp [hbase, hdrop]) hno

/-! ### Prefill pages (R202, R209) -/

section
variable {i : Nat} {v : Nat} {data : List Byte} {st : Step} {b : BatchSk} {s : State}
  (hst : stepOf (sk i s).ctx s = some st) (hb : (st.batch.find? fun b => b.skein == i && b.prefill) = some b)
include hst hb

theorem prefillPage_framed {x : Nat × Nat × Nat} (hv : (dir (sk i s).dir s).firstPage ≤ v)
    (hx : (b.frames.find? fun f => f.1 == v - (dir (sk i s).dir s).firstPage) = some x)
    (hup : retraining (pageAddr x.2.1 (dir (sk i s).dir s).cls x.2.2 s) s = false) :
    prefillPage i v data s = bump64 (KV_CNT 1) 1 (wrSound (pageAddr x.2.1 (dir (sk i s).dir s).cls x.2.2 s)
      (data.take (min data.length (pageStaples (dir (sk i s).dir s).cls s * 4096))) s) := by
  unfold prefillPage
  dsimp only
  rw [hst]
  dsimp only
  rw [hb]
  dsimp only
  rw [if_neg (by omega), hx]
  dsimp only
  rw [if_neg (by rw [hup]; decide)]

theorem prefillPage_forwarded (hv : v < (dir (sk i s).dir s).firstPage) (hlow : 256 * v < b.base + b.rows) (hhigh : b.base < 256 * v + 256) :
    prefillPage i v data s = bump64 (KV_CNT 1) 1 (send (.prefillPage i (sk i s).gen v data) s) := by
  unfold prefillPage
  dsimp only
  rw [hst]
  dsimp only
  rw [hb]
  dsimp only
  rw [if_pos hv, if_pos (by simp [hlow, hhigh])]

theorem prefillPage_covered {ob : Bobbin} {kd : KvDesc} (hv : (dir (sk i s).dir s).firstPage ≤ v)
    (hx : (b.frames.find? fun f => f.1 == v - (dir (sk i s).dir s).firstPage) = none) (hob : openBob (dir (sk i s).dir s) = some ob)
    (hkd : (ctx (dir (sk i s).dir s).ctx s).weave.kv = some kd) (hbase : v = ob.basePage)
    (hup : retraining (bobAddr ob.atoll (dir (sk i s).dir s).cls ob.frame s) s = false) :
    prefillPage i v data s = bobImage kd data (bobAddr ob.atoll (dir (sk i s).dir s).cls ob.frame s) (max b.base (256 * v) - 256 * v)
      (min (b.base + b.rows) (256 * v + 256) - 256 * v) s := by
  unfold prefillPage
  dsimp only
  rw [hst]
  dsimp only
  rw [hb]
  dsimp only
  rw [if_neg (by omega), hx]
  dsimp only
  unfold bobTokens
  rw [hob, hkd]
  dsimp only
  rw [if_pos hbase, if_neg (by rw [hup]; decide)]

end

theorem counts_bump64_of {o n : Nat} {s u : State} (h : rd o u = rd o s) : counts o n s (bump64 o n u) := by
  unfold counts
  rw [← h]
  exact counts_bump64 o n u

/-- A page of a slice lands in its frame, goes on to its shard, or stands in the bobbin that covers it. -/
theorem prefill_lands (i : BitVec 18) (v : Nat) (data : List Byte) (st : Step) (b : BatchSk) (s : State)
    (hst : stepOf (sk i.toNat s).ctx s = some st) (hb : (st.batch.find? fun b => b.skein == i.toNat && b.prefill) = some b) :
    (∀ x, (dir (sk i.toNat s).dir s).firstPage ≤ v →
      (b.frames.find? fun f => f.1 == v - (dir (sk i.toNat s).dir s).firstPage) = some x →
      retraining (pageAddr x.2.1 (dir (sk i.toNat s).dir s).cls x.2.2 s) s = false → Gives (.prefillPageWrite i v data) s fun t =>
      landed (pageAddr x.2.1 (dir (sk i.toNat s).dir s).cls x.2.2 s)
          (data.take (min data.length (pageStaples (dir (sk i.toNat s).dir s).cls s * 4096))) s t ∧
        counts (KV_CNT 1) 1 s t ∧ SameRegs [KV_CNT 1] s t) ∧
    (v < (dir (sk i.toNat s).dir s).firstPage → 256 * v < b.base + b.rows → b.base < 256 * v + 256 →
      Gives (.prefillPageWrite i v data) s fun t =>
      .prefillPage i.toNat (sk i.toNat s).gen v data ∈ t.sent ∧ counts (KV_CNT 1) 1 s t ∧ RegsOnly [KV_CNT 1] s t) ∧
    (∀ ob kd, (dir (sk i.toNat s).dir s).firstPage ≤ v →
      (b.frames.find? fun f => f.1 == v - (dir (sk i.toNat s).dir s).firstPage) = none →
      openBob (dir (sk i.toNat s).dir s) = some ob → (ctx (dir (sk i.toNat s).dir s).ctx s).weave.kv = some kd → v = ob.basePage →
      retraining (bobAddr ob.atoll (dir (sk i.toNat s).dir s).cls ob.frame s) s = false → Gives (.prefillPageWrite i v data) s fun t =>
        SameMem (bobImage kd data (bobAddr ob.atoll (dir (sk i.toNat s).dir s).cls ob.frame s) (max b.base (256 * v) - 256 * v)
          (min (b.base + b.rows) (256 * v + 256) - 256 * v) s) t ∧ SameRegs [] s t) := by
  refine ⟨fun x hv hx hup => ?_, fun hv hlow hhigh => ?_, fun ob kd hv hx hob hkd hbase hup => ?_⟩
  · have he := prefillPage_framed (data := data) hst hb hv hx hup
    have hstored := storedOnly_wrSound (pageAddr x.2.1 (dir (sk i.toNat s).dir s).cls x.2.2 s)
      (data.take (min data.length (pageStaples (dir (sk i.toNat s).dir s).cls s * 4096))) s
    have hland := landed_wrSound (pageAddr x.2.1 (dir (sk i.toNat s).dir s).cls x.2.2 s)
      (data.take (min data.length (pageStaples (dir (sk i.toNat s).dir s).cls s * 4096))) s
    generalize wrSound _ _ s = u at *
    have hc : counts (KV_CNT 1) 1 s (bump64 (KV_CNT 1) 1 u) := counts_bump64_of (rd_congr hstored.1 _)
    have hr : SameRegs [KV_CNT 1] s (bump64 (KV_CNT 1) 1 u) := fun o ho =>
      ((regEffect_bump64 (KV_CNT 1) 1 u).2 o ho).trans (rd_congr hstored.1 o)
    exact gives_run_to rfl he ⟨landed_after (f := fun _ => bump64 (KV_CNT 1) 1 u) hland, counts_after (f := fun _ => bump64 (KV_CNT 1) 1 u) hc,
      sameRegs_after (f := fun _ => bump64 (KV_CNT 1) 1 u) hr⟩
  · have he := prefillPage_forwarded (data := data) hst hb hv hlow hhigh
    have hregs : RegsOnly [KV_CNT 1] s (bump64 (KV_CNT 1) 1 (send (.prefillPage i.toNat (sk i.toNat s).gen v data) s)) :=
      regsOnly_trans (regsOnly_send _ s) ((regEffect_bump64 (KV_CNT 1) 1).regsOnly _)
    refine gives_run_of (g := fun s => bump64 (KV_CNT 1) 1 (send (.prefillPage i.toNat (sk i.toNat s).gen v data) s)) rfl he
      ⟨mem_sent_after ?_, counts_after (counts_bump64_of rfl), regsOnly_after hregs⟩
    rw [bump64_sent]
    exact List.mem_append_right _ (List.mem_singleton.mpr rfl)
  · have he := prefillPage_covered (data := data) hst hb hv hx hob hkd hbase hup
    have hstored := storedOnly_bobImage kd data (bobAddr ob.atoll (dir (sk i.toNat s).dir s).cls ob.frame s)
      (max b.base (256 * v) - 256 * v) (min (b.base + b.rows) (256 * v + 256) - 256 * v) s
    generalize bobImage kd data _ _ _ s = u at *
    exact gives_run_to rfl he ⟨sameMem_after_of (f := fun _ => u) fun _ => ⟨rfl, rfl⟩,
      sameRegs_after (f := fun _ => u) (hstored.sameRegs [])⟩

/-- A forwarded page lands in its reserved frame. -/
theorem shardPage_lands (h : BitVec 18) (u a f : Nat) (data : List Byte) (s : State)
    (hres : find? (dir h.toNat s).reserved u = some (a, f)) (hup : retraining (pageAddr a (dir h.toNat s).cls f s) s = false) :
    Gives (.shardPageLanding h u data) s fun t =>
      landed (pageAddr a (dir h.toNat s).cls f s) (data.take (min data.length (pageStaples (dir h.toNat s).cls s * 4096))) s t ∧
        find? (dir h.toNat t).ents u = some { atoll := a, frame := f, addGen := (dir h.toNat s).gen + 1 } ∧
        find? (dir h.toNat t).reserved u = none ∧ SameRegs [] s t := by
  obtain ⟨d, hd⟩ : ∃ d, d = dir h.toNat s := ⟨_, rfl⟩
  have he : shardPage h.toNat u data s = setDir h.toNat
      { d with pend := true, reserved := del d.reserved u, ents := ins d.ents u { atoll := a, frame := f, addGen := d.gen + 1 } }
      (wrSound (pageAddr a d.cls f s) (data.take (min data.length (pageStaples d.cls s * 4096))) s) := by
    unfold shardPage
    dsimp only
    rw [hres]
    dsimp only
    rw [if_neg (by rw [hup]; decide), hd]
  rw [← hd]
  have hland := landed_wrSound (pageAddr a d.cls f s) (data.take (min data.length (pageStaples d.cls s * 4096))) s
  have hstored := storedOnly_wrSound (pageAddr a d.cls f s) (data.take (min data.length (pageStaples d.cls s * 4096))) s
  generalize wrSound (pageAddr a d.cls f s) (data.take (min data.length (pageStaples d.cls s * 4096))) s = w at *
  obtain ⟨n, hn⟩ : ∃ n, n = { d with pend := true, reserved := del d.reserved u, ents := ins d.ents u { atoll := a, frame := f, addGen := d.gen + 1 } } :=
    ⟨_, rfl⟩
  rw [← hn] at he
  refine gives_run_to rfl he ⟨landed_after (f := fun _ => setDir h.toNat n w) hland, ?_, ?_,
    sameRegs_after (f := fun _ => setDir h.toNat n w) (fun o _ => rd_congr hstored.1 o)⟩
  · rw [dir_after, dir_setDir_same, hn]
    exact find?_ins_same _ _ _
  · rw [dir_after, dir_setDir_same, hn]
    exact find?_del_same _ _

/-! ### Directory staples (R193) -/

/-- The staple of atoll `b` that holds the head of a directory, or its leaf. -/
def dirStaple (h : Nat) (leaf : Option Nat) (s : State) (b : Nat) : Nat :=
  match leaf with
  | none => headStaple b h
  | some j => leafStaple b ((dir h s).leaves.getD j 0) s

section
variable {h a : Nat} {leaf : Option Nat} {s : State} (hleaf : ∀ j, leaf = some j → j < (dir h s).leaves.length)
  (hdir : (find? s.kv.dirs h).isSome) (ha : a ∈ (dir h s).atolls) (hbad : stapleOk (dirStaple h leaf s a) s = false)
  (hup : retraining (dirStaple h leaf s a) s = false)
include hleaf hdir ha hbad hup

theorem repairDir_due : repairDir h a leaf s =
    match ((dir h s).atolls.filter (· != a)).find? fun b => stapleOk (dirStaple h leaf s b) s with
    | some _ => bump64 (KV_CNT 7) 1 (setMeta (dirStaple h leaf s a) {} s)
    | none =>
      if (dir h s).shard = (dir h s).shards1 then
        faultSkein (dir h s).skein fcKv (raiseLatch KV_ERR_DIR_CRC [(KV_ERR_ADDR_STAPLE, dirStaple h leaf s a / 4096)] s)
      else raiseLatch KV_ERR_DIR_CRC [(KV_ERR_ADDR_STAPLE, dirStaple h leaf s a / 4096)] s := by
  have hsome : (find? s.kv.dirs h).isNone = false := by
    cases hf : find? s.kv.dirs h with
    | none => rw [hf] at hdir; cases hdir
    | some d => rfl
  have hin : (dir h s).atolls.contains a = true := by simpa using ha
  cases leaf with
  | none =>
    unfold repairDir
    exact if_neg (by
      show ¬(((find? s.kv.dirs h).isNone || !(dir h s).atolls.contains a || !true || stapleOk (dirStaple h none s a) s ||
        retraining (dirStaple h none s a) s) = true)
      rw [hsome, hin, hbad, hup]
      decide)
  | some j =>
    unfold repairDir
    exact if_neg (by
      show ¬(((find? s.kv.dirs h).isNone || !(dir h s).atolls.contains a || !(decide (j < (dir h s).leaves.length)) ||
        stapleOk (dirStaple h (some j) s a) s || retraining (dirStaple h (some j) s a) s) = true)
      rw [hsome, hin, hbad, hup, decide_eq_true (hleaf j rfl)]
      decide)

theorem repairDir_copied (hgood : ∃ b ∈ (dir h s).atolls, b ≠ a ∧ stapleOk (dirStaple h leaf s b) s = true) :
    repairDir h a leaf s = bump64 (KV_CNT 7) 1 (setMeta (dirStaple h leaf s a) {} s) := by
  rw [repairDir_due hleaf hdir ha hbad hup]
  obtain ⟨b, hb, hne, hok⟩ := hgood
  cases hf : ((dir h s).atolls.filter (· != a)).find? fun b => stapleOk (dirStaple h leaf s b) s with
  | some _ => rfl
  | none => exact absurd hok (List.find?_eq_none.mp hf b (List.mem_filter.mpr ⟨hb, by simpa using hne⟩))

theorem repairDir_lost (hnone : ∀ b ∈ (dir h s).atolls, b ≠ a → stapleOk (dirStaple h leaf s b) s = false) :
    repairDir h a leaf s =
      if (dir h s).shard = (dir h s).shards1 then
        faultSkein (dir h s).skein fcKv (raiseLatch KV_ERR_DIR_CRC [(KV_ERR_ADDR_STAPLE, dirStaple h leaf s a / 4096)] s)
      else raiseLatch KV_ERR_DIR_CRC [(KV_ERR_ADDR_STAPLE, dirStaple h leaf s a / 4096)] s := by
  rw [repairDir_due hleaf hdir ha hbad hup]
  have hf : (((dir h s).atolls.filter (· != a)).find? fun b => stapleOk (dirStaple h leaf s b) s) = none :=
    List.find?_eq_none.mpr fun b hb => by
      obtain ⟨hmem, hne⟩ := List.mem_filter.mp hb
      rw [hnone b hmem (by simpa using hne)]
      decide
  rw [hf]

end

theorem repair_ends (h : BitVec 18) (a : BitVec 3) (leaf : Option Nat) (s : State)
    (hleaf : ∀ j, leaf = some j → j < (dir h.toNat s).leaves.length) (hdir : (find? s.kv.dirs h.toNat).isSome)
    (ha : a.toNat ∈ (dir h.toNat s).atolls) (hbad : stapleOk (dirStaple h.toNat leaf s a.toNat) s = false)
    (hup : retraining (dirStaple h.toNat leaf s a.toNat) s = false) :
    ((∃ b ∈ (dir h.toNat s).atolls, b ≠ a.toNat ∧ stapleOk (dirStaple h.toNat leaf s b) s = true) →
      Gives (.directoryRepair h a leaf) s fun t =>
        metaAt (dirStaple h.toNat leaf s a.toNat) t = {} ∧ counts (KV_CNT 7) 1 s t ∧ SameRegs [KV_CNT 7] s t ∧
          ∀ x, rdByte x t = rdByte x s) ∧
    ((∀ b ∈ (dir h.toNat s).atolls, b ≠ a.toNat → stapleOk (dirStaple h.toNat leaf s b) s = false) →
      Gives (.directoryRepair h a leaf) s fun t =>
        bit KV_ERR_DIR_CRC t = true ∧ ((dir h.toNat s).shard = (dir h.toNat s).shards1 → skLive (sk (dir h.toNat s).skein s) = true →
          (sk (dir h.toNat s).skein t).state = .faulted ∧ (sk (dir h.toNat s).skein t).cause = fcKv)) := by
  refine ⟨fun hgood => ?_, fun hnone => ?_⟩
  · have he := repairDir_copied hleaf hdir ha hbad hup hgood
    generalize dirStaple h.toNat leaf s a.toNat = p at *
    refine gives_run_of (g := fun s => bump64 (KV_CNT 7) 1 (setMeta p {} s)) rfl he ⟨?_, counts_after (counts_bump64_of rfl),
      sameRegs_after fun o ho => (regEffect_bump64 (KV_CNT 7) 1 _).2 o ho, fun x => by rw [rdByte_after]; rfl⟩
    rw [metaAt_after]
    show lookup (put s.staples {} (stapleOf p) {}) {} (stapleOf p) = {}
    exact lookup_put_same _ _ _ _
  · have he := repairDir_lost hleaf hdir ha hbad hup hnone
    have herr := bit_raiseLatch (f := KV_ERR_DIR_CRC) (by decide) (by decide)
      [(KV_ERR_ADDR_STAPLE, dirStaple h.toNat leaf s a.toNat / 4096)] s
    have hsk (i : Nat) : sk i (raiseLatch KV_ERR_DIR_CRC [(KV_ERR_ADDR_STAPLE, dirStaple h.toNat leaf s a.toNat / 4096)] s) = sk i s := by
      unfold raiseLatch
      split
      · exact sk_setErr i _ _ |>.trans (by unfold sk; rw [setFlds_skeins])
      · rfl
    generalize raiseLatch KV_ERR_DIR_CRC [(KV_ERR_ADDR_STAPLE, dirStaple h.toNat leaf s a.toNat / 4096)] s = u at *
    refine gives_run_to rfl he ⟨?_, fun hlast hlive => ?_⟩
    · rw [bit_after]
      split
      · rw [bit_faultSkein (by decide)]
        exact herr
      · exact herr
    · have hsk' : sk (dir h.toNat s).skein (after (fun _ => if (dir h.toNat s).shard = (dir h.toNat s).shards1 then
          faultSkein (dir h.toNat s).skein fcKv u else u) s) = faultedEntry fcKv (sk (dir h.toNat s).skein s) := by
        rw [if_pos hlast]
        have hfault := sk_faultSkein_same (s := u) (by rw [hsk]; exact hlive) fcKv
        rw [hsk] at hfault
        unfold sk at hfault ⊢
        rw [after_skeins]
        exact hfault
      rw [hsk']
      exact ⟨rfl, rfl⟩

theorem kvPages_holds : kvPages := by
  refine ⟨flush_completes, carry_lands, prefill_lands, shardPage_lands, fun h a leaf s => ?_⟩
  have hends := repair_ends h a leaf s
  cases leaf with
  | none => exact hends
  | some j => exact hends

/-- Settles O41, by the operations of the KV unit: the build, the directories that are made, filled, repaired and dropped. -/
theorem kvSequences : Obligations.KvSequences := ⟨kvBuildAndShards_holds, kvPages_holds⟩

end Sys2Proof.Machine
end

section
/-! PROOFS. Faults of a context, entries of a list, and blocks that are written one after another. -/

namespace Sys2Proof.Machine

open Sys2Proof.Safety

/-! ### A context faults (R360) -/

theorem rd_raiseErr {f : FRef} {info : Nat} {flds : List (FRef × Nat)} {o : Nat} (hf : o ≠ f.off) (hflds : ∀ p ∈ flds, p.1.off ≠ o)
    (s : State) : rd o (raiseErr f info flds s) = rd o s := by
  have hset (u : State) : rd o (setErr f u) = rd o u := rd_setFld_other f 1 u hf
  unfold raiseErr
  split
  · refine (hset _).trans ((regEffect_setFlds flds s).2 o fun hm => ?_)
    obtain ⟨p, hp, he⟩ := List.mem_map.mp hm
    exact hflds p hp he
  · exact hset s

theorem ctxErr_state (f : FRef) (hf : f.off = CTX_ERR) (c k : Nat) (s : State) : ctxState k (ctxErr f c s) = ctxState k s :=
  fld_congr_rd (rd_raiseErr (o := CTX_STATE k) (by rw [hf]; unfold CTX_STATE CTX_ERR; omega)
    (by simp only [List.forall_mem_singleton, CTX_ERR_INFO_CONTEXT, CTX_ERR_INFO, CTX_STATE]; omega) s)

theorem ctxErr_cause (f : FRef) (hf : f.off = CTX_ERR) (c k : Nat) (s : State) :
    fld (CTX_FAULT_CAUSE k) (ctxErr f c s) = fld (CTX_FAULT_CAUSE k) s :=
  fld_congr_rd (rd_raiseErr (o := CTX_FAULT k) (by rw [hf]; unfold CTX_FAULT CTX_ERR; omega)
    (by simp only [List.forall_mem_singleton, CTX_ERR_INFO_CONTEXT, CTX_ERR_INFO, CTX_FAULT]; omega) s)

/-- The last part of a fault: its fields, and the state. -/
def faultShown (c cause sp : Nat) (s : State) : State :=
  ctxErr CTX_ERR_FAULT c (setState c cxFaulted (setFlds [(CTX_FAULT_SPINDLE c, sp), (CTX_FAULT_CAUSE c, cause)] s))

theorem faultShown_faulted {c cause : Nat} (h : cause < 256) (sp : Nat) (s : State) : faultedWith c cause (faultShown c cause sp s) := by
  refine ⟨(ctxErr_state _ rfl c c _).trans (fld_setState (by decide) _), (ctxErr_cause _ rfl c c _).trans ?_⟩
  have hstate (u : State) : fld (CTX_FAULT_CAUSE c) (setState c cxFaulted u) = fld (CTX_FAULT_CAUSE c) u :=
    fld_setFld_other _ _ _ u (by simp only [CTX_FAULT_CAUSE, CTX_STATE_STATE, CTX_FAULT, CTX_STATE]; omega)
  rw [hstate]
  refine (fld_setFld_same (CTX_FAULT_CAUSE c) cause _ (show 7 < 64 by decide)).trans (Nat.mod_eq_of_lt h)

theorem faultCtx_shown {c : Nat} {s : State} (h : ctxLive c s = true) (cause : Nat) (spindle : Option Nat) :
    ∃ u, faultCtx c cause spindle s = faultShown c cause (spindle.getD 0x1FF) u := by
  unfold faultCtx
  rw [if_pos h]
  exact ⟨_, rfl⟩

theorem faultCtx_faulted {c cause : Nat} {s : State} (hlive : ctxLive c s = true) (h : cause < 256) (spindle : Option Nat) :
    faultedWith c cause (faultCtx c cause spindle s) := by
  obtain ⟨u, hu⟩ := faultCtx_shown hlive cause spindle
  rw [hu]
  exact faultShown_faulted h _ u

theorem faultedWith_after {c cause : Nat} {f : State → State} {s : State} (h : faultedWith c cause (f s)) :
    faultedWith c cause (after f s) := ⟨(fld_after _ f s).trans h.1, (fld_after _ f s).trans h.2⟩

/-- A flag below the context registers that a fault does not concern stays. -/
theorem bit_faultCtx {f : FRef} (hlow : f.off < INT_STRIKES 0) (hoff : f.off ∉ troubleRegs) (c cause : Nat) (spindle : Option Nat)
    (s : State) : bit f (faultCtx c cause spindle s) = bit f s := by
  have h := ((troubled_faultCtx c cause spindle s).keepsReg (by unfold INT_STRIKES at hlow; omega) hoff).fld_low hlow
  unfold bit
  rw [h]

/-- A flag of another block, apart from the phase of a physical spindle. -/
theorem bit_faultCtx_narrow {f : FRef} (hhi : f.hi < 29) (hlow : f.off < 0x800000) (hoff : f.off ∉ troubleRegs) (c cause : Nat)
    (spindle : Option Nat) (s : State) : bit f (faultCtx c cause spindle s) = bit f s := by
  have h := ((troubled_faultCtx c cause spindle s).keepsReg hlow hoff).fld_eq hhi
  unfold bit
  rw [h]

/-! ### Entries of a list -/

theorem setDisp_eq (e : EntryRef) (d : Disp) (s : State) : ∃ x, setDisp e d s = { s with ctxs := x } := ⟨_, rfl⟩

theorem dispAt_setDisp {e : EntryRef} {d d' : Disp} {s : State} (h : dispAt e s = some d') : dispAt e (setDisp e d s) = some d := by
  have hctx : ctx e.ctx.toNat (setDisp e d s) = (fun x : Ctx => match x.step with
    | none => x
    | some st =>
      let l := setAt (lookup st.lists [] e.phase.toNat) e.idx d
      { x with step := some { st with lists := put st.lists [] e.phase.toNat l } }) (ctx e.ctx.toNat s) := ctx_setCtx_same _ _ _
  unfold dispAt at h ⊢
  rw [hctx]
  dsimp only
  cases hst : (ctx e.ctx.toNat s).step with
  | none => rw [hst] at h; cases h
  | some st =>
    rw [hst] at h
    dsimp only at h ⊢
    rw [lookup_put_same]
    exact getElem?_setAt_same h d

theorem regsOnly_setDisp (e : EntryRef) (d : Disp) (s : State) : RegsOnly [] { s with ctxs := (setDisp e d s).ctxs } (setDisp e d s) :=
  (regEffect_id []).regsOnly _

/-! ### Blocks that a unit writes one after another -/

/-- The bytes of a run of blocks, each at its own place. -/
def BlocksLanded (base stride n : Nat) (bytes : Nat → List Byte) (s t : State) : Prop :=
  (∀ k < n, ∀ i < (bytes k).length, rdByte (base + k * stride + i) t = (bytes k).getD i 0) ∧
    ∀ b, b < base ∨ base + n * stride ≤ b → rdByte b t = rdByte b s

theorem blocksLanded_foldl {w : Nat → List Byte → State → State} (hw : ∀ a bs s, landed a bs s (w a bs s)) {stride n : Nat}
    {bytes : Nat → List Byte} (hlen : ∀ k < n, (bytes k).length ≤ stride) (base : Nat) (s : State) :
    BlocksLanded base stride n bytes s ((List.range n).foldl (fun s k => w (base + k * stride) (bytes k) s) s) := by
  induction n with
  | zero => exact ⟨fun k hk => absurd hk (by omega), fun b _ => rfl⟩
  | succ n ih =>
    obtain ⟨hin, hout⟩ := ih fun k hk => hlen k (by omega)
    rw [List.range_succ, List.foldl_append, List.foldl_cons, List.foldl_nil]
    have hlast := hw (base + n * stride) (bytes n) ((List.range n).foldl (fun s k => w (base + k * stride) (bytes k) s) s)
    have hn := hlen n (by omega)
    have hsucc : (n + 1) * stride = n * stride + stride := Nat.succ_mul n stride
    refine ⟨fun k hk i hi => ?_, fun b hb => ?_⟩
    · rw [hlast]
      by_cases hkn : k = n
      · subst hkn
        rw [if_pos ⟨by omega, by omega⟩]
        congr 1
        omega
      · have hlt : (k + 1) * stride ≤ n * stride := Nat.mul_le_mul_right stride (by omega)
        rw [Nat.succ_mul] at hlt
        have hk' := hlen k (by omega)
        rw [if_neg (by omega)]
        exact hin k (by omega) i hi
    · rw [hlast, if_neg (by omega)]
      exact hout b (by omega)

theorem landed_wrMerge (a : Nat) (bs : List Byte) (s : State) : landed a bs s (wrMerge a bs false s) := (wrMerge_spec a bs s).2.1

/-- Registers, contexts and skeins are as before. -/
def DataOnly (s t : State) : Prop := ∃ m q b n, t = { s with mem := m, staples := q, lagoonBad := b, spns := n }

theorem dataOnly_refl (s : State) : DataOnly s s := ⟨_, _, _, _, rfl⟩

theorem DataOnly.trans {s t u : State} (h : DataOnly s t) (h' : DataOnly t u) : DataOnly s u := by
  obtain ⟨m, q, b, n, rfl⟩ := h
  obtain ⟨m', q', b', n', rfl⟩ := h'
  exact ⟨m', q', b', n', rfl⟩

theorem dataOnly_wrMerge (a : Nat) (bs : List Byte) (s : State) : DataOnly s (wrMerge a bs false s) := (wrMerge_spec a bs s).1

theorem dataOnly_foldl {α : Type} {f : State → α → State} (h : ∀ x s, DataOnly s (f s x)) (xs : List α) (s : State) :
    DataOnly s (xs.foldl f s) := by
  induction xs generalizing s with
  | nil => exact dataOnly_refl s
  | cons x xs ih => exact (h x s).trans (ih _)

theorem DataOnly.ctx_eq {s t : State} (h : DataOnly s t) (c : Nat) : ctx c t = ctx c s := by
  obtain ⟨m, q, b, n, rfl⟩ := h
  rfl

theorem DataOnly.rd_eq {s t : State} (h : DataOnly s t) (o : Nat) : rd o t = rd o s := by
  obtain ⟨m, q, b, n, rfl⟩ := h
  rfl

/-! ### Words of bytes -/

theorem bytesToNat_natToBytes (n v : Nat) : bytesToNat (natToBytes n v) = v % 256 ^ n := by
  induction n generalizing v with
  | zero => exact (Nat.mod_one v).symm
  | succ n ih =>
    show (BitVec.ofNat 8 v).toNat + 256 * bytesToNat (natToBytes n (v / 256)) = _
    rw [ih, BitVec.toNat_ofNat]
    show v % 256 + 256 * (v / 256 % 256 ^ n) = _
    rw [Nat.pow_succ', Nat.mod_mul]

theorem rdBytes_of {a n : Nat} {bs : List Byte} {s : State} (hlen : bs.length = n) (h : ∀ i < n, rdByte (a + i) s = bs.getD i 0) :
    rdBytes a n s = bs := by
  refine List.ext_getElem (by simp [rdBytes, hlen]) fun i h1 h2 => ?_
  have hi : i < n := by rw [← hlen]; exact h2
  simp only [rdBytes, List.getElem_map, List.getElem_range]
  rw [h i hi, List.getD_eq_getElem _ _ h2]

theorem rdNat_of {a n v : Nat} {s : State} (h : ∀ i < n, rdByte (a + i) s = (natToBytes n v).getD i 0) : rdNat a n s = v % 256 ^ n := by
  unfold rdNat
  rw [rdBytes_of (length_natToBytes n v) h, bytesToNat_natToBytes]

theorem rdWord_of {a : Nat} {v : W32} {s : State} (h : ∀ i < 4, rdByte (a + i) s = (natToBytes 4 v.toNat).getD i 0) : rdWord a s = v := by
  unfold rdWord
  rw [rdNat_of h, Nat.mod_eq_of_lt (show v.toNat < 256 ^ 4 from v.isLt), BitVec.ofNat_toNat, BitVec.setWidth_eq]

/-- Element i of a list of pieces of one length is found at its multiple. -/
theorem getD_flatMap {α : Type} {f : α → List Byte} {m : Nat} (hf : ∀ x, (f x).length = m) {l : List α} {i j : Nat} {x : α}
    (hx : l[i]? = some x) (hj : j < m) : (l.flatMap f).getD (i * m + j) 0 = (f x).getD j 0 := by
  induction l generalizing i with
  | nil => cases hx
  | cons y l ih =>
    rw [List.flatMap_cons]
    cases i with
    | zero =>
      cases hx
      rw [Nat.zero_mul, Nat.zero_add, List.getD_append _ _ _ _ (by rw [hf]; exact hj)]
    | succ i =>
      rw [List.getD_append_right _ _ _ _ (by rw [hf, Nat.succ_mul]; omega), hf,
        show (i + 1) * m + j - m = i * m + j by rw [Nat.succ_mul]; omega]
      exact ih hx

theorem length_flatMap_const {α : Type} {f : α → List Byte} {m : Nat} (hf : ∀ x, (f x).length = m) (l : List α) :
    (l.flatMap f).length = l.length * m := by
  induction l with
  | nil => simp
  | cons y l ih => rw [List.flatMap_cons, List.length_append, hf, ih, List.length_cons, Nat.succ_mul, Nat.add_comm]

end Sys2Proof.Machine
end

section
/-! PROOFS. GATHER and COMBINE (R262, R263, R267, R268). -/

namespace Sys2Proof.Machine

open Sys2Proof.Safety

/-! ### Records leave the state of an entry -/

theorem patchWrite_st (p : W64) (v : Nat) (d : Disp) : (patchWrite p v d).1.st = d.st := by
  unfold patchWrite
  dsimp only
  split
  · rfl
  split <;> rfl

theorem st_setAt {l : List Disp} {i : Nat} {d d' : Disp} (hd : l[i]? = some d) (hst : d'.st = d.st) (j : Nat) :
    ((setAt l i d')[j]?).map (·.st) = (l[j]?).map (·.st) := by
  by_cases hj : i = j
  · subst hj
    rw [getElem?_setAt_same hd, hd]
    exact congrArg some hst
  · rw [getElem?_setAt_other l hj]

theorem patchOne_st (c : Nat) (st : Step) (routed : Nat → Nat → Nat) (timing : Nat) (want : Disp → W64 → Bool) (t : Template) (s : State)
    (acc : List Disp × Nat) (k i : Nat) :
    ((patchOne c st routed timing want t s acc k).1[i]?).map (·.st) = (acc.1[i]?).map (·.st) := by
  unfold patchOne
  split
  · rfl
  split
  · rfl
  next hd =>
    split
    · rfl
    · dsimp only
      refine st_setAt hd ?_ i
      exact patchWrite_st _ _ _

theorem patchList_st (c : Nat) (st : Step) (routed : Nat → Nat → Nat) (timing : Nat) (want : Disp → W64 → Bool) (t : Template)
    (l : List Disp) (s : State) (i : Nat) : ((patchList c st routed timing want t l s).1[i]?).map (·.st) = (l[i]?).map (·.st) := by
  rw [patchList_eq]
  refine List.foldlRecOn (motive := fun acc : List Disp × Nat => (acc.1[i]?).map (·.st) = (l[i]?).map (·.st)) _ _ rfl fun acc h k _ => ?_
  exact (patchOne_st c st routed timing want t s acc k i).trans h

theorem applyPatches_eq {c ph : Nat} {st : Step} {p : Phase} {s : State} (hst : stepOf c s = some st) (hp : phaseOf c ph s = some p)
    (timing : Nat) (routed : Nat → Nat → Nat) (want : Disp → W64 → Bool) : applyPatches c ph timing routed want s =
      patchesIn c ph (patchList c st routed timing want (templateOf (ctx c s).weave p) (lookup st.lists [] ph) s) s := by
  unfold applyPatches
  rw [hst, hp]
  rfl

theorem applyPatches_spec (c : BitVec 6) (ph : BitVec 8) (timing : Nat) (routed : Nat → Nat → Nat) (want : Disp → W64 → Bool) (s : State) :
    RegsOnly [WV_PATCH_SAT] { s with ctxs := (applyPatches c.toNat ph.toNat timing routed want s).ctxs }
        (applyPatches c.toNat ph.toNat timing routed want s) ∧
      ∀ i, (dispAt { ctx := c, phase := ph, idx := i } (applyPatches c.toNat ph.toNat timing routed want s)).map (·.st) =
        (dispAt { ctx := c, phase := ph, idx := i } s).map (·.st) := by
  cases hst : stepOf c.toNat s with
  | none =>
    have h : applyPatches c.toNat ph.toNat timing routed want s = s := by
      unfold applyPatches
      rw [hst]
    rw [h]
    exact ⟨(regEffect_id _).regsOnly _, fun _ => rfl⟩
  | some st =>
    cases hp : phaseOf c.toNat ph.toNat s with
    | none =>
      have h : applyPatches c.toNat ph.toNat timing routed want s = s := by
        unfold applyPatches
        rw [hst, hp]
      rw [h]
      exact ⟨(regEffect_id _).regsOnly _, fun _ => rfl⟩
    | some p =>
      rw [applyPatches_eq hst hp]
      refine ⟨regsOnly_patchesIn _ _ _ s, fun i => ?_⟩
      rw [dispAt_patchesIn _ hst, patchList_st]
      have hstep : (ctx c.toNat s).step = some st := hst
      unfold dispAt
      rw [hstep]

/-! ### An entry of a carding engine that may start -/

theorem cardReady_dispAt {e : EntryRef} {op : Nat} {s : State} {d : Disp} (h : cardReady e op s = some d) : dispAt e s = some d := by
  unfold cardReady at h
  dsimp only at h
  cases hd : dispAt e s with
  | none => rw [hd] at h; cases h
  | some d' =>
    cases hst : stepOf e.ctx.toNat s with
    | none => rw [hd, hst] at h; cases h
    | some st =>
      cases hp : phaseOf e.ctx.toNat e.phase.toNat s with
      | none => rw [hd, hst, hp] at h; cases h
      | some p =>
        rw [hd, hst, hp] at h
        simp only [Option.ite_none_right_eq_some] at h
        exact h.2

theorem memEnv_sound {env : UnitEnv} (hue : env.memUe = []) (hce : env.memCe = []) (s : State) : memEnv env s = s := by
  unfold memEnv
  rw [hue, hce]
  rfl

/-- What the slots of an exchange hold, by rank. -/
def slotsHeld (c : Nat) (w : List W32) (kind land : Nat) (s : State) : List Arrival :=
  (List.range (cardMap c w s).nodes.length).map fun n => arrival c w kind n (land + n * cSlotBytes w) s

section
variable {e : EntryRef} {d : Disp} {kind land : Nat} {go : State → State} {s : State}

theorem whenArrived_waits (hno : Arrival.mismatch ∉ slotsHeld e.ctx.toNat d.words kind land s)
    (hmiss : Arrival.missing ∈ slotsHeld e.ctx.toNat d.words kind land s) :
    whenArrived e d kind land go s = setDisp e { d with st := .quantised } s := by
  unfold whenArrived
  exact (if_neg (by simpa [slotsHeld] using hno)).trans (if_pos (by simpa [slotsHeld] using hmiss))

theorem whenArrived_mismatch (h : Arrival.mismatch ∈ slotsHeld e.ctx.toNat d.words kind land s) :
    whenArrived e d kind land go s =
      faultCtx e.ctx.toNat cfCard none (crdErr CRD_ERR_MAP_MISMATCH e.ctx.toNat (eSlot d.words) s) := by
  unfold whenArrived
  exact if_pos (by simpa [slotsHeld] using h)

theorem whenArrived_here (h : ∀ a ∈ slotsHeld e.ctx.toNat d.words kind land s, a = .here) : whenArrived e d kind land go s = go s := by
  have hno (x : Arrival) (hx : x ≠ .here) : (slotsHeld e.ctx.toNat d.words kind land s).contains x = false := by
    rw [← Bool.not_eq_true, List.contains_iff_mem]
    exact fun hm => hx (h x hm)
  unfold whenArrived
  exact (if_neg (by rw [show (List.map _ _ : List Arrival) = slotsHeld e.ctx.toNat d.words kind land s from rfl, hno _ (by decide)]; decide)).trans
    (if_neg (by rw [show (List.map _ _ : List Arrival) = slotsHeld e.ctx.toNat d.words kind land s from rfl, hno _ (by decide)]; decide))

end

theorem ctxLive_congr {c : Nat} {s t : State} (h : ctxState c t = ctxState c s) : ctxLive c t = ctxLive c s := by
  unfold ctxLive
  rw [h]

theorem bit_raiseErr {f : FRef} (h : f.hi < 64) (hw : f.lo ≤ f.hi) (info : Nat) (flds : List (FRef × Nat)) (s : State) :
    bit f (raiseErr f info flds s) = true := by
  unfold raiseErr
  split
  · exact bit_setErr h hw _
  · exact bit_setErr h hw _

theorem crdErr_state (f : FRef) (hf : f.off = CRD_ERR) (c slot k : Nat) (s : State) : ctxState k (crdErr f c slot s) = ctxState k s :=
  fld_congr_rd (rd_raiseErr (o := CTX_STATE k) (by rw [hf]; unfold CTX_STATE CRD_ERR; omega)
    (by simp only [List.forall_mem_cons, CRD_ERR_INFO_CONTEXT, CRD_ERR_INFO_SLOT, CRD_ERR_INFO, CTX_STATE]; simp; omega) s)

/-- An error of the carding engines faults the context of the entry. -/
theorem cardFault_spec {f : FRef} (hf : f.off = CRD_ERR) (hhi : f.hi < 29) (hw : f.lo ≤ f.hi) {c : Nat} (slot : Nat) {s : State}
    (hlive : ctxLive c s = true) : faultedWith c cfCard (faultCtx c cfCard none (crdErr f c slot s)) ∧
      bit f (faultCtx c cfCard none (crdErr f c slot s)) = true := by
  refine ⟨faultCtx_faulted ((ctxLive_congr (crdErr_state f hf c slot c s)).trans hlive) (by decide) none, ?_⟩
  rw [bit_faultCtx_narrow hhi (by rw [hf]; decide) (by rw [hf]; decide)]
  exact bit_raiseErr (by omega) hw _ _ s

end Sys2Proof.Machine
end

section
/-! PROOFS. What GATHER and COMBINE leave (R262, R263, R267, R268). -/

namespace Sys2Proof.Machine

open Sys2Proof.Safety

/-! ### Steps of a unit that leave memory alone -/

/-- The entry is done. -/
theorem entryDone_setDisp {e : EntryRef} {d d' : Disp} {s : State} (h : dispAt e s = some d') (hd : d.st = .done) :
    entryDone e (setDisp e d s) := by
  unfold entryDone
  rw [dispAt_setDisp h]
  exact congrArg some hd

theorem entryDone_applyPatches {e : EntryRef} {timing : Nat} {routed : Nat → Nat → Nat} {want : Disp → W64 → Bool} {s : State}
    (h : entryDone e s) : entryDone e (applyPatches e.ctx.toNat e.phase.toNat timing routed want s) :=
  ((applyPatches_spec e.ctx e.phase timing routed want s).2 e.idx).trans h

theorem entryDone_after {e : EntryRef} {f : State → State} {s : State} (h : entryDone e (f s)) : entryDone e (after f s) := by
  unfold entryDone at h ⊢
  rw [dispAt_after]
  exact h

theorem entryDone_congr {e : EntryRef} {s t : State} (hc : ctx e.ctx.toNat t = ctx e.ctx.toNat s) (h : entryDone e s) : entryDone e t := by
  unfold entryDone at h ⊢
  rw [dispAt_congr hc]
  exact h

/-! ### GATHER (R262, R263) -/

/-- Rows that the exchange lists for local expert k. -/
def expertList (c : Nat) (w : List W32) (land : Nat) (s : State) (k : Nat) : List (Nat × Nat × Nat × Nat) :=
  (dispatched c w land s).filter fun r => r.2.2.1 == k

/-- The words of the index list of an expert. -/
def indexBytes (l : List (Nat × Nat × Nat × Nat)) : List Byte := l.flatMap fun r => natToBytes 4 (r.1 * 2 ^ 25 + r.2.1 / 64)

theorem length_indexBytes (l : List (Nat × Nat × Nat × Nat)) : (indexBytes l).length = l.length * 4 :=
  length_flatMap_const (fun _ => length_natToBytes _ _) l

/-- The index lists of the local experts have been written. -/
def listsWritten (w : List W32) (idx mine : Nat) (lists : Nat → List (Nat × Nat × Nat × Nat)) (s : State) : State :=
  (List.range mine).foldl (fun s k => wrMerge (idx + k * (cExpRows w * 4)) (indexBytes (lists k)) false s) s

/-- The entry ends: it is done, the experts without rows are counted, and the records of its layer and half are applied. -/
def gatherClosed (e : EntryRef) (d : Disp) (n : Nat) (lists : Nat → List (Nat × Nat × Nat × Nat)) (s : State) : State :=
  applyPatches e.ctx.toNat e.phase.toNat 2 (fun k h => if h = cHalf d.words then (lists k).length else 0)
    (wantsRoute (cLayer d.words) (cHalf d.words)) (bump64 (CRD_CNT 7) n (setDisp e { d with st := .done } s))

/-- Local experts of a GATHER's map. -/
def localCount (c : Nat) (w : List W32) (s : State) : Nat := (localsOf (cardMap c w s) ((myRank (cardMap c w s) s).getD 0)).length

theorem gatherDone_overflow {e : EntryRef} {d : Disp} {land idx : Nat} {s : State}
    (h : ∃ k, cExpRows d.words < (expertList e.ctx.toNat d.words land s k).length) : gatherDone e d land idx s =
      faultCtx e.ctx.toNat cfCard none (crdErr CRD_ERR_EXP_OVERFLOW e.ctx.toNat (eSlot d.words) s) := by
  unfold gatherDone
  refine if_pos ?_
  obtain ⟨k, hk⟩ := h
  obtain ⟨r, hr⟩ : ∃ r, r ∈ expertList e.ctx.toNat d.words land s k := by
    cases hl : expertList e.ctx.toNat d.words land s k with
    | nil => rw [hl] at hk; exact absurd hk (Nat.not_lt_zero _)
    | cons r l => exact ⟨r, List.mem_cons_self⟩
  obtain ⟨hmem, hrk⟩ := List.mem_filter.mp hr
  have hk' : r.2.2.1 = k := by simpa using hrk
  exact List.any_eq_true.mpr ⟨r, hmem, decide_eq_true (by rw [hk']; exact hk)⟩

theorem gatherDone_fits {e : EntryRef} {d : Disp} {land idx : Nat} {s : State}
    (h : ∀ k, (expertList e.ctx.toNat d.words land s k).length ≤ cExpRows d.words) : gatherDone e d land idx s =
      gatherClosed e d ((List.range (localCount e.ctx.toNat d.words s)).filter fun k =>
          (expertList e.ctx.toNat d.words land s k).isEmpty).length (expertList e.ctx.toNat d.words land s)
        (listsWritten d.words idx (localCount e.ctx.toNat d.words s) (expertList e.ctx.toNat d.words land s) s) := by
  have hfold (s' : State) : (List.range (localCount e.ctx.toNat d.words s)).foldl (fun s k =>
      wrMerge (idx + k * cExpRows d.words * 4) (indexBytes (expertList e.ctx.toNat d.words land s' k)) false s) s =
      listsWritten d.words idx (localCount e.ctx.toNat d.words s) (expertList e.ctx.toNat d.words land s') s := by
    unfold listsWritten
    simp only [Nat.mul_assoc]
  unfold gatherDone gatherClosed
  dsimp only
  rw [← hfold s]
  exact if_neg (by
    rw [Bool.not_eq_true, List.any_eq_false]
    exact fun r _ hlong => absurd (of_decide_eq_true hlong) (Nat.not_lt.mpr (h r.2.2.1)))

theorem dataOnly_listsWritten (w : List W32) (idx mine : Nat) (lists : Nat → List (Nat × Nat × Nat × Nat)) (s : State) :
    DataOnly s (listsWritten w idx mine lists s) := dataOnly_foldl (fun _ _ => dataOnly_wrMerge _ _ _) _ s

/-- Closing the entry leaves memory, and of the registers all but its own counters. -/
theorem gatherClosed_spec {e : EntryRef} {d : Disp} {s : State} (h : dispAt e s = some d) (n : Nat)
    (lists : Nat → List (Nat × Nat × Nat × Nat)) : entryDone e (gatherClosed e d n lists s) ∧ SameMem s (gatherClosed e d n lists s) ∧
      SameRegs [CRD_CNT 7, WV_PATCH_SAT] s (gatherClosed e d n lists s) ∧ counts (CRD_CNT 7) n s (gatherClosed e d n lists s) := by
  obtain ⟨u, hu⟩ : ∃ u, u = bump64 (CRD_CNT 7) n (setDisp e { d with st := .done } s) := ⟨_, rfl⟩
  obtain ⟨x, hx⟩ := setDisp_eq e { d with st := .done } s
  have hdone : entryDone e u := by
    rw [hu]
    exact entryDone_congr rfl (entryDone_setDisp (d := { d with st := .done }) h rfl)
  have hmem : SameMem s u := by
    rw [hu, hx]
    exact fun _ => ⟨rfl, rfl⟩
  have hregs : SameRegs [CRD_CNT 7] s u := by
    rw [hu, hx]
    exact fun o ho => (regEffect_bump64 (CRD_CNT 7) n { s with ctxs := x }).2 o ho
  have hcount : counts (CRD_CNT 7) n s u := by
    rw [hu, hx]
    exact counts_bump64 (CRD_CNT 7) n { s with ctxs := x }
  have hclosed : gatherClosed e d n lists s = applyPatches e.ctx.toNat e.phase.toNat 2
      (fun k h => if h = cHalf d.words then (lists k).length else 0) (wantsRoute (cLayer d.words) (cHalf d.words)) u := by
    rw [hu]
    rfl
  rw [hclosed]
  have hdone' := entryDone_applyPatches (timing := 2) (routed := fun k h => if h = cHalf d.words then (lists k).length else 0)
    (want := wantsRoute (cLayer d.words) (cHalf d.words)) hdone
  have honly := (applyPatches_spec e.ctx e.phase 2 (fun k h => if h = cHalf d.words then (lists k).length else 0)
    (wantsRoute (cLayer d.words) (cHalf d.words)) u).1
  generalize applyPatches _ _ _ _ _ u = v at *
  obtain ⟨-, hmem', -, hregs'⟩ := honly
  refine ⟨hdone', sameMem_trans hmem hmem', fun o ho => ?_, ?_⟩
  · simp only [List.mem_cons, not_or] at ho
    exact (hregs' o (by simpa using ho.2.1)).trans (hregs o (by simpa using ho.1))
  · unfold counts at hcount ⊢
    rw [← hcount]
    exact hregs' (CRD_CNT 7) (by decide)

/-- What a GATHER needs to start. -/
def GatherReady (e : EntryRef) (d : Disp) (land area : Nat) (s : State) : Prop :=
  cardReady e 1 s = some d ∧
    cardArea e.ctx.toNat (cRef d.words 7) ((cardMap e.ctx.toNat d.words s).nodes.length * cSlotBytes d.words) s = some land ∧
    cardArea e.ctx.toNat (cRef d.words 9) (localCount e.ctx.toNat d.words s * cExpRows d.words * 4) s = some area

theorem gather_starts {e : EntryRef} {env : UnitEnv} {d : Disp} {land area : Nat} {s : State} (h : GatherReady e d land area s) :
    gather e env s = whenArrived e d 0 land (fun s => gatherDone e d land area (bump64 (CRD_CNT 9) env.busyNs (memEnv env s))) s := by
  obtain ⟨hready, hland, harea⟩ := h
  unfold gather
  rw [hready]
  dsimp only
  rw [hland, show (localsOf (cardMap e.ctx.toNat d.words s) ((myRank (cardMap e.ctx.toNat d.words s) s).getD 0)).length =
    localCount e.ctx.toNat d.words s from rfl, harea]

/-- The state after the time of the entry is counted. -/
def timed (n : Nat) (s : State) : State := bump64 (CRD_CNT 9) n s

theorem rd_timed {o : Nat} (h : o ≠ CRD_CNT 9) (n : Nat) (s : State) : rd o (timed n s) = rd o s :=
  (regEffect_bump64 (CRD_CNT 9) n s).2 o (by simpa using h)

theorem localCount_timed (c : Nat) (w : List W32) (n : Nat) (s : State) : localCount c w (timed n s) = localCount c w s := by
  have hnode : myNode (timed n s) = myNode s := fld_congr_rd (rd_timed (by decide) n s)
  have hctx : ctx c (timed n s) = ctx c s := rfl
  unfold localCount myRank cardMap
  rw [hnode, hctx]

theorem gather_fits {e : EntryRef} {env : UnitEnv} {d : Disp} {land area : Nat} {s : State} (hr : GatherReady e d land area s)
    (hgot : ∀ a ∈ slotsHeld e.ctx.toNat d.words 0 land s, a = .here) (hue : env.memUe = []) (hce : env.memCe = [])
    (hfits : ∀ k, (expertList e.ctx.toNat d.words land s k).length ≤ cExpRows d.words) : Gives (.gather e env) s fun t =>
      entryDone e t ∧ (∀ k < localCount e.ctx.toNat d.words s, ∀ i r, (expertList e.ctx.toNat d.words land s k)[i]? = some r →
          rdNat (area + (k * cExpRows d.words + i) * 4) 4 t = (r.1 * 2 ^ 25 + r.2.1 / 64) % 2 ^ 32) ∧
        (∀ b, b < area ∨ area + localCount e.ctx.toNat d.words s * cExpRows d.words * 4 ≤ b → rdByte b t = rdByte b s) ∧
        counts (CRD_CNT 7) ((List.range (localCount e.ctx.toNat d.words s)).filter fun k =>
          (expertList e.ctx.toNat d.words land s k).isEmpty).length s t ∧
        counts (CRD_CNT 9) env.busyNs s t ∧ SameRegs [CRD_CNT 7, CRD_CNT 9, WV_PATCH_SAT] s t := by
  obtain ⟨lists, hlists⟩ : ∃ l, l = expertList e.ctx.toNat d.words land s := ⟨_, rfl⟩
  obtain ⟨mine, hmine⟩ : ∃ m, m = localCount e.ctx.toNat d.words s := ⟨_, rfl⟩
  obtain ⟨n, hn⟩ : ∃ n, n = ((List.range mine).filter fun k => (lists k).isEmpty).length := ⟨_, rfl⟩
  obtain ⟨w, hw⟩ : ∃ w, w = listsWritten d.words area mine lists (timed env.busyNs s) := ⟨_, rfl⟩
  have htimed : expertList e.ctx.toNat d.words land (timed env.busyNs s) = lists := by rw [hlists]; rfl
  have he : gather e env s = gatherClosed e d n lists w := by
    rw [gather_starts hr, whenArrived_here hgot, memEnv_sound hue hce]
    show gatherDone e d land area (timed env.busyNs s) = _
    rw [gatherDone_fits (by rw [htimed, hlists]; exact hfits), htimed, localCount_timed, hw, hn, hmine]
  have hdata : DataOnly (timed env.busyNs s) w := by
    rw [hw]
    exact dataOnly_listsWritten _ _ _ _ _
  have hblocks : BlocksLanded area (cExpRows d.words * 4) mine (fun k => indexBytes (lists k)) (timed env.busyNs s) w := by
    rw [hw]
    refine blocksLanded_foldl (w := fun a bs s => wrMerge a bs false s) landed_wrMerge (fun k _ => ?_) area _
    rw [length_indexBytes, hlists]
    exact Nat.mul_le_mul_right 4 (hfits k)
  have hdisp : dispAt e w = some d := (dispAt_congr (hdata.ctx_eq _)).trans (cardReady_dispAt hr.1)
  obtain ⟨hdone, hmem, hregs, hcount⟩ := gatherClosed_spec hdisp n lists
  rw [← hlists, ← hmine, ← hn]
  have hwrd (o : Nat) : rd o w = rd o (timed env.busyNs s) := hdata.rd_eq o
  refine gives_run_to rfl he ⟨entryDone_after (f := fun _ => gatherClosed e d n lists w) hdone, fun k hk i r hr' => ?_, fun b hb => ?_, ?_, ?_, ?_⟩
  · refine rdNat_of fun j hj => ?_
    rw [rdByte_after, (hmem _).1]
    have hi : i < (lists k).length := (List.getElem?_eq_some_iff.mp hr').1
    have hpos := hblocks.1 k hk (i * 4 + j) (by
      show i * 4 + j < (indexBytes (lists k)).length
      rw [length_indexBytes]
      omega)
    have haddr : area + (k * cExpRows d.words + i) * 4 + j = area + k * (cExpRows d.words * 4) + (i * 4 + j) := by
      rw [Nat.add_mul, Nat.mul_assoc]
      omega
    rw [haddr, hpos]
    exact getD_flatMap (fun _ => length_natToBytes _ _) hr' hj
  · rw [rdByte_after, (hmem b).1]
    exact hblocks.2 b (by rw [← Nat.mul_assoc]; exact hb)
  · refine counts_after (f := fun _ => gatherClosed e d n lists w) ?_
    unfold counts at hcount ⊢
    rw [hcount, hwrd, rd_timed (by decide)]
  · refine counts_after (f := fun _ => gatherClosed e d n lists w) ?_
    have hkept : rd (CRD_CNT 9) (gatherClosed e d n lists w) = rd (CRD_CNT 9) (timed env.busyNs s) :=
      (hregs _ (by decide)).trans (hwrd _)
    unfold counts
    rw [hkept]
    exact counts_bump64 (CRD_CNT 9) env.busyNs s
  · refine sameRegs_after (f := fun _ => gatherClosed e d n lists w) fun o ho => ?_
    simp only [List.mem_cons, not_or] at ho
    exact (hregs o (by simp only [List.mem_cons, not_or]; exact ⟨ho.1, ho.2.2⟩)).trans ((hwrd o).trans (rd_timed ho.2.1 _ s))

theorem gather_overflows {e : EntryRef} {env : UnitEnv} {d : Disp} {land area : Nat} {s : State} (hr : GatherReady e d land area s)
    (hgot : ∀ a ∈ slotsHeld e.ctx.toNat d.words 0 land s, a = .here) (hue : env.memUe = []) (hce : env.memCe = [])
    (hlong : ∃ k, cExpRows d.words < (expertList e.ctx.toNat d.words land s k).length) (hlive : ctxLive e.ctx.toNat s = true) :
    Gives (.gather e env) s fun t => faultedWith e.ctx.toNat cfCard t ∧ bit CRD_ERR_EXP_OVERFLOW t = true := by
  have he : gather e env s =
      faultCtx e.ctx.toNat cfCard none (crdErr CRD_ERR_EXP_OVERFLOW e.ctx.toNat (eSlot d.words) (timed env.busyNs s)) := by
    rw [gather_starts hr, whenArrived_here hgot, memEnv_sound hue hce]
    exact gatherDone_overflow (s := timed env.busyNs s) hlong
  have hlive' : ctxLive e.ctx.toNat (timed env.busyNs s) = true :=
    (ctxLive_congr (fld_congr_rd (rd_timed (o := CTX_STATE e.ctx.toNat) (by unfold CTX_STATE CRD_CNT; omega) _ s))).trans hlive
  obtain ⟨hfault, hbit⟩ := cardFault_spec (f := CRD_ERR_EXP_OVERFLOW) rfl (by decide) (by decide) (eSlot d.words) hlive'
  refine gives_run_to rfl he ⟨faultedWith_after (f := fun _ => faultCtx _ _ _ _) hfault, ?_⟩
  rw [bit_after]
  exact hbit

end Sys2Proof.Machine
end

section
/-! PROOFS. What COMBINE leaves (R267, R268). -/

namespace Sys2Proof.Machine

open Sys2Proof.Safety

/-! ### Rows that are added up -/

/-- A return record as it is read: row, skein, generation, poison, values. -/
abbrev ReturnRec := Nat × Nat × Nat × Bool × List W32

/-- Row `i` of the result. -/
def combinedRow (h : Nat) (pois : List Nat) (kept : List ReturnRec) (i : Nat) : List W32 :=
  let mine := kept.filter fun r => r.1 == i
  if pois.contains i || mine.any (fun r => r.2.2.2.1) then List.replicate h fpQnanStd
  else mine.foldl (fun a r => (a.zip r.2.2.2.2).map fun q => fpAdd q.1 q.2) (List.replicate h 0)

theorem addedRows_spec {h : Nat} (l : List ReturnRec) (hl : ∀ r ∈ l, r.2.2.2.2.length = h) {a : List W32} (ha : a.length = h) :
    (l.foldl (fun a r => (a.zip r.2.2.2.2).map fun q => fpAdd q.1 q.2) a).length = h ∧
      ∀ j < h, (l.foldl (fun a r => (a.zip r.2.2.2.2).map fun q => fpAdd q.1 q.2) a).getD j 0 =
        l.foldl (fun x r => fpAdd x (r.2.2.2.2.getD j 0)) (a.getD j 0) := by
  induction l generalizing a with
  | nil => exact ⟨ha, fun _ _ => rfl⟩
  | cons r l ih =>
    have hr := hl r (by simp)
    have hlen : ((a.zip r.2.2.2.2).map fun q => fpAdd q.1 q.2).length = h := by
      rw [List.length_map, List.length_zip, ha, hr, Nat.min_self]
    obtain ⟨hlen', helem⟩ := ih (fun x hx => hl x (by simp [hx])) hlen
    refine ⟨hlen', fun j hj => (helem j hj).trans ?_⟩
    have hval : ((a.zip r.2.2.2.2).map fun q => fpAdd q.1 q.2).getD j 0 = fpAdd (a.getD j 0) (r.2.2.2.2.getD j 0) := by
      rw [List.getD_eq_getElem _ _ (by rw [hlen]; exact hj), List.getD_eq_getElem _ _ (by rw [ha]; exact hj),
        List.getD_eq_getElem _ _ (by rw [hr]; exact hj), List.getElem_map, List.getElem_zip]
    rw [hval]
    rfl

theorem combinedRow_spec {h : Nat} (pois : List Nat) {kept : List ReturnRec} (hk : ∀ r ∈ kept, r.2.2.2.2.length = h) (i : Nat) :
    (combinedRow h pois kept i).length = h ∧ ∀ j < h, (combinedRow h pois kept i).getD j 0 =
      if i ∈ pois ∨ (∃ r ∈ kept, r.1 = i ∧ r.2.2.2.1 = true) then fpQnanStd
      else (kept.filter fun r => r.1 == i).foldl (fun a r => fpAdd a (r.2.2.2.2.getD j 0)) 0 := by
  have hcond : (pois.contains i || (kept.filter fun r => r.1 == i).any (fun r => r.2.2.2.1)) = true ↔
      i ∈ pois ∨ ∃ r ∈ kept, r.1 = i ∧ r.2.2.2.1 = true := by
    simp [List.any_eq_true]
  obtain ⟨hlen, helem⟩ := addedRows_spec (kept.filter fun r => r.1 == i) (fun r hr => hk r (List.mem_filter.mp hr).1)
    (a := List.replicate h 0) List.length_replicate
  unfold combinedRow
  dsimp only
  by_cases hp : i ∈ pois ∨ ∃ r ∈ kept, r.1 = i ∧ r.2.2.2.1 = true
  · rw [if_pos (hcond.mpr hp)]
    refine ⟨List.length_replicate, fun j hj => ?_⟩
    rw [if_pos hp, List.getD_replicate _ hj]
  · rw [if_neg (fun hc => hp (hcond.mp hc))]
    refine ⟨hlen, fun j hj => (helem j hj).trans ?_⟩
    rw [if_neg hp, List.getD_replicate _ hj]

/-! ### The records of an exchange -/

/-- Every return record of the exchange, by rank and offset. -/
def returnsOf (c : Nat) (w : List W32) (land : Nat) (s : State) : List ReturnRec :=
  (List.range (cardMap c w s).nodes.length).flatMap fun n => (slotRecords (land + n * cSlotBytes w) (returnSize w) s).map fun o =>
    returnAt w (land + n * cSlotBytes w + o) [] s

/-- The records that are kept. -/
def returnsKept (c : Nat) (w : List W32) (land : Nat) (s : State) : List ReturnRec :=
  (returnsOf c w land s).filter fun r => !staleReturn r.2.1 r.2.2.1 s && !cancelledReturn r.2.1 s

theorem length_returnAt (w : List W32) (a : Nat) (bad : List Nat) (s : State) : (returnAt w a bad s).2.2.2.2.length = hidden w := by
  unfold returnAt
  dsimp only
  split
  · rw [List.length_map, List.length_range]
  · rw [List.length_map, List.length_range]

theorem length_returnsKept {c : Nat} {w : List W32} {land : Nat} {s : State} {r : ReturnRec} (h : r ∈ returnsKept c w land s) :
    r.2.2.2.2.length = hidden w := by
  obtain ⟨n, -, hn⟩ := List.mem_flatMap.mp (List.mem_filter.mp h).1
  obtain ⟨o, -, rfl⟩ := List.mem_map.mp hn
  exact length_returnAt _ _ _ _

/-- The words of a row. -/
def rowBytes (row : List W32) : List Byte := row.flatMap fun v => natToBytes 4 v.toNat

theorem length_rowBytes (row : List W32) : (rowBytes row).length = row.length * 4 :=
  length_flatMap_const (fun _ => length_natToBytes _ _) row

theorem le_rowStride (n : Nat) : n * 4 ≤ rowStride n := by
  unfold rowStride
  omega

/-- The rows of the result have been written. -/
def rowsWritten (w : List W32) (act : Nat) (row : Nat → List W32) (s : State) : State :=
  (List.range (cardRows w)).foldl (fun s i => wrMerge (act + i * rowStride (hidden w)) (rowBytes (row i)) false s) s

theorem dataOnly_rowsWritten (w : List W32) (act : Nat) (row : Nat → List W32) (s : State) : DataOnly s (rowsWritten w act row s) :=
  dataOnly_foldl (fun _ _ => dataOnly_wrMerge _ _ _) _ s

/-- The records that are not kept have been counted. -/
def dropsCounted (stale gone : Nat) (s : State) : State := bump64 (CRD_CNT 5) stale (bump64 (CRD_CNT 6) gone s)

theorem combineRows_eq (e : EntryRef) (d : Disp) (land act : Nat) (s : State) : combineRows e d land act [] s =
    setDisp e { d with st := .done } (rowsWritten d.words act
      (combinedRow (hidden d.words) (routePoison e.ctx.toNat (cLayer d.words) (cHalf d.words) s) (returnsKept e.ctx.toNat d.words land s))
      (dropsCounted ((returnsOf e.ctx.toNat d.words land s).filter fun r => staleReturn r.2.1 r.2.2.1 s).length
        ((returnsOf e.ctx.toNat d.words land s).filter fun r => !staleReturn r.2.1 r.2.2.1 s && cancelledReturn r.2.1 s).length s)) := rfl

/-- What a COMBINE needs to start. -/
def CombineReady (e : EntryRef) (d : Disp) (land area : Nat) (s : State) : Prop :=
  cardReady e 3 s = some d ∧
    cardArea e.ctx.toNat (cRef d.words 8) ((cardMap e.ctx.toNat d.words s).nodes.length * cSlotBytes d.words) s = some land ∧
    cardArea e.ctx.toNat (cRef d.words 6) (cardRows d.words * rowStride (hidden d.words)) s = some area

theorem combine_starts {e : EntryRef} {env : UnitEnv} {d : Disp} {land area : Nat} {s : State} (h : CombineReady e d land area s) :
    combine e env s = whenArrived e d 1 land (fun s => combineRows e d land area (badStaples env (memEnv env s))
      (bump64 (CRD_CNT 9) env.busyNs (memEnv env s))) s := by
  obtain ⟨hready, hland, harea⟩ := h
  unfold combine
  rw [hready]
  dsimp only
  rw [hland, harea]

theorem badStaples_sound {env : UnitEnv} {s : State} (h : soundReads env s) : badStaples env s = [] := by
  obtain ⟨hbad, -, -, -, -, -, hst⟩ := h
  unfold badStaples
  rw [hbad, List.filter_eq_nil_iff.mpr fun x hx => by rw [(hst x hx).1, (hst x hx).2]; decide]
  rfl

theorem combine_adds {e : EntryRef} {env : UnitEnv} {d : Disp} {land area : Nat} {s : State} (hr : CombineReady e d land area s)
    (hgot : ∀ a ∈ slotsHeld e.ctx.toNat d.words 1 land s, a = .here) (hsound : soundReads env s) : Gives (.combine e env) s fun t =>
      entryDone e t ∧ (∀ i < cardRows d.words, ∀ j < hidden d.words, rdWord (area + i * rowStride (hidden d.words) + 4 * j) t =
        if i ∈ routePoison e.ctx.toNat (cLayer d.words) (cHalf d.words) s ∨
            (∃ r ∈ returnsKept e.ctx.toNat d.words land s, r.1 = i ∧ r.2.2.2.1 = true) then fpQnanStd
        else ((returnsKept e.ctx.toNat d.words land s).filter fun r => r.1 == i).foldl (fun a r => fpAdd a (r.2.2.2.2.getD j 0)) 0) ∧
      (∀ b, b < area ∨ area + cardRows d.words * rowStride (hidden d.words) ≤ b → rdByte b t = rdByte b s) ∧
      counts (CRD_CNT 5) ((returnsOf e.ctx.toNat d.words land s).filter fun r => staleReturn r.2.1 r.2.2.1 s).length s t ∧
      counts (CRD_CNT 6) ((returnsOf e.ctx.toNat d.words land s).filter fun r =>
        !staleReturn r.2.1 r.2.2.1 s && cancelledReturn r.2.1 s).length s t ∧
      counts (CRD_CNT 9) env.busyNs s t ∧ SameRegs [CRD_CNT 5, CRD_CNT 6, CRD_CNT 9] s t := by
  obtain ⟨stale, hstale⟩ : ∃ n, n = ((returnsOf e.ctx.toNat d.words land s).filter fun r => staleReturn r.2.1 r.2.2.1 s).length := ⟨_, rfl⟩
  obtain ⟨gone, hgone⟩ : ∃ n, n = ((returnsOf e.ctx.toNat d.words land s).filter fun r =>
    !staleReturn r.2.1 r.2.2.1 s && cancelledReturn r.2.1 s).length := ⟨_, rfl⟩
  obtain ⟨pois, hpois⟩ : ∃ p, p = routePoison e.ctx.toNat (cLayer d.words) (cHalf d.words) s := ⟨_, rfl⟩
  obtain ⟨kept, hkept⟩ : ∃ k, k = returnsKept e.ctx.toNat d.words land s := ⟨_, rfl⟩
  have hrow := fun i => combinedRow_spec (h := hidden d.words) pois (kept := kept)
    (fun r hm => length_returnsKept (hkept ▸ hm)) i
  obtain ⟨u, hu⟩ : ∃ u, u = dropsCounted stale gone (timed env.busyNs s) := ⟨_, rfl⟩
  obtain ⟨w, hw⟩ : ∃ w, w = rowsWritten d.words area (combinedRow (hidden d.words) pois kept) u := ⟨_, rfl⟩
  have he : combine e env s = setDisp e { d with st := .done } w := by
    rw [combine_starts hr, whenArrived_here hgot]
    rw [memEnv_sound hsound.2.2.1 hsound.2.2.2.1, badStaples_sound hsound, combineRows_eq, hw, hu, hstale, hgone, hkept, hpois]
    rfl
  rw [← hstale, ← hgone, ← hpois, ← hkept]
  have hdata : DataOnly u w := by
    rw [hw]
    exact dataOnly_rowsWritten _ _ _ _
  have hblocks : BlocksLanded area (rowStride (hidden d.words)) (cardRows d.words)
      (fun i => rowBytes (combinedRow (hidden d.words) pois kept i)) u w := by
    rw [hw]
    refine blocksLanded_foldl (w := fun a bs s => wrMerge a bs false s) landed_wrMerge (fun i _ => ?_) area _
    rw [length_rowBytes, (hrow i).1]
    exact le_rowStride _
  have hureg : RegEffect [CRD_CNT 5, CRD_CNT 6, CRD_CNT 9] (fun s => dropsCounted stale gone (timed env.busyNs s)) :=
    (((regEffect_bump64 (CRD_CNT 9) env.busyNs).mono (by simp)).comp ((regEffect_bump64 (CRD_CNT 6) gone).mono (by simp))).comp
      ((regEffect_bump64 (CRD_CNT 5) stale).mono (by simp))
  have hudata : ctx e.ctx.toNat u = ctx e.ctx.toNat s ∧ SameMem s u ∧ SameRegs [CRD_CNT 5, CRD_CNT 6, CRD_CNT 9] s u := by
    rw [hu]
    exact ⟨rfl, fun _ => ⟨rfl, rfl⟩, (hureg s).2⟩
  obtain ⟨huctx, humem, huregs⟩ := hudata
  have hdisp : dispAt e w = some d := (dispAt_congr ((hdata.ctx_eq _).trans huctx)).trans (cardReady_dispAt hr.1)
  have hdone : entryDone e (setDisp e { d with st := .done } w) := entryDone_setDisp (d := { d with st := .done }) hdisp rfl
  obtain ⟨x, hx⟩ := setDisp_eq e { d with st := .done } w
  have hmem : SameMem w (setDisp e { d with st := .done } w) := by
    rw [hx]
    exact fun _ => ⟨rfl, rfl⟩
  have hregs (o : Nat) : rd o (setDisp e { d with st := .done } w) = rd o u := by
    rw [hx]
    exact hdata.rd_eq o
  generalize setDisp e { d with st := .done } w = t at *
  have hcounts {o n : Nat} (h : counts o n s u) : counts o n s (after (fun _ => t) s) := by
    refine counts_after (f := fun _ => t) ?_
    unfold counts at h ⊢
    rw [hregs, h]
  refine gives_run_to rfl he ⟨entryDone_after (f := fun _ => t) hdone, fun i hi j hj => ?_, fun b hb => ?_, hcounts ?_, hcounts ?_, hcounts ?_, ?_⟩
  · rw [← (hrow i).2 j hj]
    refine rdWord_of fun k hk => ?_
    rw [rdByte_after, (hmem _).1]
    have hpos := hblocks.1 i hi (j * 4 + k) (by
      show j * 4 + k < (rowBytes _).length
      rw [length_rowBytes, (hrow i).1]
      omega)
    rw [show area + i * rowStride (hidden d.words) + 4 * j + k = area + i * rowStride (hidden d.words) + (j * 4 + k) by omega, hpos]
    have hlt : j < (combinedRow (hidden d.words) pois kept i).length := by rw [(hrow i).1]; exact hj
    rw [List.getD_eq_getElem _ _ hlt]
    exact getD_flatMap (fun _ => length_natToBytes _ _) (List.getElem?_eq_getElem hlt) hk
  · rw [rdByte_after, (hmem b).1, hblocks.2 b hb]
    exact (humem b).1
  · rw [hu]
    refine (counts_bump64_of ?_ : counts (CRD_CNT 5) stale s _)
    exact (rd_wr_other (by decide) _ _).trans (rd_wr_other (by decide) _ _)
  · rw [hu]
    have hinner : counts (CRD_CNT 6) gone s (bump64 (CRD_CNT 6) gone (timed env.busyNs s)) := counts_bump64_of (rd_timed (by decide) _ s)
    unfold counts at hinner ⊢
    exact (rd_wr_other (by decide) _ _).trans hinner
  · rw [hu]
    have hinner : counts (CRD_CNT 9) env.busyNs s (timed env.busyNs s) := counts_bump64 _ _ s
    unfold counts at hinner ⊢
    exact (rd_wr_other (by decide) _ _).trans ((rd_wr_other (by decide) _ _).trans hinner)
  · exact sameRegs_after (f := fun _ => t) fun o ho => (hregs o).trans (huregs o ho)

/-! ### Both receives -/

theorem receive_waits {e : EntryRef} {d : Disp} {kind land : Nat} {go : State → State} {i : Instr} {f : State → State} {s : State}
    (hc : exec i s = run f s) (he : f s = whenArrived e d kind land go s) (hd : dispAt e s = some d)
    (hno : Arrival.mismatch ∉ slotsHeld e.ctx.toNat d.words kind land s) (hmiss : Arrival.missing ∈ slotsHeld e.ctx.toNat d.words kind land s) :
    Gives i s fun t => dispAt e t = some { d with st := .quantised } ∧ RegsOnly [] { s with ctxs := t.ctxs } t := by
  refine gives_run_of (g := setDisp e { d with st := .quantised }) hc (he.trans (whenArrived_waits hno hmiss)) ⟨?_, ?_⟩
  · rw [dispAt_after]
    exact dispAt_setDisp hd
  · rw [after_ctxs]
    exact regsOnly_after_of rfl (regsOnly_setDisp e _ s)

theorem receive_faults {e : EntryRef} {d : Disp} {kind land : Nat} {go : State → State} {i : Instr} {f : State → State} {s : State}
    (hc : exec i s = run f s) (he : f s = whenArrived e d kind land go s)
    (hbad : Arrival.mismatch ∈ slotsHeld e.ctx.toNat d.words kind land s) (hlive : ctxLive e.ctx.toNat s = true) :
    Gives i s fun t => faultedWith e.ctx.toNat cfCard t ∧ bit CRD_ERR_MAP_MISMATCH t = true := by
  obtain ⟨hfault, hbit⟩ := cardFault_spec (f := CRD_ERR_MAP_MISMATCH) rfl (by decide) (by decide) (eSlot d.words) hlive
  refine gives_run_to hc (he.trans (whenArrived_mismatch hbad)) ⟨faultedWith_after (f := fun _ => faultCtx _ _ _ _) hfault, ?_⟩
  rw [bit_after]
  exact hbit

/-- Settles O51: both entries wait for their exchange, and each writes its rows to places of their own. -/
theorem cardingReceives : Obligations.CardingReceives := by
  intro e env d land area s
  refine ⟨fun cmd hcmd hready => ?_, fun hr hgot hue hce => ⟨gather_fits hr hgot hue hce, gather_overflows hr hgot hue hce⟩,
    fun hr hgot hsound => combine_adds hr hgot hsound⟩
  simp only [List.mem_cons, List.not_mem_nil, or_false] at hcmd
  rcases hcmd with rfl | rfl
  · exact ⟨fun hno hmiss => receive_waits rfl (gather_starts hready) (cardReady_dispAt hready.1) hno hmiss,
      fun hbad hlive => receive_faults rfl (gather_starts hready) hbad hlive⟩
  · exact ⟨fun hno hmiss => receive_waits rfl (combine_starts hready) (cardReady_dispAt hready.1) hno hmiss,
      fun hbad hlive => receive_faults rfl (combine_starts hready) hbad hlive⟩

end Sys2Proof.Machine
end

section
/-! PROOFS. Commits of sampling profiles (R233). -/

namespace Sys2Proof.Machine

open Sys2Proof.Safety

/-! ### The start of a check -/

/-- The staged words of the profile that SMP_PROF_SEL names. -/
def stagedProfile (s : State) : Nat × List W32 :=
  (fld SMP_PROF_SEL_INDEX s, (List.range 8).map fun w => BitVec.ofNat 32 (fld (SMP_PROF_DATA_DATA w) s))

/-- The check of a profile goes on. -/
def profChecking (x : Nat × List W32) (s : State) : State :=
  setFlds [(SMP_PROF_CTRL_COMMIT, 1), (SMP_STATUS_PROF_BUSY, 1)] { s with profCommit := some x }

theorem profStart_starts {v : W64} {s : State} (hv : wbit v 0 = true) (hs : s.profCommit = none) :
    profStart v s = profChecking (stagedProfile s) s := by
  unfold profStart
  exact if_neg (by rw [hv, hs]; decide)

theorem profStart_quiet {v : W64} {s : State} (h : wbit v 0 = false ∨ s.profCommit.isSome = true) : profStart v s = s := by
  unfold profStart
  refine if_pos ?_
  rcases h with h | h
  · rw [h]; rfl
  · rw [h]; exact Bool.or_true _

theorem driverWrite_profile {v : W32} {s : State} (h : Answers SMP_PROF_CTRL s) :
    driverWrite SMP_PROF_CTRL 4 (v.setWidth 64) s = profStart (v.setWidth 64) (accessed SMP_PROF_CTRL s) :=
  driverWrite_word h (by decide) v

theorem profChecking_bits (x : Nat × List W32) (s : State) :
    bit SMP_PROF_CTRL_COMMIT (profChecking x s) = true ∧ bit SMP_STATUS_PROF_BUSY (profChecking x s) = true :=
  ⟨(bit_setFld_other SMP_STATUS_PROF_BUSY SMP_PROF_CTRL_COMMIT 1 _ (by decide)).trans (bit_setFld_one (by decide) (by decide) _),
    bit_setFld_one (by decide) (by decide) _⟩

theorem regsOnly_profChecking (x : Nat × List W32) (o : Nat) (s : State) :
    RegsOnly [SMP_PROF_CTRL, SMP_STATUS] { s with profCommit := some x } (profChecking x (accessed o s)) := by
  obtain ⟨hset, hregs⟩ := regEffect_setFlds [(SMP_PROF_CTRL_COMMIT, 1), (SMP_STATUS_PROF_BUSY, 1)]
    { accessed o s with profCommit := some x }
  obtain ⟨r, a, y, hr⟩ := hset
  exact regsOnly_of ⟨r, a, y, hr⟩ hregs

theorem after_profCommit (f : State → State) (s : State) : (after f s).profCommit = (f s).profCommit := by
  obtain ⟨m, l, h⟩ := irqSettle_cases s (f s)
  unfold after tidy
  rw [h]

theorem commit_starts {v : W32} {s : State} (h : Answers SMP_PROF_CTRL s) (hv : v.getLsbD 0 = true) (hs : s.profCommit = none) :
    Gives (.commitProfile v) s fun t =>
      t.profCommit = some (fld SMP_PROF_SEL_INDEX s, (List.range 8).map fun w => BitVec.ofNat 32 (fld (SMP_PROF_DATA_DATA w) s)) ∧
        bit SMP_PROF_CTRL_COMMIT t = true ∧ bit SMP_STATUS_PROF_BUSY t = true ∧
        RegsOnly [SMP_PROF_CTRL, SMP_STATUS] { s with profCommit := t.profCommit } t := by
  have he : driverWrite SMP_PROF_CTRL 4 (v.setWidth 64) s = profChecking (stagedProfile s) (accessed SMP_PROF_CTRL s) := by
    rw [driverWrite_profile h]
    exact profStart_starts (by simpa only [wbit_setWidth]) hs
  obtain ⟨u, hu⟩ : ∃ u, u = profChecking (stagedProfile s) (accessed SMP_PROF_CTRL s) := ⟨_, rfl⟩
  obtain ⟨hcommit, hbusy⟩ := profChecking_bits (stagedProfile s) (accessed SMP_PROF_CTRL s)
  have honly := regsOnly_profChecking (stagedProfile s) SMP_PROF_CTRL s
  have hprof : u.profCommit = some (stagedProfile s) := by
    rw [hu]
    unfold profChecking
    rw [setFlds_profCommit]
  rw [← hu] at he hcommit hbusy honly
  have hprof' : (after (fun _ => u) s).profCommit = some (stagedProfile s) := (after_profCommit _ s).trans hprof
  refine gives_run_to rfl he ⟨hprof', ?_, ?_, ?_⟩
  · rw [bit_after]; exact hcommit
  · rw [bit_after]; exact hbusy
  · rw [hprof']
    exact regsOnly_after_of rfl honly

theorem commit_quiet {v : W32} {s : State} (h : Answers SMP_PROF_CTRL s) (hq : v.getLsbD 0 = false ∨ s.profCommit.isSome) :
    Gives (.commitProfile v) s fun t => RegsOnly [] s t := by
  have he : driverWrite SMP_PROF_CTRL 4 (v.setWidth 64) s = accessed SMP_PROF_CTRL s := by
    rw [driverWrite_profile h]
    exact profStart_quiet (hq.imp (by simpa only [wbit_setWidth] using id) id)
  exact gives_run_of (g := accessed SMP_PROF_CTRL) rfl he (regsOnly_after ((regEffect_accessed [] SMP_PROF_CTRL).regsOnly s))

/-! ### The end of a check -/

/-- No check runs. -/
def profIdle (s : State) : State := setFlds [(SMP_PROF_CTRL_COMMIT, 0), (SMP_STATUS_PROF_BUSY, 0)] { s with profCommit := none }

/-- A context's record of the words that it uses until its next step boundary. -/
def keepOld (i : Nat) (old : List W32) (x : Ctx) : Ctx :=
  if (find? x.oldProfiles i).isSome then x else { x with oldProfiles := x.oldProfiles ++ [(i, old)] }

/-- Context c keeps its words. -/
def keepProfile (i : Nat) (old : List W32) (s : State) (c : Nat) : State := modCtx c (keepOld i old) s

/-- The words of a profile are accepted. -/
def profAccepted (i : Nat) (ws : List W32) (s : State) : State :=
  { (existing s).foldl (keepProfile i (profWords i s)) s with
    profiles := put ((existing s).foldl (keepProfile i (profWords i s)) s).profiles noProfile i ws }

/-- Why a profile is refused (R233, R234). -/
def ProfRefused (i : Nat) (ws : List W32) (s : State) : Prop :=
  i = 0 ∨ profOk ws = false ∨ ((ws.getD 0 0).msb = false ∧ profNamed i s = true)

theorem profIdle_eq (s : State) : ∃ r, profIdle s = { s with regs := r, profCommit := none } ∧
    SameRegs [SMP_PROF_CTRL, SMP_STATUS] s (profIdle s) := by
  obtain ⟨⟨r, a, y, hr⟩, hregs⟩ := regEffect_setFlds [(SMP_PROF_CTRL_COMMIT, 0), (SMP_STATUS_PROF_BUSY, 0)] { s with profCommit := none }
  exact ⟨_, rfl, hregs⟩

theorem profIdle_bits (s : State) : bit SMP_PROF_CTRL_COMMIT (profIdle s) = false ∧ bit SMP_STATUS_PROF_BUSY (profIdle s) = false :=
  ⟨(bit_setFld_other SMP_STATUS_PROF_BUSY SMP_PROF_CTRL_COMMIT 0 _ (by decide)).trans (bit_setFld_zero (by decide) _),
    bit_setFld_zero (by decide) _⟩

theorem profEnd_refused {i : Nat} {ws : List W32} {s : State} (hs : s.profCommit = some (i, ws)) (h : ProfRefused i ws s) :
    profEnd s = setErr SMP_ERR_PROFILE (profIdle s) := by
  have hnamed : profNamed i (profIdle s) = profNamed i s := rfl
  unfold profEnd
  rw [hs]
  refine if_pos ?_
  show (decide (i = 0) || !profOk ws || (!(ws.getD 0 0).msb && profNamed i (profIdle s))) = true
  rw [hnamed]
  rcases h with h | h | ⟨hmsb, hn⟩
  · rw [decide_eq_true h]; rfl
  · rw [h]; simp
  · rw [hmsb, hn]; exact Bool.or_true _

theorem profEnd_accepted {i : Nat} {ws : List W32} {s : State} (hs : s.profCommit = some (i, ws)) (h : ¬ProfRefused i ws s) :
    profEnd s = profAccepted i ws (profIdle s) := by
  have hnamed : profNamed i (profIdle s) = profNamed i s := rfl
  unfold profEnd
  rw [hs]
  refine if_neg ?_
  show ¬(decide (i = 0) || !profOk ws || (!(ws.getD 0 0).msb && profNamed i (profIdle s))) = true
  rw [hnamed]
  intro hc
  refine h ?_
  simp only [Bool.or_eq_true, decide_eq_true_eq, Bool.and_eq_true, Bool.not_eq_true'] at hc
  rcases hc with (hc | hc) | hc
  · exact .inl hc
  · exact .inr (.inl hc)
  · exact .inr (.inr hc)

/-- Only contexts have changed. -/
def CtxsOnly (s t : State) : Prop := ∃ x, t = { s with ctxs := x }

theorem ctxsOnly_keepProfile (i : Nat) (old : List W32) (s : State) (c : Nat) : CtxsOnly s (keepProfile i old s c) := ⟨_, rfl⟩

theorem ctxsOnly_keepProfiles (i : Nat) (old : List W32) (cs : List Nat) (s : State) : CtxsOnly s (cs.foldl (keepProfile i old) s) := by
  induction cs generalizing s with
  | nil => exact ⟨s.ctxs, rfl⟩
  | cons c cs ih =>
    obtain ⟨x, hx⟩ := ctxsOnly_keepProfile i old s c
    obtain ⟨y, hy⟩ := ih { s with ctxs := x }
    rw [List.foldl_cons, hx]
    exact ⟨y, hy⟩

theorem find?_append_single {α : Type} (l : List (Nat × α)) (i : Nat) (v : α) (h : find? l i = none) : find? (l ++ [(i, v)]) i = some v := by
  induction l with
  | nil => exact if_pos rfl
  | cons x l ih =>
    obtain ⟨j, w⟩ := x
    unfold find? at h
    split at h
    · cases h
    next hj => exact (if_neg hj).trans (ih h)

theorem find?_keepOld (i : Nat) (old : List W32) (x : Ctx) :
    find? (keepOld i old x).oldProfiles i = some ((find? x.oldProfiles i).getD old) := by
  unfold keepOld
  cases h : find? x.oldProfiles i with
  | some v => exact h
  | none => exact find?_append_single _ _ _ h

theorem keepOld_idem (i : Nat) (old : List W32) (x : Ctx) : keepOld i old (keepOld i old x) = keepOld i old x := by
  have h : (find? (keepOld i old x).oldProfiles i).isSome = true := by rw [find?_keepOld]; rfl
  exact if_pos h

theorem ctx_keepProfile (i : Nat) (old : List W32) (s : State) (c k : Nat) :
    ctx k (keepProfile i old s c) = if k = c then keepOld i old (ctx k s) else ctx k s := by
  split
  next h => subst h; exact ctx_setCtx_same _ _ _
  next h => exact ctx_setCtx_other h _ _

theorem ctx_keepProfiles (i : Nat) (old : List W32) (cs : List Nat) (s : State) (k : Nat) :
    ctx k (cs.foldl (keepProfile i old) s) = if k ∈ cs then keepOld i old (ctx k s) else ctx k s := by
  induction cs generalizing s with
  | nil => exact (if_neg (by simp)).symm
  | cons c cs ih =>
    rw [List.foldl_cons, ih, ctx_keepProfile]
    by_cases hkc : k = c
    · subst hkc
      simp only [if_pos, List.mem_cons_self, keepOld_idem, ite_self]
    · simp only [List.mem_cons, hkc, false_or, if_false]

/-- What the acceptance of a profile leaves. -/
theorem profAccepted_spec {i : Nat} (hi : i ≠ 0) (ws : List W32) (s : State) :
    (∃ x p, profAccepted i ws s = { s with ctxs := x, profiles := p }) ∧ profWords i (profAccepted i ws s) = ws ∧
      (∀ j, j ≠ i → profWords j (profAccepted i ws s) = profWords j s) ∧
      ∀ c < 64, ctxExists c s = true → ctxProfile c i (profAccepted i ws s) = ctxProfile c i s := by
  have hctx (c : Nat) : ctx c (profAccepted i ws s) = if c ∈ existing s then keepOld i (profWords i s) (ctx c s) else ctx c s :=
    ctx_keepProfiles i (profWords i s) (existing s) s c
  have hwords (j : Nat) (hj : j ≠ 0) : profWords j (profAccepted i ws s) = lookup (put s.profiles noProfile i ws) noProfile j := by
    obtain ⟨x, hx⟩ := ctxsOnly_keepProfiles i (profWords i s) (existing s) s
    unfold profWords
    rw [if_neg hj]
    unfold profAccepted
    rw [hx]
  refine ⟨?_, ?_, fun j hj => ?_, fun c hc hex => ?_⟩
  · obtain ⟨x, hx⟩ := ctxsOnly_keepProfiles i (profWords i s) (existing s) s
    unfold profAccepted
    rw [hx]
    exact ⟨x, _, rfl⟩
  · rw [hwords i hi, lookup_put_same]
  · by_cases h0 : j = 0
    · unfold profWords
      rw [if_pos h0, if_pos h0]
    · rw [hwords j h0, lookup_put_other _ _ _ _ hj]
      unfold profWords
      rw [if_neg h0]
  · have hmem : c ∈ existing s := List.mem_filter.mpr ⟨List.mem_range.mpr hc, hex⟩
    unfold ctxProfile
    rw [hctx c, if_pos hmem, find?_keepOld]
    rfl

theorem profWords_congr {s t : State} (h : t.profiles = s.profiles) (j : Nat) : profWords j t = profWords j s := by
  unfold profWords
  rw [h]

theorem ctxProfile_congr {s t : State} {c i : Nat} (hc : ctx c t = ctx c s) (hp : profWords i t = profWords i s) :
    ctxProfile c i t = ctxProfile c i s := by
  unfold ctxProfile
  rw [hc, hp]

theorem after_profiles (f : State → State) (s : State) : (after f s).profiles = (f s).profiles := by
  obtain ⟨m, l, h⟩ := irqSettle_cases s (f s)
  unfold after tidy
  rw [h]

theorem check_ends {i : Nat} {ws : List W32} {s : State} (hs : s.profCommit = some (i, ws)) :
    Gives .profileCheckDone s fun t =>
      t.profCommit = none ∧ bit SMP_PROF_CTRL_COMMIT t = false ∧ bit SMP_STATUS_PROF_BUSY t = false ∧
      (∀ j, j ≠ i → profWords j t = profWords j s) ∧ (∀ c < 64, ctxExists c s = true → ctxProfile c i t = ctxProfile c i s) ∧
      (ProfRefused i ws s → profWords i t = profWords i s ∧ bit SMP_ERR_PROFILE t = true) ∧
      (¬ProfRefused i ws s → profWords i t = ws ∧ SameRegs [SMP_PROF_CTRL, SMP_STATUS] s t) ∧ SameMem s t := by
  obtain ⟨r, hu, hregs⟩ := profIdle_eq s
  obtain ⟨hcommit, hbusy⟩ := profIdle_bits s
  obtain ⟨u, hue⟩ : ∃ u, u = profIdle s := ⟨_, rfl⟩
  rw [← hue] at hu hregs hcommit hbusy
  have hfacts : u.profCommit = none ∧ u.profiles = s.profiles ∧ (∀ c, ctx c u = ctx c s) ∧ SameMem s u := by
    rw [hu]
    exact ⟨rfl, rfl, fun _ => rfl, fun _ => ⟨rfl, rfl⟩⟩
  obtain ⟨hcleared, hprofs, hctx, hmem⟩ := hfacts
  by_cases href : ProfRefused i ws s
  · have he : profEnd s = setErr SMP_ERR_PROFILE u := by rw [hue]; exact profEnd_refused hs href
    have hflag (f : FRef) (hf : f.off ≠ SMP_ERR) : bit f (setErr SMP_ERR_PROFILE u) = bit f u := bit_setFld_other _ _ _ _ hf
    have herr := bit_setErr (f := SMP_ERR_PROFILE) (by decide) (by decide) u
    have hv : (setErr SMP_ERR_PROFILE u).profCommit = none ∧ (setErr SMP_ERR_PROFILE u).profiles = s.profiles ∧
        (∀ c, ctx c (setErr SMP_ERR_PROFILE u) = ctx c s) ∧ SameMem s (setErr SMP_ERR_PROFILE u) :=
      ⟨hcleared, hprofs, hctx, hmem⟩
    have hc' := (hflag SMP_PROF_CTRL_COMMIT (by decide)).trans hcommit
    have hb' := (hflag SMP_STATUS_PROF_BUSY (by decide)).trans hbusy
    generalize setErr SMP_ERR_PROFILE u = v at *
    obtain ⟨hv1, hv2, hv3, hv4⟩ := hv
    have hwords (j : Nat) : profWords j (after (fun _ => v) s) = profWords j s :=
      profWords_congr ((after_profiles _ s).trans hv2) j
    refine gives_run_to rfl he ⟨(after_profCommit _ s).trans hv1, ?_, ?_, fun j _ => hwords j, fun c _ _ =>
      ctxProfile_congr ((ctx_after c _ s).trans (hv3 c)) (hwords i), fun _ => ⟨hwords i, ?_⟩, fun h => absurd href h,
      sameMem_after (f := fun _ => v) hv4⟩
    · rw [bit_after]; exact hc'
    · rw [bit_after]; exact hb'
    · rw [bit_after]; exact herr
  · have he : profEnd s = profAccepted i ws u := by rw [hue]; exact profEnd_accepted hs href
    obtain ⟨⟨x, p, hv⟩, hown, hothers, hctxs⟩ := profAccepted_spec (fun h => href (.inl h)) ws u
    have hvf : (profAccepted i ws u).profCommit = none ∧ (∀ o, rd o (profAccepted i ws u) = rd o u) ∧ SameMem s (profAccepted i ws u) := by
      rw [hv]
      exact ⟨hcleared, fun _ => rfl, hmem⟩
    generalize profAccepted i ws u = v at *
    obtain ⟨hv1, hv2, hv3⟩ := hvf
    have hwords (j : Nat) : profWords j (after (fun _ => v) s) = profWords j v := profWords_congr (after_profiles _ s) j
    have hbit (f : FRef) : bit f v = bit f u := by
      have := fld_congr_rd (hv2 f.off)
      unfold bit
      rw [this]
    have hex (c : Nat) (h : ctxExists c s = true) : ctxExists c u = true := by
      have hstate : ctxState c u = ctxState c s :=
        fld_congr_rd (hregs (CTX_STATE c) (by unfold CTX_STATE SMP_PROF_CTRL SMP_STATUS; simp; omega))
      unfold ctxExists at h ⊢
      rw [hstate]
      exact h
    refine gives_run_to rfl he ⟨(after_profCommit _ s).trans hv1, ?_, ?_, fun j hj => ?_, fun c hc h => ?_, fun h => absurd h href,
      fun _ => ⟨(hwords i).trans hown, sameRegs_after (f := fun _ => v) fun o ho => (hv2 o).trans (hregs o ho)⟩,
      sameMem_after (f := fun _ => v) hv3⟩
    · rw [bit_after, hbit]; exact hcommit
    · rw [bit_after, hbit]; exact hbusy
    · exact (hwords j).trans ((hothers j hj).trans (profWords_congr hprofs j))
    · exact (ctxProfile_congr (ctx_after c _ s) (hwords i)).trans ((hctxs c hc (hex c h)).trans
        (ctxProfile_congr (hctx c) (profWords_congr hprofs i)))

theorem profileCommits_holds : profileCommits :=
  ⟨fun _ _ h => ⟨commit_starts h, commit_quiet h⟩, fun _ _ _ hs => check_ends hs⟩

end Sys2Proof.Machine
end

section
/-! PROOFS. SAMPLE entries (R230 to R249). -/

namespace Sys2Proof.Machine

open Sys2Proof.Safety

/-! ### Entries that may start -/

theorem ready_dispAt {e : EntryRef} {kind : Nat} {s : State} {d : Disp} (h : ready e kind s = some d) : dispAt e s = some d := by
  unfold ready at h
  dsimp only at h
  cases hd : dispAt e s with
  | none => rw [hd] at h; cases h
  | some d' =>
    cases hst : stepOf e.ctx.toNat s with
    | none => rw [hd, hst] at h; cases h
    | some st =>
      cases hp : phaseOf e.ctx.toNat e.phase.toNat s with
      | none => rw [hd, hst, hp] at h; cases h
      | some p =>
        rw [hd, hst, hp] at h
        simp only [Option.ite_none_right_eq_some] at h
        exact h.2

theorem doneEntry_eq {e : EntryRef} {d : Disp} {s : State} (h : dispAt e s = some d) :
    doneEntry e s = setDisp e { d with st := .done } s := by
  unfold doneEntry modDisp
  rw [h]

theorem regsOnly_doneEntry {e : EntryRef} {d : Disp} {s : State} (h : dispAt e s = some d) :
    entryDone e (doneEntry e s) ∧ RegsOnly [] { s with ctxs := (doneEntry e s).ctxs } (doneEntry e s) := by
  rw [doneEntry_eq h]
  exact ⟨entryDone_setDisp (d := { d with st := .done }) h rfl, regsOnly_setDisp e _ s⟩

/-- An entry that is complete at once. -/
theorem done_at_once {e : EntryRef} {d : Disp} {i : Instr} {f : State → State} {s : State} (hc : exec i s = run f s)
    (he : f s = doneEntry e s) (hd : dispAt e s = some d) :
    Gives i s fun t => entryDone e t ∧ RegsOnly [] { s with ctxs := t.ctxs } t := by
  obtain ⟨hdone, honly⟩ := regsOnly_doneEntry hd
  refine gives_run_of (g := doneEntry e) hc he ⟨entryDone_after hdone, ?_⟩
  rw [after_ctxs]
  exact regsOnly_after_of rfl honly

/-! ### One decode row -/

/-- A step with the sample of a row. -/
def withSample (r : Nat) (x : RowSample) (st : Step) : Step := { st with samples := put st.samples {} r x }

theorem setSample_spec (c r : Nat) (x : RowSample) (s : State) : (∃ y, setSample c r x s = { s with ctxs := y }) ∧
    ctx c (setSample c r x s) = { ctx c s with step := (ctx c s).step.map (withSample r x) } :=
  ⟨⟨_, rfl⟩, ctx_setCtx_same _ _ _⟩

theorem stepOf_setSample {c : Nat} {st : Step} {s : State} (h : stepOf c s = some st) (r : Nat) (x : RowSample) :
    stepOf c (setSample c r x s) = some (withSample r x st) := by
  have hst : (ctx c s).step = some st := h
  unfold stepOf
  rw [(setSample_spec c r x s).2, hst]
  rfl

theorem maskOf_congr {c : Nat} {s : State} {y : List (Nat × Ctx)} (hw : (ctx c { s with ctxs := y }).weave = (ctx c s).weave)
    (hb : (ctx c { s with ctxs := y }).bound = (ctx c s).bound) (h : Nat) : maskOf c h { s with ctxs := y } = maskOf c h s := by
  unfold maskOf
  rw [hw, hb]
  rfl

theorem smpArea_congr {c : Nat} {s : State} {y : List (Nat × Ctx)} (hw : (ctx c { s with ctxs := y }).weave = (ctx c s).weave)
    (hb : (ctx c { s with ctxs := y }).bound = (ctx c s).bound) (i : Nat) : smpArea c i { s with ctxs := y } = smpArea c i s := by
  unfold smpArea
  rw [hw, hb]
  rfl

/-- The words of the row at `la`. -/
def logits (la : Nat) (w : List W32) (s : State) : List W32 := (List.range (sVocab w)).map fun t => rdWord (la + 4 * t) s

/-- The token of an input word. -/
def inputToken (w : List W32) (s : State) : Nat := rdNat (lagoonBase (sInSpindle w) + sInOff w) 4 s % 2 ^ 18

/-- The mask and the grammar state with which a committed skein's decode row is sampled. -/
def rowMask (c : Nat) (k : Skein) (s : State) : MaskSel := (maskOf c k.mask s).getD {}
def rowGram (c i : Nat) (s : State) : Nat := ((smpArea c i s).map fun a => gramState a s).getD 0

/-- What a decode row that is the first of its skein yields. -/
def rowResult (c : Nat) (w : List W32) (b : BatchSk) (st : Step) (la : Nat) (s : State) : Sampled :=
  sampleRow (ctxProfile c (sk b.skein s).profile s) (logits la w s) (maskAllows (rowMask c (sk b.skein s) s) (rowGram c b.skein s) s)
    (window (ctxProfile c (sk b.skein s).profile s) (sk b.skein s)
      (withSample (sRowBase w) { input := BitVec.ofNat 32 (inputToken w s), live := true } st) b (smpArea c b.skein s) (b.base + 1) s)
    (drawU (sk b.skein s).seed (b.base + 1))

/-- The row's sample before its result: live, with its input. -/
def liveSample (w : List W32) (s : State) : RowSample := { input := BitVec.ofNat 32 (inputToken w s), live := true }

/-- The row is entered as live. -/
def rowLivened (c : Nat) (w : List W32) (s : State) : State := setSample c (sRowBase w) (liveSample w s) s

/-- Where the row's token goes. -/
def tokenPlace (w : List W32) : Nat := lagoonBase (sOutSpindle w) + sOutOff w

/-- The token is written. -/
def tokenWritten (w : List W32) (t : Nat) (cap : Bool) (s : State) : State :=
  wrUnit (tokenPlace w) (natToBytes 4 t) false (if cap then bump64 (SMP_CNT 5) 1 s else s)

/-- How a live row ends, by its result: with its token, non-finite, or with an empty mask (R231, R238). -/
def rowEnds (c : Nat) (w : List W32) (i : Nat) (m : MaskSel) (g : Nat) (x : RowSample) (res : Sampled) (s : State) : State :=
  match res with
  | .token t cap =>
    setSample c (sRowBase w) { x with token := BitVec.ofNat 32 t, mask := maskNext m g t (tokenWritten w t cap s) } (tokenWritten w t cap s)
  | .nonfinite => bump64 (SMP_CNT 6) 1 (smpErr SMP_ERR_NONFINITE c (some i) (setSample c (sRowBase w) { x with bad := true } s))
  | .empty =>
    bump64 (SMP_CNT 4) 1 (smpErr SMP_ERR_MASK_EMPTY c (some i) (faultSkein i fcMaskEmpty
      (setSample c (sRowBase w) { x with fault := fcMaskEmpty } s)))

section
variable {c : Nat} {w : List W32} {st : Step} {b : BatchSk} {la : Nat} {s : State}
  (hst : stepOf c s = some st) (hpart : rowPart st.batch (sRowBase w) = some b) (hdecode : b.prefill = false) (hrow : b.row = sRowBase w)
  (hsampled : (sk b.skein s).sampled = true) (hla : logitAddr c w (sRowBase w) s = some la)
include hst hpart hdecode hrow hsampled hla

theorem sampleOne_row : sampleOne c w [] none (sRowBase w) s = rowEnds c w b.skein (rowMask c (sk b.skein s) s) (rowGram c b.skein s)
    (liveSample w s) (rowResult c w b st la s) (bump64 (SMP_CNT 0) 1 (rowLivened c w s)) := by
  have hsub : sRowBase w - sRowBase w = 0 := Nat.sub_self _
  have hlive : rowLive (sk b.skein s) st b (sRowBase w) (inputToken w s) = true := by
    unfold rowLive
    rw [hdecode, hrow, hsub]
    rfl
  obtain ⟨⟨y, hy⟩, hctx⟩ := setSample_spec c (sRowBase w) { input := BitVec.ofNat 32 (inputToken w s), live := true } s
  have hst1 := stepOf_setSample hst (sRowBase w) { input := BitVec.ofNat 32 (inputToken w s), live := true }
  obtain ⟨s1, hs1⟩ : ∃ s1, s1 = setSample c (sRowBase w) { input := BitVec.ofNat 32 (inputToken w s), live := true } s := ⟨_, rfl⟩
  have hfirst (p : Prop) [Decidable p] : (if p then firstSampling c b.skein s1 else (true, s1)) = (true, s1) := by
    have hs : firstSampling c b.skein s1 = (true, s1) := by
      unfold firstSampling
      rw [hs1, hy]
      exact if_pos hsampled
    rw [hs, ite_self]
  have hinput : rdNat (lagoonBase (sInSpindle w) + sInOff w) 4 s % 2 ^ 18 = inputToken w s := rfl
  have hnot (x : Bool) : (x && !b.prefill && decide (sRowBase w > sRowBase w)) = false := by simp
  unfold sampleOne
  dsimp only
  rw [hst]
  dsimp only [Option.bind]
  rw [hpart, hla]
  dsimp only
  simp only [hrow, hsub, Nat.mul_zero, Nat.add_zero, hinput, hlive, ← hs1]
  rw [hfirst]
  dsimp only
  rw [hnot]
  have hweave : (ctx c s1).weave = (ctx c s).weave := by rw [hs1, hctx]
  have hbound : (ctx c s1).bound = (ctx c s).bound := by rw [hs1, hctx]
  have hold : (ctx c s1).oldProfiles = (ctx c s).oldProfiles := by rw [hs1, hctx]
  rw [← hs1] at hst1 hy
  have hmask (h : Nat) : maskOf c h s1 = maskOf c h s := by rw [hy] at hweave hbound ⊢; exact maskOf_congr hweave hbound h
  have harea (i : Nat) : smpArea c i s1 = smpArea c i s := by rw [hy] at hweave hbound ⊢; exact smpArea_congr hweave hbound i
  have hprof (i : Nat) : ctxProfile c i s1 = ctxProfile c i s := by
    have hw : profWords i s1 = profWords i s := by rw [hy]; rfl
    unfold ctxProfile
    rw [hold, hw]
  have hprov (m : MaskSel) (z : Step) (g : Nat) (u : State) : provisional m z b 0 g u = g := by
    unfold provisional
    rw [hdecode]
    rfl
  have hword (a : Nat) : rdWord a s1 = rdWord a s := by rw [hy]; rfl
  have hallows (m : MaskSel) (g : Nat) : maskAllows m g s1 = maskAllows m g s := by rw [hy]; rfl
  have hgram (a : Nat) : gramState a s1 = gramState a s := by rw [hy]; rfl
  have hwin (ws : List W32) (k : Skein) (z : Step) (o : Option Nat) (p : Nat) : window ws k z b o p s1 = window ws k z b o p s := by
    rw [hy]; rfl
  have hany (l : List Nat) : l.any ([] : List Nat).contains = false := by simp
  unfold rowEnds rowResult logits rowMask rowGram tokenWritten tokenPlace rowLivened liveSample
  rw [← hs1]
  simp only [hmask, harea, hprof, hprov, hgram, hany, hst1, Bool.not_true, Bool.false_eq_true, if_false,
    Option.getD_some, Option.map_none, decide_true, Bool.or_true, if_true, hdecode]
  cases ha : smpArea c b.skein s <;>
  · simp only [hword, hallows, hwin]
    generalize sampleRow _ _ _ _ _ = res
    cases res <;> rfl

end

/-! ### What a row's sampling may touch -/

/-- Nothing has changed but memory, contexts, captures, and the registers listed. -/
def SampledOnly (l : List Nat) (s t : State) : Prop :=
  (∃ r k x m q b n, t = { s with regs := r, caps := k, ctxs := x, mem := m, staples := q, lagoonBad := b, spns := n }) ∧ SameRegs l s t

namespace SampledOnly

variable {l : List Nat} {s t u : State}

theorem trans (h : SampledOnly l s t) (h' : SampledOnly l t u) : SampledOnly l s u := by
  obtain ⟨⟨r, k, x, m, q, b, n, rfl⟩, hr⟩ := h
  obtain ⟨⟨r', k', x', m', q', b', n', rfl⟩, hr'⟩ := h'
  exact ⟨⟨r', k', x', m', q', b', n', rfl⟩, fun o ho => (hr' o ho).trans (hr o ho)⟩

theorem mono {l' : List Nat} (h : SampledOnly l s t) (hsub : l ⊆ l') : SampledOnly l' s t := ⟨h.1, fun o ho => h.2 o fun hm => ho (hsub hm)⟩

theorem skeins_eq (h : SampledOnly l s t) : t.skeins = s.skeins := by
  obtain ⟨⟨r, k, x, m, q, b, n, rfl⟩, -⟩ := h
  rfl

end SampledOnly

theorem sampledOnly_setSample (l : List Nat) (c r : Nat) (x : RowSample) (s : State) : SampledOnly l s (setSample c r x s) :=
  ⟨⟨s.regs, s.caps, _, s.mem, s.staples, s.lagoonBad, s.spns, rfl⟩, fun _ _ => rfl⟩

theorem sampledOnly_setDisp (l : List Nat) (e : EntryRef) (d : Disp) (s : State) : SampledOnly l s (setDisp e d s) :=
  ⟨⟨s.regs, s.caps, _, s.mem, s.staples, s.lagoonBad, s.spns, rfl⟩, fun _ _ => rfl⟩

theorem sampledOnly_bump64 {l : List Nat} {o : Nat} (ho : o ∈ l) (n : Nat) (s : State) : SampledOnly l s (bump64 o n s) :=
  ⟨⟨_, s.caps, s.ctxs, s.mem, s.staples, s.lagoonBad, s.spns, rfl⟩,
    fun _ hp => (regEffect_bump64 o n s).2 _ (List.mem_singleton.not.mpr fun e => hp (e ▸ ho))⟩

theorem sampledOnly_wrote (l : List Nat) {a : Nat} {bs : List Byte} {s t : State} (h : UnitWrote a bs s t) : SampledOnly l s t := by
  obtain ⟨⟨m, q, b, n, rfl⟩, -⟩ := h
  exact ⟨⟨s.regs, s.caps, s.ctxs, m, q, b, n, rfl⟩, fun _ _ => rfl⟩

theorem sampledOnly_smpErr {l : List Nat} {f : FRef} (hf : f.off ∈ l) (hi : SMP_ERR_INFO ∈ l) (c : Nat) (i : Option Nat) (s : State) :
    SampledOnly l s (smpErr f c i s) := by
  have hset {g : FRef} (hg : g.off ∈ l) (n : Nat) (u : State) : SampledOnly l u (setFld g n u) :=
    ⟨⟨_, u.caps, u.ctxs, u.mem, u.staples, u.lagoonBad, u.spns, rfl⟩, fun _ hp => rd_setFld_other _ _ _ fun e => hp (e ▸ hg)⟩
  have hcaps (u : State) : SampledOnly l u { u with caps := u.caps ++ [SMP_ERR_INFO] } :=
    ⟨⟨u.regs, _, u.ctxs, u.mem, u.staples, u.lagoonBad, u.spns, rfl⟩, fun _ _ => rfl⟩
  unfold smpErr
  dsimp only
  split
  · exact ((((hset (g := SMP_ERR_INFO_CONTEXT) hi _ s).trans (hset (g := SMP_ERR_INFO_SKEIN_VALID) hi _ _)).trans
      (hset (g := SMP_ERR_INFO_SKEIN) hi _ _)).trans (hcaps _)).trans (hset hf 1 _)
  · exact hset hf 1 s

theorem smpErr_data (f : FRef) (c : Nat) (i : Option Nat) (s : State) : SameMem s (smpErr f c i s) ∧ (smpErr f c i s).ctxs = s.ctxs := by
  unfold smpErr
  dsimp only
  split
  · exact ⟨fun _ => ⟨rfl, rfl⟩, rfl⟩
  · exact ⟨fun _ => ⟨rfl, rfl⟩, rfl⟩

theorem bit_smpErr {f : FRef} (h : f.hi < 64) (hw : f.lo ≤ f.hi) (c : Nat) (i : Option Nat) (s : State) : bit f (smpErr f c i s) = true := by
  unfold smpErr
  dsimp only
  split
  · exact bit_setErr h hw _
  · exact bit_setErr h hw _

/-! ### The step's record of samples -/

theorem dispAt_setSample (e : EntryRef) (r : Nat) (x : RowSample) (s : State) : dispAt e (setSample e.ctx.toNat r x s) = dispAt e s := by
  unfold dispAt
  rw [(setSample_spec e.ctx.toNat r x s).2]
  cases (ctx e.ctx.toNat s).step <;> rfl

/-- The sample of row r of context c's step. -/
def sampleOf (c r : Nat) (s : State) : Option RowSample := (stepOf c s).map fun z => lookup z.samples {} r

theorem sampleOf_congr {c r : Nat} {s t : State} (h : ctx c t = ctx c s) : sampleOf c r t = sampleOf c r s := by
  unfold sampleOf stepOf
  rw [h]

theorem sampleOf_setSample {c : Nat} {st : Step} {s : State} (h : stepOf c s = some st) (r : Nat) (x : RowSample) :
    sampleOf c r (setSample c r x s) = some x := by
  unfold sampleOf
  rw [stepOf_setSample h]
  exact congrArg some (lookup_put_same _ _ _ _)

theorem sampleOf_setDisp (e : EntryRef) (d : Disp) (r : Nat) (s : State) :
    sampleOf e.ctx.toNat r (setDisp e d s) = sampleOf e.ctx.toNat r s := by
  have hctx : ctx e.ctx.toNat (setDisp e d s) = (fun x : Ctx => match x.step with
    | none => x
    | some st =>
      let l := setAt (lookup st.lists [] e.phase.toNat) e.idx d
      { x with step := some { st with lists := put st.lists [] e.phase.toNat l } }) (ctx e.ctx.toNat s) := ctx_setCtx_same _ _ _
  unfold sampleOf stepOf
  rw [hctx]
  dsimp only
  cases hst : (ctx e.ctx.toNat s).step with
  | none => dsimp only; rw [hst]
  | some st => rfl

theorem rows_single {w : List W32} (hrows : sRowsLive w = 1) : sampleRowsOf w = [sRowBase w] := by
  unfold sampleRowsOf
  rw [hrows]
  rfl

theorem badSamples_single {c : Nat} {w : List W32} {x : RowSample} {s : State} (hrows : sRowsLive w = 1)
    (h : sampleOf c (sRowBase w) s = some x) : (badSamples c w s).isEmpty = !(x.live && x.bad) := by
  unfold sampleOf at h
  unfold badSamples
  cases hst : stepOf c s with
  | none => rw [hst] at h; cases h
  | some z =>
    rw [hst] at h
    have hx : lookup z.samples {} (sRowBase w) = x := Option.some.inj h
    dsimp only
    rw [rows_single hrows, List.filter_cons, hx]
    cases x.live && x.bad <;> rfl

theorem hasSpares_congr {s t : State} (h : ∀ p < 304, rd (INT_STRIKES p) t = rd (INT_STRIKES p) s) : hasSpares t = hasSpares s := by
  have hph (p : Nat) (hp : p < 304) : phState p t = phState p s := fld_congr_rd (h p hp)
  unfold hasSpares
  rw [Bool.eq_iff_iff, List.any_eq_true, List.any_eq_true]
  refine exists_congr fun p => and_congr_right fun hp => ?_
  rw [hph p (List.mem_range.mp hp)]

/-! ### The entry (R230, R231, R367) -/

/-- The time of the entry is counted. -/
def sampleTimed (n : Nat) (s : State) : State := bump64 (SMP_CNT 7) n s

/-- The entry is a suspect. -/
def sampleSuspected (e : EntryRef) (s : State) : State :=
  bump64 (INT_CNT 0) 1 (modDisp e (fun d => { d with st := .suspect, susp := some { staple := true } }) s)

section
variable {e : EntryRef} {env : UnitEnv} {d : Disp} {st : Step} {b : BatchSk} {la : Nat} {s : State}
  (hready : ready e kSample s = some d) (hbusy : idle d = false) (hunlocked : inputsLocked d.words s = false) (hrows : sRowsLive d.words = 1)
  (hst : stepOf e.ctx.toNat s = some st) (hpart : rowPart st.batch (sRowBase d.words) = some b) (hdecode : b.prefill = false)
  (hrow : b.row = sRowBase d.words) (hsampled : (sk b.skein s).sampled = true)
  (hla : logitAddr e.ctx.toNat d.words (sRowBase d.words) s = some la) (hsound : soundReads env s)
include hready hbusy hunlocked hrows hst hpart hdecode hrow hsampled hla hsound

/-- The state in which the row has been sampled, and the entry's time counted. -/
theorem sampleEntry_row {v : State} (hv : v = sampleTimed env.busyNs (rowEnds e.ctx.toNat d.words b.skein
      (rowMask e.ctx.toNat (sk b.skein s) s) (rowGram e.ctx.toNat b.skein s) (liveSample d.words s)
      (rowResult e.ctx.toNat d.words b st la s) (bump64 (SMP_CNT 0) 1 (rowLivened e.ctx.toNat d.words s)))) :
    sampleEntry e env s = if (badSamples e.ctx.toNat d.words v).isEmpty then doneEntry e v
      else if hasSpares (sampleSuspected e v) then sampleSuspected e v else failSamples e (sampleSuspected e v) := by
  have hall : sampleAll e.ctx.toNat d.words env none s = sampleOne e.ctx.toNat d.words [] none (sRowBase d.words) s := by
    unfold sampleAll
    rw [rows_single hrows]
    show sampleOne _ _ (badStaples env s) none _ s = _
    rw [badStaples_sound hsound]
  have hany : ((sampleRowsOf d.words).any fun r => (logitAddr e.ctx.toNat d.words r s).isNone) = false := by
    rw [rows_single hrows]
    simp [hla]
  unfold sampleEntry
  rw [hready]
  dsimp only
  rw [hbusy, hunlocked, hany, memEnv_sound hsound.2.2.1 hsound.2.2.2.1, hall, sampleOne_row hst hpart hdecode hrow hsampled hla, hv]
  rfl

end

theorem rowLivened_spec {c : Nat} {st : Step} {s : State} (hst : stepOf c s = some st) (w : List W32) (o : Nat) :
    SampledOnly [o] s (bump64 o 1 (rowLivened c w s)) ∧ SameMem s (bump64 o 1 (rowLivened c w s)) ∧ counts o 1 s (bump64 o 1 (rowLivened c w s)) ∧
      (bump64 o 1 (rowLivened c w s)).spns = s.spns ∧
      stepOf c (bump64 o 1 (rowLivened c w s)) = some (withSample (sRowBase w) (liveSample w s) st) := by
  obtain ⟨y, hy⟩ := (setSample_spec c (sRowBase w) (liveSample w s) s).1
  have hst' := stepOf_setSample hst (sRowBase w) (liveSample w s)
  refine ⟨(sampledOnly_setSample [o] c _ _ s).trans (sampledOnly_bump64 (by simp) 1 _), ?_, ?_, ?_, hst'⟩
  · unfold rowLivened
    rw [hy]
    exact fun _ => ⟨rfl, rfl⟩
  · unfold rowLivened
    rw [hy]
    exact counts_bump64 o 1 { s with ctxs := y }
  · unfold rowLivened
    rw [hy]
    rfl

theorem dispAt_rowLivened (e : EntryRef) (w : List W32) (o : Nat) (s : State) :
    dispAt e (bump64 o 1 (rowLivened e.ctx.toNat w s)) = dispAt e s := dispAt_setSample e _ _ s

/-- The row's token stands at its place, and the row's sample holds it. -/
theorem tokenRow_spec {e : EntryRef} {w : List W32} {i : Nat} {st : Step} {s : State} (hst : stepOf e.ctx.toNat s = some st)
    (hw : noWindows s) (m : MaskSel) (g tok : Nat) (cap : Bool) (n : Nat) {v : State}
    (hv : v = sampleTimed n (rowEnds e.ctx.toNat w i m g (liveSample w s) (.token tok cap) (bump64 (SMP_CNT 0) 1 (rowLivened e.ctx.toNat w s)))) :
    dispAt e v = dispAt e s ∧ SampledOnly [SMP_CNT 0, SMP_CNT 5, SMP_CNT 7] s v ∧ landed (tokenPlace w) (natToBytes 4 tok) s v ∧
      (∃ y, sampleOf e.ctx.toNat (sRowBase w) v = some y ∧ y.token = BitVec.ofNat 32 tok ∧ y.live = true ∧ y.bad = false ∧ y.fault = 0) ∧
      counts (SMP_CNT 0) 1 s v ∧ counts (SMP_CNT 7) n s v := by
  obtain ⟨honly, hmem, hcount, hspns, hstu⟩ := rowLivened_spec hst w (SMP_CNT 0)
  have hdisp := dispAt_rowLivened e w (SMP_CNT 0) s
  obtain ⟨u, hu⟩ : ∃ u, u = bump64 (SMP_CNT 0) 1 (rowLivened e.ctx.toNat w s) := ⟨_, rfl⟩
  rw [← hu] at honly hmem hcount hspns hstu hdisp hv
  obtain ⟨u', hu'⟩ : ∃ u', u' = if cap then bump64 (SMP_CNT 5) 1 u else u := ⟨_, rfl⟩
  have hcap : SampledOnly [SMP_CNT 5] u u' ∧ SameMem u u' ∧ u'.spns = u.spns ∧ u'.ctxs = u.ctxs := by
    rw [hu']
    split
    · exact ⟨sampledOnly_bump64 (by simp) 1 u, fun _ => ⟨rfl, rfl⟩, rfl, rfl⟩
    · exact ⟨⟨⟨_, _, _, _, _, _, _, rfl⟩, fun _ _ => rfl⟩, fun _ => ⟨rfl, rfl⟩, rfl, rfl⟩
  obtain ⟨hcaponly, hcapmem, hcapspns, hcapctxs⟩ := hcap
  have hwin : noWindows u' := fun n => by
    have h := hw n
    unfold spn at h ⊢
    rw [hcapspns, hspns]
    exact h
  obtain ⟨x, hx⟩ : ∃ x, x = wrUnit (tokenPlace w) (natToBytes 4 tok) false u' := ⟨_, rfl⟩
  have hwrote : UnitWrote (tokenPlace w) (natToBytes 4 tok) u' x := hx ▸ wrUnit_spec hwin _ _
  have hctxs : x.ctxs = u.ctxs := by
    obtain ⟨⟨_, _, _, _, hxe⟩, -⟩ := hwrote
    rw [hxe, ← hcapctxs]
  have hctx : ctx e.ctx.toNat x = ctx e.ctx.toNat u := by
    unfold ctx
    rw [hctxs]
  have hstx : stepOf e.ctx.toNat x = some (withSample (sRowBase w) (liveSample w s) st) := by
    unfold stepOf at hstu ⊢
    rw [hctx]
    exact hstu
  obtain ⟨y, hy⟩ : ∃ y : RowSample, y = { liveSample w s with token := BitVec.ofNat 32 tok, mask := maskNext m g tok x } := ⟨_, rfl⟩
  have hve : v = sampleTimed n (setSample e.ctx.toNat (sRowBase w) y x) := by
    rw [hv, hy, hx, hu']
    rfl
  obtain ⟨z, hz⟩ := (setSample_spec e.ctx.toNat (sRowBase w) y x).1
  have hvx : SampledOnly [SMP_CNT 7] x v ∧ SameMem x v ∧ counts (SMP_CNT 7) n x v := by
    rw [hve]
    refine ⟨(sampledOnly_setSample _ _ _ _ x).trans (sampledOnly_bump64 (by simp) n _), ?_, ?_⟩
    · rw [hz]
      exact fun _ => ⟨rfl, rfl⟩
    · rw [hz]
      exact counts_bump64 (SMP_CNT 7) n { x with ctxs := z }
  obtain ⟨hvonly, hvmem, hvcount⟩ := hvx
  have hx0 (o : Nat) : rd o x = rd o u' := (sampledOnly_wrote [] hwrote).2 o (by simp)
  refine ⟨?_, ?_, ?_, ⟨y, ?_, ?_, ?_, ?_, ?_⟩, ?_, ?_⟩
  · have hv' : dispAt e v = dispAt e (setSample e.ctx.toNat (sRowBase w) y x) := by rw [hve]; rfl
    rw [hv', dispAt_setSample, dispAt_congr hctx, hdisp]
  · exact (((honly.mono (by simp)).trans (hcaponly.mono (by simp))).trans (sampledOnly_wrote _ hwrote)).trans (hvonly.mono (by simp))
  · exact landed_of_sameMem (sameMem_trans hmem hcapmem) hwrote.landed hvmem
  · have hv' : sampleOf e.ctx.toNat (sRowBase w) v = sampleOf e.ctx.toNat (sRowBase w) (setSample e.ctx.toNat (sRowBase w) y x) := by rw [hve]; rfl
    rw [hv', sampleOf_setSample hstx]
  · rw [hy]
  · rw [hy]; rfl
  · rw [hy]; rfl
  · rw [hy]; rfl
  · unfold counts at hcount ⊢
    rw [hvonly.2 _ (by decide), hx0, hcaponly.2 _ (by decide)]
    exact hcount
  · unfold counts at hvcount ⊢
    rw [hvcount, hx0, hcaponly.2 _ (by decide), honly.2 _ (by decide)]

/-- A row without a token: its error is shown and counted, and its sample is bad. -/
theorem nonfiniteRow_spec {e : EntryRef} {w : List W32} {i : Nat} {st : Step} {s : State} (hst : stepOf e.ctx.toNat s = some st)
    (m : MaskSel) (g n : Nat) {v : State}
    (hv : v = sampleTimed n (rowEnds e.ctx.toNat w i m g (liveSample w s) .nonfinite (bump64 (SMP_CNT 0) 1 (rowLivened e.ctx.toNat w s)))) :
    dispAt e v = dispAt e s ∧ SampledOnly [SMP_CNT 0, SMP_CNT 6, SMP_CNT 7, SMP_ERR, SMP_ERR_INFO] s v ∧ SameMem s v ∧
      sampleOf e.ctx.toNat (sRowBase w) v = some { liveSample w s with bad := true } ∧ counts (SMP_CNT 6) 1 s v ∧
      bit SMP_ERR_NONFINITE v = true := by
  obtain ⟨honly, hmem, -, -, hstu⟩ := rowLivened_spec hst w (SMP_CNT 0)
  have hdisp := dispAt_rowLivened e w (SMP_CNT 0) s
  obtain ⟨u, hu⟩ : ∃ u, u = bump64 (SMP_CNT 0) 1 (rowLivened e.ctx.toNat w s) := ⟨_, rfl⟩
  rw [← hu] at honly hmem hstu hdisp hv
  obtain ⟨x, hx⟩ : ∃ x, x = setSample e.ctx.toNat (sRowBase w) { liveSample w s with bad := true } u := ⟨_, rfl⟩
  obtain ⟨y, hy⟩ : ∃ y, y = smpErr SMP_ERR_NONFINITE e.ctx.toNat (some i) x := ⟨_, rfl⟩
  have hve : v = bump64 (SMP_CNT 7) n (bump64 (SMP_CNT 6) 1 y) := by
    rw [hv, hy, hx]
    rfl
  have hxonly : SampledOnly [] u x ∧ SameMem u x := by
    obtain ⟨z, hz⟩ := (setSample_spec e.ctx.toNat (sRowBase w) { liveSample w s with bad := true } u).1
    refine ⟨hx ▸ sampledOnly_setSample [] _ _ _ u, ?_⟩
    rw [hx, hz]
    exact fun _ => ⟨rfl, rfl⟩
  have hyonly : SampledOnly [SMP_ERR, SMP_ERR_INFO] x y := hy ▸ sampledOnly_smpErr (by decide) (by decide) _ _ x
  obtain ⟨hymem, hyctxs⟩ := smpErr_data SMP_ERR_NONFINITE e.ctx.toNat (some i) x
  rw [← hy] at hymem hyctxs
  have hctx : ctx e.ctx.toNat v = ctx e.ctx.toNat x := by
    rw [hve]
    unfold ctx
    rw [bump64_ctxs, bump64_ctxs, hyctxs]
  have hyerr : bit SMP_ERR_NONFINITE y = true := hy ▸ bit_smpErr (by decide) (by decide) _ _ x
  have hyv : SampledOnly [SMP_CNT 6, SMP_CNT 7] y v ∧ SameMem y v := by
    rw [hve]
    exact ⟨(sampledOnly_bump64 (by simp) 1 y).trans (sampledOnly_bump64 (by simp) n _), fun _ => ⟨rfl, rfl⟩⟩
  refine ⟨?_, ?_, ?_, ?_, ?_, ?_⟩
  · rw [dispAt_congr hctx, hx, dispAt_setSample, hdisp]
  · exact (((honly.mono (by simp)).trans (hxonly.1.mono (by simp))).trans (hyonly.mono (by simp))).trans (hyv.1.mono (by simp))
  · exact sameMem_trans hmem (sameMem_trans hxonly.2 (sameMem_trans hymem hyv.2))
  · rw [sampleOf_congr hctx, hx, sampleOf_setSample hstu]
  · have hy6 : rd (SMP_CNT 6) y = rd (SMP_CNT 6) s :=
      (hyonly.2 _ (by decide)).trans ((hxonly.1.2 _ (by simp)).trans (honly.2 _ (by decide)))
    have hc : counts (SMP_CNT 6) 1 s (bump64 (SMP_CNT 6) 1 y) := counts_bump64_of hy6
    unfold counts at hc ⊢
    rw [hve, ← hc]
    exact (regEffect_bump64 (SMP_CNT 7) n _).2 _ (by decide)
  · have hkept : fld SMP_ERR_NONFINITE v = fld SMP_ERR_NONFINITE y := fld_congr_rd (hyv.1.2 SMP_ERR (by decide))
    unfold bit at hyerr ⊢
    rw [hkept]
    exact hyerr

theorem modDisp_eq {e : EntryRef} {d : Disp} {s : State} (h : dispAt e s = some d) (f : Disp → Disp) : modDisp e f s = setDisp e (f d) s := by
  unfold modDisp
  rw [h]

theorem after_skeins_of {f : State → State} {s : State} (h : (f s).skeins = s.skeins) : (after f s).skeins = s.skeins :=
  (after_skeins f s).trans h

theorem sampleEntries_holds : sampleEntries := by
  intro e env d st b la s
  dsimp only
  intro hready
  have hdisp := ready_dispAt hready
  refine ⟨fun hidle => ?_, fun hbusy hunlocked hrows hst hpart hdecode hrow hsampled hla hsound hwin => ⟨fun tok cap hres => ?_, fun hres hspares => ?_⟩⟩
  · have he : sampleEntry e env s = doneEntry e s := by
      unfold sampleEntry
      rw [hready]
      exact if_pos hidle
    exact done_at_once rfl he hdisp
  · obtain ⟨v, hv⟩ : ∃ v, v = sampleTimed env.busyNs (rowEnds e.ctx.toNat d.words b.skein (rowMask e.ctx.toNat (sk b.skein s) s)
      (rowGram e.ctx.toNat b.skein s) (liveSample d.words s) (rowResult e.ctx.toNat d.words b st la s)
      (bump64 (SMP_CNT 0) 1 (rowLivened e.ctx.toNat d.words s))) := ⟨_, rfl⟩
    have he := sampleEntry_row (env := env) hready hbusy hunlocked hrows hst hpart hdecode hrow hsampled hla hsound hv
    have hres' : rowResult e.ctx.toNat d.words b st la s = .token tok cap := hres
    rw [hres'] at hv
    obtain ⟨hvdisp, honly, hland, ⟨y, hy, htok, hlive, hbad, hfault⟩, h0, h7⟩ := tokenRow_spec hst hwin _ _ tok cap _ hv
    rw [badSamples_single hrows hy, hlive, hbad] at he
    have hvd := hvdisp.trans hdisp
    replace he : sampleEntry e env s = setDisp e { d with st := .done } v := he.trans (doneEntry_eq hvd)
    obtain ⟨x, hx⟩ := setDisp_eq e { d with st := .done } v
    have hdone : entryDone e (setDisp e { d with st := .done } v) := entryDone_setDisp (d := { d with st := .done }) hvd rfl
    have hsample := (sampleOf_setDisp e { d with st := .done } (sRowBase d.words) v).trans hy
    have hfacts : SameMem v (setDisp e { d with st := .done } v) ∧ (∀ o, rd o (setDisp e { d with st := .done } v) = rd o v) ∧
        (setDisp e { d with st := .done } v).skeins = v.skeins := by
      rw [hx]
      exact ⟨fun _ => ⟨rfl, rfl⟩, fun _ => rfl, rfl⟩
    generalize setDisp e { d with st := .done } v = t at *
    obtain ⟨hmem, hregs, hskeins⟩ := hfacts
    refine gives_run_to rfl he ⟨entryDone_after (f := fun _ => t) hdone, ?_, ⟨y, ?_, htok, hlive, hbad, hfault⟩, ?_, ?_, ?_, ?_⟩
    · exact landed_after (f := fun _ => t) (landed_of_sameMem (fun _ => ⟨rfl, rfl⟩) hland hmem)
    · exact (sampleOf_congr (ctx_after _ _ s)).trans hsample
    · exact counts_after (f := fun _ => t) (by unfold counts at h0 ⊢; rw [hregs, h0])
    · exact counts_after (f := fun _ => t) (by unfold counts at h7 ⊢; rw [hregs, h7])
    · exact sameRegs_after (f := fun _ => t) fun o ho => (hregs o).trans (honly.2 o ho)
    · exact after_skeins_of (f := fun _ => t) (hskeins.trans honly.skeins_eq)
  · obtain ⟨v, hv⟩ : ∃ v, v = sampleTimed env.busyNs (rowEnds e.ctx.toNat d.words b.skein (rowMask e.ctx.toNat (sk b.skein s) s)
      (rowGram e.ctx.toNat b.skein s) (liveSample d.words s) (rowResult e.ctx.toNat d.words b st la s)
      (bump64 (SMP_CNT 0) 1 (rowLivened e.ctx.toNat d.words s))) := ⟨_, rfl⟩
    have he := sampleEntry_row (env := env) hready hbusy hunlocked hrows hst hpart hdecode hrow hsampled hla hsound hv
    have hres' : rowResult e.ctx.toNat d.words b st la s = .nonfinite := hres
    rw [hres'] at hv
    obtain ⟨hvdisp, honly, hmem, hy, h6, herr⟩ := nonfiniteRow_spec hst _ _ _ hv
    rw [badSamples_single hrows hy] at he
    have hvd := hvdisp.trans hdisp
    obtain ⟨z, hz⟩ : ∃ z, z = setDisp e { d with st := .suspect, susp := some { staple := true } } v := ⟨_, rfl⟩
    have hzdisp : dispAt e z = some { d with st := .suspect, susp := some { staple := true } } := hz ▸ dispAt_setDisp hvd
    obtain ⟨x, hx⟩ := setDisp_eq e { d with st := .suspect, susp := some { staple := true } } v
    have hzfacts : SameMem v z ∧ (∀ o, rd o z = rd o v) ∧ z.skeins = v.skeins := by
      rw [hz, hx]
      exact ⟨fun _ => ⟨rfl, rfl⟩, fun _ => rfl, rfl⟩
    obtain ⟨hzmem, hzregs, hzskeins⟩ := hzfacts
    have hsusp : sampleSuspected e v = bump64 (INT_CNT 0) 1 z := by
      unfold sampleSuspected
      rw [modDisp_eq hvd, hz]
    have hcnt : SampledOnly [INT_CNT 0] z (bump64 (INT_CNT 0) 1 z) := sampledOnly_bump64 (by simp) 1 z
    have hctx : ctx e.ctx.toNat (bump64 (INT_CNT 0) 1 z) = ctx e.ctx.toNat z := rfl
    have hc : counts (INT_CNT 0) 1 s (bump64 (INT_CNT 0) 1 z) := counts_bump64_of ((hzregs _).trans (honly.2 _ (by decide)))
    have hmemz : SameMem z (bump64 (INT_CNT 0) 1 z) := fun _ => ⟨rfl, rfl⟩
    have hregs (o : Nat) (ho : o ≠ INT_CNT 0) : rd o (bump64 (INT_CNT 0) 1 z) = rd o v := (hcnt.2 o (by simpa using ho)).trans (hzregs o)
    rw [hsusp] at he
    have hskz := hcnt.skeins_eq
    generalize bump64 (INT_CNT 0) 1 z = t at *
    have hspares' : hasSpares t = true := by
      rw [hasSpares_congr (s := s) fun p hp => ?_]
      · exact hspares
      · refine (hregs _ (by unfold INT_STRIKES INT_CNT; omega)).trans (honly.2 _ ?_)
        unfold INT_STRIKES SMP_CNT SMP_ERR SMP_ERR_INFO
        simp only [List.mem_cons, List.not_mem_nil, or_false]
        omega
    have he' : sampleEntry e env s = t := he.trans ((if_neg (by simp [liveSample])).trans (if_pos hspares'))
    refine gives_run_to rfl he' ⟨?_, ?_, ?_, counts_after (f := fun _ => t) hc, ?_, ?_, ?_⟩
    · rw [dispAt_after, dispAt_congr hctx, hzdisp]
      rfl
    · rw [bit_after]
      have hkept : fld SMP_ERR_NONFINITE t = fld SMP_ERR_NONFINITE v := fld_congr_rd (hregs SMP_ERR (by decide))
      unfold bit at herr ⊢
      rw [hkept]
      exact herr
    · exact counts_after (f := fun _ => t) (by unfold counts at h6 ⊢; rw [hregs _ (by decide), h6])
    · exact sameMem_after (f := fun _ => t) (sameMem_trans hmem (sameMem_trans hzmem hmemz))
    · exact after_skeins_of (f := fun _ => t) (hskz.trans (hzskeins.trans honly.skeins_eq))
    · refine sameRegs_after (f := fun _ => t) fun o ho => ?_
      simp only [List.mem_cons, List.not_mem_nil, or_false, not_or] at ho
      obtain ⟨h0, h6', h7, he1, he2, hi⟩ := ho
      exact (hregs o hi).trans (honly.2 o (by simp only [List.mem_cons, List.not_mem_nil, or_false, not_or]; exact ⟨h0, h6', h7, he1, he2⟩))

/-- Settles O49, from one row of an entry, and from the two ends of a profile's check. -/
theorem sampling : Obligations.Sampling := ⟨sampleEntries_holds, profileCommits_holds⟩

end Sys2Proof.Machine
end

section
/-! PROOFS. What a spill and a restore move (R330, R344, R349, R356 to R359). -/

namespace Sys2Proof.Machine

open Sys2Proof.Safety

theorem ctx_modCtx_same (c : Nat) (f : Ctx → Ctx) (s : State) : ctx c (modCtx c f s) = f (ctx c s) := ctx_setCtx_same _ _ _

theorem ctx_modCtx_other {c k : Nat} (h : k ≠ c) (f : Ctx → Ctx) (s : State) : ctx k (modCtx c f s) = ctx k s := ctx_setCtx_other h _ _

/-! ### Contexts that wait for a lagoon -/

/-- What the spindles `ns` that context r leaves mean for one context. -/
def freedEntry (r : Nat) (ns : List Nat) (s : State) (k : Nat × Ctx) : Nat × Ctx :=
  let mine := (k.2.spillWait.filter fun p => p.2 == r && ns.contains p.1).map (·.1)
  let y := { k.2 with spillWait := k.2.spillWait.filter fun p => !(p.2 == r && ns.contains p.1) }
  if mine.isEmpty then k
  else if !(ctxLive k.1 s && y.granted) then (k.1, y)
  else (k.1, { y with restoreWait := y.restoreWait ++ mine.filter y.spilled.contains
                      resident := y.resident ++ mine.filter fun n => !y.spilled.contains n })

theorem lagoonsFreed_eq (r : Nat) (ns : List Nat) (s : State) :
    lagoonsFreed r ns s = { s with ctxs := s.ctxs.map (freedEntry r ns s) } := rfl

theorem freedEntry_key (r : Nat) (ns : List Nat) (s : State) (k : Nat × Ctx) : (freedEntry r ns s k).1 = k.1 := by
  unfold freedEntry
  dsimp only
  split
  · rfl
  · split <;> rfl

theorem lookup_map_entries {α : Type} {f : Nat × α → Nat × α} {d : α} (hkey : ∀ x, (f x).1 = x.1) (hd : ∀ k, f (k, d) = (k, d))
    (m : List (Nat × α)) (k : Nat) : lookup (m.map f) d k = (f (k, lookup m d k)).2 := by
  induction m with
  | nil => exact (congrArg Prod.snd (hd k)).symm
  | cons x m ih =>
    obtain ⟨j, v⟩ := x
    have hj : (f (j, v)).1 = j := hkey (j, v)
    by_cases h : j = k
    · subst h
      simp [lookup, List.map, hj]
    · simp only [lookup, List.map, hj, if_neg h]
      exact ih

theorem ctx_lagoonsFreed (r : Nat) (ns : List Nat) (s : State) (k : Nat) :
    ctx k (lagoonsFreed r ns s) = (freedEntry r ns s (k, ctx k s)).2 := by
  rw [lagoonsFreed_eq]
  exact lookup_map_entries (freedEntry_key r ns s) (fun _ => rfl) _ _

theorem freedEntry_nobody {r : Nat} {ns : List Nat} {s : State} {k : Nat × Ctx} (h : ∀ p ∈ k.2.spillWait, p.2 ≠ r) :
    freedEntry r ns s k = k := by
  have hnone : (k.2.spillWait.filter fun p => p.2 == r && ns.contains p.1) = [] := by
    rw [List.filter_eq_nil_iff]
    intro p hp
    simp [h p hp]
  unfold freedEntry
  rw [hnone]
  rfl

/-- Nobody waits for what has been freed. -/
theorem freedEntry_served {r n : Nat} {ns : List Nat} (s : State) (k : Nat × Ctx) (hn : ns.contains n = true) :
    (n, r) ∉ (freedEntry r ns s k).2.spillWait := by
  unfold freedEntry
  dsimp only
  split
  next hmine =>
    rw [List.isEmpty_iff, List.map_eq_nil_iff, List.filter_eq_nil_iff] at hmine
    exact fun hin => hmine (n, r) hin (by simpa using hn)
  next =>
    have hout : (n, r) ∉ k.2.spillWait.filter fun p => !(p.2 == r && ns.contains p.1) := fun hin => by
      have := (List.mem_filter.mp hin).2
      simp at this hn
      exact this hn
    split <;> exact hout

theorem freedEntry_spilled (r : Nat) (ns : List Nat) (s : State) (k : Nat × Ctx) : (freedEntry r ns s k).2.spilled = k.2.spilled := by
  unfold freedEntry
  dsimp only
  split
  · rfl
  · split <;> rfl

/-- A context that has its data on the freed spindles spilled has no further spindle resident. -/
theorem freedEntry_resident {r : Nat} {ns : List Nat} {s : State} {k : Nat × Ctx} (h : ∀ n ∈ ns, n ∈ k.2.spilled) :
    (freedEntry r ns s k).2.resident = k.2.resident := by
  unfold freedEntry
  dsimp only
  split
  · rfl
  · split
    · rfl
    · have hnone : (((k.2.spillWait.filter fun p => p.2 == r && ns.contains p.1).map (·.1)).filter
          fun n => !k.2.spilled.contains n) = [] := by
        rw [List.filter_eq_nil_iff]
        intro n hn
        obtain ⟨p, hp, rfl⟩ := List.mem_map.mp hn
        have := (List.mem_filter.mp hp).2
        simp only [Bool.and_eq_true, List.contains_iff_mem] at this
        simpa using h p.1 this.2
      simp only [hnone, List.append_nil]

/-! ### The lagoon and its slot -/

theorem moveBad_eq (fl : Bool) (lag slot : Nat) (s : State) :
    ∃ b q, moveBad fl lag slot s = { s with lagoonBad := b, staples := q } := by
  unfold moveBad
  cases fl with
  | true =>
    suffices hset : ∀ (l : List Nat) (u : State), (∃ b q, u = { s with lagoonBad := b, staples := q }) →
        ∃ b q, l.foldl (fun s w => setMeta (w * 8 - lag + slot) { poison := true } s) u = { s with lagoonBad := b, staples := q } by
      exact hset _ _ ⟨_, _, rfl⟩
    intro l
    induction l with
    | nil => exact fun u h => h
    | cons w l ih =>
      rintro u ⟨b, q, rfl⟩
      exact ih _ ⟨_, _, rfl⟩
  | false =>
    have hfail (a n : Nat) (u : State) : ∃ b, failLagoon a n u = { u with lagoonBad := b } := by
      unfold failLagoon
      split
      · exact ⟨_, rfl⟩
      · suffices hadd : ∀ (l : List Nat) (v : State), (∃ b, v = { u with lagoonBad := b }) →
            ∃ b, l.foldl (fun s i => { s with lagoonBad := addOnce s.lagoonBad (a / 8 + i) }) v = { u with lagoonBad := b } by
          exact hadd _ _ ⟨_, rfl⟩
        intro l
        induction l with
        | nil => exact fun v h => h
        | cons w l ih =>
          rintro v ⟨b, rfl⟩
          exact ih _ ⟨_, rfl⟩
    suffices hset : ∀ (l : List (Nat × Meta)) (u : State), (∃ b q, u = { s with lagoonBad := b, staples := q }) →
        ∃ b q, l.foldl (fun s m => failLagoon (m.1 * 4096 - slot + lag) 4096 s) u = { s with lagoonBad := b, staples := q } by
      exact hset _ _ ⟨_, _, rfl⟩
    intro l
    induction l with
    | nil => exact fun u h => h
    | cons w l ih =>
      rintro u ⟨b, q, rfl⟩
      obtain ⟨b', hb'⟩ := hfail (w.1 * 4096 - slot + lag) 4096 { s with lagoonBad := b, staples := q }
      exact ih _ ⟨b', q, hb'⟩

/-- A lagoon or a slot has been copied: memory, staples and lagoon words change, and nothing else. -/
theorem copied {src dst : Nat} {s u : State} (hs : Memory.wf s.mem = true) {fl : Bool} {lag slot : Nat}
    (hu : u = moveBad fl lag slot (copyRange src dst lagoonSize s)) :
    landed dst (rdBytes src lagoonSize s) s u ∧ ∃ m b q, u = { s with mem := m, lagoonBad := b, staples := q } := by
  obtain ⟨b, q, hmove⟩ := moveBad_eq fl lag slot (copyRange src dst lagoonSize s)
  have hmem (a : Nat) : rdByte a u = rdByte a (copyRange src dst lagoonSize s) := by rw [hu, hmove]; rfl
  refine ⟨fun a => ?_, ?_⟩
  · rw [hmem, rdByte_copyRange hs]
    have hlen : (rdBytes src lagoonSize s).length = lagoonSize := by simp [rdBytes]
    rw [hlen]
    split
    next hin => rw [rdBytes, List.getD_eq_getElem _ _ (by simp; omega)]; simp
    next => rfl
  · obtain ⟨m, hm⟩ := copyRange_eq src dst lagoonSize s
    rw [hu, hmove, hm]
    exact ⟨m, b, q, rfl⟩

end Sys2Proof.Machine
end

section
/-! PROOFS. The end of a spill (R344, R356 to R359). -/

namespace Sys2Proof.Machine

open Sys2Proof.Safety

theorem spn_after (n : Nat) (f : State → State) (s : State) : spn n (after f s) = spn n (f s) := by
  unfold spn
  rw [after_spns]

theorem spn_of {s t : State} (h : t.spns = s.spns) (n : Nat) : spn n t = spn n s := by unfold spn; rw [h]

theorem ctx_of {s t : State} (h : t.ctxs = s.ctxs) (c : Nat) : ctx c t = ctx c s := by unfold ctx; rw [h]

theorem landed_of_mem {a : Nat} {bs : List Byte} {s t u : State} (h : landed a bs s t) (hu : u.mem = t.mem) : landed a bs s u := fun b =>
  (show rdByte b u = rdByte b t by unfold rdByte; rw [hu]).trans (h b)

theorem spillTail_spec {r c : Nat} (h : c ≠ r) (s : State) :
    ((ctx r (spillTail r c s)).resident = (ctx r s).resident ∧ (ctx r (spillTail r c s)).spilled = (ctx r s).spilled ∧
      ∀ k, k ≠ r → ctx k (spillTail r c s) = ctx k s) ∧
    ((spillTail r c s).mem = s.mem ∧ (spillTail r c s).spns = s.spns) ∧
    SameRegs [CTX_ACC r 2] s (spillTail r c s) ∧ ((ctx r s).spillers = [] → counts (CTX_ACC r 2) 1 s (spillTail r c s)) := by
  obtain ⟨u, hu⟩ : ∃ u, u = if (ctx r s).spillers.contains c then s
    else modCtx r (fun x => { x with spillers := x.spillers ++ [c] }) (bump64 (CTX_ACC r 2) 1 s) := ⟨_, rfl⟩
  have hcounted : ((ctx r u).resident = (ctx r s).resident ∧ (ctx r u).spilled = (ctx r s).spilled ∧ ∀ k, k ≠ r → ctx k u = ctx k s) ∧
      (u.mem = s.mem ∧ u.spns = s.spns) ∧
      SameRegs [CTX_ACC r 2] s u ∧ ((ctx r s).spillers = [] → counts (CTX_ACC r 2) 1 s u) := by
    rw [hu]
    split
    next hin =>
      exact ⟨⟨rfl, rfl, fun _ _ => rfl⟩, ⟨rfl, rfl⟩, fun _ _ => rfl, fun he => by rw [he] at hin; cases hin⟩
    next =>
      refine ⟨⟨?_, ?_, fun k hk => ?_⟩, ⟨rfl, rfl⟩, fun o ho => ?_, fun _ => counts_bump64 _ _ s⟩
      · rw [ctx_modCtx_same]; rfl
      · rw [ctx_modCtx_same]; rfl
      · rw [ctx_modCtx_other hk]; rfl
      · exact rd_wr_other (by simpa using ho) _ s
  have htail : spillTail r c s = if (ctx r u).resident.isEmpty
      then modCtx r (fun x => { x with chanBlock := (chansOf r u).map fun n => (n, chan n u) }) u else u := by
    unfold spillTail
    rw [if_neg h, hu]
  rw [htail]
  split
  · obtain ⟨⟨hres, hsp, hctx⟩, hkept, hregs, hcount⟩ := hcounted
    refine ⟨⟨?_, ?_, fun k hk => ?_⟩, hkept, hregs, hcount⟩
    · rw [ctx_modCtx_same]; exact hres
    · rw [ctx_modCtx_same]; exact hsp
    · rw [ctx_modCtx_other hk]; exact hctx k hk
  · exact hcounted

/-- The state block of context r has left spindle n, after `bytes` bytes of its lagoon. -/
def blockMoved (r n bytes : Nat) (s : State) : State :=
  modCtx r (fun x => { x with resident := x.resident.erase n, spilled := x.spilled ++ [n] })
    (bump64 (CTX_ACC r 5) bytes (saveBlock r n s))

/-- The lagoon of context r has left spindle n. -/
def spillMoved (r n a : Nat) (s : State) : State :=
  blockMoved r n (2064 * 1024) (moveBad true (lagoonBase n) a (copyRange (lagoonBase n) a lagoonSize s))

theorem spillDone_eq {r c n a : Nat} {s : State} (hwait : (ctx c s).spillWait.contains (n, r) = true)
    (hres : (ctx r s).resident.contains n = true) (hslot : spillSlot r n s = some a) (hblocked : spillBlocked r n s = false)
    (hbehind : spillBehind r n s = false) (hretrain : retraining a s = false) :
    spillDone r c n s = lagoonsFreed r [n] (spillTail r c (spillMoved r n a s)) := by
  unfold spillDone spillMoved blockMoved
  rw [hwait, hres, hslot]
  dsimp only
  rw [hblocked, hbehind, hretrain]
  rfl

theorem threads_saveBlock (r n : Nat) (s : State) : ∀ x ∈ (spn n (saveBlock r n s)).threads, x.2.ctx ≠ r := by
  unfold saveBlock
  rw [spn_modSpn, if_pos rfl]
  intro x hx
  simpa using (List.mem_filter.mp hx).2

theorem blockMoved_spec (r n bytes : Nat) (s : State) :
    (blockMoved r n bytes s).mem = s.mem ∧
    ctx r (blockMoved r n bytes s) = { ctx r s with resident := (ctx r s).resident.erase n, spilled := (ctx r s).spilled ++ [n] } ∧
    counts (CTX_ACC r 5) bytes s (blockMoved r n bytes s) ∧ SameRegs [CTX_ACC r 5] s (blockMoved r n bytes s) ∧
    (∀ m, m ≠ n → spn m (blockMoved r n bytes s) = spn m s) ∧
    ∀ x ∈ (spn n (blockMoved r n bytes s)).threads, x.2.ctx ≠ r := by
  have hsaved (m : Nat) : spn m (blockMoved r n bytes s) = spn m (saveBlock r n s) := rfl
  refine ⟨rfl, ?_, ?_, fun o ho => ?_, fun m hm => ?_, by rw [hsaved]; exact threads_saveBlock r n s⟩
  · unfold blockMoved
    rw [ctx_modCtx_same]
    rfl
  · exact counts_bump64_of (u := saveBlock r n s) rfl
  · exact rd_wr_other (by simpa using ho) _ (saveBlock r n s)
  · rw [hsaved]
    exact (spn_modSpn n m _ s).trans (if_neg hm)

theorem spillMoved_spec {r n a : Nat} {s : State} (hs : Memory.wf s.mem = true) :
    landed a (rdBytes (lagoonBase n) lagoonSize s) s (spillMoved r n a s) ∧
    ctx r (spillMoved r n a s) = { ctx r s with resident := (ctx r s).resident.erase n, spilled := (ctx r s).spilled ++ [n] } ∧
    counts (CTX_ACC r 5) (2064 * 1024) s (spillMoved r n a s) ∧ SameRegs [CTX_ACC r 5] s (spillMoved r n a s) ∧
    (∀ m, m ≠ n → spn m (spillMoved r n a s) = spn m s) ∧
    ∀ x ∈ (spn n (spillMoved r n a s)).threads, x.2.ctx ≠ r := by
  unfold spillMoved
  obtain ⟨u, hu⟩ : ∃ u, u = moveBad true (lagoonBase n) a (copyRange (lagoonBase n) a lagoonSize s) := ⟨_, rfl⟩
  rw [← hu]
  obtain ⟨hland, m, b, q, he⟩ := copied hs hu
  have hctx : ctx r u = ctx r s := by rw [he]; rfl
  have hrd (o : Nat) : rd o u = rd o s := by rw [he]; rfl
  have hspn (m : Nat) : spn m u = spn m s := by rw [he]; rfl
  obtain ⟨hmem, hmoved, hcount, hregs, hspns, hthreads⟩ := blockMoved_spec r n (2064 * 1024) u
  refine ⟨landed_of_mem hland hmem, by rw [hmoved, hctx], ?_, fun o ho => (hregs o ho).trans (hrd o),
    fun m hm => (hspns m hm).trans (hspn m), hthreads⟩
  unfold counts
  rw [hcount, hrd]

theorem spill_gives {r c n a : Nat} {s : State} (hne : c ≠ r) (hs : Memory.wf s.mem = true)
    (hform : spillDone r c n s = lagoonsFreed r [n] (spillTail r c (spillMoved r n a s))) :
    let t := after (spillDone r c n) s
    landed a (rdBytes (lagoonBase n) lagoonSize s) s t ∧ (ctx r t).resident = (ctx r s).resident.erase n ∧
      (ctx r t).spilled = (ctx r s).spilled ++ [n] ∧ (n, r) ∉ (ctx c t).spillWait ∧
      ((ctx r s).spillers = [] → counts (CTX_ACC r 2) 1 s t) ∧
      counts (CTX_ACC r 5) (2064 * 1024) s t ∧ SameRegs [CTX_ACC r 2, CTX_ACC r 5] s t ∧ (∀ m, m ≠ n → spn m t = spn m s) ∧
      ∀ x ∈ (spn n t).threads, x.2.ctx = r → x.2.state = .idle := by
  obtain ⟨hland, hctx, hcount5, hregs5, hspns, hthreads⟩ := spillMoved_spec (r := r) (n := n) (a := a) hs
  obtain ⟨v, hv⟩ : ∃ v, v = spillMoved r n a s := ⟨_, rfl⟩
  rw [← hv] at hland hctx hcount5 hregs5 hspns hthreads hform
  obtain ⟨⟨hres, hsp, -⟩, ⟨hmem, hsame⟩, hregs2, hcount2⟩ := spillTail_spec hne v
  have hspilled : (ctx r (spillTail r c v)).spilled = (ctx r s).spilled ++ [n] := by rw [hsp, hctx]
  have h25 : CTX_ACC r 2 ≠ CTX_ACC r 5 := by unfold CTX_ACC; omega
  refine ⟨landed_after ?_, ?_, ?_, ?_, fun he => counts_after ?_, counts_after ?_, sameRegs_after ?_, fun m hm => ?_, ?_⟩
  · rw [hform]
    exact landed_of_mem hland hmem
  · rw [ctx_after, hform, ctx_lagoonsFreed, freedEntry_resident fun m hm => ?_]
    · show (ctx r (spillTail r c v)).resident = _
      rw [hres, hctx]
    · show m ∈ (ctx r (spillTail r c v)).spilled
      rw [hspilled]
      exact List.mem_append_right _ hm
  · rw [ctx_after, hform, ctx_lagoonsFreed, freedEntry_spilled]
    exact hspilled
  · rw [ctx_after, hform, ctx_lagoonsFreed]
    exact freedEntry_served _ _ (by simp)
  · have := hcount2 (by rw [hctx]; exact he)
    rw [hform]
    show rd (CTX_ACC r 2) (spillTail r c v) = _
    rw [this, hregs5 _ (by simpa using h25)]
  · rw [hform]
    show rd (CTX_ACC r 5) (spillTail r c v) = _
    rw [hregs2 _ (by simpa using h25.symm)]
    exact hcount5
  · rw [hform]
    intro o ho
    simp only [List.mem_cons, List.not_mem_nil, or_false, not_or] at ho
    exact (hregs2 o (by simpa using ho.1)).trans (hregs5 o (by simpa using ho.2))
  · rw [spn_after, hform]
    exact (spn_of hsame m).trans (hspns m hm)
  · rw [spn_after, hform]
    intro x hx he
    have hx' : x ∈ (spn n (spillTail r c v)).threads := hx
    rw [spn_of hsame] at hx'
    exact absurd he (hthreads x hx')

end Sys2Proof.Machine
end

section
/-! PROOFS. The end of a restore (R330, R344, R357). -/

namespace Sys2Proof.Machine

open Sys2Proof.Safety

/-- Threads go on, and a message of a ring is taken; saved blocks, contexts, channels and memory are as before. -/
structure Resumed (s t : State) : Prop where
  mem : t.mem = s.mem
  ctxs : t.ctxs = s.ctxs
  chans : t.chans = s.chans
  waiting : t.gld.waiting = s.gld.waiting
  saved : ∀ n, (spn n t).saved = (spn n s).saved
  rd_eq : ∀ o, (∀ k, o ≠ GLD_MSG_STATUS k) → rd o t = rd o s

theorem resumed_refl (s : State) : Resumed s s := ⟨rfl, rfl, rfl, rfl, fun _ => rfl, fun _ _ => rfl⟩

theorem Resumed.trans {s t u : State} (h : Resumed s t) (h' : Resumed t u) : Resumed s u :=
  ⟨h'.mem.trans h.mem, h'.ctxs.trans h.ctxs, h'.chans.trans h.chans, h'.waiting.trans h.waiting,
    fun n => (h'.saved n).trans (h.saved n), fun o ho => (h'.rd_eq o ho).trans (h.rd_eq o ho)⟩

theorem resumed_setThread (n t : Nat) (x : Thread) (s : State) : Resumed s (setThread n t x s) := by
  refine ⟨rfl, rfl, rfl, rfl, fun m => ?_, fun _ _ => rfl⟩
  unfold setThread
  rw [spn_modSpn]
  split
  next h => rw [h]
  next => rfl

theorem resumed_wake (n t : Nat) (s : State) : Resumed s (wake n t s) := by
  unfold wake
  dsimp only
  split
  · exact resumed_setThread _ _ _ s
  · exact resumed_refl s

theorem resumed_recheck (c n t : Nat) (s : State) : Resumed s (recheck c n t s) := by
  unfold recheck
  dsimp only
  split
  · exact resumed_refl s
  · split
    · split
      · exact resumed_wake n t s
      · exact resumed_refl s
    · split
      · exact resumed_wake n t s
      · exact resumed_refl s

theorem resumed_taken (c i : Nat) (s : State) :
    Resumed s (setFld (GLD_MSG_STATUS_CONSUMER c) i (modGld (fun g => { g with recvHeld := put g.recvHeld 0 c 1 }) s)) :=
  ⟨rfl, rfl, rfl, rfl, fun _ => rfl, fun _ ho => rd_wr_other (ho _) _ (modGld _ s)⟩

theorem resumed_takeSlot (n t : Nat) (s : State) : Resumed s (takeSlot n t s) :=
  (resumed_setThread n t _ s).trans (resumed_taken (thread n t s).ctx (fld (GLD_MSG_STATUS_CONSUMER (thread n t s).ctx) s + 1) _)

theorem resumed_wakeRecv (c : Nat) (s : State) : Resumed s (wakeRecv c s) := by
  unfold wakeRecv
  dsimp only
  split
  · exact resumed_refl s
  · split
    · exact resumed_takeSlot _ _ s
    · exact resumed_refl s

theorem resumed_recheckAll (c n : Nat) (l : List (Nat × Thread)) (s : State) :
    Resumed s (l.foldl (fun s t => recheck c n t.1 s) s) := by
  induction l generalizing s with
  | nil => exact resumed_refl s
  | cons t l ih => exact (resumed_recheck c n t.1 s).trans (ih _)

/-- The saved block of context c on spindle n is brought back, and stands there no more. -/
theorem loadBlock_spec (c n : Nat) (s : State) :
    (loadBlock c n s).mem = s.mem ∧ (loadBlock c n s).ctxs = s.ctxs ∧
    ((loadBlock c n s).chans = s.chans ∧ (loadBlock c n s).gld.waiting = s.gld.waiting) ∧
    (∀ o, (∀ k, o ≠ GLD_MSG_STATUS k) → rd o (loadBlock c n s) = rd o s) ∧
    ∀ b ∈ (spn n (loadBlock c n s)).saved, b.ctx ≠ c := by
  unfold loadBlock
  split
  next hnone =>
    refine ⟨rfl, rfl, ⟨rfl, rfl⟩, fun _ _ => rfl, fun b hb he => ?_⟩
    have := List.find?_eq_none.mp hnone b hb
    simp [he] at this
  next b hb =>
    dsimp only
    obtain ⟨u, hu⟩ : ∃ u, u = modSpn n (fun p => { p with
        threads := b.threads.foldl (fun m t => put m {} t.1 t.2) p.threads
        windows := p.windows ++ b.windows, locks := p.locks ++ b.locks, stage := p.stage ++ b.stage
        saved := p.saved.filter fun x => x.ctx != c }) s := ⟨_, rfl⟩
    rw [← hu]
    have hgo : Resumed u (wakeRecv c (b.threads.foldl (fun s t => recheck c n t.1 s) u)) :=
      (resumed_recheckAll c n b.threads u).trans (resumed_wakeRecv c _)
    refine ⟨by rw [hgo.mem, hu]; rfl, by rw [hgo.ctxs, hu]; rfl, ⟨by rw [hgo.chans, hu]; rfl, by rw [hgo.waiting, hu]; rfl⟩,
      fun o ho => by rw [hgo.rd_eq o ho, hu]; rfl, ?_⟩
    rw [hgo.saved, hu, spn_modSpn, if_pos rfl]
    intro x hx
    simpa using (List.mem_filter.mp hx).2

/-! ### Channels of a context that is back -/

theorem lookup_of_find?_none {α : Type} {m : List (Nat × α)} {d : α} {k : Nat} (h : find? m k = none) : lookup m d k = d := by
  induction m with
  | nil => rfl
  | cons x m ih =>
    obtain ⟨j, v⟩ := x
    unfold find? at h
    unfold lookup
    split at h
    · cases h
    next hj =>
      rw [if_neg hj]
      exact ih h

theorem idle_modChan {s : State} (hs : ∀ x ∈ s.chans, x.2.state = .idle) (n : Nat) {f : Channel → Channel}
    (hf : ∀ x, x.state = .idle → (f x).state = .idle) : ∀ x ∈ (modChan n f s).chans, x.2.state = .idle := by
  intro x hx
  rcases mem_of_mem_put hx with rfl | hx
  · refine hf _ ?_
    rcases hc : find? s.chans n with _ | y
    · unfold chan
      rw [lookup_of_find?_none hc]
    · unfold chan
      rw [lookup_of_find? hc]
      exact hs (n, y) (mem_of_find? hc)
  · exact hs x hx

/-- A channel goes on from the runs that were saved, if it has not been aborted. -/
def chanBack (y x : Channel) : Channel :=
  if x.state == .aborted then x else { x with active := y.active, shadow := y.shadow, next := y.next, redo := y.redo }

theorem chanBack_idle (y x : Channel) (h : x.state = .idle) : (chanBack y x).state = .idle := by
  unfold chanBack
  split <;> exact h

theorem idle_chansBack {s : State} (hs : ∀ x ∈ s.chans, x.2.state = .idle) (l : List (Nat × Channel)) :
    (∀ x ∈ (l.foldl (fun s b => modChan b.1 (chanBack b.2) s) s).chans, x.2.state = .idle) ∧
    ∃ y, l.foldl (fun s b => modChan b.1 (chanBack b.2) s) s = { s with chans := y } := by
  induction l generalizing s with
  | nil => exact ⟨hs, _, rfl⟩
  | cons b l ih =>
    obtain ⟨hidle, y, hy⟩ := ih (idle_modChan hs b.1 (chanBack_idle b.2))
    exact ⟨hidle, y, hy⟩

theorem restoreChans_spec {c : Nat} {s : State} (hs : channelsIdle s) :
    channelsIdle (restoreChans c s) ∧ (restoreChans c s).mem = s.mem ∧ (restoreChans c s).regs = s.regs ∧
    (restoreChans c s).spns = s.spns ∧ (ctx c (restoreChans c s)).resident = (ctx c s).resident ∧
    (ctx c (restoreChans c s)).spilled = (ctx c s).spilled ∧ (ctx c (restoreChans c s)).restoreWait = (ctx c s).restoreWait := by
  obtain ⟨u, hu⟩ : ∃ u, u = (ctx c s).chanBlock.foldl (fun s b => modChan b.1 (chanBack b.2) s) s := ⟨_, rfl⟩
  obtain ⟨hidle, y, hy⟩ := idle_chansBack hs.1 (ctx c s).chanBlock
  rw [← hu] at hidle hy
  have hform : restoreChans c s = if !(ctx c s).spilled.isEmpty then s
      else modCtx c (fun x => { x with chanBlock := [], spillers := [] }) u := by rw [hu]; rfl
  rw [hform]
  split
  · exact ⟨hs, rfl, rfl, rfl, rfl, rfl, rfl⟩
  · refine ⟨⟨hidle, ?_⟩, by rw [modCtx_mem, hy], by rw [modCtx_regs, hy], by rw [modCtx_spns, hy], ?_⟩
    · rw [modCtx_gld, hy]
      exact hs.2
    · rw [ctx_modCtx_same, hy]
      exact ⟨rfl, rfl, rfl⟩

end Sys2Proof.Machine
end

section
/-! PROOFS. RESTORE as a command. -/

namespace Sys2Proof.Machine

open Sys2Proof.Safety

/-- Context c is resident on spindle n again, after `bytes` bytes. -/
def backOn (c n bytes : Nat) (s : State) : State :=
  bump64 (CTX_ACC c 6) bytes (modCtx c (fun x => { x with restoreWait := x.restoreWait.erase n, spilled := x.spilled.erase n
                                                          resident := x.resident ++ [n] }) s)

theorem backOn_spec (c n bytes : Nat) (s : State) :
    (backOn c n bytes s).mem = s.mem ∧ (backOn c n bytes s).chans = s.chans ∧ (backOn c n bytes s).gld = s.gld ∧
    ctx c (backOn c n bytes s) = { ctx c s with
      restoreWait := (ctx c s).restoreWait.erase n, spilled := (ctx c s).spilled.erase n, resident := (ctx c s).resident ++ [n] } ∧
    counts (CTX_ACC c 6) bytes s (backOn c n bytes s) := by
  refine ⟨rfl, rfl, rfl, ?_, counts_bump64_of rfl⟩
  unfold backOn
  rw [ctx_of (bump64_ctxs _ _ _), ctx_modCtx_same]

theorem restoreDone_eq {c n a : Nat} {s : State} (hwait : (ctx c s).restoreWait.contains n = true)
    (hslot : spillSlot c n s = some a) (hretrain : retraining a s = false) :
    restoreDone c n s = settleFerry (restoreChans c (loadBlock c n (backOn c n (2064 * 1024)
      (moveBad false (lagoonBase n) a (copyRange a (lagoonBase n) lagoonSize s))))) := by
  unfold restoreDone
  rw [hwait, hslot]
  dsimp only
  rw [hretrain, if_neg (by decide), if_neg (by decide)]
  generalize 2064 * 1024 = bytes
  rfl

theorem status_ne_acc (c k : Nat) : CTX_ACC c 6 ≠ GLD_MSG_STATUS k := by
  unfold CTX_ACC GLD_MSG_STATUS
  omega

theorem restore_gives {c n a : Nat} {s : State} (hs : Memory.wf s.mem = true) (hidle : channelsIdle s)
    (hform : restoreDone c n s = settleFerry (restoreChans c (loadBlock c n (backOn c n (2064 * 1024)
      (moveBad false (lagoonBase n) a (copyRange a (lagoonBase n) lagoonSize s)))))) :
    let t := after (restoreDone c n) s
    landed (lagoonBase n) (rdBytes a lagoonSize s) s t ∧ (ctx c t).resident = (ctx c s).resident ++ [n] ∧
      (ctx c t).spilled = (ctx c s).spilled.erase n ∧ (ctx c t).restoreWait = (ctx c s).restoreWait.erase n ∧
      counts (CTX_ACC c 6) (2064 * 1024) s t ∧ ∀ b ∈ (spn n t).saved, b.ctx ≠ c := by
  obtain ⟨u, hu⟩ : ∃ u, u = moveBad false (lagoonBase n) a (copyRange a (lagoonBase n) lagoonSize s) := ⟨_, rfl⟩
  obtain ⟨hland, m, b, q, he⟩ := copied hs hu
  rw [← hu] at hform
  obtain ⟨hmem1, hchans1, hgld1, hctx1, hcount1⟩ := backOn_spec c n (2064 * 1024) u
  obtain ⟨v, hv⟩ : ∃ v, v = backOn c n (2064 * 1024) u := ⟨_, rfl⟩
  rw [← hv] at hform hmem1 hchans1 hgld1 hctx1 hcount1
  obtain ⟨hmem2, hctx2, ⟨hchans2, hwait2⟩, hrd2, hsaved2⟩ := loadBlock_spec c n v
  obtain ⟨w, hw⟩ : ∃ w, w = loadBlock c n v := ⟨_, rfl⟩
  rw [← hw] at hform hmem2 hctx2 hchans2 hwait2 hrd2 hsaved2
  have hidle2 : channelsIdle w := ⟨by rw [hchans2, hchans1, he]; exact hidle.1, by rw [hwait2, hgld1, he]; exact hidle.2⟩
  obtain ⟨hidle3, hmem3, hregs3, hspns3, hres3, hsp3, hwait3⟩ := restoreChans_spec (c := c) hidle2
  rw [settleFerry_of_quiet (quiet_of_channelsIdle hidle3)] at hform
  have hcs : ctx c u = ctx c s := by rw [he]; rfl
  have hcw : ctx c w = _ := (ctx_of hctx2 c).trans (hctx1.trans (by rw [hcs]))
  refine ⟨landed_after ?_, ?_, ?_, ?_, counts_after ?_, ?_⟩
  · rw [hform]
    exact landed_of_mem hland (hmem3.trans (hmem2.trans hmem1))
  · rw [ctx_after, hform, hres3, hcw]
  · rw [ctx_after, hform, hsp3, hcw]
  · rw [ctx_after, hform, hwait3, hcw]
  · rw [hform]
    have hrd : rd (CTX_ACC c 6) u = rd (CTX_ACC c 6) s := by rw [he]; rfl
    unfold counts at hcount1 ⊢
    rw [rd_congr hregs3 _, hrd2 _ (status_ne_acc c), hcount1, hrd]
  · rw [spn_after, hform, spn_of hspns3]
    exact hsaved2

end Sys2Proof.Machine
end

section
/-! PROOFS. What a fault of a context leaves of the contexts (R360), and how a skein leaves service (R215, R216). -/

namespace Sys2Proof.Machine

open Sys2Proof.Safety

/-- Contexts are as before. -/
def SameCtxs (s t : State) : Prop := t.ctxs = s.ctxs

theorem sameCtxs_foldl {α : Type} {f : State → α → State} (h : ∀ s x, SameCtxs s (f s x)) (l : List α) (s : State) :
    SameCtxs s (l.foldl f s) := by
  induction l generalizing s with
  | nil => rfl
  | cons x l ih => exact (ih _).trans (h s x)

theorem sameCtxs_freeWitnesses (st : Step) (s : State) : SameCtxs s (freeWitnesses st s) := by
  refine sameCtxs_foldl (fun u d => ?_) _ s
  split
  · split
    · unfold freeWitness
      split <;> rfl
    · rfl
  · rfl

theorem sameCtxs_unwalk (d : Disp) (s : State) : SameCtxs s (unwalk d s) := by
  refine sameCtxs_foldl (fun _ _ => ?_) _ s
  rfl

theorem sameCtxs_kvDiscard (h : Nat) (b : BatchSk) (e : Nat) (s : State) : SameCtxs s (kvDiscard h b e s) := by
  unfold kvDiscard
  extract_lets d u v
  have hu : SameCtxs s u := by
    unfold u
    split
    · split <;> rfl
    · rfl
  have hv : SameCtxs s v := by
    refine Eq.trans (sameCtxs_foldl (fun _ _ => ?_) _ u) hu
    rfl
  split
  · exact Eq.trans rfl hv
  · exact hv

theorem sameCtxs_clearSpindles (c : Nat) (s : State) : SameCtxs s (clearSpindles c s) :=
  sameCtxs_foldl (f := fun s e => modKv (fun v => { v with walkers := removeOnce v.walkers e }) s) (fun _ _ => rfl) (walksOf c s) s

theorem sameCtxs_discardBatch (e : Nat) (bs : List BatchSk) (s : State) :
    SameCtxs s (bs.foldl (fun s b => kvDiscard (sk b.skein s).dir b e s) s) :=
  sameCtxs_foldl (fun _ _ => sameCtxs_kvDiscard _ _ _ _) bs s

/-- Only the context whose step is dropped changes, and it has none. -/
theorem dropStep_ctx (c e : Nat) (s : State) :
    (ctx c (dropStep c e s)).step = none ∧ ∀ k, k ≠ c → ctx k (dropStep c e s) = ctx k s := by
  unfold dropStep
  extract_lets x u v
  have hu : SameCtxs s u := by
    unfold u
    split
    · rfl
    · next st _ =>
      exact (sameCtxs_discardBatch e st.batch _).trans
        ((sameCtxs_foldl (fun u y => sameCtxs_foldl (fun _ _ => sameCtxs_unwalk _ _) y.2 u) st.lists _).trans (sameCtxs_freeWitnesses st s))
  have hv : SameCtxs s v := (sameCtxs_discardBatch e x.next u).trans hu
  obtain ⟨w, hw⟩ : ∃ w, w = modCtx c (fun x => { x with step := none, next := [], priming := none })
    { v with reefHeld := v.reefHeld.filter fun h => h.ctx != c } := ⟨_, rfl⟩
  rw [← hw]
  refine ⟨?_, fun k hk => ?_⟩
  · rw [ctx_of (sameCtxs_clearSpindles c w), hw, ctx_modCtx_same]
  · rw [ctx_of (sameCtxs_clearSpindles c w), hw, ctx_modCtx_other hk]
    exact ctx_of hv k

theorem sameCtxs_wakeStalled (n : Nat) (s : State) : SameCtxs s (wakeStalled n s) := by
  induction n generalizing s with
  | zero => rfl
  | succ n ih =>
    unfold wakeStalled
    split
    · rfl
    · extract_lets u th
      refine (ih _).trans ?_
      split <;> rfl

theorem sameCtxs_cancelOps (c : Nat) (s : State) : SameCtxs s (cancelOps c s) := by
  unfold cancelOps
  exact sameCtxs_wakeStalled _ _

theorem sameCtxs_abortChans (c : Nat) (s : State) : SameCtxs s (abortChans c s) := by
  refine sameCtxs_foldl (fun _ _ => ?_) _ s
  rfl

/-! ### How one skein leaves service -/

/-- Only skein i changes: it stays of its context, stays lost if it was, and stays FREE if it was. -/
structure Leaving (i : Nat) (s t : State) : Prop where
  ctxs : t.ctxs = s.ctxs
  others : ∀ j, j ≠ i → sk j t = sk j s
  own : (sk i t).ctx = (sk i s).ctx
  lost : (sk i s).lost = true → (sk i t).lost = true
  free : (sk i s).state = .free → (sk i t).state = .free

theorem leaving_refl (i : Nat) (s : State) : Leaving i s s := ⟨rfl, fun _ _ => rfl, rfl, id, id⟩

theorem Leaving.trans {i : Nat} {s t u : State} (h : Leaving i s t) (h' : Leaving i t u) : Leaving i s u :=
  ⟨h'.ctxs.trans h.ctxs, fun j hj => (h'.others j hj).trans (h.others j hj), h'.own.trans h.own, h'.lost ∘ h.lost, h'.free ∘ h.free⟩

theorem leaving_of_skeins {i : Nat} {s t : State} (hc : t.ctxs = s.ctxs) (hs : t.skeins = s.skeins) : Leaving i s t := by
  have h (j : Nat) : sk j t = sk j s := by unfold sk; rw [hs]
  exact ⟨hc, fun j _ => h j, by rw [h], by rw [h]; exact id, by rw [h]; exact id⟩

theorem leaving_setSk {i : Nat} {x : Skein} {s : State} (ho : x.ctx = (sk i s).ctx) (hl : x.lost = (sk i s).lost)
    (hf : (sk i s).state = .free → x.state = .free) : Leaving i s (setSk i x s) := by
  have hsame : sk i (setSk i x s) = x := lookup_put_same _ _ _ _
  exact ⟨rfl, fun j hj => lookup_put_other _ _ _ _ hj, by rw [hsame, ho], by rw [hsame, hl]; exact id, by rw [hsame]; exact hf⟩

theorem Leaving.of_skeins {i : Nat} {s t u : State} (h : Leaving i s t) (hc : u.ctxs = t.ctxs) (hs : u.skeins = t.skeins) :
    Leaving i s u := h.trans (leaving_of_skeins hc hs)

theorem hostWrite_skeins (i fn a : Nat) (bs : List Byte) (s : State) : (hostWrite i fn a bs s).skeins = s.skeins := by
  unfold hostWrite
  split <;> rfl

theorem leaving_hostWrite (i fn a : Nat) (bs : List Byte) (s : State) : Leaving i s (hostWrite i fn a bs s) := by
  refine leaving_of_skeins ?_ (hostWrite_skeins i fn a bs s)
  unfold hostWrite
  split <;> rfl

theorem leaving_hostWrites (i fn : Nat) (l : List (Nat × List Byte)) (s : State) :
    Leaving i s (l.foldl (fun s u => hostWrite i fn u.1 u.2 s) s) := by
  induction l generalizing s with
  | nil => exact leaving_refl i s
  | cons u l ih =>
    exact (leaving_hostWrite i fn u.1 u.2 s).trans (ih _)

theorem leaving_faultSkein (i cause : Nat) (s : State) : Leaving i s (faultSkein i cause s) := by
  unfold faultSkein
  dsimp only
  split
  next hlive =>
    refine Leaving.of_skeins (leaving_setSk (s := s) ?_ ?_ fun hf => ?_) (bump64_ctxs _ _ _) (bump64_skeins _ _ _)
    · rfl
    · rfl
    unfold skLive at hlive
    rw [hf] at hlive
    cases hlive
  next => exact leaving_refl i s

theorem leaving_ringLost (i : Nat) (s : State) : Leaving i s (ringLost i s) := by
  unfold ringLost ringFault
  refine Leaving.trans ?_ (leaving_faultSkein i fcContext _)
  split <;> exact leaving_of_skeins rfl rfl

theorem leaving_putRecord (i : Nat) (ws : List W32) (s : State) : Leaving i s (putRecord i ws s) := by
  unfold putRecord
  dsimp only
  split
  · exact leaving_ringLost i s
  · have hsk (a : Nat) (bs : List Byte) : sk i (hostWrite i (sk i s).fn a bs s) = sk i s := sk_congr (hostWrite_skeins _ _ _ _ s) i
    exact (leaving_hostWrite i _ _ _ s).trans (leaving_setSk (by rw [hsk]) (by rw [hsk]) (by rw [hsk]; exact id))

theorem leaving_writeCompletion (i : Nat) (s : State) : Leaving i s (writeCompletion i s) := by
  unfold writeCompletion
  dsimp only
  split
  · exact leaving_refl i s
  · split
    · exact leaving_refl i s
    · exact (leaving_putRecord i _ s).trans (leaving_setSk rfl rfl id)

theorem leaving_setPhases (i : Nat) (s : State) : Leaving i s (setPhases i s) := by
  unfold setPhases
  dsimp only
  split
  · exact leaving_refl i s
  · split
    · refine Leaving.trans (leaving_setSk ?_ ?_ ?_) (leaving_ringLost i _)
      · rfl
      · rfl
      · exact id
    · obtain ⟨u, hu⟩ : ∃ u, u = (sk i s).unset.foldl (fun t u => hostWrite i (sk i s).fn u.1 u.2 t) s := ⟨_, rfl⟩
      have hwrites : Leaving i s u := by rw [hu]; exact leaving_hostWrites i _ _ s
      have hsk : sk i u = sk i s := by
        have hkeep (l : List (Nat × List Byte)) (v : State) :
            (l.foldl (fun t u => hostWrite i (sk i s).fn u.1 u.2 t) v).skeins = v.skeins := by
          induction l generalizing v with
          | nil => rfl
          | cons x l ih =>
            exact (ih _).trans (hostWrite_skeins _ _ _ _ v)
        rw [hu]
        exact sk_congr (hkeep _ s) i
      rw [← hu]
      exact (hwrites.trans (leaving_setSk (x := { sk i s with unset := [] }) (by rw [hsk]) (by rw [hsk]) (by rw [hsk]; exact id))).trans
        (leaving_of_skeins rfl rfl)

theorem leaving_leaveFaulted (i : Nat) (s : State) : Leaving i s (leaveFaulted i s) := by
  unfold leaveFaulted
  dsimp only
  split
  · refine Leaving.trans (leaving_setSk ?_ ?_ ?_) (leaving_writeCompletion i _)
    · rfl
    · rfl
    · exact id
  · exact leaving_refl i s

theorem leaving_leaveInFault (i : Nat) (s : State) : Leaving i s (leaveInFault i s) := by
  unfold leaveInFault
  dsimp only
  split
  · have hshards (u : State) : Leaving i u (releaseShards i u) := by
      unfold releaseShards
      dsimp only
      split
      · exact leaving_refl i u
      · exact leaving_of_skeins rfl rfl
    exact (leaving_leaveFaulted i s).trans ((hshards _).trans (leaving_setPhases i _))
  · exact leaving_refl i s

/-! ### The contexts after a fault -/

/-- The last part of a fault, from when the skeins of the context have faulted. -/
def faultEnd (c cause sp : Nat) (s : State) : State :=
  faultShown c cause sp (modCtx c (fun x => { x with resident := [], spilled := [], restoreWait := [], spillers := [], chanBlock := []
                                                     ran := false, granted := false, hold := false, replaying := false })
    (lagoonsFreed c (ctx c s).resident s))

theorem faultShown_ctxs (c cause sp : Nat) (s : State) : (faultShown c cause sp s).ctxs = s.ctxs := by
  unfold faultShown ctxErr raiseErr
  split
  · rw [setErr_ctxs]
    refine (setFlds_ctxs _ _).trans ?_
    unfold setState
    rw [setFld_ctxs, setFlds_ctxs]
  · unfold setState
    rw [setErr_ctxs, setFld_ctxs, setFlds_ctxs]

theorem freedEntry_step (r : Nat) (ns : List Nat) (v : State) (e : Nat × Ctx) : (freedEntry r ns v e).2.step = e.2.step := by
  unfold freedEntry
  dsimp only
  split
  · rfl
  · split <;> rfl

theorem ctx_faultEnd (c cause sp : Nat) (s : State) :
    (ctx c (faultEnd c cause sp s)).step = (ctx c s).step ∧ (ctx c (faultEnd c cause sp s)).resident = [] ∧
    ∀ k, k ≠ c → (∀ p ∈ (ctx k s).spillWait, p.2 ≠ c) → ctx k (faultEnd c cause sp s) = ctx k s := by
  unfold faultEnd
  refine ⟨?_, ?_, fun k hk hwait => ?_⟩
  · rw [ctx_of (faultShown_ctxs _ _ _ _), ctx_modCtx_same, ctx_lagoonsFreed]
    exact freedEntry_step _ _ _ _
  · rw [ctx_of (faultShown_ctxs _ _ _ _), ctx_modCtx_same]
  · rw [ctx_of (faultShown_ctxs _ _ _ _), ctx_modCtx_other hk, ctx_lagoonsFreed, freedEntry_nobody hwait]

/-- Each skein of a context faults and leaves service. -/
def skeinsFaulted (cause : Nat) (l : List Nat) (s : State) : State :=
  l.foldl (fun s i => leaveInFault i (if (sk i s).state == .done then s else faultSkein i (skeinCause cause) s)) s

theorem sameCtxs_skeinsFaulted (cause : Nat) (l : List Nat) (s : State) : SameCtxs s (skeinsFaulted cause l s) := by
  refine sameCtxs_foldl (fun u i => ?_) l s
  refine (leaving_leaveInFault i _).ctxs.trans ?_
  split
  · rfl
  · exact (leaving_faultSkein i _ u).ctxs

theorem faultCtx_end {c : Nat} {s : State} (hlive : ctxLive c s = true) (cause : Nat) (spindle : Option Nat) :
    ∃ l, faultCtx c cause spindle s = faultEnd c cause (spindle.getD 0x1FF)
      (skeinsFaulted cause l (abortChans c (cancelOps c (dropStep c (kvEpoch s + 1) s)))) := by
  unfold faultCtx
  rw [if_pos hlive]
  exact ⟨_, rfl⟩

/-- Contexts that do not wait for a lagoon of the one that faults are as before; that one has no step and no spindle. -/
theorem ctx_faultCtx {c : Nat} {s : State} (hlive : ctxLive c s = true) (cause : Nat) (spindle : Option Nat) :
    (ctx c (faultCtx c cause spindle s)).step = none ∧ (ctx c (faultCtx c cause spindle s)).resident = [] ∧
    ∀ k, k ≠ c → (∀ p ∈ (ctx k s).spillWait, p.2 ≠ c) → ctx k (faultCtx c cause spindle s) = ctx k s := by
  obtain ⟨l, hl⟩ := faultCtx_end hlive cause spindle
  obtain ⟨hstep, hother⟩ := dropStep_ctx c (kvEpoch s + 1) s
  obtain ⟨u, hu⟩ : ∃ u, u = skeinsFaulted cause l (abortChans c (cancelOps c (dropStep c (kvEpoch s + 1) s))) := ⟨_, rfl⟩
  have hkeep (k : Nat) : ctx k u = ctx k (dropStep c (kvEpoch s + 1) s) := by
    rw [hu]
    exact ctx_of ((sameCtxs_skeinsFaulted cause l _).trans ((sameCtxs_abortChans c _).trans (sameCtxs_cancelOps c _))) k
  rw [← hu] at hl
  rw [hl]
  obtain ⟨hstep', hres, hothers⟩ := ctx_faultEnd c cause (spindle.getD 0x1FF) u
  refine ⟨by rw [hstep', hkeep, hstep], hres, fun k hk hwait => ?_⟩
  have hk' : ctx k u = ctx k s := (hkeep k).trans (hother k hk)
  rw [hothers k hk (by rw [hk']; exact hwait), hk']

end Sys2Proof.Machine
end

section
/-! PROOFS. Writes of CTX_CMD (R362). -/

namespace Sys2Proof.Machine

open Sys2Proof.Safety

theorem regWrite_ctx {o : Nat} (h : 0x800000 ≤ o) (h' : o < 0x1000000) (ok : Bool) (v : W64) (s : State) :
    regWrite ok o v s = ctxWrite o v s := by
  unfold regWrite
  rw [if_neg (by omega), if_neg (by omega), if_neg (by omega), if_neg (by unfold SEC_CMD; omega), if_neg (by omega), if_neg (by omega),
    if_neg (by unfold BT_CTRL; omega), if_neg (by unfold BT_BEAT_LEN; omega), if_neg (by unfold WV_LOAD_CTRL; omega),
    if_neg (by unfold GAU_CTRL; omega), if_neg (by omega), if_neg (by omega), if_neg (by omega), if_neg (by omega), if_neg (by omega),
    if_neg (by omega), if_neg (by omega), if_neg (by omega), if_neg (by omega), if_neg (by omega), if_neg (by omega), if_pos (by omega)]

theorem regWrite_CTX_CMD {c : Nat} (hc : c < 64) (ok : Bool) (v : W64) (s : State) :
    regWrite ok (CTX_CMD c) v s = if wbit v 0 then teardown c s else s := by
  rw [regWrite_ctx (by unfold CTX_CMD; omega) (by unfold CTX_CMD; omega)]
  have hin : (decide (0x801000 ≤ CTX_CMD c) && decide (CTX_CMD c < 0x803000)) = true := by
    simp only [Bool.and_eq_true, decide_eq_true_eq]
    unfold CTX_CMD
    omega
  unfold ctxWrite
  rw [if_neg (by unfold CTX_CMD CTX_CTRL; omega), if_pos hin]
  unfold CTX_CMD
  dsimp only
  rw [if_pos (by omega), show (0x801008 + 0x80 * c - 0x801000) / 0x80 = c by omega]

/-- A write of CTX_CMD as a command. -/
theorem gives_teardown {c : BitVec 6} {v : W32} {s : State} {P : State → Prop} (ha : Answers (CTX_CMD c.toNat) s)
    (hp : ∀ f : State → State,
      f s = (if v.getLsbD 0 then teardown c.toNat (accessed (CTX_CMD c.toNat) s) else accessed (CTX_CMD c.toNat) s) → P (after f s)) :
    Gives (.teardown c v) s P := by
  refine gives_write32 ha (regHold_CTX_CMD ⟨c.toNat, c.isLt⟩) rfl (hp _ ?_)
  have hb : wbit (v.setWidth 64) 0 = v.getLsbD 0 := wbit_setWidth v 0
  rw [← hb]
  exact regWrite_CTX_CMD c.isLt true (v.setWidth 64) (accessed (CTX_CMD c.toNat) s)

theorem teardown_refused {c : Nat} {s : State} (h : ctxState c s = cxFree ∨ ctxState c s = cxLoading ∨ ctxState c s = cxTeardown) :
    teardown c s = ctxErr CTX_ERR_STATE c s := by
  unfold teardown
  dsimp only
  rw [if_pos (by rcases h with h | h | h <;> simp [h])]

theorem teardown_starts {c : Nat} {s : State} (h : ctxLive c s = true ∨ ctxState c s = cxFaulted) :
    teardown c s = setFld (CTX_CMD_TEARDOWN c) 1 (setState c cxTeardown (faultCtx c cfTeardown none s)) := by
  have hst : 2 ≤ ctxState c s ∧ ctxState c s ≤ 6 ∨ ctxState c s = cxFaulted := by
    rcases h with h | h
    · simp only [ctxLive, Bool.and_eq_true, decide_eq_true_eq] at h
      omega
    · exact .inr h
  have hno : ¬ (decide (ctxState c s = cxFree) || decide (ctxState c s = cxLoading) || decide (ctxState c s = cxTeardown)) = true := by
    simp only [Bool.or_eq_true, decide_eq_true_eq]
    unfold cxFaulted at hst
    unfold cxFree cxLoading cxTeardown
    omega
  unfold teardown
  dsimp only
  rw [if_neg hno]

theorem after_caps (f : State → State) (s : State) : (after f s).caps = (f s).caps := by
  obtain ⟨m, l, h⟩ := irqSettle_cases s (f s)
  unfold after tidy; rw [h]

theorem ctxErr_rest {f : FRef} (hf : f.off = CTX_ERR) (c : Nat) (s : State) :
    RegsOnly [CTX_ERR, CTX_ERR_INFO] { s with caps := (ctxErr f c s).caps } (ctxErr f c s) := by
  refine ⟨?_, ?_, ?_, fun o ho => ?_⟩
  · unfold ctxErr raiseErr
    split <;> rfl
  · unfold ctxErr raiseErr
    split <;> exact fun a => ⟨rfl, rfl⟩
  · unfold ctxErr raiseErr
    split <;> exact fun k => rfl
  · simp only [List.mem_cons, List.not_mem_nil, or_false, not_or] at ho
    exact rd_raiseErr (by rw [hf]; exact ho.1) (by
      simp only [List.forall_mem_singleton]
      exact fun he => ho.2 he.symm) s

theorem state_torn (c : Nat) (s : State) :
    ctxState c (setFld (CTX_CMD_TEARDOWN c) 1 (setState c cxTeardown s)) = cxTeardown ∧
    bit (CTX_CMD_TEARDOWN c) (setFld (CTX_CMD_TEARDOWN c) 1 (setState c cxTeardown s)) = true := by
  refine ⟨?_, bit_setErr (show 0 < 64 by decide) (Nat.le_refl 0) _⟩
  refine Eq.trans (fld_setFld_other _ _ _ _ ?_) (fld_setState (by decide) s)
  simp only [CTX_CMD_TEARDOWN, CTX_STATE_STATE, CTX_CMD, CTX_STATE]
  omega

theorem teardown_faults {c : Nat} {s t : State} (hlive : ctxLive c s = true)
    (ht : t = setFld (CTX_CMD_TEARDOWN c) 1 (setState c cxTeardown (faultCtx c cfTeardown none s))) :
    ctxState c t = cxTeardown ∧ bit (CTX_CMD_TEARDOWN c) t = true ∧ fld (CTX_FAULT_CAUSE c) t = cfTeardown ∧ (ctx c t).step = none ∧
      (ctx c t).resident = [] ∧ ∀ k ≠ c, (∀ p ∈ (ctx k s).spillWait, p.2 ≠ c) → ctx k t = ctx k s := by
  obtain ⟨-, hcause⟩ := faultCtx_faulted hlive (cause := cfTeardown) (by decide) none
  obtain ⟨hstep, hres, hothers⟩ := ctx_faultCtx hlive cfTeardown none
  obtain ⟨u, hu⟩ : ∃ u, u = faultCtx c cfTeardown none s := ⟨_, rfl⟩
  rw [← hu] at ht hcause hstep hres hothers
  obtain ⟨hstate, hbit⟩ := state_torn c u
  rw [← ht] at hstate hbit
  have hctx (k : Nat) : ctx k t = ctx k u := by
    rw [ht]
    exact ctx_of rfl k
  refine ⟨hstate, hbit, ?_, by rw [hctx, hstep], by rw [hctx, hres], fun k hk hw => by rw [hctx, hothers k hk hw]⟩
  rw [ht, ← hcause]
  refine (fld_setFld_other _ _ _ _ ?_).trans (fld_setFld_other _ _ _ _ ?_)
  · simp only [CTX_CMD_TEARDOWN, CTX_FAULT_CAUSE, CTX_CMD, CTX_FAULT]; omega
  · simp only [CTX_STATE_STATE, CTX_FAULT_CAUSE, CTX_STATE, CTX_FAULT]; omega

theorem faultCtx_dead {c : Nat} {s : State} (h : ctxLive c s = false) (cause : Nat) (spindle : Option Nat) :
    faultCtx c cause spindle s = s := by
  unfold faultCtx
  rw [if_neg (by rw [h]; decide)]

theorem torn_regs (c : Nat) : RegEffect [CTX_STATE c, CTX_CMD c] fun s => setFld (CTX_CMD_TEARDOWN c) 1 (setState c cxTeardown s) :=
  ((regEffect_setFld (CTX_STATE_STATE c) cxTeardown).mono (by simp [CTX_STATE_STATE])).comp
    ((regEffect_setFld (CTX_CMD_TEARDOWN c) 1).mono (by simp [CTX_CMD_TEARDOWN]))

section
variable {c : BitVec 6} {v : W32} {s : State} (ha : Answers (CTX_CMD c.toNat) s)
include ha

theorem teardown_idle (hv : v.getLsbD 0 = false) : Gives (.teardown c v) s fun t => RegsOnly [] s t := by
  refine gives_teardown ha fun f hf => regsOnly_after ?_
  rw [hf, hv]
  exact (regEffect_accessed _ _).regsOnly s

theorem teardown_refuses (hv : v.getLsbD 0 = true)
    (h : ctxState c.toNat s = cxFree ∨ ctxState c.toNat s = cxLoading ∨ ctxState c.toNat s = cxTeardown) :
    Gives (.teardown c v) s fun t => bit CTX_ERR_STATE t = true ∧ RegsOnly [CTX_ERR, CTX_ERR_INFO] { s with caps := t.caps } t := by
  refine gives_teardown ha fun f hf => ?_
  rw [hv, if_pos rfl, teardown_refused (s := accessed (CTX_CMD c.toNat) s) h] at hf
  refine ⟨?_, ?_⟩
  · rw [bit_after, hf]
    exact bit_raiseErr (f := CTX_ERR_STATE) (by decide) (by decide) _ _ _
  · refine regsOnly_after_of (by rfl) ?_
    rw [after_caps, hf]
    exact regsOnly_trans ((regEffect_accessed _ _).regsOnly { s with caps := _ }) (ctxErr_rest rfl c.toNat (accessed (CTX_CMD c.toNat) s))

theorem teardown_live (hv : v.getLsbD 0 = true) (h : ctxLive c.toNat s = true) : Gives (.teardown c v) s fun t =>
    ctxState c.toNat t = cxTeardown ∧ bit (CTX_CMD_TEARDOWN c.toNat) t = true ∧ fld (CTX_FAULT_CAUSE c.toNat) t = cfTeardown ∧
      (ctx c.toNat t).step = none ∧ (ctx c.toNat t).resident = [] ∧
      ∀ k ≠ c.toNat, (∀ p ∈ (ctx k s).spillWait, p.2 ≠ c.toNat) → ctx k t = ctx k s := by
  refine gives_teardown ha fun f hf => ?_
  rw [hv, if_pos rfl, teardown_starts (s := accessed (CTX_CMD c.toNat) s) (.inl h)] at hf
  obtain ⟨hstate, hbit, hcause, hstep, hres, hothers⟩ := teardown_faults (s := accessed (CTX_CMD c.toNat) s) h hf
  refine ⟨(fld_after _ _ _).trans hstate, (bit_after _ _ _).trans hbit, (fld_after _ _ _).trans hcause, ?_, ?_, fun k hk hw => ?_⟩
  · rw [ctx_after, hstep]
  · rw [ctx_after, hres]
  · rw [ctx_after]
    exact hothers k hk hw

theorem teardown_faulted (hv : v.getLsbD 0 = true) (h : ctxState c.toNat s = cxFaulted) : Gives (.teardown c v) s fun t =>
    ctxState c.toNat t = cxTeardown ∧ bit (CTX_CMD_TEARDOWN c.toNat) t = true ∧ RegsOnly [CTX_STATE c.toNat, CTX_CMD c.toNat] s t := by
  refine gives_teardown ha fun f hf => ?_
  have hdead : ctxLive c.toNat (accessed (CTX_CMD c.toNat) s) = false := by
    show ctxLive c.toNat s = false
    unfold ctxLive
    rw [h]
    rfl
  rw [hv, if_pos rfl, teardown_starts (s := accessed (CTX_CMD c.toNat) s) (.inr h), faultCtx_dead hdead] at hf
  obtain ⟨hstate, hbit⟩ := state_torn c.toNat (accessed (CTX_CMD c.toNat) s)
  refine ⟨?_, ?_, regsOnly_after ?_⟩
  · exact (fld_after _ _ _).trans (by rw [hf]; exact hstate)
  · exact (bit_after _ _ _).trans (by rw [hf]; exact hbit)
  · rw [hf]
    exact regsOnly_trans (((regEffect_accessed _ _).regsOnly s)) ((torn_regs _).regsOnly _)

end

end Sys2Proof.Machine
end

section
/-! PROOFS. The steps of a teardown (R362), one by one. -/

namespace Sys2Proof.Machine

open Sys2Proof.Safety
set_option Elab.async false

/-! ### The skeins of the context -/

/-- Skeins only age: each stays of its context, stays lost if it was, and stays FREE if it was; contexts are as before. -/
structure Aging (s t : State) : Prop where
  ctxs : t.ctxs = s.ctxs
  own : ∀ j, (sk j t).ctx = (sk j s).ctx
  lost : ∀ j, (sk j s).lost = true → (sk j t).lost = true
  free : ∀ j, (sk j s).state = .free → (sk j t).state = .free

theorem aging_refl (s : State) : Aging s s := ⟨rfl, fun _ => rfl, fun _ => id, fun _ => id⟩

theorem Aging.trans {s t u : State} (h : Aging s t) (h' : Aging t u) : Aging s u :=
  ⟨h'.ctxs.trans h.ctxs, fun j => (h'.own j).trans (h.own j), fun j hj => h'.lost j (h.lost j hj), fun j hj => h'.free j (h.free j hj)⟩

theorem aging_foldl {α : Type} {f : State → α → State} (h : ∀ s x, Aging s (f s x)) (l : List α) (s : State) : Aging s (l.foldl f s) := by
  induction l generalizing s with
  | nil => exact aging_refl s
  | cons x l ih => exact (h s x).trans (ih _)

theorem aging_of_skeins {s t : State} (hc : t.ctxs = s.ctxs) (hs : t.skeins = s.skeins) : Aging s t := by
  have h (j : Nat) : sk j t = sk j s := sk_congr hs j
  exact ⟨hc, fun j => by rw [h], fun j => by rw [h]; exact id, fun j => by rw [h]; exact id⟩

theorem Leaving.aging {i : Nat} {s t : State} (h : Leaving i s t) : Aging s t := by
  refine ⟨h.ctxs, fun j => ?_, fun j => ?_, fun j => ?_⟩ <;> by_cases hj : j = i
  · subst hj; exact h.own
  · rw [h.others j hj]
  · subst hj; exact h.lost
  · rw [h.others j hj]; exact id
  · subst hj; exact h.free
  · rw [h.others j hj]; exact id

/-- A completion record that cannot be written is dropped. -/
def recordDropped (i : Nat) (s : State) : State :=
  if (sk i s).due.isSome then modSk i (fun k => { k with due := none, lost := true }) (setErr SKN_ERR_COMPLETION_LOST s) else s

theorem aging_recordDropped (i : Nat) (s : State) : Aging s (recordDropped i s) := by
  unfold recordDropped
  split
  · obtain ⟨u, hu⟩ : ∃ u, u = setErr SKN_ERR_COMPLETION_LOST s := ⟨_, rfl⟩
    have hself : Aging s u := by
      rw [hu]
      exact aging_of_skeins (setErr_ctxs _ _) (setErr_skeins _ _)
    rw [← hu]
    refine hself.trans ⟨rfl, fun j => ?_, fun j => ?_, fun j => ?_⟩ <;> unfold modSk <;> by_cases hj : j = i
    · subst hj; rw [sk_setSk_same]
    · rw [sk_setSk_other hj]
    · subst hj; rw [sk_setSk_same]; exact fun _ => rfl
    · rw [sk_setSk_other hj]; exact id
    · subst hj; rw [sk_setSk_same]; exact id
    · rw [sk_setSk_other hj]; exact id
  · exact aging_refl s

/-- Each skein of the context leaves service with its completion record written or dropped. -/
def skeinsLeft (l : List Nat) (s : State) : State :=
  l.foldl (fun s i => setPhases i (recordDropped i (writeCompletion i (leaveInFault i s)))) s

theorem aging_skeinsLeft (l : List Nat) (s : State) : Aging s (skeinsLeft l s) :=
  aging_foldl (fun u i => ((leaving_leaveInFault i u).aging.trans (leaving_writeCompletion i _).aging).trans
    ((aging_recordDropped i _).trans (leaving_setPhases i _).aging)) l s

/-- Nothing but the KV pools and counters of KV changes. -/
theorem dropDir_keeps (h e : Nat) (s : State) : (dropDir h e s).ctxs = s.ctxs ∧ (dropDir h e s).skeins = s.skeins := by
  obtain ⟨⟨⟨r, v, he⟩, -⟩, -⟩ := dropsIn_dropDir h e s
  rw [he]
  exact ⟨rfl, rfl⟩

/-- The skeins whose record is not lost are FREE. -/
def skeinsFreed (l : List Nat) (s : State) : State := l.foldl (fun s i => if (sk i s).lost then s else freeSkein i s) s

theorem skeinsFreed_spec (l : List Nat) (s : State) :
    (skeinsFreed l s).ctxs = s.ctxs ∧
    ∀ j, (sk j (skeinsFreed l s) = sk j s ∨ (sk j (skeinsFreed l s)).state = .free) ∧
      (j ∈ l → (sk j (skeinsFreed l s)).state = .free ∨ (sk j (skeinsFreed l s)).lost = true) := by
  induction l generalizing s with
  | nil => exact ⟨rfl, fun j => ⟨.inl rfl, fun hj => absurd hj List.not_mem_nil⟩⟩
  | cons i l ih =>
    obtain ⟨u, hu⟩ : ∃ u, u = if (sk i s).lost then s else freeSkein i s := ⟨_, rfl⟩
    have hstep : skeinsFreed (i :: l) s = skeinsFreed l u := by rw [hu]; rfl
    have huc : u.ctxs = s.ctxs := by
      rw [hu]
      split <;> rfl
    have hui : (sk i u).state = .free ∨ (sk i u).lost = true := by
      rw [hu]
      split
      next h => exact .inr h
      next => exact .inl (by unfold freeSkein; rw [sk_setSk_same])
    have huj (j : Nat) : sk j u = sk j s ∨ (sk j u).state = .free := by
      rw [hu]
      split
      · exact .inl rfl
      · by_cases hj : j = i
        · subst hj
          exact .inr (by unfold freeSkein; rw [sk_setSk_same])
        · exact .inl (sk_setSk_other hj _ s)
    rw [hstep]
    obtain ⟨hc, hall⟩ := ih u
    refine ⟨hc.trans huc, fun j => ?_⟩
    obtain ⟨hj, hin⟩ := hall j
    refine ⟨?_, fun hmem => ?_⟩
    · rcases hj with hj | hj
      · rw [hj]; exact huj j
      · exact .inr hj
    · rcases List.mem_cons.mp hmem with rfl | hmem
      · rcases hj with hj | hj
        · rw [hj]; exact hui
        · exact .inl hj
      · exact hin hmem

theorem mem_skeinsOf {c i : Nat} {s : State} (hc : (sk i s).ctx = c) (hs : (sk i s).state ≠ .free) : i ∈ skeinsOf c s := by
  rcases hf : find? s.skeins i with _ | k
  · exact absurd (by unfold sk; rw [lookup_of_find?_none hf]) hs
  · have hk : sk i s = k := lookup_of_find? hf
    rw [hk] at hc hs
    exact List.mem_map.mpr ⟨(i, k), List.mem_filter.mpr ⟨mem_of_find? hf, by simpa using ⟨hc, hs⟩⟩, rfl⟩

/-- When the completion records, the KV and the skeins are done with, every skein of the context is FREE or lost. -/
theorem skeins_torn {c : Nat} {s u : State} {l : List Nat} (hl : l = (skeinsOf c s).filter fun i => !(sk i s).lost) (h : Aging s u) :
    ∀ i, (sk i (skeinsFreed l u)).ctx = c → (sk i (skeinsFreed l u)).state = .free ∨ (sk i (skeinsFreed l u)).lost = true := by
  intro i hi
  obtain ⟨hj, hin⟩ := (skeinsFreed_spec l u).2 i
  by_cases hmem : i ∈ l
  · exact hin hmem
  rcases hj with hj | hj
  · rw [hj] at hi ⊢
    by_cases hfree : (sk i s).state = .free
    · exact .inl (h.free i hfree)
    · refine .inr (h.lost i ?_)
      have hof : i ∈ skeinsOf c s := mem_skeinsOf ((h.own i).symm.trans hi) hfree
      by_contra hlost
      exact hmem (by rw [hl]; exact List.mem_filter.mpr ⟨hof, by simpa using hlost⟩)
  · exact .inl hj

/-! ### Channels and windows -/

theorem del_mem {α : Type} {m : List (Nat × α)} {k : Nat} {x : Nat × α} (h : x ∈ del m k) : x ∈ m ∧ x.1 ≠ k := by
  induction m with
  | nil => cases h
  | cons y m ih =>
    obtain ⟨j, v⟩ := y
    unfold del at h
    split at h
    · obtain ⟨hm, hk⟩ := ih h
      exact ⟨List.mem_cons_of_mem _ hm, hk⟩
    next hj =>
      rcases List.mem_cons.mp h with rfl | h
      · exact ⟨List.mem_cons_self, hj⟩
      · obtain ⟨hm, hk⟩ := ih h
        exact ⟨List.mem_cons_of_mem _ hm, hk⟩

/-- Channels that are cleared. -/
def chansGone (l : List Nat) (s : State) : State := l.foldl (fun s n => setChan n {} s) s

theorem chansGone_spec (l : List Nat) (s : State) :
    (∃ y, chansGone l s = { s with chans := y }) ∧ ∀ x ∈ (chansGone l s).chans, x ∈ s.chans ∧ x.1 ∉ l := by
  induction l generalizing s with
  | nil => exact ⟨⟨_, rfl⟩, fun x hx => ⟨hx, List.not_mem_nil⟩⟩
  | cons n l ih =>
    obtain ⟨⟨y, hy⟩, hall⟩ := ih (setChan n {} s)
    refine ⟨⟨y, hy⟩, fun x hx => ?_⟩
    obtain ⟨hmem, hout⟩ := hall x hx
    have hput : (setChan n {} s).chans = del s.chans n := by
      unfold setChan put
      rw [if_pos rfl]
    rw [hput] at hmem
    obtain ⟨hin, hne⟩ := del_mem hmem
    exact ⟨hin, by simpa using ⟨hne, hout⟩⟩

theorem chansOf_chansGone (c : Nat) (s : State) : chansOf c (chansGone (chansOf c s) s) = [] := by
  unfold chansOf
  rw [List.map_eq_nil_iff, List.filter_eq_nil_iff]
  intro x hx hown
  obtain ⟨hin, hout⟩ := (chansGone_spec _ s).2 x hx
  exact hout (List.mem_map.mpr ⟨x, List.mem_filter.mpr ⟨hin, hown⟩, rfl⟩)

theorem chansOf_congr {s t : State} (h : t.chans = s.chans) (c : Nat) : chansOf c t = chansOf c s := by unfold chansOf; rw [h]

/-- Windows that are withdrawn. -/
def windowsGone (l : List Nat) (s : State) : State := l.foldl (fun s w => withdrawWindow w s) s

theorem withdrawWindow_spec (w k : Nat) (s : State) :
    fld (GLD_WIN_CFG_CONTEXT k) (withdrawWindow w s) = fld (GLD_WIN_CFG_CONTEXT k) s ∧
    bit (GLD_WIN_CFG_VALID k) (withdrawWindow w s) = (if k = w then false else bit (GLD_WIN_CFG_VALID k) s) := by
  unfold withdrawWindow
  obtain ⟨u, hu⟩ : ∃ u, u = { s with gld := { s.gld with draining := s.gld.draining.filter (· != w) } } := ⟨_, rfl⟩
  rw [← hu]
  have hrd (o : Nat) : rd o u = rd o s := by rw [hu]; rfl
  refine ⟨?_, ?_⟩
  · refine Eq.trans ?_ (fld_congr_rd (hrd _))
    refine fld_setFld_apart ?_ (show 30 < 64 by decide) 0 u
    by_cases h : k = w
    · exact .inr (by rw [h]; exact .inr (show 30 < 31 by decide))
    · exact .inl (by simp only [GLD_WIN_CFG_CONTEXT, GLD_WIN_CFG_VALID, GLD_WIN_CFG]; omega)
  · split
    next h =>
      subst h
      exact bit_setFld_zero (f := GLD_WIN_CFG_VALID k) (show 31 < 64 by decide) u
    next h =>
      unfold bit
      rw [fld_setFld_other _ _ _ _ (by simp only [GLD_WIN_CFG_VALID, GLD_WIN_CFG]; omega), fld_congr_rd (hrd _)]

theorem windowsGone_spec (l : List Nat) (s : State) (k : Nat) :
    fld (GLD_WIN_CFG_CONTEXT k) (windowsGone l s) = fld (GLD_WIN_CFG_CONTEXT k) s ∧
    (bit (GLD_WIN_CFG_VALID k) (windowsGone l s) = true → k ∉ l ∧ bit (GLD_WIN_CFG_VALID k) s = true) := by
  induction l generalizing s with
  | nil => exact ⟨rfl, fun h => ⟨List.not_mem_nil, h⟩⟩
  | cons w l ih =>
    obtain ⟨hfld, hbit⟩ := ih (withdrawWindow w s)
    obtain ⟨hfld1, hbit1⟩ := withdrawWindow_spec w k s
    refine ⟨hfld.trans hfld1, fun h => ?_⟩
    obtain ⟨hout, hval⟩ := hbit h
    rw [hbit1] at hval
    split at hval
    · cases hval
    next hne => exact ⟨by simpa using ⟨hne, hout⟩, hval⟩

theorem window_reset_by_block : ∀ a < 64, ∀ b < 64,
    fldOf (GLD_WIN_CFG_VALID (a * 64 + b)) (rstVal (GLD_WIN_CFG (a * 64 + b))) = 0 := by decide +kernel

/-- No window is registered at reset. -/
theorem window_reset {w : Nat} (hw : w < 4096) : fldOf (GLD_WIN_CFG_VALID w) (rstVal (GLD_WIN_CFG w)) = 0 := by
  have h := window_reset_by_block (w / 64) (by omega) (w % 64) (by omega)
  rwa [show w / 64 * 64 + w % 64 = w by omega] at h

theorem mem_windowsOf {c w : Nat} {s : State} (hw : w < 4096) (hv : bit (GLD_WIN_CFG_VALID w) s = true)
    (hc : fld (GLD_WIN_CFG_CONTEXT w) s = c) : w ∈ windowsOf c s := by
  have hbase : GLD_WIN_CFG w = GLD_WIN_CFG 0 + 0x20 * w := by unfold GLD_WIN_CFG; omega
  rcases hf : find? s.regs (GLD_WIN_CFG w) with _ | v
  · exfalso
    have hrd : rd (GLD_WIN_CFG w) s = rstVal (GLD_WIN_CFG w) := lookup_of_find?_none hf
    have hz : fld (GLD_WIN_CFG_VALID w) s = 0 := (congrArg (fldOf (GLD_WIN_CFG_VALID w)) hrd).trans (window_reset hw)
    unfold bit at hv
    rw [hz] at hv
    cases hv
  · unfold windowsOf windowsWhere
    refine List.mem_filter.mpr ⟨List.mem_map.mpr ⟨(GLD_WIN_CFG w, v), List.mem_filter.mpr ⟨mem_of_find? hf, ?_⟩, ?_⟩, ?_⟩
    · rw [hbase]
      simp only [Bool.and_eq_true, decide_eq_true_eq, beq_iff_eq]
      omega
    · rw [hbase]
      dsimp only
      omega
    · dsimp only
      rw [hv, hc]
      simp

/-- No window of the context is left. -/
theorem window_torn {c w : Nat} {s : State} (hw : w < 4096) (hv : bit (GLD_WIN_CFG_VALID w) (windowsGone (windowsOf c s) s) = true) :
    fld (GLD_WIN_CFG_CONTEXT w) (windowsGone (windowsOf c s) s) ≠ c := by
  obtain ⟨hfld, hbit⟩ := windowsGone_spec (windowsOf c s) s w
  obtain ⟨hout, hval⟩ := hbit hv
  rw [hfld]
  exact fun he => hout (mem_windowsOf hw hval he)

end Sys2Proof.Machine
end

section
/-! PROOFS. TEARDOWN_COMPLETE, and what spills and teardowns come to. -/

namespace Sys2Proof.Machine

open Sys2Proof.Safety
set_option Elab.async false

/-- Registers of a context that a teardown zeroes. -/
def tornRegs (c : Nat) : List Nat :=
  [WV_ID c, WV_STEP c, GAU_BUD_CFG c, GAU_BUD_GRANT c, GAU_BUD_USED c, GAU_PIN c, CTX_CMD c,
    CTX_STATE c] ++ (List.range 9).map (CTX_SET c) ++ (List.range 16).map (GAU_THR_SET c)

/-- What a teardown writes in registers, but for windows and CTX_FAULT. -/
def regsTorn (c : Nat) (bound : List (Nat × Nat)) (spills : List Nat) (s : State) : State :=
  zeroRegs (tornRegs c) (spills.foldl (fun s r => unbind r s) (bound.foldl (fun s b => unbind b.2 s) (setFld (GLD_MSG_RING_VALID c) 0 s)))

/-- Skeins and directories of the context, and its barriers, are done with. -/
def unitsTorn (c : Nat) (mine : List Nat) (e : Nat) (s : State) : State :=
  let u := skeinsLeft mine s
  let u := skeinsFreed mine ((dirsOf c u).foldl (fun s h => dropDir h e s) u)
  { u with bars := u.bars.filter fun b => b.2.ctx != c }

theorem finishTeardown_eq {c : Nat} {s u v : State}
    (hu : u = unitsTorn c ((skeinsOf c s).filter fun i => !(sk i s).lost) (kvEpoch s + 1) s) (hv : v = chansGone (chansOf c u) u) :
    ∃ g d, finishTeardown c s = setCtx c {} (wr (CTX_FAULT c) (rstVal (CTX_FAULT c))
      { regsTorn c (ctx c s).bound (ctx c s).spills (windowsGone (windowsOf c v) v) with gone := g, digestPass := d }) := by
  rw [hv, hu]
  exact ⟨_, _, rfl⟩

theorem unbinds_foldl {l : List Nat} {α : Type} (g : α → Nat) (xs : List α) (h : ∀ x ∈ xs, MEM_RGN_CFG (g x) ∈ l) (s : State) :
    (∃ r, xs.foldl (fun s x => unbind (g x) s) s = { s with regs := r }) ∧ SameRegs l s (xs.foldl (fun s x => unbind (g x) s) s) := by
  induction xs generalizing s with
  | nil => exact ⟨⟨_, rfl⟩, fun _ _ => rfl⟩
  | cons x xs ih =>
    obtain ⟨⟨r, hr⟩, hregs⟩ := ih (fun y hy => h y (List.mem_cons_of_mem _ hy)) (unbind (g x) s)
    refine ⟨⟨r, hr⟩, fun o ho => (hregs o ho).trans ?_⟩
    exact rd_setFld_other (MEM_RGN_CFG_BINDS (g x)) _ s fun he => ho (by rw [he]; exact h x List.mem_cons_self)

/-- Registers that a teardown writes and does not zero: the ring's, and those of the regions that the context leaves. -/
def leftRegs (c : Nat) (bound : List (Nat × Nat)) (spills : List Nat) : List Nat :=
  GLD_MSG_RING c :: bound.map (fun b => MEM_RGN_CFG b.2) ++ spills.map MEM_RGN_CFG

theorem regsTorn_spec (c : Nat) (bound : List (Nat × Nat)) (spills : List Nat) (s : State) :
    (∃ r, regsTorn c bound spills s = { s with regs := r }) ∧ (∀ o ∈ tornRegs c, rd o (regsTorn c bound spills s) = 0) ∧
    ∀ o, o ∉ tornRegs c → o ∉ leftRegs c bound spills → rd o (regsTorn c bound spills s) = rd o s := by
  obtain ⟨u, hu⟩ : ∃ u, u = setFld (GLD_MSG_RING_VALID c) 0 s := ⟨_, rfl⟩
  obtain ⟨⟨r, hr⟩, hregs⟩ := unbinds_foldl (l := leftRegs c bound spills) (fun b : Nat × Nat => b.2) bound
    (fun x hx => by
      simp only [leftRegs, List.cons_append, List.mem_cons, List.mem_append, List.mem_map]
      exact .inr (.inl ⟨x, hx, rfl⟩)) u
  obtain ⟨v, hv⟩ : ∃ v, v = bound.foldl (fun s b => unbind b.2 s) u := ⟨_, rfl⟩
  rw [← hv] at hr hregs
  obtain ⟨⟨q, hq⟩, hregs'⟩ := unbinds_foldl (l := leftRegs c bound spills) (fun r : Nat => r) spills
    (fun x hx => by
      simp only [leftRegs, List.cons_append, List.mem_cons, List.mem_append, List.mem_map]
      exact .inr (.inr ⟨x, hx, rfl⟩)) v
  obtain ⟨w, hw⟩ : ∃ w, w = spills.foldl (fun s r => unbind r s) v := ⟨_, rfl⟩
  rw [← hw] at hq hregs'
  have hform : regsTorn c bound spills s = zeroRegs (tornRegs c) w := by
    rw [hw, hv, hu]
    rfl
  rw [hform]
  refine ⟨?_, fun o ho => rd_zeroRegs_of_mem ho w, fun o ho hl => ?_⟩
  · have hzero (l : List Nat) (x : State) : ∃ r, zeroRegs l x = { x with regs := r } := by
      induction l generalizing x with
      | nil => exact ⟨_, rfl⟩
      | cons o l ih =>
        obtain ⟨r, hr⟩ := ih (wr o 0 x)
        exact ⟨r, hr⟩
    obtain ⟨z, hz⟩ := hzero (tornRegs c) w
    rw [hz, hq, hr, hu]
    exact ⟨z, rfl⟩
  · rw [rd_zeroRegs_of_not_mem ho, hregs' o hl, hregs o hl, hu]
    refine rd_setFld_other (GLD_MSG_RING_VALID c) _ s fun he => hl ?_
    rw [he]
    simp [leftRegs, GLD_MSG_RING_VALID]

theorem reportLeave_modPwr (f : Pwr → Pwr) (s : State) :
    ((reportLeave (modPwr f s)).ctxs = s.ctxs ∧ (reportLeave (modPwr f s)).chans = s.chans ∧
      (reportLeave (modPwr f s)).skeins = s.skeins ∧ (reportLeave (modPwr f s)).bars = s.bars) ∧
    SameRegs [PWR_LEAVE] s (reportLeave (modPwr f s)) := by
  refine ⟨?_, fun o ho => (regEffect_reportLeave (modPwr f s)).2 o ho⟩
  unfold reportLeave
  exact ⟨setFlds_ctxs _ _, setFlds_chans _ _, setFlds_skeins _ _, setFlds_bars _ _⟩

theorem clearHistory_spec (c : Nat) (s : State) :
    ((clearHistory c s).ctxs = s.ctxs ∧ (clearHistory c s).chans = s.chans ∧ (clearHistory c s).skeins = s.skeins ∧
      (clearHistory c s).bars = s.bars) ∧ SameRegs [PWR_LEAVE] s (clearHistory c s) := by
  have hrelease : ((releasePhases c s).ctxs = s.ctxs ∧ (releasePhases c s).chans = s.chans ∧ (releasePhases c s).skeins = s.skeins ∧
      (releasePhases c s).bars = s.bars) ∧ SameRegs [PWR_LEAVE] s (releasePhases c s) := by
    unfold releasePhases
    dsimp only
    split
    · exact ⟨⟨rfl, rfl, rfl, rfl⟩, fun _ _ => rfl⟩
    · exact reportLeave_modPwr _ s
  exact hrelease

/-- The units of the context are gone: its skeins FREE or lost, its barriers no more. -/
theorem unitsTorn_spec {c e : Nat} {s u : State} (hu : u = unitsTorn c ((skeinsOf c s).filter fun i => !(sk i s).lost) e s) :
    u.ctxs = s.ctxs ∧ (∀ i, (sk i u).ctx = c → (sk i u).state = .free ∨ (sk i u).lost = true) ∧ ∀ b ∈ u.bars, b.2.ctx ≠ c := by
  obtain ⟨l, hl⟩ : ∃ l, l = (skeinsOf c s).filter fun i => !(sk i s).lost := ⟨_, rfl⟩
  rw [← hl] at hu
  have hleft : Aging s (skeinsLeft l s) := aging_skeinsLeft l s
  obtain ⟨v, hv⟩ : ∃ v, v = (dirsOf c (skeinsLeft l s)).foldl (fun s h => dropDir h e s) (skeinsLeft l s) := ⟨_, rfl⟩
  have hdirs : Aging (skeinsLeft l s) v := by
    rw [hv]
    exact aging_foldl (fun x h => aging_of_skeins (dropDir_keeps h e x).1 (dropDir_keeps h e x).2) _ _
  have haging := hleft.trans hdirs
  have hform : u = { skeinsFreed l v with bars := (skeinsFreed l v).bars.filter fun b => b.2.ctx != c } := by rw [hu, hv]; rfl
  refine ⟨?_, fun i hi => ?_, fun b hb => ?_⟩
  · rw [hform]
    exact (skeinsFreed_spec l v).1.trans haging.ctxs
  · have hsk : sk i u = sk i (skeinsFreed l v) := by rw [hform]; rfl
    rw [hsk] at hi ⊢
    exact skeins_torn hl haging i hi
  · rw [hform] at hb
    simpa using (List.mem_filter.mp hb).2

theorem cause_reset : ∀ c < 64, fldOf (CTX_FAULT_CAUSE c) (rstVal (CTX_FAULT c)) = 0 := by decide +kernel

theorem state_mem_torn (c : Nat) : CTX_STATE c ∈ tornRegs c := by simp [tornRegs]
theorem cmd_mem_torn (c : Nat) : CTX_CMD c ∈ tornRegs c := by simp [tornRegs]
theorem id_mem_torn (c : Nat) : WV_ID c ∈ tornRegs c := by simp [tornRegs]
theorem step_mem_torn (c : Nat) : WV_STEP c ∈ tornRegs c := by simp [tornRegs]

/-- A window's register is none of those that a teardown writes otherwise. -/
theorem window_apart {c w : Nat} (hc : c < 64) (hw : w < 4096) {bound : List (Nat × Nat)} {spills : List Nat}
    (hb : ∀ b ∈ bound, b.2 < 256) (hs : ∀ r ∈ spills, r < 256) :
    GLD_WIN_CFG w ∉ tornRegs c ∧ GLD_WIN_CFG w ∉ leftRegs c bound spills := by
  refine ⟨fun hm => ?_, fun hm => ?_⟩
  · simp only [tornRegs, List.cons_append, List.nil_append, List.mem_cons, List.mem_append, List.mem_map, List.mem_range,
      GLD_WIN_CFG, WV_ID, WV_STEP, GAU_BUD_CFG, GAU_BUD_GRANT, GAU_BUD_USED, GAU_PIN, CTX_CMD, CTX_STATE] at hm
    rcases hm with h | h | h | h | h | h | h | h | ⟨j, hj, h⟩ | ⟨j, hj, h⟩
    all_goals first | omega | (unfold CTX_SET at h; omega) | (unfold GAU_THR_SET at h; omega)
  · simp only [leftRegs, List.cons_append, List.mem_cons, List.mem_append, List.mem_map] at hm
    rcases hm with h | ⟨b, hin, h⟩ | ⟨r, hin, h⟩
    · unfold GLD_WIN_CFG GLD_MSG_RING at h
      omega
    · have := hb b hin
      unfold GLD_WIN_CFG MEM_RGN_CFG at h
      omega
    · have := hs r hin
      unfold GLD_WIN_CFG MEM_RGN_CFG at h
      omega

end Sys2Proof.Machine
end

section
/-! PROOFS. Spills, restores and teardowns as commands (R344, R356 to R362). -/

namespace Sys2Proof.Machine

open Sys2Proof.Safety

theorem after_chans (f : State → State) (s : State) : (after f s).chans = (f s).chans := by
  obtain ⟨m, l, h⟩ := irqSettle_cases s (f s)
  unfold after tidy; rw [h]

theorem after_bars (f : State → State) (s : State) : (after f s).bars = (f s).bars := by
  obtain ⟨m, l, h⟩ := irqSettle_cases s (f s)
  unfold after tidy; rw [h]

theorem fldOf_zero (f : FRef) : fldOf f 0 = 0 := by
  simp [fldOf]

/-- From the windows on, a teardown writes registers, and empties the context's own state. -/
theorem torn_end {c : Nat} {v t : State} {bound : List (Nat × Nat)} {spills : List Nat} {g : List (Nat × List Nat × List (Nat × Nat))}
    {d : DigestPass}
    (ht : t = clearHistory c (setCtx c {} (wr (CTX_FAULT c) (rstVal (CTX_FAULT c))
      { regsTorn c bound spills (windowsGone (windowsOf c v) v) with gone := g, digestPass := d }))) :
    (ctx c t = {} ∧ (∀ k, k ≠ c → ctx k t = ctx k v) ∧ t.chans = v.chans ∧ t.skeins = v.skeins ∧ t.bars = v.bars) ∧
    rd (CTX_FAULT c) t = rstVal (CTX_FAULT c) ∧ (∀ o ∈ tornRegs c, o ≠ CTX_FAULT c → o ≠ PWR_LEAVE → rd o t = 0) ∧
    ∀ o, o ∉ tornRegs c → o ∉ leftRegs c bound spills → o ≠ CTX_FAULT c → o ≠ PWR_LEAVE →
      rd o t = rd o (windowsGone (windowsOf c v) v) := by
  obtain ⟨w, hw⟩ : ∃ w, w = windowsGone (windowsOf c v) v := ⟨_, rfl⟩
  rw [← hw] at ht ⊢
  have hkeep : w.ctxs = v.ctxs ∧ w.chans = v.chans ∧ w.skeins = v.skeins ∧ w.bars = v.bars := by
    have h (l : List Nat) (x : State) : (windowsGone l x).ctxs = x.ctxs ∧ (windowsGone l x).chans = x.chans ∧
        (windowsGone l x).skeins = x.skeins ∧ (windowsGone l x).bars = x.bars := by
      induction l generalizing x with
      | nil => exact ⟨rfl, rfl, rfl, rfl⟩
      | cons k l ih => exact ih (withdrawWindow k x)
    rw [hw]
    exact h _ v
  obtain ⟨hctxs, hchans, hskeins, hbars⟩ := hkeep
  obtain ⟨⟨r, hr⟩, hzero, hother⟩ := regsTorn_spec c bound spills w
  obtain ⟨q, hq⟩ : ∃ q, q = regsTorn c bound spills w := ⟨_, rfl⟩
  rw [← hq] at hr hzero hother ht
  obtain ⟨y, hy⟩ : ∃ y, y = setCtx c {} (wr (CTX_FAULT c) (rstVal (CTX_FAULT c)) { q with gone := g, digestPass := d }) := ⟨_, rfl⟩
  rw [← hy] at ht
  obtain ⟨⟨hc, hch, hsk, hba⟩, hrd⟩ := clearHistory_spec c y
  rw [← ht] at hc hch hsk hba hrd
  have hctx (k : Nat) : ctx k t = ctx k y := ctx_of hc k
  have hyrd (o : Nat) (ho : o ≠ CTX_FAULT c) : rd o y = rd o q := by
    rw [hy]
    exact rd_wr_other ho _ { q with gone := g, digestPass := d }
  refine ⟨⟨?_, fun k hk => ?_, ?_, ?_, ?_⟩, ?_, fun o ho hf hl => ?_, fun o ho hl hf hp => ?_⟩
  · rw [hctx, hy, ctx_setCtx_same]
  · rw [hctx, hy, ctx_setCtx_other hk]
    refine ctx_of ?_ k
    rw [wr_ctxs]
    show q.ctxs = v.ctxs
    rw [hr]
    exact hctxs
  · rw [hch, hy, ← hchans]
    show q.chans = w.chans
    rw [hr]
  · rw [hsk, hy, ← hskeins]
    show q.skeins = w.skeins
    rw [hr]
  · rw [hba, hy, ← hbars]
    show q.bars = w.bars
    rw [hr]
  · rw [hrd _ (by simp only [List.mem_singleton, CTX_FAULT, PWR_LEAVE]; omega), hy]
    exact rd_wr_same _ _ { q with gone := g, digestPass := d }
  · rw [hrd o (by simpa using hl), hyrd o hf, hzero o ho]
  · rw [hrd o (by simpa using hp), hyrd o hf, hother o ho hl]

theorem torn_ne_fault {c o : Nat} (h : o ∈ [CTX_STATE c, CTX_CMD c, WV_ID c, WV_STEP c]) (hc : c < 64) :
    o ≠ CTX_FAULT c ∧ o ≠ PWR_LEAVE := by
  simp only [List.mem_cons, List.not_mem_nil, or_false] at h
  rcases h with rfl | rfl | rfl | rfl <;> unfold CTX_FAULT PWR_LEAVE
  · unfold CTX_STATE; omega
  · unfold CTX_CMD; omega
  · unfold WV_ID; omega
  · unfold WV_STEP; omega

theorem teardownEnd_spec {c : Nat} {s t : State} (hc : c < 64) (hb : ∀ b ∈ (ctx c s).bound, b.2 < 256)
    (hs : ∀ r ∈ (ctx c s).spills, r < 256) (ht : t = teardownEnd c s) :
    (ctxState c t = cxFree ∧ ctx c t = {} ∧ (∀ k, k ≠ c → ctx k t = ctx k s) ∧ chansOf c t = []) ∧
    (∀ i, (sk i t).ctx = c → (sk i t).state = .free ∨ (sk i t).lost = true) ∧ (∀ b ∈ t.bars, b.2.ctx ≠ c) ∧
    (rd (WV_ID c) t = 0 ∧ rd (WV_STEP c) t = 0 ∧ rd (CTX_CMD c) t = 0 ∧ fld (CTX_FAULT_CAUSE c) t = 0) ∧
    ∀ w < 4096, bit (GLD_WIN_CFG_VALID w) t = true → fld (GLD_WIN_CFG_CONTEXT w) t ≠ c := by
  obtain ⟨u, hu⟩ : ∃ u, u = unitsTorn c ((skeinsOf c s).filter fun i => !(sk i s).lost) (kvEpoch s + 1) s := ⟨_, rfl⟩
  obtain ⟨v, hv⟩ : ∃ v, v = chansGone (chansOf c u) u := ⟨_, rfl⟩
  obtain ⟨g, d, hform⟩ := finishTeardown_eq hu hv
  unfold teardownEnd at ht
  rw [hform] at ht
  obtain ⟨hctxs, hskeins, hbars⟩ := unitsTorn_spec hu
  obtain ⟨⟨y, hy⟩, -⟩ := chansGone_spec (chansOf c u) u
  rw [← hv] at hy
  obtain ⟨⟨hown, hothers, hch, hsk, hba⟩, hfault, hzero, hkept⟩ := torn_end ht
  have hz {o : Nat} (h : o ∈ [CTX_STATE c, CTX_CMD c, WV_ID c, WV_STEP c]) (hm : o ∈ tornRegs c) : rd o t = 0 :=
    hzero o hm (torn_ne_fault h hc).1 (torn_ne_fault h hc).2
  refine ⟨⟨?_, hown, fun k hk => ?_, ?_⟩, fun i hi => ?_, fun b hbm => ?_,
    ⟨hz (by simp) (id_mem_torn c), hz (by simp) (step_mem_torn c), hz (by simp) (cmd_mem_torn c), ?_⟩, fun w hw hval => ?_⟩
  · exact (congrArg (fldOf (CTX_STATE_STATE c)) (hz (o := CTX_STATE c) (by simp) (state_mem_torn c))).trans (fldOf_zero _)
  · rw [hothers k hk]
    refine ctx_of ?_ k
    rw [hy]
    exact hctxs
  · rw [chansOf_congr hch, hv]
    exact chansOf_chansGone c u
  · have hi' : sk i t = sk i u := (sk_congr hsk i).trans (by rw [hy]; rfl)
    rw [hi'] at hi ⊢
    exact hskeins i hi
  · rw [hba, hy] at hbm
    exact hbars b hbm
  · exact (congrArg (fldOf (CTX_FAULT_CAUSE c)) hfault).trans (cause_reset c hc)
  · obtain ⟨hout, hleft⟩ := window_apart (c := c) hc hw hb hs
    have hrd : rd (GLD_WIN_CFG w) t = rd (GLD_WIN_CFG w) (windowsGone (windowsOf c v) v) :=
      hkept _ hout hleft (by unfold GLD_WIN_CFG CTX_FAULT; omega) (by unfold GLD_WIN_CFG PWR_LEAVE; omega)
    have hbit : bit (GLD_WIN_CFG_VALID w) t = bit (GLD_WIN_CFG_VALID w) (windowsGone (windowsOf c v) v) := by
      unfold bit
      rw [fld_congr_rd (f := GLD_WIN_CFG_VALID w) hrd]
    rw [fld_congr_rd (f := GLD_WIN_CFG_CONTEXT w) hrd]
    exact window_torn hw (hbit.symm.trans hval)

theorem teardownComplete_gives {c : BitVec 6} {s : State} (h : ctxState c.toNat s = cxTeardown)
    (hb : ∀ b ∈ (ctx c.toNat s).bound, b.2 < 256) (hs : ∀ r ∈ (ctx c.toNat s).spills, r < 256) :
    Gives (.teardownComplete c) s fun t =>
      ctxState c.toNat t = cxFree ∧ ctx c.toNat t = {} ∧ (∀ k, k ≠ c.toNat → ctx k t = ctx k s) ∧ chansOf c.toNat t = [] ∧
        (∀ i, (sk i t).ctx = c.toNat → (sk i t).state = .free ∨ (sk i t).lost = true) ∧
        (∀ b ∈ t.bars, b.2.ctx ≠ c.toNat) ∧ rd (WV_ID c.toNat) t = 0 ∧ rd (WV_STEP c.toNat) t = 0 ∧ rd (CTX_CMD c.toNat) t = 0 ∧
        fld (CTX_FAULT_CAUSE c.toNat) t = 0 ∧
        ∀ w < 4096, bit (GLD_WIN_CFG_VALID w) t = true → fld (GLD_WIN_CFG_CONTEXT w) t ≠ c.toNat := by
  have hf : teardownDone c.toNat s = teardownEnd c.toNat s := by
    unfold teardownDone
    rw [if_pos h]
  obtain ⟨⟨hstate, hown, hothers, hchans⟩, hskeins, hbars, ⟨hid, hstep, hcmd, hcause⟩, hwin⟩ := teardownEnd_spec c.isLt hb hs hf
  refine gives_run (f := teardownDone c.toNat) rfl ⟨(fld_after _ _ _).trans hstate, by rw [ctx_after]; exact hown,
    fun k hk => by rw [ctx_after]; exact hothers k hk, (chansOf_congr (after_chans _ s) _).trans hchans, fun i => ?_, ?_,
    (rd_after _ _ _).trans hid, (rd_after _ _ _).trans hstep, (rd_after _ _ _).trans hcmd, (fld_after _ _ _).trans hcause,
    fun w hw hval => ?_⟩
  · rw [sk_after]
    exact hskeins i
  · rw [after_bars]
    exact hbars
  · rw [fld_after]
    exact hwin w hw ((bit_after _ _ s).symm.trans hval)

theorem teardownComplete_idle {c : BitVec 6} {s : State} (h : ctxState c.toNat s ≠ cxTeardown) :
    Gives (.teardownComplete c) s fun t => RegsOnly [] s t := by
  refine gives_run (f := teardownDone c.toNat) rfl (regsOnly_after ?_)
  unfold teardownDone
  rw [if_neg h]
  exact ⟨rfl, fun _ => ⟨rfl, rfl⟩, fun _ => rfl, fun _ _ => rfl⟩

/-- Settles O57: what a spill and a restore move, and the steps of a teardown, one by one. -/
theorem spillsAndTeardown : Obligations.SpillsAndTeardown := by
  unfold Obligations.SpillsAndTeardown
  dsimp only
  refine ⟨fun r c n a s => ?_, fun c n a s => ?_, fun c v s ha => ?_, fun c s => ?_⟩
  · intro hne hcanon hwait hres hslot hblocked hbehind hretrain
    obtain ⟨-, hmem, -⟩ := hcanon
    exact gives_run (f := spillDone r.toNat c.toNat n) rfl (spill_gives (fun he => hne (BitVec.eq_of_toNat_eq he).symm) hmem
      (spillDone_eq hwait hres hslot hblocked hbehind hretrain))
  · intro hcanon hwait hslot hretrain hidle
    obtain ⟨-, hmem, -⟩ := hcanon
    exact gives_run (f := restoreDone c.toNat n) rfl (restore_gives hmem hidle (restoreDone_eq hwait hslot hretrain))
  · exact ⟨teardown_idle ha, teardown_refuses ha, teardown_live ha, teardown_faulted ha⟩
  · exact ⟨teardownComplete_idle, teardownComplete_gives⟩

end Sys2Proof.Machine
end

section
/-! PROOFS. A BWD entry whose gradient region has its size where an atoll counts corrected errors (R128, R177). -/

namespace Sys2Proof.Machine

open Sys2Proof.Safety
set_option Elab.async false

/-- The region number whose size register lies where MEM_CNT_CE(1) lies; regions end at 255. -/
def strayRegion : Nat := 648

/-- A BWD entry of one row for engine 0, on the sequence of skein 0. -/
def strayBwd : Disp :=
  { words := [BitVec.ofNat 32 (kReef * 2 ^ 28), BitVec.ofNat 32 (2 ^ 28 + 2 ^ 20), 0, BitVec.ofNat 32 (2 ^ 12)], st := .committing }

/-- Context 0 runs it; its gradient region is the stray one, a scratch region of 64 staples; its sequence,
one of context 1, has one token in atoll 0, at position 256, which the row does not see. -/
def strayGradients : State :=
  { setFlds [(CTX_STATE_STATE 0, cxRunning), (MEM_RGN_CFG_KIND strayRegion, kScratch), (MEM_RGN_SIZE_SIZE strayRegion, 64)] servicePackage with
    skeins := [(0, { ctx := 1, length := 257 })]
    kv := { dirs := [(0, { bobbins := [{ atoll := 0, frame := 0, page := 0, basePage := 1 }] })] }
    ctxs := [(0, { ran := true, bound := [(0, strayRegion)]
                   weave := { shapes := [{ len := 1, maxRows := 1, maxPtok := 1
                                           phases := [{ firstBeat := 0, beats := 1, config := 0, powerClass := 0, template := 0, reserve := 0
                                                        slotCyc := 0 }] }] }
                   step := some { lists := [(0, [strayBwd])] } }),
             (1, { weave := { kv := some { fmt := 0, headDim := 0, heads := 1, cls := 0, layers := 1, atolls := [0], window := 0, sink := 0 } } })] }

/-- While the unit runs, atoll 1 corrects as many errors as wrap the size to 0. -/
def manyCorrected : UnitEnv := { memCe := [(1, 2 ^ 40 - 2 ^ 18)] }

/-- Where the gradients go at first. -/
def strayScratch : Region := region strayRegion strayGradients

theorem strayScratch_open : gradRegion 0 strayBwd.words strayGradients = some strayScratch := by
  have hfound : find? (ctx 0 strayGradients).bound (rGradWreg strayBwd.words) = some strayRegion := by decide +kernel
  have hkind : ((region strayRegion strayGradients).kind == kScratch) = true := by decide +kernel
  unfold gradRegion
  rw [hfound]
  dsimp only
  rw [hkind]
  rfl

/-- The gradients of the one token fit. -/
theorem strayScratch_holds : ∀ head < rKvHeads strayBwd.words, ∀ h len, bwdSeq 0 strayBwd.words strayGradients = some (h, len) →
    ∀ j < len, rGradOff strayBwd.words + (head * rGradStride strayBwd.words * 256 + j) * 8 * rDim strayBwd.words + 8 * rDim strayBwd.words ≤
      strayScratch.size := by
  have hseq : bwdSeq 0 strayBwd.words strayGradients = some (0, 257) := by decide +kernel
  intro head hhead h len hlen j hj
  rw [hseq] at hlen
  cases hlen
  obtain rfl : head = 0 := Nat.lt_one_iff.mp hhead
  have hsize : strayScratch.size = 64 * 4096 := by decide +kernel
  have hoff : rGradOff strayBwd.words = 0 := by decide +kernel
  have hdim : rDim strayBwd.words = 64 := by decide +kernel
  rw [hsize, hoff, hdim]
  omega

/-- Refutes O48: the count of corrected errors changes the size of the region, so that the write of the gradients faults the context. -/
theorem not_reefEntries : ¬ Obligations.ReefEntries := by
  intro h
  obtain ⟨-, -, -, hbwd⟩ := h firstEntry 0 manyCorrected strayBwd strayGradients
  obtain ⟨-, hdone, -⟩ := result_of_gives (hbwd strayScratch (by decide +kernel) (by decide +kernel) (by decide +kernel) (fun _ => rfl)
    (by decide +kernel) (by decide +kernel) (by decide +kernel) strayScratch_open strayScratch_holds)
  exact absurd hdone (by decide +kernel)

end Sys2Proof.Machine
end

section
/-! PROOFS. A tile program that writes a region whose configuration stands where its spindle counts corrected errors (R66, R71, R132). -/

namespace Sys2Proof.Machine

open Sys2Proof.Safety
set_option Elab.async false

/-- The region number whose configuration register lies where SPN_CNT_LAGOON_CE(0) lies; regions end at 255. -/
def strayWritable : Nat := 491393

/-- A VECTOR entry without rows on spindle 0, whose program runs. -/
def strayVector : Disp := { words := [BitVec.ofNat 32 (kVector * 2 ^ 28)], st := .committing }

/-- Context 0 runs it on thread 0; it may write the first staple of atoll 0 by the stray region. -/
def strayProgram : State :=
  { setFlds [(CTX_STATE_STATE 0, cxRunning), (MEM_RGN_CFG_VALID strayWritable, 1), (MEM_RGN_CFG_KIND strayWritable, kScratch),
      (MEM_RGN_SIZE_SIZE strayWritable, 1)] servicePackage with
    spns := [(0, { threads := [(0, { state := .ready, entry := some firstEntry, ctx := 0 })] })]
    ctxs := [(0, { ran := true, bound := [(0, strayWritable)], step := some { lists := [(0, [strayVector])] } })] }

/-- While the program runs, its spindle corrects 2^28 errors of its lagoon. -/
def correctedLagoon : UnitEnv := { lagoonCe := 2 ^ 28 }

theorem strayProgram_sound : soundReads correctedLagoon strayProgram :=
  ⟨rfl, rfl, rfl, rfl, rfl, rfl, fun x hx => by cases hx⟩

theorem strayProgram_open : noWindows strayProgram := by
  intro n
  by_cases hn : n = 0
  · rw [hn]
    rfl
  · have hfree : spn n strayProgram = {} := by
      show (if 0 = n then _ else _) = _
      rw [if_neg (Ne.symm hn)]
      rfl
    rw [hfree]

theorem strayProgram_writes : programWrote 0 [] [(0, 1)] 0 [1] strayProgram :=
  .inr (.inl ⟨rfl, rfl, by decide +kernel⟩)

/-- Refutes O47: the count of corrected errors changes the kind of the region, so that the write of the program faults the context. -/
theorem not_vectorPrograms : ¬ Obligations.VectorPrograms := by
  intro h
  obtain ⟨-, -, hend, -⟩ := h firstEntry correctedLagoon strayVector strayProgram
  obtain ⟨hdone, -⟩ := result_of_gives (hend [] [(0, 1)] 0 [1] (by decide +kernel) rfl (by decide +kernel) (by decide +kernel)
    (by decide +kernel) (by decide +kernel) rfl strayProgram_sound strayProgram_open strayProgram_writes _ rfl (by decide +kernel) (by decide +kernel))
  exact absurd hdone (by unfold entryDone; decide +kernel)

end Sys2Proof.Machine
end

section
/-! PROOFS. Verdicts on quantised tiles (R42, R46 to R49, R51, R53, R107). -/

namespace Sys2Proof.Machine

open Sys2Proof.Safety

/-! ### Dispatch entries while others are replaced -/

theorem dispAt_setDisp_other {e e' : EntryRef} (h : e' ≠ e) (d : Disp) (s : State) : dispAt e' (setDisp e d s) = dispAt e' s := by
  by_cases hc : e'.ctx.toNat = e.ctx.toNat
  · have hctx : ctx e'.ctx.toNat (setDisp e d s) = (fun x : Ctx => match x.step with
        | none => x
        | some st =>
          let l := setAt (lookup st.lists [] e.phase.toNat) e.idx d
          { x with step := some { st with lists := put st.lists [] e.phase.toNat l } }) (ctx e'.ctx.toNat s) := by
      rw [hc]
      exact ctx_setCtx_same _ _ _
    unfold dispAt
    rw [hctx]
    cases hst : (ctx e'.ctx.toNat s).step with
    | none => simp only [hst]
    | some st =>
      by_cases hp : e'.phase.toNat = e.phase.toNat
      · have hi : e.idx ≠ e'.idx := fun hi => h (by
          cases e
          cases e'
          simp only [EntryRef.mk.injEq]
          exact ⟨BitVec.eq_of_toNat_eq hc, BitVec.eq_of_toNat_eq hp, hi.symm⟩)
        simp only [hst, hp, lookup_put_same]
        exact getElem?_setAt_other _ hi d
      · simp only [hst]
        rw [lookup_put_other _ _ _ _ hp]
  · exact dispAt_congr (ctx_modCtx_other hc _ _)

theorem dispAt_modStep {f : Step → Step} (hf : ∀ st, (f st).lists = st.lists) (c : Nat) (e : EntryRef) (s : State) :
    dispAt e (modStep c f s) = dispAt e s := by
  by_cases hc : e.ctx.toNat = c
  · subst hc
    unfold dispAt modStep
    rw [ctx_modCtx_same]
    cases (ctx e.ctx.toNat s).step with
    | none => rfl
    | some st => simp only [Option.map_some, hf]
  · exact dispAt_congr (ctx_modCtx_other hc _ _)

/-! ### What a verdict leaves of the other entries -/

/-- Registers of the fallback trace. -/
def traceRegs : List Nat := [GAU_TRACE_FRAC, GAU_TRACE_ID]

/-- Counts of the step and the trace change, no dispatch entry. -/
def Tallied (s t : State) : Prop :=
  (∃ r x, t = { s with regs := r, ctxs := x }) ∧ SameRegs traceRegs s t ∧ ∀ e, dispAt e t = dispAt e s

theorem tallied_refl (s : State) : Tallied s s := ⟨⟨_, _, rfl⟩, fun _ _ => rfl, fun _ => rfl⟩

theorem Tallied.trans {s t u : State} (h : Tallied s t) (h' : Tallied t u) : Tallied s u := by
  obtain ⟨⟨r, x, rfl⟩, hregs, hdisp⟩ := h
  obtain ⟨⟨r', x', rfl⟩, hregs', hdisp'⟩ := h'
  exact ⟨⟨r', x', rfl⟩, fun o ho => (hregs' o ho).trans (hregs o ho), fun e => (hdisp' e).trans (hdisp e)⟩

theorem tallied_modStep {f : Step → Step} (hf : ∀ st, (f st).lists = st.lists) (c : Nat) (s : State) : Tallied s (modStep c f s) :=
  ⟨⟨s.regs, _, rfl⟩, fun _ _ => rfl, fun e => dispAt_modStep hf c e s⟩

theorem tallied_addGau (c i n : Nat) (s : State) : Tallied s (addGau c i n s) := by
  refine tallied_modStep ?_ c s
  exact fun _ => rfl

theorem tallied_drawBudget (c ph n cost : Nat) (s : State) : Tallied s (drawBudget c ph n cost s) := by
  refine tallied_modStep ?_ c s
  exact fun _ => rfl

theorem tallied_wr {o : Nat} (h : o ∈ traceRegs) (v : W64) (s : State) : Tallied s (wr o v s) :=
  ⟨⟨_, s.ctxs, rfl⟩, fun p hp => rd_wr_other (fun he => hp (by rw [he]; exact h)) v s, fun e => dispAt_congr rfl⟩

theorem tallied_trace (c outcome slot : Nat) (g : Gauge) (s : State) : Tallied s (trace c outcome slot g s) := by
  have hid (f : FRef) (hf : f.off = GAU_TRACE_ID) (v : Nat) (u : State) : Tallied u (setFld f v u) :=
    tallied_wr (by rw [hf]; simp [traceRegs]) _ u
  exact (((hid GAU_TRACE_ID_CONTEXT rfl c s).trans (hid GAU_TRACE_ID_OUTCOME rfl outcome _)).trans
    (hid GAU_TRACE_ID_SLOT rfl slot _)).trans (tallied_wr (by simp [traceRegs]) _ _)

/-- A verdict on a quantised tile: a repeat, or the commit of its result; another entry stays as it is. -/
def Judged (d d' : Disp) : Prop :=
  d' = d ∨ d.st = .quantised ∧ ∃ b, d' = { d with flaggedFirst := b, st := .committing } ∨
    d' = { d with flaggedFirst := b, st := .repeating, result := [] }

theorem Judged.trans {d d' d'' : Disp} (h : Judged d d') (h' : Judged d' d'') : Judged d d'' := by
  rcases h with rfl | ⟨hq, b, hd⟩
  · exact h'
  · have hst : d'.st ≠ .quantised := by rcases hd with rfl | rfl <;> exact nofun
    rcases h' with rfl | ⟨hq', -⟩
    · exact .inr ⟨hq, b, hd⟩
    · exact absurd hq' hst

theorem Judged.of_other {d d' : Disp} (h : Judged d d') (hst : d.st ≠ .quantised) : d' = d := by
  rcases h with h | ⟨hq, -⟩
  · exact h
  · exact absurd hq hst

/-- Verdicts were taken: counts, trace and the entries that were judged change. -/
def Verdicts (s t : State) : Prop :=
  (∃ r x, t = { s with regs := r, ctxs := x }) ∧ SameRegs traceRegs s t ∧
    ∀ e d, dispAt e s = some d → ∃ d', dispAt e t = some d' ∧ Judged d d'

theorem verdicts_refl (s : State) : Verdicts s s := ⟨⟨_, _, rfl⟩, fun _ _ => rfl, fun _ d h => ⟨d, h, .inl rfl⟩⟩

theorem Verdicts.trans {s t u : State} (h : Verdicts s t) (h' : Verdicts t u) : Verdicts s u := by
  obtain ⟨⟨r, x, rfl⟩, hregs, hdisp⟩ := h
  obtain ⟨⟨r', x', rfl⟩, hregs', hdisp'⟩ := h'
  refine ⟨⟨r', x', rfl⟩, fun o ho => (hregs' o ho).trans (hregs o ho), fun e d hd => ?_⟩
  obtain ⟨d', hd', hj⟩ := hdisp e d hd
  obtain ⟨d'', hd'', hj'⟩ := hdisp' e d' hd'
  exact ⟨d'', hd'', hj.trans hj'⟩

theorem Tallied.judged {e : EntryRef} {d d' : Disp} {s t : State} (h : Tallied s t) (hd : dispAt e s = some d) (hj : Judged d d') :
    Verdicts s (setDisp e d' t) := by
  obtain ⟨⟨r, x, rfl⟩, hregs, hdisp⟩ := h
  refine ⟨⟨r, _, rfl⟩, hregs, fun e2 d2 h2 => ?_⟩
  by_cases he : e2 = e
  · subst he
    obtain rfl : d = d2 := Option.some.inj (hd.symm.trans h2)
    exact ⟨d', dispAt_setDisp ((hdisp e2).trans hd), hj⟩
  · exact ⟨d2, (dispAt_setDisp_other he d' _).trans ((hdisp e2).trans h2), .inl rfl⟩

/-! ### One verdict, and all that can be taken -/

theorem verdicts_judge {e : EntryRef} {d : Disp} {s : State} (hd : dispAt e s = some d) (hq : d.st = .quantised) :
    Verdicts s (judge e d s) := by
  unfold judge
  extract_lets c ph n fl s1 d1 fb next rows s2 s3
  have h1 : Tallied s s1 := by
    unfold s1
    split
    · exact tallied_addGau c 0 1 s
    · exact tallied_refl s
  have h2 : Tallied s s2 := by
    refine h1.trans (Tallied.trans (tallied_modStep ?_ c s1) (tallied_addGau c 2 1 _))
    exact fun _ => rfl
  have h3 : Tallied s s3 := by
    unfold s3
    split
    · exact h1.trans ((tallied_addGau c 3 1 s1).trans (tallied_trace _ _ _ _ _))
    · split
      · exact h1.trans (tallied_trace _ _ _ _ _)
      · exact h1
  clear_value next
  cases next with
  | none => exact h3.judged hd (.inr ⟨hq, _, .inl rfl⟩)
  | some x =>
    dsimp only
    split
    · exact (h2.trans (tallied_trace _ _ _ _ _)).judged hd (.inr ⟨hq, _, .inl rfl⟩)
    · exact ((h1.trans (tallied_drawBudget c ph n _ s1)).trans (tallied_addGau c 1 1 _)).judged hd (.inr ⟨hq, _, .inr rfl⟩)

/-- The choice of nextTile: what a fold over candidates keeps is one of them. -/
theorem mem_of_lowest {l : List (Nat × Disp)} {z : Nat × Disp} (acc : Option (Nat × Disp))
    (h : l.foldl (fun b x => match b with
      | none => some x
      | some y => if eSlot x.2.words < eSlot y.2.words then some x else some y) acc = some z) : acc = some z ∨ z ∈ l := by
  induction l generalizing acc with
  | nil => exact .inl h
  | cons x l ih =>
    rcases ih _ h with h | h
    · cases acc with
      | none => exact .inr (Option.some.inj h ▸ List.mem_cons_self)
      | some y =>
        simp only at h
        split at h
        · exact .inr (Option.some.inj h ▸ List.mem_cons_self)
        · exact .inl h
    · exact .inr (List.mem_cons_of_mem _ h)

theorem dispAt_nextTile {c : BitVec 6} {ph : BitVec 8} {i : Nat} {d : Disp} {s : State}
    (h : nextTile c.toNat ph.toNat s = some (i, d)) : dispAt { ctx := c, phase := ph, idx := i } s = some d := by
  unfold nextTile at h
  cases hst : stepOf c.toNat s with
  | none => rw [hst] at h; cases h
  | some st =>
    cases hp : phaseOf c.toNat ph.toNat s with
    | none => rw [hst, hp] at h; cases h
    | some p =>
      rw [hst, hp] at h
      have hmem := List.mem_of_mem_filter ((mem_of_lowest none h).resolve_left nofun)
      obtain ⟨k, hk, hget⟩ := List.getElem_of_mem hmem
      simp only [List.getElem_zip, List.getElem_range, Prod.mk.injEq] at hget
      obtain ⟨rfl, hd⟩ := hget
      have hstep : (ctx c.toNat s).step = some st := hst
      unfold dispAt
      rw [hstep]
      exact List.getElem?_eq_some_iff.mpr ⟨_, hd⟩

theorem verdicts_settle (f : Nat) (c : BitVec 6) (ph : BitVec 8) (s : State) : Verdicts s (settleVerdicts f c ph s) := by
  induction f generalizing s with
  | zero => exact verdicts_refl s
  | succ f ih =>
    unfold settleVerdicts
    split
    next i d hnext =>
      split
      next hq => exact (verdicts_judge (dispAt_nextTile hnext) (by simpa using hq)).trans (ih _)
      next => exact verdicts_refl s
    next => exact verdicts_refl s

theorem verdicts_taken (e : EntryRef) (s : State) : Verdicts s (verdicts e s) := verdicts_settle 65536 _ _ s

end Sys2Proof.Machine
end

section
/-! PROOFS. Runs of the array (R46, R57, R71, R80). -/

namespace Sys2Proof.Machine

open Sys2Proof.Safety

/-! ### Reads of a unit whose memory is sound -/

theorem lagoonEnv_sound {env : UnitEnv} {s : State} (h : soundReads env s) (n : Nat) :
    lagoonEnv n env s = bump32 (SPN_CNT_LAGOON_CE n) env.lagoonCe s := by
  obtain ⟨-, hlag, hue, hce, -, -, -⟩ := h
  unfold lagoonEnv
  rw [memEnv_sound hue hce, hlag]
  rfl

theorem badReads_sound {env : UnitEnv} {s : State} (h : soundReads env s) (w : List W32) (sh : Shard) (k : Nat) :
    badReads w sh k env s = [] := by
  unfold badReads
  rw [badStaples_sound h]
  rfl

theorem badSrcRows_sound {s : State} (h : s.lagoonBad = []) (w : List W32) (src : Nat) : badSrcRows w src s = [] := by
  unfold badSrcRows lagoonFails
  rw [h]
  simp

theorem rdByte_congr {s t : State} (h : t.mem = s.mem) (a : Nat) : rdByte a t = rdByte a s := by
  unfold rdByte
  rw [h]

theorem rdNat_congr {s t : State} (h : t.mem = s.mem) (a n : Nat) : rdNat a n t = rdNat a n s := by
  unfold rdNat rdBytes
  simp only [rdByte_congr h]

theorem srcRows_congr {s t : State} (h : t.mem = s.mem) (w : List W32) (src : Nat) : srcRows w src t = srcRows w src s := by
  unfold srcRows srcElem rdWord
  simp only [rdNat_congr h]

theorem weightCol_congr {s t : State} (h : t.mem = s.mem) (hl : t.lagoonBad = s.lagoonBad) (sh : Shard) (plies kb n : Nat) :
    weightCol sh plies kb n t = weightCol sh plies kb n s := by
  unfold weightCol weightBlk plyBlk rdShard stageFails
  simp only [rdByte_congr h, hl]

theorem runTile_congr {s t : State} (h : t.mem = s.mem) (hl : t.lagoonBad = s.lagoonBad) (w : List W32) (sh : Shard) (k : Nat) (seed : W64)
    (step : Nat) (rows : List (List W32)) (badRows : List Nat) (bad : Bool) :
    runTile w sh k seed step rows badRows bad t = runTile w sh k seed step rows badRows bad s := by
  unfold runTile
  simp only [weightCol_congr h hl]

/-! ### One run -/

/-- The run of entry d's tile after k widenings. -/
def runOf (c : Nat) (d : Disp) (sh : Shard) (k : Nat) (s : State) : TileRun :=
  runTile d.words sh k (ctx c s).weave.seed (rd (WV_STEP c) s).toNat (srcRows d.words (lagoonBase (eSpindle d.words) + tActSrc d.words) s) []
    false s

/-- The entry with that run, before its verdict. -/
def ranDisp (d : Disp) (k : Nat) (r : TileRun) : Disp :=
  { d with st := .quantised, fmt := fmtCode (fmtAfter d.words k), widen := k, gauge := r.gauge, poisoned := r.poisoned, result := r.rows
           susp := none }

/-- The array has issued: buffers, counts and cycles. -/
def issued (e : EntryRef) (d : Disp) (sh : Shard) (k : Nat) (r : TileRun) (s : State) : State :=
  fillBuffers e d sh k r.accum
    (bump64 (SPN_CNT_ARRAY_CYC (eSpindle d.words)) (issueCycles (tKBlocks d.words) (mPlan d.words) (fmtAfter d.words k))
      (addGau e.ctx.toNat 5 r.gauge.poisons (addGau e.ctx.toNat 4 r.gauge.nulls s)))

theorem runEntry_eq {e : EntryRef} {d : Disp} {env : UnitEnv} {s u : State} (h : soundReads env s) (hd : d.susp = none)
    (hu : u = bump32 (SPN_CNT_LAGOON_CE (eSpindle d.words)) env.lagoonCe s) (sh : Shard) (k : Nat) :
    runEntry e d sh k env s = setDisp e (ranDisp d k (runOf e.ctx.toNat d sh k u)) (issued e d sh k (runOf e.ctx.toNat d sh k u) u) := by
  have hlag : u.lagoonBad = [] := by rw [hu]; exact h.2.2.2.2.2.1
  have hsound : soundReads env u := by rw [hu]; exact h
  have hsilent : env.silent = [] := h.2.2.2.2.1
  unfold runEntry
  dsimp only
  rw [lagoonEnv_sound h, ← hu, badReads_sound hsound, hd]
  dsimp only [List.foldl_nil, Option.getD_none]
  simp only [badSrcRows_sound hlag, hlag, List.isEmpty_nil, Bool.not_true, Bool.false_and, Bool.not_false, Bool.and_self, if_true]
  unfold withSilent
  rw [hsilent]
  rfl

/-! ### What a run leaves -/

/-- Registers of `l`, contexts and spindles change. -/
def Worked (l : List Nat) (s t : State) : Prop := (∃ r x n, t = { s with regs := r, ctxs := x, spns := n }) ∧ SameRegs l s t

theorem Worked.trans {l : List Nat} {s t u : State} (h : Worked l s t) (h' : Worked l t u) : Worked l s u := by
  obtain ⟨⟨r, x, n, rfl⟩, hr⟩ := h
  obtain ⟨⟨r', x', n', rfl⟩, hr'⟩ := h'
  exact ⟨⟨r', x', n', rfl⟩, fun o ho => (hr' o ho).trans (hr o ho)⟩

theorem Worked.mono {l m : List Nat} {s t : State} (h : Worked l s t) (hm : l ⊆ m) : Worked m s t := ⟨h.1, fun o ho => h.2 o fun hl => ho (hm hl)⟩

theorem worked_modSpn (n : Nat) (f : Spn → Spn) (s : State) : Worked [] s (modSpn n f s) := ⟨⟨s.regs, s.ctxs, _, rfl⟩, fun _ _ => rfl⟩

theorem worked_setDisp (e : EntryRef) (d : Disp) (s : State) : Worked [] s (setDisp e d s) := ⟨⟨s.regs, _, s.spns, rfl⟩, fun _ _ => rfl⟩

theorem worked_wr (o : Nat) (v : W64) (s : State) : Worked [o] s (wr o v s) :=
  ⟨⟨_, s.ctxs, s.spns, rfl⟩, fun _ hp => rd_wr_other (fun he => hp (by rw [he]; exact List.mem_cons_self)) v s⟩

theorem worked_addGau (c i n : Nat) (s : State) : Worked [] s (addGau c i n s) := ⟨⟨s.regs, _, s.spns, rfl⟩, fun _ _ => rfl⟩

theorem Verdicts.worked {s t : State} (h : Verdicts s t) : Worked traceRegs s t := by
  obtain ⟨⟨r, x, rfl⟩, hr, -⟩ := h
  exact ⟨⟨r, x, s.spns, rfl⟩, hr⟩

theorem Worked.only {l : List Nat} {f : State → State} {s : State} (h : Worked l s (f s)) :
    RegsOnly l { s with ctxs := (after f s).ctxs, spns := (after f s).spns } (after f s) := by
  rw [after_ctxs, after_spns]
  refine regsOnly_after_of rfl ?_
  obtain ⟨⟨r, x, n, he⟩, hr⟩ := h
  rw [he] at hr ⊢
  exact ⟨rfl, fun _ => ⟨rfl, rfl⟩, fun _ => rfl, hr⟩

theorem worked_issued (e : EntryRef) (d : Disp) (sh : Shard) (k : Nat) (r : TileRun) (s : State) :
    Worked [SPN_CNT_ARRAY_CYC (eSpindle d.words)] s (issued e d sh k r s) := by
  have hg := (worked_addGau e.ctx.toNat 4 r.gauge.nulls s).trans (worked_addGau e.ctx.toNat 5 r.gauge.poisons _)
  unfold issued fillBuffers
  exact ((hg.mono (List.nil_subset _)).trans (worked_wr _ _ _)).trans ((worked_modSpn _ _ _).mono (List.nil_subset _))

theorem dispAt_issued (e e' : EntryRef) (d : Disp) (sh : Shard) (k : Nat) (r : TileRun) (s : State) :
    dispAt e' (issued e d sh k r s) = dispAt e' s :=
  (dispAt_congr rfl).trans (((tallied_addGau e.ctx.toNat 4 r.gauge.nulls s).trans (tallied_addGau e.ctx.toNat 5 r.gauge.poisons _)).2.2 e')

theorem counts_issued (e : EntryRef) (d : Disp) (sh : Shard) (k : Nat) (r : TileRun) (s : State) :
    counts (SPN_CNT_ARRAY_CYC (eSpindle d.words)) (issueCycles (tKBlocks d.words) (mPlan d.words) (fmtAfter d.words k)) s
      (issued e d sh k r s) :=
  counts_bump64 _ _ (addGau e.ctx.toNat 5 r.gauge.poisons (addGau e.ctx.toNat 4 r.gauge.nulls s))

theorem windows_issued (e : EntryRef) (d : Disp) (sh : Shard) (k : Nat) (r : TileRun) (s : State) (m : Nat) :
    (spn m (issued e d sh k r s)).windows = (spn m s).windows := by
  unfold issued fillBuffers
  dsimp only
  rw [spn_modSpn]
  split
  next h => rw [h]; rfl
  next => rfl

theorem runOf_congr {c : Nat} {s t : State} (hm : t.mem = s.mem) (hl : t.lagoonBad = s.lagoonBad) (hc : ctx c t = ctx c s)
    (hw : rd (WV_STEP c) t = rd (WV_STEP c) s) (d : Disp) (sh : Shard) (k : Nat) : runOf c d sh k t = runOf c d sh k s := by
  unfold runOf
  rw [hc, hw, srcRows_congr hm, runTile_congr hm hl]

section
variable {e : EntryRef} {d : Disp} {env : UnitEnv} {sh : Shard} {k : Nat} {s : State} (hsound : soundReads env s) (hsusp : d.susp = none)
include hsound hsusp

theorem runEntry_spec {d0 : Disp} (hd : dispAt e s = some d0) :
    Worked [SPN_CNT_ARRAY_CYC (eSpindle d.words), SPN_CNT_LAGOON_CE (eSpindle d.words)] s (runEntry e d sh k env s) ∧
    dispAt e (runEntry e d sh k env s) = some (ranDisp d k (runOf e.ctx.toNat d sh k s)) ∧
    counts (SPN_CNT_ARRAY_CYC (eSpindle d.words)) (issueCycles (tKBlocks d.words) (mPlan d.words) (fmtAfter d.words k)) s
      (runEntry e d sh k env s) ∧
    ∀ m, (spn m (runEntry e d sh k env s)).windows = (spn m s).windows := by
  obtain ⟨u, hu⟩ : ∃ u, u = bump32 (SPN_CNT_LAGOON_CE (eSpindle d.words)) env.lagoonCe s := ⟨_, rfl⟩
  have hwu : Worked [SPN_CNT_LAGOON_CE (eSpindle d.words)] s u := by
    rw [hu]
    exact worked_wr _ _ s
  have hrun : runOf e.ctx.toNat d sh k u = runOf e.ctx.toNat d sh k s := by
    refine runOf_congr (by rw [hu]; rfl) (by rw [hu]; rfl) (by rw [hu]; rfl) (hwu.2 _ ?_) d sh k
    have := e.ctx.isLt
    simp only [List.mem_cons, List.not_mem_nil, or_false, WV_STEP, SPN_CNT_LAGOON_CE]
    omega
  have hdu : dispAt e u = some d0 := by
    rw [← hd, hu]
    exact dispAt_congr rfl
  obtain ⟨v, hv⟩ : ∃ v, v = issued e d sh k (runOf e.ctx.toNat d sh k u) u := ⟨_, rfl⟩
  rw [runEntry_eq hsound hsusp hu, ← hv, hrun]
  refine ⟨?_, ?_, ?_, fun m => ?_⟩
  · refine ((hwu.mono (by simp)).trans ?_).trans ((worked_setDisp e _ v).mono (List.nil_subset _))
    rw [hv]
    exact (worked_issued e d sh k _ u).mono (by simp)
  · refine dispAt_setDisp (d' := d0) ?_
    rw [hv, dispAt_issued, hdu]
  · have hcount := counts_issued e d sh k (runOf e.ctx.toNat d sh k u) u
    have hcyc : rd (SPN_CNT_ARRAY_CYC (eSpindle d.words)) u = rd (SPN_CNT_ARRAY_CYC (eSpindle d.words)) s := hwu.2 _ (by
      simp only [List.mem_cons, List.not_mem_nil, or_false, SPN_CNT_ARRAY_CYC, SPN_CNT_LAGOON_CE]
      omega)
    rw [← hv] at hcount
    unfold counts at hcount ⊢
    rw [← hcyc, ← hcount]
    rfl
  · have hw := windows_issued e d sh k (runOf e.ctx.toNat d sh k u) u m
    rw [← hv] at hw
    refine Eq.trans hw ?_
    rw [hu]
    rfl

end

theorem tileRan_of_verdicts {e : EntryRef} {d : Disp} {k : Nat} {r : TileRun} {s t : State} (hd : dispAt e s = some (ranDisp d k r))
    (h : Verdicts s t) : tileRan e k r t := by
  obtain ⟨d', hd', hj⟩ := h.2.2 e _ hd
  rcases hj with rfl | ⟨-, b, rfl | rfl⟩
  · exact ⟨_, hd', rfl, rfl, rfl, .inr ⟨.inl rfl, rfl⟩⟩
  · exact ⟨_, hd', rfl, rfl, rfl, .inr ⟨.inr rfl, rfl⟩⟩
  · exact ⟨_, hd', rfl, rfl, rfl, .inl ⟨rfl, rfl⟩⟩

end Sys2Proof.Machine
end

section
/-! PROOFS. Results that become final or suspect (R80, R90, R367, R368, R370). -/

namespace Sys2Proof.Machine

open Sys2Proof.Safety

/-! ### A final result -/

/-- The rows of a result noted for the commit, and a tile counted. -/
def rowsNoted (e : EntryRef) (d : Disp) (rows : List W32) (counted : Bool) (s : State) : State :=
  if counted && eKind d.words = kTensor then
    bump64 (SPN_CNT_TILES (eSpindle d.words)) 1 (markBad e.ctx.toNat (batchRowsOf e d (nanRows d rows) s) s)
  else markBad e.ctx.toNat (batchRowsOf e d (nanRows d rows) s) s

theorem finishEntry_eq {e : EntryRef} {d : Disp} {s : State} (hd : dispAt e s = some d) (rows : List W32) (counted : Bool) :
    finishEntry e rows counted s =
      unlockOut e (eSpindle d.words) (setDisp e { d with st := .done, result := rows } (rowsNoted e d rows counted s)) := by
  unfold finishEntry
  rw [hd]
  rfl

theorem dispAt_markBad (e : EntryRef) (c : Nat) (rows : List Nat) (s : State) : dispAt e (markBad c rows s) = dispAt e s := by
  refine dispAt_modStep ?_ c e s
  exact fun _ => rfl

theorem worked_markBad (c : Nat) (rows : List Nat) (s : State) : Worked [] s (markBad c rows s) := ⟨⟨s.regs, _, s.spns, rfl⟩, fun _ _ => rfl⟩

theorem rowsNoted_spec (e : EntryRef) (d : Disp) (rows : List W32) (counted : Bool) (s : State) :
    Worked [SPN_CNT_TILES (eSpindle d.words)] s (rowsNoted e d rows counted s) ∧ (rowsNoted e d rows counted s).spns = s.spns ∧
    dispAt e (rowsNoted e d rows counted s) = dispAt e s ∧
    (counted = true → eKind d.words = kTensor → counts (SPN_CNT_TILES (eSpindle d.words)) 1 s (rowsNoted e d rows counted s)) := by
  have hmark := worked_markBad e.ctx.toNat (batchRowsOf e d (nanRows d rows) s) s
  have hdisp := dispAt_markBad e e.ctx.toNat (batchRowsOf e d (nanRows d rows) s) s
  unfold rowsNoted
  split
  · exact ⟨(hmark.mono (List.nil_subset _)).trans (worked_wr _ _ _), rfl, (dispAt_congr rfl).trans hdisp, fun _ _ => counts_bump64 _ _ (markBad _ _ s)⟩
  next hno => exact ⟨hmark.mono (List.nil_subset _), rfl, hdisp, fun h1 h2 => absurd (by rw [h1, h2]; rfl) hno⟩

theorem windows_unlockOut (e : EntryRef) (n m : Nat) (s : State) : (spn m (unlockOut e n s)).windows = (spn m s).windows := by
  unfold unlockOut
  rw [spn_modSpn]
  split
  next h => rw [h]
  next => rfl

theorem finishEntry_spec {e : EntryRef} {d : Disp} {s : State} (hd : dispAt e s = some d) (rows : List W32) (counted : Bool) :
    Worked [SPN_CNT_TILES (eSpindle d.words)] s (finishEntry e rows counted s) ∧
    dispAt e (finishEntry e rows counted s) = some { d with st := .done, result := rows } ∧
    (counted = true → eKind d.words = kTensor → counts (SPN_CNT_TILES (eSpindle d.words)) 1 s (finishEntry e rows counted s)) ∧
    ∀ m, (spn m (finishEntry e rows counted s)).windows = (spn m s).windows := by
  obtain ⟨hw, hspns, hdisp, hcount⟩ := rowsNoted_spec e d rows counted s
  obtain ⟨u, hu⟩ : ∃ u, u = rowsNoted e d rows counted s := ⟨_, rfl⟩
  rw [finishEntry_eq hd, ← hu]
  rw [← hu] at hw hspns hdisp hcount
  refine ⟨(hw.trans ((worked_setDisp e _ u).mono (List.nil_subset _))).trans ((worked_modSpn _ _ _).mono (List.nil_subset _)),
    (dispAt_congr rfl).trans (dispAt_setDisp (hdisp.trans hd)), hcount, fun m => (windows_unlockOut e _ m _).trans ?_⟩
  show (lookup u.spns {} m).windows = _
  rw [hspns]
  rfl

/-! ### A result in place -/

theorem writeOut_eq (d : Disp) (rows : List W32) (s : State) : writeOut d rows s = wrUnit (outPlace d.words) (outForm d.words rows) false s := by
  unfold writeOut outPlace outForm
  dsimp only
  split
  · rfl
  · rfl

theorem wrUnit_lands {a : Nat} {bs : List Byte} {s : State} (h : retainHit a bs.length s = none) :
    DataOnly s (wrUnit a bs false s) ∧ landed a bs s (wrUnit a bs false s) := by
  unfold wrUnit
  rw [h]
  exact ⟨dataOnly_wrMerge a bs s, landed_wrMerge a bs s⟩

theorem retainHit_of_noWindows {s : State} (h : noWindows s) (a n : Nat) : retainHit a n s = none := by
  unfold retainHit
  split
  · rfl
  · dsimp only
    rw [h]
    rfl

theorem retainHit_congr {s t : State} (h : ∀ m, (spn m t).windows = (spn m s).windows) (a n : Nat) : retainHit a n t = retainHit a n s := by
  unfold retainHit
  simp only [h]

theorem Worked.mem {l : List Nat} {s t : State} (h : Worked l s t) : t.mem = s.mem := by
  obtain ⟨⟨r, x, n, rfl⟩, -⟩ := h
  rfl

theorem Worked.sameMem {l : List Nat} {s t : State} (h : Worked l s t) : SameMem s t := by
  obtain ⟨⟨r, x, n, rfl⟩, -⟩ := h
  exact fun _ => ⟨rfl, rfl⟩

/-- A new result in place of an entry's own: the entry is final. -/
theorem acceptNew_spec {e : EntryRef} {d : Disp} {s : State} (hd : dispAt e s = some d) (hwin : noWindows s) (rows : List W32) :
    dispAt e (acceptNew e rows s) = some { d with st := .done, result := rows } ∧
    landed (outPlace d.words) (outForm d.words rows) s (acceptNew e rows s) ∧
    SameRegs [SPN_CNT_TILES (eSpindle d.words)] s (acceptNew e rows s) := by
  obtain ⟨u, hu⟩ : ∃ u, u = unlockOut e (eSpindle d.words) s := ⟨_, rfl⟩
  have hwu : noWindows u := fun m => by rw [hu, windows_unlockOut, hwin m]
  obtain ⟨hdata, hland⟩ := wrUnit_lands (retainHit_of_noWindows hwu (outPlace d.words) (outForm d.words rows).length)
  obtain ⟨v, hv⟩ : ∃ v, v = wrUnit (outPlace d.words) (outForm d.words rows) false u := ⟨_, rfl⟩
  rw [← hv] at hdata hland
  have hdv : dispAt e v = some d := by
    rw [dispAt_congr (hdata.ctx_eq _), ← hd, hu]
    exact dispAt_congr rfl
  have hform : acceptNew e rows s = finishEntry e rows false v := by
    unfold acceptNew
    rw [hd]
    dsimp only
    rw [writeOut_eq, ← hu, ← hv]
  obtain ⟨hw, hdisp, -, -⟩ := finishEntry_spec hdv rows false
  rw [hform]
  refine ⟨hdisp, landed_of_mem (fun b => ?_) hw.mem, fun o ho => (hw.2 o ho).trans ((hdata.rd_eq o).trans ?_)⟩
  · rw [hland b, hu]
    rfl
  · rw [hu]
    rfl

theorem acceptOwn_spec {e : EntryRef} {d : Disp} {s : State} (hd : dispAt e s = some d) :
    Worked [SPN_CNT_TILES (eSpindle d.words)] s (acceptOwn e s) ∧ dispAt e (acceptOwn e s) = some { d with st := .done } ∧
    (eKind d.words = kTensor → counts (SPN_CNT_TILES (eSpindle d.words)) 1 s (acceptOwn e s)) ∧
    ∀ m, (spn m (acceptOwn e s)).windows = (spn m s).windows := by
  have hform : acceptOwn e s = finishEntry e d.result true s := by
    unfold acceptOwn
    rw [hd]
  obtain ⟨hw, hdisp, hcount, hwin⟩ := finishEntry_spec hd d.result true
  rw [hform]
  exact ⟨hw, hdisp, hcount rfl, hwin⟩

/-! ### A suspect -/

theorem noteChecks_clean {k : Checks} (h : flagged k = false) (n c slot : Nat) (s : State) : noteChecks n c slot k s = s := by
  unfold flagged at h
  simp only [Bool.or_eq_false_iff] at h
  obtain ⟨⟨⟨h1, h2⟩, h3⟩, h4⟩ := h
  unfold noteChecks
  rw [h1, h2, h3, h4]
  rfl

/-- Registers that the checks of a result write. -/
def checkRegs (n : Nat) : List Nat :=
  [SPN_ERR n, SPN_ERR_INFO n, (SPN_CNT_GAUGE_SMAX n).off, (SPN_CNT_GAUGE_NORM n).off, (SPN_CNT_GAUGE_MAG n).off, (SPN_CNT_GAUGE_NAN n).off]

/-- Errors were flagged in registers of `l`. -/
def Flagged (l : List Nat) (s t : State) : Prop := (∃ r k, t = { s with regs := r, caps := k }) ∧ SameRegs l s t

theorem Flagged.trans {l : List Nat} {s t u : State} (h : Flagged l s t) (h' : Flagged l t u) : Flagged l s u := by
  obtain ⟨⟨r, k, rfl⟩, hr⟩ := h
  obtain ⟨⟨r', k', rfl⟩, hr'⟩ := h'
  exact ⟨⟨r', k', rfl⟩, fun o ho => (hr' o ho).trans (hr o ho)⟩

theorem raiseErr_form (f : FRef) (info : Nat) (flds : List (FRef × Nat)) (s : State) :
    ∃ r k, raiseErr f info flds s = { s with regs := r, caps := k } := by
  have hset (l : List (FRef × Nat)) (u : State) : ∃ r, setFlds l u = { u with regs := r } := by
    induction l generalizing u with
    | nil => exact ⟨_, rfl⟩
    | cons p l ih =>
      obtain ⟨r, hr⟩ := ih (setFld p.1 p.2 u)
      exact ⟨r, hr⟩
  unfold raiseErr
  split
  · obtain ⟨r, hr⟩ := hset flds s
    rw [hr]
    exact ⟨_, _, rfl⟩
  · exact ⟨_, _, rfl⟩

theorem flagged_raiseErr {l : List Nat} {f : FRef} {flds : List (FRef × Nat)} (hf : f.off ∈ l) (hflds : ∀ p ∈ flds, p.1.off ∈ l) (info : Nat)
    (s : State) : Flagged l s (raiseErr f info flds s) :=
  ⟨raiseErr_form f info flds s, fun o ho =>
    rd_raiseErr (fun he => ho (by rw [he]; exact hf)) (fun p hp he => ho (by rw [← he]; exact hflds p hp)) s⟩

theorem flagged_noteChecks (n c slot : Nat) (k : Checks) (s : State) : Flagged (checkRegs n) s (noteChecks n c slot k s) := by
  have hone (b : Bool) (f g : FRef) (hf : f.off = SPN_ERR n) (hg : g.off ∈ checkRegs n) (u : State) :
      Flagged (checkRegs n) u (if b then bumpFld g 1 (spnErr f n c slot u) else u) := by
    split
    · have herr : Flagged (checkRegs n) u (spnErr f n c slot u) :=
        flagged_raiseErr (by rw [hf]; simp [checkRegs]) (by
          simp only [List.forall_mem_cons, SPN_ERR_INFO_CONTEXT, SPN_ERR_INFO_SLOT]
          exact ⟨by simp [checkRegs], by simp [checkRegs], fun p hp => absurd hp List.not_mem_nil⟩) _ u
      exact herr.trans ⟨⟨_, _, rfl⟩, fun o ho => rd_setFld_other g _ _ (fun he => ho (by rw [he]; exact hg))⟩
    · exact ⟨⟨_, _, rfl⟩, fun _ _ => rfl⟩
  unfold noteChecks
  extract_lets one
  exact (((hone k.nan _ _ rfl (by simp [checkRegs]) s).trans (hone k.mag _ _ rfl (by simp [checkRegs]) _)).trans
    (hone k.norm _ _ rfl (by simp [checkRegs]) _)).trans (hone k.smax _ _ rfl (by simp [checkRegs]) _)

end Sys2Proof.Machine
end

section
/-! PROOFS. TENSOR entries as commands (R46, R60, R73, R80, R109, R368). -/

namespace Sys2Proof.Machine

open Sys2Proof.Safety

/-! ### The start of a tile -/

theorem tensorEntry_idle {e : EntryRef} {env : UnitEnv} {d : Disp} {s : State} (hready : ready e kTensor s = some d) (hidle : idle d = true) :
    Gives (.tensorEntry e env) s fun t => entryDone e t ∧ SameMem s t := by
  have hf : tensorEntry e env s = verdicts e (doneEntry e s) := by
    unfold tensorEntry
    rw [hready]
    dsimp only
    rw [if_pos hidle]
  have hd := ready_dispAt hready
  obtain ⟨hdone, honly⟩ := regsOnly_doneEntry hd
  have hv := verdicts_taken e (doneEntry e s)
  obtain ⟨u, hu⟩ : ∃ u, u = doneEntry e s := ⟨_, rfl⟩
  rw [← hu] at hf hdone honly hv
  refine gives_run_of (g := fun _ => verdicts e u) rfl hf ⟨entryDone_after ?_, sameMem_after_of ?_⟩
  · unfold entryDone at hdone ⊢
    obtain ⟨d1, hd1, hst⟩ := Option.map_eq_some_iff.mp hdone
    obtain ⟨d2, hd2, hj⟩ := hv.2.2 e d1 hd1
    rw [hd2, hj.of_other (by rw [hst]; exact nofun)]
    exact congrArg some hst
  · exact fun a => ⟨(hv.worked.sameMem a).1.trans (honly.2.1 a).1, (hv.worked.sameMem a).2.trans (honly.2.1 a).2⟩

/-- The retain window of an entry opened over its source. -/
def windowOpened (e : EntryRef) (w : List W32) (s : State) : State :=
  modSpn (eSpindle w) (fun x => { x with windows :=
    x.windows ++ [(e, tActSrc w, tActSrc w + mLive w * (16 * tKBlocks w) * 4 - 1)] }) s

/-- A run of a tile and the verdicts that follow, as a tile of state s sees them. -/
theorem run_judged {e : EntryRef} {d d0 : Disp} {env : UnitEnv} {s : State} (hsound : soundReads env s) (hsusp : d.susp = none)
    (hd : dispAt e s = some d0) (sh : Shard) (k : Nat) :
    tileRan e k (runOf e.ctx.toNat d sh k s) (verdicts e (runEntry e d sh k env s)) ∧
    Worked (tileRegs (eSpindle d.words)) s (verdicts e (runEntry e d sh k env s)) ∧
    counts (SPN_CNT_ARRAY_CYC (eSpindle d.words)) (issueCycles (tKBlocks d.words) (mPlan d.words) (fmtAfter d.words k)) s
      (verdicts e (runEntry e d sh k env s)) ∧
    ∀ m, (spn m (verdicts e (runEntry e d sh k env s))).windows = (spn m s).windows := by
  obtain ⟨hwork, hdisp, hcount, hwin⟩ := runEntry_spec (k := k) (sh := sh) hsound hsusp hd
  have hv := verdicts_taken e (runEntry e d sh k env s)
  obtain ⟨u, hu⟩ : ∃ u, u = runEntry e d sh k env s := ⟨_, rfl⟩
  obtain ⟨t, ht⟩ : ∃ t, t = verdicts e u := ⟨_, rfl⟩
  rw [← hu] at hwork hdisp hcount hwin hv ⊢
  rw [← ht] at hv ⊢
  refine ⟨tileRan_of_verdicts hdisp hv, (hwork.mono ?_).trans (hv.worked.mono ?_), ?_, fun m => ?_⟩
  · simp [tileRegs]
  · simp [tileRegs, traceRegs]
  · have hcyc : rd (SPN_CNT_ARRAY_CYC (eSpindle d.words)) t = rd (SPN_CNT_ARRAY_CYC (eSpindle d.words)) u := hv.2.1 _ (by
      simp only [traceRegs, List.mem_cons, List.not_mem_nil, or_false, SPN_CNT_ARRAY_CYC, GAU_TRACE_FRAC, GAU_TRACE_ID]
      omega)
    unfold counts at hcount ⊢
    rw [hcyc, hcount]
  · rw [← hwin m]
    obtain ⟨⟨r, x, rfl⟩, -⟩ := hv
    rfl

theorem tileRan_after {e : EntryRef} {k : Nat} {r : TileRun} {f : State → State} {s : State} (h : tileRan e k r (f s)) :
    tileRan e k r (after f s) := by
  obtain ⟨d, hd, hrest⟩ := h
  exact ⟨d, (dispAt_after e f s).trans hd, hrest⟩

theorem tensorEntry_runs {e : EntryRef} {env : UnitEnv} {d : Disp} {s : State} {sh : Shard} (hready : ready e kTensor s = some d)
    (hidle : idle d = false) (hroom : (spn (eSpindle d.words) s).windows.length < 2) (hsusp : d.susp = none)
    (hlock : lockedAt (eSpindle d.words) (tActSrc d.words) (mLive d.words * (16 * tKBlocks d.words) * 4) s = false)
    (hshard : tileShard e.ctx.toNat d.words s = some sh) (hfits : shardFits sh = true)
    (hstall : tileStall e.ctx.toNat d.words (startWiden e.ctx.toNat d.words s) s = none) (hsound : soundReads env s) :
    Gives (.tensorEntry e env) s fun t =>
      tileRan e (startWiden e.ctx.toNat d.words s) (runOf e.ctx.toNat d sh (startWiden e.ctx.toNat d.words s) s) t ∧
        (∃ x ∈ (spn (eSpindle d.words) t).windows, x.1 = e) ∧
        counts (SPN_CNT_ARRAY_CYC (eSpindle d.words))
          (issueCycles (tKBlocks d.words) (mPlan d.words) (fmtAfter d.words (startWiden e.ctx.toNat d.words s))) s t ∧
        RegsOnly (tileRegs (eSpindle d.words)) { s with ctxs := t.ctxs, spns := t.spns } t := by
  obtain ⟨k, hk⟩ : ∃ k, k = startWiden e.ctx.toNat d.words s := ⟨_, rfl⟩
  obtain ⟨u, hu⟩ : ∃ u, u = windowOpened e d.words s := ⟨_, rfl⟩
  have hwork : Worked [] s u := by
    rw [hu]
    exact worked_modSpn _ _ s
  have hf : tensorEntry e env s = verdicts e (runEntry e d sh k env u) := by
    have hgo : (decide ((spn (eSpindle d.words) s).windows.length ≥ 2) ||
        lockedAt (eSpindle d.words) (tActSrc d.words) (mLive d.words * (16 * tKBlocks d.words) * 4) s ||
        (tileStall e.ctx.toNat d.words (startWiden e.ctx.toNat d.words s) s).isSome) = false := by
      rw [hlock, hstall, decide_eq_false (by omega)]
      rfl
    unfold tensorEntry
    rw [hready]
    dsimp only
    rw [hidle, if_neg (by decide), hgo, if_neg (by decide), hshard]
    dsimp only
    rw [hfits, if_neg (by decide), hk, hu]
    rfl
  have hsu : soundReads env u := by
    rw [hu]
    exact hsound
  have hdu : dispAt e u = some d := by
    rw [← ready_dispAt hready, hu]
    exact dispAt_congr rfl
  obtain ⟨hran, hworks, hcount, hwin⟩ := run_judged (k := k) (sh := sh) hsu hsusp hdu
  have hrun : runOf e.ctx.toNat d sh k u = runOf e.ctx.toNat d sh k s :=
    runOf_congr (by rw [hu]; rfl) (by rw [hu]; rfl) (by rw [hu]; rfl) (hwork.2 _ List.not_mem_nil) d sh k
  rw [hrun, ← hf] at hran
  rw [← hf] at hworks hcount hwin
  rw [← hk]
  refine gives_run (f := tensorEntry e env) rfl ⟨tileRan_after hran, ⟨(e, tActSrc d.words,
    tActSrc d.words + mLive d.words * (16 * tKBlocks d.words) * 4 - 1), ?_, rfl⟩, counts_after ?_, ?_⟩
  · rw [spn_after, hwin, hu]
    unfold windowOpened
    rw [spn_modSpn, if_pos rfl]
    simp
  · unfold counts at hcount ⊢
    rw [hcount, hwork.2 _ List.not_mem_nil]
  · exact Worked.only (f := tensorEntry e env) ((hwork.mono (List.nil_subset _)).trans hworks)

theorem tensorEntry_stalls {e : EntryRef} {env : UnitEnv} {d : Disp} {s : State} (hready : ready e kTensor s = some d)
    (hidle : idle d = false) (hstall : (tileStall e.ctx.toNat d.words (startWiden e.ctx.toNat d.words s) s).isSome) :
    Gives (.tensorEntry e env) s fun t => dispAt e t = some d ∧ RegsOnly [] s t := by
  have hf : tensorEntry e env s = s := by
    unfold tensorEntry
    rw [hready]
    dsimp only
    rw [hidle, if_neg (by decide), hstall, Bool.or_true, if_pos rfl]
  refine gives_run_of (g := id) rfl hf ⟨(dispAt_after e id s).trans (ready_dispAt hready), regsOnly_after ((regEffect_id []).regsOnly s)⟩

/-! ### Repeats -/

theorem repeatComplete_runs {e : EntryRef} {env : UnitEnv} {d : Disp} {s : State} {sh : Shard} (hd : dispAt e s = some d)
    (hst : d.st = .repeating) (hsusp : d.susp = none) (hshard : tileShard e.ctx.toNat d.words s = some sh)
    (hstall : repeatStall e.ctx.toNat d s = none) (hsound : soundReads env s) :
    Gives (.repeatComplete e env) s fun t => tileRan e (d.widen + 1) (runOf e.ctx.toNat d sh (d.widen + 1) s) t ∧
      RegsOnly (tileRegs (eSpindle d.words)) { s with ctxs := t.ctxs, spns := t.spns } t := by
  have hf : repeatDone e env s = verdicts e (runEntry e d sh (d.widen + 1) env s) := by
    unfold repeatDone
    rw [hd]
    dsimp only
    rw [hst, hstall, if_neg (by decide), hshard]
  obtain ⟨hran, hworks, -, -⟩ := run_judged (k := d.widen + 1) (sh := sh) hsound hsusp hd
  rw [← hf] at hran hworks
  exact gives_run (f := repeatDone e env) rfl ⟨tileRan_after hran, Worked.only (f := repeatDone e env) hworks⟩

theorem repeatComplete_stalls {e : EntryRef} {env : UnitEnv} {d : Disp} {s : State} (hd : dispAt e s = some d)
    (hstall : (repeatStall e.ctx.toNat d s).isSome) :
    Gives (.repeatComplete e env) s fun t => dispAt e t = some d ∧ RegsOnly [] s t := by
  have hf : repeatDone e env s = s := by
    unfold repeatDone
    rw [hd]
    dsimp only
    rw [hstall, Bool.or_true, if_pos rfl]
  refine gives_run_of (g := id) rfl hf ⟨(dispAt_after e id s).trans hd, regsOnly_after ((regEffect_id []).regsOnly s)⟩

end Sys2Proof.Machine
end

section
/-! PROOFS. The adapter pass, the completion of a tile and its retain window (R60, R73, R80, R82, R367). -/

namespace Sys2Proof.Machine

open Sys2Proof.Safety

/-! ### The adapter pass -/

theorem adapterRows_length (rank : Nat) (alpha : W32) (aAt bAt : Nat) (src : List (List W32)) (rows : List W32) (s : State) :
    (adapterRows rank alpha aAt bAt src rows s).length = src.length * 128 := by
  unfold adapterRows
  dsimp only
  rw [List.length_flatMap]
  simp

theorem adapterRows_congr {s t : State} (h : t.mem = s.mem) (rank : Nat) (alpha : W32) (aAt bAt : Nat) (src : List (List W32))
    (rows : List W32) : adapterRows rank alpha aAt bAt src rows t = adapterRows rank alpha aAt bAt src rows s := by
  unfold adapterRows
  simp only [rdNat_congr h]

theorem lagoonFails_sound {s : State} (h : s.lagoonBad = []) (a n : Nat) : lagoonFails a n s = false := by
  unfold lagoonFails
  rw [h]
  rfl

/-- The rows that the adapter pass leaves. -/
def adapted (d : Disp) (a : Adapter) (s : State) : List W32 :=
  (List.range (mLive d.words * 128)).map fun i =>
    (adapterRows a.rank a.alpha (lagoonBase (eSpindle d.words) + a.aLagoon) (lagoonBase (eSpindle d.words) + a.bLagoon)
      (srcRows d.words (lagoonBase (eSpindle d.words) + tActSrc d.words) s) d.result s).getD i 0

section
variable {e : EntryRef} {env : UnitEnv} {d : Disp} {a : Adapter} {s : State} (hd : dispAt e s = some d)
  (ha : tileAdapter e.ctx.toNat d.words s = some a) (hst : d.st = .committing) (hcount : d.count = 0) (hpois : d.poisoned = [])
  (hhere : lagoonHere e.ctx.toNat (eSpindle d.words) s = true) (hsound : soundReads env s)
include hd ha hst hcount hpois hhere hsound

theorem adapterPass_eq {u : State} (hu : u = bump32 (SPN_CNT_LAGOON_CE (eSpindle d.words)) env.lagoonCe s) :
    adapterPass e env s =
      setDisp e { d with count := 1, result := adapted d a s } (bump64 (SPN_CNT_ARRAY_CYC (eSpindle d.words)) env.busyNs u) := by
  have hmem : u.mem = s.mem := by
    rw [hu]
    rfl
  have hlag : u.lagoonBad = [] := by
    rw [hu]
    exact hsound.2.2.2.2.2.1
  have hsilent : env.silent = [] := hsound.2.2.2.2.1
  have hrows : adapted d a s = (List.range (adapterRows a.rank a.alpha (lagoonBase (eSpindle d.words) + a.aLagoon)
      (lagoonBase (eSpindle d.words) + a.bLagoon) (srcRows d.words (lagoonBase (eSpindle d.words) + tActSrc d.words) u) d.result u).length).map
        fun i => (adapterRows a.rank a.alpha (lagoonBase (eSpindle d.words) + a.aLagoon) (lagoonBase (eSpindle d.words) + a.bLagoon)
          (srcRows d.words (lagoonBase (eSpindle d.words) + tActSrc d.words) u) d.result u).getD i 0 := by
    rw [srcRows_congr hmem, adapterRows_congr hmem, adapterRows_length]
    unfold adapted srcRows
    rw [List.length_map, List.length_range]
  unfold adapterPass
  rw [hd]
  dsimp only
  rw [ha]
  dsimp only
  rw [hst, hcount, hhere, if_neg (by decide), lagoonEnv_sound hsound, ← hu, lagoonFails_sound hlag, lagoonFails_sound hlag, hpois]
  simp only [Bool.or_self, Bool.false_eq_true, if_false, badSrcRows_sound hlag, List.isEmpty_nil, if_true, List.append_nil,
    Bool.not_true, List.eraseDups_nil, List.contains_nil]
  rw [hrows]
  unfold withSilent
  rw [hsilent, List.foldl_nil, ← hpois]

theorem adapterPass_adds : Gives (.adapterPass e env) s fun t =>
    dispAt e t = some { d with count := 1, result := adapted d a s } ∧
      counts (SPN_CNT_ARRAY_CYC (eSpindle d.words)) env.busyNs s t ∧
      RegsOnly [SPN_CNT_ARRAY_CYC (eSpindle d.words), SPN_CNT_LAGOON_CE (eSpindle d.words)] { s with ctxs := t.ctxs } t := by
  obtain ⟨u, hu⟩ : ∃ u, u = bump32 (SPN_CNT_LAGOON_CE (eSpindle d.words)) env.lagoonCe s := ⟨_, rfl⟩
  obtain ⟨v, hv⟩ : ∃ v, v = bump64 (SPN_CNT_ARRAY_CYC (eSpindle d.words)) env.busyNs u := ⟨_, rfl⟩
  have hf := adapterPass_eq hd ha hst hcount hpois hhere hsound hu
  rw [← hv] at hf
  have hdv : dispAt e v = some d := by
    rw [← hd, hv, hu]
    exact dispAt_congr rfl
  have hcyc : rd (SPN_CNT_ARRAY_CYC (eSpindle d.words)) u = rd (SPN_CNT_ARRAY_CYC (eSpindle d.words)) s := by
    rw [hu]
    exact rd_wr_other (by unfold SPN_CNT_ARRAY_CYC SPN_CNT_LAGOON_CE; omega) _ s
  have hregs : SameRegs [SPN_CNT_ARRAY_CYC (eSpindle d.words), SPN_CNT_LAGOON_CE (eSpindle d.words)] s v := fun o ho => by
    simp only [List.mem_cons, List.not_mem_nil, or_false, not_or] at ho
    rw [hv, hu]
    exact (rd_wr_other ho.1 _ _).trans (rd_wr_other ho.2 _ s)
  obtain ⟨x, hx⟩ := setDisp_eq e { d with count := 1, result := adapted d a s } v
  refine gives_run_of (g := fun _ => setDisp e { d with count := 1, result := adapted d a s } v) rfl hf ⟨?_, counts_after ?_, ?_⟩
  · rw [dispAt_after]
    exact dispAt_setDisp hdv
  · have hbump : counts (SPN_CNT_ARRAY_CYC (eSpindle d.words)) env.busyNs u v := by
      rw [hv]
      exact counts_bump64 _ _ u
    unfold counts at hbump ⊢
    rw [← hcyc, ← hbump]
    rfl
  · rw [after_ctxs]
    refine regsOnly_after_of rfl ?_
    rw [hx]
    refine ⟨?_, fun b => ?_, fun k => ?_, hregs⟩
    · rw [hv, hu]
      rfl
    · rw [hv, hu]
      exact ⟨rfl, rfl⟩
    · rw [hv, hu]
      rfl

end

/-! ### The completion of a tile -/

section
variable {e : EntryRef} {env : UnitEnv} {d : Disp} {s : State} (hd : dispAt e s = some d) (hst : d.st = .committing)
  (hkind : eKind d.words = kTensor) (hpass : tAdapter d.words = 0 ∨ d.count ≠ 0) (hsilent : env.silent = [])
  (hhere : lagoonHere e.ctx.toNat (eSpindle d.words) s = true) (hsusp : d.susp = none)
  (hhit : retainHit (lagoonBase (eSpindle d.words) + tOutDst d.words) (outBytes (ef d.words 2 15 12) d.result).length s = none)
include hd hst hkind hpass hsilent hhere hhit

/-- The result of a tile in place, before it is judged. -/
theorem tileComplete_writes : ∃ v, tileComplete e env s = judgeOutput e (tileChecks d.words d.result d.poisoned) v ∧ dispAt e v = some d ∧
    landed (lagoonBase (eSpindle d.words) + tOutDst d.words) (outBytes (ef d.words 2 15 12) d.result) s v ∧ SameRegs [] s v := by
  obtain ⟨u, hu⟩ : ∃ u, u = setDisp e d s := ⟨_, rfl⟩
  obtain ⟨x, hx⟩ := setDisp_eq e d s
  have hhit' : retainHit (lagoonBase (eSpindle d.words) + tOutDst d.words) (outBytes (ef d.words 2 15 12) d.result).length u = none := by
    refine (retainHit_congr (fun m => ?_) _ _).trans hhit
    rw [hu, hx]
    rfl
  obtain ⟨hdata, hland⟩ := wrUnit_lands hhit'
  have hplace : writeOut d d.result u =
      wrUnit (lagoonBase (eSpindle d.words) + tOutDst d.words) (outBytes (ef d.words 2 15 12) d.result) false u := if_pos hkind
  refine ⟨wrUnit (lagoonBase (eSpindle d.words) + tOutDst d.words) (outBytes (ef d.words 2 15 12) d.result) false u, ?_, ?_, fun b => ?_,
    fun o _ => (hdata.rd_eq o).trans ?_⟩
  · have hgo : (d.st != .committing || eKind d.words != kTensor || (tAdapter d.words != 0 && d.count == 0) ||
        !lagoonHere e.ctx.toNat (eSpindle d.words) s) = false := by
      rw [hst, hkind, hhere]
      rcases hpass with h | h
      · rw [h]
        rfl
      · simp [h]
    have hres : withSilent env d.result = d.result := by
      unfold withSilent
      rw [hsilent]
      rfl
    unfold tileComplete
    rw [hd]
    dsimp only
    rw [hgo, if_neg (by decide), hres, ← hu, hplace]
  · rw [dispAt_congr (hdata.ctx_eq _), hu]
    exact dispAt_setDisp hd
  · rw [hland b]
    have hbyte : rdByte b u = rdByte b s := by rw [hu, hx]; rfl
    rw [hbyte]
  · rw [hu, hx]
    rfl

include hsusp

theorem tileComplete_clean (hflag : flagged (tileChecks d.words d.result d.poisoned) = false) : Gives (.tileComplete e env) s fun t =>
    entryDone e t ∧ landed (lagoonBase (eSpindle d.words) + tOutDst d.words) (outBytes (ef d.words 2 15 12) d.result) s t ∧
      counts (SPN_CNT_TILES (eSpindle d.words)) 1 s t ∧ SameRegs [SPN_CNT_TILES (eSpindle d.words)] s t := by
  obtain ⟨v, hv, hdv, hland, hregs⟩ := tileComplete_writes hd hst hkind hpass hsilent hhere hhit
  have hjudge : judgeOutput e (tileChecks d.words d.result d.poisoned) v = acceptOwn e v := by
    unfold judgeOutput
    rw [hdv]
    dsimp only
    rw [noteChecks_clean hflag, hflag, hsusp]
    rfl
  obtain ⟨hwork, hdisp, hcount, -⟩ := acceptOwn_spec hdv
  refine gives_run_of (g := fun _ => acceptOwn e v) rfl (hv.trans hjudge) ⟨entryDone_after ?_, landed_after (landed_of_mem hland hwork.mem),
    counts_after ?_, sameRegs_after fun o ho => (hwork.2 o ho).trans (hregs o List.not_mem_nil)⟩
  · unfold entryDone
    rw [hdisp]
    rfl
  · have hc := hcount hkind
    unfold counts at hc ⊢
    rw [hc, hregs _ List.not_mem_nil]

theorem tileComplete_suspect (hflag : flagged (tileChecks d.words d.result d.poisoned) = true) (hspares : hasSpares s = true) :
    Gives (.tileComplete e env) s fun t =>
      (dispAt e t).map (·.st) = some .suspect ∧
        landed (lagoonBase (eSpindle d.words) + tOutDst d.words) (outBytes (ef d.words 2 15 12) d.result) s t ∧ counts (INT_CNT 0) 1 s t ∧
        ∃ x ∈ (spn (eSpindle d.words) t).locks, x = (e, tOutDst d.words, (outBytes (ef d.words 2 15 12) d.result).length) := by
  obtain ⟨v, hv, hdv, hland, hregs⟩ := tileComplete_writes hd hst hkind hpass hsilent hhere hhit
  obtain ⟨u, hu⟩ : ∃ u, u = noteChecks (eSpindle d.words) e.ctx.toNat (eSlot d.words) (tileChecks d.words d.result d.poisoned) v := ⟨_, rfl⟩
  have hnote := flagged_noteChecks (eSpindle d.words) e.ctx.toNat (eSlot d.words) (tileChecks d.words d.result d.poisoned) v
  rw [← hu] at hnote
  obtain ⟨⟨r, k, hform⟩, hnote⟩ := hnote
  have hdu : dispAt e u = some d := by
    rw [← hdv, hform]
    exact dispAt_congr rfl
  have hint (o : Nat) (ho : o < 0x1000000) : rd o u = rd o s := by
    refine (hnote o ?_).trans (hregs o List.not_mem_nil)
    simp only [checkRegs, List.mem_cons, List.not_mem_nil, or_false, SPN_ERR, SPN_ERR_INFO, SPN_CNT_GAUGE_SMAX, SPN_CNT_GAUGE_NORM,
      SPN_CNT_GAUGE_MAG, SPN_CNT_GAUGE_NAN, SPN_CNT_GAUGE]
    omega
  obtain ⟨d', hd'⟩ : ∃ d' : Disp, d' = { d with st := .suspect, susp := some { ({} : Suspect) with
      gauge := true, producer := (physOf (eSpindle d.words) u).getD 0 } } := ⟨_, rfl⟩
  obtain ⟨x, hx⟩ := setDisp_eq e d' u
  obtain ⟨y, hy⟩ : ∃ y, y = bump64 (INT_CNT 0) 1 (setDisp e d' u) := ⟨_, rfl⟩
  obtain ⟨z, hz⟩ : ∃ z, z = lockOut e d' y := ⟨_, rfl⟩
  have hyother (o : Nat) (ho : o ≠ INT_CNT 0) : rd o y = rd o u := by
    rw [hy, hx]
    exact rd_wr_other ho _ _
  have hzy : SameRegs [] y z := by
    rw [hz]
    exact fun _ _ => rfl
  have hsz : hasSpares z = true := by
    rw [← hspares]
    refine hasSpares_congr fun p hp => (hzy _ List.not_mem_nil).trans ((hyother _ ?_).trans (hint _ ?_))
    · unfold INT_STRIKES INT_CNT
      omega
    · unfold INT_STRIKES
      omega
  have hjudge : judgeOutput e (tileChecks d.words d.result d.poisoned) v = z := by
    have hsuspect : toSuspect e true u = z := by
      unfold toSuspect
      rw [hdu]
      dsimp only
      rw [hsusp]
      refine (if_pos ?_).trans ?_
      · rw [← hsz, hz, hy, hd']
        rfl
      · rw [hz, hy, hd']
        rfl
    unfold judgeOutput
    rw [hdv]
    dsimp only
    rw [← hu, hflag]
    exact hsuspect
  refine gives_run_of (g := fun _ => z) rfl (hv.trans hjudge) ⟨?_, landed_after (landed_of_mem hland ?_), counts_after ?_, ?_⟩
  · have hdz : dispAt e z = some d' := by
      rw [hz, hy]
      exact (dispAt_congr rfl).trans (dispAt_setDisp hdu)
    rw [dispAt_after, hdz, hd']
    rfl
  · rw [hz, hy, hx, hform]
    rfl
  · have hbump : counts (INT_CNT 0) 1 (setDisp e d' u) y := by
      rw [hy]
      exact counts_bump64 _ _ _
    unfold counts at hbump ⊢
    rw [hzy _ List.not_mem_nil, hbump, hx]
    rw [show rd (INT_CNT 0) { u with ctxs := x } = rd (INT_CNT 0) s from hint _ (by unfold INT_CNT; decide)]
  · refine ⟨_, ?_, rfl⟩
    rw [spn_after, hz]
    unfold lockOut
    rw [spn_modSpn, hd', if_pos rfl]
    have hrange : outRange d' = (tOutDst d.words, (outBytes (ef d.words 2 15 12) d.result).length) := by
      rw [hd']
      unfold outRange
      rw [if_pos hkind]
    rw [hd'] at hrange
    rw [hrange]
    simp

end

/-! ### The retain window closes -/

theorem retainWindow_closes {e : EntryRef} {d : Disp} {s : State} (hd : dispAt e s = some d) (hst : d.st = .done) :
    Gives (.retainWindowClose e) s fun t => (∀ x ∈ (spn (eSpindle d.words) t).windows, x.1 ≠ e) ∧
      (∀ m, m ≠ eSpindle d.words → spn m t = spn m s) ∧ RegsOnly [] { s with spns := t.spns } t := by
  obtain ⟨u, hu⟩ : ∃ u, u = modSpn (eSpindle d.words) (fun x => { x with windows := x.windows.filter fun w => w.1 != e }) s := ⟨_, rfl⟩
  have hf : windowClose e s = u := by
    unfold windowClose
    rw [hd]
    dsimp only
    rw [hst, hu]
    rfl
  refine gives_run_of (g := fun _ => u) rfl hf ⟨fun x hx => ?_, fun m hm => ?_, ?_⟩
  · rw [spn_after, hu, spn_modSpn, if_pos rfl] at hx
    simpa using (List.mem_filter.mp hx).2
  · rw [spn_after, hu, spn_modSpn, if_neg hm]
  · rw [after_spns]
    refine regsOnly_after_of rfl ?_
    rw [hu]
    exact (regEffect_id []).regsOnly _

/-- Settles O46, clause by clause: start, repeat, adapter pass, completion and window of a tile. -/
theorem tensorTiles : Obligations.TensorTiles := by
  intro e env d s
  exact ⟨fun hr hi => tensorEntry_idle hr hi, fun _ hr hi hroom hs hl hsh hfits hstall hsound =>
      tensorEntry_runs hr hi hroom hs hl hsh hfits hstall hsound,
    fun _ hd hst hs hsh hstall hsound => repeatComplete_runs hd hst hs hsh hstall hsound,
    fun hd _ hstall => repeatComplete_stalls hd hstall,
    fun _ hd ha hst hc hp hl hsound => adapterPass_adds hd ha hst hc hp hl hsound,
    fun hd hst hk hp hsi hl hs hhit => ⟨fun hfl => tileComplete_clean hd hst hk hp hsi hl hs hhit hfl,
      fun hfl hsp => tileComplete_suspect hd hst hk hp hsi hl hs hhit hfl hsp⟩,
    fun hr hi hstall => tensorEntry_stalls hr hi hstall, fun hd hst => retainWindow_closes hd hst⟩

end Sys2Proof.Machine
end

section
/-! PROOFS. Replays of suspects (R367 to R370). -/

namespace Sys2Proof.Machine

open Sys2Proof.Safety

/-! ### What a replay computes while spindles change their roles -/

/-- Registers alone change, of those of l. -/
def Registers (l : List Nat) (s t : State) : Prop := (∃ r, t = { s with regs := r }) ∧ SameRegs l s t

theorem registers_wr (o : Nat) (v : W64) (s : State) : Registers [o] s (wr o v s) :=
  ⟨⟨_, rfl⟩, fun _ hp => rd_wr_other (fun he => hp (by rw [he]; exact List.mem_cons_self)) v s⟩

theorem Registers.trans {l : List Nat} {s t u : State} (h : Registers l s t) (h' : Registers l t u) : Registers l s u := by
  obtain ⟨⟨r, rfl⟩, hr⟩ := h
  obtain ⟨⟨r', rfl⟩, hr'⟩ := h'
  exact ⟨⟨r', rfl⟩, fun o ho => (hr' o ho).trans (hr o ho)⟩

theorem Registers.mono {l m : List Nat} {s t : State} (h : Registers l s t) (hm : l ⊆ m) : Registers m s t :=
  ⟨h.1, fun o ho => h.2 o fun hl => ho (hm hl)⟩

theorem Registers.worked {l : List Nat} {s t : State} (h : Registers l s t) : Worked l s t := by
  obtain ⟨⟨r, rfl⟩, hr⟩ := h
  exact ⟨⟨r, s.ctxs, s.spns, rfl⟩, hr⟩

section
variable {p : Nat} (hp : p < 304) {s t : State} (h : Registers [INT_STRIKES p] s t)
include hp h

theorem rd_far (o : Nat) (ho : o < 0x82000 ∨ 0x83000 ≤ o) : rd o t = rd o s := h.2 o (by
  simp only [List.mem_cons, List.not_mem_nil, or_false, INT_STRIKES]
  omega)

theorem region_strikes (r : Nat) : region r t = region r s := by
  have hbase : rd (MEM_RGN_BASE r) t = rd (MEM_RGN_BASE r) s := rd_far hp h _ (.inr (by unfold MEM_RGN_BASE; omega))
  have hsize : rd (MEM_RGN_SIZE r) t = rd (MEM_RGN_SIZE r) s := rd_far hp h _ (.inr (by unfold MEM_RGN_SIZE; omega))
  have hcfg : rd (MEM_RGN_CFG r) t = rd (MEM_RGN_CFG r) s := rd_far hp h _ (.inr (by unfold MEM_RGN_CFG; omega))
  simp only [region, bit, fld, MEM_RGN_CFG_VALID, MEM_RGN_CFG_KIND, MEM_RGN_BASE_BASE, MEM_RGN_SIZE_SIZE, MEM_RGN_CFG_OWNER,
    MEM_RGN_CFG_SEALED, MEM_RGN_CFG_BINDS, MEM_RGN_CFG_HOME, hbase, hsize, hcfg]

theorem freshShard_strikes (c : Nat) (w : List W32) : freshShard c w t = freshShard c w s := by
  have hreg := region_strikes hp h
  obtain ⟨⟨r, rfl⟩, -⟩ := h
  unfold freshShard shardOf
  simp only [hreg]
  rfl

theorem replayRows_strikes (c : Nat) (w : List W32) (widen step : Nat) (rows : List (List W32)) (badRows : List Nat) (env : UnitEnv) :
    replayRows c w widen step rows badRows env t = replayRows c w widen step rows badRows env s := by
  have hreg := region_strikes hp h
  have hshard := freshShard_strikes hp h c w
  obtain ⟨⟨r, rfl⟩, -⟩ := h
  unfold replayRows
  rw [hshard]
  cases freshShard c w s with
  | none => rfl
  | some sh =>
    dsimp only
    simp only [hreg, runTile_congr (s := s) (t := { s with regs := r }) rfl rfl, adapterRows_congr (s := s) (t := { s with regs := r }) rfl]
    rfl

theorem replayTile_strikes (e : EntryRef) (d : Disp) (env : UnitEnv) : replayTile e d env t = replayTile e d env s := by
  have hrows := replayRows_strikes hp h
  have hstep : rd (WV_STEP e.ctx.toNat) t = rd (WV_STEP e.ctx.toNat) s := rd_far hp h _ (.inl (by
    have := e.ctx.isLt
    unfold WV_STEP
    omega))
  unfold replayTile
  simp only [hrows, hstep]
  obtain ⟨⟨r, rfl⟩, -⟩ := h
  rfl

end

/-! ### The end of a replay, before its outcome -/

/-- What replays of programs and tiles leave: the witness is free, and a tile's cycles are counted. -/
def replayed (e : EntryRef) (d : Disp) (p : Nat) (env : UnitEnv) (s : State) : State :=
  if eKind d.words = kTensor then countReplay e d env (freeWitness p s) else freeWitness p s

section
variable {e : EntryRef} {d : Disp} {p : Nat} {s : State} (hd : dispAt e s = some d) (hp : p < 304) (hph : phState p s = phWitness)
include hp hph

omit hp in
theorem freeWitness_spec : Registers [INT_STRIKES p] s (freeWitness p s) ∧ phState p (freeWitness p s) = phSpare := by
  unfold freeWitness
  rw [if_pos (by rw [hph]; rfl)]
  exact ⟨registers_wr _ _ s, fld_setFld_same (INT_STRIKES_STATE p) _ s (show 31 < 64 by decide)⟩

theorem replayed_spec (env : UnitEnv) : Registers [INT_STRIKES p, SPN_CNT_ARRAY_CYC (eSpindle d.words)] s (replayed e d p env s) ∧
    phState p (replayed e d p env s) = phSpare ∧ (eKind d.words = kTensor →
      rd (SPN_CNT_ARRAY_CYC (eSpindle d.words)) (replayed e d p env s) =
        rd (SPN_CNT_ARRAY_CYC (eSpindle d.words)) (countReplay e d env s)) := by
  obtain ⟨hregs, hspare⟩ := freeWitness_spec hph
  obtain ⟨u, hu⟩ : ∃ u, u = freeWitness p s := ⟨_, rfl⟩
  unfold replayed
  rw [← hu] at hregs hspare ⊢
  split
  · refine ⟨(hregs.mono (by simp)).trans ((registers_wr _ _ u).mono (by simp)), ?_, fun _ => ?_⟩
    · refine (fld_congr_rd (f := INT_STRIKES_STATE p) (rd_wr_other ?_ _ u)).trans hspare
      simp only [INT_STRIKES_STATE, INT_STRIKES, SPN_CNT_ARRAY_CYC]
      omega
    · have hcyc : rd (SPN_CNT_ARRAY_CYC (eSpindle d.words)) u = rd (SPN_CNT_ARRAY_CYC (eSpindle d.words)) s :=
        rd_far hp hregs _ (.inr (by unfold SPN_CNT_ARRAY_CYC; omega))
      obtain ⟨r, hr⟩ := hregs.1
      have hadapter : tileAdapter e.ctx.toNat d.words u = tileAdapter e.ctx.toNat d.words s := by rw [hr]; rfl
      unfold countReplay bump64
      rw [hadapter, rd_wr_same, rd_wr_same, hcyc]
  next hk => exact ⟨hregs.mono (by simp), hspare, fun h => absurd h hk⟩

include hd

theorem witnessComplete_eq {result : List W32} {flag : Bool} {env : UnitEnv} {x : Suspect} (hst : d.st = .suspect)
    (hkind : eKind d.words = kTensor ∨ eKind d.words = kVector) (hx : d.susp = some x) (hwit : x.witness = some p) (hloc : x.local_ = none)
    (hreef : x.reef = false) (hue : env.memUe = []) (hce : env.memCe = []) (hwait : replayWaits e d s = false) :
    witnessComplete e result flag env s =
      outcome e (witnessed e d result flag env s).1 (witnessed e d result flag env s).2 (replayed e d p env s) := by
  obtain ⟨hregs, -⟩ := freeWitness_spec hph
  have hsample : (eKind d.words == kSample) = false := by rcases hkind with h | h <;> rw [h] <;> rfl
  have hgo : ((d.susp.bind (·.local_)).isSome || phState p s != phWitness || replayWaits e d s) = false := by
    rw [hx, hph, hwait]
    dsimp only [Option.bind_some]
    rw [hloc]
    rfl
  have hw : d.susp.bind (·.witness) = some p := by
    rw [hx]
    exact hwit
  have hr : (d.susp.map (·.reef)).getD false = false := by
    rw [hx]
    exact hreef
  unfold witnessComplete
  rw [hd]
  dsimp only
  rw [hst, if_neg (by decide), hsample, if_neg (by decide), hw]
  dsimp only
  rw [hgo, if_neg (by decide), memEnv_sound hue hce, hr]
  unfold witnessed replayed
  by_cases hk : eKind d.words = kTensor
  · rw [if_pos hk, if_pos hk, if_pos (by rw [hk]; rfl), replayTile_strikes hp hregs]
  · rw [if_neg hk, if_neg hk, if_neg (fun h => hk (by simpa using h))]
    rfl

omit hp hph in
theorem witnessComplete_waits {result : List W32} {flag : Bool} {env : UnitEnv} {x : Suspect} (hst : d.st = .suspect)
    (hkind : eKind d.words = kTensor ∨ eKind d.words = kVector) (hx : d.susp = some x) (hwit : x.witness = some p)
    (hwait : replayWaits e d s = true) : Gives (.witnessComplete e result flag env) s fun t => RegsOnly [] s t := by
  have hsample : (eKind d.words == kSample) = false := by rcases hkind with h | h <;> rw [h] <;> rfl
  have hw : d.susp.bind (·.witness) = some p := by
    rw [hx]
    exact hwit
  have hf : witnessComplete e result flag env s = s := by
    unfold witnessComplete
    rw [hd]
    dsimp only
    rw [hst, if_neg (by decide), hsample, if_neg (by decide), hw]
    dsimp only
    rw [hwait, Bool.or_true, if_pos rfl]
  exact gives_run_of (g := id) rfl hf (regsOnly_after ((regEffect_id []).regsOnly s))

end

end Sys2Proof.Machine
end

section
/-! PROOFS. Outcomes of suspects, and strikes (R370, R372). -/

namespace Sys2Proof.Machine

open Sys2Proof.Safety

/-! ### Strikes -/

/-- A strike was given: registers, strikes, soundings and fences change. -/
def Struck (s t : State) : Prop := ∃ r k so n, t = { s with regs := r, strikes := k, sounds := so, spns := n }

theorem Struck.trans {s t u : State} (h : Struck s t) (h' : Struck t u) : Struck s u := by
  obtain ⟨r, k, so, n, rfl⟩ := h
  obtain ⟨r', k', so', n', rfl⟩ := h'
  exact ⟨r', k', so', n', rfl⟩

/-- Registers that a strike leaves: counts of suspects, and what lies beyond the spindles' roles when soundings name spindles. -/
def StrikeKept (s t : State) : Prop := ∀ o, o = INT_CNT 2 ∨ o = INT_CNT 4 ∨ o = INT_CNT 7 → rd o t = rd o s

/-- Every sounding that waits names a spindle of the package. -/
def SoundsHere (s : State) : Prop := ∀ y ∈ s.sounds, y.unit < 304

/-- Registers beyond those of the spindles' roles, while soundings name spindles of the package. -/
def FarKept (s t : State) : Prop := SoundsHere s → SoundsHere t ∧ ∀ o, 0x83000 ≤ o → rd o t = rd o s

/-- A step of a strike. -/
structure StrikeStep (s t : State) : Prop where
  form : Struck s t
  counts : StrikeKept s t
  far : FarKept s t

theorem StrikeStep.trans {s t u : State} (h : StrikeStep s t) (h' : StrikeStep t u) : StrikeStep s u :=
  ⟨h.form.trans h'.form, fun o ho => (h'.counts o ho).trans (h.counts o ho), fun hs =>
    ⟨(h'.far (h.far hs).1).1, fun o ho => ((h'.far (h.far hs).1).2 o ho).trans ((h.far hs).2 o ho)⟩⟩

theorem strikeStep_wr {o : Nat} (h : o < 0x83000) (hc : o ≠ INT_CNT 2 ∧ o ≠ INT_CNT 4 ∧ o ≠ INT_CNT 7) (v : W64) (s : State) :
    StrikeStep s (wr o v s) := by
  obtain ⟨h2, h4, h7⟩ := hc
  refine ⟨⟨_, s.strikes, s.sounds, s.spns, rfl⟩, fun q hq => rd_wr_other ?_ v s, fun hs => ⟨hs, fun q hq => rd_wr_other (by omega) v s⟩⟩
  rcases hq with rfl | rfl | rfl
  · exact h2.symm
  · exact h4.symm
  · exact h7.symm

/-- A change of a spindle's role, of a number that may be beyond the package when no claim is made of what lies there. -/
theorem strikeStep_role {p : Nat} (f : FRef) (hf : f.off = INT_STRIKES p) (v : Nat) {s : State} (hp : SoundsHere s → p < 304) :
    StrikeStep s (setFld f v s) := by
  refine ⟨⟨_, s.strikes, s.sounds, s.spns, rfl⟩, fun q hq => rd_setFld_other f v s ?_, fun hs => ⟨hs, fun q hq =>
    rd_setFld_other f v s ?_⟩⟩
  · rw [hf]
    unfold INT_STRIKES
    rcases hq with rfl | rfl | rfl
    · unfold INT_CNT
      omega
    · unfold INT_CNT
      omega
    · unfold INT_CNT
      omega
  · have := hp hs
    rw [hf]
    unfold INT_STRIKES
    omega

theorem strikeStep_soundNext (s : State) : StrikeStep s (soundNext s) := by
  have hbusy (f : FRef) (hf : f.off = INT_STATUS ∨ f.off = INT_SOUND_STATUS) (v : Nat) (u : State) : StrikeStep u (setFld f v u) := by
    refine strikeStep_wr ?_ ?_ _ u
    · rcases hf with h | h <;> rw [h] <;> decide
    · rcases hf with h | h <;> rw [h] <;> decide
  unfold soundNext
  split
  · exact (hbusy INT_STATUS_SOUND_BUSY (.inl rfl) _ s).trans (hbusy INT_SOUND_STATUS_BUSY (.inr rfl) _ _)
  next x hx =>
    extract_lets u v w
    have hmem : x ∈ s.sounds := List.mem_of_find?_eq_some hx
    have hu : StrikeStep s u := by
      refine ⟨⟨s.regs, s.strikes, _, s.spns, rfl⟩, fun _ _ => rfl, fun hs => ⟨fun y hy => ?_, fun _ _ => rfl⟩⟩
      rcases List.mem_cons.mp hy with rfl | hy
      · exact hs y hmem
      · exact hs y (List.mem_of_mem_erase hy)
    have hv : StrikeStep u v := by
      unfold v
      split
      · exact ⟨⟨_, _, _, _, rfl⟩, fun _ _ => rfl, fun hs => ⟨hs, fun _ _ => rfl⟩⟩
      · exact strikeStep_wr (by decide) (by decide) _ u
    have hw : StrikeStep v w := (hbusy INT_STATUS_SOUND_BUSY (.inl rfl) 1 v).trans (hbusy INT_SOUND_STATUS_BUSY (.inr rfl) 1 _)
    have hall := (hu.trans hv).trans hw
    split
    · refine hall.trans (strikeStep_role (INT_STRIKES_STATE x.unit) rfl phSounding fun hs => ?_)
      have hsounds : w.sounds = x :: s.sounds.erase x := by
        unfold w v
        split <;> rfl
      exact hs x (by rw [hsounds]; exact List.mem_cons_self)
    · exact hall

theorem strikeStep_schedule {x : Sound} {s : State} (hx : SoundsHere s → x.unit < 304) : StrikeStep s (schedule x s) := by
  unfold schedule
  split
  · exact ⟨⟨_, _, _, _, rfl⟩, fun _ _ => rfl, fun hs => ⟨hs, fun _ _ => rfl⟩⟩
  · extract_lets u
    have hu : StrikeStep s u := by
      refine ⟨⟨s.regs, s.strikes, _, s.spns, rfl⟩, fun _ _ => rfl, fun hs => ⟨fun y hy => ?_, fun _ _ => rfl⟩⟩
      rcases List.mem_append.mp hy with hy | hy
      · exact hs y hy
      · rw [List.mem_singleton.mp hy]
        exact hx hs
    split
    · exact hu
    · exact hu.trans (strikeStep_soundNext u)

theorem physOf_lt {n p : Nat} {s : State} (h : physOf n s = some p) : p < 304 := List.mem_range.mp (List.mem_of_find?_eq_some h)

theorem strikeStep_fence (n cause : Nat) (s : State) : StrikeStep s (fence n cause s) := by
  have hrefl : StrikeStep s s := ⟨⟨_, _, _, _, rfl⟩, fun _ _ => rfl, fun hs => ⟨hs, fun _ _ => rfl⟩⟩
  unfold fence
  split
  · exact hrefl
  next p hp =>
    split
    · exact hrefl
    · extract_lets u
      have hu : StrikeStep s u := by
        refine StrikeStep.trans (t := modSpn n (fun x => { x with fence := some cause }) s) ?_ (strikeStep_wr (by decide) (by decide) _ _)
        exact ⟨⟨s.regs, s.strikes, s.sounds, _, rfl⟩, fun _ _ => rfl, fun hs => ⟨hs, fun _ _ => rfl⟩⟩
      exact hu.trans (strikeStep_schedule fun _ => physOf_lt hp)

/-- A strike: the count rises, memory and dispatch entries stay. -/
theorem strike_spec {p : Nat} (hp : p < 304) (s : State) :
    Struck s (strike p s) ∧ (∀ o, o = INT_CNT 2 ∨ o = INT_CNT 4 → rd o (strike p s) = rd o s) ∧ counts (INT_CNT 7) 1 s (strike p s) ∧
    (SoundsHere s → ∀ o, 0x83000 ≤ o → rd o (strike p s) = rd o s) := by
  unfold strike
  extract_lets l u v st
  have hu : Struck s u ∧ (∀ o, o ≠ INT_CNT 7 → rd o u = rd o s) ∧ counts (INT_CNT 7) 1 s u ∧ u.sounds = s.sounds := by
    unfold u
    exact ⟨⟨_, _, s.sounds, s.spns, rfl⟩, fun o ho => rd_wr_other ho _ _, counts_bump64 _ _ { s with strikes := put s.strikes [] p l }, rfl⟩
  obtain ⟨hform, hother, hcount, hsounds⟩ := hu
  have hv : StrikeStep u v := strikeStep_role (p := p) (INT_STRIKES_COUNT p) rfl _ fun _ => hp
  suffices hall : ∀ t, StrikeStep u t → Struck s t ∧ (∀ o, o = INT_CNT 2 ∨ o = INT_CNT 4 → rd o t = rd o s) ∧ counts (INT_CNT 7) 1 s t ∧
      (SoundsHere s → ∀ o, 0x83000 ≤ o → rd o t = rd o s) by
    split
    · split
      · exact hall _ (hv.trans (strikeStep_fence _ _ v))
      · split
        · exact hall _ ((hv.trans (strikeStep_role (p := p) (INT_STRIKES_STATE p) rfl _ fun _ => hp)).trans
            (strikeStep_schedule fun _ => hp))
        · exact hall _ hv
    · exact hall _ hv
  intro t ht
  refine ⟨hform.trans ht.form, fun o ho => ?_, ?_, fun hs o ho => ?_⟩
  · refine (ht.counts o (by tauto)).trans (hother o ?_)
    rcases ho with rfl | rfl <;> decide
  · unfold counts at hcount ⊢
    rw [ht.counts _ (.inr (.inr rfl)), hcount]
  · refine ((ht.far (by unfold SoundsHere; rw [hsounds]; exact hs)).2 o ho).trans (hother o ?_)
    unfold INT_CNT
    omega

end Sys2Proof.Machine
end

section
/-! PROOFS. Suspects that are accepted, replaced or fail (R370, R371). -/

namespace Sys2Proof.Machine

open Sys2Proof.Safety

/-! ### A suspect fails -/

theorem dispAt_flagged {l : List Nat} {e : EntryRef} {s t : State} (h : Flagged l s t) : dispAt e t = dispAt e s := by
  obtain ⟨⟨r, k, rfl⟩, -⟩ := h
  exact dispAt_congr rfl

theorem flagged_intErr {f : FRef} (hf : f.off = INT_ERR) (c slot : Nat) (s : State) : Flagged [INT_ERR, INT_ERR_INFO] s (intErr f c slot s) :=
  flagged_raiseErr (by rw [hf]; simp) (by
    simp only [List.forall_mem_cons, INT_ERR_INFO_CONTEXT, INT_ERR_INFO_SLOT]
    exact ⟨by simp, by simp, fun p hp => absurd hp List.not_mem_nil⟩) _ s

theorem bit_raiseErr_apart {f g : FRef} {info : Nat} {flds : List (FRef × Nat)} (h : f.Apart g) (hg : g.hi < 64)
    (hflds : ∀ p ∈ flds, p.1.off ≠ g.off) (s : State) : bit g (raiseErr f info flds s) = bit g s := by
  have hset (u : State) (hu : rd g.off u = rd g.off s) : bit g (setErr f u) = bit g s := by
    unfold bit setErr
    rw [fld_setFld_apart h hg 1 u, fld_congr_rd hu]
  unfold raiseErr
  split
  · refine hset _ ((regEffect_setFlds flds s).2 _ fun hm => ?_)
    obtain ⟨p, hp, he⟩ := List.mem_map.mp hm
    exact hflds p hp he
  · exact hset s rfl

/-- A failed suspect is one whose rows all become NaN, its error flagged. -/
theorem failEntry_eq {e : EntryRef} {d : Disp} {s : State} (hd : dispAt e s = some d) :
    failEntry e s = acceptNew e (List.replicate d.result.length fpQnanStd) (intErr INT_ERR_SUSPECT_FAIL e.ctx.toNat (eSlot d.words) s) := by
  have hdi : dispAt e (intErr INT_ERR_SUSPECT_FAIL e.ctx.toNat (eSlot d.words) s) = some d :=
    (dispAt_flagged (flagged_intErr rfl _ _ s)).trans hd
  unfold failEntry acceptNew
  rw [hd, hdi]

theorem int_err_not_tiles (n : Nat) : INT_ERR ∉ [SPN_CNT_TILES n] := by
  simp only [List.mem_cons, List.not_mem_nil, or_false, INT_ERR, SPN_CNT_TILES]
  omega

theorem noWindows_flagged {l : List Nat} {s t : State} (h : Flagged l s t) (hw : noWindows s) : noWindows t := by
  obtain ⟨⟨r, k, rfl⟩, -⟩ := h
  exact hw

theorem rdByte_flagged {l : List Nat} {s t : State} (h : Flagged l s t) (b : Nat) : rdByte b t = rdByte b s := by
  obtain ⟨⟨r, k, rfl⟩, -⟩ := h
  rfl

theorem failEntry_spec {e : EntryRef} {d : Disp} {s : State} (hd : dispAt e s = some d) (hwin : noWindows s) :
    suspectFailed e d s (failEntry e s) ∧ (bit INT_ERR_BUDDY_FAIL s = true → bit INT_ERR_BUDDY_FAIL (failEntry e s) = true) := by
  have hflag := flagged_intErr (f := INT_ERR_SUSPECT_FAIL) rfl e.ctx.toNat (eSlot d.words) s
  have hset : bit INT_ERR_SUSPECT_FAIL (intErr INT_ERR_SUSPECT_FAIL e.ctx.toNat (eSlot d.words) s) = true :=
    bit_raiseErr (by decide) (by decide) _ _ s
  have hkeep : bit INT_ERR_BUDDY_FAIL (intErr INT_ERR_SUSPECT_FAIL e.ctx.toNat (eSlot d.words) s) = bit INT_ERR_BUDDY_FAIL s :=
    bit_raiseErr_apart (.inr (.inl (by decide))) (by decide) (by
      simp only [List.forall_mem_cons, INT_ERR_INFO_CONTEXT, INT_ERR_INFO_SLOT]
      exact ⟨by decide, by decide, fun p hp => absurd hp List.not_mem_nil⟩) s
  obtain ⟨u, hu⟩ : ∃ u, u = intErr INT_ERR_SUSPECT_FAIL e.ctx.toNat (eSlot d.words) s := ⟨_, rfl⟩
  rw [failEntry_eq hd, ← hu]
  rw [← hu] at hflag hset hkeep
  obtain ⟨hdisp, hland, hregs⟩ := acceptNew_spec ((dispAt_flagged hflag).trans hd) (noWindows_flagged hflag hwin)
    (List.replicate d.result.length fpQnanStd)
  obtain ⟨t, ht⟩ : ∃ t, t = acceptNew e (List.replicate d.result.length fpQnanStd) u := ⟨_, rfl⟩
  rw [← ht] at hdisp hland hregs ⊢
  have herr : rd INT_ERR t = rd INT_ERR u := hregs _ (int_err_not_tiles _)
  refine ⟨⟨?_, ?_, fun b => ?_⟩, fun hb => ?_⟩
  · unfold entryDone
    rw [hdisp]
    rfl
  · unfold bit at hset ⊢
    rw [fld_congr_rd (f := INT_ERR_SUSPECT_FAIL) herr]
    exact hset
  · rw [hland b, rdByte_flagged hflag]
  · unfold bit at hb hkeep ⊢
    rw [fld_congr_rd (f := INT_ERR_BUDDY_FAIL) herr, hkeep]
    exact hb

theorem suspectFailed_after {e : EntryRef} {d : Disp} {f : State → State} {s u : State} (h : suspectFailed e d u (f s)) :
    suspectFailed e d u (after f s) := by
  obtain ⟨hdone, hbit, hland⟩ := h
  exact ⟨entryDone_after hdone, (bit_after _ f s).trans hbit, landed_after hland⟩

/-- Memory on which a result lands is that of a state before. -/
theorem suspectFailed_of {e : EntryRef} {d d' : Disp} {s u t : State} (h : suspectFailed e d' u t) (hw : d'.words = d.words)
    (hr : d'.result = d.result) (hm : ∀ b, rdByte b u = rdByte b s) : suspectFailed e d s t := by
  obtain ⟨hdone, hbit, hland⟩ := h
  refine ⟨hdone, hbit, fun b => ?_⟩
  rw [hland b, hw, hr, hm]

/-! ### The local replay is due (R369) -/

theorem witnessReplay_not_due {e : EntryRef} {d : Disp} {s : State} (hd : dispAt e s = some d) (h : replayDue d s = false) :
    Gives (.witnessReplay e) s fun t => RegsOnly [] s t := by
  have hf : witnessReplay e s = s := by
    unfold witnessReplay
    rw [hd]
    dsimp only
    rw [h]
    rfl
  exact gives_run_of (g := id) rfl hf (regsOnly_after ((regEffect_id []).regsOnly s))

theorem witnessReplay_sample {e : EntryRef} {d : Disp} {s : State} (hd : dispAt e s = some d) (h : replayDue d s = true)
    (hk : eKind d.words = kSample) :
    Gives (.witnessReplay e) s fun t => dispAt e t = some { d with count := 1 } ∧ RegsOnly [] { s with ctxs := t.ctxs } t := by
  have hf : witnessReplay e s = setDisp e { d with count := 1 } s := by
    unfold witnessReplay
    rw [hd]
    dsimp only
    rw [h, hk]
    rfl
  refine gives_run_of (g := setDisp e { d with count := 1 }) rfl hf ⟨(dispAt_after _ _ s).trans (dispAt_setDisp hd), ?_⟩
  rw [after_ctxs]
  exact regsOnly_after_of rfl (regsOnly_setDisp e _ s)

/-- An entry whose withdrawn witness is p has none. -/
def unwitnessed (p : Nat) (d : Disp) : Disp := match d.susp with
  | some x => if x.witness == some p && x.local_.isNone then { d with susp := some { x with witness := none } } else d
  | none => d

/-- A step whose entries have lost the withdrawn witness p. -/
def withoutWitness (p : Nat) (st : Step) : Step := { st with lists := st.lists.map fun l => (l.1, l.2.map (unwitnessed p)) }

theorem step_dropWitness (p c : Nat) (s : State) : (ctx c (dropWitness p s)).step = (ctx c s).step.map (withoutWitness p) := by
  have hctx : ctx c (dropWitness p s) = { ctx c s with step := (ctx c s).step.map (withoutWitness p) } :=
    lookup_map_entries (f := fun x : Nat × Ctx => (x.1, { x.2 with step := x.2.step.map (withoutWitness p) })) (fun _ => rfl)
      (fun _ => rfl) s.ctxs c
  rw [hctx]

theorem dispAt_dropWitness {e : EntryRef} {d : Disp} {s : State} (hd : dispAt e s = some d) (p : Nat) :
    ∃ d', dispAt e (dropWitness p s) = some d' := by
  unfold dispAt at hd ⊢
  rw [step_dropWitness]
  cases hst : (ctx e.ctx.toNat s).step with
  | none => rw [hst] at hd; cases hd
  | some st =>
    rw [hst] at hd
    have hlist : lookup (withoutWitness p st).lists [] e.phase.toNat = (lookup st.lists [] e.phase.toNat).map (unwitnessed p) :=
      lookup_map_entries (f := fun l : Nat × List Disp => (l.1, l.2.map (unwitnessed p))) (fun _ => rfl) (fun _ => rfl) st.lists _
    refine ⟨unwitnessed p d, ?_⟩
    show (lookup (withoutWitness p st).lists [] e.phase.toNat)[e.idx]? = _
    rw [hlist, List.getElem?_map]
    exact congrArg _ hd

theorem witnessReplay_starts {e : EntryRef} {d : Disp} {p : Nat} {x : Suspect} {s : State} (hd : dispAt e s = some d)
    (h : replayDue d s = true) (hk : eKind d.words ≠ kSample) (hpick : pickWitness (dieOf s (eSpindle d.words)) s = some p)
    (hx : d.susp = some x) : Gives (.witnessReplay e) s fun t =>
      dispAt e t = some { d with susp := some { x with witness := some p } } ∧ phState p t = phWitness ∧
        RegsOnly [INT_STRIKES p] { s with ctxs := t.ctxs } t := by
  obtain ⟨d', hd'⟩ := dispAt_dropWitness hd p
  obtain ⟨c, hc⟩ : ∃ c, dropWitness p s = { s with ctxs := c } := ⟨_, rfl⟩
  obtain ⟨u, hu⟩ : ∃ u, u = setFld (INT_STRIKES_STATE p) phWitness (dropWitness p s) := ⟨_, rfl⟩
  obtain ⟨y, hy⟩ : ∃ y, y = { d with susp := some { x with witness := some p } } := ⟨_, rfl⟩
  have hf : witnessReplay e s = setDisp e y u := by
    unfold witnessReplay
    rw [hd]
    dsimp only
    rw [h, if_neg (by decide), if_neg (by simpa using hk), hpick, hx, hy, hu]
    rfl
  have hdu : dispAt e u = some d' := by
    rw [← hd', hu]
    exact dispAt_congr rfl
  obtain ⟨z, hz⟩ := setDisp_eq e y u
  refine gives_run_of (g := fun _ => setDisp e y u) rfl hf ⟨?_, ?_, ?_⟩
  · rw [dispAt_after, dispAt_setDisp hdu, hy]
  · refine (fld_after _ _ _).trans ?_
    rw [hz, hu]
    exact fld_setFld_same (INT_STRIKES_STATE p) phWitness _ (show 31 < 64 by decide)
  · rw [after_ctxs]
    refine regsOnly_after_of rfl ?_
    rw [hz, hu, hc]
    exact ⟨rfl, fun _ => ⟨rfl, rfl⟩, fun _ => rfl, fun o ho => rd_setFld_other (INT_STRIKES_STATE p) _ _ (by simpa [INT_STRIKES_STATE] using ho)⟩

theorem witnessReplay_waits {e : EntryRef} {d : Disp} {s : State} (hd : dispAt e s = some d) (h : replayDue d s = true)
    (hk : eKind d.words = kTensor ∨ eKind d.words = kVector) (hpick : pickWitness (dieOf s (eSpindle d.words)) s = none)
    (hspares : hasSpares s = true) : Gives (.witnessReplay e) s fun t => RegsOnly [] s t := by
  have hf : witnessReplay e s = s := by
    unfold witnessReplay
    rw [hd]
    dsimp only
    rw [h, if_neg (by decide), if_neg (by rcases hk with hk | hk <;> rw [hk] <;> decide), hpick]
    exact if_pos hspares
  exact gives_run_of (g := id) rfl hf (regsOnly_after ((regEffect_id []).regsOnly s))

/-- Without a buddy, or for a program, a suspect that is not accepted fails. -/
theorem askBuddy_fails {e : EntryRef} {d : Disp} {s : State} (hd : dispAt e s = some d)
    (h : bit (INT_BUDDY_VALID e.ctx.toNat) s = false ∨ eKind d.words = kVector) : askBuddy e s = failEntry e s := by
  unfold askBuddy
  rw [hd]
  refine if_neg fun hgo => ?_
  simp only [Bool.and_eq_true, beq_iff_eq] at hgo
  obtain ⟨hv, hk⟩ := hgo
  rcases h with h | h
  · rw [h] at hv
    cases hv
  · rw [h] at hk
    cases hk

theorem witnessReplay_fails {e : EntryRef} {d : Disp} {s : State} (hd : dispAt e s = some d) (h : replayDue d s = true)
    (hk : eKind d.words = kTensor ∨ eKind d.words = kVector) (hpick : pickWitness (dieOf s (eSpindle d.words)) s = none)
    (hspares : hasSpares s = false) (hb : bit (INT_BUDDY_VALID e.ctx.toNat) s = false ∨ eKind d.words = kVector) (hwin : noWindows s) :
    Gives (.witnessReplay e) s fun t => suspectFailed e d s t := by
  have hf : witnessReplay e s = failEntry e s := by
    unfold witnessReplay
    rw [hd]
    dsimp only
    rw [h, if_neg (by decide), if_neg (by rcases hk with hk | hk <;> rw [hk] <;> decide), hpick]
    exact (if_neg (by rw [hspares]; decide)).trans (askBuddy_fails hd hb)
  exact gives_run_of (g := failEntry e) rfl hf (suspectFailed_after (failEntry_spec hd hwin).1)

end Sys2Proof.Machine
end

section
/-! PROOFS. How a local replay and a buddy's answer end (R370, R371). -/

namespace Sys2Proof.Machine

open Sys2Proof.Safety

theorem Registers.dispAt {l : List Nat} {e : EntryRef} {s t : State} (h : Registers l s t) : dispAt e t = dispAt e s := by
  obtain ⟨⟨r, rfl⟩, -⟩ := h
  exact dispAt_congr rfl

theorem Registers.noWindows {l : List Nat} {s t : State} (h : Registers l s t) (hw : noWindows s) : noWindows t := by
  obtain ⟨⟨r, rfl⟩, -⟩ := h
  exact hw

theorem Registers.rdByte {l : List Nat} {s t : State} (h : Registers l s t) (b : Nat) : rdByte b t = rdByte b s := by
  obtain ⟨⟨r, rfl⟩, -⟩ := h
  rfl

theorem Registers.sounds {l : List Nat} {s t : State} (h : Registers l s t) : t.sounds = s.sounds := by
  obtain ⟨⟨r, rfl⟩, -⟩ := h
  rfl

/-! ### Outcomes -/

theorem outcome_same {e : EntryRef} {d : Disp} {rows : List W32} {s : State} (hd : dispAt e s = some d) (h : rows = d.result) (bad : Bool) :
    outcome e rows bad s = acceptOwn e (bump64 (INT_CNT 1) 1 s) := by
  unfold outcome
  rw [hd]
  dsimp only
  rw [if_pos (by rw [h]; exact beq_self_eq_true _)]

theorem outcome_clean {e : EntryRef} {d : Disp} {x : Suspect} {rows : List W32} {s : State} (hd : dispAt e s = some d) (hx : d.susp = some x)
    (h : rows ≠ d.result) : outcome e rows false s = strikeProducer x (acceptNew e rows (bump64 (INT_CNT 2) 1 s)) := by
  unfold outcome
  rw [hd]
  dsimp only
  rw [if_neg (by simpa using h), if_pos (by decide), hx]

theorem outcome_flagged {e : EntryRef} {d : Disp} {x : Suspect} {rows : List W32} {s : State} (hd : dispAt e s = some d) (hx : d.susp = some x)
    (h : rows ≠ d.result) : outcome e rows true s = askBuddy e (setDisp e { d with susp := some { x with local_ := some rows } } s) := by
  unfold outcome
  rw [hd]
  dsimp only
  rw [if_neg (by simpa using h), if_neg (by decide), hx]
  rfl

/-- An entry accepted with its own result, one count risen. -/
theorem acceptOwn_counted {e : EntryRef} {d : Disp} {s : State} (hd : dispAt e s = some d) {o : Nat} (ho : o < 0x1000000) :
    Worked [o, SPN_CNT_TILES (eSpindle d.words)] s (acceptOwn e (bump64 o 1 s)) ∧ entryDone e (acceptOwn e (bump64 o 1 s)) ∧
    counts o 1 s (acceptOwn e (bump64 o 1 s)) ∧
    (eKind d.words = kTensor → counts (SPN_CNT_TILES (eSpindle d.words)) 1 s (acceptOwn e (bump64 o 1 s))) := by
  have hb : counts o 1 s (bump64 o 1 s) := counts_bump64 _ _ s
  obtain ⟨u, hu⟩ : ∃ u, u = bump64 o 1 s := ⟨_, rfl⟩
  have hregs : Registers [o] s u := by
    rw [hu]
    exact registers_wr _ _ s
  rw [← hu] at hb ⊢
  obtain ⟨hwork, hdisp, hcount, -⟩ := acceptOwn_spec (hregs.dispAt.trans hd)
  have hne : o ≠ SPN_CNT_TILES (eSpindle d.words) := by
    unfold SPN_CNT_TILES
    omega
  refine ⟨(hregs.worked.mono (by simp)).trans (hwork.mono (by simp)), ?_, ?_, fun hk => ?_⟩
  · unfold entryDone
    rw [hdisp]
    rfl
  · unfold counts at hb ⊢
    rw [hwork.2 o (by simpa using hne), hb]
  · have hc := hcount hk
    unfold counts at hc ⊢
    rw [hc, hregs.2 _ (by simpa using hne.symm)]

/-- An entry accepted with another result, one count risen, its producer struck when the event gives a strike. -/
theorem acceptNew_counted {e : EntryRef} {d : Disp} {x : Suspect} {s : State} (hd : dispAt e s = some d) (hwin : noWindows s)
    (hprod : x.producer < 304) (rows : List W32) {o : Nat} (ho : o = INT_CNT 2 ∨ o = INT_CNT 4) :
    dispAt e (strikeProducer x (acceptNew e rows (bump64 o 1 s))) = some { d with st := .done, result := rows } ∧
    landed (outPlace d.words) (outForm d.words rows) s (strikeProducer x (acceptNew e rows (bump64 o 1 s))) ∧
    counts o 1 s (strikeProducer x (acceptNew e rows (bump64 o 1 s))) ∧
    (strikeable x = true → counts (INT_CNT 7) 1 s (strikeProducer x (acceptNew e rows (bump64 o 1 s)))) := by
  have hb : counts o 1 s (bump64 o 1 s) := counts_bump64 _ _ s
  obtain ⟨u, hu⟩ : ∃ u, u = bump64 o 1 s := ⟨_, rfl⟩
  have hregs : Registers [o] s u := by
    rw [hu]
    exact registers_wr _ _ s
  rw [← hu] at hb ⊢
  obtain ⟨hdisp, hland, hkeep⟩ := acceptNew_spec (hregs.dispAt.trans hd) (hregs.noWindows hwin) rows
  obtain ⟨v, hv⟩ : ∃ v, v = acceptNew e rows u := ⟨_, rfl⟩
  rw [← hv] at hdisp hland hkeep ⊢
  have hlow (i : Nat) (hi : i < 0x1000000) : rd i v = rd i u := hkeep i (by
    simp only [List.mem_cons, List.not_mem_nil, or_false, SPN_CNT_TILES]
    omega)
  have hlt : o < 0x1000000 := by rcases ho with rfl | rfl <;> decide
  have hcv : counts o 1 s v := by
    unfold counts at hb ⊢
    rw [hlow o hlt, hb]
  have hsv : rd (INT_CNT 7) v = rd (INT_CNT 7) s := (hlow _ (by decide)).trans (hregs.2 _ (by rcases ho with rfl | rfl <;> decide))
  have hlv : landed (outPlace d.words) (outForm d.words rows) s v := fun b => by rw [hland b, hregs.rdByte]
  unfold strikeProducer
  split
  · obtain ⟨⟨r, k, so, n, hform⟩, hother, hcount, -⟩ := strike_spec hprod v
    obtain ⟨t, ht⟩ : ∃ t, t = strike x.producer v := ⟨_, rfl⟩
    rw [← ht] at hform hother hcount ⊢
    refine ⟨?_, landed_of_mem hlv (by rw [hform]), ?_, fun _ => ?_⟩
    · rw [← hdisp, hform]
      exact dispAt_congr rfl
    · unfold counts at hcv ⊢
      rw [hother o ho, hcv]
    · unfold counts at hcount ⊢
      rw [hcount, hsv]
  next hno => exact ⟨hdisp, hlv, hcv, fun h => absurd h hno⟩

/-! ### The witness's result -/

section
variable {e : EntryRef} {d : Disp} {p : Nat} {s : State} {result : List W32} {flag : Bool} {env : UnitEnv} {x : Suspect}
  (hd : dispAt e s = some d) (hp : p < 304) (hph : phState p s = phWitness) (hst : d.st = .suspect)
  (hkind : eKind d.words = kTensor ∨ eKind d.words = kVector) (hx : d.susp = some x) (hwit : x.witness = some p) (hloc : x.local_ = none)
  (hreef : x.reef = false) (hue : env.memUe = []) (hce : env.memCe = []) (hwait : replayWaits e d s = false)
include hd hp hph hst hkind hx hwit hloc hreef hue hce hwait

theorem witnessComplete_accepts (h : (witnessed e d result flag env s).1 = d.result) :
    Gives (.witnessComplete e result flag env) s fun t =>
      entryDone e t ∧ phState p t = phSpare ∧ counts (INT_CNT 1) 1 s t ∧ SameMem s t ∧
        (eKind d.words = kTensor → counts (SPN_CNT_TILES (eSpindle d.words)) 1 s t ∧
          rd (SPN_CNT_ARRAY_CYC (eSpindle d.words)) t = rd (SPN_CNT_ARRAY_CYC (eSpindle d.words)) (countReplay e d env s)) ∧
        SameRegs [INT_STRIKES p, INT_CNT 1, SPN_CNT_TILES (eSpindle d.words), SPN_CNT_ARRAY_CYC (eSpindle d.words)] s t := by
  obtain ⟨hregs, hspare, hcyc⟩ := replayed_spec (e := e) (d := d) hp hph env
  have hf := witnessComplete_eq (result := result) (flag := flag) hd hp hph hst hkind hx hwit hloc hreef hue hce hwait
  obtain ⟨v, hv⟩ : ∃ v, v = replayed e d p env s := ⟨_, rfl⟩
  rw [← hv] at hregs hspare hcyc hf
  have hdv := hregs.dispAt.trans hd
  rw [outcome_same hdv h] at hf
  obtain ⟨hwork, hdone, hcount, htiles⟩ := acceptOwn_counted hdv (o := INT_CNT 1) (by decide)
  rw [← hf] at hwork hdone hcount htiles
  have hvs (o : Nat) (h1 : o ≠ INT_STRIKES p) (h2 : o ≠ SPN_CNT_ARRAY_CYC (eSpindle d.words)) : rd o v = rd o s := hregs.2 o (by
    simpa using ⟨h1, h2⟩)
  have hmem : SameMem s v := hregs.worked.sameMem
  refine gives_run (f := witnessComplete e result flag env) rfl ⟨entryDone_after hdone, ?_, counts_after ?_, sameMem_after fun a =>
    ⟨(hwork.sameMem a).1.trans (hmem a).1, (hwork.sameMem a).2.trans (hmem a).2⟩, fun hk => ⟨counts_after ?_, ?_⟩, sameRegs_after fun o ho => ?_⟩
  · refine (fld_after _ _ _).trans ((fld_congr_rd (f := INT_STRIKES_STATE p) (hwork.2 _ ?_)).trans hspare)
    simp only [List.mem_cons, List.not_mem_nil, or_false, INT_STRIKES_STATE, INT_STRIKES, INT_CNT, SPN_CNT_TILES]
    omega
  · unfold counts at hcount ⊢
    rw [hcount, hvs]
    · unfold INT_CNT INT_STRIKES
      omega
    · unfold INT_CNT SPN_CNT_ARRAY_CYC
      omega
  · have hc := htiles hk
    unfold counts at hc ⊢
    rw [hc, hvs]
    · unfold SPN_CNT_TILES INT_STRIKES
      omega
    · unfold SPN_CNT_TILES SPN_CNT_ARRAY_CYC
      omega
  · rw [rd_after, hwork.2, hcyc hk]
    simp only [List.mem_cons, List.not_mem_nil, or_false, SPN_CNT_ARRAY_CYC, INT_CNT, SPN_CNT_TILES]
    omega
  · simp only [List.mem_cons, List.not_mem_nil, or_false, not_or] at ho
    obtain ⟨h1, h2, h3, h4⟩ := ho
    exact (hwork.2 o (by simpa using ⟨h2, h3⟩)).trans (hvs o h1 h4)

theorem witnessComplete_replaces (hwin : noWindows s) (hprod : x.producer < 304) (h : (witnessed e d result flag env s).1 ≠ d.result)
    (hclean : (witnessed e d result flag env s).2 = false) : Gives (.witnessComplete e result flag env) s fun t =>
      entryDone e t ∧ (dispAt e t).map (·.result) = some (witnessed e d result flag env s).1 ∧
        landed (outPlace d.words) (outForm d.words (witnessed e d result flag env s).1) s t ∧
        counts (INT_CNT 2) 1 s t ∧ (strikeable x = true → counts (INT_CNT 7) 1 s t) := by
  obtain ⟨hregs, -, -⟩ := replayed_spec (e := e) (d := d) hp hph env
  have hf := witnessComplete_eq (result := result) (flag := flag) hd hp hph hst hkind hx hwit hloc hreef hue hce hwait
  obtain ⟨v, hv⟩ : ∃ v, v = replayed e d p env s := ⟨_, rfl⟩
  rw [← hv] at hregs hf
  have hdv := hregs.dispAt.trans hd
  rw [hclean, outcome_clean hdv hx h] at hf
  obtain ⟨hdisp, hland, hcount, hstrike⟩ := acceptNew_counted hdv (hregs.noWindows hwin) hprod (witnessed e d result flag env s).1
    (o := INT_CNT 2) (.inl rfl)
  rw [← hf] at hdisp hland hcount hstrike
  have hcnt (i : Nat) (hi : i < 11) : rd (INT_CNT i) v = rd (INT_CNT i) s := hregs.2 _ (by
    simp only [List.mem_cons, List.not_mem_nil, or_false, INT_STRIKES, INT_CNT, SPN_CNT_ARRAY_CYC]
    omega)
  refine gives_run (f := witnessComplete e result flag env) rfl ⟨entryDone_after ?_, ?_, landed_after fun b => ?_, counts_after ?_,
    fun hsx => counts_after ?_⟩
  · unfold entryDone
    rw [hdisp]
    rfl
  · rw [dispAt_after, hdisp]
    rfl
  · rw [hland b, hregs.rdByte]
  · unfold counts at hcount ⊢
    rw [hcount, hcnt 2 (by decide)]
  · have hc := hstrike hsx
    unfold counts at hc ⊢
    rw [hc, hcnt 7 (by decide)]

theorem witnessComplete_fails (hwin : noWindows s) (h : (witnessed e d result flag env s).1 ≠ d.result)
    (hflag : (witnessed e d result flag env s).2 = true) (hb : bit (INT_BUDDY_VALID e.ctx.toNat) s = false ∨ eKind d.words = kVector) :
    Gives (.witnessComplete e result flag env) s fun t => suspectFailed e d s t := by
  obtain ⟨hregs, -, -⟩ := replayed_spec (e := e) (d := d) hp hph env
  have hf := witnessComplete_eq (result := result) (flag := flag) hd hp hph hst hkind hx hwit hloc hreef hue hce hwait
  obtain ⟨v, hv⟩ : ∃ v, v = replayed e d p env s := ⟨_, rfl⟩
  rw [← hv] at hregs hf
  have hdv := hregs.dispAt.trans hd
  obtain ⟨y, hy⟩ : ∃ y : Disp, y = { d with susp := some { x with local_ := some (witnessed e d result flag env s).1 } } := ⟨_, rfl⟩
  rw [hflag, outcome_flagged hdv hx h, ← hy] at hf
  obtain ⟨z, hz⟩ := setDisp_eq e y v
  have hdw : dispAt e (setDisp e y v) = some y := dispAt_setDisp hdv
  have hwords : y.words = d.words := by rw [hy]
  have hbuddy : bit (INT_BUDDY_VALID e.ctx.toNat) (setDisp e y v) = bit (INT_BUDDY_VALID e.ctx.toNat) s := by
    have hc := e.ctx.isLt
    unfold bit
    rw [hz]
    refine congrArg (· != 0) (fld_congr_rd (f := INT_BUDDY_VALID e.ctx.toNat) (hregs.2 _ ?_))
    simp only [List.mem_cons, List.not_mem_nil, or_false, INT_BUDDY_VALID, INT_BUDDY, INT_STRIKES, SPN_CNT_ARRAY_CYC]
    omega
  rw [askBuddy_fails hdw (by rw [hbuddy, hwords]; exact hb)] at hf
  have hwinw : noWindows (setDisp e y v) := by
    rw [hz]
    exact hregs.noWindows hwin
  have hfail := (failEntry_spec hdw hwinw).1
  rw [← hf] at hfail
  refine gives_run (f := witnessComplete e result flag env) rfl (suspectFailed_after (suspectFailed_of hfail hwords (by rw [hy]) fun b => ?_))
  rw [hz]
  exact hregs.rdByte b

end

/-! ### The buddy's answer -/

theorem buddyAnswer_late {e : EntryRef} {d : Disp} {s : State} (hd : dispAt e s = some d) (h : buddyWaits d = false) (a : BuddyAnswer) :
    Gives (.buddyAnswer e a) s fun t => counts (INT_CNT 5) 1 s t ∧ RegsOnly [INT_CNT 5] s t := by
  have hf : buddyAnswer e a s = bump64 (INT_CNT 5) 1 s := by
    unfold buddyAnswer
    rw [hd]
    dsimp only
    rw [h]
  exact gives_run_of (g := bump64 (INT_CNT 5) 1) rfl hf
    ⟨counts_after (counts_bump64 _ _ s), regsOnly_after (regsOnly_of ⟨_, _, _, rfl⟩ (registers_wr _ _ s).2)⟩

theorem buddyTimeout_late {e : EntryRef} {d : Disp} {s : State} (hd : dispAt e s = some d) (h : buddyWaits d = false) :
    Gives (.buddyTimeout e) s fun t => RegsOnly [] s t := by
  have hf : buddyTimeout e s = s := by
    unfold buddyTimeout
    rw [hd]
    dsimp only
    rw [h]
    rfl
  exact gives_run_of (g := id) rfl hf (regsOnly_after ((regEffect_id []).regsOnly s))

section
variable {e : EntryRef} {d : Disp} {x : Suspect} {s : State} (hd : dispAt e s = some d) (hwaits : buddyWaits d = true)
  (hx : d.susp = some x) (hwin : noWindows s)
include hd hwin

theorem buddyFails_spec : suspectFailed e d s (buddyFails e d s) ∧ bit INT_ERR_BUDDY_FAIL (buddyFails e d s) = true := by
  have hflag := flagged_intErr (f := INT_ERR_BUDDY_FAIL) rfl e.ctx.toNat (eSlot d.words) s
  have hset : bit INT_ERR_BUDDY_FAIL (intErr INT_ERR_BUDDY_FAIL e.ctx.toNat (eSlot d.words) s) = true :=
    bit_raiseErr (by decide) (by decide) _ _ s
  unfold buddyFails
  obtain ⟨u, hu⟩ : ∃ u, u = intErr INT_ERR_BUDDY_FAIL e.ctx.toNat (eSlot d.words) s := ⟨_, rfl⟩
  rw [← hu] at hflag hset ⊢
  obtain ⟨hfail, hkeep⟩ := failEntry_spec ((dispAt_flagged hflag).trans hd) (noWindows_flagged hflag hwin)
  exact ⟨suspectFailed_of hfail rfl rfl (rdByte_flagged hflag), hkeep hset⟩

include hwaits hx

theorem buddy_fails : ∀ cmd ∈ [Instr.buddyTimeout e, Instr.buddyAnswer e .refused], Gives cmd s fun t =>
    suspectFailed e d s t ∧ bit INT_ERR_BUDDY_FAIL t = true := by
  obtain ⟨hfail, hbit⟩ := buddyFails_spec hd hwin
  have htime : buddyTimeout e s = buddyFails e d s := by
    unfold buddyTimeout
    rw [hd]
    exact if_pos hwaits
  have hrefused : buddyAnswer e .refused s = buddyFails e d s := by
    unfold buddyAnswer
    rw [hd]
    dsimp only
    rw [hwaits, hx]
  intro cmd hcmd
  simp only [List.mem_cons, List.not_mem_nil, or_false] at hcmd
  rcases hcmd with rfl | rfl
  · exact gives_run_of (g := buddyFails e d) rfl htime ⟨suspectFailed_after hfail, (bit_after _ _ s).trans hbit⟩
  · exact gives_run_of (g := buddyFails e d) rfl hrefused ⟨suspectFailed_after hfail, (bit_after _ _ s).trans hbit⟩

omit hwin in
theorem buddy_accepts (hwit : ∀ p, x.witness = some p → p < 304) (hsounds : SoundsHere s) :
    Gives (.buddyAnswer e (.digest (resultDigest d.result))) s fun t => entryDone e t ∧ counts (INT_CNT 4) 1 s t ∧ SameMem s t ∧
      (eKind d.words = kTensor → counts (SPN_CNT_TILES (eSpindle d.words)) 1 s t) := by
  obtain ⟨hwork, hdone, hcount, htiles⟩ := acceptOwn_counted hd (o := INT_CNT 4) (by decide)
  obtain ⟨u, hu⟩ : ∃ u, u = acceptOwn e (bump64 (INT_CNT 4) 1 s) := ⟨_, rfl⟩
  have hf : buddyAnswer e (.digest (resultDigest d.result)) s = strikeWitness x u := by
    unfold buddyAnswer
    rw [hd]
    dsimp only
    rw [hwaits, hx, hu]
    exact if_pos rfl
  rw [← hu] at hwork hdone hcount htiles
  have hmem : SameMem s u := hwork.sameMem
  have hsounds : SoundsHere u := by
    obtain ⟨⟨r, c, n, hform⟩, -⟩ := hwork
    rw [hform]
    exact hsounds
  have hstruck : entryDone e (strikeWitness x u) ∧ counts (INT_CNT 4) 1 s (strikeWitness x u) ∧ SameMem s (strikeWitness x u) ∧
      (eKind d.words = kTensor → counts (SPN_CNT_TILES (eSpindle d.words)) 1 s (strikeWitness x u)) := by
    unfold strikeWitness
    split
    next p hp =>
      split
      · obtain ⟨⟨r, k, so, n, hform⟩, hother, -, hfar⟩ := strike_spec (hwit p hp) u
        obtain ⟨t, ht⟩ : ∃ t, t = strike p u := ⟨_, rfl⟩
        rw [← ht] at hform hother hfar ⊢
        refine ⟨?_, ?_, fun a => ?_, fun hk => ?_⟩
        · unfold entryDone at hdone ⊢
          rw [← hdone, hform]
          exact congrArg (Option.map _) (dispAt_congr rfl)
        · unfold counts at hcount ⊢
          rw [hother _ (.inr rfl), hcount]
        · rw [hform]
          exact hmem a
        · have hc := htiles hk
          unfold counts at hc ⊢
          rw [hfar hsounds _ (by unfold SPN_CNT_TILES; omega), hc]
      · exact ⟨hdone, hcount, hmem, htiles⟩
    · exact ⟨hdone, hcount, hmem, htiles⟩
  rw [← hf] at hstruck
  obtain ⟨h1, h2, h3, h4⟩ := hstruck
  exact gives_run (f := buddyAnswer e (.digest (resultDigest d.result))) rfl
    ⟨entryDone_after h1, counts_after h2, sameMem_after h3, fun hk => counts_after (h4 hk)⟩

theorem buddy_replaces (hprod : x.producer < 304) {h : BitVec 384} {l : List W32} (hne : h ≠ resultDigest d.result)
    (hl : x.local_ = some l) (heq : h = resultDigest l) : Gives (.buddyAnswer e (.digest h)) s fun t =>
      entryDone e t ∧ landed (outPlace d.words) (outForm d.words l) s t ∧ counts (INT_CNT 4) 1 s t := by
  have hf : buddyAnswer e (.digest h) s = strikeProducer x (acceptNew e l (bump64 (INT_CNT 4) 1 s)) := by
    unfold buddyAnswer
    rw [hd]
    dsimp only
    rw [hwaits, hx]
    dsimp only
    rw [if_neg hne, hl]
    exact if_pos heq
  obtain ⟨hdisp, hland, hcount, -⟩ := acceptNew_counted hd hwin hprod l (o := INT_CNT 4) (.inr rfl)
  rw [← hf] at hdisp hland hcount
  refine gives_run (f := buddyAnswer e (.digest h)) rfl ⟨entryDone_after ?_, landed_after hland, counts_after hcount⟩
  unfold entryDone
  rw [hdisp]
  rfl

theorem buddy_rejects {h : BitVec 384} {l : List W32} (hne : h ≠ resultDigest d.result) (hl : x.local_ = some l)
    (hnl : h ≠ resultDigest l) : Gives (.buddyAnswer e (.digest h)) s fun t => suspectFailed e d s t := by
  have hf : buddyAnswer e (.digest h) s = failEntry e s := by
    unfold buddyAnswer
    rw [hd]
    dsimp only
    rw [hwaits, hx]
    dsimp only
    rw [if_neg hne, hl]
    exact if_neg hnl
  exact gives_run_of (g := failEntry e) rfl hf (suspectFailed_after (failEntry_spec hd hwin).1)

end

/-! ### This package is asked as a buddy -/

/-- What a package must hold to serve as a buddy. -/
def Serves (c : Nat) (id : W64) (s : State) : Prop :=
  ctxExists c s = true ∧ rd (WV_ID c) s = id ∧ (spares 0 s ≠ [] ∨ spares 1 s ≠ [])

theorem serves_iff (c : Nat) (id : W64) (s : State) :
    (ctxExists c s && rd (WV_ID c) s == id && (!(spares 0 s).isEmpty || !(spares 1 s).isEmpty)) = true ↔ Serves c id s := by
  simp only [Serves, Bool.and_eq_true, Bool.or_eq_true, Bool.not_eq_true', beq_iff_eq, List.isEmpty_eq_false_iff, and_assoc]

section
variable {src : BitVec 10} {tag : W16} {c : BitVec 6} {id : W64} {r : BuddyRequest} {s : State}

theorem sent_after {m : Sent} {f : State → State} {s : State} (h : m ∈ (f s).sent) : m ∈ (after f s).sent := by
  obtain ⟨x, l, hirq⟩ := irqSettle_sends s (f s)
  unfold after tidy
  rw [hirq]
  exact List.mem_append_left l h

theorem buddyRequest_serves {rows : List W32} (hserves : Serves c.toNat id s) (hrows : buddyRows c.toNat r s = some rows)
    (hue : r.env.memUe = []) (hce : r.env.memCe = []) : Gives (.buddyRequest src tag c id r) s fun t =>
      .buddyAnswer src.toNat tag (some (resultDigest rows)) ∈ t.sent ∧ counts (INT_CNT 6) 1 s t ∧ RegsOnly [INT_CNT 6] s t := by
  have hf : buddyServe src.toNat tag.toNat c.toNat id r s =
      send (.buddyAnswer src.toNat tag (some (resultDigest rows))) (bump64 (INT_CNT 6) 1 s) := by
    unfold buddyServe
    dsimp only
    rw [(serves_iff c.toNat id s).mpr hserves, hrows]
    dsimp only
    rw [memEnv_sound hue hce, BitVec.ofNat_toNat, BitVec.setWidth_eq]
  refine gives_run_of (g := fun _ => send (.buddyAnswer src.toNat tag (some (resultDigest rows))) (bump64 (INT_CNT 6) 1 s)) rfl hf
    ⟨sent_after (List.mem_append_right _ (List.mem_singleton_self _)), counts_after (counts_bump64 _ _ s), regsOnly_after ?_⟩
  exact ⟨rfl, fun _ => ⟨rfl, rfl⟩, fun _ => rfl, (registers_wr _ _ s).2⟩

theorem buddyRequest_refuses (hno : ¬ Serves c.toNat id s) : Gives (.buddyRequest src tag c id r) s fun t =>
    .buddyAnswer src.toNat tag none ∈ t.sent ∧ RegsOnly [] s t := by
  have hf : buddyServe src.toNat tag.toNat c.toNat id r s = send (.buddyAnswer src.toNat tag none) s := by
    unfold buddyServe
    dsimp only
    rw [Bool.eq_false_iff.mpr fun h => hno ((serves_iff c.toNat id s).mp h)]
    dsimp only
    rw [BitVec.ofNat_toNat, BitVec.setWidth_eq]
  refine gives_run_of (g := send (.buddyAnswer src.toNat tag none)) rfl hf
    ⟨sent_after (List.mem_append_right _ (List.mem_singleton_self _)), regsOnly_after ?_⟩
  exact ⟨rfl, fun _ => ⟨rfl, rfl⟩, fun _ => rfl, fun _ _ => rfl⟩

end

end Sys2Proof.Machine
end

section
/-! PROOFS. The request to a buddy as an operation of the fabric (R292, R371). -/

namespace Sys2Proof.Machine

open Sys2Proof.Safety

/-! ### What an operation of a unit changes at its issue -/

/-- Registers that the fabric writes when an operation leaves or ends at once. -/
def fabricRegs : List Nat := [GLD_CNT 0, GLD_CNT 6, GLD_ERR, GLD_ERR_INFO]

/-- The fabric took an operation: its own state changes. -/
def Fabric (s t : State) : Prop := (∃ r m n g, t = { s with regs := r, sent := m, free := n, gld := g }) ∧ SameRegs fabricRegs s t

theorem fabric_refl (s : State) : Fabric s s := ⟨⟨_, _, _, _, rfl⟩, fun _ _ => rfl⟩

theorem Fabric.trans {s t u : State} (h : Fabric s t) (h' : Fabric t u) : Fabric s u := by
  obtain ⟨⟨r, m, n, g, rfl⟩, hr⟩ := h
  obtain ⟨⟨r', m', n', g', rfl⟩, hr'⟩ := h'
  exact ⟨⟨r', m', n', g', rfl⟩, fun o ho => (hr' o ho).trans (hr o ho)⟩

theorem fabric_wr {o : Nat} (h : o ∈ fabricRegs) (v : W64) (s : State) : Fabric s (wr o v s) :=
  ⟨⟨_, s.sent, s.free, s.gld, rfl⟩, fun p hp => rd_wr_other (fun he => hp (by rw [he]; exact h)) v s⟩

theorem fabric_modGld (f : Gld → Gld) (s : State) : Fabric s (modGld f s) := ⟨⟨s.regs, s.sent, s.free, _, rfl⟩, fun _ _ => rfl⟩

theorem Routed.fabric {l : List Nat} {s t : State} (h : Routed l s t) (hl : l ⊆ fabricRegs) : Fabric s t := by
  obtain ⟨⟨r, m, n, p, c, rfl⟩, hr⟩ := h
  exact ⟨⟨r, m, n, _, rfl⟩, fun o ho => hr o fun hm => ho (hl hm)⟩

theorem fabric_setFlds {l : List (FRef × Nat)} (h : ∀ p ∈ l, p.1.off ∈ fabricRegs) (s : State) : Fabric s (setFlds l s) := by
  induction l generalizing s with
  | nil => exact fabric_refl s
  | cons p l ih =>
    exact (fabric_wr (h p List.mem_cons_self) _ s).trans (ih (fun q hq => h q (List.mem_cons_of_mem _ hq)) _)

theorem fabric_statusFlags (c node : Nat) (s : State) : Fabric s (statusFlags stTargetDead c node s) := by
  have hset (f : FRef) (hf : f.off = GLD_ERR) (u : State) : Fabric u (setErr f u) := fabric_wr (by rw [hf]; simp [fabricRegs]) _ u
  have herr : Fabric s (gldErr GLD_ERR_TARGET_DEAD c stTargetDead node s) := by
    unfold gldErr raiseLatch
    split
    · refine (fabric_setFlds ?_ s).trans (hset _ rfl _)
      simp [fabricRegs, GLD_ERR_INFO_CONTEXT, GLD_ERR_INFO_STATUS, GLD_ERR_INFO_NODE]
    · exact hset _ rfl s
  exact herr.trans ⟨⟨_, _, _, _, rfl⟩, fun _ _ => rfl⟩

/-- An operation that a unit sends to a buddy. -/
def Asks (o : FabricOp) : Prop := o.spindle = none ∧ o.hdr.opcode.toNat = ocSend ∧ o.hdr.tc = 2

theorem issueVerdict_send {o : FabricOp} (h : Asks o) (s : State) :
    issueVerdict o s = (if !nodeValid s || !reachable o.hdr.dest.toNat s then some stTargetDead else none, false) := by
  obtain ⟨hsp, hoc, -⟩ := h
  have hm : membersOf o.hdr s = [o.hdr.dest.toNat] := by
    unfold membersOf
    rw [hoc]
    exact if_neg (by decide)
  unfold issueVerdict
  dsimp only
  rw [hm, hoc, hsp]
  have hput : (ocSend == ocPut || ocSend == ocPutSignal || ocSend == ocGet) = false := by decide
  have hsend : (ocSend != ocSend) = false := by decide
  simp only [Option.isSome_none, Bool.and_false, Bool.false_and, hput, hsend, List.all_cons, List.all_nil, Bool.and_true,
    Bool.false_eq_true, if_false]
  split
  · rfl
  · rfl

/-- The operation as it is outstanding: source, tag and path are in its header. -/
def askedOp (o : FabricOp) (c : Nat) (path : Nat × Nat) (s : State) : FabOp :=
  { hdr := issueHdr o c (freeTag s) path.1 path.2 false false s, payload := o.payload, owner := .buddy, ctx := c, wait := o.wait
    way := false
    sent := !paired (issueHdr o c (freeTag s) path.1 path.2 false false s) false s || s.sec.pairs.contains o.hdr.dest.toNat }

/-- It is outstanding. -/
def outstanding (x : FabOp) (s : State) : State := modGld (fun g => { g with nextTag := (freeTag s + 1) % 65536 }) (setOp (freeTag s) x s)

/-- It leaves, or waits for the pair session that it asks for. -/
def departs (dest : Nat) (x : FabOp) (s : State) : State :=
  let u := if paired x.hdr false (outstanding x s) then askPair dest (outstanding x s) else outstanding x s
  if !x.sent then u else sendOp x u

theorem launch_eq {o : FabricOp} (h : Asks o) (c : Nat) {s u : State} (hu : u = { s with free := s.free + 1 }) :
    ∃ tie < 8, launch o .buddy c false s =
      departs o.hdr.dest.toNat (askedOp o c ((pathOf (ownPos u) (posOf o.hdr.dest.toNat) tie u).getD (0, 0)) u) u := by
  obtain ⟨-, hoc, -⟩ := h
  obtain ⟨htie, hfree⟩ := tieBits_spec (classOf o.hdr false).toNat s
  refine ⟨(tieBits (classOf o.hdr false).toNat s).1, htie, ?_⟩
  rw [← hu] at hfree
  unfold launch
  generalize tieBits (classOf o.hdr false).toNat s = y at hfree
  obtain ⟨tie, v⟩ := y
  dsimp only at hfree ⊢
  subst hfree
  have hmcast : (ocSend = ocMcast) = False := by decide
  have hwait : (o.wait || ocSend == ocGet || ocSend == ocAtomic) = o.wait := by
    rw [show (ocSend == ocGet) = false by decide, show (ocSend == ocAtomic) = false by decide, Bool.or_false, Bool.or_false]
  simp only [hoc, hmcast, hwait, if_false, decide_false, Bool.false_and, Bool.not_false, Bool.true_and, Bool.false_eq_true]
  rfl

theorem fabric_askPair (node : Nat) (s : State) : Fabric s (askPair node s) := by
  unfold askPair
  split
  · exact fabric_refl s
  · exact (routed_leaveBy _ _ s).fabric (by simp [fabricRegs])

theorem fabric_outstanding (x : FabOp) (s : State) : Fabric s (outstanding x s) := (fabric_modGld _ s).trans (fabric_modGld _ _)

theorem fabric_departs (dest : Nat) (x : FabOp) (s : State) : Fabric s (departs dest x s) := by
  unfold departs
  extract_lets u
  have hu : Fabric s u := by
    unfold u
    split
    · exact (fabric_outstanding x s).trans (fabric_askPair dest _)
    · exact fabric_outstanding x s
  split
  · exact hu
  · exact hu.trans ((routed_sendOp x u).fabric (by simp [fabricRegs]))

theorem fabric_issue {o : FabricOp} (h : Asks o) (c : Nat) (s : State) : Fabric s (issue o .buddy c s) := by
  have hcnt : Fabric s (bump64 (GLD_CNT 0) 1 s) := fabric_wr (by simp [fabricRegs]) _ s
  unfold issue
  dsimp only
  rw [issueVerdict_send h]
  split
  next st w hv =>
    obtain ⟨hv, -⟩ := Prod.mk.inj hv
    have hst : st = stTargetDead := by
      split at hv
      · exact (Option.some.inj hv).symm
      · cases hv
    rw [hst]
    exact hcnt.trans (fabric_statusFlags _ _ _)
  next way hv =>
    obtain ⟨-, rfl⟩ := Prod.mk.inj hv
    obtain ⟨v, hv⟩ : ∃ v, v = bump64 (GLD_CNT 0) 1 s := ⟨_, rfl⟩
    rw [← hv] at hcnt ⊢
    obtain ⟨u, hu⟩ : ∃ u : State, u = { v with free := v.free + 1 } := ⟨_, rfl⟩
    obtain ⟨tie, -, hl⟩ := launch_eq h c hu
    have hvu : Fabric v u := by
      rw [hu]
      exact ⟨⟨_, _, _, _, rfl⟩, fun _ _ => rfl⟩
    rw [hl]
    exact (hcnt.trans hvu).trans (fabric_departs _ _ _)

theorem fabric_issueOp {o : FabricOp} (h : Asks o) (hv : o.hdr.valueA.getLsbD 63 = true) (s : State) : Fabric s (issueOp o s) := by
  obtain ⟨hsp, hoc, -⟩ := id h
  unfold issueOp
  rw [hsp]
  dsimp only
  split
  · exact fabric_refl s
  · split
    · rw [if_pos (by rw [hoc, hv]; decide)]
      exact fabric_issue h _ s
    · exact fabric_modGld _ s

/-! ### The packet that leaves -/

theorem pickDir_le {pos k t b : Nat} {tie : Bool} {s : State} (h : pickDir pos k t tie s = some b) : b ≤ 1 := by
  unfold pickDir at h
  dsimp only at h
  have htie : tie.toNat ≤ 1 := Bool.toNat_le tie
  split_ifs at h <;> (obtain rfl := Option.some.inj h) <;> omega

theorem pathDims_le (dst tie : Nat) (s : State) (l : List Nat) (pos d : Nat) (h : pathDims dst tie s l pos = some d) :
    d ≤ (l.map (2 ^ ·)).sum := by
  induction l generalizing pos d with
  | nil => rw [show d = 0 from (Option.some.inj h).symm]; exact Nat.zero_le _
  | cons k rest ih =>
    unfold pathDims at h
    dsimp only at h
    split at h
    · cases h
    next b hb =>
      split at h
      · cases h
      next d' hd' =>
        have hb1 : b ≤ 1 := pickDir_le hb
        obtain rfl := Option.some.inj h
        have hrest := ih _ _ hd'
        have hmul : b * 2 ^ k ≤ 2 ^ k := by
          calc b * 2 ^ k ≤ 1 * 2 ^ k := Nat.mul_le_mul_right _ hb1
            _ = 2 ^ k := Nat.one_mul _
        simp only [List.map_cons, List.sum_cons]
        omega

theorem pathOf_lt {src dst tie : Nat} {s : State} {x : Nat × Nat} (h : pathOf src dst tie s = some x) : x.1 < 4 ∧ x.2 < 8 := by
  unfold pathOf at h
  obtain ⟨o, ho, hx⟩ := List.exists_of_findSome?_eq_some h
  obtain ⟨d, hd, rfl⟩ := Option.map_eq_some_iff.mp hx
  have hle := pathDims_le _ _ _ _ _ _ hd
  have horder : ∀ o ∈ [0, 1, 2], o < 4 ∧ ((orderDims o).map (2 ^ ·)).sum < 8 := by decide
  obtain ⟨h4, h8⟩ := horder o ho
  exact ⟨h4, Nat.lt_of_le_of_lt hle h8⟩

end Sys2Proof.Machine
end

section
/-! PROOFS. A suspect whose buddy is asked (R370, R371). -/

namespace Sys2Proof.Machine

open Sys2Proof.Safety

/-! ### The last packet of a request -/

/-- The router has a way for packets of header h: to the package itself, or out of a port. -/
def Leads (h : ReqHeader) (s : State) : Prop :=
  h.dest.toNat = myNode s ∨ (outHop h.src.toNat h.dest.toNat h.order.toNat h.dir.toNat h.tc.toNat s).isSome = true

theorem leads_congr {h : ReqHeader} {s t : State} (hr : SameRouter s t) (hl : Leads h s) : Leads h t := by
  unfold Leads at hl ⊢
  rw [myNode_congr hr, outHop_isSome_congr hr]
  exact hl

theorem closeEntries_send {h : ReqHeader} (hoc : h.opcode.toNat = ocSend) (keep : Combine → Bool) (s : State) : closeEntries h keep s = s := by
  unfold closeEntries
  dsimp only
  rw [hoc]
  exact if_pos (by decide)

theorem sendPkt_hands {x : FabOp} {s : State} (hway : x.way = false) (hoc : x.hdr.opcode.toNat = ocSend) (hl : Leads x.hdr s) (k : Nat) :
    ∃ p, handed (.packet p) (sendPkt x k false s) ∧ p.hdr = { x.hdr with pktOff := BitVec.ofNat 32 k, retx := false } := by
  unfold sendPkt
  extract_lets h pay hk p
  refine ⟨p, ?_, rfl⟩
  have hph : p.hdr.opcode.toNat = ocSend := hoc
  rw [if_neg (by rw [hway]; decide), if_neg (by rw [show h.opcode.toNat = ocSend from hoc]; decide)]
  unfold emit
  rw [closeEntries_send hph]
  dsimp only
  split
  · exact .inl (List.mem_append_right _ (List.mem_singleton_self _))
  next hown => exact (leaveBy_spec (hl.resolve_left hown) _ s).2

theorem pktOffs_ne_nil (n : Nat) : pktOffs n ≠ [] := by
  unfold pktOffs
  split
  · exact nofun
  · intro h
    have hlen := congrArg List.length h
    simp only [List.length_map, List.length_range, List.length_nil] at hlen
    omega

theorem sendOp_hands {x : FabOp} {s : State} (hway : x.way = false) (hoc : x.hdr.opcode.toNat = ocSend) (hl : Leads x.hdr s) :
    ∃ p k, handed (.packet p) (sendOp x s) ∧ p.hdr = { x.hdr with pktOff := k, retx := false } := by
  have hoffs : opOffs x.hdr = pktOffs x.hdr.length.toNat := by
    unfold opOffs
    rw [hoc]
    exact if_neg (by decide)
  have hcarries : carries x.hdr.opcode.toNat = true := by
    rw [hoc]
    decide
  unfold sendOp
  rw [if_pos hcarries, hoffs]
  obtain ⟨l, k, hlk⟩ := (List.eq_nil_or_concat (pktOffs x.hdr.length.toNat)).resolve_left (pktOffs_ne_nil _)
  rw [hlk, List.concat_eq_append, List.foldl_append]
  obtain ⟨u, hu⟩ : ∃ u, u = l.foldl (fun s k => sendPkt x k false s) s := ⟨_, rfl⟩
  have hrouted : Routed [GLD_CNT 6] s u := by
    rw [hu]
    exact routed_foldl (fun s k => routed_sendPkt x k false s) l s
  have hrouter : SameRouter s u := by
    obtain ⟨⟨r, m, n, p, c, hform⟩, hregs⟩ := hrouted
    refine sameRouter_of_regs (by rw [hform]) hregs (by decide) fun p hp => ?_
    simp only [List.mem_cons, List.not_mem_nil, or_false, GLD_PORT_STATUS, GLD_CNT]
    omega
  rw [← hu]
  obtain ⟨p, hp, hhdr⟩ := sendPkt_hands hway hoc (leads_congr hrouter hl) k
  exact ⟨p, _, hp, hhdr⟩

/-! ### The request is outstanding and leaves -/

theorem freeTag_lt (s : State) : freeTag s < 65536 := by
  unfold freeTag
  cases hf : ((List.range 4097).map fun i => (s.gld.nextTag + i) % 65536).find? (fun t => (op? t s).isNone) with
  | none => exact Nat.zero_lt_succ _
  | some t =>
    obtain ⟨i, -, rfl⟩ := List.mem_map.mp (List.mem_of_find?_eq_some hf)
    exact Nat.mod_lt _ (by decide)

theorem op?_outstanding (x : FabOp) (s : State) : op? (freeTag s) (outstanding x s) = some x := find?_ins_same _ _ _

theorem op?_routed {l : List Nat} {tag : Nat} {s t : State} (h : Routed l s t) : op? tag t = op? tag s := by
  obtain ⟨⟨r, m, n, p, c, rfl⟩, -⟩ := h
  rfl

/-- The operation o of context c is outstanding and one of its packets has left. -/
def RequestSent (o : FabricOp) (c : Nat) (t : State) : Prop :=
  ∃ p tag x k order dir, handed (.packet p) t ∧ op? tag t = some x ∧ x.owner = .buddy ∧ x.payload = o.payload ∧ p.hdr.tag.toNat = tag ∧
    p.hdr = { o.hdr with src := p.hdr.src, srcCtx := BitVec.ofNat 6 c, tag := p.hdr.tag, retx := false, fenced := false, order := order
                         dir := dir, pktOff := k, tc := 2 }

theorem classOf_asks {o : FabricOp} (h : Asks o) : classOf o.hdr false = 2 := by
  obtain ⟨-, hoc, htc⟩ := h
  unfold classOf
  rw [hoc, htc]
  rfl

theorem departs_sends {o : FabricOp} (h : Asks o) (c : Nat) {s : State} (hdom : sameDomain o.hdr.dest.toNat s = true)
    (hroute : routable o.hdr.dest.toNat s) {tie : Nat} (htie : tie < 8) :
    RequestSent o c (departs o.hdr.dest.toNat (askedOp o c ((pathOf (ownPos s) (posOf o.hdr.dest.toNat) tie s).getD (0, 0)) s) s) := by
  obtain ⟨-, hoc, -⟩ := id h
  have hpath := hroute.resolve_left (fun hfar => by rw [hfar.1] at hdom; cases hdom)
  obtain ⟨path, hpath, hhop⟩ := hpath tie htie
  obtain ⟨horder, hdir⟩ := pathOf_lt hpath
  rw [hpath, Option.getD_some]
  obtain ⟨x, hx⟩ : ∃ x, x = askedOp o c path s := ⟨_, rfl⟩
  have hhdr : x.hdr = issueHdr o c (freeTag s) path.1 path.2 false false s := by rw [hx]; rfl
  have hxoc : x.hdr.opcode.toNat = ocSend := by rw [hhdr]; exact hoc
  have hxdest : x.hdr.dest = o.hdr.dest := by rw [hhdr]; rfl
  have hunpaired (u : State) (hu : myNode u = myNode s) : paired x.hdr false u = false := by
    have hd : sameDomain x.hdr.dest.toNat u = true := by
      rw [← hdom, hxdest]
      unfold sameDomain
      rw [hu]
    unfold paired
    rw [hd]
    rfl
  have hsent : x.sent = true := by
    have hs : x.sent = (!paired x.hdr false s || s.sec.pairs.contains o.hdr.dest.toNat) := by rw [hhdr, hx]; rfl
    rw [hs, hunpaired s rfl]
    rfl
  obtain ⟨u, hu⟩ : ∃ u, u = outstanding x s := ⟨_, rfl⟩
  have hform : departs o.hdr.dest.toNat x s = sendOp x u := by
    unfold departs
    rw [← hu, hunpaired u (by rw [hu]; rfl), hsent]
    rfl
  have hrouter : SameRouter s u := by
    rw [hu]
    exact ⟨rfl, rfl, fun _ _ => rfl⟩
  have hleads : Leads x.hdr s := by
    refine .inr ?_
    rw [hhdr]
    show (outHop _ o.hdr.dest.toNat (BitVec.ofNat 2 path.1).toNat (BitVec.ofNat 3 path.2).toNat _ s).isSome = true
    rw [BitVec.toNat_ofNat, BitVec.toNat_ofNat, Nat.mod_eq_of_lt horder, Nat.mod_eq_of_lt hdir,
      outHop_isSome_congr (s := s) ⟨rfl, rfl, fun _ _ => rfl⟩ _ (myNode s) _ _ _ _ 0]
    exact hhop
  obtain ⟨p, k, hp, hphdr⟩ := sendOp_hands (by rw [hx]; rfl) hxoc (leads_congr hrouter hleads)
  rw [← hx, hform]
  refine ⟨p, freeTag s, x, k, BitVec.ofNat 2 path.1, BitVec.ofNat 3 path.2, hp, ?_, by rw [hx]; rfl, by rw [hx]; rfl, ?_, ?_⟩
  · rw [op?_routed (routed_sendOp x u), hu]
    exact op?_outstanding x s
  · rw [hphdr, hhdr]
    show (BitVec.ofNat 16 (freeTag s)).toNat = _
    rw [BitVec.toNat_ofNat, Nat.mod_eq_of_lt (freeTag_lt s)]
  · rw [hphdr, hhdr]
    unfold issueHdr
    dsimp only
    rw [classOf_asks h]

end Sys2Proof.Machine
end

section
/-! PROOFS. Suspects as the commands on replays and buddies leave them (R367 to R371). -/

namespace Sys2Proof.Machine

open Sys2Proof.Safety

/-! ### The request to a buddy -/

theorem buddyOp_congr {c : Nat} {d d' : Disp} {s t : State} (hw : d'.words = d.words) (hwiden : d'.widen = d.widen) (hm : t.mem = s.mem)
    (hid : rd (WV_ID c) t = rd (WV_ID c) s) (hstep : rd (WV_STEP c) t = rd (WV_STEP c) s) (hbuddy : rd (INT_BUDDY c) t = rd (INT_BUDDY c) s) :
    buddyOp c d' t = buddyOp c d s := by
  have hnode : fld (INT_BUDDY_NODE c) t = fld (INT_BUDDY_NODE c) s := fld_congr_rd (f := INT_BUDDY_NODE c) hbuddy
  have hctx : fld (INT_BUDDY_CONTEXT c) t = fld (INT_BUDDY_CONTEXT c) s := fld_congr_rd (f := INT_BUDDY_CONTEXT c) hbuddy
  have hmsg : buddyMessage c d' t = buddyMessage c d s := by
    unfold buddyMessage
    rw [hid, hstep, hw, hwiden, srcRows_congr hm]
  unfold buddyOp
  rw [hmsg, hnode, hctx]

theorem asks_buddyOp (c : Nat) (d : Disp) (s : State) : Asks (buddyOp c d s) := ⟨rfl, rfl, rfl⟩

theorem askBuddy_asks {e : EntryRef} {d : Disp} {s u : State} (hd : dispAt e s = some d) (hv : bit (INT_BUDDY_VALID e.ctx.toNat) s = true)
    (hk : eKind d.words = kTensor) (hu : u = setDisp e { d with susp := d.susp.map fun x => { x with buddy := true } } s) :
    askBuddy e s = issueOp (buddyOp e.ctx.toNat d u) (bump64 (INT_CNT 3) 1 u) := by
  unfold askBuddy
  rw [hd]
  dsimp only
  rw [hv, hk, if_pos (by decide), modDisp_eq hd, ← hu]

theorem reachable_congr {node : Nat} {s t : State} (hr : SameRouter s t) (h : ∀ k < 2, rd (GLD_REACH k) t = rd (GLD_REACH k) s) :
    reachable node t = reachable node s := by
  have hvalid : nodeValid t = nodeValid s := by
    unfold nodeValid bit
    rw [fld_congr_rd (f := GLD_NODE_VALID) hr.2.1]
  have hbit : bit ⟨GLD_REACH (posOf node / 64), posOf node % 64, posOf node % 64⟩ t =
      bit ⟨GLD_REACH (posOf node / 64), posOf node % 64, posOf node % 64⟩ s := by
    unfold bit
    rw [fld_congr_rd (f := ⟨GLD_REACH (posOf node / 64), posOf node % 64, posOf node % 64⟩) (h _ (by unfold posOf; omega))]
  unfold reachable
  dsimp only
  rw [hvalid, sameDomain_congr hr, myNode_congr hr, hbit, portUpNow_congr hr (by decide)]

/-- A request to a node that can be reached is outstanding, and leaves. -/
theorem issueOp_sends {o : FabricOp} (h : Asks o) (hv : o.hdr.valueA.getLsbD 63 = true) {s : State} (hlive : ctxLive o.ctx.toNat s = true)
    (hroom : s.gld.ops.length < 4096) (hreach : reachable o.hdr.dest.toNat s = true) (hdom : sameDomain o.hdr.dest.toNat s = true)
    (hroute : routable o.hdr.dest.toNat s) : RequestSent o o.ctx.toNat (issueOp o s) := by
  obtain ⟨hsp, hoc, -⟩ := id h
  obtain ⟨v, hv0⟩ : ∃ v, v = bump64 (GLD_CNT 0) 1 s := ⟨_, rfl⟩
  have hregs : Registers [GLD_CNT 0] s v := by
    rw [hv0]
    exact registers_wr _ _ s
  have hfar (i : Nat) (hi : i ≠ GLD_CNT 0) : rd i v = rd i s := hregs.2 i (by simpa using hi)
  have hrouter : SameRouter s v := by
    refine ⟨by rw [hv0]; rfl, hfar _ (by decide), fun p _ => hfar _ ?_⟩
    unfold GLD_PORT_STATUS GLD_CNT
    omega
  have hreachv : reachable o.hdr.dest.toNat v = true := by
    rw [reachable_congr hrouter (fun k hk => hfar _ (by unfold GLD_REACH GLD_CNT; omega)), hreach]
  have hvalid : nodeValid v = true := by
    unfold reachable at hreachv
    simp only [Bool.and_eq_true] at hreachv
    exact hreachv.1.1
  obtain ⟨u, hu⟩ : ∃ u : State, u = { v with free := v.free + 1 } := ⟨_, rfl⟩
  have hrouteru : SameRouter s u := by
    rw [hu]
    exact hrouter
  obtain ⟨tie, htie, hlaunch⟩ := launch_eq h o.ctx.toNat hu
  have hverdict : issueVerdict o v = (none, false) := by
    rw [issueVerdict_send h, hvalid, hreachv]
    rfl
  have hform : issueOp o s = launch o .buddy o.ctx.toNat false v := by
    have hr : opRoom s = true := decide_eq_true hroom
    unfold issueOp
    rw [hsp]
    dsimp only
    rw [hlive, if_neg (by decide), hr, if_pos rfl, if_pos (by rw [hoc, hv]; decide)]
    unfold issue
    rw [← hv0]
    dsimp only
    rw [hverdict]
  rw [hform, hlaunch]
  exact departs_sends h o.ctx.toNat (by rw [sameDomain_congr hrouteru, hdom]) (routable_congr hrouteru hroute) htie

theorem requestSent_after {o : FabricOp} {c : Nat} {f : State → State} {s : State} (h : RequestSent o c (f s)) :
    RequestSent o c (after f s) := by
  obtain ⟨p, tag, x, k, order, dir, hp, hop, hrest⟩ := h
  refine ⟨p, tag, x, k, order, dir, handed_after hp, ?_, hrest⟩
  unfold op?
  rw [after_gld]
  exact hop

theorem buddySent_of {c : Nat} {d : Disp} {s t : State} (h : RequestSent (buddyOp c d s) c t) : buddySent c d s t := by
  obtain ⟨p, tag, x, k, order, dir, hp, hop, howner, hpay, htag, hhdr⟩ := h
  have hnode : fld (INT_BUDDY_NODE c) s < 2 ^ 10 := fldOf_lt _ _
  have hctx : fld (INT_BUDDY_CONTEXT c) s < 2 ^ 6 := fldOf_lt _ _
  refine ⟨p, tag, x, hp, hop, howner, hpay, htag, ?_, ?_, ?_, ?_, ?_, ?_⟩
  · rw [hhdr]
    rfl
  · rw [hhdr]
  · rw [hhdr]
    show (BitVec.ofNat 64 (2 ^ 63)).getLsbD 63 = true
    decide
  · rw [hhdr]
    show (BitVec.ofNat 10 (fld (INT_BUDDY_NODE c) s)).toNat = _
    rw [BitVec.toNat_ofNat, Nat.mod_eq_of_lt hnode]
  · rw [hhdr]
    show (BitVec.ofNat 6 (fld (INT_BUDDY_CONTEXT c) s)).toNat = _
    rw [BitVec.toNat_ofNat, Nat.mod_eq_of_lt hctx]
  · rw [hhdr]
    exact BitVec.toNat_ofNat _ _

/-! ### A flagged replay of a tile -/

section
variable {e : EntryRef} {d : Disp} {p : Nat} {s : State} {result : List W32} {flag : Bool} {env : UnitEnv} {x : Suspect}
  (hd : dispAt e s = some d) (hp : p < 304) (hph : phState p s = phWitness) (hst : d.st = .suspect)
  (hkind : eKind d.words = kTensor) (hx : d.susp = some x) (hwit : x.witness = some p) (hloc : x.local_ = none)
  (hreef : x.reef = false) (hue : env.memUe = []) (hce : env.memCe = []) (hwait : replayWaits e d s = false)
include hd hp hph hst hkind hx hwit hloc hreef hue hce hwait

theorem witnessComplete_asks (h : (witnessed e d result flag env s).1 ≠ d.result) (hflag : (witnessed e d result flag env s).2 = true)
    (hb : bit (INT_BUDDY_VALID e.ctx.toNat) s = true) : Gives (.witnessComplete e result flag env) s fun t =>
      dispAt e t = some { d with susp := some { x with local_ := some (witnessed e d result flag env s).1, buddy := true } } ∧
        counts (INT_CNT 3) 1 s t ∧ (buddyNear e.ctx.toNat s → buddySent e.ctx.toNat d s t) := by
  obtain ⟨hregs, -, -⟩ := replayed_spec (e := e) (d := d) hp hph env
  have hf := witnessComplete_eq (result := result) (flag := flag) hd hp hph hst (.inl hkind) hx hwit hloc hreef hue hce hwait
  obtain ⟨v, hv⟩ : ∃ v, v = replayed e d p env s := ⟨_, rfl⟩
  rw [← hv] at hregs hf
  have hdv := hregs.dispAt.trans hd
  obtain ⟨y, hy⟩ : ∃ y : Disp, y = { d with susp := some { x with local_ := some (witnessed e d result flag env s).1 } } := ⟨_, rfl⟩
  obtain ⟨y', hy'⟩ : ∃ y' : Disp, y' = { d with susp := some { x with local_ := some (witnessed e d result flag env s).1, buddy := true } } :=
    ⟨_, rfl⟩
  rw [hflag, outcome_flagged hdv hx h, ← hy] at hf
  obtain ⟨w, hw⟩ : ∃ w, w = setDisp e y v := ⟨_, rfl⟩
  obtain ⟨z, hz⟩ := setDisp_eq e y v
  have hdw : dispAt e w = some y := by
    rw [hw]
    exact dispAt_setDisp hdv
  obtain ⟨u, hu⟩ : ∃ u, u = setDisp e y' w := ⟨_, rfl⟩
  obtain ⟨z', hz'⟩ := setDisp_eq e y' w
  have hdu : dispAt e u = some y' := by
    rw [hu]
    exact dispAt_setDisp hdw
  have hform : u = { v with ctxs := z' } := by rw [hu, hz', hw, hz]
  have hfar (o : Nat) (ho : o < 0x82000 ∨ 0x83000 ≤ o ∧ o < 0x1000000) : rd o u = rd o s := by
    rw [hform]
    refine hregs.2 o ?_
    simp only [List.mem_cons, List.not_mem_nil, or_false, INT_STRIKES, SPN_CNT_ARRAY_CYC]
    omega
  have hc := e.ctx.isLt
  have hmem : u.mem = s.mem := by
    rw [hform]
    exact hregs.worked.mem
  have hgld : u.gld = s.gld := by
    obtain ⟨r, hr⟩ := hregs.1
    rw [hform, hr]
  have hask : askBuddy e w = issueOp (buddyOp e.ctx.toNat d s) (bump64 (INT_CNT 3) 1 u) := by
    rw [askBuddy_asks (u := u) hdw ?_ (by rw [hy]; exact hkind) (by rw [hu, hy, hy']; rfl),
      buddyOp_congr (d := d) (s := s) (by rw [hy]) (by rw [hy]) hmem (hfar _ (.inl (by unfold WV_ID; omega)))
        (hfar _ (.inl (by unfold WV_STEP; omega))) (hfar _ (.inl (by unfold INT_BUDDY; omega)))]
    rw [← hb]
    unfold bit
    refine congrArg (· != 0) (fld_congr_rd (f := INT_BUDDY_VALID e.ctx.toNat) ?_)
    refine Eq.trans ?_ (hfar (INT_BUDDY e.ctx.toNat) (.inl (by unfold INT_BUDDY; omega)))
    rw [hform, hw, hz]
    rfl
  rw [← hw, hask] at hf
  obtain ⟨q, hq⟩ : ∃ q, q = bump64 (INT_CNT 3) 1 u := ⟨_, rfl⟩
  have hqregs : Registers [INT_CNT 3] u q := by
    rw [hq]
    exact registers_wr _ _ u
  have hcount : counts (INT_CNT 3) 1 u q := by
    rw [hq]
    exact counts_bump64 _ _ u
  rw [← hq] at hf
  have hfab : Fabric q (issueOp (buddyOp e.ctx.toNat d s) q) := fabric_issueOp (asks_buddyOp _ d s) (show (BitVec.ofNat 64 (2 ^ 63)).getLsbD 63 = true by decide) q
  obtain ⟨⟨r, m, n, g, hfabform⟩, hfabregs⟩ := hfab
  refine gives_run (f := witnessComplete e result flag env) rfl ⟨?_, counts_after ?_, fun hnear => ?_⟩
  · rw [dispAt_after, hf, ← hy', ← hdu, ← hqregs.dispAt, hfabform]
    exact dispAt_congr rfl
  · rw [hf]
    unfold counts at hcount ⊢
    rw [hfabregs _ (by decide), hcount, hfar _ (.inl (by decide))]
  · obtain ⟨hlive, hroom, hreach, hdom, hroute⟩ := hnear
    have hqfar (o : Nat) (ho : o < 0x80000 ∨ 0x83000 ≤ o ∧ o < 0x1000000) : rd o q = rd o s :=
      (hqregs.2 o (by simp only [List.mem_cons, List.not_mem_nil, or_false, INT_CNT]; omega)).trans (hfar o (by omega))
    have hqgld : q.gld = s.gld := by
      rw [hq]
      exact hgld
    have hrouter : SameRouter s q := by
      refine ⟨by rw [hqgld], hqfar _ (.inr (by decide)), fun k hk => hqfar _ (.inr ?_)⟩
      unfold GLD_PORT_STATUS
      omega
    have hdest : (buddyOp e.ctx.toNat d s).hdr.dest.toNat = fld (INT_BUDDY_NODE e.ctx.toNat) s := by
      show (BitVec.ofNat 10 (fld (INT_BUDDY_NODE e.ctx.toNat) s)).toNat = _
      rw [BitVec.toNat_ofNat, Nat.mod_eq_of_lt (show fld (INT_BUDDY_NODE e.ctx.toNat) s < 2 ^ 10 from fldOf_lt _ _)]
    have hoctx : (buddyOp e.ctx.toNat d s).ctx.toNat = e.ctx.toNat := by
      show (BitVec.ofNat 6 e.ctx.toNat).toNat = _
      rw [BitVec.toNat_ofNat, Nat.mod_eq_of_lt hc]
    have hliveq : ctxLive e.ctx.toNat q = true := by
      rw [← hlive]
      refine ctxLive_congr (fld_congr_rd (f := CTX_STATE_STATE e.ctx.toNat) (hqfar _ (.inr ?_)))
      simp only [CTX_STATE_STATE, CTX_STATE]
      omega
    have hsent := issueOp_sends (o := buddyOp e.ctx.toNat d s) (asks_buddyOp _ d s) (show (BitVec.ofNat 64 (2 ^ 63)).getLsbD 63 = true by decide)
      (s := q) (by rw [hoctx]; exact hliveq) (by rw [hqgld]; exact hroom)
      (by rw [hdest, reachable_congr hrouter fun k hk => hqfar _ (.inr (by unfold GLD_REACH; omega))]; exact hreach)
      (by rw [hdest, sameDomain_congr hrouter]; exact hdom) (by rw [hdest]; exact routable_congr hrouter hroute)
    rw [hoctx] at hsent
    refine buddySent_of (requestSent_after ?_)
    rw [hf]
    exact hsent

end

/-! ### All of the family -/

theorem witnessing_holds : witnessing := by
  intro e env result flag d s c w n r hd
  refine ⟨witnessReplay_not_due hd, witnessReplay_sample hd, fun p x hdue hk hpick hx => witnessReplay_starts hd hdue hk hpick hx,
    fun hdue hk hpick => ⟨witnessReplay_waits hd hdue hk hpick, fun hs hb hwin => witnessReplay_fails hd hdue hk hpick hs hb hwin⟩,
    fun p x hp hst hk hx hwit hloc hreef hprod hph hwin hue hce => ⟨fun hwait => witnessComplete_waits hd hst hk hx hwit hwait,
      fun hwait => ⟨?_, ?_, ?_, ?_⟩⟩⟩
  · exact fun heq => witnessComplete_accepts hd hp hph hst hk hx hwit hloc hreef hue hce hwait heq
  · exact fun hne hclean => witnessComplete_replaces hd hp hph hst hk hx hwit hloc hreef hue hce hwait hwin hprod hne hclean
  · exact fun hne hflag hb => witnessComplete_fails hd hp hph hst hk hx hwit hloc hreef hue hce hwait hwin hne hflag hb
  · exact fun hne hflag hb hkt => witnessComplete_asks hd hp hph hst hkt hx hwit hloc hreef hue hce hwait hne hflag hb

theorem buddies_hold : buddies := by
  constructor
  · intro e a d s w hd hk
    refine ⟨fun hno => ⟨buddyAnswer_late hd hno a, buddyTimeout_late hd hno⟩, fun x hwaits hx hprod hwit hsounds hwin => ?_⟩
    exact ⟨buddy_fails hd hwaits hx hwin, buddy_accepts hd hwaits hx hwit hsounds, fun h l hne hl =>
      ⟨buddy_replaces hd hwaits hx hwin hprod hne hl, buddy_rejects hd hwaits hx hwin hne hl⟩⟩
  · intro src tag c id r s serves
    exact ⟨fun rows hs hrows hue hce => buddyRequest_serves hs hrows hue hce, fun hno => buddyRequest_refuses hno⟩

/-- Settles O58: the rules of a replay's end, and those of a buddy's answer. -/
theorem suspects : Obligations.Suspects := ⟨witnessing_holds, buddies_hold⟩

end Sys2Proof.Machine
end
